-- ==== Sys2Proof/Word.lean ====
section
/-! DEFINITION. The word types of the device: every register is 32 bits wide (R8). -/

namespace Sys2Proof

/-- A 32-bit register, and the 32-bit short time ST (R64). -/
abbrev Word := BitVec 32

/-- One byte. -/
abbrev Byte := BitVec 8

/-- A 64-bit node UID (R133). -/
abbrev Uid := BitVec 64

/-- A 48-bit MAC address. -/
abbrev Mac := BitVec 48

end Sys2Proof
end

