-- ==== Sys2Proof/Syntax.lean ====
section
/-! DEFINITION. The commands of the block: one constructor of `Instr` for each row of the spec's table of operations and
events, with what the event brings from outside (a frame, a level, a measured value) as its operands. -/

namespace Sys2Proof

/-- A switch die (R12). -/
inductive Die where
  | d0 | d1
  deriving DecidableEq, Repr

/-- An agent that accesses registers: PCIe, the MSPI and the bridge (R487), and the JTAG TAP (R432). -/
inductive Agent where
  | pcie | mspi | bridge | tap
  deriving DecidableEq, Repr

/-- A family member (R1, R2). -/
inductive Part where
  | dn6464 | dn6432 | dn6416
  deriving DecidableEq, Repr

/-- A port number P0 to P63. -/
abbrev Port := Fin 64

/-- A backbone line (R193). -/
inductive Line where
  | a | b
  deriving DecidableEq, Repr

/-- A side of the node (R193): side 1 or side 2. -/
inductive Side where
  | one | two
  deriving DecidableEq, Repr

/-- An input with an asynchronous edge latch (R365). -/
inductive WakeIn where
  | wake (n : Fin 4)
  | cpl (s : Fin 2)
  deriving DecidableEq, Repr

/-- A PLL with a lock bit in CPM_CLK_STAT (R62), in the order of its bits. -/
inductive Pll where
  | core | time | mgmt | klnk | host | field
  deriving DecidableEq, Repr

/-- What MACsec carries with a received frame (R425). -/
structure SecTag where
  sci : BitVec 64
  an : BitVec 2
  pn : BitVec 64
  icvOk : Bool
  deriving DecidableEq, Repr

/-- How a frame arrived at a port: the ST at which its SOF passed the port's stamping point, before the latency is compensated (R82), its length from DA to FCS, its FCS verdict and its SecTAG. -/
structure Rx where
  port : Port
  sof : Word
  len : Nat
  fcsOk : Bool
  sec : Option SecTag
  deriving DecidableEq, Repr

/-- What precedes the header of a Slandongo frame: DA, SA, the TCI of its VLAN or priority tag, and the EtherType (R107). -/
structure L2 where
  da : Mac
  sa : Mac
  tci : Option (BitVec 16)
  etype : BitVec 16
  deriving DecidableEq, Repr

/-- The Slandongo common header (R107), with the addresses, tag and EtherType before it. -/
structure Hdr where
  l2 : L2
  subtype : Byte
  version : Byte
  flags : BitVec 16
  row : Word
  topo : Word
  sender : Byte
  prf : Byte
  sid : BitVec 16
  deriving DecidableEq, Repr

/-- One grant slot of ROW_START (R108). -/
structure GrantSlot where
  sid : BitVec 12
  node : BitVec 6
  deriving DecidableEq, Repr

/-- The body of ROW_START (R108). -/
structure RowStart where
  pendPrf : Byte
  blockPend : Bool
  swapLate : Bool
  hold : Bool
  swapRow : Word
  blkRow : Word
  rowLen : Word
  rowSt : Word
  grants : List GrantSlot
  poll : List Word
  deriving DecidableEq, Repr

/-- The kind of a COLDSTART frame (R139). -/
inductive CsKind where
  | initial | repeat | restart | needle | yield
  deriving DecidableEq, Repr

/-- The body of COLDSTART (R139). -/
structure ColdStart where
  uid : Uid
  rank : BitVec 3
  kind : CsKind
  rowLen : Word
  st : Word
  winner : Uid
  deriving DecidableEq, Repr

/-- The body of NULL (R116). -/
structure NullBody where
  reason : Byte
  unsent : Byte
  skein : BitVec 13
  st : Word
  deriving DecidableEq, Repr

/-- A strand: its 8-byte header and its data (R242). -/
structure Strand where
  state : BitVec 3
  dsid : BitVec 13
  reason : BitVec 5
  age : BitVec 16
  seq : BitVec 16
  data : List Byte
  deriving DecidableEq, Repr

/-- The body of SKEIN (R254). -/
structure Skein where
  skein : BitVec 13
  need : Bool
  strands : List Strand
  deriving DecidableEq, Repr

/-- The body of KEEPALIVE (R358). -/
structure KeepAlive where
  uid : Uid
  need : Bool
  bindoff : Bool
  sources : BitVec 3
  endSt : Word
  deriving DecidableEq, Repr

/-- The body of CLAIM (R229). -/
structure Claim where
  uid : Uid
  spare : BitVec 12
  needed : Byte
  deriving DecidableEq, Repr

/-- The kind of a TURN_NOTICE (R306). -/
inductive NoticeKind where
  | set | split | clear
  deriving DecidableEq, Repr

/-- The body of TURN_NOTICE (R306). -/
structure TurnNotice where
  uid : Uid
  kind : NoticeKind
  line : Line
  side : Side
  far : BitVec 6
  seq : BitVec 16
  st : Word
  deriving DecidableEq, Repr

/-- The body of BRIDGE_REQ (R411). -/
structure BridgeReq where
  initiator : Uid
  target : Uid
  window : Fin 8
  write : Bool
  seq : BitVec 16
  addr : Nat
  len : Nat
  prefetch : Bool
  retry : Bool
  newSeq : Bool
  data : List Word
  deriving DecidableEq, Repr

/-- The body of BRIDGE_RSP (R411). -/
structure BridgeRsp where
  responder : Uid
  initiator : Uid
  window : Fin 8
  write : Bool
  seq : BitVec 16
  status : Byte
  prefetch : Bool
  farRow : Word
  data : List Word
  deriving DecidableEq, Repr

/-- The body of EVENT_MSG (R419). -/
structure EventMsg where
  uid : Uid
  src : BitVec 11
  fld : Bool
  seq : BitVec 16
  st : Word
  drow : Word
  info : List Word
  deriving DecidableEq, Repr

/-- The body of POLL, with the device MAC and VLAN TCI that address the frame (R159). -/
structure Poll where
  mac : Mac
  tci : BitVec 16
  pseq : Word
  replySid : BitVec 16
  held : Bool
  noData : Bool
  replyExp : Bool
  openNs : Word
  closeNs : Word
  strand : Strand
  deriving DecidableEq, Repr

/-- The body of REPLY (R161). `lenAgrees` is whether the strand's length field agrees with the frame. -/
structure Reply where
  pseq : Word
  strand : Strand
  lenAgrees : Bool
  deriving DecidableEq, Repr

/-- A TTDP TOPOLOGY frame (R187, R190, R205, R536): the origin's neighbours, consist and agreement fields. -/
structure Topology where
  origin : Uid
  seq : BitVec 32
  nbr1 : Uid
  nbr2 : Uid
  cst : Uid
  lead : Bool
  cabSide : Bool
  inhibit : Bool
  counter : Word
  needle : Bool
  /-- The Umlunal extension: 12 bytes, or none in compatibility mode (R536). -/
  item : List Byte
  nodes : Nat
  consists : Nat
  /-- The origin's active topology counter and node list, a node's list entry by UID, number and ORIENT (R200). -/
  act : Word
  list : List (Uid × Nat × Bool)
  deriving DecidableEq, Repr

/-- A gPTP Sync (R84, R86): domain, sequence, origin time, correction in 1/16 ns and the rate offset it carries. -/
structure Sync where
  domain : Byte
  seq : BitVec 16
  twoStep : Bool
  origSec : BitVec 48
  origNs : BitVec 30
  corr16 : Int
  csro : Int
  deriving DecidableEq, Repr

/-- The IPv4 header fields that routing reads (R275). -/
structure Ip where
  src : Word
  dst : Word
  ttl : Byte
  options : Bool
  deriving DecidableEq, Repr

/-- An Ethernet frame of the best-effort path; `len` counts from DA to FCS. -/
structure Eth where
  da : Mac
  sa : Mac
  tag : Option (BitVec 3 × BitVec 12)
  etype : BitVec 16
  len : Nat
  ip : Option Ip
  deriving DecidableEq, Repr

/-- What a frame on a consist port is, as far as the guard of R152 tells frames apart. -/
inductive ConsistKind where
  | macControl
  | reply (h : Hdr) (b : Reply)
  | slandongo
  | other
  deriving DecidableEq, Repr

/-- A record of the lifeline (R326). -/
inductive LlRecord where
  | image (s : Strand)
  | seq (kind : Fin 3) (index : Nat) (value : Word)
  | entry (table : Byte) (index : Nat) (data : List Word)
  | pair (num own : BitVec 6) (topo gpioDir gpioNext stmCfg dsw0 dsw1 : Word)
  | servo (d : Fin 2) (tensLo tensHi rr slave : Word)
  | bulk (offset : Nat) (data : List Word)
  deriving DecidableEq, Repr

/-- The header of an Efilaner frame (R325). -/
structure TwinHdr where
  da : Mac
  sa : Mac
  etype : BitVec 16
  version : Byte
  incomplete : Bool
  ovf : Bool
  lead : Bool
  synced : Bool
  drill : Bool
  lane : Fin 2
  row : Word
  seq : Word
  /-- The SecTAG of a protected frame (R425). -/
  sec : Option SecTag
  deriving DecidableEq, Repr

/-- The body of an Efilaner HELLO (R325). -/
structure TwinHello where
  uid : Uid
  pos : Bool
  role : BitVec 3
  sync : BitVec 2
  num : BitVec 6
  topo : Word
  deriving DecidableEq, Repr

/-- The resync frames that a standby receives (R330). -/
inductive ResyncFrame where
  | start (kib : Word)
  | data (records : List LlRecord)
  | endRow (row : Word)
  deriving DecidableEq, Repr

/-- A TRDP process-data telegram (R261). -/
structure Trdp where
  comId : Word
  src : Word
  headerOk : Bool
  etbTopo : Word
  opTopo : Word
  data : List Byte
  deriving DecidableEq, Repr

/-- A TX descriptor as fetched from host memory, and its frame (R403). -/
structure TxDesc where
  len : Nat
  cls : Fin 8
  direct : Bool
  tsReq : Bool
  port : Port
  frame : Eth
  deriving DecidableEq, Repr

/-- Why a frame goes to the host port (R404). -/
inductive RxReason where
  | forwarded | gptp | notRoutable | ttl | arp | arpMiss
  deriving DecidableEq, Repr

/-- An RX descriptor as supplied by the host (R404). -/
structure RxDesc where
  buf : Nat
  size : Nat
  deriving DecidableEq, Repr

/-- A host request to a BAR: byte enables and data per dword, in ascending order (R398, R399). -/
structure BarReq where
  offset : Nat
  write : Bool
  dwords : List (BitVec 4 × Word)
  deriving DecidableEq, Repr

/-- Where an image came from (R465, R467). -/
inductive ImgSource where
  | copy0 | copy1 | host
  deriving DecidableEq, Repr

/-- A PROFILE section: the slot registers and the entry words (R466). -/
structure ProfileSec where
  slot : Fin 8
  rowLen : Word
  selv : Word
  cnt : Word
  rsLen : Word
  crc : Word
  entries : List Word
  deriving DecidableEq, Repr

/-- A record of the init list (R466). -/
inductive InitRec where
  | write (addr : Nat) (value mask : Word)
  | wait (us : Nat)
  | poll (addr : Nat) (value mask : Word)
  deriving DecidableEq, Repr

/-- A staged Wyash image as the boot loader reads it (R466, R468). -/
structure Image where
  source : ImgSource
  readOk : Bool
  headerOk : Bool
  deviceId : BitVec 16
  version : Word
  length : Nat
  uidFilter : Uid
  sigOk : Bool
  keyHash : BitVec 256
  profiles : List ProfileSec
  init : List InitRec
  tables : List (Nat × List Word)
  deriving DecidableEq, Repr

/-- What a boot loader finds in flash at BOOT_START or BOOT_RETRY (R463, R465): each copy's mark and version. -/
structure FlashMarks where
  mark0 : Bool
  ver0 : Word
  mark1 : Bool
  ver1 : Word
  deriving DecidableEq, Repr

/-- A PCIe link state (R421). -/
inductive LinkState where
  | l0 | l1 | l11 | l12 | l2 | down
  deriving DecidableEq, Repr

/-- A fault condition that the keeper's sense readings meet (R350). -/
inductive BypFault where
  | stuckByp | stuckIns | snsRange
  deriving DecidableEq, Repr

/-- What a line of an MVB interface delivered in a reply window: nothing, a frame that fails its check sequence, or a good one (R171). -/
inductive MvbLine where
  | none | bad | good
  deriving DecidableEq, Repr

/-- A CAN error state (R184). -/
inductive CanState where
  | active | passive | busOff
  deriving DecidableEq, Repr

/-- How an I2C transaction ended (R343). -/
inductive I2cEnd where
  | ok (data : Word) | nack | timeout
  deriving DecidableEq, Repr

/-- An end of a line with a PCS: a backbone port or a twin lane (R303, R325). -/
inductive LineEnd where
  | port (p : Port)
  | twin (lane : Fin 2)
  deriving DecidableEq, Repr

/-- How a line is lost: block lock, or a fault ordered set that is received (R303). -/
inductive LineLoss where
  | lock | localFault | remoteFault
  deriving DecidableEq, Repr

/-- The commands of the block, in the order of the spec's table. -/
inductive Instr where
  -- power, keeper, modes
  | keeperPowerUp (straps : Byte)
  | keeperPowerLoss
  | wakeInputEdge (i : WakeIn)
  | wakeDebounceDone (i : WakeIn)
  | wakeInputBounce (i : WakeIn)
  | ladEnergyChange (n : Fin 4) (present : Bool)
  | ladBurstQualify (n : Fin 4)
  | rtcAlarm
  | rtcTick
  | rtcSet (hi : Word)
  | kprReqWake
  | kprReqMaintenance
  | kprReqCastOn
  | kprReqPark
  | kprReqWithdraw
  | modeRequestTake
  | pwrEnStep
  | pgoodReached
  | pgoodTimeout
  | pgoodLoss
  | dieResetRelease (straps : Byte)
  | powerDownEnd
  | sysRstAssert
  | kpsRstReqDie0
  | kpsRstReqDie1
  | pllUnlock (d : Die)
  | refLoss (d : Die)
  | pllLock (d : Die) (p : Pll)
  | die1BringupDone
  | rstOutRelease
  | khfStart (byWake : Bool)
  | khfStop
  | regionSleepEnter (g : Fin 4)
  | regionIdleHoldExpiry (g : Fin 4)
  | regionWakeStart (g : Fin 4)
  | regionUnknownWake (g : Fin 4)
  | regionWakeDone (g : Fin 4)
  -- time
  | tensionCommit (d : Fin 2) (hi : Word)
  | offsetStep (d : Fin 2) (step : Word)
  | timeSet (d : Fin 2) (hi : Word)
  | domainLostSet (d : Fin 2) (v : Bool)
  | domainGmWrite (d : Fin 2) (v : Bool)
  | domainLostTimeout (d : Fin 2)
  | rowClockSelect (d : Fin 2)
  | holdoverMuteExpiry
  | stHalf (d : Die)
  | pairLowRead (agent : Agent) (addr : Nat)
  | timerArm (d : Die) (n : Fin 4)
  | timerDisarm (d : Die) (n : Fin 4)
  | timerRetarget (d : Die) (n : Fin 4) (tgt : Word)
  | timerFire (d : Die) (n : Fin 4)
  | timeWord
  | syncRx (rx : Rx) (f : Sync) (residence16 : List (Port × Nat))
  | followUpRx (rx : Rx) (f : Sync) (residence16 : List (Port × Nat))
  | twoStepTimeout (port : Port) (domain : Byte)
  | syncOriginate (d : Fin 2)
  | slavePortWrite (d : Fin 2) (value : Word)
  | holdoverExpiry (d : Fin 2)
  | holdEnd (d : Fin 2)
  | ppsOutPulse
  | ppsOutEnd
  | ppsInCapture
  | snapCapture
  -- rows
  | rowBoundary
  | rowStartSend
  | rowStartRx (rx : Rx) (h : Hdr) (b : RowStart)
  | rowStartLoss
  | stitchDecision (sid : Fin 4096)
  | knit (d : Die) (sid : Fin 4096)
  | skeinSend (sid : Fin 4096)
  | mgmtStitchSend (sid : Fin 4096)
  | guardianCutoff (port : Port)
  | skeinMiss (sid : Fin 4096)
  | skeinRx (rx : Rx) (h : Hdr) (rtag : BitVec 16) (b : Skein)
  | nullRx (rx : Rx) (h : Hdr) (rtag : BitVec 16) (b : NullBody)
  | outputLatch
  | inputSample (gpio : Word) (stm : Byte)
  | stmPulseEnd (n : Fin 8)
  | gpioDirWrite (value : Word)
  | gpioOutNextWrite (value : Word)
  | slotCheck (slot : Fin 8)
  | slotCheckDone
  | scheduleTableWrite (addr : Nat) (value : Word)
  | swapRequest (prf : Fin 8)
  -- cold start
  | listenTimeout
  | coldstartRx (rx : Rx) (h : Hdr) (b : ColdStart)
  | coldstartRepeat
  | needleStart
  | followTimeout
  | verifyTimeout
  | resyncTimeout
  | needleAnnounce
  | needleYieldSend
  | needleYieldEnd
  -- consist star
  | consistFrameRx (rx : Rx) (e : Eth) (k : ConsistKind)
  | fenceHoldoffExpiry (p : Port)
  | grdUnfence (p : Port)
  | grdFence (p : Port)
  | grdClearHistory (p : Port)
  | pollSend (sid : Fin 4096)
  | replyCommit (sid : Fin 4096)
  | portLinkUp (p : Port) (speed : Fin 6)
  | portLinkDown (p : Port)
  -- field buses
  | mvbEnable (n : Fin 2)
  | mvbMasterFrameSend (n : Fin 2) (entry : Fin 4096)
  | mvbSlaveFrameSend (n : Fin 2) (fcode : Fin 16) (addr : Fin 4096)
  | mvbFrameRx (n : Fin 2) (fcode : Fin 16) (addr : Fin 4096) (a b : MvbLine) (data : List Byte)
  | mvbReplyTimeout (n : Fin 2) (addr : Fin 4096) (badA badB : Bool)
  | mvbNoMaster (n : Fin 2)
  | mvbBasicPeriodEnd (n : Fin 2)
  | canEnable (c : Fin 4)
  | canFieldTrigger (sid : Fin 4096)
  | canFrameTx (c : Fin 4)
  | canFrameRx (c : Fin 4) (ide fdf brs : Bool) (cid : BitVec 29) (dlc : BitVec 4) (data : List Byte)
  | canErrorStateChange (c : Fin 4) (st : CanState) (tec rec : Byte)
  | canBusOn (c : Fin 4)
  | fldMsgPop (agent : Agent)
  -- topology
  | helloSend (p : Port)
  | helloRx (rx : Rx) (uid : Uid) (hearsUs : Bool)
  | helloTimeout (p : Port)
  | cplDebounceDone (s : Side)
  | couplePendTimeout (s : Side)
  | topologySend
  | topologyRx (rx : Rx) (f : Topology)
  | topologyRelay (p : Port) (f : Topology)
  | stableTimeout
  | shadowWriteDone
  | commitTimeout
  | inaRestart
  | localCommitTimer
  | claimSend (sid : Fin 4096)
  | claimRx (rx : Rx) (h : Hdr) (b : Claim)
  | trainBlockingReq
  | localBlockingReq
  | bankedTableWrite (addr : Nat) (value : Word)
  | dirAgeExpiry (d : Die) (index : Fin 65536)
  | flushLearned
  -- datasets
  | hostCommit (d : Die) (ds : BitVec 13)
  | bufferFlip (d : Die) (ctx : Fin 4096)
  | cmpAgeTick (d : Die)
  | frerTimeout (d : Die) (ctx : Fin 1024) (rogue : Bool)
  | trdpRx (d : Die) (t : Trdp)
  | trdpCycleSend (d : Die) (entry : Fin 4096)
  | ntfPop (d : Die)
  -- forwarding
  | beFrameRx (rx : Rx) (e : Eth)
  | egressTransmit (p : Port)
  | gateChange (p : Port) (cls : Fin 8) (opens : Bool)
  | preemptVerifyDone (p : Port) (ok : Bool)
  | pfcRx (p : Port) (prio : Fin 8) (quanta : BitVec 16)
  | pfcPauseExpiry (p : Port) (prio : Fin 8)
  | reserveWrite (addr : Nat) (value : Word)
  | watermarkRead (addr : Nat)
  | klkRetrain (d : Die)
  | klkLinkUp (rtt lat : BitVec 16)
  | klkLinkDown
  -- ring
  | lineFailure (p : Port)
  | lineLockRegained (p : Port) (rate10 : Bool)
  | turnNoticeSend (s : Side)
  | turnNoticeRx (rx : Rx) (h : Hdr) (b : TurnNotice)
  | forceClearFault
  | forceSplit (one two : Bool)
  -- twin pairs
  | heartbeatLost
  | heartbeatRegained
  | hbOutStall
  | tokenLineChange (tok0 tok1 : Bool)
  | tokenFault
  | twinObserveEnd
  | tokenClaimStart
  | tokenClaimWaitEnd
  | tokenAcquired
  | twinHelloSend
  | twinHelloRx (h : TwinHdr) (b : TwinHello)
  | twinLaneTimeout (lane : Fin 2)
  | deltaSend
  | deltaRx (h : TwinHdr) (isEnd : Bool) (records : List LlRecord)
  | resyncReqSend
  | twinResyncCmd
  | resyncReqRx (h : TwinHdr)
  | resyncDataSend (lane : Fin 2)
  | resyncEndSend (lane : Fin 2)
  | resyncFrameRx (h : TwinHdr) (f : ResyncFrame)
  | twinDrill
  | drillRx (h : TwinHdr)
  | drillAckRx (h : TwinHdr)
  | drillTimeout
  | forceTake
  -- bypass and line
  | insertOkWrite (d : Die) (v : Bool)
  | insertLineStop (d : Die)
  | relayPullinStart (l : Line)
  | relayStaggerExpiry
  | relayPullinEnd (l : Line)
  | bypassFault (n : Fin 4) (f : BypFault)
  | bypassClearFault
  | coilRequest (n : Fin 4)
  | coilTestStart (n : Fin 4)
  | coilTestDone (n : Fin 4) (code : BitVec 10)
  | ladBurstSend (n : Fin 4)
  | ladBurstEnd (n : Fin 4)
  | rateTryExpiry (p : Port)
  | i2cCommand (m : Fin 2) (cmd : Word)
  | i2cPollRead (m : Fin 2) (k : Fin 2) (value : Byte)
  | i2cDone (m : Fin 2) (r : I2cEnd)
  -- sleep and wake
  | keepaliveSend
  | keepaliveRx (rx : Rx) (h : Hdr) (b : KeepAlive)
  | needHostWrite (v : Bool)
  | wakeNeedExpiry
  | keepaliveTimeout
  | bindoffEnd
  | rewakeBurst (s : Side)
  | minOffExpiry
  -- events
  | eventSourceEdge (src : BitVec 11)
  | evcSetPend (src : BitVec 11)
  | evcClrPend (src : BitVec 11)
  | evcEnable (src : BitVec 11)
  | evcDisable (src : BitVec 11)
  | evcForceDone (src : BitVec 11)
  | evcBitmapWrite (d : Die) (ena : Bool) (w : Fin 32) (value edges : Word)
  | evcTgtEnWrite (value : Word)
  | evcClaim (t : Fin 9)
  | evcDone (t : Fin 9) (src : BitVec 11)
  | rqConsWrite (t : Fin 8) (value : Word)
  | rqEnable (t : Fin 8) (value : Word)
  | rqModerationExpiry (t : Fin 8)
  | pcieLinkL0
  | msixVectorUnmask (v : Fin 64)
  -- host interface
  | perstAssert
  | perstDeassert
  | pcieConfigReady
  | bar0Request (r : BarReq)
  | ringEnable (rx : Bool) (n : Fin 32)
  | txTailWrite (n : Fin 32) (value : Word)
  | txDescriptorDone (n : Fin 32) (d : TxDesc) (st : Word)
  | rxTailWrite (n : Fin 32) (value : Word)
  | rxFrameToHost (p : Port) (reason : RxReason) (cls : Fin 8) (e : Eth) (sof : Word) (d : RxDesc)
  | dmaError (rx : Bool) (n : Fin 32) (buffer : Bool) (addr : BitVec 64)
  | mspiRead (addr : Nat)
  | mspiWrite (addr : Nat) (value : Word)
  | bar2Request (r : BarReq)
  | bridgeReqSend (w : Fin 8) (mgmt : Option (Fin 4096))
  | bridgeRetransmit (w : Fin 8) (seq : BitVec 16)
  | bridgeTimeout (w : Fin 8) (seq : BitVec 16)
  | bridgeReqRx (rx : Rx) (h : Hdr) (b : BridgeReq)
  | bridgeRspRx (rx : Rx) (h : Hdr) (b : BridgeRsp)
  | bridgeFlush (mask : Byte)
  | prefetchExpiry (w : Fin 8) (block : Nat)
  | bridgeErrPop (agent : Agent)
  | eventMsgSend
  | eventMsgRx (rx : Rx) (h : Hdr) (b : EventMsg)
  | remoteEventEnqueue (uid : Uid)
  | remoteEventGapTimeout (uid : Uid)
  | remoteEventPop (agent : Agent)
  -- security
  | txsaSelect (d : Die) (m : Fin 5) (slot : Fin 8)
  | saCtrlWrite (d : Die) (m : Fin 5) (rx : Bool) (slot : Fin 8) (value : Word)
  | saKeyWrite (d : Die) (m : Fin 5) (rx : Bool) (slot : Fin 8) (salt : Bool) (k : Fin 8) (value : Word)
  | otpProgram (bit : Fin 4096)
  | otpProgramDone
  | jtagChallengeRead (agent : Agent)
  | jtagUnlock
  | jtagBlockExpiry
  | pageUnlock (page : Nat)
  | pageLock (page : Nat) (value : Word)
  -- statistics and swatches
  | statsBoundary (d : Die)
  | statsSnapRequest (d : Die)
  | statsEnableWrite (d : Die) (v : Bool)
  | bufBist (d : Die) (bank : BitVec 6)
  | bistBankDrained (d : Die)
  | bistDrainTimeout (d : Die)
  | bistBankDone (d : Die) (pass : Bool)
  | bistGapExpiry (d : Die)
  | eyeScan (d : Die) (lane : BitVec 6)
  | eyeScanDone (d : Die) (horizontal vertical : Byte)
  | coilSwatch (d : Die) (relay : BitVec 6)
  | tsCal (d : Die) (lane : BitVec 6)
  | tsCalDone (d : Die) (rxLat txLat : BitVec 16)
  | lbist (d : Die)
  | lbistDone (d : Die) (pass : Bool)
  | extLoop (d : Die) (port : BitVec 6)
  | extLoopDone (d : Die) (received errors : Word)
  -- startup
  | bootStart (f : FlashMarks)
  | imageReadDone (i : Image)
  | die1LinkWaitTimeout
  | initWrite (addr : Nat) (value mask : Word)
  | initWait (us : BitVec 16)
  | initPoll (addr : Nat) (value mask : Word) (expired : Bool)
  | bootGo
  | bootRetry (f : FlashMarks)
  -- register conventions
  | softReset (page : Nat)
  | softResetDone (page : Nat)
  | portEnableWrite (page : Nat) (v : Bool)
  | powerReqWrite (p : Port) (v : BitVec 2)
  | pgEvtClear (page : Nat) (ones set : Word)
  | clearOnRead (addr : Nat)
  | mdioC22Write (m : Fin 2) (phy reg : BitVec 5)
  | mdioC22Read (m : Fin 2) (phy reg : BitVec 5)
  | mdioC45Address (m : Fin 2) (phy reg : BitVec 5)
  | mdioC45Write (m : Fin 2) (phy reg : BitVec 5)
  | mdioC45Read (m : Fin 2) (phy reg : BitVec 5)
  | mdioC45ReadInc (m : Fin 2) (phy reg : BitVec 5)
  | mdioDone (m : Fin 2) (data : BitVec 16) (noTa : Bool)
  | registerWrite (agent : Agent) (addr : Nat) (be : BitVec 4) (value : Word)
  | wakeInputRelease (i : WakeIn)
  | hbInEdge (spaced : Bool)
  | stmInEdge (n : Fin 8)
  | blockLockLoss (e : LineEnd) (l : LineLoss)
  | pcieLinkStateChange (l : LinkState)
  | klfValid
  deriving DecidableEq, Repr

end Sys2Proof
end

