-- ==== Sys2Proof/Decode.lean ====
section
/-! DEFINITION. Reading a command from the bits of a word. The spec's table gives no row any bits: its rows are operations and
events, which no word spells. -/

namespace Sys2Proof

/-- The command that `nbits` bits of a word spell by the bits of the spec's table: none, since no row of the table has bits.
(DESIGN CHOICE, log entry 4) -/
def decodeTableWord (_nbits _w : Nat) : Option Instr := none

end Sys2Proof
end

