-- ==== Sys2Proof/Config.lean ====
section
/-! DEFINITION. The free values: what the spec leaves open and the device always produces. Each is a constant without a body,
so that a statement that holds, holds whatever the value is. Each is named in an entry of the assumption log. -/

namespace Sys2Proof

/-- A value the device measures or draws that no rule of the spec fixes: the `n`-th one used.
(DESIGN CHOICE, log entry 5) -/
opaque Config.freeWord : Nat → Word

/-- The bytes in which a directory key of VLAN ID and MAC address, or of an IPv4 train address, enters its CRC32 (R217): the spec does
not say how the key is laid out.
(DESIGN CHOICE, log entry 5) -/
opaque Config.macKey : BitVec 12 → Mac → List (BitVec 8)

/-- The bytes in which an IPv4 address enters the CRC32 of the directory or of the translation table (R217, R220).
(DESIGN CHOICE, log entry 5) -/
opaque Config.ipKey : Word → List (BitVec 8)

/-- The bytes in which a local address and VID enter the CRC32 of the ARP table (R276).
(DESIGN CHOICE, log entry 5) -/
opaque Config.arpKey : Word → BitVec 12 → List (BitVec 8)

/-- The fixed latency of BASE-R FEC (`rs` false) or RS-FEC (`rs` true) on the receive (`tx` false) or transmit side, in 1/16 ns (R341).
(DESIGN CHOICE, log entry 74) -/
opaque Config.fecLat : Bool → Bool → Nat

/-- The topology counter that IEC 61375-2-5 computes over a node list in numbering order (R201), of each node the UID, the consist UID
and the orientation, before 0 is replaced.
(DESIGN CHOICE, log entry 5) -/
opaque Config.topoCrc : List (Uid × Uid × Bool) → Word

/-- The stepping that DIE_INFO reports (R491): the chip's.
(DESIGN CHOICE, log entry 76) -/
opaque Config.stepping : BitVec 4

/-- SHA-256 (R429, R432).
(DESIGN CHOICE, log entry 49) -/
opaque Config.sha256 : List (BitVec 8) → BitVec 256

/-- Whether an ECDSA P-256 signature, r then s, verifies over a digest with a public key, X then Y (R429, R432).
(DESIGN CHOICE, log entry 49) -/
opaque Config.ecdsaOk : List (BitVec 8) → BitVec 256 → List (BitVec 8) → Bool

/-- The random wait of a token claim in slots, before it is held to its range (R323).
(DESIGN CHOICE, log entry 5) -/
opaque Config.claimWait : Nat → Nat

end Sys2Proof
end

