-- ==== Sys2Proof/Machine/RegMap.lean ====
section
/-! DEFINITION. The register map (R474 to R494): the pages of the device address space, each page's registers with their
access, writable bits and reset values, and the offset of each register within its page. -/

namespace Sys2Proof.Machine

/-- The kinds of register page (R476, R477). -/
inductive PageKind where
  | die | cpm | evcCtl | evcMap | evcRoute | tmu | prt | clu | rgn | sch | ina | dsk | fwd | buf | rng | twn | sec | sa | sta | swt | hdm | msix | txRings | rxRings | brg | fld | klk | kpr | kwk | kby | kps | krt | kms
  deriving DecidableEq, Repr

/-- The access of a register (R9): `rse` reads have a side effect. -/
inductive Access where
  | rw | ro | wo | rse
  deriving DecidableEq, Repr

/-- One row of a page's register table: `n` registers from `off` on, `stride` bytes apart. `mask` are the bits a plain write
stores, `w1c` the bits that a written 1 clears, `rst` the reset value. -/
structure RegRow where
  off : Nat
  n : Nat
  stride : Nat
  acc : Access
  mask : Word
  w1c : Word
  rst : Word
  name : String
  deriving DecidableEq, Repr

/-- A page position: its kind, its die (2 for die K) and its index among the pages of its kind on that die. -/
structure Page where
  kind : PageKind
  die : Nat
  idx : Nat
  deriving DecidableEq, Repr

/-! ## Offsets of the registers within their pages -/

/-- PG_ID (R479). -/
abbrev PG_ID : Nat := 0x000
/-- PG_CAP (R479). -/
abbrev PG_CAP : Nat := 0x004
/-- PG_CTRL (R479). -/
abbrev PG_CTRL : Nat := 0x008
/-- PG_STAT (R479). -/
abbrev PG_STAT : Nat := 0x00C
/-- PG_EVT (R479). -/
abbrev PG_EVT : Nat := 0x010
/-- PG_EVEN (R479). -/
abbrev PG_EVEN : Nat := 0x014
/-- PG_LOCK (R479). -/
abbrev PG_LOCK : Nat := 0x018
/-- PG_SEQ (R479). -/
abbrev PG_SEQ : Nat := 0x01C

/-- KPR_MODE (R46). -/
abbrev KPR_MODE : Nat := 0x040
/-- KPR_MODE_REQ (R46). -/
abbrev KPR_MODE_REQ : Nat := 0x044
/-- KPR_ENTRY_SEC (R46). -/
abbrev KPR_ENTRY_SEC : Nat := 0x048
/-- KPR_TRANS_CNT (R46). -/
abbrev KPR_TRANS_CNT : Nat := 0x04C
/-- CPM_CLK_STAT (R62). -/
abbrev CPM_CLK_STAT : Nat := 0x040
/-- CPM_REG_MARGIN (R62). -/
abbrev CPM_REG_MARGIN : Nat := 0x044
/-- CPM_SHARED (R62). -/
abbrev CPM_SHARED : Nat := 0x048
/-- CPM_PWR_EST (R62). -/
abbrev CPM_PWR_EST : Nat := 0x04C
/-- RGN_PSTATE (R63). -/
abbrev RGN_PSTATE : Nat := 0x040
/-- RGN_FLOOR (R63). -/
abbrev RGN_FLOOR : Nat := 0x044
/-- RGN_NEXT_EVT (R63). -/
abbrev RGN_NEXT_EVT : Nat := 0x048
/-- RGN_LEAD (R63). -/
abbrev RGN_LEAD : Nat := 0x04C
/-- RGN_IDLE_HOLD (R63). -/
abbrev RGN_IDLE_HOLD : Nat := 0x050
/-- RGN_LANE_OK (R63). -/
abbrev RGN_LANE_OK : Nat := 0x054
/-- TMU_CTRL (R96). -/
abbrev TMU_CTRL : Nat := 0x040
/-- TMU_STAT (R96). -/
abbrev TMU_STAT : Nat := 0x044
/-- TMU_ST (R96). -/
abbrev TMU_ST : Nat := 0x048
/-- TMU_ST_WRAP (R96). -/
abbrev TMU_ST_WRAP : Nat := 0x04C
/-- TMU_RCK_OFS (R96). -/
abbrev TMU_RCK_OFS : Nat := 0x050
/-- TMU_SLEW (R96). -/
abbrev TMU_SLEW : Nat := 0x054
/-- TMU_SW_MAX (R96). -/
abbrev TMU_SW_MAX : Nat := 0x058
/-- TMU_HOLD (R96). -/
abbrev TMU_HOLD : Nat := 0x05C
/-- TMU_MUTE (R96). -/
abbrev TMU_MUTE : Nat := 0x060
/-- TMU_PPS_CFG (R96). -/
abbrev TMU_PPS_CFG : Nat := 0x064
/-- TMU_SNAP_CTRL (R96). -/
abbrev TMU_SNAP_CTRL : Nat := 0x068
/-- TMU_SNAP_ST (R96). -/
abbrev TMU_SNAP_ST : Nat := 0x06C
/-- TMU_SNAP_WRAP (R96). -/
abbrev TMU_SNAP_WRAP : Nat := 0x070
/-- TMU_SNAP_TD0_NS (R96). -/
abbrev TMU_SNAP_TD0_NS : Nat := 0x074
/-- TMU_SNAP_TD0_SEC_LO (R96). -/
abbrev TMU_SNAP_TD0_SEC_LO : Nat := 0x078
/-- TMU_SNAP_TD0_SEC_HI (R96). -/
abbrev TMU_SNAP_TD0_SEC_HI : Nat := 0x07C
/-- TMU_SNAP_TD1_NS (R96). -/
abbrev TMU_SNAP_TD1_NS : Nat := 0x080
/-- TMU_SNAP_TD1_SEC_LO (R96). -/
abbrev TMU_SNAP_TD1_SEC_LO : Nat := 0x084
/-- TMU_SNAP_TD1_SEC_HI (R96). -/
abbrev TMU_SNAP_TD1_SEC_HI : Nat := 0x088
/-- TMU_TMRn_TGT (R96). -/
abbrev TMU_TMR_TGT (i : Nat) : Nat := 0x090 + 0x8 * i
/-- TMU_TMRn_CTRL (R96). -/
abbrev TMU_TMR_CTRL (i : Nat) : Nat := 0x094 + 0x8 * i
/-- TMU_KLK_LAT (R96). -/
abbrev TMU_KLK_LAT : Nat := 0x0B0
/-- TMU_TDd_CFG (R96). -/
abbrev TMU_TD_CFG (i : Nat) : Nat := 0x100 + 0x80 * i
/-- TMU_TDd_CTRL (R96). -/
abbrev TMU_TD_CTRL (i : Nat) : Nat := 0x104 + 0x80 * i
/-- TMU_TDd_TENS_LO (R96). -/
abbrev TMU_TD_TENS_LO (i : Nat) : Nat := 0x108 + 0x80 * i
/-- TMU_TDd_TENS_HI (R96). -/
abbrev TMU_TD_TENS_HI (i : Nat) : Nat := 0x10C + 0x80 * i
/-- TMU_TDd_STEP (R96). -/
abbrev TMU_TD_STEP (i : Nat) : Nat := 0x110 + 0x80 * i
/-- TMU_TDd_SET_NS (R96). -/
abbrev TMU_TD_SET_NS (i : Nat) : Nat := 0x114 + 0x80 * i
/-- TMU_TDd_SET_SEC_LO (R96). -/
abbrev TMU_TD_SET_SEC_LO (i : Nat) : Nat := 0x118 + 0x80 * i
/-- TMU_TDd_SET_SEC_HI (R96). -/
abbrev TMU_TD_SET_SEC_HI (i : Nat) : Nat := 0x11C + 0x80 * i
/-- TMU_TDd_NS (R96). -/
abbrev TMU_TD_NS (i : Nat) : Nat := 0x120 + 0x80 * i
/-- TMU_TDd_SEC_LO (R96). -/
abbrev TMU_TD_SEC_LO (i : Nat) : Nat := 0x124 + 0x80 * i
/-- TMU_TDd_SEC_HI (R96). -/
abbrev TMU_TD_SEC_HI (i : Nat) : Nat := 0x128 + 0x80 * i
/-- TMU_TDd_FRAC (R96). -/
abbrev TMU_TD_FRAC (i : Nat) : Nat := 0x12C + 0x80 * i
/-- TMU_TDd_ST (R96). -/
abbrev TMU_TD_ST (i : Nat) : Nat := 0x130 + 0x80 * i
/-- TMU_TDd_OFS (R96). -/
abbrev TMU_TD_OFS (i : Nat) : Nat := 0x134 + 0x80 * i
/-- TMU_TDd_OFS_RAW (R96). -/
abbrev TMU_TD_OFS_RAW (i : Nat) : Nat := 0x138 + 0x80 * i
/-- TMU_TDd_SYNC_CNT (R96). -/
abbrev TMU_TD_SYNC_CNT (i : Nat) : Nat := 0x13C + 0x80 * i
/-- TMU_TDd_RR (R96). -/
abbrev TMU_TD_RR (i : Nat) : Nat := 0x140 + 0x80 * i
/-- TMU_TDd_SLAVE (R96). -/
abbrev TMU_TD_SLAVE (i : Nat) : Nat := 0x144 + 0x80 * i
/-- TMU_TDd_CAND_LO (R96). -/
abbrev TMU_TD_CAND_LO (i : Nat) : Nat := 0x148 + 0x80 * i
/-- TMU_TDd_CAND_HI (R96). -/
abbrev TMU_TD_CAND_HI (i : Nat) : Nat := 0x14C + 0x80 * i
/-- TMU_TDd_MASTER_LO (R96). -/
abbrev TMU_TD_MASTER_LO (i : Nat) : Nat := 0x150 + 0x80 * i
/-- TMU_TDd_MASTER_HI (R96). -/
abbrev TMU_TD_MASTER_HI (i : Nat) : Nat := 0x154 + 0x80 * i
/-- TMU_TDd_HOLD_LEFT (R96). -/
abbrev TMU_TD_HOLD_LEFT (i : Nat) : Nat := 0x158 + 0x80 * i
/-- TMU_TDd_PATH_LO (R96). -/
abbrev TMU_TD_PATH_LO (i : Nat) : Nat := 0x15C + 0x80 * i
/-- TMU_TDd_PATH_HI (R96). -/
abbrev TMU_TD_PATH_HI (i : Nat) : Nat := 0x160 + 0x80 * i
/-- PRT_PTP_CFG (R97). -/
abbrev PRT_PTP_CFG : Nat := 0x200
/-- PRT_PTP_LDLY (R97). -/
abbrev PRT_PTP_LDLY : Nat := 0x204
/-- PRT_PTP_ASYM (R97). -/
abbrev PRT_PTP_ASYM : Nat := 0x208
/-- PRT_PTP_RXLAT (R97). -/
abbrev PRT_PTP_RXLAT : Nat := 0x20C
/-- PRT_PTP_TXLAT (R97). -/
abbrev PRT_PTP_TXLAT : Nat := 0x210
/-- PRT_PTP_RSD_MAX (R97). -/
abbrev PRT_PTP_RSD_MAX : Nat := 0x214
/-- SCH_CTRL (R131). -/
abbrev SCH_CTRL : Nat := 0x040
/-- SCH_STAT (R131). -/
abbrev SCH_STAT : Nat := 0x044
/-- SCH_ROW (R131). -/
abbrev SCH_ROW : Nat := 0x048
/-- SCH_ROW_ST (R131). -/
abbrev SCH_ROW_ST : Nat := 0x04C
/-- SCH_BANK (R131). -/
abbrev SCH_BANK : Nat := 0x050
/-- SCH_MAP0 (R131). -/
abbrev SCH_MAP0 : Nat := 0x054
/-- SCH_MAP1 (R131). -/
abbrev SCH_MAP1 : Nat := 0x058
/-- SCH_SWAP (R131). -/
abbrev SCH_SWAP : Nat := 0x05C
/-- SCH_SWAP_ROW (R131). -/
abbrev SCH_SWAP_ROW : Nat := 0x060
/-- SCH_SWAP_MIN (R131). -/
abbrev SCH_SWAP_MIN : Nat := 0x064
/-- SCH_NULL_LEAD (R131). -/
abbrev SCH_NULL_LEAD : Nat := 0x068
/-- SCH_TSPAN (R131). -/
abbrev SCH_TSPAN : Nat := 0x06C
/-- SCH_NBR (R131). -/
abbrev SCH_NBR : Nat := 0x070
/-- SCH_CHK (R131). -/
abbrev SCH_CHK : Nat := 0x074
/-- SCH_CHK_STAT (R131). -/
abbrev SCH_CHK_STAT : Nat := 0x078
/-- SCH_SLOTs_ROWLEN (R131). -/
abbrev SCH_SLOT_ROWLEN (i : Nat) : Nat := 0x080 + 0x20 * i
/-- SCH_SLOTs_SELV (R131). -/
abbrev SCH_SLOT_SELV (i : Nat) : Nat := 0x084 + 0x20 * i
/-- SCH_SLOTs_CNT (R131). -/
abbrev SCH_SLOT_CNT (i : Nat) : Nat := 0x088 + 0x20 * i
/-- SCH_SLOTs_RSLEN (R131). -/
abbrev SCH_SLOT_RSLEN (i : Nat) : Nat := 0x08C + 0x20 * i
/-- SCH_SLOTs_CRC (R131). -/
abbrev SCH_SLOT_CRC (i : Nat) : Nat := 0x090 + 0x20 * i
/-- SCH_SLOTs_STAT (R131). -/
abbrev SCH_SLOT_STAT (i : Nat) : Nat := 0x094 + 0x20 * i
/-- SCH_GRD_STAT (R131). -/
abbrev SCH_GRD_STAT : Nat := 0x180
/-- SCH_GRD_CRC (R131). -/
abbrev SCH_GRD_CRC : Nat := 0x184
/-- SCH_CTL_DA_LO (R131). -/
abbrev SCH_CTL_DA_LO : Nat := 0x188
/-- SCH_CTL_DA_HI (R131). -/
abbrev SCH_CTL_DA_HI : Nat := 0x18C
/-- SCH_ETYPE (R131). -/
abbrev SCH_ETYPE : Nat := 0x190
/-- SCH_CNT_EDGE (R131). -/
abbrev SCH_CNT_EDGE : Nat := 0x1A0
/-- SCH_CNT_EARLY (R131). -/
abbrev SCH_CNT_EARLY : Nat := 0x1A4
/-- SCH_CNT_LATE (R131). -/
abbrev SCH_CNT_LATE : Nat := 0x1A8
/-- SCH_CNT_MISS (R131). -/
abbrev SCH_CNT_MISS : Nat := 0x1AC
/-- SCH_CNT_NULL_TX (R131). -/
abbrev SCH_CNT_NULL_TX : Nat := 0x1B0
/-- SCH_CNT_NULL_RX (R131). -/
abbrev SCH_CNT_NULL_RX : Nat := 0x1B4
/-- SCH_CNT_SKIP (R131). -/
abbrev SCH_CNT_SKIP : Nat := 0x1B8
/-- SCH_CNT_XCHK (R131). -/
abbrev SCH_CNT_XCHK : Nat := 0x1BC
/-- SCH_CNT_MEET (R131). -/
abbrev SCH_CNT_MEET : Nat := 0x1C0
/-- SCH_CNT_GRD (R131). -/
abbrev SCH_CNT_GRD : Nat := 0x1C4
/-- SCH_CNT_RS_MISS (R131). -/
abbrev SCH_CNT_RS_MISS : Nat := 0x1C8
/-- SCH_CNT_RS_BAD (R131). -/
abbrev SCH_CNT_RS_BAD : Nat := 0x1CC
/-- SCH_GPIO_DIR (R131). -/
abbrev SCH_GPIO_DIR : Nat := 0x200
/-- SCH_GPIO_OUT_NEXT (R131). -/
abbrev SCH_GPIO_OUT_NEXT : Nat := 0x204
/-- SCH_GPIO_OUT (R131). -/
abbrev SCH_GPIO_OUT : Nat := 0x208
/-- SCH_GPIO_IN (R131). -/
abbrev SCH_GPIO_IN : Nat := 0x20C
/-- SCH_STM_OUT_NEXT (R131). -/
abbrev SCH_STM_OUT_NEXT : Nat := 0x210
/-- SCH_STM_CFG (R131). -/
abbrev SCH_STM_CFG : Nat := 0x214
/-- SCH_STM_IN (R131). -/
abbrev SCH_STM_IN : Nat := 0x218
/-- SCH_CS_CFG (R147). -/
abbrev SCH_CS_CFG : Nat := 0x240
/-- SCH_CS_STAT (R147). -/
abbrev SCH_CS_STAT : Nat := 0x244
/-- SCH_CS_TMO (R147). -/
abbrev SCH_CS_TMO : Nat := 0x248
/-- SCH_CS_PROP (R147). -/
abbrev SCH_CS_PROP : Nat := 0x24C
/-- SCH_CS_VTOL (R147). -/
abbrev SCH_CS_VTOL : Nat := 0x250
/-- SCH_CS_UID_LO (R147). -/
abbrev SCH_CS_UID_LO : Nat := 0x254
/-- SCH_CS_UID_HI (R147). -/
abbrev SCH_CS_UID_HI : Nat := 0x258
/-- SCH_CS_NDL_UID_LO (R147). -/
abbrev SCH_CS_NDL_UID_LO : Nat := 0x25C
/-- SCH_CS_NDL_UID_HI (R147). -/
abbrev SCH_CS_NDL_UID_HI : Nat := 0x260
/-- SCH_CS_PEER_UID_LO (R147). -/
abbrev SCH_CS_PEER_UID_LO : Nat := 0x264
/-- SCH_CS_PEER_UID_HI (R147). -/
abbrev SCH_CS_PEER_UID_HI : Nat := 0x268
/-- SCH_CS_CNT (R147). -/
abbrev SCH_CS_CNT : Nat := 0x26C
/-- PRT_GRD_CFG (R164). -/
abbrev PRT_GRD_CFG : Nat := 0x300
/-- PRT_GRD_FENCE_T (R164). -/
abbrev PRT_GRD_FENCE_T : Nat := 0x304
/-- PRT_GRD_HOLDOFF (R164). -/
abbrev PRT_GRD_HOLDOFF : Nat := 0x308
/-- PRT_GRD_FENCE_LIM (R164). -/
abbrev PRT_GRD_FENCE_LIM : Nat := 0x30C
/-- PRT_GRD_CTRL (R164). -/
abbrev PRT_GRD_CTRL : Nat := 0x310
/-- PRT_GRD_STAT (R164). -/
abbrev PRT_GRD_STAT : Nat := 0x314
/-- PRT_GRD_FENCE_ST (R164). -/
abbrev PRT_GRD_FENCE_ST : Nat := 0x318
/-- PRT_GRD_VIOL_ST (R164). -/
abbrev PRT_GRD_VIOL_ST : Nat := 0x31C
/-- PRT_GRD_VIOL_INFO (R164). -/
abbrev PRT_GRD_VIOL_INFO : Nat := 0x320
/-- PRT_POL_RATE (R164). -/
abbrev PRT_POL_RATE : Nat := 0x324
/-- PRT_POL_BURST (R164). -/
abbrev PRT_POL_BURST : Nat := 0x328
/-- PRT_POL_TOKENS (R164). -/
abbrev PRT_POL_TOKENS : Nat := 0x32C
/-- PRT_GRD_CNT_OUTSIDE (R164). -/
abbrev PRT_GRD_CNT_OUTSIDE : Nat := 0x340
/-- PRT_GRD_CNT_OVERRUN (R164). -/
abbrev PRT_GRD_CNT_OVERRUN : Nat := 0x344
/-- PRT_GRD_CNT_POLICE (R164). -/
abbrev PRT_GRD_CNT_POLICE : Nat := 0x348
/-- PRT_GRD_CNT_BADREPLY (R164). -/
abbrev PRT_GRD_CNT_BADREPLY : Nat := 0x34C
/-- PRT_GRD_CNT_SLD (R164). -/
abbrev PRT_GRD_CNT_SLD : Nat := 0x350
/-- PRT_GRD_CNT_EDGE (R164). -/
abbrev PRT_GRD_CNT_EDGE : Nat := 0x354
/-- PRT_GRD_CNT_FENCED (R164). -/
abbrev PRT_GRD_CNT_FENCED : Nat := 0x358
/-- PRT_POLL_CNT_TX (R164). -/
abbrev PRT_POLL_CNT_TX : Nat := 0x35C
/-- PRT_POLL_CNT_RPL (R164). -/
abbrev PRT_POLL_CNT_RPL : Nat := 0x360
/-- PRT_POLL_CNT_MISS (R164). -/
abbrev PRT_POLL_CNT_MISS : Nat := 0x364
/-- PRT_POLL_CNT_DUP (R164). -/
abbrev PRT_POLL_CNT_DUP : Nat := 0x368
/-- FLD_CTRL (R184). -/
abbrev FLD_CTRL : Nat := 0x040
/-- FLD_MSG_W0 (R184). -/
abbrev FLD_MSG_W0 : Nat := 0x044
/-- FLD_MSG_W1 (R184). -/
abbrev FLD_MSG_W1 : Nat := 0x048
/-- FLD_MSG_W2 (R184). -/
abbrev FLD_MSG_W2 : Nat := 0x04C
/-- FLD_MSG_W3 (R184). -/
abbrev FLD_MSG_W3 : Nat := 0x050
/-- FLD_MSG_CNT (R184). -/
abbrev FLD_MSG_CNT : Nat := 0x054
/-- FLD_MVBn_CFG (R184). -/
abbrev FLD_MVB_CFG (i : Nat) : Nat := 0x080 + 0x40 * i
/-- FLD_MVBn_ANCHOR (R184). -/
abbrev FLD_MVB_ANCHOR (i : Nat) : Nat := 0x084 + 0x40 * i
/-- FLD_MVBn_RTO (R184). -/
abbrev FLD_MVB_RTO (i : Nat) : Nat := 0x088 + 0x40 * i
/-- FLD_MVBn_STAT (R184). -/
abbrev FLD_MVB_STAT (i : Nat) : Nat := 0x08C + 0x40 * i
/-- FLD_MVBn_DSW (R184). -/
abbrev FLD_MVB_DSW (i : Nat) : Nat := 0x090 + 0x40 * i
/-- FLD_MVBn_CNT_ERR (R184). -/
abbrev FLD_MVB_CNT_ERR (i : Nat) : Nat := 0x094 + 0x40 * i
/-- FLD_MVBn_CNT_NORESP (R184). -/
abbrev FLD_MVB_CNT_NORESP (i : Nat) : Nat := 0x098 + 0x40 * i
/-- FLD_MVBn_CNT_SWITCH (R184). -/
abbrev FLD_MVB_CNT_SWITCH (i : Nat) : Nat := 0x09C + 0x40 * i
/-- FLD_CANc_CFG (R184). -/
abbrev FLD_CAN_CFG (i : Nat) : Nat := 0x100 + 0x40 * i
/-- FLD_CANc_NBT (R184). -/
abbrev FLD_CAN_NBT (i : Nat) : Nat := 0x104 + 0x40 * i
/-- FLD_CANc_DBT (R184). -/
abbrev FLD_CAN_DBT (i : Nat) : Nat := 0x108 + 0x40 * i
/-- FLD_CANc_STAT (R184). -/
abbrev FLD_CAN_STAT (i : Nat) : Nat := 0x10C + 0x40 * i
/-- FLD_CANc_CNT_LATE (R184). -/
abbrev FLD_CAN_CNT_LATE (i : Nat) : Nat := 0x110 + 0x40 * i
/-- FLD_CANc_CNT_RX_DROP (R184). -/
abbrev FLD_CAN_CNT_RX_DROP (i : Nat) : Nat := 0x114 + 0x40 * i
/-- INA_CFG (R212). -/
abbrev INA_CFG : Nat := 0x040
/-- INA_CTRL (R212). -/
abbrev INA_CTRL : Nat := 0x044
/-- INA_STAT (R212). -/
abbrev INA_STAT : Nat := 0x048
/-- INA_TOPO_ACT (R212). -/
abbrev INA_TOPO_ACT : Nat := 0x04C
/-- INA_TOPO_SHD (R212). -/
abbrev INA_TOPO_SHD : Nat := 0x050
/-- INA_BLK_ROW (R212). -/
abbrev INA_BLK_ROW : Nat := 0x054
/-- INA_T_HELLO (R212). -/
abbrev INA_T_HELLO : Nat := 0x058
/-- INA_T_STABLE (R212). -/
abbrev INA_T_STABLE : Nat := 0x05C
/-- INA_T_TOPO (R212). -/
abbrev INA_T_TOPO : Nat := 0x060
/-- INA_BLK_CFG (R212). -/
abbrev INA_BLK_CFG : Nat := 0x064
/-- INA_CPL (R212). -/
abbrev INA_CPL : Nat := 0x068
/-- INA_NODES (R212). -/
abbrev INA_NODES : Nat := 0x06C
/-- INA_CNT (R212). -/
abbrev INA_CNT : Nat := 0x070
/-- INA_CST_UID_LO (R212). -/
abbrev INA_CST_UID_LO : Nat := 0x074
/-- INA_CST_UID_HI (R212). -/
abbrev INA_CST_UID_HI : Nat := 0x078
/-- INA_PORT (R212). -/
abbrev INA_PORT : Nat := 0x07C
/-- FWD_DIR_CFG (R237). -/
abbrev FWD_DIR_CFG : Nat := 0x400
/-- FWD_DIR_STAT (R237). -/
abbrev FWD_DIR_STAT : Nat := 0x404
/-- FWD_DIR_RSV (R237). -/
abbrev FWD_DIR_RSV : Nat := 0x408
/-- FWD_DIR_CNT_MISS (R237). -/
abbrev FWD_DIR_CNT_MISS : Nat := 0x40C
/-- FWD_DIR_CNT_LRN_DROP (R237). -/
abbrev FWD_DIR_CNT_LRN_DROP : Nat := 0x410
/-- FWD_DIR_FLUSH (R237). -/
abbrev FWD_DIR_FLUSH : Nat := 0x414
/-- FWD_XLT_CFG (R237). -/
abbrev FWD_XLT_CFG : Nat := 0x420
/-- FWD_XLT_TRN_BASE (R237). -/
abbrev FWD_XLT_TRN_BASE : Nat := 0x424
/-- FWD_XLT_HOST_MASK (R237). -/
abbrev FWD_XLT_HOST_MASK : Nat := 0x428
/-- FWD_XLT_MAC_LO (R237). -/
abbrev FWD_XLT_MAC_LO : Nat := 0x42C
/-- FWD_XLT_MAC_HI (R237). -/
abbrev FWD_XLT_MAC_HI : Nat := 0x430
/-- FWD_XLT_STAT (R237). -/
abbrev FWD_XLT_STAT : Nat := 0x434
/-- FWD_XLT_CNT_MISS (R237). -/
abbrev FWD_XLT_CNT_MISS : Nat := 0x438
/-- FWD_XLT_CNT_NONUM (R237). -/
abbrev FWD_XLT_CNT_NONUM : Nat := 0x43C
/-- FWD_TBL_CNT_DBL (R237). -/
abbrev FWD_TBL_CNT_DBL : Nat := 0x440
/-- SCH_BLK_CFG (R238). -/
abbrev SCH_BLK_CFG : Nat := 0x280
/-- SCH_BLK_STAT (R238). -/
abbrev SCH_BLK_STAT : Nat := 0x284
/-- SCH_BLK_ROW (R238). -/
abbrev SCH_BLK_ROW : Nat := 0x288
/-- SCH_BLK_CTRL (R238). -/
abbrev SCH_BLK_CTRL : Nat := 0x28C
/-- SCH_YO_CFG (R238). -/
abbrev SCH_YO_CFG : Nat := 0x290
/-- SCH_YO_STAT (R238). -/
abbrev SCH_YO_STAT : Nat := 0x294
/-- SCH_YO_CNT (R238). -/
abbrev SCH_YO_CNT : Nat := 0x298
/-- DSK_CFG (R267). -/
abbrev DSK_CFG : Nat := 0x040
/-- DSK_STAT (R267). -/
abbrev DSK_STAT : Nat := 0x044
/-- DSK_KNIT_LEAD (R267). -/
abbrev DSK_KNIT_LEAD : Nat := 0x048
/-- DSK_COMMIT (R267). -/
abbrev DSK_COMMIT : Nat := 0x04C
/-- DSK_COMMIT_STAT (R267). -/
abbrev DSK_COMMIT_STAT : Nat := 0x050
/-- DSK_NTF_POP (R267). -/
abbrev DSK_NTF_POP : Nat := 0x054
/-- DSK_NTF_CNT (R267). -/
abbrev DSK_NTF_CNT : Nat := 0x058
/-- DSK_FRER_CFG (R267). -/
abbrev DSK_FRER_CFG : Nat := 0x05C
/-- DSK_CMP_TICK (R267). -/
abbrev DSK_CMP_TICK : Nat := 0x060
/-- DSK_SKN_DA_LO (R267). -/
abbrev DSK_SKN_DA_LO : Nat := 0x064
/-- DSK_SKN_DA_HI (R267). -/
abbrev DSK_SKN_DA_HI : Nat := 0x068
/-- DSK_STORE (R267). -/
abbrev DSK_STORE : Nat := 0x06C
/-- DSK_CNT_FOREIGN (R267). -/
abbrev DSK_CNT_FOREIGN : Nat := 0x080
/-- DSK_CNT_DUP (R267). -/
abbrev DSK_CNT_DUP : Nat := 0x084
/-- DSK_CNT_ROGUE (R267). -/
abbrev DSK_CNT_ROGUE : Nat := 0x088
/-- DSK_CNT_SINGLE (R267). -/
abbrev DSK_CNT_SINGLE : Nat := 0x08C
/-- DSK_CNT_TRDP_BAD (R267). -/
abbrev DSK_CNT_TRDP_BAD : Nat := 0x090
/-- DSK_CNT_XDIE (R267). -/
abbrev DSK_CNT_XDIE : Nat := 0x094
/-- PRT_VLAN_CFG (R292). -/
abbrev PRT_VLAN_CFG : Nat := 0x400
/-- PRT_QMAP (R292). -/
abbrev PRT_QMAP : Nat := 0x404
/-- PRT_MAXLEN (R292). -/
abbrev PRT_MAXLEN : Nat := 0x408
/-- PRT_DWRR (R292). -/
abbrev PRT_DWRR : Nat := 0x40C
/-- PRT_GATE_CFG (R292). -/
abbrev PRT_GATE_CFG : Nat := 0x410
/-- PRT_GATE_STAT (R292). -/
abbrev PRT_GATE_STAT : Nat := 0x414
/-- PRT_PRE_CFG (R292). -/
abbrev PRT_PRE_CFG : Nat := 0x418
/-- PRT_PRE_STAT (R292). -/
abbrev PRT_PRE_STAT : Nat := 0x41C
/-- PRT_SRSV (R292). -/
abbrev PRT_SRSV : Nat := 0x420
/-- PRT_PFC_CFG (R292). -/
abbrev PRT_PFC_CFG : Nat := 0x424
/-- PRT_PFC_THR (R292). -/
abbrev PRT_PFC_THR : Nat := 0x428
/-- PRT_PFC_HDRM (R292). -/
abbrev PRT_PFC_HDRM : Nat := 0x42C
/-- PRT_Qq_CELLS (R292). -/
abbrev PRT_Q_CELLS (i : Nat) : Nat := 0x430 + 0x4 * i
/-- PRT_PFC_STAT (R292). -/
abbrev PRT_PFC_STAT : Nat := 0x450
/-- PRT_CNT_TAILDROP (R292). -/
abbrev PRT_CNT_TAILDROP : Nat := 0x460
/-- PRT_CNT_OVERSIZE (R292). -/
abbrev PRT_CNT_OVERSIZE : Nat := 0x464
/-- PRT_CNT_VLAN_DROP (R292). -/
abbrev PRT_CNT_VLAN_DROP : Nat := 0x468
/-- PRT_CNT_HDRM_DROP (R292). -/
abbrev PRT_CNT_HDRM_DROP : Nat := 0x46C
/-- PRT_CNT_PREEMPT (R292). -/
abbrev PRT_CNT_PREEMPT : Nat := 0x470
/-- PRT_CNT_HELD (R292). -/
abbrev PRT_CNT_HELD : Nat := 0x474
/-- PRT_CNT_PFC_TX (R292). -/
abbrev PRT_CNT_PFC_TX : Nat := 0x478
/-- PRT_CNT_PFC_RX (R292). -/
abbrev PRT_CNT_PFC_RX : Nat := 0x47C
/-- FWD_CFG (R293). -/
abbrev FWD_CFG : Nat := 0x040
/-- FWD_STAT (R293). -/
abbrev FWD_STAT : Nat := 0x044
/-- FWD_RNAT_CFG (R293). -/
abbrev FWD_RNAT_CFG : Nat := 0x048
/-- FWD_CNT_FLOOD (R293). -/
abbrev FWD_CNT_FLOOD : Nat := 0x04C
/-- FWD_CNT_TURN_DROP (R293). -/
abbrev FWD_CNT_TURN_DROP : Nat := 0x050
/-- FWD_CNT_ARP_MISS (R293). -/
abbrev FWD_CNT_ARP_MISS : Nat := 0x054
/-- FWD_CNT_TTL (R293). -/
abbrev FWD_CNT_TTL : Nat := 0x058
/-- FWD_CNT_HOST (R293). -/
abbrev FWD_CNT_HOST : Nat := 0x05C
/-- BUF_CFG (R295). -/
abbrev BUF_CFG : Nat := 0x040
/-- BUF_KRSV (R295). -/
abbrev BUF_KRSV : Nat := 0x044
/-- BUF_MRSV (R295). -/
abbrev BUF_MRSV : Nat := 0x048
/-- BUF_TRSV (R295). -/
abbrev BUF_TRSV : Nat := 0x04C
/-- BUF_RSV_SUM (R295). -/
abbrev BUF_RSV_SUM : Nat := 0x050
/-- BUF_SHARED (R295). -/
abbrev BUF_SHARED : Nat := 0x054
/-- BUF_FREE (R295). -/
abbrev BUF_FREE : Nat := 0x058
/-- BUF_LOW (R295). -/
abbrev BUF_LOW : Nat := 0x05C
/-- BUF_MIN_FREE (R295). -/
abbrev BUF_MIN_FREE : Nat := 0x060
/-- BUF_CNT_TAILDROP (R295). -/
abbrev BUF_CNT_TAILDROP : Nat := 0x064
/-- BUF_CNT_NOCELL (R295). -/
abbrev BUF_CNT_NOCELL : Nat := 0x068
/-- BUF_CNT_BORROW (R295). -/
abbrev BUF_CNT_BORROW : Nat := 0x06C
/-- KLK_CTRL (R296). -/
abbrev KLK_CTRL : Nat := 0x040
/-- KLK_STAT (R296). -/
abbrev KLK_STAT : Nat := 0x044
/-- KLK_RTT (R296). -/
abbrev KLK_RTT : Nat := 0x048
/-- KLK_CRD_CFG0 (R296). -/
abbrev KLK_CRD_CFG0 : Nat := 0x04C
/-- KLK_CRD_CFG1 (R296). -/
abbrev KLK_CRD_CFG1 : Nat := 0x050
/-- KLK_CRD_AV0 (R296). -/
abbrev KLK_CRD_AV0 : Nat := 0x054
/-- KLK_CRD_AV1 (R296). -/
abbrev KLK_CRD_AV1 : Nat := 0x058
/-- KLK_CNT_REPLAY (R296). -/
abbrev KLK_CNT_REPLAY : Nat := 0x05C
/-- KLK_CNT_DOWN (R296). -/
abbrev KLK_CNT_DOWN : Nat := 0x060
/-- RNG_CFG (R314). -/
abbrev RNG_CFG : Nat := 0x040
/-- RNG_DET_T (R314). -/
abbrev RNG_DET_T : Nat := 0x044
/-- RNG_PAIR_T (R314). -/
abbrev RNG_PAIR_T : Nat := 0x048
/-- RNG_RST_HOLD (R314). -/
abbrev RNG_RST_HOLD : Nat := 0x04C
/-- RNG_STAT (R314). -/
abbrev RNG_STAT : Nat := 0x050
/-- RNG_FORCE (R314). -/
abbrev RNG_FORCE : Nat := 0x054
/-- RNG_TURN_ST (R314). -/
abbrev RNG_TURN_ST : Nat := 0x058
/-- RNG_NTC_SEQ (R314). -/
abbrev RNG_NTC_SEQ : Nat := 0x05C
/-- RNG_CNT_TURN (R314). -/
abbrev RNG_CNT_TURN : Nat := 0x060
/-- RNG_CNT_CROSS (R314). -/
abbrev RNG_CNT_CROSS : Nat := 0x064
/-- RNG_CNT_TDROP (R314). -/
abbrev RNG_CNT_TDROP : Nat := 0x068
/-- RNG_CNT_SYNC_DROP (R314). -/
abbrev RNG_CNT_SYNC_DROP : Nat := 0x06C
/-- RNG_CNT_STRIP (R314). -/
abbrev RNG_CNT_STRIP : Nat := 0x070
/-- RNG_CNT_NOTICE (R314). -/
abbrev RNG_CNT_NOTICE : Nat := 0x074
/-- RNG_KNOWNk (R314). -/
abbrev RNG_KNOWN (i : Nat) : Nat := 0x100 + 0x8 * i
/-- RNG_KNOWNk_ST (R314). -/
abbrev RNG_KNOWN_ST (i : Nat) : Nat := 0x104 + 0x8 * i
/-- TWN_CFG (R340). -/
abbrev TWN_CFG : Nat := 0x040
/-- TWN_CTRL (R340). -/
abbrev TWN_CTRL : Nat := 0x044
/-- TWN_STAT (R340). -/
abbrev TWN_STAT : Nat := 0x048
/-- TWN_REF (R340). -/
abbrev TWN_REF : Nat := 0x04C
/-- TWN_PAIR (R340). -/
abbrev TWN_PAIR : Nat := 0x050
/-- TWN_PEER (R340). -/
abbrev TWN_PEER : Nat := 0x054
/-- TWN_PEER_UID_LO (R340). -/
abbrev TWN_PEER_UID_LO : Nat := 0x058
/-- TWN_PEER_UID_HI (R340). -/
abbrev TWN_PEER_UID_HI : Nat := 0x05C
/-- TWN_ETYPE (R340). -/
abbrev TWN_ETYPE : Nat := 0x060
/-- TWN_LL_ROW (R340). -/
abbrev TWN_LL_ROW : Nat := 0x064
/-- TWN_RS_PROG (R340). -/
abbrev TWN_RS_PROG : Nat := 0x068
/-- TWN_SW_ST (R340). -/
abbrev TWN_SW_ST : Nat := 0x06C
/-- TWN_SW_T (R340). -/
abbrev TWN_SW_T : Nat := 0x070
/-- TWN_LL_TDd_TENS_LO (R340). -/
abbrev TWN_LL_TENS_LO (i : Nat) : Nat := 0x080 + 0x10 * i
/-- TWN_LL_TDd_TENS_HI (R340). -/
abbrev TWN_LL_TENS_HI (i : Nat) : Nat := 0x084 + 0x10 * i
/-- TWN_LL_TDd_RR (R340). -/
abbrev TWN_LL_RR (i : Nat) : Nat := 0x088 + 0x10 * i
/-- TWN_LL_TDd_SLAVE (R340). -/
abbrev TWN_LL_SLAVE (i : Nat) : Nat := 0x08C + 0x10 * i
/-- TWN_CNT_DELTA (R340). -/
abbrev TWN_CNT_DELTA : Nat := 0x0A0
/-- TWN_CNT_OVF (R340). -/
abbrev TWN_CNT_OVF : Nat := 0x0A4
/-- TWN_CNT_GAP (R340). -/
abbrev TWN_CNT_GAP : Nat := 0x0A8
/-- TWN_CNT_HB_LOSS (R340). -/
abbrev TWN_CNT_HB_LOSS : Nat := 0x0AC
/-- TWN_CNT_TAKE (R340). -/
abbrev TWN_CNT_TAKE : Nat := 0x0B0
/-- TWN_CNT_ARB_LOST (R340). -/
abbrev TWN_CNT_ARB_LOST : Nat := 0x0B4
/-- KBY_CTRL (R354). -/
abbrev KBY_CTRL : Nat := 0x040
/-- KBY_STAT (R354). -/
abbrev KBY_STAT : Nat := 0x044
/-- KBY_FAULT (R354). -/
abbrev KBY_FAULT : Nat := 0x048
/-- KBY_PULLIN (R354). -/
abbrev KBY_PULLIN : Nat := 0x04C
/-- KBY_HOLD (R354). -/
abbrev KBY_HOLD : Nat := 0x050
/-- KBY_REL_T (R354). -/
abbrev KBY_REL_T : Nat := 0x054
/-- KBY_STAG (R354). -/
abbrev KBY_STAG : Nat := 0x058
/-- KBY_VRLY (R354). -/
abbrev KBY_VRLY : Nat := 0x05C
/-- KBY_SNS_NET (R354). -/
abbrev KBY_SNS_NET : Nat := 0x060
/-- KBY_COIL_LIM (R354). -/
abbrev KBY_COIL_LIM : Nat := 0x064
/-- KBY_COILn (R354). -/
abbrev KBY_COIL (i : Nat) : Nat := 0x070 + 0x4 * i
/-- KBY_LAD_CFG (R354). -/
abbrev KBY_LAD_CFG : Nat := 0x080
/-- KBY_LAD_STAT (R354). -/
abbrev KBY_LAD_STAT : Nat := 0x084
/-- KBY_BURST (R354). -/
abbrev KBY_BURST : Nat := 0x088
/-- RNG_INSERT (R355). -/
abbrev RNG_INSERT : Nat := 0x080
/-- RNG_I2C_CFG (R355). -/
abbrev RNG_I2C_CFG : Nat := 0x0C0
/-- RNG_I2C_CMD (R355). -/
abbrev RNG_I2C_CMD : Nat := 0x0C4
/-- RNG_I2C_DATA (R355). -/
abbrev RNG_I2C_DATA : Nat := 0x0C8
/-- RNG_I2C_STAT (R355). -/
abbrev RNG_I2C_STAT : Nat := 0x0CC
/-- RNG_I2C_POLLk (R355). -/
abbrev RNG_I2C_POLL (i : Nat) : Nat := 0x0D0 + 0x8 * i
/-- RNG_I2C_POLLk_VAL (R355). -/
abbrev RNG_I2C_POLL_VAL (i : Nat) : Nat := 0x0D4 + 0x8 * i
/-- PRT_LINE_CFG (R355). -/
abbrev PRT_LINE_CFG : Nat := 0x500
/-- PRT_LINE_STAT (R355). -/
abbrev PRT_LINE_STAT : Nat := 0x504
/-- KWK_WAKE_CFG (R369). -/
abbrev KWK_WAKE_CFG : Nat := 0x040
/-- KWK_DEB (R369). -/
abbrev KWK_DEB : Nat := 0x044
/-- KWK_KA (R369). -/
abbrev KWK_KA : Nat := 0x048
/-- KWK_BO (R369). -/
abbrev KWK_BO : Nat := 0x04C
/-- KWK_MIN_OFF (R369). -/
abbrev KWK_MIN_OFF : Nat := 0x050
/-- KWK_NEED (R369). -/
abbrev KWK_NEED : Nat := 0x054
/-- KWK_STAT (R369). -/
abbrev KWK_STAT : Nat := 0x058
/-- KWK_KA_LEFT (R369). -/
abbrev KWK_KA_LEFT : Nat := 0x05C
/-- KWK_BO_END (R369). -/
abbrev KWK_BO_END : Nat := 0x060
/-- KWK_ALARM (R369). -/
abbrev KWK_ALARM : Nat := 0x064
/-- KWK_CNT (R369). -/
abbrev KWK_CNT : Nat := 0x068
/-- EVC_CTRL (R392). -/
abbrev EVC_CTRL : Nat := 0x040
/-- EVC_STAT (R392). -/
abbrev EVC_STAT : Nat := 0x044
/-- EVC_TGT_EN (R392). -/
abbrev EVC_TGT_EN : Nat := 0x048
/-- EVC_TGT_WAKE (R392). -/
abbrev EVC_TGT_WAKE : Nat := 0x04C
/-- EVC_SRC_CMD (R392). -/
abbrev EVC_SRC_CMD : Nat := 0x050
/-- EVC_CLAIM_Tt (R392). -/
abbrev EVC_CLAIM (i : Nat) : Nat := 0x080 + 0x8 * i
/-- EVC_DONE_Tt (R392). -/
abbrev EVC_DONE (i : Nat) : Nat := 0x084 + 0x8 * i
/-- EVC_RQ_Tt_BASE_LO (R392). -/
abbrev EVC_RQ_BASE_LO (i : Nat) : Nat := 0x100 + 0x20 * i
/-- EVC_RQ_Tt_BASE_HI (R392). -/
abbrev EVC_RQ_BASE_HI (i : Nat) : Nat := 0x104 + 0x20 * i
/-- EVC_RQ_Tt_CFG (R392). -/
abbrev EVC_RQ_CFG (i : Nat) : Nat := 0x108 + 0x20 * i
/-- EVC_RQ_Tt_PROD (R392). -/
abbrev EVC_RQ_PROD (i : Nat) : Nat := 0x10C + 0x20 * i
/-- EVC_RQ_Tt_CONS (R392). -/
abbrev EVC_RQ_CONS (i : Nat) : Nat := 0x110 + 0x20 * i
/-- EVC_RQ_Tt_MOD (R392). -/
abbrev EVC_RQ_MOD (i : Nat) : Nat := 0x114 + 0x20 * i
/-- EVC_RQ_Tt_CNT (R392). -/
abbrev EVC_RQ_CNT (i : Nat) : Nat := 0x118 + 0x20 * i
/-- EVC_PENDw (R393). -/
abbrev EVC_PEND (i : Nat) : Nat := 0x040 + 0x4 * i
/-- EVC_ENAw (R393). -/
abbrev EVC_ENA (i : Nat) : Nat := 0x0C0 + 0x4 * i
/-- EVC_ACTw (R393). -/
abbrev EVC_ACT (i : Nat) : Nat := 0x140 + 0x4 * i
/-- EVC_RAWw (R393). -/
abbrev EVC_RAW (i : Nat) : Nat := 0x1C0 + 0x4 * i
/-- EVC_ROUTEn (R394). -/
abbrev EVC_ROUTE (i : Nat) : Nat := 0x040 + 0x4 * i
/-- HDM_CTRL (R421). -/
abbrev HDM_CTRL : Nat := 0x040
/-- HDM_STAT (R421). -/
abbrev HDM_STAT : Nat := 0x044
/-- HDM_RX_MAP_CLS0 (R421). -/
abbrev HDM_RX_MAP_CLS0 : Nat := 0x048
/-- HDM_RX_MAP_CLS1 (R421). -/
abbrev HDM_RX_MAP_CLS1 : Nat := 0x04C
/-- HDM_RX_MAP_RSN0 (R421). -/
abbrev HDM_RX_MAP_RSN0 : Nat := 0x050
/-- HDM_RX_MAP_RSN1 (R421). -/
abbrev HDM_RX_MAP_RSN1 : Nat := 0x054
/-- HDM_DMA_ERR (R421). -/
abbrev HDM_DMA_ERR : Nat := 0x058
/-- HDM_DMA_ERR_ADDR_LO (R421). -/
abbrev HDM_DMA_ERR_ADDR_LO : Nat := 0x05C
/-- HDM_DMA_ERR_ADDR_HI (R421). -/
abbrev HDM_DMA_ERR_ADDR_HI : Nat := 0x060
/-- HDM_CNT_PARTIAL (R421). -/
abbrev HDM_CNT_PARTIAL : Nat := 0x064
/-- HDM_CNT_XDIE (R421). -/
abbrev HDM_CNT_XDIE : Nat := 0x068
/-- HDM_TXn_BASE_LO (R421). -/
abbrev HDM_TX_BASE_LO (i : Nat) : Nat := 0x040 + 0x20 * i
/-- HDM_TXn_BASE_LO (R421). -/
abbrev HDM_RX_BASE_LO (i : Nat) : Nat := 0x040 + 0x20 * i
/-- HDM_TXn_BASE_HI (R421). -/
abbrev HDM_TX_BASE_HI (i : Nat) : Nat := 0x044 + 0x20 * i
/-- HDM_TXn_BASE_HI (R421). -/
abbrev HDM_RX_BASE_HI (i : Nat) : Nat := 0x044 + 0x20 * i
/-- HDM_TXn_CFG (R421). -/
abbrev HDM_TX_CFG (i : Nat) : Nat := 0x048 + 0x20 * i
/-- HDM_TXn_CFG (R421). -/
abbrev HDM_RX_CFG (i : Nat) : Nat := 0x048 + 0x20 * i
/-- HDM_TXn_TAIL (R421). -/
abbrev HDM_TX_TAIL (i : Nat) : Nat := 0x04C + 0x20 * i
/-- HDM_TXn_TAIL (R421). -/
abbrev HDM_RX_TAIL (i : Nat) : Nat := 0x04C + 0x20 * i
/-- HDM_TXn_HEAD (R421). -/
abbrev HDM_TX_HEAD (i : Nat) : Nat := 0x050 + 0x20 * i
/-- HDM_TXn_HEAD (R421). -/
abbrev HDM_RX_HEAD (i : Nat) : Nat := 0x050 + 0x20 * i
/-- HDM_TXn_CLEAN (R421). -/
abbrev HDM_TX_CLEAN (i : Nat) : Nat := 0x054 + 0x20 * i
/-- HDM_TXn_CLEAN (R421). -/
abbrev HDM_RX_CONS (i : Nat) : Nat := 0x054 + 0x20 * i
/-- HDM_TXn_CNT (R421). -/
abbrev HDM_TX_CNT (i : Nat) : Nat := 0x058 + 0x20 * i
/-- HDM_TXn_CNT (R421). -/
abbrev HDM_RX_DROP (i : Nat) : Nat := 0x058 + 0x20 * i
/-- BRG_CFG (R422). -/
abbrev BRG_CFG : Nat := 0x040
/-- BRG_TMO (R422). -/
abbrev BRG_TMO : Nat := 0x044
/-- BRG_RTX (R422). -/
abbrev BRG_RTX : Nat := 0x048
/-- BRG_CTRL (R422). -/
abbrev BRG_CTRL : Nat := 0x04C
/-- BRG_STAT (R422). -/
abbrev BRG_STAT : Nat := 0x050
/-- BRG_ERR_W0 (R422). -/
abbrev BRG_ERR_W0 : Nat := 0x054
/-- BRG_ERR_W1 (R422). -/
abbrev BRG_ERR_W1 : Nat := 0x058
/-- BRG_ERR_W2 (R422). -/
abbrev BRG_ERR_W2 : Nat := 0x05C
/-- BRG_ERR_W3 (R422). -/
abbrev BRG_ERR_W3 : Nat := 0x060
/-- BRG_ERR_CNT (R422). -/
abbrev BRG_ERR_CNT : Nat := 0x064
/-- BRG_REV_Wi (R422). -/
abbrev BRG_REV_W (i : Nat) : Nat := 0x068 + 0x4 * i
/-- BRG_REV_CNT (R422). -/
abbrev BRG_REV_CNT : Nat := 0x084
/-- BRG_CNT_PF_HIT (R422). -/
abbrev BRG_CNT_PF_HIT : Nat := 0x088
/-- BRG_CNT_RTX (R422). -/
abbrev BRG_CNT_RTX : Nat := 0x08C
/-- BRG_CNT_LATE_RSP (R422). -/
abbrev BRG_CNT_LATE_RSP : Nat := 0x090
/-- BRG_CNT_DUP (R422). -/
abbrev BRG_CNT_DUP : Nat := 0x094
/-- BRG_WINw_CFG (R422). -/
abbrev BRG_WIN_CFG (i : Nat) : Nat := 0x100 + 0x40 * i
/-- BRG_WINw_UID_LO (R422). -/
abbrev BRG_WIN_UID_LO (i : Nat) : Nat := 0x104 + 0x40 * i
/-- BRG_WINw_UID_HI (R422). -/
abbrev BRG_WIN_UID_HI (i : Nat) : Nat := 0x108 + 0x40 * i
/-- BRG_WINw_OUT (R422). -/
abbrev BRG_WIN_OUT (i : Nat) : Nat := 0x10C + 0x40 * i
/-- BRG_WINw_PFk (R422). -/
abbrev BRG_WIN_PF (i k : Nat) : Nat := 0x110 + 0x40 * i + 0x4 * k
/-- BRG_FWDk (R422). -/
abbrev BRG_FWD (i : Nat) : Nat := 0x300 + 0x4 * i
/-- SEC_CFG (R436). -/
abbrev SEC_CFG : Nat := 0x040
/-- SEC_STAT (R436). -/
abbrev SEC_STAT : Nat := 0x044
/-- SEC_LOCK_VIOL (R436). -/
abbrev SEC_LOCK_VIOL : Nat := 0x048
/-- SEC_CNT_LOCKED (R436). -/
abbrev SEC_CNT_LOCKED : Nat := 0x04C
/-- SEC_PN_THR_LO (R436). -/
abbrev SEC_PN_THR_LO : Nat := 0x050
/-- SEC_PN_THR_HI (R436). -/
abbrev SEC_PN_THR_HI : Nat := 0x054
/-- SEC_JTAG_CHALi (R436). -/
abbrev SEC_JTAG_CHAL (i : Nat) : Nat := 0x058 + 0x4 * i
/-- SEC_JTAG_RESPi (R436). -/
abbrev SEC_JTAG_RESP (i : Nat) : Nat := 0x080 + 0x4 * i
/-- SEC_JTAG_CTRL (R436). -/
abbrev SEC_JTAG_CTRL : Nat := 0x100
/-- SEC_JTAG_STAT (R436). -/
abbrev SEC_JTAG_STAT : Nat := 0x104
/-- SEC_OTP_PROG (R436). -/
abbrev SEC_OTP_PROG : Nat := 0x108
/-- SEC_OTPi (R436). -/
abbrev SEC_OTP (i : Nat) : Nat := 0x200 + 0x4 * i
/-- SEC_PORT_CFG (R437). -/
abbrev SEC_PORT_CFG : Nat := 0x040
/-- SEC_PORT_TXSA (R437). -/
abbrev SEC_PORT_TXSA : Nat := 0x044
/-- SEC_PORT_SCI_LO (R437). -/
abbrev SEC_PORT_SCI_LO : Nat := 0x048
/-- SEC_PORT_SCI_HI (R437). -/
abbrev SEC_PORT_SCI_HI : Nat := 0x04C
/-- SEC_PORT_WIN (R437). -/
abbrev SEC_PORT_WIN : Nat := 0x050
/-- SEC_CNT_TXDROP (R437). -/
abbrev SEC_CNT_TXDROP : Nat := 0x060
/-- SEC_CNT_NOSA (R437). -/
abbrev SEC_CNT_NOSA : Nat := 0x064
/-- SEC_CNT_ICV (R437). -/
abbrev SEC_CNT_ICV : Nat := 0x068
/-- SEC_CNT_REPLAY (R437). -/
abbrev SEC_CNT_REPLAY : Nat := 0x06C
/-- SEC_CNT_UNSEC (R437). -/
abbrev SEC_CNT_UNSEC : Nat := 0x070
/-- CTRL (R437). -/
abbrev SEC_TX_CTRL (i : Nat) : Nat := 0x100 + 0x80 * i
/-- CTRL (R437). -/
abbrev SEC_RX_CTRL (i : Nat) : Nat := 0x500 + 0x80 * i
/-- SSCI (R437). -/
abbrev SEC_TX_SSCI (i : Nat) : Nat := 0x104 + 0x80 * i
/-- SSCI (R437). -/
abbrev SEC_RX_SSCI (i : Nat) : Nat := 0x504 + 0x80 * i
/-- PN_LO (R437). -/
abbrev SEC_TX_PN_LO (i : Nat) : Nat := 0x108 + 0x80 * i
/-- PN_LO (R437). -/
abbrev SEC_RX_PN_LO (i : Nat) : Nat := 0x508 + 0x80 * i
/-- PN_HI (R437). -/
abbrev SEC_TX_PN_HI (i : Nat) : Nat := 0x10C + 0x80 * i
/-- PN_HI (R437). -/
abbrev SEC_RX_PN_HI (i : Nat) : Nat := 0x50C + 0x80 * i
/-- SCI_LO (R437). -/
abbrev SEC_RX_SCI_LO (i : Nat) : Nat := 0x510 + 0x80 * i
/-- SCI_HI (R437). -/
abbrev SEC_RX_SCI_HI (i : Nat) : Nat := 0x514 + 0x80 * i
/-- KEYk (R437). -/
abbrev SEC_TX_KEY (i k : Nat) : Nat := 0x120 + 0x80 * i + 0x4 * k
/-- KEYk (R437). -/
abbrev SEC_RX_KEY (i k : Nat) : Nat := 0x520 + 0x80 * i + 0x4 * k
/-- SALTk (R437). -/
abbrev SEC_TX_SALT (i k : Nat) : Nat := 0x140 + 0x80 * i + 0x4 * k
/-- SALTk (R437). -/
abbrev SEC_RX_SALT (i k : Nat) : Nat := 0x540 + 0x80 * i + 0x4 * k
/-- CNT (R437). -/
abbrev SEC_TX_CNT (i : Nat) : Nat := 0x14C + 0x80 * i
/-- CNT (R437). -/
abbrev SEC_RX_CNT (i : Nat) : Nat := 0x54C + 0x80 * i
/-- STA_CFG (R456). -/
abbrev STA_CFG : Nat := 0x040
/-- STA_PERIOD (R456). -/
abbrev STA_PERIOD : Nat := 0x044
/-- STA_CTRL (R456). -/
abbrev STA_CTRL : Nat := 0x048
/-- STA_STAT (R456). -/
abbrev STA_STAT : Nat := 0x04C
/-- STA_SNAP_ROW (R456). -/
abbrev STA_SNAP_ROW : Nat := 0x050
/-- STA_SNAP_ST (R456). -/
abbrev STA_SNAP_ST : Nat := 0x054
/-- STA_SNAP_LEN (R456). -/
abbrev STA_SNAP_LEN : Nat := 0x058
/-- SWT_REQ (R458). -/
abbrev SWT_REQ : Nat := 0x040
/-- SWT_REQ_STAT (R458). -/
abbrev SWT_REQ_STAT : Nat := 0x044
/-- SWT_RUN (R458). -/
abbrev SWT_RUN : Nat := 0x048
/-- SWT_BIST_CFG (R458). -/
abbrev SWT_BIST_CFG : Nat := 0x04C
/-- SWT_BIST_STAT (R458). -/
abbrev SWT_BIST_STAT : Nat := 0x050
/-- SWT_BIST_PASS (R458). -/
abbrev SWT_BIST_PASS : Nat := 0x054
/-- SWT_EYE_RES (R458). -/
abbrev SWT_EYE_RES : Nat := 0x058
/-- SWT_TSCAL_CFG (R458). -/
abbrev SWT_TSCAL_CFG : Nat := 0x05C
/-- SWT_TSCAL_RES (R458). -/
abbrev SWT_TSCAL_RES : Nat := 0x060
/-- SWT_LBIST (R458). -/
abbrev SWT_LBIST : Nat := 0x064
/-- SWT_LOOP_CFG (R458). -/
abbrev SWT_LOOP_CFG : Nat := 0x068
/-- SWT_LOOP_SENT (R458). -/
abbrev SWT_LOOP_SENT : Nat := 0x06C
/-- SWT_LOOP_RCVD (R458). -/
abbrev SWT_LOOP_RCVD : Nat := 0x070
/-- SWT_LOOP_ERR (R458). -/
abbrev SWT_LOOP_ERR : Nat := 0x074
/-- KPS_CFG (R472). -/
abbrev KPS_CFG : Nat := 0x040
/-- KPS_STAT (R472). -/
abbrev KPS_STAT : Nat := 0x044
/-- KPS_RST_REQ (R472). -/
abbrev KPS_RST_REQ : Nat := 0x048
/-- KPS_T_PGOOD (R472). -/
abbrev KPS_T_PGOOD : Nat := 0x04C
/-- DIE_BOOT_STAT (R473). -/
abbrev DIE_BOOT_STAT : Nat := 0x040
/-- DIE_BOOT_CTRL (R473). -/
abbrev DIE_BOOT_CTRL : Nat := 0x044
/-- DIE_BOOT_LEN (R473). -/
abbrev DIE_BOOT_LEN : Nat := 0x048
/-- DIE_BOOT_VER (R473). -/
abbrev DIE_BOOT_VER : Nat := 0x04C
/-- DIE_BOOT_T (R473). -/
abbrev DIE_BOOT_T : Nat := 0x050
/-- DIE_BOOT_FAIL (R473). -/
abbrev DIE_BOOT_FAIL : Nat := 0x054
/-- CLU_STAGE (R490). -/
abbrev CLU_STAGE : Nat := 0x040
/-- CLU_STAGE_MAX (R490). -/
abbrev CLU_STAGE_MAX : Nat := 0x044
/-- CLU_WGTi (R490). -/
abbrev CLU_WGT (i : Nat) : Nat := 0x050 + 0x4 * i
/-- DIE_INFO (R491). -/
abbrev DIE_INFO : Nat := 0x080
/-- DIE_MAC_LO (R491). -/
abbrev DIE_MAC_LO : Nat := 0x084
/-- DIE_MAC_HI (R491). -/
abbrev DIE_MAC_HI : Nat := 0x088
/-- PRT_LINK_STAT (R491). -/
abbrev PRT_LINK_STAT : Nat := 0x040
/-- DIE_MDIO_CMD (R492). -/
abbrev DIE_MDIO_CMD : Nat := 0x0A0
/-- DIE_MDIO_DATA (R492). -/
abbrev DIE_MDIO_DATA : Nat := 0x0A4
/-- DIE_MDIO_STAT (R492). -/
abbrev DIE_MDIO_STAT : Nat := 0x0A8
/-- KRT_SEC_LO (R493). -/
abbrev KRT_SEC_LO : Nat := 0x040
/-- KRT_SEC_HI (R493). -/
abbrev KRT_SEC_HI : Nat := 0x044
/-- KRT_SET_LO (R493). -/
abbrev KRT_SET_LO : Nat := 0x048
/-- KRT_SET_HI (R493). -/
abbrev KRT_SET_HI : Nat := 0x04C
/-- KRT_TRIM (R493). -/
abbrev KRT_TRIM : Nat := 0x050
/-- KMS_STAT (R493). -/
abbrev KMS_STAT : Nat := 0x040
/-- KMS_CNT_ERR (R493). -/
abbrev KMS_CNT_ERR : Nat := 0x044
/-- MSIX_ADDR_LO (R401). -/
abbrev MSIX_ADDR_LO (i : Nat) : Nat := 0x040 + 0x10 * i
/-- MSIX_ADDR_HI (R401). -/
abbrev MSIX_ADDR_HI (i : Nat) : Nat := 0x044 + 0x10 * i
/-- MSIX_DATA (R401). -/
abbrev MSIX_DATA (i : Nat) : Nat := 0x048 + 0x10 * i
/-- MSIX_CTRL (R401). -/
abbrev MSIX_CTRL (i : Nat) : Nat := 0x04C + 0x10 * i
/-- PBA (R401). -/
abbrev MSIX_PBA (i : Nat) : Nat := 0x800 + 0x4 * i

/-! ## The register tables of the pages -/

/-- The registers of a DIE page. -/
def rows_die : List RegRow := [
  ⟨0x040, 1, 0x0, .ro, 0x00000000, 0x00000000, 0x00000000, "DIE_BOOT_STAT"⟩,
  ⟨0x044, 1, 0x0, .rw, 0x00000000, 0x00000000, 0x00000000, "DIE_BOOT_CTRL"⟩,
  ⟨0x048, 1, 0x0, .rw, 0x007FFFFF, 0x00000000, 0x00000000, "DIE_BOOT_LEN"⟩,
  ⟨0x04C, 1, 0x0, .ro, 0x00000000, 0x00000000, 0x00000000, "DIE_BOOT_VER"⟩,
  ⟨0x050, 1, 0x0, .ro, 0x00000000, 0x00000000, 0x00000000, "DIE_BOOT_T"⟩,
  ⟨0x054, 1, 0x0, .ro, 0x00000000, 0x00000000, 0x00000000, "DIE_BOOT_FAIL"⟩,
  ⟨0x080, 1, 0x0, .ro, 0x00000000, 0x00000000, 0x00000000, "DIE_INFO"⟩,
  ⟨0x084, 1, 0x0, .rw, 0xFFFFFFFF, 0x00000000, 0x00000000, "DIE_MAC_LO"⟩,
  ⟨0x088, 1, 0x0, .rw, 0x0000FFFF, 0x00000000, 0x00000000, "DIE_MAC_HI"⟩,
  ⟨0x0A0, 1, 0x0, .rw, 0x00001FFF, 0x00000000, 0x00000000, "DIE_MDIO_CMD"⟩,
  ⟨0x0A4, 1, 0x0, .rw, 0x0000FFFF, 0x00000000, 0x00000000, "DIE_MDIO_DATA"⟩,
  ⟨0x0A8, 1, 0x0, .ro, 0x00000000, 0x00000000, 0x00000000, "DIE_MDIO_STAT"⟩,
  ⟨0x0C0, 1, 0x0, .rw, 0x00001FFF, 0x00000000, 0x00000000, "DIE_MDIO_CMD second"⟩,
  ⟨0x0C4, 1, 0x0, .rw, 0x0000FFFF, 0x00000000, 0x00000000, "DIE_MDIO_DATA second"⟩,
  ⟨0x0C8, 1, 0x0, .ro, 0x00000000, 0x00000000, 0x00000000, "DIE_MDIO_STAT second"⟩]

/-- The registers of a CPM page. -/
def rows_cpm : List RegRow := [
  ⟨0x040, 1, 0x0, .ro, 0x00000000, 0x00000000, 0x00000000, "CPM_CLK_STAT"⟩,
  ⟨0x044, 1, 0x0, .rw, 0x0000FFFF, 0x00000000, 0x000000FA, "CPM_REG_MARGIN"⟩,
  ⟨0x048, 1, 0x0, .ro, 0x00000000, 0x00000000, 0x00000000, "CPM_SHARED"⟩,
  ⟨0x04C, 1, 0x0, .ro, 0x00000000, 0x00000000, 0x00000000, "CPM_PWR_EST"⟩]

/-- The registers of a EVCC page. -/
def rows_evcCtl : List RegRow := [
  ⟨0x040, 1, 0x0, .rw, 0x0001FF01, 0x00000000, 0x00010001, "EVC_CTRL"⟩,
  ⟨0x044, 1, 0x0, .ro, 0x00000000, 0x00000000, 0x00000000, "EVC_STAT"⟩,
  ⟨0x048, 1, 0x0, .rw, 0x000001FF, 0x00000000, 0x00000100, "EVC_TGT_EN"⟩,
  ⟨0x04C, 1, 0x0, .rw, 0x000000FF, 0x00000000, 0x00000000, "EVC_TGT_WAKE"⟩,
  ⟨0x050, 1, 0x0, .wo, 0x000077FF, 0x00000000, 0x00000000, "EVC_SRC_CMD"⟩,
  ⟨0x080, 9, 0x8, .rse, 0x00000000, 0x00000000, 0x000007FF, "EVC_CLAIM"⟩,
  ⟨0x084, 9, 0x8, .wo, 0x000007FF, 0x00000000, 0x00000000, "EVC_DONE"⟩,
  ⟨0x100, 8, 0x20, .rw, 0xFFFFFFF0, 0x00000000, 0x00000000, "EVC_RQ_BASE_LO"⟩,
  ⟨0x104, 8, 0x20, .rw, 0xFFFFFFFF, 0x00000000, 0x00000000, "EVC_RQ_BASE_HI"⟩,
  ⟨0x108, 8, 0x20, .rw, 0x8000000F, 0x00000000, 0x00000004, "EVC_RQ_CFG"⟩,
  ⟨0x10C, 8, 0x20, .ro, 0x00000000, 0x00000000, 0x00010000, "EVC_RQ_PROD"⟩,
  ⟨0x110, 8, 0x20, .rw, 0x00000FFF, 0x00000000, 0x00000000, "EVC_RQ_CONS"⟩,
  ⟨0x114, 8, 0x20, .rw, 0x00FF03FF, 0x00000000, 0x00010000, "EVC_RQ_MOD"⟩,
  ⟨0x118, 8, 0x20, .ro, 0x00000000, 0x00000000, 0x00000000, "EVC_RQ_CNT"⟩]

/-- The registers of a EVCB page. -/
def rows_evcMap : List RegRow := [
  ⟨0x040, 32, 0x4, .rw, 0xFFFFFFFF, 0x00000000, 0x00000000, "EVC_PEND"⟩,
  ⟨0x0C0, 32, 0x4, .rw, 0xFFFFFFFF, 0x00000000, 0x00000000, "EVC_ENA"⟩,
  ⟨0x140, 32, 0x4, .ro, 0x00000000, 0x00000000, 0x00000000, "EVC_ACT"⟩,
  ⟨0x1C0, 32, 0x4, .ro, 0x00000000, 0x00000000, 0x00000000, "EVC_RAW"⟩]

/-- The registers of a EVCR page. -/
def rows_evcRoute : List RegRow := [
  ⟨0x040, 512, 0x4, .rw, 0x000071FF, 0x00000000, 0x00080000, "EVC_ROUTE"⟩]

/-- The registers of a TMU page. -/
def rows_tmu : List RegRow := [
  ⟨0x040, 1, 0x0, .rw, 0x00000003, 0x00000000, 0x00000002, "TMU_CTRL"⟩,
  ⟨0x044, 1, 0x0, .ro, 0x00000000, 0x00000000, 0x00000030, "TMU_STAT"⟩,
  ⟨0x048, 1, 0x0, .rse, 0x00000000, 0x00000000, 0x00000000, "TMU_ST"⟩,
  ⟨0x04C, 1, 0x0, .ro, 0x00000000, 0x00000000, 0x00000000, "TMU_ST_WRAP"⟩,
  ⟨0x050, 1, 0x0, .ro, 0x00000000, 0x00000000, 0x00000000, "TMU_RCK_OFS"⟩,
  ⟨0x054, 1, 0x0, .rw, 0x000003FF, 0x00000000, 0x00000032, "TMU_SLEW"⟩,
  ⟨0x058, 1, 0x0, .rw, 0xFFFFFFFF, 0x00000000, 0x000186A0, "TMU_SW_MAX"⟩,
  ⟨0x05C, 1, 0x0, .rw, 0x00FFFFFF, 0x00000000, 0x00000FA0, "TMU_HOLD"⟩,
  ⟨0x060, 1, 0x0, .rw, 0x0000FFFF, 0x00000000, 0x00000000, "TMU_MUTE"⟩,
  ⟨0x064, 1, 0x0, .rw, 0x0003FF03, 0x00000000, 0x00006400, "TMU_PPS_CFG"⟩,
  ⟨0x068, 1, 0x0, .rw, 0x00000000, 0x00000000, 0x00000000, "TMU_SNAP_CTRL"⟩,
  ⟨0x06C, 1, 0x0, .ro, 0x00000000, 0x00000000, 0x00000000, "TMU_SNAP_ST"⟩,
  ⟨0x070, 1, 0x0, .ro, 0x00000000, 0x00000000, 0x00000000, "TMU_SNAP_WRAP"⟩,
  ⟨0x074, 1, 0x0, .ro, 0x00000000, 0x00000000, 0x00000000, "TMU_SNAP_TD0_NS"⟩,
  ⟨0x078, 1, 0x0, .ro, 0x00000000, 0x00000000, 0x00000000, "TMU_SNAP_TD0_SEC_LO"⟩,
  ⟨0x07C, 1, 0x0, .ro, 0x00000000, 0x00000000, 0x00000000, "TMU_SNAP_TD0_SEC_HI"⟩,
  ⟨0x080, 1, 0x0, .ro, 0x00000000, 0x00000000, 0x00000000, "TMU_SNAP_TD1_NS"⟩,
  ⟨0x084, 1, 0x0, .ro, 0x00000000, 0x00000000, 0x00000000, "TMU_SNAP_TD1_SEC_LO"⟩,
  ⟨0x088, 1, 0x0, .ro, 0x00000000, 0x00000000, 0x00000000, "TMU_SNAP_TD1_SEC_HI"⟩,
  ⟨0x090, 4, 0x8, .rw, 0xFFFFFFFF, 0x00000000, 0x00000000, "TMU_TMR_TGT"⟩,
  ⟨0x094, 4, 0x8, .rw, 0x00000001, 0x00000002, 0x00000000, "TMU_TMR_CTRL"⟩,
  ⟨0x0B0, 1, 0x0, .ro, 0x00000000, 0x00000000, 0x00000000, "TMU_KLK_LAT"⟩,
  ⟨0x100, 1, 0x0, .rw, 0x00FF03FF, 0x00000000, 0x00FB0100, "TMU_TD_CFG0"⟩,
  ⟨0x104, 2, 0x80, .rw, 0x00000001, 0x00000000, 0x00000000, "TMU_TD_CTRL"⟩,
  ⟨0x108, 2, 0x80, .rw, 0xFFFFFFFF, 0x00000000, 0x00000000, "TMU_TD_TENS_LO"⟩,
  ⟨0x10C, 2, 0x80, .rw, 0x000000FF, 0x00000000, 0x00000002, "TMU_TD_TENS_HI"⟩,
  ⟨0x110, 2, 0x80, .wo, 0xFFFFFFFF, 0x00000000, 0x00000000, "TMU_TD_STEP"⟩,
  ⟨0x114, 2, 0x80, .wo, 0x3FFFFFFF, 0x00000000, 0x00000000, "TMU_TD_SET_NS"⟩,
  ⟨0x118, 2, 0x80, .wo, 0xFFFFFFFF, 0x00000000, 0x00000000, "TMU_TD_SET_SEC_LO"⟩,
  ⟨0x11C, 2, 0x80, .wo, 0x0000FFFF, 0x00000000, 0x00000000, "TMU_TD_SET_SEC_HI"⟩,
  ⟨0x120, 2, 0x80, .rse, 0x00000000, 0x00000000, 0x00000000, "TMU_TD_NS"⟩,
  ⟨0x124, 2, 0x80, .ro, 0x00000000, 0x00000000, 0x00000000, "TMU_TD_SEC_LO"⟩,
  ⟨0x128, 2, 0x80, .ro, 0x00000000, 0x00000000, 0x00000000, "TMU_TD_SEC_HI"⟩,
  ⟨0x12C, 2, 0x80, .ro, 0x00000000, 0x00000000, 0x00000000, "TMU_TD_FRAC"⟩,
  ⟨0x130, 2, 0x80, .ro, 0x00000000, 0x00000000, 0x00000000, "TMU_TD_ST"⟩,
  ⟨0x134, 2, 0x80, .ro, 0x00000000, 0x00000000, 0x00000000, "TMU_TD_OFS"⟩,
  ⟨0x138, 2, 0x80, .ro, 0x00000000, 0x00000000, 0x00000000, "TMU_TD_OFS_RAW"⟩,
  ⟨0x13C, 2, 0x80, .ro, 0x00000000, 0x00000000, 0x00000000, "TMU_TD_SYNC_CNT"⟩,
  ⟨0x140, 2, 0x80, .rw, 0xFFFFFFFF, 0x00000000, 0x00000000, "TMU_TD_RR"⟩,
  ⟨0x144, 2, 0x80, .rw, 0x0000007F, 0x00000000, 0x0000007F, "TMU_TD_SLAVE"⟩,
  ⟨0x148, 2, 0x80, .rw, 0xFFFFFFFF, 0x00000000, 0x00000003, "TMU_TD_CAND_LO"⟩,
  ⟨0x14C, 2, 0x80, .rw, 0xFFFFFFFF, 0x00000000, 0x00000003, "TMU_TD_CAND_HI"⟩,
  ⟨0x150, 2, 0x80, .rw, 0xFFFFFFFF, 0x00000000, 0x00000000, "TMU_TD_MASTER_LO"⟩,
  ⟨0x154, 2, 0x80, .rw, 0xFFFFFFFF, 0x00000000, 0x00000000, "TMU_TD_MASTER_HI"⟩,
  ⟨0x158, 2, 0x80, .ro, 0x00000000, 0x00000000, 0x00000000, "TMU_TD_HOLD_LEFT"⟩,
  ⟨0x15C, 2, 0x80, .rw, 0x00000000, 0xFFFFFFFF, 0x00000000, "TMU_TD_PATH_LO"⟩,
  ⟨0x160, 2, 0x80, .rw, 0x00000000, 0xFFFFFFFF, 0x00000000, "TMU_TD_PATH_HI"⟩,
  ⟨0x180, 1, 0x0, .rw, 0x00FF03FF, 0x00000000, 0x00FB0101, "TMU_TD_CFG1"⟩]

/-- The registers of a PRT page. -/
def rows_prt : List RegRow := [
  ⟨0x040, 1, 0x0, .ro, 0x00000000, 0x00000000, 0x00000000, "PRT_LINK_STAT"⟩,
  ⟨0x200, 1, 0x0, .rw, 0x00000003, 0x00000000, 0x00000002, "PRT_PTP_CFG"⟩,
  ⟨0x204, 1, 0x0, .rw, 0xFFFFFFFF, 0x00000000, 0x00000000, "PRT_PTP_LDLY"⟩,
  ⟨0x208, 1, 0x0, .rw, 0xFFFFFFFF, 0x00000000, 0x00000000, "PRT_PTP_ASYM"⟩,
  ⟨0x20C, 1, 0x0, .rw, 0xFFFFFFFF, 0x00000000, 0x00000000, "PRT_PTP_RXLAT"⟩,
  ⟨0x210, 1, 0x0, .rw, 0xFFFFFFFF, 0x00000000, 0x00000000, "PRT_PTP_TXLAT"⟩,
  ⟨0x214, 1, 0x0, .rse, 0x00000000, 0x00000000, 0x00000000, "PRT_PTP_RSD_MAX"⟩,
  ⟨0x300, 1, 0x0, .rw, 0x00003F07, 0x00000000, 0x00001005, "PRT_GRD_CFG"⟩,
  ⟨0x304, 1, 0x0, .rw, 0x000FFFFF, 0x00000000, 0x000003E8, "PRT_GRD_FENCE_T"⟩,
  ⟨0x308, 1, 0x0, .rw, 0x00FFFFFF, 0x00000000, 0x00002710, "PRT_GRD_HOLDOFF"⟩,
  ⟨0x30C, 1, 0x0, .rw, 0x000000FF, 0x00000000, 0x00000003, "PRT_GRD_FENCE_LIM"⟩,
  ⟨0x310, 1, 0x0, .rw, 0x00000000, 0x00000000, 0x00000000, "PRT_GRD_CTRL"⟩,
  ⟨0x314, 1, 0x0, .ro, 0x00000000, 0x00000000, 0x00000000, "PRT_GRD_STAT"⟩,
  ⟨0x318, 1, 0x0, .ro, 0x00000000, 0x00000000, 0x00000000, "PRT_GRD_FENCE_ST"⟩,
  ⟨0x31C, 1, 0x0, .ro, 0x00000000, 0x00000000, 0x00000000, "PRT_GRD_VIOL_ST"⟩,
  ⟨0x320, 1, 0x0, .ro, 0x00000000, 0x00000000, 0x00000000, "PRT_GRD_VIOL_INFO"⟩,
  ⟨0x324, 1, 0x0, .rw, 0x0000FFFF, 0x00000000, 0x0000FFFF, "PRT_POL_RATE"⟩,
  ⟨0x328, 1, 0x0, .rw, 0x000FFFFF, 0x00000000, 0x00003000, "PRT_POL_BURST"⟩,
  ⟨0x32C, 1, 0x0, .ro, 0x00000000, 0x00000000, 0x00003000, "PRT_POL_TOKENS"⟩,
  ⟨0x340, 1, 0x0, .rse, 0x00000000, 0x00000000, 0x00000000, "PRT_GRD_CNT_OUTSIDE"⟩,
  ⟨0x344, 1, 0x0, .rse, 0x00000000, 0x00000000, 0x00000000, "PRT_GRD_CNT_OVERRUN"⟩,
  ⟨0x348, 1, 0x0, .rse, 0x00000000, 0x00000000, 0x00000000, "PRT_GRD_CNT_POLICE"⟩,
  ⟨0x34C, 1, 0x0, .rse, 0x00000000, 0x00000000, 0x00000000, "PRT_GRD_CNT_BADREPLY"⟩,
  ⟨0x350, 1, 0x0, .rse, 0x00000000, 0x00000000, 0x00000000, "PRT_GRD_CNT_SLD"⟩,
  ⟨0x354, 1, 0x0, .rse, 0x00000000, 0x00000000, 0x00000000, "PRT_GRD_CNT_EDGE"⟩,
  ⟨0x358, 1, 0x0, .rse, 0x00000000, 0x00000000, 0x00000000, "PRT_GRD_CNT_FENCED"⟩,
  ⟨0x35C, 1, 0x0, .rse, 0x00000000, 0x00000000, 0x00000000, "PRT_POLL_CNT_TX"⟩,
  ⟨0x360, 1, 0x0, .rse, 0x00000000, 0x00000000, 0x00000000, "PRT_POLL_CNT_RPL"⟩,
  ⟨0x364, 1, 0x0, .rse, 0x00000000, 0x00000000, 0x00000000, "PRT_POLL_CNT_MISS"⟩,
  ⟨0x368, 1, 0x0, .rse, 0x00000000, 0x00000000, 0x00000000, "PRT_POLL_CNT_DUP"⟩,
  ⟨0x400, 1, 0x0, .rw, 0x00007FFF, 0x00000000, 0x00001001, "PRT_VLAN_CFG"⟩,
  ⟨0x404, 1, 0x0, .rw, 0x00FFFFFF, 0x00000000, 0x00FAC688, "PRT_QMAP"⟩,
  ⟨0x408, 1, 0x0, .rw, 0x00003FFF, 0x00000000, 0x000005F2, "PRT_MAXLEN"⟩,
  ⟨0x40C, 1, 0x0, .rw, 0xFFFFFFFF, 0x00000000, 0x01010101, "PRT_DWRR"⟩,
  ⟨0x410, 1, 0x0, .rw, 0x0000FF01, 0x00000000, 0x00000000, "PRT_GATE_CFG"⟩,
  ⟨0x414, 1, 0x0, .ro, 0x00000000, 0x00000000, 0x000000FF, "PRT_GATE_STAT"⟩,
  ⟨0x418, 1, 0x0, .rw, 0x00007F0F, 0x00000000, 0x00000A01, "PRT_PRE_CFG"⟩,
  ⟨0x41C, 1, 0x0, .ro, 0x00000000, 0x00000000, 0x00000000, "PRT_PRE_STAT"⟩,
  ⟨0x420, 1, 0x0, .rw, 0x00000FFF, 0x00000000, 0x00000000, "PRT_SRSV"⟩,
  ⟨0x424, 1, 0x0, .rw, 0x0000007F, 0x00000000, 0x00000000, "PRT_PFC_CFG"⟩,
  ⟨0x428, 1, 0x0, .rw, 0x0FFF0FFF, 0x00000000, 0x00400080, "PRT_PFC_THR"⟩,
  ⟨0x42C, 1, 0x0, .rw, 0x00000FFF, 0x00000000, 0x00000060, "PRT_PFC_HDRM"⟩,
  ⟨0x430, 8, 0x4, .ro, 0x00000000, 0x00000000, 0x00000000, "PRT_Q_CELLS"⟩,
  ⟨0x450, 1, 0x0, .ro, 0x00000000, 0x00000000, 0x00000000, "PRT_PFC_STAT"⟩,
  ⟨0x460, 1, 0x0, .rse, 0x00000000, 0x00000000, 0x00000000, "PRT_CNT_TAILDROP"⟩,
  ⟨0x464, 1, 0x0, .rse, 0x00000000, 0x00000000, 0x00000000, "PRT_CNT_OVERSIZE"⟩,
  ⟨0x468, 1, 0x0, .rse, 0x00000000, 0x00000000, 0x00000000, "PRT_CNT_VLAN_DROP"⟩,
  ⟨0x46C, 1, 0x0, .rse, 0x00000000, 0x00000000, 0x00000000, "PRT_CNT_HDRM_DROP"⟩,
  ⟨0x470, 1, 0x0, .rse, 0x00000000, 0x00000000, 0x00000000, "PRT_CNT_PREEMPT"⟩,
  ⟨0x474, 1, 0x0, .rse, 0x00000000, 0x00000000, 0x00000000, "PRT_CNT_HELD"⟩,
  ⟨0x478, 1, 0x0, .rse, 0x00000000, 0x00000000, 0x00000000, "PRT_CNT_PFC_TX"⟩,
  ⟨0x47C, 1, 0x0, .rse, 0x00000000, 0x00000000, 0x00000000, "PRT_CNT_PFC_RX"⟩,
  ⟨0x500, 1, 0x0, .rw, 0x0000FF0F, 0x00000000, 0x00003202, "PRT_LINE_CFG"⟩,
  ⟨0x504, 1, 0x0, .ro, 0x00000000, 0x00000000, 0x00000000, "PRT_LINE_STAT"⟩]

/-- The registers of a CLU page. -/
def rows_clu : List RegRow := [
  ⟨0x040, 1, 0x0, .ro, 0x00000000, 0x00000000, 0x00000000, "CLU_STAGE"⟩,
  ⟨0x044, 1, 0x0, .rse, 0x00000000, 0x00000000, 0x00000000, "CLU_STAGE_MAX"⟩,
  ⟨0x050, 10, 0x4, .ro, 0x00000000, 0x00000000, 0x00000000, "CLU_WGT"⟩]

/-- The registers of a RGN page. -/
def rows_rgn : List RegRow := [
  ⟨0x040, 1, 0x0, .ro, 0x00000000, 0x00000000, 0x00000000, "RGN_PSTATE"⟩,
  ⟨0x044, 1, 0x0, .rw, 0x00000003, 0x00000000, 0x00000003, "RGN_FLOOR"⟩,
  ⟨0x048, 1, 0x0, .ro, 0x00000000, 0x00000000, 0x00000000, "RGN_NEXT_EVT"⟩,
  ⟨0x04C, 1, 0x0, .rw, 0x0000FFFF, 0x00000000, 0x000000FA, "RGN_LEAD"⟩,
  ⟨0x050, 1, 0x0, .rw, 0x0000FFFF, 0x00000000, 0x00000064, "RGN_IDLE_HOLD"⟩,
  ⟨0x054, 1, 0x0, .rw, 0x0000FFFF, 0x00000000, 0x00000000, "RGN_LANE_OK"⟩]

/-- The registers of a SCH page. -/
def rows_sch : List RegRow := [
  ⟨0x040, 1, 0x0, .rw, 0x00000003, 0x00000000, 0x00000000, "SCH_CTRL"⟩,
  ⟨0x044, 1, 0x0, .ro, 0x00000000, 0x00000000, 0x00000000, "SCH_STAT"⟩,
  ⟨0x048, 1, 0x0, .ro, 0x00000000, 0x00000000, 0x00000000, "SCH_ROW"⟩,
  ⟨0x04C, 1, 0x0, .ro, 0x00000000, 0x00000000, 0x00000000, "SCH_ROW_ST"⟩,
  ⟨0x050, 1, 0x0, .ro, 0x00000000, 0x00000000, 0x00000000, "SCH_BANK"⟩,
  ⟨0x054, 1, 0x0, .rw, 0xFFFFFFFF, 0x00000000, 0x00000000, "SCH_MAP0"⟩,
  ⟨0x058, 1, 0x0, .rw, 0xFFFFFFFF, 0x00000000, 0x00000000, "SCH_MAP1"⟩,
  ⟨0x05C, 1, 0x0, .rw, 0x00000007, 0x00000000, 0x00000000, "SCH_SWAP"⟩,
  ⟨0x060, 1, 0x0, .rw, 0xFFFFFFFF, 0x00000000, 0x00000000, "SCH_SWAP_ROW"⟩,
  ⟨0x064, 1, 0x0, .rw, 0x0000FFFF, 0x00000000, 0x00000008, "SCH_SWAP_MIN"⟩,
  ⟨0x068, 1, 0x0, .rw, 0x0000FFFF, 0x00000000, 0x000005DC, "SCH_NULL_LEAD"⟩,
  ⟨0x06C, 1, 0x0, .rw, 0x000FFFFF, 0x00000000, 0x00001F40, "SCH_TSPAN"⟩,
  ⟨0x070, 1, 0x0, .ro, 0x00000000, 0x00000000, 0x00000000, "SCH_NBR"⟩,
  ⟨0x074, 1, 0x0, .rw, 0x00000007, 0x00000000, 0x00000000, "SCH_CHK"⟩,
  ⟨0x078, 1, 0x0, .ro, 0x00000000, 0x00000000, 0x00000000, "SCH_CHK_STAT"⟩,
  ⟨0x080, 8, 0x20, .rw, 0x007FFFFF, 0x00000000, 0x0001E848, "SCH_SLOT_ROWLEN"⟩,
  ⟨0x084, 8, 0x20, .rw, 0x00003FFF, 0x00000000, 0x000001F4, "SCH_SLOT_SELV"⟩,
  ⟨0x088, 8, 0x20, .rw, 0x00001FFF, 0x00000000, 0x00000000, "SCH_SLOT_CNT"⟩,
  ⟨0x08C, 8, 0x20, .rw, 0x000FFFFF, 0x00000000, 0x00000000, "SCH_SLOT_RSLEN"⟩,
  ⟨0x090, 8, 0x20, .rw, 0xFFFFFFFF, 0x00000000, 0x00000000, "SCH_SLOT_CRC"⟩,
  ⟨0x094, 8, 0x20, .ro, 0x00000000, 0x00000000, 0x00000000, "SCH_SLOT_STAT"⟩,
  ⟨0x180, 1, 0x0, .ro, 0x00000000, 0x00000000, 0x00000000, "SCH_GRD_STAT"⟩,
  ⟨0x184, 1, 0x0, .ro, 0x00000000, 0x00000000, 0x00000000, "SCH_GRD_CRC"⟩,
  ⟨0x188, 1, 0x0, .rw, 0xFFFFFFFF, 0x00000000, 0x5D000002, "SCH_CTL_DA_LO"⟩,
  ⟨0x18C, 1, 0x0, .rw, 0x0000FFFF, 0x00000000, 0x00000300, "SCH_CTL_DA_HI"⟩,
  ⟨0x190, 1, 0x0, .rw, 0x0000FFFF, 0x00000000, 0x000088B5, "SCH_ETYPE"⟩,
  ⟨0x1A0, 1, 0x0, .rse, 0x00000000, 0x00000000, 0x00000000, "SCH_CNT_EDGE"⟩,
  ⟨0x1A4, 1, 0x0, .rse, 0x00000000, 0x00000000, 0x00000000, "SCH_CNT_EARLY"⟩,
  ⟨0x1A8, 1, 0x0, .rse, 0x00000000, 0x00000000, 0x00000000, "SCH_CNT_LATE"⟩,
  ⟨0x1AC, 1, 0x0, .rse, 0x00000000, 0x00000000, 0x00000000, "SCH_CNT_MISS"⟩,
  ⟨0x1B0, 1, 0x0, .rse, 0x00000000, 0x00000000, 0x00000000, "SCH_CNT_NULL_TX"⟩,
  ⟨0x1B4, 1, 0x0, .rse, 0x00000000, 0x00000000, 0x00000000, "SCH_CNT_NULL_RX"⟩,
  ⟨0x1B8, 1, 0x0, .rse, 0x00000000, 0x00000000, 0x00000000, "SCH_CNT_SKIP"⟩,
  ⟨0x1BC, 1, 0x0, .rse, 0x00000000, 0x00000000, 0x00000000, "SCH_CNT_XCHK"⟩,
  ⟨0x1C0, 1, 0x0, .rse, 0x00000000, 0x00000000, 0x00000000, "SCH_CNT_MEET"⟩,
  ⟨0x1C4, 1, 0x0, .rse, 0x00000000, 0x00000000, 0x00000000, "SCH_CNT_GRD"⟩,
  ⟨0x1C8, 1, 0x0, .rse, 0x00000000, 0x00000000, 0x00000000, "SCH_CNT_RS_MISS"⟩,
  ⟨0x1CC, 1, 0x0, .rse, 0x00000000, 0x00000000, 0x00000000, "SCH_CNT_RS_BAD"⟩,
  ⟨0x200, 1, 0x0, .rw, 0xFFFFFFFF, 0x00000000, 0x00000000, "SCH_GPIO_DIR"⟩,
  ⟨0x204, 1, 0x0, .rw, 0xFFFFFFFF, 0x00000000, 0x00000000, "SCH_GPIO_OUT_NEXT"⟩,
  ⟨0x208, 1, 0x0, .ro, 0x00000000, 0x00000000, 0x00000000, "SCH_GPIO_OUT"⟩,
  ⟨0x20C, 1, 0x0, .ro, 0x00000000, 0x00000000, 0x00000000, "SCH_GPIO_IN"⟩,
  ⟨0x210, 1, 0x0, .rw, 0x000000FF, 0x00000000, 0x00000000, "SCH_STM_OUT_NEXT"⟩,
  ⟨0x214, 1, 0x0, .rw, 0x00FFFFFF, 0x00000000, 0x0000007D, "SCH_STM_CFG"⟩,
  ⟨0x218, 1, 0x0, .ro, 0x00000000, 0x00000000, 0x00000000, "SCH_STM_IN"⟩,
  ⟨0x240, 1, 0x0, .rw, 0x00FF1F1F, 0x00000000, 0x00241800, "SCH_CS_CFG"⟩,
  ⟨0x244, 1, 0x0, .ro, 0x00000000, 0x00000000, 0x00000001, "SCH_CS_STAT"⟩,
  ⟨0x248, 1, 0x0, .ro, 0x00000000, 0x00000000, 0x00000000, "SCH_CS_TMO"⟩,
  ⟨0x24C, 1, 0x0, .rw, 0x0000FFFF, 0x00000000, 0x0000186A, "SCH_CS_PROP"⟩,
  ⟨0x250, 1, 0x0, .rw, 0x0000FFFF, 0x00000000, 0x000003E8, "SCH_CS_VTOL"⟩,
  ⟨0x254, 1, 0x0, .ro, 0x00000000, 0x00000000, 0x00000000, "SCH_CS_UID_LO"⟩,
  ⟨0x258, 1, 0x0, .ro, 0x00000000, 0x00000000, 0x00000000, "SCH_CS_UID_HI"⟩,
  ⟨0x25C, 1, 0x0, .ro, 0x00000000, 0x00000000, 0x00000000, "SCH_CS_NDL_UID_LO"⟩,
  ⟨0x260, 1, 0x0, .ro, 0x00000000, 0x00000000, 0x00000000, "SCH_CS_NDL_UID_HI"⟩,
  ⟨0x264, 1, 0x0, .ro, 0x00000000, 0x00000000, 0x00000000, "SCH_CS_PEER_UID_LO"⟩,
  ⟨0x268, 1, 0x0, .ro, 0x00000000, 0x00000000, 0x00000000, "SCH_CS_PEER_UID_HI"⟩,
  ⟨0x26C, 1, 0x0, .ro, 0x00000000, 0x00000000, 0x00000000, "SCH_CS_CNT"⟩,
  ⟨0x280, 1, 0x0, .rw, 0x00003F0F, 0x00000000, 0x00002004, "SCH_BLK_CFG"⟩,
  ⟨0x284, 1, 0x0, .ro, 0x00000000, 0x00000000, 0x00000004, "SCH_BLK_STAT"⟩,
  ⟨0x288, 1, 0x0, .rw, 0xFFFFFFFF, 0x00000000, 0x00000000, "SCH_BLK_ROW"⟩,
  ⟨0x28C, 1, 0x0, .rw, 0x00000000, 0x00000000, 0x00000000, "SCH_BLK_CTRL"⟩,
  ⟨0x290, 1, 0x0, .rw, 0x0000000F, 0x00000000, 0x00000001, "SCH_YO_CFG"⟩,
  ⟨0x294, 1, 0x0, .ro, 0x00000000, 0x00000000, 0x00000000, "SCH_YO_STAT"⟩,
  ⟨0x298, 1, 0x0, .ro, 0x00000000, 0x00000000, 0x00000000, "SCH_YO_CNT"⟩]

/-- The registers of a INA page. -/
def rows_ina : List RegRow := [
  ⟨0x040, 1, 0x0, .rw, 0x00000F0F, 0x00000000, 0x00000301, "INA_CFG"⟩,
  ⟨0x044, 1, 0x0, .rw, 0x00000003, 0x00000000, 0x00000000, "INA_CTRL"⟩,
  ⟨0x048, 1, 0x0, .ro, 0x00000000, 0x00000000, 0x00000000, "INA_STAT"⟩,
  ⟨0x04C, 1, 0x0, .ro, 0x00000000, 0x00000000, 0x00000000, "INA_TOPO_ACT"⟩,
  ⟨0x050, 1, 0x0, .ro, 0x00000000, 0x00000000, 0x00000000, "INA_TOPO_SHD"⟩,
  ⟨0x054, 1, 0x0, .ro, 0x00000000, 0x00000000, 0x00000000, "INA_BLK_ROW"⟩,
  ⟨0x058, 1, 0x0, .rw, 0xFFFFFFFF, 0x00000000, 0x00280190, "INA_T_HELLO"⟩,
  ⟨0x05C, 1, 0x0, .rw, 0x0000FFFF, 0x00000000, 0x000003E8, "INA_T_STABLE"⟩,
  ⟨0x060, 1, 0x0, .rw, 0xFFFFFFFF, 0x00000000, 0x01900FA0, "INA_T_TOPO"⟩,
  ⟨0x064, 1, 0x0, .rw, 0xFFFFFFFF, 0x00000000, 0x00401008, "INA_BLK_CFG"⟩,
  ⟨0x068, 1, 0x0, .rw, 0x0000FF0F, 0x00000000, 0x00000A00, "INA_CPL"⟩,
  ⟨0x06C, 1, 0x0, .ro, 0x00000000, 0x00000000, 0x00000000, "INA_NODES"⟩,
  ⟨0x070, 1, 0x0, .ro, 0x00000000, 0x00000000, 0x00000000, "INA_CNT"⟩,
  ⟨0x074, 1, 0x0, .rw, 0xFFFFFFFF, 0x00000000, 0x00000000, "INA_CST_UID_LO"⟩,
  ⟨0x078, 1, 0x0, .rw, 0xFFFFFFFF, 0x00000000, 0x00000000, "INA_CST_UID_HI"⟩,
  ⟨0x07C, 1, 0x0, .ro, 0x00000000, 0x00000000, 0x00000000, "INA_PORT"⟩]

/-- The registers of a DSK page. -/
def rows_dsk : List RegRow := [
  ⟨0x040, 1, 0x0, .rw, 0x00000003, 0x00000000, 0x00000001, "DSK_CFG"⟩,
  ⟨0x044, 1, 0x0, .ro, 0x00000000, 0x00000000, 0x00000000, "DSK_STAT"⟩,
  ⟨0x048, 1, 0x0, .rw, 0x0000FFFF, 0x00000000, 0x000001F4, "DSK_KNIT_LEAD"⟩,
  ⟨0x04C, 1, 0x0, .wo, 0x00001FFF, 0x00000000, 0x00000000, "DSK_COMMIT"⟩,
  ⟨0x050, 1, 0x0, .ro, 0x00000000, 0x00000000, 0x00000000, "DSK_COMMIT_STAT"⟩,
  ⟨0x054, 1, 0x0, .rse, 0x00000000, 0x00000000, 0x00000000, "DSK_NTF_POP"⟩,
  ⟨0x058, 1, 0x0, .ro, 0x00000000, 0x00000000, 0x00000000, "DSK_NTF_CNT"⟩,
  ⟨0x05C, 1, 0x0, .rw, 0x00000FFF, 0x00000000, 0x00000308, "DSK_FRER_CFG"⟩,
  ⟨0x060, 1, 0x0, .rw, 0x0000FFFF, 0x00000000, 0x000003E8, "DSK_CMP_TICK"⟩,
  ⟨0x064, 1, 0x0, .rw, 0xFFFFFFFF, 0x00000000, 0x5D000000, "DSK_SKN_DA_LO"⟩,
  ⟨0x068, 1, 0x0, .rw, 0x0000FFFF, 0x00000000, 0x00000300, "DSK_SKN_DA_HI"⟩,
  ⟨0x06C, 1, 0x0, .ro, 0x00000000, 0x00000000, 0x00000000, "DSK_STORE"⟩,
  ⟨0x080, 1, 0x0, .rse, 0x00000000, 0x00000000, 0x00000000, "DSK_CNT_FOREIGN"⟩,
  ⟨0x084, 1, 0x0, .rse, 0x00000000, 0x00000000, 0x00000000, "DSK_CNT_DUP"⟩,
  ⟨0x088, 1, 0x0, .rse, 0x00000000, 0x00000000, 0x00000000, "DSK_CNT_ROGUE"⟩,
  ⟨0x08C, 1, 0x0, .rse, 0x00000000, 0x00000000, 0x00000000, "DSK_CNT_SINGLE"⟩,
  ⟨0x090, 1, 0x0, .rse, 0x00000000, 0x00000000, 0x00000000, "DSK_CNT_TRDP_BAD"⟩,
  ⟨0x094, 1, 0x0, .rse, 0x00000000, 0x00000000, 0x00000000, "DSK_CNT_XDIE"⟩]

/-- The registers of a FWD page. -/
def rows_fwd : List RegRow := [
  ⟨0x040, 1, 0x0, .rw, 0x00000007, 0x00000000, 0x00000005, "FWD_CFG"⟩,
  ⟨0x044, 1, 0x0, .ro, 0x00000000, 0x00000000, 0x00000000, "FWD_STAT"⟩,
  ⟨0x048, 1, 0x0, .rw, 0x00001FFF, 0x00000000, 0x00001001, "FWD_RNAT_CFG"⟩,
  ⟨0x04C, 1, 0x0, .rse, 0x00000000, 0x00000000, 0x00000000, "FWD_CNT_FLOOD"⟩,
  ⟨0x050, 1, 0x0, .rse, 0x00000000, 0x00000000, 0x00000000, "FWD_CNT_TURN_DROP"⟩,
  ⟨0x054, 1, 0x0, .rse, 0x00000000, 0x00000000, 0x00000000, "FWD_CNT_ARP_MISS"⟩,
  ⟨0x058, 1, 0x0, .rse, 0x00000000, 0x00000000, 0x00000000, "FWD_CNT_TTL"⟩,
  ⟨0x05C, 1, 0x0, .rse, 0x00000000, 0x00000000, 0x00000000, "FWD_CNT_HOST"⟩,
  ⟨0x400, 1, 0x0, .rw, 0xFFFF0001, 0x00000000, 0x012C0001, "FWD_DIR_CFG"⟩,
  ⟨0x404, 1, 0x0, .ro, 0x00000000, 0x00000000, 0x00000000, "FWD_DIR_STAT"⟩,
  ⟨0x408, 1, 0x0, .rw, 0x0001FFFF, 0x00000000, 0x00001000, "FWD_DIR_RSV"⟩,
  ⟨0x40C, 1, 0x0, .rse, 0x00000000, 0x00000000, 0x00000000, "FWD_DIR_CNT_MISS"⟩,
  ⟨0x410, 1, 0x0, .rse, 0x00000000, 0x00000000, 0x00000000, "FWD_DIR_CNT_LRN_DROP"⟩,
  ⟨0x414, 1, 0x0, .rw, 0x00000000, 0x00000000, 0x00000000, "FWD_DIR_FLUSH"⟩,
  ⟨0x420, 1, 0x0, .rw, 0x00001F01, 0x00000000, 0x00001001, "FWD_XLT_CFG"⟩,
  ⟨0x424, 1, 0x0, .rw, 0xFFFFFFFF, 0x00000000, 0x0A800000, "FWD_XLT_TRN_BASE"⟩,
  ⟨0x428, 1, 0x0, .rw, 0xFFFFFFFF, 0x00000000, 0x0000FFFF, "FWD_XLT_HOST_MASK"⟩,
  ⟨0x42C, 1, 0x0, .rw, 0xFFFFFFFF, 0x00000000, 0x00000000, "FWD_XLT_MAC_LO"⟩,
  ⟨0x430, 1, 0x0, .rw, 0x0000FFFF, 0x00000000, 0x00000000, "FWD_XLT_MAC_HI"⟩,
  ⟨0x434, 1, 0x0, .ro, 0x00000000, 0x00000000, 0x00000000, "FWD_XLT_STAT"⟩,
  ⟨0x438, 1, 0x0, .rse, 0x00000000, 0x00000000, 0x00000000, "FWD_XLT_CNT_MISS"⟩,
  ⟨0x43C, 1, 0x0, .rse, 0x00000000, 0x00000000, 0x00000000, "FWD_XLT_CNT_NONUM"⟩,
  ⟨0x440, 1, 0x0, .rse, 0x00000000, 0x00000000, 0x00000000, "FWD_TBL_CNT_DBL"⟩]

/-- The registers of a BUF page. -/
def rows_buf : List RegRow := [
  ⟨0x040, 1, 0x0, .rw, 0x0000000F, 0x00000000, 0x00000006, "BUF_CFG"⟩,
  ⟨0x044, 1, 0x0, .rw, 0x00000FFF, 0x00000000, 0x00000090, "BUF_KRSV"⟩,
  ⟨0x048, 1, 0x0, .rw, 0x00000FFF, 0x00000000, 0x00000080, "BUF_MRSV"⟩,
  ⟨0x04C, 1, 0x0, .rw, 0x0FFF0FFF, 0x00000000, 0x00100048, "BUF_TRSV"⟩,
  ⟨0x050, 1, 0x0, .ro, 0x00000000, 0x00000000, 0x00000468, "BUF_RSV_SUM"⟩,
  ⟨0x054, 1, 0x0, .ro, 0x00000000, 0x00000000, 0x00007B98, "BUF_SHARED"⟩,
  ⟨0x058, 1, 0x0, .ro, 0x00000000, 0x00000000, 0x00007B98, "BUF_FREE"⟩,
  ⟨0x05C, 1, 0x0, .rw, 0x0000FFFF, 0x00000000, 0x00000800, "BUF_LOW"⟩,
  ⟨0x060, 1, 0x0, .rse, 0x00000000, 0x00000000, 0x00007B98, "BUF_MIN_FREE"⟩,
  ⟨0x064, 1, 0x0, .rse, 0x00000000, 0x00000000, 0x00000000, "BUF_CNT_TAILDROP"⟩,
  ⟨0x068, 1, 0x0, .rse, 0x00000000, 0x00000000, 0x00000000, "BUF_CNT_NOCELL"⟩,
  ⟨0x06C, 1, 0x0, .rse, 0x00000000, 0x00000000, 0x00000000, "BUF_CNT_BORROW"⟩]

/-- The registers of a RNG page. -/
def rows_rng : List RegRow := [
  ⟨0x040, 1, 0x0, .rw, 0x00000003, 0x00000000, 0x00000003, "RNG_CFG"⟩,
  ⟨0x044, 1, 0x0, .rw, 0x000000FF, 0x00000000, 0x00000004, "RNG_DET_T"⟩,
  ⟨0x048, 1, 0x0, .rw, 0x000000FF, 0x00000000, 0x00000010, "RNG_PAIR_T"⟩,
  ⟨0x04C, 1, 0x0, .rw, 0x0000FFFF, 0x00000000, 0x000003E8, "RNG_RST_HOLD"⟩,
  ⟨0x050, 1, 0x0, .ro, 0x00000000, 0x00000000, 0x00000000, "RNG_STAT"⟩,
  ⟨0x054, 1, 0x0, .rw, 0x00000003, 0x00000000, 0x00000000, "RNG_FORCE"⟩,
  ⟨0x058, 1, 0x0, .ro, 0x00000000, 0x00000000, 0x00000000, "RNG_TURN_ST"⟩,
  ⟨0x05C, 1, 0x0, .ro, 0x00000000, 0x00000000, 0x00000000, "RNG_NTC_SEQ"⟩,
  ⟨0x060, 1, 0x0, .rse, 0x00000000, 0x00000000, 0x00000000, "RNG_CNT_TURN"⟩,
  ⟨0x064, 1, 0x0, .rse, 0x00000000, 0x00000000, 0x00000000, "RNG_CNT_CROSS"⟩,
  ⟨0x068, 1, 0x0, .rse, 0x00000000, 0x00000000, 0x00000000, "RNG_CNT_TDROP"⟩,
  ⟨0x06C, 1, 0x0, .rse, 0x00000000, 0x00000000, 0x00000000, "RNG_CNT_SYNC_DROP"⟩,
  ⟨0x070, 1, 0x0, .rse, 0x00000000, 0x00000000, 0x00000000, "RNG_CNT_STRIP"⟩,
  ⟨0x074, 1, 0x0, .rse, 0x00000000, 0x00000000, 0x00000000, "RNG_CNT_NOTICE"⟩,
  ⟨0x080, 1, 0x0, .rw, 0x00000001, 0x00000000, 0x00000000, "RNG_INSERT"⟩,
  ⟨0x0C0, 1, 0x0, .rw, 0x0000FF01, 0x00000000, 0x00000000, "RNG_I2C_CFG"⟩,
  ⟨0x0C4, 1, 0x0, .rw, 0x0007FF7F, 0x00000000, 0x00000000, "RNG_I2C_CMD"⟩,
  ⟨0x0C8, 1, 0x0, .rw, 0xFFFFFFFF, 0x00000000, 0x00000000, "RNG_I2C_DATA"⟩,
  ⟨0x0CC, 1, 0x0, .ro, 0x00000000, 0x00000000, 0x00000000, "RNG_I2C_STAT"⟩,
  ⟨0x0D0, 2, 0x8, .rw, 0x80FFFF7F, 0x00000000, 0x00000000, "RNG_I2C_POLL"⟩,
  ⟨0x0D4, 2, 0x8, .ro, 0x00000000, 0x00000000, 0x00000000, "RNG_I2C_POLL_VAL"⟩,
  ⟨0x100, 8, 0x8, .ro, 0x00000000, 0x00000000, 0x00000000, "RNG_KNOWN"⟩,
  ⟨0x104, 8, 0x8, .ro, 0x00000000, 0x00000000, 0x00000000, "RNG_KNOWN_ST"⟩,
  ⟨0x180, 1, 0x0, .rw, 0x0000FF01, 0x00000000, 0x00000000, "RNG_I2C_CFG second"⟩,
  ⟨0x184, 1, 0x0, .rw, 0x0007FF7F, 0x00000000, 0x00000000, "RNG_I2C_CMD second"⟩,
  ⟨0x188, 1, 0x0, .rw, 0xFFFFFFFF, 0x00000000, 0x00000000, "RNG_I2C_DATA second"⟩,
  ⟨0x18C, 1, 0x0, .ro, 0x00000000, 0x00000000, 0x00000000, "RNG_I2C_STAT second"⟩,
  ⟨0x190, 2, 0x8, .rw, 0x80FFFF7F, 0x00000000, 0x00000000, "RNG_I2C_POLL second"⟩,
  ⟨0x194, 2, 0x8, .ro, 0x00000000, 0x00000000, 0x00000000, "RNG_I2C_POLL_VAL second"⟩]

/-- The registers of a TWN page. -/
def rows_twn : List RegRow := [
  ⟨0x040, 1, 0x0, .rw, 0x00017FF7, 0x00000000, 0x00013224, "TWN_CFG"⟩,
  ⟨0x044, 1, 0x0, .rw, 0x00000004, 0x00000000, 0x00000000, "TWN_CTRL"⟩,
  ⟨0x048, 1, 0x0, .ro, 0x00000000, 0x00000000, 0x00000000, "TWN_STAT"⟩,
  ⟨0x04C, 1, 0x0, .rw, 0x00000FFF, 0x00000000, 0x00000FFF, "TWN_REF"⟩,
  ⟨0x050, 1, 0x0, .ro, 0x00000000, 0x00000000, 0x00000000, "TWN_PAIR"⟩,
  ⟨0x054, 1, 0x0, .ro, 0x00000000, 0x00000000, 0x00000000, "TWN_PEER"⟩,
  ⟨0x058, 1, 0x0, .ro, 0x00000000, 0x00000000, 0x00000000, "TWN_PEER_UID_LO"⟩,
  ⟨0x05C, 1, 0x0, .ro, 0x00000000, 0x00000000, 0x00000000, "TWN_PEER_UID_HI"⟩,
  ⟨0x060, 1, 0x0, .rw, 0x0000FFFF, 0x00000000, 0x000088B6, "TWN_ETYPE"⟩,
  ⟨0x064, 1, 0x0, .ro, 0x00000000, 0x00000000, 0x00000000, "TWN_LL_ROW"⟩,
  ⟨0x068, 1, 0x0, .ro, 0x00000000, 0x00000000, 0x00000000, "TWN_RS_PROG"⟩,
  ⟨0x06C, 1, 0x0, .ro, 0x00000000, 0x00000000, 0x00000000, "TWN_SW_ST"⟩,
  ⟨0x070, 1, 0x0, .ro, 0x00000000, 0x00000000, 0x00000000, "TWN_SW_T"⟩,
  ⟨0x080, 2, 0x10, .ro, 0x00000000, 0x00000000, 0x00000000, "TWN_LL_TENS_LO"⟩,
  ⟨0x084, 2, 0x10, .ro, 0x00000000, 0x00000000, 0x00000002, "TWN_LL_TENS_HI"⟩,
  ⟨0x088, 2, 0x10, .ro, 0x00000000, 0x00000000, 0x00000000, "TWN_LL_RR"⟩,
  ⟨0x08C, 2, 0x10, .ro, 0x00000000, 0x00000000, 0x0000007F, "TWN_LL_SLAVE"⟩,
  ⟨0x0A0, 1, 0x0, .rse, 0x00000000, 0x00000000, 0x00000000, "TWN_CNT_DELTA"⟩,
  ⟨0x0A4, 1, 0x0, .rse, 0x00000000, 0x00000000, 0x00000000, "TWN_CNT_OVF"⟩,
  ⟨0x0A8, 1, 0x0, .rse, 0x00000000, 0x00000000, 0x00000000, "TWN_CNT_GAP"⟩,
  ⟨0x0AC, 1, 0x0, .rse, 0x00000000, 0x00000000, 0x00000000, "TWN_CNT_HB_LOSS"⟩,
  ⟨0x0B0, 1, 0x0, .rse, 0x00000000, 0x00000000, 0x00000000, "TWN_CNT_TAKE"⟩,
  ⟨0x0B4, 1, 0x0, .rse, 0x00000000, 0x00000000, 0x00000000, "TWN_CNT_ARB_LOST"⟩]

/-- The registers of a SEC page. -/
def rows_sec : List RegRow := [
  ⟨0x040, 1, 0x0, .rw, 0x00000001, 0x00000000, 0x00000000, "SEC_CFG"⟩,
  ⟨0x044, 1, 0x0, .ro, 0x00000000, 0x00000000, 0x00000000, "SEC_STAT"⟩,
  ⟨0x048, 1, 0x0, .ro, 0x00000000, 0x00000000, 0x00000000, "SEC_LOCK_VIOL"⟩,
  ⟨0x04C, 1, 0x0, .rse, 0x00000000, 0x00000000, 0x00000000, "SEC_CNT_LOCKED"⟩,
  ⟨0x050, 1, 0x0, .rw, 0xFFFFFFFF, 0x00000000, 0xC0000000, "SEC_PN_THR_LO"⟩,
  ⟨0x054, 1, 0x0, .rw, 0xFFFFFFFF, 0x00000000, 0xC0000000, "SEC_PN_THR_HI"⟩,
  ⟨0x058, 1, 0x0, .rse, 0x00000000, 0x00000000, 0x00000000, "SEC_JTAG_CHAL0"⟩,
  ⟨0x05C, 3, 0x4, .ro, 0x00000000, 0x00000000, 0x00000000, "SEC_JTAG_CHAL1..3"⟩,
  ⟨0x080, 32, 0x4, .wo, 0xFFFFFFFF, 0x00000000, 0x00000000, "SEC_JTAG_RESP"⟩,
  ⟨0x100, 1, 0x0, .rw, 0x00000000, 0x00000000, 0x00000000, "SEC_JTAG_CTRL"⟩,
  ⟨0x104, 1, 0x0, .ro, 0x00000000, 0x00000000, 0x00000000, "SEC_JTAG_STAT"⟩,
  ⟨0x108, 1, 0x0, .rw, 0x00000FFF, 0x00000000, 0x00000000, "SEC_OTP_PROG"⟩,
  ⟨0x200, 128, 0x4, .ro, 0x00000000, 0x00000000, 0x00000000, "SEC_OTP"⟩]

/-- The registers of a SA page. -/
def rows_sa : List RegRow := [
  ⟨0x040, 1, 0x0, .rw, 0x0000000F, 0x00000000, 0x0000000C, "SEC_PORT_CFG"⟩,
  ⟨0x044, 1, 0x0, .rw, 0x00000007, 0x00000000, 0x00000000, "SEC_PORT_TXSA"⟩,
  ⟨0x048, 1, 0x0, .rw, 0xFFFFFFFF, 0x00000000, 0x00000000, "SEC_PORT_SCI_LO"⟩,
  ⟨0x04C, 1, 0x0, .rw, 0xFFFFFFFF, 0x00000000, 0x00000000, "SEC_PORT_SCI_HI"⟩,
  ⟨0x050, 1, 0x0, .rw, 0x3FFFFFFF, 0x00000000, 0x00000000, "SEC_PORT_WIN"⟩,
  ⟨0x060, 1, 0x0, .rse, 0x00000000, 0x00000000, 0x00000000, "SEC_CNT_TXDROP"⟩,
  ⟨0x064, 1, 0x0, .rse, 0x00000000, 0x00000000, 0x00000000, "SEC_CNT_NOSA"⟩,
  ⟨0x068, 1, 0x0, .rse, 0x00000000, 0x00000000, 0x00000000, "SEC_CNT_ICV"⟩,
  ⟨0x06C, 1, 0x0, .rse, 0x00000000, 0x00000000, 0x00000000, "SEC_CNT_REPLAY"⟩,
  ⟨0x070, 1, 0x0, .rse, 0x00000000, 0x00000000, 0x00000000, "SEC_CNT_UNSEC"⟩,
  ⟨0x100, 8, 0x80, .rw, 0x00000007, 0x00000000, 0x00000000, "SEC_TX_CTRL"⟩,
  ⟨0x104, 8, 0x80, .rw, 0xFFFFFFFF, 0x00000000, 0x00000000, "SEC_TX_SSCI"⟩,
  ⟨0x108, 8, 0x80, .rw, 0xFFFFFFFF, 0x00000000, 0x00000000, "SEC_TX_PN_LO"⟩,
  ⟨0x10C, 8, 0x80, .rw, 0xFFFFFFFF, 0x00000000, 0x00000000, "SEC_TX_PN_HI"⟩,
  ⟨0x120, 8, 0x80, .wo, 0xFFFFFFFF, 0x00000000, 0x00000000, "SEC_TX_KEY0"⟩,
  ⟨0x124, 8, 0x80, .wo, 0xFFFFFFFF, 0x00000000, 0x00000000, "SEC_TX_KEY1"⟩,
  ⟨0x128, 8, 0x80, .wo, 0xFFFFFFFF, 0x00000000, 0x00000000, "SEC_TX_KEY2"⟩,
  ⟨0x12C, 8, 0x80, .wo, 0xFFFFFFFF, 0x00000000, 0x00000000, "SEC_TX_KEY3"⟩,
  ⟨0x130, 8, 0x80, .wo, 0xFFFFFFFF, 0x00000000, 0x00000000, "SEC_TX_KEY4"⟩,
  ⟨0x134, 8, 0x80, .wo, 0xFFFFFFFF, 0x00000000, 0x00000000, "SEC_TX_KEY5"⟩,
  ⟨0x138, 8, 0x80, .wo, 0xFFFFFFFF, 0x00000000, 0x00000000, "SEC_TX_KEY6"⟩,
  ⟨0x13C, 8, 0x80, .wo, 0xFFFFFFFF, 0x00000000, 0x00000000, "SEC_TX_KEY7"⟩,
  ⟨0x140, 8, 0x80, .wo, 0xFFFFFFFF, 0x00000000, 0x00000000, "SEC_TX_SALT0"⟩,
  ⟨0x144, 8, 0x80, .wo, 0xFFFFFFFF, 0x00000000, 0x00000000, "SEC_TX_SALT1"⟩,
  ⟨0x148, 8, 0x80, .wo, 0xFFFFFFFF, 0x00000000, 0x00000000, "SEC_TX_SALT2"⟩,
  ⟨0x14C, 8, 0x80, .ro, 0x00000000, 0x00000000, 0x00000000, "SEC_TX_CNT"⟩,
  ⟨0x500, 8, 0x80, .rw, 0x00000007, 0x00000000, 0x00000000, "SEC_RX_CTRL"⟩,
  ⟨0x504, 8, 0x80, .rw, 0xFFFFFFFF, 0x00000000, 0x00000000, "SEC_RX_SSCI"⟩,
  ⟨0x508, 8, 0x80, .rw, 0xFFFFFFFF, 0x00000000, 0x00000000, "SEC_RX_PN_LO"⟩,
  ⟨0x50C, 8, 0x80, .rw, 0xFFFFFFFF, 0x00000000, 0x00000000, "SEC_RX_PN_HI"⟩,
  ⟨0x510, 8, 0x80, .rw, 0xFFFFFFFF, 0x00000000, 0x00000000, "SEC_RX_SCI_LO"⟩,
  ⟨0x514, 8, 0x80, .rw, 0xFFFFFFFF, 0x00000000, 0x00000000, "SEC_RX_SCI_HI"⟩,
  ⟨0x520, 8, 0x80, .wo, 0xFFFFFFFF, 0x00000000, 0x00000000, "SEC_RX_KEY0"⟩,
  ⟨0x524, 8, 0x80, .wo, 0xFFFFFFFF, 0x00000000, 0x00000000, "SEC_RX_KEY1"⟩,
  ⟨0x528, 8, 0x80, .wo, 0xFFFFFFFF, 0x00000000, 0x00000000, "SEC_RX_KEY2"⟩,
  ⟨0x52C, 8, 0x80, .wo, 0xFFFFFFFF, 0x00000000, 0x00000000, "SEC_RX_KEY3"⟩,
  ⟨0x530, 8, 0x80, .wo, 0xFFFFFFFF, 0x00000000, 0x00000000, "SEC_RX_KEY4"⟩,
  ⟨0x534, 8, 0x80, .wo, 0xFFFFFFFF, 0x00000000, 0x00000000, "SEC_RX_KEY5"⟩,
  ⟨0x538, 8, 0x80, .wo, 0xFFFFFFFF, 0x00000000, 0x00000000, "SEC_RX_KEY6"⟩,
  ⟨0x53C, 8, 0x80, .wo, 0xFFFFFFFF, 0x00000000, 0x00000000, "SEC_RX_KEY7"⟩,
  ⟨0x540, 8, 0x80, .wo, 0xFFFFFFFF, 0x00000000, 0x00000000, "SEC_RX_SALT0"⟩,
  ⟨0x544, 8, 0x80, .wo, 0xFFFFFFFF, 0x00000000, 0x00000000, "SEC_RX_SALT1"⟩,
  ⟨0x548, 8, 0x80, .wo, 0xFFFFFFFF, 0x00000000, 0x00000000, "SEC_RX_SALT2"⟩,
  ⟨0x54C, 8, 0x80, .ro, 0x00000000, 0x00000000, 0x00000000, "SEC_RX_CNT"⟩]

/-- The registers of a STA page. -/
def rows_sta : List RegRow := [
  ⟨0x040, 1, 0x0, .rw, 0x00000001, 0x00000000, 0x00000001, "STA_CFG"⟩,
  ⟨0x044, 1, 0x0, .rw, 0x0000FFFF, 0x00000000, 0x000003E8, "STA_PERIOD"⟩,
  ⟨0x048, 1, 0x0, .rw, 0x00000000, 0x00000000, 0x00000000, "STA_CTRL"⟩,
  ⟨0x04C, 1, 0x0, .ro, 0x00000000, 0x00000000, 0x00000000, "STA_STAT"⟩,
  ⟨0x050, 1, 0x0, .ro, 0x00000000, 0x00000000, 0x00000000, "STA_SNAP_ROW"⟩,
  ⟨0x054, 1, 0x0, .ro, 0x00000000, 0x00000000, 0x00000000, "STA_SNAP_ST"⟩,
  ⟨0x058, 1, 0x0, .ro, 0x00000000, 0x00000000, 0x00000000, "STA_SNAP_LEN"⟩]

/-- The registers of a SWT page. -/
def rows_swt : List RegRow := [
  ⟨0x040, 1, 0x0, .rw, 0x00003F0F, 0x00000000, 0x00000000, "SWT_REQ"⟩,
  ⟨0x044, 1, 0x0, .ro, 0x00000000, 0x00000000, 0x00000000, "SWT_REQ_STAT"⟩,
  ⟨0x048, 1, 0x0, .ro, 0x00000000, 0x00000000, 0x00000000, "SWT_RUN"⟩,
  ⟨0x04C, 1, 0x0, .rw, 0x00FFFF01, 0x00000000, 0x000A3C00, "SWT_BIST_CFG"⟩,
  ⟨0x050, 1, 0x0, .ro, 0x00000000, 0x00000000, 0x00000000, "SWT_BIST_STAT"⟩,
  ⟨0x054, 1, 0x0, .ro, 0x00000000, 0x00000000, 0x00000000, "SWT_BIST_PASS"⟩,
  ⟨0x058, 1, 0x0, .ro, 0x00000000, 0x00000000, 0x00000000, "SWT_EYE_RES"⟩,
  ⟨0x05C, 1, 0x0, .rw, 0x0000FFF1, 0x00000000, 0x00000200, "SWT_TSCAL_CFG"⟩,
  ⟨0x060, 1, 0x0, .ro, 0x00000000, 0x00000000, 0x00000000, "SWT_TSCAL_RES"⟩,
  ⟨0x064, 1, 0x0, .ro, 0x00000000, 0x00000000, 0x00000000, "SWT_LBIST"⟩,
  ⟨0x068, 1, 0x0, .rw, 0x3FFFFFFF, 0x00000000, 0x00400100, "SWT_LOOP_CFG"⟩,
  ⟨0x06C, 1, 0x0, .ro, 0x00000000, 0x00000000, 0x00000000, "SWT_LOOP_SENT"⟩,
  ⟨0x070, 1, 0x0, .ro, 0x00000000, 0x00000000, 0x00000000, "SWT_LOOP_RCVD"⟩,
  ⟨0x074, 1, 0x0, .ro, 0x00000000, 0x00000000, 0x00000000, "SWT_LOOP_ERR"⟩]

/-- The registers of a HDMC page. -/
def rows_hdm : List RegRow := [
  ⟨0x040, 1, 0x0, .rw, 0x00000003, 0x00000000, 0x00000003, "HDM_CTRL"⟩,
  ⟨0x044, 1, 0x0, .ro, 0x00000000, 0x00000000, 0x00000000, "HDM_STAT"⟩,
  ⟨0x048, 1, 0x0, .rw, 0x1F1F1F1F, 0x00000000, 0x00000000, "HDM_RX_MAP_CLS0"⟩,
  ⟨0x04C, 1, 0x0, .rw, 0x1F1F1F1F, 0x00000000, 0x00000000, "HDM_RX_MAP_CLS1"⟩,
  ⟨0x050, 1, 0x0, .rw, 0x1F1F1F1F, 0x00000000, 0x00000000, "HDM_RX_MAP_RSN0"⟩,
  ⟨0x054, 1, 0x0, .rw, 0x00001F1F, 0x00000000, 0x00000000, "HDM_RX_MAP_RSN1"⟩,
  ⟨0x058, 1, 0x0, .ro, 0x00000000, 0x00000000, 0x00000000, "HDM_DMA_ERR"⟩,
  ⟨0x05C, 1, 0x0, .ro, 0x00000000, 0x00000000, 0x00000000, "HDM_DMA_ERR_ADDR_LO"⟩,
  ⟨0x060, 1, 0x0, .ro, 0x00000000, 0x00000000, 0x00000000, "HDM_DMA_ERR_ADDR_HI"⟩,
  ⟨0x064, 1, 0x0, .rse, 0x00000000, 0x00000000, 0x00000000, "HDM_CNT_PARTIAL"⟩,
  ⟨0x068, 1, 0x0, .rse, 0x00000000, 0x00000000, 0x00000000, "HDM_CNT_XDIE"⟩]

/-- The registers of a HDMM page. -/
def rows_msix : List RegRow := [
  ⟨0x040, 64, 0x10, .rw, 0xFFFFFFFC, 0x00000000, 0x00000000, "MSIX_ADDR_LO"⟩,
  ⟨0x044, 64, 0x10, .rw, 0xFFFFFFFF, 0x00000000, 0x00000000, "MSIX_ADDR_HI"⟩,
  ⟨0x048, 64, 0x10, .rw, 0xFFFFFFFF, 0x00000000, 0x00000000, "MSIX_DATA"⟩,
  ⟨0x04C, 64, 0x10, .rw, 0x00000001, 0x00000000, 0x00000001, "MSIX_CTRL"⟩,
  ⟨0x800, 2, 0x4, .ro, 0x00000000, 0x00000000, 0x00000000, "MSIX_PBA"⟩]

/-- The registers of a HDMT page. -/
def rows_txRings : List RegRow := [
  ⟨0x040, 32, 0x20, .rw, 0xFFFFFF80, 0x00000000, 0x00000000, "HDM_TX_BASE_LO"⟩,
  ⟨0x044, 32, 0x20, .rw, 0xFFFFFFFF, 0x00000000, 0x00000000, "HDM_TX_BASE_HI"⟩,
  ⟨0x048, 32, 0x20, .rw, 0x8000000F, 0x00000000, 0x00000004, "HDM_TX_CFG"⟩,
  ⟨0x04C, 32, 0x20, .rw, 0x00000FFF, 0x00000000, 0x00000000, "HDM_TX_TAIL"⟩,
  ⟨0x050, 32, 0x20, .ro, 0x00000000, 0x00000000, 0x00000000, "HDM_TX_HEAD"⟩,
  ⟨0x054, 32, 0x20, .rw, 0x00000FFF, 0x00000000, 0x00000000, "HDM_TX_CLEAN"⟩,
  ⟨0x058, 32, 0x20, .rse, 0x00000000, 0x00000000, 0x00000000, "HDM_TX_CNT"⟩]

/-- The registers of a HDMR page. -/
def rows_rxRings : List RegRow := [
  ⟨0x040, 32, 0x20, .rw, 0xFFFFFF80, 0x00000000, 0x00000000, "HDM_RX_BASE_LO"⟩,
  ⟨0x044, 32, 0x20, .rw, 0xFFFFFFFF, 0x00000000, 0x00000000, "HDM_RX_BASE_HI"⟩,
  ⟨0x048, 32, 0x20, .rw, 0x8000000F, 0x00000000, 0x00000004, "HDM_RX_CFG"⟩,
  ⟨0x04C, 32, 0x20, .rw, 0x00000FFF, 0x00000000, 0x00000000, "HDM_RX_TAIL"⟩,
  ⟨0x050, 32, 0x20, .ro, 0x00000000, 0x00000000, 0x00000000, "HDM_RX_HEAD"⟩,
  ⟨0x054, 32, 0x20, .rw, 0x00000FFF, 0x00000000, 0x00000000, "HDM_RX_CONS"⟩,
  ⟨0x058, 32, 0x20, .rse, 0x00000000, 0x00000000, 0x00000000, "HDM_RX_DROP"⟩]

/-- The registers of a BRG page. -/
def rows_brg : List RegRow := [
  ⟨0x040, 1, 0x0, .rw, 0x00000007, 0x00000000, 0x00000000, "BRG_CFG"⟩,
  ⟨0x044, 1, 0x0, .rw, 0x000000FF, 0x00000000, 0x00000014, "BRG_TMO"⟩,
  ⟨0x048, 1, 0x0, .rw, 0x000000FF, 0x00000000, 0x00000004, "BRG_RTX"⟩,
  ⟨0x04C, 1, 0x0, .rw, 0x00000000, 0x00000000, 0x00000000, "BRG_CTRL"⟩,
  ⟨0x050, 1, 0x0, .ro, 0x00000000, 0x00000000, 0x00000000, "BRG_STAT"⟩,
  ⟨0x054, 1, 0x0, .rse, 0x00000000, 0x00000000, 0x00000000, "BRG_ERR_W0"⟩,
  ⟨0x058, 1, 0x0, .ro, 0x00000000, 0x00000000, 0x00000000, "BRG_ERR_W1"⟩,
  ⟨0x05C, 1, 0x0, .ro, 0x00000000, 0x00000000, 0x00000000, "BRG_ERR_W2"⟩,
  ⟨0x060, 1, 0x0, .ro, 0x00000000, 0x00000000, 0x00000000, "BRG_ERR_W3"⟩,
  ⟨0x064, 1, 0x0, .ro, 0x00000000, 0x00000000, 0x00000000, "BRG_ERR_CNT"⟩,
  ⟨0x068, 1, 0x0, .rse, 0x00000000, 0x00000000, 0x00000000, "BRG_REV_W0"⟩,
  ⟨0x06C, 6, 0x4, .ro, 0x00000000, 0x00000000, 0x00000000, "BRG_REV_W1..6"⟩,
  ⟨0x084, 1, 0x0, .ro, 0x00000000, 0x00000000, 0x00000000, "BRG_REV_CNT"⟩,
  ⟨0x088, 1, 0x0, .rse, 0x00000000, 0x00000000, 0x00000000, "BRG_CNT_PF_HIT"⟩,
  ⟨0x08C, 1, 0x0, .rse, 0x00000000, 0x00000000, 0x00000000, "BRG_CNT_RTX"⟩,
  ⟨0x090, 1, 0x0, .rse, 0x00000000, 0x00000000, 0x00000000, "BRG_CNT_LATE_RSP"⟩,
  ⟨0x094, 1, 0x0, .rse, 0x00000000, 0x00000000, 0x00000000, "BRG_CNT_DUP"⟩,
  ⟨0x100, 8, 0x40, .rw, 0x001F3F07, 0x00000000, 0x00000000, "BRG_WIN_CFG"⟩,
  ⟨0x104, 8, 0x40, .rw, 0xFFFFFFFF, 0x00000000, 0x00000000, "BRG_WIN_UID_LO"⟩,
  ⟨0x108, 8, 0x40, .rw, 0xFFFFFFFF, 0x00000000, 0x00000000, "BRG_WIN_UID_HI"⟩,
  ⟨0x10C, 8, 0x40, .ro, 0x00000000, 0x00000000, 0x00000000, "BRG_WIN_OUT"⟩,
  ⟨0x110, 8, 0x40, .rw, 0xFFFFFFFF, 0x00000000, 0x00000000, "BRG_WIN_PF0"⟩,
  ⟨0x114, 8, 0x40, .rw, 0xFFFFFFFF, 0x00000000, 0x00000000, "BRG_WIN_PF1"⟩,
  ⟨0x118, 8, 0x40, .rw, 0xFFFFFFFF, 0x00000000, 0x00000000, "BRG_WIN_PF2"⟩,
  ⟨0x11C, 8, 0x40, .rw, 0xFFFFFFFF, 0x00000000, 0x00000000, "BRG_WIN_PF3"⟩,
  ⟨0x300, 8, 0x4, .rw, 0x803F17FF, 0x00000000, 0x00000000, "BRG_FWD"⟩]

/-- The registers of a FLD page. -/
def rows_fld : List RegRow := [
  ⟨0x040, 1, 0x0, .rw, 0x0000003F, 0x00000000, 0x00000000, "FLD_CTRL"⟩,
  ⟨0x044, 1, 0x0, .rse, 0x00000000, 0x00000000, 0x00000000, "FLD_MSG_W0"⟩,
  ⟨0x048, 1, 0x0, .ro, 0x00000000, 0x00000000, 0x00000000, "FLD_MSG_W1"⟩,
  ⟨0x04C, 1, 0x0, .ro, 0x00000000, 0x00000000, 0x00000000, "FLD_MSG_W2"⟩,
  ⟨0x050, 1, 0x0, .ro, 0x00000000, 0x00000000, 0x00000000, "FLD_MSG_W3"⟩,
  ⟨0x054, 1, 0x0, .ro, 0x00000000, 0x00000000, 0x00000000, "FLD_MSG_CNT"⟩,
  ⟨0x080, 2, 0x40, .rw, 0x00FFF33F, 0x00000000, 0x00000300, "FLD_MVB_CFG"⟩,
  ⟨0x084, 2, 0x40, .rw, 0x0003FFFF, 0x00000000, 0x00000000, "FLD_MVB_ANCHOR"⟩,
  ⟨0x088, 2, 0x40, .rw, 0x0000FFFF, 0x00000000, 0x0000A6CC, "FLD_MVB_RTO"⟩,
  ⟨0x08C, 2, 0x40, .ro, 0x00000000, 0x00000000, 0x00000000, "FLD_MVB_STAT"⟩,
  ⟨0x090, 2, 0x40, .rw, 0x0000FFFF, 0x00000000, 0x00000000, "FLD_MVB_DSW"⟩,
  ⟨0x094, 2, 0x40, .rse, 0x00000000, 0x00000000, 0x00000000, "FLD_MVB_CNT_ERR"⟩,
  ⟨0x098, 2, 0x40, .rse, 0x00000000, 0x00000000, 0x00000000, "FLD_MVB_CNT_NORESP"⟩,
  ⟨0x09C, 2, 0x40, .rse, 0x00000000, 0x00000000, 0x00000000, "FLD_MVB_CNT_SWITCH"⟩,
  ⟨0x100, 4, 0x40, .rw, 0x0000000F, 0x00000000, 0x00000004, "FLD_CAN_CFG"⟩,
  ⟨0x104, 4, 0x40, .rw, 0xFFFFFFFF, 0x00000000, 0x3E7DF800, "FLD_CAN_NBT"⟩,
  ⟨0x108, 4, 0x40, .rw, 0x0FFFFFFF, 0x00000000, 0x00094B80, "FLD_CAN_DBT"⟩,
  ⟨0x10C, 4, 0x40, .ro, 0x00000000, 0x00000000, 0x00000000, "FLD_CAN_STAT"⟩,
  ⟨0x110, 4, 0x40, .rse, 0x00000000, 0x00000000, 0x00000000, "FLD_CAN_CNT_LATE"⟩,
  ⟨0x114, 4, 0x40, .rse, 0x00000000, 0x00000000, 0x00000000, "FLD_CAN_CNT_RX_DROP"⟩]

/-- The registers of a KLK page. -/
def rows_klk : List RegRow := [
  ⟨0x040, 1, 0x0, .rw, 0x00000000, 0x00000000, 0x00000000, "KLK_CTRL"⟩,
  ⟨0x044, 1, 0x0, .ro, 0x00000000, 0x00000000, 0x00000000, "KLK_STAT"⟩,
  ⟨0x048, 1, 0x0, .ro, 0x00000000, 0x00000000, 0x00000000, "KLK_RTT"⟩,
  ⟨0x04C, 1, 0x0, .rw, 0x03FF03FF, 0x00000000, 0x00200040, "KLK_CRD_CFG0"⟩,
  ⟨0x050, 1, 0x0, .rw, 0x03FF03FF, 0x00000000, 0x00E00010, "KLK_CRD_CFG1"⟩,
  ⟨0x054, 1, 0x0, .ro, 0x00000000, 0x00000000, 0x00000000, "KLK_CRD_AV0"⟩,
  ⟨0x058, 1, 0x0, .ro, 0x00000000, 0x00000000, 0x00000000, "KLK_CRD_AV1"⟩,
  ⟨0x05C, 1, 0x0, .rse, 0x00000000, 0x00000000, 0x00000000, "KLK_CNT_REPLAY"⟩,
  ⟨0x060, 1, 0x0, .rse, 0x00000000, 0x00000000, 0x00000000, "KLK_CNT_DOWN"⟩]

/-- The registers of a KPR page. -/
def rows_kpr : List RegRow := [
  ⟨0x040, 1, 0x0, .ro, 0x00000000, 0x00000000, 0x00010001, "KPR_MODE"⟩,
  ⟨0x044, 1, 0x0, .rw, 0x00000007, 0x00000000, 0x00000000, "KPR_MODE_REQ"⟩,
  ⟨0x048, 1, 0x0, .ro, 0x00000000, 0x00000000, 0x00000000, "KPR_ENTRY_SEC"⟩,
  ⟨0x04C, 1, 0x0, .ro, 0x00000000, 0x00000000, 0x00000000, "KPR_TRANS_CNT"⟩]

/-- The registers of a KWK page. -/
def rows_kwk : List RegRow := [
  ⟨0x040, 1, 0x0, .rw, 0x00037FFF, 0x00000000, 0x000040FF, "KWK_WAKE_CFG"⟩,
  ⟨0x044, 1, 0x0, .rw, 0x000000FF, 0x00000000, 0x00000005, "KWK_DEB"⟩,
  ⟨0x048, 1, 0x0, .rw, 0xFFFFFFFF, 0x00000000, 0x03E80064, "KWK_KA"⟩,
  ⟨0x04C, 1, 0x0, .rw, 0x00FF0FFF, 0x00000000, 0x001401F4, "KWK_BO"⟩,
  ⟨0x050, 1, 0x0, .rw, 0x000000FF, 0x00000000, 0x00000014, "KWK_MIN_OFF"⟩,
  ⟨0x054, 1, 0x0, .rw, 0x00000001, 0x00000000, 0x00000000, "KWK_NEED"⟩,
  ⟨0x058, 1, 0x0, .ro, 0x00000000, 0x00000000, 0x00000000, "KWK_STAT"⟩,
  ⟨0x05C, 1, 0x0, .ro, 0x00000000, 0x00000000, 0x00000000, "KWK_KA_LEFT"⟩,
  ⟨0x060, 1, 0x0, .ro, 0x00000000, 0x00000000, 0x00000000, "KWK_BO_END"⟩,
  ⟨0x064, 1, 0x0, .rw, 0xFFFFFFFF, 0x00000000, 0x00000000, "KWK_ALARM"⟩,
  ⟨0x068, 1, 0x0, .ro, 0x00000000, 0x00000000, 0x00000000, "KWK_CNT"⟩]

/-- The registers of a KBY page. -/
def rows_kby : List RegRow := [
  ⟨0x040, 1, 0x0, .rw, 0x0000001F, 0x00000000, 0x00000010, "KBY_CTRL"⟩,
  ⟨0x044, 1, 0x0, .ro, 0x00000000, 0x00000000, 0x00000000, "KBY_STAT"⟩,
  ⟨0x048, 1, 0x0, .ro, 0x00000000, 0x00000000, 0x00000000, "KBY_FAULT"⟩,
  ⟨0x04C, 1, 0x0, .rw, 0x000000FF, 0x00000000, 0x00000014, "KBY_PULLIN"⟩,
  ⟨0x050, 1, 0x0, .rw, 0x0000FF7F, 0x00000000, 0x00001428, "KBY_HOLD"⟩,
  ⟨0x054, 1, 0x0, .rw, 0x000000FF, 0x00000000, 0x0000000A, "KBY_REL_T"⟩,
  ⟨0x058, 1, 0x0, .rw, 0x000000FF, 0x00000000, 0x00000014, "KBY_STAG"⟩,
  ⟨0x05C, 1, 0x0, .rw, 0x0000FFFF, 0x00000000, 0x00005DC0, "KBY_VRLY"⟩,
  ⟨0x060, 1, 0x0, .rw, 0xFFFFFFFF, 0x00000000, 0x004401D6, "KBY_SNS_NET"⟩,
  ⟨0x064, 1, 0x0, .rw, 0xFFFFFFFF, 0x00000000, 0x025800C8, "KBY_COIL_LIM"⟩,
  ⟨0x070, 4, 0x4, .ro, 0x00000000, 0x00000000, 0x00000000, "KBY_COIL"⟩,
  ⟨0x080, 1, 0x0, .rw, 0x00FFFFFF, 0x00000000, 0x0001320F, "KBY_LAD_CFG"⟩,
  ⟨0x084, 1, 0x0, .rw, 0x00000000, 0x000000F0, 0x00000000, "KBY_LAD_STAT"⟩,
  ⟨0x088, 1, 0x0, .rw, 0x00000000, 0x00000000, 0x00000000, "KBY_BURST"⟩]

/-- The registers of a KPS page. -/
def rows_kps : List RegRow := [
  ⟨0x040, 1, 0x0, .rw, 0x000FFF0F, 0x00000000, 0x00013201, "KPS_CFG"⟩,
  ⟨0x044, 1, 0x0, .ro, 0x00000000, 0x00000000, 0x00000700, "KPS_STAT"⟩,
  ⟨0x048, 1, 0x0, .rw, 0x00000000, 0x00000000, 0x00000000, "KPS_RST_REQ"⟩,
  ⟨0x04C, 1, 0x0, .ro, 0x00000000, 0x00000000, 0x00000000, "KPS_T_PGOOD"⟩]

/-- The registers of a KRT page. -/
def rows_krt : List RegRow := [
  ⟨0x040, 1, 0x0, .rse, 0x00000000, 0x00000000, 0x00000000, "KRT_SEC_LO"⟩,
  ⟨0x044, 1, 0x0, .ro, 0x00000000, 0x00000000, 0x00000000, "KRT_SEC_HI"⟩,
  ⟨0x048, 1, 0x0, .wo, 0xFFFFFFFF, 0x00000000, 0x00000000, "KRT_SET_LO"⟩,
  ⟨0x04C, 1, 0x0, .wo, 0x0000FFFF, 0x00000000, 0x00000000, "KRT_SET_HI"⟩,
  ⟨0x050, 1, 0x0, .rw, 0x0000FFFF, 0x00000000, 0x00000000, "KRT_TRIM"⟩]

/-- The registers of a KMS page. -/
def rows_kms : List RegRow := [
  ⟨0x040, 1, 0x0, .ro, 0x00000000, 0x00000000, 0x00000000, "KMS_STAT"⟩,
  ⟨0x044, 1, 0x0, .rse, 0x00000000, 0x00000000, 0x00000000, "KMS_CNT_ERR"⟩]

/-- The register table of a kind of page. -/
def regRows : PageKind → List RegRow
  | .die => rows_die
  | .cpm => rows_cpm
  | .evcCtl => rows_evcCtl
  | .evcMap => rows_evcMap
  | .evcRoute => rows_evcRoute
  | .tmu => rows_tmu
  | .prt => rows_prt
  | .clu => rows_clu
  | .rgn => rows_rgn
  | .sch => rows_sch
  | .ina => rows_ina
  | .dsk => rows_dsk
  | .fwd => rows_fwd
  | .buf => rows_buf
  | .rng => rows_rng
  | .twn => rows_twn
  | .sec => rows_sec
  | .sa => rows_sa
  | .sta => rows_sta
  | .swt => rows_swt
  | .hdm => rows_hdm
  | .msix => rows_msix
  | .txRings => rows_txRings
  | .rxRings => rows_rxRings
  | .brg => rows_brg
  | .fld => rows_fld
  | .klk => rows_klk
  | .kpr => rows_kpr
  | .kwk => rows_kwk
  | .kby => rows_kby
  | .kps => rows_kps
  | .krt => rows_krt
  | .kms => rows_kms
/-! ## Page bases (R476, R477) -/

/-- Base of a die's page range (R474): die 0, die 1; 2 stands for die K. -/
def dieBase : Nat → Nat
  | 0 => 0x00000000
  | 1 => 0x04000000
  | _ => 0x08000000

/-- Base of a die's table window range (R474). -/
def winBase (d : Nat) : Nat := 0x10000000 + d * 0x08000000

/-- The kind and index of the page at offset `x * 0x1000` of a switch die's range (R476). -/
def diePage (x : Nat) : Option (PageKind × Nat) :=
  if x = 0x000 then some (.die, 0)
  else if x = 0x001 then some (.cpm, 0)
  else if x = 0x002 then some (.evcCtl, 0)
  else if x = 0x003 then some (.evcMap, 0)
  else if x = 0x004 then some (.evcRoute, 0)
  else if x = 0x005 then some (.evcRoute, 1)
  else if x = 0x010 then some (.tmu, 0)
  else if 0x100 ≤ x ∧ x < 0x120 then some (.prt, x - 0x100)
  else if 0x140 ≤ x ∧ x < 0x144 then some (.clu, x - 0x140)
  else if 0x150 ≤ x ∧ x < 0x152 then some (.rgn, x - 0x150)
  else if x = 0x160 then some (.sch, 0)
  else if x = 0x170 then some (.ina, 0)
  else if x = 0x180 then some (.dsk, 0)
  else if x = 0x190 then some (.fwd, 0)
  else if x = 0x1A0 then some (.buf, 0)
  else if x = 0x1B0 then some (.rng, 0)
  else if x = 0x1C0 then some (.twn, 0)
  else if x = 0x1D0 then some (.sec, 0)
  else if 0x1D1 ≤ x ∧ x < 0x1D6 then some (.sa, x - 0x1D1)
  else if x = 0x1E0 then some (.sta, 0)
  else if x = 0x1F0 then some (.swt, 0)
  else if x = 0x200 then some (.hdm, 0)
  else if x = 0x201 then some (.msix, 1)
  else if x = 0x202 then some (.txRings, 2)
  else if x = 0x203 then some (.rxRings, 3)
  else if x = 0x210 then some (.brg, 0)
  else if x = 0x220 then some (.fld, 0)
  else if x = 0x230 then some (.klk, 0)
  else none

/-- The kind of the `k`-th page of die K (R477). -/
def keeperPage : Nat → Option PageKind
  | 0 => some .kpr
  | 1 => some .kwk
  | 2 => some .kby
  | 3 => some .kps
  | 4 => some .krt
  | 5 => some .kms
  | _ => none

/-- The page that a device address lies in, none in a reserved range (R474, R475). -/
def pageAt (a : Nat) : Option Page :=
  if a < 0x08000000 then
    (diePage (a % 0x04000000 / 0x1000)).map fun p => ⟨p.1, a / 0x04000000, p.2⟩
  else if a < 0x08010000 then
    (keeperPage ((a - 0x08000000) / 0x1000)).map fun k => ⟨k, 2, 0⟩
  else none

/-- The block code of a kind of page (R480). -/
def PageKind.block : PageKind → Nat
  | .die => 0x001 | .cpm => 0x002 | .evcCtl => 0x003 | .evcMap => 0x003 | .evcRoute => 0x003 | .tmu => 0x010
  | .prt => 0x020 | .clu => 0x021 | .rgn => 0x022 | .sch => 0x030 | .ina => 0x031 | .dsk => 0x040 | .fwd => 0x041
  | .buf => 0x042 | .rng => 0x050 | .twn => 0x051 | .sec => 0x060 | .sa => 0x061 | .sta => 0x070 | .swt => 0x071
  | .hdm => 0x080 | .msix => 0x080 | .txRings => 0x080 | .rxRings => 0x080 | .brg => 0x081 | .fld => 0x090
  | .klk => 0x0A0 | .kpr => 0x0C0 | .kwk => 0x0C1 | .kby => 0x0C2 | .kps => 0x0C3 | .krt => 0x0C4 | .kms => 0x0C5

/-- The instance number of a page (R480). -/
def Page.inst (p : Page) : Nat :=
  match p.kind with
  | .evcCtl => p.die * 4
  | .evcMap => p.die * 4 + 1
  | .evcRoute => p.die * 4 + 2 + p.idx
  | .prt => p.die * 32 + p.idx
  | .clu => p.die * 4 + p.idx
  | .rgn => p.die * 2 + p.idx
  | .sa => p.die * 8 + p.idx
  | .hdm | .msix | .txRings | .rxRings => p.idx
  | .kpr | .kwk | .kby | .kps | .krt | .kms => 0
  | _ => p.die

/-- Whether a kind of page is locked under R433. KPR carries LOCKABLE too, since its lock gates two mode requests. -/
def PageKind.lockable : PageKind → Bool
  | .sch | .ina | .fwd | .rng | .twn | .sec | .sa | .kby | .kpr => true
  | _ => false

/-- Whether the blocks of a kind of page have a table window (R478). -/
def PageKind.window : PageKind → Bool
  | .dsk | .fwd | .sch | .ina | .sta | .fld => true
  | _ => false

/-- Whether reads of a kind of page have side effects that keep the bridge from prefetching it (R479). -/
def PageKind.noPrefetch : PageKind → Bool
  | .evcCtl | .dsk | .brg | .fld | .sec => true
  | _ => false

/-- PG_CAP of a page (R479). -/
def Page.cap (p : Page) : Word :=
  let b (i : Nat) (c : Bool) : Nat := if c then 2 ^ i else 0
  BitVec.ofNat 32 (b 0 p.kind.window + b 1 p.kind.lockable
    + b 2 (p.die == 1 && (p.kind == .ina || p.kind == .twn || p.kind == .sch || p.kind == .tmu || p.kind == .rng || p.kind == .die))
    + b 3 (p.kind == .prt) + b 4 (p.kind == .prt || p.kind == .fld) + b 31 p.kind.noPrefetch)

/-- PG_ID of a page (R479, R480). -/
def Page.id (p : Page) : Word := BitVec.ofNat 32 (p.kind.block * 0x100000 + p.inst * 0x1000 + 1)

/-- The row of a register table that an offset falls in. -/
def findRow : List RegRow → Nat → Option RegRow
  | [], _ => none
  | r :: rs, o =>
    if r.off ≤ o ∧ (o == r.off || (r.stride != 0 && (o - r.off) % r.stride == 0 && (o - r.off) / r.stride < r.n)) then some r
    else findRow rs o

/-- Whether source number `n` of a die is a level source (R370). -/
def isLevelSource (die n : Nat) : Bool := n == 0x341 || (die == 0 && 0x300 ≤ n && n ≤ 0x340)

/-- Whether source number `n` of a die can be pending at all (R370): the others are reserved and never fire. -/
def isSource (die n : Nat) : Bool :=
  n < 0x300 || isLevelSource die n || (die == 0 && 0x380 ≤ n && n ≤ 0x385)

/-- Reset value of EVC_ROUTEn (R394).
(DEDUCED, log entry 64) -/
def routeReset (die n : Nat) : Word :=
  if isLevelSource die n then 0x00088000 else if die = 0 ∧ 0x380 ≤ n ∧ n ≤ 0x385 then 0x00087100 else 0x00080000

/-- Reset value of PRT_SRSV of local port `p` in the DN-6464 (R292): backbone 72 cells, uplink 32, edge 8. -/
def srsvReset (p : Nat) : Word := if p < 2 then 0x048 else if p < 4 then 0x020 else 0x008

/-- Reset values of die 1's BUF page: no HP reserve, so 1112 cells are reserved and 31,656 shared (R284, R295). -/
def bufReset1 (o : Nat) (v : Word) : Word :=
  if o = BUF_RSV_SUM then 0x458 else if o = BUF_SHARED ∨ o = BUF_FREE ∨ o = BUF_MIN_FREE then 0x7BA8
  else if o = BUF_TRSV then 0x48 else v

/-- Reset value of a block register, where it depends on the page (R2, R96, R292, R394, R491). -/
def blockReset (p : Page) (o : Nat) (r : RegRow) : Word :=
  match p.kind with
  | .evcRoute => routeReset p.die (p.idx * 512 + (o - 0x040) / 4)
  | .tmu => if o = TMU_STAT ∧ p.die = 0 then 0x38 else r.rst
  | .prt => if o = PRT_SRSV then srsvReset p.idx else r.rst
  | .die => if o = DIE_INFO then (if p.die = 1 then 0x00016464 else 0x00006464) else r.rst
  | .buf => if p.die = 1 then bufReset1 o r.rst else r.rst
  | _ => r.rst

/-- Reset value of a register of the common header (R479). PG_STAT is computed when it is read. -/
def headerReset (p : Page) (o : Nat) : Word :=
  if o = 0x000 then p.id
  else if o = 0x004 then p.cap
  else if o = 0x008 then (if p.kind = .fld then 0 else 1)
  else if o = 0x018 then (if p.kind.lockable then 0x80000000 else 0)
  else 0

/-- The row of the register at a device address. -/
def regRowAt (a : Nat) : Option RegRow :=
  (pageAt a).bind fun p => if a % 0x1000 < 0x040 then none else findRow (regRows p.kind) (a % 0x1000)

/-- What a register reads before anything has written it: its reset value; 0 at a reserved address (R475).
(DESIGN CHOICE, log entry 1; DEDUCED, log entry 64) -/
def regDefault (a : Nat) : Word :=
  match pageAt a with
  | none => 0
  | some p =>
    if a % 0x1000 < 0x040 then headerReset p (a % 0x1000)
    else match findRow (regRows p.kind) (a % 0x1000) with
      | none => 0
      | some r => blockReset p (a % 0x1000) r

end Sys2Proof.Machine
end

