-- ==== Sys2Proof/Machine/Store.lean ====
section
/-! DEFINITION. Sparse stores: a list of keys and values in one canonical form, keys strictly rising and no entry equal to
what an unlisted key reads as. The registers (R474) and the bytes of the table windows (R478) are held in such stores. -/

namespace Sys2Proof.Machine

/-- What a key of a sparse store reads as: the listed value, else `dflt k`. -/
def Sparse.get {α : Type} (dflt : Nat → α) : List (Nat × α) → Nat → α
  | [], k => dflt k
  | e :: es, k => if e.1 = k then e.2 else Sparse.get dflt es k

/-- A store without its entries of one key. -/
def Sparse.erase {α : Type} (k : Nat) : List (Nat × α) → List (Nat × α)
  | [] => []
  | e :: es => if e.1 = k then Sparse.erase k es else e :: Sparse.erase k es

/-- A store with an entry put before the first greater key. -/
def Sparse.insert {α : Type} (k : Nat) (v : α) : List (Nat × α) → List (Nat × α)
  | [] => [(k, v)]
  | e :: es => if k < e.1 then (k, v) :: e :: es else e :: Sparse.insert k v es

/-- A write to a sparse store: writing what the key reads as by default removes its entry. -/
def Sparse.set {α : Type} [DecidableEq α] (dflt : Nat → α) (es : List (Nat × α)) (k : Nat) (v : α) : List (Nat × α) :=
  if v = dflt k then Sparse.erase k es else Sparse.insert k v (Sparse.erase k es)

/-- A store without the entries whose keys satisfy `p`: they read as their defaults again. -/
def Sparse.drop {α : Type} (p : Nat → Bool) : List (Nat × α) → List (Nat × α)
  | [] => []
  | e :: es => if p e.1 then Sparse.drop p es else e :: Sparse.drop p es

/-- The canonical form: keys strictly rising from `lo` on, and no entry equal to its default. -/
def Sparse.wfFrom {α : Type} [DecidableEq α] (dflt : Nat → α) : Nat → List (Nat × α) → Bool
  | _, [] => true
  | lo, e :: es => decide (lo ≤ e.1) && decide (e.2 ≠ dflt e.1) && Sparse.wfFrom dflt (e.1 + 1) es

/-- The canonical form of a sparse store. -/
abbrev Sparse.wf {α : Type} [DecidableEq α] (dflt : Nat → α) (es : List (Nat × α)) : Bool := Sparse.wfFrom dflt 0 es

/-! Association lists of the hidden state: the first entry of a key counts, and a write replaces it. -/

/-- The value of a key, none if it has no entry. -/
def Assoc.get {κ α : Type} [DecidableEq κ] : List (κ × α) → κ → Option α
  | [], _ => none
  | e :: es, k => if e.1 = k then some e.2 else Assoc.get es k

/-- A list without the entry of a key. -/
def Assoc.del {κ α : Type} [DecidableEq κ] (es : List (κ × α)) (k : κ) : List (κ × α) := es.filter (·.1 ≠ k)

/-- A list with the entry of a key replaced or added. -/
def Assoc.put {κ α : Type} [DecidableEq κ] (es : List (κ × α)) (k : κ) (v : α) : List (κ × α) := Assoc.del es k ++ [(k, v)]

end Sys2Proof.Machine
end

