-- ==== Sys2Proof/Machine/State.lean ====
section
/-! DEFINITION. The state of the node: its registers and table windows, the state the chapters give each block beside its
registers, what has left the device, and the commands that wait. -/

namespace Sys2Proof.Machine

/-- The body of a Slandongo frame (R107). -/
inductive Body where
  | rowStart (b : RowStart)
  | coldStart (b : ColdStart)
  | skein (b : Skein)
  | null (b : NullBody)
  | keepAlive (b : KeepAlive)
  | claim (b : Claim)
  | turnNotice (b : TurnNotice)
  | bridgeReq (b : BridgeReq)
  | bridgeRsp (b : BridgeRsp)
  | eventMsg (b : EventMsg)
  | poll (b : Poll)
  | reply (b : Reply)
  deriving DecidableEq, Repr

/-- A frame that leaves a port. -/
inductive Frame where
  | sl (h : Hdr) (rtag : Option (BitVec 16)) (b : Body)
  | topology (t : Topology)
  | hello (uid : Uid) (hears : Bool)
  | sync (f : Sync)
  | eth (e : Eth)
  | pfc (prio : Nat) (quanta : Nat)
  | trdp (e : Eth) (seq : Word) (t : Trdp)
  | loop (len count : Nat)
  deriving DecidableEq, Repr

/-- A frame that leaves a twin lane (R325). -/
inductive TwinFrame where
  | hello (b : TwinHello)
  | delta (isEnd : Bool) (records : List LlRecord)
  | resyncReq
  | resync (f : ResyncFrame)
  | drill
  | drillAck
  deriving DecidableEq, Repr

/-- What has left the device: frames, messages, bursts, bus cycles and answers, newest first. The model's own record. -/
inductive Out where
  | tx (port : Nat) (f : Frame)
  | txBad (port : Nat) (f : Frame)
  | cut (port : Nat)
  | txSec (port : Nat) (an : Nat) (pn : Nat)
  | twin (lane : Nat) (h : TwinHdr) (f : TwinFrame)
  | toHost (ring : Nat) (f : Frame) (reason : Nat)
  | msix (vector : Nat) (addr : Nat) (data : Word)
  | hostWrite (addr : Nat) (words : List Word)
  | read (agent : Agent) (addr : Nat) (value : Word)
  | mspi (status : Nat) (value : Word)
  | completion (words : List Word)
  | abort
  | drive (line duty freq : Nat)
  | burst (n : Nat) (logic : Bool)
  | burstEnd (n : Nat)
  | pps (high : Bool)
  | stm (n : Nat) (high : Bool)
  | mdio (m : Nat) (c45 : Bool) (op phy reg : Nat) (data : Nat)
  | i2c (m : Nat) (cmd : Word) (data : Word)
  | can (c : Nat) (fd brs : Bool) (ide : Bool) (cid : Nat) (data : List Byte)
  | mvbMaster (n : Nat) (lineA lineB : Bool) (fcode addr : Nat)
  | mvbSlave (n : Nat) (lineA lineB : Bool) (data : List Byte)
  | token (claim : Nat)
  | heartbeat
  | tapOpen
  deriving DecidableEq, Repr

/-- What the keeper holds beside its registers (R42, R347, R353, R356, R365). -/
structure Keeper where
  /-- KHF runs (R58). -/
  khf : Bool
  /-- KLF is valid (R58). -/
  klf : Bool
  /-- Edge latches of CPL_SNS (R365); those of WAKE_IN are KWK_STAT [3:0]. -/
  cplLatch : BitVec 2
  /-- Inputs that have passed their debounce and still are at their active level: WAKE_IN 0 to 3, CPL_SNS 0 and 1. -/
  held : BitVec 6
  /-- A power-down runs (R537). -/
  powerDown : Bool
  /-- Both PGOOD inputs are high, and the RST_DLY wait runs (R461). -/
  rstWait : Bool
  /-- WAKE_NEED counts its KA_TIMEOUT (R356). -/
  needCounting : Bool
  /-- The keep-alive timer has expired, and bind-off waits for the row boundary (R360). -/
  boPend : Bool
  /-- Cancellation of bind-off: the instant to which the sides are watched (R367). -/
  rewakeEnd : Option Word
  /-- Sides whose burst under R367 has been sent. -/
  rewakeDone : BitVec 2
  /-- Lines held released by STUCK_BYP (R350). -/
  stuck : BitVec 2
  /-- The lines that wait under R347. -/
  waiting : BitVec 2
  /-- Relays whose coil test samples now (R352). -/
  sampling : BitVec 4
  /-- Taps that send a burst (R351). -/
  bursting : BitVec 4
  /-- Poll reads that wait for a host transaction to end: master, slot, byte (R343). -/
  i2cPolls : List (Nat × Nat × Byte)
  /-- Backbone ports, in the order of the relays, whose last-locked rate is 10 Gbit/s (R342). -/
  rate10 : BitVec 4
  /-- Insert lines that toggle, die 0 and die 1 (R346). -/
  insLine : BitVec 2
  /-- The copy that the boot loader last accepted: 0, 1, or 2 for a host image (R470). -/
  lastCopy : BitVec 2
  /-- A boot is due: the dies have left reset, or MAINTENANCE was left (R470). -/
  bootDue : Bool
  /-- The copies that the boot has tried and rejected (R465). -/
  tried : BitVec 2
  /-- Copies whose valid mark was found (R463). -/
  marks : BitVec 2
  /-- The codes of rejected images in [23:0], as DIE_BOOT_FAIL holds them, and the last one in [31:24]: they outlast the reset of
  step 7 (R465, R467, R468). -/
  failCodes : Word
  /-- The image whose init list is being applied, with the records still to come (R468, steps 7 to 9). -/
  staged : Option Image
  initLeft : List InitRec
  /-- Step 5 waits for the Komidon link (R469). -/
  linkWait : Bool
  /-- The image in use, of which a bring-up of die 1 repeats die 1's part (R469, R538). -/
  inUse : Option Image
  deriving DecidableEq, Repr

/-- A two-step Sync that waits for its Follow_Up (R86). -/
structure HeldSync where
  port : Nat
  sync : Sync
  /-- The receive timestamp in the domain's full view, in 1/16 ns. -/
  rx16 : Int
  /-- LDLY + ASYM of its port as they stood at its receipt (R88). -/
  link : Int
  deriving DecidableEq, Repr

/-- What software has asked of a domain and the next tick takes (R67, R68): a tension to commit, a time to set in ns, and a step in
ns. -/
structure TimeDue where
  tens : Option Nat
  set : Option Nat
  step : Int
  deriving DecidableEq, Repr

/-- What the time units hold beside their registers (R64 to R94). -/
structure TimeUnit where
  /-- Committed tensions of TD0 and TD1, in 2^-32 ns per tick (R65, R66). -/
  tens0 : Nat
  tens1 : Nat
  /-- What the next tick takes for TD0 and TD1 (R67, R68). -/
  due0 : TimeDue
  due1 : TimeDue
  /-- While the Komidon link is down, the tensions of TD0, of TD1 and of HOLDOVER at which die 1 runs on (R30). -/
  lastTens0 : Nat
  lastTens1 : Nat
  lastHold : Nat
  /-- Fractions of the row clocks of die 0 and die 1 (R70). -/
  rckFrac0 : Word
  rckFrac1 : Word
  /-- The tension at which the row clock runs in HOLDOVER (R73). -/
  holdTens : Nat
  /-- The followed domain's time and the row clock's count, in ns, when that domain was last lost (R282). -/
  cycle : Nat × Nat
  /-- Timers whose target was past at arming, die 0 in bits 3:0 and die 1 in bits 7:4 (R80). -/
  tmrLate : BitVec 8
  /-- The ST at which timer 4d + n was last armed, where its target was not ahead of it: it runs at the next tick (R79). -/
  tmrAt : List (Nat × Word)
  /-- Row boundaries passed since HOLDOVER was last set (R75). -/
  holdRows : Nat
  /-- Ticks since the last step of 1 ms that counts as a row where no rows run (R75, R91). -/
  rowless : Nat
  /-- TMU_HOLD rows have passed in HOLDOVER (R75). -/
  holdMute : Bool
  /-- Consecutive accepted Syncs of TD0 and TD1 since they were declared lost (R72). -/
  syncRun0 : Nat
  syncRun1 : Nat
  /-- The last sequenceId that the slave port delivered, and the last that another candidate delivered (R89). -/
  slaveSeq0 : Option (BitVec 16)
  slaveSeq1 : Option (BitVec 16)
  otherSeq0 : Option (BitVec 16)
  otherSeq1 : Option (BitVec 16)
  /-- A Sync has been accepted since the node entered CAST-ON or was muted (R127). -/
  syncSeen : Bool
  /-- The same of die 1, while the Komidon link is down (R30). -/
  syncSeen1 : Bool
  /-- Two-step Syncs that wait for their Follow_Up (R86). -/
  twoStep : List HeldSync
  /-- Sequence numbers of the Syncs that TD0 and TD1 originate (R140). -/
  originSeq0 : BitVec 16
  originSeq1 : BitVec 16
  /-- PPS_OUT is high, and the highest seconds of TD0 and of TD1 already pulsed (R93). -/
  ppsHigh : Bool
  ppsTop0 : Nat
  ppsTop1 : Nat
  deriving DecidableEq, Repr

/-- An assignment of a source to a target (R377): the priority is the one of its route at the assignment. -/
structure Asg where
  src : Nat
  tgt : Nat
  prio : Nat
  deriving DecidableEq, Repr

/-- What the event controller holds beside its registers (R371 to R391). -/
structure EventCtl where
  /-- Edges of sources that wait to be taken, oldest first: source ID and the ST of the edge. -/
  edges : List (Nat × Word)
  /-- Assignments of sources to targets (R377). -/
  asg : List Asg
  /-- The ST at which a pending source became pending (R386). -/
  pendSt : List (Nat × Word)
  /-- The target that claimed an active source (R381). -/
  claimed : List (Nat × Nat)
  /-- DONE writes of die 1 sources that wait for the Komidon link (R385). -/
  doneQ : List Nat
  /-- Rings whose moderation timer has reached MIN_IVL (R388). -/
  modExpired : BitVec 8
  /-- Targets whose message is due but waits for the link (R390), and those whose message HDM holds (R401). -/
  due : BitVec 8
  held : BitVec 8
  /-- WAKE_N is driven low (R390). -/
  wakeN : Bool
  /-- MSI-X is enabled (R401). -/
  msixEn : Bool
  deriving DecidableEq, Repr

/-- What the security block holds beside its registers (R423 to R435). -/
structure Security where
  /-- OTP bit that is being programmed (R431). -/
  otpBusy : Option Nat
  /-- GO of SEC_JTAG_CTRL is blocked after a failure (R432). -/
  jtagBlocked : Bool
  deriving DecidableEq, Repr

/-- What a node decided for a stitch (R111, R116, R117): sent nothing, its skein, or a NULL with a reason code. -/
inductive Decided where
  | none
  | skein
  | null (reason : Nat)
  deriving DecidableEq, Repr

/-- A decision of R111: the row, the stitch, whether the entry is active, and what this node sends in it. -/
structure Decision where
  row : Word
  /-- The profile under which it was made (R114). -/
  prf : Nat
  sid : Nat
  active : Bool
  own : Decided
  /-- What die 1 decides for its copies; it differs only while the Komidon link is down (R253). -/
  own1 : Decided
  /-- Its instant had passed when it was made: the node sends nothing in the stitch (R117). -/
  skipped : Bool
  deriving DecidableEq, Repr

/-- What the schedule engine and the cold-start logic hold beside their registers (R98 to R146). -/
structure Sched where
  /-- The poll vector of the accepted ROW_START of the current row, and of the row before (R111, R121). -/
  poll : Option (List Word)
  prevPoll : Option (List Word)
  /-- The ST at which each was accepted: it decides no stitch whose decision instant came before (R111). -/
  pollSt : Word
  prevPollSt : Word
  /-- The profile that was active in the row before (R121). -/
  prevPrf : Nat
  /-- Decisions for stitches of the current row, the row before and the next row. -/
  decided : List Decision
  /-- Stitches of the current row whose SKEIN or NULL has been received, and of the row before (R118). -/
  heard : List (Word × Nat)
  /-- Rows in succession that ended without an accepted ROW_START (R110). -/
  rsMiss : Nat
  /-- The announced swap row, and the row whose ROW_START carries SWAP_LATE (R112). -/
  swapRow : Word
  swapLate : Option Word
  /-- Boundaries in succession with a small offset while muted (R127), on die 0, and on die 1 while the Komidon link is down (R30). -/
  calm : Nat
  calm1 : Nat
  /-- Outputs are held under R144 and R146. -/
  hold : Bool
  /-- HOLD rows that a yielding needle has still to send, and the winner (R144). -/
  yieldLeft : Option Nat
  winner : Uid
  /-- YIELD has been sent for this yielding (R144). -/
  yieldSent : Bool
  /-- The planned ST of row 0 (R136, R140). -/
  planned : Word
  /-- The ST of the last entry to LISTEN, FOLLOW, RESYNC or of the INITIAL sent. -/
  csSince : Word
  /-- The row length in ns by which FOLLOW counts (R134). -/
  followNs : Nat
  /-- Grants to be carried in the next ROW_START (R108). -/
  grants : List GrantSlot
  /-- The start of an adoption within the current row (R114): markers before it are not applied. -/
  adoptSt : Option Word
  /-- Markers applied in the current row: the output latch and the input sample (R128). -/
  marks : BitVec 2
  /-- STM_OUT pins that pulse now, and edges of STM_IN since the last sample (R128). -/
  stmOut : BitVec 8
  stmEdges : BitVec 8
  /-- Own frames being sent: egress port and stitch (R125). -/
  sending : List (Nat × Nat)
  /-- The bank that was active in the row before, and the start of that row (R121). -/
  prevBank : Nat
  prevRowSt : Word
  /-- The slot that the running check was started on (R106). -/
  chkSlot : Nat
  /-- The followed domain was lost when a timebase was adopted (R137). -/
  lostMute : Bool
  deriving DecidableEq, Repr

/-- A swatch test that runs or is pending (R447, R448). -/
structure SwTest where
  die : Nat
  code : Nat
  target : Nat
  /-- It runs as an offline test, which leaving MAINTENANCE aborts (R449). -/
  offline : Bool
  deriving DecidableEq, Repr

/-- The phase of a die's buffer BIST (R450). -/
inductive BistPhase where
  | idle | draining | march | gap
  deriving DecidableEq, Repr

/-- What the swatch blocks hold beside their registers (R447 to R455). -/
structure Swatch where
  tests : List SwTest
  bist0 : BistPhase
  bist1 : BistPhase
  deriving DecidableEq, Repr

/-- What a node knows of a TURN_NOTICE it has still to send (R306). -/
structure Notice where
  kind : NoticeKind
  line : Nat
  side : Nat
  far : BitVec 6
  seq : BitVec 16
  st : Word
  /-- Frames still to be sent: 3 for a new notice; and the row of the last one. -/
  left : Nat
  row : Word
  deriving DecidableEq, Repr

/-- What the turn logic holds beside its registers (R303 to R312, R541). Lists are indexed by backbone port. -/
structure Ring where
  /-- Ports whose line failure is declared (R303), with the time of the declaration. -/
  failed : List (Nat × Nat)
  /-- Ports that have lost block lock or receive a fault ordered set, with the time at which their failure is declared (R303). -/
  due : List (Nat × Nat)
  /-- Ports that have regained block lock, with the time at which they have held it for RNG_RST_HOLD (R308). -/
  locked : List (Nat × Nat)
  /-- Ports that receive a fault ordered set (R303). -/
  faultRx : List Nat
  /-- The UID and the node number of a side's neighbour before the event (R306, R308), by side. -/
  before : List (Nat × Uid × Nat)
  /-- A fault turn's pair wait runs (R306): ports, with the time at which it ends. -/
  pairWait : List (Nat × Nat)
  /-- Notices that wait to be sent (R306). -/
  notices : List Notice
  /-- Sender UID and sequence of the notices acted on (R307). -/
  seen : List (Uid × BitVec 16)
  /-- Row number and row-start ST of the last ROW_START relayed for each ingress port (R541). -/
  relayed : List (Nat × Word × Word)
  /-- A blocking asks every fault turn or split for a new notice in the next row (R307). -/
  renotice : Bool
  deriving DecidableEq, Repr

/-- What a dataset context holds beside its entry (R249, R250). -/
structure CtxInfo where
  /-- The STATE and REASON of the last strand committed or received. -/
  last : BitVec 3
  reason : BitVec 5
  /-- R118 has marked it stale. -/
  missed : Bool
  /-- A NULL strand is shown as received until the next row boundary (R250). -/
  nullShown : Bool
  /-- It has been VALID. -/
  ever : Bool
  /-- It was stale when last looked at. -/
  stale : Bool
  deriving DecidableEq, Repr

/-- What a recovery context holds beside its entry (R259, R260). -/
structure RecInfo where
  /-- Numbers of the history window seen: bit k for RECOV_SEQ − k. -/
  hist : Nat
  /-- In this row a copy has been accepted, a duplicate seen, any copy seen, and a rogue one seen (R259, R260). -/
  acc : Bool
  dup : Bool
  came : Bool
  rogue : Bool
  /-- Consecutive active rows of the skein's stitch without a copy, and with rogue copies but no accepted one (R260). -/
  quiet : Nat
  rogues : Nat
  deriving DecidableEq, Repr

/-- A commit that waits for its flip (R245): new data in the back buffer, or a null strand with its reason. -/
structure Flip where
  die : Nat
  ctx : Nat
  null : Option (BitVec 5)
  /-- The instant of the flip: 1 µs after the commit. -/
  due : Word
  deriving DecidableEq, Repr

/-- A knitted skein (R252). -/
structure Knit where
  die : Nat
  row : Word
  sid : Nat
  skein : BitVec 13
  /-- NEED as it stood at the knit instant (R357). -/
  need : Bool
  strands : List Strand
  deriving DecidableEq, Repr

/-- What the dataset engines hold beside their registers and windows (R239 to R266). Keys of die d start at d × 2^16. -/
structure Datasets where
  ctx : List (Nat × CtxInfo)
  recov : List (Nat × RecInfo)
  flips : List Flip
  knits : List Knit
  /-- Sequence generators, by produced-skein entry (R258). -/
  gens : List (Nat × Nat)
  /-- Sequence counters of the TRDP transmit entries (R264). -/
  trdpSeq : List (Nat × Nat)
  /-- The Komidon link has recovered, and die 1's generators take die 0's at the next boundary (R258). -/
  genSync : Bool
  /-- Notifications that wait, oldest first, each with its die (R267). -/
  ntf : List (Nat × Word)
  deriving DecidableEq, Repr

/-- What the inauguration engine holds beside its registers and window. -/
structure Topo where
  /-- Sides whose coupling is pending (R196). -/
  couple : BitVec 2
  /-- The last TOPOLOGY frame of each other node (R191, R198). -/
  vecs : List (Uid × Topology)
  /-- The frames of the TOPOLOGY round that runs, by origin and computed counter, and the rounds: 0 before the first one in AGREE starts,
  else 1 more than the good ones in succession (R205). -/
  reports : List (Uid × Word)
  rounds : Nat
  /-- The sequence of the own TOPOLOGY frames. -/
  seq : BitVec 32
  /-- TOPOLOGY frames seen: origin and sequence (R191). -/
  relayed : List (Uid × BitVec 32)
  /-- TOPOLOGY frames taken that have still to be relayed, with the port on which they came (R191). -/
  toRelay : List (Nat × Topology)
  /-- The shadow of this inauguration is being written, and is complete on both dies (R216). -/
  writing : Bool
  complete : Bool
  /-- The shadow waits for the end of the double mapping before it is written (R228). -/
  waitSpan : Bool
  /-- It is to be committed alone at the next row boundary (R209). -/
  catchup : Bool
  /-- Rows in COMMIT without an announcement (R203). -/
  commitRows : Nat
  /-- The row of the announcement (R226, R229), and whether an announcement has been accepted (R203). -/
  annRow : Word
  announced : Bool
  /-- The ROW_START of row blocking row − 1 has been accepted with the announcement (R207). -/
  heardFrozen : Bool
  /-- The topology counter of the last ROW_START taken (R203, R209). -/
  rsTopo : Word
  /-- The last row of the double mapping's span (R226), and that a frog ends it at the next boundary. -/
  dblEnd : Word
  dblFrog : Bool
  /-- The renumbering of the last blocking applies to double mapping hits. -/
  dblOld : Bool
  /-- That blocking renumbered the nodes: it was an inauguration's. -/
  dblMap : Bool
  /-- The row of the last own CLAIM (R229). -/
  claimed : Option Word
  /-- Grants that wait for the next boundary to be written to the active overlay (R231). -/
  late : List GrantSlot
  /-- Own granted spares in grant order (R230, R251). -/
  own : List Nat
  /-- The spare requested in the last CLAIM, and the highest spare lost (R229, R230). -/
  asked : Option Nat
  lost : Option Nat
  /-- CLAIMs of the current row at the needle: sender, UID and spare (R230). -/
  claims : List (Nat × Uid × Nat)
  /-- Die 1 has still to invert its bank (R235). -/
  flip1 : Bool
  /-- Soft resets deferred to the boundary after the blocking row (R235), by page. -/
  resets : List Nat
  deriving DecidableEq, Repr

/-- The delta of one row as a lane has delivered it (R328). -/
structure Delta where
  lane : Nat
  row : Word
  records : List LlRecord
  /-- DELTA_END has arrived; it carries OVF; a lifeline sequence was skipped before it. -/
  ended : Bool
  ovf : Bool
  skip : Bool
  deriving DecidableEq, Repr

/-- What the twin logic holds beside its registers (R316 to R339). -/
structure Twin where
  /-- Consecutive rising edges of HB_IN spaced as R321 asks. -/
  hbRun : Nat
  /-- The token lines as read, true for high, and what this node drives low. -/
  tok0 : Bool
  tok1 : Bool
  drv0 : Bool
  drv1 : Bool
  /-- The instant at which a claim began, in ns, and its wait D in µs (R323). -/
  claimAt : Option Nat
  claimD : Nat
  /-- The token is held and RUNNING follows at the next row boundary; it has been released and STANDBY follows (R332, R339). -/
  take : Bool
  give : Bool
  /-- Lifeline sequences sent, and received last, by lane (R325). -/
  txSeq : List (Nat × Word)
  rxSeq : List (Nat × Word)
  /-- Changes of the current row: committed contexts (die, context), counters (die, kind, index), entries (die, table, index). -/
  ctxs : List (Nat × Nat)
  seqs : List (Nat × Nat × Nat)
  ents : List (Nat × Nat × Nat)
  /-- Deltas to be sent: lane, row and records, and whether they carry the DRILL flag. -/
  send : List (Nat × Word × List LlRecord)
  sendDrill : Bool
  /-- Deltas received, and the lanes on which a lifeline sequence was skipped since the last DELTA_END (R328). -/
  deltas : List Delta
  skipped : List Nat
  /-- Row boundaries in succession without a commit (R329). -/
  aged : Nat
  /-- The lead's sweep: the number of the next chunk, by lane (R330). -/
  sweep : List (Nat × Nat)
  /-- The instant in ns from which the next frame of the sweep may leave, by lane (RS_PACE, R330). -/
  pace : List (Nat × Nat)
  /-- The row that RESYNC_END has named, by lane (R330). -/
  ends : List (Nat × Word)
  /-- Contexts last written by an incomplete resync (R338). -/
  rsCtx : List (Nat × Nat)
  /-- The row in which DRILL was sent (R339). -/
  drillRow : Option Word
  /-- The instant at which the claim drove TOK0, and whether it is one of FORCE_TAKE (R323, R338). -/
  driveAt : Nat
  forced : Bool
  deriving DecidableEq, Repr

/-- What the ingress guard of a consist port holds beside its registers (R153, R154). -/
structure PortGuard where
  /-- The instants in ns of the last violations, newest first, at most 64. -/
  hist : List Nat
  /-- Token bucket: the instant to which it has been filled, in ns, and the part of a byte beyond PRT_POL_TOKENS, in 10^-6. -/
  filled : Nat
  part6 : Nat
  /-- The instants in ns at which a fence was last set and last lifted (R157). -/
  fencedAt : Nat
  lifted : Option Nat
  deriving DecidableEq, Repr

/-- A POLL sent in the current row: port, stitch and poll sequence (R159). -/
structure PollSent where
  row : Word
  port : Nat
  sid : Nat
  pseq : Word
  deriving DecidableEq, Repr

/-- What a REPLY window has received: a REPLY accepted on a port, or only ones that failed (R161, R162). -/
structure ReplyGot where
  row : Word
  sid : Nat
  port : Nat
  strand : Option Strand
  deriving DecidableEq, Repr

/-- What the consist ports and the polling hold beside their registers (R149 to R166). -/
structure Consist where
  /-- Poll sequences: by die × 2^16 + poll device entry, the last sent (R159). -/
  pseq : List (Nat × Word)
  /-- The guards, by port. -/
  guards : List (Nat × PortGuard)
  /-- POLLs sent and REPLYs received in the current row and the row before. -/
  polls : List PollSent
  replies : List ReplyGot
  /-- The last output image sent in a POLL, by die × 2^16 + dataset (R159). -/
  images : List (Nat × Strand)
  /-- REPLY windows that have been closed by their commit, by row and stitch (R162). -/
  closed : List (Word × Nat)
  deriving DecidableEq, Repr

/-- A frame in an egress queue (R277 to R286). -/
structure QEnt where
  /-- Copies of a flooded frame share their cells: frames of one number on one die. -/
  id : Nat
  port : Nat
  cls : Nat
  frame : Frame
  len : Nat
  /-- The uplink and the priority for which PFC counts the frame, and whether it took headroom (R291). -/
  pfc : Option (Nat × Nat)
  hdrm : Bool
  /-- It has been counted in PRT_CNT_HELD (R281). -/
  held : Bool
  deriving DecidableEq, Repr

/-- A best-effort frame that a port sends now (R277, R281). -/
structure Sending where
  ent : QEnt
  /-- The instant at which its last byte leaves, in ns. -/
  ends : Nat
  /-- It has been preempted, with so many ns left to send. -/
  left : Option Nat
  deriving DecidableEq, Repr

/-- A frame on its way to the host port (R275, R404). -/
structure HostFrame where
  port : Nat
  reason : RxReason
  cls : Nat
  frame : Eth
  sof : Word
  deriving DecidableEq, Repr

/-- A scheduled frame that waits at a port: till when it holds its cells, how many, and how many of them are borrowed (R285). -/
structure WaitCells where
  port : Nat
  till : Nat
  cells : Nat
  lent : Nat
  deriving DecidableEq, Repr

/-- What forwarding and the buffers hold beside their registers (R269 to R291). -/
structure Forwarding where
  /-- Frames queued, oldest first, and frames being sent. -/
  queue : List QEnt
  sending : List Sending
  /-- Deficits, by port × 4 + queue, and the queue at which a port's round robin stands (R277). -/
  deficit : List (Nat × Nat)
  drr : List (Nat × Nat)
  nextId : Nat
  /-- Frames for the host that wait for a receive descriptor, oldest first. -/
  toHost : List HostFrame
  /-- Old values that remain in effect to the next row boundary (R165, R288), and those that did in the row before. -/
  eff : List (Nat × Word)
  effOld : List (Nat × Word)
  /-- The spans in ns in which scheduled frames take a port: port, start and end (R123); and the transit frames that wait (R285). -/
  wire : List (Nat × Nat × Nat)
  waits : List WaitCells
  /-- The instant in ns at which the frame just received on a ring port began. -/
  arrived : Nat
  /-- Clusters through whose staging buffer frames have passed since CLU_STAGE_MAX was read (R23, R490). -/
  staged : List Nat
  /-- The instants, in ns, from which the AGE of learned directory entries counts on, by die × 65536 + entry (R217). -/
  hits : List (Nat × Nat)
  /-- The KLK_CRD_CFG registers as the last training took them, where a write waits for the next one (R289). -/
  crd : List (Nat × Word)
  deriving DecidableEq, Repr

/-- What an MVB interface holds beside its registers (R171 to R175). -/
structure Mvb where
  /-- As a device it answers: a master frame has been heard (R175). -/
  answering : Bool
  /-- Frames in succession taken from the line that is not active (R171). -/
  other : Nat
  /-- The basic periods that began before the current row, or at all while rows do not run (R172). -/
  periods : Nat
  /-- The last basic period of the row before runs on into this row, up to ANCHOR (R172). -/
  tail : Bool
  /-- The last master frame sent, while its reply is awaited: F-code and address (R174). -/
  awaited : Option (Nat × Nat)
  deriving DecidableEq, Repr

/-- FLD's staging copy of an output dataset (R168): its bytes and its sequence at the last output latch. -/
structure Staged where
  data : List Byte
  seq : Nat
  deriving DecidableEq, Repr

/-- FLD's staging copy of an input dataset that changed since the last input sample (R168, R169): the bytes of the last frame, the
interface that it came from, and every port or mailbox that staged it, with its interface: 0 and 1 MVB, 2 to 5 CAN. -/
structure StagedIn where
  data : List Byte
  src : Nat
  ports : List (Nat × Nat)
  deriving DecidableEq, Repr

/-- A message of the field bus queue (R183): type, source, dataset, ST, row and info. -/
structure FldMsg where
  kind : Nat
  src : Nat
  ds : Nat
  st : Word
  row : Word
  info : Word
  deriving DecidableEq, Repr

/-- What the field bus block holds beside its registers and tables (R167 to R185). -/
structure FieldBus where
  mvb0 : Mvb
  mvb1 : Mvb
  /-- Staging of outputs, by dataset. -/
  staging : List (Nat × Staged)
  /-- Staging of inputs that changed since the last input sample, by dataset. -/
  inputs : List (Nat × StagedIn)
  /-- The message queue, and messages that wait for the commit they report or behind one that does (R182). -/
  queue : List FldMsg
  waiting : List FldMsg
  /-- CAN mailboxes requested: controller and mailbox (R179). -/
  requests : List (Nat × Nat)
  /-- The dataset sequence that a CHANGE mailbox last sent, by controller × 128 + mailbox. -/
  sent : List (Nat × Nat)
  deriving DecidableEq, Repr

/-- A bridge request that this node has issued (R409, R412). -/
structure BrReq where
  w : Nat
  seq : BitVec 16
  write : Bool
  /-- The far device address, the data of a WRITE, and the length in bytes. -/
  addr : Nat
  data : List Word
  len : Nat
  prefetch : Bool
  newSeq : Bool
  /-- The target UID, 0 for a window by number, and the node number it was issued to (R408). -/
  target : Uid
  dst : Nat
  /-- It has been sent. -/
  sent : Bool
  /-- The elapsed time at which it was issued, and at which it was last sent. -/
  issued : Nat
  sentAt : Nat
  /-- The host access that it is part of, and the place of its first word there; a posted write has none. -/
  access : Option (Nat × Nat)
  deriving DecidableEq, Repr

/-- A host access through a remote window that is not yet answered: a read, or a write of the MSPI (R406, R414). -/
structure BrAccess where
  id : Nat
  agent : Agent
  write : Bool
  words : List Word
  failed : Bool
  deriving DecidableEq, Repr

/-- A host request that waits for room in the bridge (R409): its BAR2 or BAR0 request and the agent. -/
structure BrWait where
  agent : Agent
  bar2 : Bool
  req : BarReq
  /-- The access whose first parts have already been issued, and the place of this request's first word there. -/
  access : Option (Nat × Nat)
  deriving DecidableEq, Repr

/-- A held prefetch block (R417, R418): its window and number, its words, and the row boundaries it has left. -/
structure BrBlock where
  w : Nat
  block : Nat
  words : List Word
  /-- The elapsed time of its arrival. -/
  at0 : Nat
  left : Nat
  deriving DecidableEq, Repr

/-- A frame that waits for an MGMT stitch or for class 6 (R410, R419), oldest first in its list. -/
inductive BrOut where
  | req (w : Nat) (seq : BitVec 16)
  | rsp (dst : Nat) (b : BridgeRsp)
  | evt (dst : Nat) (b : EventMsg)
  deriving DecidableEq, Repr

/-- What the far node holds for an initiator and window (R413): the next sequence, and the responses of the last 16 requests. -/
structure BrFar where
  next : BitVec 16
  held : List BridgeRsp
  deriving DecidableEq, Repr

/-- An event message that waits for its turn (R420): the sender's number, the elapsed time of its arrival, and the message. -/
structure HeldEvt where
  num : Nat
  at0 : Nat
  msg : EventMsg
  deriving DecidableEq, Repr

/-- What is held of a sender's events (R420): the next sequence, and the messages that wait. -/
structure EvtSender where
  next : BitVec 16
  held : List HeldEvt
  deriving DecidableEq, Repr

/-- What the host interface and the register bridge hold beside their registers (R397 to R420). -/
structure HostIf where
  /-- PERST_N is high. -/
  perstN : Bool
  /-- Next sequence by window, and the windows whose next request carries NEWSEQ (R411, R412). -/
  next : List (Nat × BitVec 16)
  newSeq : Byte
  reqs : List BrReq
  accs : List BrAccess
  waits : List BrWait
  blocks : List BrBlock
  outq : List BrOut
  far : List ((Uid × Nat) × BrFar)
  /-- Error records and remote events, oldest first, as words (R416, R420). -/
  errs : List (List Word)
  revs : List (List Word)
  senders : List (Uid × EvtSender)
  /-- Event sequences, by destination (R419). -/
  evSeq : List (Nat × BitVec 16)
  nextId : Nat
  deriving DecidableEq, Repr

/-- What the statistics blocks hold beside their registers (R438, R440). -/
structure Stats where
  /-- The period in force on die 0 and die 1, in counts. -/
  period0 : Nat
  period1 : Nat
  /-- The Komidon link has recovered, and die 1 takes die 0's count at the next boundary. -/
  align : Bool
  deriving DecidableEq, Repr

/-- Elapsed time, and the timers that run.
(DESIGN CHOICE, log entry 70) -/
structure Elapsed where
  /-- The time since POR in ns, on the TIME clock's ticks. -/
  clk : Nat
  /-- The running timers: for each its name, which begins with the register that governs it, and the instant at which it ends. -/
  timers : List (Nat × Nat)
  deriving DecidableEq, Repr

/-- The state of the node. `regs` holds the words of the register pages (R474) and `tbl` the bytes of the table windows
(R478), each sparse: an unlisted register reads its reset value, an unlisted table byte 0. -/
structure State where
  /-- The family member (R2). -/
  part : Part
  /-- STRAP [7:0] as last sampled (R459). -/
  straps : Byte
  /-- The registers, by device address. -/
  regs : List (Nat × Word)
  /-- The table windows, by device address. -/
  tbl : List Host.Cell
  /-- The OTP fuses, as 128 words by index (R430). -/
  otp : List (Nat × Word)
  /-- The high words that agents' low-word reads have latched (R487). -/
  lat : List (Agent × Nat × Word)
  kp : Keeper
  tm : TimeUnit
  ev : EventCtl
  se : Security
  sc : Sched
  sw : Swatch
  rg : Ring
  dk : Datasets
  tp : Topo
  pr : Twin
  cn : Consist
  fw : Forwarding
  fb : FieldBus
  hi : HostIf
  /-- The live statistics counters (R439), by the address of their snapshot. -/
  live : List (Nat × Nat)
  /-- Counters that measure time now, by address, each with the instant from which it still has to count (R443, R446). -/
  since : List (Nat × Nat)
  stats : Stats
  /-- The instant in ns at which a frame last crossed an edge lane, by region (R51). -/
  rgnEdge : List (Nat × Nat)
  el : Elapsed
  /-- What has left the device, newest first: the model's own record. -/
  out : List Out
  /-- How many free values have been used: the model's own counter. -/
  free : Nat
  /-- Commands that wait, first in, first out. -/
  pending : List Instr
  deriving DecidableEq, Repr

/-- Faults a step can end in. None is raised: every command of the table has an effect that the spec gives, or none. -/
inductive Fault where
  /-- Raised by no command: kept so that the outcome type is inhabited. Safe. -/
  | none
  deriving DecidableEq, Repr

/-- Refusals a step can end in. -/
inductive Refusal where
  /-- Raised by the arm of a command that has no meaning yet. Safe. -/
  | notModelled (mnemonic : String)
  deriving DecidableEq, Repr

/-! ## Initial values -/

/-- Nothing is due. -/
def TimeDue.none : TimeDue := { tens := Option.none, set := Option.none, step := 0 }

/-- The time units after a die reset: tensions 2.000 ns (R65), everything else 0.
(DESIGN CHOICE, log entry 9) -/
def TimeUnit.init : TimeUnit :=
  { tens0 := 0x200000000, tens1 := 0x200000000, rckFrac0 := 0, rckFrac1 := 0, holdTens := 0x200000000, cycle := (0, 0), tmrLate := 0, holdRows := 0,
    due0 := TimeDue.none, due1 := TimeDue.none, lastTens0 := 0x200000000, lastTens1 := 0x200000000, lastHold := 0x200000000, tmrAt := [], rowless := 0,
    holdMute := false, syncRun0 := 0, syncRun1 := 0, slaveSeq0 := none, slaveSeq1 := none, otherSeq0 := none, otherSeq1 := none,
    syncSeen := false, syncSeen1 := false, twoStep := [], originSeq0 := 0, originSeq1 := 0, ppsHigh := false, ppsTop0 := 0, ppsTop1 := 0 }

/-- The event controller after a die 0 reset. -/
def EventCtl.init : EventCtl :=
  { edges := [], asg := [], pendSt := [], claimed := [], doneQ := [], modExpired := 0xFF, due := 0, held := 0, wakeN := false, msixEn := false }

/-- The security block after a die 0 reset. -/
def Security.init : Security := { otpBusy := none, jtagBlocked := false }

/-- The schedule engine after a die 0 reset.
(DESIGN CHOICE, log entry 9) -/
def Sched.init : Sched :=
  { poll := none, prevPoll := none, prevPrf := 0, decided := [], heard := [], rsMiss := 0, swapRow := 0, swapLate := none,
    calm := 0, calm1 := 0, pollSt := 0, prevPollSt := 0, chkSlot := 0, hold := false, yieldLeft := none, winner := 0, yieldSent := false, planned := 0, csSince := 0, followNs := 0, grants := [],
    adoptSt := none, marks := 0, stmOut := 0, stmEdges := 0, sending := [], prevBank := 0, prevRowSt := 0, lostMute := false }

/-- The swatch blocks after a die 0 reset. -/
def Swatch.init : Swatch := { tests := [], bist0 := .idle, bist1 := .idle }

/-- The keeper after POR (R42): KHF runs, KLF is not yet valid.
(DESIGN CHOICE, log entry 9) -/
def Keeper.init : Keeper :=
  { khf := true, klf := false, cplLatch := 0, held := 0, powerDown := false, rstWait := false, needCounting := false, boPend := false,
    rewakeEnd := none, rewakeDone := 0, stuck := 0, waiting := 0, sampling := 0, bursting := 0, i2cPolls := [], rate10 := 0, insLine := 0, lastCopy := 0,
    bootDue := false, tried := 0, marks := 0, failCodes := 0, staged := none, initLeft := [], linkWait := false, inUse := none }

/-- The turn logic after a die 0 reset.
(DESIGN CHOICE, log entry 9) -/
def Ring.init : Ring :=
  { failed := [], due := [], locked := [], faultRx := [], before := [], pairWait := [], notices := [], seen := [], relayed := [],
    renotice := false }

/-- A dataset context that has never been VALID (R250). -/
def CtxInfo.init : CtxInfo := { last := 0, reason := 0, missed := false, nullShown := false, ever := false, stale := true }

/-- A recovery context before its first copy (R259). -/
def RecInfo.init : RecInfo := { hist := 0, acc := false, dup := false, came := false, rogue := false, quiet := 0, rogues := 0 }

/-- The dataset engines after a die 0 reset. -/
def Datasets.init : Datasets := { ctx := [], recov := [], flips := [], knits := [], gens := [], trdpSeq := [], genSync := false, ntf := [] }

/-- The inauguration engine after a die 0 reset.
(DESIGN CHOICE, log entry 9) -/
def Topo.init : Topo :=
  { couple := 0, vecs := [], reports := [], rounds := 0, seq := 0, relayed := [], toRelay := [], writing := false, complete := false, waitSpan := false,
    catchup := false, commitRows := 0, annRow := 0, rsTopo := 0, announced := false, heardFrozen := false, dblEnd := 0, dblFrog := false,
    dblOld := false, dblMap := false, claimed := none, late := [], own := [], asked := none, lost := none, claims := [], flip1 := false, resets := [] }

/-- The twin logic after a die 0 reset: no line driven, the lines at their pull-ups.
(DESIGN CHOICE, log entry 9) -/
def Twin.init : Twin :=
  { hbRun := 0, tok0 := true, tok1 := true, drv0 := false, drv1 := false, claimAt := none, claimD := 0, take := false, give := false
    txSeq := [], rxSeq := [], ctxs := [], seqs := [], ents := [], send := [], sendDrill := false, deltas := [], skipped := []
    aged := 0, sweep := [], pace := [], ends := [], rsCtx := [], drillRow := none, driveAt := 0, forced := false }

/-- The consist star after a die 0 reset.
(DESIGN CHOICE, log entry 9) -/
def Consist.init : Consist := { pseq := [], guards := [], polls := [], replies := [], images := [], closed := [] }

/-- Forwarding after a die 0 reset.
(DESIGN CHOICE, log entry 9) -/
def Forwarding.init : Forwarding := { queue := [], sending := [], deficit := [], drr := [], nextId := 0, toHost := [], eff := [], effOld := [], wire := [], waits := [], arrived := 0, staged := [], hits := [], crd := [] }

/-- An MVB interface that is not running. -/
def Mvb.init : Mvb := { answering := true, other := 0, periods := 0, tail := false, awaited := none }

/-- The field bus block after a die 0 reset.
(DESIGN CHOICE, log entry 9) -/
def FieldBus.init : FieldBus := { mvb0 := Mvb.init, mvb1 := Mvb.init, staging := [], inputs := [], queue := [], waiting := [], requests := [], sent := [] }

/-- The host interface and the bridge after a die 0 reset, with PERST_N as the board drives it. -/
def HostIf.init (perstN : Bool) : HostIf :=
  { perstN := perstN, next := [], newSeq := 0, reqs := [], accs := [], waits := [], blocks := [], outq := [], far := [], errs := [], revs := [],
    senders := [], evSeq := [], nextId := 0 }

/-- The statistics blocks after a die reset.
(DESIGN CHOICE, log entry 9) -/
def Stats.init : Stats := { period0 := 1000, period1 := 1000, align := false }

/-- The machine right after reset: the keeper has come out of OFF and the node is in PARKED (R42), every register and table
reads its reset value, and no command waits. The part and the straps are the board's.
(DESIGN CHOICE, log entry 7; DESIGN CHOICE, log entry 9) -/
def State.reset : State :=
  { part := .dn6464, straps := 0, regs := [], tbl := [], otp := [], lat := [], kp := Keeper.init, tm := TimeUnit.init,
    ev := EventCtl.init, se := Security.init, sc := Sched.init, sw := Swatch.init, rg := Ring.init, dk := Datasets.init,
    tp := Topo.init, pr := Twin.init, cn := Consist.init, fw := Forwarding.init, fb := FieldBus.init, hi := HostIf.init false, live := [], since := [], stats := Stats.init, rgnEdge := [], el := { clk := 0, timers := [] }, out := [], free := 0, pending := [] }

end Sys2Proof.Machine
end

