-- ==== Sys2Proof/Machine/Operands.lean ====
section
/-! DEFINITION. The operand forms of the spec: fields of words, device addresses of registers and table windows, ports and
lines, modes, and comparisons of instants. -/

namespace Sys2Proof

/-! ## Family members (R2) -/

/-- Whether a part has two switch dies. -/
def Part.twoDies : Part → Bool
  | .dn6464 => true
  | _ => false

/-- The device ID of a part (R466, R491). -/
def Part.deviceId : Part → Nat
  | .dn6464 => 0x6464
  | .dn6432 => 0x6432
  | .dn6416 => 0x6416

/-- The number of ports enabled (R2). -/
def Part.ports : Part → Nat
  | .dn6464 => 64
  | .dn6432 => 32
  | .dn6416 => 16

end Sys2Proof

namespace Sys2Proof.Machine

/-! ## Fields of words (R6, bit ranges) -/

/-- The field [lo + len - 1 : lo] of a word, as a number. -/
def fld (w : Word) (lo len : Nat) : Nat := w.toNat / 2 ^ lo % 2 ^ len

/-- A word with its field [lo + len - 1 : lo] replaced by `v` mod 2^len. -/
def setFld (w : Word) (lo len v : Nat) : Word :=
  BitVec.ofNat 32 (w.toNat % 2 ^ lo + (v % 2 ^ len) * 2 ^ lo + w.toNat / 2 ^ (lo + len) * 2 ^ (lo + len))

/-- Bit `i` of a word. -/
def bit (w : Word) (i : Nat) : Bool := w.toNat / 2 ^ i % 2 == 1

/-- A word with bit `i` set to `b`. -/
def setBit (w : Word) (i : Nat) (b : Bool) : Word := setFld w i 1 (if b then 1 else 0)

/-- A number held to a range: values outside act as the nearer limit. -/
def clampTo (lo hi v : Nat) : Nat := if v < lo then lo else if hi < v then hi else v

/-- A field of which 0 acts as 1. -/
def atLeast1 (v : Nat) : Nat := if v = 0 then 1 else v

/-- Number of a Bool: 1 or 0. -/
def b2n (b : Bool) : Nat := if b then 1 else 0

/-! ## Half-range comparisons of instants (R78) -/

/-- The signed difference target − ST (R78). -/
def stDiff (target st : Word) : Int := (target - st).toInt

/-- An instant at or past a target, by the half-range comparison (R78). -/
def stReached (target st : Word) : Bool := decide (stDiff target st ≤ 0)

/-- `a` is later than `b` in the half range (R78). -/
def stLater (a b : Word) : Bool := decide (0 < stDiff a b)

/-- A word of a number of ns, wrapping (R64). -/
def wordOf (n : Nat) : Word := BitVec.ofNat 32 n

/-! ## Device addresses of registers (R474 to R478) -/

def kpr (o : Nat) : Nat := 0x08000000 + o
def kwk (o : Nat) : Nat := 0x08001000 + o
def kby (o : Nat) : Nat := 0x08002000 + o
def kps (o : Nat) : Nat := 0x08003000 + o
def krt (o : Nat) : Nat := 0x08004000 + o
def kms (o : Nat) : Nat := 0x08005000 + o
def die (d o : Nat) : Nat := dieBase d + 0x000000 + o
def cpm (d o : Nat) : Nat := dieBase d + 0x001000 + o
def evcc (d o : Nat) : Nat := dieBase d + 0x002000 + o
def evcm (d o : Nat) : Nat := dieBase d + 0x003000 + o
def tmu (d o : Nat) : Nat := dieBase d + 0x010000 + o
def clu (c o : Nat) : Nat := dieBase (c / 4) + 0x140000 + (c % 4) * 0x1000 + o
def rgn (g o : Nat) : Nat := dieBase (g / 2) + 0x150000 + (g % 2) * 0x1000 + o
def sch (d o : Nat) : Nat := dieBase d + 0x160000 + o
def ina (o : Nat) : Nat := 0x170000 + o
def dsk (d o : Nat) : Nat := dieBase d + 0x180000 + o
def fwd (d o : Nat) : Nat := dieBase d + 0x190000 + o
def buf (d o : Nat) : Nat := dieBase d + 0x1A0000 + o
def rng (d o : Nat) : Nat := dieBase d + 0x1B0000 + o
def twn (d o : Nat) : Nat := dieBase d + 0x1C0000 + o
def sec (d o : Nat) : Nat := dieBase d + 0x1D0000 + o
def sa (d m o : Nat) : Nat := dieBase d + 0x1D1000 + m * 0x1000 + o
def sta (d o : Nat) : Nat := dieBase d + 0x1E0000 + o
def swt (d o : Nat) : Nat := dieBase d + 0x1F0000 + o
def hdm (o : Nat) : Nat := 0x200000 + o
def msix (o : Nat) : Nat := 0x201000 + o
def txr (o : Nat) : Nat := 0x202000 + o
def rxr (o : Nat) : Nat := 0x203000 + o
def brg (o : Nat) : Nat := 0x210000 + o
def fldp (o : Nat) : Nat := 0x220000 + o
def klk (d o : Nat) : Nat := dieBase d + 0x230000 + o

/-- A register of port `p`'s page (R17): the local port is p mod 32, on die p / 32. -/
def prt (p o : Nat) : Nat := dieBase (p / 32) + 0x100000 + (p % 32) * 0x1000 + o

/-- EVC_ROUTE of a source ID: on the source's own die (R394). -/
def routeAddr (src : Nat) : Nat :=
  dieBase (src / 1024) + 0x004000 + (src % 1024) / 512 * 0x1000 + EVC_ROUTE (src % 512)

/-- The base of the page that an address lies in. -/
def pageBase (a : Nat) : Nat := a / 0x1000 * 0x1000

/-- A byte address within a die's table window (R478). -/
def win (d o : Nat) : Nat := winBase d + o

/-- The die of a device address: 0, 1, or 2 for die K. -/
def dieOf (a : Nat) : Nat :=
  if a < 0x08000000 then a / 0x04000000 else if a < 0x10000000 then 2 else (a - 0x10000000) / 0x08000000

/-- The number of a switch die. -/
def dieNum : Sys2Proof.Die → Nat
  | .d0 => 0
  | .d1 => 1

/-! ## Ports, lines and sides (R15, R18, R344) -/

/-- The number of a line: A is 0, B is 1. -/
def lineNum : Line → Nat
  | .a => 0
  | .b => 1

/-- The number of a side: side 1 is 0, side 2 is 1. -/
def sideNum : Side → Nat
  | .one => 0
  | .two => 1

/-- The backbone port of a line (0 or 1) and side (0 or 1). -/
def backbonePort (pt : Part) (line side : Nat) : Nat :=
  if pt.twoDies then line * 32 + side else line * 2 + side

/-- The backbone ports. -/
def backbonePorts (pt : Part) : List Nat :=
  [backbonePort pt 0 0, backbonePort pt 0 1, backbonePort pt 1 0, backbonePort pt 1 1]

def isBackbone (pt : Part) (p : Nat) : Bool := (backbonePorts pt).contains p

/-- The line of a backbone port. -/
def portLine (pt : Part) (p : Nat) : Nat := if pt.twoDies then p / 32 else p / 2

/-- The side of a backbone port. -/
def portSide (p : Nat) : Nat := p % 2

/-- The backbone port on the other side of the same line. -/
def acrossPort (p : Nat) : Nat := if p % 2 = 0 then p + 1 else p - 1

/-- Consist uplinks: CU0 to CU3 of the DN-6464 on P2, P3, P34 and P35; none in the single-die parts (R15, R18). -/
def isUplink (pt : Part) (p : Nat) : Bool := pt.twoDies && (p % 32 == 2 || p % 32 == 3)

/-- Edge ports: the others. -/
def isEdge (pt : Part) (p : Nat) : Bool := !isBackbone pt p && !isUplink pt p && decide (p < pt.ports)

/-- The die that owns a line's relays and ports (R344). -/
def lineDie (pt : Part) (line : Nat) : Nat := if pt.twoDies then line else 0

/-- The MACsec instance of a port (R424): die and m. The twin lanes are given by `twinSa`. -/
def portSa (pt : Part) (p : Nat) : Option (Nat × Nat) :=
  if pt.twoDies then (if p % 32 < 2 then some (p / 32, p % 32) else none)
  else if p < 4 then some (0, p) else none

/-- The MACsec instance of a twin lane (R424). -/
def twinSa (pt : Part) (lane : Nat) : Nat × Nat := if pt.twoDies then (lane, 2) else (0, 4)

/-- The region of a port, counted over the device (R15). -/
def portRegion (p : Nat) : Nat := p / 16

/-- Regions whose cap is NAP (R52): those that hold a backbone port, an uplink, a twin lane or HP. -/
def regionCapNap (pt : Part) (g : Nat) : Bool := g == 0 || (pt.twoDies && g == 2)

/-! ## Modes (R40) -/

/-- The operating modes. -/
inductive Mode where
  | off | parked | waking | castOn | running | healing | standby | maintenance
  deriving DecidableEq, Repr

/-- The code of a mode. -/
def Mode.code : Mode → Nat
  | .off => 0 | .parked => 1 | .waking => 2 | .castOn => 3 | .running => 4 | .healing => 5 | .standby => 6 | .maintenance => 7

/-- The mode of a code. -/
def Mode.ofCode (n : Nat) : Mode :=
  if n = 0 then .off else if n = 1 then .parked else if n = 2 then .waking else if n = 3 then .castOn
  else if n = 4 then .running else if n = 5 then .healing else if n = 6 then .standby else .maintenance

/-- RUNNING, HEALING or STANDBY: the modes in which rows run under a schedule. -/
def Mode.inRow : Mode → Bool
  | .running | .healing | .standby => true
  | _ => false

/-- WAKING to MAINTENANCE: the modes in which the switch dies are powered. -/
def Mode.powered : Mode → Bool
  | .off | .parked => false
  | _ => true

/-- The causes of KPR_MODE.CAUSE (R46). -/
inductive Cause where
  | por | wakeIn | lad | cplSns | rtcAlarm | hostRequest | bindoffEnd | pgoodTimeout | pgoodLoss | sysRst | dieReset | lossOfLock
  | castOnDone | faultTurn | ringWhole | rowStartLost | tokenAcquired | tokenLost | partnerToken
  deriving DecidableEq, Repr

/-- The code of a cause. -/
def Cause.code : Cause → Nat
  | .por => 0x01 | .wakeIn => 0x02 | .lad => 0x03 | .cplSns => 0x04 | .rtcAlarm => 0x05 | .hostRequest => 0x06
  | .bindoffEnd => 0x07 | .pgoodTimeout => 0x08 | .pgoodLoss => 0x09 | .sysRst => 0x0A | .dieReset => 0x0B | .lossOfLock => 0x0C
  | .castOnDone => 0x0D | .faultTurn => 0x0E | .ringWhole => 0x0F | .rowStartLost => 0x10 | .tokenAcquired => 0x11
  | .tokenLost => 0x12 | .partnerToken => 0x13

/-- KPR_MODE_REQ values (R46). -/
inductive ModeReq where
  | wake | maintenance | castOn | park
  deriving DecidableEq, Repr

/-- The code of a request. -/
def ModeReq.code : ModeReq → Nat
  | .wake => 1 | .maintenance => 2 | .castOn => 3 | .park => 4

/-! ## CRC32 (R217, R276, R535) -/

/-- One bit of the reflected CRC32 of IEEE 802.3. -/
def crcBit : Nat → Nat → Nat
  | 0, c => c
  | n + 1, c => crcBit n (if c % 2 = 1 then Nat.xor (c / 2) 0xEDB88320 else c / 2)

/-- The CRC32 of IEEE 802.3 over bytes. -/
def crc32 (l : List Byte) : Word :=
  BitVec.ofNat 32 (Nat.xor (l.foldl (fun c b => crcBit 8 (Nat.xor c b.toNat)) 0xFFFFFFFF) 0xFFFFFFFF)

/-- The bytes of a list of words, least significant first. -/
def wordBytes (l : List Word) : List Byte :=
  l.flatMap fun w => [BitVec.ofNat 8 w.toNat, BitVec.ofNat 8 (w.toNat / 0x100), BitVec.ofNat 8 (w.toNat / 0x10000), BitVec.ofNat 8 (w.toNat / 0x1000000)]

end Sys2Proof.Machine
end

