-- ==== Sys2Proof/Machine/Ops.lean ====
section
/-! DEFINITION. The named operations over registers, table windows, OTP and the record of what leaves the device. -/

namespace Sys2Proof.Machine

/-! ## Registers -/

/-- The word a register holds. -/
def State.rd (s : State) (a : Nat) : Word := Sparse.get regDefault s.regs a

/-- A register set to a word. -/
@[noinline] def State.wr (s : State) (a : Nat) (v : Word) : State := { s with regs := Sparse.set regDefault s.regs a v }

/-- A field of a register. -/
def State.rdF (s : State) (a lo len : Nat) : Nat := fld (s.rd a) lo len

/-- A register with one field replaced. -/
@[noinline] def State.wrF (s : State) (a lo len v : Nat) : State := s.wr a (setFld (s.rd a) lo len v)

/-- A bit of a register. -/
def State.rdB (s : State) (a i : Nat) : Bool := bit (s.rd a) i

/-- A register with one bit replaced. -/
@[noinline] def State.wrB (s : State) (a i : Nat) (b : Bool) : State := s.wrF a i 1 (b2n b)

/-- A counter register incremented, saturating at 0xFFFF_FFFF. -/
@[noinline] def State.count (s : State) (a : Nat) : State :=
  if s.rd a = 0xFFFFFFFF then s else s.wr a (s.rd a + 1)

/-- A counter register increased by `n`, saturating at 0xFFFF_FFFF. -/
def State.countBy (s : State) (a n : Nat) : State :=
  s.wr a (wordOf (min ((s.rd a).toNat + n) 0xFFFFFFFF))

/-- A counter field incremented, saturating at all ones. -/
@[noinline] def State.countF (s : State) (a lo len : Nat) : State :=
  if s.rdF a lo len + 1 < 2 ^ len then s.wrF a lo len (s.rdF a lo len + 1) else s

/-- A field incremented, wrapping. -/
def State.bumpF (s : State) (a lo len : Nat) : State := s.wrF a lo len (s.rdF a lo len + 1)

/-- A low/high register pair as one number. -/
def State.rd64 (s : State) (lo hi : Nat) : Nat := (s.rd lo).toNat + (s.rd hi).toNat * 2 ^ 32

/-- A low/high register pair set from one number. -/
def State.wr64 (s : State) (lo hi v : Nat) : State := (s.wr lo (wordOf v)).wr hi (wordOf (v / 2 ^ 32))

/-- The value of a register that is in effect: what it held before a write of this row, else what it holds. -/
def State.eff (s : State) (a : Nat) : Word := (Assoc.get s.fw.eff a).getD (s.rd a)

/-- The reserved bits that depend on the part or the die: LANE_OK of ports that are no edge ports (R63), the host reserve of die 1
(R295), and bit 10 of an event source in the single-die parts (R3). -/
def reservedBits (pt : Part) (a : Nat) : Word :=
  match pageAt a with
  | none => 0
  | some p =>
    let o := a % 0x1000
    match p.kind with
    | .rgn =>
      if o = RGN_LANE_OK then
        wordOf ((List.range 16).map fun i => if isEdge pt ((p.die * 2 + p.idx) * 16 + i) then 0 else 2 ^ i).sum
      else 0
    | .buf => if p.die = 1 ∧ o = BUF_TRSV then 0xFFFF0000 else 0
    | .brg => if !pt.twoDies && decide (0x300 ≤ o) then 0x400 else 0
    | _ => 0

/-- The bits of a register that a plain write stores (R8, R9). -/
def State.maskAt (s : State) (a : Nat) : Word :=
  match regRowAt a with
  | some r => r.mask &&& ~~~reservedBits s.part a
  | none => 0

/-! ## Table windows -/

/-- A byte of a table window, 0 where nothing has been written. -/
def State.tb (s : State) (a : Nat) : Byte := Sparse.get (fun _ => (0 : Byte)) s.tbl a

/-- A byte of a table window set. -/
@[noinline] def State.setTb (s : State) (a : Nat) (b : Byte) : State := { s with tbl := Sparse.set (fun _ => (0 : Byte)) s.tbl a b }

/-- A little-endian word of a table window (R486). -/
def State.tw (s : State) (a : Nat) : Word :=
  BitVec.ofNat 32 ((s.tb a).toNat + (s.tb (a + 1)).toNat * 0x100 + (s.tb (a + 2)).toNat * 0x10000 + (s.tb (a + 3)).toNat * 0x1000000)

/-- A little-endian word of a table window set. -/
@[noinline] def State.setTw (s : State) (a : Nat) (w : Word) : State :=
  (((s.setTb a (BitVec.ofNat 8 w.toNat)).setTb (a + 1) (BitVec.ofNat 8 (w.toNat / 0x100))).setTb (a + 2)
    (BitVec.ofNat 8 (w.toNat / 0x10000))).setTb (a + 3) (BitVec.ofNat 8 (w.toNat / 0x1000000))

/-- A field of a word of a table window. -/
def State.twF (s : State) (a lo len : Nat) : Nat := fld (s.tw a) lo len

/-- A word of a table window with one field replaced. -/
@[noinline] def State.setTwF (s : State) (a lo len v : Nat) : State := s.setTw a (setFld (s.tw a) lo len v)

/-- `n` bytes of a table window from `a` on. -/
def State.tbs (s : State) (a : Nat) : Nat → List Byte
  | 0 => []
  | n + 1 => s.tb a :: s.tbs (a + 1) n

/-- Bytes written to a table window from `a` on. -/
def State.setTbs (s : State) (a : Nat) : List Byte → State
  | [] => s
  | b :: bs => (s.setTb a b).setTbs (a + 1) bs

/-- Words written to a table window from `a` on. -/
@[noinline] def State.setTws (s : State) (a : Nat) : List Word → State
  | [] => s
  | w :: ws => (s.setTw a w).setTws (a + 4) ws

/-! ## OTP (R430) -/

/-- A word of the OTP fuses. -/
def State.otpW (s : State) (i : Nat) : Word := Sparse.get (fun _ => (0 : Word)) s.otp i

/-- A fuse word set. -/
def State.setOtpW (s : State) (i : Nat) (w : Word) : State := { s with otp := Sparse.set (fun _ => (0 : Word)) s.otp i w }

/-! ## Outputs and free values -/

/-- Something leaves the device. -/
def State.emit (s : State) (o : Out) : State := { s with out := o :: s.out }

/-- The next free value. -/
def State.fresh (s : State) : Word := Config.freeWord s.free

/-- The next free value is used up.
(DESIGN CHOICE, log entry 5) -/
def State.useFree (s : State) : State := { s with free := s.free + 1 }

/-! ## Control flow of effects -/

/-- An effect under a condition; no effect otherwise. -/
def State.when (s : State) (c : Bool) (f : State → State) : State := if c then f s else s

/-- An effect for each element of a list, in order. -/
@[noinline] def State.each {α : Type} (s : State) (f : α → State → State) : List α → State
  | [] => s
  | x :: xs => (f x s).each f xs

/-- An effect with the value of an option; no effect without one. -/
def State.onSome {α : Type} (s : State) (o : Option α) (f : α → State → State) : State :=
  match o with
  | none => s
  | some x => f x s

/-! ## The mode and the dies (R40, R41, R472) -/

/-- The operating mode (R41). -/
def State.mode (s : State) : Mode := Mode.ofCode (s.rdF (kpr KPR_MODE) 0 3)

/-- A switch die is present, powered and out of reset. -/
def State.dieUp (s : State) (d : Nat) : Bool :=
  s.mode.powered && (d == 0 || s.part.twoDies) && !s.rdB (kps KPS_STAT) (8 + d)

/-- The Komidon link is up (R296). -/
def State.linkUp (s : State) : Bool := s.part.twoDies && s.rdB (klk 0 KLK_STAT) 0

/-- Die 1 works beside die 0: out of reset, with the Komidon link up and not left out (R30, R469, R538). -/
def State.die1On (s : State) : Bool := s.dieUp 1 && s.linkUp && !s.rdB (die 0 DIE_BOOT_STAT) 6

/-- The dies of the part that are up. -/
def State.dies (s : State) : List Nat := if s.dieUp 1 then [0, 1] else [0]

/-- The row clock ST of a die (R76). -/
def State.st (s : State) (d : Nat) : Word := s.rd (tmu d TMU_ST)

/-- The elapsed time in ns: what times are measured with.
(DESIGN CHOICE, log entry 70) -/
def State.now (s : State) : Nat := s.el.clk

/-! ## Timers -/

/-- The name of a timer: the register that governs it, and which of that register's timers it is. -/
abbrev tmr (a n : Nat) : Nat := a * 64 + n

/-- One ms and one µs in ns. -/
abbrev ms : Nat := 1000000
abbrev us : Nat := 1000

/-- A timer starts, or starts again, to end `ns` from now.
(DESIGN CHOICE, log entry 70) -/
def State.arm (s : State) (k ns : Nat) : State := { s with el := { s.el with timers := Assoc.put s.el.timers k (s.now + ns) } }

/-- A timer stops. -/
def State.disarm (s : State) (k : Nat) : State := { s with el := { s.el with timers := Assoc.del s.el.timers k } }

/-- The instant of an event is kept, for times that count from it. -/
def State.mark (s : State) (k : Nat) : State := s.arm k 0

/-- The instant at which a timer ends, where it runs, or the instant that is kept. -/
def State.timer (s : State) (k : Nat) : Option Nat := Assoc.get s.el.timers k

/-- The timers of the registers that `f` names stop. -/
def State.dropTimers (s : State) (f : Nat → Bool) : State :=
  { s with el := { s.el with timers := s.el.timers.filter fun e => !f (e.1 / 64) } }

/-- What is left of a timer, in ns. -/
def State.timeLeft (s : State) (k : Nat) : Nat := (s.timer k).getD 0 - s.now

/-- The node's number, 0 if not inaugurated (R212). -/
def State.num (s : State) : Nat := s.rdF (ina INA_STAT) 8 6

/-- The node UID (R133). -/
def State.uid (s : State) : Uid := BitVec.ofNat 64 (s.rd64 (sch 0 SCH_CS_UID_LO) (sch 0 SCH_CS_UID_HI))

/-! ## The debug TAP (R432) -/

/-- The TAP is open: OTP DBG_LOCK is 0, or the debug unlock has succeeded since the last reset of die 0 (R430, R432).
(DESIGN CHOICE, log entry 49) -/
def State.tapOpen (s : State) : Bool := !bit (s.otpW 20) 0 || s.rdB (sec 0 SEC_STAT) 1

/-- The challenge and response registers, which a locked TAP gives access to. -/
def isJtagReg (a : Nat) : Bool := decide (sec 0 (SEC_JTAG_CHAL 0) ≤ a ∧ a ≤ sec 0 SEC_JTAG_STAT)

/-- An agent may access a register: the TAP while it is open, and the challenge and response registers at any time (R432).
(DESIGN CHOICE, log entry 49) -/
def State.agentMay (s : State) (ag : Agent) (a : Nat) : Bool := ag != .tap || s.tapOpen || isJtagReg a

end Sys2Proof.Machine
end

