-- ==== Sys2Proof/Machine/Flags.lean ====
section
/-! DEFINITION. Event flags: setting a PG_EVT bit and the edge of its source (R371, R485), level conditions, and the page
locks that guard register writes (R433 to R435). -/

namespace Sys2Proof.Machine

/-! ## Event flags -/

/-- The source ID of the page at a page base (R370). -/
def pageSource (base : Nat) : Nat :=
  if base < 0x08000000 then base / 0x04000000 * 1024 + base % 0x04000000 / 0x1000
  else 0x380 + (base - 0x08000000) / 0x1000

/-- The die whose event controller takes a source's edges: keeper sources are die 0's. -/
def pageDie (base : Nat) : Nat := if base < 0x08000000 then base / 0x04000000 else 0

/-- The edge of a source, waiting to be taken (R371). A die in reset detects no edge (R391). -/
def State.edge (s : State) (src : Nat) : State :=
  if s.dieUp (src / 1024) then { s with ev := { s.ev with edges := s.ev.edges ++ [(src, s.st (src / 1024))] } } else s

/-- Whether a page's PG_SEQ counts its events: on the STA page it is the snapshot sequence instead (R485). -/
def seqCounts (base : Nat) : Bool := !(base == sta 0 0 || base == sta 1 0)

/-- Hardware sets bit `i` of a page's PG_EVT. A bit that was 0 increments PG_SEQ, and if it is enabled in PG_EVEN it is an
edge of the page's source (R371, R485). -/
@[noinline] def State.raise (s : State) (base i : Nat) : State :=
  if s.rdB (base + PG_EVT) i then s
  else
    let s1 := s.wrB (base + PG_EVT) i true
    let s2 := if seqCounts base then s1.wr (base + PG_SEQ) (s1.rd (base + PG_SEQ) + 1) else s1
    if s.rdB (base + PG_EVEN) i then s2.edge (pageSource base) else s2

/-- The edges of a page's source when bits of PG_EVT & PG_EVEN rise together (R371): one for each bit. -/
def State.edges (s : State) (src : Nat) : Nat → State
  | 0 => s
  | n + 1 => (s.edge src).edges src n

/-- The number of 1 bits of a word. -/
def popCount (w : Word) : Nat := (List.range 32).foldl (fun n i => n + b2n (bit w i)) 0

/-! ## Counters of time (R446) -/

/-- The address of a region counter's snapshot. -/
def regionCtr (g i : Nat) : Nat := win (g / 2) (0x0B14000 + g % 2 * 0x20 + i * 8)

/-- A live counter. -/
def State.liveOf (s : State) (a : Nat) : Nat := (Assoc.get s.live a).getD 0

/-- A live counter increased, while its die counts (R440); counters saturate at 2^48 − 1. -/
@[noinline] def State.statBy (s : State) (a n : Nat) : State :=
  if s.rdB (sta (dieOf a) STA_CFG) 0 then { s with live := Assoc.put s.live a (min (s.liveOf a + n) (2 ^ 48 - 1)) } else s

/-- A counter of µs takes the time since it was last brought up to date; the rest below 1 µs stays. -/
def State.meter (s : State) (a : Nat) : State :=
  match Assoc.get s.since a with
  | none => s
  | some t =>
    let us := (s.now - t) / 1000
    let u := s.statBy a us
    { u with since := Assoc.put u.since a (t + us * 1000) }

/-- A counter of µs begins to measure. -/
def State.meterOn (s : State) (a : Nat) : State :=
  if (Assoc.get s.since a).isSome then s else { s with since := Assoc.put s.since a s.now }

/-- A counter of µs stops measuring. -/
def State.meterOff (s : State) (a : Nat) : State :=
  let t := s.meter a
  { t with since := Assoc.del t.since a }

/-! ## Region states (R25, R47 to R55) -/

/-- The regions of the part that have power. In the DN-6416 region 1 is held power-gated (R52).
(DESIGN CHOICE, log entry 19) -/
def State.regions (s : State) : List Nat :=
  match s.part with
  | .dn6464 => if s.dieUp 1 then [0, 1, 2, 3] else [0, 1]
  | .dn6432 => [0, 1]
  | .dn6416 => [0]

/-- A region's state: 0 ACTIVE, 1 NAP, 2 DOZE, 3 LANE-IDLE. -/
def State.rgnState (s : State) (g : Nat) : Nat := s.rdF (rgn g RGN_PSTATE) 0 2
def State.rgnWaking (s : State) (g : Nat) : Bool := s.rdB (rgn g RGN_PSTATE) 2

/-- CPM_SHARED: the shared resources of a die are gated while every region of it is in NAP or deeper (R25, R55). -/
def State.evalShared (s : State) (d : Nat) : State :=
  let gs := s.regions.filter fun g => g / 2 == d
  s.wrB (cpm d CPM_SHARED) 0 (gs.all fun g => s.rgnState g != 0 && !s.rgnWaking g)

/-- A region's residence is counted in another state from now on (R446). -/
def State.rgnCount (s : State) (g a b : Nat) : State := (s.meterOff (regionCtr g a)).meterOn (regionCtr g b)

/-- A region of the part whose die is up. -/
def State.rgnOn (s : State) (g : Nat) : Bool := s.dieUp (g / 2) && s.regions.contains g

/-- A wake begins; the time it takes counts as ACTIVE (R446). -/
def State.rgnWakeUp (s : State) (g : Nat) (unknown : Bool) : State :=
  let t := s.rgnCount g (s.rgnState g) 0
  ((t.wrB (rgn g RGN_PSTATE) 2 true).wrB (rgn g RGN_PSTATE) 3 unknown).evalShared (g / 2)

/-- A region is ACTIVE: the end of its wake, with WAKE_LATE if its known event came first (R63). -/
def State.rgnAwake (s : State) (g : Nat) : State :=
  let late := stReached (s.rd (rgn g RGN_NEXT_EVT)) (s.st (g / 2))
  let u := ((s.wrF (rgn g RGN_PSTATE) 0 2 0).wrB (rgn g RGN_PSTATE) 2 false).evalShared (g / 2)
  u.when late fun v => v.raise (rgn g 0) 0

/-- The region to which a page belongs: that of a port or of a cluster. The RGN page itself shows the state and does not wake.
(DEDUCED, log entry 73) -/
def pageRegion (a : Nat) : Option Nat :=
  match pageAt a with
  | none => none
  | some p =>
    match p.kind with
    | .prt => some (portRegion (p.die * 32 + p.idx))
    | .clu => some (p.die * 2 + p.idx / 2)
    | _ => none

/-- A request to the shared buffer, the directory or the translation table of a die ungates their clock (R55).
(DEDUCED, log entry 73) -/
def State.askShared (s : State) (d : Nat) : State := s.when (s.rdB (cpm d CPM_SHARED) 0) fun t => t.wrB (cpm d CPM_SHARED) 0 false

/-- An address of the shared buffer's, the directory's or the translation table's registers and windows.
(DEDUCED, log entry 73) -/
def sharedAddr (a : Nat) : Bool :=
  if a < 0x10000000 then (match pageAt a with | some p => p.kind == .fwd || p.kind == .buf | none => false)
  else decide (0x0800000 ≤ (a - 0x10000000) % 0x08000000 ∧ (a - 0x10000000) % 0x08000000 < 0x0A00000)

/-- What an access wakes: a region in DOZE or LANE-IDLE, which is ACTIVE when the access completes (R25, R53), and the shared blocks.
(DEDUCED, log entry 73) -/
def State.wakeFor (s : State) (a : Nat) : State :=
  let t := match pageRegion a with
    | some g => s.when (s.rgnOn g && decide (2 ≤ s.rgnState g)) fun t => (if t.rgnWaking g then t else t.rgnWakeUp g true).rgnAwake g
    | none => s
  t.when (sharedAddr a && t.dieUp (dieOf a)) fun u => u.askShared (dieOf a)

/-! ## Page locks (R433 to R435) -/

/-- The base of the page whose lock covers an address: a locked page, or the page of a locked window. -/
def lockPage (a : Nat) : Option Nat :=
  if a < 0x10000000 then
    (pageAt a).bind fun p => if p.kind.lockable then some (pageBase a) else none
  else
    let d := (a - 0x10000000) / 0x08000000
    let o := (a - 0x10000000) % 0x08000000
    if 0x0800000 ≤ o ∧ o < 0x0A00000 then some (fwd d 0)
    else if 0x0A00000 ≤ o ∧ o < 0x0B00000 then some (sch d 0)
    else if 0x0B00000 ≤ o ∧ o < 0x0B10000 then some (ina 0 + dieBase d)
    else none

/-- Registers of a locked page that are written without regard to its lock: the event flags, INA_CTRL and the KPR registers,
of which KPR_MODE_REQ tests the lock by itself (R433, R485). -/
def lockExempt (a : Nat) : Bool :=
  a < 0x10000000 && (a % 0x1000 == PG_EVT || a % 0x1000 == PG_EVEN || a % 0x1000 == PG_LOCK
    || a == ina INA_CTRL || (0x08000000 ≤ a && a < 0x08001000))

/-- The accesses that remain on an unlocked page: PG_LOCK.COUNT (R434). -/
def State.lockCount (s : State) (page : Nat) : Nat := s.rdF (page + PG_LOCK) 0 9

/-- An address lies under a lock that is closed. -/
def State.locked (s : State) (a : Nat) : Bool :=
  match lockPage a with
  | none => false
  | some pg => s.lockCount pg == 0 && !lockExempt a

/-- A 32-bit access to a locked page or its window, other than to PG_LOCK, decrements the count (R434). -/
def State.lockTick (s : State) (a : Nat) : State :=
  match lockPage a with
  | none => s
  | some pg =>
    if s.lockCount pg = 0 ∨ a = pg + PG_LOCK then s else s.wrF (pg + PG_LOCK) 0 9 (s.lockCount pg - 1)

/-- What every access that is taken does first: it wakes what it needs, and counts against the lock. -/
def State.access (s : State) (a : Nat) : State := (s.wakeFor a).lockTick a

/-- A write to a locked page is discarded and reported on die 0's SEC page (R435).
(DEDUCED, log entry 50) -/
def State.lockViol (s : State) (a : Nat) : State :=
  (((s.count (sec 0 SEC_CNT_LOCKED)).wr (sec 0 SEC_LOCK_VIOL) (wordOf a)).raise (sec 0 0) 0)

/-- Whether a device address can be written at all now: its die is up, die 1 with the Komidon link (R14, R400). -/
def State.reach (s : State) (a : Nat) : Bool :=
  if dieOf a = 2 then s.mode != .off else if dieOf a = 0 then s.dieUp 0 else s.die1On

/-- An access to die 1 while it cannot be reached: counted and reported on the HDM page (R400). -/
def State.xdieDrop (s : State) : State := (s.count (hdm HDM_CNT_XDIE)).raise (hdm 0) 3

/-- A register or table write by software: lost where the die cannot be reached, discarded on a locked page, else counted
against the lock and taken. -/
def State.guarded (s : State) (a : Nat) (f : State → State) : State :=
  if s.reach a then (if s.locked a then (s.wakeFor a).lockViol a else f (s.access a))
  else if dieOf a = 1 && s.dieUp 0 && s.part.twoDies then s.xdieDrop else s

/-! ## Event forwarding (R419) -/

/-- The page of a page source (R370), none for the other kinds. -/
def sourceBase (src : Nat) : Option Nat :=
  if src % 1024 < 0x240 then (diePage (src % 1024)).map fun _ => dieBase (src / 1024) + src % 1024 * 0x1000
  else if 0x380 ≤ src ∧ src ≤ 0x385 then some (0x08000000 + (src - 0x380) * 0x1000)
  else none

/-- An EVENT_MSG for node `dst` waits behind the responses queued to it, with the next sequence to that destination. -/
@[noinline] def State.queueEvt (s : State) (dst src : Nat) (kind : Bool) (st : Word) (info : List Word) : State :=
  let q := (Assoc.get s.hi.evSeq dst).getD 0
  let m : EventMsg := { uid := s.uid, src := BitVec.ofNat 11 src, fld := kind, seq := q, st := st, drow := s.rd (sch 0 SCH_ROW), info := info }
  { s with hi := { s.hi with outq := s.hi.outq ++ [.evt dst m], evSeq := Assoc.put s.hi.evSeq dst (q + 1) } }

/-- BRG_FWDk forwards an edge of its source (KIND 0) or a field bus message (KIND 1). -/
@[noinline] def State.fwdEvent (s : State) (src : Nat) (kind : Bool) (st : Word) (info : List Word) : State :=
  s.each (fun k t =>
    let r := t.rd (brg (BRG_FWD k))
    t.when (bit r 31 && bit r 12 == kind && (kind || fld r 0 11 == src)) fun u => u.queueEvt (fld r 16 6) src kind st info)
    [0, 1, 2, 3, 4, 5, 6, 7]

end Sys2Proof.Machine
end

