-- ==== Sys2Proof/Machine/Sched.lean ====
section
/-! DEFINITION. The profile store and the schedule engine's shared operations: stitch entries, banks and owner overlays
(R100 to R103), which entries are active (R109, R111), and the engine's state registers. -/

namespace Sys2Proof.Machine

/-- A stitch entry (R100), in 8 ns units where it is a time. -/
structure Stitch where
  start : Nat
  kind : Nat
  len : Nat
  owner : Nat
  bank : Nat
  rate : Nat
  pmask : Nat
  ident : Nat
  phase : Nat
  mrkSub : Nat
  /-- A reserved bit of the entry is set. -/
  reserved : Bool
  deriving DecidableEq, Repr

/-- The stitch entry that four words encode (R100). -/
def stitchOf (w0 w1 w2 w3 : Word) : Stitch :=
  { start := fld w0 0 26, kind := fld w0 26 4, len := fld w1 0 20, owner := fld w1 20 6, bank := fld w1 26 2, rate := fld w1 28 4,
    pmask := fld w2 0 16, ident := fld w2 16 13, phase := fld w3 0 10, mrkSub := fld w3 10 1,
    reserved := fld w0 30 2 != 0 || fld w2 29 3 != 0 || fld w3 11 21 != 0 }

/-! The kinds of R101. -/
abbrev kSkein : Nat := 1
abbrev kPoll : Nat := 2
abbrev kReply : Nat := 3
abbrev kMgmt : Nat := 4
abbrev kSpare : Nat := 5
abbrev kClaim : Nat := 6
abbrev kBe : Nat := 7
abbrev kField : Nat := 8
abbrev kMarker : Nat := 9

/-- SKEIN, MGMT, SPARE and CLAIM are backbone kinds (R101). -/
def backboneKind (k : Nat) : Bool := k == kSkein || k == kMgmt || k == kSpare || k == kClaim

/-- POLL and REPLY are consist kinds (R101). -/
def consistKind (k : Nat) : Bool := k == kPoll || k == kReply

/-- Whether an entry's port mask holds a port (R100). -/
def Stitch.masks (e : Stitch) (p : Nat) : Bool := p / 16 == e.bank && e.pmask / 2 ^ (p % 16) % 2 == 1

/-- The device address of entry `i` of slot `sl`: on die 0, of which die 1's store is a mirror (R105, R132). -/
def entryAddr (sl i : Nat) : Nat := win 0 (0x0A00000 + sl * 0x10000 + i * 16)

/-- The device address of an owner overlay byte (R132). -/
def overlayAddr (b p i : Nat) : Nat := win 0 (0x0A80000 + b * 0x8000 + p * 0x1000 + i)

/-- The device address of the suppression map byte of a stitch (R132). -/
def suppAddr (p i : Nat) : Nat := win 0 (0x0A90000 + p * 0x200 + i / 8)

/-- The device address of entry `i` of a die's guardian list (R132). -/
def guardAddr (d i : Nat) : Nat := win d (0x0A91000 + i * 4)

/-- Entry `i` of slot `sl`. -/
def State.entry (s : State) (sl i : Nat) : Stitch :=
  stitchOf (s.tw (entryAddr sl i)) (s.tw (entryAddr sl i + 4)) (s.tw (entryAddr sl i + 8)) (s.tw (entryAddr sl i + 12))

/-- The active bank (R103). -/
def State.actBank (s : State) : Nat := s.rdF (sch 0 SCH_BANK) 0 1

/-- The map register of a bank. -/
def mapReg (b : Nat) : Nat := if b = 0 then sch 0 SCH_MAP0 else sch 0 SCH_MAP1

/-- The slot that a bank maps a profile to, none if the profile is not mapped (R131). -/
def State.slotOf (s : State) (b p : Nat) : Option Nat :=
  if s.rdB (mapReg b) (4 * p + 3) then some (s.rdF (mapReg b) (4 * p) 3) else none

/-- The active profile (R131). -/
def State.actPrf (s : State) : Nat := s.rdF (sch 0 SCH_STAT) 0 3

/-- The slot of the active profile. -/
def State.actSlot (s : State) : Option Nat := s.slotOf s.actBank s.actPrf

/-- The number of entries of a slot. -/
def State.slotCnt (s : State) (sl : Nat) : Nat := s.rdF (sch 0 (SCH_SLOT_CNT sl)) 0 13

/-- A slot's row length in ns. -/
def State.rowLenNs (s : State) (sl : Nat) : Nat := s.rdF (sch 0 (SCH_SLOT_ROWLEN sl)) 0 23 * 8

/-- The row length of the current row in ns. -/
def State.rowLen (s : State) : Nat := match s.actSlot with | some sl => s.rowLenNs sl | none => 0

/-- A slot's selvedge S in ns. -/
def State.selv (s : State) (sl : Nat) : Nat := s.rdF (sch 0 (SCH_SLOT_SELV sl)) 0 14

/-- TXOFS: S ÷ 4 rounded down to an even number of ns (R106). -/
def txofs (selv : Nat) : Nat := selv / 8 * 2

/-- The owner overlay byte of an entry: VALID and node (R102). -/
def State.overlay (s : State) (b p i : Nat) : Byte := s.tb (overlayAddr b p i)

/-- The overlay's owner, none where its VALID is 0. -/
def State.overlayOwner (s : State) (b p i : Nat) : Option Nat :=
  let o := (s.overlay b p i).toNat
  if o / 128 = 1 then some (o % 64) else none

/-- The effective owner of an entry (R102). -/
def State.effOwner (s : State) (b p i : Nat) (e : Stitch) : Nat := (s.overlayOwner b p i).getD e.owner

/-- The first condition of R109: the entry's rate and phase take in the row. -/
def Stitch.rowHit (e : Stitch) (row : Word) : Bool := row.toNat % 2 ^ e.rate == e.phase

/-- The bit a node computes for itself without the row's ROW_START (R111): rate and phase, and a SPARE only with an owner.
(DEDUCED, log entry 27) -/
def State.computedBit (s : State) (row : Word) (b p i : Nat) (e : Stitch) : Bool :=
  e.rowHit row && (e.kind != kSpare || (s.overlayOwner b p i).isSome)

/-- Bit `i` of a poll vector (R108). -/
def pollBit (v : List Word) (i : Nat) : Bool := bit (v.getD (i / 32) 0) (i % 32)

/-- The bit of the needle's own poll vector (R109). -/
def State.needleBit (s : State) (row : Word) (b p i : Nat) (e : Stitch) : Bool :=
  s.computedBit row b p i e &&
    !(bit (s.eff (sch 0 SCH_CTRL)) 1 && (s.tb (suppAddr p i)).toNat / 2 ^ (i % 8) % 2 == 1)

/-- Whether entry `i` of the active profile is active in the current row under R111. Markers are not gated. -/
def State.entryActive (s : State) (row : Word) (b p i : Nat) (e : Stitch) (v : Option (List Word)) : Bool :=
  if e.kind = kMarker then true
  else match v with
    | some v => pollBit v i
    | none => s.computedBit row b p i e

/-- Rows run (R131). -/
def State.run (s : State) : Bool := s.rdB (sch 0 SCH_STAT) 9

/-- The node sends ROW_START (R131). -/
def State.needle (s : State) : Bool := s.rdB (sch 0 SCH_STAT) 12

/-- The node is muted (R127). -/
def State.muted (s : State) : Bool := s.rdB (sch 0 SCH_STAT) 8

/-- Die 1 is without the Komidon link, and continues alone (R30). -/
def State.alone1 (s : State) : Bool := s.part.twoDies && s.dieUp 1 && !s.linkUp

/-- The stitches of a die are muted: die 1 alone mutes by its own offset (R30, R127). -/
def State.mutedOn (s : State) (k : Nat) : Bool := if k = 1 ∧ s.alone1 then s.rdB (sch 1 SCH_STAT) 8 else s.muted

/-- The current row number. -/
def State.row (s : State) : Word := s.rd (sch 0 SCH_ROW)

/-- A state register of the schedule engine, which die 1's engine follows (R105, R147). -/
@[noinline] def State.wrSch (s : State) (o : Nat) (v : Word) : State :=
  (s.wr (sch 0 o) v).when s.die1On fun t => t.wr (sch 1 o) v

/-- A field of a state register of the schedule engine. -/
def State.wrSchF (s : State) (o lo len v : Nat) : State := s.wrSch o (setFld (s.rd (sch 0 o)) lo len v)

/-- A bit of a state register of the schedule engine. -/
@[noinline] def State.wrSchB (s : State) (o i : Nat) (b : Bool) : State := s.wrSchF o i 1 (b2n b)

/-- An event of the SCH page, on die 0's. -/
def State.raiseSch (s : State) (i : Nat) : State := s.raise (sch 0 0) i

/-! The cold-start states of SCH_CS_STAT.STATE (R147). -/
abbrev csMember : Nat := 0
abbrev csListen : Nat := 1
abbrev csColdWait : Nat := 2
abbrev csSettle : Nat := 3
abbrev csFollow : Nat := 4
abbrev csVerify : Nat := 5
abbrev csNeedle : Nat := 6
abbrev csResync : Nat := 7

/-- The cold-start state (R136). -/
def State.cs (s : State) : Nat := s.rdF (sch 0 SCH_CS_STAT) 0 3

/-- The cold-start state set. -/
@[noinline] def State.setCs (s : State) (v : Nat) : State := s.wrF (sch 0 SCH_CS_STAT) 0 3 v

/-- The rank in use (R133). -/
def State.rank (s : State) : Nat :=
  if s.rdB (sch 0 SCH_CS_CFG) 1 then s.rdF (sch 0 SCH_CS_CFG) 2 3 else s.rdF (sch 0 SCH_CS_UID_LO) 0 3

/-- The longest row length in ns among the profiles mapped in the active bank (R134), 0 if none is mapped. -/
def State.lmaxNs (s : State) : Nat :=
  (List.range 8).foldl (fun m p => match s.slotOf s.actBank p with | some sl => max m (s.rowLenNs sl) | none => m) 0

/-- The slot of the cold-start profile in the active bank (R134). -/
def State.csSlot (s : State) : Option Nat := s.slotOf s.actBank (s.rdF (sch 0 SCH_CS_CFG) 8 3)

/-- L of R134 in ns: the cold-start profile's row length, or Lmax where it is not mapped. -/
def State.csLenNs (s : State) : Nat := match s.csSlot with | some sl => s.rowLenNs sl | none => s.lmaxNs

/-- Entry to LISTEN: LISTEN_TMO is computed and the timer starts (R134, R136).
(DEDUCED, log entry 31) -/
@[noinline] def State.enterListen (s : State) : State :=
  let t := ((s.setCs csListen).wr (sch 0 SCH_CS_TMO) (wordOf (2 * s.lmaxNs / 1000 + s.rank * 1000))).wrF (sch 0 SCH_CS_STAT) 4 3 s.rank
  { t with sc := { t.sc with csSince := s.st 0 } }

/-! ## Guards and their buckets (R148, R153, R165) -/

/-- The ports that have an ingress guard (R148). -/
def hasGuard (pt : Part) (p : Nat) : Bool := isEdge pt p || isUplink pt p

/-- What a guard holds beside its registers: a full bucket and no history at first. -/
def PortGuard.init : PortGuard := { hist := [], filled := 0, part6 := 0, fencedAt := 0, lifted := none }

def State.guard (s : State) (p : Nat) : PortGuard := (Assoc.get s.cn.guards p).getD PortGuard.init
def State.setGuard (s : State) (p : Nat) (g : PortGuard) : State := { s with cn := { s.cn with guards := Assoc.put s.cn.guards p g } }

/-- The rate of a port's bucket that a RATE and a guard configuration give: without limit where the guard is off. -/
def polRate (cfg rate : Word) : Nat := if bit cfg 0 then fld rate 0 16 else 0xFFFF

/-- The tokens of a port at an instant, in 10^-6 bytes: they fill at RATE × 64 kbit/s from the last instant on, up to BURST. -/
def State.tokensAt (s : State) (p : Nat) (rate burst at0 : Nat) : Nat :=
  if rate = 0xFFFF then burst * 1000000
  else
    let g := s.guard p
    min (s.rdF (prt p PRT_POL_TOKENS) 0 20 * 1000000 + g.part6 + (at0 - g.filled) * (rate * 8)) (burst * 1000000)

/-- The bucket is filled up to an instant in ns.
(DEDUCED, log entry 33) -/
def State.fill (s : State) (p rate burst at0 : Nat) : State :=
  let g := s.guard p
  let m := s.tokensAt p rate burst at0
  (s.setGuard p { g with filled := max at0 g.filled, part6 := m % 1000000 }).wrF (prt p PRT_POL_TOKENS) 0 20 (m / 1000000)

/-- The bucket of a port is filled up to now by the values in effect, before one of them changes (R165). -/
def State.fillNow (s : State) (p : Nat) : State :=
  s.fill p (polRate (s.eff (prt p PRT_GRD_CFG)) (s.eff (prt p PRT_POL_RATE))) (fld (s.eff (prt p PRT_POL_BURST)) 0 20) s.now

/-- A register of the policer. -/
def polReg (p a : Nat) : Bool := a == prt p PRT_GRD_CFG || a == prt p PRT_POL_RATE || a == prt p PRT_POL_BURST

/-- The buckets of the ports with values that take effect now are filled up to now. -/
def State.fillPending (s : State) : State :=
  s.each (fun p t => t.fillNow p) ((List.range s.part.ports).filter fun p => hasGuard s.part p && s.fw.eff.any fun e => polReg p e.1)

/-- Register values that waited for a row boundary are in effect (R34, R165). -/
def State.settleEff (s : State) : State :=
  let t := s.fillPending
  { t with fw := { t.fw with eff := [], effOld := [] } }

/-- Rows stop on this node: RUN, NEEDLE, RS_SEEN and the announcements clear. -/
@[noinline] def State.stopRows (s : State) : State :=
  let s1 := (s.mark (tmr (dsk 0 DSK_CMP_TICK) 0)).mark (tmr (dsk 1 DSK_CMP_TICK) 0)
  let t := (((((s1.wrSchB SCH_STAT 9 false).wrSchB SCH_STAT 12 false).wrSchB SCH_STAT 13 false).wrSchB SCH_STAT 7 false).wrSchB SCH_STAT 10 false).settleEff
  { t with sc := { t.sc with poll := none, prevPoll := none, decided := [], heard := [], rsMiss := 0, yieldLeft := none, sending := [], adoptSt := none, marks := 0 } }

end Sys2Proof.Machine
end

