-- ==== Sys2Proof/Machine/Keeper.lean ====
section
/-! DEFINITION. The keeper's shared operations: the mode and what follows a change of it (R42), the bypass relays (R346 to
R349), resets of the dies, wakes (R364 to R368), and the keep-alive timer and bind-off (R356 to R363). -/

namespace Sys2Proof.Machine

/-! ## The bypass relays (R346 to R349) -/

/-- The keeper permits insertion of a line (R346). -/
def State.permit (s : State) (l : Nat) : Bool :=
  !s.rdB (kby KBY_CTRL) l &&
    (s.mode == .castOn || s.mode.inRow || (s.mode == .maintenance && s.rdB (kby KBY_CTRL) (2 + l)))

/-- The die that owns a line requests insertion: its insert line toggles (R346). -/
def State.insReq (s : State) (l : Nat) : Bool := s.kp.insLine.getLsbD (lineDie s.part l)

/-- A line is held released by STUCK_BYP (R350). -/
def State.stuckLine (s : State) (l : Nat) : Bool := s.kp.stuck.getLsbD l

/-- The conditions under which the keeper energises a line (R346, R350). -/
def State.insertCond (s : State) (l : Nat) : Bool := s.permit l && s.insReq l && !s.stuckLine l

/-- A line's relays are driven (R354: DRV of relays 2l and 2l + 1). -/
def State.driven (s : State) (l : Nat) : Bool := s.rdF (kby KBY_STAT) (2 * l) 2 != 0

/-- A line is in pull-in. -/
def State.pullin (s : State) (l : Nat) : Bool := s.rdB (kby KBY_STAT) (12 + l)

/-- A line waits under R347.
(DEDUCED, log entry 62) -/
def State.waits (s : State) (l : Nat) : Bool := s.kp.waiting.getLsbD l

/-- A line begins or ends its waiting; KBY_STAT.WAIT shows whether any line waits. -/
def State.setWait (s : State) (l : Nat) (b : Bool) : State :=
  let w := s.kp.waiting &&& ~~~(BitVec.ofNat 2 (2 ^ l)) ||| BitVec.ofNat 2 (b2n b * 2 ^ l)
  ({ s with kp := { s.kp with waiting := w } }).wrB (kby KBY_STAT) 14 (w != 0)

/-- The timers of a line: its pull-in, the off-phases of STUCK_BYP, the release check, and the 2 ms of a coil test (R347, R350,
R352). -/
abbrev pullinTmr (l : Nat) : Nat := tmr (kby KBY_PULLIN) l
abbrev phaseTmr (l : Nat) : Nat := tmr (kby KBY_HOLD) l
abbrev releaseTmr (l : Nat) : Nat := tmr (kby KBY_REL_T) l
abbrev coilTmr (l : Nat) : Nat := tmr (kby KBY_SNS_NET) l

/-- The stagger from the first line's drive (R347). -/
abbrev stagTmr : Nat := tmr (kby KBY_STAG) 0

/-- A fault read with the drive off needs 1 ms of readings from KBY_REL_T after the release (R350). -/
def State.armRelease (s : State) (l : Nat) : State :=
  ((((s.disarm (pullinTmr l)).disarm (phaseTmr l)).arm (coilTmr l) (2 * ms)).arm (releaseTmr l)
    ((atLeast1 (s.rdF (kby KBY_REL_T) 0 8) + 1) * ms))

/-- The keeper removes the drive of a line, cancelling its pull-in and its waiting (R349). -/
def State.releaseLine (s : State) (l : Nat) : State :=
  let s1 := if s.waits l then s.setWait l false else s
  if s1.driven l then
    let s2 := ((s1.wrF (kby KBY_STAT) (2 * l) 2 0).wrF (kby KBY_STAT) (4 + 2 * l) 2 0).wrB (kby KBY_STAT) (12 + l) false
    ((s2.armRelease l).emit (.drive l 0 0)).raise (kby 0) 1
  else s1

/-- A line whose conditions under R346 no longer hold is released. -/
def State.evalLine (s : State) (l : Nat) : State :=
  let s1 := (s.wrB (kby KBY_STAT) (8 + l) (s.permit l)).wrB (kby KBY_STAT) (10 + l) (s.insReq l)
  if s1.insertCond l then s1 else s1.releaseLine l

/-- Both lines are evaluated. -/
def State.evalRelays (s : State) : State := (s.evalLine 0).evalLine 1

/-- A die's insert line toggles or stops (R346, R349). -/
def State.setInsLine (s : State) (d : Nat) (b : Bool) : State :=
  { s with kp := { s.kp with insLine := s.kp.insLine &&& ~~~(BitVec.ofNat 2 (2 ^ d)) ||| BitVec.ofNat 2 (b2n b * 2 ^ d) } }

/-! ## Region floors (R52, R483) -/

/-- A port of the region is held AWAKE by its POWER_REQ (R483). -/
def State.regionAwake (s : State) (g : Nat) : Bool :=
  (List.range 16).any fun i => s.rdF (prt (16 * g + i) PG_CTRL) 2 2 == 1

/-- The effective floor of a region (R52): 0 ACTIVE, 1 NAP, 2 DOZE, 3 LANE-IDLE. -/
def State.effFloor (s : State) (g : Nat) : Nat :=
  if s.mode = .castOn ∨ s.mode = .waking ∨ s.mode = .maintenance then 0
  else if s.regionAwake g then 0
  else min (s.rdF (rgn g RGN_FLOOR) 0 2) (if regionCapNap s.part g then 1 else 3)

/-- RGN_FLOOR.EFF of every region is brought up to date, and a region in a state that it no longer permits begins to wake: all
regions are ACTIVE in CAST-ON and in MAINTENANCE (R40, R52, R483). -/
def State.evalFloors (s : State) : State :=
  s.each (fun g t => (t.wrF (rgn g RGN_FLOOR) 4 2 (s.effFloor g)).when (decide (s.effFloor g < s.rgnState g) && !s.rgnWaking g) fun u =>
    u.rgnWakeUp g false) s.regions

/-! ## NEED and the keep-alive timer (R356, R359) -/

/-- The node's own NEED (R356). -/
def State.need (s : State) : Bool := s.rdB (kwk KWK_NEED) 3

/-- KA_TIMEOUT in ms: 10 to 65,535 units of 100 ms, values outside acting as the nearer limit (R369). -/
def State.kaTimeout (s : State) : Nat := clampTo 10 65535 (s.rdF (kwk KWK_KA) 0 16) * 100

/-- The keep-alive timer, the period of KEEPALIVE, and the count of WAKE_NEED (R356, R357, R359). -/
abbrev kaTmr : Nat := tmr (kwk KWK_KA) 0
abbrev kaPerTmr : Nat := tmr (kwk KWK_KA) 1
abbrev needTmr : Nat := tmr (kwk KWK_NEED) 0

/-- MIN_OFF (R368). -/
abbrev minOffTmr : Nat := tmr (kwk KWK_MIN_OFF) 0

/-- The keep-alive timer restarts (R359). -/
def State.kaRestart (s : State) : State :=
  ((({ s with kp := { s.kp with boPend := false } }).wrF (kwk KWK_KA_LEFT) 0 24 s.kaTimeout)).arm kaTmr (s.kaTimeout * ms)

/-- The keep-alive time that remains, in ms: it stands while NEED is 1, which restarts the timer at every tick, and outside RUNNING,
HEALING and STANDBY (R359). -/
def State.kaLeft (s : State) : Nat :=
  if s.mode.inRow && !s.need && (s.timer kaTmr).isSome then (s.timeLeft kaTmr + ms - 1) / ms else s.rdF (kwk KWK_KA_LEFT) 0 24

/-- Outside RUNNING, HEALING and STANDBY the keep-alive timer does not run (R359). -/
def State.kaStop (s : State) : State :=
  ((s.wrF (kwk KWK_KA_LEFT) 0 24 (if (s.timer kaTmr).isSome then (s.timeLeft kaTmr + ms - 1) / ms else s.rdF (kwk KWK_KA_LEFT) 0 24))).disarm kaTmr

/-- WAKE_NEED begins to count, KA_TIMEOUT long (R356). -/
def State.countNeed (s : State) : State :=
  ({ s with kp := { s.kp with needCounting := true } }).arm needTmr (s.kaTimeout * ms)

/-- A side's lines are watched for 1 ms without block lock (R367). -/
abbrev rewakeTmr (side : Nat) : Nat := tmr (kwk KWK_BO) side

/-- A WAKE_IN input whose HOLD bit is set is at its active level after its debounce (R356). -/
def State.holdNeed (s : State) : Bool :=
  (List.range 4).any fun n => s.kp.held.getLsbD n && s.rdB (kwk KWK_WAKE_CFG) (8 + n)

/-- Bind-off is cancelled (R362): BINDOFF clears, the keep-alive timer restarts, and the sides are watched until REWAKE
after the abandoned END (R367).
(DEDUCED, log entry 18) -/
def State.boCancel (s : State) : State :=
  if s.rdB (kpr KPR_MODE) 4 then
    let fin := s.rd (kwk KWK_BO_END) + wordOf (clampTo 1 255 (s.rdF (kwk KWK_BO) 16 8) * 1000000)
    let s1 := (((s.wrB (kpr KPR_MODE) 4 false).kaRestart).countF (kwk KWK_CNT) 16 8).raise (kwk 0) 1
    (({ s1 with kp := { s1.kp with rewakeEnd := some fin, rewakeDone := 0 } }).arm (rewakeTmr 0) ms).arm (rewakeTmr 1) ms
  else s

/-- The node can send KEEPALIVE (R357). Compatibility mode is INA_CFG.ROWMODE at 0 (R188). -/
def State.canKeepalive (s : State) : Bool :=
  (s.mode == .castOn || s.mode.inRow) && (s.run || !s.rdB (ina INA_CFG) 1)

/-- KWK_NEED.HOLD and OWN follow their conditions. A rising NEED cancels bind-off (R362), and while the timer runs it is
restarted at every tick with NEED at 1 (R359). -/
def State.evalNeed (s : State) : State :=
  let old := s.need
  let s1 := s.wrB (kwk KWK_NEED) 2 s.holdNeed
  let own := s1.rdF (kwk KWK_NEED) 0 3 != 0
  let s2 := s1.wrB (kwk KWK_NEED) 3 own
  let s3 := if own && !old then (s2.boCancel).disarm kaPerTmr else s2
  if (own || old) && s3.mode.inRow then s3.kaRestart else s3

/-- In PARKED, KHF stops 1 ms after the last management SPI access (R58). -/
abbrev khfTmr : Nat := tmr (kms KMS_STAT) 0

/-! ## The mode (R42) -/

/-- The running offline swatch tests are aborted (R449). -/
def State.abortOffline (s : State) : State :=
  let gone := s.sw.tests.filter (·.offline)
  let s1 := s.each (fun t u =>
    let u1 := u.wrB (swt t.die SWT_RUN) t.code false
    let u2 := if t.code = 8 then u1.wrB (swt t.die SWT_LBIST) 2 true
      else if t.code = 9 then u1.wrB (swt t.die SWT_LOOP_ERR) 31 true else u1
    u2.raise (swt t.die 0) 0) gone
  { s1 with sw := { s1.sw with tests := s1.sw.tests.filter (!·.offline) } }

/-- What the two token lines say (R322): 0 free, 1 claim, 2 held here, 3 held by the partner; the invalid pattern leaves the last
reading. -/
def State.tokCode (s : State) : Nat :=
  match s.pr.tok0, s.pr.tok1 with
  | true, true => 0
  | false, true => 1
  | false, false => if s.pr.drv0 then (if s.rdF (twn 0 TWN_STAT) 0 3 = 2 then 1 else 2) else 3
  | true, false => s.rdF (twn 0 TWN_STAT) 10 2

/-- TWN_STAT.TOK follows the lines.
(DEDUCED, log entry 46) -/
def State.evalTok (s : State) : State := s.wrF (twn 0 TWN_STAT) 10 2 s.tokCode

/-- The role of TWN_STAT (R340): 0 SOLO, 1 OBSERVE, 2 CLAIMING, 3 LEAD, 4 STANDBY, 5 IDLE. -/
def State.role (s : State) : Nat := s.rdF (twn 0 TWN_STAT) 0 3

def State.setRole (s : State) (v : Nat) : State := s.wrF (twn 0 TWN_STAT) 0 3 v

/-- The keeper releases the token lines (R322): a line this node drove rises. -/
@[noinline] def State.dropToken (s : State) : State :=
  if s.pr.drv0 || s.pr.drv1 then
    let held := s.role == 3
    let t := { s with pr := { s.pr with tok0 := s.pr.tok0 || s.pr.drv0, tok1 := s.pr.tok1 || s.pr.drv1, drv0 := false, drv1 := false
                                        claimAt := none } }
    ((t.setRole 5).evalTok).when held fun u => u.raise (twn 0 0) 5
  else s

/-- What a transition of the mode records (R46): previous mode, cause, RTC seconds and count.
(DEDUCED, log entry 15) -/
def State.recordMode (s : State) (m : Mode) (c : Cause) : State :=
  let s1 := (((s.wrF (kpr KPR_MODE) 8 4 s.mode.code).wrF (kpr KPR_MODE) 0 4 m.code).wrF (kpr KPR_MODE) 16 8 c.code)
  let s2 := (s1.wr (kpr KPR_ENTRY_SEC) (s1.rd (krt KRT_SEC_LO))).wr (kpr KPR_TRANS_CNT) (s1.rd (kpr KPR_TRANS_CNT) + 1)
  s2.raise (kpr 0) 0

/-- Outside RUNNING, HEALING and STANDBY there is no bind-off (R363). -/
def State.noBindoff (s : State) : State :=
  let t := s.wrB (kpr KPR_MODE) 4 false
  { t with kp := { t.kp with boPend := false, rewakeEnd := none } }

/-- A transition of the mode (R42, R46). Bind-off stays only within RUNNING, HEALING and STANDBY (R363); leaving MAINTENANCE aborts
offline tests (R449); the keep-alive timer restarts and WAKE_NEED begins to count on entry to RUNNING or STANDBY (R356, R359);
permits and floors follow. -/
@[noinline] def State.setMode (s : State) (m : Mode) (c : Cause) : State :=
  let old := s.mode
  let s4 := (s.recordMode m c).when (!m.inRow) State.noBindoff
  let s5 := (s4.when (old == .maintenance && m != .maintenance) State.abortOffline).when (old.inRow && !m.inRow) State.kaStop
  let s6 := s5.when (old == .castOn && (m == .running || m == .standby)) State.kaRestart
  let s7 := s6.when ((m == .running || m == .standby) && s6.rdB (kwk KWK_NEED) 1 && !s6.kp.needCounting) State.countNeed
  let s8 := s7.when (!(m == .castOn || m == .running || m == .healing)) State.dropToken
  (s8.evalRelays).evalFloors

/-! ## Resets of the dies (R461, R462, R538) -/

/-- An address belongs to the pages or the table windows of a die. SWT_LBIST, which only POR_N clears (R454), does not. -/
def inDie (d a : Nat) : Bool := dieOf a == d && a != swt d SWT_LBIST

/-- The consist star without what die `d` held. -/
def Consist.without (c : Consist) (d : Nat) : Consist :=
  { pseq := c.pseq.filter (·.1 / 65536 ≠ d), guards := c.guards.filter (·.1 / 32 ≠ d), polls := c.polls.filter (·.port / 32 ≠ d)
    replies := c.replies.filter (·.port / 32 ≠ d), images := c.images.filter (·.1 / 65536 ≠ d)
    closed := if d = 0 then [] else c.closed }

/-- Forwarding without what die `d` held. -/
def Forwarding.without (f : Forwarding) (d : Nat) : Forwarding :=
  { queue := f.queue.filter (·.port / 32 ≠ d), sending := f.sending.filter (·.ent.port / 32 ≠ d)
    deficit := f.deficit.filter (·.1 / 128 ≠ d), drr := f.drr.filter (·.1 / 32 ≠ d), nextId := f.nextId, toHost := f.toHost.filter (·.port / 32 ≠ d)
    eff := f.eff.filter (dieOf ·.1 ≠ d), effOld := f.effOld.filter (dieOf ·.1 ≠ d)
    wire := f.wire.filter (·.1 / 32 ≠ d), waits := f.waits.filter (·.port / 32 ≠ d), arrived := f.arrived, staged := f.staged.filter (· / 4 ≠ d)
    hits := f.hits.filter (·.1 / 65536 ≠ d), crd := f.crd.filter (dieOf ·.1 ≠ d) }

/-- What die 0's blocks hold beside their registers after its reset. -/
def State.resetHidden0 (s : State) : State :=
  { s with
    cn := s.cn.without 0, fw := s.fw.without 0
    tm := TimeUnit.init, ev := EventCtl.init, se := Security.init, sc := Sched.init, sw := Swatch.init, rg := Ring.init
    dk := { Datasets.init with ctx := s.dk.ctx.filter (65536 ≤ ·.1), recov := s.dk.recov.filter (65536 ≤ ·.1), gens := s.dk.gens.filter (65536 ≤ ·.1)
                               trdpSeq := s.dk.trdpSeq.filter (65536 ≤ ·.1), ntf := s.dk.ntf.filter (·.1 = 1) }
    tp := Topo.init, pr := { Twin.init with tok0 := s.pr.tok0 || s.pr.drv0, tok1 := s.pr.tok1 || s.pr.drv1 }, fb := FieldBus.init, hi := HostIf.init s.hi.perstN, live := s.live.filter (dieOf ·.1 ≠ 0), since := s.since.filter (dieOf ·.1 ≠ 0)
    stats := { s.stats with period0 := 1000 }, rgnEdge := s.rgnEdge.filter (2 ≤ ·.1) }

/-- What die 1's blocks hold beside their registers after its reset. -/
def State.resetHidden1 (s : State) : State :=
  { s with
    tm := { s.tm with rckFrac1 := 0, tmrLate := s.tm.tmrLate &&& 0x0F, tmrAt := s.tm.tmrAt.filter (·.1 < 4), lastTens0 := 0x200000000,
                      lastTens1 := 0x200000000, lastHold := 0x200000000 }
    ev := { s.ev with
      edges := s.ev.edges.filter (·.1 < 1024), asg := s.ev.asg.filter (·.src < 1024), pendSt := s.ev.pendSt.filter (·.1 < 1024)
      claimed := s.ev.claimed.filter (·.1 < 1024), doneQ := [] }
    sw := { s.sw with tests := s.sw.tests.filter (·.die != 1), bist1 := .idle }
    dk := { ctx := s.dk.ctx.filter (·.1 < 65536), recov := s.dk.recov.filter (·.1 < 65536), gens := s.dk.gens.filter (·.1 < 65536)
            trdpSeq := s.dk.trdpSeq.filter (·.1 < 65536), genSync := false, ntf := s.dk.ntf.filter (·.1 = 0), flips := s.dk.flips.filter (·.die = 0)
            knits := s.dk.knits.filter (·.die = 0) }
    cn := s.cn.without 1, fw := s.fw.without 1
    live := s.live.filter (dieOf ·.1 ≠ 1), since := s.since.filter (dieOf ·.1 ≠ 1)
    stats := { s.stats with period1 := 1000, align := false }, rgnEdge := s.rgnEdge.filter (·.1 < 2) }

/-- A switch die is put into reset: its registers and tables read their reset values, its insert line stops, and its lines
are released (R349). A reset of die 0 pulls RST_OUT_N low (R462). -/
def State.resetDie (s : State) (d : Nat) : State :=
  let s1 := { s with regs := Sparse.drop (inDie d) s.regs, tbl := Sparse.drop (inDie d) s.tbl,
                     lat := s.lat.filter fun e => dieOf e.2.1 != d }
  let s2 := if d = 0 then ({ s1 with kp := { s1.kp with staged := none, initLeft := [], linkWait := false } }).resetHidden0 else s1.resetHidden1
  let s3 := (s2.wrB (kps KPS_STAT) (8 + d) true).setInsLine d false
  let s4 := if d = 0 then (s3.wrB (kps KPS_STAT) 10 true).disarm (tmr (kps KPS_STAT) 0) else s3
  (s4.dropTimers fun a => dieOf a == d).evalRelays

/-- Both switch dies are reset: every reset of die 0 resets die 1 as well (R538). -/
def State.resetDies (s : State) : State :=
  if s.part.twoDies then (s.resetDie 0).resetDie 1 else s.resetDie 0

/-- The node reboots into WAKING: SYS_RST_N, a die 0 reset, or a loss of lock or reference on die 0 (R42). -/
def State.reboot (s : State) (c : Cause) : State :=
  let s1 := (s.resetDies).setMode .waking c
  { s1 with kp := { s1.kp with bootDue := false, tried := 0, failCodes := 0 } }

/-- A transition to PARKED (R537): from this tick MODE reads PARKED, the power-down runs, and a pending request other than WAKE
is discarded with REQ_REJ.
(DEDUCED, log entry 15) -/
def State.park (s : State) (c : Cause) : State :=
  let s1 := (s.setMode .parked c).resetDies
  let r := s1.rdF (kpr KPR_MODE_REQ) 0 3
  let s2 := if r = 0 ∨ r = 1 then s1 else (s1.wrF (kpr KPR_MODE_REQ) 0 3 0).raise (kpr 0) 1
  ({ s2 with kp := { s2.kp with powerDown := true, bootDue := false, tried := 0, failCodes := 0, sampling := 0 } }).dropTimers
    fun a => a == kps KPS_CFG

/-! ## Wakes (R364 to R368) -/

/-- One burst on a tap (R351): the detector of that LAD is blind meanwhile.
(DEDUCED, log entry 62) -/
def State.burst (s : State) (n : Nat) : State :=
  let s1 := ({ s with kp := { s.kp with bursting := s.kp.bursting ||| BitVec.ofNat 4 (2 ^ n) } }).arm (tmr (kby KBY_BURST) n)
    (atLeast1 (s.rdF (kby KBY_LAD_CFG) 16 8) * ms)
  s1.emit (.burst n (s1.rdB (kby KBY_LAD_CFG) (4 + n)))

/-- Whether a cause is one whose wake sends a burst and sets WAKE_NEED: not a LAD (R356, R366). -/
def Cause.isLocal (c : Cause) : Bool := c == .wakeIn || c == .cplSns || c == .rtcAlarm || c == .hostRequest

/-- The cause that a code names, for the wake causes.
(DEDUCED, log entry 15) -/
def wakeCause (n : Nat) : Cause :=
  if n = 2 then .wakeIn else if n = 3 then .lad else if n = 4 then .cplSns else if n = 5 then .rtcAlarm else .hostRequest

/-- Entry to WAKING on a wake (R42, R366). -/
def State.enterWaking (s : State) (c : Cause) : State :=
  let s0 := s.setMode .waking c
  let s1 := { s0 with kp := { s0.kp with khf := true, tried := 0 } }
  if c.isLocal then s1.each (fun n t => t.burst n) [0, 1, 2, 3] else s1

/-- An accepted wake is counted and reported, its cause recorded, and a wake other than a LAD sets WAKE_NEED (R356, R364). -/
def State.noteWake (s : State) (c : Cause) : State :=
  let s1 := (((s.countF (kwk KWK_CNT) 0 8).raise (kwk 0) 3).wrF (kwk KWK_STAT) 16 8 c.code)
  if c.isLocal then s1.wrB (kwk KWK_NEED) 1 true else s1

/-- A wake accepted in PARKED: it wakes the node, or, in a power-down or while MIN_OFF runs, it is latched (R368). Of several
latched wakes the cause of the lowest code is kept (R364). -/
def State.wakeParked (s : State) (c : Cause) : State :=
  let pend := s.rdB (kwk KWK_STAT) 8
  let prev := s.rdF (kwk KWK_STAT) 16 8
  let s1 := (s.noteWake c).evalNeed
  let s2 := ({ s1 with kp := { s1.kp with needCounting := false } }).disarm needTmr
  if s2.kp.powerDown || s2.rdB (kpr KPR_MODE) 5 then
    let s3 := if pend then s2.wrF (kwk KWK_STAT) 16 8 (min prev c.code) else s2
    ((s3.wrB (kwk KWK_STAT) 8 true).countF (kwk KWK_CNT) 24 8).raise (kwk 0) 5
  else s2.enterWaking c

/-- A wake accepted in CAST-ON, RUNNING, HEALING or STANDBY: WAKE_NEED is set and its count restarts (R356), and bind-off is
cancelled (R362).
(DEDUCED, log entry 68) -/
def State.wakeAwake (s : State) (c : Cause) : State :=
  let s1 := s.noteWake c
  let s2 := if s1.mode.inRow then s1.countNeed else ({ s1 with kp := { s1.kp with needCounting := false } }).disarm needTmr
  (s2.evalNeed).boCancel

/-- A wake source is accepted: in PARKED under R364, in the four connected modes under R356; in WAKING and MAINTENANCE it has
no effect. -/
def State.acceptWake (s : State) (c : Cause) : State :=
  match s.mode with
  | .parked => s.wakeParked c
  | .castOn | .running | .healing | .standby => s.wakeAwake c
  | _ => s

end Sys2Proof.Machine
end

