-- ==== Sys2Proof/Machine/Clock.lean ====
section
/-! DEFINITION. The time unit's shared operations: the views of the time domains and the row clock and how ticks advance them
(R64 to R71), loss of a domain (R72 to R75), path changes and holdover (R90, R91). -/

namespace Sys2Proof.Machine

/-! ## Views (R64) -/

/-- One second in ns. -/
abbrev nsPerSec : Nat := 1000000000

/-- The full view of domain `d` on die `k`, in ns. -/
def State.view (s : State) (k d : Nat) : Nat :=
  s.rd64 (tmu k (TMU_TD_SEC_LO d)) (tmu k (TMU_TD_SEC_HI d)) * nsPerSec + s.rdF (tmu k (TMU_TD_NS d)) 0 30

/-- The full view of a domain set to a number of ns; seconds are 48 bits and ST follows (R64). -/
def State.setView (s : State) (k d n : Nat) : State :=
  let sec := n / nsPerSec % 2 ^ 48
  let t := (s.wr (tmu k (TMU_TD_NS d)) (wordOf (n % nsPerSec))).wr64 (tmu k (TMU_TD_SEC_LO d)) (tmu k (TMU_TD_SEC_HI d)) sec
  t.wr (tmu k (TMU_TD_ST d)) (wordOf (sec * nsPerSec + n % nsPerSec))

/-- The fraction of a ns below a full view, in 2^-32 ns. -/
def State.frac (s : State) (k d : Nat) : Nat := (s.rd (tmu k (TMU_TD_FRAC d))).toNat

/-- The full view of a domain in 1/16 ns (R82). -/
def State.view16 (s : State) (k d : Nat) : Nat := s.view k d * 16 + s.frac k d / 2 ^ 28

/-- The committed tension of domain `d`, in 2^-32 ns for each tick (R65). -/
def State.tens (s : State) (d : Nat) : Nat := if d = 0 then s.tm.tens0 else s.tm.tens1

/-- The Komidon link goes down: die 1 runs on at the tensions of now (R30). -/
def State.keepTension (s : State) : State :=
  { s with tm := { s.tm with lastTens0 := s.tm.tens0, lastTens1 := s.tm.tens1, lastHold := s.tm.holdTens } }

/-- The tension at which domain `d` runs on die `k`: die 1 follows die 0, and runs on at the last tension while the Komidon link is
down (R30). -/
def State.tensOn (s : State) (k d : Nat) : Nat :=
  if k = 1 ∧ s.linkUp = false then (if d = 0 then s.tm.lastTens0 else s.tm.lastTens1) else s.tens d

/-- Domain `d` of die `k` advances by `n` ticks (R65). -/
def State.advDomain (s : State) (k d n : Nat) : State :=
  let sum := s.frac k d + n * s.tensOn k d
  (s.setView k d (s.view k d + sum / 2 ^ 32)).wr (tmu k (TMU_TD_FRAC d)) (wordOf sum)

/-! ## The row clock (R70) -/

/-- The domain that the row clock follows (R70). -/
def State.rckDom (s : State) : Nat := s.rdF (tmu 0 TMU_STAT) 0 1

/-- The domain that the row clock of die `k` follows. -/
def State.rckDomOn (s : State) (k : Nat) : Nat := s.rdF (tmu k TMU_STAT) 0 1

/-- The row clock follows no domain (R73). -/
def State.holdover (s : State) : Bool := s.rdB (tmu 0 TMU_STAT) 2

/-- The tension of HOLDOVER on die `k`. -/
def State.holdTensOn (s : State) (k : Nat) : Nat := if k = 1 ∧ s.linkUp = false then s.tm.lastHold else s.tm.holdTens

/-- The row clock of die `k` in 2^-32 ns, wrapping at 2^32 ns. -/
def State.rck (s : State) (k : Nat) : Nat :=
  (s.st k).toNat * 2 ^ 32 + (if k = 0 then s.tm.rckFrac0 else s.tm.rckFrac1).toNat

/-- The row clock of die `k` with its wraps, in ns. -/
def State.stCount (s : State) (k : Nat) : Nat := (s.rd (tmu k TMU_ST_WRAP)).toNat * 2 ^ 32 + (s.st k).toNat

/-- The ST of a die's row clock set; ST_HALF is set where bit 31 changes (R76). -/
def State.setSt (s : State) (k : Nat) (v : Word) : State :=
  let t := s.wr (tmu k TMU_ST) v
  if bit v 31 = bit (s.st k) 31 then t else t.raise (tmu k 0) 0

/-- The row clock of die `k` set; a passage of 2^32 ns counts a wrap (R76). -/
def State.setRck (s : State) (k v : Nat) : State :=
  let t := (s.setSt k (wordOf (v / 2 ^ 32))).wr (tmu k TMU_ST_WRAP) (s.rd (tmu k TMU_ST_WRAP) + wordOf (v / 2 ^ 64))
  { t with tm := if k = 0 then { t.tm with rckFrac0 := wordOf v } else { t.tm with rckFrac1 := wordOf v } }

/-- The followed domain's ST and fraction on die `k`, in 2^-32 ns. -/
def State.domRck (s : State) (k : Nat) : Nat :=
  (s.rd (tmu k (TMU_TD_ST (s.rckDomOn k)))).toNat * 2 ^ 32 + s.frac k (s.rckDomOn k)

/-- TMU_RCK_OFS toward a domain: row clock ST minus domain ST, signed ns (R70). -/
def State.rckOfs (s : State) (k d : Nat) : Word := s.st k - s.rd (tmu k (TMU_TD_ST d))

/-- TMU_RCK_OFS and SLEWING of a die are brought up to date (R70). -/
def State.evalRck (s : State) (k : Nat) : State :=
  let o := s.rckOfs k (s.rckDomOn k)
  (s.wr (tmu k TMU_RCK_OFS) o).wrB (tmu k TMU_STAT) 1 (o != 0)

/-- Both dies' row clock offsets. -/
def State.evalRcks (s : State) : State := if s.dieUp 1 then (s.evalRck 0).evalRck 1 else s.evalRck 0

/-- The slew limit of a die in ppm (R96).
(DEDUCED, log entry 77) -/
def State.slew (s : State) (k : Nat) : Nat := clampTo 1 500 (s.rdF (tmu k TMU_SLEW) 0 10)

/-- The difference `a - b` of two clocks that wrap at 2^64, in 2^-32 ns, taken in the half range. -/
def rckDiff (a b : Nat) : Int := (BitVec.ofNat 64 a - BitVec.ofNat 64 b).toInt

/-- The row clock of die `k` after `n` ticks, in 2^-32 ns: the followed domain's tension, corrected toward its ST by at most the slew
limit; in HOLDOVER the tension held, without correction (R70, R73). -/
def State.rckAfter (s : State) (k n : Nat) : Nat :=
  if s.rdB (tmu k TMU_STAT) 2 then s.rck k + n * s.holdTensOn k
  else
    let adv := n * s.tensOn k (s.rckDomOn k)
    let diff := rckDiff (s.rck k) (s.domRck k)
    let lim : Int := (adv * s.slew k / 1000000 : Nat)
    let corr := if diff < -lim then -lim else if lim < diff then lim else diff
    (((s.rck k + adv : Nat) : Int) - corr).toNat

/-! ## Status bits of a domain, shown on both dies -/

/-- A bit of TMU_STAT, on both dies. -/
def State.wrTmuStat (s : State) (i : Nat) (b : Bool) : State :=
  (s.wrB (tmu 0 TMU_STAT) i b).when s.die1On fun t => t.wrB (tmu 1 TMU_STAT) i b

/-- Die 1's TMU_STAT shows die 0's followed domain, HOLDOVER, lost domains and domains in holdover (R69, R70). -/
def State.mirrorTmu (s : State) : State :=
  s.each (fun i t => t.wrB (tmu 1 TMU_STAT) i (t.rdB (tmu 0 TMU_STAT) i)) [0, 2, 4, 5, 6, 7]

/-- An event of the TMU page of die 0. -/
def State.raiseTmu (s : State) (i : Nat) : State := s.raise (tmu 0 0) i

/-- Domain `d` is declared lost (R72). -/
def State.tdLost (s : State) (d : Nat) : Bool := s.rdB (tmu 0 TMU_STAT) (4 + d)

/-- LOST_SET of a domain. -/
def State.lostSet (s : State) (d : Nat) : Bool := s.rdB (tmu 0 (TMU_TD_CTRL d)) 0

/-- The node is the domain's source (R96). -/
def State.gm (s : State) (d : Nat) : Bool := s.rdB (tmu 0 (TMU_TD_CFG d)) 9

/-- The domain accepts and relays Sync (R96). -/
def State.tdEnabled (s : State) (d : Nat) : Bool := s.rdB (tmu 0 (TMU_TD_CFG d)) 8

/-- The count of accepted Syncs of a lost domain (R72). -/
def State.setSyncRun (s : State) (d n : Nat) : State :=
  { s with tm := if d = 0 then { s.tm with syncRun0 := n } else { s.tm with syncRun1 := n } }

def State.syncRun (s : State) (d : Nat) : Nat := if d = 0 then s.tm.syncRun0 else s.tm.syncRun1

/-- HOLDOVER is set: the row clock keeps the last tension, and the mute count restarts (R73, R75). -/
def State.setHoldover (s : State) : State :=
  let t := s.wrTmuStat 2 true
  { t with tm := { t.tm with holdTens := s.tens s.rckDom, holdRows := 0, holdMute := false } }

/-- HOLDOVER clears, and its mute count is abandoned (R75). -/
def State.clrHoldover (s : State) : State :=
  let t := s.wrTmuStat 2 false
  { t with tm := { t.tm with holdRows := 0, holdMute := false } }

/-- A domain is valid and within TMU_SW_MAX of the row clock (R73, R74). -/
def State.switchable (s : State) (d : Nat) : Bool :=
  !s.tdLost d && decide ((s.rckOfs 0 d).toInt.natAbs ≤ (s.rd (tmu 0 TMU_SW_MAX)).toNat)

/-- The followed domain is switched (R73, R74).
(DEDUCED, log entry 8) -/
def State.switchRck (s : State) (d : Nat) : State := ((s.wrTmuStat 0 (d == 1)).raiseTmu 3).evalRcks

/-- The loss of the followed domain: from here the cycle of R282 runs on the row clock. -/
def State.markCycle (s : State) : State := { s with tm := { s.tm with cycle := (s.view 0 s.rckDom, s.stCount 0) } }

/-- A domain is declared lost; the loss of the followed domain switches the row clock or begins HOLDOVER (R72, R73). In HOLDOVER no
domain is followed, so a loss neither switches nor restarts it (DEDUCED).
(DEDUCED, log entry 8) -/
def State.declareLost (s : State) (d : Nat) : State :=
  if s.tdLost d then s.setSyncRun d 0
  else
    let t := (((s.wrTmuStat (4 + d) true).raiseTmu (1 + d)).setSyncRun d 0).when (s.rckDom == d) State.markCycle
    if t.rckDom = d ∧ t.rdB (tmu 0 TMU_CTRL) 1 ∧ t.holdover = false then
      (if t.switchable (1 - d) then t.switchRck (1 - d) else t.setHoldover)
    else t

/-- A lost domain is valid again (R72). -/
def State.declareValid (s : State) (d : Nat) : State :=
  if s.tdLost d then ((s.wrTmuStat (4 + d) false).raiseTmu (1 + d)).setSyncRun d 0 else s

/-! ## Path changes and holdover (R90, R91) -/

/-- The PATH register that holds a port's bit. -/
def pathReg (d p : Nat) : Nat := if p < 32 then tmu 0 (TMU_TD_PATH_LO d) else tmu 0 (TMU_TD_PATH_HI d)

/-- A port's bit of TMU_TDd_PATH is set. -/
def State.markPath (s : State) (d p : Nat) : State := s.wrB (pathReg d p) (p % 32) true

/-- A sync path change on one domain, with the local ports whose turn state changed (R90). -/
def State.pathChangeTd (s : State) (ports : List Nat) (d : Nat) : State :=
  if s.tdEnabled d then
    let t := ((s.raiseTmu (4 + d)).wrTmuStat (6 + d) true).wr (tmu 0 (TMU_TD_HOLD_LEFT d)) (wordOf (s.rdF (tmu 0 TMU_HOLD) 0 24))
    t.each (fun p u => u.markPath d p) ports
  else s

/-- A sync path change (R90). -/
@[noinline] def State.pathChange (s : State) (ports : List Nat) : State := (s.pathChangeTd ports 0).pathChangeTd ports 1

/-- Domain `d` is in holdover (R90). -/
def State.tdHold (s : State) (d : Nat) : Bool := s.rdB (tmu 0 TMU_STAT) (6 + d)

/-- Holdover ends, and OFS follows OFS_RAW again (R91).
(DEDUCED, log entry 22) -/
def State.holdEnd (s : State) (d : Nat) : State :=
  if s.tdHold d then
    (((s.wrTmuStat (6 + d) false).wr (tmu 0 (TMU_TD_HOLD_LEFT d)) 0).wr (tmu 0 (TMU_TD_OFS d)) (s.rd (tmu 0 (TMU_TD_OFS_RAW d)))).raiseTmu (6 + d)
  else s

/-- HOLD_LEFT counts down by `m` rows (R91). -/
def State.holdStep (s : State) (d m : Nat) : State :=
  if s.tdHold d ∧ m ≠ 0 then
    let n := (s.rd (tmu 0 (TMU_TD_HOLD_LEFT d))).toNat - m
    let t := s.wr (tmu 0 (TMU_TD_HOLD_LEFT d)) (wordOf n)
    if n = 0 then t.holdEnd d else t
  else s

/-- `m` rows pass in HOLDOVER (R75). -/
def State.holdoverStep (s : State) (m : Nat) : State :=
  if s.holdover then
    let n := s.tm.holdRows + m
    { s with tm := { s.tm with holdRows := n, holdMute := s.tm.holdMute || decide (s.rdF (tmu 0 TMU_HOLD) 0 24 ≤ n) } }
  else s

/-- The slave port of a domain, 0x7F for none (R89). -/
def State.slave (s : State) (d : Nat) : Nat := s.rdF (tmu 0 (TMU_TD_SLAVE d)) 0 7

/-- The slave port changes, which is a path change (R89, R90). -/
def State.setSlave (s : State) (d v : Nat) : State :=
  let t := (s.wr (tmu 0 (TMU_TD_SLAVE d)) (wordOf (v % 128))).pathChange []
  if v % 128 < 64 ∧ t.tdEnabled d then t.markPath d (v % 128) else t

/-! ## Ticks (R64, R67, R68, R93) -/

/-- The domain of PPS_OUT. -/
def State.ppsDom (s : State) : Nat := s.rdF (tmu 0 TMU_PPS_CFG) 1 1

/-- The seconds of a domain on die 0. -/
def State.secs (s : State) (d : Nat) : Nat := s.view 0 d / nsPerSec

/-- The pulse of PPS_OUT (R93). -/
abbrev ppsTmr : Nat := tmr (tmu 0 TMU_PPS_CFG) 0

/-- PPS_OUT goes high where the seconds of its domain have moved forward from `old`, past the highest already pulsed (R93). -/
def State.ppsFrom (s : State) (old : Nat) : State :=
  let n := s.secs s.ppsDom
  let top := if s.ppsDom = 0 then s.tm.ppsTop0 else s.tm.ppsTop1
  if s.rdB (tmu 0 TMU_PPS_CFG) 0 ∧ old < n ∧ top < n then
    let t := (s.emit (.pps true)).arm ppsTmr (atLeast1 (s.rdF (tmu 0 TMU_PPS_CFG) 8 8) * ms - s.view 0 s.ppsDom % nsPerSec)
    { t with tm := if s.ppsDom = 0 then { t.tm with ppsHigh := true, ppsTop0 := n } else { t.tm with ppsHigh := true, ppsTop1 := n } }
  else s

/-- `n` ticks of 2 ns on one die. -/
def State.advDie (s : State) (k n : Nat) : State :=
  ((((s.advDomain k 0 n).advDomain k 1 n).setRck k (s.rckAfter k n)).evalRck k)

/-- `n` ticks of 2 ns on the dies that are up, with the pulse of PPS_OUT. -/
def State.advDies (s : State) (n : Nat) : State :=
  ((s.advDie 0 n).when (s.dieUp 1) fun t => t.advDie 1 n).ppsFrom (s.secs s.ppsDom)

/-- Steps of 1 ms, 500,000 ticks, that count as rows where no rows run (R75, R91). -/
def State.rowlessTicks (s : State) (n : Nat) : State :=
  if s.rdB (sch 0 SCH_STAT) 9 || !(s.holdover || s.tdHold 0 || s.tdHold 1) then { s with tm := { s.tm with rowless := 0 } }
  else
    let m := s.tm.rowless + n
    let t := ((s.holdStep 0 (m / 500000)).holdStep 1 (m / 500000)).holdoverStep (m / 500000)
    { t with tm := { t.tm with rowless := m % 500000 } }

/-- Something is due at the next tick. -/
def TimeUnit.anyDue (m : TimeUnit) : Bool := m.due0 != TimeDue.none || m.due1 != TimeDue.none

/-- What is due for domain `d`. -/
def State.due (s : State) (d : Nat) : TimeDue := if d = 0 then s.tm.due0 else s.tm.due1

/-- What is due for domain `d` set. -/
def State.setDue (s : State) (d : Nat) (x : TimeDue) : State :=
  { s with tm := if d = 0 then { s.tm with due0 := x } else { s.tm with due1 := x } }

/-- The tension of a domain, as committed (R65). -/
def State.setTens (s : State) (d v : Nat) : State :=
  { s with tm := if d = 0 then { s.tm with tens0 := v } else { s.tm with tens1 := v } }

/-- The limits of the tension (R66). -/
abbrev tensMin : Nat := 0x01FF7CED91
abbrev tensMax : Nat := 0x020083126F

/-- Both tension halves are committed and held to the limits (R66, R67). -/
def State.commitTens (s : State) (d v : Nat) : State :=
  let c := clampTo tensMin tensMax v
  let t := ((s.setTens d c).wr (tmu 0 (TMU_TD_TENS_LO d)) (wordOf c)).wr (tmu 0 (TMU_TD_TENS_HI d)) (wordOf (c / 2 ^ 32))
  if c = v then t else t.raiseTmu 8

/-- A signed step of ns is added to both views; a step below 0 leaves 0 and sets STEP_ERR (R67, R68).
(DEDUCED, log entry 22) -/
def State.stepDomain (s : State) (d : Nat) (step : Int) : State :=
  let v := (s.view 0 d : Int) + step
  (if v < 0 then (s.setView 0 d 0).raiseTmu 9 else s.setView 0 d v.toNat).evalRck 0

/-- The full view is loaded with the fraction cleared (R67). -/
def State.loadView (s : State) (d ns : Nat) : State := ((s.setView 0 d ns).wr (tmu 0 (TMU_TD_FRAC d)) 0).evalRck 0

/-- The new tension that is due for a domain is taken. -/
def State.takeTens (s : State) (d : Nat) : State :=
  match (s.due d).tens with
  | none => s
  | some v => s.commitTens d v

/-- The set and then the step that are due for a domain are taken (R68). -/
def State.takeSetStep (s : State) (d : Nat) : State :=
  let x := s.due d
  let t := match x.set with
    | none => s
    | some ns => s.loadView d ns
  (if x.step = 0 then t else t.stepDomain d x.step).setDue d TimeDue.none

/-- The tick that takes what is due: it advances by the new tension, then applies sets, then steps (R68). -/
def State.dueTick (s : State) : State :=
  let t := ((s.takeTens 0).takeTens 1).advDies 1
  ((t.takeSetStep 0).takeSetStep 1).ppsFrom (t.secs t.ppsDom)

/-- `n` ticks of 2 ns of elapsed time, and of the clocks of every die that is up (R64); what is due is taken at the first one. -/
def State.advance (s : State) (n : Nat) : State :=
  let t : State := { s with el := { s.el with clk := s.el.clk + 2 * n } }
  if t.dieUp 0 && n != 0 then
    (if t.tm.anyDue then (t.dueTick.advDies (n - 1)).rowlessTicks n else (t.advDies n).rowlessTicks n)
  else t

/-- The least number in `[b, b + 2 ^ k)` that `f` holds of, for an `f` that goes on holding. -/
def leastFrom (f : Nat → Bool) : Nat → Nat → Nat
  | 0, b => b
  | k + 1, b => if f (b + 2 ^ k - 1) then leastFrom f k b else leastFrom f k (b + 2 ^ k)

/-- The ticks to the first one at which the row clock of die `k` has gained `dist` ns on its present ST (R78). -/
def State.ticksTo (s : State) (k dist : Nat) : Nat :=
  leastFrom (fun n => decide (((s.st k).toNat + dist) * 2 ^ 32 ≤ s.rckAfter k n)) 32 0

/-- The clocks advance until the row clock of die `k` has gained `dist` ns; a tick that takes what is due comes first.
(DEDUCED, log entry 6) -/
def State.gain (s : State) (k dist : Nat) : State :=
  if s.tm.anyDue then
    let t := s.advance 1
    let d := dist - (t.st k - s.st k).toNat
    t.advance (t.ticksTo k d)
  else s.advance (s.ticksTo k dist)

/-- The clocks advance until the row clock of die `k` reaches an instant that still lies ahead (R78).
(DEDUCED, log entry 6) -/
def State.reachOn (s : State) (k : Nat) (target : Word) : State :=
  if stLater target (s.st k) then s.gain k (target - s.st k).toNat else s

/-- The time at which a row-clock instant is reached: where it still lies ahead, the clocks advance to it.
(DEDUCED, log entry 6) -/
def State.reachSt (s : State) (target : Word) : State := s.reachOn 0 target

/-- The clocks advance to an instant of elapsed time in ns that still lies ahead.
(DEDUCED, log entry 6) -/
def State.reachAt (s : State) (n : Nat) : State := s.advance ((n - s.now + 1) / 2)

/-- The instant of a timer is reached, and the timer stops. An event of which no timer runs takes place now.
(DESIGN CHOICE, log entry 70) -/
def State.expire (s : State) (k : Nat) : State :=
  match s.timer k with
  | some t => (s.reachAt t).disarm k
  | none => s

/-- The clocks advance to `ns` after the instant that is kept, where one is. -/
def State.reachFrom (s : State) (k ns : Nat) : State :=
  match s.timer k with
  | some t => s.reachAt (t + ns)
  | none => s

/-- The clocks advance to the next second of a domain.
(DEDUCED, log entry 6) -/
def State.reachSec (s : State) (d : Nat) : State :=
  let t := if s.tm.anyDue then s.advance 1 else s
  let left := (nsPerSec - t.view 0 d % nsPerSec) * 2 ^ 32 - t.frac 0 d
  if t.secs d = s.secs d then t.advance ((left + t.tens d - 1) / t.tens d) else t

end Sys2Proof.Machine
end

