-- ==== Sys2Proof/Machine/Net.lean ====
section
/-! DEFINITION. Frames at the ports: the live statistics counters (R443), MACsec (R425 to R428), turns and the relay of
Slandongo frames around the ring (R298 to R301), and what leaves a port. -/

namespace Sys2Proof.Machine

/-! ## Live statistics counters (R439, R443 to R446) -/

/-- The address of a port counter's snapshot. -/
def portCtr (p i : Nat) : Nat := win (p / 32) (0x0B10000 + p % 32 * 0x180 + i * 8)

/-- The address of a stitch counter's snapshot on a die. -/
def stitchCtr (d sid i : Nat) : Nat := win d (0x0B20000 + sid * 0x10 + i * 8)

/-- The address of a dataset counter's snapshot on a die. -/
def dataCtr (d c i : Nat) : Nat := win d (0x0B30000 + c * 0x20 + i * 8)

/-- A port counter incremented. -/
def State.pst (s : State) (p i : Nat) : State := s.statBy (portCtr p i) 1

/-- A stitch counter incremented, on the die of a port or on die 0. -/
def State.sst (s : State) (d sid i : Nat) : State := if sid < 4096 then s.statBy (stitchCtr d sid i) 1 else s

/-! ## Ports -/

/-- A port engine works: its die is up, ENABLE is 1 and it is not powered off (R481, R483). -/
def State.portOn (s : State) (p : Nat) : Bool :=
  decide (p < s.part.ports) && s.dieUp (p / 32) && s.rdB (prt p PG_CTRL) 0 && s.rdF (prt p PG_CTRL) 2 2 != 2

/-- The link of a port is up (R491). -/
def State.link (s : State) (p : Nat) : Bool := s.rdB (prt p PRT_LINK_STAT) 0

/-- A backbone port has block lock (R355). -/
def State.lock (s : State) (p : Nat) : Bool := s.rdB (prt p PRT_LINE_STAT) 0

/-- A backbone port runs at 10 Gbit/s (R355). -/
def State.slow (s : State) (p : Nat) : Bool := s.rdB (prt p PRT_LINE_STAT) 1

/-- The weight of an engine from its line rate in units of 0.1 Gbit/s: the rate divided by 2.5 Gbit/s, rounded up (R21). -/
def rateWeight (rate10 : Nat) : Nat := max 1 ((rate10 + 24) / 25)

/-- The register of a port's weight in its cluster (R490). -/
def weightReg (p : Nat) : Nat := clu (p / 8) (CLU_WGT (p % 8))

/-! ## Turns (R300, R309, R312, R314) -/

/-- The turn that a port holds. -/
inductive Turn where
  | none | theEnd | fault
  deriving DecidableEq, Repr

/-- The code of a side in RNG_STAT: 0 none, 1 END, 2 SPLIT, 3 FAULT_A, 4 FAULT_B. -/
def State.sideCode (s : State) (side : Nat) : Nat := s.rdF (rng 0 RNG_STAT) (4 * side) 3

/-- While XDIE_WRAP is 1, end turns act as fault turns on each die's own ports (R312). -/
def State.xdieWrap (s : State) : Bool := s.rdB (rng 0 RNG_STAT) 9

/-- The turn on a backbone port. -/
def State.turnAt (s : State) (p : Nat) : Turn :=
  let c := s.sideCode (portSide p)
  if c = 1 ∨ c = 2 then (if s.xdieWrap then .fault else .theEnd)
  else if (c = 3 ∧ portLine s.part p = 0) ∨ (c = 4 ∧ portLine s.part p = 1) then .fault
  else .none

/-- A side is split: it sends and accepts no frame (R309). -/
def State.split (s : State) (p : Nat) : Bool := isBackbone s.part p && s.sideCode (portSide p) == 2

/-- A backbone port transmits the Remote Fault ordered set: it has no block lock, and RF_EN is 1 (R304). -/
def State.sendsRf (s : State) (p : Nat) : Bool :=
  isBackbone s.part p && s.portOn p && s.rdB (rng (p / 32) RNG_CFG) 1 && !s.lock p

/-- The port of the other line on the same side. -/
def otherLine (pt : Part) (p : Nat) : Nat := backbonePort pt (1 - portLine pt p) (portSide p)

/-- The path of a carried frame that a node handles as received on port `p`: the ports on which it is handled as received, and
the port it leaves by, none if turns never let it out (R300). -/
def State.ringPath (s : State) : Nat → Nat → List Nat × Option Nat
  | 0, p => ([p], none)
  | n + 1, p =>
    let o := acrossPort p
    match s.turnAt o with
    | .none => ([p], some o)
    | .theEnd => let r := s.ringPath n (otherLine s.part o); (p :: r.1, r.2)
    | .fault => let r := s.ringPath n o; (p :: r.1, r.2)

/-! ## Frame lengths and destinations -/

/-- The length of a strand: 8 bytes and its data (R242). -/
def strandSize (t : Strand) : Nat := 8 + t.data.length

/-- The payload of strands. -/
def strandsSize (l : List Strand) : Nat := (l.map strandSize).sum

/-- The length of a frame from DA to FCS before MACsec, where the spec gives one. -/
def Frame.len : Frame → Option Nat
  | .sl _ _ (.rowStart b) => some (94 + 4 * b.poll.length)
  | .sl _ _ (.coldStart _) => some 66
  | .sl _ _ (.skein b) => some (max 64 (52 + strandsSize b.strands))
  | .sl _ _ (.null _) => some 64
  | .sl _ _ (.turnNotice _) => some 64
  | .sl _ _ (.keepAlive _) => some 64
  | .sl _ _ (.poll b) => some (70 + b.strand.data.length)
  | .sl _ _ (.claim _) => some 64
  | .sl _ _ (.bridgeReq b) => some (70 + 4 * b.data.length)
  | .sl _ _ (.bridgeRsp b) => some (70 + 4 * b.data.length)
  | .sl _ _ (.eventMsg _) => some 78
  | .hello _ _ => some 128
  | .topology _ => some 256
  | .eth e => some e.len
  | .trdp e _ _ => some e.len
  | .pfc _ _ => some 64
  | .loop n _ => some n
  | _ => none

/-- The kind of destination of a frame: 0 unicast, 1 multicast, 2 broadcast. -/
def Frame.cast : Frame → Nat
  | .sl _ _ (.bridgeReq _) | .sl _ _ (.bridgeRsp _) | .sl _ _ (.eventMsg _) | .sl _ _ (.poll _) | .sl _ _ (.reply _) => 0
  | .loop _ _ => 0
  | .trdp e _ _ => if e.da = 0xFFFFFFFFFFFF then 2 else if e.da.getLsbD 40 then 1 else 0
  | .eth e => if e.da = 0xFFFFFFFFFFFF then 2 else if e.da.getLsbD 40 then 1 else 0
  | _ => 1

/-! ## MACsec (R423 to R428) -/

/-- A slot's registers: transmit from 0x100, receive from 0x500, 0x80 bytes each (R437). -/
def slotReg (d m : Nat) (rx : Bool) (slot o : Nat) : Nat := sa d m ((if rx then 0x500 else 0x100) + 0x80 * slot + o)

/-- A slot is VALID. -/
def State.slotValid (s : State) (d m : Nat) (rx : Bool) (slot : Nat) : Bool := s.rdB (slotReg d m rx slot 0) 0

/-- VALID of a slot clears, and its key and salt are zeroed (R427). -/
def State.clearSlot (s : State) (d m : Nat) (rx : Bool) (slot : Nat) : State :=
  let t := s.each (fun k u => u.wr (slotReg d m rx slot (0x20 + 4 * k)) 0) (List.range 11)
  t.wrB (slotReg d m rx slot 0) 0 false

/-- A MACsec instance protects (R425). -/
def State.secOn (s : State) (d m : Nat) : Bool := s.rdB (sa d m SEC_PORT_CFG) 0

/-- The transmit PN advances: PN_THR is set as it reaches the threshold, and at exhaustion the slot ends (R428). -/
def State.pnAdvance (s : State) (d m slot : Nat) : State :=
  let xpn := s.rdB (sa d m SEC_PORT_CFG) 1
  let lo := slotReg d m false slot 0x08
  let hi := slotReg d m false slot 0x0C
  let pn := if xpn then (s.rd64 lo hi + 1) % 2 ^ 64 else s.rd64 lo hi / 2 ^ 32 * 2 ^ 32 + ((s.rd lo).toNat + 1) % 2 ^ 32
  let t := (s.wr64 lo hi pn).wr (slotReg d m false slot 0x4C) (s.rd (slotReg d m false slot 0x4C) + 1)
  let thr := if xpn then t.rd64 (sec d SEC_PN_THR_LO) (sec d SEC_PN_THR_HI) else (t.rd (sec d SEC_PN_THR_LO)).toNat
  let cmp := if xpn then pn else pn % 2 ^ 32
  let t1 := if cmp = thr then t.raise (sa d m 0) 2 else t
  if cmp = (if xpn then 2 ^ 64 - 1 else 2 ^ 32 - 1) then (t1.clearSlot d m false slot).raise (sa d m 0) 3 else t1

/-- A frame is protected for sending: the AN and PN it carries, none if its slot is not VALID and it is dropped (R425). -/
def State.protect (s : State) (d m : Nat) : State × Option (Nat × Nat) :=
  let slot := s.rdF (sa d m SEC_PORT_TXSA) 0 3
  if s.slotValid d m false slot then
    let pn := if s.rdB (sa d m SEC_PORT_CFG) 1 then s.rd64 (slotReg d m false slot 0x08) (slotReg d m false slot 0x0C)
      else (s.rd (slotReg d m false slot 0x08)).toNat
    (s.pnAdvance d m slot, some (s.rdF (slotReg d m false slot 0) 1 2, pn))
  else (s.count (sa d m SEC_CNT_TXDROP), none)

/-- The receive slot that matches a SecTAG's SCI and AN (R425).
(PRESUMED, log entry 40) -/
def State.rxSlot (s : State) (d m : Nat) (t : SecTag) : Option Nat :=
  (List.range 8).find? fun k =>
    s.slotValid d m true k && s.rdF (slotReg d m true k 0) 1 2 == t.an.toNat
      && s.rd64 (slotReg d m true k 0x10) (slotReg d m true k 0x14) == t.sci.toNat

/-- The MACsec check of a received frame: whether the port takes it (R425). The lowest acceptable PN follows the PN received by
the replay window, as IEEE 802.1AE-2018 has it.
(DEDUCED, log entry 39; PRESUMED, log entry 40) -/
def State.verify (s : State) (d m : Nat) (tag : Option SecTag) (exempt : Bool) : State × Bool :=
  if !s.secOn d m then (s, true)
  else match tag with
    | none => if exempt then (s, true) else (s.count (sa d m SEC_CNT_UNSEC), false)
    | some t =>
      match s.rxSlot d m t with
      | none => (s.count (sa d m SEC_CNT_NOSA), false)
      | some k =>
        let lo := slotReg d m true k 0x08
        let hi := slotReg d m true k 0x0C
        let low := if s.rdB (sa d m SEC_PORT_CFG) 1 then s.rd64 lo hi else (s.rd lo).toNat
        if !t.icvOk then (s.count (sa d m SEC_CNT_ICV), false)
        else if s.rdB (sa d m SEC_PORT_CFG) 3 && decide (t.pn.toNat < low) then (s.count (sa d m SEC_CNT_REPLAY), false)
        else
          let low' := max low (t.pn.toNat + 1 - s.rdF (sa d m SEC_PORT_WIN) 0 30)
          let s1 := if s.rdB (sa d m SEC_PORT_CFG) 1 then s.wr64 lo hi low' else s.wr lo (wordOf low')
          (s1.wr (slotReg d m true k 0x4C) (s1.rd (slotReg d m true k 0x4C) + 1), true)

/-- The frames that a protected port sends and accepts unprotected: MAC control, and gPTP while PTP_CLEAR is 1 (R425). -/
def State.secExempt (s : State) (d m : Nat) : Frame → Bool
  | .pfc _ _ => true
  | .sync _ => s.rdB (sa d m SEC_PORT_CFG) 2
  | .eth e => e.etype == 0x888E || e.etype == 0x8808 || (e.etype == 0x88F7 && s.rdB (sa d m SEC_PORT_CFG) 2)
  | _ => false

/-- The byte time of a backbone port's line in 1/400 ns: 0.32 ns at 25 Gbit/s, 0.8 ns at 10 Gbit/s. -/
def State.byteTime (s : State) (p : Nat) : Int := if s.slow p then 320 else 128

/-- The byte time of a link in 1/400 ns by PRT_LINK_STAT.SPEED (R491): 10 Mbit/s to 25 Gbit/s. -/
def State.edgeByte (s : State) (p : Nat) : Int :=
  let v := s.rdF (prt p PRT_LINK_STAT) 1 3
  if v = 0 then 320000 else if v = 1 then 32000 else if v = 2 then 3200 else if v = 3 then 1280 else if v = 4 then 320 else 128

/-- The byte time of any port in 1/400 ns. -/
def State.anyByte (s : State) (p : Nat) : Int := if isBackbone s.part p then s.byteTime p else s.edgeByte p

/-- The fixed latency of the FEC of a backbone port on its receive or transmit side, in 1/16 ns; RS-FEC at 10 Gbit/s acts as none
(R341, R355).
(DESIGN CHOICE, log entry 74) -/
def State.fecLat16 (s : State) (p : Nat) (tx : Bool) : Nat :=
  let c := s.rd (prt p PRT_LINE_CFG)
  if !isBackbone s.part p then 0
  else if fld c 2 2 = 1 then Config.fecLat false tx
  else if fld c 2 2 = 2 ∧ fld c 0 2 ≠ 1 ∧ s.slow p = false then Config.fecLat true tx
  else 0

/-- The receive latency of a port from the balls to the stamp, in 1/16 ns, with that of its FEC (R82, R97, R341). -/
def State.rxLat16 (s : State) (p : Nat) : Nat := (s.rd (prt p PRT_PTP_RXLAT)).toNat + s.fecLat16 p false

/-- The transmit latency of a port from the stamp to the balls, in 1/16 ns, with that of its FEC (R82, R97, R341). -/
def State.txLat16 (s : State) (p : Nat) : Nat := (s.rd (prt p PRT_PTP_TXLAT)).toNat + s.fecLat16 p true

/-- The SOF timestamp of a received frame: at the device's balls, the receive latency compensated; a fraction of a ns is dropped
(R82).
(DEDUCED, log entry 69) -/
def State.rxStamp (s : State) (rx : Rx) : Word := rx.sof - wordOf ((s.rxLat16 rx.port.val + 15) / 16)

/-- The transmit timestamp of a port: at the device's balls, the transmit latency compensated (R82). -/
def State.txStamp (s : State) (p : Nat) (st : Word) : Word := st + wordOf (s.txLat16 p / 16)

/-- The wire time of `n` bytes before MACsec on a port in 1/400 ns: preamble, the frame, and 32 bytes where MACsec protects.
(PRESUMED, log entry 24) -/
def State.wireTime (s : State) (p n : Nat) : Int :=
  let sec := match portSa s.part p with
    | some (d, m) => s.secOn d m
    | none => false
  ((8 + n + (if sec then 32 else 0) : Nat) : Int) * s.anyByte p

/-- The ns of a wire time in 1/400 ns, rounded up. -/
def ceilNs (x : Int) : Nat := ((x + 399) / 400).toNat

/-! ## Meetings of scheduled frames (R123, R285) -/

/-- The instant in ns, from `start` on, at which a port is free for a scheduled frame: past the frames in whose spans it falls. -/
def State.freeAt (s : State) (p start : Nat) : Nat :=
  s.fw.wire.foldl (fun t b => if b.1 = p ∧ b.2.1 ≤ t ∧ t < b.2.2 then b.2.2 else t) start

/-- The ns for which a scheduled frame that reaches a port at an instant waits behind another one.
(DEDUCED, log entry 23) -/
def State.waitAt (s : State) (p start : Nat) : Nat := s.freeAt p start - start

/-- A scheduled frame that waits behind another one is a meeting.
(DEDUCED, log entry 23) -/
def State.meet (s : State) (p start : Nat) : State :=
  if start < s.freeAt p start then ((s.count (sch (p / 32) SCH_CNT_MEET)).pst p 39).raise (sch (p / 32) 0) 7 else s

/-- The end of a scheduled frame of `n` bytes that reaches a port at an instant, in ns.
(PRESUMED, log entry 24) -/
def State.wireEnd (s : State) (p n start : Nat) : Nat := s.freeAt p start + ceilNs (s.wireTime p n)

/-- A span put among the others, in the order of their starts. -/
def insertSpan (b : Nat × Nat × Nat) : List (Nat × Nat × Nat) → List (Nat × Nat × Nat)
  | [] => [b]
  | x :: xs => if b.2.1 < x.2.1 then b :: x :: xs else x :: insertSpan b xs

/-- Ports that support preemption: backbone ports and uplinks, and P0 to P3 of the single-die parts. -/
def canPreempt (pt : Part) (p : Nat) : Bool := isBackbone pt p || isUplink pt p

/-- Preemption is active on a port. -/
def State.preActive (s : State) (p : Nat) : Bool := canPreempt s.part p && s.rdB (prt p PRT_PRE_STAT) 0

/-- A fragment is counted (R283). -/
def State.fragment (s : State) (p : Nat) : State := (s.count (prt p PRT_CNT_PREEMPT)).pst p 36

/-- A best-effort frame being sent on a port that satisfies a condition is preempted, where preemption is active there. -/
def State.preemptIf (s : State) (p : Nat) (c : Sending → Bool) : State :=
  match s.fw.sending.find? fun x => x.ent.port == p && x.left.isNone && decide (s.now < x.ends) && c x with
  | some x =>
    if s.preActive p then
      ({ s with fw := { s.fw with sending := s.fw.sending.map fun y =>
          if y = x then { y with left := some (x.ends - s.now) } else y } } : State).fragment p
    else s
  | none => s

/-- It takes the port till its end and the interframe gap of 12 bytes (PRESUMED, IEEE 802.3), and preempts a best-effort frame being
sent there (R22). Spans that have ended are dropped.
(DEDUCED, log entry 23) -/
def State.occupy (s : State) (p n start : Nat) : State :=
  let t := s.preemptIf p fun _ => true
  { t with fw := { t.fw with
      wire := insertSpan (p, s.freeAt p start, s.wireEnd p n start + ceilNs (12 * s.anyByte p)) (s.fw.wire.filter fun b => decide (s.now < b.2.2)) } }

/-- A transit frame that waits takes its port's reserved cells, and borrows shared ones where they do not do (R285).
(DEDUCED, log entry 23) -/
def State.borrow (s : State) (p n start : Nat) : State :=
  if s.freeAt p start = start then s
  else
    let l := s.fw.waits.filter fun w => decide (start < w.till)
    let used := ((l.filter (·.port == p)).map fun w => w.cells - w.lent).sum
    let c := (n + 255) / 256
    let b := c - (fld (s.eff (prt p PRT_SRSV)) 0 12 - used)
    let t : State := { s with fw := { s.fw with waits := l ++ [{ port := p, till := s.wireEnd p n start, cells := c, lent := b }] } }
    if b = 0 then t else (t.countBy (buf (p / 32) BUF_CNT_BORROW) b).raise (buf (p / 32) 0) 1

/-! ## Sending -/

/-- A frame passes the staging buffer of a cluster (R23). -/
def State.passCluster (s : State) (c : Nat) : State :=
  if s.fw.staged.contains c then s else { s with fw := { s.fw with staged := s.fw.staged ++ [c] } }

/-- A frame crosses a port: its cluster's staging buffer (R23), and the edge lane of its region (R51). -/
def State.crossPort (s : State) (p : Nat) : State :=
  let t := s.passCluster (p / 8)
  if isEdge s.part p then { t with rgnEdge := Assoc.put t.rgnEdge (portRegion p) t.now } else t

/-- A frame of `n` bytes leaves a port (R443).
(DESIGN CHOICE, log entry 41) -/
def State.txCount (s : State) (p : Nat) (f : Frame) (n : Nat) (sched : Bool) : State :=
  let t := (((s.pst p 26).statBy (portCtr p 27) n).pst p (28 + f.cast)).when sched fun u => u.pst p 31
  (t.crossPort p).emit (.tx p f)

/-- A frame leaves a port, with the length the spec gives it, or a free one.
(DESIGN CHOICE, log entry 10) -/
def State.txFrame (s : State) (p : Nat) (f : Frame) (add : Nat) (sched : Bool) : State :=
  match f.len with
  | some n => s.txCount p f (n + add) sched
  | none => (s.txCount p f (fld s.fresh 0 14) sched).useFree

/-- A frame is given to a port's transmitter, protected where MACsec is on (R425). -/
def State.sendPort (s : State) (p : Nat) (f : Frame) (sched : Bool) : State :=
  if !s.portOn p then s
  else match portSa s.part p with
    | none => s.txFrame p f 0 sched
    | some (d, m) =>
      if !s.secOn d m || s.secExempt d m f then s.txFrame p f 0 sched
      else match s.protect d m with
        | (t, some (an, pn)) => (t.emit (.txSec p an pn)).txFrame p f 32 sched
        | (t, none) => t.pst p 40

/-- A scheduled frame reaches a port at an instant. -/
def State.sendSched (s : State) (p : Nat) (f : Frame) (start : Nat) : State :=
  if s.portOn p then ((s.meet p start).occupy p (f.len.getD 0) start).sendPort p f true else s

/-- A side is a coupling side (R196). -/
def State.coupling (s : State) (side : Nat) : Bool := s.tp.couple.getLsbD side

/-- A copy leaves the ports of the coupling sides as well (R196): for ROW_START, COLDSTART and CLAIM. -/
def State.sendCoupling (s : State) (f : Frame) (start : Nat) (sched : Bool) : State :=
  s.each (fun p t => t.when (t.coupling (portSide p) && t.turnAt p != .none) fun u =>
    if sched then u.sendSched p f start else u.sendPort p f false) (backbonePorts s.part)

/-- Frames that R196 passes out of a coupling side. -/
def Body.passes : Body → Bool
  | .rowStart _ | .coldStart _ | .claim _ => true
  | _ => false

/-- An own frame is sent on both rotations: a copy out of every backbone port that holds no turn (R298). Without the Komidon
link each die sends its own copies. -/
def State.sendRing (s : State) (h : Hdr) (rtag : Option (BitVec 16)) (b : Body) (sched : Bool) : State :=
  let f : Frame := .sl h rtag b
  let t := s.each (fun p u => u.when (u.turnAt p == .none) fun v => if sched then v.sendSched p f v.now else v.sendPort p f false)
    (backbonePorts s.part)
  t.when b.passes fun u => u.sendCoupling f u.now sched

/-- A received Slandongo frame is relayed: it leaves by the port that its path ends at (R299, R300). -/
def State.relay (s : State) (p : Nat) (h : Hdr) (rtag : Option (BitVec 16)) (b : Body) (sched : Bool) : State :=
  let f : Frame := .sl h rtag b
  let t := match (s.ringPath 4 p).2 with
    | some o => if sched then (s.borrow o (f.len.getD 0) s.fw.arrived).sendSched o f s.fw.arrived else s.sendPort o f false
    | none => s
  t.when b.passes fun u => u.sendCoupling f u.fw.arrived sched

/-- The node's MAC (R491). -/
def State.mac (s : State) : Mac := BitVec.ofNat 48 ((s.rd (die 0 DIE_MAC_LO)).toNat + s.rdF (die 0 DIE_MAC_HI) 0 16 * 2 ^ 32)

/-- The Slandongo EtherType (R107). -/
def State.slEtype (s : State) : BitVec 16 := BitVec.ofNat 16 (s.rdF (sch 0 SCH_ETYPE) 0 16)

/-- The control DA (R107). -/
def State.ctlDa (s : State) : Mac := BitVec.ofNat 48 (s.rd64 (sch 0 SCH_CTL_DA_LO) (sch 0 SCH_CTL_DA_HI))

/-- The skein DA (R254). -/
def State.sknDa (s : State) : Mac := BitVec.ofNat 48 (s.rd64 (dsk 0 DSK_SKN_DA_LO) (dsk 0 DSK_SKN_DA_HI))

/-- The addresses, tag and EtherType of an own frame: SKEIN and NULL go to the skein DA, the control frames to the control DA, all
with a priority tag of PCP 7 and VID 0 (R107, R116, R254). Frames with other addresses set their own.
(DEDUCED, log entry 71) -/
def State.slL2 (s : State) (subtype : Byte) : L2 :=
  { da := if subtype = 0x03 ∨ subtype = 0x04 then s.sknDa else s.ctlDa, sa := s.mac, tci := some 0xE000, etype := s.slEtype }

/-! ## Receiving -/

/-- How a received frame came through its port. -/
inductive Arrival where
  /-- It is whole. -/
  | good
  /-- Its FCS or its MACsec ICV is bad, which shows at its end: a cut-through frame's start has been forwarded by then (R38). -/
  | bad
  /-- The port does not take it. -/
  | none
  deriving DecidableEq, Repr

/-- What a command does with a frame that has arrived; a frame that the port does not take does nothing more. -/
def State.onArrival (r : State × Arrival) (f : Arrival → State → State) : State := if r.2 = .none then r.1 else f r.2 r.1

/-- A port takes a received frame: it works, its side is not split, FCS and MACsec are good (R309, R425). `exempt` frames need no
SecTAG.
(DEDUCED, log entry 39) -/
def State.takeRx (s : State) (rx : Rx) (exempt : Bool) : State × Arrival :=
  let p := rx.port.val
  if !s.portOn p || s.split p then (s, .none)
  else
    let s0 : State := { s with fw := { s.fw with arrived := ((s.now : Int) + stDiff (s.rxStamp rx) (s.st (p / 32))).toNat } }
    let t := ((s0.crossPort p).pst p 0).statBy (portCtr p 1) rx.len
    if !rx.fcsOk then (t.pst p 5, .bad)
    else if rx.len < 64 then (t.pst p 6, .none)
    else match portSa t.part p with
      | none => (t, .good)
      | some (d, m) =>
        match t.verify d m rx.sec exempt with
        | (u, true) => (u, .good)
        | (u, false) =>
          let icv := match rx.sec with | some g => (u.rxSlot d m g).isSome && !g.icvOk | none => false
          (u.pst p (if icv then 19 else 20), if icv then .bad else .none)

/-- The reserved bits of the common header are clear and its version is 1 (R107). -/
def headerOk (h : Hdr) : Bool :=
  h.version == 1 && h.flags == 0 && decide (h.sender.toNat < 64) && decide (h.prf.toNat < 8) &&
    (h.sid == 0xFFFF || decide (h.sid.toNat < 4096))

/-- A Slandongo frame is discarded by the header checks: XCHK (R107, R121). -/
def State.xchk (s : State) (p : Nat) : State :=
  (s.count (sch (p / 32) SCH_CNT_XCHK)).pst p 24

/-- A frame that returns to its originator, or has completed a circuit, is stripped (R299, R541). -/
def State.strip (s : State) (p : Nat) : State := s.count (rng (p / 32) RNG_CNT_STRIP)

/-- A Slandongo frame arrives on a backbone port: how it passes the port, and its common header, which is checked before its end
(R107). -/
def State.takeSl (s : State) (rx : Rx) (h : Hdr) (subtype : Byte) : State × Arrival :=
  if !isBackbone s.part rx.port.val || h.l2.etype != s.slEtype then (s, .none)
  else
    let r := s.takeRx rx false
    let t := r.1.pst rx.port.val (if h.l2.da.getLsbD 40 then 3 else 2)
    if r.2 = .none then (r.1, .none)
    else if headerOk h && h.subtype == subtype then ((if r.2 = .good then t.pst rx.port.val 10 else t), r.2)
    else (t.xchk rx.port.val, .none)

/-- The egress ends a frame whose start it has already forwarded with an inverted FCS (R119). -/
def State.relayBad (s : State) (p : Nat) (f : Frame) : State :=
  match (s.ringPath 4 p).2 with
  | some o => if s.portOn o then s.emit (.txBad o f) else s
  | none => s

/-- A frame that fails its FCS or its ICV after its start has been forwarded ends badly, and is a transit error on both ports (R38).
(DEDUCED, log entry 39) -/
def State.endBad (s : State) (p : Nat) (f : Frame) : State :=
  let t := s.pst p 25
  (match (s.ringPath 4 p).2 with
    | some o => t.pst o 25
    | none => t).relayBad p f

/-! ## The common header of own frames (R107) -/

/-- The active topology counter (R212). -/
def State.topoCtr (s : State) : Word := s.rd (ina INA_TOPO_ACT)

/-- The node is one of a twin pair (R316). -/
def State.paired (s : State) : Bool := s.rdB (twn 0 TWN_CFG) 0

/-- The node holds the token of its pair (R322). -/
def State.lead (s : State) : Bool := s.paired && s.role == 3

/-- The number under which the node owns stitches: the pair number in a pair, else its own (R318). -/
def State.stitchNum (s : State) : Nat := if s.paired then s.rdF (twn 0 TWN_PAIR) 0 6 else s.num

/-- A sender field is the node's own number for stripping (R299): a lead takes the pair number as its own too, a standby never. -/
def State.ownSender (s : State) (n : Nat) : Bool :=
  n != 0 && ((n == s.num && !(s.paired && s.mode == .standby && n == s.rdF (twn 0 TWN_PAIR) 0 6)) || (s.lead && n == s.rdF (twn 0 TWN_PAIR) 0 6))

/-- A commit of a PRODUCE context is noted for the lifeline (R327). -/
def State.noteCtx (s : State) (d c : Nat) : State :=
  if s.lead then { s with pr := { s.pr with ctxs := s.pr.ctxs.filter (· ≠ (d, c)) ++ [(d, c)] } } else s

/-- A sequence that has advanced is noted for the lifeline: kind 0 generator, 1 poll sequence, 2 TRDP counter (R327). -/
def State.noteSeq (s : State) (d k i : Nat) : State :=
  if s.lead then { s with pr := { s.pr with seqs := s.pr.seqs.filter (· ≠ (d, k, i)) ++ [(d, k, i)] } } else s

/-- A write, learning or removal of a table entry is noted for the lifeline (R327). -/
def State.noteEnt (s : State) (d t i : Nat) : State :=
  if s.lead then { s with pr := { s.pr with ents := s.pr.ents.filter (· ≠ (d, t, i)) ++ [(d, t, i)] } } else s

/-- The common header of a frame that this node sends in a stitch (R107, R318). -/
def State.stitchHdr (s : State) (subtype : Byte) (row : Word) (prf sid : Nat) : Hdr :=
  { l2 := s.slL2 subtype, subtype := subtype, version := 1, flags := 0, row := row, topo := s.topoCtr, sender := BitVec.ofNat 8 s.stitchNum,
    prf := BitVec.ofNat 8 prf, sid := BitVec.ofNat 16 sid }

/-- The common header of a frame that this node sends. -/
def State.hdr (s : State) (subtype : Byte) (row : Word) (sid : BitVec 16) : Hdr :=
  { l2 := s.slL2 subtype, subtype := subtype, version := 1, flags := 0, row := row, topo := s.topoCtr, sender := BitVec.ofNat 8 s.num,
    prf := BitVec.ofNat 8 s.actPrf, sid := sid }

end Sys2Proof.Machine
end

