-- ==== Sys2Proof/Machine/Data.lean ====
section
/-! DEFINITION. The dataset engines' shared operations: contexts and their views (R239 to R250), commits and flips (R244 to
R246), knitting (R251 to R255), unravelling (R256) and 802.1CB recovery (R259). -/

namespace Sys2Proof.Machine

/-! ## Tables (R268) -/

/-- A little-endian half-word of a table window. -/
def State.th (s : State) (a : Nat) : Nat := (s.tb a).toNat + (s.tb (a + 1)).toNat * 0x100

/-- The bank in force on a die (R103, R235). -/
def State.bankOf (s : State) (d : Nat) : Nat := s.rdF (sch d SCH_BANK) 0 1

/-- Word `k` of context `c` of die `d`. -/
def ctxWord (d c k : Nat) : Nat := win d (0x400000 + c * 16 + k * 4)

/-- The half-word of the dataset map of a bank for a dataset ID. -/
def dsMapAddr (d b id : Nat) : Nat := win d (0x410000 + b * 0x4000 + id * 2)

/-- Word `k` of a produced-skein entry of a bank. -/
def prodWord (d b i k : Nat) : Nat := win d (0x418000 + b * 0x100 + i * 16 + k * 4)

/-- Entry `i` of the strand lists of a bank. -/
def strandListAddr (d b i : Nat) : Nat := win d (0x420000 + b * 0x2000 + i * 2)

/-- The half-word of the consumed-skein map of a bank for a skein ID. -/
def consMapAddr (d b id : Nat) : Nat := win d (0x424000 + b * 0x4000 + id * 2)

/-- Word `k` of recovery context `i`. -/
def recWord (d i k : Nat) : Nat := win d (0x430000 + i * 16 + k * 4)

/-- Word `k` of a TRDP entry (R262). -/
def trdpWord (d i k : Nat) : Nat := win d (0x440000 + i * 32 + k * 4)

/-- The context of a dataset on a die, by the map in force; 0x1FFF names none (R239). -/
def State.ctxOf (s : State) (d id : Nat) : Option Nat :=
  let w := s.th (dsMapAddr d (s.bankOf d) id)
  if id ≠ 0x1FFF ∧ w / 2 ^ 15 % 2 = 1 then some (w % 4096) else none

/-- The recovery context of a skein as a die's map in force has it: die and index (R257). -/
def State.recOf (s : State) (d id : Nat) : Option (Nat × Nat) :=
  let w := s.th (consMapAddr d (s.bankOf d) id)
  if w / 2 ^ 15 % 2 = 1 then some (w / 2 ^ 14 % 2, w % 1024) else none

/-! ## Contexts (R240, R241, R268) -/

def State.cw (s : State) (d c k : Nat) : Word := s.tw (ctxWord d c k)
def State.ctxValid (s : State) (d c : Nat) : Bool := bit (s.cw d c 0) 24
def State.ctxLen (s : State) (d c : Nat) : Nat := fld (s.cw d c 0) 13 11
/-- The role: 0 CONSUME, 1 PRODUCE, 2 MIRROR. -/
def State.ctxRole (s : State) (d c : Nat) : Nat := fld (s.cw d c 0) 25 2
/-- The source of a PRODUCE context: 0 HOST, 1 REPLY, 2 FIELD, 3 TRDP, 4 LIFELINE. -/
def State.ctxSrc (s : State) (d c : Nat) : Nat := fld (s.cw d c 0) 27 3
def State.ctxFront (s : State) (d c : Nat) : Nat := fld (s.cw d c 3) 19 1
def State.ctxAge (s : State) (d c : Nat) : Nat := fld (s.cw d c 3) 0 16
def State.ctxState (s : State) (d c : Nat) : Nat := fld (s.cw d c 3) 16 3

/-- Units of one buffer of `len` data bytes (R241). -/
def bufUnits (len : Nat) : Nat := (8 + len + 63) / 64

/-- The device address of buffer `k` of a context. -/
def State.bufAddr (s : State) (d c k : Nat) : Nat := win d ((fld (s.cw d c 1) 0 16 + k * bufUnits (s.ctxLen d c)) * 64)

/-- What a context holds beside its entry. -/
def State.info (s : State) (d c : Nat) : CtxInfo := (Assoc.get s.dk.ctx (d * 65536 + c)).getD CtxInfo.init

def State.setInfo (s : State) (d c : Nat) (i : CtxInfo) : State :=
  { s with dk := { s.dk with ctx := Assoc.put s.dk.ctx (d * 65536 + c) i } }

/-! ## Strands as bytes (R242) -/

/-- A 16-bit number in network byte order. -/
def be16 (n : Nat) : List Byte := [BitVec.ofNat 8 (n / 0x100), BitVec.ofNat 8 n]

/-- The bytes of a strand. -/
def strandBytes (t : Strand) : List Byte :=
  be16 (t.state.toNat * 0x2000 + t.dsid.toNat) ++ be16 (t.reason.toNat * 0x800 + t.data.length % 0x800) ++ be16 t.age.toNat
    ++ be16 t.seq.toNat ++ t.data

/-- The SEQ field of a buffer's header. -/
def State.bufSeq (s : State) (a : Nat) : Nat := (s.tb (a + 6)).toNat * 0x100 + (s.tb (a + 7)).toNat

/-! ## Notifications (R267) -/

/-- A notification is queued, or dropped where the queue is full. -/
def State.notify (s : State) (d c kind : Nat) : State :=
  if bit (s.cw d c 0) 31 then
    let n := (s.dk.ntf.filter (·.1 == d)).length
    if 256 ≤ n then (s.countF (dsk d DSK_NTF_CNT) 16 16).raise (dsk d 0) 1
    else
      let w := setFld (setFld (setFld (setFld 0 0 13 (fld (s.cw d c 0) 0 13)) 13 3 (s.ctxState d c)) 16 1 kind) 31 1 1
      let t := { s with dk := { s.dk with ntf := s.dk.ntf ++ [(d, w)] } }
      ((t.wrF (dsk d DSK_NTF_CNT) 0 9 (n + 1)).raise (dsk d 0) 0).when (n == 0) fun u => u.edge (d * 1024 + 0x341)
  else s

/-! ## Staleness and views (R248 to R250) -/

/-- A context is stale (R249). -/
def State.ctxStale (s : State) (d c : Nat) : Bool :=
  let i := s.info d c
  !i.ever || decide (atLeast1 (fld (s.cw d c 1) 16 8) < s.ctxAge d c) || i.last != 1 || i.missed

/-- The state that readers see (R250): 0 EMPTY, 1 VALID, 2 STALE, 3 ZEROED, 4 NULL. -/
def State.ctxView (s : State) (d c : Nat) : Nat :=
  let i := s.info d c
  if i.nullShown then 4
  else if !i.ever then 0
  else if !s.ctxStale d c then 1
  else if bit (s.cw d c 0) 30 ∧ fld (s.cw d c 1) 24 4 ≤ fld (s.cw d c 3) 28 4 then 3
  else 2

/-- STATE of a context follows its view, with a notification at a change; staleness that begins is counted (R444). -/
def State.refresh (s : State) (d c : Nat) : State :=
  let st := s.ctxStale d c
  let was := (s.info d c).stale
  let s1 := if st && !was then s.statBy (dataCtr d c 1) 1 else s
  let s2 := if st then s1 else s1.setTwF (ctxWord d c 3) 28 4 0
  let s3 := s2.setInfo d c { s2.info d c with stale := st }
  let v := s3.ctxView d c
  if v = s3.ctxState d c then s3 else (s3.setTwF (ctxWord d c 3) 16 3 v).notify d c 1

/-- The strand that readers take from a context (R250). -/
def State.strandView (s : State) (d c : Nat) : Strand :=
  let a := s.bufAddr d c (s.ctxFront d c)
  let v := s.ctxView d c
  { state := BitVec.ofNat 3 v, dsid := BitVec.ofNat 13 (fld (s.cw d c 0) 0 13)
    reason := if v = 4 then (s.info d c).reason else 0
    age := BitVec.ofNat 16 (s.ctxAge d c), seq := BitVec.ofNat 16 (s.bufSeq a)
    data := if v = 1 ∨ v = 2 then s.tbs (a + 8) (s.ctxLen d c) else if v = 3 then List.replicate (s.ctxLen d c) 0 else [] }

/-- An EMPTY strand of a dataset that has no context (R251). -/
def emptyStrand (id : Nat) : Strand := { state := 0, dsid := BitVec.ofNat 13 id, reason := 0, age := 0, seq := 0, data := [] }

/-! ## Commits and flips (R244, R245) -/

/-- The front buffer of a context becomes the other one (R245, R247). -/
def State.turnFront (s : State) (d c : Nat) : State :=
  let w := s.cw d c 3
  s.setTw (ctxWord d c 3) (setFld (setFld w 19 1 (1 - fld w 19 1)) 20 8 (fld w 20 8 + 1))

/-- New data are in the front buffer: the context is VALID, and its commit is reported. -/
def State.madeValid (s : State) (d c : Nat) : State :=
  let i := s.info d c
  ((s.setInfo d c { i with last := 1, reason := 0, missed := false, nullShown := false, ever := true }).refresh d c).notify d c 0

/-- A null strand takes effect in a context: the state changes, the data stay (R244, R249). -/
def State.madeNull (s : State) (d c : Nat) (st : BitVec 3) (reason : BitVec 5) : State :=
  (s.setInfo d c { s.info d c with last := st, reason := reason, nullShown := st == 4 }).refresh d c

/-- The header of new data in the back buffer (R244). -/
def State.backHeader (s : State) (d c : Nat) : State :=
  let front := s.bufAddr d c (s.ctxFront d c)
  let back := s.bufAddr d c (1 - s.ctxFront d c)
  s.setTbs back (be16 (0x2000 + fld (s.cw d c 0) 0 13) ++ be16 (s.ctxLen d c) ++ be16 0 ++ be16 (s.bufSeq front + 1))

/-- A flip is due 1 µs after the commit; a later commit before it replaces it. -/
def State.putFlip (s : State) (f : Flip) : State :=
  { s with dk := { s.dk with flips := s.dk.flips.filter (fun g => !(g.die == f.die && g.ctx == f.ctx)) ++ [f] } }

/-- A PRODUCE context commits the data in its back buffer (R244, R248). -/
def State.commitBack (s : State) (d c : Nat) : State :=
  ((((s.backHeader d c).setTwF (ctxWord d c 3) 0 16 0).statBy (dataCtr d c 0) 1).noteCtx d c).putFlip { die := d, ctx := c, null := none, due := s.st d + 1000 }

/-- A PRODUCE context commits new data (R244). -/
def State.commitData (s : State) (d c : Nat) (data : List Byte) : State :=
  (s.setTbs (s.bufAddr d c (1 - s.ctxFront d c) + 8) data).commitBack d c

/-- A PRODUCE context commits a null strand (R162, R244).
(DEDUCED, log entry 35) -/
def State.commitNull (s : State) (d c : Nat) (reason : BitVec 5) : State :=
  (((s.setTwF (ctxWord d c 3) 0 16 0).statBy (dataCtr d c 2) 1).noteCtx d c).putFlip { die := d, ctx := c, null := some reason, due := s.st d + 1000 }

/-- The MIRROR context of a dataset on the other die (R240). -/
def State.mirrorOf (s : State) (d c : Nat) : Option Nat :=
  if s.part.twoDies then
    (s.ctxOf (1 - d) (fld (s.cw d c 0) 0 13)).filter fun m => s.ctxValid (1 - d) m && s.ctxRole (1 - d) m == 2
  else none

/-- One context takes a flip. -/
def State.flipOne (s : State) (d c : Nat) (null : Option (BitVec 5)) : State :=
  match null with
  | none => (s.turnFront d c).madeValid d c
  | some r => s.madeNull d c 4 r

/-- The mirror takes the same commit over the Komidon link, or the loss is counted (R245, R253). -/
def State.flipMirror (s : State) (d c : Nat) (null : Option (BitVec 5)) : State :=
  match s.mirrorOf d c with
  | none => s
  | some m =>
    if s.linkUp && s.dieUp (1 - d) then
      let bytes := s.tbs (s.bufAddr d c (s.ctxFront d c)) (8 + s.ctxLen d c)
      let t := if null.isNone then s.setTbs (s.bufAddr (1 - d) m (1 - s.ctxFront (1 - d) m)) bytes else s
      (t.setTwF (ctxWord (1 - d) m 3) 0 16 0).flipOne (1 - d) m null
    else (s.count (dsk d DSK_CNT_XDIE)).raise (dsk d 0) 7

/-- A pending flip is made, on this die and on the mirror at the same tick (R245). -/
def State.doFlip (s : State) (f : Flip) : State :=
  let t := { s with dk := { s.dk with flips := s.dk.flips.filter (· ≠ f) } }
  (t.flipOne f.die f.ctx f.null).flipMirror f.die f.ctx f.null

/-! ## Consuming a strand (R243, R249) -/

/-- LEN of a strand agrees with its state and the context (R243). -/
def State.lenOk (s : State) (d c : Nat) (t : Strand) : Bool :=
  if t.state = 1 ∨ t.state = 2 ∨ t.state = 3 then t.data.length == s.ctxLen d c
  else (t.state == 0 || t.state == 4) && t.data.isEmpty

/-- A strand reaches a CONSUME context. -/
def State.consume (s : State) (d c : Nat) (t : Strand) : State :=
  if !s.lenOk d c t then s.statBy (dataCtr d c 3) 1
  else if t.state = 1 then
    (if t.age.toNat ≤ atLeast1 (fld (s.cw d c 1) 16 8) then
      let s1 := (s.setTbs (s.bufAddr d c (1 - s.ctxFront d c)) (strandBytes t)).turnFront d c
      ((s1.setTwF (ctxWord d c 3) 0 16 t.age.toNat).statBy (dataCtr d c 0) 1).madeValid d c
    else s)
  else
    (s.when (t.state == 4) fun u => u.statBy (dataCtr d c 2) 1).madeNull d c t.state t.reason

/-- A strand of a skein is looked up on a die (R256): unmapped strands and other roles are skipped. -/
def State.unravelStrand (s : State) (d : Nat) (skein : BitVec 13) (t : Strand) : State :=
  match s.ctxOf d t.dsid.toNat with
  | none => s
  | some c =>
    if !s.ctxValid d c || s.ctxRole d c != 0 then s
    else
      let skn := fld (s.cw d c 2) 0 13
      if skn = skein.toNat ∨ skn = 0x1FFF then s.consume d c t
      else (s.count (dsk d DSK_CNT_FOREIGN)).raise (dsk d 0) 3

/-- The dies that take the strands of a skein whose recovery context is on die `r` (R257). -/
def State.dataDies (s : State) (r : Nat) : List Nat :=
  if s.part.twoDies && s.linkUp && s.dieUp (1 - r) then [r, 1 - r] else [r]

/-- An accepted skein is unravelled (R256). -/
def State.unravel (s : State) (r : Nat) (skein : BitVec 13) (l : List Strand) : State :=
  s.each (fun d t => t.each (fun x u => u.unravelStrand d skein x) l) (s.dataDies r)

/-- The contexts of a die whose entry is in use: a VALID entry has its top byte of word 0 listed. -/
def State.ctxs (s : State) (d : Nat) : List Nat :=
  ((s.tbl.filter fun e => decide (ctxWord d 0 0 ≤ e.1 ∧ e.1 < ctxWord d 4096 0) && e.1 % 16 == 3).map
    fun e => (e.1 - ctxWord d 0 0) / 16).filter fun c => s.ctxValid d c

/-- The image store units that the contexts of a die own: two buffers each (R241, R267). -/
def State.storeUnits (s : State) (d : Nat) : Nat := (s.ctxs d).foldl (fun n c => n + 2 * bufUnits (s.ctxLen d c)) 0

/-- The CONSUME contexts of a die that expect a skein. -/
def State.expecting (s : State) (d skein : Nat) : List Nat :=
  (s.ctxs d).filter fun c => s.ctxRole d c == 0 && fld (s.cw d c 2) 0 13 == skein

/-- The strands of a skein that was missed or arrived as a NULL are marked stale on some dies (R118, R256). -/
def State.markStale (s : State) (skein : Nat) (ds : List Nat) : State :=
  s.each (fun d t => t.each (fun c u => (u.setInfo d c { u.info d c with missed := true }).refresh d c) (t.expecting d skein)) ds

/-- This node consumes strands of a skein. -/
def State.consumes (s : State) (skein : Nat) : Bool := s.dies.any fun d => !(s.expecting d skein).isEmpty

/-- At a row boundary every context ages by one row, and the views move on (R248, R250).
(DEDUCED, log entry 35) -/
def State.ageCtx (s : State) (d c : Nat) : State :=
  let w := s.cw d c 3
  let run := fld w 28 4
  let w1 := if (s.info d c).stale && run < 15 then setFld w 28 4 (run + 1) else w
  let age := fld w 0 16
  let s1 := s.setTw (ctxWord d c 3) (if age < 0xFFFF then setFld w1 0 16 (age + 1) else w1)
  (s1.setInfo d c { s1.info d c with nullShown := false }).refresh d c

/-- Every context of a die ages. -/
def State.ageDie (s : State) (d : Nat) : State := s.each (fun c t => t.ageCtx d c) (s.ctxs d)

/-- Every context of every die ages. -/
def State.ageAll (s : State) : State := s.each (fun d t => t.ageDie d) s.dies

/-! ## 802.1CB recovery (R259, R260) -/

def State.recInfo (s : State) (d i : Nat) : RecInfo := (Assoc.get s.dk.recov (d * 65536 + i)).getD RecInfo.init

def State.setRecInfo (s : State) (d i : Nat) (x : RecInfo) : State :=
  { s with dk := { s.dk with recov := Assoc.put s.dk.recov (d * 65536 + i) x } }

/-- TAKE_ANY of a recovery context is set (R260).
(DEDUCED, log entry 35) -/
def State.takeAny (s : State) (d i : Nat) : State := (s.setTwF (recWord d i 1) 16 1 1).raise (dsk d 0) 4

/-- A copy of sequence `q` is accepted with a new window. -/
def State.recAccept (s : State) (d i q hist : Nat) : State :=
  let s1 := s.setTw (recWord d i 1) (wordOf q)
  (s1.setTw (recWord d i 2) (s1.st d)).setRecInfo d i { s1.recInfo d i with hist := hist, acc := true }

/-- The vector recovery of R259: whether a copy is accepted. -/
def State.recover (s : State) (d i : Nat) (q : BitVec 16) : State × Bool :=
  if !s.rdB (dsk d DSK_CFG) 0 || !bit (s.tw (recWord d i 0)) 15 then (s, false)
  else
    let w := s.tw (recWord d i 1)
    let r := { s.recInfo d i with came := true }
    let t := s.setRecInfo d i r
    let n := clampTo 2 128 (s.twF (recWord d i 0) 16 8)
    let delta : Int := (q - BitVec.ofNat 16 (fld w 0 16)).toInt
    if bit w 16 then (t.recAccept d i q.toNat 1, true)
    else if 0 < delta ∧ delta < n then (t.recAccept d i q.toNat ((r.hist * 2 ^ delta.toNat + 1) % 2 ^ n), true)
    else if delta ≤ 0 ∧ -(n : Int) < delta then
      let k := delta.natAbs
      if r.hist / 2 ^ k % 2 = 1 then ((t.count (dsk d DSK_CNT_DUP)).setRecInfo d i { r with dup := true }, false)
      else (t.recAccept d i (fld w 0 16) (r.hist + 2 ^ k), true)
    else ((t.count (dsk d DSK_CNT_ROGUE)).setRecInfo d i { r with rogue := true }, false)

/-- A copy that arrived on die `k` reaches the recovery context of its skein (R257). -/
def State.recoverOn (s : State) (k : Nat) (skein : BitVec 13) (q : BitVec 16) : State × Option Nat :=
  match s.recOf k skein.toNat with
  | none => (s, none)
  | some (d, i) =>
    if d = k ∨ (s.linkUp && s.dieUp d) then
      (match s.recover d i q with
      | (t, true) => (t, some d)
      | (t, false) => (t, none))
    else (s, none)

/-- The recovery contexts of a die in use. -/
def State.recsUsed (s : State) (d : Nat) : List Nat :=
  ((s.tbl.filter fun e => decide (recWord d 0 0 ≤ e.1 ∧ e.1 < recWord d 1024 0) && e.1 % 16 == 1).map
    fun e => (e.1 - recWord d 0 0) / 16).filter fun i => bit (s.tw (recWord d i 0)) 15

/-- TAKE_ANY is set in every recovery context in use, and the generators start at 0, on entry to CAST-ON (R258, R260). -/
@[noinline] def State.resetStreams (s : State) : State :=
  let s1 := s.each (fun d t => t.each (fun i u => u.takeAny d i) (t.recsUsed d)) s.dies
  { s1 with dk := { s1.dk with gens := [] } }

/-! ## Knitting (R251 to R255) -/

/-- The row in which the engine works without rows (R265). -/
def State.cmpMode (s : State) : Bool := !s.rdB (ina INA_CFG) 1

/-- The produced-skein entry of a stitch on a die: by skein ID for a SKEIN, by grant order for a claimed SPARE (R251). -/
def State.prodEntry (s : State) (d sid : Nat) (e : Stitch) : Option Nat :=
  let b := s.bankOf d
  let inUse := (List.range 16).filter fun i => bit (s.tw (prodWord d b i 0)) 15
  if e.kind = kSkein then inUse.find? fun i => !bit (s.tw (prodWord d b i 0)) 16 && s.twF (prodWord d b i 0) 0 13 == e.ident
  else
    let spares := inUse.filter fun i => bit (s.tw (prodWord d b i 0)) 16
    let k := s.tp.own.findIdx (· == sid)
    spares[k]?

/-- The strands of a produced skein as they stand (R251, R252). -/
def State.strands (s : State) (d i : Nat) : List Strand :=
  let b := s.bankOf d
  let first := s.twF (prodWord d b i 1) 0 12
  (List.range (s.twF (prodWord d b i 1) 16 9)).map fun k =>
    let id := s.th (strandListAddr d b (first + k)) % 8192
    match s.ctxOf d id with
    | some c => if s.ctxValid d c && s.ctxRole d c != 0 then s.strandView d c else emptyStrand id
    | none => emptyStrand id

/-- The knitter works: DSK_CFG.EN, rows, and not in STANDBY (R255, R265). -/
def State.knits (s : State) (d : Nat) : Bool := s.dieUp d && s.rdB (dsk d DSK_CFG) 0 && !s.cmpMode && s.mode != .standby

/-- One die knits its copy of the skein of a stitch. -/
def State.knitOn (s : State) (row : Word) (sid : Nat) (e : Stitch) (d : Nat) : State :=
  match s.prodEntry d sid e with
  | none => s
  | some i =>
    let k : Knit := { die := d, row := row, sid := sid, skein := BitVec.ofNat 13 (s.twF (prodWord d (s.bankOf d) i 0) 0 13)
                      need := s.need, strands := s.strands d i }
    s.when (s.knits d) fun t =>
      { t with dk := { t.dk with knits := t.dk.knits.filter (fun x => !(x.die == d && x.sid == sid)) ++ [k] } }

/-- The knit of a stitch on a die. -/
def State.knitOf (s : State) (row : Word) (sid d : Nat) : Option Knit :=
  s.dk.knits.find? fun k => k.die == d && k.row == row && k.sid == sid

/-- The sequence generator of a stitch's skein on a die (R258). -/
def State.gen (s : State) (d sid : Nat) (e : Stitch) : Nat :=
  match s.prodEntry d sid e with
  | some i => (Assoc.get s.dk.gens (d * 65536 + i)).getD 0
  | none => 0

/-- The generator of a stitch's skein on a die advances by one (R258). -/
def State.advGen (s : State) (d sid : Nat) (e : Stitch) : State :=
  match s.prodEntry d sid e with
  | some i => ({ s with dk := { s.dk with gens := Assoc.put s.dk.gens (d * 65536 + i) ((s.gen d sid e + 1) % 65536) } }).noteSeq d 0 i
  | none => s

end Sys2Proof.Machine
end

