-- ==== Sys2Proof/Machine/Tables.lean ====
section
/-! DEFINITION. The banked tables (R214, R215): the node list, the directory, the translation table, and the copies between
banks that reseeding makes (R222, R228). -/

namespace Sys2Proof.Machine

/-! ## Table windows of the INA and FWD blocks (R213, R294) -/

def nodeAddr (b n : Nat) : Nat := win 0 (0x0B00000 + b * 0x800 + n * 32)
def renumAddr (b i : Nat) : Nat := win 0 (0x0B01000 + b * 0x40 + i)
def nbrAddr (i : Nat) : Nat := win 0 (0x0B01100 + i * 16)
def expectAddr (i : Nat) : Nat := win 0 (0x0B02000 + i * 16)
def dirWord (d i k : Nat) : Nat := win d (0x0800000 + i * 16 + k * 4)
def xltWord (d i k : Nat) : Nat := win d (0x0900000 + i * 16 + k * 4)
def vlanWord (d v k : Nat) : Nat := win d (0x0940000 + v * 16 + k * 4)
def arpWord (d i k : Nat) : Nat := win d (0x0950000 + i * 16 + k * 4)

/-- A UID in a table, least significant byte first.
(DEDUCED, log entry 44) -/
def State.tuid (s : State) (a : Nat) : Uid := BitVec.ofNat 64 ((s.tw a).toNat + (s.tw (a + 4)).toNat * 2 ^ 32)

/-- A UID written to a table.
(DEDUCED, log entry 44) -/
def State.setTuid (s : State) (a : Nat) (u : Uid) : State := (s.setTw a (wordOf u.toNat)).setTw (a + 4) (wordOf (u.toNat / 2 ^ 32))

/-! ## Copies -/

/-- A range of a table window cleared to 0. -/
@[noinline] def State.clearWin (s : State) (a n : Nat) : State := { s with tbl := Sparse.drop (fun k => decide (a ≤ k ∧ k < a + n)) s.tbl }

/-- A range of a table window copied to another. -/
@[noinline] def State.copyWin (s : State) (src dst n : Nat) : State :=
  let l := s.tbl.filter fun e => decide (src ≤ e.1 ∧ e.1 < src + n)
  (s.clearWin dst n).each (fun e t => t.setTb (e.1 - src + dst) e.2) l

/-- The listed entries of a table of 16-byte entries whose byte `k` is not 0. -/
def State.entriesIn (s : State) (a n k : Nat) : List Nat :=
  (s.tbl.filter fun e => decide (a ≤ e.1 ∧ e.1 < a + n * 16) && (e.1 - a) % 16 == k).map fun e => (e.1 - a) / 16

/-! ## The node list (R198, R213) -/

/-- The nodes of a bank's list: numbers 1 to 63 whose UID is not 0. -/
def State.nodes (s : State) (b : Nat) : List (Nat × Uid) :=
  ((List.range 64).map fun n => (n, s.tuid (nodeAddr b n))).filter fun e => e.1 != 0 && e.2 != 0

/-- The number of a UID in a bank's list, 0 if it is not there. -/
def State.numOf (s : State) (b : Nat) (u : Uid) : Nat :=
  match (s.nodes b).find? (·.2 == u) with
  | some e => e.1
  | none => 0

/-- The renumber map of a bank: the new number of a previous one (R200). -/
def State.renum (s : State) (b i : Nat) : Nat := (s.tb (renumAddr b i)).toNat

/-- The expected node list: UID and compiled number (R213). -/
def State.expected (s : State) : List (Uid × Nat) :=
  ((List.range 63).map fun i => (s.tuid (expectAddr i), (s.tb (expectAddr i + 8)).toNat)).filter (·.1 != 0)

/-! ## Reseeding (R222, R228) -/

/-- Bit `to` of a field takes the value of bit `of`. -/
def copyBit (w : Word) (src dst : Nat) : Word := setBit w dst (bit w src)

/-- The shadow bit of every directory and translation entry is set equal to its active bit. -/
def State.reseedBits (s : State) (d b : Nat) : State :=
  let s1 := s.each (fun i t => t.setTw (dirWord d i 2) (copyBit (t.tw (dirWord d i 2)) (16 + b) (16 + (1 - b))))
    (s.entriesIn (dirWord d 0 0) 65536 10)
  s1.each (fun i t => t.setTw (xltWord d i 2) (copyBit (t.tw (xltWord d i 2)) (12 + b) (12 + (1 - b))))
    (s1.entriesIn (xltWord d 0 0) 16384 9)

/-- The shadow dataset maps, produced-skein tables, strand lists and consumed-skein maps of a die are copied from the active
bank. -/
def State.reseedData (s : State) (d b : Nat) : State :=
  let c := fun (base len : Nat) (t : State) => t.copyWin (win d (base + b * len)) (win d (base + (1 - b) * len)) len
  c 0x424000 0x4000 (c 0x420000 0x2000 (c 0x418000 0x100 (c 0x410000 0x4000 s)))

/-- The shadow maps, overlays and node list are copied from the active bank (R222, R228). -/
@[noinline] def State.reseedMaps (s : State) : State :=
  let b := s.actBank
  let s1 := s.wr (mapReg (1 - b)) (s.rd (mapReg b))
  let s2 := (s1.copyWin (overlayAddr b 0 0) (overlayAddr (1 - b) 0 0) 0x8000).copyWin (nodeAddr b 0) (nodeAddr (1 - b) 0) 0x800
  let s3 := s2.each (fun d t => t.reseedData d b) s2.dies
  s3.wrB (sch 0 SCH_BLK_STAT) 2 true

/-- The whole shadow is reseeded from the active bank (R222). -/
def State.reseed (s : State) : State :=
  let t := s.reseedMaps
  t.each (fun d u => u.reseedBits d s.actBank) t.dies

/-- Entries whose only membership bit is that of the bank `o` are freed (R228). -/
def State.freeOld (s : State) (d o : Nat) : State :=
  let s1 := s.each (fun i t =>
    t.when (bit (t.tw (dirWord d i 2)) (16 + o) && !bit (t.tw (dirWord d i 2)) (16 + (1 - o))) fun u => u.clearWin (dirWord d i 0) 16)
    (s.entriesIn (dirWord d 0 0) 65536 10)
  s1.each (fun i t =>
    t.when (bit (t.tw (xltWord d i 2)) (12 + o) && !bit (t.tw (xltWord d i 2)) (12 + (1 - o))) fun u => u.clearWin (xltWord d i 0) 16)
    (s1.entriesIn (xltWord d 0 0) 16384 9)

/-! ## Directory and translation entries (R217, R220) -/

/-- The directory key of an entry: a MAC with its VID, or an IPv4 train address. -/
inductive DirKey where
  | mac (vid : BitVec 12) (m : Mac)
  | ip (a : Word)
  deriving DecidableEq, Repr

/-- The bucket of a directory key: bits [13:0] of its CRC32 (R217).
(DESIGN CHOICE, log entry 5) -/
def dirBucket : DirKey → Nat
  | .mac v m => (crc32 (Config.macKey v m)).toNat % 16384
  | .ip a => (crc32 (Config.ipKey a)).toNat % 16384

/-- An entry of the directory holds a key. -/
def State.dirHolds (s : State) (d i : Nat) : DirKey → Bool
  | .mac v m => s.twF (dirWord d i 1) 28 2 == 1 && (s.tw (dirWord d i 0)).toNat == m.toNat % 2 ^ 32
      && s.twF (dirWord d i 1) 0 16 == m.toNat / 2 ^ 32 && s.twF (dirWord d i 1) 16 12 == v.toNat
  | .ip a => s.twF (dirWord d i 1) 28 2 == 2 && s.tw (dirWord d i 0) == a

/-- The entry of a key in a bank, in its bucket of 4 ways. -/
def State.dirFind (s : State) (d b : Nat) (k : DirKey) : Option Nat :=
  ((List.range 4).map (4 * dirBucket k + ·)).find? fun i => s.dirHolds d i k && bit (s.tw (dirWord d i 2)) (16 + b)

/-- A free entry in the bucket of a key. -/
def State.dirFree (s : State) (d : Nat) (k : DirKey) : Option Nat :=
  ((List.range 4).map (4 * dirBucket k + ·)).find? fun i => s.twF (dirWord d i 1) 28 2 == 0

/-- An entry written with its key and word 2. -/
def State.dirWrite (s : State) (d i : Nat) (k : DirKey) (w2 : Word) : State :=
  match k with
  | .mac v m => (((s.setTw (dirWord d i 0) (wordOf m.toNat)).setTw (dirWord d i 1)
      (setFld (setFld (setFld 0 0 16 (m.toNat / 2 ^ 32)) 16 12 v.toNat) 28 2 1)).setTw (dirWord d i 2) w2).setTw (dirWord d i 3) 0
  | .ip a => (((s.setTw (dirWord d i 0) a).setTw (dirWord d i 1) (setFld 0 28 2 2)).setTw (dirWord d i 2) w2).setTw (dirWord d i 3) 0

/-- The AGE of entry `i` counts on from now (R217). -/
def State.ageFrom (s : State) (d i : Nat) : State :=
  { s with fw := { s.fw with hits := Assoc.put s.fw.hits (d * 65536 + i) s.now } }

/-- The AGE of directory entry `i` of die `d`: of a learned entry the seconds since its last hit; else as it is stored (R217). -/
def State.dirAge (s : State) (d i : Nat) : Nat :=
  let n := s.twF (dirWord d i 3) 0 16
  if bit (s.tw (dirWord d i 2)) 15 then
    match Assoc.get s.fw.hits (d * 65536 + i) with
    | some x => min 0xFFFF (n + (s.now - x) / nsPerSec)
    | none => n
  else n

/-- The instant at which the AGE of entry `i` reaches FWD_DIR_CFG.AGE, which acts as 1 s at least (R218). -/
def State.ageEnd (s : State) (d i : Nat) : Nat :=
  match Assoc.get s.fw.hits (d * 65536 + i) with
  | some x => x + (atLeast1 (s.rdF (fwd d FWD_DIR_CFG) 16 16) - s.twF (dirWord d i 3) 0 16) * nsPerSec
  | none => s.now

/-- A word of a table window as it is read: AGE of a directory entry follows the time. -/
def State.winWord (s : State) (a : Nat) : Word :=
  let d := dieOf a
  if dirWord d 0 0 ≤ a ∧ a < dirWord d 65536 0 ∧ a % 16 = 12 then setFld (s.tw a) 0 16 (s.dirAge d ((a - dirWord d 0 0) / 16)) else s.tw a

/-- The key of a directory entry. -/
def State.dirKey (s : State) (d i : Nat) : DirKey :=
  if s.twF (dirWord d i 1) 28 2 = 2 then .ip (s.tw (dirWord d i 0))
  else .mac (BitVec.ofNat 12 (s.twF (dirWord d i 1) 16 12))
    (BitVec.ofNat 48 (s.twF (dirWord d i 1) 0 16 * 2 ^ 32 + (s.tw (dirWord d i 0)).toNat))

/-- The directory entries in use, and FWD_DIR_STAT (R237). -/
def State.dirUsed (s : State) (d : Nat) : Nat :=
  (s.entriesIn (dirWord d 0 0) 65536 7).countP fun i => s.twF (dirWord d i 1) 28 2 != 0

/-- FWD_DIR_STAT and FWD_XLT_STAT follow the tables. -/
@[noinline] def State.evalTables (s : State) (d : Nat) : State :=
  let n := s.dirUsed d
  let x := (s.entriesIn (xltWord d 0 0) 16384 9).countP fun i => s.twF (xltWord d i 2) 12 2 != 0
  let s1 := (s.wrF (fwd d FWD_DIR_STAT) 0 17 n).wrB (fwd d FWD_DIR_STAT) 31 (n == 65536)
  (s1.wrF (fwd d FWD_XLT_STAT) 0 15 x).wrB (fwd d FWD_XLT_STAT) 15 (s1.stitchNum != 0)

/-- Every LEARNED entry of a die is removed (R224, R237). -/
def State.flushLearned (s : State) (d : Nat) : State :=
  s.each (fun i t => t.when (bit (t.tw (dirWord d i 2)) 15) fun u => u.clearWin (dirWord d i 0) 16) (s.entriesIn (dirWord d 0 0) 65536 9)

/-- The number of bits by which a node's number is shifted into a train address (R219). -/
def State.nsh (s : State) (d : Nat) : Nat := s.rdF (fwd d FWD_XLT_CFG) 8 5

/-- A train address: base, node number and host bits (R219). -/
def State.trainAddr (s : State) (d num : Nat) (loc : Word) : Word :=
  let sh := s.nsh d
  (s.rd (fwd d FWD_XLT_TRN_BASE) &&& ~~~(wordOf (0x3F * 2 ^ sh))) ||| wordOf (num * 2 ^ sh) ||| (loc &&& s.rd (fwd d FWD_XLT_HOST_MASK))

/-- An IPv4 directory key rebuilt with another node number (R223). -/
def State.rekey (s : State) (d num : Nat) : DirKey → DirKey
  | .mac v m => .mac v m
  | .ip a => .ip ((a &&& ~~~(wordOf (0x3F * 2 ^ s.nsh d))) ||| wordOf (num * 2 ^ s.nsh d))

end Sys2Proof.Machine
end

