-- ==== Sys2Proof/Machine/Turns.lean ====
section
/-! DEFINITION. The turn logic's shared operations: setting and clearing turns (R304, R305), the known-fault table and notices
(R306, R307), splits (R309), and the mode between RUNNING and HEALING (R42). -/

namespace Sys2Proof.Machine

/-! ## Ports of a side -/

/-- The ports of a side: lines A and B. -/
def sidePorts (pt : Part) (side : Nat) : List Nat := [backbonePort pt 0 side, backbonePort pt 1 side]

/-- The index of a backbone port: 2 × line + side. -/
def portIdx (pt : Part) (p : Nat) : Nat := 2 * portLine pt p + portSide p

/-- The dies of a side's ports. -/
def sideDies (pt : Part) : List Nat := if pt.twoDies then [0, 1] else [0]

/-! ## The mode (R42) -/

/-- A fault turn is set: on one line of a side, or on each port of an end side without the Komidon link (R312). -/
def State.faultTurn (s : State) : Bool :=
  (backbonePorts s.part).any fun p => s.turnAt p == .fault

/-- RUNNING goes to HEALING while a fault turn is set or a segment resync runs (R42). -/
@[noinline] def State.toHealing (s : State) : State :=
  if s.mode = .running ∧ (s.faultTurn || s.sc.hold) then s.setMode .healing .faultTurn else s

/-- HEALING ends at a row boundary without fault turn and resync (R42). -/
def State.fromHealing (s : State) : State :=
  if s.mode = .healing ∧ !s.faultTurn ∧ !s.sc.hold then s.setMode .running .ringWhole else s

/-! ## Setting and clearing turns (R304, R305, R314) -/

/-- A turn event of the pages of a side's dies. -/
def State.raiseTurn (s : State) (ports : List Nat) (i : Nat) : State :=
  s.each (fun d t => t.raise (rng d 0) i) ((List.range 2).filter fun d => ports.any fun p => p / 32 == d)

/-- The code of a side is written, with the ST of the change (R305). -/
def State.wrSide (s : State) (side code : Nat) : State :=
  (s.wrF (rng 0 RNG_STAT) (4 * side) 3 code).wr (rng 0 RNG_TURN_ST) (s.st 0)

/-- A turn set on some ports is told and counted, with its ST (R305, R443). -/
def State.countTurn (s : State) (ports : List Nat) : State :=
  let s1 := (s.wr (rng 0 RNG_TURN_ST) (s.st 0)).raiseTurn ports 0
  let s2 := s1.each (fun d t => t.count (rng d RNG_CNT_TURN)) ((List.range 2).filter fun d => ports.any fun p => p / 32 == d)
  s2.each (fun p t => t.pst p 47) ports

/-- A turn is set: the counters, events and the path change that follow (R90, R304, R305). -/
@[noinline] def State.setTurn (s : State) (side code : Nat) (ports : List Nat) : State :=
  (((s.wrSide side code).countTurn ports).pathChange ports).toHealing

/-- A turn is cleared. -/
@[noinline] def State.clrTurn (s : State) (side : Nat) (ports : List Nat) : State :=
  ((s.wrSide side 0).raiseTurn ports 1).pathChange ports

/-- An end turn is set on a side, unless it holds one already (R305). -/
@[noinline] def State.setEnd (s : State) (side : Nat) : State :=
  if s.sideCode side = 1 ∨ s.sideCode side = 2 then s else s.setTurn side 1 (sidePorts s.part side)

/-! ## The known-fault table (R307, R314) -/

/-- Entry `k` of the known-fault table holds a reporter's side. -/
def State.knownHas (s : State) (rep side k : Nat) : Bool :=
  let w := s.rd (rng 0 (RNG_KNOWN k))
  bit w 16 && fld w 0 6 == rep && fld w 18 1 == side

/-- KNOWN and HEAL follow the table. -/
@[noinline] def State.evalKnown (s : State) : State :=
  let n := (List.range 8).countP fun k => s.rdB (rng 0 (RNG_KNOWN k)) 16
  (s.wrF (rng 0 RNG_STAT) 16 4 n).wrB (rng 0 RNG_STAT) 8 (n != 0)

/-- An entry of a reporter's side is added or refreshed; a full table drops it (R307). -/
def State.addKnown (s : State) (rep side far line : Nat) (isSplit own : Bool) : State :=
  let k := match (List.range 8).find? (s.knownHas rep side) with
    | some k => some k
    | none => (List.range 8).find? fun k => !s.rdB (rng 0 (RNG_KNOWN k)) 16
  match k with
  | none => s.raise (rng 0 0) 6
  | some k =>
    let w := wordOf (rep % 64 + far % 64 * 2 ^ 8 + line % 2 * 2 ^ 14 + b2n isSplit * 2 ^ 15 + 2 ^ 16 + b2n own * 2 ^ 17 + side % 2 * 2 ^ 18)
    ((s.wr (rng 0 (RNG_KNOWN k)) w).wr (rng 0 (RNG_KNOWN_ST k)) (s.st 0)).evalKnown

/-- The entries that satisfy a condition on their word are removed. -/
@[noinline] def State.dropKnown (s : State) (p : Word → Bool) : State :=
  (s.each (fun k t => t.when (p (t.rd (rng 0 (RNG_KNOWN k)))) fun u => (u.wr (rng 0 (RNG_KNOWN k)) 0).wr (rng 0 (RNG_KNOWN_ST k)) 0)
    (List.range 8)).evalKnown

/-- The entry of a reporter's side is removed. -/
def State.delKnown (s : State) (rep side : Nat) : State :=
  s.dropKnown fun w => bit w 16 && fld w 0 6 == rep && fld w 18 1 == side

/-- Another fault turn or split is known beside a side's own (R309, R311). -/
def State.otherKnown (s : State) (side : Nat) : Bool :=
  (List.range 8).any fun k =>
    let w := s.rd (rng 0 (RNG_KNOWN k))
    bit w 16 && !(bit w 17 && fld w 18 1 == side)

/-! ## Notices (R306) -/

/-- The number of the neighbour of a side before the event, 0 if unknown. -/
def State.farOf (s : State) (side : Nat) : Nat := ((Assoc.get s.rg.before side).map (·.2)).getD 0

/-- A new notice is to be sent: a sequence one above the last, 3 times (R306). -/
def State.newNotice (s : State) (k : NoticeKind) (line side : Nat) : State :=
  let q := s.rdF (rng 0 RNG_NTC_SEQ) 0 16 + 1
  let n : Notice := { kind := k, line := line, side := side, far := BitVec.ofNat 6 (s.farOf side), seq := BitVec.ofNat 16 q, st := s.st 0, left := 3, row := 0 }
  let t := s.wrF (rng 0 RNG_NTC_SEQ) 0 16 q
  { t with rg := { t.rg with notices := t.rg.notices.filter (·.side != side) ++ [n] } }

/-- A notice for a side's turn still waits. -/
def State.noticePending (s : State) (side : Nat) : Bool := s.rg.pairWait.any fun e => portSide e.1 == side

/-! ## Splits (R309) -/

/-- A side becomes a split with an end turn. `second` is the case of another fault elsewhere in the train. The inauguration
engine sees an uncoupling, which the caller reports. -/
def State.makeSplit (s : State) (side : Nat) (second : Bool) : State :=
  if s.sideCode side = 2 then s
  else
    let ports := sidePorts s.part side
    let s1 := (s.setTurn side 2 ports).raise (rng 0 0) 2
    let s2 := s1.when second fun t => t.raise (rng 0 0) 4
    let s3 := s2.addKnown s2.num side (s2.farOf side) 0 true true
    if s3.noticePending side then s3 else s3.newNotice .split 0 side

/-! ## Fault turns (R303, R304) -/

/-- RNG_PAIR_T of a port's die in ns, 0 acting as 1 (R314). -/
def State.pairT (s : State) (p : Nat) : Nat := atLeast1 (s.rdF (rng (p / 32) RNG_PAIR_T) 0 8) * 1000

/-- RNG_RST_HOLD of a port's die in ns, 0 acting as 1 (R314). -/
def State.rstHold (s : State) (p : Nat) : Nat := atLeast1 (s.rdF (rng (p / 32) RNG_RST_HOLD) 0 16) * 1000000

/-- RNG_DET_T of a port's die in ns, from 1 to 16 µs (R314). -/
def State.detT (s : State) (p : Nat) : Nat := clampTo 1 16 (s.rdF (rng (p / 32) RNG_DET_T) 0 8) * 1000

/-- The line of a side's fault turn: 0, 1, or none. -/
def State.faultLine (s : State) (side : Nat) : Option Nat :=
  if s.sideCode side = 3 then some 0 else if s.sideCode side = 4 then some 1 else none

/-- A fault turn is set on a port (R304). -/
@[noinline] def State.setFault (s : State) (p : Nat) : State :=
  let side := portSide p
  let line := portLine s.part p
  let s1 := s.setTurn side (3 + line) [p]
  let s2 := s1.addKnown s1.num side (s1.farOf side) line false true
  { s2 with rg := { s2.rg with pairWait := Assoc.put s2.rg.pairWait p (s2.now + s2.pairT p) } }

/-- The port of a fault turn on a side. -/
def State.faultPort (s : State) (side : Nat) : Option Nat := (s.faultLine side).map fun l => backbonePort s.part l side

/-- A side's fault turn clears, with a notice of kind CLEAR (R306, R308).
(DEDUCED, log entry 45) -/
def State.clearFault (s : State) (side : Nat) : State :=
  match s.faultPort side with
  | none => s
  | some p =>
    let s1 := (s.clrTurn side [p]).delKnown s.num side
    let s2 := s1.newNotice .clear (portLine s.part p) side
    { s2 with rg := { s2.rg with pairWait := Assoc.del s2.rg.pairWait p } }

end Sys2Proof.Machine
end

