-- ==== Sys2Proof/Machine/Inaug.lean ====
section
/-! DEFINITION. The inauguration engine's shared operations: neighbours and sides (R193 to R197), the node list and its counter
(R198 to R201), changes and frogging (R203, R204), and agreement (R205). -/

namespace Sys2Proof.Machine

/-! ## Status (R212) -/

abbrev inaOff : Nat := 0
abbrev inaDiscover : Nat := 1
abbrev inaAgree : Nat := 2
abbrev inaCommit : Nat := 3
abbrev inaStable : Nat := 4
abbrev inaInhibited : Nat := 5

/-- INA_STAT.STATE. -/
def State.inaSt (s : State) : Nat := s.rdF (ina INA_STAT) 0 3

/-- The instants from which the engine's times count: the last HELLO of a port and the last one heard on it, the last own TOPOLOGY, the
start of the stable timer, the agreement of a node without rows, and the loss of both link and neighbour of a side (R189, R195, R196,
R203, R208). -/
abbrev helloMark (p : Nat) : Nat := tmr (ina INA_T_HELLO) p
abbrev heardMark (p : Nat) : Nat := tmr (ina INA_PORT) p
abbrev topoMark : Nat := tmr (ina INA_T_TOPO) 0
abbrev stableMark : Nat := tmr (ina INA_T_STABLE) 0
abbrev agreeMark : Nat := tmr (ina INA_BLK_CFG) 0
abbrev loneMark (side : Nat) : Nat := tmr (ina INA_STAT) side

/-- The state moves; the stable timer starts on entry to DISCOVER (R203), and STABLE ends the fast HELLOs of R197. -/
@[noinline] def State.setIna (s : State) (v : Nat) : State :=
  let t := s.wrF (ina INA_STAT) 0 3 v
  if v = inaDiscover then t.mark stableMark else if v = inaStable then t.disarm (tmr (ina INA_T_HELLO) 63) else t

/-- The intervals in force in units of 250 µs: slow in STABLE, but for the HELLOs of a pending coupling (R195) and after CPL_SNS has been
released (R197), and fast otherwise (R189). -/
def State.ivl (s : State) (a : Nat) (fast : Bool) : Nat := (if s.inaSt = inaStable ∧ !fast then s.rdF a 0 16 else s.rdF a 16 16) * 250 * us

/-- The HELLO interval in force in ns; one below 1 ms acts as 1 ms. -/
def State.helloIvl (s : State) : Nat :=
  max ms (s.ivl (ina INA_T_HELLO) (s.rdB (ina INA_STAT) 22 || (s.timer (tmr (ina INA_T_HELLO) 63)).isSome))

/-- The TOPOLOGY interval in force in ns. -/
def State.topoIvl (s : State) : Nat := s.ivl (ina INA_T_TOPO) false

/-- The HELLO timeout: TMO_N intervals. -/
def State.helloTmo (s : State) : Nat := max 2 (s.rdF (ina INA_CFG) 8 4) * s.helloIvl

/-- The stable timer: INA_T_STABLE, twice as long for each of up to three frogs in succession (R204). -/
def State.stableNs (s : State) : Nat := atLeast1 (s.rdF (ina INA_T_STABLE) 0 16) * ms * 2 ^ min (s.rdF (ina INA_STAT) 24 3) 3

/-- An event of the INA page. -/
@[noinline] def State.raiseIna (s : State) (i : Nat) : State := s.raise (ina 0) i

def State.frozen (s : State) : Bool := s.rdB (ina INA_STAT) 6
def State.chgPend (s : State) : Bool := s.rdB (ina INA_STAT) 5
def State.blockPend (s : State) : Bool := s.rdB (sch 0 SCH_STAT) 10

/-! ## Neighbours (R193) -/

/-- A port has a neighbour: its last HELLO was two-way and within the timeout; without the Komidon link die 1's ports have none
(R186). -/
def State.nbrOk (s : State) (p : Nat) : Bool :=
  (s.tb (nbrAddr (portIdx s.part p) + 8)).getLsbD 0 && (p < 32 || s.linkUp)

/-- The UID that a port reports. -/
def State.nbrUid (s : State) (p : Nat) : Uid := s.tuid (nbrAddr (portIdx s.part p))

/-- The neighbour of a side: line A's UID, else line B's (R193). -/
@[noinline] def State.sideUid (s : State) (side : Nat) : Option Uid :=
  let a := backbonePort s.part 0 side
  let b := backbonePort s.part 1 side
  if s.nbrOk a then some (s.nbrUid a) else if s.nbrOk b then some (s.nbrUid b) else none

/-- A side without a neighbour is an end side (R195). -/
@[noinline] def State.endSide (s : State) (side : Nat) : Bool := (s.sideUid side).isNone

/-- The number of a side's neighbour in the active list, 0 for none or an end turn (R131). -/
def State.nbrNum (s : State) (side : Nat) : Nat :=
  if s.sideCode side = 1 ∨ s.sideCode side = 2 then 0
  else match s.sideUid side with
    | some u => s.numOf s.actBank u
    | none => 0

/-- INA_PORT and SCH_NBR follow the neighbour table (R131, R212). -/
@[noinline] def State.evalNbr (s : State) : State :=
  let v := (backbonePorts s.part).foldl (fun n p => n + b2n (s.nbrOk p) * 2 ^ portIdx s.part p) 0
  let t := s.wrF (ina INA_PORT) 0 6 (v + b2n (s.endSide 0) * 16 + b2n (s.endSide 1) * 32)
  let n := wordOf (t.nbrNum 0 + t.nbrNum 1 * 256)
  (t.wr (sch 0 SCH_NBR) n).when t.die1On fun u => u.wr (sch 1 SCH_NBR) n

/-! ## Frogging (R204) -/

/-- The engine has written the shadow of this inauguration: it is in COMMIT, and does not wait for the end of a span (R228). -/
def State.ownsShadow (s : State) : Bool := s.inaSt == inaCommit && !s.tp.waitSpan

/-- The shadow content of an inauguration is discarded, and software owns the shadow again (R204, R225). The span of a blocking that is
not yet over keeps its old tables. -/
def State.dropShadow (s : State) : State :=
  let t := if s.ownsShadow then s.reseed.wrB (sch 0 SCH_BLK_STAT) 0 false else s
  let u := (((t.wr (ina INA_TOPO_SHD) 0).wrF (ina INA_STAT) 16 6 0).wrB (ina INA_STAT) 6 false).wrB (sch 0 SCH_YO_STAT) 4 false
  { u with
    tp := { u.tp with writing := false, complete := false, waitSpan := false, catchup := false, commitRows := 0, announced := false
                      heardFrozen := false, late := [], asked := none, lost := none, claims := [], reports := [], rounds := 0 }
    sc := { u.sc with grants := [] } }

/-- The engine frogs: it returns to the previous tables and to DISCOVER (R203, R204). -/
def State.frog (s : State) : State :=
  let k := min (s.rdF (ina INA_STAT) 24 3 + 1) 7
  let s1 := (((s.dropShadow).setIna inaDiscover).wrB (ina INA_STAT) 5 false).wrF (ina INA_STAT) 24 3 k
  let s2 := ((s1.countF (ina INA_CNT) 8 8).raiseIna 7).when (k == 3) fun t => t.raiseIna 8
  let s3 := s2.wrSchB SCH_STAT 10 false
  { s3 with tp := { s3.tp with dblFrog := true } }

/-! ## Changes (R203) -/

/-- A change of the topology as the state machine takes it. -/
def State.change (s : State) : State :=
  let t := s.raiseIna 0
  let t := { t with tp := { t.tp with reports := [], rounds := 0 } }
  if t.inaSt = inaAgree then t.frog
  else if t.inaSt = inaCommit then
    (if t.frozen then t.wrB (ina INA_STAT) 5 true
    else if t.needle || t.cmpMode || !t.run then t.frog
    else t.wrB (ina INA_STAT) 5 true)
  else if t.inaSt = inaStable then t.setIna inaDiscover
  else if t.inaSt = inaInhibited then t.wrB (ina INA_STAT) 5 true
  else if t.inaSt = inaDiscover then t.mark stableMark
  else t

/-- An uncoupling of a side (R197, R305): it is treated as an end side and takes an end turn. -/
def State.uncouple (s : State) (side : Nat) : State := (s.raiseIna 2).setEnd side

/-- What follows once the neighbour of a side has become another (R193, R197). -/
def State.sideChanged (s : State) (side : Nat) (old : Option Uid) (oldNum : Nat) : State :=
  let new := s.sideUid side
  if new = old then s
  else
    let s1 := match old with
      | some u => { s with rg := { s.rg with before := Assoc.put s.rg.before side (u, oldNum) } }
      | none => s
    let s2 := if new.isNone then (s1.uncouple side).mark (loneMark side) else s1
    (s2.disarm topoMark).change

/-- The line A and line B ports of a side report different UIDs (R193). -/
def State.conflict (s : State) (side : Nat) : Bool :=
  let a := backbonePort s.part 0 side
  let b := backbonePort s.part 1 side
  s.nbrOk a && s.nbrOk b && s.nbrUid a != s.nbrUid b

/-! ## Coupling (R195, R196) -/

/-- A coupling side begins or ends. -/
@[noinline] def State.setCouple (s : State) (side : Nat) (b : Bool) : State :=
  let c := s.tp.couple &&& ~~~(BitVec.ofNat 2 (2 ^ side)) ||| BitVec.ofNat 2 (b2n b * 2 ^ side)
  ({ s with tp := { s.tp with couple := c } }).wrB (ina INA_STAT) 22 (c != 0)

/-- A coupling is detected on an end side (R195). -/
def State.coupleDetect (s : State) (side : Nat) : State :=
  if s.endSide side && s.rdB (ina INA_CFG) 0 then ((s.setCouple side true).mark (loneMark side)).raiseIna 1 else s

/-! ## The node list (R198 to R201) -/

/-- A node of the computed list. -/
structure Node where
  uid : Uid
  cst : Uid
  /-- Its side 1 lies toward the front of the chain as it was built. -/
  front1 : Bool
  lead : Bool
  cabSide : Bool
  needle : Bool
  deriving DecidableEq, Repr

/-- A UID of 0 stands for none. -/
def optUid (u : Option Uid) : Uid := u.getD 0

/-- The partner's UID that the node names (R319). -/
def State.partnerUid (s : State) : Option Uid :=
  if s.rdB (twn 0 TWN_CFG) 0 ∧ s.rdB (twn 0 TWN_PEER) 1 then
    some (BitVec.ofNat 64 (s.rd64 (twn 0 TWN_PEER_UID_LO) (twn 0 TWN_PEER_UID_HI)))
  else none

/-- The bytes of a UID on the wire, the first one first.
(DEDUCED, log entry 44) -/
def uidBytes (u : Uid) : List Byte := (List.range 8).map fun i => BitVec.ofNat 8 (u.toNat / 2 ^ (8 * (7 - i)))

/-- The Umlunal extension of a TOPOLOGY frame: type 0xD5, length 10, format 0x01, PARTNER_KNOWN and the partner's UID (R536). -/
def umlunalItem (p : Option Uid) : List Byte := [0xD5, 10, 0x01, BitVec.ofNat 8 (b2n p.isSome)] ++ uidBytes (optUid p)

/-- The partner that a TOPOLOGY frame names: only a whole item of format 0x01 with PARTNER_KNOWN names one. -/
def itemPartner : List Byte → Option Uid
  | t :: l :: f :: k :: u =>
    if t = 0xD5 ∧ l = 10 ∧ f = 0x01 ∧ k.getLsbD 0 ∧ u.length = 8 then some (BitVec.ofNat 64 (u.foldl (fun n b => n * 256 + b.toNat) 0)) else none
  | _ => none

/-- The consist UID of the node. -/
def State.cstUid (s : State) : Uid := BitVec.ofNat 64 (s.rd64 (ina INA_CST_UID_LO) (ina INA_CST_UID_HI))

/-- The node as its own frames describe it. -/
def State.selfNode (s : State) : Node :=
  { uid := s.uid, cst := s.cstUid, front1 := true, lead := s.rdB (ina INA_CTRL) 0, cabSide := s.rdB (ina INA_CFG) 3
    needle := s.needle }

/-- The nodes in one direction from `cur`, which was reached from `prev`; `away` is whether the walk goes toward the front. -/
def walkNodes (vecs : List (Uid × Topology)) : Nat → Bool → Uid → Uid → List Node
  | 0, _, _, _ => []
  | n + 1, toFront, prev, cur =>
    match Assoc.get vecs cur with
    | none => []
    | some v =>
      if cur = 0 then []
      else
        let back1 := v.nbr1 == prev
        let node : Node := { uid := cur, cst := v.cst, front1 := if toFront then !back1 else back1, lead := v.lead, cabSide := v.cabSide
                             needle := v.needle }
        node :: walkNodes vecs n toFront cur (if back1 then v.nbr2 else v.nbr1)

/-- The chain of nodes in physical order, from the end that this node's side 1 faces (R198). -/
def State.chain (s : State) : List Node :=
  (walkNodes s.tp.vecs 64 true s.uid (optUid (s.sideUid 0))).reverse ++ [s.selfNode] ++ walkNodes s.tp.vecs 64 false s.uid (optUid (s.sideUid 1))

/-- A node of the train inhibits, itself included (R205). -/
def State.inhibitSeen (s : State) : Bool :=
  s.rdB (ina INA_CTRL) 1 || s.chain.any fun n => match Assoc.get s.tp.vecs n.uid with | some v => v.inhibit | none => false

/-- The inhibit indication of the engine follows the frames; without an inhibiting node INHIBITED ends in DISCOVER (R203, R205). -/
def State.evalInhibit (s : State) : State :=
  let t := s.wrB (ina INA_STAT) 7 s.inhibitSeen
  if t.inaSt = inaInhibited ∧ !t.inhibitSeen then (t.setIna inaDiscover).wrB (ina INA_STAT) 5 false else t

/-- The neighbour table is changed by `f`, and the neighbour changes that this makes are taken (R193). -/
def State.withNbr (s : State) (f : State → State) : State :=
  let t := f s
  let t1 := t.when (t.conflict 0 || t.conflict 1) fun u => u.raiseIna 13
  let t2 := (t1.sideChanged 0 (s.sideUid 0) (s.nbrNum 0)).sideChanged 1 (s.sideUid 1) (s.nbrNum 1)
  (t2.evalNbr).evalInhibit

/-- A port loses its neighbour: nothing is heard on it (R193). -/
def State.loseNbr (s : State) (p : Nat) : State :=
  s.withNbr fun t => t.clearWin (nbrAddr (portIdx t.part p)) 16

/-- A bank's node list as a TOPOLOGY frame names it: UID, number and ORIENT. -/
def State.listOf (s : State) (b : Nat) : List (Uid × Nat × Bool) :=
  (s.nodes b).map fun e => (e.2, e.1, (s.tb (nodeAddr b e.1 + 17)).getLsbD 0)

/-- The counter that names the needle's active list: the one that the accepted ROW_STARTs carry; at the needle itself, and without
rows, the own one (R200). -/
def State.refCtr (s : State) : Word := if s.needle || s.cmpMode then s.rd (ina INA_TOPO_ACT) else s.tp.rsTopo

/-- The list of a node whose active tables have a counter, as its last TOPOLOGY frame names it.
(PRESUMED, log entry 75) -/
def State.heardList (s : State) (c : Word) : Option (List (Uid × Nat × Bool)) :=
  (s.tp.vecs.find? fun e => e.2.act == c && !e.2.list.isEmpty).map (·.2.list)

/-- The reference list, with ORIENT where it is known: the needle's active list, as this node holds it or another node names it, or the
expected list where the needle has none (R200).
(PRESUMED, log entry 75) -/
def State.refNodes (s : State) : List (Uid × Nat × Option Bool) :=
  let c := s.refCtr
  let known := fun (l : List (Uid × Nat × Bool)) => l.map fun e => (e.1, e.2.1, some e.2.2)
  if c = 0 then s.expected.map fun e => (e.1, e.2, none)
  else if s.num ≠ 0 ∧ s.rd (ina INA_TOPO_ACT) = c then known (s.listOf s.actBank)
  else known ((s.heardList c).getD (s.listOf s.actBank))

/-- The reference list: previous numbers by UID (R200). -/
def State.refList (s : State) : List (Uid × Nat) := s.refNodes.map fun e => (e.1, e.2.1)

/-- Of some nodes, the one with the lowest UID. -/
def lowestUid : List Node → Option Node
  | [] => none
  | n :: ns => match lowestUid ns with
    | none => some n
    | some m => if n.uid.toNat ≤ m.uid.toNat then some n else some m

/-- The end with the lower UID is the front (R198, rule 3). -/
def lowFront (l : List Node) : Bool := decide ((l.head?.map (·.uid.toNat)).getD 0 ≤ (l.getLast?.map (·.uid.toNat)).getD 0)

/-- A single node of the reference list lies at the front, at the back, or in the middle, where its ORIENT decides, or else rule 3.
(PRESUMED, log entry 75) -/
def lieFront (l : List Node) (i : Nat) (o : Option Bool) : Bool :=
  if 2 * i + 1 < l.length then true
  else if l.length < 2 * i + 1 then false
  else match o, l[i]? with
    | some b, some n => n.front1 != b
    | _, _ => lowFront l

/-- The reference end lies at the front of the chain (R198). -/
def refFront (l : List Node) (ref : List (Uid × Nat × Option Bool)) : Bool :=
  match lowestUid (l.filter (·.lead)) with
  | some n => n.front1 != n.cabSide
  | none =>
    let prev (n : Node) : Option (Nat × Option Bool) := (Assoc.get ref n.uid).filter (·.1 != 0)
    match l.filterMap prev with
    | [] => lowFront l
    | [e] => lieFront l ((l.findIdx? fun n => (prev n).isSome).getD 0) e.2
    | e :: es => decide (e.1 ≤ (es.getLast?.getD e).1)

/-- A chain turned around. -/
def flipChain (l : List Node) : List Node := (l.map fun n => { n with front1 := !n.front1 }).reverse

/-- The list in numbering order (R198, R199). -/
def State.order (s : State) : List Node :=
  let l := s.chain
  if refFront l s.refNodes then l else flipChain l

/-- Consist numbers in order: consecutive nodes of one consist UID share a number (R199). -/
def consistNums : Nat → Option Uid → List Node → List Nat
  | _, _, [] => []
  | k, last, n :: ns =>
    let k' := if last = some n.cst then k else k + 1
    k' :: consistNums k' (some n.cst) ns

/-- The number of a node by its position and consist: 0 beyond the 63rd node or the 32nd consist (R199). -/
def nodeNum (pos cst : Nat) : Nat := if 62 < pos ∨ 32 < cst then 0 else pos + 1

/-- The computed topology counter (R201). -/
def State.computed (s : State) : Word :=
  let c := Config.topoCrc (s.order.map fun n => (n.uid, n.cst, n.front1))
  if c = 0 ∧ s.rdB (ina INA_CFG) 1 then 0xFFFFFFFF else c

/-- The computed list holds a NEW node (R200). -/
def State.hasNew (s : State) : Bool := s.order.any fun n => ((Assoc.get s.refList n.uid).getD 0) == 0

/-- The round that ends was good: a frame of every other node of the computed list came in it, and every such frame reported the
counter computed here (R205). -/
def State.roundGood (s : State) : Bool :=
  s.order.all fun n => n.uid == s.uid ||
    (s.tp.reports.any (·.1 == n.uid) && s.tp.reports.all fun r => r.1 != n.uid || r.2 == s.computed)

/-- A TOPOLOGY interval ends: the first one after AGREE is entered only starts a round, and each later one counts its round or breaks
the run (R205).
(DEDUCED, log entry 43) -/
def State.roundEnd (s : State) : State :=
  { s with tp := { s.tp with reports := [], rounds := if s.tp.rounds = 0 then 1 else if s.roundGood then s.tp.rounds + 1 else 1 } }

/-- Two consecutive rounds were good (R205). -/
def State.agreed (s : State) : Bool := decide (3 ≤ s.tp.rounds)

/-- A frame's report counts in the round that runs. -/
def State.report (s : State) (u : Uid) (c : Word) : State := { s with tp := { s.tp with reports := s.tp.reports ++ [(u, c)] } }

/-- The rounds that agreement counts start anew. -/
def State.clearAgree (s : State) : State := { s with tp := { s.tp with reports := [], rounds := 0 } }

/-- The topology frame that the node sends (R187, R190, R205).
(DEDUCED, log entry 43) -/
def State.ownTopology (s : State) : Topology :=
  { origin := s.uid, seq := s.tp.seq + 1, nbr1 := optUid (s.sideUid 0), nbr2 := optUid (s.sideUid 1), cst := s.cstUid
    lead := s.rdB (ina INA_CTRL) 0, cabSide := s.rdB (ina INA_CFG) 3, inhibit := s.rdB (ina INA_CTRL) 1
    counter := s.computed, needle := s.needle, item := if s.cmpMode then [] else umlunalItem s.partnerUid
    act := s.rd (ina INA_TOPO_ACT), list := if s.num = 0 then [] else s.listOf s.actBank
    nodes := s.order.length, consists := ((consistNums 0 none s.order).getLast?).getD 0 }


end Sys2Proof.Machine
end

