-- ==== Sys2Proof/Machine/Blocking.lean ====
section
/-! DEFINITION. Blocking's shared operations: writing the shadow (R222 to R224), the egress guardian's list (R124, R126, R535),
the flip and what follows it (R206, R207, R214, R226 to R228, R305, R307), and entry to CAST-ON (R203, R236). -/

namespace Sys2Proof.Machine

/-! ## The guardian's list (R124, R126) -/

/-- The owned stitches that the guardian of die `d` permits: SKEIN, claimed SPARE, MGMT and POLL entries of this node. -/
def State.ownStitches (s : State) : List Nat :=
  match s.actSlot with
  | none => []
  | some sl =>
    if s.stitchNum = 0 then []
    else (List.range (s.slotCnt sl)).filter fun i =>
      let e := s.entry sl i
      e.kind != kMarker && s.effOwner s.actBank s.actPrf i e == s.stitchNum

/-- A valid word of the guardian's list. -/
def guardWord (sid : Nat) : Word := wordOf (sid + 4096)

/-- The guardian's valid entries on die `d`. -/
def State.guardList (s : State) (d : Nat) : List Word :=
  ((List.range (s.rdF (sch d SCH_GRD_STAT) 16 12 + 1)).map fun i => s.tw (guardAddr d i)).filter fun w => bit w 12

/-- The guardian of a die loads its list from the active bank, which ends a fault if it agrees (R124, R126). -/
def State.loadGuard (s : State) (d : Nat) : State :=
  let l := s.ownStitches.map guardWord
  let t := (s.clearWin (guardAddr d 0) 0x4000).setTws (guardAddr d 0) l
  (((t.wrF (sch d SCH_GRD_STAT) 16 12 l.length).wrB (sch d SCH_GRD_STAT) 0 true).wrB (sch d SCH_GRD_STAT) 1 false).wr (sch d SCH_GRD_CRC) (crc32 (wordBytes l))

/-- Both guardians load. -/
@[noinline] def State.loadGuards (s : State) : State := s.each (fun d t => t.loadGuard d) s.dies

/-- At a row start the guardian compares its CRC32 with the schedule engine's and blocks own frames on a mismatch (R126). -/
def State.compareGuard (s : State) (d : Nat) : State :=
  if !s.rdB (sch d SCH_GRD_STAT) 0 || crc32 (wordBytes (s.guardList d)) == crc32 (wordBytes (s.ownStitches.map guardWord)) then s
  else (s.wrB (sch d SCH_GRD_STAT) 1 true).raise (sch d 0) 8

/-! ## Writing the shadow (R222 to R224) -/

/-- The pair number in a bank (R317): the effective owner of the reference stitch, or the number of the node that holds the token;
the last one while the token is free. -/
def State.pairNumIn (s : State) (b : Nat) : Nat :=
  let sid := s.rdF (twn 0 TWN_REF) 0 12
  if sid ≠ 0xFFF then
    match s.slotOf b s.actPrf with
    | some sl => s.effOwner b s.actPrf sid (s.entry sl sid)
    | none => 0
  else if s.role = 3 then s.numOf b s.uid
  else if s.rdF (twn 0 TWN_STAT) 10 2 = 3 then
    (let n := match s.partnerUid with
      | some u => s.numOf b u
      | none => 0
     if n = 0 then s.rdF (twn 0 TWN_PEER) 8 6 else n)
  else s.rdF (twn 0 TWN_PAIR) 0 6

/-- The pair number and the own number are taken at a blocking (R317). -/
def State.evalPair (s : State) : State :=
  if s.paired then (s.wrF (twn 0 TWN_PAIR) 0 6 (s.pairNumIn s.actBank)).wrF (twn 0 TWN_PAIR) 8 6 s.num else s

/-- One node of the shadow list is written (R213). -/
def State.writeNode (s : State) (b : Nat) (ref : List (Uid × Nat)) (n : Node) (num cst : Nat) : State :=
  let a := nodeAddr b num
  let prev := (Assoc.get ref n.uid).getD 0
  let t := ((s.setTuid a n.uid).setTuid (a + 8) n.cst).setTb (a + 16) (BitVec.ofNat 8 cst)
  let flags := b2n (!n.front1) + b2n (prev == 0) * 2 + b2n n.needle * 4 + b2n n.lead * 8
  let u := (t.setTb (a + 17) (BitVec.ofNat 8 flags)).setTb (a + 18) (BitVec.ofNat 8 prev)
  if prev = 0 then u else u.setTb (renumAddr b prev) (BitVec.ofNat 8 num)

/-- The nodes of the list from position `pos` on. -/
def State.writeNodes (s : State) (b : Nat) (ref : List (Uid × Nat)) : Nat → List Node → List Nat → State
  | pos, n :: ns, c :: cs =>
    let t := if nodeNum pos c = 0 then s.wrB (ina INA_STAT) 23 true else s.writeNode b ref n (nodeNum pos c) c
    t.writeNodes b ref (pos + 1) ns cs
  | _, _, _ => s

/-- The overlay byte of a VALID overlay with a node. -/
def ovByte (n : Nat) : Byte := BitVec.ofNat 8 (0x80 + n % 64)

/-- The partner that a leaving owner's last TOPOLOGY frame named, if it is in the shadow list: its new number (R319). -/
def State.pairNum (s : State) (sb prev : Nat) : Nat :=
  match Assoc.get s.tp.vecs (s.tuid (nodeAddr (1 - sb) prev)) with
  | some v => match itemPartner v.item with
    | some u => s.numOf sb u
    | none => 0
  | none => 0

/-- Steps 3 and 4 of R222 for one stitch of profile `p` in slot `sl`; `sb` is the shadow bank. -/
def State.shadowOwner (s : State) (sb sl p i : Nat) : State :=
  let e := s.entry sl i
  let o := s.effOwner (1 - sb) p i e
  let m := s.renum sb o
  let t :=
    if o = 0 ∨ m = o then s
    else if m ≠ 0 then s.setTb (overlayAddr sb p i) (ovByte m)
    else if e.kind = kSpare then s.setTb (overlayAddr sb p i) 0
    else s.setTb (overlayAddr sb p i) (ovByte (s.pairNum sb o))
  if t.overlay sb p i = 0x80 then
    match t.expected.find? (·.2 == e.owner) with
    | some x => if e.owner ≠ 0 ∧ t.numOf sb x.1 ≠ 0 then t.setTb (overlayAddr sb p i) (ovByte (t.numOf sb x.1)) else t
    | none => t
  else t

/-- Steps 3 and 4 of R222 for every profile that the shadow maps. -/
def State.shadowOwners (s : State) (sb : Nat) : State :=
  s.each (fun p t => match t.slotOf sb p with
    | some sl => t.each (fun i u => u.shadowOwner sb sl p i) (List.range (t.slotCnt sl))
    | none => t) (List.range 8)

/-- The side that faces a node in a bank's list: 0 side 1, 1 side 2 (R198, R223). -/
def State.sideToward (s : State) (b m : Nat) : Nat :=
  let n := s.numOf b s.uid
  let o := (s.tb (nodeAddr b n + 17)).toNat % 2
  if m < n then o else 1 - o

/-- A new version is written into the free entry found, and a bucket without one is reported (R224). -/
def State.dirPut (s : State) (d : Nat) (k : DirKey) (w2 : Word) : Option Nat → State
  | some i => s.dirWrite d i k w2
  | none => s.raise (sch 0 0) 31

/-- A new version of a directory entry is written with only the shadow bit, after learned entries make room if needed; none if
there is no room (R223, R224). -/
def State.dirNew (s : State) (d : Nat) (k : DirKey) (w2 : Word) : State :=
  let t := if (s.dirFree d k).isSome then s else s.flushLearned d
  t.dirPut d k w2 (t.dirFree d k)

/-- Step 5 of R222 for one directory entry (R223). -/
def State.shadowDir (s : State) (d sb i : Nat) : State :=
  let w := s.tw (dirWord d i 2)
  let n := fld w 0 6
  let m := s.renum sb n
  if !bit w 18 || !bit w (16 + sb) || n = 0 || m = n then s
  else
    let t := s.setTw (dirWord d i 2) (setBit w (16 + sb) false)
    if m = 0 then t
    else
      let w2 := setFld (setFld (setBit (setBit w (16 + sb) true) (16 + (1 - sb)) false) 0 6 m) 7 1 (t.sideToward sb m)
      t.dirNew d (t.rekey d m (t.dirKey d i)) w2

/-- A free translation entry in the bucket of a local address. -/
def State.xltFree (s : State) (d : Nat) (loc : Word) : Option Nat :=
  ((List.range 4).map (4 * ((crc32 (Config.ipKey loc)).toNat % 4096) + ·)).find? fun i => s.twF (xltWord d i 2) 12 2 == 0

/-- Step 6 of R222 for one translation entry (R219, R224). -/
def State.shadowXlt (s : State) (d sb num i : Nat) : State :=
  let w := s.tw (xltWord d i 2)
  let tr := s.trainAddr d num (s.tw (xltWord d i 0))
  if !bit w 14 || !bit w (12 + sb) || tr = s.tw (xltWord d i 1) then s
  else
    let t0 := s.setTw (xltWord d i 2) (setBit w (12 + sb) false)
    let loc := t0.tw (xltWord d i 0)
    let t := if (t0.xltFree d loc).isSome then t0 else t0.flushLearned d
    match t.xltFree d loc with
    | some j => ((t.setTw (xltWord d j 0) loc).setTw (xltWord d j 1) tr).setTw (xltWord d j 2)
        (setBit (setBit w (12 + sb) true) (12 + (1 - sb)) false)
    | none => t.raise (sch 0 0) 31

/-- The tables of one die (R222, steps 5 and 6). -/
def State.shadowTables (s : State) (sb num d : Nat) : State :=
  let t := s.each (fun i u => u.shadowDir d sb i) (s.entriesIn (dirWord d 0 0) 65536 10)
  (t.each (fun i u => u.shadowXlt d sb num i) (t.entriesIn (xltWord d 0 0) 16384 9)).evalTables d

/-- The shadow is written from the agreed list (R222). Its writing ends with SHADOW_WRITE_DONE, unless a table is full. -/
def State.writeShadow (s : State) : State :=
  let sb := 1 - s.actBank
  let s0 := s.when (!s.rdB (sch 0 SCH_BLK_STAT) 2) fun t => t.raise (sch 0 0) 29
  let s1 := (((s0.reseed).wrB (sch 0 SCH_BLK_STAT) 0 true).wrB (sch 0 SCH_BLK_STAT) 2 false)
  let l := s1.order
  let ref := s1.refList
  let s2 := (s1.clearWin (nodeAddr sb 0) 0x800).clearWin (renumAddr sb 0) 0x40
  let s3 := (s2.wrB (ina INA_STAT) 23 false).writeNodes sb ref 0 l (consistNums 0 none l)
  let num := s3.numOf sb s3.uid
  let s4 := (s3.wr (ina INA_TOPO_SHD) s.computed).wrF (ina INA_STAT) 16 6 num
  let s5 := s4.shadowOwners sb
  let full := s5.rdB (sch 0 PG_EVT) 31
  let own := if s5.paired then s5.pairNumIn sb else num
  let s6 := s5.each (fun d t => t.shadowTables sb own d) s5.dies
  let failed := s6.rdB (sch 0 PG_EVT) 31 && !full
  { s6 with tp := { s6.tp with writing := !failed, complete := false, waitSpan := false } }

/-- COMMIT is entered: the shadow is written, or waits for the end of a double mapping (R203, R228). -/
def State.enterCommit (s : State) (catchup : Bool) : State :=
  let t := (s.setIna inaCommit).mark agreeMark
  let t := { t with tp := { t.tp with catchup := catchup, commitRows := 0, announced := t.blockPend } }
  let t := t.wrB (sch 0 SCH_BLK_STAT) 0 true
  if t.rdB (sch 0 SCH_BLK_STAT) 1 && t.tp.dblOld then { t with tp := { t.tp with waitSpan := true } } else t.writeShadow

/-! ## The flip (R214, R226 to R228, R235) -/

/-- The double mapping ends: old entries are freed and the shadow is reseeded (R228). -/
@[noinline] def State.endSpan (s : State) : State :=
  let t := s.each (fun d u => (u.freeOld d (1 - u.actBank)).evalTables d) s.dies
  let t1 := (((t.reseedMaps).wrB (sch 0 SCH_BLK_STAT) 1 false).raise (sch 0 0) 25).wrB (sch 0 SCH_BLK_STAT) 0 false
  let t2 := { t1 with tp := { t1.tp with dblFrog := false } }
  if t2.tp.waitSpan then t2.writeShadow else t2

/-- DBL_ROWS (R226). -/
def State.dblRows (s : State) : Nat := s.rdF (sch 0 SCH_BLK_CFG) 0 4

/-- The row of the blocking to come: announced, or local (R206, R234). -/
def State.blockRow (s : State) : Option Word :=
  if s.blockPend then some (s.rd (ina INA_BLK_ROW)) else if s.rdB (sch 0 SCH_BLK_STAT) 3 then some (s.rd (sch 0 SCH_BLK_ROW)) else none

/-- The double mapping is in force from the start of row max(announcement row, BR − ⌊D/2⌋) (R226). -/
def State.spanStart (s : State) : State :=
  match s.blockRow with
  | some br =>
    if s.dblRows ≠ 0 ∧ !s.rdB (sch 0 SCH_BLK_STAT) 1 ∧ !stLater s.tp.annRow s.row ∧ !stLater (br - wordOf (s.dblRows / 2)) s.row then
      (let t := s.wrB (sch 0 SCH_BLK_STAT) 1 true
       { t with tp := { t.tp with dblOld := false, dblFrog := false } })
    else s
  | none => s

/-- A span whose rows do not run on is over: rows start anew, or no blocking is announced any longer.
(DEDUCED, log entry 25) -/
def State.spanDrop (s : State) : State :=
  if !s.rdB (sch 0 SCH_BLK_STAT) 1 then s
  else if s.tp.dblOld then s.endSpan
  else s.wrB (sch 0 SCH_BLK_STAT) 1 false

/-- A recovery context named by the consumed-skein map newly in force takes any sequence (R260). -/
def State.newStreams (s : State) (d : Nat) : State :=
  let b := s.bankOf d
  let named := fun (b : Nat) =>
    ((s.tbl.filter fun e => decide (consMapAddr d b 0 ≤ e.1 ∧ e.1 < consMapAddr d b 8192) && e.1 % 2 == 1 && decide (128 ≤ e.2.toNat)).map
      fun e => s.th (e.1 - 1) % 32768)
  s.each (fun w t => t.takeAny (w / 2 ^ 14) (w % 1024)) ((named b).filter fun w => !(named (1 - b)).contains w)

/-- Die 1's generators take die 0's values (R258). -/
def State.syncGens (s : State) : State :=
  if s.die1On then
    let l := s.dk.gens.filter (·.1 < 65536)
    { s with dk := { s.dk with gens := l ++ l.map fun e => (e.1 + 65536, e.2) } }
  else s

/-- SCH_BANK.ACT inverts, on die 1 at the same tick or once the link is back (R214, R235). -/
def State.flipBank (s : State) : State :=
  let v := s.rd (sch 0 SCH_BANK)
  let w := setFld (setFld v 0 1 (1 - fld v 0 1)) 16 16 (fld v 16 16 + 1)
  let t := s.wr (sch 0 SCH_BANK) w
  if t.die1On then t.wr (sch 1 SCH_BANK) w else { t with tp := { t.tp with flip1 := t.part.twoDies } }

/-- The own number, orientation and list of the active bank are shown (R212). -/
@[noinline] def State.takeNumber (s : State) : State :=
  let b := s.actBank
  let n := s.numOf b s.uid
  let l := s.nodes b
  let cst := fun (k : Nat) => (s.tb (nodeAddr b k + 16)).toNat
  let t := (s.wrF (ina INA_STAT) 8 6 n).wrB (ina INA_STAT) 4 ((s.tb (nodeAddr b n + 17)).getLsbD 0 && n != 0)
  ((t.wrF (ina INA_NODES) 0 6 l.length).wrF (ina INA_NODES) 8 6 ((l.map fun e => cst e.1).foldl max 0)).wrF (ina INA_NODES) 16 6 (if n = 0 then 0 else cst n)

/-- End turns of sides that have a neighbour clear at the boundary of the blocking, with COUPLE_PEND; a line of such a side
without block lock takes a fault turn at the same tick (R196, R305). -/
@[noinline] def State.blockTurns (s : State) (side : Nat) : State :=
  if s.endSide side then s
  else
    let t := s.setCouple side false
    if t.sideCode side = 1 then
      let u := t.clrTurn side (sidePorts t.part side)
      match (sidePorts u.part side).find? fun p => !u.lock p with
      | some p => u.setFault p
      | none => u
    else t

/-- A blocking that changes the numbering of the nodes, from the own number and the list of `old`, is a sync path change (R90). -/
def State.renumbered (s : State) (old : Nat × List (Nat × Uid)) : State :=
  s.when (!(s.num == old.1 && s.nodes s.actBank == old.2)) fun t => t.pathChange []

/-- The part of a blocking that an inauguration adds, after the flip: the number, the counter and the state (R203). -/
@[noinline] def State.inaugurated (s : State) : State :=
  let t := (s.takeNumber).wr (ina INA_TOPO_ACT) (s.rd (ina INA_TOPO_SHD))
  let t1 := (t.countF (ina INA_CNT) 0 8).raiseIna 6
  let t2 := (t1.setIna (if t1.chgPend then inaDiscover else inaStable)).wrB (ina INA_STAT) 5 false
  let t3 := (t2.wrB (ina INA_STAT) 6 false).wrB (sch 0 SCH_YO_STAT) 4 false
  let t4 := { t3 with
    tp := { t3.tp with writing := false, complete := false, catchup := false, announced := false, heardFrozen := false, commitRows := 0
                       asked := none, lost := none, reports := [], rounds := 0 }
    sc := { t3.sc with hold := false } }
  t4.renumbered (s.num, s.nodes (1 - s.actBank))

/-- The flip of a blocking, which ends a run of frogs (R204), with the double mapping: until its end the shadow is the old bank, which
software does not write (R214, R225, R226, R228). `shadow` is whether it commits an inauguration's shadow. -/
def State.flip (s : State) (br : Word) (shadow : Bool) : State :=
  let d := s.dblRows
  let s1 := (((s.flipBank).raise (sch 0 0) 24).wrSchB SCH_STAT 10 false).wrF (ina INA_STAT) 24 3 0
  let s2 := s1.wrF (sch 0 SCH_BLK_STAT) 0 3 3
  { s2 with tp := { s2.tp with dblEnd := br + wordOf ((d + 1) / 2) - 1, dblFrog := false, dblOld := true, dblMap := shadow } }

/-- Every node repeats its own entries' notices (R307). -/
def State.renotice (s : State) : State := { s with rg := { s.rg with renotice := true } }

/-- New recovery contexts, the tables' status, and die 1's generators (R258, R260). -/
def State.reviewTables (s : State) : State :=
  (s.each (fun d t => (t.newStreams d).evalTables d) s.dies).syncGens

/-- What every blocking does after the flip: turns, known faults, streams, guardians (R124, R258, R260, R305, R307). -/
def State.afterFlip (s : State) : State :=
  let s1 := ((s.evalPair).blockTurns 0).blockTurns 1
  let s2 := s1.dropKnown fun w => bit w 16 && !bit w 17
  let s5 := (((s2.renotice).reviewTables).loadGuards).evalNbr
  if s5.dblRows = 0 then s5.endSpan else s5

/-- The node enters RUNNING at the first blocking that numbers it, or STANDBY while its partner holds the token (R42, R202). -/
def State.castOnDone (s : State) : State :=
  if s.mode = .castOn ∧ s.num ≠ 0 then
    (if s.paired ∧ s.rdF (twn 0 TWN_STAT) 10 2 = 3 then (s.setMode .standby .partnerToken).setRole 4 else (s.setMode .running .castOnDone).toHealing)
  else s

/-- A blocking: `shadow` is whether it commits an inauguration's shadow (R206, R207).
(DEDUCED, log entry 25) -/
def State.blockNow (s : State) (br : Word) (shadow : Bool) : State :=
  let s1 := s.flip br shadow
  let s2 := if shadow then s1.inaugurated else s1
  (s2.afterFlip).castOnDone

/-! ## Entry to CAST-ON and to MAINTENANCE (R203, R236, R258, R260, R305) -/

/-- An end turn is set on every side without a two-way neighbour (R305). -/
def State.endTurns (s : State) : State :=
  let f := fun (side : Nat) (t : State) => if t.endSide side then t.setEnd side else t
  f 1 (f 0 s)

/-- No Sync was taken since the entry. -/
def State.syncUnseen (s : State) : State := { s with tm := { s.tm with syncSeen := false } }

/-- The 60 µs from the entry to CAST-ON to the claim (R324). -/
abbrev observeTmr : Nat := tmr (twn 0 TWN_CTRL) 0

/-- The twin token is observed from the entry on, unless it is a fault of the pair (R324). -/
def State.observeToken (s : State) : State :=
  if s.rdB (twn 0 TWN_CFG) 0 ∧ s.rdF (twn 0 TWN_STAT) 0 3 ≠ 3 then (s.wrF (twn 0 TWN_STAT) 0 3 1).arm observeTmr (60 * us) else s

/-- The inauguration engine starts at DISCOVER when it is enabled (R203). -/
def State.startDiscovery (s : State) : State :=
  if s.inaSt = inaOff ∧ s.rdB (ina INA_CFG) 0 then s.setIna inaDiscover else s

/-- What every entry to CAST-ON does: LISTEN, streams, end turns, discovery, and the observation of the token (R136, R203,
R258, R260, R305, R324). -/
def State.enterCastOn (s : State) : State :=
  ((((((s.stopRows).enterListen).resetStreams).endTurns).syncUnseen).observeToken).startDiscovery

/-- The tables as a reset leaves them (R236): bank 0, overlays without VALID, no node list, no learned entry, both membership
bits of every entry set, number 0. -/
def State.cleanTables (s : State) : State :=
  let s1 := (((s.wrSch SCH_BANK 0).clearWin (overlayAddr 0 0 0) 0x10000).clearWin (nodeAddr 0 0) 0x1000).clearWin (renumAddr 0 0) 0x80
  let s2 := s1.each (fun d t => t.flushLearned d) s1.dies
  let s3 := s2.each (fun d t => t.each (fun i u => u.setTwF (dirWord d i 2) 16 2 3) (t.entriesIn (dirWord d 0 0) 65536 7)) s2.dies
  let s4 := s3.each (fun d t => (t.each (fun i u => u.setTwF (xltWord d i 2) 12 2 3) (t.entriesIn (xltWord d 0 0) 16384 9)).evalTables d) s3.dies
  let s5 := ((s4.wr (mapReg 1) (s4.rd (mapReg 0))).wrF (ina INA_STAT) 8 6 0).wr (ina INA_TOPO_ACT) 0
  let s5 : State := { s5 with tp := { s5.tp with rsTopo := 0 } }
  let s6 := s5.each (fun d t => t.reseedData d 0) s5.dies
  ((s6.wr (ina INA_NODES) 0).wrF (sch 0 SCH_BLK_STAT) 0 4 4).evalNbr

/-- The engine goes to OFF, its shadow discarded (R203). -/
def State.inaToOff (s : State) : State :=
  let t := ((s.dropShadow).setIna inaOff).wrB (ina INA_STAT) 5 false
  { t with tp := { t.tp with vecs := [], relayed := [], toRelay := [] } }

end Sys2Proof.Machine
end

