-- ==== Sys2Proof/Machine/Transit.lean ====
section
/-! DEFINITION. The checks of frames that carry a stitch ID: the transit checks (R121), the timing of first-hop frames (R119,
R120), and the egress guardian's judgement of own frames (R124). -/

namespace Sys2Proof.Machine

/-! ## Rows and decisions (R111, R121) -/

/-- Whether a decision stands for a stitch of a row, made under a profile (R114). -/
def State.decision (s : State) (row : Word) (prf sid : Nat) : Option Decision :=
  s.sc.decided.find? fun d => d.row == row && d.prf == prf && d.sid == sid

/-- What a node holds for a row: its start, profile and bank, and its poll vector with the instant of its acceptance. -/
structure RowView where
  st : Word
  prf : Nat
  bank : Nat
  poll : Option (List Word)
  pollSt : Word
  deriving DecidableEq, Repr

/-- The view of the current row. -/
def State.thisRow (s : State) : RowView := { st := s.rd (sch 0 SCH_ROW_ST), prf := s.actPrf, bank := s.actBank, poll := s.sc.poll, pollSt := s.sc.pollSt }

/-- The view of the row before. -/
def State.lastRow (s : State) : RowView :=
  { st := s.sc.prevRowSt, prf := s.sc.prevPrf, bank := s.sc.prevBank, poll := s.sc.prevPoll, pollSt := s.sc.prevPollSt }

/-- TSPAN of a die in ns, as taken at the last row start (R34, R131).
(DEDUCED, log entry 71) -/
def State.tspan (s : State) (d : Nat) : Nat := fld (s.eff (sch d SCH_TSPAN)) 0 20 * 8

/-- SCH_NULL_LEAD of a die in ns, as taken at the last row start, bit 0 ignored (R34, R131).
(DEDUCED, log entry 71) -/
def State.nullLeadOn (s : State) (d : Nat) : Nat := fld (s.eff (sch d SCH_NULL_LEAD)) 1 15 * 2

/-- The lead at which the node decides: die 0's, for both dies (R111, R253).
(DEDUCED, log entry 71) -/
def State.nullLead (s : State) : Nat := s.nullLeadOn 0

/-- The view of the row that a frame names on die `d`: the current row, or the row before within TSPAN of the row start (R121). -/
def State.rowView (s : State) (d : Nat) (row : Word) : Option RowView :=
  if row = s.row then some s.thisRow
  else if row + 1 = s.row ∧ decide (stDiff (s.st d) (s.rd (sch 0 SCH_ROW_ST)) < s.tspan d) then some s.lastRow
  else none

/-- A stitch's length and start within its row, in ns. -/
def Stitch.lenNs (e : Stitch) : Nat := e.len * 8
def Stitch.startNs (e : Stitch) : Nat := e.start * 8

/-- The poll vector that decides a stitch: the row's, if it was accepted by the stitch's decision instant (R111). -/
def State.pollFor (s : State) (v : RowView) (e : Stitch) : Option (List Word) :=
  if 0 < stDiff v.pollSt (v.st + wordOf e.startNs - wordOf s.nullLead) then none else v.poll

/-- Whether an entry was active in a row: under the decision of R111, or as it would be decided now. -/
def State.wasActive (s : State) (row : Word) (v : RowView) (i : Nat) (e : Stitch) : Bool :=
  match s.decision row v.prf i with
  | some d => d.active
  | none => s.entryActive row v.bank v.prf i e (s.pollFor v e)

/-- The decision instant of a stitch of the current row came before the adoption of the row's profile or timebase (R114, R117). -/
def State.passedAt (s : State) (e : Stitch) : Bool :=
  match s.sc.adoptSt with
  | some a => decide (0 < stDiff a (s.rd (sch 0 SCH_ROW_ST) + wordOf e.startNs - wordOf s.nullLead))
  | none => false

/-- An entry of the active profile is active in the current row, and the node may serve it there (R111, R114, R117). -/
def State.mayServe (s : State) (i : Nat) (e : Stitch) : Bool :=
  match s.decision s.row s.actPrf i with
  | some d => d.active && !d.skipped
  | none => s.wasActive s.row s.thisRow i e && !s.passedAt e

/-- The kinds of stitch that permit a subtype (R121). -/
def permits (subtype : Byte) (kind : Nat) : Bool :=
  if kind = kSkein ∨ kind = kSpare then subtype == 0x03 || subtype == 0x04
  else if kind = kMgmt then subtype == 0x05 || subtype == 0x07 || subtype == 0x08 || subtype == 0x09 || subtype == 0x0A
  else if kind = kClaim then subtype == 0x06
  else false

/-- The stitch that a frame names, with its slot's selvedge in ns, if the frame passes the checks of R121 on die `d`. -/
def State.stitchCheck (s : State) (d : Nat) (h : Hdr) : Option (RowView × Stitch × Nat) :=
  match s.rowView d h.row with
  | none => none
  | some v =>
    if h.prf.toNat ≠ v.prf then none
    else match s.slotOf v.bank v.prf with
      | none => none
      | some sl =>
        let i := h.sid.toNat
        let e := s.entry sl i
        let owned := e.kind != kSpare || (s.overlayOwner v.bank v.prf i).isSome
        if i < s.slotCnt sl ∧ s.wasActive h.row v i e ∧ permits h.subtype e.kind ∧ owned
            ∧ (e.kind = kClaim ∨ h.sender.toNat = s.effOwner v.bank v.prf i e) then some (v, e, s.selv sl)
        else none

/-! ## First-hop timing (R119, R120) -/

/-- The effective neighbour on a backbone port (R131). -/
def State.hopNbr (s : State) (p : Nat) : Nat := s.rdF (sch (p / 32) SCH_NBR) (8 * portSide p) 6

/-- A frame is a first-hop frame on a port. -/
def State.firstHop (s : State) (p : Nat) (h : Hdr) : Bool := h.sender != 0 && h.sender.toNat == s.hopNbr p

/-- The frame start of R119 relative to an instant, in 1/400 ns: SOF less 8 byte times and LDLY, which counts 1/16 ns. -/
def State.frameStart (s : State) (p : Nat) (sof from0 : Word) : Int :=
  stDiff sof from0 * 400 - 8 * s.byteTime p - ((s.rd (prt p PRT_PTP_LDLY)).toNat : Int) * 25

/-- The classes of a first-hop frame (R119). -/
inductive Hop where
  | good | edge | early | late
  deriving DecidableEq, Repr

/-- The class of a frame that starts at `a` and ends at `b` in a stitch of length `len` with selvedge `sv`, all in 1/400 ns from
the stitch's start. -/
def classify (a b len sv : Int) : Hop :=
  if a < -sv then .early
  else if len + sv < b then .late
  else if 0 ≤ a ∧ b ≤ len then .good
  else .edge

/-- The class of a first-hop frame of `n` bytes on port `p` in a stitch of `len` ns that starts at `from0`. -/
def State.hopClass (s : State) (p n : Nat) (sof from0 : Word) (len selv : Nat) : Hop :=
  let a := s.frameStart p sof from0
  classify a (a + (8 + n : Nat) * s.byteTime p) (len * 400 : Nat) (selv * 400 : Nat)

/-- What R119 counts for a frame of a stitch; 0xFFFF is ROW_START. -/
def State.hopCount (s : State) (p sid : Nat) : Hop → State
  | .good => s
  | .edge => ((s.count (sch (p / 32) SCH_CNT_EDGE)).pst p 21).when (decide (sid < 4096)) fun t => t.statBy (stitchCtr (p / 32) sid 0) 1
  | .early => ((s.count (sch (p / 32) SCH_CNT_EARLY)).pst p 22).when (decide (sid < 4096)) fun t => t.statBy (stitchCtr (p / 32) sid 1) 1
  | .late => ((s.count (sch (p / 32) SCH_CNT_LATE)).pst p 23).when (decide (sid < 4096)) fun t => t.statBy (stitchCtr (p / 32) sid 1) 1

/-! ## The checks together -/

/-- What becomes of a received frame: relayed and used; relayed without use, while no rows run; ended by the egress with an
inverted FCS; or discarded. -/
inductive Verdict where
  | use | pass | spoil | drop
  deriving DecidableEq, Repr

/-- The checks of R119 and R121 of a frame with a stitch ID. A frame sent outside stitches is not checked here. -/
def State.slCheck (s : State) (rx : Rx) (h : Hdr) : State × Verdict :=
  let p := rx.port.val
  if h.sid = 0xFFFF then (s, .use)
  else if !s.run then (s, .pass)
  else match s.stitchCheck (p / 32) h with
    | none => ((s.xchk p).statBy (stitchCtr (p / 32) (h.sid.toNat % 4096) 1) 1, .drop)
    | some (v, e, selv) =>
      if s.firstHop p h then
        let c := s.hopClass p rx.len (s.rxStamp rx) (v.st + wordOf (e.start * 8)) (e.len * 8) selv
        let t := s.hopCount p h.sid.toNat c
        match c with
        | .early => (t, .drop)
        | .late => (t, .spoil)
        | _ => (t, .use)
      else (s, .use)

/-- A frame that carries a stitch ID, or class 6 frame, is taken from a port: what is left to do with it. The frame is relayed here
as its verdict says; an own frame is stripped by the caller's test `mine`. -/
def State.takeStitch (s : State) (rx : Rx) (h : Hdr) (subtype : Byte) (mine : State → Bool) (rtag : Option (BitVec 16)) (b : Body)
    (sched : Bool) : State × Bool :=
  let p := rx.port.val
  let r := s.takeSl rx h subtype
  if r.2 = .none then (r.1, false)
  else if mine r.1 then (r.1.strip p, false)
  else
    let c := r.1.slCheck rx h
    let u := c.1
    if c.2 = .drop then (u, false)
    else if r.2 = .bad then (u.endBad p (.sl h rtag b), false)
    else if c.2 = .spoil then (u.relayBad p (.sl h rtag b), false)
    else (u.relay p h rtag b sched, c.2 == .use || b.passes || h.subtype == 0x05 || h.subtype == 0x07)

/-! ## The egress guardian (R124, R126) -/

/-- The guardian of a die holds a stitch in its list. -/
def State.guards (s : State) (d sid : Nat) : Bool := (s.guardList d).contains (guardWord sid)

/-- The guardian of a port permits an own frame in a stitch that starts `at0` ns from the stitch's start (R124): the stitch is in
its list and active, the start lies in its window, and the frame ends before B − TXOFS. `free` is for MGMT and CLAIM stitches.
(DEDUCED, log entry 28) -/
def State.guardOk (s : State) (p sid n selv : Nat) (e : Stitch) (at0 : Int) (free : Bool) : Bool :=
  let d := p / 32
  let t : Int := txofs selv
  s.rdB (sch d SCH_GRD_STAT) 0 && !s.rdB (sch d SCH_GRD_STAT) 1 && !s.mutedOn d && (e.kind == kClaim || s.guards d sid)
    && (if free then decide (t ≤ at0) else decide (t - 8 ≤ at0 ∧ at0 ≤ t + 8))
    && decide (at0 * 400 + s.wireTime p n ≤ (e.lenNs : Int) * 400 - t * 400)

/-- A guardian refuses a frame: SCH_CNT_GRD, the port's and the stitch's counters (R124, R443, R445). -/
def State.guardRefuse (s : State) (p sid : Nat) : State :=
  ((s.count (sch (p / 32) SCH_CNT_GRD)).pst p 38).when (decide (sid < 4096)) fun t => t.statBy (stitchCtr (p / 32) sid 1) 1

end Sys2Proof.Machine
end

