-- ==== Sys2Proof/Machine/Stitches.lean ====
section
/-! DEFINITION. Stitches: deciding, knitting, sending and receiving skeins and NULLs (R111 to R118, R251 to R259, R540), and
muting (R127). -/

namespace Sys2Proof.Machine

/-! ## The row to which an instant belongs (R540) -/

/-- A profile swap takes effect at the next boundary, as far as it is known: announced for it and not deferred (R112, R113). -/
def State.swapNext (s : State) : Bool :=
  s.rdB (sch 0 SCH_STAT) 7 && decide (s.sc.swapRow = s.row + 1 ∨ s.rdB (sch 0 SCH_STAT) 11) && !s.blockPend

/-- The announced blocking finds this node ready (R207): its ROW_START of the row before has been accepted, and in COMMIT the shadow
is complete. Outside an inauguration the blocking is a train blocking, which commits whatever the shadow holds (R233).
(DEDUCED, log entry 25) -/
def State.blockReady (s : State) : Bool :=
  s.tp.heardFrozen && (if s.inaSt = inaCommit then s.tp.complete else s.inaSt != inaDiscover && s.inaSt != inaAgree)

/-- A blocking commits at the next boundary, as far as it is known. -/
def State.blockNext (s : State) : Bool := s.blockPend && s.rd (ina INA_BLK_ROW) == s.row + 1 && s.blockReady

/-- The state as it will be in the next row, as known now: its number, start, profile and tables, without its ROW_START (R540). -/
def State.asNext (s : State) : State :=
  let r := s.row + 1
  let st := s.rd (sch 0 SCH_ROW_ST) + wordOf s.rowLen
  let p := if s.swapNext then s.rdF (sch 0 SCH_STAT) 4 3 else s.actPrf
  let b := if s.blockNext then 1 - s.actBank else s.actBank
  let t := ((s.wr (sch 0 SCH_ROW) r).wr (sch 0 SCH_ROW_ST) st).wrF (sch 0 SCH_STAT) 0 3 p
  let u := (t.wrF (sch 0 SCH_BANK) 0 1 b).wrF (sch 1 SCH_BANK) 0 1 b
  { u with sc := { u.sc with poll := none } }

/-- Entry `sid` of the active profile. -/
def State.actEntry (s : State) (sid : Nat) : Option Stitch :=
  match s.actSlot with
  | some sl => if sid < s.slotCnt sl then some (s.entry sl sid) else none
  | none => none

/-- The row in which a stitch lies whose instant is `lead` ns before its start: the current row, or the next one where the start
comes less than `lead` after its row start. Where both rows have such a stitch of this ID, under two profiles, it is the current row's
until that one is `done`. -/
def State.rowFor (s : State) (sid lead : Nat) (done : State → Bool) : Option (State × Stitch) :=
  let cur := ((s.actEntry sid).filter fun e => decide (lead ≤ e.startNs)).map fun e => (s, e)
  let nxt := ((s.asNext.actEntry sid).filter fun e => decide (e.startNs < lead)).map fun e => (s.asNext, e)
  match cur, nxt with
  | some c, some n => if done s then some n else some c
  | some c, none => some c
  | none, n => n

/-- The instant of a stitch's start in the view of its row. -/
def State.stitchSt (v : State) (e : Stitch) : Word := v.rd (sch 0 SCH_ROW_ST) + wordOf e.startNs

/-- Die `d`'s tables as they will be in the row of a view. -/
def State.inRowOf (s v : State) (d : Nat) (f : State → State) : State :=
  (f (s.wrF (sch d SCH_BANK) 0 1 v.actBank)).wrF (sch d SCH_BANK) 0 1 (s.bankOf d)

/-! ## Muting (R127) -/

/-- TMU_MUTE of a die in ns, 0 meaning S ÷ 2. -/
def State.muteLimit (s : State) (k : Nat) : Nat :=
  let v := (s.rd (tmu k TMU_MUTE)).toNat
  if v = 0 then (match s.actSlot with | some sl => s.selv sl / 2 | none => 0) else v

/-- The absolute offset of the followed domain on a die, in 1/16 ns (R87). -/
def State.absOfs (s : State) (k : Nat) : Nat := (s.rd (tmu k (TMU_TD_OFS (s.rckDomOn k)))).toInt.natAbs

/-- The offset exceeds TMU_MUTE, or is treated as exceeding it: R75, and R137 while the followed domain was lost at the adoption. -/
def State.offLimit (s : State) : Bool :=
  decide (s.muteLimit 0 * 16 < s.absOfs 0) || s.tm.holdMute || (s.sc.lostMute && s.tdLost s.rckDom)

/-- Die 1 alone is beyond TMU_MUTE (R30, R127). -/
def State.offLimit1 (s : State) : Bool := s.alone1 && decide (s.muteLimit 1 * 16 < s.absOfs 1)

/-- The node mutes: MUTED, the guardians' MUTED and MUTE; only Syncs from now on count for unmuting. -/
def State.mute (s : State) : State :=
  if s.muted then s
  else
    let t := ((s.wrSchB SCH_STAT 8 true).raiseSch 4)
    let u := t.each (fun d v => v.wrB (sch d SCH_GRD_STAT) 2 true) t.dies
    { u with tm := { u.tm with syncSeen := false }, sc := { u.sc with calm := 0 } }

/-- Die 1 alone mutes its own stitches (R30). -/
def State.mute1 (s : State) : State :=
  if s.mutedOn 1 then s
  else
    let t := ((s.wrB (sch 1 SCH_STAT) 8 true).wrB (sch 1 SCH_GRD_STAT) 2 true).raise (sch 1 0) 4
    { t with tm := { t.tm with syncSeen1 := false }, sc := { t.sc with calm1 := 0 } }

/-- Muting is evaluated at a decision instant. -/
def State.evalMute (s : State) : State :=
  let t := if s.offLimit then s.mute else s
  if t.offLimit1 then t.mute1 else t

/-- The node unmutes. -/
def State.unmute (s : State) : State :=
  let t := ((s.wrSchB SCH_STAT 8 false).raiseSch 5)
  let u := t.each (fun d v => v.wrB (sch d SCH_GRD_STAT) 2 false) t.dies
  { u with sc := { u.sc with calm := 0, lostMute := false } }

/-- Die 1 alone unmutes. -/
def State.unmute1 (s : State) : State :=
  let t := ((s.wrB (sch 1 SCH_STAT) 8 false).wrB (sch 1 SCH_GRD_STAT) 2 false).raise (sch 1 0) 5
  { t with sc := { t.sc with calm1 := 0 } }

/-- At a row boundary: muting is evaluated, and a muted node counts its boundaries with a small offset (R127). -/
def State.muteBoundary (s : State) : State :=
  if s.offLimit then (let t := s.mute; { t with sc := { t.sc with calm := 0 } })
  else if s.muted then
    let n := if s.absOfs 0 ≤ s.muteLimit 0 * 8 then s.sc.calm + 1 else 0
    let t := { s with sc := { s.sc with calm := n } }
    if 8 ≤ n ∧ t.tm.syncSeen then t.unmute else t
  else s

/-- The same for die 1 alone (R30). -/
def State.muteBoundary1 (s : State) : State :=
  if s.offLimit1 then (let t := s.mute1; { t with sc := { t.sc with calm1 := 0 } })
  else if s.alone1 ∧ s.mutedOn 1 then
    let n := if s.absOfs 1 ≤ s.muteLimit 1 * 8 then s.sc.calm1 + 1 else 0
    let t := { s with sc := { s.sc with calm1 := n } }
    if 8 ≤ n ∧ t.tm.syncSeen1 then t.unmute1 else t
  else s

/-! ## Own skeins: knitting and deciding (R115, R116, R251 to R253) -/

/-- An entry carries a skein of this node in the view of its row: a SKEIN or a claimed SPARE whose effective owner it is. -/
def State.ownsSkein (v : State) (sid : Nat) (e : Stitch) : Bool :=
  (e.kind == kSkein || (e.kind == kSpare && (v.overlayOwner v.actBank v.actPrf sid).isSome))
    && v.stitchNum != 0 && v.effOwner v.actBank v.actPrf sid e == v.stitchNum

/-- The node serves its stitches: RUNNING or HEALING (R42, R320). -/
def State.serves (s : State) : Bool := s.mode == .running || s.mode == .healing

/-- The knit lead in ns: DSK_KNIT_LEAD, at least NULL_LEAD + 1 µs (R252). -/
def State.knitLead (s : State) (d : Nat) : Nat := max (s.rdF (dsk d DSK_KNIT_LEAD) 0 16 * 8) (s.nullLeadOn d + 1000)

/-- A stitch of the current row has been knitted on a die, or decided. -/
def State.knitDone (s : State) (d sid : Nat) : Bool := (s.knitOf s.row sid d).isSome || (s.decision s.row s.actPrf sid).isSome

/-- KNIT: at stitch start − KNIT_LEAD the knitter of a die takes the views of the strands (R252). -/
def execKnit (d : Sys2Proof.Die) (sid : Fin 4096) (s : State) : Host.Outcome State Fault Refusal :=
  let k := dieNum d
  .next (s.when (s.dieUp 0 && s.dieUp k && s.run) fun t =>
    match t.rowFor sid.val (t.knitLead k) (fun u => u.knitDone k sid.val) with
    | some (v, e) =>
      if v.ownsSkein sid.val e then (t.reachOn k (v.stitchSt e - wordOf (t.knitLead k))).inRowOf v k fun u => u.knitOn v.row sid.val e k
      else t
    | none => t)

/-- Cells of 256 bytes that a frame of `n` bytes takes. -/
def cells (n : Nat) : Nat := (n + 255) / 256

/-- The length of a SKEIN frame before MACsec (R254). -/
def skeinLen (l : List Strand) : Nat := max 64 (52 + strandsSize l)

/-- Knit-reserve cells in use on a die: skeins from their knit on (R284).
(DEDUCED, log entry 28) -/
def State.knitUsed (s : State) (d : Nat) : Nat := ((s.dk.knits.filter (·.die == d)).map fun k => cells (skeinLen k.strands)).sum

/-- The longest wire time of a frame of `n` bytes among the backbone ports, in 1/400 ns.
(DEDUCED, log entry 28) -/
def State.worstWire (s : State) (n : Nat) : Int := ((backbonePorts s.part).map fun p => s.wireTime p n).foldl max 0

/-- The reason for which a die sends a NULL, none for a skein (R116): HOLD, FORCED, OVERSIZE, NO_CELLS, NOT_READY in this order.
(DEDUCED, log entry 28) -/
def State.nullReason (s : State) (v : State) (d sid : Nat) (e : Stitch) (selv : Nat) : Option Nat :=
  let k := s.knitOf v.row sid d
  if s.sc.hold then some 3
  else if bit (s.eff (sch 0 SCH_CTRL)) 0 then some 4
  else match k with
    | none => if fld (s.eff (buf d BUF_KRSV)) 0 12 ≤ s.knitUsed d then some 2 else some 1
    | some k =>
      let n := skeinLen k.strands
      if 9000 < strandsSize k.strands ∨ (((e.lenNs : Int) - 2 * txofs selv) * 400 < s.worstWire n) then some 5
      else if fld (s.eff (buf d BUF_KRSV)) 0 12 < s.knitUsed d then some 2
      else none

/-- The strands that a stitch's skein would carry. -/
def State.unsent (s : State) (d sid : Nat) (e : Stitch) : Nat :=
  match s.prodEntry d sid e with
  | some i => s.twF (prodWord d (s.bankOf d) i 1) 16 9
  | none => 0

/-- The skein ID of a stitch on a die. -/
def State.skeinId (s : State) (d sid : Nat) (e : Stitch) : BitVec 13 :=
  match s.prodEntry d sid e with
  | some i => BitVec.ofNat 13 (s.twF (prodWord d (s.bankOf d) i 0) 0 13)
  | none => BitVec.ofNat 13 e.ident

/-- The backbone ports on which die `d` sends its copies of an own frame: those without a turn (R253, R298). -/
def State.ownPorts (s : State) (d : Nat) : List Nat :=
  (backbonePorts s.part).filter fun p => (p / 32 == d || !s.part.twoDies) && s.turnAt p == .none

/-- An own frame that reaches a port at an instant is sent, or refused by the guardian; whether the port took it. It is watched till
its end (R125). -/
def State.passGuard (s : State) (p sid n start : Nat) (f : Frame) : Bool → State × Bool
  | true =>
    let t := (s.occupy p n start).sendPort p f true
    ({ t with sc := { t.sc with sending := t.sc.sending.filter (·.1 ≠ p) ++ (if s.portOn p then [(p, sid)] else []) } }, s.portOn p)
  | false => (s.guardRefuse p sid, false)

/-- An own frame is given to a port `delta` ns from now, as far as its guardian permits it there by the port's clock; one that meets
another frame starts later (R123, R124). `st0` is the start of its stitch. -/
def State.sendGuarded (s : State) (p sid selv n : Nat) (e : Stitch) (st0 : Word) (delta : Nat) (free : Bool) (f : Frame) : State × Bool :=
  let start := s.now + delta
  let at0 : Int := stDiff (s.st (p / 32) + wordOf delta) st0 + s.waitAt p start
  (s.meet p start).passGuard p sid n start f (s.guardOk p sid n selv e at0 free)

/-- An own frame is given to some ports; whether one of them took it. -/
def State.sendCopies (s : State) (sid selv n : Nat) (e : Stitch) (st0 : Word) (delta : Nat) (free : Bool) (f : Frame) :
    List Nat → State × Bool
  | [] => (s, false)
  | p :: ps =>
    let a := s.sendGuarded p sid selv n e st0 delta free f
    let b := a.1.sendCopies sid selv n e st0 delta free f ps
    (b.1, a.2 || b.2)

/-- The selvedge of the active profile in ns. -/
def State.actSelv (s : State) : Nat := match s.actSlot with | some sl => s.selv sl | none => 0

/-- A die sends a NULL in a stitch (R116): with the skein's next sequence number, at stitch start + TXOFS, as the tables of the
stitch's row have it.
(DEDUCED, log entry 27) -/
def State.sendNull (s : State) (v : State) (d sid reason : Nat) (e : Stitch) : State :=
  let b : NullBody := { reason := BitVec.ofNat 8 reason, unsent := BitVec.ofNat 8 (v.unsent d sid e), skein := v.skeinId d sid e, st := s.st 0 }
  let f : Frame := .sl (s.stitchHdr 0x03 v.row v.actPrf sid) (some (BitVec.ofNat 16 (v.gen d sid e))) (.null b)
  let sv := v.actSelv
  let st0 := v.stitchSt e
  let r := s.sendCopies sid sv 64 e st0 (stDiff (st0 + wordOf (txofs sv)) (s.st 0)).toNat false f (s.ownPorts d)
  let t := r.1.each (fun p u => u.pst p 32) (if r.2 then s.ownPorts d else [])
  let t1 := t.when r.2 fun u => ((u.inRowOf v d fun w => w.advGen d sid e).count (sch d SCH_CNT_NULL_TX)).statBy (stitchCtr d sid 1) 1
  { t1 with dk := { t1.dk with knits := t1.dk.knits.filter fun k => !(k.die == d && k.sid == sid && k.row == v.row) } }

/-- What both dies decide: with the Komidon link up a NULL of either makes both send one, with die 0's reason if it has one (R253). -/
def State.reasons (s : State) (v : State) (sid : Nat) (e : Stitch) : Option Nat × Option Nat :=
  let a := s.nullReason v 0 sid e v.actSelv
  if s.dieUp 1 then
    let b := s.nullReason v 1 sid e v.actSelv
    if s.linkUp then (let r := if a.isSome then a else b; (r, r)) else (a, b)
  else (a, a)

/-- A decision is recorded. -/
def State.record (s : State) (d : Decision) : State :=
  { s with sc := { s.sc with decided := s.sc.decided.filter (fun x => !(x.row == d.row && x.prf == d.prf && x.sid == d.sid)) ++ [d] } }

/-- The decision of an owned, active stitch: a skein, or NULLs at once. A muted die sends nothing (R30, R127). -/
def State.decideOwn (s : State) (v : State) (sid : Nat) (e : Stitch) : State :=
  let r := s.reasons v sid e
  let own := fun (k : Nat) (x : Option Nat) =>
    if s.mutedOn k then Decided.none else match x with | some k => Decided.null k | none => Decided.skein
  let t := s.record { row := v.row, prf := v.actPrf, sid := sid, active := true, own := own 0 r.1, own1 := own 1 r.2, skipped := false }
  let t0 := match own 0 r.1 with | .null k => t.sendNull v 0 sid k e | _ => t
  if t0.dieUp 1 then (match own 1 r.2 with | .null k => t0.sendNull v 1 sid k e | _ => t0) else t0

/-- An owned stitch whose decision instant is past is skipped (R117).
(DEDUCED, log entry 27) -/
def State.skipStitch (s : State) (sid : Nat) : State :=
  ((s.count (sch 0 SCH_CNT_SKIP)).raiseSch 6).statBy (stitchCtr 0 sid 1) 1

/-- The node sends a frame of its own in an entry: its skein, its POLLs or its management frames (R101). -/
def State.ownsSend (v : State) (sid : Nat) (e : Stitch) : Bool :=
  v.ownsSkein sid e || ((e.kind == kPoll || e.kind == kMgmt) && v.stitchNum != 0 && v.effOwner v.actBank v.actPrf sid e == v.stitchNum)

/-- The decision of a stitch (R111): whether it is active, and what this node sends in it. An instant that is past when the stitch is
armed skips it (R117).
(DEDUCED, log entry 27) -/
def State.decideStitch (s : State) (v : State) (sid : Nat) (e : Stitch) : State :=
  let target := v.stitchSt e - wordOf s.nullLead
  let late := decide (stDiff target (s.st 0) < -8)
  let t := (s.reachSt target).evalMute
  let act := v.entryActive v.row v.actBank v.actPrf sid e (v.pollFor v.thisRow e)
  let serves := act && t.serves && v.ownsSend sid e
  let none : Decision :=
    { row := v.row, prf := v.actPrf, sid := sid, active := act, own := .none, own1 := .none, skipped := serves && late }
  if serves && late then (t.record none).skipStitch sid
  else if serves && v.ownsSkein sid e then t.decideOwn v sid e
  else t.record none

/-- STITCH_DECISION: at stitch start − NULL_LEAD (R111, R116, R117, R540). A stitch is decided once. -/
def execStitchDecision (sid : Fin 4096) (s : State) : Host.Outcome State Fault Refusal :=
  .next (s.when (s.dieUp 0 && s.run) fun t =>
    match t.rowFor sid.val t.nullLead (fun u => (u.decision u.row u.actPrf sid.val).isSome) with
    | some (v, e) => if (t.decision v.row v.actPrf sid.val).isSome then t else t.decideStitch v sid.val e
    | none => t)

/-- A die sends its copies of the skein (R115, R254). -/
def State.sendSkein (s : State) (d sid : Nat) (e : Stitch) : State :=
  match s.knitOf s.row sid d with
  | none => s
  | some k =>
    let f : Frame := .sl (s.stitchHdr 0x04 s.row s.actPrf sid) (some (BitVec.ofNat 16 (s.gen d sid e)))
      (.skein { skein := k.skein, need := k.need, strands := k.strands })
    let r := s.sendCopies sid s.actSelv (skeinLen k.strands) e (s.stitchSt e) 0 false f (s.ownPorts d)
    let t := r.1.when r.2 fun u => u.advGen d sid e
    { t with dk := { t.dk with knits := t.dk.knits.filter fun x => !(x.die == d && x.sid == sid && x.row == k.row) } }

/-- The oldest decision of this row for a skein of a stitch that has still to be sent (R114). -/
def State.toSend (s : State) (sid : Nat) : Option Decision :=
  s.sc.decided.find? fun d => d.row == s.row && d.sid == sid && (d.own == .skein || d.own1 == .skein)

/-- An entry of the active bank under a profile. -/
def State.prfEntry (s : State) (prf sid : Nat) : Option Stitch :=
  match s.slotOf s.actBank prf with
  | some sl => if sid < s.slotCnt sl then some (s.entry sl sid) else none
  | none => none

/-- SKEIN_SEND: at stitch start + TXOFS, for the dies that decided for the skein; a stitch decided before a late swap keeps its
profile's entry (R114). -/
def execSkeinSend (sid : Fin 4096) (s : State) : Host.Outcome State Fault Refusal :=
  .next (match s.toSend sid.val with
    | none => s
    | some d =>
      match s.prfEntry d.prf sid.val with
      | none => s
      | some e => s.when (s.dieUp 0 && s.run) fun t =>
        let u := (t.reachSt (t.stitchSt e + wordOf (txofs t.actSelv))).record { d with own := .none, own1 := .none }
        let w := if d.own = .skein then u.sendSkein 0 sid.val e else u
        if w.dieUp 1 ∧ d.own1 = .skein then w.sendSkein 1 sid.val e else w)

/-- GUARDIAN_CUTOFF: an own frame that is still being sent at B + S is ended with an inverted FCS (R125). -/
def execGuardianCutoff (port : Port) (s : State) : Host.Outcome State Fault Refusal :=
  let p := port.val
  .next (match s.sc.sending.find? fun e => e.1 == p with
    | some _ => s.when (s.portOn p) fun t =>
        let u := (((t.emit (.cut p)).count (sch (p / 32) SCH_CNT_GRD)).raise (sch (p / 32) 0) 8).pst p 38
        { u with sc := { u.sc with sending := u.sc.sending.filter fun e => e.1 != p } }
    | none => s)

/-! ## Received skeins (R118, R256 to R259) -/

/-- A stitch has been heard in its row.
(DEDUCED, log entry 27) -/
def State.noteHeard (s : State) (row : Word) (sid : Nat) : State :=
  if s.sc.heard.contains (row, sid) then s else { s with sc := { s.sc with heard := s.sc.heard ++ [(row, sid)] } }

/-- NEED of an accepted skein restarts the keep-alive timer and cancels bind-off (R359, R362). -/
def State.needSeen (s : State) (need : Bool) : State := if need && s.mode.inRow then (s.kaRestart).boCancel else s

/-- SKEIN_RX. -/
def execSkeinRx (rx : Rx) (h : Hdr) (rtag : BitVec 16) (b : Skein) (s : State) : Host.Outcome State Fault Refusal :=
  .next (match s.takeStitch rx h 0x04 (fun t => t.ownSender h.sender.toNat) (some rtag) (.skein b) true with
    | (t, false) => t
    | (t, true) =>
      if !t.run then t
      else match (t.noteHeard h.row h.sid.toNat).recoverOn (rx.port.val / 32) b.skein rtag with
        | (u, some r) => (u.unravel r b.skein b.strands).needSeen b.need
        | (u, none) => u)

/-- NULL_RX: an accepted NULL marks the strands of its skein stale. -/
def execNullRx (rx : Rx) (h : Hdr) (rtag : BitVec 16) (b : NullBody) (s : State) : Host.Outcome State Fault Refusal :=
  .next (match s.takeStitch rx h 0x03 (fun t => t.ownSender h.sender.toNat) (some rtag) (.null b) true with
    | (t, false) => t
    | (t, true) =>
      if !t.run then t
      else match (t.noteHeard h.row h.sid.toNat).recoverOn (rx.port.val / 32) b.skein rtag with
        | (u, some r) => (((u.count (sch r SCH_CNT_NULL_RX)).statBy (stitchCtr r h.sid.toNat 1) 1).markStale b.skein.toNat (u.dataDies r))
        | (u, none) => u)

/-- A stitch of the row before was active, consumed and not heard.
(DEDUCED, log entry 27) -/
def State.missed (s : State) (sid : Nat) : Option Stitch :=
  let v := s.lastRow
  match s.slotOf v.bank v.prf with
  | none => none
  | some sl =>
    let e := s.entry sl sid
    if sid < s.slotCnt sl ∧ e.kind = kSkein ∧ s.wasActive (s.row - 1) v sid e ∧ s.consumes e.ident ∧ !s.sc.heard.contains (s.row - 1, sid)
      ∧ s.effOwner v.bank v.prf sid e ≠ s.stitchNum then some e
    else none

/-- The strands of a missed stitch go stale; each die that consumes them counts MISS (R118).
(DEDUCED, log entry 27) -/
def State.missStitch (s : State) (sid : Nat) (e : Stitch) : State :=
  let t := s.each (fun d u =>
    if (u.expecting d e.ident).isEmpty then u else (u.count (sch d SCH_CNT_MISS)).statBy (stitchCtr d sid 1) 1) s.dies
  (t.markStale e.ident t.dies).noteHeard (s.row - 1) sid

/-- SKEIN_MISS: row start + TSPAN, for a stitch of the row before. -/
def execSkeinMiss (sid : Fin 4096) (s : State) : Host.Outcome State Fault Refusal :=
  .next (s.when (s.dieUp 0 && s.run) fun t =>
    let u := t.reachSt (t.rd (sch 0 SCH_ROW_ST) + wordOf (t.tspan 0))
    match u.missed sid.val with
    | some e => u.missStitch sid.val e
    | none => u)

end Sys2Proof.Machine
end

