-- ==== Sys2Proof/Machine/Buffer.lean ====
section
/-! DEFINITION. Packet buffer and egress queues: reserves (R284, R288), the shared pool and admission (R285, R286, R291), and
values that a write replaces only at the next row boundary (R165, R288). -/

namespace Sys2Proof.Machine

/-! ## Values in effect (R165, R288) -/

/-- The value in effect for a frame that starts at an instant: one that started before the row start is judged as in the row before. -/
def State.effAt (s : State) (start : Word) (a : Nat) : Word :=
  if s.run && stLater (s.rd (sch 0 SCH_ROW_ST)) start then (Assoc.get s.fw.effOld a).getD (s.eff a) else s.eff a

/-- A write that takes effect at the next row boundary, or at once while rows do not run. -/
def State.deferWrite (s : State) (a : Nat) (v : Word) : State :=
  let s := if s.run then s else s.each (fun p u => u.fillNow p) ((List.range s.part.ports).filter fun p => hasGuard s.part p && polReg p a)
  let t := s.wr a v
  if s.run && (Assoc.get s.fw.eff a).isNone then { t with fw := { t.fw with eff := t.fw.eff ++ [(a, s.rd a)] } } else t

/-! ## Reserves (R284) -/

/-- The ports of a die. -/
def diePorts (pt : Part) (d : Nat) : List Nat := (List.range 32).map (32 * d + ·) |>.filter fun p => decide (p < pt.ports)

/-- A KLK_CRD_CFG register as it was taken at the last training, or at reset (R289). -/
def State.crd (s : State) (a : Nat) : Word := (Assoc.get s.fw.crd a).getD (s.rd a)

/-- The landing cells in force on a die stay as they are until the next training (R289). -/
def State.keepCrd (s : State) (d : Nat) : State :=
  { s with fw := { s.fw with crd := Assoc.put (Assoc.put s.fw.crd (klk d KLK_CRD_CFG0) (s.crd (klk d KLK_CRD_CFG0))) (klk d KLK_CRD_CFG1) (s.crd (klk d KLK_CRD_CFG1)) } }

/-- The landing cells in force of a die's Komidon link: a scheduled value below 36 acts as 36 (R284, R289).
(DEDUCED, log entry 42) -/
def State.landing (s : State) (d : Nat) : Nat :=
  let c0 := s.crd (klk d KLK_CRD_CFG0)
  let c1 := s.crd (klk d KLK_CRD_CFG1)
  if s.part.twoDies then max 36 (fld c0 0 10) + fld c0 16 10 + fld c1 0 10 + fld c1 16 10 else 0

/-- PFC headroom of an uplink: its cells for each enabled priority (R291). -/
def hdrmCells (hdrm cfg : Word) : Nat := fld hdrm 0 12 * popCount (wordOf (fld cfg 0 7))

/-- The reserved total of a die, by the values that `f` gives (R284). -/
def State.rsvSum (s : State) (d : Nat) (f : Nat → Word) : Nat :=
  let ports := ((diePorts s.part d).map fun p => fld (f (prt p PRT_SRSV)) 0 12).sum
  let pfc := (((diePorts s.part d).filter (isUplink s.part)).map fun p => hdrmCells (f (prt p PRT_PFC_HDRM)) (f (prt p PRT_PFC_CFG))).sum
  let t := f (buf d BUF_TRSV)
  ports + pfc + fld t 0 12 + (if d = 0 then fld t 16 12 else 0) + fld (f (buf d BUF_KRSV)) 0 12 + fld (f (buf d BUF_MRSV)) 0 12 + s.landing d

/-! ## The shared pool -/

/-- The frames whose cells a die holds: queued, and being sent until their last byte has left (R277). -/
def State.holding (s : State) (d : Nat) : List QEnt :=
  (s.fw.queue ++ (s.fw.sending.filter fun x => x.left.isSome || decide (s.now < x.ends)).map (·.ent)).filter fun e => e.port / 32 == d

/-- Cells of frames, those of one number counted once.
(DEDUCED, log entry 42) -/
def cellsOnce : List Nat → List QEnt → Nat
  | _, [] => 0
  | seen, e :: es => if seen.contains e.id then cellsOnce seen es else cells e.len + cellsOnce (e.id :: seen) es

/-- Shared cells that waiting scheduled frames of a die have borrowed (R285). -/
def State.lentCells (s : State) (d : Nat) : Nat :=
  ((s.fw.waits.filter fun w => w.port / 32 == d && decide (s.now < w.till)).map (·.lent)).sum

/-- The shared cells in use on a die: frames in headroom use none. -/
def State.sharedUsed (s : State) (d : Nat) : Nat := cellsOnce [] ((s.holding d).filter fun e => !e.hdrm) + s.lentCells d

/-- The cells of banks that are out of service: failed, or under test (R450). -/
def State.bistOut (s : State) (d : Nat) : Nat :=
  let ph := if d = 0 then s.sw.bist0 else s.sw.bist1
  (popCount (wordOf (s.rdF (swt d SWT_BIST_STAT) 16 16)) + b2n (ph == .draining || ph == .march)) * 2048

/-- The shared pool of a die: what neither a reserve nor a bank test takes (R284, R450).
(DEDUCED, log entry 42) -/
def State.pool (s : State) (d : Nat) : Nat := 32768 - s.rsvSum d s.eff - s.bistOut d

/-- The free shared cells of a die (R286).
(DEDUCED, log entry 42) -/
def State.freeCells (s : State) (d : Nat) : Nat := s.pool d - s.sharedUsed d

/-- The cells of queue `q` of a port, its frame being sent included. -/
def State.qCells (s : State) (p q : Nat) : Nat := (((s.holding (p / 32)).filter fun e => e.port == p && e.cls == q).map fun e => cells e.len).sum

/-- BUF_RSV_SUM, BUF_SHARED, BUF_FREE and BUF_MIN_FREE follow, with LOW (R295). -/
def State.evalBuf (s : State) (d : Nat) : State :=
  let r := s.rsvSum d s.eff
  let f := s.freeCells d
  let s1 := (((s.wr (buf d BUF_RSV_SUM) (wordOf r)).wr (buf d BUF_SHARED) (wordOf (s.pool d))).wr (buf d BUF_FREE) (wordOf f)).wr
    (buf d BUF_MIN_FREE) (wordOf (min f (s.rdF (buf d BUF_MIN_FREE) 0 16)))
  if f < s.rdF (buf d BUF_LOW) 0 16 ∧ s.rdF (buf d BUF_LOW) 0 16 ≤ s.rdF (buf d BUF_FREE) 0 16 then s1.raise (buf d 0) 0 else s1

/-- PRT_Qq_CELLS of a port. -/
def State.evalQueues (s : State) (p : Nat) : State := s.each (fun q t => t.wrF (prt p (PRT_Q_CELLS q)) 0 16 (s.qCells p q)) (List.range 8)

/-- The registers of a port's queues and its die's buffer are brought up to date. -/
@[noinline] def State.evalPort (s : State) (p : Nat) : State := (s.evalQueues p).evalBuf (p / 32)

/-! ## Priority flow control (R291) -/

/-- A priority is enabled for PFC on an uplink. -/
def State.pfcOn (s : State) (p prio : Nat) : Bool := isUplink s.part p && decide (prio < 7) && bit (s.eff (prt p PRT_PFC_CFG)) prio

/-- The cells that frames of a priority received on an uplink hold in its die. -/
def State.pfcCells (s : State) (p prio : Nat) (hdrm : Bool) : Nat :=
  let l := (s.fw.queue ++ (s.fw.sending.filter fun x => x.left.isSome || decide (s.now < x.ends)).map (·.ent)).filter
    fun e => e.pfc == some (p, prio) && (e.hdrm || !hdrm)
  cellsOnce [] l

/-- XOFF or XON is sent as the count of a priority passes its thresholds. -/
def State.evalPfc (s : State) (p prio : Nat) : State :=
  let n := s.pfcCells p prio false
  let off := s.rdB (prt p PRT_PFC_STAT) prio
  if !s.pfcOn p prio then s
  else if !off && decide (s.rdF (prt p PRT_PFC_THR) 0 12 ≤ n) then
    (((s.wrB (prt p PRT_PFC_STAT) prio true).count (prt p PRT_CNT_PFC_TX)).pst p 33).sendPort p (.pfc prio 0xFFFF) false
  else if off && decide (n ≤ s.rdF (prt p PRT_PFC_THR) 16 12) then
    ((s.wrB (prt p PRT_PFC_STAT) prio false).pst p 33).sendPort p (.pfc prio 0) false
  else s

/-! ## Admission (R286, R287, R291) -/

/-- α × (F − c) with α = 2^(ALPHA − 6), against Q + c (R286). -/
def State.underThreshold (s : State) (p q c f : Nat) : Bool :=
  let a := min (s.rdF (buf (p / 32) BUF_CFG) 0 4) 9
  decide (c ≤ f ∧ (s.qCells p q + c) * 64 ≤ 2 ^ a * (f - c))

/-- A frame enters an egress queue. -/
def State.enqueue (s : State) (e : QEnt) : State := { s with fw := { s.fw with queue := s.fw.queue ++ [e] } }

/-- A frame is refused by the dynamic threshold. -/
def State.tailDrop (s : State) (p : Nat) : State :=
  (((s.count (prt p PRT_CNT_TAILDROP)).count (buf (p / 32) BUF_CNT_TAILDROP)).pst p 34).raise (prt p 0) 13

/-- A frame finds no free cell. -/
def State.noCell (s : State) (d : Nat) : State := (s.count (buf d BUF_CNT_NOCELL)).raise (buf d 0) 3

/-- A copy is admitted to its egress queue, or dropped; `f` are the free shared cells at the allocation (R286, R287, R291). -/
def State.takeIn (s : State) (f : Nat) (e : QEnt) : State :=
  let c := cells e.len
  let s := s.askShared (e.port / 32)
  match e.pfc with
  | some (up, prio) =>
    if s.rdF (prt up PRT_PFC_THR) 0 12 ≤ s.pfcCells up prio false then
      (if s.pfcCells up prio true + c ≤ fld (s.eff (prt up PRT_PFC_HDRM)) 0 12 then ((s.enqueue { e with hdrm := true }).evalPort e.port).evalPfc up prio
      else ((s.count (prt up PRT_CNT_HDRM_DROP)).pst up 35).raise (prt up 0) 14)
    else if c ≤ f then ((s.enqueue e).evalPort e.port).evalPfc up prio
    else s.noCell (e.port / 32)
  | none =>
    if s.underThreshold e.port e.cls c f then (if f = 0 then s.noCell (e.port / 32) else (s.enqueue e).evalPort e.port)
    else s.tailDrop e.port

/-! ## Writes of reserves (R288) -/

/-- A register whose write takes effect as R288 says. -/
def isReserve (a : Nat) : Bool :=
  decide (a < 0x08000000) &&
    ((a % 0x04000000 / 0x1000 == 0x1A0 && (a % 0x1000 == BUF_KRSV || a % 0x1000 == BUF_MRSV || a % 0x1000 == BUF_TRSV))
    || (decide (0x100 ≤ a % 0x04000000 / 0x1000 ∧ a % 0x04000000 / 0x1000 < 0x120)
      && (a % 0x1000 == PRT_SRSV || a % 0x1000 == PRT_PFC_HDRM || a % 0x1000 == PRT_PFC_CFG)))

/-- A write of a reserve: discarded with RSV_REJ where the total would exceed 16,384 cells. -/
def State.reserveWrite (s : State) (a : Nat) (v : Word) : State :=
  let d := dieOf a
  let w := v &&& s.maskAt a
  if 16384 < s.rsvSum d (fun x => if x = a then w else s.rd x) then s.raise (buf d 0) 2
  else (s.deferWrite a w).evalBuf d

/-- RESERVE_WRITE. -/
def execReserveWrite (addr : Nat) (value : Word) (s : State) : Host.Outcome State Fault Refusal :=
  .next (if isReserve addr then s.guarded addr fun t => t.reserveWrite addr value else s)

/-- The watermark registers. -/
def isWatermark (a : Nat) : Bool :=
  decide (a < 0x08000000) &&
    ((a % 0x04000000 / 0x1000 == 0x1A0 && a % 0x1000 == BUF_MIN_FREE)
    || (decide (0x140 ≤ a % 0x04000000 / 0x1000 ∧ a % 0x04000000 / 0x1000 < 0x144) && a % 0x1000 == CLU_STAGE_MAX))

/-- The cluster of a CLU page. -/
def cluOf (a : Nat) : Nat := dieOf a * 4 + (a % 0x04000000 / 0x1000 - 0x140)

/-- A frame is being sent on a port of a cluster. -/
def State.cluBusy (s : State) (c : Nat) : Bool :=
  (s.fw.wire.any fun b => b.1 / 8 == c && decide (s.now < b.2.2))
    || s.fw.sending.any fun x => x.ent.port / 8 == c && (x.left.isSome || decide (s.now < x.ends))

/-- What CLU_STAGE or CLU_STAGE_MAX reads: the fill at any instant is a free value while, or after, frames pass. -/
def State.stageFill (s : State) (a : Nat) : Word :=
  let held := if a % 0x1000 = CLU_STAGE then s.cluBusy (cluOf a) else s.cluBusy (cluOf a) || s.fw.staged.contains (cluOf a)
  if held then wordOf (fld s.fresh 0 10) else 0

/-- The side effect of a read of BUF_MIN_FREE or CLU_STAGE_MAX: the watermark starts again from the current value (R295, R490). -/
def State.readWatermark (s : State) (a : Nat) : State :=
  if a % 0x1000 = BUF_MIN_FREE then s.wr a (s.rd (pageBase a + BUF_FREE))
  else ({ s with fw := { s.fw with staged := s.fw.staged.filter (· ≠ cluOf a) } } : State).useFree

/-- WATERMARK_READ. The reading agent is the host. -/
def execWatermarkRead (addr : Nat) (s : State) : Host.Outcome State Fault Refusal :=
  .next (if isWatermark addr && s.reach addr then
    (let t := s.when (addr % 0x1000 == BUF_MIN_FREE) fun t => t.evalBuf (dieOf addr)
     let v := if addr % 0x1000 = BUF_MIN_FREE then t.rd addr else t.stageFill addr
     ((t.access addr).emit (.read .pcie addr v)).readWatermark addr) else s)

end Sys2Proof.Machine
end

