-- ==== Sys2Proof/Machine/Forward.lean ====
section
/-! DEFINITION. Best-effort forwarding: VLANs and classes (R271, R272), directory lookup and double mapping (R217, R226, R273),
learning (R218), flooding (R274), R-NAT routing (R219 to R221, R275, R276), and crossings at turns (R301, R302). -/

namespace Sys2Proof.Machine

/-! ## VLANs and classes (R271, R272) -/

/-- A VID has a port as a member. -/
def State.vlanHas (s : State) (d vid p : Nat) : Bool :=
  vid != 0 && vid != 4095 && bit (s.tw (vlanWord d vid (p / 32))) (p % 32)

/-- A frame of a VID leaves a port untagged. -/
def State.vlanUntag (s : State) (d vid p : Nat) : Bool := bit (s.tw (vlanWord d vid (2 + p / 32))) (p % 32)

/-- A frame is untagged or priority-tagged. -/
def noVid (e : Eth) : Bool :=
  match e.tag with
  | none => true
  | some t => t.2 == 0

/-- The VID of a frame on a port.
(DEDUCED, log entry 37) -/
def State.vidOf (s : State) (p : Nat) (e : Eth) : Nat :=
  match e.tag with
  | none => s.rdF (prt p PRT_VLAN_CFG) 0 12
  | some t => if t.2 = 0 then s.rdF (prt p PRT_VLAN_CFG) 0 12 else t.2.toNat

/-- The PCP of a frame: untagged frames take 0. -/
def pcpOf (e : Eth) : Nat :=
  match e.tag with
  | none => 0
  | some t => t.1.toNat

/-- A frame passes the port's VLAN ingress. -/
def State.vlanIn (s : State) (p : Nat) (e : Eth) : Bool :=
  let acc := s.rdF (prt p PRT_VLAN_CFG) 13 2
  !(acc == 1 && noVid e) && !(acc == 2 && !noVid e) && (!s.rdB (prt p PRT_VLAN_CFG) 12 || s.vlanHas (p / 32) (s.vidOf p e) p)

/-- The class that a port's PRT_QMAP gives a PCP; on consist ports 7 acts as 6. -/
def State.classOf (s : State) (p : Nat) (e : Eth) : Nat :=
  let c := s.rdF (prt p PRT_QMAP) (3 * (pcpOf e)) 3
  if c = 7 ∧ !isBackbone s.part p then 6 else c

/-- A frame as it leaves a port: tagged with its VID or untagged. -/
def State.egressEth (s : State) (d vid p : Nat) (e : Eth) : Eth :=
  let n := if e.tag.isSome then e.len - 4 else e.len
  if s.vlanUntag d vid p then { e with tag := none, len := max 64 n }
  else { e with tag := some (BitVec.ofNat 3 (pcpOf e), BitVec.ofNat 12 vid), len := n + 4 }

/-! ## A frame on its way (R269, R287) -/

/-- A best-effort frame in forwarding: where it came in (none is HP), its die, VID and class, its Ethernet form, the frame that is
sent where it is not plain Ethernet, and the SOF timestamp. -/
structure Flow where
  port : Option Nat
  die : Nat
  vid : Nat
  cls : Nat
  eth : Eth
  other : Option Frame
  sof : Word
  deriving DecidableEq, Repr

/-- The frame that a flow sends with a given Ethernet form. -/
def Flow.frame (f : Flow) (e : Eth) : Frame :=
  match f.other with
  | some (.trdp _ q t) => .trdp e q t
  | some x => x
  | none => .eth e

/-- The uplink and priority for PFC, if the flow came in on a PFC-enabled priority. -/
def State.flowPfc (s : State) (f : Flow) : Option (Nat × Nat) :=
  match f.port with
  | some p => if s.pfcOn p (pcpOf f.eth) then some (p, (pcpOf f.eth)) else none
  | none => none

/-- A port can take best-effort frames from die `d`: on the same die, or across the Komidon link if the other die announced credits for
the class (R13, R30, R289). -/
def State.crosses (s : State) (d p : Nat) : Bool :=
  decide (p < s.part.ports) && (p / 32 == d || (s.linkUp && s.rdF (klk d KLK_CRD_AV1) 16 10 != 0))

/-- A copy of a flow is queued on a port, of a group of copies `id`, with the VLAN's tagging (R271). -/
def State.queueAs (s : State) (f : Flow) (id free p : Nat) (e : Eth) : State :=
  if s.crosses f.die p then
    let x := s.egressEth f.die f.vid p e
    s.takeIn free { id := id, port := p, cls := f.cls, frame := f.frame x, len := x.len, pfc := s.flowPfc f, hdrm := false, held := false }
  else s

/-- A new group number. -/
def State.newGroup (s : State) : State := { s with fw := { s.fw with nextId := s.fw.nextId + 1 } }

/-- One copy of a flow is queued on a port. -/
def State.queueOne (s : State) (f : Flow) (p : Nat) (e : Eth) : State :=
  (s.queueAs f s.fw.nextId (s.freeCells (p / 32)) p e).newGroup

/-! ## Leaving on the backbone (R301, R302) -/

/-- A turn drops a frame.
(DEDUCED, log entry 37) -/
def State.turnDrop (s : State) (p : Nat) : State := s.count (rng (p / 32) RNG_CNT_TDROP)

/-- A unicast frame leaves on a backbone port: dropped at an end turn, crossed at a fault turn. -/
def State.leaveBackbone (s : State) (f : Flow) (p : Nat) (e : Eth) : State :=
  match s.turnAt p with
  | .none => s.queueOne f p e
  | .theEnd => s.turnDrop p
  | .fault =>
    let o := otherLine s.part p
    if s.lock o && s.turnAt o == .none then (s.count (rng (p / 32) RNG_CNT_CROSS)).queueOne f o e else s.turnDrop p

/-- A flooded copy leaves on a backbone port; a turn drops it (R274). -/
def State.floodBackbone (s : State) (f : Flow) (id free p : Nat) : State :=
  if s.turnAt p = .none then s.queueAs f id free p f.eth else s.count (fwd (p / 32) FWD_CNT_TURN_DROP)

/-! ## Flooding (R273, R274) -/

/-- The consist ports on which a flooded frame leaves. -/
def State.floodPorts (s : State) (f : Flow) : List Nat :=
  (List.range s.part.ports).filter fun p =>
    !isBackbone s.part p && s.vlanHas f.die f.vid p && f.port != some p && !(isUplink s.part p && s.mode == .standby)

/-- The backbone ports on which it leaves: both sides of the flood line, or the other side of the line that it came on. -/
def State.floodLines (s : State) (f : Flow) : List Nat :=
  let l := match f.port with
    | some p => if isBackbone s.part p then [acrossPort p] else [backbonePort s.part (s.rdF (fwd f.die FWD_STAT) 0 1) 0, backbonePort s.part (s.rdF (fwd f.die FWD_STAT) 0 1) 1]
    | none => [backbonePort s.part (s.rdF (fwd f.die FWD_STAT) 0 1) 0, backbonePort s.part (s.rdF (fwd f.die FWD_STAT) 0 1) 1]
  l.filter fun p => s.vlanHas f.die f.vid p

/-- A frame is flooded. -/
def State.flood (s : State) (f : Flow) : State :=
  let id := s.fw.nextId
  let free := fun (p : Nat) => s.freeCells (p / 32)
  let t := s.count (fwd f.die FWD_CNT_FLOOD)
  let u := t.each (fun p v => v.queueAs f id (free p) p f.eth) (s.floodPorts f)
  (u.each (fun p v => v.floodBackbone f id (free p) p) (s.floodLines f)).newGroup

/-! ## Directory lookups (R217, R226) -/

/-- What a directory lookup yields: a local port, or a remote node with the line and side toward it. -/
inductive Dest where
  | port (p : Nat)
  | node (n line side : Nat)
  deriving DecidableEq, Repr

/-- The destination that word 2 of an entry gives. -/
def destOf (w : Word) : Dest := if fld w 0 6 = 0 then .port (fld w 8 6) else .node (fld w 0 6) (fld w 6 1) (fld w 7 1)

/-- The number, in the bank in force, of a node that the other bank numbers `n`: 0 where it has no counterpart. A blocking that is no
inauguration's renumbers no node.
(DEDUCED, log entry 25) -/
def State.dblNum (s : State) (n : Nat) : Nat :=
  let b := s.actBank
  if (if s.tp.dblOld then !s.tp.dblMap else s.inaSt != inaCommit) then n
  else if s.tp.dblOld then s.renum b n else ((List.range 64).find? fun i => i != 0 && s.renum (1 - b) i == n).getD 0

/-- The second lookup may be made (R226): before the flip only while the shadow is complete, as software's always is.
(DEDUCED, log entry 25) -/
def State.dblOn (s : State) : Bool := s.rdB (sch 0 SCH_BLK_STAT) 1 && (s.tp.dblOld || s.tp.complete || s.inaSt != inaCommit)

/-- A hit in the other bank, as it is used in the bank in force; none where it counts as a miss. -/
def State.dblDest (s : State) (w : Word) : Option Dest :=
  match destOf w with
  | .port p => some (.port p)
  | .node n line _ => if s.dblNum n = 0 then none else some (.node (s.dblNum n) line (s.sideToward s.actBank (s.dblNum n)))

/-- A lookup in the bank in force, and during the double mapping in the other bank if it misses. -/
def State.dirLookup (s : State) (d : Nat) (k : DirKey) : State × Option Dest :=
  match s.dirFind d (s.bankOf d) k with
  | some i => (s, some (destOf (s.tw (dirWord d i 2))))
  | none =>
    if s.dblOn then
      (match s.dirFind d (1 - s.bankOf d) k with
      | some i => (s.count (fwd d FWD_TBL_CNT_DBL), s.dblDest (s.tw (dirWord d i 2)))
      | none => (s, none))
    else (s, none)

/-! ## Learning (R218) -/

/-- Learning writes an entry into one die's directory, or counts that there is no room. -/
def State.learnOn (s : State) (k : DirKey) (p d : Nat) : State :=
  let room := decide (s.rdF (fwd d FWD_DIR_RSV) 0 17 < 65536 - s.dirUsed d)
  match (if room then s.dirFree d k else none) with
  | some i => (((s.dirWrite d i k (setFld (setFld (setFld 0 8 6 p) 15 1 1) 16 2 3)).noteEnt d 1 i).ageFrom d i).evalTables d
  | none => s.count (fwd d FWD_DIR_CNT_LRN_DROP)

/-- A frame's source on a consist port is learned if it is unknown; a learned entry that is hit restarts its AGE.
(DEDUCED, log entry 37) -/
def State.learn (s : State) (p vid : Nat) (sa : Mac) : State :=
  let d := p / 32
  let k := DirKey.mac (BitVec.ofNat 12 vid) sa
  if isBackbone s.part p || !s.rdB (fwd d FWD_DIR_CFG) 0 || sa.getLsbD 40 then s
  else match s.dirFind d (s.bankOf d) k with
    | some i => if bit (s.tw (dirWord d i 2)) 15 then s.each (fun x t =>
        match t.dirFind x (t.bankOf x) k with
        | some j => (t.setTwF (dirWord x j 3) 0 16 0).ageFrom x j
        | none => t) s.dies else s
    | none => s.each (fun x t => t.learnOn k p x) s.dies

/-! ## Translation (R219 to R221) -/

/-- The bits of an address that an entry covers: all of them, or its prefix. -/
def xltMask (w2 : Word) : Word :=
  if bit w2 15 then (let n := clampTo 8 32 (fld w2 16 5); wordOf (2 ^ 32 - 2 ^ (32 - n))) else 0xFFFFFFFF

/-- An entry of a bank covers an address by word `k`: 0 LOCAL, 1 TRAIN. -/
def State.xltCovers (s : State) (d b k i : Nat) (a : Word) : Bool :=
  let w := s.tw (xltWord d i 2)
  bit w (12 + b) && (a &&& xltMask w) == (s.tw (xltWord d i k) &&& xltMask w)

/-- The entry for an address: one that is no prefix first, else the longest prefix.
(DEDUCED, log entry 44) -/
def State.xltFind (s : State) (d b k : Nat) (a : Word) : Option Nat :=
  let l := (s.entriesIn (xltWord d 0 0) 16384 9).filter fun i => s.xltCovers d b k i a
  match l.find? fun i => !bit (s.tw (xltWord d i 2)) 15 with
  | some i => some i
  | none => l.foldl (fun m i => match m with
      | none => some i
      | some j => if s.twF (xltWord d j 2) 16 5 < s.twF (xltWord d i 2) 16 5 then some i else some j) none

/-- The entry in the bank in force, or during the double mapping in the other bank (R226). -/
def State.xltLookup (s : State) (d k : Nat) (a : Word) : State × Option Nat :=
  match s.xltFind d (s.bankOf d) k a with
  | some i => (s, some i)
  | none =>
    if s.dblOn then
      (match s.xltFind d (1 - s.bankOf d) k a with
      | some i => (s.count (fwd d FWD_TBL_CNT_DBL), some i)
      | none => (s, none))
    else (s, none)

/-- The address that an entry gives for `a`, taken from word `k` to the other: host bits below a prefix stay.
(DEDUCED, log entry 37) -/
def State.xltMap (s : State) (d k i : Nat) (a : Word) : Word :=
  let m := xltMask (s.tw (xltWord d i 2))
  (s.tw (xltWord d i (1 - k)) &&& m) ||| (a &&& ~~~m)

/-- The result of a translation: the address and the consist VLAN of its entry; a drop where a NODE_REL entry meets number 0. -/
inductive Xlt where
  | miss
  | drop
  | found (a : Word) (vid : Nat)
  deriving DecidableEq, Repr

/-- An address is translated from word `k` to the other (R220, R221). -/
def State.translate (s : State) (d k : Nat) (a : Word) : State × Xlt :=
  if !s.rdB (fwd d FWD_XLT_CFG) 0 then (s, .found a 0)
  else match s.xltLookup d k a with
    | (t, some i) =>
      if bit (t.tw (xltWord d i 2)) 14 && t.stitchNum == 0 then (t.count (fwd d FWD_XLT_CNT_NONUM), .drop)
      else (t, .found (t.xltMap d k i a) (t.twF (xltWord d i 2) 0 12))
    | (t, none) => (t.count (fwd d FWD_XLT_CNT_MISS), .miss)

/-! ## R-NAT routing (R275, R276) -/

/-- FWD_XLT_MAC of a die. -/
def State.rnatMac (s : State) (d : Nat) : Nat := (s.rd (fwd d FWD_XLT_MAC_LO)).toNat + s.rdF (fwd d FWD_XLT_MAC_HI) 0 16 * 2 ^ 32

/-- The R-NAT MAC of a node. -/
def State.rnatOf (s : State) (d n : Nat) : Mac := BitVec.ofNat 48 (s.rnatMac d / 64 * 64 + n % 64)

/-- A frame is addressed to the R-NAT MAC of this node, as its ingress port requires (R275). -/
def State.toRnat (s : State) (f : Flow) : Bool :=
  match f.port with
  | some p => if isBackbone s.part p then f.eth.da == s.rnatOf f.die s.stitchNum else f.eth.da == BitVec.ofNat 48 (s.rnatMac f.die)
  | none => false

/-- The ARP entry of an address and VID: in its bucket of 4 ways. -/
def State.arpFind (s : State) (d : Nat) (a : Word) (vid : Nat) : Option Nat :=
  ((List.range 4).map (4 * ((crc32 (Config.arpKey a (BitVec.ofNat 12 vid))).toNat % 4096) + ·)).find? fun i =>
    s.tw (arpWord d i 0) == a && s.twF (arpWord d i 2) 16 12 == vid && bit (s.tw (arpWord d i 2)) 31

/-- A frame goes to the host port with a reason (R404).
(DEDUCED, log entry 37) -/
def State.toHost (s : State) (f : Flow) (r : RxReason) : State :=
  let h : HostFrame := { port := f.port.getD 0, reason := r, cls := f.cls, frame := f.eth, sof := f.sof }
  { s with fw := { s.fw with toHost := s.fw.toHost ++ [h] } }

/-- Toward a local port with the neighbor found, or to the host without one (R276). The port is the directory's (R273): PORT of the ARP
entry selects none.
(DEDUCED, log entry 37) -/
def State.routeArp (s : State) (f : Flow) (p vid : Nat) (ip : Ip) : Option Nat → State
  | none => (((s.count (fwd f.die FWD_CNT_ARP_MISS)).raise (fwd f.die 0) 1).toHost f .arpMiss)
  | some i =>
    let da : Mac := BitVec.ofNat 48 ((s.tw (arpWord f.die i 1)).toNat + s.twF (arpWord f.die i 2) 0 16 * 2 ^ 32)
    let e := { f.eth with da := da, sa := BitVec.ofNat 48 (s.rnatMac f.die), ip := some ip }
    if f.port = some p || !s.vlanHas f.die vid p then s else s.queueOne { f with vid := vid } p e

/-- Toward a local port (R275 step 5, R276). -/
def State.routeLocal (s : State) (f : Flow) (p vid : Nat) (ip : Ip) : State := s.routeArp f p vid ip (s.arpFind f.die ip.dst vid)

/-- Toward the backbone (R275 step 5): a frame from the backbone stays on its line (R302). -/
def State.routeRemote (s : State) (f : Flow) (n line side : Nat) (ip : Ip) : State :=
  let e := { f.eth with da := s.rnatOf f.die n, sa := s.mac, ip := some ip }
  let o := match f.port with
    | some p => if isBackbone s.part p then acrossPort p else backbonePort s.part line side
    | none => backbonePort s.part line side
  s.leaveBackbone { f with vid := s.rdF (fwd f.die FWD_RNAT_CFG) 0 12 } o e

/-- Steps 4 and 5 of R275 toward the destination found, or none. -/
def State.routeTo (t : State) (f : Flow) (fromConsist : Bool) (vid : Nat) (ip : Ip) : Option Dest → State
  | none => t.count (fwd f.die FWD_DIR_CNT_MISS)
  | some dest =>
    let dec := fromConsist && t.rdB (fwd f.die FWD_RNAT_CFG) 12
    if dec && decide (ip.ttl.toNat ≤ 1) then (t.count (fwd f.die FWD_CNT_TTL)).toHost f .ttl
    else
      let ip1 := if dec then { ip with ttl := ip.ttl - 1 } else ip
      match dest with
      | .port p => t.routeLocal f p vid ip1
      | .node n line side => t.routeRemote f n line side ip1

/-- Steps 3 to 5 of R275 for a translated header; `key` is the train destination, `vid` the consist VLAN toward a local port. -/
def State.routeOn (s : State) (f : Flow) (fromConsist : Bool) (key : Word) (vid : Nat) (ip : Ip) : State :=
  let r := s.dirLookup f.die (.ip key)
  r.1.routeTo f fromConsist vid ip r.2

/-- Routing (R275). -/
def State.route (s : State) (f : Flow) : State :=
  let consist := match f.port with
    | some p => !isBackbone s.part p
    | none => true
  match f.eth.ip with
  | none => (s.count (fwd f.die FWD_CNT_HOST)).toHost f (if f.eth.etype = 0x0806 then .arp else .notRoutable)
  | some ip =>
    if ip.options then (s.count (fwd f.die FWD_CNT_HOST)).toHost f .notRoutable
    else match s.translate f.die (if consist then 0 else 1) (if consist then ip.src else ip.dst) with
      | (t, .drop) => t
      | (t, .miss) => t.routeOn f consist ip.dst f.vid ip
      | (t, .found a v) => t.routeOn f consist ip.dst (if v = 0 then f.vid else v) (if consist then { ip with src := a } else { ip with dst := a })

/-! ## The lookup (R273) -/

/-- Group addresses that bridges never forward: 01-80-C2-00-00-00 to 0F.
(DEDUCED, log entry 37) -/
def reservedDa (m : Mac) : Bool := m.toNat / 16 == 0x0180C200000

/-- A frame that is not routed is looked up by VID and MAC. -/
def State.bridge (s : State) (f : Flow) : State :=
  if f.eth.da.getLsbD 40 then s.flood f
  else match s.dirLookup f.die (.mac (BitVec.ofNat 12 f.vid) f.eth.da) with
    | (t, none) => t.flood f
    | (t, some (.port p)) => if t.vlanHas f.die f.vid p && f.port != some p then t.queueOne f p f.eth else t
    | (t, some (.node _ line side)) =>
      match f.port with
      | some p => t.leaveBackbone f (if isBackbone t.part p then acrossPort p else backbonePort t.part line side) f.eth
      | none => t.leaveBackbone f (backbonePort t.part line side) f.eth

/-- A frame addressed to the R-NAT MAC is routed; a standby relays one from the backbone (R318). -/
def State.routeOr (s : State) (f : Flow) : State :=
  match f.port with
  | some p => if isBackbone s.part p && s.mode == .standby then s.leaveBackbone f (acrossPort p) f.eth else s.route f
  | none => s.route f

/-- A frame goes through lookup and routing. Frames for the node itself go to the host port. -/
def State.forward (s : State) (f : Flow) : State :=
  if !s.rdB (fwd f.die FWD_CFG) 0 then s
  else if f.eth.etype = 0x88F7 ∧ f.port.isSome then s.toHost f .gptp
  else if f.port.isSome && (reservedDa f.eth.da || f.eth.da == s.mac) then s.toHost f .forwarded
  else if s.toRnat f then s.routeOr f
  else s.bridge f

/-- The checks of R287 from MAXLEN on, for a frame received on a port. -/
def State.beIngress (s : State) (rx : Rx) (e : Eth) : State :=
  let p := rx.port.val
  if s.rdF (prt p PRT_MAXLEN) 0 14 < rx.len then (s.count (prt p PRT_CNT_OVERSIZE)).pst p 7
  else if !s.vlanIn p e then (s.count (prt p PRT_CNT_VLAN_DROP)).pst p 11
  else
    let v := s.vidOf p e
    let f : Flow := { port := some p, die := p / 32, vid := v, cls := s.classOf p e, eth := e, other := none, sof := s.rxStamp rx }
    (s.learn p v e.sa).forward f

/-- A frame from HP in a class: it takes VID 0's place from its tag, or PVID 1 (R403). -/
def State.fromHost (s : State) (cls : Nat) (e : Eth) (other : Option Frame) : State :=
  let vid := match e.tag with
    | some t => if t.2 = 0 then 1 else t.2.toNat
    | none => 1
  s.forward { port := none, die := 0, vid := vid, cls := cls, eth := e, other := other, sof := 0 }

end Sys2Proof.Machine
end

