-- ==== Sys2Proof/Machine/Datasets.lean ====
section
/-! DEFINITION. The commands of the dataset engines: host commits (R244, R246), flips (R245), ages without rows (R248), recovery
timeouts (R260), TRDP (R261 to R266) and notifications (R267). -/

namespace Sys2Proof.Machine

/-! ## Host commits and flips (R244 to R246) -/

/-- The HOST context of a dataset on a die; in STANDBY the source of every PRODUCE context is the lifeline (R240). -/
def State.hostCtx (s : State) (d id : Nat) : Option Nat :=
  (s.ctxOf d id).filter fun c => s.ctxValid d c && s.ctxRole d c == 1 && s.ctxSrc d c == 0 && s.mode != .standby

/-- A write of DSK_COMMIT: a commit, or COMMIT_REJ.
(DEDUCED, log entry 35) -/
def State.hostCommit (s : State) (d id : Nat) : State :=
  match s.hostCtx d id with
  | some c =>
    if s.rdB (dsk d DSK_COMMIT_STAT) 0 then (s.wrB (dsk d DSK_COMMIT_STAT) 1 true).raise (dsk d 0) 2
    else (s.wr (dsk d DSK_COMMIT_STAT) 1).commitBack d c
  | none => (s.wrB (dsk d DSK_COMMIT_STAT) 1 true).raise (dsk d 0) 2

/-- HOST_COMMIT. -/
def execHostCommit (d : Sys2Proof.Die) (ds : BitVec 13) (s : State) : Host.Outcome State Fault Refusal :=
  .next (s.guarded (dsk (dieNum d) DSK_COMMIT) fun t => t.hostCommit (dieNum d) ds.toNat)

/-- BUFFER_FLIP: 1 µs after its commit the flip is made; a host's commit is then over. -/
def execBufferFlip (d : Sys2Proof.Die) (ctx : Fin 4096) (s : State) : Host.Outcome State Fault Refusal :=
  .next (match s.dk.flips.find? fun f => f.die == dieNum d && f.ctx == ctx.val with
    | some f => s.when (s.dieUp (dieNum d)) fun t =>
        ((t.reachOn (dieNum d) f.due).doFlip f).when (t.ctxSrc f.die f.ctx == 0 && f.null.isNone) fun u => u.wrB (dsk f.die DSK_COMMIT_STAT) 0 false
    | none => s)

/-- The age tick of a die in ns. -/
def State.cmpTick (s : State) (d : Nat) : Nat := s.rdF (dsk d DSK_CMP_TICK) 0 16 * us

/-- CMP_AGE_TICK: without rows every age of a die counts by its tick, one tick after the last one. -/
def execCmpAgeTick (d : Sys2Proof.Die) (s : State) : Host.Outcome State Fault Refusal :=
  .next (s.when (s.dieUp (dieNum d) && !s.run) fun t =>
    let k := tmr (dsk (dieNum d) DSK_CMP_TICK) 0
    ((t.reachFrom k (t.cmpTick (dieNum d))).ageDie (dieNum d)).mark k)

/-! ## The rows of the recovery contexts (R260) -/

/-- The row of a skein counts as active: some SKEIN stitch of its ID is; a skein that no SKEIN stitch carries counts every row.
(DEDUCED, log entry 35) -/
def State.skeinActive (s : State) (skein : Nat) : Bool :=
  match s.actSlot with
  | none => false
  | some sl =>
    let l := (List.range (s.slotCnt sl)).filter fun i => (s.entry sl i).kind == kSkein && (s.entry sl i).ident == skein
    l.isEmpty || l.any fun i => s.wasActive s.row s.thisRow i (s.entry sl i)

/-- At the end of a row a context that accepted a copy without a duplicate counts SINGLE, and rows without a copy or with rogues alone
are counted (R260). -/
def State.recRow (s : State) (d i : Nat) : State :=
  let r := s.recInfo d i
  let t := if r.acc && !r.dup then (s.count (dsk d DSK_CNT_SINGLE)).raise (dsk d 0) 5 else s
  let act := s.skeinActive (s.twF (recWord d i 0) 0 13)
  t.setRecInfo d i { r with
    acc := false, dup := false, came := false, rogue := false
    quiet := if r.came then 0 else if act then r.quiet + 1 else r.quiet
    rogues := if r.acc then 0 else if r.rogue then r.rogues + 1 else if act then 0 else r.rogues }

/-- The row ends for every recovery context in use. -/
def State.singles (s : State) : State := s.each (fun d t => t.each (fun i u => u.recRow d i) (t.recsUsed d)) s.dies

/-- TMO rows have passed without a copy, or ROGUE_N with rogues alone. -/
def State.frerDue (s : State) (d i : Nat) (rogue : Bool) : Bool :=
  if rogue then decide (atLeast1 (s.rdF (dsk d DSK_FRER_CFG) 8 4) ≤ (s.recInfo d i).rogues)
  else decide (atLeast1 (s.rdF (dsk d DSK_FRER_CFG) 0 8) ≤ (s.recInfo d i).quiet)

/-- FRER_TIMEOUT: no copy for TMO active rows, or rogues alone in ROGUE_N of them; the count then starts anew. -/
def execFrerTimeout (d : Sys2Proof.Die) (ctx : Fin 1024) (rogue : Bool) (s : State) : Host.Outcome State Fault Refusal :=
  let k := dieNum d
  .next (s.when (s.dieUp k && s.run && !s.cmpMode && bit (s.tw (recWord k ctx.val 0)) 15 && s.frerDue k ctx.val rogue) fun t =>
    (t.takeAny k ctx.val).setRecInfo k ctx.val { t.recInfo k ctx.val with quiet := 0, rogues := 0 })

/-! ## TRDP (R261 to R266) -/

/-- The dataset engine of a die handles TRDP. -/
def State.trdpOn (s : State) (d : Nat) : Bool := s.dieUp d && s.rdB (dsk d DSK_CFG) 0 && s.rdB (dsk d DSK_CFG) 1

/-- The TRDP entries of a die in use. -/
def State.trdpEntries (s : State) (d : Nat) : List Nat :=
  ((s.tbl.filter fun e => decide (trdpWord d 0 0 ≤ e.1 ∧ e.1 < trdpWord d 4096 0) && e.1 % 32 == 5).map
    fun e => (e.1 - trdpWord d 0 0) / 32).filter fun i => bit (s.tw (trdpWord d i 1)) 14

/-- The receive entry that a telegram matches.
(DEDUCED, log entry 35) -/
def State.trdpMatch (s : State) (d : Nat) (t : Trdp) : Option Nat :=
  (s.trdpEntries d).find? fun i =>
    !bit (s.tw (trdpWord d i 1)) 13 && s.tw (trdpWord d i 0) == t.comId && (s.tw (trdpWord d i 2) == 0 || s.tw (trdpWord d i 2) == t.src)

/-- A telegram fails its checks. -/
def State.trdpBad (s : State) (d : Nat) : State := (s.count (dsk d DSK_CNT_TRDP_BAD)).raise (dsk d 0) 6

/-- A checked telegram is committed: to a PRODUCE context with source TRDP, in STANDBY only by the lifeline; or to a CONSUME context. -/
def State.trdpCommit (s : State) (d c : Nat) (t : Trdp) : State :=
  if s.ctxRole d c = 1 ∧ s.ctxSrc d c = 3 then (if s.mode = .standby then s else s.commitData d c t.data)
  else if s.ctxRole d c = 0 then
    s.consume d c { state := 1, dsid := BitVec.ofNat 13 (fld (s.cw d c 0) 0 13), reason := 0, age := 0
                    seq := BitVec.ofNat 16 (s.bufSeq (s.bufAddr d c (s.ctxFront d c)) + 1), data := t.data }
  else s

/-- A telegram that a receive entry matches is checked, and committed to its context. -/
@[noinline] def State.trdpTake (s : State) (k c : Nat) (etb : Bool) (t : Trdp) : State :=
  if t.headerOk && t.data.length == s.ctxLen k c && (!etb || t.etbTopo == 0 || t.etbTopo == s.topoCtr)
  then s.trdpCommit k c t else s.trdpBad k

/-- The context of a TRDP entry. -/
def State.trdpCtx (s : State) (k i : Nat) : Option Nat := (s.ctxOf k (s.twF (trdpWord k i 1) 0 13)).filter (s.ctxValid k)

/-- TRDP_RX: the engine takes a copy of a telegram; the frame itself is forwarded as any other. -/
def execTrdpRx (d : Sys2Proof.Die) (t : Trdp) (s : State) : Host.Outcome State Fault Refusal :=
  let k := dieNum d
  .next (s.when (s.trdpOn k) fun u => u.onSome (u.trdpMatch k t) fun i v => v.onSome (v.trdpCtx k i) fun c x =>
    x.trdpTake k c (bit (x.tw (trdpWord k i 1)) 15) t)

/-- The telegram of a transmit entry enters forwarding as a frame from HP. The node's IP address and the TTL are not stated: free values. -/
@[noinline] def State.trdpFrame (s : State) (d i c : Nat) : State :=
  let data := (s.strandView d c).data
  let q := (Assoc.get s.dk.trdpSeq (d * 65536 + i)).getD 0
  let pcp := s.twF (trdpWord d i 1) 20 3
  let src := s.fresh
  let s1 := s.useFree
  let e : Eth := { da := BitVec.ofNat 48 ((s.tw (trdpWord d i 3)).toNat + s.twF (trdpWord d i 4) 0 16 * 2 ^ 32), sa := s.mac
                   tag := some (BitVec.ofNat 3 pcp, BitVec.ofNat 12 (s.twF (trdpWord d i 4) 16 12)), etype := 0x0800, len := 90 + data.length
                   ip := some { src := src, dst := s.tw (trdpWord d i 2), ttl := BitVec.ofNat 8 s1.fresh.toNat, options := false } }
  let t : Trdp := { comId := s.tw (trdpWord d i 0), src := src, headerOk := true, etbTopo := s.topoCtr, opTopo := 0, data := data }
  let s2 : State := { s1.useFree with dk := { s.dk with trdpSeq := Assoc.put s.dk.trdpSeq (d * 65536 + i) ((q + 1) % 2 ^ 32) } }
  (s2.noteSeq d 2 i).fromHost pcp e (some (.trdp e (wordOf q) t))

/-- The telegram of a transmit entry: a view other than VALID, STALE and ZEROED is not sent. -/
def State.trdpSend (s : State) (d i : Nat) : State :=
  s.onSome (s.trdpCtx d i) fun c t => if 1 ≤ t.ctxView d c ∧ t.ctxView d c ≤ 3 then t.trdpFrame d i c else t

/-- An entry transmits.
(DEDUCED, log entry 35; PRESUMED, log entry 36) -/
def State.trdpTx (s : State) (d i : Nat) : Bool := s.trdpOn d && bit (s.tw (trdpWord d i 1)) 14 && bit (s.tw (trdpWord d i 1)) 13

/-- TRDP_CYCLE_SEND: without rows, CYCLE ticks after the entry's last telegram. -/
def execTrdpCycleSend (d : Sys2Proof.Die) (entry : Fin 4096) (s : State) : Host.Outcome State Fault Refusal :=
  .next (s.when (!s.run && s.mode != .standby && s.trdpTx (dieNum d) entry.val) fun t =>
    let k := tmr (trdpWord (dieNum d) entry.val 5) 0
    ((t.reachFrom k (t.twF (trdpWord (dieNum d) entry.val 5) 0 16 * t.cmpTick (dieNum d))).trdpSend (dieNum d) entry.val).mark k)

/-- In row mode the telegrams of a row are built at its output latch (R264); in STANDBY none are. -/
def State.trdpRow (s : State) : State :=
  if s.mode = .standby then s
  else s.each (fun d t => t.each (fun i u =>
    u.when (u.trdpTx d i && u.row.toNat % 2 ^ (min 10 (u.twF (trdpWord d i 1) 16 4)) == 0) fun v => v.trdpSend d i) (t.trdpEntries d)) s.dies

/-! ## Notifications (R267) -/

/-- What a read of DSK_NTF_POP answers: the oldest notification, 0 where there is none. -/
def State.ntfFront (s : State) (d : Nat) : Word := match s.dk.ntf.find? (·.1 == d) with | some e => e.2 | none => 0

/-- The first entry of a list that satisfies `p` is left out. -/
def eraseFirst {α : Type} (p : α → Bool) : List α → List α
  | [] => []
  | x :: xs => if p x then xs else x :: eraseFirst p xs

/-- A read of DSK_NTF_POP removes the oldest notification. -/
def State.popNtf (s : State) (d : Nat) : State :=
  let l := eraseFirst (fun e : Nat × Word => e.1 == d) s.dk.ntf
  ({ s with dk := { s.dk with ntf := l } } : State).wrF (dsk d DSK_NTF_CNT) 0 9 (l.filter (·.1 == d)).length

/-- NTF_POP, by the host. -/
def execNtfPop (d : Sys2Proof.Die) (s : State) : Host.Outcome State Fault Refusal :=
  .next (s.when (s.reach (dsk (dieNum d) DSK_NTF_POP)) fun t =>
    (t.emit (.read .pcie (dsk (dieNum d) DSK_NTF_POP) (t.ntfFront (dieNum d)))).popNtf (dieNum d))

end Sys2Proof.Machine
end

