-- ==== Sys2Proof/Machine/Egress.lean ====
section
/-! DEFINITION. Best-effort egress: the gates (R151, R192, R279, R280, R282), preemption and length-aware holding (R281, R283), the
queues (R277), and priority flow control as received (R291). -/

namespace Sys2Proof.Machine

/-! ## Instants within the row or the gate cycle -/

/-- The gates follow the row: rows run. -/
def State.gatesRow (s : State) : Bool := s.run

/-- The gates follow the cycle of R282: compatibility mode outside CAST-ON and MAINTENANCE, with an active profile. -/
def State.gatesCycle (s : State) : Bool :=
  !s.run && s.cmpMode && s.mode != .castOn && s.mode != .maintenance && decide (0 < s.rowLen)

/-- The time that the cycle of R282 counts while the followed domain is lost: that domain's at the loss, and what the row clock of die `d`
has gained since (R73). -/
def State.cyclePos (s : State) (d : Nat) : Nat := s.tm.cycle.1 + (s.stCount d + 2 ^ 64 - s.tm.cycle.2) % 2 ^ 64

/-- The place of this instant in the row, or in the cycle, in ns. -/
def State.gatePos (s : State) (d : Nat) : Int :=
  if s.gatesRow then stDiff (s.st d) (s.rd (sch 0 SCH_ROW_ST))
  else if s.holdover || s.tdLost s.rckDom then ((s.cyclePos d % s.rowLen : Nat) : Int)
  else (s.view d s.rckDom % s.rowLen : Nat)

/-- The entries of a row's profile that are active in it, with their index and effective owner. -/
def State.rowEntries (s : State) (row : Word) (v : RowView) : List (Nat × Stitch × Nat) :=
  match s.slotOf v.bank v.prf with
  | none => []
  | some sl => (List.range (s.slotCnt sl)).filterMap fun i =>
    let e := s.entry sl i
    if s.wasActive row v i e then some (i, e, s.effOwner v.bank v.prf i e) else none

/-- The active entries of the current row, with their index. -/
def State.activeEntries (s : State) : List (Nat × Stitch) := (s.rowEntries s.row s.thisRow).map fun x => (x.1, x.2.1)

/-- The effective owner of an entry of the active profile. -/
def State.ownerNow (s : State) (i : Nat) (e : Stitch) : Nat := s.effOwner s.actBank s.actPrf i e

/-- An owner number is this node's: its own number, or the pair number while it is lead (R318). -/
def State.ownNum (s : State) (n : Nat) : Bool := n != 0 && (n == s.num || (s.paired && s.lead && n == s.stitchNum))

/-- A span of time in ns from a row start: from `lo` to `hi`. -/
abbrev Span := Int × Int

/-- Spans moved by some ns. -/
def shiftSpans (k : Int) (l : List Span) : List Span := l.map fun x => (x.1 + k, x.2 + k)

/-- The stretches around the active backbone stitches and the ROW_START zone, without close lead (R192, R279). -/
def State.backboneSpans (s : State) : List Span :=
  let sv : Int := s.actSelv
  let rs : Int := match s.actSlot with
    | some sl => (s.rdF (sch 0 (SCH_SLOT_RSLEN sl)) 0 20 * 8 : Nat)
    | none => 0
  (-sv, rs + sv) :: (s.activeEntries.filter fun x => backboneKind x.2.kind).map fun x =>
    ((x.2.startNs : Int) - sv, (x.2.startNs + x.2.lenNs : Nat) + sv)

/-- The stretches around the active POLL and REPLY stitches of a row that this node owns on a port (R280). -/
def State.pollsOf (s : State) (p : Nat) (row : Word) (v : RowView) : List Span :=
  let sv : Int := s.actSelv
  ((s.rowEntries row v).filter fun x => consistKind x.2.1.kind && x.2.1.masks p && s.ownNum x.2.2).map fun x =>
    ((x.2.1.startNs : Int) - sv, (x.2.1.startNs + x.2.1.lenNs : Nat) + sv)

/-- The active BE entries of a port, open to this node (R279). -/
def State.beSpans (s : State) (p : Nat) : List Span :=
  ((s.rowEntries s.row s.thisRow).filter fun x => x.2.1.kind == kBe && x.2.1.masks p && (x.2.2 == 0 || s.ownNum x.2.2)).map fun x =>
    ((x.2.1.startNs : Int), (x.2.1.startNs + x.2.1.lenNs : Nat))

/-- The BE windows of a consist port in the row (R151, R280). -/
def State.portWindows (s : State) (p : Nat) : List Span :=
  ((s.rowEntries s.row s.thisRow).filter fun x => x.2.1.kind == kBe && x.2.1.masks p && (s.ownNum x.2.2 || x.2.1.owner == 0)).map fun x =>
    ((x.2.1.startNs : Int), (x.2.1.startNs + x.2.1.lenNs : Nat))

/-- The BE entries that hold a port, in the cycle of R282. -/
def State.cycleSpans (s : State) (p : Nat) : List Span :=
  match s.actSlot with
  | none => []
  | some sl => ((List.range (s.slotCnt sl)).map (s.entry sl)).filterMap fun e =>
    if e.kind = kBe ∧ e.masks p then some ((e.startNs : Int), ((e.startNs + e.lenNs : Nat) : Int)) else none

/-- A list of spans of this row, and those of the next row after it. -/
def State.bothRows (s : State) (f : State → List Span) : List Span := f s ++ shiftSpans s.rowLen (f s.asNext)

/-- The stretches of the POLL and REPLY stitches on a port, in this row, the next one and the one before. -/
def State.pollSpans (s : State) (p : Nat) : List Span :=
  s.bothRows (fun t => t.pollsOf p t.row t.thisRow)
    ++ shiftSpans (stDiff s.sc.prevRowSt (s.rd (sch 0 SCH_ROW_ST))) (s.pollsOf p (s.row - 1) s.lastRow)

/-- A span holds an instant, its end not included. -/
def within (x : Int) (l : List Span) : Bool := l.any fun w => decide (w.1 ≤ x ∧ x < w.2)

/-- A closed span, begun earlier by `tc` in 1/400 ns, holds an instant. -/
def nearSpan (tc x : Int) (l : List Span) : Bool := l.any fun w => decide (w.1 * 400 - tc ≤ x * 400 ∧ x ≤ w.2)

/-! ## Preemption (R281, R283) -/

/-- The close lead Tc in 1/400 ns. -/
def State.closeLead (s : State) (p : Nat) : Int :=
  if s.preActive p then ((64 * (1 + s.rdF (prt p PRT_PRE_CFG) 2 2) + 83 : Nat) : Int) * s.anyByte p else 0

/-! ## The gates -/

/-- The gate of a class on a port at an instant of the row or the cycle. -/
@[noinline] def State.gateAt (s : State) (p cls : Nat) (x : Int) : Bool :=
  let bb := isBackbone s.part p
  if isUplink s.part p ∧ s.mode = .standby then false
  else if s.gatesRow then
    (if bb then
      cls == 7 || (within x (s.bothRows fun t => t.beSpans p) && !nearSpan (s.closeLead p) x (s.bothRows State.backboneSpans) && !s.mutedOn (p / 32))
    else
      !nearSpan (s.closeLead p) x (s.pollSpans p)
        && (s.rdB (prt p PRT_GATE_CFG) (8 + cls) || !s.rdB (prt p PRT_GATE_CFG) 0 || within x (s.bothRows fun t => t.portWindows p)))
  else if s.gatesCycle then
    (if bb then decide (6 ≤ cls) else s.rdB (prt p PRT_GATE_CFG) (8 + cls))
      || within x (s.cycleSpans p ++ shiftSpans s.rowLen (s.cycleSpans p))
  else true

/-- The instants at which the gates of a port may change. -/
def State.gateEdges (s : State) (p : Nat) : List Int :=
  let tc := s.closeLead p
  let closed (l : List Span) : List Int := l.flatMap fun w => [-((tc - w.1 * 400) / 400), w.2 + 1]
  let opened (l : List Span) : List Int := l.flatMap fun w => [w.1, w.2]
  if s.gatesRow then
    (if isBackbone s.part p then opened (s.bothRows fun t => t.beSpans p) ++ closed (s.bothRows State.backboneSpans)
    else closed (s.pollSpans p) ++ opened (s.bothRows fun t => t.portWindows p))
  else if s.gatesCycle then opened (s.cycleSpans p ++ shiftSpans s.rowLen (s.cycleSpans p))
  else []

/-- The earliest of some instants from `x` on at which the gate is as asked.
(DEDUCED, log entry 38) -/
def State.nextGate (s : State) (p cls : Nat) (x : Int) (opens : Bool) : Option Int :=
  ((x :: s.gateEdges p).filter fun y => decide (x ≤ y) && s.gateAt p cls y == opens).foldl
    (fun m y => match m with | none => some y | some z => some (min y z)) none

/-- What PRT_GATE_STAT of a port reads: the gate of each class now, and HELD (R281).
(DEDUCED, log entry 38) -/
def State.gateWord (s : State) (p : Nat) : Word :=
  let x := s.gatePos (p / 32)
  let open8 := (List.range 8).foldl (fun n c => n + b2n (s.gateAt p c x) * 2 ^ c) 0
  wordOf (open8 + b2n (s.fw.queue.any fun e => e.port == p && e.held) * 256)

/-- PRT_GATE_STAT of a port is brought up to date. -/
def State.evalGates (s : State) (p : Nat) : State := s.wr (prt p PRT_GATE_STAT) (s.gateWord p)

/-- What a muted node widens the edges of a gap by, in ns (R192). -/
def State.gapEdge (s : State) : Int := if s.muted then ((s.absOfs 0 + 15) / 16 : Nat) else 0

/-- A frame of `n` bytes that starts at a place of the row on a port starts and ends in a gap of the profile (R192). -/
def State.fitsGap (s : State) (p n : Nat) (x : Int) : Bool :=
  (s.bothRows State.backboneSpans).all fun z => decide (x * 400 + s.wireTime p n ≤ (z.1 - s.gapEdge) * 400 ∨ z.2 + s.gapEdge ≤ x)

/-- Class 7 on a backbone port while rows run: a frame of `n` bytes starts and ends in a gap of the profile (R192). Muted, the node
widens each edge by its offset. An end side without neighbour sends it as best-effort class 7. -/
def State.inGap (s : State) (p n : Nat) : Bool := s.endSide (portSide p) || s.fitsGap p n (s.gatePos (p / 32))

/-- The ns from now to the first gap of the active profile that takes a frame of `n` bytes on every backbone port (R192, R306).
(DEDUCED, log entry 72) -/
def State.toGap (s : State) (n : Nat) : Option Nat :=
  let x := s.gatePos 0
  let edges := x :: (s.bothRows State.backboneSpans).map fun z => z.2 + s.gapEdge
  ((edges.filter fun y => decide (x ≤ y) && (backbonePorts s.part).all fun p => s.fitsGap p n y).foldl
    (fun m y => match m with | none => some y | some z => some (min y z)) none).map fun y => (y - x).toNat

/-- A frame placed as R306 places TURN_NOTICE is sent: while rows run in the first gap, else at once. Where no gap takes it, it is not
sent.
(DEDUCED, log entry 72) -/
def State.inFirstGap (s : State) (n : Nat) (f : State → State) : State :=
  if s.run then
    (match s.toGap n with
    | some k => f (s.reachSt (s.st 0 + wordOf k))
    | none => s)
  else f s

/-- Frames of a class on a port follow the gaps of R192 in place of gates (R279). -/
def State.byGaps (s : State) (p cls : Nat) : Bool := isBackbone s.part p && cls == 7 && s.gatesRow

/-- A frame of `n` bytes in a class whose gate is open may start now: it ends by the close, unless preemption is active (R281). -/
def State.endsInTime (s : State) (p cls n : Nat) : Bool :=
  s.byGaps p cls || s.preActive p ||
    (let x := s.gatePos (p / 32)
     match s.nextGate p cls x false with
     | none => true
     | some y => decide (x * 400 + s.wireTime p n ≤ y * 400))

/-! ## The queues (R277) -/

/-- The class that the link partner has paused (R291). -/
def State.pausedCls (s : State) (p q : Nat) : Bool := isUplink s.part p && decide (q < 7) && s.rdB (prt p PRT_PFC_STAT) (8 + q)

/-- A frame of a higher queue of the port is held, and the closed interval of its gate lasts (R281).
(DEDUCED, log entry 38) -/
def State.heldAbove (s : State) (p q : Nat) : Bool :=
  s.fw.queue.any fun e => e.port == p && e.held && decide (q < e.cls) && !s.gateAt p e.cls (s.gatePos (p / 32))

/-- The first frame of a queue that may be served: its gate is open, it is not paused, and no held frame stands before it. A frame that
waits for a gap is passed over, and is not held. -/
def State.headOf (s : State) (p q : Nat) : Option QEnt :=
  if s.pausedCls p q || !s.gateAt p q (s.gatePos (p / 32)) || s.heldAbove p q then none
  else (s.fw.queue.find? fun e => e.port == p && e.cls == q).filter fun e => !s.byGaps p q || s.inGap p e.len

/-- Something waits in a queue. -/
def State.waitsIn (s : State) (p q : Nat) : Bool := s.fw.queue.any fun e => e.port == p && e.cls == q

/-- The deficit of a queue. -/
def State.deficit (s : State) (p q : Nat) : Nat := (Assoc.get s.fw.deficit (p * 4 + q)).getD 0
def State.setDeficit (s : State) (p q v : Nat) : State := { s with fw := { s.fw with deficit := Assoc.put s.fw.deficit (p * 4 + q) v } }

/-- The quantum of a queue: 256 bytes times its weight, of which 0 acts as 1. -/
def State.quantum (s : State) (p q : Nat) : Nat := 256 * atLeast1 (s.rdF (prt p PRT_DWRR) (8 * q) 8)

/-- The round robin reaches the next queue, which gains its quantum if it holds a frame. -/
def State.drrTurn (t : State) (p r : Nat) : State :=
  let u : State := { t with fw := { t.fw with drr := Assoc.put t.fw.drr p r } }
  if (u.headOf p r).isSome then u.setDeficit p r (u.deficit p r + u.quantum p r) else u

/-- The deficit round robin over queues 0 to 3: the frame that it picks. A queue reached gains its quantum; a queue that holds nothing
loses its deficit; a queue passed over keeps it.
(DEDUCED, log entry 38) -/
def State.drrPick (s : State) (p : Nat) : Nat → Nat → State × Option QEnt
  | 0, _ => (s, none)
  | fuel + 1, q =>
    match s.headOf p q with
    | some e =>
      if e.len ≤ s.deficit p q then (s, some e)
      else State.drrPick (s.drrTurn p ((q + 1) % 4)) p fuel ((q + 1) % 4)
    | none => State.drrPick ((if s.waitsIn p q then s else s.setDeficit p q 0).drrTurn p ((q + 1) % 4)) p fuel ((q + 1) % 4)

/-- The frame that a port would serve next: strict priority in queues 7 to 4, then the round robin. -/
def State.pick (s : State) (p : Nat) : State × Option QEnt :=
  match [7, 6, 5, 4].findSome? (s.headOf p) with
  | some e => (s, some e)
  | none =>
    if [0, 1, 2, 3].any fun q => (s.headOf p q).isSome then s.drrPick p 256 ((Assoc.get s.fw.drr p).getD 0) else (s, none)

/-- A frame waits under R281: counted once. -/
def State.holdEnt (s : State) (e : QEnt) : State :=
  if e.held then s
  else
    let t : State := { s with fw := { s.fw with queue := s.fw.queue.map fun x => if x = e then { x with held := true } else x } }
    ((t.count (prt e.port PRT_CNT_HELD)).pst e.port 37).evalGates e.port

/-- The first entry of a list that equals `e` is left out. -/
def dropFirst (e : QEnt) : List QEnt → List QEnt
  | [] => []
  | x :: xs => if x = e then xs else x :: dropFirst e xs

/-- A queue's frame starts: it leaves the queue and is sent; its cells are freed when its last byte has left. -/
def State.startEnt (s : State) (e : QEnt) : State :=
  let p := e.port
  let t : State := { s with fw := { s.fw with queue := dropFirst e s.fw.queue } }
  let t1 := if e.cls < 4 then t.setDeficit p e.cls (t.deficit p e.cls - e.len) else t
  let u := t1.sendPort p e.frame false
  let v : State := if u.out.length = t1.out.length then u
    else { u with fw := { u.fw with sending := u.fw.sending ++ [{ ent := e, ends := u.now + ceilNs (u.wireTime p e.len), left := none }] } }
  (v.evalPort p).evalGates p

/-- Frames whose last byte has left a port give their cells back (R277, R291). -/
def State.reap (s : State) (p : Nat) : State :=
  let gone := s.fw.sending.filter fun x => x.ent.port == p && x.left.isNone && decide (x.ends ≤ s.now)
  let t : State := { s with fw := { s.fw with sending := s.fw.sending.filter fun x => !(x.ent.port == p && x.left.isNone && decide (x.ends ≤ s.now)) } }
  (t.evalPort p).each (fun x u => match x.ent.pfc with | some (q, k) => u.evalPfc q k | none => u) gone

/-- A port's link fails: the best-effort frame in flight on it is lost, and its cells are free again (R39). -/
def State.loseFlight (s : State) (p : Nat) : State :=
  let gone := s.fw.sending.filter fun x => x.ent.port == p
  if gone.isEmpty then s
  else
    let t : State := { s with fw := { s.fw with sending := s.fw.sending.filter fun x => x.ent.port != p } }
    (t.evalPort p).each (fun x u => match x.ent.pfc with | some (q, k) => u.evalPfc q k | none => u) gone

/-- The best-effort frames that wait for a port are lost as a turn is set on it (R313), but for the TTDP frames that an end side without
neighbour still sends (R192).
(DEDUCED, log entry 45) -/
def State.loseQueue (s : State) (p : Nat) : State :=
  let goes (e : QEnt) : Bool := e.port == p && (match e.frame with | .hello _ _ | .topology _ => false | _ => true)
  let gone := s.fw.queue.filter goes
  if gone.isEmpty then s
  else
    let t : State := { s with fw := { s.fw with queue := s.fw.queue.filter fun e => !goes e } }
    (t.evalPort p).each (fun e u => match e.pfc with | some (q, k) => u.evalPfc q k | none => u) gone

/-- The rest of a preempted frame follows once its gate is open. -/
def State.resume (s : State) (p : Nat) (x : Sending) : State :=
  if s.gateAt p x.ent.cls (s.gatePos (p / 32)) then
    ({ s with fw := { s.fw with sending := s.fw.sending.map fun y =>
        if y = x then { y with ends := s.now + x.left.getD 0, left := none } else y } } : State).fragment p
  else s

/-- A port sends best-effort frames: its engine works, its link is up, and its side is not split (R20, R309).
(DEDUCED, log entry 38) -/
def State.egressOn (s : State) (p : Nat) : Bool :=
  s.portOn p && (if isBackbone s.part p then s.lock p && !s.split p else s.link p)

/-- The port is idle: its best-effort path sends nothing, and no scheduled frame takes it (R123, R283). -/
def State.transmitOn (s : State) (p : Nat) : State :=
  let t := (s.reap p).when (isBackbone s.part p && s.turnAt p != .none) fun u => u.loseQueue p
  match t.fw.sending.find? fun x => x.ent.port == p with
  | some x => if x.left.isSome && t.freeAt p t.now == t.now then t.resume p x else t
  | none =>
    if t.freeAt p t.now ≠ t.now then t
    else match t.pick p with
    | (u, none) => u
    | (u, some e) => if u.endsInTime p e.cls e.len then u.startEnt e else u.holdEnt e

/-- EGRESS_TRANSMIT. -/
def execEgressTransmit (p : Port) (s : State) : Host.Outcome State Fault Refusal :=
  .next (s.when (s.egressOn p.val) fun t => t.transmitOn p.val)

/-- At a close a frame of the class that is being sent is preempted where preemption is active (R281).
(DEDUCED, log entry 38) -/
def State.preemptAt (s : State) (p cls : Nat) : State := s.preemptIf p fun x => x.ent.cls == cls

/-- A gate changes at the next instant of the profile at which it does (R279 to R282). -/
def State.gateChange (s : State) (p cls : Nat) (opens : Bool) : State :=
  let x := s.gatePos (p / 32)
  match s.nextGate p cls x opens with
  | none => s
  | some y =>
    let t := s.reachSt (s.st 0 + wordOf (y - x).toNat)
    (if opens then t else t.preemptAt p cls).evalGates p

/-- GATE_CHANGE. -/
def execGateChange (p : Port) (cls : Fin 8) (opens : Bool) (s : State) : Host.Outcome State Fault Refusal :=
  .next (s.when (s.portOn p.val) fun t => t.gateChange p.val cls.val opens)

/-! ## Preemption verify (R283) -/

/-- The timers of a port: its verify, and the PFC pause of a priority. -/
abbrev verifyTmr (p : Nat) : Nat := tmr (prt p PRT_PRE_CFG) 0
abbrev pauseTmr (p q : Nat) : Nat := tmr (prt p PRT_PFC_STAT) q

/-- Verify starts at a link-up, or preemption is active at once with VERIFY_DIS.
(DEDUCED, log entry 38) -/
def State.startVerify (s : State) (p : Nat) : State :=
  if !canPreempt s.part p || !s.rdB (prt p PRT_PRE_CFG) 0 then s.wrF (prt p PRT_PRE_STAT) 0 3 0
  else if s.rdB (prt p PRT_PRE_CFG) 1 then s.wrF (prt p PRT_PRE_STAT) 0 3 1
  else (s.wrF (prt p PRT_PRE_STAT) 0 3 2).arm (verifyTmr p) (atLeast1 (s.rdF (prt p PRT_PRE_CFG) 8 7) * ms)

/-- PREEMPT_VERIFY_DONE: a running verify succeeds, or fails with PRE_FAIL. -/
def execPreemptVerifyDone (p : Port) (ok : Bool) (s : State) : Host.Outcome State Fault Refusal :=
  .next (s.when (s.portOn p.val && s.rdF (prt p.val PRT_PRE_STAT) 1 2 == 1) fun t =>
    let u := if ok then t.disarm (verifyTmr p.val) else t.expire (verifyTmr p.val)
    if ok then u.wrF (prt p.val PRT_PRE_STAT) 0 3 5 else (u.wrF (prt p.val PRT_PRE_STAT) 0 3 6).raise (prt p.val 0) 12)

/-! ## PFC as received (R291) -/

/-- A MAC control frame is consumed (R150). -/
def State.macControl (s : State) (p n : Nat) : State := ((((s.crossPort p).pst p 0).statBy (portCtr p 1) n).pst p 3).pst p 9

/-- The ns of some pause quanta of 512 bit times at a port's rate. -/
def State.quantaNs (s : State) (p n : Nat) : Nat := (n * 64 * (s.anyByte p).toNat + 399) / 400

/-- PFC_RX: on an uplink a PFC frame pauses the queue of an enabled priority for its quanta; elsewhere it is only consumed. -/
def execPfcRx (p : Port) (prio : Fin 8) (quanta : BitVec 16) (s : State) : Host.Outcome State Fault Refusal :=
  .next (s.when (s.portOn p.val) fun t =>
    let u := t.macControl p.val 64
    if u.pfcOn p.val prio.val then
      ((u.count (prt p.val PRT_CNT_PFC_RX)).wrB (prt p.val PRT_PFC_STAT) (8 + prio.val) (quanta != 0)).arm (pauseTmr p.val prio.val)
        (u.quantaNs p.val quanta.toNat)
    else u)

/-- PFC_PAUSE_EXPIRY. -/
def execPfcPauseExpiry (p : Port) (prio : Fin 8) (s : State) : Host.Outcome State Fault Refusal :=
  .next (s.when (s.portOn p.val && s.pausedCls p.val prio.val) fun t =>
    (t.expire (pauseTmr p.val prio.val)).wrB (prt p.val PRT_PFC_STAT) (8 + prio.val) false)

end Sys2Proof.Machine
end

