-- ==== Sys2Proof/Machine/Field.lean ====
section
/-! DEFINITION. The field bus block on die 0: staging (R168, R169), MVB (R170 to R176), CAN FD (R177 to R181), its messages
(R182, R183) and its tables (R185). -/

namespace Sys2Proof.Machine

/-! ## The block and its interfaces -/

/-- FLD runs (R167). -/
def State.fldOn (s : State) : Bool := s.dieUp 0 && s.rdB (fldp PG_CTRL) 0

/-- Interface `i` is enabled: 0 and 1 MVB, 2 to 5 CAN. -/
def State.fldEn (s : State) (i : Nat) : Bool := s.rdB (fldp FLD_CTRL) i

/-- MVB interface `n` runs.
(DEDUCED, log entry 63) -/
def State.mvbRun (s : State) (n : Nat) : Bool := s.fldOn && s.rdB (fldp (FLD_MVB_STAT n)) 0

/-- CAN controller `c` takes part in its bus: enabled and not bus-off. -/
def State.canOn (s : State) (c : Nat) : Bool := s.fldOn && s.fldEn (2 + c) && s.rdF (fldp (FLD_CAN_STAT c)) 0 2 != 2

def State.mvb (s : State) (n : Nat) : Mvb := if n = 0 then s.fb.mvb0 else s.fb.mvb1
@[noinline] def State.setMvb (s : State) (n : Nat) (m : Mvb) : State :=
  if n = 0 then { s with fb := { s.fb with mvb0 := m } } else { s with fb := { s.fb with mvb1 := m } }

/-- The administrator role (R170). -/
def State.mvbAdmin (s : State) (n : Nat) : Bool := s.rdB (fldp (FLD_MVB_CFG n)) 0

/-- The basic period in ns. -/
def State.mvbBp (s : State) (n : Nat) : Nat := if s.rdB (fldp (FLD_MVB_CFG n)) 1 then 2000000 else 1000000

/-- log2 of the macro period, 0 to 10. -/
def State.mvbMacro (s : State) (n : Nat) : Nat := min 10 (s.rdF (fldp (FLD_MVB_CFG n)) 2 4)

/-! ## Messages (R182, R183) -/

/-- Word 0 of a message. -/
def FldMsg.w0 (m : FldMsg) : Word := wordOf (m.kind + m.src * 2 ^ 8 + m.ds * 2 ^ 12)

/-- A message enters the queue, or is dropped where it is full; a queued message is forwarded (R419). -/
def State.fldEnqueue (s : State) (m : FldMsg) : State :=
  if 512 ≤ s.fb.queue.length then (s.countF (fldp FLD_MSG_CNT) 16 16).raise (fldp 0) 1
  else
    let t : State := { s with fb := { s.fb with queue := s.fb.queue ++ [m] } }
    let t1 := ((t.wrF (fldp FLD_MSG_CNT) 0 10 (s.fb.queue.length + 1)).raise (fldp 0) 0).when s.fb.queue.isEmpty fun u => u.edge 0x340
    t1.fwdEvent 0x340 true (t1.st 0) [m.w0, m.st, m.row, m.info]

/-- A message of an interface: it waits where it reports a commit still to come, or behind one of its interface that waits. -/
@[noinline] def State.fldReport (s : State) (kind src ds info : Nat) (waits : Bool) : State :=
  let m : FldMsg := { kind := kind, src := src, ds := ds, st := s.st 0, row := s.row, info := wordOf info }
  if waits || s.fb.waiting.any (·.src == src) then { s with fb := { s.fb with waiting := s.fb.waiting ++ [m] } } else s.fldEnqueue m

/-- The waiting messages of some interfaces leave for the queue, in order.
(DEDUCED, log entry 63) -/
def State.fldRelease (s : State) (p : Nat → Bool) : State :=
  let go := s.fb.waiting.filter fun m => p m.src
  ({ s with fb := { s.fb with waiting := s.fb.waiting.filter fun m => !p m.src } } : State).each (fun m t => t.fldEnqueue m) go

/-- No dataset. -/
abbrev noDs : Nat := 0x1FFF

/-- What a read of FLD_MSG_W0 answers. -/
def State.fldFront (s : State) : Word := match s.fb.queue with | m :: _ => m.w0 | [] => 0

/-- A read of FLD_MSG_W0 removes the oldest message and latches its words 1 to 3. -/
def State.fldPop (s : State) : State :=
  match s.fb.queue with
  | m :: l => (((({ s with fb := { s.fb with queue := l } } : State).wrF (fldp FLD_MSG_CNT) 0 10 l.length).wr (fldp FLD_MSG_W1) m.st).wr
      (fldp FLD_MSG_W2) m.row).wr (fldp FLD_MSG_W3) m.info
  | [] => s

/-- FLD_MSG_POP. -/
def execFldMsgPop (agent : Agent) (s : State) : Host.Outcome State Fault Refusal :=
  .next (s.when (s.dieUp 0 && s.agentMay agent (fldp FLD_MSG_W0)) fun t => (t.emit (.read agent (fldp FLD_MSG_W0) t.fldFront)).fldPop)

/-! ## Staging (R168, R169) -/

/-- A dataset's staging is set. -/
def State.stage (s : State) (ds : Nat) (x : Staged) : State := { s with fb := { s.fb with staging := Assoc.put s.fb.staging ds x } }

/-- The ports and mailboxes that staged a dataset since the last input sample. -/
def State.stagedBy (s : State) (ds : Nat) : List (Nat × Nat) := ((Assoc.get s.fb.inputs ds).map (·.ports)).getD []

/-- An input frame of port or mailbox `k` of an interface is staged over what was staged before (R169). -/
def State.stageIn (s : State) (ds src k : Nat) (data : List Byte) : State :=
  { s with fb := { s.fb with inputs := Assoc.put s.fb.inputs ds { data := data, src := src, ports := (s.stagedBy ds).insert (src, k) } } }

/-- The type of a DATA message (R183). -/
abbrev kData : Nat := 0x01

/-- The DATA messages that wait for a commit of a dataset are dropped: there was none. -/
def State.dropData (s : State) (ds : Nat) (p : Nat → Bool) : State :=
  { s with fb := { s.fb with waiting := s.fb.waiting.filter fun m => !(m.kind == kData && m.ds == ds && p m.src) } }

/-- The die 0 context of a dataset. -/
def State.fldCtx (s : State) (ds : Nat) : Option Nat := (s.ctxOf 0 ds).filter (s.ctxValid 0)

/-- An output dataset is copied from its image to staging, as its readers see it. -/
def State.stageOut (s : State) (ds : Nat) : State :=
  match s.fldCtx ds with
  | none => s
  | some c =>
    let a := s.bufAddr 0 c (s.ctxFront 0 c)
    let v := s.ctxView 0 c
    let n := s.ctxLen 0 c
    s.stage ds { data := if v = 1 ∨ v = 2 ∨ v = 4 then s.tbs (a + 8) n else List.replicate n 0, seq := s.bufSeq a }

/-- An output dataset is staged for port or mailbox `k` of an interface, whose NOTIFY queues DATA at each commit (R176, R178, R182). -/
def State.stageFor (s : State) (src k ds : Nat) (notify : Bool) : State :=
  (s.stageOut ds).when (notify && (s.fldCtx ds).isSome && s.fldEn src) fun t => t.fldReport kData src ds k false

/-- The staged data of a dataset, of `n` bytes. -/
def State.stagedData (s : State) (ds n : Nat) : List Byte :=
  ((match Assoc.get s.fb.staging ds with | some x => x.data | none => []) ++ List.replicate n 0).take n

/-- A staged input may be written to a context: a PRODUCE context with source FIELD of the data's length, which in STANDBY the lifeline
writes instead. -/
def State.fldMay (s : State) (c : Nat) (x : StagedIn) : Bool :=
  s.mode != .standby && s.ctxRole 0 c == 1 && s.ctxSrc 0 c == 2 && x.data.length == s.ctxLen 0 c

/-- Staged inputs of some interfaces are written to their images; where nothing is written, no DATA is to be queued. -/
def State.fldCommit (s : State) (p : Nat → Bool) : State :=
  s.each (fun e t =>
    let u : State := { t with fb := { t.fb with inputs := Assoc.del t.fb.inputs e.1 } }
    match u.fldCtx e.1 with
    | some c => if u.fldMay c e.2 then u.commitData 0 c e.2.data else u.dropData e.1 p
    | none => u.dropData e.1 p) (s.fb.inputs.filter fun e => p e.2.src)

/-! ## MVB tables and their check (R172, R173, R176) -/

/-- Word `k` of entry `i` of the master frame table of interface `n`. -/
def mvbWord (n i k : Nat) : Nat := win 0 (0x0B80000 + n * 0x8000 + i * 8 + k * 4)

/-- The port map entry of a port address. -/
def mapWord (n addr : Nat) : Nat := win 0 (0x0B90000 + n * 0x4000 + addr * 4)

/-- The valid entries of a master frame table, in order. -/
def State.mvbEntries (s : State) (n : Nat) : List Nat :=
  (s.tbl.filter fun e => decide (mvbWord n 0 0 ≤ e.1 ∧ e.1 < mvbWord n 4096 0) && e.1 % 8 == 3 && e.2.getLsbD 7).map
    fun e => (e.1 - mvbWord n 0 0) / 8

/-- The valid entries of a port map, as port addresses. -/
def State.mapEntries (s : State) (n : Nat) : List Nat :=
  (s.tbl.filter fun e => decide (mapWord n 0 ≤ e.1 ∧ e.1 < mapWord n 4096) && e.1 % 4 == 1 && e.2.getLsbD 6).map fun e => (e.1 - mapWord n 0) / 4

/-- Data bytes of an F-code: 2 to 32, and 2 of the device status. -/
def fcodeLen (f : Nat) : Nat := if f = 15 then 2 else 2 * 2 ^ f

/-- Three times the slave frame time of an F-code in ns: 9 delimiter bits, the data and 8 check bits per 64 data bits, at 1.5 Mbit/s. -/
def slaveTime3 (f : Nat) : Nat := (9 + 8 * fcodeLen f + 8 * ((fcodeLen f + 7) / 8)) * 2000

/-- An entry of the master frame table: OFS in µs, F-code, K and PHASE. -/
def State.mvbEntry (s : State) (n i : Nat) : Nat × Nat × Nat × Nat :=
  (s.twF (mvbWord n i 0) 16 11, s.twF (mvbWord n i 0) 12 4, s.twF (mvbWord n i 1) 0 4, s.twF (mvbWord n i 1) 4 10)

/-- The entries from one on pass: ascending, of a legal F-code, phase and rate, each with room for its reply. The first that fails. -/
def State.mvbTableBad (s : State) (n : Nat) : Option Nat → List Nat → Option Nat
  | _, [] => none
  | prev, i :: l =>
    let (ofs, f, k, ph) := s.mvbEntry n i
    let next := match l with | j :: _ => (s.mvbEntry n j).1 * 1000 | [] => s.mvbBp n
    let asc := match prev with | some p => decide (p < ofs) | none => true
    if asc && (decide (f ≤ 4) || f == 15) && decide (k ≤ s.mvbMacro n) && decide (ph < 2 ^ k)
        && decide ((ofs * 1000 + 22000 + s.rdF (fldp (FLD_MVB_RTO n)) 0 16) * 3 + slaveTime3 f ≤ next * 3)
    then State.mvbTableBad s n (some ofs) l else some i

/-- A port map entry fails: its F-code length is not its dataset's, or the dataset has no die 0 context. -/
def State.mapBad (s : State) (n addr : Nat) : Bool :=
  let w := s.tw (mapWord n addr)
  match s.fldCtx (fld w 0 13) with
  | some c => !(decide (fld w 16 4 ≤ 4) && s.ctxLen 0 c == fcodeLen (fld w 16 4))
  | none => true

/-- The configuration check of an interface (R173): the failing index, none where it passes.
(DESIGN CHOICE, log entry 78) -/
def State.mvbCheck (s : State) (n : Nat) : Option Nat :=
  if s.rowLen % s.mvbBp n ≠ 0 ∨ s.mvbBp n ≤ s.rdF (fldp (FLD_MVB_ANCHOR n)) 0 18 * 8 then some 0
  else match s.mvbTableBad n none (s.mvbEntries n) with
    | some i => some i
    | none => (s.mapEntries n).find? (s.mapBad n)

/-- The verdict of the check: CFG_ERR and its message where it fails. -/
def State.mvbJudge (s : State) (n : Nat) : State :=
  match s.mvbCheck n with
  | none => s.wrB (fldp (FLD_MVB_STAT n)) 4 false
  | some i => (s.wrB (fldp (FLD_MVB_STAT n)) 4 true).fldReport 0x06 n noDs i false

/-- An interface whose configuration has failed stops. -/
def State.mvbHalt (s : State) (n : Nat) : State :=
  if s.rdB (fldp (FLD_MVB_STAT n)) 4 then s.wrB (fldp (FLD_MVB_STAT n)) 0 false else s

/-- An interface starts or stays running, or does not with CFG_ERR. -/
def State.mvbVerdict (s : State) (n : Nat) : State := (s.mvbJudge n).mvbHalt n

/-- After a swap or a blocking within a row the running interfaces are checked; one that fails stops at the row boundary, or at once
where rows do not run (R173). -/
def State.mvbRecheck (s : State) (prf bank : Nat) : State :=
  if s.actPrf = prf ∧ s.actBank = bank then s
  else s.each (fun n t => if t.run then t.mvbJudge n else t.mvbVerdict n) ((List.range 2).filter s.mvbRun)

/-- The timers of an MVB interface: the reply timeout, 22 µs of master frame before it, the 3 × BP of a device that hears no master
frame, and the basic period without rows (R172, R174, R175). -/
abbrev rtoTmr (n : Nat) : Nat := tmr (fldp (FLD_MVB_RTO n)) 0
abbrev quietTmr (n : Nat) : Nat := tmr (fldp (FLD_MVB_CFG n)) 0
abbrev periodTmr (n : Nat) : Nat := tmr (fldp (FLD_MVB_CFG n)) 1

/-- An enabled interface starts if its configuration passes. -/
def State.mvbStart (s : State) (n : Nat) : State :=
  if !s.fldOn then s
  else ((((s.setMvb n Mvb.init).wrB (fldp (FLD_MVB_STAT n)) 0 true).arm (quietTmr n) (3 * s.mvbBp n)).arm (periodTmr n) (s.mvbBp n)).mvbVerdict n

/-- A CAN controller starts error active. -/
def State.canStart (s : State) (c : Nat) : State := s.wr (fldp (FLD_CAN_STAT c)) 0

/-- A disabled interface stops. -/
def State.fldStop (s : State) (i : Nat) : State :=
  if i < 2 then s.wrB (fldp (FLD_MVB_STAT i)) 0 false
  else { s with fb := { s.fb with requests := s.fb.requests.filter (·.1 != i - 2) } }

/-- A write of FLD_CTRL: an interface whose bit rises starts, one whose bit falls stops. -/
def State.fldCtrl (s : State) (v : Word) : State :=
  let t := s.wr (fldp FLD_CTRL) (v &&& 0x3F)
  t.each (fun i u =>
    if bit v i && !s.fldEn i then (if i < 2 then u.mvbStart i else u.canStart (i - 2))
    else if !bit v i && s.fldEn i then u.fldStop i else u) (List.range 6)

/-- FLD is enabled or disabled as a block: its clock runs only while it is enabled (R56, R167). -/
def State.fldEnable (s : State) (v : Bool) : State :=
  let t := s.wrB (fldp PG_CTRL) 0 v
  if v && !s.rdB (fldp PG_CTRL) 0 then t.each (fun i u => if i < 2 then u.mvbStart i else u.canStart (i - 2)) ((List.range 6).filter t.fldEn)
  else if !v && s.rdB (fldp PG_CTRL) 0 then (t.each (fun i u => u.fldStop i) (List.range 6)).wrB (cpm 0 CPM_CLK_STAT) 5 false else t

/-- MVB_ENABLE. -/
def execMvbEnable (n : Fin 2) (s : State) : Host.Outcome State Fault Refusal :=
  .next (s.guarded (fldp FLD_CTRL) fun t => t.fldCtrl (setBit (t.rd (fldp FLD_CTRL)) n.val true))

/-- CAN_ENABLE. -/
def execCanEnable (c : Fin 4) (s : State) : Host.Outcome State Fault Refusal :=
  .next (s.guarded (fldp FLD_CTRL) fun t => t.fldCtrl (setBit (t.rd (fldp FLD_CTRL)) (2 + c.val) true))

/-! ## The administrator (R172, R174) -/

/-- Basic periods begun in this row so far, less the one that runs on from the row before (R172). -/
def State.mvbBegun (s : State) (n : Nat) : Int :=
  (stDiff (s.st 0) (s.rd (sch 0 SCH_ROW_ST)) - (s.rdF (fldp (FLD_MVB_ANCHOR n)) 0 18 * 8 : Nat)) / (s.mvbBp n : Int)

/-- The basic period count: with rows running the row's instant tells the period, else the periods that have ended. -/
def State.mvbCount (s : State) (n : Nat) : Nat :=
  let m : Int := (2 ^ s.mvbMacro n : Nat)
  if s.run then (((s.mvb n).periods + s.mvbBegun n) % m).toNat else (s.mvb n).periods % 2 ^ s.mvbMacro n

/-- What FLD_MVBn_STAT reads (R184). -/
def State.mvbStatWord (s : State) (n : Nat) : Word := setFld (s.rd (fldp (FLD_MVB_STAT n))) 8 10 (if s.mvbRun n then s.mvbCount n else 0)

/-- The basic periods whose instants lie in this row, by the row's own number of the period: the last one of the row before, where it
runs on, and this row's. -/
def State.mvbPeriods (s : State) (n : Nat) : List Int :=
  (if (s.mvb n).tail then [-1] else []) ++ (List.range (s.rowLen / s.mvbBp n)).map Int.ofNat

/-- The instant in ns from the row start at which the first due entry `i` is still to be sent: in its basic period's count it is due,
and the instant is neither past nor before the row. -/
def State.mvbDue (s : State) (n i : Nat) : Option Nat :=
  let (ofs, _, k, ph) := s.mvbEntry n i
  let x := stDiff (s.st 0) (s.rd (sch 0 SCH_ROW_ST))
  ((s.mvbPeriods n).filterMap fun j =>
    let at0 : Int := (s.rdF (fldp (FLD_MVB_ANCHOR n)) 0 18 * 8 + ofs * 1000 : Nat) + j * (s.mvbBp n : Nat)
    if ((s.mvb n).periods + j) % ((2 ^ k : Nat) : Int) = ph ∧ 0 ≤ at0 ∧ x ≤ at0 then some at0.toNat else none).head?

/-- A line of an interface is in use. -/
def State.mvbLineEn (s : State) (n l : Nat) : Bool := s.rdB (fldp (FLD_MVB_CFG n)) (8 + l)

/-- A frame goes out on each enabled line at once (R171). -/
def State.mvbOut (s : State) (n : Nat) (f : Bool → Bool → Out) : State :=
  s.when (s.mvbLineEn n 0 || s.mvbLineEn n 1) fun t => t.emit (f (t.mvbLineEn n 0) (t.mvbLineEn n 1))

/-- The administrator sends a master frame.
(DEDUCED, log entry 63) -/
def State.mvbMaster (s : State) (n i : Nat) : State :=
  let f := s.twF (mvbWord n i 0) 12 4
  let a := s.twF (mvbWord n i 0) 0 12
  ((s.setMvb n { s.mvb n with awaited := some (f, a) }).arm (rtoTmr n) (22000 + s.rdF (fldp (FLD_MVB_RTO n)) 0 16)).mvbOut n
    fun x y => .mvbMaster n x y f a

/-- MVB_MASTER_FRAME_SEND: at basic period start + OFS of a due entry. -/
def execMvbMasterFrameSend (n : Fin 2) (entry : Fin 4096) (s : State) : Host.Outcome State Fault Refusal :=
  .next (s.when (s.mvbRun n.val && s.mvbAdmin n.val && s.mode != .standby && s.twF (mvbWord n.val entry.val 0) 31 1 == 1) fun t =>
    if t.run then
      (match t.mvbDue n.val entry.val with
      | some at0 => (t.reachSt (t.rd (sch 0 SCH_ROW_ST) + wordOf at0)).mvbMaster n.val entry.val
      | none => t)
    else if (t.mvb n.val).periods % 2 ^ (t.mvbEntry n.val entry.val).2.2.1 = (t.mvbEntry n.val entry.val).2.2.2 then t.mvbMaster n.val entry.val
    else t)

/-- A port map entry in use, as a source or a sink. -/
def State.mapIs (s : State) (n addr : Nat) (src : Bool) : Bool :=
  let w := s.tw (mapWord n addr)
  bit w 14 && bit w 13 == src

/-- A master frame addresses this node's own device status word (F-code 15), or one of its own source ports (F-codes 0 to 4). -/
def State.mvbOwn (s : State) (n f addr : Nat) : Bool :=
  (f == 15 && s.rdF (fldp (FLD_MVB_CFG n)) 12 12 == addr) || (decide (f ≤ 4) && s.mapIs n addr true)

/-- A slave frame of this node leaves: the staged data of a source port, or the device status word.
(DEDUCED, log entry 63) -/
def State.mvbSlave (s : State) (n f addr : Nat) : State :=
  let w := s.tw (mapWord n addr)
  if f = 15 then s.mvbOut n fun x y => .mvbSlave n x y (be16 (s.rdF (fldp (FLD_MVB_DSW n)) 0 16))
  else
    let t := if s.run then s else s.stageFor n addr (fld w 0 13) (bit w 15)
    t.mvbOut n fun x y => .mvbSlave n x y (t.stagedData (fld w 0 13) (fcodeLen (fld w 16 4)))

/-- MVB_SLAVE_FRAME_SEND: a master frame of an F-code and an address has ended, the administrator's own or, as a device, one that was
heard. Only an own source port and the own device status are answered. -/
def execMvbSlaveFrameSend (n : Fin 2) (fcode : Fin 16) (addr : Fin 4096) (s : State) : Host.Outcome State Fault Refusal :=
  let k := n.val
  .next (s.when (s.mvbRun k && s.mode != .standby) fun t =>
    if t.mvbAdmin k then
      (if (t.mvb k).awaited = some (fcode.val, addr.val) ∧ t.mvbOwn k fcode.val addr.val then
        (t.setMvb k { t.mvb k with awaited := none }).mvbSlave k fcode.val addr.val else t)
    else ((t.setMvb k { t.mvb k with answering := true }).arm (quietTmr k) (3 * t.mvbBp k)).when (t.mvbOwn k fcode.val addr.val) fun u => u.mvbSlave k fcode.val addr.val)

/-! ## Received frames (R171, R174, R175) -/

/-- A reply was taken from a line: after 2 in succession from the other line the active line changes. -/
def State.mvbLine (s : State) (n : Nat) (a b : Bool) : State :=
  let t := (s.wrB (fldp (FLD_MVB_STAT n)) 2 a).wrB (fldp (FLD_MVB_STAT n)) 3 b
  let lineB := t.rdB (fldp (FLD_MVB_STAT n)) 1
  if (if lineB then b else a) then t.setMvb n { t.mvb n with other := 0 }
  else if (t.mvb n).other + 1 < 2 then t.setMvb n { t.mvb n with other := (t.mvb n).other + 1 }
  else (((t.setMvb n { t.mvb n with other := 0 }).wrB (fldp (FLD_MVB_STAT n)) 1 (!lineB)).count (fldp (FLD_MVB_CNT_SWITCH n))).fldReport
    0x02 n noDs (b2n (!lineB)) false

/-- Neither line delivered a good frame: an error where a bad one came, else no response. Its message waits for the dataset's next
input sample (R182). -/
def State.mvbFail (s : State) (n f addr : Nat) (badA badB : Bool) : State :=
  let w := s.tw (mapWord n addr)
  let ds := if f != 15 && bit w 14 then fld w 0 13 else noDs
  let t := ((s.setMvb n { s.mvb n with awaited := none }).wrB (fldp (FLD_MVB_STAT n)) 2 false).wrB (fldp (FLD_MVB_STAT n)) 3 false
  if badA || badB then
    ((t.when badA fun u => u.countF (fldp (FLD_MVB_CNT_ERR n)) 0 16).when badB fun u => u.countF (fldp (FLD_MVB_CNT_ERR n)) 16 16).fldReport
      0x04 n ds addr (ds != noDs)
  else (t.count (fldp (FLD_MVB_CNT_NORESP n))).fldReport 0x03 n ds addr (ds != noDs)

/-- A good slave frame is staged for its sink port. -/
def State.mvbTake (s : State) (n f addr : Nat) (a b : Bool) (data : List Byte) : State :=
  let t := (s.setMvb n { s.mvb n with awaited := none, answering := true }).mvbLine n a b
  let w := t.tw (mapWord n addr)
  if f ≤ 4 ∧ t.mapIs n addr false ∧ data.length = fcodeLen (fld w 16 4) then
    let had := (t.stagedBy (fld w 0 13)).contains (n, addr)
    (t.stageIn (fld w 0 13) n addr data).when (bit w 15 && !had) fun u => u.fldReport kData n (fld w 0 13) addr true
  else t

/-- An administrator takes replies to its own master frames only; a device, and any interface in STANDBY, every slave frame. -/
def State.mvbAwaits (s : State) (n f addr : Nat) : Bool :=
  !s.mvbAdmin n || s.mode == .standby || (s.mvb n).awaited == some (f, addr)

/-- What an enabled line delivered. -/
def State.mvbLineGot (s : State) (n l : Nat) (x y : MvbLine) : Bool := s.mvbLineEn n l && x == y

/-- MVB_FRAME_RX: the slave frame that answers a master frame of an F-code and an address. -/
def execMvbFrameRx (n : Fin 2) (fcode : Fin 16) (addr : Fin 4096) (a b : MvbLine) (data : List Byte) (s : State) :
    Host.Outcome State Fault Refusal :=
  .next (s.when (s.mvbRun n.val && s.mvbAwaits n.val fcode.val addr.val) fun t =>
    let ga := t.mvbLineGot n.val 0 a .good
    let gb := t.mvbLineGot n.val 1 b .good
    let ba := t.mvbLineGot n.val 0 a .bad
    let bb := t.mvbLineGot n.val 1 b .bad
    if ga || gb then t.mvbTake n.val fcode.val addr.val ga gb data
    else t.when (ba || bb) fun u => u.mvbFail n.val fcode.val addr.val ba bb)

/-- MVB_REPLY_TIMEOUT: of a master frame for a sink port, or for a source port of another device. -/
def execMvbReplyTimeout (n : Fin 2) (addr : Fin 4096) (badA badB : Bool) (s : State) : Host.Outcome State Fault Refusal :=
  .next (match (s.mvb n.val).awaited with
    | some (f, a) => s.when (s.mvbRun n.val && s.mvbAdmin n.val && s.mode != .standby && a == addr.val && !s.mvbOwn n.val f a) fun t =>
        (t.expire (rtoTmr n.val)).mvbFail n.val f a (badA && t.mvbLineEn n.val 0) (badB && t.mvbLineEn n.val 1)
    | none => s)

/-- MVB_NO_MASTER: as a device. -/
def execMvbNoMaster (n : Fin 2) (s : State) : Host.Outcome State Fault Refusal :=
  .next (s.when (s.mvbRun n.val && !s.mvbAdmin n.val && (s.mvb n.val).answering) fun t =>
    ((t.expire (quietTmr n.val)).setMvb n.val { t.mvb n.val with answering := false }).fldReport 0x05 n.val noDs 0 false)

/-- MVB_BASIC_PERIOD_END: while rows do not run, the staged inputs of the interface are written to their images. -/
def execMvbBasicPeriodEnd (n : Fin 2) (s : State) : Host.Outcome State Fault Refusal :=
  .next (s.when (s.mvbRun n.val && !s.run) fun t =>
    let k := ((t.mvb n.val).periods + 1) % 2 ^ t.mvbMacro n.val
    let u := (t.expire (periodTmr n.val)).arm (periodTmr n.val) (t.mvbBp n.val)
    ((u.setMvb n.val { u.mvb n.val with periods := k, tail := false }).fldCommit (· == n.val)).fldRelease (· == n.val))

/-! ## CAN (R177 to R181) -/

/-- Word `k` of mailbox `m` of controller `c`. -/
def boxWord (c m k : Nat) : Nat := win 0 (0x0B98000 + c * 0x1000 + m * 32 + k * 4)

/-- The valid mailboxes of a controller in one direction, in index order. -/
def State.boxes (s : State) (c : Nat) (tx : Bool) : List Nat :=
  (List.range 128).filter fun m => let w := s.tw (boxWord c m 0); bit w 30 && bit w 31 == tx

/-- The bytes of a data length code. -/
def dlcLen (d : Nat) : Nat :=
  if d ≤ 8 then d else if d = 9 then 12 else if d = 10 then 16 else if d = 11 then 20 else if d = 12 then 24
  else if d = 13 then 32 else if d = 14 then 48 else 64

/-- The bytes of a frame of a data length code: a classical frame has 8 at most. -/
def canLen (fdf : Bool) (d : Nat) : Nat := if fdf then dlcLen d else min 8 (dlcLen d)

/-- The bytes of a mailbox's frame (R178). -/
def State.boxLen (s : State) (c m : Nat) : Nat := canLen (s.twF (boxWord c m 2) 17 1 == 1) (s.twF (boxWord c m 2) 13 4)

/-- The level of CANn_STBY: low while the controller is enabled, and high otherwise (R177). -/
def State.canStby (s : State) (c : Nat) : Bool := !(s.fldOn && s.fldEn (2 + c))

/-- FD frames are permitted, with bit rate switching where that is permitted (R184). -/
def State.canPermits (s : State) (c : Nat) (fdf brs : Bool) : Bool :=
  (!fdf || s.rdB (fldp (FLD_CAN_CFG c)) 0) && (!brs || s.rdB (fldp (FLD_CAN_CFG c)) 1)

/-- A mailbox is requested; one that still waits is late (R179). -/
def State.canRequest (s : State) (c m : Nat) : State :=
  if s.fb.requests.contains (c, m) then
    (s.count (fldp (FLD_CAN_CNT_LATE c))).fldReport 0x11 (2 + c) (s.twF (boxWord c m 2) 0 13) m false
  else { s with fb := { s.fb with requests := s.fb.requests ++ [(c, m)] } }

/-- The controllers whose mailboxes are requested: enabled, bus-off or not, and neither in STANDBY nor listen-only. -/
def State.canAsks (s : State) (c : Nat) : Bool :=
  s.fldOn && s.fldEn (2 + c) && s.mode != .standby && !s.rdB (fldp (FLD_CAN_CFG c)) 3

/-- The controllers that may send: those on the bus.
(DEDUCED, log entry 63) -/
def State.canSends (s : State) (c : Nat) : Bool := s.canAsks c && s.canOn c

/-- CAN_FIELD_TRIGGER: the FIELD mailboxes of the stitch's ID are requested at its start. -/
def execCanFieldTrigger (sid : Fin 4096) (s : State) : Host.Outcome State Fault Refusal :=
  .next (match s.actEntry sid.val with
    | some e => s.when (s.run && e.kind == kField && s.ownNum (s.ownerNow sid.val e) && s.wasActive s.row s.thisRow sid.val e) fun t =>
        (t.reachSt (t.stitchSt e)).each (fun c u => u.each (fun m v => v.canRequest c m)
          ((u.boxes c true).filter fun m => u.twF (boxWord c m 2) 20 2 == 1 && u.twF (boxWord c m 2) 0 13 == e.ident)) ((List.range 4).filter t.canAsks)
    | none => s)

/-- The pending mailbox that a controller offers, among those whose frame is permitted: the lowest CID, then the lowest index.
(DEDUCED, log entry 63) -/
def State.canOffer (s : State) (c : Nat) : Option Nat :=
  let cid (m : Nat) : Nat := s.twF (boxWord c m 0) 0 29
  ((s.boxes c true).filter fun m => s.fb.requests.contains (c, m) && s.canPermits c (s.twF (boxWord c m 2) 17 1 == 1) false).foldl
    (fun best m => match best with | none => some m | some b => if cid m < cid b then some m else some b) none

/-- A transmit mailbox's frame is given to the transmitter; it takes its data from staging. -/
def State.canSend (t : State) (c : Nat) : Option Nat → State
  | none => t
  | some m =>
    let w := t.tw (boxWord c m 0)
    let w2 := t.tw (boxWord c m 2)
    let ds := fld w2 0 13
    let u := if t.run then t else t.stageFor (2 + c) m ds (bit w2 19)
    let v : State := { u with fb := { u.fb with requests := u.fb.requests.filter (· != (c, m))
                                                sent := Assoc.put u.fb.sent (c * 128 + m) (((Assoc.get u.fb.staging ds).map (·.seq)).getD 0) } }
    v.emit (.can c (bit w2 17) (bit w2 17 && bit w2 18 && v.canPermits c true true) (bit w 29) (if bit w 29 then fld w 0 29 else fld w 0 11)
      (v.stagedData ds (v.boxLen c m)))

/-- CAN_FRAME_TX: the frame takes its data from staging. -/
def execCanFrameTx (c : Fin 4) (s : State) : Host.Outcome State Fault Refusal :=
  .next (s.when (s.canSends c.val) fun t => t.canSend c.val (t.canOffer c.val))

/-- The first receive mailbox that takes a frame (R180). -/
def State.canMatch (s : State) (c : Nat) (ide : Bool) (cid : BitVec 29) : Option Nat :=
  (s.boxes c false).find? fun m =>
    let w := s.tw (boxWord c m 0)
    bit w 29 == ide && ((BitVec.ofNat 29 (fld w 0 29) ^^^ cid) &&& BitVec.ofNat 29 (s.twF (boxWord c m 1) 0 29)) == 0

/-- A received frame is staged for its mailbox, over one that this mailbox staged before; without rows it is committed at once. -/
def State.canTake (s : State) (c m : Nat) (data : List Byte) : State :=
  let w := s.tw (boxWord c m 2)
  let ds := fld w 0 13
  let had := (s.stagedBy ds).contains (2 + c, m)
  let t := s.stageIn ds (2 + c) m data
  let u := t.when (bit w 19) fun v => v.fldReport (if had then 0x10 else kData) (2 + c) ds m true
  if u.run then u else (u.fldCommit (· == 2 + c)).fldRelease (· == 2 + c)

/-- A frame received for a mailbox, or for none (R180, R183). -/
def State.canGot (t : State) (c : Nat) (fdf : Bool) (dlc : Nat) (data : List Byte) : Option Nat → State
  | none => t.count (fldp (FLD_CAN_CNT_RX_DROP c))
  | some m =>
    if canLen fdf dlc = t.boxLen c m ∧ data.length = canLen fdf dlc then t.canTake c m data
    else
      let u := t.fldReport 0x12 (2 + c) (t.twF (boxWord c m 2) 0 13) dlc true
      if u.run then u else u.fldRelease (· == 2 + c)

/-- CAN_FRAME_RX: a frame of a form that the controller does not permit is not received. -/
def execCanFrameRx (c : Fin 4) (ide fdf brs : Bool) (cid : BitVec 29) (dlc : BitVec 4) (data : List Byte) (s : State) :
    Host.Outcome State Fault Refusal :=
  .next (s.when (s.canOn c.val && s.canPermits c.val fdf brs) fun t => t.canGot c.val fdf dlc.toNat data (t.canMatch c.val ide cid))

/-- A nominal bit of a CAN controller in ns, of the 80 MHz clock FIELD (R56, R184). -/
def State.canBit (s : State) (c : Nat) : Nat :=
  let a := fldp (FLD_CAN_NBT c)
  (s.rdF a 0 10 + 1) * (3 + s.rdF a 10 8 + s.rdF a 18 7) * 25 / 2

/-- The 128 occurrences of 11 recessive bits after bus-off (R181). -/
abbrev busTmr (c : Nat) : Nat := tmr (fldp (FLD_CAN_NBT c)) 0

/-- The code of an error state (R184). -/
def CanState.code : CanState → Nat
  | .active => 0 | .passive => 1 | .busOff => 2

/-- CAN_ERROR_STATE_CHANGE: entering error passive and bus-off is reported. -/
def execCanErrorStateChange (c : Fin 4) (st : CanState) (tec rec : Byte) (s : State) : Host.Outcome State Fault Refusal :=
  let a := fldp (FLD_CAN_STAT c.val)
  .next (s.when (s.canOn c.val) fun t =>
    let old := t.rdF a 0 2
    let u := t.wr a (wordOf (CanState.code st + tec.toNat * 2 ^ 8 + rec.toNat * 2 ^ 16))
    match st with
    | .passive => u.when (old != 1) fun v => v.fldReport 0x13 (2 + c.val) noDs (tec.toNat * 2 ^ 8 + rec.toNat) false
    | .busOff => (u.arm (busTmr c.val) (128 * 11 * u.canBit c.val)).fldReport 0x14 (2 + c.val) noDs tec.toNat false
    | .active => u)

/-- CAN_BUS_ON: with AUTO_REC, after bus-off. -/
def execCanBusOn (c : Fin 4) (s : State) : Host.Outcome State Fault Refusal :=
  .next (s.when (s.fldOn && s.fldEn (2 + c.val) && s.rdF (fldp (FLD_CAN_STAT c.val)) 0 2 == 2 && s.rdB (fldp (FLD_CAN_CFG c.val)) 2) fun t =>
    ((t.expire (busTmr c.val)).canStart c.val).fldReport 0x15 (2 + c.val) noDs 0 false)

/-! ## The markers and the row boundary (R168, R173, R179) -/

/-- Every mapped output dataset, with its interface, its port or mailbox, and whether DATA is to be queued at each commit (R168). -/
def State.fldOutputs (s : State) : List (Nat × Nat × Nat × Bool) :=
  ((List.range 2).flatMap fun n => ((s.mapEntries n).filter fun a => s.mapIs n a true).map fun a =>
    let w := s.tw (mapWord n a); (n, a, fld w 0 13, bit w 15)) ++
  (List.range 4).flatMap fun c => (s.boxes c true).map fun m =>
    let w := s.tw (boxWord c m 2); (2 + c, m, fld w 0 13, bit w 19)

/-- The mailboxes of a controller that the output latch requests: LATCH ones, and CHANGE ones whose sequence is not the one last sent. -/
def State.latchBoxes (s : State) (c : Nat) : List Nat :=
  (s.boxes c true).filter fun m =>
    let w := s.tw (boxWord c m 2)
    let q := ((Assoc.get s.fb.staging (fld w 0 13)).map (·.seq)).getD 0
    fld w 20 2 == 0 || (fld w 20 2 == 2 && Assoc.get s.fb.sent (c * 128 + m) != some q)

/-- The output latch of FLD: outputs are staged at once unless the node holds outputs, then their DATA is queued, and mailboxes are
requested. -/
def State.fldLatch (s : State) : State :=
  if !s.fldOn then s
  else
    let l := s.fldOutputs
    let t := if s.sc.hold then s else
      (s.each (fun e u => u.stageOut e.2.2.1) l).each (fun e u => u.fldReport kData e.1 e.2.2.1 e.2.1 false)
        (l.filter fun e => e.2.2.2 && s.fldEn e.1 && (s.fldCtx e.2.2.1).isSome)
    t.each (fun c u => u.each (fun m v => v.canRequest c m) (u.latchBoxes c)) ((List.range 4).filter t.canAsks)

/-- The input sample of FLD: staged inputs are written to their images, and the messages that waited for it are queued. -/
def State.fldSample (s : State) : State := if s.fldOn then (s.fldCommit fun _ => true).fldRelease fun _ => true else s

/-- A row boundary: the basic periods of the row that ended are counted, its last one runs on, an interface that failed a check within
the row stops, and after a swap or blocking the configuration is checked. -/
def State.fldBoundary (s : State) (len : Nat) (changed : Bool) : State :=
  s.each (fun n t =>
    let m := t.mvb n
    let u := t.setMvb n { m with periods := (m.periods + len / t.mvbBp n) % 2 ^ t.mvbMacro n, tail := true }
    if changed then u.mvbVerdict n else u.mvbHalt n) ((List.range 2).filter s.mvbRun)

/-- Rows start: no basic period of a row before runs on. -/
def State.mvbRowsStart (s : State) : State :=
  s.each (fun n t => t.setMvb n { t.mvb n with tail := false }) (List.range 2)

/-! ## The tables (R185) -/

/-- The interface whose tables hold an offset of the FLD window. -/
def fldTable (o : Nat) : Option Nat :=
  if o < 0x10000 then some (o / 0x8000) else if o < 0x18000 then some ((o - 0x10000) / 0x4000)
  else if o < 0x1C000 then some (2 + (o - 0x18000) / 0x1000) else none

/-- A word written to the FLD window: discarded with TBL_BUSY while its interface is enabled. -/
def State.fldWinWrite (s : State) (o : Nat) (v : Word) : State :=
  match fldTable o with
  | none => s
  | some i => if s.fldEn i then s.raise (fldp 0) 2 else (s.setTw (win 0 (0x0B80000 + o)) v).noteEnt 0 7 (o / 16)

end Sys2Proof.Machine
end

