-- ==== Sys2Proof/Machine/Markers.lean ====
section
/-! DEFINITION. The stitch markers: the output latch and the input sample (R128 to R130), GPIO and STM. -/

namespace Sys2Proof.Machine

/-- The instant of a marker of the active profile: sub-kind 0 is the output latch, 1 the input sample (R101). -/
def State.markerSt (s : State) (sub : Nat) : Option Word :=
  (s.activeEntries.find? fun x => x.2.kind == kMarker && x.2.mrkSub == sub).map fun x => s.stitchSt x.2

/-- A marker is applied at its instant, once in its row; one whose instant has passed is late, and one that an adoption has passed is
not applied (R114, R129).
(DEDUCED, log entry 30) -/
def State.marker (s : State) (sub : Nat) (f : State → State) : State :=
  match s.markerSt sub with
  | none => s
  | some st =>
    let skip := match s.sc.adoptSt with | some a => stLater a st | none => false
    if !(s.dieUp 0 && s.run) || s.sc.marks.getLsbD sub || skip then s
    else
      let late := stLater (s.st 0) (st + 8)
      let t := (s.reachSt st).when late fun u => u.raise (sch 0 0) 15
      let u : State := { t with sc := { t.sc with marks := t.sc.marks ||| BitVec.ofNat 2 (2 ^ sub) } }
      (f u).raise (sch 0 0) (13 + sub)

/-- Outputs are driven by this node: not held, and not in STANDBY (R146, R320).
(DEDUCED, log entry 30) -/
def State.drives (s : State) : Bool := !s.sc.hold && s.mode != .standby

/-- The width of an STM_OUT pulse in ns: SCH_STM_CFG.WIDTH in 8 ns units, 0 acting as 1 (R131). -/
def State.stmWidth (s : State) : Nat := atLeast1 (s.rdF (sch 0 SCH_STM_CFG) 0 16) * 8

/-- The pulse of an STM_OUT pin (R128). -/
abbrev stmTmr (n : Nat) : Nat := tmr (sch 0 SCH_STM_CFG) n

/-- A pulse of SCH_STM_CFG.WIDTH starts on some STM_OUT pins. -/
def State.stmPulse (s : State) (pins : Nat) : State :=
  s.each (fun n t =>
    let u : State := { t with sc := { t.sc with stmOut := t.sc.stmOut ||| BitVec.ofNat 8 (2 ^ n) } }
    (u.arm (stmTmr n) t.stmWidth).emit (.stm n true)) ((List.range 8).filter fun n => pins / 2 ^ n % 2 == 1)

/-- GPIO and STM at the output latch.
(DEDUCED, log entry 30) -/
def State.latchPins (s : State) : State :=
  if s.drives then
    let pulse := (s.rd (sch 0 SCH_STM_OUT_NEXT)).toNat % 256 ||| s.rdF (sch 0 SCH_STM_CFG) 16 8
    ((s.wr (sch 0 SCH_GPIO_OUT) (s.rd (sch 0 SCH_GPIO_OUT_NEXT))).wrF (sch 0 SCH_STM_OUT_NEXT) 0 8 0).stmPulse pulse
  else s

/-- OUTPUT_LATCH: the field bus outputs follow (R168), and the telegrams of the row are built (R264). -/
def execOutputLatch (s : State) : Host.Outcome State Fault Refusal :=
  .next (s.marker 0 fun t => (t.latchPins.fldLatch).trdpRow)

/-- GPIO and STM at the input sample: the levels at the balls, and the STM edges since the sample before.
(DEDUCED, log entry 30) -/
def State.samplePins (s : State) (gpio : Word) (stm : Byte) : State :=
  let t := (s.wr (sch 0 SCH_GPIO_IN) gpio).wr (sch 0 SCH_STM_IN) (wordOf (stm.toNat + s.sc.stmEdges.toNat * 256))
  { t with sc := { t.sc with stmEdges := 0 } }

/-- INPUT_SAMPLE. -/
def execInputSample (gpio : Word) (stm : Byte) (s : State) : Host.Outcome State Fault Refusal :=
  .next (s.marker 1 fun t => (t.samplePins gpio stm).fldSample)

/-- A pulse has lasted its width (R128). -/
def State.stmFall (s : State) (n : Nat) : State :=
  let t := s.expire (stmTmr n)
  ({ t with sc := { t.sc with stmOut := t.sc.stmOut &&& ~~~(BitVec.ofNat 8 (2 ^ n)) } } : State).emit (.stm n false)

/-- STM_PULSE_END: an STM_OUT pin that pulses falls once its pulse has lasted SCH_STM_CFG.WIDTH. -/
def execStmPulseEnd (n : Fin 8) (s : State) : Host.Outcome State Fault Refusal :=
  .next (s.when (s.sc.stmOut.getLsbD n.val) fun t => t.stmFall n.val)

/-- STM_IN_EDGE: recorded for the next input sample. -/
def execStmInEdge (n : Fin 8) (s : State) : Host.Outcome State Fault Refusal :=
  .next (s.when (s.dieUp 0) fun t => { t with sc := { t.sc with stmEdges := t.sc.stmEdges ||| BitVec.ofNat 8 (2 ^ n.val) } })

/-- GPIO_DIR_WRITE: a pin whose bit becomes 1 drives its SCH_GPIO_OUT value, one whose bit becomes 0 is released. -/
def execGpioDirWrite (value : Word) (s : State) : Host.Outcome State Fault Refusal :=
  .next (s.guarded (sch 0 SCH_GPIO_DIR) fun t => t.wr (sch 0 SCH_GPIO_DIR) value)

/-- A write of SCH_GPIO_OUT_NEXT: driven within 1 µs while rows do not run. -/
def State.gpioNext (s : State) (v : Word) : State :=
  (s.wr (sch 0 SCH_GPIO_OUT_NEXT) v).when (!s.run) fun t => t.wr (sch 0 SCH_GPIO_OUT) v

/-- GPIO_OUT_NEXT_WRITE. -/
def execGpioOutNextWrite (value : Word) (s : State) : Host.Outcome State Fault Refusal :=
  .next (s.guarded (sch 0 SCH_GPIO_OUT_NEXT) fun t => t.gpioNext value)

end Sys2Proof.Machine
end

