-- ==== Sys2Proof/Machine/Bypass.lean ====
section
/-! DEFINITION. The bypass relays, coil tests, line bursts and coupler modules: the meanings of the commands of Backbone Line
Interface and Bypass. -/

namespace Sys2Proof.Machine

/-- INSERT_OK_WRITE: the die's insert line toggles while INSERT_OK is 1 and stops when it is written 0, which releases the
die's lines (R346, R349). -/
def execInsertOkWrite (d : Sys2Proof.Die) (v : Bool) (s : State) : Host.Outcome State Fault Refusal :=
  .next (s.guarded (rng (dieNum d) RNG_INSERT) fun t =>
    ((t.wrB (rng (dieNum d) RNG_INSERT) 0 v).setInsLine (dieNum d) v).evalRelays)

/-- INSERT_LINE_STOP: 110 µs without a toggle, and the keeper releases the die's lines (R349). -/
def execInsertLineStop (d : Sys2Proof.Die) (s : State) : Host.Outcome State Fault Refusal :=
  .next (s.when (s.mode != .off) fun t => (t.setInsLine (dieNum d) false).evalRelays)

/-- Both relays of a line are driven at 100 % (R347). A coil test that samples one of them ends without a result, and its
request stays pending (R353). -/
def State.drive (s : State) (l : Nat) : State :=
  let s1 := (((s.setWait l false).wrF (kby KBY_STAT) (2 * l) 2 3).wrB (kby KBY_STAT) (12 + l) true)
  let s2 := { s1 with kp := { s1.kp with sampling := s1.kp.sampling &&& ~~~(BitVec.ofNat 4 (3 * 4 ^ l)) } }
  let s3 := ((s2.disarm (releaseTmr l)).disarm (coilTmr l)).arm (pullinTmr l) (max 5 (s.rdF (kby KBY_PULLIN) 0 8) * ms)
  (s3.arm stagTmr (atLeast1 (s.rdF (kby KBY_STAG) 0 8) * ms)).emit (.drive l 100 0)

/-- RELAY_PULLIN_START: a line whose conditions hold is driven, or waits while the other is in pull-in or waits (R347). -/
def execRelayPullinStart (l : Line) (s : State) : Host.Outcome State Fault Refusal :=
  let n := lineNum l
  .next (s.when (s.insertCond n && !s.driven n && !s.waits n) fun t =>
    if t.pullin (1 - n) || t.waits (1 - n) then t.setWait n true else t.drive n)

/-- A waiting line starts its pull-in, line A first (R347).
(DEDUCED, log entry 62) -/
def State.startWaiting (s : State) : State :=
  if s.waits 0 then s.drive 0 else if s.waits 1 then s.drive 1 else s

/-- RELAY_STAGGER_EXPIRY: KBY_STAG after the first line's drive began. -/
def execRelayStaggerExpiry (s : State) : Host.Outcome State Fault Refusal :=
  .next (s.when (s.waits 0 || s.waits 1) fun t => (t.expire stagTmr).startWaiting)

/-- The PWM hold of a line: KBY_HOLD's duty and frequency. Three off-phases of it are what STUCK_BYP takes (R348, R350). -/
def State.holdLine (s : State) (l : Nat) : State :=
  let duty := clampTo 20 100 (s.rdF (kby KBY_HOLD) 0 7)
  let freq := clampTo 10 50 (s.rdF (kby KBY_HOLD) 8 8)
  ((s.arm (phaseTmr l) (3 * ms / freq)).emit (.drive l duty freq)).raise (kby 0) 0

/-- RELAY_PULLIN_END: the relays go to PWM hold, INSERTED is set, and the sensed position is inserted (R348, R350). -/
def execRelayPullinEnd (l : Line) (s : State) : Host.Outcome State Fault Refusal :=
  let n := lineNum l
  .next (s.when (s.pullin n) fun t =>
    (((t.expire (pullinTmr n)).wrB (kby KBY_STAT) (12 + n) false).wrF (kby KBY_STAT) (4 + 2 * n) 2 3).holdLine n)

/-- The code of a fault (R350). -/
def bypFaultCode : BypFault → Nat
  | .stuckByp => 1
  | .stuckIns => 2
  | .snsRange => 5

/-- A fault code of relay `n` is shown and reported (R350). -/
def State.relayFault (s : State) (n code : Nat) : State :=
  ((s.wrF (kby KBY_FAULT) (4 * n) 4 code).wrB (kby KBY_STAT) (20 + n) true).raise (kby 0) 2

/-- BYPASS_FAULT: STUCK_BYP with the drive on past its pull-in releases the line and holds it released; STUCK_INS with the
drive off and SNS_RANGE only report (R350). The keeper does not sample in OFF and PARKED. -/
def execBypassFault (n : Fin 4) (f : BypFault) (s : State) : Host.Outcome State Fault Refusal :=
  let l := n.val / 2
  let on := s.rdB (kby KBY_STAT) n.val
  .next (s.when s.mode.powered fun t =>
    match f with
    | .stuckByp => t.when (on && !t.pullin l) fun u =>
        let u1 := ((u.expire (phaseTmr l)).relayFault n.val 1).wrB (kby KBY_STAT) (4 + n.val) false
        ({ u1 with kp := { u1.kp with stuck := u1.kp.stuck ||| BitVec.ofNat 2 (2 ^ l) } }).evalRelays
    | .stuckIns => t.when (!on) fun u => ((u.expire (releaseTmr l)).relayFault n.val 2).wrB (kby KBY_STAT) (4 + n.val) true
    | .snsRange => (t.when (!on) fun u => u.expire (releaseTmr l)).relayFault n.val 5)

/-- BYPASS_CLEAR_FAULT: the fault codes and the STUCK_BYP hold clear (R350). -/
def execBypassClearFault (s : State) : Host.Outcome State Fault Refusal :=
  .next (s.guarded (kby KBY_CTRL) fun t =>
    let t1 := (t.wr (kby KBY_FAULT) 0).wrF (kby KBY_STAT) 20 4 0
    ({ t1 with kp := { t1.kp with stuck := 0 } }).evalRelays)

/-- COIL_REQUEST: the test is requested; it starts once the drive has been off for 2 ms (R353). -/
def execCoilRequest (n : Fin 4) (s : State) : Host.Outcome State Fault Refusal :=
  .next (s.guarded (kby KBY_CTRL) fun t => t.wrB (kby KBY_STAT) (16 + n.val) true)

/-- COIL_TEST_START: the drive has been off for 2 ms with VRLY present, and a test is pending, or COIL_AUTO tests in WAKING
(R352, R353). -/
def execCoilTestStart (n : Fin 4) (s : State) : Host.Outcome State Fault Refusal :=
  .next (s.when (s.mode.powered && !s.rdB (kby KBY_STAT) n.val && s.rdB (kps KPS_STAT) 3 &&
      (s.rdB (kby KBY_STAT) (16 + n.val) || (s.mode == .waking && s.rdB (kby KBY_CTRL) 4))) fun t =>
    let u := (t.reachAt (max ((t.timer (coilTmr (n.val / 2))).getD 0) ((t.timer (coilTmr 2)).getD 0))).arm (tmr (kby (KBY_COIL n.val)) 0) ms
    { u with kp := { u.kp with sampling := u.kp.sampling ||| BitVec.ofNat 4 (2 ^ n.val) } })

/-- The coil resistance in Ω of a mean converter code, to the nearest (R352): the converter has 1024 steps over 3.3 V. None
where the mean is below 0.5 V, which is written as open.
(DEDUCED, log entry 61) -/
def coilOhm (vrly rl rh code : Nat) : Option Int :=
  if code * 3300 < 500 * 1024 then none
  else
    let num := vrly * rl * 10 * 1024
    let den := code * 3300
    some ((((2 * num + den) / (2 * den) : Nat) : Int) - ((rh + rl) * 10 : Nat))

/-- The COIL swatch tests of relay `n` end with the keeper's result (R453). -/
def State.coilSwatchDone (s : State) (n : Nat) : State :=
  let gone := s.sw.tests.filter fun t => t.code == 3 && t.target == n
  let s1 := { s with sw := { s.sw with tests := s.sw.tests.filter fun t => !(t.code == 3 && t.target == n) } }
  s1.each (fun t u =>
    (u.wrB (swt t.die SWT_RUN) 3 (u.sw.tests.any fun x => x.code == 3 && x.die == t.die)).raise (swt t.die 0) 0) gone

/-- The result of a coil test is written (R352): an open coil as 0xFFFF with COIL_HIGH; a value that 16 bits do not hold is
not stated, and is the free value. Values outside KBY_COIL_LIM are faults. -/
def State.coilResult (s : State) (n : Nat) (code : Nat) : State :=
  let r := coilOhm (s.rdF (kby KBY_VRLY) 0 16) (s.rdF (kby KBY_SNS_NET) 16 16) (s.rdF (kby KBY_SNS_NET) 0 16) code
  let ohm := match r with
    | none => 0xFFFF
    | some v => if 0 ≤ v ∧ v < 0x10000 then v.toNat else fld s.fresh 0 16
  let s1 := if r.isSome then s.useFree else s
  let w := setFld (setFld (setFld 0 0 16 ohm) 16 10 code) 31 1 1
  let s2 := ((s1.wr (kby (KBY_COIL n)) w).wrB (kby KBY_STAT) (16 + n) false).raise (kby 0) 3
  let s3 := match r with
    | none => s2.relayFault n 4
    | some _ =>
      if ohm < s2.rdF (kby KBY_COIL_LIM) 0 16 then s2.relayFault n 3
      else if s2.rdF (kby KBY_COIL_LIM) 16 16 < ohm then s2.relayFault n 4 else s2
  ({ s3 with kp := { s3.kp with sampling := s3.kp.sampling &&& ~~~(BitVec.ofNat 4 (2 ^ n)) } }).coilSwatchDone n

/-- COIL_TEST_DONE: the test's 64 samples have been taken. -/
def execCoilTestDone (n : Fin 4) (code : BitVec 10) (s : State) : Host.Outcome State Fault Refusal :=
  .next (s.when (s.kp.sampling.getLsbD n.val) fun t =>
    (t.expire (tmr (kby (KBY_COIL n.val)) 0)).coilResult n.val code.toNat)

/-- LAD_BURST_SEND: a burst of BURST ms on a tap (R351). -/
def execLadBurstSend (n : Fin 4) (s : State) : Host.Outcome State Fault Refusal :=
  .next (s.guarded (kby KBY_BURST) fun t => t.when (!t.kp.bursting.getLsbD n.val) fun u => u.burst n.val)

/-- LAD_BURST_END: the burst ends, and the detector sees again (R351, R367). -/
def execLadBurstEnd (n : Fin 4) (s : State) : Host.Outcome State Fault Refusal :=
  .next (s.when (s.kp.bursting.getLsbD n.val) fun t0 =>
    let t := t0.expire (tmr (kby KBY_BURST) n.val)
    ({ t with kp := { t.kp with bursting := t.kp.bursting &&& ~~~(BitVec.ofNat 4 (2 ^ n.val)) } }).emit (.burstEnd n.val))

/-- RATE_TRY_EXPIRY: an AUTO port without block lock tries the other rate (R342). -/
def execRateTryExpiry (p : Port) (s : State) : Host.Outcome State Fault Refusal :=
  .next (s.when (isBackbone s.part p.val && s.dieUp (p.val / 32) && s.rdF (prt p.val PRT_LINE_CFG) 0 2 == 2
      && !s.rdB (prt p.val PRT_LINE_STAT) 0) fun t =>
    let u := (t.expire (tmr (prt p.val PRT_LINE_CFG) 0)).arm (tmr (prt p.val PRT_LINE_CFG) 0) (atLeast1 (t.rdF (prt p.val PRT_LINE_CFG) 8 8) * ms)
    u.wrB (prt p.val PRT_LINE_STAT) 1 (!u.rdB (prt p.val PRT_LINE_STAT) 1))

/-! ## Coupler modules (R343, R355) -/

/-- A register of I2C master `m`: on die `m`, or in the single-die parts on die 0 at offset + 0xC0 for the second.
(DEDUCED, log entry 52) -/
def State.i2c (s : State) (m o : Nat) : Nat := if s.part.twoDies then rng m o else rng 0 (o + m * 0xC0)

/-- A poll slot has read a byte: a change under MASK sets MOD_CHG. -/
def State.i2cPolled (s : State) (m k : Nat) (v : Byte) : State :=
  let cfg := s.rd (s.i2c m (RNG_I2C_POLL k))
  let old := s.rdF (s.i2c m (RNG_I2C_POLL_VAL k)) 0 8
  let s1 := s.wr (s.i2c m (RNG_I2C_POLL_VAL k)) (wordOf v.toNat)
  s1.when ((BitVec.ofNat 8 old ^^^ v) &&& BitVec.ofNat 8 (fld cfg 16 8) != 0) fun t => t.raise (pageBase (t.i2c m 0)) 9

/-- A write of GO starts a transaction, which ends after 25 ms at the latest; while one is BUSY the write is discarded. -/
def State.i2cGo (s : State) (m : Nat) (cmd : Word) : State :=
  s.when (!s.rdB (s.i2c m RNG_I2C_STAT) 0) fun u =>
    (((u.wr (u.i2c m RNG_I2C_CMD) (cmd &&& 0x0007FF7F)).wr (u.i2c m RNG_I2C_STAT) 1).emit
      (.i2c m cmd (u.rd (u.i2c m RNG_I2C_DATA)))).arm (tmr (u.i2c m RNG_I2C_CMD) 0) (25 * ms)

/-- I2C_COMMAND. -/
def execI2cCommand (m : Fin 2) (cmd : Word) (s : State) : Host.Outcome State Fault Refusal :=
  .next (s.guarded (s.i2c m.val RNG_I2C_CMD) fun t => t.i2cGo m.val cmd)

/-- I2C_POLL_READ: an enabled poll slot reads its byte; one that falls due during a host command runs after it. -/
def execI2cPollRead (m : Fin 2) (k : Fin 2) (value : Byte) (s : State) : Host.Outcome State Fault Refusal :=
  .next (s.when (s.dieUp (dieOf (s.i2c m.val 0)) && s.rdB (s.i2c m.val (RNG_I2C_POLL k.val)) 31 &&
      s.rdF (s.i2c m.val RNG_I2C_CFG) 8 8 != 0) fun t0 =>
    let k0 := tmr (t0.i2c m.val (RNG_I2C_POLL k.val)) 0
    let t := (t0.expire k0).arm k0 (t0.rdF (t0.i2c m.val RNG_I2C_CFG) 8 8 * ms)
    if t.rdB (t.i2c m.val RNG_I2C_STAT) 0 then
      { t with kp := { t.kp with i2cPolls := t.kp.i2cPolls ++ [(m.val, k.val, value)] } }
    else t.i2cPolled m.val k.val value)

/-- A host transaction ends: data of a read, or the error bit with I2C_ERR; poll reads that waited then run.
(DEDUCED, log entry 52) -/
def State.i2cEnd (s : State) (m : Nat) (r : I2cEnd) : State :=
  let cmd := s.rd (s.i2c m RNG_I2C_CMD)
  let page := pageBase (s.i2c m 0)
  let s1 := match r with
    | .ok w =>
      let n := 8 * (fld cmd 16 2 + 1)
      (s.wr (s.i2c m RNG_I2C_STAT) 0).when (!bit cmd 18) fun t => t.wrF (t.i2c m RNG_I2C_DATA) 0 n (fld w 0 n)
    | .nack => (s.wr (s.i2c m RNG_I2C_STAT) 2).raise page 8
    | .timeout => (s.wr (s.i2c m RNG_I2C_STAT) 4).raise page 8
  let s2 := s1.raise page 7
  let due := s2.kp.i2cPolls.filter (·.1 == m)
  ({ s2 with kp := { s2.kp with i2cPolls := s2.kp.i2cPolls.filter (·.1 != m) } }).each
    (fun (e : Nat × Nat × Byte) t => t.i2cPolled e.1 e.2.1 e.2.2) due

/-- I2C_DONE. -/
def execI2cDone (m : Fin 2) (r : I2cEnd) (s : State) : Host.Outcome State Fault Refusal :=
  .next (s.when (s.dieUp (dieOf (s.i2c m.val 0)) && s.rdB (s.i2c m.val RNG_I2C_STAT) 0) fun t =>
    let k := tmr (t.i2c m.val RNG_I2C_CMD) 0
    (if r = .timeout then t.expire k else t.disarm k).i2cEnd m.val r)

end Sys2Proof.Machine
end

