-- ==== Sys2Proof/Machine/Twin.lean ====
section
/-! DEFINITION. The meanings of the commands of Twin Pairs, Lifeline and Switch-Over (R316 to R340), and what a row boundary does
to the pair. -/

namespace Sys2Proof.Machine

/-! ## Shared operations -/

/-- An event of the TWN page. -/
def State.raiseTwn (s : State) (i : Nat) : State := s.raise (twn 0 0) i

/-- The twin lanes of the part (R316): both in the DN-6464, TW0 alone in the single-die parts. -/
def State.lanes (s : State) : List Nat := if s.part.twoDies then [0, 1] else [0]

/-- The synchronisation of the standby (R329, R340): 0 UNSYNCED, 1 RESYNCING, 2 SYNCED. -/
def State.sync (s : State) : Nat := s.rdF (twn 0 TWN_STAT) 4 2

/-- A change of SYNC sets its event (R329). -/
def State.setSync (s : State) (v : Nat) : State :=
  if s.sync = v then s
  else
    let t := s.wrF (twn 0 TWN_STAT) 4 2 v
    if v = 0 then t.raiseTwn 2 else if v = 2 then t.raiseTwn 3 else t

/-- The token as TWN_STAT.TOK shows it. -/
def State.tok (s : State) : Nat := s.rdF (twn 0 TWN_STAT) 10 2

/-- The heartbeat of the partner is present. -/
def State.hbOk (s : State) : Bool := s.rdB (twn 0 TWN_STAT) 6

/-- The lifeline is not aged. -/
def State.llOk (s : State) : Bool := s.rdB (twn 0 TWN_STAT) 7

/-- A lane is up (R325).
(DEDUCED, log entry 64) -/
def State.laneUp (s : State) (l : Nat) : Bool := s.rdB (twn 0 TWN_STAT) (8 + l)

/-- The node enters STANDBY: it is no lead, and has no lifeline yet. -/
def State.enterStandby (s : State) (c : Cause) : State :=
  let t := ((s.setMode .standby c).setRole 4).setSync 0
  t.wrB (twn 0 TWN_STAT) 7 false

/-- The partner of a standby is lost: heartbeat and lifeline are gone while it holds the token (R331).
(DEDUCED, log entry 46) -/
def State.evalPartner (s : State) : State :=
  if s.mode = .standby ∧ s.tok = 3 ∧ !s.hbOk ∧ !s.llOk then (s.setSync 0).raiseTwn 9 else s

/-! ## Heartbeat (R321, R322) -/

/-- The node works as one of a pair. -/
def State.twinOn (s : State) : Bool := s.dieUp 0 && s.paired

/-- The instants from which the pair's times count: the last edge of HB_IN, the last change of the token lines, a drill, and the last
HELLO sent and heard on a lane (R321, R322, R325, R333). -/
abbrev hbMark : Nat := tmr (twn 0 TWN_CNT_HB_LOSS) 0
abbrev tokMark : Nat := tmr (twn 0 TWN_STAT) 2
abbrev drillMark : Nat := tmr (twn 0 TWN_SW_T) 0
abbrev hailMark : Nat := tmr (twn 0 TWN_PEER) 0
abbrev laneMark (l : Nat) : Nat := tmr (twn 0 TWN_STAT) l

/-- HB_IN_EDGE: edges spaced 20 µs ± 2 µs count in succession. -/
def execHbInEdge (spaced : Bool) (s : State) : Host.Outcome State Fault Refusal :=
  .next (s.when s.twinOn fun t =>
    ({ t with pr := { t.pr with hbRun := if spaced then t.pr.hbRun + 1 else 1 } } : State).mark hbMark)

/-- HEARTBEAT_LOST. -/
def execHeartbeatLost (s : State) : Host.Outcome State Fault Refusal :=
  .next (s.when (s.twinOn && s.hbOk) fun t0 =>
    let t := t0.reachFrom hbMark (60 * us)
    let u := ((t.wrB (twn 0 TWN_STAT) 6 false).raiseTwn 0).count (twn 0 TWN_CNT_HB_LOSS)
    ({ u with pr := { u.pr with hbRun := 0 } }).evalPartner)

/-- HEARTBEAT_REGAINED: after 8 consecutive edges of the right spacing. -/
def execHeartbeatRegained (s : State) : Host.Outcome State Fault Refusal :=
  .next (s.when (s.twinOn && !s.hbOk && decide (8 ≤ s.pr.hbRun)) fun t => (t.wrB (twn 0 TWN_STAT) 6 true).raiseTwn 1)

/-- HB_OUT_STALL: the keeper releases the token. -/
def execHbOutStall (s : State) : Host.Outcome State Fault Refusal :=
  .next (s.when (s.mode != .off) fun t => t.dropToken)

/-! ## The token (R322 to R324, R331, R332) -/

/-- A standby may claim a token that its partner has freed (R331). -/
def State.mayTake (s : State) : Bool := s.sync == 2 && s.rdB (twn 0 TWN_CFG) 2 && !s.rdB (twn 0 TWN_CTRL) 2

/-- The token was freed by the partner: a standby that may not claim goes to IDLE (R331).
(DEDUCED, log entry 46) -/
def State.tokenFreed (s : State) : State :=
  if s.mode = .standby ∧ !s.mayTake then (s.setRole 5).raiseTwn 8 else s

/-- The claim is lost (R323). A node that serves enters STANDBY at the next row boundary (R42). -/
def State.claimLost (s : State) : State :=
  let t := ((s.dropToken).count (twn 0 TWN_CNT_ARB_LOST)).raiseTwn 6
  let u := t.setRole (if t.mode = .standby then 4 else 5)
  { u with pr := { u.pr with claimAt := none, forced := false, give := u.pr.give || u.mode == .running || u.mode == .healing } }

/-- The positions are known and differ (R323). -/
def State.distinct (s : State) : Bool := s.rdB (twn 0 TWN_PEER) 1 && s.rdB (twn 0 TWN_PEER) 0 != s.rdB (twn 0 TWN_CFG) 1

/-- The UID bit that the node sends in the current arbitration slot of 1 µs, none outside the slots (R323). -/
def State.slotBit (s : State) : Option Bool :=
  let t := s.now - s.pr.driveAt
  if s.distinct ∨ t < 2000 ∨ 66000 ≤ t then none else some (s.uid.getLsbD (63 - (t - 2000) / 1000))

/-- A member of a train whose partner holds the token is a standby (R324). -/
def State.standbyIfHeld (s : State) : State :=
  if s.paired ∧ s.mode = .castOn ∧ s.run ∧ s.cs = csMember ∧ s.tok = 3 then s.enterStandby .partnerToken else s

/-- The node's reading of the lines takes effect. -/
def State.tokenMoved (s : State) (old : Nat) : State :=
  let t := s.evalTok
  let t1 := if t.tok = 0 ∨ t.tok = 2 ∨ t.tok = 3 then t.wrB (twn 0 TWN_STAT) 12 false else t
  let t2 := if t1.role = 2 ∧ t1.pr.drv0 ∧ !t1.pr.tok1 ∧ !t1.pr.drv1 ∧ t1.slotBit = some true then t1.claimLost else t1
  let t3 := if old = 3 ∧ t2.tok = 0 then t2.tokenFreed else t2
  let t4 := if t3.mode = .standby ∧ t3.tok = 3 ∧ t3.role = 5 then t3.setRole 4 else t3
  t4.standbyIfHeld

/-- TOKEN_LINE_CHANGE: the levels of the two lines as the keeper now reads them. -/
def execTokenLineChange (tok0 tok1 : Bool) (s : State) : Host.Outcome State Fault Refusal :=
  .next (s.when s.twinOn fun t => 
    (({ t with pr := { t.pr with tok0 := tok0, tok1 := tok1 } } : State).mark tokMark).tokenMoved t.tok)

/-- TOKEN_FAULT: an invalid pattern has lasted too long; a claim under way ends (R322). -/
def execTokenFault (s : State) : Host.Outcome State Fault Refusal :=
  .next (s.when (s.twinOn && s.pr.tok0 != s.pr.tok1) fun t =>
    let r := t.reachFrom tokMark (if t.pr.tok0 then 4 * us else 200 * us)
    let u := ((r.when (r.role == 2) fun v => v.dropToken).wrB (twn 0 TWN_STAT) 12 true).raiseTwn 7
    { u with pr := { u.pr with claimAt := none, forced := false } })

/-- The node may claim now (R323, R324, R331).
(DEDUCED, log entry 46) -/
def State.canClaim (s : State) : Bool :=
  s.twinOn && s.tok == 0 && !s.rdB (twn 0 TWN_STAT) 12 && s.role != 1 && s.role != 2 && s.role != 3 &&
    (s.mode == .castOn || (s.mode == .standby && s.mayTake))

/-- The wait D of a claim in µs (R323): POS × 8 with distinct known positions, else random in 0 to 31.
(DEDUCED, log entry 46) -/
def State.claimWait (s : State) : Nat :=
  if s.distinct then b2n (s.rdB (twn 0 TWN_CFG) 1) * 8 else Config.claimWait s.free % 32

/-- A claim starts (R323). -/
def State.startClaim (s : State) (forced : Bool) : State :=
  let t := s.setRole 2
  ({ t with pr := { t.pr with claimAt := some t.now, claimD := t.claimWait, forced := forced } }).useFree

/-- TWIN_OBSERVE_END: 60 µs after entry to CAST-ON. -/
def execTwinObserveEnd (s : State) : Host.Outcome State Fault Refusal :=
  .next (s.when (s.twinOn && s.mode == .castOn && s.role == 1) fun t0 =>
    let t := (t0.expire observeTmr).setRole 5
    if t.canClaim then t.startClaim false else t)

/-- TOKEN_CLAIM_START. -/
def execTokenClaimStart (s : State) : Host.Outcome State Fault Refusal :=
  .next (s.when s.canClaim fun t => t.startClaim false)

/-- The end of D: the claim is lost if a line is low; else TOK0 is driven low (R323). -/
def State.endWait (s : State) (at0 : Nat) : State :=
  let t := s.reachAt (at0 + s.pr.claimD * 1000)
  if !t.pr.tok0 || !t.pr.tok1 then t.claimLost
  else ({ t with pr := { t.pr with tok0 := false, drv0 := true, driveAt := t.now } }).evalTok

/-- TOKEN_CLAIM_WAIT_END. -/
def execTokenClaimWaitEnd (s : State) : Host.Outcome State Fault Refusal :=
  .next (match s.pr.claimAt with
    | some a => s.when (s.twinOn && s.role == 2 && !s.pr.drv0) fun t => t.endWait a
    | none => s)

/-- The token is held (R332, R340): the lines are low, the acquisition is recorded, and a standby takes over at the next
boundary. -/
def State.holdToken (s : State) (at0 : Nat) : State :=
  let t := s.reachAt (s.pr.driveAt + (if s.distinct then 4000 else 68000))
  let u := ({ t with pr := { t.pr with tok0 := false, tok1 := false, drv0 := true, drv1 := true, claimAt := none } }).setRole 3
  let v := (((u.evalTok).wrF (twn 0 TWN_STAT) 4 2 2).wr (twn 0 TWN_SW_ST) (u.st 0)).wr (twn 0 TWN_SW_T) (wordOf ((u.now - at0) / 1000 % 65536))
  if v.mode = .standby then
    let w := (v.count (twn 0 TWN_CNT_TAKE)).raiseTwn 4
    { w with pr := { w.pr with take := true } }
  else v

/-- TOKEN_ACQUIRED. -/
def execTokenAcquired (s : State) : Host.Outcome State Fault Refusal :=
  .next (match s.pr.claimAt with
    | some a => s.when (s.twinOn && s.role == 2 && s.pr.drv0) fun t => t.holdToken a
    | none => s)

/-- FORCE_TAKE: a write of TWN_CTRL.FORCE_TAKE; the node claims a free token whatever its SYNC (R338). -/
def execForceTake (s : State) : Host.Outcome State Fault Refusal :=
  .next (s.guarded (twn 0 TWN_CTRL) fun t =>
    t.when (t.twinOn && t.tok == 0 && !t.rdB (twn 0 TWN_STAT) 12 && t.role != 2 && t.role != 3) fun u => u.startClaim true)

/-! ## Lifeline frames (R325) -/

/-- A sweep runs on some lane (R330). -/
def State.sweeping (s : State) : Bool := !s.pr.sweep.isEmpty

/-- The DA of Efilaner frames (R325). -/
def efilanerDa : Mac := 0x03005D000001

/-- TWN_ETYPE (R325). -/
def State.twinEtype (s : State) : BitVec 16 := BitVec.ofNat 16 (s.rdF (twn 0 TWN_ETYPE) 0 16)

/-- The next lifeline sequence of a lane, and the header of the frame that carries it. -/
def State.llHdr (s : State) (l : Nat) (row : Word) (ovf drill : Bool) : State × TwinHdr :=
  let q := (Assoc.get s.pr.txSeq l).getD 0 + 1
  ({ s with pr := { s.pr with txSeq := Assoc.put s.pr.txSeq l q } },
   { da := efilanerDa, sa := s.mac, etype := s.twinEtype, version := 1
     incomplete := s.sweeping, ovf := ovf, lead := s.tok == 2, synced := s.sync == 2, drill := drill, lane := if l = 0 then 0 else 1
     row := row, seq := q, sec := none })

/-- An Efilaner frame leaves a lane, protected where MACsec is on (R424, R425). -/
def State.sendLane (s : State) (l : Nat) (row : Word) (ovf drill : Bool) (f : TwinFrame) : State :=
  if !s.dieUp l then s
  else
    let r := s.llHdr l row ovf drill
    let x := twinSa s.part l
    if !r.1.secOn x.1 x.2 then r.1.emit (.twin l r.2 f)
    else match r.1.protect x.1 x.2 with
      | (t, some (an, pn)) =>
        let sci := BitVec.ofNat 64 (r.1.rd64 (sa x.1 x.2 SEC_PORT_SCI_LO) (sa x.1 x.2 SEC_PORT_SCI_HI))
        t.emit (.twin l { r.2 with sec := some { sci := sci, an := BitVec.ofNat 2 an, pn := BitVec.ofNat 64 pn, icvOk := true } } f)
      | (t, none) => t

/-- A frame's sequence on its lane is followed, and its INCOMPLETE shown (R325, R328, R340). -/
def State.laneSeq (s : State) (h : TwinHdr) : State :=
  let l := h.lane.val
  let skip := match Assoc.get s.pr.rxSeq l with
    | some q => decide (h.seq ≠ q + 1)
    | none => false
  let t := s.wrB (twn 0 TWN_STAT) 13 h.incomplete
  { t with pr := { t.pr with rxSeq := Assoc.put t.pr.rxSeq l h.seq, skipped := if skip && !t.pr.skipped.contains l then l :: t.pr.skipped else t.pr.skipped } }

/-- The addresses, EtherType and version of an Efilaner frame are right (R325). -/
def State.efilaner (s : State) (h : TwinHdr) : Bool := h.da == efilanerDa && h.etype == s.twinEtype && h.version == 1

/-- An Efilaner frame arrives on a lane of the pair: one that passes MACsec is taken (R325, R425). -/
def State.laneRx (s : State) (h : TwinHdr) (f : State → State) : State :=
  let x := twinSa s.part h.lane.val
  s.when (s.twinOn && s.lanes.contains h.lane.val && s.dieUp h.lane.val && s.efilaner h) fun t =>
    match t.verify x.1 x.2 h.sec false with
    | (u, true) => f (u.laneSeq h)
    | (u, false) => u

/-- TWIN_HELLO_SEND: on each lane. -/
def execTwinHelloSend (s : State) : Host.Outcome State Fault Refusal :=
  .next (s.when s.twinOn fun t0 =>
    let t := (t0.reachFrom hailMark ms).mark hailMark
    let b : TwinHello := { uid := t.uid, pos := t.rdB (twn 0 TWN_CFG) 1, role := BitVec.ofNat 3 t.role, sync := BitVec.ofNat 2 t.sync
                           num := BitVec.ofNat 6 t.num, topo := t.topoCtr }
    t.each (fun l u => u.sendLane l u.row false false (.hello b)) t.lanes)

/-- The UID of the partner. -/
def State.peerUid (s : State) : Uid := BitVec.ofNat 64 (s.rd64 (twn 0 TWN_PEER_UID_LO) (twn 0 TWN_PEER_UID_HI))

/-- A HELLO is taken: the partner's description, the lane up, and another partner noticed (R325). -/
def State.takeHello (s : State) (l : Nat) (h : TwinHdr) (b : TwinHello) : State :=
  let other := s.rdB (twn 0 TWN_PEER) 1 && s.peerUid != b.uid
  let t := ((s.wr (twn 0 TWN_PEER) (wordOf (b2n b.pos + 2 + 4 * b2n (b.sync == 2) + 8 * b2n h.lead + 256 * b.num.toNat))).wr64
    (twn 0 TWN_PEER_UID_LO) (twn 0 TWN_PEER_UID_HI) b.uid.toNat)
  let u := (if t.laneUp l then t else (t.wrB (twn 0 TWN_STAT) (8 + l) true).raiseTwn 11).mark (laneMark l)
  if other then (let v := u.raiseTwn 12; if v.mode = .standby then v.setSync 0 else v) else u

/-- TWIN_HELLO_RX. -/
def execTwinHelloRx (h : TwinHdr) (b : TwinHello) (s : State) : Host.Outcome State Fault Refusal :=
  .next (s.laneRx h fun t => t.takeHello h.lane.val h b)

/-- A lane is down (R325, R335). -/
def State.laneDown (s : State) (l : Nat) : State :=
  if s.laneUp l then (s.wrB (twn 0 TWN_STAT) (8 + l) false).raiseTwn 10 else s

/-- TWIN_LANE_TIMEOUT: no HELLO for 3 ms. -/
def execTwinLaneTimeout (lane : Fin 2) (s : State) : Host.Outcome State Fault Refusal :=
  .next (s.when s.twinOn fun t => (t.reachFrom (laneMark lane.val) (3 * ms)).laneDown lane.val)

/-! ## The lead's deltas (R326, R327) -/

/-- The IMAGE record of a context: its front buffer as the last commit left it. -/
def State.imageRec (s : State) (d c : Nat) : LlRecord :=
  let i := s.info d c
  let a := s.bufAddr d c (s.ctxFront d c)
  .image { state := i.last, dsid := BitVec.ofNat 13 (fld (s.cw d c 0) 0 13), reason := i.reason, age := BitVec.ofNat 16 (s.ctxAge d c)
           seq := BitVec.ofNat 16 (s.bufSeq a), data := if i.last = 1 then s.tbs (a + 8) (s.ctxLen d c) else [] }

/-- The value of a sequence: generator, poll sequence, TRDP counter. -/
def State.seqVal (s : State) (d k i : Nat) : Word :=
  if k = 0 then wordOf ((Assoc.get s.dk.gens (d * 65536 + i)).getD 0)
  else if k = 1 then (Assoc.get s.cn.pseq (d * 65536 + i)).getD 0
  else wordOf ((Assoc.get s.dk.trdpSeq (d * 65536 + i)).getD 0)

/-- The table entries of ENTRY records: base address on a die and bytes of an entry (R326). -/
def entBase (d t i : Nat) : Nat :=
  if t = 1 then dirWord d i 0 else if t = 2 then xltWord d i 0 else if t = 3 then arpWord d i 0 else if t = 4 then vlanWord d i 0
  else if t = 5 then win d (0x0AA0000 + i * 16) else if t = 6 then trdpWord d i 0 else win d (0x0B80000 + i * 16)

/-- The words of an entry: 8 for TRDP, else 4. -/
def entWords (t : Nat) : Nat := if t = 6 then 8 else 4

/-- `n` words of a table window. -/
def State.tws (s : State) (a : Nat) : Nat → List Word
  | 0 => []
  | n + 1 => s.tw a :: s.tws (a + 4) n

/-- The ENTRY record of a table entry. -/
def State.entRec (s : State) (d t i : Nat) : LlRecord := .entry (BitVec.ofNat 8 t) i (s.tws (entBase d t i) (entWords t))

/-- The PAIR record. -/
def State.pairRec (s : State) : LlRecord :=
  .pair (BitVec.ofNat 6 (s.rdF (twn 0 TWN_PAIR) 0 6)) (BitVec.ofNat 6 s.num) s.topoCtr (s.rd (sch 0 SCH_GPIO_DIR)) (s.rd (sch 0 SCH_GPIO_OUT_NEXT))
    (s.rd (sch 0 SCH_STM_CFG)) (s.rd (fldp (FLD_MVB_DSW 0))) (s.rd (fldp (FLD_MVB_DSW 1)))

/-- The SERVO record of a domain. -/
def State.servoRec (s : State) (d : Fin 2) : LlRecord :=
  .servo d (s.rd (tmu 0 (TMU_TD_TENS_LO d.val))) (s.rd (tmu 0 (TMU_TD_TENS_HI d.val))) (s.rd (tmu 0 (TMU_TD_RR d.val)))
    (wordOf (s.slave d.val + 256 * b2n (s.tdHold d.val)))

/-- The records that one die collects in a row (R327). PAIR and SERVO go on TW0. -/
def State.deltaOf (s : State) (d : Nat) : List LlRecord :=
  (s.pr.ctxs.filter (·.1 == d)).map (fun e => s.imageRec d e.2)
    ++ (s.pr.seqs.filter (·.1 == d)).map (fun e => .seq (if e.2.1 = 0 then 0 else if e.2.1 = 1 then 1 else 2) e.2.2 (s.seqVal d e.2.1 e.2.2))
    ++ (s.pr.ents.filter (·.1 == d)).map (fun e => s.entRec d e.2.1 e.2.2)
    ++ (if d = 0 then s.pairRec :: (([0, 1] : List (Fin 2)).filter fun k => s.tdEnabled k.val).map s.servoRec else [])

/-- At a boundary the lead's records of the row that ends are ready to be sent.
(DEDUCED, log entry 46) -/
def State.closeDelta (s : State) (row : Word) (drill : Bool) : State :=
  let l := s.lanes.map fun d => (d, row, s.deltaOf d)
  { s with pr := { s.pr with send := s.pr.send ++ l, sendDrill := drill, ctxs := [], seqs := [], ents := [] } }

/-- The bytes of a record: header, key and padded data (R326). -/
def recSize : LlRecord → Nat
  | .image t => 8 + (strandSize t + 3) / 4 * 4
  | .seq _ _ _ => 12
  | .entry _ _ data => 8 + 4 * data.length
  | .pair _ _ _ _ _ _ _ _ => 36
  | .servo _ _ _ _ _ => 24
  | .bulk _ data => 8 + 4 * data.length

/-- The bytes of a body. -/
def recsSize (l : List LlRecord) : Nat := (l.map recSize).sum

/-- Records as bodies of at most 9,100 bytes, in their order (R325). -/
def bodies : List LlRecord → List (List LlRecord)
  | [] => []
  | r :: rs =>
    match bodies rs with
    | c :: cs => if recSize r + recsSize c ≤ 9100 then (r :: c) :: cs else [r] :: c :: cs
    | [] => [[r]]

/-- The ns that frames with some bodies take on a lane at 25 Gbit/s: preamble and gap 20, headers 30, FCS 4, MACsec 32 bytes (R330). -/
def laneNs (sizes : List Nat) : Nat := ((sizes.map fun n => (86 + n) * 8).sum + 24) / 25

/-- A row's delta, which still takes some ns, can no longer leave in time: 10 µs before the second boundary after the row (R327). -/
def State.deltaLate (s : State) (row : Word) (ns : Nat) : Bool :=
  let len := match s.actSlot with
    | some sl => s.rowLenNs sl
    | none => 0
  let k := (s.row - row).toNat
  decide (1 < k) || stReached (s.rd (sch 0 SCH_ROW_ST) + wordOf len - 10000) (s.st 0 + wordOf ns)

/-- One row's delta leaves its lane: its records and DELTA_END, or DELTA_END with OVF. -/
def State.sendDelta (s : State) (e : Nat × Word × List LlRecord) : State :=
  let drill := s.pr.sendDrill
  let l := bodies e.2.2
  if s.deltaLate e.2.1 (laneNs (l.map recsSize ++ [0])) then (s.sendLane e.1 e.2.1 true drill (.delta true [])).count (twn e.1 TWN_CNT_OVF)
  else (s.each (fun b t => t.sendLane e.1 e.2.1 false drill (.delta false b)) l).sendLane e.1 e.2.1 false drill (.delta true [])

/-- DELTA_SEND: from 1 µs after the boundary the lead sends what it has collected. -/
def execDeltaSend (s : State) : Host.Outcome State Fault Refusal :=
  .next (s.when (s.twinOn && s.lead && !s.pr.send.isEmpty) fun r =>
    let t := r.when r.run fun q => q.reachSt (q.rd (sch 0 SCH_ROW_ST) + 1000)
    let u := t.each (fun e v => v.sendDelta e) t.pr.send
    { u with pr := { u.pr with send := [], sendDrill := false } })

/-! ## The standby's commits (R328, R329) -/

/-- What a context's entry says of its last strand, for a context that a sweep has written. -/
def State.infoFromEntry (s : State) (d c : Nat) : CtxInfo :=
  let st := s.ctxState d c
  { last := if st = 4 then 4 else if st = 0 then 0 else 1, reason := 0, missed := st == 2 || st == 3, nullShown := st == 4
    ever := st != 0, stale := st != 1 }

/-- An IMAGE record is committed: SEQ as carried, AGE as carried plus 2, and a flip (R328). -/
def State.takeImage (s : State) (d : Nat) (t : Strand) : State :=
  match s.ctxOf d t.dsid.toNat with
  | none => s
  | some c =>
    if !s.ctxValid d c || s.ctxRole d c != 1 || !s.lenOk d c t then s
    else
      let age := min (t.age.toNat + 2) 0xFFFF
      let clr := { s with pr := { s.pr with rsCtx := s.pr.rsCtx.filter (· ≠ (d, c)) } }
      let u := if t.state = 1 then clr.setTbs (clr.bufAddr d c (1 - clr.ctxFront d c)) (strandBytes t) else clr
      let v := u.setTwF (ctxWord d c 3) 0 16 age
      let null := if t.state = 1 then none else some t.reason
      (v.flipOne d c null).flipMirror d c null

/-- A SEQ record is written. -/
def State.takeSeq (s : State) (d k i : Nat) (v : Word) : State :=
  if k = 0 then { s with dk := { s.dk with gens := Assoc.put s.dk.gens (d * 65536 + i) (v.toNat % 65536) } }
  else if k = 1 then { s with cn := { s.cn with pseq := Assoc.put s.cn.pseq (d * 65536 + i) v } }
  else { s with dk := { s.dk with trdpSeq := Assoc.put s.dk.trdpSeq (d * 65536 + i) v.toNat } }

/-- NODE_REL of a directory or translation entry: such content is skipped (R326). -/
def nodeRel (t : Nat) (data : List Word) : Bool :=
  (t == 1 && bit (data.getD 2 0) 18) || (t == 2 && bit (data.getD 2 0) 14)

/-- An ENTRY record is written. -/
def State.takeEnt (s : State) (d t i : Nat) (data : List Word) : State :=
  if nodeRel t data || t < 1 || 7 < t then s else (s.setTws (entBase d t i) (data.take (entWords t))).evalTables d

/-- One record is committed on the die of its lane. -/
def State.takeRecord (s : State) (d : Nat) : LlRecord → State
  | .image t => s.takeImage d t
  | .seq k i v => s.takeSeq d k.val i v
  | .entry t i data => s.takeEnt d t.toNat i data
  | .pair _ _ _ dir next stm d0 d1 =>
    ((((s.wr (sch 0 SCH_GPIO_DIR) dir).wr (sch 0 SCH_GPIO_OUT_NEXT) next).wr (sch 0 SCH_STM_CFG) stm).wr (fldp (FLD_MVB_DSW 0)) d0).wr
      (fldp (FLD_MVB_DSW 1)) d1
  | .servo k lo hi rr sl =>
    (((s.wr (twn 0 (TWN_LL_TENS_LO k.val)) lo).wr (twn 0 (TWN_LL_TENS_HI k.val)) hi).wr (twn 0 (TWN_LL_RR k.val)) rr).wr (twn 0 (TWN_LL_SLAVE k.val)) sl
  | .bulk _ _ => s

/-- A row's delta has arrived whole on a lane: DELTA_END, nothing skipped, no OVF (R328). -/
def State.laneWhole (s : State) (row : Word) (l : Nat) : Bool :=
  s.pr.deltas.any fun e => e.lane == l && e.row == row && e.ended && !e.ovf && !e.skip

/-- A row's delta has arrived whole on every lane (R328). -/
def State.deltaWhole (s : State) (row : Word) : Bool := s.lanes.all (s.laneWhole row)

/-- A resync ends with the commit of a row: every lane has named its last row, and none a later one (R330).
(DEDUCED, log entry 46) -/
def State.sweptBy (s : State) (row : Word) : Bool :=
  s.lanes.all fun l => match Assoc.get s.pr.ends l with
    | some m => decide ((row - m).toNat < 2 ^ 31)
    | none => false

/-- The records of a row's delta are committed, and the row that ends a resync makes the node SYNCED (R328, R330).
(DEDUCED, log entry 46) -/
def State.commitDelta (s : State) (row : Word) : State :=
  let l := s.pr.deltas.filter (·.row == row)
  let t := s.each (fun e u => (u.each (fun r v => v.takeRecord e.lane r) e.records).count (twn e.lane TWN_CNT_DELTA)) l
  let u := ((t.wr (twn 0 TWN_LL_ROW) row).wrB (twn 0 TWN_STAT) 7 true)
  let v : State := { u with pr := { u.pr with deltas := u.pr.deltas.filter (·.row != row), aged := 0 } }
  if v.sync == 1 && v.sweptBy row then
    let w := v.setSync 2
    { w with pr := { w.pr with ends := [], rsCtx := [] } }
  else v

/-- A row's delta is discarded: UNSYNCED, with OVF or GAP counted on each lane that failed (R328).
(DEDUCED, log entry 46) -/
def State.discardDelta (s : State) (row : Word) : State :=
  let ovf := fun (l : Nat) => s.pr.deltas.any fun e => e.lane == l && e.row == row && e.ovf
  let t := s.each (fun l u => if s.laneWhole row l then u else u.count (twn l (if ovf l then TWN_CNT_OVF else TWN_CNT_GAP))) s.lanes
  let u := t.setSync 0
  { u with pr := { u.pr with deltas := u.pr.deltas.filter (·.row != row), ends := [] } }

/-- A boundary passes without a commit: the lifeline ages (R329). -/
def State.ageLifeline (s : State) : State :=
  let n := s.pr.aged + 1
  let t := { s with pr := { s.pr with aged := n } }
  if atLeast1 (t.rdF (twn 0 TWN_CFG) 4 4) ≤ n then
    (if t.llOk then ((t.wrB (twn 0 TWN_STAT) 7 false).setSync 0).evalPartner else t)
  else t

/-- What a standby does with the lifeline at the boundary at which row `row` starts: the delta of the row two before is committed,
or discarded where some of it arrived (R328, R329). -/
def State.deltaBoundary (s : State) (row : Word) : State :=
  let n := row - 2
  if s.mode ≠ .standby then s
  else if s.deltaWhole n then s.commitDelta n
  else if s.pr.deltas.any (·.row == n) then (s.discardDelta n).ageLifeline
  else s.ageLifeline

/-- The delta of the drill is committed at once and answered, once DRILL and the whole delta are there (R339). -/
def State.tryDrill (s : State) : State :=
  match s.pr.drillRow with
  | some r =>
    if s.mode = .standby ∧ s.deltaWhole r then
      let t := s.commitDelta r
      (({ t with pr := { t.pr with drillRow := none } }).sendLane 0 t.row false true .drillAck)
    else s
  | none => s

/-- Records of a lane join its row's delta. -/
def State.joinDelta (s : State) (h : TwinHdr) (isEnd : Bool) (records : List LlRecord) : State :=
  let old : Delta := (s.pr.deltas.find? fun e => e.lane == h.lane.val && e.row == h.row).getD
    { lane := h.lane.val, row := h.row, records := [], ended := false, ovf := false, skip := false }
  let new : Delta := { old with records := old.records ++ records, ended := old.ended || isEnd, ovf := old.ovf || h.ovf
                                skip := old.skip || s.pr.skipped.contains h.lane.val }
  { s with pr := { s.pr with skipped := if isEnd then s.pr.skipped.filter (· ≠ h.lane.val) else s.pr.skipped, deltas := s.pr.deltas.filter (fun e => !(e.lane == h.lane.val && e.row == h.row)) ++ [new] } }

/-- DELTA_RX. -/
def execDeltaRx (h : TwinHdr) (isEnd : Bool) (records : List LlRecord) (s : State) : Host.Outcome State Fault Refusal :=
  .next (s.laneRx h fun t => t.when (t.mode == .standby) fun u => (u.joinDelta h isEnd records).tryDrill)

/-! ## Resync (R330, R337) -/

/-- The areas that a sweep covers: offset in the die's table window and KiB (R330). -/
def sweepAreas (d : Nat) : List (Nat × Nat) :=
  [(0x000000, 4096), (0x400000, 64), (0x410000, 32), (0x420000, 16), (0x424000, 32), (0x430000, 16), (0x440000, 128), (0x800000, 1024),
   (0x900000, 256), (0x940000, 64), (0x950000, 256), (0xA80000, 64), (0xAA0000, 128)] ++ (if d = 0 then [(0xB80000, 112)] else [])

/-- The total KiB of a die's sweep. -/
def sweepTotal (d : Nat) : Nat := (sweepAreas d).foldl (fun n e => n + e.2) 0

/-- The offset of chunk `k` of 8 KiB in the sweep of some areas. -/
def chunkIn : List (Nat × Nat) → Nat → Option Nat
  | [], _ => none
  | e :: es, k => if k < e.2 / 8 then some (e.1 + k * 8192) else chunkIn es (k - e.2 / 8)

/-- RESYNC_REQ_SEND: an UNSYNCED standby with all lanes up asks for a sweep. -/
def execResyncReqSend (s : State) : Host.Outcome State Fault Refusal :=
  .next (s.when (s.twinOn && s.mode == .standby && s.sync == 0 && s.lanes.all s.laneUp && (s.rdB (twn 0 TWN_CFG) 16 || s.rdB (twn 0 TWN_CTRL) 1)) fun t =>
    t.each (fun l u => u.sendLane l u.row false false .resyncReq) t.lanes)

/-- A write of TWN_CTRL.RESYNC, which reads 1 until a sweep begins (R9, R330). -/
def State.askResync (s : State) : State := s.wrB (twn 0 TWN_CTRL) 1 true

/-- TWIN_RESYNC_CMD. -/
def execTwinResyncCmd (s : State) : Host.Outcome State Fault Refusal := .next (s.guarded (twn 0 TWN_CTRL) State.askResync)

/-- The lead starts its sweep, or starts it again from the first chunk. -/
def State.startSweep (s : State) : State :=
  let t := s.each (fun l u => u.sendLane l u.row false false (.resync (.start (wordOf (sweepTotal l))))) s.lanes
  let u := t.wr (twn 0 TWN_RS_PROG) (wordOf ((t.lanes.foldl (fun n l => n + sweepTotal l) 0) * 65536))
  { u with pr := { u.pr with sweep := u.lanes.map fun l => (l, 0), pace := u.lanes.map fun l => (l, u.now) } }

/-- RESYNC_REQ_RX. -/
def execResyncReqRx (h : TwinHdr) (s : State) : Host.Outcome State Fault Refusal :=
  .next (s.laneRx h fun t => t.when t.lead State.startSweep)

/-- The next chunk of a lane's sweep. -/
def State.nextChunk (s : State) (l : Nat) : Option Nat := (Assoc.get s.pr.sweep l).bind fun k => chunkIn (sweepAreas l) k

/-- The ns from one frame of the sweep to the next: 8,286 bytes at RS_PACE percent of 25 Gbit/s, from 10 to 100 (R330, R340). -/
def State.paceNs (s : State) : Nat :=
  let p := clampTo 10 100 (s.rdF (twn 0 TWN_CFG) 8 7)
  (8286 * 32 + p - 1) / p

/-- The instant from which the next frame of a lane's sweep may leave is reached. -/
def State.reachPace (s : State) (l : Nat) : State := s.reachAt ((Assoc.get s.pr.pace l).getD 0)

/-- RESYNC_DATA_SEND: the next 8 KiB of a lane's sweep, at its pace. -/
def execResyncDataSend (lane : Fin 2) (s : State) : Host.Outcome State Fault Refusal :=
  .next (match s.nextChunk lane.val with
    | some o => s.when (s.twinOn && s.lead) fun r =>
        let t := r.reachPace lane.val
        let u := t.sendLane lane.val t.row false false (.resync (.data [.bulk o (t.tws (win lane.val o) 2048)]))
        ({ u with pr := { u.pr with sweep := Assoc.put u.pr.sweep lane.val (((Assoc.get u.pr.sweep lane.val).getD 0) + 1)
                                    pace := Assoc.put u.pr.pace lane.val (t.now + t.paceNs) } }).wrF
          (twn 0 TWN_RS_PROG) 0 16 (u.rdF (twn 0 TWN_RS_PROG) 0 16 + 8)
    | none => s)

/-- RESYNC_END_SEND: after the last chunk of a lane. -/
def execResyncEndSend (lane : Fin 2) (s : State) : Host.Outcome State Fault Refusal :=
  .next (s.when (s.twinOn && s.lead && (Assoc.get s.pr.sweep lane.val).isSome && (s.nextChunk lane.val).isNone) fun r =>
    let t := r.reachPace lane.val
    let u := t.sendLane lane.val t.row false false (.resync (.endRow t.row))
    { u with pr := { u.pr with sweep := Assoc.del u.pr.sweep lane.val } })

/-- Whether an offset lies in the directory or the translation table, and its 16-byte entries are then judged one by one. -/
def bulkTable (o : Nat) : Nat := if 0x800000 ≤ o ∧ o < 0x900000 then 1 else if 0x900000 ≤ o ∧ o < 0x940000 then 2 else 0

/-- Entries of 4 words are written, without those whose NODE_REL is set. -/
def State.takeEntries (s : State) (t a : Nat) : List Word → State
  | w0 :: w1 :: w2 :: w3 :: ws =>
    let u := if nodeRel t [w0, w1, w2, w3] then s else s.setTws a [w0, w1, w2, w3]
    u.takeEntries t (a + 16) ws
  | _ => s

/-- The PRODUCE contexts that a chunk has written: its entries or its images (R338). -/
def State.chunkCtxs (s : State) (d o n : Nat) : List (Nat × Nat) :=
  ((s.ctxs d).filter fun c => s.ctxRole d c == 1 &&
    ((decide (0x400000 + c * 16 < o + n) && decide (o < 0x400000 + c * 16 + 16)) ||
     (decide (s.bufAddr d c 0 < win d (o + n)) && decide (win d o < s.bufAddr d c 2)))).map fun c => (d, c)

/-- A BULK record is written to the die of its lane. -/
def State.takeBulk (s : State) (d o : Nat) (data : List Word) : State :=
  let t := if bulkTable o = 0 then s.setTws (win d o) data else s.takeEntries (bulkTable o) (win d o) data
  let l := t.chunkCtxs d o (4 * data.length)
  let u := t.each (fun e v => if o < 0x400000 then v else v.setInfo e.1 e.2 (v.infoFromEntry e.1 e.2)) l
  ({ u with pr := { u.pr with rsCtx := u.pr.rsCtx ++ l.filter fun e => !u.pr.rsCtx.contains e } }).evalTables d

/-- A resync frame is taken: START makes the node RESYNCING, DATA is written at once, END names the row whose commit ends the
resync. -/
def State.takeResync (s : State) (l : Nat) : ResyncFrame → State
  | .start kib =>
    let more := s.sync == 1
    let old := if more then s.rd (twn 0 TWN_RS_PROG) else 0
    let t := (s.setSync 1).wr (twn 0 TWN_RS_PROG) (old + kib <<< 16)
    { (t.wrB (twn 0 TWN_CTRL) 1 false) with pr := { t.pr with ends := if more then Assoc.del s.pr.ends l else [] } }
  | .data records =>
    if s.sync = 1 then
      s.each (fun r t => match r with
        | .bulk o data => (t.takeBulk l o data).wrF (twn 0 TWN_RS_PROG) 0 16 (t.rdF (twn 0 TWN_RS_PROG) 0 16 + data.length / 256)
        | _ => t) records
    else s
  | .endRow row => if s.sync = 1 then { s with pr := { s.pr with ends := Assoc.put s.pr.ends l row } } else s

/-- RESYNC_FRAME_RX. -/
def execResyncFrameRx (h : TwinHdr) (f : ResyncFrame) (s : State) : Host.Outcome State Fault Refusal :=
  .next (s.laneRx h fun t => t.when (t.mode == .standby) fun u => u.takeResync h.lane.val f)

/-! ## Planned switch-over (R339) -/

/-- A write of TWN_CTRL.DRILL: a lead whose partner is synced and heard takes it at the next boundary, and it reads 1 until then
(R9, R339). -/
def State.askDrill (s : State) : State :=
  if s.lead && s.rdB (twn 0 TWN_PEER) 2 && s.hbOk then s.wrB (twn 0 TWN_CTRL) 0 true else s.raiseTwn 13

/-- TWIN_DRILL. -/
def execTwinDrill (s : State) : Host.Outcome State Fault Refusal := .next (s.guarded (twn 0 TWN_CTRL) State.askDrill)

/-- DRILL_RX: the standby is to commit the delta of the row before at once. -/
def execDrillRx (h : TwinHdr) (s : State) : Host.Outcome State Fault Refusal :=
  .next (s.laneRx h fun t => t.when (t.mode == .standby) fun u => ({ u with pr := { u.pr with drillRow := some (h.row - 1) } }).tryDrill)

/-- DRILL_ACK_RX: the lead releases the token, and is a standby from the next boundary on. -/
def execDrillAckRx (h : TwinHdr) (s : State) : Host.Outcome State Fault Refusal :=
  .next (s.laneRx h fun t => t.when (t.lead && t.pr.drillRow.isSome) fun u =>
    let v := u.dropToken
    { v with pr := { v.pr with drillRow := none, give := true } })

/-- DRILL_TIMEOUT: the lead keeps the token. -/
def execDrillTimeout (s : State) : Host.Outcome State Fault Refusal :=
  .next (s.when (s.twinOn && s.lead && s.pr.drillRow.isSome) fun t =>
    let u := t.reachFrom drillMark (2 * t.rowLen)
    ({ u with pr := { u.pr with drillRow := none } }).raiseTwn 13)

/-! ## The row boundary -/

/-- A context that an incomplete resync last wrote is EMPTY (R338). -/
def State.emptyCtx (s : State) (d c : Nat) : State := (s.setInfo d c CtxInfo.init).refresh d c

/-- The new lead takes over (R332, R338). The needle role does not pass with the token: the cold-start state stays as it is (R333). -/
def State.takeLead (s : State) : State :=
  let t := { s with pr := { s.pr with take := false, forced := false, deltas := [], ends := [] } }
  let u := if t.pr.rsCtx.isEmpty then t
    else
      let v := t.each (fun e w => w.emptyCtx e.1 e.2) t.pr.rsCtx
      { v with dk := { v.dk with gens := [] }, pr := { v.pr with rsCtx := [] } }
  ((u.setMode .running .tokenAcquired).wrF (twn 0 TWN_STAT) 4 2 2)

/-- What a boundary does to the pair's roles and to the lead's delta: `row` is the row that ends (R327, R332, R339). -/
def State.pairBoundary (s : State) (row : Word) : State :=
  if !s.twinOn then s
  else if s.pr.take ∧ s.mode = .standby then s.takeLead
  else if s.pr.give ∧ (s.mode = .running ∨ s.mode = .healing) then
    let t := s.enterStandby .tokenLost
    { t with pr := { t.pr with give := false, sweep := [], ctxs := [], seqs := [], ents := [] } }
  else if s.lead then
    let drill := s.rdB (twn 0 TWN_CTRL) 0
    let t := (s.closeDelta row drill).wrB (twn 0 TWN_CTRL) 0 false
    if drill then ((({ t with pr := { t.pr with drillRow := some row } } : State).mark drillMark).sendLane 0 (row + 1) false true .drill) else t
  else s.wrB (twn 0 TWN_CTRL) 0 false

end Sys2Proof.Machine
end

