-- ==== Sys2Proof/Machine/Ring.lean ====
section
/-! DEFINITION. The meanings of the commands of The Backbone Ring and Turns (R297 to R315), and what a row boundary does to the
turns (R307, R308, R311, R315). -/

namespace Sys2Proof.Machine

/-! ## Failures and restoration of a line (R303, R304, R308, R342) -/

/-- The neighbour of a side before an event is noted (R306, R308). -/
def State.noteBefore (s : State) (side : Nat) : State :=
  match s.sideUid side with
  | some u => { s with rg := { s.rg with before := Assoc.put s.rg.before side (u, s.nbrNum side) } }
  | none => s

/-- A side becomes a split, which the inauguration engine sees as the loss of both neighbours (R309). -/
def State.splitSide (s : State) (side : Nat) (second : Bool) : State :=
  if s.sideCode side = 2 then s
  else
    let t := ((s.noteBefore side).makeSplit side second).each (fun p u => u.loseQueue p) (sidePorts s.part side)
    t.withNbr fun u => u.each (fun p v => v.clearWin (nbrAddr (portIdx v.part p)) 16) (sidePorts u.part side)

/-- A node that holds a fault turn and knows another one elsewhere splits its own (R309).
(DEDUCED, log entry 45) -/
def State.secondFault (s : State) (side : Nat) : State :=
  if (s.faultLine side).isSome && s.otherKnown side then s.splitSide side true else s

/-- The other line's failure was declared within RNG_PAIR_T of now (R309). -/
def State.inPair (s : State) (p : Nat) : Bool :=
  match Assoc.get s.rg.failed (otherLine s.part p) with
  | some t => decide (s.now ≤ t + s.pairT p)
  | none => false

/-- A port's failure is declared (R303 to R305, R309): nothing more on a side that holds an end turn; a split where the other line
of the side holds a fault turn, as a second fault where the two failures lie further apart than RNG_PAIR_T; else a fault turn. -/
def State.declareFailure (s : State) (p : Nat) : State :=
  let side := portSide p
  let s0 := s.pst p 45
  let s1 := { s0 with rg := { s0.rg with failed := Assoc.put s0.rg.failed p s0.now, due := Assoc.del s0.rg.due p } }
  if !s1.rdB (rng (p / 32) RNG_CFG) 0 then s1
  else if s1.sideCode side = 1 ∨ s1.sideCode side = 2 then s1
  else match s1.faultLine side with
    | some l => if l = portLine s1.part p then s1 else s1.splitSide side (!s1.inPair p)
    | none => ((((s1.noteBefore side).setFault p).loseQueue p).secondFault 0).secondFault 1

/-- A backbone port has no block lock, or receives a fault ordered set. -/
def State.lineBad (s : State) (p : Nat) : Bool := !s.lock p || s.rg.faultRx.contains p

/-- LINE_FAILURE: a working backbone port without block lock or with a fault ordered set for RNG_DET_T (R303). -/
def execLineFailure (p : Port) (s : State) : Host.Outcome State Fault Refusal :=
  .next (s.when (isBackbone s.part p.val && s.portOn p.val && (Assoc.get s.rg.failed p.val).isNone && s.lineBad p.val) fun t =>
    (t.reachAt ((Assoc.get t.rg.due p.val).getD 0)).declareFailure p.val)

/-- A port has lost its lock or begun to receive a fault ordered set. -/
def State.lineLost (s : State) (p : Nat) (l : LineLoss) : State :=
  let s1 := { s with rg := { s.rg with
    locked := if l = LineLoss.lock then Assoc.del s.rg.locked p else s.rg.locked
    due := if s.lineBad p then s.rg.due else Assoc.put s.rg.due p (s.now + s.detT p) } }
  match l with
  | .lock =>
    let s2 := ((s1.wrB (prt p PRT_LINE_STAT) 0 false).loseFlight p).arm (tmr (prt p PRT_LINE_CFG) 0)
      (atLeast1 (s.rdF (prt p PRT_LINE_CFG) 8 8) * ms)
    if (sidePorts s.part (portSide p)).all fun q => !s2.lock q then s2.arm (rewakeTmr (portSide p)) ms else s2
  | .localFault => ({ s1 with rg := { s1.rg with faultRx := p :: s1.rg.faultRx } }).wrB (prt p PRT_LINE_STAT) 2 true
  | .remoteFault =>
    (({ s1 with rg := { s1.rg with faultRx := p :: s1.rg.faultRx } }).wrB (prt p PRT_LINE_STAT) 3 true).raise (rng (p / 32) 0) 5

/-- A line's lock, rate and fault bits after it has regained block lock; a rate other than the last resets the port's weight
(R21, R342). -/
def State.lineUp (s : State) (p : Nat) (rate10 : Bool) : State :=
  let i := portIdx s.part p
  let old := s.kp.rate10.getLsbD i
  let s1 := (((s.wrB (prt p PRT_LINE_STAT) 0 true).wrB (prt p PRT_LINE_STAT) 1 rate10).wrF (prt p PRT_LINE_STAT) 2 2 0)
  let s2 := { s1 with
    kp := { s1.kp with rate10 := s1.kp.rate10 &&& ~~~(BitVec.ofNat 4 (2 ^ i)) ||| BitVec.ofNat 4 (b2n rate10 * 2 ^ i) }
    rg := { s1.rg with failed := Assoc.del s1.rg.failed p, due := Assoc.del s1.rg.due p
                       locked := if s.lock p && (Assoc.get s1.rg.locked p).isSome then s1.rg.locked
                         else Assoc.put s1.rg.locked p (s1.now + s1.rstHold p)
                       faultRx := s1.rg.faultRx.filter (· != p) } }
  if old = rate10 then s2
  else (((s2.bumpF (prt p PRT_LINE_STAT) 8 8).raise (prt p 0) 15).wr (weightReg p) (if rate10 then 4 else 10))

/-- A burst that is being sent on a side's taps stops as a port of the side regains block lock (R367). -/
def State.stopBursts (s : State) (side : Nat) : State :=
  s.each (fun n t => if t.kp.rewakeDone.getLsbD side && t.kp.bursting.getLsbD n then
      (({ t with kp := { t.kp with bursting := t.kp.bursting &&& ~~~(BitVec.ofNat 4 (2 ^ n)) } }).disarm (tmr (kby KBY_BURST) n)).emit
        (.burstEnd n) else t) [side, 2 + side]

/-- A line held back starts its pull-in once both ports of the first line have block lock (R347). -/
def State.lockStarts (s : State) (line : Nat) : State :=
  if s.waits (1 - line) && s.lock (backbonePort s.part line 0) && s.lock (backbonePort s.part line 1) then s.drive (1 - line) else s

/-- The rate at which a port may lock: the one of PRT_LINE_CFG.RATE, either one at AUTO (R341, R342). -/
def State.rateMay (s : State) (p : Nat) (rate10 : Bool) : Bool :=
  let r := s.rdF (prt p PRT_LINE_CFG) 0 2
  if r = 0 then !rate10 else if r = 1 then rate10 else true

/-- LINE_LOCK_REGAINED: the port has block lock again and receives no fault ordered set (R308, R342, R347).
(DEDUCED, log entry 21) -/
def execLineLockRegained (p : Port) (rate10 : Bool) (s : State) : Host.Outcome State Fault Refusal :=
  .next (s.when (isBackbone s.part p.val && s.portOn p.val && s.rateMay p.val rate10) fun t =>
    ((t.lineUp p.val rate10).stopBursts (portSide p.val)).lockStarts (portLine t.part p.val))

/-- BLOCK_LOCK_LOSS: a backbone port or a twin lane loses its lock or begins to receive a fault ordered set (R303, R325, R335). -/
def execBlockLockLoss (e : LineEnd) (l : LineLoss) (s : State) : Host.Outcome State Fault Refusal :=
  .next (match e with
    | .port p => s.when (isBackbone s.part p.val && s.portOn p.val) fun t => t.lineLost p.val l
    | .twin lane => s.when (s.twinOn && decide (l = LineLoss.lock)) fun t => t.laneDown lane.val)

/-! ## TURN_NOTICE (R306, R307) -/

/-- Placeholders of the codes: a notice body for a notice. -/
def Notice.body (u : Uid) (n : Notice) : TurnNotice :=
  { uid := u, kind := n.kind, line := if n.line = 0 then .a else .b, side := if n.side = 0 then .one else .two, far := n.far
    seq := n.seq, st := n.st }

/-- The row number of frames sent outside stitches: SCH_ROW, or 0 while rows do not run (R306, R358). -/
def State.ctlRow (s : State) : Word := if s.run then s.row else 0

/-- A class 6 control frame leaves on every side and line that has no turn (R306). -/
def State.sendCtl (s : State) (subtype : Byte) (b : Body) : State :=
  s.sendRing (s.hdr subtype s.ctlRow 0xFFFF) none b false

/-- The pair wait of a side's fault turn ends, and its notice is made, of the kind that applies by then (R306). Without the Komidon link
die 0 notices line A only (R312). -/
def State.endPairWait (s : State) (side : Nat) : State :=
  match s.rg.pairWait.find? fun e => portSide e.1 == side with
  | none => s
  | some e =>
    let r := s.reachAt e.2
    let t := { r with rg := { r.rg with pairWait := Assoc.del r.rg.pairWait e.1 } }
    if t.xdieWrap && portLine t.part e.1 == 1 then t
    else t.newNotice (if t.sideCode side = 2 then .split else .set) (portLine t.part e.1) side

/-- FWD_STAT records the line of a fault turn (R274, R307). -/
def State.noteFlood (s : State) (line : Nat) : State := s.each (fun d t => t.wrB (fwd d FWD_STAT) (1 + line) true) s.dies

/-- FWD_STAT follows the known-fault table: a line without a known fault turn is free again.
(DEDUCED, log entry 45) -/
def State.evalFlood (s : State) : State :=
  let known (l : Nat) : Bool := (List.range 8).any fun k =>
    let w := s.rd (rng 0 (RNG_KNOWN k))
    bit w 16 && !bit w 15 && fld w 14 1 == l
  s.each (fun d t => (t.wrB (fwd d FWD_STAT) 1 (known 0)).wrB (fwd d FWD_STAT) 2 (known 1)) s.dies

/-- What a notice, sent or received, does to FWD_STAT (R274, R307). -/
def State.flooding (s : State) (k : NoticeKind) (line : Nat) : State := if k = .set then s.noteFlood line else s.evalFlood

/-- A notice may leave now: it is new, or a row follows that of its last frame (R306). -/
def State.noticeDue (s : State) (n : Notice) : Bool := n.left == 3 || (s.run && n.row != s.row)

/-- The notice of a side leaves once. -/
def State.sendNotice (s : State) (side : Nat) : State :=
  match s.rg.notices.find? fun n => n.side == side && s.noticeDue n with
  | none => s
  | some n =>
    let rest := s.rg.notices.filter (· ≠ n)
    let t := { s with rg := { s.rg with notices := if n.left ≤ 1 then rest else { n with left := n.left - 1, row := s.row } :: rest } }
    (t.sendCtl 0x07 (.turnNotice (n.body t.uid))).flooding n.kind n.line

/-- TURN_NOTICE_SEND: RNG_PAIR_T after a fault turn, at once for a split or a clearing, and in the next two rows, each in the first
gap (R306). -/
def execTurnNoticeSend (sd : Side) (s : State) : Host.Outcome State Fault Refusal :=
  .next (s.when (s.dieUp 0) fun t =>
    let u := t.endPairWait (sideNum sd)
    u.when (u.rg.notices.any fun n => n.side == sideNum sd && u.noticeDue n) fun v => v.inFirstGap 64 fun w => w.sendNotice (sideNum sd))

/-- What a first copy of a notice does (R307, R309). -/
def State.takeNotice (s : State) (h : Hdr) (b : TurnNotice) : State :=
  let s1 := { s with rg := { s.rg with seen := (b.uid, b.seq) :: s.rg.seen } }
  let s2 := ((s1.count (rng 0 RNG_CNT_NOTICE)).raise (rng 0 0) 3).pathChange []
  let rep := h.sender.toNat
  let side := sideNum b.side
  let s3 := match b.kind with
    | .clear => s2.delKnown rep side
    | .set => s2.addKnown rep side b.far.toNat (lineNum b.line) false false
    | .split => s2.addKnown rep side b.far.toNat (lineNum b.line) true false
  ((s3.flooding b.kind (lineNum b.line)).secondFault 0).secondFault 1

/-- TURN_NOTICE_RX: later copies of a sender and sequence are dropped without a count; an own notice is stripped (R299, R307). -/
def execTurnNoticeRx (rx : Rx) (h : Hdr) (b : TurnNotice) (s : State) : Host.Outcome State Fault Refusal :=
  .next (State.onArrival (s.takeSl rx h 0x07) fun a t =>
    if b.uid = t.uid then t.strip rx.port.val
    else if t.rg.seen.contains (b.uid, b.seq) then t
    else if a = .bad then t.endBad rx.port.val (.sl h none (.turnNotice b))
    else (t.relay rx.port.val h none (.turnNotice b) false).takeNotice h b)

/-! ## Forced turns (R308, R315) -/

/-- A fault turn whose port has block lock clears without the hold, or with it if the hold, the ordered sets and the neighbour
agree (R308). -/
def State.clears (s : State) (side : Nat) : Bool :=
  match s.faultPort side with
  | none => false
  | some p =>
    let held := match Assoc.get s.rg.locked p with
      | some t => decide (t ≤ s.now)
      | none => false
    let nbr := s.nbrOk p && (Assoc.get s.rg.before side).map (·.1) == some (s.nbrUid p)
    s.lock p && (s.rdB (rng 0 RNG_FORCE) 8 || (held && !s.rg.faultRx.contains p && nbr))

/-- Software holds a side as a split (R311). -/
def State.forced (s : State) (side : Nat) : Bool := s.rdB (rng 0 RNG_FORCE) side

/-- A split side may reopen (R311). -/
def State.reopens (s : State) (side : Nat) : Bool :=
  let held (p : Nat) : Bool := match Assoc.get s.rg.locked p with
    | some t => s.lock p && decide (t ≤ s.now)
    | none => false
  let ports := sidePorts s.part side
  s.sideCode side == 2 && !s.forced side && ports.any held && (ports.all s.lock || !s.otherKnown side)

/-- A split side reopens as an end side, with a notice of kind CLEAR and a coupling detection (R311). -/
def State.reopen (s : State) (side : Nat) : State :=
  let t := ((s.wrSide side 1).delKnown s.num side).newNotice .clear 0 side
  t.coupleDetect side

/-- What RNG_FORCE does to one side: it holds it as a split, or lets it reopen (R311, R315). -/
def State.forceSide (s : State) (side : Nat) : State :=
  if s.forced side && s.sideCode side != 2 then s.splitSide side false
  else if s.reopens side then s.reopen side
  else s

/-- What a row boundary does to the turn of one side. -/
def State.turnSide (s : State) (side : Nat) : State :=
  if (s.forced side && s.sideCode side != 2) || s.reopens side then s.forceSide side
  else if s.clears side then s.clearFault side
  else s

/-- In the row after a blocking every fault turn or split is noticed again (R307). -/
def State.renotify (s : State) : State :=
  if s.rg.renotice then
    let t := { s with rg := { s.rg with renotice := false } }
    t.each (fun side u =>
      match u.faultLine side with
      | some l => u.newNotice .set l side
      | none => if u.sideCode side = 2 then u.newNotice .split 0 side else u) [0, 1]
  else s

/-- The flood line of a die (R274).
(DEDUCED, log entry 45) -/
def State.floodLine (s : State) (d : Nat) : Nat := s.rdF (fwd d FWD_STAT) 0 1

/-- The flood line switches at the row boundary after the notice (R274). -/
def State.switchFlood (s : State) (d : Nat) : State :=
  let cfg := s.rdF (fwd d FWD_CFG) 1 1
  let eff := if s.rdB (fwd d FWD_CFG) 2 && s.rdB (fwd d FWD_STAT) (1 + cfg) then 1 - cfg else cfg
  if eff = s.floodLine d then s else (s.wrF (fwd d FWD_STAT) 0 1 eff).raise (fwd d 0) 0

/-- What a row boundary does to the turns (R274, R307, R308, R311, R315), and the return from HEALING (R42). CLR_FAULT reads 1 until
it is taken here (R9). -/
def State.turnBoundary (s : State) : State :=
  let t := (s.turnSide 0).turnSide 1
  let u := t.wrB (rng 0 RNG_FORCE) 8 false
  (u.each (fun d v => v.switchFlood d) u.dies).fromHealing

/-- A write of RNG_FORCE.CLR_FAULT: every fault turn with block lock clears at the next row boundary (R308). -/
def State.askClear (s : State) : State := s.wrB (rng 0 RNG_FORCE) 8 true

/-- FORCE_CLEAR_FAULT. -/
def execForceClearFault (s : State) : Host.Outcome State Fault Refusal := .next (s.guarded (rng 0 RNG_FORCE) State.askClear)

/-- The SPLIT bits are stored; while rows do not run they act at once (R311, R315). -/
def State.askSplit (s : State) (one two : Bool) : State :=
  let u := (s.wrB (rng 0 RNG_FORCE) 0 one).wrB (rng 0 RNG_FORCE) 1 two
  if u.run then u else (u.forceSide 0).forceSide 1

/-- FORCE_SPLIT. -/
def execForceSplit (one two : Bool) (s : State) : Host.Outcome State Fault Refusal :=
  .next (s.guarded (rng 0 RNG_FORCE) fun t => t.askSplit one two)

end Sys2Proof.Machine
end

