-- ==== Sys2Proof/Machine/Consist.lean ====
section
/-! DEFINITION. The consist star: ingress guards, policers and fences (R148 to R157, R163), polling (R158 to R162), and the links of
the ports (R491). -/

namespace Sys2Proof.Machine

/-! ## Guards -/

/-- A new history, which STAT.HIST shows. -/
@[noinline] def State.setHist (s : State) (p : Nat) (l : List Nat) : State :=
  (s.setGuard p { s.guard p with hist := l }).wrF (prt p PRT_GRD_STAT) 16 7 l.length

/-- The port is fenced. -/
def State.fenced (s : State) (p : Nat) : Bool := s.rdB (prt p PRT_GRD_STAT) 0

/-- The ST at a port (R82). -/
def State.portSt (s : State) (p : Nat) : Word := s.st (p / 32)

/-- The port is fenced (R155). -/
@[noinline] def State.fence (s : State) (p : Nat) : State :=
  if s.fenced p then s
  else
    let s0 := s.setGuard p { s.guard p with fencedAt := s.now }
    let s1 := ((s0.wrB (prt p PRT_GRD_STAT) 0 true).wr (prt p PRT_GRD_FENCE_ST) (s0.portSt p)).countF (prt p PRT_GRD_STAT) 8 8
    let s2 := s1.when (decide (atLeast1 (s1.rdF (prt p PRT_GRD_FENCE_LIM) 0 8) ≤ s1.rdF (prt p PRT_GRD_STAT) 8 8)) fun t => t.wrB (prt p PRT_GRD_STAT) 1 true
    s2.raise (prt p 0) 9

/-- A fence is lifted: the history clears (R157). -/
@[noinline] def State.lift (s : State) (p : Nat) : State :=
  if s.fenced p then
    let s1 := ((s.wrB (prt p PRT_GRD_STAT) 0 false).wrB (prt p PRT_GRD_STAT) 2 false).setHist p []
    (s1.setGuard p { s1.guard p with lifted := some s1.now }).raise (prt p 0) 10
  else s

/-- The kinds of violation (R154). -/
inductive Viol where
  | outside | overrun | police | badReply | slandongo
  deriving DecidableEq, Repr

def Viol.code : Viol → Nat
  | .outside => 1 | .overrun => 2 | .police => 3 | .badReply => 4 | .slandongo => 5

/-- The counter of a kind, in the port page and in the statistics (R164, R443). -/
def Viol.counter : Viol → Nat × Nat
  | .outside => (PRT_GRD_CNT_OUTSIDE, 12) | .overrun => (PRT_GRD_CNT_OVERRUN, 13) | .police => (PRT_GRD_CNT_POLICE, 14)
  | .badReply => (PRT_GRD_CNT_BADREPLY, 15) | .slandongo => (PRT_GRD_CNT_SLD, 16)

/-- A kind is counted. -/
def State.violCount (s : State) (p : Nat) (k : Viol) : State := (s.count (prt p k.counter.1)).pst p k.counter.2

/-- A violation as it is classified: reported, in the history, and fencing where FENCE_N violations fall within FENCE_T (R154, R155).
Its counter has been incremented, and `cfg` is the guard configuration that the frame is judged by.
(DEDUCED, log entry 33) -/
def State.violation (s : State) (p : Nat) (k : Viol) (sid : Nat) (cfg : Word) : State :=
  let s1 := ((s.wr (prt p PRT_GRD_VIOL_ST) (s.portSt p)).wr (prt p PRT_GRD_VIOL_INFO) (wordOf (k.code + sid % 4096 * 16))).raise (prt p 0) 8
  let l := (s1.now :: (s1.guard p).hist).take 64
  let s2 := s1.setHist p l
  let n := fld cfg 8 6
  match l[n - 1]? with
  | some old =>
    let d := s2.now - old
    s2.when (bit cfg 0 && n != 0 && decide (d < s2.rdF (prt p PRT_GRD_FENCE_T) 0 20 * 1000 ∧ d ≤ 2 ^ 31)) fun u => u.fence p
  | none => s2

/-! ## The rate policer (R153) -/

/-- What PRT_POL_TOKENS reads: the bucket as it is now. -/
def State.tokensNow (s : State) (p : Nat) : Word := (s.fillNow p).rd (prt p PRT_POL_TOKENS)

/-- A frame of `n` bytes that ends at an instant reaches the policer: whether it passes. A RATE without limit keeps the bucket full.
(DEDUCED, log entry 33) -/
def State.police (s : State) (p n : Nat) (start : Word) (end0 : Nat) (sid : Nat) (cfg : Word) : State × Bool :=
  let rate := polRate cfg (s.effAt start (prt p PRT_POL_RATE))
  let t := s.fill p rate (fld (s.effAt start (prt p PRT_POL_BURST)) 0 20) end0
  let have0 := t.rdF (prt p PRT_POL_TOKENS) 0 20
  if n ≤ have0 then ((t.when (rate != 0xFFFF) fun u => u.wrF (prt p PRT_POL_TOKENS) 0 20 (have0 - n)), true)
  else
    let u := t.violCount p .police
    ((if bit cfg 2 then u.violation p .police sid cfg else u), false)

/-! ## Windows (R151, R152) -/

/-- A permitted window: its stitch, whether it is a REPLY's, its row, and its edges in 1/400 ns from the current row start. -/
structure Win where
  sid : Nat
  reply : Bool
  row : Word
  a : Int
  b : Int
  deriving DecidableEq, Repr

/-- The permitted windows of a port in a row that starts `base` ns after the current one. -/
def State.winsOf (s : State) (p : Nat) (row : Word) (v : RowView) (base : Int) : List Win :=
  match s.slotOf v.bank v.prf with
  | none => []
  | some sl => (List.range (s.slotCnt sl)).filterMap fun i =>
    let e := s.entry sl i
    let o := s.effOwner v.bank v.prf i e
    if (e.kind = kReply ∨ e.kind = kBe) ∧ e.masks p ∧ (s.ownNum o ∨ (e.kind = kBe ∧ e.owner = 0)) ∧ s.wasActive row v i e then
      some { sid := i, reply := e.kind == kReply, row := row, a := (base + e.startNs) * 400, b := (base + (e.startNs + e.lenNs : Nat)) * 400 }
    else none

/-- The start of a frame in 1/400 ns from the current row start: SOF less 8 byte times and LDLY. -/
def State.frameAt (s : State) (p : Nat) (sof : Word) : Int :=
  stDiff sof (s.rd (sch 0 SCH_ROW_ST)) * 400 - 8 * s.anyByte p - ((s.rd (prt p PRT_PTP_LDLY)).toNat : Int) * 25

/-- The windows of a port around the current row: its own, those of the row before, and those of the next row as far as it is known
(R540). -/
def State.winsNear (s : State) (p : Nat) : List Win :=
  let n := s.asNext
  s.winsOf p s.row s.thisRow 0 ++ s.winsOf p (s.row - 1) s.lastRow (stDiff s.sc.prevRowSt (s.rd (sch 0 SCH_ROW_ST)))
    ++ n.winsOf p n.row n.thisRow s.rowLen

/-- Of some windows, the first in stitch order. -/
def firstWin : List Win → Option Win
  | [] => none
  | w :: ws => match firstWin ws with
    | some v => if v.sid < w.sid then some v else some w
    | none => some w

/-- The first window, in stitch order, whose zone holds a frame start (R152). -/
def State.windowAt (s : State) (p : Nat) (x : Int) : Option Win :=
  let sv : Int := s.actSelv * 400
  firstWin ((s.winsNear p).filter fun w => decide (w.a - sv ≤ x ∧ x ≤ w.b + sv))

/-! ## Polling (R158 to R161) -/

/-- The first REPLY after a POLL that pairs with it, among the entries from `i` on. -/
def State.pairFrom (s : State) (sl : Nat) (e : Stitch) : Nat → Nat → Option Nat
  | 0, _ => none
  | n + 1, i =>
    let r := s.entry sl i
    if r.kind = kPoll then none
    else if r.kind = kReply ∧ r.owner = e.owner ∧ r.bank = e.bank ∧ r.pmask = e.pmask then some i
    else State.pairFrom s sl e n (i + 1)

/-- The REPLY paired with a POLL (R158). -/
def State.replyOf (s : State) (sl sid : Nat) : Option Nat := s.pairFrom sl (s.entry sl sid) (s.slotCnt sl - (sid + 1)) (sid + 1)

/-- The POLL paired with a REPLY. -/
def State.pollOf (s : State) (sl sid : Nat) : Option Nat :=
  (List.range sid).reverse.find? fun i => (s.entry sl i).kind == kPoll && s.replyOf sl i == some sid

/-- Entry `i` of a die's poll device table (R166). -/
def pollDev (d i : Nat) : Nat := win d (0x0AA0000 + i * 16)

/-- A number of bytes in network byte order. -/
def ofBe (l : List Byte) : Nat := l.foldl (fun n b => n * 256 + b.toNat) 0

/-- The device MAC of an entry. -/
def State.devMac (s : State) (d i : Nat) : Mac := BitVec.ofNat 48 (ofBe (s.tbs (pollDev d i) 6))

/-- The ports of an entry's mask. -/
def State.maskPorts (s : State) (e : Stitch) : List Nat := ((List.range 16).map (16 * e.bank + ·)).filter fun p => e.masks p && hasGuard s.part p

/-- A REPLY's window has taken something in its row (R161, R162). -/
def State.noteReply (s : State) (x : ReplyGot) : State := { s with cn := { s.cn with replies := s.cn.replies ++ [x] } }

/-- The checks of R161 of a REPLY in a window. -/
def State.replyOk (s : State) (p : Nat) (w : Win) (sa : Mac) (h : Hdr) (b : Reply) : Bool :=
  match s.actSlot with
  | none => false
  | some sl =>
    let e := s.entry sl w.sid
    let po := s.pollOf sl w.sid
    let dev := match po with | some i => (s.entry sl i).ident | none => e.ident
    let a := pollDev (p / 32) dev
    h.sid.toNat == w.sid && h.row == s.row && h.prf.toNat == s.actPrf
      && (!(s.tb (a + 8)).getLsbD 1 || sa == s.devMac (p / 32) dev)
      && (match po with
          | some i => s.cn.polls.any fun q => q.row == s.row && q.sid == i && q.port == p && q.pseq == b.pseq
          | none => b.pseq == 0)
      && b.strand.dsid.toNat == e.ident && decide (b.strand.data.length ≤ 1432) && b.lenAgrees
      && !(s.cn.replies.any fun q => q.row == w.row && q.sid == w.sid && q.port == p && q.strand.isSome)

/-- A REPLY in its window: accepted, a duplicate of another port's, or BADREPLY.
(DEDUCED, log entry 34) -/
def State.takeReply (s : State) (p : Nat) (w : Win) (sa : Mac) (h : Hdr) (b : Reply) (cfg : Word) : State :=
  if s.replyOk p w sa h b then
    (if s.cn.replies.any fun q => q.row == w.row && q.sid == w.sid && q.strand.isSome then s.count (prt p PRT_POLL_CNT_DUP)
    else ((s.count (prt p PRT_POLL_CNT_RPL)).pst p 42).noteReply { row := w.row, sid := w.sid, port := p, strand := some b.strand })
  else
    ((s.noteReply { row := w.row, sid := w.sid, port := p, strand := none }).violCount p .badReply).violation p .badReply w.sid cfg

/-! ## A frame at a guard (R149, R150, R152, R163) -/

/-- EDGE of a frame in a window: counted for the port and its stitch. -/
def State.guardEdge (s : State) (p sid : Nat) : State :=
  ((s.count (prt p PRT_GRD_CNT_EDGE)).pst p 17).statBy (stitchCtr (p / 32) sid 0) 1

/-- A violation with its counter; a REPLY that failed R152 is remembered for the window that it names (R162).
(DEDUCED, log entry 33) -/
def State.guardBad (s : State) (p : Nat) (k : Viol) (sid : Nat) (cfg : Word) (reply : Option Hdr) : State :=
  let t := (s.violCount p k).violation p k sid cfg
  match reply with
  | some h => t.noteReply { row := t.row, sid := h.sid.toNat, port := p, strand := none }
  | none => t

/-- A frame that the guard refuses is a violation and is dropped. -/
def State.refuse (t : State) (p sid : Nat) (cfg : Word) (k : ConsistKind) (v : Viol) : State × Bool :=
  (t.guardBad p v sid cfg (match k with | .reply h _ => some h | _ => none), false)

/-- A frame let in outside its nominal window is counted. -/
def State.flagEdge (t : State) (edge : Bool) (p sid : Nat) : State := t.when edge fun u => u.guardEdge p sid

/-- Link-local group addresses, which bypass the window check (R150). -/
def linkLocal (m : Mac) : Bool := m.toNat / 16 == 0x0180C200000

/-- What a frame is by its EtherType (R107, R150). -/
def State.kindOf (s : State) (e : Eth) (k : ConsistKind) : ConsistKind :=
  if e.etype = 0x8808 then .macControl
  else if e.etype ≠ s.slEtype then .other
  else match k with
    | .reply h b => .reply h b
    | _ => .slandongo

/-- What a guard lets into forwarding: whether the frame passes.
(DEDUCED, log entry 33) -/
def State.judge (s : State) (rx : Rx) (e : Eth) (k : ConsistKind) : State × Bool :=
  let p := rx.port.val
  let x := s.frameAt p (s.rxStamp rx)
  let st := s.rd (sch 0 SCH_ROW_ST) + BitVec.ofInt 32 (x / 400)
  let y := x + (8 + rx.len : Nat) * s.anyByte p
  let end0 := ((s.now : Int) + stDiff st (s.st (p / 32)) + (y - x) / 400).toNat
  let cfg := s.effAt st (prt p PRT_GRD_CFG)
  let w := if s.run then s.windowAt p x else none
  let sid := match w with | some w => w.sid | none => 0xFFF
  let sv : Int := s.actSelv * 400
  let beyond := match w with | some w => decide (w.b + sv < y) | none => false
  let edge := match w with | some w => decide (x < w.a ∨ w.b < y) | none => false
  let policed := !bit cfg 0 || bit cfg 1 || !s.run
  match k with
  | .macControl => (s, false)
  | .reply h b =>
    if !headerOk h then (s.xchk p, false)
    else match w with
    | some w =>
      if w.reply && !beyond then (let t := s.takeReply p w e.sa h b cfg; (if s.replyOk p w e.sa h b then t.flagEdge edge p sid else t, false))
      else if policed then s.refuse p sid cfg k .slandongo
      else if beyond then s.refuse p sid cfg k .overrun
      else s.refuse p sid cfg k .outside
    | none => s.refuse p sid cfg k (if policed then .slandongo else .outside)
  | .slandongo =>
    match w with
    | some _ => s.refuse p sid cfg k (if beyond && !policed then .overrun else .slandongo)
    | none => s.refuse p sid cfg k (if policed then .slandongo else .outside)
  | .other =>
    if policed || linkLocal e.da then s.police p rx.len st end0 sid cfg
    else match w with
      | none => s.refuse p sid cfg k .outside
      | some w =>
        if beyond then s.refuse p sid cfg k .overrun
        else if w.reply then s.refuse p sid cfg k .outside
        else (s.flagEdge edge p sid).police p rx.len st end0 sid cfg

/-- The ingress of a consist port is dropped: fenced, lifted only after the frame's start, or an uplink of a standby (R150, R156, R157).
The start is SOF less 8 byte times and LDLY. -/
def State.ingressShut (s : State) (rx : Rx) : Bool :=
  let p := rx.port.val
  let start := ((s.now : Int) + stDiff (s.rxStamp rx) (s.portSt p)) * 400 - 8 * s.anyByte p - ((s.rd (prt p PRT_PTP_LDLY)).toNat : Int) * 25
  s.fenced p || (isUplink s.part p && s.mode == .standby)
    || (match (s.guard p).lifted with | some t => decide (start < (t : Int) * 400) | none => false)

/-- A frame's arrival is counted at the MAC; whether it is whole: runts and bad FCS are dropped there. -/
def State.macRx (s : State) (rx : Rx) (e : Eth) : State × Bool :=
  let p := rx.port.val
  let t := (((s.crossPort p).pst p 0).statBy (portCtr p 1) rx.len).pst p (2 + (Frame.eth e).cast)
  if !rx.fcsOk then (t.pst p 5, false) else if rx.len < 64 then (t.pst p 6, false) else (t, true)

/-- A frame is received on a consist port: whether it gets past the MAC, a fence and the guard. -/
def State.consistIn (s : State) (rx : Rx) (e : Eth) (k : ConsistKind) : State × Bool :=
  let p := rx.port.val
  if !(hasGuard s.part p && s.portOn p) then (s, false)
  else match s.macRx rx e with
    | (t, false) => (t, false)
    | (t, true) =>
      if t.kindOf e k = ConsistKind.macControl then (t.pst p 9, false)
      else if t.ingressShut rx then ((t.count (prt p PRT_GRD_CNT_FENCED)).pst p 18, false)
      else t.judge rx e (t.kindOf e k)

/-- A frame is received on a consist port. -/
def State.consistRx (s : State) (rx : Rx) (e : Eth) (k : ConsistKind) : State :=
  match s.consistIn rx e k with
  | (u, true) => u.beIngress rx e
  | (u, false) => u

/-- A gPTP message as an Ethernet frame: to its link-local address, with its EtherType. -/
def ptpEth (n : Nat) : Eth := { da := 0x0180C200000E, sa := 0, tag := none, etype := 0x88F7, len := n, ip := none }

/-- A gPTP message is received: whether it gets past the port, its MACsec, its guard and its policer (R150, R156, R425). -/
def State.ptpIn (s : State) (rx : Rx) : State × Bool :=
  if isBackbone s.part rx.port.val then
    let free := match portSa s.part rx.port.val with
      | some (d, m) => s.rdB (sa d m SEC_PORT_CFG) 2
      | none => true
    match s.takeRx rx free with
    | (t, .good) => (t.pst rx.port.val 3, true)
    | (t, _) => (t, false)
  else s.consistIn rx (ptpEth rx.len) .other

/-- CONSIST_FRAME_RX. -/
def execConsistFrameRx (rx : Rx) (e : Eth) (k : ConsistKind) (s : State) : Host.Outcome State Fault Refusal :=
  .next (s.consistRx rx e k)

/-- A best-effort frame is received on a backbone port: FCS and MACsec are checked there (R287, R425). -/
def State.backboneRx (s : State) (rx : Rx) (e : Eth) : State :=
  let free := match portSa s.part rx.port.val with
    | some (d, m) => s.secExempt d m (.eth e)
    | none => true
  match s.takeRx rx free with
  | (t, .none) | (t, .bad) => t
  | (t, .good) =>
    let u := t.pst rx.port.val (2 + (Frame.eth e).cast)
    if e.etype = 0x8808 then u.pst rx.port.val 9 else u.beIngress rx e

/-- BE_FRAME_RX: on a consist port the frame comes through the guard first (R287). -/
def execBeFrameRx (rx : Rx) (e : Eth) (s : State) : Host.Outcome State Fault Refusal :=
  .next (if isBackbone s.part rx.port.val then s.backboneRx rx e else s.consistRx rx e .other)

/-! ## Lifting and setting fences (R157, R164) -/

/-- The holdoff of a port's fence runs: it is not 0, and neither software set the fence nor is it latched (R157). -/
def State.holdsOff (s : State) (p : Nat) : Bool :=
  hasGuard s.part p && s.fenced p && s.rdF (prt p PRT_GRD_HOLDOFF) 0 24 != 0 && !s.rdB (prt p PRT_GRD_STAT) 1 && !s.rdB (prt p PRT_GRD_STAT) 2

/-- FENCE_HOLDOFF_EXPIRY. -/
def execFenceHoldoffExpiry (p : Port) (s : State) : Host.Outcome State Fault Refusal :=
  .next (s.when (s.dieUp (p.val / 32) && s.holdsOff p.val) fun t =>
    (t.reachAt ((t.guard p.val).fencedAt + t.rdF (prt p.val PRT_GRD_HOLDOFF) 0 24 * ms)).lift p.val)

/-- Software lifts the fence, and FENCES and LATCHED clear. -/
def State.unfence (s : State) (p : Nat) : State := (((s.wrF (prt p PRT_GRD_STAT) 8 8 0).wrB (prt p PRT_GRD_STAT) 1 false)).lift p

/-- Software fences the port at once.
(DEDUCED, log entry 33) -/
def State.softFence (s : State) (p : Nat) : State := (s.fence p).wrB (prt p PRT_GRD_STAT) 2 true

/-- A write of PRT_GRD_CTRL: FENCE goes before UNFENCE. -/
def State.grdCtrl (s : State) (p : Nat) (v : Word) : State :=
  if !hasGuard s.part p then s
  else
    let t := s.when (bit v 2) fun u => u.setHist p []
    if bit v 1 then t.softFence p else t.when (bit v 0) fun u => u.unfence p

/-- GRD_UNFENCE. -/
def execGrdUnfence (p : Port) (s : State) : Host.Outcome State Fault Refusal :=
  .next (s.guarded (prt p.val PRT_GRD_CTRL) fun t => t.grdCtrl p.val 1)

/-- GRD_FENCE. -/
def execGrdFence (p : Port) (s : State) : Host.Outcome State Fault Refusal :=
  .next (s.guarded (prt p.val PRT_GRD_CTRL) fun t => t.grdCtrl p.val 2)

/-- GRD_CLEAR_HISTORY. -/
def execGrdClearHistory (p : Port) (s : State) : Host.Outcome State Fault Refusal :=
  .next (s.guarded (prt p.val PRT_GRD_CTRL) fun t => t.grdCtrl p.val 4)

/-! ## POLL (R159, R160) -/

/-- The next poll sequence of a table entry: it wraps past 0.
(DEDUCED, log entry 34) -/
def State.nextPseq (s : State) (d i : Nat) : Word :=
  let q := (Assoc.get s.cn.pseq (d * 65536 + i)).getD 0 + 1
  if q = 0 then 1 else q

/-- The strand that a POLL carries: the last one sent while outputs are held, else the dataset as it stands on the port's die. -/
def State.pollStrand (s : State) (d id : Nat) : Strand :=
  if s.sc.hold then (Assoc.get s.cn.images (d * 65536 + id)).getD (emptyStrand id)
  else match s.ctxOf d id with
    | some c => s.strandView d c
    | none => emptyStrand id

/-- The TCI of a POLL: the entry's, of which 0 means a priority tag with PCP 7 (R159, R166). -/
def pollTci (n : Nat) : BitVec 16 := if n % 65536 = 0 then 0xE000 else BitVec.ofNat 16 n

/-- The POLL of a stitch for a port. -/
def State.pollBody (s : State) (p sl sid : Nat) (e : Stitch) : Poll :=
  let d := p / 32
  let a := pollDev d e.ident
  let st := s.pollStrand d e.ident
  let rs := s.replyOf sl sid
  let k : Int := (e.startNs + txofs (s.selv sl) : Nat) * 400 + s.wireTime p (70 + st.data.length) + ((s.rd (prt p PRT_PTP_LDLY)).toNat : Int) * 25
  let r := s.entry sl (rs.getD 0)
  { mac := s.devMac d e.ident, tci := pollTci (ofBe (s.tbs (a + 6) 2)), pseq := s.nextPseq d e.ident
    replySid := match rs with | some i => BitVec.ofNat 16 i | none => 0xFFFF
    held := s.sc.hold, noData := st.data.isEmpty
    replyExp := match rs with | some i => s.wasActive s.row s.thisRow i (s.entry sl i) | none => false
    openNs := if rs.isSome then wordOf (-((k - (r.startNs : Int) * 400) / 400)).toNat else 0
    closeNs := if rs.isSome then BitVec.ofInt 32 (((r.startNs + r.lenNs : Nat) * 400 - k) / 400) else 0
    strand := st }

/-- The POLL leaves one port, if the link is up and the guardian permits it. -/
def State.pollPort (s : State) (sl sid : Nat) (e : Stitch) (p : Nat) : State :=
  let d := p / 32
  let b := s.pollBody p sl sid e
  if !(s.portOn p && s.link p) || !(s.tb (pollDev d e.ident + 8)).getLsbD 0 then s
  else
    let h := s.stitchHdr 0x0B s.row s.actPrf sid
    let l2 : L2 := { da := b.mac, sa := s.mac, tci := some b.tci, etype := s.slEtype }
    let a := s.sendGuarded p sid (s.selv sl) (70 + b.strand.data.length) e (s.stitchSt e) 0 false (.sl { h with l2 := l2 } none (.poll b))
    if a.2 then
      let t := ((a.1.count (prt p PRT_POLL_CNT_TX)).pst p 41).noteSeq d 1 e.ident
      { t with cn := { t.cn with pseq := Assoc.put t.cn.pseq (d * 65536 + e.ident) b.pseq
                                 polls := t.cn.polls ++ [{ row := t.row, port := p, sid := sid, pseq := b.pseq }]
                                 images := if t.sc.hold then t.cn.images else Assoc.put t.cn.images (d * 65536 + e.ident) b.strand } }
    else a.1

/-- POLL_SEND: at stitch start + TXOFS of an active, owned POLL, once in its row. -/
def execPollSend (sid : Fin 4096) (s : State) : Host.Outcome State Fault Refusal :=
  .next (match s.actSlot, s.actEntry sid.val with
    | some sl, some e =>
      s.when (s.dieUp 0 && s.run && s.serves && e.kind == kPoll && s.ownNum (s.ownerNow sid.val e) && !s.muted
          && s.mayServe sid.val e && !(s.cn.polls.any fun q => q.row == s.row && q.sid == sid.val)) fun t =>
        let u := t.reachSt (t.stitchSt e + wordOf (txofs t.actSelv))
        u.each (fun p v => v.pollPort sl sid.val e p) (u.maskPorts e)
    | _, _ => s)

/-! ## REPLY (R162) -/

/-- The PRODUCE context with source REPLY of a dataset, on a port's die or the other one. -/
def State.replyCtx (s : State) (d id : Nat) : Option (Nat × Nat) :=
  let at0 (k : Nat) : Option (Nat × Nat) := match s.ctxOf k id with
    | some c => if s.dieUp k && s.ctxValid k c && s.ctxRole k c == 1 && s.ctxSrc k c == 1 then some (k, c) else none
    | none => none
  match at0 d with
  | some x => some x
  | none => if s.linkUp then at0 (1 - d) else none

/-- An accepted REPLY's strand is committed; one whose length is not the context's is rejected (R243).
(DEDUCED, log entry 34) -/
def State.commitReply (s : State) (d id : Nat) (t : Strand) : State :=
  match s.replyCtx d id with
  | some (k, c) => if t.data.length = s.ctxLen k c then s.commitData k c t.data else s.statBy (dataCtr k c 3) 1
  | none => s

/-- A port was fenced in a window that began some ns ago. -/
def State.wasFenced (s : State) (p ago : Nat) : Bool :=
  s.fenced p || (match (s.guard p).lifted with | some t => decide (s.now ≤ t + ago) | none => false)

/-- The reason of the null strand of a window without an accepted REPLY.
(DEDUCED, log entry 34) -/
def State.replyReason (s : State) (row : Word) (sl sid : Nat) (e : Stitch) : BitVec 5 :=
  if (s.maskPorts e).all fun p => s.wasFenced p (e.lenNs + s.selv sl) then 3
  else if (match s.pollOf sl sid with | some i => !(s.cn.polls.any fun q => q.row == row && q.sid == i) | none => false) then 2
  else if s.cn.replies.any fun q => q.row == row && q.sid == sid then 4
  else 1

/-- The NULL commit of a reply stitch that produced nothing, where a context consumes it (R161).
(DEDUCED, log entry 34) -/
def State.nullReply (t : State) (row : Word) (sl sid : Nat) (e : Stitch) : Option (Nat × Nat) → State
  | some (k, c) => t.commitNull k c (t.replyReason row sl sid e)
  | none => t

/-- What a REPLY window closes with: the strand kept for it, or a miss on the lowest of its ports. -/
def State.endReply (t : State) (row : Word) (sl sid : Nat) (e : Stitch) : Option ReplyGot → List Nat → State
  | some q, _ => (match q.strand with | some x => t.commitReply (q.port / 32) e.ident x | none => t)
  | none, p :: _ => (((t.nullReply row sl sid e (t.replyCtx (p / 32) e.ident)).count (prt p PRT_POLL_CNT_MISS)).pst p 43).raise (prt p 0) 11
  | none, [] => t

/-- A REPLY window closes. -/
def State.closeReply (s : State) (row : Word) (sl sid : Nat) (e : Stitch) : State :=
  let t : State := { s with cn := { s.cn with closed := s.cn.closed ++ [(row, sid)] } }
  t.endReply row sl sid e (s.cn.replies.find? fun q => q.row == row && q.sid == sid && q.strand.isSome) (s.maskPorts e)

/-- A REPLY of a row ends: owned and active, and not closed yet. -/
def State.replyDue (s : State) (row : Word) (v : RowView) (sid : Nat) : Option (Nat × Stitch) :=
  match s.slotOf v.bank v.prf with
  | some sl =>
    let e := s.entry sl sid
    if sid < s.slotCnt sl ∧ e.kind = kReply ∧ s.ownNum (s.effOwner v.bank v.prf sid e) ∧ s.wasActive row v sid e ∧ !s.cn.closed.contains (row, sid)
      then some (sl, e) else none
  | none => none

/-- REPLY_COMMIT: at B + S of a window of this row, or of the row before where B + S lies past its end. -/
def execReplyCommit (sid : Fin 4096) (s : State) : Host.Outcome State Fault Refusal :=
  let len := (stDiff (s.rd (sch 0 SCH_ROW_ST)) s.sc.prevRowSt).toNat
  .next (if !(s.dieUp 0 && s.run && s.serves) then s
    else match s.replyDue (s.row - 1) s.lastRow sid.val with
    | some (sl, e) =>
      if len < e.startNs + e.lenNs + s.selv sl then
        (s.reachSt (s.sc.prevRowSt + wordOf (e.startNs + e.lenNs + s.selv sl))).closeReply (s.row - 1) sl sid.val e
      else (match s.replyDue s.row s.thisRow sid.val with
        | some (sl, e) => (s.reachSt (s.stitchSt e + wordOf (e.lenNs + s.selv sl))).closeReply s.row sl sid.val e
        | none => s)
    | none =>
      match s.replyDue s.row s.thisRow sid.val with
      | some (sl, e) => (s.reachSt (s.stitchSt e + wordOf (e.lenNs + s.selv sl))).closeReply s.row sl sid.val e
      | none => s)

/-! ## Links of the ports (R491) -/

/-- The rate of a speed code in units of 0.1 Gbit/s. -/
def speedRate (v : Nat) : Nat := if v ≤ 1 then 1 else if v = 2 then 10 else if v = 3 then 25 else if v = 4 then 100 else 250

/-- PORT_LINK_UP: the link is shown and its time counts; verify starts (R283), and an end side detects a coupling (R195). -/
def execPortLinkUp (p : Port) (speed : Fin 6) (s : State) : Host.Outcome State Fault Refusal :=
  .next (s.when (s.portOn p.val && !s.link p.val) fun t =>
    let u := (((t.wr (prt p.val PRT_LINK_STAT) (wordOf (1 + speed.val * 2))).raise (prt p.val 0) 0).meterOn (portCtr p.val 46)).startVerify p.val
    let v := u.wr (weightReg p.val) (wordOf (rateWeight (speedRate speed.val)))
    if isBackbone v.part p.val then v.coupleDetect (portSide p.val) else v)

/-- A link is lost: preemption is no longer active, and a backbone port loses its neighbour and declares a line failure (R193, R303). -/
def State.linkDown (s : State) (p : Nat) : State :=
  let t := ((((((s.loseFlight p).wrB (prt p PRT_LINK_STAT) 0 false).raise (prt p 0) 1).pst p 44).meterOff (portCtr p 46)).wrF (prt p PRT_PRE_STAT) 0 3 0).disarm (verifyTmr p)
  if isBackbone t.part p then
    let u := (t.mark (loneMark (portSide p))).loseNbr p
    if (Assoc.get u.rg.failed p).isNone then u.declareFailure p else u
  else t

/-- PORT_LINK_DOWN. -/
def execPortLinkDown (p : Port) (s : State) : Host.Outcome State Fault Refusal :=
  .next (s.when (s.dieUp (p.val / 32) && s.link p.val) fun t => t.linkDown p.val)

end Sys2Proof.Machine
end

