-- ==== Sys2Proof/Machine/Stats.lean ====
section
/-! DEFINITION. Statistics periods and snapshots (R438 to R441, R456, R457). -/

namespace Sys2Proof.Machine

/-- The counts since a die's last boundary (R438): row boundaries, and each ms since the last of them while rows do not run. With EN at
0 nothing counts (R440). -/
def State.staCount (s : State) (d : Nat) : Nat :=
  s.rdF (sta d STA_STAT) 0 17 + (if s.run || !s.rdB (sta d STA_CFG) 0 then 0 else
    match Assoc.get s.since (sta d STA_STAT) with
    | some t => (s.now - t) / 1000000
    | none => 0)

/-- A die's counts start again from `n`. -/
def State.staRestart (s : State) (d n : Nat) : State :=
  let t := s.wrF (sta d STA_STAT) 0 17 n
  { t with since := Assoc.put t.since (sta d STA_STAT) t.now }

/-- The period that STA_PERIOD gives, in counts.
(DEDUCED, log entry 60) -/
def State.staPeriod (s : State) (d : Nat) : Nat :=
  let v := s.rdF (sta d STA_PERIOD) 0 16
  if v = 0 then 65536 else v

/-- The period in force. -/
def State.periodNow (s : State) (d : Nat) : Nat := if d = 0 then s.stats.period0 else s.stats.period1

/-- A SNAP waits for the next row boundary, or for the next tick while rows do not run: its bit reads 1 until it is taken (R9). -/
def State.snapDue (s : State) (d : Nat) : Bool := s.rdB (sta d STA_CTRL) 0

/-- A new period begins on a die: the period in force is taken, and a SNAP that waited is served. -/
def State.newPeriod (s : State) (d : Nat) : State :=
  let n := s.staPeriod d
  let t := s.staRestart d 0
  let u := t.wrB (sta d STA_CTRL) 0 false
  { u with stats := if d = 0 then { u.stats with period0 := n } else { u.stats with period1 := n } }

/-- The live counters of a die that measure time are brought up to date. -/
def State.meterAll (s : State) (d : Nat) : State :=
  s.each (fun e t => t.meter e.1) (s.since.filter fun e => decide (0x10000000 ≤ e.1) && dieOf e.1 == d)

/-- A live counter is copied to the snapshot bank as a low and a high word (R441, R457).
(DEDUCED, log entry 60) -/
def State.snapOne (s : State) (a v : Nat) : State := (s.setTw a (wordOf v)).setTw (a + 4) (wordOf (v / 2 ^ 32 % 2 ^ 16))

/-- The snapshot bank of a die is emptied. -/
def State.clearBank (s : State) (d : Nat) : State :=
  { s with tbl := Sparse.drop (fun k => decide (win d 0x0B10000 ≤ k ∧ k < win d 0x0B50000)) s.tbl }

/-- The live counters of a die. -/
def State.liveIn (s : State) (d : Nat) : List (Nat × Nat) := s.live.filter fun e => dieOf e.1 == d

/-- Every live counter of a die is 0. -/
def State.clearLive (s : State) (d : Nat) : State := { s with live := s.live.filter fun e => dieOf e.1 != d }

/-- Die 1 takes die 0's count and sequence after the Komidon link has recovered (R440). -/
def State.alignStats (s : State) : State :=
  if s.stats.align then
    let t := (s.staRestart 1 (s.staCount 0)).wr (sta 1 PG_SEQ) (s.rd (sta 0 PG_SEQ))
    { t with stats := { t.stats with align := false } }
  else s

/-- The boundary of a die: the snapshot, its row, ST and length, the sequence, and live counters at 0 (R439).
(DESIGN CHOICE, log entry 20; DEDUCED, log entry 60) -/
def State.staBoundary (s : State) (d : Nat) : State :=
  let s1 := s.meterAll d
  let s3 := (s1.clearBank d).each (fun e t => t.snapOne e.1 e.2) (s1.liveIn d)
  let n := s3.staCount d
  let s4 := ((s3.wr (sta d STA_SNAP_ROW) (if s3.run then s3.rd (sch d SCH_ROW) else 0)).wr (sta d STA_SNAP_ST) (s3.st d)).wrF (sta d STA_SNAP_LEN) 0 17 n
  let s5 := (((s4.wr (sta d PG_SEQ) (s4.rd (sta d PG_SEQ) + 1)).clearLive d).raise (sta d 0) 0).newPeriod d
  (s5.wr (cpm d CPM_PWR_EST) (wordOf (fld s5.fresh 0 16))).useFree

/-- While rows run, the row boundary completes the count of a die, or a SNAP waits for it (R438). -/
def State.staDue (s : State) (d : Nat) : Bool := s.snapDue d || decide (s.periodNow d ≤ s.staCount d)

/-- The instant without rows at which the count of a die is complete: with a SNAP the next tick, else each ms completes one (R438). -/
def State.staInstant (s : State) (d : Nat) : Nat :=
  if s.snapDue d then s.now + 2
  else (match Assoc.get s.since (sta d STA_STAT) with
    | some t => t + (s.periodNow d - s.rdF (sta d STA_STAT) 0 17) * 1000000
    | none => s.now)

/-- STATS_BOUNDARY: the count of a die is complete, while rows run at step 5 of a row boundary, else at the tick that completes it. -/
def execStatsBoundary (d : Sys2Proof.Die) (s : State) : Host.Outcome State Fault Refusal :=
  let k := dieNum d
  .next (s.when (s.dieUp k && s.rdB (sta k STA_CFG) 0) fun t =>
    if t.run then t.when (t.staDue k) fun u => u.staBoundary k
    else ((t.reachAt (t.staInstant k)).staBoundary k).alignStats)

/-- A write of STA_CTRL with SNAP. -/
def State.staSnap (s : State) (d : Nat) : State := s.wrB (sta d STA_CTRL) 0 true

/-- STATS_SNAP_REQUEST. -/
def execStatsSnapRequest (d : Sys2Proof.Die) (s : State) : Host.Outcome State Fault Refusal :=
  .next (s.guarded (sta (dieNum d) STA_CTRL) fun t => t.staSnap (dieNum d))

/-- A counter that measures time starts again from this instant.
(DEDUCED, log entry 60) -/
def State.sinceNow (s : State) (d : Nat) : State :=
  { s with since := s.since.map fun e => if decide (0x10000000 ≤ e.1) && dieOf e.1 == d then (e.1, s.now) else e }

/-- A write of STA_CFG.EN: 0 stops counting, a 1 after a 0 starts a new period with the live counters at 0 (R440). -/
def State.staEnable (s : State) (d : Nat) (v : Bool) : State :=
  let old := s.rdB (sta d STA_CFG) 0
  let t := if old && !v then (s.meterAll d).staRestart d (s.staCount d) else s
  let u := t.wrB (sta d STA_CFG) 0 v
  if v && !old then ((u.clearLive d).sinceNow d).newPeriod d else u

/-- STATS_ENABLE_WRITE. -/
def execStatsEnableWrite (d : Sys2Proof.Die) (v : Bool) (s : State) : Host.Outcome State Fault Refusal :=
  .next (s.guarded (sta (dieNum d) STA_CFG) fun t => t.staEnable (dieNum d) v)

/-- A row boundary counts on every die that counts (R438). Whole ms that passed before the row are counted with it. -/
def State.staRow (s : State) (len : Nat) : State :=
  s.each (fun d t => t.when (t.rdB (sta d STA_CFG) 0) fun u =>
    let ms := match Assoc.get u.since (sta d STA_STAT) with
      | some x => (u.now - x - len) / 1000000
      | none => 0
    u.staRestart d (u.rdF (sta d STA_STAT) 0 17 + 1 + ms)) s.dies

end Sys2Proof.Machine
end

