-- ==== Sys2Proof/Machine/Region.lean ====
section
/-! DEFINITION. Region power states: the next known event and the choice of a state, and the meanings of the region commands (R25,
R47 to R55, R63, R446). -/

namespace Sys2Proof.Machine

/-- Wake time and shortest interval of a state in ns (R47). -/
def rgnWake (v : Nat) : Nat := if v = 1 then 40 else if v = 2 then 6000 else 20000
def rgnMin (v : Nat) : Nat := if v = 1 then 0 else 25000

/-- REG_MARGIN of a region's die in ns. -/
def State.regMargin (s : State) (g : Nat) : Nat := s.rdF (cpm (g / 2) CPM_REG_MARGIN) 0 16 * 8

/-- The ports that an entry masks on this node, in a region: those of its effective owner, or of every node when it has none (R100). -/
def State.rgnMasked (s : State) (g i : Nat) (e : Stitch) : Bool :=
  (s.ownerNow i e == 0 || s.ownNum (s.ownerNow i e)) && e.bank == g && (List.range 16).any fun k => e.masks (16 * g + k)

/-- How many ns before a stitch its region must be awake: the selvedge, and RGN_LEAD where a port of the region transmits (R49). -/
def State.rgnLead (s : State) (g : Nat) (e : Stitch) : Nat :=
  s.actSelv + (if e.kind = kReply then 0 else s.rdF (rgn g RGN_LEAD) 0 16 * 8)

/-- The rows from the next one on until an entry is active again. -/
def Stitch.rowsAhead (e : Stitch) (row : Word) : Nat := ((e.phase + 2 ^ e.rate - (row.toNat + 1) % 2 ^ e.rate) % 2 ^ e.rate) + 1

/-- The stretches of one entry in which a region stays ACTIVE, from the row start in ns: in the current row where it is active there,
and in the next row in which it will be. -/
def State.entrySpans (s : State) (g i : Nat) (e : Stitch) : List Span :=
  let lo : Int := (e.startNs : Int) - s.rgnLead g e
  let hi : Int := (e.startNs + e.lenNs + s.actSelv : Nat)
  let k : Int := (e.rowsAhead s.row * s.rowLen : Nat)
  (if s.wasActive s.row s.thisRow i e then [(lo, hi)] else []) ++ [(lo + k, hi + k)]

/-- The stretches of a region: its stitches and BE windows. -/
def State.rgnSpans (s : State) (g : Nat) : List Span :=
  match s.actSlot with
  | none => []
  | some sl => (List.range (s.slotCnt sl)).flatMap fun i =>
      let e := s.entry sl i
      if (e.kind == kPoll || e.kind == kReply || e.kind == kBe) && s.rgnMasked g i e then s.entrySpans g i e else []

/-- The least of some numbers. -/
def leastInt : List Int → Option Int
  | [] => none
  | x :: xs => match leastInt xs with
    | none => some x
    | some y => some (min x y)

/-- The ns to a die's next statistics boundary, none while it does not count (R440). -/
def State.staAhead (s : State) (d : Nat) : Option Int :=
  if !s.rdB (sta d STA_CFG) 0 then none
  else
    let left := if s.snapDue d then 1 else s.periodNow d - s.staCount d
    if s.run then some ((left * s.rowLen : Nat) - stDiff (s.st 0) (s.rd (sch 0 SCH_ROW_ST)))
    else
      let at0 := ((Assoc.get s.since (sta d STA_STAT)).getD s.now)
      if s.snapDue d then some 0 else some ((at0 + (s.periodNow d - s.rdF (sta d STA_STAT) 0 17) * 1000000 : Nat) - (s.now : Int))

/-- The row boundaries, in rows from now, at which an announced blocking or swap takes effect (R49). -/
def State.changesAhead (s : State) : List Int :=
  let swap := if s.rdB (sch 0 SCH_STAT) 7 then [if s.rdB (sch 0 SCH_STAT) 11 then 1 else max 1 (stDiff s.sc.swapRow s.row)] else []
  let blk := if s.blockPend then [max 1 (stDiff (s.rd (ina INA_BLK_ROW)) s.row)] else []
  swap ++ blk

/-- The ns from now to the ends of the timers that a region's ports have armed: holdoffs, PFC pauses and verifies (R49). -/
def State.timersAhead (s : State) (g : Nat) : List Int :=
  let fences := ((List.range 16).map (16 * g + ·)).filter s.holdsOff
  (fences.map fun p => ((s.guard p).fencedAt + s.rdF (prt p PRT_GRD_HOLDOFF) 0 24 * 1000000 : Nat) - (s.now : Int))
    ++ (s.el.timers.filter fun e => pageRegion (e.1 / 64) == some g && decide (s.now < e.2)).map fun e => (e.2 : Int) - s.now

/-- The ns from now to a region's next known event: 0 or less within a stitch's stretch, none where none is known.
(DESIGN CHOICE, log entry 19) -/
def State.rgnNext (s : State) (g : Nat) : Option Int :=
  let x : Int := stDiff (s.st 0) (s.rd (sch 0 SCH_ROW_ST))
  let spans := if s.run then (s.rgnSpans g).filter fun w => decide (x < w.2) else []
  let rows := if s.run then s.changesAhead.map fun n => n * s.rowLen - x else []
  leastInt ((spans.map fun w => w.1 - x) ++ rows ++ (s.staAhead (g / 2)).toList ++ s.timersAhead g)

/-- RGN_NEXT_EVT shows the next known event; where none is known, the farthest instant of the half range (DESIGN CHOICE).
(DESIGN CHOICE, log entry 19) -/
def State.evalNextEvt (s : State) (g : Nat) : State :=
  match s.rgnNext g with
  | some n => s.wr (rgn g RGN_NEXT_EVT) (s.st (g / 2) + BitVec.ofInt 32 n)
  | none => s.wr (rgn g RGN_NEXT_EVT) (s.st (g / 2) + 0x7FFFFFFF)

/-- A region has nothing to do: no frame is queued or being sent on its ports. -/
def State.rgnIdle (s : State) (g : Nat) : Bool :=
  s.fw.queue.all (fun e => portRegion e.port != g)
    && s.fw.sending.all fun x => portRegion x.ent.port != g || (x.left.isNone && decide (x.ends ≤ s.now))

/-- Every edge port of a region is link down or cleared for LANE-IDLE (R51). -/
def State.lanesFree (s : State) (g : Nat) : Bool :=
  (List.range 16).all fun i => !isEdge s.part (16 * g + i) || !s.link (16 * g + i) || s.rdB (rgn g RGN_LANE_OK) i

/-- The instant at which no frame will have crossed an edge lane of a region for RGN_IDLE_HOLD (R51). -/
def State.rgnHoldEnd (s : State) (g : Nat) : Nat :=
  match Assoc.get s.rgnEdge g with
  | some t => t + s.rdF (rgn g RGN_IDLE_HOLD) 0 16 * 1000
  | none => 0

/-- No frame has crossed an edge lane of a region for RGN_IDLE_HOLD (R51). -/
def State.rgnHeld (s : State) (g : Nat) : Bool := decide (s.rgnHoldEnd g ≤ s.now)

/-- A state may be entered with the next known event so many ns away, by the half-range comparison of two STs (R50).
(DESIGN CHOICE, log entry 19) -/
def State.rgnMay (s : State) (g v : Nat) (next : Option Int) : Bool :=
  decide (v ≤ s.effFloor g) && (match next with
    | some n =>
      let delta := (BitVec.ofInt 32 n).toInt
      decide ((rgnWake v + s.regMargin g : Nat) ≤ delta ∧ (rgnMin v : Int) ≤ delta)
    | none => true)

/-- The deepest state that a region may enter, 0 for none (R50).
(DESIGN CHOICE, log entry 19) -/
def State.rgnChoice (s : State) (g : Nat) : Nat :=
  let n := s.rgnNext g
  if s.lanesFree g && s.rgnHeld g && s.rgnMay g 3 n then 3 else if s.rgnMay g 2 n then 2 else if s.rgnMay g 1 n then 1 else 0

/-- A region enters a state. -/
def State.rgnEnter (s : State) (g v : Nat) : State :=
  let t := s.rgnCount g (s.rgnState g) v
  (((t.wrF (rgn g RGN_PSTATE) 0 2 v).wrB (rgn g RGN_PSTATE) 2 false).evalNextEvt g).evalShared (g / 2)

/-- REGION_SLEEP_ENTER. -/
def execRegionSleepEnter (g : Fin 4) (s : State) : Host.Outcome State Fault Refusal :=
  .next (s.when (s.rgnOn g.val && s.rgnState g.val == 0 && s.rgnIdle g.val && s.rgnChoice g.val != 0) fun t => t.rgnEnter g.val (t.rgnChoice g.val))

/-- REGION_IDLE_HOLD_EXPIRY: the hold has passed. -/
def execRegionIdleHoldExpiry (g : Fin 4) (s : State) : Host.Outcome State Fault Refusal :=
  .next (s.when (s.rgnOn g.val && s.rgnState g.val == 2 && !s.rgnWaking g.val && s.lanesFree g.val && s.rgnMay g.val 3 (s.rgnNext g.val)) fun t =>
    (t.reachAt (t.rgnHoldEnd g.val)).rgnEnter g.val 3)

/-- REGION_WAKE_START: the wake for the next known event begins in time. -/
def execRegionWakeStart (g : Fin 4) (s : State) : Host.Outcome State Fault Refusal :=
  .next (s.when (s.rgnOn g.val && s.rgnState g.val != 0 && !s.rgnWaking g.val) fun t =>
    let v := t.rgnState g.val
    (t.reachSt (t.rd (rgn g.val RGN_NEXT_EVT) - wordOf (rgnWake v + t.regMargin g.val))).rgnWakeUp g.val false)

/-- REGION_UNKNOWN_WAKE. -/
def execRegionUnknownWake (g : Fin 4) (s : State) : Host.Outcome State Fault Refusal :=
  .next (s.when (s.rgnOn g.val && decide (2 ≤ s.rgnState g.val) && !s.rgnWaking g.val) fun t => t.rgnWakeUp g.val true)

/-- REGION_WAKE_DONE. -/
def execRegionWakeDone (g : Fin 4) (s : State) : Host.Outcome State Fault Refusal :=
  .next (s.when (s.rgnOn g.val && s.rgnWaking g.val) fun t => t.rgnAwake g.val)

end Sys2Proof.Machine
end

