-- ==== Sys2Proof/Machine/Events.lean ====
section
/-! DEFINITION. The event controller: the meanings of the commands of Event Controller (R370 to R394), MSI-X (R401) and the
PCIe link states as far as they touch it (R390). -/

namespace Sys2Proof.Machine

/-! ## Sources (R370, R373) -/

/-- A bit of a source in a bitmap of its die: `f` is EVC_PEND, EVC_ENA or EVC_ACT. -/
def State.srcB (s : State) (f : Nat → Nat) (src : Nat) : Bool := s.rdB (evcm (src / 1024) (f (src % 1024 / 32))) (src % 32)

/-- A bit of a source set in a bitmap. -/
@[noinline] def State.setSrcB (s : State) (f : Nat → Nat) (src : Nat) (b : Bool) : State :=
  s.wrB (evcm (src / 1024) (f (src % 1024 / 32))) (src % 32) b

/-- A source that can be pending on this part (R3, R370). -/
def State.sourceOk (s : State) (src : Nat) : Bool := isSource (src / 1024) (src % 1024) && (src < 1024 || s.part.twoDies)

/-- The condition of a source now (R370): EVC_RAW. -/
def State.srcRaw (s : State) (src : Nat) : Bool :=
  let n := src % 1024
  match sourceBase src with
  | some b => s.rd (b + PG_EVT) &&& s.rd (b + PG_EVEN) != 0
  | none =>
    if n = 0x341 then s.dk.ntf.any (·.1 == src / 1024)
    else if src = 0x340 then !s.fb.queue.isEmpty
    else if 0x300 ≤ src ∧ src < 0x320 then s.rd (txr (HDM_TX_HEAD (src - 0x300))) != s.rd (txr (HDM_TX_CLEAN (src - 0x300)))
    else if 0x320 ≤ src ∧ src < 0x340 then s.rd (rxr (HDM_RX_HEAD (src - 0x320))) != s.rd (rxr (HDM_RX_CONS (src - 0x320)))
    else false

/-- EVC_RAWw of a die. -/
def State.rawWord (s : State) (d w : Nat) : Word :=
  wordOf ((List.range 32).foldl (fun n i => n + b2n (s.srcRaw (d * 1024 + w * 32 + i)) * 2 ^ i) 0)

/-- PEND of a source is set; the ST at which it became pending is kept (R386). -/
def State.setPend (s : State) (src : Nat) : State :=
  if s.srcB EVC_PEND src then s
  else
    let t := s.setSrcB EVC_PEND src true
    { t with ev := { t.ev with pendSt := Assoc.put t.ev.pendSt src (t.st (src / 1024)) } }

/-- PEND of a source clears. -/
def State.clearPend (s : State) (src : Nat) : State := s.setSrcB EVC_PEND src false

/-! ## Targets (R377 to R379) -/

/-- The record parts (R378). -/
def State.recordPart (s : State) : Bool := !s.part.twoDies

/-- A target is enabled. -/
def State.tgtEn (s : State) (t : Nat) : Bool := s.rdB (evcc 0 EVC_TGT_EN) t

/-- A source can be presented now (R373, R385). -/
def State.presentable (s : State) (src : Nat) : Bool :=
  s.rdB (evcc 0 EVC_CTRL) 0 && s.sourceOk src && s.srcB EVC_PEND src && s.srcB EVC_ENA src && !s.srcB EVC_ACT src
    && (src < 1024 || s.die1On) && (List.range 9).any fun t => s.rdB (routeAddr src) t && s.tgtEn t

/-- The sources of a bitmap word that are pending, enabled and not active. -/
def State.pendIn (s : State) (d w : Nat) : List Nat :=
  let v := s.rd (evcm d (EVC_PEND w)) &&& s.rd (evcm d (EVC_ENA w)) &&& ~~~s.rd (evcm d (EVC_ACT w))
  if v = 0 then [] else (List.range 32).filterMap fun i => if bit v i then some (d * 1024 + w * 32 + i) else none

/-- The sources that can be presented now, by their IDs. -/
def State.presentables (s : State) : List Nat :=
  (([0, 1] : List Nat).flatMap fun d => (List.range 32).flatMap fun w => s.pendIn d w).filter s.presentable

/-- The target that R377 picks for a source: the first after RR that its TMASK and EVC_TGT_EN hold. -/
def State.pickTarget (s : State) (src : Nat) : Option Nat :=
  ((List.range 9).map fun k => (s.rdF (routeAddr src) 16 4 + 1 + k) % 9).find? fun t => s.rdB (routeAddr src) t && s.tgtEn t

/-- The priority that the route of a source holds. -/
def State.srcPrio (s : State) (src : Nat) : Nat := s.rdF (routeAddr src) 12 3

/-- An assignment stands: the source is still pending and enabled, its target enabled, and a source of die 1 in reach. -/
def State.asgKeep (s : State) (a : Asg) : Bool :=
  s.srcB EVC_PEND a.src && s.srcB EVC_ENA a.src && s.tgtEn a.tgt && (a.src < 1024 || s.die1On)

/-- A source is assigned, and RR takes its target.
(DEDUCED, log entry 57) -/
def State.assignOne (s : State) (src : Nat) : State :=
  match s.pickTarget src with
  | some t => ({ s with ev := { s.ev with asg := s.ev.asg ++ [{ src := src, tgt := t, prio := s.srcPrio src }] } } : State).wrF (routeAddr src) 16 4 t
  | none => s

/-- Assignments end and begin (R377); the sources newly assigned. -/
def State.assign (s : State) : State × List Nat :=
  let s1 : State := { s with ev := { s.ev with asg := s.ev.asg.filter s.asgKeep } }
  let new := s1.presentables.filter fun src => !s1.ev.asg.any (·.src == src)
  (s1.each (fun src t => t.assignOne src) new, new)

/-- The assignments to a target. -/
def State.assigned (s : State) (t : Nat) : List Asg := s.ev.asg.filter (·.tgt == t)

/-- The assigned source with the highest priority, and among equals the lowest ID (R381). -/
def winnerOf (l : List Asg) : Option Asg :=
  l.foldl (fun b x => match b with
    | none => some x
    | some y => if y.prio < x.prio ∨ (x.prio = y.prio ∧ x.src < y.src) then some x else some y) none

/-- The assignment of a source ends. -/
def State.unassign (s : State) (src : Nat) : State := { s with ev := { s.ev with asg := s.ev.asg.filter (·.src != src) } }

/-! ## The PCIe link as the messages see it (R390, R421) -/

/-- The link state of HDM_STAT: 0 L0, 1 L1, 2 L1.1, 3 L1.2, 4 L2. -/
def State.pcieState (s : State) : Nat := s.rdF (hdm HDM_STAT) 8 3

/-- The link is up. -/
def State.pcieUp (s : State) : Bool := s.rdB (hdm HDM_STAT) 1

/-- The link carries a message at once: it is up, and not in L1.2 or L2. -/
def State.pcieCarries (s : State) : Bool := s.pcieUp && decide (s.pcieState < 3)

/-- The link sleeps in L1.2 or L2. -/
def State.pcieSleeps (s : State) : Bool := s.pcieUp && decide (3 ≤ s.pcieState)

/-- A bit of a target mask. -/
def tbit (t : Nat) : BitVec 8 := BitVec.ofNat 8 (2 ^ t)

/-- HDM sends the message of a target, or holds it while its vector is masked or MSI-X is disabled (R401). -/
def State.hdmMessage (s : State) (t : Nat) : State :=
  if s.ev.msixEn && !s.rdB (msix (MSIX_CTRL t)) 0 then
    ({ s with ev := { s.ev with held := s.ev.held &&& ~~~tbit t } } : State).emit
      (.msix t (s.rd64 (msix (MSIX_ADDR_LO t)) (msix (MSIX_ADDR_HI t))) (s.rd (msix (MSIX_DATA t))))
  else { s with ev := { s.ev with held := s.ev.held ||| tbit t } }

/-- The timer of a ring's moderation: the instant of its last message (R388). -/
abbrev modTmr (t : Nat) : Nat := tmr (evcc 0 (EVC_RQ_MOD t)) 0

/-- The message of a target leaves the event controller: in the record parts its records are signalled and the moderation timer
restarts (R388). -/
def State.sendMessage (s : State) (t : Nat) : State :=
  let s1 := ({ s with ev := { s.ev with due := s.ev.due &&& ~~~tbit t, modExpired := s.ev.modExpired &&& ~~~tbit t } } : State).mark (modTmr t)
  (s1.when s1.recordPart fun u => u.wrF (evcc 0 (EVC_RQ_CNT t)) 0 13 0).hdmMessage t

/-- The message of a target falls due: it is sent, or waits for the link. -/
def State.messageDue (s : State) (t : Nat) : State :=
  if s.pcieCarries then s.sendMessage t else { s with ev := { s.ev with due := s.ev.due ||| tbit t } }

/-- The message of a target is sent where the SIG rule of R379 has it.
(DEDUCED, log entry 57) -/
def State.signal (s : State) (t : Nat) : State :=
  if !(s.assigned t).isEmpty && !s.rdB (evcc 0 EVC_STAT) (16 + t) then (s.wrB (evcc 0 EVC_STAT) (16 + t) true).messageDue t else s

/-! ## Event record rings (R386 to R389) -/

/-- The number of records of a ring. -/
def State.rqSize (s : State) (t : Nat) : Nat := 2 ^ clampTo 4 12 (s.rdF (evcc 0 (EVC_RQ_CFG t)) 0 4)

/-- A ring is enabled. -/
def State.rqEn (s : State) (t : Nat) : Bool := s.rdB (evcc 0 (EVC_RQ_CFG t)) 31

/-- A ring is full: PROD + 1 = CONS modulo SIZE. -/
def State.rqFull (s : State) (t : Nat) : Bool :=
  (s.rdF (evcc 0 (EVC_RQ_PROD t)) 0 12 + 1) % s.rqSize t == s.rdF (evcc 0 (EVC_RQ_CONS t)) 0 12 % s.rqSize t

/-- Words 2 and 3 of a record: the page's flags and sequence; a level source's word 2 is not stated, so it is a free value; zero
for software sources.
(DEDUCED, log entry 57) -/
def State.recordInfo (s : State) (src : Nat) : State × Word × Word :=
  match sourceBase src with
  | some b => (s, s.rd (b + PG_EVT) &&& s.rd (b + PG_EVEN), s.rd (b + PG_SEQ))
  | none => if isLevelSource (src / 1024) (src % 1024) then (s.useFree, s.fresh, 0) else (s, 0, 0)

/-- PROD advances by one, and PHASE inverts at the wrap. -/
def State.advProd (s : State) (t : Nat) : State :=
  let p := s.rdF (evcc 0 (EVC_RQ_PROD t)) 0 12 + 1
  if p < s.rqSize t then s.wrF (evcc 0 (EVC_RQ_PROD t)) 0 12 p
  else (s.wrF (evcc 0 (EVC_RQ_PROD t)) 0 12 0).wrB (evcc 0 (EVC_RQ_PROD t)) 16 (!s.rdB (evcc 0 (EVC_RQ_PROD t)) 16)

/-- The record of a source is written to its ring (R386). -/
@[noinline] def State.writeRecord (s : State) (t src prio : Nat) : State :=
  let (s1, i2, i3) := s.recordInfo src
  let w0 := wordOf (src % 1024 + prio * 2 ^ 12 + b2n (s1.rdB (evcc 0 (EVC_RQ_PROD t)) 16) * 2 ^ 15)
  let base := s1.rd64 (evcc 0 (EVC_RQ_BASE_LO t)) (evcc 0 (EVC_RQ_BASE_HI t)) / 16 * 16
  let s2 := s1.emit (.hostWrite (base + 16 * s1.rdF (evcc 0 (EVC_RQ_PROD t)) 0 12) [w0, (Assoc.get s1.ev.pendSt src).getD 0, i2, i3])
  (((s2.clearPend src).unassign src).advProd t).wrF (evcc 0 (EVC_RQ_CNT t)) 0 13 (min 0x1FFF (s2.rdF (evcc 0 (EVC_RQ_CNT t)) 0 13 + 1))

/-- The message of a ring is sent once the moderation of R388 lets it. -/
def State.moderate (s : State) (t : Nat) : State :=
  let n := s.rdF (evcc 0 (EVC_RQ_CNT t)) 0 13
  if n ≠ 0 ∧ (atLeast1 (s.rdF (evcc 0 (EVC_RQ_MOD t)) 16 8) ≤ n ∨ s.rdF (evcc 0 (EVC_RQ_MOD t)) 0 10 = 0 ∨ s.ev.modExpired.getLsbD t) then
    s.messageDue t
  else s

/-- Records of the assigned sources are written while the ring has room and the link is not down or in L2.
(DEDUCED, log entry 57) -/
def State.writeRecords (s : State) (t : Nat) : Nat → State
  | 0 => s
  | n + 1 =>
    match winnerOf (s.assigned t) with
    | some a =>
      if s.rqEn t && !s.rqFull t && s.pcieUp && s.pcieState != 4 then ((s.writeRecord t a.src a.prio).moderate t).writeRecords t n else s
    | none => s

/-- A source newly assigned to a full ring: FULL is counted and RQ_FULL set.
(DEDUCED, log entry 57) -/
def State.noteFull (s : State) (src : Nat) : State :=
  match s.ev.asg.find? (·.src == src) with
  | some a => if a.tgt < 8 ∧ s.rqEn a.tgt ∧ s.rqFull a.tgt then (s.countF (evcc 0 (EVC_RQ_CNT a.tgt)) 16 16).raise (evcc 0 0) 1 else s
  | none => s

/-! ## WAKE_N and MS_IRQ_N (R380, R390) -/

/-- A message of a target is due in the sleeping link: one that waits, or in L2 a source whose record cannot be written. -/
def State.dueAsleep (s : State) (t : Nat) : Bool :=
  s.ev.due.getLsbD t || (s.recordPart && s.pcieState == 4 && s.rqEn t && !(s.assigned t).isEmpty)

/-- WAKE_N is driven low in L1.2 and L2.
(DEDUCED, log entry 57) -/
def State.evalWake (s : State) : State :=
  if s.straps.getLsbD 3 && s.pcieSleeps
      && (!(s.assigned 8).isEmpty || (List.range 8).any fun t => s.dueAsleep t && s.rdB (evcc 0 EVC_TGT_WAKE) t) then
    { s with ev := { s.ev with wakeN := true } }
  else s

/-- MS_IRQ_N is low (R380): by the targets of EVC_CTRL.MSPI_TMASK, or by the keeper while die 0 is not up. -/
def State.irqLow (s : State) : Bool :=
  if s.dieUp 0 then
    (List.range 9).any fun t => s.rdB (evcc 0 EVC_CTRL) (8 + t)
      && (!(s.assigned t).isEmpty || (s.recordPart && t < 8 && s.rdF (evcc 0 (EVC_RQ_PROD t)) 0 12 != s.rdF (evcc 0 (EVC_RQ_CONS t)) 0 12))
  else (List.range 6).any fun k => s.srcRaw (0x380 + k)

/-- EVC_STAT.ASG follows the assignments. -/
def State.evalAsg (s : State) : State :=
  s.wrF (evcc 0 EVC_STAT) 0 9 ((List.range 9).foldl (fun n t => n + b2n (!(s.assigned t).isEmpty) * 2 ^ t) 0)

/-- What follows a change of a source or a target: assignments, records and messages, and WAKE_N. -/
@[noinline] def State.evalEvc (s : State) : State :=
  let (s1, new) := s.assign
  let s2 := if s1.recordPart
    then (s1.each (fun t u => u.writeRecords t u.ev.asg.length) [0, 1, 2, 3, 4, 5, 6, 7]).each (fun src u => u.noteFull src) new
    else s1.each (fun t u => u.signal t) [0, 1, 2, 3, 4, 5, 6, 7]
  (s2.evalAsg).evalWake

/-! ## Edges and EVC_SRC_CMD (R371 to R376) -/

/-- Waiting edges of some sources are taken: the first of each. -/
def dropEdge (src : Nat) : List (Nat × Word) → List (Nat × Word)
  | [] => []
  | e :: es => if e.1 = src then es else e :: dropEdge src es

/-- An edge of a source sets PEND whatever ENA is, and is forwarded (R373, R419). -/
def State.takeEdge (s : State) (src : Nat) : State :=
  match Assoc.get s.ev.edges src with
  | none => s
  | some at0 =>
    let pend := s.srcB EVC_PEND src
    let s1 : State := { s with ev := { s.ev with edges := dropEdge src s.ev.edges } }
    let s2 := s1.setPend src
    let s3 : State := if pend then s2 else { s2 with ev := { s2.ev with pendSt := Assoc.put s2.ev.pendSt src at0 } }
    let info : List Word := match sourceBase src with
      | some b => [s3.rd (b + PG_EVT) &&& s3.rd (b + PG_EVEN), s3.rd (b + PG_SEQ), 0, 0]
      | none => [0, 0, 0, 0]
    s3.when (src < 1024 || s3.die1On) fun t => t.fwdEvent src false at0 info

/-- EVENT_SOURCE_EDGE. -/
def execEventSourceEdge (src : BitVec 11) (s : State) : Host.Outcome State Fault Refusal :=
  .next (s.when (s.dieUp (src.toNat / 1024) && s.sourceOk src.toNat) fun t => (t.takeEdge src.toNat).evalEvc)

/-- A source is completed (R382): ACT clears, and PEND is set again where the condition is present. -/
def State.complete (s : State) (src : Nat) : State :=
  let s1 := s.setSrcB EVC_ACT src false
  let s2 : State := { s1 with ev := { s1.ev with claimed := Assoc.del s1.ev.claimed src } }
  s2.when (s2.srcRaw src) fun t => t.setPend src

/-- A source is active, and no completion of it waits for the link. -/
def State.active (s : State) (src : Nat) : Bool := s.srcB EVC_ACT src && !s.ev.doneQ.contains src

/-- A completion of a source of die 1 waits on die 0 while the Komidon link is down (R385). -/
def State.completeOn (s : State) (src : Nat) : State :=
  if src < 1024 ∨ s.die1On then s.complete src else { s with ev := { s.ev with doneQ := s.ev.doneQ ++ [src] } }

/-- The completions that waited for the link are applied (R385). -/
def State.applyDone (s : State) : State :=
  ({ s with ev := { s.ev with doneQ := [] } } : State).each (fun src t => t.complete src) s.ev.doneQ

/-- A write of EVC_SRC_CMD on a source: reserved sources, and those of a die 1 that cannot be reached, are ignored. -/
def State.srcCmd (s : State) (src : Nat) (f : State → State) : State :=
  s.guarded (evcc 0 EVC_SRC_CMD) fun t => if t.sourceOk src && (src < 1024 || t.die1On) then (f t).evalEvc else t

/-- EVC_SET_PEND. -/
def execEvcSetPend (src : BitVec 11) (s : State) : Host.Outcome State Fault Refusal :=
  .next (s.srcCmd src.toNat fun t => t.setPend src.toNat)

/-- EVC_CLR_PEND. -/
def execEvcClrPend (src : BitVec 11) (s : State) : Host.Outcome State Fault Refusal :=
  .next (s.srcCmd src.toNat fun t => t.clearPend src.toNat)

/-- EVC_ENABLE. -/
def execEvcEnable (src : BitVec 11) (s : State) : Host.Outcome State Fault Refusal :=
  .next (s.srcCmd src.toNat fun t => t.setSrcB EVC_ENA src.toNat true)

/-- EVC_DISABLE. -/
def execEvcDisable (src : BitVec 11) (s : State) : Host.Outcome State Fault Refusal :=
  .next (s.srcCmd src.toNat fun t => t.setSrcB EVC_ENA src.toNat false)

/-- FORCE_DONE completes an active source whatever target claimed it; a source of die 1 waits for the link (R375, R385). -/
def State.forceDone (s : State) (src : Nat) : State :=
  s.guarded (evcc 0 EVC_SRC_CMD) fun t => if t.sourceOk src && t.active src then (t.completeOn src).evalEvc else t

/-- EVC_FORCE_DONE. -/
def execEvcForceDone (src : BitVec 11) (s : State) : Host.Outcome State Fault Refusal := .next (s.forceDone src.toNat)

/-- The word of a bitmap register is stored; newly pending sources take the present ST. -/
def State.bitmapWrite (s : State) (d : Nat) (ena : Bool) (w : Nat) (v : Word) : State :=
  if ena then (s.wr (evcm d (EVC_ENA w)) v).evalEvc
  else
    let old := s.rd (evcm d (EVC_PEND w))
    let s1 := s.wr (evcm d (EVC_PEND w)) v
    (s1.each (fun i t =>
      t.when (bit v i && !bit old i) fun u =>
        { u with ev := { u.ev with pendSt := Assoc.put u.ev.pendSt (d * 1024 + w * 32 + i) (u.st d) } }) (List.range 32)).evalEvc

/-- Edges of sources of a bitmap word that fall in the cycle of a write: those that wait are taken, and their PEND ends at 1. -/
def State.takeEdges (s : State) (d w : Nat) (edges : Word) : State :=
  s.each (fun i t => t.when (bit edges i) fun u => u.takeEdge (d * 1024 + w * 32 + i)) (List.range 32)

/-- EVC_BITMAP_WRITE. -/
def execEvcBitmapWrite (d : Sys2Proof.Die) (ena : Bool) (w : Fin 32) (value edges : Word) (s : State) :
    Host.Outcome State Fault Refusal :=
  .next (s.guarded (evcm (dieNum d) ((if ena then EVC_ENA else EVC_PEND) w.val)) fun t =>
    ((t.bitmapWrite (dieNum d) ena w.val value).takeEdges (dieNum d) w.val edges).evalEvc)

/-- A write of EVC_TGT_EN: the sources of a target that is cleared are assigned again at once (R377). -/
def State.tgtEnWrite (s : State) (v : Word) : State := (s.wrF (evcc 0 EVC_TGT_EN) 0 9 (fld v 0 9)).evalEvc

/-- EVC_TGT_EN_WRITE. -/
def execEvcTgtEnWrite (value : Word) (s : State) : Host.Outcome State Fault Refusal :=
  .next (s.guarded (evcc 0 EVC_TGT_EN) fun t => t.tgtEnWrite value)

/-! ## Claim and done (R381 to R385) -/

/-- A claim and completion register that the part has: T0 to T7 are reserved in the record parts (R392). -/
def State.claims (s : State) (t : Nat) : Bool := t == 8 || !s.recordPart

/-- What a read of EVC_CLAIM_Tt answers. -/
def State.claimValue (s : State) (t : Nat) : Word :=
  if s.claims t then (match winnerOf (s.assigned t) with | some a => wordOf a.src | none => 0x7FF) else 0

/-- The side effect of a read of EVC_CLAIM_Tt: the source becomes active, or SIG clears where none is assigned. -/
def State.claimRead (s : State) (t : Nat) : State :=
  if s.claims t then
    match winnerOf (s.assigned t) with
    | some a =>
      let s1 := ((s.setSrcB EVC_ACT a.src true).clearPend a.src).unassign a.src
      ({ s1 with ev := { s1.ev with claimed := Assoc.put s1.ev.claimed a.src t } } : State).evalEvc
    | none => if t < 8 then (s.wrB (evcc 0 EVC_STAT) (16 + t) false).evalEvc else s
  else s

/-- EVC_CLAIM. -/
def execEvcClaim (t : Fin 9) (s : State) : Host.Outcome State Fault Refusal :=
  .next (s.when (s.dieUp 0) fun u => (u.claimRead t.val).emit (.read .pcie (evcc 0 (EVC_CLAIM t.val)) (u.claimValue t.val)))

/-- A write of EVC_DONE_Tt (R382). -/
def State.doneWrite (s : State) (t src : Nat) : State :=
  if s.claims t then
    if s.active src && Assoc.get s.ev.claimed src == some t then (s.completeOn src).evalEvc else s.raise (evcc 0 0) 0
  else s

/-- EVC_DONE. -/
def execEvcDone (t : Fin 9) (src : BitVec 11) (s : State) : Host.Outcome State Fault Refusal :=
  .next (s.guarded (evcc 0 (EVC_DONE t.val)) fun u => u.doneWrite t.val src.toNat)

/-! ## Ring registers (R386 to R389) -/

/-- A write of EVC_RQ_Tt_CONS frees room. -/
def State.consWrite (s : State) (t : Nat) (v : Word) : State :=
  s.when s.recordPart fun u => (u.wrF (evcc 0 (EVC_RQ_CONS t)) 0 12 (fld v 0 12)).evalEvc

/-- RQ_CONS_WRITE. -/
def execRqConsWrite (t : Fin 8) (value : Word) (s : State) : Host.Outcome State Fault Refusal :=
  .next (s.guarded (evcc 0 (EVC_RQ_CONS t.val)) fun u => u.consWrite t.val value)

/-- A write of EVC_RQ_Tt_CFG: with EN at 1 PROD becomes 0, PHASE 1, and the moderation timer counts as expired. -/
def State.rqCfgWrite (s : State) (t : Nat) (v : Word) : State :=
  s.when s.recordPart fun u =>
    let u1 := (u.wrF (evcc 0 (EVC_RQ_CFG t)) 0 4 (fld v 0 4)).wrB (evcc 0 (EVC_RQ_CFG t)) 31 (bit v 31)
    (u1.when (bit v 31) fun x =>
      let y := x.wr (evcc 0 (EVC_RQ_PROD t)) 0x10000
      { y with ev := { y.ev with modExpired := y.ev.modExpired ||| tbit t } }).evalEvc

/-- RQ_ENABLE. -/
def execRqEnable (t : Fin 8) (value : Word) (s : State) : Host.Outcome State Fault Refusal :=
  .next (s.guarded (evcc 0 (EVC_RQ_CFG t.val)) fun u => u.rqCfgWrite t.val value)

/-- The moderation timer of a ring reaches MIN_IVL. -/
def State.modExpiry (s : State) (t : Nat) : State :=
  (({ s with ev := { s.ev with modExpired := s.ev.modExpired ||| tbit t } } : State).moderate t).evalWake

/-- MIN_IVL of a ring in ns: values above 1000 µs act as 1000. -/
def State.minIvl (s : State) (t : Nat) : Nat := min 1000 (s.rdF (evcc 0 (EVC_RQ_MOD t)) 0 10) * us

/-- RQ_MODERATION_EXPIRY: MIN_IVL after the last message. -/
def execRqModerationExpiry (t : Fin 8) (s : State) : Host.Outcome State Fault Refusal :=
  .next (s.when (s.dieUp 0 && s.recordPart) fun u => (u.reachFrom (modTmr t.val) (u.minIvl t.val)).modExpiry t.val)

/-! ## The link and MSI-X (R390, R401) -/

/-- The endpoint works: HOST_SEL is 1, die 0 is up and PERST_N is high (R395, R397). -/
def State.hostOn (s : State) : Bool := s.straps.getLsbD 3 && s.dieUp 0 && s.hi.perstN

/-- The rate and width to which the link trains are the board's and the host's: free values within R396.
(DESIGN CHOICE, log entry 59) -/
def State.trained (s : State) : State :=
  if s.pcieUp then s
  else (((s.wrB (hdm HDM_STAT) 1 true).wrF (hdm HDM_STAT) 2 3 (1 + s.fresh.toNat % 4)).wrF (hdm HDM_STAT) 5 3
    (2 ^ (s.fresh.toNat / 4 % 3))).useFree

/-- A message that HDM holds is sent once its vector is unmasked and MSI-X enabled; with the link asleep it falls due as R390 says. -/
def State.release (s : State) (t : Nat) : State :=
  if s.ev.held.getLsbD t && s.ev.msixEn && !s.rdB (msix (MSIX_CTRL t)) 0 then
    (if s.pcieCarries then s.hdmMessage t
     else s.when s.pcieUp fun u => ({ u with ev := { u.ev with held := u.ev.held &&& ~~~tbit t, due := u.ev.due ||| tbit t } } : State).evalWake)
  else s

/-- The link reaches L0: WAKE_N is released, and the messages that waited are sent. -/
def State.linkL0 (s : State) : State :=
  let s1 := (s.trained).wrF (hdm HDM_STAT) 8 3 0
  let s2 : State := { s1 with ev := { s1.ev with wakeN := false } }
  let s3 := (s2.each (fun t u => u.when (s2.ev.due.getLsbD t) fun x => x.sendMessage t) [0, 1, 2, 3, 4, 5, 6, 7])
  (s3.each (fun t u => u.release t) [0, 1, 2, 3, 4, 5, 6, 7]).evalEvc

/-- PCIE_LINK_L0. -/
def execPcieLinkL0 (s : State) : Host.Outcome State Fault Refusal := .next (s.when s.hostOn fun t => t.linkL0)

/-- The link goes down. -/
def State.pcieDown (s : State) : State :=
  ((s.wrB (hdm HDM_STAT) 1 false).wrF (hdm HDM_STAT) 2 6 0).wrF (hdm HDM_STAT) 8 3 0

/-- The code of a link state (R421). -/
def linkCode : LinkState → Nat
  | .l0 | .down => 0
  | .l1 => 1
  | .l11 => 2
  | .l12 => 3
  | .l2 => 4

/-- PCIE_LINK_STATE_CHANGE: the link leaves L0. -/
def State.leaveL0 (s : State) (l : LinkState) : State :=
  match l with
  | .l0 => s.linkL0
  | .down => s.pcieDown
  | _ => (s.wrF (hdm HDM_STAT) 8 3 (linkCode l)).evalEvc

/-- PCIE_LINK_STATE_CHANGE. -/
def execPcieLinkStateChange (l : LinkState) (s : State) : Host.Outcome State Fault Refusal :=
  .next (s.when (s.hostOn && (s.pcieUp || l == .l0)) fun t => t.leaveL0 l)

/-- A write of the control word of a vector: a held message of an unmasked target is sent (R401).
(DEDUCED, log entry 57) -/
def State.vectorCtrl (s : State) (v : Nat) (w : Word) : State :=
  let s1 := s.wrB (msix (MSIX_CTRL v)) 0 (bit w 0)
  s1.when (v < 8) fun t => t.release v

/-- MSI-X is enabled, with the vector unmasked: the messages that HDM holds for unmasked vectors are sent. -/
def State.msixEnable (s : State) (v : Nat) : State :=
  let s1 := ({ s with ev := { s.ev with msixEn := true } } : State).vectorCtrl v 0
  s1.each (fun t u => u.release t) [0, 1, 2, 3, 4, 5, 6, 7]

/-- MSIX_VECTOR_UNMASK. -/
def execMsixVectorUnmask (v : Fin 64) (s : State) : Host.Outcome State Fault Refusal :=
  .next (s.when s.hostOn fun t => t.msixEnable v.val)

/-- MSIX_PBA word 0. -/
def State.pbaWord (s : State) : Word := wordOf s.ev.held.toNat

end Sys2Proof.Machine
end

