-- ==== Sys2Proof/Machine/Link.lean ====
section
/-! DEFINITION. The loss of the Komidon link (R30, R290, R312). -/

namespace Sys2Proof.Machine

/-- The sides that hold an end turn or a split: without the Komidon link each die turns them on its own ports (R312). -/
def State.endSides (s : State) : List Nat := [0, 1].filter fun d => s.sideCode d = 1 ∨ s.sideCode d = 2

/-- The backbone ports of some sides. -/
def sidesPorts (pt : Part) (l : List Nat) : List Nat := l.flatMap fun side => sidePorts pt side

/-- XDIE_WRAP of both dies' RNG pages. -/
def State.setWrap (s : State) (b : Bool) : State := (s.wrB (rng 0 RNG_STAT) 9 b).wrB (rng 1 RNG_STAT) 9 b

/-- UP and TRAINING of both dies' KLK pages. -/
def State.setLink (s : State) (up training : Bool) : State :=
  s.each (fun d t => (t.wrB (klk d KLK_STAT) 0 up).wrB (klk d KLK_STAT) 1 training) [0, 1]

/-- The end turns of each die become fault turns, with XDIE_WRAP, notices for line A, and the path change (R90, R306, R312).
(DEDUCED, log entry 45) -/
def State.wrapEnds (s : State) : State :=
  let ends := s.endSides
  let t := (s.setWrap true).each (fun side u => (u.countTurn (sidePorts u.part side)).newNotice .set 0 side) ends
  if ends.isEmpty then t else t.pathChange (sidesPorts t.part ends)

/-- The link is gone: each die continues alone (R30). A retraining is no link-down event.
(DEDUCED, log entry 45) -/
def State.linkGone (s : State) (down : Bool) : State :=
  if s.linkUp then
    let s1 := s.withNbr fun t => t.setLink false true
    let s2 := s1.when down fun t => t.each (fun d u => (u.count (klk d KLK_CNT_DOWN)).raise (klk d 0) 0) [0, 1]
    let s3 := (s2.each (fun d t => (t.wr (klk d KLK_CRD_AV0) 0).wr (klk d KLK_CRD_AV1) 0) [0, 1]).keepTension
    ((s3.wrB (tmu 1 TMU_STAT) 3 false).raise (evcc 0 0) 2).wrapEnds
  else s

/-- The link is lost; a fault turn that this sets makes the node heal (R42).
(DESIGN CHOICE, log entry 66) -/
def State.linkLost (s : State) (down : Bool) : State := if s.linkUp then (s.linkGone down).toHealing else s

end Sys2Proof.Machine
end

