-- ==== Sys2Proof/Machine/Modes.lean ====
section
/-! DEFINITION. Power, resets and modes: the meanings of the keeper's commands of Operating Modes and Power States, and of
Startup and Configuration as far as the supplies and resets go. -/

namespace Sys2Proof.Machine

/-! ## Power of the keeper (R42) -/

/-- The keeper comes out of OFF: every keeper register at its reset value, PARKED with CAUSE POR, KHF running (R42, R459). -/
def State.keeperUp (s : State) (straps : Byte) : State :=
  { s with straps := straps, regs := Sparse.drop (fun _ => true) s.regs, tbl := [], lat := [], kp := Keeper.init
           el := { clk := 0, timers := [] } }.resetHidden0.resetHidden1

/-- KEEPER_POWER_UP: only from OFF.
(DESIGN CHOICE, log entry 7) -/
def execKeeperPowerUp (straps : Byte) (s : State) : Host.Outcome State Fault Refusal :=
  .next (s.when (s.mode == .off) fun t => t.keeperUp straps)

/-- KEEPER_POWER_LOSS: everything stops and the relays lose their drive; the node is in OFF (R42, R349). -/
def execKeeperPowerLoss (s : State) : Host.Outcome State Fault Refusal :=
  .next (s.when (s.mode != .off) fun t =>
    { t with regs := Sparse.set regDefault [] (kpr KPR_MODE) 0, tbl := [], lat := [],
             kp := { Keeper.init with khf := false }, el := { clk := t.el.clk, timers := [] } }.resetHidden0.resetHidden1)

/-! ## Wake inputs (R356, R365) -/

/-- The number of an input among WAKE_IN 0 to 3 (0 to 3) and CPL_SNS 0 and 1 (4 and 5). -/
def WakeIn.idx : WakeIn → Nat
  | .wake n => n.val
  | .cpl s => 4 + s.val

/-- The debounce of an input (R365). -/
abbrev debTmr (i : WakeIn) : Nat := tmr (kwk KWK_DEB) (WakeIn.idx i)

/-- The edge latch of an input (R365, R369). -/
def State.latched (s : State) : WakeIn → Bool
  | .wake n => s.rdB (kwk KWK_STAT) n.val
  | .cpl c => s.kp.cplLatch.getLsbD c.val

/-- The edge latch of an input set or cleared; LEVEL of a WAKE_IN shows its active level.
(DEDUCED, log entry 18) -/
def State.setLatch (s : State) (i : WakeIn) (latch level : Bool) : State :=
  match i with
  | .wake n => (s.wrB (kwk KWK_STAT) n.val latch).wrB (kwk KWK_STAT) (4 + n.val) level
  | .cpl c =>
    { s with kp := { s.kp with cplLatch := s.kp.cplLatch &&& ~~~(BitVec.ofNat 2 (2 ^ c.val)) ||| BitVec.ofNat 2 (b2n latch * 2 ^ c.val) } }

/-- Whether an input has passed its debounce and is still at its active level.
(DEDUCED, log entry 18) -/
def State.setHeld (s : State) (i : WakeIn) (b : Bool) : State :=
  { s with kp := { s.kp with held := s.kp.held &&& ~~~(BitVec.ofNat 6 (2 ^ WakeIn.idx i)) ||| BitVec.ofNat 6 (b2n b * 2 ^ WakeIn.idx i) } }

/-- WAKE_INPUT_EDGE: the latch catches the edge and starts KHF and the debounce (R58, R365). -/
def execWakeInputEdge (i : WakeIn) (s : State) : Host.Outcome State Fault Refusal :=
  .next (s.when (s.mode != .off && !s.kp.held.getLsbD (WakeIn.idx i)) fun t =>
    let t0 := match i with
      | .cpl c => t.arm (tmr (ina INA_CPL) c.val) (t.rdF (ina INA_CPL) 8 8 * ms)
      | .wake _ => t
    let t1 := if t.latched i then t else (t0.setLatch i true true).arm (debTmr i) (atLeast1 (t.rdF (kwk KWK_DEB) 0 8) * ms)
    { t1 with kp := { t1.kp with khf := true } })

/-- An input that has stayed at its active level for KWK_DEB is accepted (R356, R364, R365): a WAKE_IN enabled in EN is a
wake, a CPL_SNS wakes in PARKED where its CPL_WK is set, and a HOLD input raises NEED.
(DEDUCED, log entry 18) -/
def State.debounced (s : State) (i : WakeIn) : State :=
  let s1 := ((s.setLatch i false true).setHeld i true).evalNeed
  match i with
  | .wake n => s1.when (s1.rdB (kwk KWK_WAKE_CFG) n.val) fun t => t.acceptWake .wakeIn
  | .cpl c => s1.when (s1.mode == .parked && s1.rdB (kwk KWK_WAKE_CFG) (12 + c.val)) fun t => t.acceptWake .cplSns

/-- WAKE_DEBOUNCE_DONE. -/
def execWakeDebounceDone (i : WakeIn) (s : State) : Host.Outcome State Fault Refusal :=
  .next (s.when (s.mode != .off && s.latched i) fun t => (t.expire (debTmr i)).debounced i)

/-- A CPL_SNS that leaves its level is no longer stable for INA_CPL.DB (R195). -/
def State.cplOff (s : State) : WakeIn → State
  | .cpl c => s.disarm (tmr (ina INA_CPL) c.val)
  | .wake _ => s

/-- WAKE_INPUT_BOUNCE: the latch clears, BOUNCE is counted and reported (R365). -/
def execWakeInputBounce (i : WakeIn) (s : State) : Host.Outcome State Fault Refusal :=
  .next (s.when (s.mode != .off && s.latched i) fun t =>
    ((((t.setLatch i false false).disarm (debTmr i)).cplOff i).countF (kwk KWK_CNT) 8 8).raise (kwk 0) 4)

/-- WAKE_INPUT_RELEASE: an input that has passed its debounce leaves its active level, and a HOLD input's need falls at once (R356). A
CPL_SNS that is released alone switches the ports to the fast HELLO interval (R197). -/
def execWakeInputRelease (i : WakeIn) (s : State) : Host.Outcome State Fault Refusal :=
  .next (s.when (s.mode != .off && s.kp.held.getLsbD (WakeIn.idx i)) fun t =>
    let u := ((t.setLatch i (t.latched i) false).setHeld i false).evalNeed
    match i with
    | .cpl _ => (u.cplOff i).mark (tmr (ina INA_T_HELLO) 63)
    | .wake _ => u)

/-- KBY_LAD_CFG.QUAL in ns (R354). -/
def State.qualNs (s : State) : Nat := s.rdF (kby KBY_LAD_CFG) 8 8 * 10 * us

/-- The earliest instant at which a LAD's energy qualifies (R351). -/
abbrev qualTmr (n : Nat) : Nat := tmr (kby KBY_LAD_CFG) n

/-- Energy comes or goes at a LAD: the window of 1 ms goes on through a gap, while a QUAL above 1 ms wants energy throughout (R351).
(DESIGN CHOICE, log entry 70) -/
def State.ladEnergy (s : State) (n : Nat) (present : Bool) : State :=
  let open_ := match s.timer (qualTmr n) with
    | some t => decide (s.now ≤ t + ms - s.qualNs)
    | none => false
  if present then (if open_ && !decide (ms < s.qualNs) then s else s.arm (qualTmr n) s.qualNs)
  else if ms < s.qualNs then s.disarm (qualTmr n) else s

/-- LAD_ENERGY_CHANGE: ENERGY shows it, but a LAD is blind while it sends (R351). -/
def execLadEnergyChange (n : Fin 4) (present : Bool) (s : State) : Host.Outcome State Fault Refusal :=
  .next (s.when (s.mode != .off && !s.kp.bursting.getLsbD n.val) fun t =>
    (t.when (t.rdB (kby KBY_LAD_STAT) n.val != present) fun u => u.ladEnergy n.val present).wrB (kby KBY_LAD_STAT) n.val present)

/-- LAD_BURST_QUALIFY: SEEN and the LAD event are set; an armed LAD wakes a parked node (R351, R364). -/
def execLadBurstQualify (n : Fin 4) (s : State) : Host.Outcome State Fault Refusal :=
  .next (s.when (s.mode != .off && s.rdB (kby KBY_LAD_STAT) n.val) fun t0 =>
    let t := t0.expire (qualTmr n.val)
    let t1 := (t.wrB (kby KBY_LAD_STAT) (4 + n.val) true).raise (kby 0) 4
    t1.when (t1.mode == .parked && t1.rdB (kby KBY_LAD_CFG) n.val) fun u => u.acceptWake .lad)

/-! ## The RTC (R364, R493) -/

/-- RTC_ALARM: the seconds equal a non-zero KWK_ALARM, which clears; with RTC_WK it is a wake. -/
def execRtcAlarm (s : State) : Host.Outcome State Fault Refusal :=
  .next (s.when (s.mode != .off && s.rd (kwk KWK_ALARM) != 0 && s.rd (kwk KWK_ALARM) == s.rd (krt KRT_SEC_LO)) fun t =>
    let t1 := t.wr (kwk KWK_ALARM) 0
    t1.when (t1.rdB (kwk KWK_WAKE_CFG) 14) fun u => u.acceptWake .rtcAlarm)

/-- RTC_TICK: the 48-bit seconds advance by one, and TICK is set. -/
def execRtcTick (s : State) : Host.Outcome State Fault Refusal :=
  .next (s.when (s.mode != .off) fun t =>
    (t.wr64 (krt KRT_SEC_LO) (krt KRT_SEC_HI) ((t.rd64 (krt KRT_SEC_LO) (krt KRT_SEC_HI) + 1) % 2 ^ 48)).raise (krt 0) 0)

/-- RTC_SET: the write of KRT_SET_HI loads the RTC with it and KRT_SET_LO. -/
def execRtcSet (hi : Word) (s : State) : Host.Outcome State Fault Refusal :=
  .next (s.guarded (krt KRT_SET_HI) fun t =>
    let h := setFld 0 0 16 (fld hi 0 16)
    ((t.wr (krt KRT_SET_HI) h).wr (krt KRT_SEC_LO) (t.rd (krt KRT_SET_LO))).wr (krt KRT_SEC_HI) h)

/-! ## The power sequencer (R460, R461, R537) -/

/-- The PWR_EN outputs driven. -/
def State.pwrEn (s : State) : Nat := s.rdF (kps KPS_STAT) 0 4

/-- The PGOOD inputs.
(DEDUCED, log entry 17) -/
def State.pgood (s : State) : Nat := s.rdF (kps KPS_STAT) 4 2

/-- The timers of the power sequencer: the next step, PG_TMO from PWR_EN[0], and RST_DLY (R461). -/
abbrev stepTmr : Nat := tmr (kps KPS_CFG) 0
abbrev pgoodTmr : Nat := tmr (kps KPS_CFG) 1
abbrev rstDlyTmr : Nat := tmr (kps KPS_CFG) 2

/-- The next output is raised in WAKING, or in a power-down the last one still driven is dropped; PGOOD of a rail that falls
falls with it (R460, R461).
(DESIGN CHOICE, log entry 14) -/
def State.pwrStep (s : State) : State :=
  let e := s.pwrEn
  let step := atLeast1 (s.rdF (kps KPS_CFG) 0 4) * ms
  if s.mode = .waking ∧ e < 15 then
    let s1 := ((s.expire stepTmr).wrF (kps KPS_STAT) 0 4 (e * 2 + 1)).arm stepTmr step
    if e = 0 then s1.arm pgoodTmr (max 10 (s.rdF (kps KPS_CFG) 8 8) * ms) else s1
  else if s.kp.powerDown ∧ 0 < e then
    let e' := e / 2
    let s1 := ((s.expire stepTmr).wrF (kps KPS_STAT) 0 4 e').arm stepTmr step
    let s2 := if e' < 15 then s1.wrB (kps KPS_STAT) 5 false else s1
    if e' < 3 then s2.wrB (kps KPS_STAT) 4 false else s2
  else s

/-- PWR_EN_STEP. -/
def execPwrEnStep (s : State) : Host.Outcome State Fault Refusal := .next s.pwrStep

/-- PGOOD_REACHED: both PGOOD inputs are high in WAKING, and the RST_DLY wait starts. KPS_T_PGOOD is a measured time that
the board decides: a free value. -/
def execPgoodReached (s : State) : Host.Outcome State Fault Refusal :=
  .next (s.when (s.mode == .waking && s.pwrEn == 15) fun t =>
    let t1 := ((((t.wrF (kps KPS_STAT) 4 2 3).wrF (kps KPS_T_PGOOD) 0 16 t.fresh.toNat).useFree).disarm pgoodTmr).arm rstDlyTmr
      (atLeast1 (t.rdF (kps KPS_CFG) 16 4) * ms)
    ({ t1 with kp := { t1.kp with rstWait := true } }).arm (coilTmr 2) (2 * ms))

/-- PGOOD_TIMEOUT: the rails are dropped and the node returns to PARKED (R42). -/
def execPgoodTimeout (s : State) : Host.Outcome State Fault Refusal :=
  .next (s.when (s.mode == .waking && s.pgood != 3 && s.pwrEn != 0) fun t => ((t.expire pgoodTmr).raise (kps 0) 0).park .pgoodTimeout)

/-- PGOOD_LOSS: in a powered mode the dies are held in reset, the relays released, and the node goes to PARKED (R42). In a
power-down the fall is expected and has no effect (R537). -/
def execPgoodLoss (s : State) : Host.Outcome State Fault Refusal :=
  .next (s.when (s.mode.powered && s.pgood == 3) fun t =>
    let t1 := (t.wrF (kps KPS_STAT) 4 2 0).raise (kps 0) 1
    let t2 := { t1 with kp := { t1.kp with rstWait := false } }
    t2.park .pgoodLoss)

/-! ## Release of the die resets (R461) -/

/-- The lane of a port (R57), by its local port number: lanes 0 to 3 their own, four edge ports to a QX lane. -/
def portLane (p : Nat) : Nat := p / 32 * 12 + (if p % 32 < 4 then p % 32 else 5 + (p % 32 - 4) / 4)

/-- The OTP word of a lane: RX latency in [15:0], TX latency in [31:16] (R430). -/
def State.laneLat (s : State) (lane : Nat) : Word := s.otpW (32 + lane)

/-- Port latencies take their reset values from the OTP entry of their lane (R97, R430). -/
def State.loadLat (s : State) (p : Nat) : State :=
  let w := s.laneLat (portLane p)
  (s.wr (prt p PRT_PTP_RXLAT) (wordOf (fld w 0 16))).wr (prt p PRT_PTP_TXLAT) (wordOf (fld w 16 16))

/-- The OTP image of die 0's SEC page is loaded (R431, R436). -/
def State.loadOtp (s : State) : State :=
  let s1 := s.each (fun i t => t.wr (sec 0 (SEC_OTP i)) (t.otpW i)) (List.range 128)
  let blank := (List.range 16).all fun i => s1.otpW i == 0
  s1.wrB (sec 0 SEC_STAT) 0 blank

/-- Root key hash slots both blank: any correctly signed image is accepted (R429). -/
def State.rootsBlank (s : State) : Bool := (List.range 16).all fun i => s.otpW i == 0

/-- Arbitration weights at the line rates of the ports' roles: backbone 10, uplink 4, edge 1, twin lane 10, HP 26 (R21). -/
def State.loadWeights (s : State) (d : Nat) : State :=
  let ports := (List.range 32).map (· + 32 * d) |>.filter (· < s.part.ports)
  let s1 := s.each (fun p t => t.wr (weightReg p) (if isBackbone t.part p then 10 else if isUplink t.part p then 4 else 1)) ports
  let s2 := s1.wr (clu (4 * d) (CLU_WGT 8)) 10
  if d = 0 then s2.wr (clu 1 (CLU_WGT 9)) 26 else s2

/-- PCIE_REF_OK shows with HOST_SEL whether the host supplies PE_REFCLK, which no command tells: a free value (R62).
(DEDUCED, log entry 17) -/
def State.loadHostRef (s : State) : State :=
  s.when (s.straps.getLsbD 3) fun t => (t.wrB (cpm 0 CPM_CLK_STAT) 9 (bit t.fresh 0)).useFree

/-- DIE_INFO: the device ID, the die's position and the stepping (R491).
(DESIGN CHOICE, log entry 76) -/
def dieInfo (id d : Nat) : Word := wordOf (id + d * 2 ^ 16 + Config.stepping.toNat * 2 ^ 20)

/-- What a die's registers take from straps, OTP and part when it leaves reset (R97, R133, R316, R459, R491). -/
def State.loadDie (s : State) (d : Nat) : State :=
  let ports := (List.range 32).map (· + 32 * d) |>.filter (· < s.part.ports)
  let s1 := s.each (fun p t => t.loadLat p) ports
  let s2 := (s1.wr (sch d SCH_CS_UID_LO) (s1.otpW 18)).wr (sch d SCH_CS_UID_HI) (s1.otpW 19)
  let s3 := (s2.wrB (cpm d CPM_CLK_STAT) 8 true).loadWeights d
  if d = 0 then
    let s4 := (s3.wrB (sch 0 SCH_CS_CFG) 0 (s3.straps.getLsbD 0)).wrB (twn 0 TWN_CFG) 1 (s3.straps.getLsbD 1)
    let s5 := (s4.wrF (sch 0 SCH_CS_STAT) 4 3 s4.rank).loadOtp
    let s6 := (s5.wr (die 0 DIE_INFO) (dieInfo s5.part.deviceId 0)).loadHostRef
    if s6.part.twoDies then s6
    else
      let s7 := s6.each (fun k t => (t.wr (tmu 0 (TMU_TD_CAND_LO k)) 0xF).wr (tmu 0 (TMU_TD_CAND_HI k)) 0) [0, 1]
      (s7.wr (prt 2 PRT_SRSV) 0x48).wr (prt 3 PRT_SRSV) 0x48
  else s3.wr (die 1 DIE_INFO) (dieInfo s3.part.deviceId 1)

/-- The keeper sources whose condition is present when die 0 leaves reset fire (R391). -/
def State.keeperEdges (s : State) : State :=
  s.each (fun k t =>
    let base := 0x08000000 + k * 0x1000
    t.when (t.rd (base + PG_EVT) &&& t.rd (base + PG_EVEN) != 0) fun u => u.edge (0x380 + k)) [0, 1, 2, 3, 4, 5]

/-- The later of the instants at which PERST_N rose and die 0 left reset: configuration is ready 100 ms after it (R397). -/
abbrev cfgTmr : Nat := tmr (hdm HDM_STAT) 0

/-- A die that comes out of reset: its registers, reserves, statistics and regions (R97, R284, R438, R446). -/
def State.startDie (s : State) (d : Nat) : State :=
  let t := (((s.loadDie d).meterOn (sta d STA_STAT)).evalBuf d).when (d == 0) fun t => t.mark cfgTmr
  t.each (fun g u => u.meterOn (regionCtr g 0)) (t.regions.filter fun g => g / 2 == d)

/-- Die 1 alone is reset: its link is gone, and its bring-up follows. The mode stays, whatever turns that sets, and a shadow that the
inauguration engine owns is incomplete until then (R538).
(DEDUCED, log entry 16) -/
def State.dropDie1 (s : State) : State :=
  let t := ((s.linkGone true).wrB (die 0 DIE_BOOT_STAT) 6 false).resetDie 1
  if t.tp.complete then { t with tp := { t.tp with writing := true, complete := false } } else t

/-- An LBIST ends, or is aborted, in a reset of its die; a reset of die 0 resets die 1 as well (R454, R538). `v` is what SWT_LBIST
then holds. The mode stays.
(DEDUCED, log entry 17) -/
def State.lbistEnd (s : State) (d : Nat) (v : Word) : State :=
  let s0 := { s with sw := { s.sw with tests := s.sw.tests.filter (·.code != 8) } }
  let s1 := (if d = 0 then s0.resetDies else s0.dropDie1).wr (swt d SWT_LBIST) v
  if d = 0 then
    let s2 := (s1.wrB (kps KPS_STAT) 8 false).startDie 0
    let s3 := s2.when s2.part.twoDies fun t => (t.wrB (kps KPS_STAT) 9 false).startDie 1
    ((({ s3 with kp := { s3.kp with bootDue := true, tried := 0, failCodes := 0 } }).evalFloors).keeperEdges).arm (tmr (kps KPS_STAT) 0) ms
  else s1

/-- RST_OUT_N stays low for 1 ms after the release of die 0's reset (R462). -/
abbrev rstOutTmr : Nat := tmr (kps KPS_STAT) 0

/-- Both die resets are released at one tick, and the straps are sampled again (R459, R461). A boot is due. -/
def State.releaseDies (s : State) (straps : Byte) : State :=
  let s1 := { s with straps := straps, kp := { s.kp with rstWait := false, bootDue := true } }
  let s2 := (s1.wrB (kps KPS_STAT) 8 false).when s1.part.twoDies fun t => t.wrB (kps KPS_STAT) 9 false
  let s3 := (s2.startDie 0).when s2.part.twoDies fun t => t.startDie 1
  ((s3.evalFloors).keeperEdges).arm rstOutTmr ms

/-- DIE_RESET_RELEASE: in WAKING with both PGOOD inputs high. -/
def execDieResetRelease (straps : Byte) (s : State) : Host.Outcome State Fault Refusal :=
  .next (s.when (s.mode == .waking && s.pgood == 3 && s.rdB (kps KPS_STAT) 8) fun t => (t.expire rstDlyTmr).releaseDies straps)

/-- POWER_DOWN_END: the last PWR_EN output has fallen, and MIN_OFF counts (R368, R537). -/
def execPowerDownEnd (s : State) : Host.Outcome State Fault Refusal :=
  .next (s.when (s.kp.powerDown && s.pwrEn == 0) fun t =>
    let t1 := ((t.disarm stepTmr).wrB (kpr KPR_MODE) 5 true).arm minOffTmr (max 10 (t.rdF (kwk KWK_MIN_OFF) 0 8) * ms)
    { t1 with kp := { t1.kp with powerDown := false } })

/-! ## Mode requests (R44, R46) -/

/-- A write of a request: MAINTENANCE and PARK test the lock of the KPR page (R44); in a power-down every request but WAKE is
discarded with REQ_REJ (R537). -/
def State.modeRequest (s : State) (r : ModeReq) : State :=
  s.guarded (kpr KPR_MODE_REQ) fun t =>
    if (r = .maintenance ∨ r = .park) ∧ s.lockCount (kpr 0) = 0 then t.lockViol (kpr KPR_MODE_REQ)
    else if t.kp.powerDown ∧ r ≠ .wake then t.raise (kpr 0) 1
    else t.wrF (kpr KPR_MODE_REQ) 0 3 r.code

/-- KPR_REQ_WAKE. -/
def execKprReqWake (s : State) : Host.Outcome State Fault Refusal := .next (s.modeRequest .wake)

/-- KPR_REQ_MAINTENANCE. -/
def execKprReqMaintenance (s : State) : Host.Outcome State Fault Refusal := .next (s.modeRequest .maintenance)

/-- KPR_REQ_CAST_ON. -/
def execKprReqCastOn (s : State) : Host.Outcome State Fault Refusal := .next (s.modeRequest .castOn)

/-- KPR_REQ_PARK. -/
def execKprReqPark (s : State) : Host.Outcome State Fault Refusal := .next (s.modeRequest .park)

/-- KPR_REQ_WITHDRAW: a write of 0 withdraws a pending request and sets no REQ_REJ. -/
def execKprReqWithdraw (s : State) : Host.Outcome State Fault Refusal :=
  .next (s.guarded (kpr KPR_MODE_REQ) fun t => t.wrF (kpr KPR_MODE_REQ) 0 3 0)

/-- A request is not valid from the current mode (R44). -/
def State.rejectReq (s : State) : State := s.raise (kpr 0) 1

/-- The node enters MAINTENANCE: rows stop on it and its relays are released unless MAINT_INS permits (R42). -/
def State.toMaintenance (s : State) : State := ((s.stopRows).inaToOff).setMode .maintenance .hostRequest

/-- The node leaves MAINTENANCE for CAST-ON: the tables start clean (R236), and the boot loader reads the copy it last accepted
again (R470).
(DEDUCED, log entry 15) -/
def State.fromMaintenance (s : State) : State :=
  let s0 := match s.sw.tests.find? (·.code == 8) with
    | some t => s.lbistEnd t.die 4
    | none => s
  let s1 := ((s0.cleanTables).setMode .castOn .hostRequest).enterCastOn
  let s2 := s1.wrF (die 0 DIE_BOOT_STAT) 0 4 (if s1.kp.lastCopy = 2 then 7 else 1)
  { s2 with kp := { s2.kp with bootDue := true, tried := 0, failCodes := 0 } }

/-- A pending request is taken: judged against the current mode, with REQ returning to 0 (R42, R44).
(DEDUCED, log entry 68) -/
def State.takeRequest (s : State) : State :=
  let r := s.rdF (kpr KPR_MODE_REQ) 0 3
  let s1 := s.wrF (kpr KPR_MODE_REQ) 0 3 0
  if r = 0 then s
  else if r = 1 then (if s1.mode = .parked then s1.acceptWake .hostRequest else s1.rejectReq)
  else if r = 2 then (if s1.mode = .castOn ∨ s1.mode.inRow then s1.toMaintenance else s1.rejectReq)
  else if r = 3 then (if s1.mode = .maintenance then s1.fromMaintenance else s1.rejectReq)
  else if r = 4 then (if s1.mode = .maintenance then s1.park .hostRequest else s1.rejectReq)
  else s1.rejectReq

/-- MODE_REQUEST_TAKE.
(DEDUCED, log entry 68) -/
def execModeRequestTake (s : State) : Host.Outcome State Fault Refusal :=
  .next (s.when (s.mode != .off) fun t => t.takeRequest)

/-! ## Resets (R42, R59, R462, R538) -/

/-- SYS_RST_ASSERT: both dies are reset and the node reboots, from WAKING to MAINTENANCE. -/
def execSysRstAssert (s : State) : Host.Outcome State Fault Refusal :=
  .next (s.when s.mode.powered fun t => t.reboot .sysRst)

/-- KPS_RST_REQ_DIE0: taken in WAKING through MAINTENANCE, discarded elsewhere (R462). -/
def execKpsRstReqDie0 (s : State) : Host.Outcome State Fault Refusal :=
  .next (s.guarded (kps KPS_RST_REQ) fun t => t.when t.mode.powered fun u => u.reboot .dieReset)

/-- A reset that affects die 1 alone: the mode stays, and die 1 drops line B (R538). In the single-die parts every die
reset is a reset of die 0.
(DEDUCED, log entry 16) -/
def State.resetDie1 (s : State) (c : Cause) : State :=
  if s.part.twoDies then s.dropDie1 else s.reboot c

/-- KPS_RST_REQ_DIE1. -/
def execKpsRstReqDie1 (s : State) : Host.Outcome State Fault Refusal :=
  .next (s.guarded (kps KPS_RST_REQ) fun t => t.when t.mode.powered fun u => u.resetDie1 .dieReset)

/-- A PLL's bit of CPM_CLK_STAT (R62). -/
def pllBit : Pll → Nat
  | .core => 0 | .time => 1 | .mgmt => 2 | .klnk => 3 | .host => 4 | .field => 5

/-- A loss of lock or reference on a die: the reset of R59, with the CPM event that stays for software to find.
(DEDUCED, log entry 17) -/
def State.lossReset (s : State) (d : Nat) (evt : Nat) : State :=
  (if d = 0 then s.reboot .lossOfLock else s.resetDie1 .lossOfLock).raise (cpm d 0) evt

/-- PLL_UNLOCK. -/
def execPllUnlock (d : Sys2Proof.Die) (s : State) : Host.Outcome State Fault Refusal :=
  .next (s.when (s.dieUp (dieNum d)) fun t => t.lossReset (dieNum d) 0)

/-- REF_LOSS. -/
def execRefLoss (d : Sys2Proof.Die) (s : State) : Host.Outcome State Fault Refusal :=
  .next (s.when (s.dieUp (dieNum d)) fun t => t.lossReset (dieNum d) 1)

/-- Whether a PLL exists on a die and may lock (R56, R62): KLNK only with two dies, HOST and FIELD on die 0, HOST only with
HOST_SEL and PERST_N high, FIELD only while FLD is enabled. -/
def State.pllPresent (s : State) (d : Nat) : Pll → Bool
  | .klnk => s.part.twoDies
  | .host => d == 0 && s.straps.getLsbD 3 && s.hi.perstN
  | .field => d == 0 && s.rdB (fldp PG_CTRL) 0
  | _ => true

/-- PLL_LOCK: the lock bit is set. A HOST lock shows that PE_REFCLK is present. -/
def execPllLock (d : Sys2Proof.Die) (p : Pll) (s : State) : Host.Outcome State Fault Refusal :=
  .next (s.when (s.dieUp (dieNum d) && s.pllPresent (dieNum d) p) fun t =>
    let t1 := t.wrB (cpm (dieNum d) CPM_CLK_STAT) (pllBit p) true
    t1.when (p == .host) fun u => u.wrB (cpm 0 CPM_CLK_STAT) 9 true)

/-- A register of MDIO master `m`: on die `m`, or in the single-die parts on die 0 at offset + 0x20. -/
def State.mdio (s : State) (m o : Nat) : Nat := if s.part.twoDies then die m o else die 0 (o + m * 0x20)

/-- The frame of an MDIO command leaves; it takes 64 MDC periods (R492). -/
def State.mdioSend (s : State) (m : Nat) : State :=
  let v := s.rd (s.mdio m DIE_MDIO_CMD)
  (s.emit (.mdio m (bit v 12) (fld v 10 2) (fld v 0 5) (fld v 5 5) (s.rdF (s.mdio m DIE_MDIO_DATA) 0 16))).arm (tmr (s.mdio m DIE_MDIO_CMD) 0) 25600

/-- RST_OUT_RELEASE: RST_OUT_N rises 1 ms after die 0's reset release (R462). -/
def execRstOutRelease (s : State) : Host.Outcome State Fault Refusal :=
  .next (s.when (s.dieUp 0 && s.rdB (kps KPS_STAT) 10) fun t =>
    let u := ((t.expire rstOutTmr).wrB (kps KPS_STAT) 10 false).raise (kps 0) 2
    u.each (fun m v => v.when (v.rdB (v.mdio m DIE_MDIO_STAT) 0) fun w => w.mdioSend m) [0, 1])

/-! ## Keeper clocks (R58) -/

/-- KHF_START: KHF starts within 10 µs of a falling MS_CS_N edge or a wake. -/
def execKhfStart (_byWake : Bool) (s : State) : Host.Outcome State Fault Refusal :=
  .next (s.when (s.mode != .off) fun t => { t with kp := { t.kp with khf := true } })

/-- A wake debounce runs: an input is latched and has not passed its debounce (R365). -/
def State.debouncing (s : State) : Bool := s.rdF (kwk KWK_STAT) 0 4 != 0 || s.kp.cplLatch != 0

/-- KHF_STOP: in PARKED, 1 ms after the last management SPI access, unless KHF times a debounce or a power-down. -/
def execKhfStop (s : State) : Host.Outcome State Fault Refusal :=
  .next (s.when (s.mode == .parked && !s.kp.powerDown && (s.kp.klf || !s.debouncing)) fun t =>
    let u := t.expire khfTmr
    { u with kp := { u.kp with khf := false } })

/-- KLF_VALID: the keeper's debounce moves to KLF. -/
def execKlfValid (s : State) : Host.Outcome State Fault Refusal :=
  .next (s.when (s.mode != .off) fun t => { t with kp := { t.kp with klf := true } })

end Sys2Proof.Machine
end

