-- ==== Sys2Proof/Machine/Komidon.lean ====
section
/-! DEFINITION. The Komidon link between the dies: training, loss and recovery (R30, R81, R289, R290, R296, R312, R385). -/

namespace Sys2Proof.Machine

/-- The credits that die `d` holds: the landing cells that the other die announces, a scheduled value below 36 acting as 36. -/
def State.takeCredits (s : State) (d : Nat) : State :=
  let c0 := s.rd (klk (1 - d) KLK_CRD_CFG0)
  let c1 := s.rd (klk (1 - d) KLK_CRD_CFG1)
  (s.wr (klk d KLK_CRD_AV0) (setFld c0 0 10 (max 36 (fld c0 0 10)))).wr (klk d KLK_CRD_AV1) c1

/-- The offsets of die 0's SCH registers that die 1 mirrors (R105, R147), SCH_NBR with them. The active bank follows R235. -/
def schMirrors : List Nat :=
  [SCH_CTRL, SCH_STAT, SCH_ROW, SCH_ROW_ST, mapReg 0 % 0x1000, mapReg 1 % 0x1000, SCH_SWAP, SCH_SWAP_ROW, SCH_SWAP_MIN, SCH_NBR, SCH_CHK, SCH_CHK_STAT]
    ++ (List.range 8).flatMap (fun i =>
      [SCH_SLOT_ROWLEN i, SCH_SLOT_SELV i, SCH_SLOT_CNT i, SCH_SLOT_RSLEN i, SCH_SLOT_CRC i, SCH_SLOT_STAT i])
    ++ (List.range 12).map (fun i => 0x240 + 4 * i)

/-- Die 1's copies of die 0's SCH registers are brought up to date.
(DEDUCED, log entry 16) -/
def State.mirrorSch (s : State) : State := s.each (fun o t => t.wr (sch 1 o) (t.rd (sch 0 o))) schMirrors

/-- The fault turns that stood for end turns end, with notices for line A (R306, R312). -/
def State.unwrapEnds (s : State) : State :=
  let ends := s.endSides
  if s.xdieWrap then
    let t := (s.setWrap false).each (fun side u => ((u.raiseTurn (sidePorts u.part side) 1).wr (rng 0 RNG_TURN_ST) (u.st 0)).newNotice .clear 0 side) ends
    if ends.isEmpty then t else t.pathChange (sidesPorts t.part ends)
  else s

/-- Both dies take the landing cells that their registers give (R289). -/
def State.newCrd (s : State) : State := { s with fw := { s.fw with crd := [] } }

/-- A training completes (R81, R258, R289, R290, R385, R440): credits are exchanged, latencies measured, and die 1 realigns its
registers, and at the next boundary its generators and statistics. -/
def State.linkUpNow (s : State) (rtt lat : Nat) : State :=
  let s1 := s.newCrd.withNbr fun t => t.setLink true false
  let s2 := s1.each (fun d t => (((t.bumpF (klk d KLK_STAT) 16 16).wrF (klk d KLK_RTT) 0 16 rtt).takeCredits d).evalBuf d) [0, 1]
  let s3 := (s2.wr (tmu 0 TMU_KLK_LAT) (wordOf lat)).wr (tmu 1 TMU_KLK_LAT) (wordOf lat)
  let s4 := (s3.each (fun d t => t.raise (klk d 0) 1) [0, 1]).unwrapEnds.mirrorSch.mirrorTmu
  let s5 : State := { s4 with dk := { s4.dk with genSync := true }, stats := { s4.stats with align := true } }
  (s5.applyDone).evalEvc

/-- KLK_RETRAIN: a write of RETRAIN on a die's page ends the link for a training. -/
def execKlkRetrain (d : Sys2Proof.Die) (s : State) : Host.Outcome State Fault Refusal :=
  .next (s.guarded (klk (dieNum d) KLK_CTRL) fun t =>
    t.when t.part.twoDies fun u => if u.linkUp then u.linkLost false else u.setLink false true)

/-- KLK_LINK_DOWN. -/
def execKlkLinkDown (s : State) : Host.Outcome State Fault Refusal :=
  .next (s.when s.part.twoDies fun t => t.linkLost true)

end Sys2Proof.Machine
end

