-- ==== Sys2Proof/Machine/Rings.lean ====
section
/-! DEFINITION. The DMA rings of the host interface (R402 to R405). -/

namespace Sys2Proof.Machine

/-! ## The rings (R402) -/

/-- A register of ring `n` of a direction: the two ring pages have one layout. -/
def ringReg (rx : Bool) (n o : Nat) : Nat := (if rx then rxr 0 else txr 0) + o + 0x20 * n

/-- The offsets of CFG, TAIL, HEAD, CLEAN or CONS, and the counter in a ring's block. -/
abbrev rgCfg : Nat := 0x048
abbrev rgTail : Nat := 0x04C
abbrev rgHead : Nat := 0x050
abbrev rgClean : Nat := 0x054
abbrev rgCnt : Nat := 0x058

/-- The number of descriptors of a ring. -/
def State.ringSize (s : State) (rx : Bool) (n : Nat) : Nat := 2 ^ clampTo 4 12 (s.rdF (ringReg rx n rgCfg) 0 4)

/-- An index of a ring. -/
def State.ringIdx (s : State) (rx : Bool) (n o : Nat) : Nat := s.rdF (ringReg rx n o) 0 12

/-- A ring runs: its EN, the enable of its direction, and the endpoint. -/
def State.ringOn (s : State) (rx : Bool) (n : Nat) : Bool :=
  s.hostOn && s.pcieUp && s.rdB (hdm HDM_CTRL) (b2n rx) && s.rdB (ringReg rx n rgCfg) 31

/-- A ring holds descriptors for the device. -/
def State.ringHas (s : State) (rx : Bool) (n : Nat) : Bool :=
  s.ringOn rx n && s.ringIdx rx n rgHead != s.ringIdx rx n rgTail % s.ringSize rx n

/-- The host address of the descriptor at HEAD: 32 bytes each, the base aligned to 128 bytes. -/
def State.descAddr (s : State) (rx : Bool) (n : Nat) : Nat :=
  s.rd64 (ringReg rx n 0x040) (ringReg rx n 0x044) / 128 * 128 + 32 * s.ringIdx rx n rgHead

/-- The level source of a ring (R370). -/
def ringSource (rx : Bool) (n : Nat) : Nat := (if rx then 0x320 else 0x300) + n

/-- A change of a ring's indices: the rise of its level condition is an edge (R371). -/
def State.ringEdge (s : State) (rx : Bool) (n : Nat) (f : State → State) : State :=
  let was := s.srcRaw (ringSource rx n)
  let t := f s
  t.when (!was && t.srcRaw (ringSource rx n)) fun u => u.edge (ringSource rx n)

/-- HEAD advances by one. -/
def State.advHead (s : State) (rx : Bool) (n : Nat) : State :=
  s.ringEdge rx n fun t => t.wrF (ringReg rx n rgHead) 0 12 ((t.ringIdx rx n rgHead + 1) % t.ringSize rx n)

/-- A write of a ring's CFG: EN rising resets its indices.
(DEDUCED, log entry 58) -/
def State.ringCfgWrite (s : State) (rx : Bool) (n : Nat) (v : Word) : State :=
  let on := s.rdB (ringReg rx n rgCfg) 31
  let s1 := (s.wrF (ringReg rx n rgCfg) 0 4 (fld v 0 4)).wrB (ringReg rx n rgCfg) 31 (bit v 31)
  s1.when (bit v 31 && !on) fun t =>
    ((t.wrF (ringReg rx n rgTail) 0 12 0).wrF (ringReg rx n rgHead) 0 12 0).wrF (ringReg rx n rgClean) 0 12 0

/-- A write of CLEAN or CONS, which may make the ring's condition rise. -/
def State.ringCleanWrite (s : State) (rx : Bool) (n : Nat) (v : Word) : State :=
  s.ringEdge rx n fun t => t.wrF (ringReg rx n rgClean) 0 12 (fld v 0 12)

/-- RING_ENABLE: EN is set. -/
def execRingEnable (rx : Bool) (n : Fin 32) (s : State) : Host.Outcome State Fault Refusal :=
  .next (s.guarded (ringReg rx n.val rgCfg) fun t => t.ringCfgWrite rx n.val (setBit (t.rd (ringReg rx n.val rgCfg)) 31 true))

/-- TX_TAIL_WRITE. -/
def execTxTailWrite (n : Fin 32) (value : Word) (s : State) : Host.Outcome State Fault Refusal :=
  .next (s.guarded (ringReg false n.val rgTail) fun t => t.wrF (ringReg false n.val rgTail) 0 12 (fld value 0 12))

/-- RX_TAIL_WRITE. -/
def execRxTailWrite (n : Fin 32) (value : Word) (s : State) : Host.Outcome State Fault Refusal :=
  .next (s.guarded (ringReg true n.val rgTail) fun t => t.wrF (ringReg true n.val rgTail) 0 12 (fld value 0 12))

/-! ## Frames from the host (R403) -/

/-- The frame of a descriptor as it goes out: FCS appended, padded to 64 bytes. -/
def descEth (d : TxDesc) : Eth := { d.frame with len := max 64 (d.len + 4) }

/-- Refusals of admission so far (R286). -/
def State.refusals (s : State) : Nat :=
  (([0, 1] : List Nat).map fun d => (s.rd (buf d BUF_CNT_TAILDROP)).toNat + (s.rd (buf d BUF_CNT_NOCELL)).toNat).sum

/-- A frame with DIRECT is queued on its port in its class, without VLAN, lookup or translation. -/
def State.sendDirect (s : State) (d : TxDesc) : State :=
  let p := d.port.val
  let e : QEnt :=
    { id := s.fw.nextId, port := p, cls := d.cls.val, frame := .eth (descEth d), len := (descEth d).len, pfc := none, hdrm := false
      held := false }
  (s.takeIn (s.freeCells (p / 32)) e).newGroup

/-- The port of a DIRECT frame can take it. -/
def State.directUp (s : State) (p : Nat) : Bool :=
  s.crosses 0 p && s.portOn p && (if isBackbone s.part p then s.lock p else s.link p)

/-- A frame of a descriptor is sent or dropped; the code of the write-back.
(DEDUCED, log entry 58) -/
def State.sendDesc (s : State) (d : TxDesc) : State × Nat :=
  if d.len < 14 ∨ 9212 < d.len then (s, 2)
  else if d.direct then (if s.directUp d.port.val then ((s.sendDirect d), 0) else (s, 4))
  else (s.fromHost d.cls.val (descEth d) none, 0)

/-- The write-back of a TX descriptor, and HEAD advanced.
(DEDUCED, log entry 58) -/
def State.txBack (s : State) (n code : Nat) (st : Word) : State :=
  (s.emit (.hostWrite (s.descAddr false n + 16) [wordOf (1 + 2 * code), st])).advHead false n

/-- The device has done a TX descriptor. -/
def State.txDone (s : State) (n : Nat) (d : TxDesc) (st : Word) : State :=
  let (t, c) := s.sendDesc d
  let code := if c = 0 ∧ s.refusals < t.refusals ∧ t.fw.queue.length ≤ s.fw.queue.length then 1 else c
  (t.txBack n code (if d.tsReq ∧ code = 0 then (if d.direct then s.txStamp d.port.val st else st) else 0)).when (code == 0) fun u => u.count (txr (HDM_TX_CNT n))

/-- TX_DESCRIPTOR_DONE. -/
def execTxDescriptorDone (n : Fin 32) (d : TxDesc) (st : Word) (s : State) : Host.Outcome State Fault Refusal :=
  .next (s.when (s.ringHas false n.val) fun t => t.txDone n.val d st)

/-! ## Frames to the host (R404) -/

/-- The code of a reason. -/
def RxReason.code : RxReason → Nat
  | .forwarded => 1
  | .gptp => 2
  | .notRoutable => 3
  | .ttl => 4
  | .arp => 5
  | .arpMiss => 6

/-- The ring that a frame's class or reason selects.
(DEDUCED, log entry 58) -/
def State.rxRing (s : State) (reason : RxReason) (cls : Nat) : Nat :=
  let byte (k : Nat) (a0 a1 : Nat) : Nat := s.rdF (if k < 4 then a0 else a1) (8 * (k % 4)) 5
  if reason = .forwarded then byte cls (hdm HDM_RX_MAP_CLS0) (hdm HDM_RX_MAP_CLS1)
  else byte (RxReason.code reason - 2) (hdm HDM_RX_MAP_RSN0) (hdm HDM_RX_MAP_RSN1)

/-- The frame leaves the list of frames that wait for the host.
(DEDUCED, log entry 37) -/
def State.takeToHost (s : State) (f : HostFrame) : State :=
  { s with fw := { s.fw with toHost := s.fw.toHost.erase f } }

/-- A frame for the host is written to the buffer of its ring's next descriptor, with the write-back; without a free buffer it is
dropped. -/
def State.rxToHost (s : State) (f : HostFrame) (d : RxDesc) : State :=
  let n := s.rxRing f.reason f.cls
  if s.ringHas true n then
    let ts := s.rdB (prt f.port PRT_PTP_CFG) 1
    let trunc := decide (clampTo 64 65535 d.size < f.frame.len - 4)
    let vid := s.vidOf f.port f.frame
    let w4 := wordOf (f.frame.len - 4 + f.port * 2 ^ 16 + RxReason.code f.reason * 2 ^ 24)
    let w6 := wordOf (f.cls + (1 + 2 * b2n trunc + 4 * b2n ts) * 2 ^ 8 + vid * 2 ^ 16)
    ((s.emit (.toHost n (.eth f.frame) (RxReason.code f.reason))).emit
      (.hostWrite (s.descAddr true n + 16) [w4, if ts then f.sof else 0, w6])).advHead true n
  else (s.count (rxr (HDM_RX_DROP n))).raise (hdm 0) 1

/-- RX_FRAME_TO_HOST. -/
def execRxFrameToHost (p : Port) (reason : RxReason) (cls : Fin 8) (e : Eth) (sof : Word) (d : RxDesc) (s : State) :
    Host.Outcome State Fault Refusal :=
  let f : HostFrame := { port := p.val, reason := reason, cls := cls.val, frame := e, sof := sof }
  .next (s.when (s.dieUp 0) fun t => (t.takeToHost f).rxToHost f d)

/-! ## DMA errors (R405) -/

/-- A completion error or poisoned data on a descriptor fetch or a TX buffer read stops the ring; a TX descriptor whose buffer could
not be read is written back with its code first (R403).
(DEDUCED, log entry 58) -/
def State.dmaError (s : State) (rx : Bool) (n : Nat) (buffer : Bool) (addr : Nat) : State :=
  let s1 := s.when (buffer && !rx) fun t => t.txBack n 3 0
  let s2 := (s1.wrB (ringReg rx n rgCfg) 31 false).wr (hdm HDM_DMA_ERR) (wordOf (n + b2n rx * 2 ^ 5 + b2n buffer * 2 ^ 8))
  (s2.wr64 (hdm HDM_DMA_ERR_ADDR_LO) (hdm HDM_DMA_ERR_ADDR_HI) addr).raise (hdm 0) 0

/-- DMA_ERROR. -/
def execDmaError (rx : Bool) (n : Fin 32) (buffer : Bool) (addr : BitVec 64) (s : State) : Host.Outcome State Fault Refusal :=
  .next (s.when (s.ringHas rx n.val && !(rx && buffer)) fun t => t.dmaError rx n.val buffer addr.toNat)

end Sys2Proof.Machine
end

