-- ==== Sys2Proof/Machine/Secure.lean ====
section
/-! DEFINITION. Security: the meanings of the commands on MACsec slots, OTP, the debug unlock and the page locks (R423 to
R437). -/

namespace Sys2Proof.Machine

/-! ## MACsec slots (R426, R427) -/

/-- The part has MACsec port `m` on die `d` (R424). -/
def hasSa (pt : Part) (d m : Nat) : Bool := if pt.twoDies then decide (m < 3) else d == 0 && decide (m < 5)

/-- A write of SEC_PORT_TXSA: discarded with SA_REJ where the slot is not VALID. -/
def State.txsaWrite (s : State) (d m slot : Nat) : State :=
  if s.slotValid d m false slot then s.wrF (sa d m SEC_PORT_TXSA) 0 3 slot else s.raise (sa d m 0) 0

/-- TXSA_SELECT. -/
def execTxsaSelect (d : Sys2Proof.Die) (m : Fin 5) (slot : Fin 8) (s : State) : Host.Outcome State Fault Refusal :=
  .next (s.when (hasSa s.part (dieNum d) m.val) fun t =>
    t.guarded (sa (dieNum d) m.val SEC_PORT_TXSA) fun u => u.txsaWrite (dieNum d) m.val slot.val)

/-- Two receive slots of a port would be VALID with one SCI and AN: slot `slot` with these, and another. -/
def State.saConflict (s : State) (d m slot an sci : Nat) : Bool :=
  (List.range 8).any fun k =>
    k != slot && s.slotValid d m true k && s.rdF (slotReg d m true k 0) 1 2 == an
      && s.rd64 (slotReg d m true k 0x10) (slotReg d m true k 0x14) == sci

/-- The SCI of a receive slot. -/
def State.rxSci (s : State) (d m slot : Nat) : Nat := s.rd64 (slotReg d m true slot 0x10) (slotReg d m true slot 0x14)

/-- A write of a slot's CTRL: clearing VALID zeroes the slot's key and salt, and a conflict is discarded with SA_CONFLICT. -/
def State.saCtrlWrite (s : State) (d m : Nat) (rx : Bool) (slot : Nat) (v : Word) : State :=
  if rx && bit v 0 && s.saConflict d m slot (fld v 1 2) (s.rxSci d m slot) then s.raise (sa d m 0) 1
  else
    let s1 := if !bit v 0 && s.slotValid d m rx slot then s.clearSlot d m rx slot else s
    s1.wrF (slotReg d m rx slot 0) 0 3 (fld v 0 3)

/-- SA_CTRL_WRITE. -/
def execSaCtrlWrite (d : Sys2Proof.Die) (m : Fin 5) (rx : Bool) (slot : Fin 8) (value : Word) (s : State) :
    Host.Outcome State Fault Refusal :=
  .next (s.when (hasSa s.part (dieNum d) m.val) fun t =>
    t.guarded (slotReg (dieNum d) m.val rx slot.val 0) fun u => u.saCtrlWrite (dieNum d) m.val rx slot.val value)

/-- A write of half a receive slot's SCI, which must not make two VALID slots alike (R426). -/
def State.saSciWrite (s : State) (d m slot : Nat) (hi : Bool) (v : Word) : State :=
  let a := slotReg d m true slot (if hi then 0x14 else 0x10)
  let t := s.wr a v
  if s.slotValid d m true slot && t.saConflict d m slot (s.rdF (slotReg d m true slot 0) 1 2) (t.rxSci d m slot) then s.raise (sa d m 0) 1
  else t

/-- A write of a key or salt word: discarded with SA_REJ while the slot is VALID. -/
def State.saKeyWrite (s : State) (d m : Nat) (rx : Bool) (slot a : Nat) (v : Word) : State :=
  if s.slotValid d m rx slot then s.raise (sa d m 0) 0 else s.wr a v

/-- SA_KEY_WRITE: key words 0 to 7, salt words 0 to 2. -/
def execSaKeyWrite (d : Sys2Proof.Die) (m : Fin 5) (rx : Bool) (slot : Fin 8) (salt : Bool) (k : Fin 8) (value : Word) (s : State) :
    Host.Outcome State Fault Refusal :=
  let a := slotReg (dieNum d) m.val rx slot.val ((if salt then 0x40 else 0x20) + 4 * k.val)
  .next (s.when (hasSa s.part (dieNum d) m.val && (!salt || k.val < 3)) fun t =>
    t.guarded a fun u => u.saKeyWrite (dieNum d) m.val rx slot.val a value)

/-! ## OTP (R430, R431) -/

/-- An OTP bit that software must not program: the bytes that Umlunal programs, and the reserved ones above 0x07F. -/
def otpReserved (b : Nat) : Bool := (decide (0x048 ≤ b / 8) && decide (b / 8 < 0x050)) || decide (0x080 ≤ b / 8)

/-- A write of SEC_OTP_PROG on the unlocked page: with GO it starts programming where it may, else it is rejected.
(DEDUCED, log entry 50) -/
def State.otpProgWrite (s : State) (v : Word) : State :=
  let b := fld v 0 12
  if !bit v 31 then s.wrF (sec 0 SEC_OTP_PROG) 0 12 b
  else if s.mode != .maintenance || otpReserved b || s.se.otpBusy.isSome then s.raise (sec 0 0) 1
  else
    let t := (s.wrF (sec 0 SEC_OTP_PROG) 0 12 b).wrB (sec 0 SEC_OTP_PROG) 30 true
    ({ t with se := { t.se with otpBusy := some b } } : State).arm (tmr (sec 0 SEC_OTP_PROG) 0) (100 * us)

/-- A write of SEC_OTP_PROG: on the locked page one with GO also sets OTP_REJ. -/
def State.otpProg (s : State) (v : Word) : State :=
  let lock := s.locked (sec 0 SEC_OTP_PROG)
  (s.guarded (sec 0 SEC_OTP_PROG) fun t => t.otpProgWrite v).when (s.dieUp 0 && lock && bit v 31) fun t => t.raise (sec 0 0) 1

/-- OTP_PROGRAM. -/
def execOtpProgram (bit : Fin 4096) (s : State) : Host.Outcome State Fault Refusal :=
  .next (s.otpProg (wordOf (2 ^ 31 + bit.val)))

/-- Programming ends: the bit is 1, and the OTP image is loaded again. -/
def State.otpDone (s : State) (b : Nat) : State :=
  let s1 := s.setOtpW (b / 32) (setBit (s.otpW (b / 32)) (b % 32) true)
  let s2 : State := { s1 with se := { s1.se with otpBusy := none } }
  (s2.wrB (sec 0 SEC_OTP_PROG) 30 false).loadOtp

/-- OTP_PROGRAM_DONE: 100 µs after GO. -/
def execOtpProgramDone (s : State) : Host.Outcome State Fault Refusal :=
  .next (match s.se.otpBusy with | some b => (s.expire (tmr (sec 0 SEC_OTP_PROG) 0)).otpDone b | none => s)

/-- The 32 bytes of OTP from word `i` on as a SHA-256 digest, first byte most significant.
(DEDUCED, log entry 50) -/
def State.otpHash (s : State) (i : Nat) : BitVec 256 :=
  BitVec.ofNat 256 ((List.range 8).foldl (fun n k =>
    let w := s.otpW (i + k)
    n * 2 ^ 32 + (fld w 0 8 * 2 ^ 24 + fld w 8 8 * 2 ^ 16 + fld w 16 8 * 2 ^ 8 + fld w 24 8)) 0)

/-! ## Debug unlock (R432) -/

/-- A new challenge is drawn from the random source: free values. -/
def State.drawChallenge (s : State) : State :=
  s.each (fun i t => (t.wr (sec 0 (SEC_JTAG_CHAL i)) t.fresh).useFree) [0, 1, 2, 3]

/-- JTAG_CHALLENGE_READ: a read of SEC_JTAG_CHAL0 answers the new challenge's first word. -/
def execJtagChallengeRead (agent : Agent) (s : State) : Host.Outcome State Fault Refusal :=
  .next (s.when (s.dieUp 0) fun t =>
    let t1 := (t.access (sec 0 (SEC_JTAG_CHAL 0))).drawChallenge
    t1.emit (.read agent (sec 0 (SEC_JTAG_CHAL 0)) (t1.rd (sec 0 (SEC_JTAG_CHAL 0)))))

/-- An address of a MACsec slot. -/
def inSlot (a : Nat) : Bool :=
  decide (a < 0x08000000) && decide (0x1D1 ≤ a % 0x04000000 / 0x1000) && decide (a % 0x04000000 / 0x1000 < 0x1D6)
    && decide (0x100 ≤ a % 0x1000)

/-- Every MACsec slot of both dies is zeroed. -/
def State.zeroSlots (s : State) : State := { s with regs := Sparse.drop inSlot s.regs }

/-- The bytes of `n` registers from `a` on, the least significant byte of each first.
(DESIGN CHOICE, log entry 49) -/
def State.regBytes (s : State) (a n : Nat) : List Byte := wordBytes ((List.range n).map fun i => s.rd (a + 4 * i))

/-- What the debug key signs: the challenge followed by the UID.
(DESIGN CHOICE, log entry 49) -/
def State.challengeBytes (s : State) : List Byte := s.regBytes (sec 0 (SEC_JTAG_CHAL 0)) 4 ++ wordBytes [s.otpW 18, s.otpW 19]

/-- The public key that the response carries. -/
def State.debugKey (s : State) : List Byte := s.regBytes (sec 0 (SEC_JTAG_RESP 16)) 16

/-- The response verifies: its signature over the SHA-256 of challenge and UID, and its key's SHA-256 against OTP. -/
def State.responseOk (s : State) : Bool :=
  Config.sha256 s.debugKey == s.otpHash 24 &&
    Config.ecdsaOk s.debugKey (Config.sha256 s.challengeBytes) (s.regBytes (sec 0 (SEC_JTAG_RESP 0)) 16)

/-- A write of SEC_JTAG_CTRL.GO: on success the TAP opens; a failure is counted and blocks GO.
(DESIGN CHOICE, log entry 49) -/
def State.jtagGo (s : State) : State :=
  if s.se.jtagBlocked then s
  else if s.responseOk then ((((s.zeroSlots).wrB (sec 0 SEC_STAT) 1 true).wrB (sec 0 SEC_JTAG_STAT) 1 false)).emit .tapOpen
  else
    let t := ((s.wrB (sec 0 SEC_JTAG_STAT) 1 true).countF (sec 0 SEC_JTAG_STAT) 8 8).raise (sec 0 0) 2
    ({ t with se := { t.se with jtagBlocked := true } } : State).arm (tmr (sec 0 SEC_JTAG_CTRL) 0) (1000 * ms)

/-- JTAG_UNLOCK. -/
def execJtagUnlock (s : State) : Host.Outcome State Fault Refusal :=
  .next (s.guarded (sec 0 SEC_JTAG_CTRL) State.jtagGo)

/-- JTAG_BLOCK_EXPIRY: 1 s after a failure GO is taken again. -/
def execJtagBlockExpiry (s : State) : Host.Outcome State Fault Refusal :=
  .next (s.when s.se.jtagBlocked fun t =>
    let u := t.expire (tmr (sec 0 SEC_JTAG_CTRL) 0)
    { u with se := { u.se with jtagBlocked := false } })

/-! ## Page locks (R433, R434) -/

/-- A write of PG_LOCK of a page: 0x0000_C0DE sets the count to 256, any other value to 0. Pages without a lock ignore it. -/
def State.lockWrite (s : State) (page : Nat) (v : Word) : State :=
  if lockPage page = some page then s.wrF (page + PG_LOCK) 0 9 (if v = 0xC0DE then 256 else 0) else s

/-- PAGE_UNLOCK. -/
def execPageUnlock (page : Nat) (s : State) : Host.Outcome State Fault Refusal :=
  .next (s.guarded (pageBase page + PG_LOCK) fun t => t.lockWrite (pageBase page) 0xC0DE)

/-- PAGE_LOCK. -/
def execPageLock (page : Nat) (value : Word) (s : State) : Host.Outcome State Fault Refusal :=
  .next (s.guarded (pageBase page + PG_LOCK) fun t => t.lockWrite (pageBase page) value)

end Sys2Proof.Machine
end

