-- ==== Sys2Proof/Machine/Swatch.lean ====
section
/-! DEFINITION. The swatch tests (R447 to R455, R458). -/

namespace Sys2Proof.Machine

/-! ## Lanes (R57, R447) -/

/-- The die of a lane. -/
def laneDie (n : Nat) : Nat := n / 12

/-- The ports of a lane by lane index. -/
def lanePorts (pt : Part) (n : Nat) : List Nat :=
  ((List.range 64).filter fun p => decide (p < pt.ports) && portLane p == n)

/-- A lane of this die: it has ports of the part, or is a twin lane. -/
def laneHeld (pt : Part) (d n : Nat) : Bool := decide (n < 24) && laneDie n == d && (n % 12 == 4 && decide (d = 0 ∨ pt.twoDies) || !(lanePorts pt n).isEmpty)

/-- A port's engine is enabled. -/
def State.portEn (s : State) (p : Nat) : Bool := s.rdB (prt p PG_CTRL) 0

/-- An idle lane carries no frames (R447). -/
def State.laneIdle (s : State) (n : Nat) : Bool :=
  if n % 12 = 4 then !s.rdB (twn 0 TWN_CFG) 0 || !s.laneUp (n / 12)
  else (lanePorts s.part n).all (fun p => !s.portEn p) || (lanePorts s.part n).all fun p => !s.link p

/-! ## Requests (R448) -/

/-- What decides a request: the target is held, the test needs MAINTENANCE. -/
structure SwReq where
  die : Nat
  code : Nat
  target : Nat
  held : Bool
  offline : Bool
  deriving DecidableEq, Repr

/-- The same test runs or is pending on its target; the bank test has one target, its pass. -/
def State.swRuns (s : State) (r : SwReq) : Bool :=
  s.sw.tests.any fun t => t.code == 8 || (t.die == r.die && t.code == r.code && (r.code == 1 || t.target == r.target))

/-- The status of a request. -/
def State.swStatus (s : State) (r : SwReq) : Nat :=
  if !r.held then 3 else if r.offline ∧ s.mode ≠ .maintenance then 1 else if s.swRuns r then 2 else 0

/-- A test is recorded as running. -/
def State.swAdd (s : State) (r : SwReq) : State :=
  let t := s.wrB (swt r.die SWT_RUN) r.code true
  { t with sw := { t.sw with tests := t.sw.tests ++ [{ die := r.die, code := r.code, target := r.target, offline := r.offline }] } }

/-- A request is answered: refused with REQ_REF, or accepted and started. -/
def State.swRequest (s : State) (r : SwReq) (start : State → State) : State :=
  let t := (s.wr (swt r.die SWT_REQ) (wordOf (r.code + r.target * 256))).wr (swt r.die SWT_REQ_STAT) (wordOf (s.swStatus r))
  if s.swStatus r = 0 then start (t.swAdd r) else t.raise (swt r.die 0) 3

/-- A test ends: it no longer runs, and DONE is set. -/
def State.swEnd (s : State) (d code target : Nat) : State :=
  let l := s.sw.tests.filter fun t => !(t.die == d && t.code == code && t.target == target)
  let t := { s with sw := { s.sw with tests := l } }
  (t.wrB (swt d SWT_RUN) code (l.any fun x => x.die == d && x.code == code)).raise (swt d 0) 0

/-- A test runs on a die: its target. -/
def State.swTarget (s : State) (d code : Nat) : Option Nat := (s.sw.tests.find? fun t => t.die == d && t.code == code).map (·.target)

/-! ## BUF_BIST (R450) -/

def State.bist (s : State) (d : Nat) : BistPhase := if d = 0 then s.sw.bist0 else s.sw.bist1
def State.setBist (s : State) (d : Nat) (p : BistPhase) : State :=
  ({ s with sw := if d = 0 then { s.sw with bist0 := p } else { s.sw with bist1 := p } }).evalBuf d

/-- The bank under test.
(DEDUCED, log entry 61) -/
def State.bistBank (s : State) (d : Nat) : Nat := s.rdF (swt d SWT_BIST_STAT) 0 4

/-- The first bank from `n` on that is in service. -/
def State.bankFrom (s : State) (d n : Nat) : Option Nat :=
  (List.range 16).find? fun k => decide (n ≤ k) && !s.rdB (swt d SWT_BIST_STAT) (16 + k)

/-- The timer of a die's BIST: the end of DRAIN or of GAP. -/
abbrev bistTmr (d : Nat) : Nat := tmr (swt d SWT_BIST_CFG) 0

/-- A bank's test starts: the allocator takes no new cells from it.
(DEDUCED, log entry 61) -/
def State.bistStart (s : State) (d k : Nat) : State :=
  (((s.wrF (swt d SWT_BIST_STAT) 0 4 k).wrB (swt d SWT_BIST_STAT) 4 true).setBist d .draining).arm (bistTmr d)
    (atLeast1 (s.rdF (swt d SWT_BIST_CFG) 16 8) * ms)

/-- The pause of AUTO before the next bank's test: GAP seconds. -/
def State.bistPause (s : State) (d : Nat) : State := (s.setBist d .gap).arm (bistTmr d) (atLeast1 (s.rdF (swt d SWT_BIST_CFG) 8 8) * 1000 * ms)

/-- A pass is over: with AUTO the next one follows after GAP, else the test ends. -/
def State.passDone (s : State) (d : Nat) : State :=
  let t := s.wr (swt d SWT_BIST_PASS) (s.rd (swt d SWT_BIST_PASS) + 1)
  if t.rdB (swt d SWT_BIST_CFG) 0 then (t.wrF (swt d SWT_BIST_STAT) 0 4 15).bistPause d
  else
    let u := (t.wrB (swt d SWT_BIST_STAT) 4 false).setBist d .idle
    match u.swTarget d 1 with
    | some k => u.swEnd d 1 k
    | none => u

/-- A bank's test has ended: with AUTO the next one waits for GAP, else it starts at once. -/
def State.bankDone (s : State) (d : Nat) : State :=
  match s.bankFrom d (s.bistBank d + 1) with
  | none => s.passDone d
  | some k => if s.rdB (swt d SWT_BIST_CFG) 0 then s.bistPause d else s.bistStart d k

/-- BUF_BIST: a pass starts from bank 0. -/
def State.bufBist (s : State) (d bank : Nat) : State :=
  s.swRequest { die := d, code := 1, target := bank, held := decide (bank < 16), offline := false } fun t =>
    match t.bankFrom d 0 with
    | some k => t.bistStart d k
    | none => t.passDone d

def execBufBist (d : Sys2Proof.Die) (bank : BitVec 6) (s : State) : Host.Outcome State Fault Refusal :=
  .next (s.guarded (swt (dieNum d) SWT_REQ) fun t => t.bufBist (dieNum d) bank.toNat)

/-- BIST_BANK_DRAINED: the march test runs. -/
def execBistBankDrained (d : Sys2Proof.Die) (s : State) : Host.Outcome State Fault Refusal :=
  .next (s.when (s.dieUp (dieNum d) && s.bist (dieNum d) == .draining) fun t => (t.setBist (dieNum d) .march).disarm (bistTmr (dieNum d)))

/-- BIST_DRAIN_TIMEOUT: the bank is skipped and returns to service. -/
def execBistDrainTimeout (d : Sys2Proof.Die) (s : State) : Host.Outcome State Fault Refusal :=
  .next (s.when (s.dieUp (dieNum d) && s.bist (dieNum d) == .draining) fun t0 =>
    let t := t0.expire (bistTmr (dieNum d))
    ((t.countF (swt (dieNum d) SWT_BIST_STAT) 8 8).setBist (dieNum d) .gap).bankDone (dieNum d))

/-- BIST_BANK_DONE: the bank returns to service, or stays out with BIST_FAIL. -/
def execBistBankDone (d : Sys2Proof.Die) (pass : Bool) (s : State) : Host.Outcome State Fault Refusal :=
  .next (s.when (s.dieUp (dieNum d) && s.bist (dieNum d) == .march) fun t =>
    let k := dieNum d
    let u := if pass then t else (t.wrB (swt k SWT_BIST_STAT) (16 + t.bistBank k) true).raise (swt k 0) 1
    (u.setBist k .gap).bankDone k)

/-- BIST_GAP_EXPIRY: the next bank's test starts. -/
def execBistGapExpiry (d : Sys2Proof.Die) (s : State) : Host.Outcome State Fault Refusal :=
  .next (s.when (s.dieUp (dieNum d) && s.bist (dieNum d) == .gap) fun t0 =>
    let k := dieNum d
    let t := t0.expire (bistTmr k)
    match t.bankFrom k ((t.bistBank k + 1) % 16) with
    | some b => t.bistStart k b
    | none => match t.bankFrom k 0 with
      | some b => t.bistStart k b
      | none => t.passDone k)

/-! ## Lanes: EYE_SCAN and TS_CAL (R451, R452) -/

/-- A request for a lane's test, online on an idle lane. -/
def State.laneReq (s : State) (d code lane : Nat) : SwReq :=
  { die := d, code := code, target := lane, held := laneHeld s.part d lane, offline := !s.laneIdle lane }

def State.eyeScan (s : State) (d lane : Nat) : State := s.swRequest (s.laneReq d 2 lane) id

def execEyeScan (d : Sys2Proof.Die) (lane : BitVec 6) (s : State) : Host.Outcome State Fault Refusal :=
  .next (s.guarded (swt (dieNum d) SWT_REQ) fun t => t.eyeScan (dieNum d) lane.toNat)

/-- EYE_SCAN_DONE: the openings are written. -/
def execEyeScanDone (d : Sys2Proof.Die) (horizontal vertical : Byte) (s : State) : Host.Outcome State Fault Refusal :=
  let k := dieNum d
  .next (match s.swTarget k 2 with
    | some n => s.when (s.dieUp k) fun t =>
        (t.wr (swt k SWT_EYE_RES) (wordOf (horizontal.toNat + vertical.toNat * 256 + n % 32 * 65536 + 2 ^ 31))).swEnd k 2 n
    | none => s)

def State.tsCal (s : State) (d lane : Nat) : State := s.swRequest (s.laneReq d 4 lane) id

def execTsCal (d : Sys2Proof.Die) (lane : BitVec 6) (s : State) : Host.Outcome State Fault Refusal :=
  .next (s.guarded (swt (dieNum d) SWT_REQ) fun t => t.tsCal (dieNum d) lane.toNat)

/-- Two latencies differ by more than a tolerance. -/
def latBeyond (a b tol : Nat) : Bool := decide (a + tol < b ∨ b + tol < a)

/-- TS_CAL_DONE: the latencies are written, applied, and compared with the lane's OTP entry. -/
def execTsCalDone (d : Sys2Proof.Die) (rxLat txLat : BitVec 16) (s : State) : Host.Outcome State Fault Refusal :=
  let k := dieNum d
  .next (match s.swTarget k 4 with
    | some n => s.when (s.dieUp k) fun t =>
        let w := t.laneLat n
        let tol := t.rdF (swt k SWT_TSCAL_CFG) 4 12
        let t1 := t.wr (swt k SWT_TSCAL_RES) (wordOf (rxLat.toNat + txLat.toNat * 65536))
        let t2 := if t1.rdB (swt k SWT_TSCAL_CFG) 0 then
            t1.each (fun p u => (u.wr (prt p PRT_PTP_RXLAT) (wordOf rxLat.toNat)).wr (prt p PRT_PTP_TXLAT) (wordOf txLat.toNat)) (lanePorts t1.part n)
          else t1
        let t3 := t2.when (latBeyond rxLat.toNat (fld w 0 16) tol || latBeyond txLat.toNat (fld w 16 16) tol) fun u => u.raise (swt k 0) 2
        t3.swEnd k 4 n
    | none => s)

/-! ## COIL (R453) -/

/-- COIL: the relay's COIL_REQ is written; the test runs until the keeper's result arrives. -/
def State.coilSwatch (s : State) (d relay : Nat) : State :=
  s.swRequest { die := d, code := 3, target := relay, held := decide (relay < 4) && lineDie s.part (relay / 2) == d, offline := false } fun t =>
    t.wrB (kby KBY_STAT) (16 + relay) true

def execCoilSwatch (d : Sys2Proof.Die) (relay : BitVec 6) (s : State) : Host.Outcome State Fault Refusal :=
  .next (s.guarded (swt (dieNum d) SWT_REQ) fun t => t.coilSwatch (dieNum d) relay.toNat)

/-! ## LBIST (R454) -/

/-- LBIST: for register access the die counts as in reset.
(DEDUCED, log entry 17) -/
def State.lbist (s : State) (d : Nat) : State :=
  s.swRequest { die := d, code := 8, target := 0, held := true, offline := true } fun t =>
    (t.when (d == 1) fun u => u.linkLost true).wrB (kps KPS_STAT) (8 + d) true

def execLbist (d : Sys2Proof.Die) (s : State) : Host.Outcome State Fault Refusal :=
  .next (s.guarded (swt (dieNum d) SWT_REQ) fun t => t.lbist (dieNum d))

/-- LBIST_DONE: the test ends in a reset of its die. -/
def execLbistDone (d : Sys2Proof.Die) (pass : Bool) (s : State) : Host.Outcome State Fault Refusal :=
  .next (s.when ((s.swTarget (dieNum d) 8).isSome) fun t => t.lbistEnd (dieNum d) (wordOf (1 + b2n pass * 2)))

/-! ## EXT_LOOP (R455) -/

/-- The frames and their length. -/
def State.loopCount (s : State) (d : Nat) : Nat := s.rdF (swt d SWT_LOOP_CFG) 0 16
def State.loopLen (s : State) (d : Nat) : Nat := clampTo 64 9216 (s.rdF (swt d SWT_LOOP_CFG) 16 14)

/-- EXT_LOOP: COUNT frames with a counting pattern leave the port. -/
def State.extLoop (s : State) (d port : Nat) : State :=
  s.swRequest { die := d, code := 9, target := port, held := decide (port < s.part.ports) && port / 32 == d, offline := true } fun t =>
    let u := (t.statBy (portCtr port 26) (t.loopCount d)).statBy (portCtr port 27) (t.loopCount d * t.loopLen d)
    u.emit (.tx port (.loop (u.loopLen d) (u.loopCount d)))

def execExtLoop (d : Sys2Proof.Die) (port : BitVec 6) (s : State) : Host.Outcome State Fault Refusal :=
  .next (s.guarded (swt (dieNum d) SWT_REQ) fun t => t.extLoop (dieNum d) port.toNat)

/-- EXT_LOOP_DONE: the frames sent, received and in error are written. -/
def execExtLoopDone (d : Sys2Proof.Die) (received errors : Word) (s : State) : Host.Outcome State Fault Refusal :=
  let k := dieNum d
  .next (match s.swTarget k 9 with
    | some n => s.when (s.dieUp k) fun t =>
        (((((t.wr (swt k SWT_LOOP_SENT) (wordOf (t.loopCount k))).wr (swt k SWT_LOOP_RCVD) received).wr (swt k SWT_LOOP_ERR) (errors &&& 0x7FFFFFFF)).statBy
          (portCtr n 0) received.toNat).statBy (portCtr n 1) (received.toNat * t.loopLen k)).swEnd k 9 n
    | none => s)

/-! ## A write of SWT_REQ -/

/-- A write of SWT_REQ: with GO the request is answered. -/
def State.swWrite (s : State) (d : Nat) (v : Word) : State :=
  let code := fld v 0 4
  let target := fld v 8 6
  if !bit v 31 then s.wr (swt d SWT_REQ) (v &&& 0x3F0F)
  else if code = 1 then s.bufBist d target
  else if code = 2 then s.eyeScan d target
  else if code = 3 then s.coilSwatch d target
  else if code = 4 then s.tsCal d target
  else if code = 8 then s.lbist d
  else if code = 9 then s.extLoop d target
  else s.swRequest { die := d, code := code, target := target, held := false, offline := false } id

end Sys2Proof.Machine
end

