-- ==== Sys2Proof/Machine/Wake.lean ====
section
/-! DEFINITION. The meanings of the commands of Network Sleep and Wake (R356 to R369). -/

namespace Sys2Proof.Machine

/-- The body of the KEEPALIVE that the node sends (R358). -/
def State.keepAlive (s : State) : KeepAlive :=
  { uid := s.uid, need := s.need, bindoff := s.rdB (kpr KPR_MODE) 4, sources := BitVec.ofNat 3 (s.rdF (kwk KWK_NEED) 0 3)
    endSt := if s.rdB (kpr KPR_MODE) 4 then s.rd (kwk KWK_BO_END) else 0 }

/-- A KEEPALIVE leaves, while rows run in the first gap as a TURN_NOTICE does, and the next one follows KA_PER later, or in bind-off
100 ms later (R357, R358). A period that runs has to end first: one that is due at once finds none running. -/
def State.sendKeepalive (s : State) : State :=
  (s.expire kaPerTmr).inFirstGap 64 fun t =>
    (t.sendCtl 0x05 (.keepAlive t.keepAlive)).arm kaPerTmr
      ((if t.rdB (kpr KPR_MODE) 4 then 100 else clampTo 100 1000 (t.rdF (kwk KWK_KA) 16 16)) * ms)

/-- KEEPALIVE_SEND: while NEED is 1 or bind-off lasts, out of every side and line without a turn (R357, R358). -/
def execKeepaliveSend (s : State) : Host.Outcome State Fault Refusal :=
  .next (s.when (s.dieUp 0 && s.canKeepalive && (s.need || s.rdB (kpr KPR_MODE) 4)) fun t => t.sendKeepalive)

/-- What the control plane does with a KEEPALIVE: NEED restarts the timer and cancels bind-off; a later END is adopted
(R359, R361, R362). -/
def State.takeKeepalive (s : State) (b : KeepAlive) : State :=
  if b.need then (if s.mode.inRow then (s.kaRestart).boCancel else s)
  else if b.bindoff && s.rdB (kpr KPR_MODE) 4 && stLater b.endSt (s.rd (kwk KWK_BO_END)) then s.wr (kwk KWK_BO_END) b.endSt
  else s

/-- KEEPALIVE_RX. -/
def execKeepaliveRx (rx : Rx) (h : Hdr) (b : KeepAlive) (s : State) : Host.Outcome State Fault Refusal :=
  .next (match s.takeStitch rx h 0x05 (fun t => b.uid == t.uid) none (.keepAlive b) false with
    | (t, true) => t.takeKeepalive b
    | (t, false) => t)

/-- NEED_HOST_WRITE: HOST is set or cleared, and NEED follows (R356). -/
def execNeedHostWrite (v : Bool) (s : State) : Host.Outcome State Fault Refusal :=
  .next (s.guarded (kwk KWK_NEED) fun t => (t.wrB (kwk KWK_NEED) 0 v).evalNeed)

/-- WAKE_NEED_EXPIRY: WAKE_NEED clears KA_TIMEOUT after it began to count (R356). -/
def execWakeNeedExpiry (s : State) : Host.Outcome State Fault Refusal :=
  .next (s.when (s.mode != .off && s.rdB (kwk KWK_NEED) 1 && s.kp.needCounting) fun t =>
    let u := (t.expire needTmr).wrB (kwk KWK_NEED) 1 false
    ({ u with kp := { u.kp with needCounting := false } }).evalNeed)

/-- BO_TIME in ms: 10 to 2000, values outside acting as the nearer limit (R369). -/
def State.boTime (s : State) : Nat := clampTo 10 2000 (s.rdF (kwk KWK_BO) 0 12)

/-- Bind-off is entered: BINDOFF, its END, BO_START and a KEEPALIVE (R360). While rows run, the KEEPALIVE is due at once and
KEEPALIVE_SEND sends it in the first gap. -/
def State.enterBindoff (s : State) : State :=
  let t := (s.wrB (kpr KPR_MODE) 4 true).wr (kwk KWK_BO_END) (s.st 0 + wordOf (s.boTime * 1000000))
  let u := (({ t with kp := { t.kp with boPend := false } }).raise (kwk 0) 0).disarm kaPerTmr
  u.when (u.canKeepalive && !u.run) State.sendKeepalive

/-- KEEPALIVE_TIMEOUT: bind-off waits for the row boundary while rows run, and is entered at once otherwise (R359, R360). -/
def execKeepaliveTimeout (s : State) : Host.Outcome State Fault Refusal :=
  .next (s.when (s.mode.inRow && !s.need && !s.rdB (kpr KPR_MODE) 4) fun t =>
    let u := (t.expire kaTmr).wrF (kwk KWK_KA_LEFT) 0 24 0
    if u.run then { u with kp := { u.kp with boPend := true } } else u.enterBindoff)

/-- The end of bind-off: BO_END, then PARKED (R42, R363). -/
def State.endBindoff (s : State) : State := (s.raise (kwk 0) 2).park .bindoffEnd

/-- BINDOFF_END: without rows the END in force is reached. While rows run, the row boundary at or after END ends bind-off (R363). -/
def execBindoffEnd (s : State) : Host.Outcome State Fault Refusal :=
  .next (s.when (s.mode.inRow && s.rdB (kpr KPR_MODE) 4 && !s.run) fun t => (t.reachSt (t.rd (kwk KWK_BO_END))).endBindoff)

/-- A line burst may go to a side after a cancellation (R367): it is watched, has had none yet, and both its lines lack lock. -/
def State.mayRewake (s : State) (side : Nat) : Bool :=
  (match s.kp.rewakeEnd with | some e => !stReached e (s.st 0) | none => false) && !s.kp.rewakeDone.getLsbD side && (sidePorts s.part side).all fun p => !s.lock p

/-- REWAKE_BURST: both of a side's lines have lacked lock for 1 ms, and a burst goes out on both of its taps (R367). The taps of a side
are its line A and its line B tap. -/
def execRewakeBurst (sd : Side) (s : State) : Host.Outcome State Fault Refusal :=
  let n := sideNum sd
  .next (s.when (s.mayRewake n) fun t0 =>
    let t := t0.expire (rewakeTmr n)
    let u := { t with kp := { t.kp with rewakeDone := t.kp.rewakeDone ||| BitVec.ofNat 2 (2 ^ n) } }
    ((u.burst n).burst (2 + n)).raise (kwk 0) 6)

/-- MIN_OFF_EXPIRY: MIN_OFF no longer counts, and a latched wake enters WAKING with its recorded cause (R368). -/
def execMinOffExpiry (s : State) : Host.Outcome State Fault Refusal :=
  .next (s.when (s.mode == .parked && s.rdB (kpr KPR_MODE) 5) fun t =>
    let u := (t.expire minOffTmr).wrB (kpr KPR_MODE) 5 false
    if u.rdB (kwk KWK_STAT) 8 then
      (u.wrB (kwk KWK_STAT) 8 false).enterWaking (wakeCause (u.rdF (kwk KWK_STAT) 16 8))
    else u)

end Sys2Proof.Machine
end

