-- ==== Sys2Proof/Machine/Time.lean ====
section
/-! DEFINITION. The meanings of the commands of Timekeeping, Time Domains and Time Transport (R64 to R97). -/

namespace Sys2Proof.Machine

/-! ## Changes of a domain by software (R65 to R68) -/

/-- A write of TENS_HI: both halves are committed at the next tick (R67). -/
def State.askTens (s : State) (d : Nat) (hi : Word) : State :=
  (s.wr (tmu 0 (TMU_TD_TENS_HI d)) (wordOf (fld hi 0 8))).setDue d
    { s.due d with tens := some ((s.rd (tmu 0 (TMU_TD_TENS_LO d))).toNat + fld hi 0 8 * 2 ^ 32) }

/-- TENSION_COMMIT. -/
def execTensionCommit (d : Fin 2) (hi : Word) (s : State) : Host.Outcome State Fault Refusal :=
  .next (s.guarded (tmu 0 (TMU_TD_TENS_HI d.val)) fun t => t.askTens d.val hi)

/-- A write of STEP: the step is taken at the next tick (R67). -/
def State.askStep (s : State) (d : Nat) (step : Int) : State := s.setDue d { s.due d with step := (s.due d).step + step }

/-- OFFSET_STEP. -/
def execOffsetStep (d : Fin 2) (step : Word) (s : State) : Host.Outcome State Fault Refusal :=
  .next (s.guarded (tmu 0 (TMU_TD_STEP d.val)) fun t => t.askStep d.val step.toInt)

/-- A write of SET_SEC_HI: the set is taken at the next tick, or discarded with STEP_ERR at once (R67, R68).
(DEDUCED, log entry 22) -/
def State.setTime (s : State) (d : Nat) (hi : Word) : State :=
  let ns := s.rdF (tmu 0 (TMU_TD_SET_NS d)) 0 30
  if nsPerSec ≤ ns then s.raiseTmu 9
  else
    let sec := (s.rd (tmu 0 (TMU_TD_SET_SEC_LO d))).toNat + fld hi 0 16 * 2 ^ 32
    s.setDue d { s.due d with set := some (sec * nsPerSec + ns) }

/-- TIME_SET. -/
def execTimeSet (d : Fin 2) (hi : Word) (s : State) : Host.Outcome State Fault Refusal :=
  .next (s.guarded (tmu 0 (TMU_TD_SET_SEC_HI d.val)) fun t => t.setTime d.val hi)

/-! ## Loss and selection of a domain (R72 to R75) -/

/-- LOST_SET is written: 1 declares the domain lost, 0 releases the declaration, which makes an own source valid (R72). -/
def State.writeLost (s : State) (d : Nat) (v : Bool) : State :=
  let t := s.wrB (tmu 0 (TMU_TD_CTRL d)) 0 v
  if v then t.declareLost d else if t.gm d then t.declareValid d else t

/-- DOMAIN_LOST_SET. -/
def execDomainLostSet (d : Fin 2) (v : Bool) (s : State) : Host.Outcome State Fault Refusal :=
  .next (s.guarded (tmu 0 (TMU_TD_CTRL d.val)) fun t => t.writeLost d.val v)

/-- The Sync interval of a domain in ns: 2^LOG_SYNC_IVL s (R72, R96). -/
def State.syncIvl (s : State) (d : Nat) : Nat :=
  let l := (BitVec.ofNat 8 (s.rdF (tmu 0 (TMU_TD_CFG d)) 16 8)).toInt
  if 0 ≤ l then nsPerSec * 2 ^ l.toNat else nsPerSec / 2 ^ l.natAbs

/-- The timers of a domain: its loss, and the next Sync that it originates (R72, R140). -/
abbrev lossTmr (d : Nat) : Nat := tmr (tmu 0 (TMU_TD_CFG d)) 0
abbrev originTmr (d : Nat) : Nat := tmr (tmu 0 (TMU_TD_CFG d)) 1

/-- GM is written: 1 makes a lost domain valid unless LOST_SET is 1, and from a clearing the timeout of 3 Sync intervals runs (R72). -/
def State.writeGm (s : State) (d : Nat) (v : Bool) : State :=
  let t := s.wrB (tmu 0 (TMU_TD_CFG d)) 9 v
  if v && !t.lostSet d then t.declareValid d
  else t.when (s.gm d && !v) fun u => u.arm (lossTmr d) (3 * u.syncIvl d)

/-- DOMAIN_GM_WRITE. -/
def execDomainGmWrite (d : Fin 2) (v : Bool) (s : State) : Host.Outcome State Fault Refusal :=
  .next (s.guarded (tmu 0 (TMU_TD_CFG d.val)) fun t => t.writeGm d.val v)

/-- DOMAIN_LOST_TIMEOUT: 3 Sync intervals without an accepted Sync, while GM is 0. -/
def execDomainLostTimeout (d : Fin 2) (s : State) : Host.Outcome State Fault Refusal :=
  .next (s.when (s.dieUp 0 && !s.gm d.val) fun t => (t.expire (lossTmr d.val)).declareLost d.val)

/-- RCK_SEL is written: where the selected domain is valid and within TMU_SW_MAX it is followed and HOLDOVER clears, else the write is
discarded (R74). A write that names the domain followed already, outside HOLDOVER, sets no RCK_SWITCH.
(DEDUCED, log entry 8) -/
def State.selectRck (s : State) (d : Nat) : State :=
  if s.switchable d then
    let t := s.wrB (tmu 0 TMU_CTRL) 0 (d == 1)
    if s.rckDom = d ∧ s.holdover = false then t else (t.clrHoldover).switchRck d
  else s

/-- ROW_CLOCK_SELECT. -/
def execRowClockSelect (d : Fin 2) (s : State) : Host.Outcome State Fault Refusal :=
  .next (s.guarded (tmu 0 TMU_CTRL) fun t => t.selectRck d.val)

/-- HOLDOVER_MUTE_EXPIRY: TMU_HOLD rows have passed in HOLDOVER (R75); where no rows run, the steps of 1 ms that are left pass. -/
def execHoldoverMuteExpiry (s : State) : Host.Outcome State Fault Refusal :=
  .next (s.when (s.dieUp 0 && s.holdover) fun t =>
    let u := if t.rdB (sch 0 SCH_STAT) 9 then t else t.advance ((t.rdF (tmu 0 TMU_HOLD) 0 24 - t.tm.holdRows) * 500000 - t.tm.rowless)
    { u with tm := { u.tm with holdMute := true } })

/-! ## Short time and timers (R76, R80) -/

/-- ST_HALF: bit 31 of a die's ST changes (R76). -/
def execStHalf (d : Sys2Proof.Die) (s : State) : Host.Outcome State Fault Refusal :=
  .next (s.when (s.dieUp (dieNum d)) fun t => t.gain (dieNum d) (2 ^ 31 - (t.st (dieNum d)).toNat % 2 ^ 31))

/-- A timer's LATE test: its target is past at arming; one that is not ahead runs at the next tick (R79, R80). -/
def State.judgeLate (s : State) (d n : Nat) : State :=
  let diff := stDiff (s.rd (tmu d (TMU_TMR_TGT n))) (s.st d)
  let late := decide (diff < 0)
  let at0 := s.tm.tmrAt.filter (·.1 ≠ 4 * d + n)
  { s with tm := { s.tm with
      tmrAt := if diff ≤ 0 then (4 * d + n, s.st d) :: at0 else at0
      tmrLate := s.tm.tmrLate &&& ~~~(BitVec.ofNat 8 (2 ^ (4 * d + n))) ||| BitVec.ofNat 8 (b2n late * 2 ^ (4 * d + n)) } }

/-- A timer is armed or re-armed (R80). -/
def State.armTimer (s : State) (d n : Nat) : State := (s.wrB (tmu d (TMU_TMR_CTRL n)) 0 true).judgeLate d n

/-- TIMER_ARM. -/
def execTimerArm (d : Sys2Proof.Die) (n : Fin 4) (s : State) : Host.Outcome State Fault Refusal :=
  .next (s.guarded (tmu (dieNum d) (TMU_TMR_CTRL n.val)) fun t => t.armTimer (dieNum d) n.val)

/-- TIMER_DISARM. -/
def execTimerDisarm (d : Sys2Proof.Die) (n : Fin 4) (s : State) : Host.Outcome State Fault Refusal :=
  .next (s.guarded (tmu (dieNum d) (TMU_TMR_CTRL n.val)) fun t => t.wrB (tmu (dieNum d) (TMU_TMR_CTRL n.val)) 0 false)

/-- A new target is stored, and an armed timer is re-armed with it (R80). -/
def State.retarget (s : State) (d n : Nat) (tgt : Word) : State :=
  let t := s.wr (tmu d (TMU_TMR_TGT n)) tgt
  if t.rdB (tmu d (TMU_TMR_CTRL n)) 0 then t.judgeLate d n else t

/-- TIMER_RETARGET. -/
def execTimerRetarget (d : Sys2Proof.Die) (n : Fin 4) (tgt : Word) (s : State) : Host.Outcome State Fault Refusal :=
  .next (s.guarded (tmu (dieNum d) (TMU_TMR_TGT n.val)) fun t => t.retarget (dieNum d) n.val tgt)

/-- An armed timer fires at its target, or at the next tick where that was not ahead at arming (R78 to R80). -/
def State.fireTimer (s : State) (d n : Nat) : State :=
  let late := s.tm.tmrLate.getLsbD (4 * d + n)
  let s1 := match Assoc.get s.tm.tmrAt (4 * d + n) with
    | some st => if st = s.st d then s.advance 1 else s
    | none => s.reachOn d (s.rd (tmu d (TMU_TMR_TGT n)))
  let s2 := ({ s1 with tm := { s1.tm with tmrAt := s1.tm.tmrAt.filter (·.1 ≠ 4 * d + n) } } : State)
  let s3 := (s2.wrB (tmu d (TMU_TMR_CTRL n)) 0 false).raise (tmu d 0) (11 + n)
  if late then (s3.wrB (tmu d (TMU_TMR_CTRL n)) 1 true).raise (tmu d 0) 10 else s3

/-- TIMER_FIRE. -/
def execTimerFire (d : Sys2Proof.Die) (n : Fin 4) (s : State) : Host.Outcome State Fault Refusal :=
  .next (s.when (s.dieUp (dieNum d) && s.rdB (tmu (dieNum d) (TMU_TMR_CTRL n.val)) 0) fun t => t.fireTimer (dieNum d) n.val)

/-! ## Die 1's time (R81) -/

/-- A full view with its fraction, in 2^-32 ns. -/
def State.viewFrac (s : State) (k d : Nat) : Nat := s.view k d * 2 ^ 32 + s.frac k d

/-- A view and its fraction set. -/
def State.setViewFrac (s : State) (k d v : Nat) : State := (s.setView k d (v / 2 ^ 32)).wr (tmu k (TMU_TD_FRAC d)) (wordOf v)

/-- What a clock of die 1 that reads `b` moves to when die 0's reads `a` = `b` + `diff`: the step, or a slew of at most 1000 ppm
of 512 ns. -/
def wordSlew (diff : Int) : Int :=
  let lim : Int := 512 * 2 ^ 32 / 1000
  if diff < -lim then -lim else if lim < diff then lim else diff

/-- A difference of more than 8 ns, in 2^-32 ns. -/
def beyond8 (diff : Int) : Bool := decide (8 * 2 ^ 32 < diff.natAbs)

/-- Die 1's differences to die 0: TD0, TD1 and the row clock. -/
def State.timeDiffs (s : State) : Int × Int × Int :=
  ((s.viewFrac 0 0 : Int) - s.viewFrac 1 0, (s.viewFrac 0 1 : Int) - s.viewFrac 1 1, rckDiff (s.rck 0) (s.rck 1))

/-- Die 1 takes die 0's time word: it slews, or steps with DIE_ALIGN where it is more than 8 ns off; ALIGNED follows (R29, R81).
(DEDUCED, log entry 77) -/
def State.takeTimeWord (s : State) : State :=
  let (a, b, c) := s.timeDiffs
  let jump := beyond8 a || beyond8 b || beyond8 c
  let mv (d : Int) : Int := if jump then d else wordSlew d
  let s1 := s.setViewFrac 1 0 ((s.viewFrac 1 0 : Int) + mv a).toNat
  let s2 := s1.setViewFrac 1 1 ((s1.viewFrac 1 1 : Int) + mv b).toNat
  let s3 := if jump then (s2.setRck 1 (s2.rck 0)).wr (tmu 1 TMU_ST_WRAP) (s2.rd (tmu 0 TMU_ST_WRAP))
    else s2.setRck 1 (((s2.rck 1 : Nat) : Int) + mv c + 2 ^ 64).toNat
  let s4 := if jump then s3.raise (tmu 1 0) 16 else s3.wr (tmu 1 TMU_ST_WRAP) (s3.rd (tmu 1 TMU_ST_WRAP) - 1)
  let (a', b', c') := s4.timeDiffs
  (s4.wrB (tmu 1 TMU_STAT) 3 (decide (a'.natAbs ≤ 2 ^ 32 ∧ b'.natAbs ≤ 2 ^ 32 ∧ c'.natAbs ≤ 2 ^ 32))).evalRck 1

/-- TIME_WORD: every 256 ticks, while the Komidon link is up. -/
def execTimeWord (s : State) : Host.Outcome State Fault Refusal :=
  .next (s.when (s.dieUp 0 && s.dieUp 1 && s.linkUp) fun t =>
    let u := t.expire (tmr (klk 0 KLK_STAT) 0)
    (u.arm (tmr (klk 0 KLK_STAT) 0) 512).takeTimeWord)

/-! ## Sync (R84 to R89) -/

/-- The domain whose number a Sync carries, among the enabled ones.
(DEDUCED, log entry 21) -/
def State.syncDomain (s : State) (n : Byte) : Option Nat :=
  [0, 1].find? fun d => s.tdEnabled d && s.rdF (tmu 0 (TMU_TD_CFG d)) 0 8 == n.toNat

/-- A bit of a pair of 32-port registers. -/
def State.portBit (s : State) (lo hi p : Nat) : Bool := if p < 32 then s.rdB lo p else s.rdB hi (p - 32)

/-- A candidate slave port of a domain that is AS_CAPABLE (R84). -/
def State.candidate (s : State) (d p : Nat) : Bool :=
  s.portBit (tmu 0 (TMU_TD_CAND_LO d)) (tmu 0 (TMU_TD_CAND_HI d)) p && s.rdB (prt p PRT_PTP_CFG) 0

/-- A MASTER port of a domain (R85). -/
def State.master (s : State) (d p : Nat) : Bool :=
  s.portBit (tmu 0 (TMU_TD_MASTER_LO d)) (tmu 0 (TMU_TD_MASTER_HI d)) p

/-- A quantity of 1/16 ns times 1 + RR, rounded down (R86). -/
def State.scaled (s : State) (d : Nat) (x : Int) : Int := x * (2 ^ 41 + (s.rd (tmu 0 (TMU_TD_RR d))).toInt) / 2 ^ 41

/-- LDLY + ASYM of an ingress port, in 1/16 ns.
(DEDUCED, log entry 64) -/
def State.linkDelay16 (s : State) (p : Nat) : Int := ((s.rd (prt p PRT_PTP_LDLY)).toNat : Int) + (s.rd (prt p PRT_PTP_ASYM)).toInt

/-- The residence of a copy from the balls of its ingress port to those of an egress port, in 1/16 ns: the time between the two
stamps, and the latencies of both ports (R82, R86). A time that the command does not bring is measured: a free value.
(DEDUCED, log entry 69) -/
def State.residence (s : State) (p o : Nat) (res : List (Port × Nat)) : Nat :=
  (match res.find? fun r => r.1.val == o with
    | some r => r.2
    | none => s.fresh.toNat) + s.rxLat16 p + s.txLat16 o

/-- A Sync as an egress port sends it; the sum is kept to 1/16 ns (R86).
(DEDUCED, log entry 21; DEDUCED, log entry 69) -/
def State.relayedSync (s : State) (d : Nat) (link : Int) (f : Sync) (res : Nat) : Sync :=
  { f with twoStep := false, corr16 := f.corr16 + s.scaled d (link + res), csro := f.csro + (s.rd (tmu 0 (TMU_TD_RR d))).toInt }

/-- A copy leaves an egress port, whose RSD_MAX follows (R86, R97).
(DEDUCED, log entry 21) -/
def State.sendSync (s : State) (d p o : Nat) (link : Int) (f : Sync) (res : List (Port × Nat)) : State :=
  if s.portOn o then
    let r := s.residence p o res
    let t := (s.useFree).wr (prt o PRT_PTP_RSD_MAX) (wordOf (max (s.rd (prt o PRT_PTP_RSD_MAX)).toNat (min (r / 16) 0xFFFFFFFF)))
    t.sendPort o (.sync (t.relayedSync d link f r)) false
  else s

/-- The line relay of a copy received on a backbone port; a turn drops it (R85, R301). -/
def State.lineRelay (s : State) (d p : Nat) (link : Int) (f : Sync) (res : List (Port × Nat)) : State :=
  if !isBackbone s.part p then s
  else
    let o := acrossPort p
    if s.turnAt o = .none then s.sendSync d p o link f res else s.count (rng (o / 32) RNG_CNT_SYNC_DROP)

/-- The selected copy goes to the MASTER ports other than backbone ports (R85). -/
def State.masterRelay (s : State) (d p : Nat) (link : Int) (f : Sync) (res : List (Port × Nat)) : State :=
  s.each (fun o t => t.when (t.master d o && !isBackbone t.part o && (t.linkUp || o / 32 == p / 32)) fun u => u.sendSync d p o link f res) (List.range 64)

/-- The sequence numbers that R89 compares: of the slave port and of the other candidates. -/
def State.setSeqs (s : State) (d : Nat) (slave other : Option (BitVec 16)) : State :=
  { s with tm := if d = 0 then { s.tm with slaveSeq0 := slave, otherSeq0 := other } else { s.tm with slaveSeq1 := slave, otherSeq1 := other } }

def State.slaveSeq (s : State) (d : Nat) : Option (BitVec 16) := if d = 0 then s.tm.slaveSeq0 else s.tm.slaveSeq1
def State.otherSeq (s : State) (d : Nat) : Option (BitVec 16) := if d = 0 then s.tm.otherSeq0 else s.tm.otherSeq1

/-- The slave port has missed sequence `q` and the one before, which another candidate delivered (R89).
(DEDUCED, log entry 21) -/
def State.slaveMissed (s : State) (d : Nat) (q : BitVec 16) : Bool :=
  s.otherSeq d == some (q - 1) &&
    (match s.slaveSeq d with
    | none => true
    | some a => decide (2 ≤ (q - a).toInt))

/-- The slave port follows the copies that candidates deliver (R89).
(DEDUCED, log entry 21) -/
def State.followSlave (s : State) (d p : Nat) (q : BitVec 16) : State :=
  if s.slave d = p then s.setSeqs d (some q) (s.otherSeq d)
  else if s.slave d = 0x7F then s
  else if s.slaveMissed d q then (s.setSlave d p).setSeqs d (some q) none
  else s.setSeqs d (s.slaveSeq d) (some q)

/-- The die whose time unit takes a Sync from a port: die 0, but for the ports of a die 1 that is alone (R30). -/
def State.syncDie (s : State) (p : Nat) : Nat := if s.linkUp then 0 else p / 32

/-- An accepted Sync counts toward validity and for unmuting (R72, R127).
(DEDUCED, log entry 21) -/
def State.countSync (s : State) (d : Nat) (q : BitVec 16) : State :=
  let c := tmu 0 (TMU_TD_SYNC_CNT d)
  let s1 := ((s.wrF c 0 16 q.toNat).bumpF c 16 16).arm (lossTmr d) (3 * s.syncIvl d)
  let s2 := if d = s1.rckDom then { s1 with tm := { s1.tm with syncSeen := true } } else s1
  if s2.tdLost d && !s2.lostSet d then
    (if s2.syncRun d + 1 < 2 then s2.setSyncRun d (s2.syncRun d + 1) else s2.declareValid d)
  else s2

/-- A signed value of 1/16 ns as OFS and OFS_RAW of a die hold it; one that 32 bits do not hold is a free value.
(DEDUCED, log entry 22) -/
def State.wrOfs (s : State) (k d : Nat) (v : Int) : State :=
  let fits := decide (-(2 ^ 31 : Int) ≤ v ∧ v < 2 ^ 31)
  let w := if fits then BitVec.ofInt 32 v else s.fresh
  let t := (if fits then s else s.useFree).wr (tmu k (TMU_TD_OFS_RAW d)) w
  if t.tdHold d then t else t.wr (tmu k (TMU_TD_OFS d)) w

/-- The offset of a selected copy (R87).
(DEDUCED, log entry 22) -/
def State.syncOffset (s : State) (d : Nat) (link : Int) (f : Sync) (rx16 : Int) : Int :=
  rx16 - ((f.origSec.toNat * nsPerSec + f.origNs.toNat : Nat) * 16 + f.corr16 + s.scaled d link)

/-- A die 1 that is alone takes a Sync: its own offset for muting, by the slave port that it last mirrored (R30). -/
def State.takeSync1 (s : State) (d p : Nat) (link : Int) (f : Sync) (rx16 : Int) : State :=
  let c := tmu 1 (TMU_TD_SYNC_CNT d)
  let s1 := (s.wrF c 0 16 f.seq.toNat).bumpF c 16 16
  let s2 := if d = s1.rckDomOn 1 then { s1 with tm := { s1.tm with syncSeen1 := true } } else s1
  if s2.rdF (tmu 1 (TMU_TD_SLAVE d)) 0 7 = p then s2.wrOfs 1 d (s2.syncOffset d link f rx16) else s2

/-- A one-step Sync, or a two-step one with its Follow_Up, is relayed and accepted (R84 to R89). -/
def State.takeSync (s : State) (d p : Nat) (link : Int) (f : Sync) (res : List (Port × Nat)) (rx16 : Int) : State :=
  let s1 := s.lineRelay d p link f res
  if !s1.candidate d p then s1
  else if s1.syncDie p ≠ 0 then s1.takeSync1 d p link f rx16
  else
    let s2 := (s1.followSlave d p f.seq).countSync d f.seq
    if s2.slave d = p then (s2.wrOfs 0 d (s2.syncOffset d link f rx16)).masterRelay d p link f res else s2

/-- The 1 ms for which a two-step Sync is held (R86). -/
abbrev twoStepTmr (p d : Nat) : Nat := tmr (prt p PRT_PTP_CFG) d

/-- A Sync with its origin held for a Follow_Up (R86), with the link delay at its receipt (R88). -/
def State.holdSync (s : State) (d p : Nat) (rx16 : Int) (f : Sync) : State :=
  let t : State := { s with tm := { s.tm with
      twoStep := s.tm.twoStep.filter (fun h => !(h.port == p && h.sync.domain == f.domain))
        ++ [{ port := p, sync := f, rx16 := rx16, link := s.linkDelay16 p }] } }
  t.arm (twoStepTmr p d) ms

/-- SYNC_RX: the command stands at the frame's receive stamp, and `residence16` gives for each egress port the time from there to its
transmit stamp, in 1/16 ns of the domain's full view. -/
def execSyncRx (rx : Rx) (f : Sync) (residence16 : List (Port × Nat)) (s : State) : Host.Outcome State Fault Refusal :=
  let p := rx.port.val
  .next (match s.ptpIn { rx with sof := s.st (p / 32) } with
    | (t, false) => t
    | (t, true) =>
      match t.syncDomain f.domain with
      | none => t
      | some d =>
        let at16 : Int := (t.view16 (p / 32) d : Int) - t.rxLat16 p
        if f.twoStep then t.holdSync d p at16 f else t.takeSync d p (t.linkDelay16 p) f residence16 at16)

/-- A Follow_Up completes the held Sync of its port, domain and sequence (R86).
(DEDUCED, log entry 21) -/
def State.followUp (s : State) (d p : Nat) (f : Sync) (res : List (Port × Nat)) : State :=
  match s.tm.twoStep.find? fun h => h.port == p && h.sync.domain == f.domain && h.sync.seq == f.seq with
  | none => s
  | some h =>
    let t := { s with tm := { s.tm with twoStep := s.tm.twoStep.filter (· ≠ h) } }
    (t.disarm (twoStepTmr p d)).takeSync d p h.link { f with twoStep := false, corr16 := h.sync.corr16 + f.corr16 } res h.rx16

/-- FOLLOW_UP_RX. -/
def execFollowUpRx (rx : Rx) (f : Sync) (residence16 : List (Port × Nat)) (s : State) : Host.Outcome State Fault Refusal :=
  .next (match s.ptpIn { rx with sof := s.st (rx.port.val / 32) } with
    | (t, false) => t
    | (t, true) =>
      match t.syncDomain f.domain with
      | none => t
      | some d => t.followUp d rx.port.val f residence16)

/-- What a port holds of a domain is discarded. -/
def State.unhold (s : State) (p : Nat) (domain : Byte) : State :=
  { s with tm := { s.tm with twoStep := s.tm.twoStep.filter fun h => !(h.port == p && h.sync.domain == domain) } }

/-- TWO_STEP_TIMEOUT: the held Sync is discarded (R86). -/
def execTwoStepTimeout (port : Port) (domain : Byte) (s : State) : Host.Outcome State Fault Refusal :=
  .next (s.when (s.tm.twoStep.any fun (h : HeldSync) => h.port == port.val && h.sync.domain == domain) fun t =>
    (t.expire (twoStepTmr port.val ((t.syncDomain domain).getD 0))).unhold port.val domain)

/-- The sequence of the next Sync that a domain originates. -/
def State.originSeq (s : State) (d : Nat) : BitVec 16 := (if d = 0 then s.tm.originSeq0 else s.tm.originSeq1) + 1

/-- The Sync that a source sends (R140). -/
def State.originSync (s : State) (d : Nat) : Sync :=
  { domain := BitVec.ofNat 8 (s.rdF (tmu 0 (TMU_TD_CFG d)) 0 8), seq := s.originSeq d, twoStep := false
    origSec := BitVec.ofNat 48 (s.view 0 d / nsPerSec), origNs := BitVec.ofNat 30 (s.view 0 d % nsPerSec)
    corr16 := (s.frac 0 d / 2 ^ 28 : Nat), csro := 0 }

/-- A domain with GM at 1 originates a Sync on each port of its MASTER registers (R140). -/
def State.originate (s : State) (d : Nat) : State :=
  let f := s.originSync d
  let t := { s with tm := if d = 0 then { s.tm with originSeq0 := f.seq } else { s.tm with originSeq1 := f.seq } }
  t.each (fun p u => u.when (u.master d p) fun v => v.sendPort p (.sync f) false) (List.range 64)

/-- SYNC_ORIGINATE. -/
def execSyncOriginate (d : Fin 2) (s : State) : Host.Outcome State Fault Refusal :=
  .next (s.when (s.dieUp 0 && s.gm d.val && s.tdEnabled d.val) fun t =>
    let u := t.expire (originTmr d.val)
    (u.arm (originTmr d.val) (u.syncIvl d.val)).originate d.val)

/-- SLAVE_PORT_WRITE: the slave port is selected, which is a path change (R89, R90). -/
def execSlavePortWrite (d : Fin 2) (value : Word) (s : State) : Host.Outcome State Fault Refusal :=
  .next (s.guarded (tmu 0 (TMU_TD_SLAVE d.val)) fun t => (t.setSlave d.val (fld value 0 7)).setSeqs d.val none none)

/-- HOLDOVER_EXPIRY: HOLD_LEFT has counted down to 0 (R91); where no rows run, the steps of 1 ms that are left pass. -/
def execHoldoverExpiry (d : Fin 2) (s : State) : Host.Outcome State Fault Refusal :=
  .next (s.when (s.dieUp 0 && s.tdHold d.val) fun t =>
    (if t.rdB (sch 0 SCH_STAT) 9 then t
      else t.advance ((t.rd (tmu 0 (TMU_TD_HOLD_LEFT d.val))).toNat * 500000 - t.tm.rowless)).holdEnd d.val)

/-- HOLD_END: a write of TMU_TDd_CTRL.HOLD_END (R91). -/
def execHoldEnd (d : Fin 2) (s : State) : Host.Outcome State Fault Refusal :=
  .next (s.guarded (tmu 0 (TMU_TD_CTRL d.val)) fun t => t.holdEnd d.val)

/-! ## PPS and captures (R93, R94) -/

/-- PPS_OUT_PULSE: the seconds of the selected domain increment (R93). A step or set that moves them forward pulses by itself. -/
def execPpsOutPulse (s : State) : Host.Outcome State Fault Refusal :=
  .next (s.when (s.dieUp 0 && s.rdB (tmu 0 TMU_PPS_CFG) 0) fun t => t.reachSec t.ppsDom)

/-- PPS_OUT falls. -/
def State.ppsLow (s : State) : State :=
  if s.tm.ppsHigh then { s.emit (.pps false) with tm := { s.tm with ppsHigh := false } } else s

/-- PPS_OUT_END: OUT_WIDTH ms have passed (R93). -/
def execPpsOutEnd (s : State) : Host.Outcome State Fault Refusal := 
  .next (s.when (s.dieUp 0 && s.tm.ppsHigh) fun t => (t.expire ppsTmr).ppsLow)

/-- The last capture of a die was made at this tick. -/
def State.capturedNow (s : State) (k : Nat) : Bool :=
  s.rd (tmu k TMU_SNAP_ST) == s.st k && s.rd (tmu k TMU_SNAP_WRAP) == s.rd (tmu k TMU_ST_WRAP)

/-- One capture takes ST, its wraps and both domains' full views of a die; `src` names its source, and two of one tick are one
capture with both source bits (R94). -/
def State.capture (s : State) (k src : Nat) : State :=
  let s1 := (s.wr (tmu k TMU_SNAP_ST) (s.st k)).wr (tmu k TMU_SNAP_WRAP) (s.rd (tmu k TMU_ST_WRAP))
  let s2 := ((s1.wr (tmu k TMU_SNAP_TD0_NS) (s.rd (tmu k (TMU_TD_NS 0)))).wr (tmu k TMU_SNAP_TD0_SEC_LO) (s.rd (tmu k (TMU_TD_SEC_LO 0)))).wr
    (tmu k TMU_SNAP_TD0_SEC_HI) (s.rd (tmu k (TMU_TD_SEC_HI 0)))
  let s3 := ((s2.wr (tmu k TMU_SNAP_TD1_NS) (s.rd (tmu k (TMU_TD_NS 1)))).wr (tmu k TMU_SNAP_TD1_SEC_LO) (s.rd (tmu k (TMU_TD_SEC_LO 1)))).wr
    (tmu k TMU_SNAP_TD1_SEC_HI) (s.rd (tmu k (TMU_TD_SEC_HI 1)))
  s3.wrF (tmu k TMU_SNAP_CTRL) 8 2 (if s.capturedNow k then s.rdF (tmu k TMU_SNAP_CTRL) 8 2 ||| src else src)

/-- PPS_IN_CAPTURE: the selected edge of PPS_IN, with IN_EN at 1 (R94). -/
def execPpsInCapture (s : State) : Host.Outcome State Fault Refusal :=
  .next (s.when (s.dieUp 0 && s.rdB (tmu 0 TMU_PPS_CFG) 16) fun t => (t.capture 0 2).raiseTmu 15)

/-- SNAP_CAPTURE: a write of TMU_SNAP_CTRL.CAP (R94). -/
def execSnapCapture (s : State) : Host.Outcome State Fault Refusal :=
  .next (s.guarded (tmu 0 TMU_SNAP_CTRL) fun t => t.capture 0 1)

end Sys2Proof.Machine
end

