-- ==== Sys2Proof/Machine/Needle.lean ====
section
/-! DEFINITION. The needle and integration: sending and taking ROW_START (R108 to R110, R114, R137, R138, R541), and the meanings of
the commands of Cold Start, Integration and the Needle (R133 to R147). -/

namespace Sys2Proof.Machine

/-! ## UIDs and counters of the cold-start registers (R147) -/

/-- A UID written to a register pair of the SCH page. -/
def State.wrUid (s : State) (lo hi : Nat) (u : Uid) : State := s.wr64 (sch 0 lo) (sch 0 hi) u.toNat

/-- The needle's UID as recorded, 0 for none (R143). -/
def State.ndlUid (s : State) : Uid := BitVec.ofNat 64 (s.rd64 (sch 0 SCH_CS_NDL_UID_LO) (sch 0 SCH_CS_NDL_UID_HI))

def State.setNdl (s : State) (u : Uid) : State := s.wrUid SCH_CS_NDL_UID_LO SCH_CS_NDL_UID_HI u
def State.setPeer (s : State) (u : Uid) : State := s.wrUid SCH_CS_PEER_UID_LO SCH_CS_PEER_UID_HI u

/-- An 8-bit counter of SCH_CS_CNT. -/
def State.csCount (s : State) (i : Nat) : State := s.countF (sch 0 SCH_CS_CNT) (8 * i) 8

/-- The instant from which the state's time counts. -/
def State.csMark (s : State) : State := { s with sc := { s.sc with csSince := s.st 0 } }

/-! ## Grants as nodes take them (R231) -/

/-- Own spares that the active overlay, or the shadow overlay before the flip, still gives this node. -/
def State.evalOwn (s : State) : State :=
  let keep := fun (i : Nat) => s.overlayOwner s.actBank s.actPrf i == some s.stitchNum ||
    (s.blockPend && s.overlayOwner (1 - s.actBank) s.actPrf i == some (s.rdF (ina INA_STAT) 16 6))
  { s with tp := { s.tp with own := s.tp.own.filter keep } }

/-- A spare is granted to this node: GRANT, GRANTED and the grant order.
(DEDUCED, log entry 32) -/
def State.granted (s : State) (sid : Nat) : State :=
  if s.tp.own.contains sid then s
  else
    let t := ((s.wrF (sch 0 SCH_YO_STAT) 0 4 (s.rdF (sch 0 SCH_YO_STAT) 0 4 + 1)).raiseSch 26)
    { t with tp := { t.tp with own := t.tp.own ++ [sid], asked := if t.tp.asked = some sid then none else t.tp.asked } }

/-- A grant of a ROW_START is taken: into the shadow overlay before the flip; after it, a grant that the active overlay lacks waits
for the next boundary (R231). -/
def State.takeGrant (s : State) (g : GrantSlot) : State :=
  let i := g.sid.toNat
  let n := g.node.toNat
  if n = 0 then s
  else if s.blockPend then
    let t := s.setTb (overlayAddr (1 - s.actBank) s.actPrf i) (BitVec.ofNat 8 (0x80 + n))
    if n = t.rdF (ina INA_STAT) 16 6 then t.granted i else t
  else if s.overlayOwner s.actBank s.actPrf i = some n then s
  else { s with tp := { s.tp with late := s.tp.late.filter (· ≠ g) ++ [g] } }

/-- A claimant that does not find itself granted has lost the spare it asked for (R230). -/
def State.judgeAsked (s : State) : State :=
  match s.tp.asked with
  | some k =>
    let t := s.countF (sch 0 SCH_YO_CNT) 8 8
    { t with tp := { t.tp with asked := none, lost := some k } }
  | none => s

/-! ## Announcements (R112, R206, R207) -/

/-- A blocking is announced for a row. -/
def State.announce (s : State) (br : Word) : State :=
  let t := ((s.wrSchB SCH_STAT 10 true).wr (ina INA_BLK_ROW) br).raiseIna 5
  ({ t with tp := { t.tp with annRow := t.row, announced := true, heardFrozen := false, claimed := none } } : State).spanStart

/-- The swap announcement of a ROW_START (R112, R114). -/
def State.hearSwap (s : State) (b : RowStart) : State :=
  if b.pendPrf = 0xFF then s.wrSchB SCH_STAT 7 false
  else
    let t := (s.wrSchF SCH_STAT 4 3 b.pendPrf.toNat).wrSchB SCH_STAT 7 true
    { t with sc := { t.sc with swapRow := b.swapRow } }

/-- From the start of row blocking row − 1 every node sets FROZEN, also one that hears the announcement only then (R206). -/
def State.freezeStep (s : State) : State :=
  if s.blockPend && s.row + 1 == s.rd (ina INA_BLK_ROW) then s.wrB (ina INA_STAT) 6 true else s

/-- An accepted ROW_START without an announcement: a node in COMMIT that has heard one, or that waits with a change, frogs; else the
announcement is withdrawn (R203, R206). -/
def State.hearNoBlock (s : State) : State :=
  if s.inaSt = inaCommit ∧ (s.tp.announced ∨ s.chgPend) then s.frog
  else
    let t := s.wrSchB SCH_STAT 10 false
    let u : State := { t with tp := { t.tp with announced := false, heardFrozen := false } }
    if u.tp.dblOld then u else u.spanDrop

/-- The blocking announcement of a ROW_START: first heard, heard again, or withdrawn (R203, R206, R207).
(DEDUCED, log entry 25) -/
def State.hearBlock (s : State) (b : RowStart) : State :=
  if b.blockPend then
    let t := if s.blockPend then s.wr (ina INA_BLK_ROW) b.blkRow else s.announce b.blkRow
    ({ t with tp := { t.tp with heardFrozen := t.tp.heardFrozen || t.row + 1 == b.blkRow } }).freezeStep
  else s.hearNoBlock

/-- In the blocking row, a node that kept its old tables commits with the row's ROW_START (R207). A train blocking does not change
the counter.
(DEDUCED, log entry 25) -/
def State.lateCommit (s : State) (topo : Word) : State :=
  if s.blockPend && s.row == s.rd (ina INA_BLK_ROW) then
    (if s.inaSt = inaCommit then
      (if s.tp.complete && topo == s.rd (ina INA_TOPO_SHD) then (s.blockNow s.row true).raiseIna 10 else s)
    else if topo = s.topoCtr then (s.blockNow s.row false).raiseIna 10 else s)
  else s

/-- A ROW_START is accepted for the current row: its vector, its announcements and its grants (R108, R110). -/
def State.acceptRs (s : State) (h : Hdr) (b : RowStart) : State :=
  let t := s.wrSchB SCH_STAT 13 true
  let t1 := { t with sc := { t.sc with poll := some b.poll, pollSt := t.st 0, rsMiss := 0 }, tp := { t.tp with rsTopo := h.topo, commitRows := if b.blockPend then 0 else t.tp.commitRows } }
  let t2 := ((t1.lateCommit h.topo).hearSwap b).hearBlock b
  (t2.each (fun g u => u.takeGrant g) b.grants).judgeAsked

/-! ## Adoption of a timebase (R137) -/

/-- A copy is acceptable for adoption: its profile is mapped in the active bank with the row length that it carries; in RESYNC its
HOLD is 0. -/
def State.adoptable (s : State) (h : Hdr) (b : RowStart) : Bool :=
  match s.slotOf s.actBank (h.prf.toNat % 8) with
  | some sl => s.rdF (sch 0 (SCH_SLOT_ROWLEN sl)) 0 23 == b.rowLen.toNat && !(s.cs == csResync && b.hold)
  | none => false

/-- Step 1 of R137: the followed domain is stepped by −OFS_RAW, rounded to whole ns.
(DEDUCED, log entry 22) -/
def State.adoptStep (s : State) : State :=
  let d := s.rckDom
  if s.rdB (sch 0 SCH_CS_CFG) 11 ∧ !s.tdLost d ∧ !s.gm d then
    let ofs := (s.rd (tmu 0 (TMU_TD_OFS_RAW d))).toInt
    s.stepDomain d (-((ofs + 8) / 16))
  else s

/-- Step 2 of R137: the row clock takes the followed domain's ST, on both dies.
(DEDUCED, log entry 77) -/
def State.adoptRck (s : State) : State :=
  let f := fun (k : Nat) (t : State) =>
    let u := t.setSt k (t.rd (tmu 0 (TMU_TD_ST t.rckDom)))
    let fr := u.rd (tmu 0 (TMU_TD_FRAC u.rckDom))
    { u with tm := if k = 0 then { u.tm with rckFrac0 := fr } else { u.tm with rckFrac1 := fr } }
  let t := ((f 0 s).when s.die1On (f 1)).evalRcks
  { t with fw := { t.fw with wire := [], waits := [] } }

/-- A node without a number takes the counter of the ROW_START that it adopts (R202).
(DEDUCED, log entry 31) -/
def State.adoptTopo (s : State) (topo : Word) : State := if s.num = 0 then s.wr (ina INA_TOPO_ACT) topo else s

/-- A profile becomes active, with its guardians' lists (R124). -/
def State.setProfile (s : State) (p : Nat) : State :=
  if s.actPrf = p then s else (s.wrSchF SCH_STAT 0 3 p).loadGuards

/-- Steps 3 and 4 of R137: the row of the frame becomes the current row. -/
def State.adoptRow (s : State) (h : Hdr) (b : RowStart) : State :=
  let t := (((s.spanDrop).wrSch SCH_ROW h.row).wrSch SCH_ROW_ST b.rowSt).setProfile (h.prf.toNat % 8)
  let u := t.wrSchB SCH_STAT 9 true
  { u with sc := { u.sc with
      decided := [], heard := [], marks := 0, rsMiss := 0, adoptSt := some (u.st 0), prevPoll := none, prevPrf := u.actPrf, prevBank := u.actBank
      prevRowSt := b.rowSt - wordOf u.rowLen, lostMute := u.tdLost u.rckDom } }

/-- The timebase of a ROW_START is adopted, and the node goes to VERIFY (R136, R137, R143). -/
def State.adopt (s : State) (h : Hdr) (b : RowStart) : State :=
  let s0 := if s.cs = csResync then s.setNdl 0 else s
  let s1 := (((s0.adoptStep).adoptRck).adoptRow h b).adoptTopo h.topo
  let s2 := (((s1.mvbRowsStart).acceptRs h b).mvbRecheck s.actPrf s.actBank).setCs csVerify
  let s3 := s2.csMark
  if s3.sc.lostMute then s3.mute else s3

/-- The node yields a contest (R136). -/
def State.csYield (s : State) : State := (s.raiseSch 18).csCount 2

/-! ## A ROW_START in the state machine (R110, R136, R138, R146) -/

/-- RS_BAD (R110). -/
def State.rsBad (s : State) : State := (s.count (sch 0 SCH_CNT_RS_BAD)).raiseSch 9

/-- A MEMBER that accepts HOLD enters RESYNC and holds its outputs (R42, R146). -/
def State.takeHold (s : State) (hold : Bool) : State :=
  if hold ∧ s.cs = csMember then
    let t := (s.setCs csResync).csMark
    ({ t with sc := { t.sc with hold := true } }).toHealing
  else s

/-- The topology counter of a ROW_START is in order: the active one, or in the blocking row the shadow's (R110). -/
def State.topoOk (s : State) (topo : Word) : Bool :=
  topo == s.topoCtr || (s.blockPend && s.row == s.rd (ina INA_BLK_ROW) && topo == s.rd (ina INA_TOPO_SHD) && s.inaSt == inaCommit)

/-- A node in COMMIT frogs on a blocking row's counter that is neither active nor shadow (R203). -/
def State.mismatch (s : State) (h : Hdr) : State :=
  if s.inaSt = inaCommit ∧ s.blockPend ∧ s.row = s.rd (ina INA_BLK_ROW) ∧ h.row = s.row ∧ !s.topoOk h.topo then (s.raiseIna 9).frog else s

/-- A copy of the current row meets R110. -/
def State.rsOk (s : State) (h : Hdr) : Bool :=
  h.row == s.row && (h.prf.toNat == s.actPrf || (s.slotOf s.actBank (h.prf.toNat % 8)).isSome) && s.topoOk h.topo

/-- A missed swap: the named profile is adopted for the rest of the row (R114).
(DEDUCED, log entry 29) -/
def State.adoptProfile (s : State) (p : Nat) : State :=
  if s.actPrf = p then s
  else
    let t := (s.setProfile p).raiseSch 1
    { t with sc := { t.sc with adoptSt := some (t.st 0), marks := 0 } }

/-- A member's ROW_START (R110): the first good copy of the row is taken, a second good one is ignored, others count RS_BAD. -/
def State.memberRs (s : State) (h : Hdr) (b : RowStart) : State :=
  if s.rsOk h then
    (if s.rdB (sch 0 SCH_STAT) 13 then s
    else (((s.adoptProfile (h.prf.toNat % 8)).acceptRs h b).mvbRecheck s.actPrf s.actBank).takeHold b.hold)
  else (s.rsBad).mismatch h

/-- The SOF of the verified copy lies in its window (R138). -/
def State.sofOk (s : State) (sof : Word) : Bool :=
  let lo := s.rd (sch 0 SCH_ROW_ST) + wordOf (txofs s.actSelv)
  let w := s.rdF (sch 0 SCH_CS_PROP) 0 16 * 8 + s.rdF (sch 0 SCH_CS_VTOL) 0 16
  decide (0 ≤ stDiff sof lo ∧ stDiff sof lo ≤ w)

/-- Rows stop being served, and the node waits in FOLLOW (R136, R138), for rows of the profile that it had adopted (R134). -/
def State.dropPhase (s : State) : State :=
  let len := s.rowLen
  let t := ((s.stopRows).setCs csFollow).csMark
  { t with sc := { t.sc with followNs := len } }

/-- The copy that decides VERIFY (R138); one that fails R110 counts RS_BAD, and one of the row itself then fails the verify.
(DEDUCED, log entry 31) -/
def State.verifyRs (s : State) (sof : Word) (h : Hdr) (b : RowStart) : State :=
  if s.rsOk h ∧ s.rdB (sch 0 SCH_STAT) 13 then s
  else if !s.rsOk h then (if h.row = s.row ∧ s.rdB (sch 0 SCH_STAT) 13 = false then (s.rsBad).dropPhase else s.rsBad)
  else if b.rowSt = s.rd (sch 0 SCH_ROW_ST) ∧ s.sofOk sof then
    ((((s.adoptProfile (h.prf.toNat % 8)).acceptRs h b).setCs csMember).raiseSch 19).standbyIfHeld
  else s.dropPhase

/-- The cold-start state machine takes a ROW_START (R136).
(DEDUCED, log entry 31) -/
def State.rsMachine (s : State) (sof : Word) (h : Hdr) (b : RowStart) : State :=
  let c := s.cs
  if c = csMember then s.memberRs h b
  else if c = csVerify then s.verifyRs sof h b
  else if c = csNeedle then s
  else if s.adoptable h b then (if c = csColdWait ∨ c = csSettle then (s.csYield).adopt h b else s.adopt h b)
  else if c = csListen then ((s.rsBad).raiseSch 22).csMark
  else s

/-- The node takes part in rows: row mode, CAST-ON and the modes in which rows run (R40, R188). -/
def State.connected (s : State) : Bool := (s.mode == .castOn || s.mode.inRow) && !s.cmpMode

/-- The timing check of a ROW_START at the needle's neighbour (R120). -/
def State.rsTiming (s : State) (rx : Rx) (h : Hdr) : State × Verdict :=
  let p := rx.port.val
  match s.actSlot with
  | none => (s, .use)
  | some sl =>
    if s.run && s.firstHop p h then
      let c := s.hopClass p rx.len (s.rxStamp rx) (s.rd (sch 0 SCH_ROW_ST)) (s.rdF (sch 0 (SCH_SLOT_RSLEN sl)) 0 20 * 8) (s.selv sl)
      (s.hopCount p 0xFFFF c, match c with | .early => .drop | .late => .spoil | _ => .use)
    else (s, .use)

/-- A copy has completed a circuit (R541). -/
def State.circled (s : State) (p : Nat) (h : Hdr) (b : RowStart) : Bool := Assoc.get s.rg.relayed p == some (h.row, b.rowSt)

/-- The relayed copy is recorded for its port. -/
def State.noteRelayed (s : State) (p : Nat) (h : Hdr) (b : RowStart) : State :=
  { s with rg := { s.rg with relayed := Assoc.put s.rg.relayed p (h.row, b.rowSt) } }

/-- What the relay does with a ROW_START that it passed, ended badly or dropped (R119, R120). -/
def State.rsRelay (s : State) (rx : Rx) (h : Hdr) (b : RowStart) : Verdict → Arrival → State
  | .drop, _ | _, .none => s
  | _, .bad => s.endBad rx.port.val (.sl h none (.rowStart b))
  | .spoil, _ => s.relayBad rx.port.val (.sl h none (.rowStart b))
  | .use, _ | .pass, _ =>
    let v := (s.noteRelayed rx.port.val h b).relay rx.port.val h none (.rowStart b) true
    if v.connected then v.rsMachine (v.rxStamp rx) h b else v

/-- ROW_START_RX. -/
def execRowStartRx (rx : Rx) (h : Hdr) (b : RowStart) (s : State) : Host.Outcome State Fault Refusal :=
  let p := rx.port.val
  .next (State.onArrival (s.takeSl rx h 0x01) fun a t =>
    if t.needle || t.circled p h b then t.strip p
    else
      let r := t.rsTiming rx h
      r.1.rsRelay rx h b r.2 a)

/-! ## ROW_START as the needle sends it (R108, R109, R142) -/

/-- The poll vector of the active profile. -/
def State.pollVector (s : State) (sl : Nat) : List Word :=
  let n := s.slotCnt sl
  (List.range ((n + 31) / 32)).map fun w =>
    wordOf ((List.range 32).foldl (fun acc k =>
      let i := 32 * w + k
      let e := s.entry sl i
      let owned := !backboneKind e.kind || e.kind == kClaim || s.effOwner s.actBank s.actPrf i e != 0
      acc + b2n (decide (i < n) && s.needleBit s.row s.actBank s.actPrf i e && owned) * 2 ^ k) 0)

/-- The grants of a row's ROW_START: all of up to 8, else a rotation of 8, newest first (R231). -/
def rotateGrants (l : List GrantSlot) (row : Nat) : List GrantSlot :=
  if l.length ≤ 8 then l
  else
    let k := row % ((l.length + 7) / 8) * 8
    ((l ++ l).drop k).take 8

/-- The body of the node's ROW_START. -/
def State.rowStart (s : State) (sl : Nat) : RowStart :=
  { pendPrf := if s.rdB (sch 0 SCH_STAT) 7 then BitVec.ofNat 8 (s.rdF (sch 0 SCH_STAT) 4 3) else 0xFF
    blockPend := s.blockPend, swapLate := s.sc.swapLate == some s.row, hold := s.sc.yieldLeft.isSome, swapRow := s.sc.swapRow
    blkRow := s.rd (ina INA_BLK_ROW), rowLen := wordOf (s.rdF (sch 0 (SCH_SLOT_ROWLEN sl)) 0 23), rowSt := s.rd (sch 0 SCH_ROW_ST)
    grants := rotateGrants s.sc.grants s.row.toNat, poll := s.pollVector sl }

/-- The guardian of a port permits ROW_START that starts `at0` ns from the row start: its zone acts as an owned, active stitch, without the mute condition (R124).
(DEDUCED, log entry 28) -/
def State.guardRs (s : State) (p sl n : Nat) (at0 : Int) : Bool :=
  let d := p / 32
  let t : Int := txofs (s.selv sl)
  !s.rdB (sch d SCH_GRD_STAT) 1 && decide (t - 8 ≤ at0 ∧ at0 ≤ t + 8 ∧ at0 * 400 + s.wireTime p n ≤ (s.rdF (sch 0 (SCH_SLOT_RSLEN sl)) 0 20 * 8 : Nat) * 400 - t * 400)

/-- The needle takes its own ROW_START as accepted (R110). -/
def State.ownRs (s : State) (b : RowStart) : State :=
  let t := s.wrSchB SCH_STAT 13 true
  { t with
    sc := { t.sc with poll := some b.poll, pollSt := t.st 0, rsMiss := 0, swapLate := t.sc.swapLate.filter (· ≠ t.row) }
    tp := { t.tp with rsTopo := t.topoCtr, heardFrozen := t.tp.heardFrozen || (b.blockPend && t.row + 1 == b.blkRow) } }

/-- ROW_START leaves on both rotations, and out of coupling sides (R108, R196, R298). -/
def State.sendRs (s : State) (sl : Nat) : State :=
  let b := s.rowStart sl
  let f : Frame := .sl (s.hdr 0x01 s.row 0xFFFF) none (.rowStart b)
  let n := (f.len).getD 0
  let t := s.each (fun p u =>
    if u.turnAt p == .none then
      (let v := u.meet p u.now
       let at0 : Int := stDiff (u.st (p / 32)) (u.rd (sch 0 SCH_ROW_ST)) + u.waitAt p u.now
       let ok := v.guardRs p sl n at0
       (v.passGuard p 0xFFFF n u.now f ok).1)
    else u) (backbonePorts s.part)
  (t.sendCoupling f t.now true).ownRs b

/-- ROW_START_SEND: at row start + TXOFS; a needle whose HOLD rows are over sends none (R144). -/
def execRowStartSend (s : State) : Host.Outcome State Fault Refusal :=
  .next (match s.actSlot with
    | some sl => s.when (s.dieUp 0 && s.run && s.needle && s.sc.yieldLeft != some 0) fun t =>
        (t.reachSt (t.rd (sch 0 SCH_ROW_ST) + wordOf (txofs (t.selv sl)))).sendRs sl
    | none => s)

/-! ## Loss of ROW_START (R42, R110, R136, R310) -/

/-- The node has lost ROW_START: it is in CAST-ON, listens again, and keeps its active tables and outputs (R42). -/
def State.loseRows (s : State) : State :=
  if s.mode.inRow then (s.setMode .castOn .rowStartLost).enterCastOn else (s.stopRows).enterListen

/-- ROW_START_LOSS: three rows in succession have ended without an accepted ROW_START.
(DEDUCED, log entry 31) -/
def execRowStartLoss (s : State) : Host.Outcome State Fault Refusal :=
  .next (s.when (s.dieUp 0 && s.run && !s.needle && s.cs == csMember) fun t =>
    if 3 ≤ t.sc.rsMiss then t.loseRows
    else if t.sc.rsMiss = 2 ∧ !t.rdB (sch 0 SCH_STAT) 13 then (t.count (sch 0 SCH_CNT_RS_MISS)).loseRows
    else t)

/-! ## COLDSTART (R136, R139 to R145) -/

/-- The header of a COLDSTART: row 0, the cold-start profile, and the counter 0 where there are no active tables (R139). -/
def State.csHdr (s : State) : Hdr :=
  { s.hdr 0x02 0 0xFFFF with topo := if s.num = 0 then 0 else s.topoCtr, prf := BitVec.ofNat 8 (s.rdF (sch 0 SCH_CS_CFG) 8 3) }

/-- A COLDSTART leaves on both rotations; INITIAL, REPEAT and RESTART on the scheduled path (R139). -/
def State.sendCs (s : State) (k : CsKind) (st : Word) (winner : Uid) : State :=
  let b : ColdStart := { uid := s.uid, rank := BitVec.ofNat 3 s.rank, kind := k, rowLen := wordOf (s.csLenNs / 8), st := st, winner := winner }
  s.sendRing s.csHdr none (.coldStart b) (k == .initial || k == .repeat || k == .restart)

/-- A COLDSTART from another node leads to FOLLOW (R136, R143). -/
def State.follow (s : State) (u : Uid) : State :=
  let t := ((s.setNdl u).setCs csFollow).csMark
  { t with sc := { t.sc with followNs := t.csLenNs } }

/-- A needle meeting (R143).
(DEDUCED, log entry 31) -/
def State.meetNeedle (s : State) (u : Uid) : State := ((s.raiseSch 21).csCount 3).setPeer u

/-- A NEEDLE announcement at a node whose rows run (R143 to R145). -/
def State.hearNeedle (s : State) (u : Uid) : State :=
  let n := s.ndlUid
  if n = 0 then (if s.cs = csMember ∨ s.cs = csVerify ∨ s.cs = csFollow then s.setNdl u else s)
  else if n = u then s
  else
    let t := s.meetNeedle u
    if t.cs = csNeedle ∧ u.toNat < t.uid.toNat ∧ t.sc.winner = 0 then { t with sc := { t.sc with winner := u } } else t

/-- A contest with a node of a higher UID is won: RESTART, and row 0 one row from now (R136). -/
def State.csWin (s : State) (u : Uid) : State :=
  let plan := s.st 0 + wordOf s.csLenNs
  let t := ((s.setPeer u).setCs csSettle).csMark
  let v := { t with sc := { t.sc with planned := plan } }
  ((v.sendCs .restart plan 0).raiseSch 17).csCount 1

/-- The cold-start state machine takes a COLDSTART (R136).
(DEDUCED, log entry 31) -/
def State.csMachine (s : State) (b : ColdStart) : State :=
  let c := s.cs
  let s := if b.kind = .needle ∧ (c = csListen ∨ c = csColdWait ∨ c = csSettle) ∧ s.ndlUid ≠ 0 ∧ s.ndlUid ≠ b.uid then s.meetNeedle b.uid else s
  if c = csListen then s.follow b.uid
  else if c = csColdWait ∨ c = csSettle then
    (if b.uid.toNat < s.uid.toNat then ((s.csYield).setPeer b.uid).follow b.uid
    else if c = csColdWait then s.csWin b.uid
    else s)
  else if b.kind = .needle then s.hearNeedle b.uid
  else s

/-- COLDSTART_RX. -/
def execColdstartRx (rx : Rx) (h : Hdr) (b : ColdStart) (s : State) : Host.Outcome State Fault Refusal :=
  .next (State.onArrival (s.takeSl rx h 0x02) fun a t =>
    if b.uid = t.uid then t.strip rx.port.val
    else if a = .bad then t.endBad rx.port.val (.sl h none (.coldStart b))
    else
      let u := t.relay rx.port.val h none (.coldStart b) (b.kind == .initial || b.kind == .repeat || b.kind == .restart)
      if u.connected then u.csMachine b else u)

/-- The node may lead: CAP, and no partner that holds the token of its pair (R133, R320). -/
def State.capable (s : State) : Bool := s.rdB (sch 0 SCH_CS_CFG) 0 && !(s.paired && s.tok == 3)

/-- The conditions of R135: 2 × P exceeds L, P exceeds 500 µs, or the cold-start profile is not mapped. -/
def State.csUnfit (s : State) : Bool :=
  let p := s.rdF (sch 0 SCH_CS_PROP) 0 16 * 8
  decide (s.csLenNs < 2 * p) || decide (500000 < p) || s.csSlot.isNone

/-- LISTEN_TIMEOUT: INITIAL, or CS_CFG_ERR and LISTEN again (R135, R136). -/
def execListenTimeout (s : State) : Host.Outcome State Fault Refusal :=
  .next (s.when (s.dieUp 0 && s.connected && s.cs == csListen && s.capable) fun t =>
    let u := t.reachSt (t.sc.csSince + t.rd (sch 0 SCH_CS_TMO) * 1000)
    if u.csUnfit then (u.raiseSch 22).csMark
    else
      let plan := u.st 0 + wordOf (2 * u.csLenNs)
      let v := (u.setCs csColdWait).csMark
      let w := { v with sc := { v.sc with planned := plan } }
      ((w.sendCs .initial plan 0).raiseSch 16).csCount 0)

/-- COLDSTART_REPEAT: one row after INITIAL. -/
def execColdstartRepeat (s : State) : Host.Outcome State Fault Refusal :=
  .next (s.when (s.dieUp 0 && s.connected && s.cs == csColdWait) fun t =>
    (t.reachSt (t.sc.csSince + wordOf t.csLenNs)).sendCs .repeat t.sc.planned 0)

/-- A new needle takes the source role on TD0 if TD0 is lost (R140). -/
def State.gmAuto (s : State) : State :=
  if s.tdLost 0 ∧ s.rdB (sch 0 SCH_CS_CFG) 12 then (s.writeGm 0 true).wrB (sch 0 SCH_CS_STAT) 8 true else s

/-- Row 0 starts on a new needle (R140). -/
def State.startRows (s : State) : State :=
  let t := (((s.spanDrop).wrSch SCH_ROW 0).wrSch SCH_ROW_ST s.sc.planned).wrSchF SCH_STAT 0 3 (s.rdF (sch 0 SCH_CS_CFG) 8 3)
  let u := ((t.wrSchB SCH_STAT 9 true).wrSchB SCH_STAT 12 true).wrSchB SCH_STAT 13 false
  let v := (u.setCs csNeedle).loadGuards
  let w := { v with sc := { v.sc with
    poll := none, prevPoll := none, prevPrf := v.actPrf, prevBank := v.actBank, prevRowSt := v.sc.planned, decided := [], heard := []
    rsMiss := 0, winner := 0, yieldLeft := none, yieldSent := false, marks := 0, adoptSt := none } }
  ((((w.mvbRowsStart).mvbRecheck s.actPrf s.actBank).raiseSch 20).setNdl w.uid).gmAuto

/-- NEEDLE_START: the planned ST in COLD_WAIT or SETTLE. -/
def execNeedleStart (s : State) : Host.Outcome State Fault Refusal :=
  .next (s.when (s.dieUp 0 && s.connected && (s.cs == csColdWait || s.cs == csSettle)) fun t => (t.reachSt t.sc.planned).startRows)

/-- FOLLOW_TIMEOUT: three rows in FOLLOW. -/
def execFollowTimeout (s : State) : Host.Outcome State Fault Refusal :=
  .next (s.when (s.dieUp 0 && s.connected && s.cs == csFollow) fun t =>
    ((t.reachSt (t.sc.csSince + wordOf (3 * t.sc.followNs))).raiseSch 23).loseRows)

/-- VERIFY_TIMEOUT: the next row's ROW_START has not come. -/
def execVerifyTimeout (s : State) : Host.Outcome State Fault Refusal :=
  .next (s.when (s.dieUp 0 && s.connected && s.cs == csVerify) fun t => t.dropPhase)

/-- RESYNC_TIMEOUT: three rows in RESYNC. -/
def execResyncTimeout (s : State) : Host.Outcome State Fault Refusal :=
  .next (s.when (s.dieUp 0 && s.connected && s.cs == csResync) fun t =>
    (t.reachSt (t.sc.csSince + wordOf (3 * t.rowLen))).loseRows)

/-- NEEDLE_ANNOUNCE: every 2^ANN_LOG rows, in the first gap (R142, R306). -/
def execNeedleAnnounce (s : State) : Host.Outcome State Fault Refusal :=
  .next (s.when (s.dieUp 0 && s.run && s.needle && s.row.toNat % 2 ^ s.rdF (sch 0 SCH_CS_CFG) 16 4 == 0) fun t =>
    t.inFirstGap 66 fun u => u.sendCs .needle (u.rd (sch 0 SCH_ROW_ST)) 0)

/-- NEEDLE_YIELD_SEND: once, in the first gap of the first HOLD row (R144, R306). -/
def execNeedleYieldSend (s : State) : Host.Outcome State Fault Refusal :=
  .next (s.when (s.dieUp 0 && s.run && s.sc.yieldLeft == some (atLeast1 (s.rdF (sch 0 SCH_CS_CFG) 20 4)) && !s.sc.yieldSent) fun t =>
    t.inFirstGap 66 fun v =>
      let u := v.sendCs .yield 0 v.sc.winner
      { u with sc := { u.sc with yieldSent := true } })

/-- NEEDLE_YIELD_END: after the last HOLD row (R144). -/
def execNeedleYieldEnd (s : State) : Host.Outcome State Fault Refusal :=
  .next (s.when (s.dieUp 0 && s.needle && s.sc.yieldLeft == some 0) fun t =>
    let u := ((t.wrSchB SCH_STAT 12 false).setCs csResync).csMark
    { u with sc := { u.sc with yieldLeft := none, winner := 0 } })

/-- At a row boundary a needle that yields starts its HOLD rows or counts them down (R144). -/
def State.yieldBoundary (s : State) : State :=
  match s.sc.yieldLeft with
  | some n => { s with sc := { s.sc with yieldLeft := some (n - 1) } }
  | none =>
    if s.needle ∧ s.sc.winner ≠ 0 then
      let t := { s with sc := { s.sc with yieldLeft := some (atLeast1 (s.rdF (sch 0 SCH_CS_CFG) 20 4)), yieldSent := false, hold := true } }
      t.toHealing
    else s

end Sys2Proof.Machine
end

