-- ==== Sys2Proof/Machine/Slots.lean ====
section
/-! DEFINITION. Profile slots, maps and overlays as software writes them (R104, R105, R225), the slot check (R106, R535), and
swap requests (R112). -/

namespace Sys2Proof.Machine

/-! ## The slot check (R106, R535) -/

/-- What the check takes from the slot registers, in ns: row length, selvedge, ROW_START zone, number of entries. -/
structure SlotParam where
  row : Nat
  selv : Nat
  rs : Nat
  cnt : Nat
  deriving DecidableEq, Repr

/-- The parameters of a slot. -/
def State.slotParam (s : State) (sl : Nat) : SlotParam :=
  { row := s.rowLenNs sl, selv := s.selv sl, rs := s.rdF (sch 0 (SCH_SLOT_RSLEN sl)) 0 20 * 8, cnt := s.slotCnt sl }

/-- Step 1: the slot registers, 0 where they pass. -/
def SlotParam.code (p : SlotParam) : Nat :=
  if p.row / 8 < 15625 ∨ 8000000 < p.row / 8 then 0x01
  else if p.selv < 64 ∨ 16000 < p.selv ∨ p.selv % 2 = 1 then 0x02
  else if p.cnt < 1 ∨ 4096 < p.cnt then 0x03
  else if p.rs * 5 < txofs p.selv * 5 + (134 + 4 * ((p.cnt + 31) / 32)) * 4 then 0x0C
  else 0

/-- The start and the end of an entry in ns. -/
def Stitch.from8 (e : Stitch) : Nat := e.start * 8
def Stitch.to8 (e : Stitch) : Nat := (e.start + e.len) * 8

/-- OWNER as R101 requires it. -/
def Stitch.ownerOk (e : Stitch) : Bool :=
  if e.kind = kSpare ∨ e.kind = kClaim ∨ e.kind = kMarker then e.owner == 0
  else if e.kind = kBe then true
  else e.owner != 0

/-- The latest end of some entries, from `z` on. -/
def lastEnd (z : Nat) (l : List Stitch) : Nat := (l.map Stitch.to8).foldl max z

/-- The first start of some entries, `z` where there is none earlier. -/
def firstStart (z : Nat) (l : List Stitch) : Nat := (l.map Stitch.from8).foldl min z

/-- Consist entries of one compiled owner that share port `q` of a bank. -/
def Stitch.sharesPort (e : Stitch) (q : Nat) (x : Stitch) : Bool :=
  consistKind x.kind && x.owner == e.owner && x.bank == e.bank && x.pmask / 2 ^ q % 2 == 1

/-- The gap before a backbone entry, and after the last one across the row boundary (code 0x07).
(DEDUCED, log entry 29) -/
def gap07 (p : SlotParam) (seen : List Stitch) (e : Stitch) (rest : List Stitch) : Bool :=
  let hi := lastEnd p.rs (seen.filter fun x => backboneKind x.kind)
  backboneKind e.kind && (decide (e.from8 < hi + 2 * p.selv)
    || (!(rest.any fun x => backboneKind x.kind) && decide (p.row < max hi e.to8 + 2 * p.selv)))

/-- The gaps of a consist entry on one of its ports (code 0x08). -/
def gap08At (p : SlotParam) (seen : List Stitch) (e : Stitch) (rest : List Stitch) (q : Nat) : Bool :=
  let l := seen.filter (e.sharesPort q)
  e.sharesPort q e && ((!l.isEmpty && decide (e.from8 < lastEnd 0 l + 2 * p.selv))
    || (!(rest.any (e.sharesPort q)) && decide (p.row + firstStart e.from8 l < max (lastEnd 0 l) e.to8 + 2 * p.selv)))

/-- The gaps of a consist entry (code 0x08). -/
def gap08 (p : SlotParam) (seen : List Stitch) (e : Stitch) (rest : List Stitch) : Bool :=
  consistKind e.kind && (List.range 16).any (gap08At p seen e rest)

/-- The codes of one entry, 0 where it passes; `seen` are the entries before it, latest first. -/
def entryCode (p : SlotParam) (seen : List Stitch) (e : Stitch) (rest : List Stitch) : Nat :=
  if e.kind = 0 ∨ 9 < e.kind ∨ e.reserved ∨ !e.ownerOk ∨ (e.kind = kMarker ∧ e.len ≠ 0) then 0x04
  else if (match seen with | x :: _ => decide (e.start < x.start) | [] => false) then 0x05
  else if p.row < e.to8 ∨ (backboneKind e.kind ∧ e.from8 < p.rs + 2 * p.selv) then 0x06
  else if gap07 p seen e rest then 0x07
  else if gap08 p seen e rest then 0x08
  else if 10 < e.rate ∨ 2 ^ e.rate ≤ e.phase then 0x09
  else if e.kind = kMarker ∧ e.rate ≠ 0 then 0x0A
  else if backboneKind e.kind ∧ e.to8 - e.from8 < 2 * txofs p.selv + 88 then 0x0B
  else 0

/-- Step 2: the first entry that fails, with its code. -/
def entriesCode (p : SlotParam) : List Stitch → List Stitch → Option (Nat × Nat)
  | _, [] => none
  | seen, e :: rest =>
    match entryCode p seen e rest with
    | 0 => entriesCode p (e :: seen) rest
    | c => some (c, seen.length)

/-- Step 3: exactly one MARKER of each MRK_SUB. -/
def markersOk (l : List Stitch) : Bool :=
  (l.countP fun e => e.kind == kMarker && e.mrkSub == 0) == 1 && (l.countP fun e => e.kind == kMarker && e.mrkSub == 1) == 1

/-- The check of a slot: the first failing code with its entry index, 0 and 0 where it passes. -/
def State.checkSlot (s : State) (sl : Nat) : Nat × Nat :=
  let p := s.slotParam sl
  if p.code ≠ 0 then (p.code, 0)
  else
    let l := (List.range p.cnt).map fun i => s.entry sl i
    match entriesCode p [] l with
    | some r => r
    | none =>
      if !markersOk l then (0x0A, 0)
      else if crc32 (s.tbs (entryAddr sl 0) (16 * p.cnt)) != s.rd (sch 0 (SCH_SLOT_CRC sl)) then (0x0D, 0)
      else (0, 0)

/-- A slot is checked: VALID and the code of its status. -/
def State.checked (s : State) (sl : Nat) : State :=
  let c := (s.checkSlot sl).1
  s.wrSch (SCH_SLOT_STAT sl) (setFld (setFld (s.rd (sch 0 (SCH_SLOT_STAT sl))) 0 1 (if c = 0 then 1 else 0)) 8 8 c)

/-- A write of SCH_CHK (R106): with GO and no running check it starts one; while BUSY is 1 it is discarded. -/
def State.chkWrite (s : State) (v : Word) : State :=
  if bit v 31 ∧ s.rdB (sch 0 SCH_CHK_STAT) 31 then s
  else
    let t := s.wrSch SCH_CHK (wordOf (fld v 0 3))
    if bit v 31 then { t.wrSch SCH_CHK_STAT 0x80000000 with sc := { s.sc with chkSlot := fld v 0 3 } } else t

/-- SLOT_CHECK: a write of SCH_CHK with GO. -/
def execSlotCheck (slot : Fin 8) (s : State) : Host.Outcome State Fault Refusal :=
  .next (s.guarded (sch 0 SCH_CHK) fun t => t.chkWrite (setBit (wordOf slot.val) 31 true))

/-- SLOT_CHECK_DONE: the running check ends with the verdict on the slot that it was started on. -/
def execSlotCheckDone (s : State) : Host.Outcome State Fault Refusal :=
  .next (s.when (s.dieUp 0 && s.rdB (sch 0 SCH_CHK_STAT) 31) fun t =>
    let sl := t.sc.chkSlot
    let r := t.checkSlot sl
    ((t.checked sl).wrSch SCH_CHK_STAT (setFld (setFld 0 0 8 r.1) 8 12 r.2)).raiseSch 12)

/-! ## Writes of slots, maps, overlays and suppression maps (R104, R105, R225) -/

/-- A bank maps a slot. -/
def State.slotMapped (s : State) (sl : Nat) : Bool :=
  (List.range 2).any fun b => (List.range 8).any fun p => s.slotOf b p == some sl

/-- The inauguration engine owns the shadow: from entry to COMMIT to the end of the double mapping (R225).
(DEDUCED, log entry 29) -/
def State.shdOwned (s : State) : Bool := s.rdB (sch 0 SCH_BLK_STAT) 0 || s.inaSt == inaCommit

/-- A shadow write is discarded with SHD_BUSY on a die's FWD page (R225, R238). -/
def State.shdBusy (s : State) (d : Nat) : State := s.raise (fwd d 0) 16

/-- Software has changed the shadow: it need no longer equal the active bank (R238). -/
def State.shdEdited (s : State) : State := s.wrSchB SCH_BLK_STAT 2 false

/-- A write to a slot's entries or registers: discarded with SLOT_BUSY while a bank maps the slot; else VALID clears (R104). -/
def State.slotWrite (s : State) (sl : Nat) (f : State → State) : State :=
  if s.slotMapped sl then s.raiseSch 10 else (f s).wrSchB (SCH_SLOT_STAT sl) 0 false

/-- The slots that a map's value maps are VALID (R104). -/
def State.mapOk (s : State) (v : Word) : Bool :=
  (List.range 8).all fun p => !bit v (4 * p + 3) || s.rdB (sch 0 (SCH_SLOT_STAT (fld v (4 * p) 3))) 0

/-- A write of the map register of bank `b` (R104, R225). -/
def State.mapWrite (s : State) (b : Nat) (v : Word) : State :=
  if b = s.actBank then s.raiseSch 10
  else if s.shdOwned then s.shdBusy 0
  else if !s.mapOk v then s.raiseSch 11
  else
    let t := s.wrSch (if b = 0 then SCH_MAP0 else SCH_MAP1) v
    if v = s.rd (mapReg b) then t else t.shdEdited

/-- A write of a word of an owner overlay (R104, R225): bit 6 of each byte is reserved (R102). -/
def State.overlayWrite (s : State) (b a : Nat) (v : Word) : State :=
  if b = s.actBank then s.raiseSch 10
  else if s.shdOwned then s.shdBusy 0
  else
    let t := s.setTw a (v &&& 0xBFBFBFBF)
    if t.tw a = s.tw a then t else t.shdEdited

/-- The writable bits of word `k` of a poll device entry (R166). -/
def pollDevMask (k : Nat) : Word := if k < 2 then 0xFFFFFFFF else if k = 2 then 0x3 else 0

/-- A write of a word of the SCH table window of die `d` at offset `o` (R132, R166). Slots, overlays and suppression maps of die 1
are mirrors, and the guardian list is read-only.
(DEDUCED, log entry 16) -/
def State.schWinWrite (s : State) (d o : Nat) (v : Word) : State :=
  let a := win d (0x0A00000 + o)
  if 0xA0000 ≤ o ∧ o < 0xC0000 then (s.setTw a (v &&& pollDevMask (o / 4 % 4))).noteEnt d 5 ((o - 0xA0000) / 16)
  else if d ≠ 0 then s
  else if o < 0x80000 then s.slotWrite (o / 0x10000) fun t => t.setTw a v
  else if o < 0x90000 then s.overlayWrite (o / 0x8000 % 2) a v
  else if o < 0x91000 then s.setTw a v
  else s

/-- The slot and register of an SCH page offset in 0x080–0x17F, if it is one that software writes. -/
def slotRegOf (o : Nat) : Option Nat := if 0x80 ≤ o ∧ o < 0x180 ∧ (o - 0x80) % 0x20 < 0x14 then some ((o - 0x80) / 0x20) else none

/-- The writable bits of a slot register (R131). -/
def slotMask (o : Nat) : Word :=
  match (o - 0x80) % 0x20 with
  | 0x00 => 0x007FFFFF
  | 0x04 => 0x00003FFF
  | 0x08 => 0x00001FFF
  | 0x0C => 0x000FFFFF
  | _ => 0xFFFFFFFF

/-- A write of a map or slot register of die 0's SCH page (R104). -/
def State.schRegWrite (s : State) (o : Nat) (v : Word) : State :=
  if o = SCH_MAP0 then s.mapWrite 0 v
  else if o = SCH_MAP1 then s.mapWrite 1 v
  else match slotRegOf o with
    | some sl => s.slotWrite sl fun t => t.wrSch o (v &&& slotMask o)
    | none => s

/-- A map or slot register of an SCH page, of which die 1's are mirrors. -/
def schTableReg (a : Nat) : Bool :=
  pageBase a == sch 0 0 && (a % 0x1000 == SCH_MAP0 || a % 0x1000 == SCH_MAP1 || (slotRegOf (a % 0x1000)).isSome)

/-- The SCH window offset of an address, with its die. -/
def schWinOf (a : Nat) : Option (Nat × Nat) :=
  if 0x10000000 ≤ a ∧ 0xA00000 ≤ (a - 0x10000000) % 0x8000000 ∧ (a - 0x10000000) % 0x8000000 < 0xB00000 then
    some ((a - 0x10000000) / 0x8000000, (a - 0x10000000) % 0x8000000 - 0xA00000)
  else none

/-- SCHEDULE_TABLE_WRITE: a write to a slot, map, overlay, suppression map or poll device entry. -/
def execScheduleTableWrite (addr : Nat) (value : Word) (s : State) : Host.Outcome State Fault Refusal :=
  .next (match schWinOf addr with
    | some (d, o) => s.guarded addr fun t => t.schWinWrite d o value
    | none => if schTableReg addr then s.guarded addr fun t => t.schRegWrite (addr % 0x1000) value else s)

/-! ## Swap requests (R112) -/

/-- A swap is requested, in place of one that still waits or is deferred: rejected where the profile is not mapped or the node is not the needle; a row whose start has passed is
taken at the next boundary, with SWAP_LATE. REQ stays until the swap takes effect.
(DEDUCED, log entry 29) -/
def State.swapRequest (s : State) (prf : Nat) : State :=
  if !s.needle || (s.slotOf s.actBank prf).isNone then (s.wrSch SCH_SWAP (wordOf prf)).raiseSch 3
  else
    let row := s.rd (sch 0 SCH_SWAP_ROW)
    let t := (((s.wrSch SCH_SWAP (setBit (wordOf prf) 31 true)).wrSchF SCH_STAT 4 3 prf).wrSchB SCH_STAT 7 true).wrSchB SCH_STAT 11 false
    if 1 ≤ stDiff row s.row then { t with sc := { t.sc with swapRow := row, swapLate := none } }
    else
      let u := t.raiseSch 1
      { u with sc := { u.sc with swapRow := s.row + 1, swapLate := some (s.row + 1) } }

/-- A write of SCH_SWAP. -/
def State.swapWrite (s : State) (v : Word) : State := if bit v 31 then s.swapRequest (fld v 0 3) else s.wrSch SCH_SWAP (setFld (s.rd (sch 0 SCH_SWAP)) 0 3 (fld v 0 3))

/-- SWAP_REQUEST: a write of SCH_SWAP with REQ. -/
def execSwapRequest (prf : Fin 8) (s : State) : Host.Outcome State Fault Refusal :=
  .next (s.guarded (sch 0 SCH_SWAP) fun t => t.swapRequest prf.val)

end Sys2Proof.Machine
end

