-- ==== Sys2Proof/Machine/Windows.lean ====
section
/-! DEFINITION. Software's writes to the table windows (R28, R185, R213, R219, R225, R268, R294, R478). -/

namespace Sys2Proof.Machine

/-! ## DSK windows (R246, R268) -/

/-- Some map of either bank of a die names a context. -/
def State.ctxNamed (s : State) (d c : Nat) : Bool :=
  s.tbl.any fun e => decide (dsMapAddr d 0 0 ≤ e.1 ∧ e.1 < dsMapAddr d 2 0) && e.1 % 2 == 1 && decide (128 ≤ e.2.toNat) && s.th (e.1 - 1) % 4096 == c

/-- Some consumed-skein map of either bank of either die names recovery context `i` of die `d`. -/
def State.recNamed (s : State) (d i : Nat) : Bool :=
  [0, 1].any fun k => s.tbl.any fun e =>
    decide (consMapAddr k 0 0 ≤ e.1 ∧ e.1 < consMapAddr k 2 0) && e.1 % 2 == 1 && decide (128 ≤ e.2.toNat)
      && s.th (e.1 - 1) % 16384 % 1024 == i && s.th (e.1 - 1) / 2 ^ 14 % 2 == d

/-- A write is discarded with CTX_BUSY.
(DEDUCED, log entry 53) -/
def State.ctxBusy (s : State) (d : Nat) : State := s.raise (dsk d 0) 8

/-- An address lies in the back buffer of a HOST context of a die.
(DEDUCED, log entry 53) -/
def State.hostBack (s : State) (d a : Nat) : Bool :=
  (s.ctxs d).any fun c => s.ctxValid d c && s.ctxRole d c == 1 && s.ctxSrc d c == 0 &&
    decide (s.bufAddr d c (1 - s.ctxFront d c) ≤ a ∧ a < s.bufAddr d c (1 - s.ctxFront d c) + bufUnits (s.ctxLen d c) * 64)

/-- A write of a banked word of the DSK window: the active bank is not written, and the shadow only while software owns it. -/
def State.dskBanked (s : State) (d b a : Nat) (v : Word) : State :=
  if b = s.bankOf d then s.ctxBusy d
  else if s.shdOwned then s.shdBusy d
  else
    let t := s.setTw a v
    if t.tw a = s.tw a then t else t.shdEdited

/-- The writable bits of word `k` of a TRDP entry (R262). -/
def trdpMask (k : Nat) : Word :=
  if k = 1 then 0x007FFFFF else if k = 4 then 0x0FFFFFFF else if k = 5 then 0xFFFF else if k < 5 then 0xFFFFFFFF else 0

/-- A context word is written: word 3 is the hardware's.
(DEDUCED, log entry 53) -/
def State.ctxWrite (s : State) (d c k : Nat) (v : Word) : State :=
  if k = 3 then s
  else if s.ctxNamed d c then s.ctxBusy d
  else s.setTw (ctxWord d c k) (v &&& if k = 0 then 0xFFFFFFFF else if k = 1 then 0x0FFFFFFF else 0x1FFF)

/-- A recovery context is written: it then takes any sequence (R260).
(DEDUCED, log entry 53) -/
def State.recWrite (s : State) (d i k : Nat) (v : Word) : State :=
  if s.recNamed d i then s.ctxBusy d
  else if k ≠ 0 then s
  else (s.setTw (recWord d i 0) (v &&& 0x00FF9FFF)).takeAny d i

/-- The boot loader waits for a host-loaded image: DIE_BOOT_STAT.STATE is FAILED or WAIT_HOST (R467, R473). -/
def State.bootWaits (s : State) : Bool := s.dieUp 0 && (s.rdF (die 0 DIE_BOOT_STAT) 0 4 == 6 || s.rdF (die 0 DIE_BOOT_STAT) 0 4 == 7)

/-- A word of the DSK window of die `d` is written at offset `o`. While the boot loader waits, die 0's image store takes the staged
image (R467).
(DEDUCED, log entry 53) -/
def State.dskWinWrite (s : State) (d o : Nat) (v : Word) : State :=
  let a := win d o
  if o < 0x400000 then (if s.hostBack d a || (d == 0 && s.bootWaits) then s.setTw a v else s.ctxBusy d)
  else if o < 0x410000 then s.ctxWrite d ((o - 0x400000) / 16) (o / 4 % 4) v
  else if o < 0x418000 then s.dskBanked d ((o - 0x410000) / 0x4000) a (v &&& 0x8FFF8FFF)
  else if o < 0x418200 then
    s.dskBanked d ((o - 0x418000) / 0x100) a (v &&& if o / 4 % 4 = 0 then 0x00019FFF else if o / 4 % 4 = 1 then 0x01FF0FFF else 0)
  else if o < 0x420000 then s
  else if o < 0x424000 then s.dskBanked d ((o - 0x420000) / 0x2000) a (v &&& 0x1FFF1FFF)
  else if o < 0x42C000 then s.dskBanked d ((o - 0x424000) / 0x4000) a (v &&& 0xC3FFC3FF)
  else if o < 0x430000 then s
  else if o < 0x434000 then s.recWrite d ((o - 0x430000) / 16) (o / 4 % 4) v
  else if o < 0x440000 then s
  else if o < 0x460000 then (s.setTw a (v &&& trdpMask (o / 4 % 8))).noteEnt d 6 ((o - 0x440000) / 32)
  else s

/-! ## FWD windows (R217, R220, R294) -/

/-- A write of a banked entry of the directory or the translation table, whose membership bits are bits `b0` and `b0 + 1` of word 2:
discarded while the engine owns the shadow (R225). -/
def State.fwdBanked (s : State) (d a2 b0 : Nat) (f : State → State) : State :=
  if s.shdOwned then s.shdBusy d
  else
    let t := f s
    (if bit (t.tw a2) b0 = bit (t.tw a2) (b0 + 1) then t else t.shdEdited).evalTables d

/-- TRAIN of a translation entry whose NODE_REL is 1 is computed with the node's number in the bank of the entry (R219, R220).
(DEDUCED, log entry 44) -/
def State.evalTrain (s : State) (d i : Nat) : State :=
  let w := s.tw (xltWord d i 2)
  if bit w 14 then
    let n := if bit w (12 + s.actBank) then s.stitchNum else if s.paired then s.pairNumIn (1 - s.actBank) else s.rdF (ina INA_STAT) 16 6
    s.setTw (xltWord d i 1) (s.trainAddr d n (s.tw (xltWord d i 0)))
  else s

/-- Word `k` of translation entry `i` is written.
(DEDUCED, log entry 44) -/
def State.xltWrite (s : State) (d i k : Nat) (v : Word) : State :=
  if k = 3 ∨ (k = 1 ∧ bit (s.tw (xltWord d i 2)) 14) then s
  else s.fwdBanked d (xltWord d i 2) 12 fun t =>
    ((t.setTw (xltWord d i k) (v &&& if k = 2 then 0x001FFFFF else 0xFFFFFFFF)).evalTrain d i).noteEnt d 2 i

/-- The writable bits of word `k` of a directory entry. -/
def dirMask (k : Nat) : Word := if k = 0 then 0xFFFFFFFF else if k = 1 then 0x3FFFFFFF else if k = 2 then 0x0007FFFF else 0x0000FFFF

/-- A word of the FWD window of die `d` is written at offset `o`.
(DEDUCED, log entry 44) -/
def State.fwdWinWrite (s : State) (d o : Nat) (v : Word) : State :=
  let a := win d (0x800000 + o)
  let k := o / 4 % 4
  if o < 0x100000 then s.fwdBanked d (dirWord d (o / 16) 2) 16 fun t =>
    ((t.setTw a (v &&& dirMask k)).noteEnt d 1 (o / 16)).when (k == 3) fun u => u.ageFrom d (o / 16)
  else if o < 0x140000 then s.xltWrite d ((o - 0x100000) / 16) k v
  else if o < 0x150000 then
    (s.setTw a (if k % 2 = 1 ∧ !s.part.twoDies then 0 else v)).noteEnt d 4 ((o - 0x140000) / 16)
  else if o < 0x190000 then
    (s.setTw a (v &&& if k = 2 then 0x8FFFFFFF else if k = 3 then 0x3F else 0xFFFFFFFF)).noteEnt d 3 ((o - 0x150000) / 16)
  else s

/-! ## All windows (R478) -/

/-- A word of a table window is written by software; `a` is a multiple of 4. Die 1's INA window is a mirror, and the statistics window
is read-only. -/
def State.winWrite (s : State) (a : Nat) (v : Word) : State :=
  let d := (a - 0x10000000) / 0x8000000
  let o := (a - 0x10000000) % 0x8000000
  if o < 0x800000 then s.dskWinWrite d o v
  else if o < 0xA00000 then s.fwdWinWrite d (o - 0x800000) v
  else if o < 0xB00000 then s.schWinWrite d (o - 0xA00000) v
  else if o < 0xB10000 then
    (if d = 0 ∧ 0xB02000 ≤ o ∧ o < 0xB023F0 then
      s.setTw a (v &&& if o / 4 % 4 < 2 then 0xFFFFFFFF else if o / 4 % 4 = 2 then 0xFF else 0)
    else s)
  else if d = 0 ∧ 0xB80000 ≤ o ∧ o < 0xBA0000 then s.fldWinWrite (o - 0xB80000) v
  else s

end Sys2Proof.Machine
end

