-- ==== Sys2Proof/Machine/Topology.lean ====
section
/-! DEFINITION. The meanings of the commands of Train Topology (R186 to R210) and of Address Translation, Directory and Blocking
(R218, R225, R229 to R237). -/

namespace Sys2Proof.Machine

/-! ## HELLO (R190, R193, R195, R196) -/

/-- The inauguration engine works. -/
def State.inaOn (s : State) : Bool := s.dieUp 0 && s.inaSt != inaOff

/-- A backbone port sends and takes TTDP frames: on die 1 over the Komidon link (R186), and not on a split side (R309). -/
def State.ttdpPort (s : State) (p : Nat) : Bool :=
  s.inaOn && isBackbone s.part p && s.portOn p && !s.split p && (p < 32 || (s.linkUp && s.rdF (klk 0 KLK_CRD_AV1) 0 10 != 0))

/-- A TTDP frame of `n` bytes is queued on a port in class 7; it leaves in a gap of the profile (R192, R536).
(DEDUCED, log entry 38) -/
def State.queueTtdp (s : State) (p n : Nat) (f : Frame) : State :=
  if s.ttdpPort p then
    (s.takeIn (s.freeCells (p / 32)) { id := s.fw.nextId, port := p, cls := 7, frame := f, len := n, pfc := none, hdrm := false, held := false }).newGroup
  else s

/-- HELLO_SEND: a port's HELLO, which says whose HELLO it hears. -/
def execHelloSend (p : Port) (s : State) : Host.Outcome State Fault Refusal :=
  .next (s.when (s.ttdpPort p.val) fun t =>
    ((t.reachFrom (helloMark p.val) t.helloIvl).mark (helloMark p.val)).queueTtdp p.val 128 (.hello t.uid (t.nbrUid p.val != 0)))

/-- A TTDP frame arrives: whether a port takes it, whole and verified. -/
def State.ttdpIn (s : State) (rx : Rx) : State × Bool :=
  if !s.ttdpPort rx.port.val then (s, false)
  else match s.takeRx rx false with
    | (t, .good) => (t.pst rx.port.val 3, true)
    | (t, _) => (t, false)

/-- HELLO_RX: the port's entry of the neighbour table, and the neighbour changes that it makes. -/
def execHelloRx (rx : Rx) (uid : Uid) (hearsUs : Bool) (s : State) : Host.Outcome State Fault Refusal :=
  .next (match s.ttdpIn rx with
    | (t, false) => t
    | (t, true) => t.when (uid != 0 && uid != t.uid) fun u => (u.mark (heardMark rx.port.val)).withNbr fun v =>
        let a := nbrAddr (portIdx v.part rx.port.val)
        ((v.setTuid a uid).setTb (a + 8) (BitVec.ofNat 8 (b2n hearsUs))).setTw (a + 12) (v.st 0))

/-- HELLO_TIMEOUT: nothing has been heard on the port for TMO_N intervals. -/
def execHelloTimeout (p : Port) (s : State) : Host.Outcome State Fault Refusal :=
  .next (s.when (s.inaOn && isBackbone s.part p.val) fun t =>
    (t.reachFrom (heardMark p.val) t.helloTmo).loseNbr p.val)

/-- CPL_DEBOUNCE_DONE: an enabled coupling sense has been stable for DB (R195). -/
def execCplDebounceDone (sd : Side) (s : State) : Host.Outcome State Fault Refusal :=
  .next (s.when (s.inaOn && s.rdB (ina INA_CPL) (sideNum sd)) fun t =>
    (t.expire (tmr (ina INA_CPL) (sideNum sd))).coupleDetect (sideNum sd))

/-- COUPLE_PEND_TIMEOUT: the side has had neither link nor neighbour for one HELLO timeout (R196). -/
def execCouplePendTimeout (sd : Side) (s : State) : Host.Outcome State Fault Refusal :=
  let n := sideNum sd
  .next (s.when (s.inaOn && s.coupling n && s.endSide n && (sidePorts s.part n).all fun p => !s.link p) fun t =>
    (t.reachFrom (loneMark n) t.helloTmo).setCouple n false)

/-! ## TOPOLOGY (R190, R191, R205) -/

/-- The counter by which the engine knows its own active tables: none before it is numbered (R202). -/
def State.ownTopo (s : State) : Option Word := if s.num = 0 then none else some (s.rd (ina INA_TOPO_ACT))

/-- Agreement is judged in AGREE: nothing new, a lag behind the needle's tables, or a new list (R203, R209).
(DEDUCED, log entry 43) -/
def State.evalAgree (s : State) : State :=
  if s.inaSt = inaAgree ∧ s.agreed then
    let t := s.raiseIna 3
    let c := t.computed
    if t.ownTopo = some c ∧ !t.hasNew then (t.countF (ina INA_CNT) 16 8).setIna inaStable
    else t.enterCommit (t.run && c == t.tp.rsTopo && t.ownTopo != some c)
  else s

/-- TOPOLOGY_SEND: the own frame leaves all backbone ports; in AGREE a TOPOLOGY interval ends with it. -/
def execTopologySend (s : State) : Host.Outcome State Fault Refusal :=
  .next (s.when s.inaOn fun t0 =>
    let t := (t0.reachFrom topoMark t0.topoIvl).mark topoMark
    let f := t.ownTopology
    let u := t.each (fun p v => v.queueTtdp p 256 (.topology f)) (backbonePorts t.part)
    let v : State := { u with tp := { u.tp with seq := f.seq } }
    if v.inaSt = inaAgree then (v.roundEnd).evalAgree else v)

/-- The vector of a node, by which a change is told (R203).
(DEDUCED, log entry 43) -/
def topoVector (f : Topology) : Uid × Uid × Uid × Bool × Bool := (f.nbr1, f.nbr2, f.cst, f.lead, f.cabSide)

/-- A frame not seen before is recorded, and relayed later.
(DEDUCED, log entry 43) -/
def State.recordTopology (s : State) (p : Nat) (f : Topology) : State :=
  { s with tp := { s.tp with relayed := s.tp.relayed ++ [(f.origin, f.seq)], vecs := Assoc.put s.tp.vecs f.origin f
                             toRelay := s.tp.toRelay ++ [(p, f)] } }

/-- A TOPOLOGY frame of another node that has not been seen before.
(DEDUCED, log entry 43) -/
def State.takeTopology (s : State) (p : Nat) (f : Topology) : State :=
  if 63 < f.nodes ∨ 32 < f.consists then s.countF (ina INA_CNT) 24 8
  else
    let old := (Assoc.get s.tp.vecs f.origin).map topoVector
    let t := s.recordTopology p f
    let u := if old = some (topoVector f) then t else t.change
    (u.report f.origin f.counter).evalInhibit

/-- TOPOLOGY_RX. -/
def execTopologyRx (rx : Rx) (f : Topology) (s : State) : Host.Outcome State Fault Refusal :=
  .next (match s.ttdpIn rx with
    | (t, false) => t
    | (t, true) => t.when (f.origin != 0 && f.origin != t.uid && !t.tp.relayed.contains (f.origin, f.seq)) fun u =>
        u.takeTopology rx.port.val f)

/-- TOPOLOGY_RELAY: a frame taken on a port leaves on the other side of its line. -/
def execTopologyRelay (p : Port) (f : Topology) (s : State) : Host.Outcome State Fault Refusal :=
  .next (s.when (s.tp.toRelay.contains (p.val, f)) fun t =>
    ({ t with tp := { t.tp with toRelay := t.tp.toRelay.erase (p.val, f) } }).queueTtdp (acrossPort p.val) 256 (.topology f))

/-! ## The state machine (R203, R205, R208, R216) -/

/-- STABLE_TIMEOUT: the stable timer expires in DISCOVER. -/
def execStableTimeout (s : State) : Host.Outcome State Fault Refusal :=
  .next (s.when (s.inaOn && s.inaSt == inaDiscover) fun t0 =>
    let t := t0.reachFrom stableMark t0.stableNs
    if t.inhibitSeen ∧ t.num ≠ 0 then ((t.setIna inaInhibited).wrB (ina INA_STAT) 7 true).raiseIna 12
    else ((t.setIna inaAgree).clearAgree))

/-- Both dies can finish the shadow: the single die, die 1 with its link, or die 0 alone where die 1 is left out (R216, R469). -/
def State.shadowWhole (s : State) : Bool := !s.part.twoDies || s.die1On || s.rdB (die 0 DIE_BOOT_STAT) 6

/-- SHADOW_WRITE_DONE: the shadow is complete on both dies. -/
def execShadowWriteDone (s : State) : Host.Outcome State Fault Refusal :=
  .next (s.when (s.dieUp 0 && s.tp.writing && s.inaSt == inaCommit && s.shadowWhole) fun t =>
    ({ t with tp := { t.tp with writing := false, complete := true } }).raiseIna 4)

/-- COMMIT_TIMEOUT: COMMIT_TMO rows have passed without an announcement. -/
def execCommitTimeout (s : State) : Host.Outcome State Fault Refusal :=
  .next (s.when (s.inaOn && s.inaSt == inaCommit && !s.tp.announced && decide (s.rdF (ina INA_BLK_CFG) 16 16 ≤ s.tp.commitRows)) fun t => t.frog)

/-- A write of INA_CTRL.RESTART is taken as a change. -/
def State.inaRestart (s : State) : State := s.when s.inaOn State.change

/-- INA_RESTART. -/
def execInaRestart (s : State) : Host.Outcome State Fault Refusal := .next (s.guarded (ina INA_CTRL) State.inaRestart)

/-- LOCAL_COMMIT_TIMER: without rows the node commits alone; its span of rows is then over at once. -/
def execLocalCommitTimer (s : State) : Host.Outcome State Fault Refusal :=
  .next (s.when (s.inaOn && s.cmpMode && s.inaSt == inaCommit && s.tp.complete) fun t0 =>
    let t := t0.reachFrom agreeMark (t0.rdF (ina INA_BLK_CFG) 0 8 * ms)
    let u := (t.blockNow t.row true).mvbRecheck t.actPrf t.actBank
    if u.rdB (sch 0 SCH_BLK_STAT) 1 then u.endSpan else u)

/-! ## Claims (R229, R230) -/

/-- The claim rows run: CLAIM_ROWS rows from the announcement row on. -/
def State.claimRow (s : State) : Bool :=
  s.blockPend && s.inaSt == inaCommit && decide (0 ≤ stDiff s.row s.tp.annRow ∧ stDiff s.row s.tp.annRow < s.rdF (ina INA_BLK_CFG) 8 8)

/-- The SKEIN and claimed SPARE stitches that the shadow overlays give this node. -/
def State.shadowOwned (s : State) : Nat :=
  match s.actSlot with
  | none => 0
  | some sl => (List.range (s.slotCnt sl)).countP fun i =>
      let e := s.entry sl i
      (e.kind == kSkein || e.kind == kSpare) && s.effOwner (1 - s.actBank) s.actPrf i e == s.rdF (ina INA_STAT) 16 6

/-- The spare that the node requests: the lowest without a shadow owner above any spare lost. -/
def State.spareToClaim (s : State) : Option Nat :=
  match s.actSlot with
  | none => none
  | some sl => (List.range (s.slotCnt sl)).find? fun i =>
      (s.entry sl i).kind == kSpare && ((s.overlayOwner (1 - s.actBank) s.actPrf i).getD 0) == 0
        && (match s.tp.lost with | some k => decide (k < i) | none => true)

/-- The first CLAIM stitch of the row that is active. -/
def State.claimStitch (s : State) : Option Nat :=
  match s.actSlot with
  | none => none
  | some sl => (List.range (s.slotCnt sl)).find? fun i =>
      (s.entry sl i).kind == kClaim && s.mayServe i (s.entry sl i)

/-- The needle takes a CLAIM of this row, once for each sender. -/
def State.takeClaim (s : State) (n : Nat) (u : Uid) (spare : Nat) : State :=
  if s.needle && s.claimRow && s.tp.claims.all (·.1 != n) then { s with tp := { s.tp with claims := s.tp.claims ++ [(n, u, spare)] } } else s

/-- The own CLAIM leaves in its stitch on both rotations and out of coupling sides.
(DEDUCED, log entry 32) -/
def State.sendClaim (s : State) (sid spare : Nat) (e : Stitch) : State :=
  let n := s.rdF (ina INA_STAT) 16 6
  let need := s.rdF (sch 0 SCH_YO_CFG) 0 4 - s.shadowOwned
  let t := s.reachSt (stitchSt s e + wordOf (txofs s.actSelv))
  let h := { t.hdr 0x06 t.row (BitVec.ofNat 16 sid) with sender := BitVec.ofNat 8 n }
  let f := Frame.sl h none (.claim { uid := t.uid, spare := BitVec.ofNat 12 spare, needed := BitVec.ofNat 8 need })
  let a := t.sendCopies sid t.actSelv 64 e (stitchSt t e) 0 true f ((backbonePorts t.part).filter fun p => t.turnAt p == .none)
  let u := (a.1.when a.2 fun v => v.sendCoupling f v.now true).countF (sch 0 SCH_YO_CNT) 0 8
  let v := (u.wrB (sch 0 SCH_YO_STAT) 4 true).wrF (sch 0 SCH_YO_STAT) 16 12 spare
  ({ v with tp := { v.tp with asked := some spare, claimed := some v.row } }).takeClaim n v.uid spare

/-- CLAIM_SEND. -/
def execClaimSend (sid : Fin 4096) (s : State) : Host.Outcome State Fault Refusal :=
  .next (if s.inaOn && s.run && s.claimRow && s.tp.claimed != some s.row && s.rdF (ina INA_STAT) 16 6 != 0 && decide (s.shadowOwned < s.rdF (sch 0 SCH_YO_CFG) 0 4)
      && s.claimStitch == some sid.val then
    (match s.spareToClaim, s.actEntry sid.val with
    | some k, some e => s.sendClaim sid.val k e
    | _, _ => s)
  else s)

/-- CLAIM_RX. -/
def execClaimRx (rx : Rx) (h : Hdr) (b : Claim) (s : State) : Host.Outcome State Fault Refusal :=
  .next (match s.takeStitch rx h 0x06 (fun t => b.uid == t.uid) none (.claim b) true with
    | (t, true) => t.takeClaim h.sender.toNat b.uid b.spare.toNat
    | (t, false) => t)

/-! ## Train and local blockings (R233, R234) -/

/-- TRAIN_REQ is written on the needle: a blocking is announced for SCH_BLK_ROW, or refused. -/
def State.trainReq (s : State) : State :=
  if !s.needle then s
  else if s.blockPend ∨ stDiff (s.rd (sch 0 SCH_BLK_ROW)) s.row < 2 then s.raiseSch 30
  else s.announce (s.rd (sch 0 SCH_BLK_ROW))

/-- TRAIN_BLOCKING_REQ. -/
def execTrainBlockingReq (s : State) : Host.Outcome State Fault Refusal := .next (s.guarded (sch 0 SCH_BLK_CTRL) State.trainReq)

/-- Two ranges of a table window hold the same. -/
def State.sameWin (s : State) (a b n : Nat) : Bool :=
  ((s.tbl.filter fun e => decide (a ≤ e.1 ∧ e.1 < a + n)).map fun e => (e.1 - a, e.2))
    == ((s.tbl.filter fun e => decide (b ≤ e.1 ∧ e.1 < b + n)).map fun e => (e.1 - b, e.2))

/-- The shadow maps, overlays and node list equal the active bank's. -/
def State.shadowSame (s : State) : Bool :=
  s.rd (mapReg 0) == s.rd (mapReg 1) && s.sameWin (overlayAddr 0 0 0) (overlayAddr 1 0 0) 0x8000 && s.sameWin (nodeAddr 0 0) (nodeAddr 1 0) 0x800

/-- LOCAL_REQ is written: a local blocking waits for SCH_BLK_ROW, or is refused.
(DEDUCED, log entry 32) -/
def State.localReq (s : State) : State :=
  if s.blockPend || s.shdOwned || !s.shadowSame then s.raiseSch 30
  else
    let u := (s.wrB (sch 0 SCH_BLK_STAT) 3 true).when (decide (stDiff (s.rd (sch 0 SCH_BLK_ROW)) s.row < 1)) fun t => t.raise (fwd 0 0) 17
    ({ u with tp := { u.tp with annRow := u.row } } : State).spanStart

/-- LOCAL_BLOCKING_REQ. -/
def execLocalBlockingReq (s : State) : Host.Outcome State Fault Refusal := .next (s.guarded (sch 0 SCH_BLK_CTRL) State.localReq)

/-! ## The tables (R218, R225, R237) -/

/-- BANKED_TABLE_WRITE: a write to a table window. -/
def execBankedTableWrite (addr : Nat) (value : Word) (s : State) : Host.Outcome State Fault Refusal :=
  .next (s.when (decide (0x10000000 ≤ addr ∧ addr < 0x20000000)) fun t => t.guarded addr fun u => u.winWrite (addr - addr % 4) value)

/-- DIR_AGE_EXPIRY: the AGE of a learned entry has reached FWD_DIR_CFG.AGE. -/
def execDirAgeExpiry (d : Sys2Proof.Die) (index : Fin 65536) (s : State) : Host.Outcome State Fault Refusal :=
  let k := dieNum d
  .next (s.when (s.dieUp k && bit (s.tw (dirWord k index.val 2)) 15) fun t =>
    (((t.reachAt (t.ageEnd k index.val)).clearWin (dirWord k index.val 0) 16).noteEnt k 1 index.val).evalTables k)

/-- Every learned entry of both dies is removed. -/
def State.flushAll (s : State) : State := s.each (fun d t => (t.flushLearned d).evalTables d) s.dies

/-- FLUSH_LEARNED: a write of FLUSH_LRN. -/
def execFlushLearned (s : State) : Host.Outcome State Fault Refusal := .next (s.guarded (fwd 0 FWD_DIR_FLUSH) State.flushAll)

end Sys2Proof.Machine
end

