-- ==== Sys2Proof/Machine/Pages.lean ====
section
/-! DEFINITION. Register pages: which of them the part has (R2 to R4, R12, R476), the common header (R479 to R485), and the MDIO
masters (R492). -/

namespace Sys2Proof.Machine

/-! ## Pages of the part -/

/-- A page that exists in the part: die 1 and the Komidon pages only with two dies, the host, bridge and field bus pages on die 0
only, the ports enabled, and the MACsec ports of R424. -/
def hasPage (pt : Part) (p : Page) : Bool :=
  (p.die != 1 || pt.twoDies) &&
    match p.kind with
    | .hdm | .msix | .txRings | .rxRings | .brg | .fld => p.die == 0
    | .klk => pt.twoDies
    | .prt => decide (p.die * 32 + p.idx < pt.ports)
    | .sa => hasSa pt p.die p.idx
    | _ => true

/-- The page at an address, if the part has it. -/
def State.pageOf (s : State) (a : Nat) : Option Page := (pageAt a).filter (hasPage s.part)

/-- PG_STAT of a page (R479, R484): READY, BUSY, FAULT and, on the DIE page, the mode. BUSY is held in the register itself. -/
def State.pgStat (s : State) (p : Page) (base : Nat) : Word :=
  let fault : Bool := match p.kind with
    | .sch => s.rdB (base + SCH_GRD_STAT) 1
    | .twn => s.rdB (twn 0 TWN_STAT) 12
    | .kby => s.rd (kby KBY_FAULT) != 0
    | .swt => s.rdF (base + SWT_BIST_STAT) 16 16 != 0
    | .die => p.die == 0 && s.rdF (die 0 DIE_BOOT_STAT) 0 4 == 6
    | .klk => !s.rdB (base + KLK_STAT) 0 && s.rdF (base + KLK_STAT) 16 16 != 0
    | _ => false
  let mode := if p.kind = .die then s.mode.code % 8 else 0
  wordOf (1 + b2n (s.rdB (base + PG_STAT) 1) * 2 + b2n fault * 4 + mode * 16)

/-! ## PG_EVT and PG_EVEN (R371, R485) -/

/-- A write of 1s to PG_EVT clears those bits; the bits of `set` are set by hardware in the same cycle and end at 1. A bit that is set
anew after its clearing counts as an edge. -/
def State.evtClear (s : State) (base : Nat) (ones set : Word) : State :=
  let t := s.wr (base + PG_EVT) (s.rd (base + PG_EVT) &&& ~~~ones)
  t.each (fun i u => u.when (bit set i) fun x => x.raise base i) (List.range 32)

/-- PG_EVT_CLEAR: taken on a locked page too. -/
def execPgEvtClear (page : Nat) (ones set : Word) (s : State) : Host.Outcome State Fault Refusal :=
  .next (s.when (s.pageOf page).isSome fun t => t.guarded (pageBase page + PG_EVT) fun u => u.evtClear (pageBase page) ones set)

/-- A write of PG_EVEN: enabling a bit that is already set is an edge. -/
def State.evenWrite (s : State) (base : Nat) (v : Word) : State :=
  let rise := v &&& ~~~s.rd (base + PG_EVEN) &&& s.rd (base + PG_EVT)
  (s.wr (base + PG_EVEN) v).edges (pageSource base) (popCount rise)

/-! ## PG_CTRL.ENABLE and POWER_REQ (R481, R483) -/

/-- A port's engine stops: its link goes down, and a backbone port loses its lock. -/
def State.portHeld (s : State) (p : Nat) : State :=
  let t := s.when (s.link p) fun u => u.linkDown p
  t.when (isBackbone t.part p && t.lock p) fun u => u.lineLost p .lock

/-- A write of ENABLE on a PRT or FLD page. -/
def State.enableWrite (s : State) (p : Page) (v : Bool) : State :=
  match p.kind with
  | .prt =>
    let n := p.die * 32 + p.idx
    (s.wrB (prt n PG_CTRL) 0 v).when (!v) fun t => t.portHeld n
  | .fld => s.fldEnable v
  | _ => s

/-- PORT_ENABLE_WRITE. -/
def execPortEnableWrite (page : Nat) (v : Bool) (s : State) : Host.Outcome State Fault Refusal :=
  .next (match s.pageOf page with
    | some p => s.guarded (pageBase page + PG_CTRL) fun t => t.enableWrite p v
    | none => s)

/-- A write of POWER_REQ on a PRT page: OFF has the effect of ENABLE at 0, and the regions' floors follow AWAKE. -/
def State.powerWrite (s : State) (n v : Nat) : State :=
  ((s.wrF (prt n PG_CTRL) 2 2 v).when (v == 2) fun t => t.portHeld n).evalFloors

/-- POWER_REQ_WRITE. -/
def execPowerReqWrite (p : Port) (v : BitVec 2) (s : State) : Host.Outcome State Fault Refusal :=
  .next (s.when (decide (p.val < s.part.ports)) fun t => t.guarded (prt p.val PG_CTRL) fun u => u.powerWrite p.val v.toNat)

/-! ## Soft reset (R482) -/

/-- The pages on which a write of SOFT_RESET is discarded. -/
def noSoftReset : PageKind → Bool
  | .die | .cpm | .evcCtl | .evcMap | .evcRoute | .tmu | .kpr | .kps => true
  | _ => false

/-- A block register that a soft reset of its page returns to its reset value. SWT_LBIST is cleared by POR_N alone (R454). -/
def softReg (base a : Nat) : Bool :=
  decide (base + 0x040 ≤ a) && decide (a < base + 0x1000) && a % 0x04000000 != 0x1F0000 + SWT_LBIST

/-- What a soft reset ends before the registers of its page are reset: a link, a test, a token, a port (R157).
(DEDUCED, log entry 51) -/
def State.softBefore (s : State) (p : Page) : State :=
  match p.kind with
  | .klk => (s.linkLost true).keepCrd p.die
  | .prt => s.portHeld (p.die * 32 + p.idx)
  | .twn => if p.die = 0 then s.dropToken else s
  | .fld => s.each (fun i u => u.fldStop i) (List.range 6)
  | .kby => (s.releaseLine 0).releaseLine 1
  | .clu => { s with fw := { s.fw with staged := s.fw.staged.filter (· ≠ p.die * 4 + p.idx) } }
  | .rgn => s.rgnCount (p.die * 2 + p.idx) (s.rgnState (p.die * 2 + p.idx)) 0
  | .hdm => s.pcieDown
  | .rng => s.setInsLine p.die false
  | _ => s

/-- What the blocks hold beside the registers of the page, as after a reset. -/
def State.softHidden (s : State) (p : Page) : State :=
  match p.kind with
  | .sch => if p.die = 0 then { s with sc := Sched.init } else s
  | .ina => if p.die = 0 then { s with tp := Topo.init } else s
  | .dsk => { s with dk := { s.dk with flips := s.dk.flips.filter (·.die ≠ p.die), knits := s.dk.knits.filter (·.die ≠ p.die), ntf := s.dk.ntf.filter (·.1 ≠ p.die) } }
  | .rng => if p.die = 0 then { s with rg := Ring.init } else s
  | .twn => if p.die = 0 then { s with pr := { Twin.init with tok0 := s.pr.tok0, tok1 := s.pr.tok1 } } else s
  | .swt => ({ s with sw := { s.sw with tests := s.sw.tests.filter (·.die != p.die) } } : State).setBist p.die .idle
  | .sta => s.clearLive p.die
  | .brg => { s with hi := HostIf.init s.hi.perstN }
  | .fld => { s with fb := FieldBus.init }
  | .prt => { s with cn := { s.cn with guards := Assoc.del s.cn.guards (p.die * 32 + p.idx) } }
  | .kby => { s with kp := { s.kp with stuck := 0, sampling := 0 } }
  | _ => s

/-- What the registers of the page take from straps, OTP and part, and from the state of other blocks, after their reset.
(DEDUCED, log entry 51) -/
def State.softAfter (s : State) (p : Page) (base : Nat) : State :=
  match p.kind with
  | .prt =>
    let n := p.die * 32 + p.idx
    let t := s.loadLat n
    (if !t.part.twoDies && (n == 2 || n == 3) then t.wr (prt n PRT_SRSV) 0x48 else t).evalPort n
  | .clu =>
    let ports := (diePorts s.part p.die).filter fun n => pageBase (weightReg n) == base
    let t := s.each (fun n u => u.wr (weightReg n) (if isBackbone u.part n then 10 else if isUplink u.part n then 4 else 1)) ports
    if p.idx = 0 then t.wr (base + CLU_WGT 8) 10 else if p.idx = 1 ∧ p.die = 0 then t.wr (base + CLU_WGT 9) 26 else t
  | .sch =>
    let t := (s.wr (base + SCH_CS_UID_LO) (s.otpW 18)).wr (base + SCH_CS_UID_HI) (s.otpW 19)
    if p.die = 0 then
      let u := t.wrB (sch 0 SCH_CS_CFG) 0 (t.straps.getLsbD 0)
      (u.wrF (sch 0 SCH_CS_STAT) 4 3 u.rank).evalNbr
    else t
  | .ina => s.evalNbr
  | .fwd => s.evalTables p.die
  | .buf => (diePorts s.part p.die).foldl (fun t n => t.evalPort n) (s.evalBuf p.die)
  | .rgn => (s.evalFloors).evalShared p.die
  | .twn => if p.die = 0 then (s.wrB (twn 0 TWN_CFG) 1 (s.straps.getLsbD 1)).evalTok else s
  | .sec => if p.die = 0 then s.loadOtp else s
  | .sta => s.meterOn (sta p.die STA_STAT)
  | .kwk => s.evalNeed
  | .kby | .rng => s.evalRelays
  | _ => s

/-- The timers that the registers of a page govern stop: not the power sequencer's, the debounces' or a programming's, which run on. -/
def State.softTimers (s : State) (p : Page) (base : Nat) : State :=
  match p.kind with
  | .kps | .kwk | .sec => s
  | _ => s.dropTimers fun a => pageBase a == base

/-- What a soft reset of a page leaves, or does beside it: the debug unlock (R432), a programming in progress, the self-clearing bits
whose action is still to come, and the lifting of a port's fence (R157).
(DEDUCED, log entry 51) -/
def State.softKeep (s t : State) (p : Page) : State :=
  match p.kind, p.die with
  | .sec, 0 => (t.wrB (sec 0 SEC_STAT) 1 (s.rdB (sec 0 SEC_STAT) 1)).wrB (sec 0 SEC_OTP_PROG) 30 (s.rdB (sec 0 SEC_OTP_PROG) 30)
  | .prt, d =>
    let n := d * 32 + p.idx
    t.when (s.fenced n) fun u => (u.setGuard n { u.guard n with lifted := some u.now }).raise (prt n 0) 10
  | .rng, 0 => t.wrB (rng 0 RNG_FORCE) 8 (s.rdB (rng 0 RNG_FORCE) 8)
  | .twn, 0 => t.wrF (twn 0 TWN_CTRL) 0 2 (s.rdF (twn 0 TWN_CTRL) 0 2)
  | .sch, 0 => t.wrF (sch 0 SCH_STM_OUT_NEXT) 0 8 (s.rdF (sch 0 SCH_STM_OUT_NEXT) 0 8)
  | .sta, d => t.wrB (sta d STA_CTRL) 0 (s.rdB (sta d STA_CTRL) 0)
  | _, _ => t

/-- A soft reset of a page: block registers at their reset values, PG_EVT clear, the page locked, BUSY set.
(DEDUCED, log entry 51) -/
def State.softNow (s : State) (p : Page) (base : Nat) : State :=
  let s1 := s.softBefore p
  let s2 : State := { s1 with
    regs := Sparse.drop (softReg base) s1.regs, lat := s1.lat.filter fun e => pageBase e.2.1 != base
    fw := { s1.fw with eff := s1.fw.eff.filter fun e => pageBase e.1 != base } }
  let s3 := (((s2.wr (base + PG_EVT) 0).wrF (base + PG_LOCK) 0 9 0).wrB (base + PG_STAT) 1 true).softTimers p base
  s1.softKeep ((s3.softHidden p).softAfter p base) p

/-- A write of SOFT_RESET; on the SCH, INA and FWD pages it is deferred while FROZEN (R235).
(DEDUCED, log entry 51) -/
def State.softReset (s : State) (p : Page) (base : Nat) : State :=
  if noSoftReset p.kind then s
  else if (p.kind == .sch || p.kind == .ina || p.kind == .fwd) && s.frozen then { s with tp := { s.tp with resets := s.tp.resets ++ [base] } }
  else s.softNow p base

/-- SOFT_RESET. -/
def execSoftReset (page : Nat) (s : State) : Host.Outcome State Fault Refusal :=
  .next (match s.pageOf page with
    | some p => s.guarded (pageBase page + PG_CTRL) fun t => t.softReset p (pageBase page)
    | none => s)

/-- SOFT_RESET_DONE. -/
def execSoftResetDone (page : Nat) (s : State) : Host.Outcome State Fault Refusal :=
  .next (s.when (s.pageOf page).isSome fun t => t.wrB (pageBase page + PG_STAT) 1 false)

/-! ## MDIO (R492) -/

/-- GO starts a frame, which waits while RST_OUT_N is low; while one is BUSY the write is discarded.
(DEDUCED, log entry 52) -/
def State.mdioGo (s : State) (m : Nat) (v : Word) : State :=
  if s.rdB (s.mdio m DIE_MDIO_STAT) 0 then s
  else
    let t := (s.wr (s.mdio m DIE_MDIO_CMD) (v &&& 0x1FFF)).wr (s.mdio m DIE_MDIO_STAT) 1
    t.when (!t.rdB (kps KPS_STAT) 10) fun u => u.mdioSend m

/-- An MDIO command as its register write: C45, OP, PHY and register. -/
def State.mdioCmd (s : State) (m : Nat) (c45 : Bool) (op phy reg : Nat) : State :=
  s.guarded (s.mdio m DIE_MDIO_CMD) fun t => t.mdioGo m (wordOf (phy + reg * 2 ^ 5 + op * 2 ^ 10 + b2n c45 * 2 ^ 12))

/-- MDIO_C22_WRITE. -/
def execMdioC22Write (m : Fin 2) (phy reg : BitVec 5) (s : State) : Host.Outcome State Fault Refusal :=
  .next (s.mdioCmd m.val false 1 phy.toNat reg.toNat)

/-- MDIO_C22_READ. -/
def execMdioC22Read (m : Fin 2) (phy reg : BitVec 5) (s : State) : Host.Outcome State Fault Refusal :=
  .next (s.mdioCmd m.val false 2 phy.toNat reg.toNat)

/-- MDIO_C45_ADDRESS. -/
def execMdioC45Address (m : Fin 2) (phy reg : BitVec 5) (s : State) : Host.Outcome State Fault Refusal :=
  .next (s.mdioCmd m.val true 0 phy.toNat reg.toNat)

/-- MDIO_C45_WRITE. -/
def execMdioC45Write (m : Fin 2) (phy reg : BitVec 5) (s : State) : Host.Outcome State Fault Refusal :=
  .next (s.mdioCmd m.val true 1 phy.toNat reg.toNat)

/-- MDIO_C45_READ. -/
def execMdioC45Read (m : Fin 2) (phy reg : BitVec 5) (s : State) : Host.Outcome State Fault Refusal :=
  .next (s.mdioCmd m.val true 3 phy.toNat reg.toNat)

/-- MDIO_C45_READ_INC. -/
def execMdioC45ReadInc (m : Fin 2) (phy reg : BitVec 5) (s : State) : Host.Outcome State Fault Refusal :=
  .next (s.mdioCmd m.val true 2 phy.toNat reg.toNat)

/-- The command that runs reads a PHY: clause 22 OP read, or one of the two clause 45 reads. -/
def State.mdioReads (s : State) (m : Nat) : Bool := s.rdF (s.mdio m DIE_MDIO_CMD) 10 2 == 2 || s.rdF (s.mdio m DIE_MDIO_CMD) 10 3 == 7

/-- A command ends: a read's data, or 0xFFFF with NO_TA; DONE and MDIO_DONE.
(DEDUCED, log entry 52) -/
def State.mdioEnd (s : State) (m : Nat) (data : Nat) (noTa : Bool) : State :=
  let rd := s.mdioReads m
  let t := s.when rd fun u => u.wr (u.mdio m DIE_MDIO_DATA) (if noTa then 0xFFFF else wordOf data)
  (t.wr (t.mdio m DIE_MDIO_STAT) (if rd && noTa then 6 else 2)).raise (pageBase (t.mdio m 0)) 3

/-- MDIO_DONE: a command that runs ends, once RST_OUT_N has risen. -/
def execMdioDone (m : Fin 2) (data : BitVec 16) (noTa : Bool) (s : State) : Host.Outcome State Fault Refusal :=
  .next (s.when (s.rdB (s.mdio m.val DIE_MDIO_STAT) 0 && s.dieUp (dieOf (s.mdio m.val 0)) && !s.rdB (kps KPS_STAT) 10) fun t =>
    (t.expire (tmr (t.mdio m.val DIE_MDIO_CMD) 0)).mdioEnd m.val data.toNat noTa)

end Sys2Proof.Machine
end

