-- ==== Sys2Proof/Machine/Remote.lean ====
section
/-! DEFINITION. The initiator side of the register bridge: its requests, held blocks, error records and windows (R408 to R418), and
the answers to host accesses (R406, R414). -/

namespace Sys2Proof.Machine

/-! ## Answers to the host (R406, R414) -/

/-- A management SPI transaction is answered: KMS shows its status, and one other than OK counts (R406, R493).
(DEDUCED, log entry 55) -/
def State.mspiAnswer (s : State) (status : Nat) (v : Word) : State :=
  let t := ((s.wr (kms KMS_STAT) (wordOf (status * 16))).emit (.mspi status (if status = 0 then v else 0))).arm khfTmr ms
  t.when (status != 0) fun u => (u.count (kms KMS_CNT_ERR)).raise (kms 0) 0

/-- An access through the remote windows is answered once all its parts have been. -/
def State.answerAccess (s : State) (x : BrAccess) : State :=
  match x.agent with
  | .mspi => s.mspiAnswer (if x.failed then 5 else 0) (if x.write then 0 else x.words.headD 0)
  | _ => if x.failed && s.rdB (brg BRG_CFG) 1 then s.emit .abort else s.emit (.completion x.words)

/-- A part of an access is still to be answered or issued. -/
def State.accessOpen (s : State) (id : Nat) : Bool :=
  (s.hi.reqs.any fun r => (r.access.map Prod.fst) == some id) || (s.hi.waits.any fun w => (w.access.map Prod.fst) == some id)

/-- The accesses of which no part is open are answered. -/
def State.answerDone (s : State) : State :=
  let done := s.hi.accs.filter fun x => !s.accessOpen x.id
  ({ s with hi := { s.hi with accs := s.hi.accs.filter fun x => s.accessOpen x.id } } : State).each (fun x t => t.answerAccess x) done

/-- Words of a list replaced from a place on. -/
def putWords (l ws : List Word) (pos : Nat) : List Word := l.take pos ++ ws ++ l.drop (pos + ws.length)

/-- A part of an access has its words, or has failed: every dword of it reads as 1s. -/
def State.fillAccess (s : State) (a : Option (Nat × Nat)) (ws : List Word) (failed : Bool) : State :=
  match a with
  | none => s
  | some (id, pos) =>
    { s with hi := { s.hi with accs := s.hi.accs.map fun x =>
        if x.id = id then { x with words := putWords x.words ws pos, failed := x.failed || failed } else x } }

/-! ## Records and counts (R409, R416) -/

/-- The bytes of write data that the bridge holds. -/
def State.brgBytes (s : State) : Nat := ((s.hi.reqs.filter (·.write)).map (·.len)).sum

/-- The requests of a window that are outstanding. -/
def State.winOut (s : State) (w : Nat) : Nat := (s.hi.reqs.filter (·.w == w)).length

/-- BRG_STAT and the windows' counts follow.
(DEDUCED, log entry 54) -/
def State.evalBrg (s : State) : State :=
  let st := wordOf (min 255 s.hi.reqs.length + s.brgBytes / 1024 * 256 + b2n (!s.hi.waits.isEmpty) * 65536)
  (s.wr (brg BRG_STAT) st).each (fun w t => t.wr (brg (BRG_WIN_OUT w)) (wordOf (t.winOut w))) (List.range 8)

/-- A failed request is recorded; a full FIFO drops the record. -/
def State.brgErr (s : State) (w : Nat) (write : Bool) (status : Nat) (seq : BitVec 16) (addr : Nat) (farRow : Word) : State :=
  if 32 ≤ s.hi.errs.length then (s.countF (brg BRG_ERR_CNT) 16 16).raise (brg 0) 5
  else
    let w0 := wordOf (w + b2n write * 16 + 128 + status * 256 + seq.toNat * 65536)
    let t : State := { s with hi := { s.hi with errs := s.hi.errs ++ [[w0, wordOf addr, farRow, s.st 0]] } }
    (t.wrF (brg BRG_ERR_CNT) 0 6 t.hi.errs.length).raise (brg 0) 0

/-- What a read of BRG_ERR_W0 answers. -/
def State.errFront (s : State) : Word := (s.hi.errs.headD []).headD 0

/-- A read of BRG_ERR_W0 removes the oldest record and latches its other words. -/
def State.errPop (s : State) : State :=
  let r := s.hi.errs.headD []
  let t : State := { s with hi := { s.hi with errs := s.hi.errs.drop 1 } }
  (((t.wr (brg BRG_ERR_W1) (r.getD 1 0)).wr (brg BRG_ERR_W2) (r.getD 2 0)).wr (brg BRG_ERR_W3) (r.getD 3 0)).wrF (brg BRG_ERR_CNT) 0 6
    t.hi.errs.length

/-- What a read of BRG_REV_W0 answers. -/
def State.revFront (s : State) : Word := (s.hi.revs.headD []).headD 0

/-- A read of BRG_REV_W0 removes the oldest remote event and latches its other words. -/
def State.revPop (s : State) : State :=
  let r := s.hi.revs.headD []
  let t : State := { s with hi := { s.hi with revs := s.hi.revs.drop 1 } }
  (t.each (fun i u => u.wr (brg (BRG_REV_W i)) (r.getD i 0)) [1, 2, 3, 4, 5, 6]).wrF (brg BRG_REV_CNT) 0 7 t.hi.revs.length

/-! ## Retiring and flushing (R412, R413, R418) -/

/-- A queued frame is that of a request. -/
def BrOut.isReq (w : Nat) (seq : BitVec 16) : BrOut → Bool
  | .req a q => a == w && q == seq
  | _ => false

/-- A request leaves the bridge, and its queued frame with it. -/
def State.dropReq (s : State) (r : BrReq) : State :=
  { s with hi := { s.hi with reqs := s.hi.reqs.filter fun x => !(x.w == r.w && x.seq == r.seq),
                             outq := s.hi.outq.filter fun o => !o.isReq r.w r.seq } }

/-- A request fails: it is retired with an error record, and its part of an access fails. -/
def State.failReq (s : State) (r : BrReq) (status : Nat) (farRow : Word) : State :=
  let t := (s.dropReq r).brgErr r.w r.write status r.seq r.addr farRow
  t.fillAccess r.access (if r.write then [] else List.replicate (r.len / 4) 0xFFFFFFFF) true

/-- The held blocks of a window are discarded. -/
def State.dropBlocks (s : State) (w : Nat) : State := { s with hi := { s.hi with blocks := s.hi.blocks.filter (·.w != w) } }

/-- The next request of a window carries NEWSEQ (R412). -/
def State.markNewSeq (s : State) (w : Nat) : State := { s with hi := { s.hi with newSeq := s.hi.newSeq ||| BitVec.ofNat 8 (2 ^ w) } }

/-- A window is flushed: its requests are discarded with FLUSHED, and its held blocks. -/
def State.flushWin (s : State) (w : Nat) : State :=
  (((s.each (fun r t => t.failReq r 0x12 0) (s.hi.reqs.filter (·.w == w))).dropBlocks w).markNewSeq w)

/-- A write of BRG_CTRL.FLUSH. -/
def State.brgFlush (s : State) (mask : Nat) : State :=
  ((s.each (fun w t => t.when (mask.testBit w) fun u => u.flushWin w) (List.range 8)).answerDone).evalBrg

/-- A window is on: by number or by UID (R408, R422). -/
def winOn (cfg : Word) : Bool := fld cfg 0 2 == 1 || fld cfg 0 2 == 2

/-- A write of a register of window `w` discards its held blocks; disabling the window flushes it, and enabling it makes its next
request carry NEWSEQ. -/
def State.winRegWrite (s : State) (w a : Nat) (v : Word) : State :=
  let t := (s.wr a v).dropBlocks w
  if a = brg (BRG_WIN_CFG w) then
    (if winOn (s.rd a) && !winOn v then ((t.flushWin w).answerDone).evalBrg
    else if !winOn (s.rd a) && winOn v then t.markNewSeq w else t)
  else t

end Sys2Proof.Machine
end

