-- ==== Sys2Proof/Machine/Bus.lean ====
section
/-! DEFINITION. The register bus: what one 32-bit read or write of a device address does (R3, R8, R9, R399, R486, R487). Registers
whose write or read has an effect of its own lead to the same functions as the commands of their chapters. -/

namespace Sys2Proof.Machine

/-! ## Mirrors and registers that a die or a part does not have -/

/-- A cold-start, blocking or yarn-over register, or one that R105 names, of the SCH page.
(DEDUCED, log entry 48) -/
def schMirror (o : Nat) : Bool :=
  o == SCH_CTRL || o == SCH_MAP0 || o == SCH_MAP1 || o == SCH_SWAP || o == SCH_SWAP_ROW || o == SCH_SWAP_MIN || o == SCH_CHK
    || o == SCH_CHK_STAT || decide (0x080 ≤ o ∧ o < 0x180) || o == SCH_CTL_DA_LO || o == SCH_CTL_DA_HI || o == SCH_ETYPE
    || decide (0x240 ≤ o ∧ o < 0x2A0)

/-- Registers of die 1 that are read-only mirrors of die 0's (R69, R105, R147, R186, R238, R314, R340, R491).
(DEDUCED, log entry 48) -/
def mirrored (k : PageKind) (o : Nat) : Bool :=
  match k with
  | .tmu => o == TMU_CTRL || (decide (0x100 ≤ o ∧ o < 0x200) && (decide ((o - 0x100) % 0x80 < 0x20) || decide (0x40 ≤ (o - 0x100) % 0x80)))
  | .sch => schMirror o
  | .ina => true
  | .rng => o == RNG_STAT || o == RNG_TURN_ST || o == RNG_NTC_SEQ || decide (0x100 ≤ o ∧ o < 0x140)
  | .twn => decide (o < TWN_CNT_DELTA)
  | .die => o == DIE_MAC_LO || o == DIE_MAC_HI
  | _ => false

/-- Registers that are reserved on die 1 (R131, R392, R436, R473). -/
def die0Only (k : PageKind) (o : Nat) : Bool :=
  match k with
  | .die => decide (o < 0x080)
  | .evcCtl => decide (0x044 ≤ o) && o != EVC_SRC_CMD
  | .tmu => o == TMU_PPS_CFG
  | .sch => decide (0x200 ≤ o ∧ o < 0x240)
  | .sec => o == 0x044 || decide (0x058 ≤ o)
  | _ => false

/-- Registers that the part does not have: the second masters in the DN-6464, record rings in the DN-6464, T0 to T7's claim and
completion registers in the record parts, and the upper port words of the single-die parts (R96, R343, R392, R492). -/
def notInPart (pt : Part) (k : PageKind) (o : Nat) : Bool :=
  match k with
  | .tmu => !pt.twoDies && decide (0x100 ≤ o ∧ o < 0x200)
      && ((o - 0x100) % 0x80 == 0x4C || (o - 0x100) % 0x80 == 0x54 || (o - 0x100) % 0x80 == 0x60)
  | .die => pt.twoDies && decide (0x0C0 ≤ o ∧ o < 0x0E0)
  | .rng => pt.twoDies && decide (0x180 ≤ o ∧ o < 0x1C0)
  | .evcCtl => if pt.twoDies then decide (0x100 ≤ o ∧ o < 0x200) else decide (0x080 ≤ o ∧ o < 0x0C0)
  | _ => false

/-- Registers that a port does not have, by what it serves: the guard's and the policer's on a backbone port (R164), preemption's on
an edge port, the gate configuration on a backbone port, PFC's on all but the uplinks (R292), and the line's on all but the backbone
ports (R355). -/
def notOnPort (pt : Part) (p o : Nat) : Bool :=
  (decide (0x300 ≤ o ∧ o < 0x36C) && isBackbone pt p) || ((o == PRT_PRE_CFG || o == PRT_PRE_STAT) && isEdge pt p)
    || (o == PRT_GATE_CFG && isBackbone pt p)
    || ((o == PRT_PFC_CFG || o == PRT_PFC_THR || o == PRT_PFC_HDRM || o == PRT_PFC_STAT) && !isUplink pt p)
    || ((o == PRT_LINE_CFG || o == PRT_LINE_STAT) && !isBackbone pt p)

/-- A block register is reserved for this part, die and port: it reads 0, and writes to it are discarded (R8). -/
def State.reservedReg (s : State) (p : Page) (o : Nat) : Bool :=
  (p.die == 1 && die0Only p.kind o) || notInPart s.part p.kind o || (p.kind == .prt && notOnPort s.part (p.die * 32 + p.idx) o)

/-- The address at which a block register of a page is held: a mirror's on die 0 (R69, R105).
(DEDUCED, log entry 48) -/
def homeAddr (p : Page) (a : Nat) : Nat := if p.die = 1 ∧ mirrored p.kind (a % 0x1000) then a - 0x04000000 else a

/-! ## Plain registers (R9) -/

/-- A write of a register without behaviour of its own: writable bits are stored, written 1s clear W1C bits, the rest stays. -/
def State.storeReg (s : State) (a : Nat) (v : Word) : State :=
  match regRowAt a with
  | some r =>
    match r.acc with
    | .rw | .wo => s.wr a (((s.rd a &&& ~~~s.maskAt a) ||| (v &&& s.maskAt a)) &&& ~~~(v &&& r.w1c))
    | _ => s
  | none => s

/-- The value that a write would leave in a plain register. -/
def State.merged (s : State) (a : Nat) (v : Word) : Word :=
  (s.rd a &&& ~~~s.maskAt a) ||| (v &&& s.maskAt a)

/-! ## Writes of block registers, page by page -/

/-- DIE: the boot loader and the MDIO masters (R467, R473, R492). -/
def State.bootGo (s : State) : State :=
  s.when s.bootWaits fun t => (t.wrF (die 0 DIE_BOOT_STAT) 0 4 2).wrF (die 0 DIE_BOOT_STAT) 4 2 2

/-- RETRY while the boot loader waits: the flash is read again under R465. -/
def State.bootAgain (s : State) : State :=
  s.when s.bootWaits fun t =>
    let u := t.wrF (die 0 DIE_BOOT_STAT) 0 4 1
    { u with kp := { u.kp with bootDue := true, tried := 0 } }

/-- A write of a DIE register. -/
def State.busDie (s : State) (a : Nat) (v : Word) : State :=
  if a = die 0 DIE_BOOT_CTRL then (if bit v 0 then s.bootGo else if bit v 1 then s.bootAgain else s)
  else if a = s.mdio 0 DIE_MDIO_CMD then (if bit v 31 then s.mdioGo 0 v else s.storeReg a v)
  else if a = s.mdio 1 DIE_MDIO_CMD then (if bit v 31 then s.mdioGo 1 v else s.storeReg a v)
  else s.storeReg a v

/-- EVC control page: commands on one source (R375), targets, completions and rings. -/
def State.busEvcCtl (s : State) (a : Nat) (v : Word) : State :=
  let o := a % 0x1000
  let src := fld v 0 11
  if o = EVC_SRC_CMD then
    match fld v 12 3 with
    | 1 => s.srcCmd src fun t => t.setPend src
    | 2 => s.srcCmd src fun t => t.clearPend src
    | 3 => s.srcCmd src fun t => t.setSrcB EVC_ENA src true
    | 4 => s.srcCmd src fun t => t.setSrcB EVC_ENA src false
    | 5 => s.forceDone src
    | _ => s
  else if o = EVC_TGT_EN then s.tgtEnWrite v
  else if 0x080 ≤ o ∧ o < 0x0C8 ∧ o % 8 = 4 then s.doneWrite ((o - 0x080) / 8) src
  else if 0x100 ≤ o ∧ o < 0x200 then
    let t := (o - 0x100) / 0x20
    if o % 0x20 = 0x08 then s.rqCfgWrite t v
    else if o % 0x20 = 0x10 then s.consWrite t v
    else if o % 0x20 = 0x14 then ((s.storeReg a v).moderate t).evalEvc
    else s.storeReg a v
  else (s.storeReg a v).evalEvc

/-- EVC bitmap pages: PEND and ENA. -/
def State.busEvcMap (s : State) (d a : Nat) (v : Word) : State :=
  let o := a % 0x1000
  if 0x040 ≤ o ∧ o < 0x0C0 then s.bitmapWrite d false ((o - 0x040) / 4) v
  else if 0x0C0 ≤ o ∧ o < 0x140 then s.bitmapWrite d true ((o - 0x0C0) / 4) v
  else s

/-- The registers of time domain `d` on die 0 (R67, R72, R89, R91). -/
def State.busDomain (s : State) (d a : Nat) (v : Word) : State :=
  if a = tmu 0 (TMU_TD_CFG d) then
    (s.storeReg a (setBit v 9 (s.gm d))).when (bit v 9 != s.gm d) fun t => t.writeGm d (bit v 9)
  else if a = tmu 0 (TMU_TD_CTRL d) then
    (s.when (bit v 0 != s.lostSet d) fun t => t.writeLost d (bit v 0)).when (bit v 1) fun t => t.holdEnd d
  else if a = tmu 0 (TMU_TD_TENS_HI d) then s.askTens d v
  else if a = tmu 0 (TMU_TD_STEP d) then s.askStep d v.toInt
  else if a = tmu 0 (TMU_TD_SET_SEC_HI d) then s.setTime d v
  else if a = tmu 0 (TMU_TD_SLAVE d) then (s.setSlave d (fld v 0 7)).setSeqs d none none
  else s.storeReg a v

/-- TMU: row clock, timers, captures and domains. -/
def State.busTmu (s : State) (d a : Nat) (v : Word) : State :=
  let o := a % 0x1000
  if o = TMU_CTRL then (s.wrB (tmu 0 TMU_CTRL) 1 (bit v 1)).selectRck (fld v 0 1)
  else if o = TMU_PPS_CFG then (s.storeReg a v).when (!bit v 0) State.ppsLow
  else if o = TMU_SNAP_CTRL then s.when (bit v 0) fun t => t.capture d 1
  else if 0x090 ≤ o ∧ o < 0x0B0 then
    let n := (o - 0x090) / 8
    if o % 8 = 0 then s.retarget d n v
    else
      let t := s.storeReg a v
      if bit v 0 then t.armTimer d n else t
  else if 0x100 ≤ o then s.busDomain ((o - 0x100) / 0x80) a v
  else s.storeReg a v

/-- PRT: guard, reserves and the rest (R165, R288). -/
def State.busPrt (s : State) (p a : Nat) (v : Word) : State :=
  let o := a % 0x1000
  if o = PRT_GRD_CTRL then s.grdCtrl p v
  else if o = PRT_GRD_CFG ∨ o = PRT_POL_RATE ∨ o = PRT_POL_BURST then s.deferWrite a (s.merged a v)
  else if isReserve a then s.reserveWrite a v
  else s.storeReg a v

/-- SCH: slots and maps, checks, swaps, blockings and outputs (R104 to R106, R112, R130, R233). -/
def State.busSch (s : State) (d a : Nat) (v : Word) : State :=
  let o := a % 0x1000
  if schTableReg a then s.schRegWrite o v
  else if o = SCH_CHK then s.chkWrite v
  else if o = SCH_SWAP then s.swapWrite v
  else if o = SCH_BLK_CTRL then (s.when (bit v 0) State.trainReq).when (bit v 1) State.localReq
  else if o = SCH_GPIO_OUT_NEXT then s.gpioNext v
  else if o = SCH_CS_CFG then
    let t := s.storeReg a v
    t.wrF (sch 0 SCH_CS_STAT) 4 3 t.rank
  else if o = SCH_CTRL then (if d = 0 then (s.deferWrite a (s.merged a v)).wrSch o (s.merged a v) else s)
  else if o = SCH_NULL_LEAD ∨ o = SCH_TSPAN then s.deferWrite a (s.merged a v)
  else if d = 0 ∧ schMirror o then s.wrSch o (s.merged a v)
  else s.storeReg a v

/-- INA: LEAD, INHIBIT and RESTART (R203, R205). -/
def State.busIna (s : State) (a : Nat) (v : Word) : State :=
  if a = ina INA_CTRL then ((s.storeReg a v).evalInhibit).when (bit v 2) State.inaRestart else s.storeReg a v

/-- FWD: a change of the translation settings changes the computed train addresses (R219); the flood line takes effect at a row
boundary, or at once while rows do not run (R274). -/
def State.busFwd (s : State) (d a : Nat) (v : Word) : State :=
  let o := a % 0x1000
  if o = FWD_DIR_FLUSH then s.when (bit v 0) State.flushAll
  else
    let t := s.storeReg a v
    if o = FWD_XLT_CFG ∨ o = FWD_XLT_TRN_BASE ∨ o = FWD_XLT_HOST_MASK then
      t.each (fun i u => u.evalTrain d i) (t.entriesIn (xltWord d 0 0) 0x4000 9)
    else if o = FWD_CFG then t.when (!t.run) fun u => u.switchFlood d
    else t

/-- RNG: the forced splits, INSERT_OK and the coupler modules (R308, R311, R343, R346). -/
def State.busRng (s : State) (d a : Nat) (v : Word) : State :=
  if a = rng 0 RNG_FORCE then
    (s.when (bit v 8) State.askClear).askSplit (bit v 0) (bit v 1)
  else if a % 0x1000 = RNG_INSERT then ((s.storeReg a v).setInsLine d (bit v 0)).evalRelays
  else if (a = s.i2c 0 RNG_I2C_CMD ∨ a = s.i2c 1 RNG_I2C_CMD) ∧ bit v 31 then s.i2cGo (if a = s.i2c 0 RNG_I2C_CMD then 0 else 1) v
  else s.storeReg a v

/-- TWN: the commands of TWN_CTRL (R330, R338, R339), and TWN_CFG, whose EN at 0 makes the node solo (R316). -/
def State.busTwn (s : State) (a : Nat) (v : Word) : State :=
  if a = twn 0 TWN_CTRL then
    let s1 := s.storeReg a v
    let s3 := (s1.when (bit v 0) State.askDrill).when (bit v 1) State.askResync
    s3.when (bit v 3 && s3.twinOn && s3.tok == 0 && !s3.rdB (twn 0 TWN_STAT) 12 && s3.role != 2 && s3.role != 3) fun t => t.startClaim true
  else if a = twn 0 TWN_CFG then
    let was := s.paired
    let t := s.storeReg a v
    (t.when (was && !t.paired) fun u => (u.dropToken).setRole 0).evalTok
  else s.storeReg a v

/-- SEC control page. -/
def State.busSec (s : State) (a : Nat) (v : Word) : State :=
  if a = sec 0 SEC_JTAG_CTRL then s.when (bit v 0) State.jtagGo
  else if a = sec 0 SEC_OTP_PROG then s.otpProgWrite v
  else s.storeReg a v

/-- A MACsec port page (R426, R427, R437). -/
def State.busSa (s : State) (d m a : Nat) (v : Word) : State :=
  let o := a % 0x1000
  if o = SEC_PORT_TXSA then s.txsaWrite d m (fld v 0 3)
  else if 0x100 ≤ o ∧ o < 0x900 then
    let rx := decide (0x500 ≤ o)
    let slot := (o - (if rx then 0x500 else 0x100)) / 0x80
    let k := o % 0x80
    if k = 0 then s.saCtrlWrite d m rx slot v
    else if rx ∧ (k = 0x10 ∨ k = 0x14) then s.saSciWrite d m slot (k == 0x14) v
    else if (0x20 ≤ k ∧ k < 0x40) ∨ (0x40 ≤ k ∧ k < 0x4C) then s.saKeyWrite d m rx slot a v
    else s.storeReg a v
  else s.storeReg a v

/-- The host pages: rings and MSI-X (R401, R402). -/
def State.busRing (s : State) (rx : Bool) (a : Nat) (v : Word) : State :=
  let o := a % 0x1000
  let n := (o - 0x040) / 0x20
  if (o - 0x040) % 0x20 = 0x08 then s.ringCfgWrite rx n v
  else if (o - 0x040) % 0x20 = 0x14 then s.ringCleanWrite rx n v
  else s.storeReg a v

/-- MSI-X: the control word of a vector. -/
def State.busMsix (s : State) (a : Nat) (v : Word) : State :=
  let o := a % 0x1000
  if 0x040 ≤ o ∧ o < 0x440 ∧ o % 16 = 12 then s.vectorCtrl ((o - 0x040) / 16) v else s.storeReg a v

/-- BRG: flush and windows (R413, R418). -/
def State.busBrg (s : State) (a : Nat) (v : Word) : State :=
  let o := a % 0x1000
  if o = BRG_CTRL then s.brgFlush (fld v 0 8)
  else if 0x100 ≤ o ∧ o < 0x300 then
    (match regRowAt a with
    | some r => if r.acc = .rw then s.winRegWrite ((o - 0x100) / 0x40) a (v &&& r.mask) else s
    | none => s)
  else s.storeReg a v

/-- KLK: RETRAIN, and the landing cells, in force from the next training (R289, R290). -/
def State.busKlk (s : State) (d a : Nat) (v : Word) : State :=
  if a = klk d KLK_CTRL then
    s.when (bit v 0) fun u => if u.linkUp then u.linkLost false else u.setLink false true
  else ((s.keepCrd d).storeReg a v).evalBuf d

/-- KWK: NEED.HOST and the wake inputs (R356, R364). -/
def State.busKwk (s : State) (a : Nat) (v : Word) : State :=
  if a = kwk KWK_NEED then (s.wrB a 0 (bit v 0)).evalNeed else (s.storeReg a v).evalNeed

/-- KBY: holds, faults, coil tests and bursts (R346, R350, R351, R353). -/
def State.busKby (s : State) (a : Nat) (v : Word) : State :=
  if a = kby KBY_CTRL then
    let s1 := s.storeReg a v
    let s2 := s1.when (bit v 8) fun t =>
      let u := (t.wr (kby KBY_FAULT) 0).wrF (kby KBY_STAT) 20 4 0
      { u with kp := { u.kp with stuck := 0 } }
    (s2.each (fun n t => t.when (bit v (12 + n)) fun u => u.wrB (kby KBY_STAT) (16 + n) true) [0, 1, 2, 3]).evalRelays
  else if a = kby KBY_BURST then
    s.each (fun n t => t.when (bit v n && !t.kp.bursting.getLsbD n) fun u => u.burst n) [0, 1, 2, 3]
  else s.storeReg a v

/-- KPR, KPS and KRT: mode requests, resets and the clock (R44, R462, R493). -/
def State.busKeeper (s : State) (a : Nat) (v : Word) : State :=
  if a = kpr KPR_MODE_REQ then s.wrF (kpr KPR_MODE_REQ) 0 3 (fld v 0 3)
  else if a = kps KPS_RST_REQ then
    s.when s.mode.powered fun t => if bit v 0 then t.reboot .dieReset else if bit v 1 then t.resetDie1 .dieReset else t
  else if a = krt KRT_SET_HI then
    let h := setFld 0 0 16 (fld v 0 16)
    ((s.wr (krt KRT_SET_HI) h).wr (krt KRT_SEC_LO) (s.rd (krt KRT_SET_LO))).wr (krt KRT_SEC_HI) h
  else s.storeReg a v

/-- A write of a header register (R479 to R485): the others are read-only. -/
def State.busHeader (s : State) (p : Page) (base o : Nat) (v : Word) : State :=
  if o = PG_CTRL then
    let s1 := match p.kind with
      | .prt =>
        let n := p.die * 32 + p.idx
        let t := s.when (bit v 0 != s.rdB (base + PG_CTRL) 0) fun u => u.enableWrite p (bit v 0)
        t.when (fld v 2 2 != t.rdF (base + PG_CTRL) 2 2) fun u => u.powerWrite n (fld v 2 2)
      | .fld => s.when (bit v 0 != s.rdB (base + PG_CTRL) 0) fun u => u.enableWrite p (bit v 0)
      | _ => s
    s1.when (bit v 1) fun t => t.softReset p base
  else if o = PG_EVT then s.evtClear base v 0
  else if o = PG_EVEN then s.evenWrite base v
  else if o = PG_LOCK then s.lockWrite base v
  else s

/-- A write of a block register. -/
def State.busBlock (s : State) (p : Page) (a : Nat) (v : Word) : State :=
  match p.kind with
  | .die => s.busDie a v
  | .evcCtl => s.busEvcCtl a v
  | .evcMap => s.busEvcMap p.die a v
  | .evcRoute => (s.storeReg a v).evalEvc
  | .tmu => s.busTmu p.die a v
  | .prt => s.busPrt (p.die * 32 + p.idx) a v
  | .rgn => (s.storeReg a v).evalFloors
  | .sch => s.busSch p.die a v
  | .ina => s.busIna a v
  | .dsk => if a = dsk p.die DSK_COMMIT then s.hostCommit p.die (fld v 0 13) else s.storeReg a v
  | .fwd => s.busFwd p.die a v
  | .buf => if isReserve a then s.reserveWrite a v else (s.storeReg a v).evalBuf p.die
  | .rng => s.busRng p.die a v
  | .twn => s.busTwn a v
  | .sec => s.busSec a v
  | .sa => s.busSa p.die p.idx a v
  | .sta => if a = sta p.die STA_CTRL then s.when (bit v 0) fun t => t.staSnap p.die
            else if a = sta p.die STA_CFG then s.staEnable p.die (bit v 0) else s.storeReg a v
  | .swt => if a = swt p.die SWT_REQ then s.swWrite p.die v else s.storeReg a v
  | .msix => s.busMsix a v
  | .txRings => s.busRing false a v
  | .rxRings => s.busRing true a v
  | .brg => s.busBrg a v
  | .fld => if a = fldp FLD_CTRL then s.fldCtrl v else s.storeReg a v
  | .klk => s.busKlk p.die a v
  | .kwk => s.busKwk a v
  | .kby => s.busKby a v
  | .kpr | .kps | .krt => s.busKeeper a v
  | .cpm | .clu | .hdm | .kms => s.storeReg a v

/-- A word written to a register page, past its lock. Mirrors and reserved registers take nothing. -/
def State.pageWrite (s : State) (a : Nat) (v : Word) : State :=
  match s.pageOf a with
  | none => s
  | some p =>
    if a % 0x1000 < 0x040 then s.busHeader p (pageBase a) (a % 0x1000) v
    else if s.reservedReg p (a % 0x1000) || (p.die == 1 && mirrored p.kind (a % 0x1000)) then s
    else s.busBlock p a v

/-! ## One write (R3, R399, R435, R486) -/

/-- A device address lies in a table window. -/
def inWindow (a : Nat) : Bool := decide (0x10000000 ≤ a) && decide (a < 0x20000000)

/-- A word is written past the locks: to a table window or a register page. -/
def State.rawWrite (s : State) (a : Nat) (v : Word) : State := if inWindow a then s.winWrite a v else s.pageWrite a v

/-- A write of KPR_MODE_REQ: requests test the lock by themselves (R44). -/
def State.reqWrite (s : State) (v : Word) : State :=
  match fld v 0 3 with
  | 1 => s.modeRequest .wake
  | 2 => s.modeRequest .maintenance
  | 3 => s.modeRequest .castOn
  | 4 => s.modeRequest .park
  | n => s.guarded (kpr KPR_MODE_REQ) fun t => if n ≠ 0 ∧ t.kp.powerDown then t.raise (kpr 0) 1 else t.wrF (kpr KPR_MODE_REQ) 0 3 n

/-- An address that the part's map does not hold: the range of an absent die (R3), an absent page, and all above the table windows. -/
def State.absent (s : State) (a : Nat) : Bool :=
  decide (0x20000000 ≤ a) || (dieOf a == 1 && !s.part.twoDies) || (!inWindow a && (s.pageOf a).isNone)

/-- A 32-bit write of a device address, a multiple of 4, by software.
(DEDUCED, log entry 48) -/
def State.busWrite (s : State) (a : Nat) (v : Word) : State :=
  if s.absent a then s
  else if a = kpr KPR_MODE_REQ then s.reqWrite v
  else if a = sec 0 SEC_OTP_PROG then s.otpProg v
  else s.guarded a fun t => t.rawWrite a v

/-- The bytes of a word that byte enables select, the others as in `old`. -/
def beMerge (be : BitVec 4) (old v : Word) : Word :=
  ([0, 1, 2, 3] : List Nat).foldl (fun w i => if be.getLsbD i then setFld w (8 * i) 8 (fld v (8 * i) 8) else w) old

/-- A dword written under byte enables: a partial one is discarded on a register page and taken by a table window (R399).
(DEDUCED, log entry 48) -/
def State.beWrite (s : State) (be : BitVec 4) (a : Nat) (v : Word) : State :=
  if be = 0xF then s.busWrite a v
  else if s.absent a then s
  else if inWindow a then (if be = 0 then s else s.busWrite a (beMerge be (s.tw a) v))
  else if s.dieUp 0 then (s.count (hdm HDM_CNT_PARTIAL)).raise (hdm 0) 2
  else s

/-! ## One read (R8, R9, R400, R487) -/

/-- The distances of the words that a read of a low word latches: the high word of a pair; after TMU_ST its wraps (R76), after a
domain's nanoseconds its seconds and fraction (R97).
(DEDUCED, log entry 47) -/
def lowWord (k : PageKind) (o : Nat) : List Nat :=
  let hi (b : Bool) : List Nat := if b then [4] else []
  match k with
  | .die => hi (o == DIE_MAC_LO)
  | .evcCtl => hi (decide (0x100 ≤ o ∧ o < 0x200) && o % 0x20 == 0)
  | .tmu =>
    if o = TMU_TD_NS 0 ∨ o = TMU_TD_NS 1 then [4, 8, 12]
    else hi (o == TMU_ST || o == TMU_SNAP_TD0_SEC_LO || o == TMU_SNAP_TD1_SEC_LO
      || (decide (0x100 ≤ o ∧ o < 0x200) && (o % 0x80 == 0x08 || o % 0x80 == 0x48 || o % 0x80 == 0x50 || o % 0x80 == 0x5C)))
  | .sch => hi (o == SCH_CTL_DA_LO || o == SCH_CS_UID_LO || o == SCH_CS_NDL_UID_LO || o == SCH_CS_PEER_UID_LO)
  | .ina => hi (o == INA_CST_UID_LO)
  | .dsk => hi (o == DSK_SKN_DA_LO)
  | .fwd => hi (o == FWD_XLT_MAC_LO)
  | .twn => hi (o == TWN_PEER_UID_LO || o == TWN_LL_TENS_LO 0 || o == TWN_LL_TENS_LO 1)
  | .sec => hi (o == SEC_PN_THR_LO)
  | .sa => hi (o == SEC_PORT_SCI_LO || (decide (0x100 ≤ o ∧ o < 0x900) && (o % 0x80 == 0x08 || (decide (0x500 ≤ o) && o % 0x80 == 0x10))))
  | .hdm => hi (o == HDM_DMA_ERR_ADDR_LO)
  | .msix => hi (decide (0x040 ≤ o ∧ o < 0x440) && o % 16 == 0)
  | .txRings | .rxRings => hi (decide (0x040 ≤ o ∧ o < 0x440) && o % 0x20 == 0)
  | .brg => hi (decide (0x100 ≤ o ∧ o < 0x300) && o % 0x40 == 4)
  | .krt => hi (o == KRT_SEC_LO)
  | _ => []

/-- The addresses of the high words that a read of `a` latches. A snapshot counter of a statistics window is a pair (R441).
(DEDUCED, log entry 47) -/
def State.highsOf (s : State) (a : Nat) : List Nat :=
  if inWindow a then
    (if 0x0B10000 ≤ a % 0x08000000 ∧ a % 0x08000000 < 0x0B80000 ∧ a % 8 = 0 then [a + 4] else [])
  else match s.pageOf a with
    | some p => (lowWord p.kind (a % 0x1000)).map (a + ·)
    | none => []

/-- The status registers whose value is computed when they are read. -/
def State.statWord (s : State) (p : Page) (a : Nat) : Option Word :=
  let o := a % 0x1000
  match p.kind with
  | .evcMap => if 0x1C0 ≤ o ∧ o < 0x240 then some (s.rawWord p.die ((o - 0x1C0) / 4)) else none
  | .evcCtl => if 0x080 ≤ o ∧ o < 0x0C8 ∧ o % 8 = 0 then some (s.claimValue ((o - 0x080) / 8)) else none
  | .dsk =>
    if o = DSK_STAT then
      some (wordOf (b2n (s.run && s.serves && s.knits p.die) + b2n s.cmpMode * 2 + b2n (!s.part.twoDies || s.linkUp) * 4))
    else if o = DSK_NTF_POP then some (s.ntfFront p.die)
    else if o = DSK_STORE then some (wordOf (s.storeUnits p.die)) else none
  | .prt =>
    if o = PRT_POL_TOKENS then some (s.tokensNow (p.die * 32 + p.idx))
    else if o = PRT_GATE_STAT then some (s.gateWord (p.die * 32 + p.idx)) else none
  | .kwk => if o = KWK_KA_LEFT then some (wordOf s.kaLeft) else none
  | .clu => if o = CLU_STAGE ∨ o = CLU_STAGE_MAX then some (s.stageFill a) else none
  | .sta => if o = STA_STAT then some (wordOf (s.staCount p.die % 2 ^ 17 + b2n s.run * 2 ^ 31)) else none
  | .msix => if o = MSIX_PBA 0 then some s.pbaWord else none
  | .fld =>
    if o = FLD_MSG_W0 then some s.fldFront
    else if o = FLD_MVB_STAT 0 then some (s.mvbStatWord 0) else if o = FLD_MVB_STAT 1 then some (s.mvbStatWord 1) else none
  | .brg => if o = BRG_ERR_W0 then some s.errFront else if o = BRG_REV_W 0 then some s.revFront else none
  | _ => none

/-- What an address reads as now, latches and side effects aside. -/
def State.liveWord (s : State) (a : Nat) : Word :=
  if inWindow a then
    s.winWord (if (0x18A00000 ≤ a ∧ a < 0x18A91000) ∨ (0x18B00000 ≤ a ∧ a < 0x18B10000) then a - 0x08000000 else a)
  else match s.pageOf a with
    | none => 0
    | some p =>
      if a % 0x1000 < 0x040 then (if a % 0x1000 = PG_STAT then s.pgStat p (pageBase a) else s.rd a)
      else if s.reservedReg p (a % 0x1000) then 0
      else match s.statWord p a with
        | some v => v
        | none =>
          match regRowAt (homeAddr p a) with
          | some r => if r.acc = .wo then 0 else s.rd (homeAddr p a)
          | none => 0

/-- What a read brings about before its value is taken: a new challenge (R432), and the next known event of a region (R49). -/
def State.beforeRead (s : State) (a : Nat) : State :=
  match s.pageOf a with
  | some p =>
    if a = sec 0 (SEC_JTAG_CHAL 0) then s.drawChallenge
    else if p.kind = .rgn ∧ a % 0x1000 = RGN_NEXT_EVT then s.evalNextEvt (p.die * 2 + p.idx)
    else s
  | none => s

/-- A register whose read clears it: a counter or a maximum (R9). -/
def State.clearsOnRead (s : State) (a : Nat) : Bool :=
  match s.pageOf a with
  | some p =>
    let o := a % 0x1000
    (match regRowAt a with | some r => r.acc == .rse | none => false) && !s.reservedReg p o && (lowWord p.kind o).isEmpty
      && (s.statWord p a).isNone && !isWatermark a && a != sec 0 (SEC_JTAG_CHAL 0)
  | none => false

/-- The side effect of a read of a register page. -/
def State.afterRead (s : State) (a : Nat) : State :=
  match s.pageOf a with
  | none => s
  | some p =>
    let o := a % 0x1000
    if s.reservedReg p o then s
    else if p.kind = .evcCtl ∧ 0x080 ≤ o ∧ o < 0x0C8 ∧ o % 8 = 0 then s.claimRead ((o - 0x080) / 8)
    else if p.kind = .dsk ∧ o = DSK_NTF_POP then s.popNtf p.die
    else if p.kind = .fld ∧ o = FLD_MSG_W0 then s.fldPop
    else if p.kind = .brg ∧ o = BRG_ERR_W0 then s.errPop
    else if p.kind = .brg ∧ o = BRG_REV_W 0 then s.revPop
    else if isWatermark a then s.readWatermark a
    else if p.kind = .clu ∧ o = CLU_STAGE then s.useFree
    else if s.clearsOnRead a then s.wr (homeAddr p a) 0
    else s

/-- The high words of a pair are latched for an agent, in place of those of another low word of the page.
(DEDUCED, log entry 47) -/
def State.latchHighs (s : State) (ag : Agent) (a : Nat) : State :=
  match s.highsOf a with
  | [] => s
  | hs =>
    { s with lat := (s.lat.filter fun e => !(e.1 == ag && pageBase e.2.1 == pageBase a)) ++ hs.map fun h => (ag, h, s.liveWord h) }

/-- The word that an agent's read of an address answers: a latched high word, or the live word.
(DEDUCED, log entry 47) -/
def State.agentWord (s : State) (ag : Agent) (a : Nat) : Word :=
  match s.lat.find? fun e => e.1 == ag && e.2.1 == a with
  | some e => e.2.2
  | none => s.liveWord a

/-- A 32-bit read of a device address, a multiple of 4, by an agent: the state after it, and the word. -/
def State.busRead (s : State) (ag : Agent) (a : Nat) : State × Word :=
  if s.absent a then (s, 0)
  else if !s.reach a then (if dieOf a = 1 ∧ s.dieUp 0 then (s.xdieDrop, 0xFFFFFFFF) else (s, 0))
  else
    let t := (s.access a).beforeRead a
    ((t.latchHighs ag a).afterRead a, t.agentWord ag a)

/-- A read with its answer, by an agent that may access the register. -/
def State.readOut (s : State) (ag : Agent) (a : Nat) : State :=
  s.when (s.agentMay ag a) fun t =>
    let r := t.busRead ag a
    r.1.emit (.read ag a r.2)

/-- PAIR_LOW_READ. -/
def execPairLowRead (agent : Agent) (addr : Nat) (s : State) : Host.Outcome State Fault Refusal :=
  .next (s.when (!(s.highsOf addr).isEmpty) fun t => t.readOut agent addr)

/-- CLEAR_ON_READ, by the host. -/
def execClearOnRead (addr : Nat) (s : State) : Host.Outcome State Fault Refusal :=
  .next (s.when (s.clearsOnRead addr) fun t => t.readOut .pcie addr)

end Sys2Proof.Machine
end

