-- ==== Sys2Proof/Machine/Bridge.lean ====
section
/-! DEFINITION. The host interface's accesses and the register bridge: BAR0 and BAR2, the management SPI, bridge frames on the
backbone, and remote events (R397 to R420). -/

namespace Sys2Proof.Machine

/-! ## Sending bridge frames (R410, R411, R419) -/

/-- The node owns an MGMT stitch of the active profile, in which it sends (R115, R410). -/
def State.ownsMgmt (s : State) : Bool :=
  s.serves && match s.actSlot with
    | none => false
    | some sl => (List.range (s.slotCnt sl)).any fun i => (s.entry sl i).kind == kMgmt && s.ownNum (s.ownerNow i (s.entry sl i))

/-- Frames of a window, and responses and events, go by MGMT stitch (AUTO) or always as class 6 (R410). -/
def State.pathAuto (s : State) (o : BrOut) : Bool :=
  s.ownsMgmt && match o with
    | .req w _ => !s.rdB (brg (BRG_WIN_CFG w)) 2
    | .rsp .. | .evt .. => !s.rdB (brg BRG_CFG) 2

/-- The row that a bridge frame carries: SCH_ROW, or 0 while rows do not run. -/
def State.brgRow (s : State) : Word := if s.run then s.row else 0

/-- A request of the bridge. -/
def State.findReq (s : State) (w : Nat) (seq : BitVec 16) : Option BrReq := s.hi.reqs.find? fun r => r.w == w && r.seq == seq

/-- The R-NAT MAC of a node number (R410). -/
def State.nodeMac (s : State) (n : Nat) : Mac := BitVec.ofNat 48 (s.rd64 (fwd 0 FWD_XLT_MAC_LO) (fwd 0 FWD_XLT_MAC_HI) / 64 * 64 + n % 64)

/-- The header of a bridge frame for a node: its own DA, and a priority tag with PCP 6 (R410, R411). -/
def State.brgHdr (s : State) (subtype : Byte) (sid : BitVec 16) (dst : Nat) : Hdr :=
  { s.hdr subtype s.brgRow sid with l2 := { da := s.nodeMac dst, sa := s.mac, tci := some 0xC000, etype := s.slEtype } }

/-- The frame of a queued entry for a stitch ID, with its destination and its length before MACsec. -/
def State.brgFrame (s : State) (sid : BitVec 16) (o : BrOut) : Option (Frame × Nat × Nat) :=
  match o with
  | .req w seq => (s.findReq w seq).map fun r =>
      let b : BridgeReq := { initiator := s.uid, target := r.target, window := Fin.ofNat 8 w, write := r.write, seq := seq, addr := r.addr,
                             len := r.len, prefetch := r.prefetch, retry := r.sent, newSeq := r.newSeq, data := r.data }
      (.sl (s.brgHdr 0x08 sid r.dst) none (.bridgeReq b), r.dst, 70 + 4 * r.data.length)
  | .rsp dst b => some (.sl (s.brgHdr 0x09 sid dst) none (.bridgeRsp b), dst, 70 + 4 * b.data.length)
  | .evt dst m => some (.sl (s.brgHdr 0x0A sid dst) none (.eventMsg m), dst, 78)

/-- An entry has left: its place in the queue is free, and a request has been sent. -/
def State.sentOut (s : State) (o : BrOut) : State :=
  let q := eraseFirst (fun x => x == o) s.hi.outq
  match o with
  | .req w seq =>
    { s with hi := { s.hi with outq := q, reqs := s.hi.reqs.map fun r => if r.w = w ∧ r.seq = seq then { r with sent := true, sentAt := s.now } else r } }
  | _ => { s with hi := { s.hi with outq := q } }

/-- A unicast management frame is queued in class 6 on a backbone port: a turn drops it, or makes it cross (R301, R302). -/
def State.queueMgmt (s : State) (p n : Nat) (f : Frame) : State :=
  let put := fun (t : State) (q : Nat) =>
    if t.crosses 0 q then
      (t.takeIn (t.freeCells (q / 32)) { id := t.fw.nextId, port := q, cls := 6, frame := f, len := n, pfc := none, hdrm := false, held := false }).newGroup
    else t
  match s.turnAt p with
  | .none => put s p
  | .theEnd => s.turnDrop p
  | .fault =>
    let o := otherLine s.part p
    if s.lock o && s.turnAt o == .none then put (s.count (rng (p / 32) RNG_CNT_CROSS)) o else s.turnDrop p

/-- A node has a number in the active node list, other than this node's. -/
def State.farNode (s : State) (n : Nat) : Bool := n != 0 && n != s.num && (s.nodes s.actBank).any (·.1 == n)

/-- A queued entry leaves as best-effort class 6, on the flood line in use, out of the side that faces its destination. One for a node
that the active list does not hold has no such side, and is discarded. -/
def State.sendClass6 (s : State) (o : BrOut) : State :=
  match s.brgFrame 0xFFFF o with
  | none => s.sentOut o
  | some (f, dst, n) =>
    let t := s.sentOut o
    if s.num != 0 && s.farNode dst then t.queueMgmt (backbonePort s.part (s.floodLine 0) (s.sideToward s.actBank dst)) n f else t

/-- A queued entry is a response or an event for a node. -/
def BrOut.isFor (dst : Nat) : BrOut → Bool
  | .rsp d _ | .evt d _ => d == dst
  | .req .. => false

/-- The responses to a node that no event to it precedes leave in class 6. -/
def State.flushRsp (s : State) (dst : Nat) : Nat → State
  | 0 => s
  | n + 1 =>
    match s.hi.outq.find? (BrOut.isFor dst) with
    | some (.rsp d b) => if s.pathAuto (.rsp d b) then s else (s.sendClass6 (.rsp d b)).flushRsp dst n
    | _ => s

/-- The ns from now at which the next frame may follow on every backbone port, at least `k`. -/
def State.nextFree (s : State) (k : Nat) : Nat := ((backbonePorts s.part).map fun p => s.freeAt p (s.now + k) - s.now).foldl max k

/-- The frames of a list that leave in a stitch that began at `st0`, the first one `k` ns from now, while each next one fits before
the stitch's end less TXOFS. Frames that always go in class 6 are passed over; one that no port takes stays queued, and ends it. -/
def State.mgmtFrames (s : State) (sid selv : Nat) (e : Stitch) (st0 : Word) (k : Nat) : List BrOut → State
  | [] => s
  | o :: os =>
    if !s.pathAuto o then s.mgmtFrames sid selv e st0 k os
    else match s.brgFrame (BitVec.ofNat 16 sid) o with
      | none => (s.sentOut o).mgmtFrames sid selv e st0 k os
      | some (f, _, n) =>
        let at0 : Int := stDiff (s.st 0) st0 + k
        if at0 * 400 + s.worstWire n ≤ ((e.lenNs : Int) - txofs selv) * 400 then
          let a := s.sendCopies sid selv n e st0 k true f ((backbonePorts s.part).filter fun p => s.turnAt p == .none)
          if a.2 then (a.1.sentOut o).mgmtFrames sid selv e st0 (a.1.nextFree k) os else a.1
        else s

/-- An own MGMT stitch that is active in this row. -/
def State.mgmtEntry (s : State) (sid : Nat) : Option Stitch :=
  if s.serves then
    (s.actEntry sid).filter fun e => e.kind == kMgmt && s.ownNum (s.ownerNow sid e) && s.mayServe sid e
  else none

/-- The queued frames of a list leave in an own MGMT stitch, from its start + TXOFS on. -/
def State.mgmtSend (s : State) (sid : Nat) (sel : State → List BrOut) : State :=
  match s.mgmtEntry sid with
  | none => s
  | some e =>
    let t := s.reachSt (stitchSt s e + wordOf (txofs s.actSelv))
    t.mgmtFrames sid t.actSelv e (stitchSt s e) 0 (sel t)

/-- MGMT_STITCH_SEND. -/
def execMgmtStitchSend (sid : Fin 4096) (s : State) : Host.Outcome State Fault Refusal :=
  .next (s.mgmtSend sid.val fun t => t.hi.outq)

/-- The first queued request of a window. -/
def State.firstReq (s : State) (w : Nat) : Option BrOut := s.hi.outq.find? fun o => match o with | .req a _ => a == w | _ => false

/-- BRIDGE_REQ_SEND: in an own MGMT stitch where its path and the profile give one, else as class 6. -/
def execBridgeReqSend (w : Fin 8) (mgmt : Option (Fin 4096)) (s : State) : Host.Outcome State Fault Refusal :=
  .next (match s.firstReq w.val, mgmt with
    | none, _ => s
    | some o, some sid => s.mgmtSend sid.val fun t => (t.hi.outq.find? t.pathAuto).toList.filter (· == o)
    | some o, none => if s.dieUp 0 && !s.pathAuto o then s.sendClass6 o else s)

/-! ## Issue (R408, R409, R412, R417) -/

/-- The target of a window: its UID field, 0 for a window by number, and the node number; none for NO_TARGET (R408). -/
def State.winTarget (s : State) (w : Nat) : Option (Uid × Nat) :=
  let cfg := s.rd (brg (BRG_WIN_CFG w))
  if s.num = 0 then none
  else if fld cfg 0 2 = 1 then (if s.farNode (fld cfg 8 6) then some (0, fld cfg 8 6) else none)
  else if fld cfg 0 2 = 2 then
    let u := BitVec.ofNat 64 (s.rd64 (brg (BRG_WIN_UID_LO w)) (brg (BRG_WIN_UID_HI w)))
    let n := s.numOf s.actBank u
    if u != s.uid && s.farNode n then some (u, n) else none
  else none

/-- The far device address of a BAR2 offset, and its window. -/
def State.farAddr (s : State) (off : Nat) : Nat := s.rdF (brg (BRG_WIN_CFG (off / 0x1000000 % 8))) 16 5 * 0x1000000 + off % 0x1000000

/-- A request is cut before this far address: at 256 bytes, toward die 1 at 64 bytes, and toward die K at each word (R398, R409). -/
def cutAt (a : Nat) : Bool := a % 256 == 0 || (dieOf a == 1 && a % 64 == 0) || dieOf a == 2

/-- How many further dwords belong to the piece that a dword begins; a partial dword of a write ends it (R399). -/
def State.pieceMore (s : State) (write : Bool) : Nat → List (BitVec 4 × Word) → Nat
  | _, [] => 0
  | off, d :: ds => if cutAt (s.farAddr off) || (write && d.1 != 0xF) then 0 else 1 + s.pieceMore write (off + 4) ds

/-- A block of a window lies in a marked prefetch range (R417). -/
def State.marked (s : State) (w block : Nat) : Bool :=
  [0, 1, 2, 3].any fun k =>
    let r := s.rd (brg (BRG_WIN_PF w k))
    decide (fld r 0 16 ≤ block ∧ block < fld r 0 16 + fld r 16 16)

/-- A SA page word, which no bridged WRITE carries (R427). -/
def saWord (a : Nat) : Bool := decide (a < 0x08000000) && decide (0x1D1000 ≤ a % 0x04000000) && decide (a % 0x04000000 < 0x1D6000)

/-- The next sequence of a window.
(DEDUCED, log entry 54) -/
def State.nextSeq (s : State) (w : Nat) : BitVec 16 := (Assoc.get s.hi.next w).getD 0

/-- A held block becomes the most recently used. -/
def State.touchBlock (s : State) (x : BrBlock) : State :=
  { s with hi := { s.hi with blocks := (s.hi.blocks.filter fun y => !(y.w == x.w && y.block == x.block)) ++ [x] } }

/-- A request is issued with the next sequence of its window. -/
def State.addReq (s : State) (w : Nat) (write prefetch : Bool) (addr len : Nat) (data : List Word) (tgt : Uid × Nat) (a : Option (Nat × Nat)) : State :=
  let q := s.nextSeq w
  let r : BrReq := { w := w, seq := q, write := write, addr := addr, data := data, len := len, prefetch := prefetch,
                     newSeq := s.hi.newSeq.getLsbD w, target := tgt.1, dst := tgt.2, sent := false, issued := s.now, sentAt := s.now, access := a }
  { s with hi := { s.hi with reqs := s.hi.reqs ++ [r], outq := s.hi.outq ++ [.req w q], next := Assoc.put s.hi.next w (q + 1),
                             newSeq := s.hi.newSeq &&& ~~~(BitVec.ofNat 8 (2 ^ w)) } }

/-- The bridge has room for a request: 16 in the window, 128 and 32 KiB of write data in all. -/
def State.brgRoom (s : State) (w : Nat) (write : Bool) (len : Nat) : Bool :=
  decide (s.winOut w < 16 ∧ s.hi.reqs.length < 128) && (!write || decide (s.brgBytes + len ≤ 32768))

/-- One piece of a request: it fails at once, is served from a held block, or is issued; none where it has to wait. -/
def State.issuePiece (s : State) (ag : Agent) (write : Bool) (off : Nat) (ws : List Word) (a : Option (Nat × Nat)) : Option State :=
  let w := off / 0x1000000 % 8
  let far := s.farAddr off
  let len := 4 * ws.length
  let s1 := if write then s.dropBlocks w else s
  let ones := if write then [] else List.replicate ws.length 0xFFFFFFFF
  match s1.winTarget w with
  | none => some ((s1.brgErr w write 0x10 (s1.nextSeq w) far 0).fillAccess a ones true)
  | some tgt =>
    if write && saWord far then some ((s1.brgErr w true 0x13 (s1.nextSeq w) far 0).fillAccess a [] true)
    else
      let block := off % 0x1000000 / 256
      let held := if ag = .pcie ∧ !write then s1.hi.blocks.find? fun x => x.w == w && x.block == block else none
      match held with
      | some x => some (((s1.touchBlock x).count (brg BRG_CNT_PF_HIT)).fillAccess a ((x.words.drop (off % 256 / 4)).take ws.length) false)
      | none =>
        if s1.brgRoom w write len then
          some (s1.addReq w write (ag == .pcie && !write && s1.marked w block) far len (if write then ws else []) tgt a)
        else none

/-- A partial dword of a write is counted and discarded (R399). -/
def State.partialDword (s : State) : State := (s.count (hdm HDM_CNT_PARTIAL)).raise (hdm 0) 2

/-- A host request that waits. -/
def State.waitReq (s : State) (x : BrWait) : State := { s with hi := { s.hi with waits := s.hi.waits ++ [x] } }

/-- The dwords of a BAR2 request from `off` on are issued piece by piece; the rest waits at the first piece without room. -/
def State.issueFrom (s : State) (ag : Agent) (write : Bool) (off : Nat) (a : Option (Nat × Nat)) (ds : List (BitVec 4 × Word)) : Nat → State
  | 0 => s
  | n + 1 =>
    match ds with
    | [] => s
    | d :: rest =>
      if write && d.1 != 0xF then (s.partialDword.dropBlocks (off / 0x1000000 % 8)).issueFrom ag write (off + 4) (a.map fun x => (x.1, x.2 + 1)) rest n
      else
        let k := 1 + s.pieceMore write (off + 4) rest
        match s.issuePiece ag write off ((ds.take k).map Prod.snd) a with
        | some t => t.issueFrom ag write (off + 4 * k) (a.map fun x => (x.1, x.2 + k)) (ds.drop k) n
        | none => s.waitReq { agent := ag, bar2 := true, req := { offset := off, write := write, dwords := ds }, access := a }

/-- An access begins: its words, all still to come.
(DEDUCED, log entry 54) -/
def State.newAccess (s : State) (ag : Agent) (write : Bool) (n : Nat) : State × (Nat × Nat) :=
  let x : BrAccess := { id := s.hi.nextId, agent := ag, write := write, words := List.replicate n 0, failed := false }
  ({ s with hi := { s.hi with accs := s.hi.accs ++ [x], nextId := s.hi.nextId + 1 } }, (s.hi.nextId, 0))

/-- A BAR2 request is issued; reads, and writes of the management SPI, are answered when all their parts have been. -/
def State.bar2 (s : State) (x : BrWait) : State :=
  let n := x.req.dwords.length
  if x.access.isNone && (!x.req.write || x.agent == .mspi) then
    let (t, a) := s.newAccess x.agent x.req.write n
    t.issueFrom x.agent x.req.write x.req.offset (some a) x.req.dwords n
  else s.issueFrom x.agent x.req.write x.req.offset x.access x.req.dwords n

/-! ## BAR0 (R398, R399) -/

/-- The dwords of a BAR0 write are written in ascending order. -/
def State.bar0Write (s : State) : Nat → List (BitVec 4 × Word) → State
  | _, [] => s
  | a, d :: ds => (s.beWrite d.1 a d.2).bar0Write (a + 4) ds

/-- The dwords of a BAR0 read are read in ascending order, each once. -/
def State.bar0Read (s : State) : Nat → Nat → State × List Word
  | _, 0 => (s, [])
  | a, n + 1 =>
    let r := s.busRead .pcie a
    let q := r.1.bar0Read (a + 4) n
    (q.1, r.2 :: q.2)

/-- A BAR0 request.
(DEDUCED, log entry 56) -/
def State.bar0 (s : State) (r : BarReq) : State :=
  if r.write then s.bar0Write r.offset r.dwords
  else
    let q := s.bar0Read r.offset r.dwords.length
    q.1.emit (.completion q.2)

/-! ## Host requests in order (R409, R488) -/

/-- A host request: behind one of the same agent that waits, it waits too. -/
def State.hostReq (s : State) (x : BrWait) : State :=
  if s.hi.waits.any (·.agent == x.agent) then s.waitReq x
  else if x.bar2 then s.bar2 x else s.bar0 x.req

/-- The requests that wait are tried again in order, and answers that are complete are given. -/
def State.settle (s : State) : State :=
  if s.hi.waits.isEmpty && s.hi.accs.isEmpty then s
  else
    let ws := s.hi.waits
    let t := ws.foldl (fun u x => u.hostReq x) ({ s with hi := { s.hi with waits := [] } } : State)
    (t.answerDone).evalBrg

/-- A new host request: FULL is set where it is the first that waits. -/
def State.hostRequest (s : State) (x : BrWait) : State :=
  let idle := s.hi.waits.isEmpty
  let t := ((s.hostReq x).answerDone).evalBrg
  t.when (idle && !t.hi.waits.isEmpty) fun u => u.raise (brg 0) 3

/-- BAR0_REQUEST. -/
def execBar0Request (r : BarReq) (s : State) : Host.Outcome State Fault Refusal :=
  .next (s.when (s.hostOn && s.pcieUp) fun t =>
    if t.hi.waits.any (·.agent == .pcie) then t.waitReq { agent := .pcie, bar2 := false, req := r, access := none }
    else (t.bar0 r).settle)

/-- BAR2_REQUEST. -/
def execBar2Request (r : BarReq) (s : State) : Host.Outcome State Fault Refusal :=
  .next (s.when (s.hostOn && s.pcieUp) fun t => t.hostRequest { agent := .pcie, bar2 := true, req := r, access := none })

/-- REGISTER_WRITE: a write of any address, by any agent. -/
def execRegisterWrite (agent : Agent) (addr : Nat) (be : BitVec 4) (value : Word) (s : State) : Host.Outcome State Fault Refusal :=
  .next (s.when (s.agentMay agent (addr - addr % 4)) fun t => (t.beWrite (if agent = .pcie then be else 0xF) (addr - addr % 4) value).settle)

/-! ## The management SPI (R406, R407) -/

/-- The status of a management SPI access to a device address.
(DEDUCED, log entry 55) -/
def State.mspiStatus (s : State) (a : Nat) : Nat :=
  if a % 4 ≠ 0 ∨ !(decide (a < 0x20000000) || decide (0x40000000 ≤ a ∧ a < 0x48000000)) then 4
  else if 0x40000000 ≤ a then (if s.dieUp 0 then 0 else 1)
  else if dieOf a = 2 then 0
  else if !s.dieUp 0 then 1
  else if dieOf a = 1 ∧ s.part.twoDies then (if !s.dieUp 1 || s.rdB (die 0 DIE_BOOT_STAT) 6 then 1 else if !s.linkUp then 2 else 0)
  else 0

/-- A management SPI transaction with a status other than OK; toward die 1 the access is dropped as R400 says.
(DEDUCED, log entry 55) -/
def State.mspiFail (s : State) (a st : Nat) : State :=
  (s.when (decide (a < 0x20000000) && st != 4 && dieOf a == 1 && s.dieUp 0) State.xdieDrop).mspiAnswer st 0

/-- A management SPI transaction through a remote window: answered by the bridge. -/
def State.mspiRemote (s : State) (a : Nat) (write : Bool) (v : Word) : State :=
  (s.wrB (kms KMS_STAT) 0 true).hostRequest { agent := .mspi, bar2 := true, req := { offset := a - 0x40000000, write := write, dwords := [(0xF, v)] }, access := none }

/-- MSPI_READ. -/
def execMspiRead (addr : Nat) (s : State) : Host.Outcome State Fault Refusal :=
  .next (s.when (s.mode != .off) fun t =>
    let st := t.mspiStatus addr
    if st ≠ 0 then t.mspiFail addr st
    else if 0x40000000 ≤ addr then t.mspiRemote addr false 0
    else
      let r := t.busRead .mspi addr
      r.1.mspiAnswer 0 r.2)

/-- MSPI_WRITE. -/
def execMspiWrite (addr : Nat) (value : Word) (s : State) : Host.Outcome State Fault Refusal :=
  .next (s.when (s.mode != .off) fun t =>
    let st := t.mspiStatus addr
    if st ≠ 0 then t.mspiFail addr st
    else if 0x40000000 ≤ addr then t.mspiRemote addr true value
    else ((t.busWrite addr value).mspiAnswer 0 0).settle)

/-! ## Requests that wait for an answer (R412, R413, R418) -/

/-- BRIDGE_RETRANSMIT: BRG_RTX has passed without a response; the request waits again to be sent, with RETRY. -/
def execBridgeRetransmit (w : Fin 8) (seq : BitVec 16) (s : State) : Host.Outcome State Fault Refusal :=
  .next (match s.findReq w.val seq with
    | some r =>
      if r.sent && !(s.hi.outq.any fun o => o.isReq w.val seq) then
        let t := s.reachAt (r.sentAt + atLeast1 (s.rdF (brg BRG_RTX) 0 8) * ms)
        ({ t with hi := { t.hi with outq := t.hi.outq ++ [.req w.val seq] } } : State).count (brg BRG_CNT_RTX)
      else s
    | none => s)

/-- BRIDGE_TIMEOUT: BRG_TMO has passed without a response. -/
def execBridgeTimeout (w : Fin 8) (seq : BitVec 16) (s : State) : Host.Outcome State Fault Refusal :=
  .next (match s.findReq w.val seq with
    | some r => ((s.reachAt (r.issued + atLeast1 (s.rdF (brg BRG_TMO) 0 8) * ms)).failReq r 0x11 0).evalBrg.settle
    | none => s)

/-- BRIDGE_FLUSH: a write of BRG_CTRL.FLUSH. -/
def execBridgeFlush (mask : Byte) (s : State) : Host.Outcome State Fault Refusal :=
  .next (s.when (s.dieUp 0) fun t => (t.brgFlush mask.toNat).settle)

/-- PREFETCH_EXPIRY: while rows do not run a held block is discarded 1 ms after its arrival (R418); with rows the second row boundary
discards it. -/
def execPrefetchExpiry (w : Fin 8) (block : Nat) (s : State) : Host.Outcome State Fault Refusal :=
  .next (match s.hi.blocks.find? fun x => x.w == w.val && x.block == block with
    | some x => s.when (!s.run) fun t0 =>
        let t := t0.reachAt (x.at0 + ms)
        { t with hi := { t.hi with blocks := t.hi.blocks.filter fun x => !(x.w == w.val && x.block == block) } }
    | none => s)

/-- BRIDGE_ERR_POP. -/
def execBridgeErrPop (agent : Agent) (s : State) : Host.Outcome State Fault Refusal :=
  .next (s.when (s.dieUp 0) fun t => t.readOut agent (brg BRG_ERR_W0))

/-! ## The far node (R413, R417, R427, R435) -/

/-- A frame is addressed to this node's R-NAT MAC (R410). -/
def State.forUs (s : State) (h : Hdr) : Bool := s.num != 0 && h.l2.da == s.nodeMac s.num

/-- A bridge frame for another node passes: in its stitch as the ring relays it, else as R302 relays unicast frames (R299, R410). -/
def State.passBridge (s : State) (p : Nat) (h : Hdr) (b : Body) : State :=
  if h.sid = 0xFFFF then s.queueMgmt (acrossPort p) ((Frame.sl h none b).len.getD 0) (.sl h none b) else s.relay p h none b true

/-- A bridge frame arrives: whether it passes the port, the header checks and the checks of its stitch, and is for this node, which
does not relay it (R410). -/
def State.takeBridge (s : State) (rx : Rx) (h : Hdr) (subtype : Byte) (b : Body) : State × Bool :=
  let p := rx.port.val
  let r := s.takeSl rx h subtype
  if r.2 = .none then (r.1, false)
  else if r.1.ownSender h.sender.toNat then (r.1.strip p, false)
  else
    let c := r.1.slCheck rx h
    let u := c.1
    if c.2 = .drop then (u, false)
    else if r.2 = .bad then (if u.forUs h || h.sid == 0xFFFF then u else u.endBad p (.sl h none b), false)
    else if c.2 = .spoil then (if u.forUs h then u else u.relayBad p (.sl h none b), false)
    else if u.forUs h then (u, c.2 == .use)
    else (u.passBridge p h b, false)

/-- A word that a bridged WRITE may not write: a SA page, a locked page, a PG_LOCK without RMT_UNLOCK, or a request that tests the
lock of the KPR page. -/
def State.farLocked (s : State) (a : Nat) (v : Word) : Bool :=
  !s.absent a && (saWord a || s.locked a || (a % 0x1000 == PG_LOCK && decide (a < 0x10000000) && lockPage a == some (pageBase a) && !s.rdB (sec 0 SEC_CFG) 0)
    || (a == kpr KPR_MODE_REQ && (fld v 0 3 == 2 || fld v 0 3 == 4) && s.lockCount (kpr 0) == 0))

/-- The words of a bridged WRITE are written in order; whether one fell under a lock. A PG_LOCK that is taken counts for the words
after it.
(DEDUCED, log entry 54) -/
def State.farWrite (s : State) : Nat → List Word → State × Bool
  | _, [] => (s, false)
  | a, v :: vs =>
    let bad := s.farLocked a v
    let t := if saWord a ∨ (bad ∧ a % 0x1000 = PG_LOCK ∧ a < 0x10000000) then s else s.busWrite a v
    let r := t.farWrite (a + 4) vs
    (r.1, bad || r.2)

/-- The words of a bridged READ. -/
def State.farRead (s : State) : Nat → Nat → State × List Word
  | _, 0 => (s, [])
  | a, n + 1 =>
    let r := s.busRead .bridge a
    let q := r.1.farRead (a + 4) n
    (q.1, r.2 :: q.2)

/-- Whether one of a WRITE's words falls under a lock before any of them is written: what counts where die 1 cannot be reached. -/
def State.anyLocked (s : State) (b : BridgeReq) : Bool :=
  b.write && (List.range b.data.length).any fun i => s.farLocked (b.addr + 4 * i) (b.data.getD i 0)

/-- A whole block is read for a request with PREFETCH, unless its page has NOPREFETCH. -/
def State.wholeBlock (s : State) (b : BridgeReq) : Bool :=
  b.prefetch && (inWindow b.addr || match s.pageOf b.addr with | some p => !p.kind.noPrefetch | none => true)

/-- A request is executed: the state after it, its status, whether a whole block is carried, and the data. -/
def State.farExec (s : State) (b : BridgeReq) : State × Nat × Bool × List Word :=
  if dieOf b.addr = 1 ∧ s.part.twoDies ∧ !s.reach b.addr then (s, if s.anyLocked b then 4 else 5, false, [])
  else if b.write then
    let r := s.farWrite b.addr b.data
    (r.1, if r.2 then 4 else 0, false, [])
  else if s.wholeBlock b then
    let r := s.farRead (b.addr - b.addr % 256) 64
    (r.1, 0, true, r.2)
  else
    let r := s.farRead b.addr (b.len / 4)
    (r.1, 0, false, r.2)

/-- A response waits to be sent to a node, and leaves at once where it goes in class 6. -/
def State.respond (s : State) (dst : Nat) (b : BridgeRsp) : State :=
  let t : State := { s with hi := { s.hi with outq := s.hi.outq ++ [.rsp dst b] } }
  t.flushRsp dst t.hi.outq.length

/-- The response to a request. -/
def State.rspTo (s : State) (b : BridgeReq) (status : Nat) (whole : Bool) (data : List Word) : BridgeRsp :=
  { responder := s.uid, initiator := b.initiator, window := b.window, write := b.write, seq := b.seq, status := BitVec.ofNat 8 status,
    prefetch := whole, farRow := s.rd (sch 0 SCH_ROW), data := if status = 0 then data else [] }

/-- The far node's checks from the sequence on (R413). A repeated base with NEWSEQ is a duplicate, too.
(DEDUCED, log entry 54) -/
def State.farSequence (s : State) (dst : Nat) (b : BridgeReq) : State :=
  let key := (b.initiator, b.window.val)
  let far := (Assoc.get s.hi.far key).getD { next := 0, held := [] }
  let known := far.held.find? fun r => r.seq == b.seq
  let diff := (b.seq - far.next).toNat
  let behind := decide (0x8000 < diff) || (b.newSeq && b.retry && known.isSome)
  if behind && !(b.newSeq && !(b.retry && known.isSome)) then
    let t := s.count (brg BRG_CNT_DUP)
    match known with
    | some r => t.respond dst r
    | none => t
  else if diff = 0 ∨ b.newSeq then
    let (t, status, whole, data) := s.farExec b
    let r := t.rspTo b status whole data
    let held := ((if b.newSeq then [] else far.held) ++ [r])
    let u : State := { t with hi := { t.hi with far := Assoc.put t.hi.far key { next := b.seq + 1, held := held.drop (held.length - 16) } } }
    u.respond dst r
  else s

/-- The far node takes a request.
(DEDUCED, log entry 54) -/
def State.farRequest (s : State) (h : Hdr) (b : BridgeReq) : State :=
  let dst := h.sender.toNat
  if !s.rdB (brg BRG_CFG) 0 then s.respond dst (s.rspTo b 1 false [])
  else if b.target ≠ 0 ∧ b.target ≠ s.uid then s.respond dst (s.rspTo b 2 false [])
  else if b.target = 0 ∧ h.topo ≠ s.topoCtr then s.respond dst (s.rspTo b 3 false [])
  else s.farSequence dst b

/-- BRIDGE_REQ_RX. -/
def execBridgeReqRx (rx : Rx) (h : Hdr) (b : BridgeReq) (s : State) : Host.Outcome State Fault Refusal :=
  .next (match s.takeBridge rx h 0x08 (.bridgeReq b) with
    | (t, true) => (t.farRequest h b).settle
    | (t, false) => t)

/-! ## Responses (R412, R414, R417) -/

/-- A block arrives: at most 4 are held for a window, the least recently used is discarded. -/
def State.holdBlock (s : State) (w block : Nat) (ws : List Word) : State :=
  let x : BrBlock := { w := w, block := block, words := ws, at0 := s.now, left := 2 }
  let mine := s.hi.blocks.filter fun y => y.w == w && y.block != block
  let others := s.hi.blocks.filter fun y => y.w != w
  { s with hi := { s.hi with blocks := others ++ mine.drop (mine.length - 3) ++ [x] } }

/-- A response to an outstanding request. -/
def State.takeRsp (s : State) (r : BrReq) (b : BridgeRsp) : State :=
  if b.status ≠ 0 then s.failReq r b.status.toNat b.farRow
  else
    let ws := if b.prefetch then (b.data.drop (r.addr % 256 / 4)).take (r.len / 4) else b.data
    let t := (s.dropReq r).fillAccess r.access (if r.write then [] else ws) false
    t.when (b.prefetch && r.prefetch) fun u => u.holdBlock r.w (r.addr % 0x1000000 / 256) b.data

/-- BRIDGE_RSP_RX: one for a request that has retired is discarded. -/
def execBridgeRspRx (rx : Rx) (h : Hdr) (b : BridgeRsp) (s : State) : Host.Outcome State Fault Refusal :=
  .next (match s.takeBridge rx h 0x09 (.bridgeRsp b) with
    | (t, true) =>
      if b.initiator ≠ t.uid then t
      else match (t.findReq b.window.val b.seq).filter fun r => r.write == b.write with
        | some r => (t.takeRsp r b).evalBrg.settle
        | none => t.count (brg BRG_CNT_LATE_RSP)
    | (t, false) => t)

/-! ## Event messages (R419, R420) -/

/-- The oldest queued event. -/
def State.firstEvt (s : State) : Option BrOut := s.hi.outq.find? fun o => match o with | .evt .. => true | _ => false

/-- EVENT_MSG_SEND: in class 6; where the node has an MGMT stitch for it, it leaves there with MGMT_STITCH_SEND. -/
def execEventMsgSend (s : State) : Host.Outcome State Fault Refusal :=
  .next (match s.firstEvt with
    | some (.evt dst m) =>
      if s.dieUp 0 && !s.pathAuto (.evt dst m) then
        let t := s.sendClass6 (.evt dst m)
        t.flushRsp dst t.hi.outq.length
      else s
    | _ => s)

/-- A message is held until its turn; a copy of one already taken or held is discarded. The first message of a sender is taken as in
order.
(DEDUCED, log entry 54) -/
def State.takeEvt (s : State) (n : Nat) (m : EventMsg) : State :=
  let x := (Assoc.get s.hi.senders m.uid).getD { next := m.seq, held := [] }
  if 0x8000 ≤ (m.seq - x.next).toNat || x.held.any fun e => e.msg.seq == m.seq then s
  else { s with hi := { s.hi with senders := Assoc.put s.hi.senders m.uid { x with held := x.held ++ [{ num := n, at0 := s.now, msg := m }] } } }

/-- EVENT_MSG_RX. -/
def execEventMsgRx (rx : Rx) (h : Hdr) (b : EventMsg) (s : State) : Host.Outcome State Fault Refusal :=
  .next (match s.takeBridge rx h 0x0A (.eventMsg b) with
    | (t, true) => t.takeEvt h.sender.toNat b
    | (t, false) => t)

/-- A message may be enqueued now: while rows run, from row DROW + 2's start + SCH_TSPAN on. The state is at that instant. -/
def State.evtRow (s : State) (m : EventMsg) : Option State :=
  if !s.run then some s
  else
    let d := stDiff s.row (m.drow + 2)
    if d < 0 then none
    else if d = 0 then some (s.reachSt (s.rd (sch 0 SCH_ROW_ST) + wordOf (s.rdF (sch 0 SCH_TSPAN) 0 20 * 8)))
    else some s

/-- A message enters the remote event queue; a full queue drops it.
(DEDUCED, log entry 54) -/
def State.enqueueEvt (s : State) (n : Nat) (m : EventMsg) : State :=
  if 64 ≤ s.hi.revs.length then (s.countF (brg BRG_REV_CNT) 16 16).raise (brg 0) 4
  else
    let w0 := wordOf (m.src.toNat + b2n m.fld * 4096 + n % 64 * 65536 + 2 ^ 31)
    let t : State := { s with hi := { s.hi with revs := s.hi.revs ++ [[w0, m.st, m.drow] ++ m.info] } }
    (t.wrF (brg BRG_REV_CNT) 0 7 t.hi.revs.length).raise (brg 0) 1

/-- The message of a sender that is next in sequence is enqueued, if its row lets it. -/
def State.enqueueNext (s : State) (u : Uid) : State :=
  match Assoc.get s.hi.senders u with
  | none => s
  | some x =>
    match x.held.find? fun e => e.msg.seq == x.next with
    | none => s
    | some ⟨n, _, m⟩ =>
      match s.evtRow m with
      | none => s
      | some t =>
        let y : EvtSender := { next := x.next + 1, held := x.held.filter fun e => e.msg.seq != x.next }
        ({ t with hi := { t.hi with senders := Assoc.put t.hi.senders u y } } : State).enqueueEvt n m

/-- REMOTE_EVENT_ENQUEUE. -/
def execRemoteEventEnqueue (uid : Uid) (s : State) : Host.Outcome State Fault Refusal := .next (s.when (s.dieUp 0) fun t => t.enqueueNext uid)

/-- The held message of a sender that is nearest in sequence. -/
def EvtSender.nearest (x : EvtSender) : Option HeldEvt :=
  match x.held with
  | [] => none
  | e :: es => some (es.foldl (fun q f => if (f.msg.seq - x.next).toNat < (q.msg.seq - x.next).toNat then f else q) e)

/-- REMOTE_EVENT_GAP_TIMEOUT: 2 ms have passed since its arrival without the predecessor; the message is taken as next, with REV_GAP.
(DEDUCED, log entry 54) -/
def execRemoteEventGapTimeout (uid : Uid) (s : State) : Host.Outcome State Fault Refusal :=
  .next (match Assoc.get s.hi.senders uid with
    | none => s
    | some x =>
      match x.nearest with
      | none => s
      | some q =>
        if q.msg.seq = x.next then s
        else
          let s0 := s.reachAt (q.at0 + 2 * ms)
          let t : State := { s0 with hi := { s0.hi with senders := Assoc.put s0.hi.senders uid { x with next := q.msg.seq } } }
          (t.raise (brg 0) 2).enqueueNext uid)

/-- REMOTE_EVENT_POP. -/
def execRemoteEventPop (agent : Agent) (s : State) : Host.Outcome State Fault Refusal :=
  .next (s.when (s.dieUp 0) fun t => t.readOut agent (brg (BRG_REV_W 0)))

/-! ## PERST_N (R397) -/

/-- The register offsets of the initiator side of the BRG page: not REMOTE_EN and RSP_PATH, the remote event queue, BRG_CNT_DUP and
BRG_FWDk, which serve the far side. -/
def brgInitiator (o : Nat) : Bool :=
  (decide (0x044 ≤ o ∧ o < 0x068)) || (decide (0x088 ≤ o ∧ o < 0x094)) || decide (0x100 ≤ o ∧ o < 0x300)

/-- Registers that an assertion of PERST_N resets: the HDM pages and the initiator side of the BRG page.
(DEDUCED, log entry 56) -/
def perstReg (a : Nat) : Bool :=
  (decide (hdm 0 + 0x040 ≤ a ∧ a < hdm 0 + 0x4000) && decide (0x040 ≤ a % 0x1000)) || (pageBase a == brg 0 && brgInitiator (a % 0x1000))

/-- Open reads, and with them the PCIe requests that wait, are discarded with FLUSHED; posted writes stay. A management SPI read that
was open is answered BRIDGE_ERR.
(DEDUCED, log entry 56) -/
def State.perstBridge (s : State) : State :=
  let t := s.each (fun r u => (u.dropReq r).brgErr r.w false 0x12 r.seq r.addr 0) (s.hi.reqs.filter fun r => !r.write)
  let gone := t.hi.accs.filter fun x => x.agent == .mspi && !x.write
  let u : State := { t with hi := { t.hi with accs := t.hi.accs.filter fun x => x.agent == .mspi && x.write,
                                              waits := t.hi.waits.filter fun x => x.agent == .mspi && x.req.write, blocks := [], newSeq := 0xFF } }
  u.each (fun x v => v.answerAccess { x with failed := true }) gone

/-- PERST_N falls: the link and the HOST PLL go down, the rings stop, MSI-X is disabled, and HDM and the bridge's initiator side are reset.
(DEDUCED, log entry 55; DEDUCED, log entry 56) -/
def State.perstLow (s : State) : State :=
  let s1 := s.pcieDown
  let s2 : State := { s1 with regs := Sparse.drop perstReg s1.regs, lat := s1.lat.filter fun e => !perstReg e.2.1,
                              hi := { s1.hi with perstN := false, errs := [] }, ev := { s1.ev with msixEn := false, held := 0 } }
  let s3 := (s2.wrF (brg BRG_CFG) 1 1 0).wr (brg PG_EVT) (s2.rd (brg PG_EVT) &&& ~~~0x29)
  let s4 := ((s3.perstBridge).wr (hdm PG_EVT) 0).wrB (cpm 0 CPM_CLK_STAT) 4 false
  ((s4.raise (hdm 0) 4).evalBrg).evalEvc

/-- PERST_ASSERT. -/
def execPerstAssert (s : State) : Host.Outcome State Fault Refusal :=
  .next (if s.straps.getLsbD 3 && s.dieUp 0 && s.hi.perstN then s.perstLow else { s with hi := { s.hi with perstN := false } })

/-- PERST_DEASSERT: the endpoint may train, and its retry period starts. -/
def execPerstDeassert (s : State) : Host.Outcome State Fault Refusal :=
  .next
    (let t := ({ s with hi := { s.hi with perstN := true } } : State).mark cfgTmr
     t.when (t.straps.getLsbD 3 && t.dieUp 0 && !s.hi.perstN) fun u => u.raise (hdm 0) 4)

/-- PCIE_CONFIG_READY: 100 ms after the later of PERST_N rising and die 0's reset release. -/
def execPcieConfigReady (s : State) : Host.Outcome State Fault Refusal :=
  .next (s.when s.hostOn fun t => (t.reachFrom cfgTmr (100 * ms)).wrB (hdm HDM_STAT) 0 true)

end Sys2Proof.Machine
end

