-- ==== Sys2Proof/Machine/Rows.lean ====
section
/-! DEFINITION. The row boundary (R99): what ends with a row, blocking, profile swap, the new row, muting, and all that the
chapters place at a row boundary. -/

namespace Sys2Proof.Machine

/-! ## What ends with the row -/

/-- A row that ends without an accepted ROW_START is counted; the needle counts none (R110). -/
def State.endRs (s : State) : State :=
  if s.needle then s
  else if s.rdB (sch 0 SCH_STAT) 13 then { s with sc := { s.sc with rsMiss := 0 } }
  else (let t := s.count (sch 0 SCH_CNT_RS_MISS)
        { t with sc := { t.sc with rsMiss := t.sc.rsMiss + 1 } })

/-- A spare of the active profile that no shadow overlay claims. -/
def State.spareFree (s : State) (i : Nat) : Bool :=
  match s.actEntry i with
  | some e => e.kind == kSpare && ((s.overlayOwner (1 - s.actBank) s.actPrf i).getD 0) == 0
  | none => false

/-- The needle grants or refuses one CLAIM (R230).
(DEDUCED, log entry 32) -/
def State.grantOne (s : State) (c : Nat × Uid × Nat) : State :=
  let sb := 1 - s.actBank
  if !s.spareFree c.2.2 || s.numOf sb c.2.1 != c.1 || c.1 == 0
      || decide (atLeast1 (s.rdF (sch 0 SCH_BLK_CFG) 8 6) ≤ s.sc.grants.length) then s.countF (sch 0 SCH_YO_CNT) 24 8
  else
    let t := (s.setTb (overlayAddr sb s.actPrf c.2.2) (BitVec.ofNat 8 (0x80 + c.1))).countF (sch 0 SCH_YO_CNT) 16 8
    let u : State := { t with sc := { t.sc with grants := { sid := BitVec.ofNat 12 c.2.2, node := BitVec.ofNat 6 c.1 } :: t.sc.grants } }
    if c.1 = u.rdF (ina INA_STAT) 16 6 then u.granted c.2.2 else u

/-- CLAIMs in the order in which they are resolved: the lowest sender first. -/
def insertClaim (c : Nat × Uid × Nat) : List (Nat × Uid × Nat) → List (Nat × Uid × Nat)
  | [] => [c]
  | x :: xs => if x.1 < c.1 then x :: insertClaim c xs else c :: x :: xs

/-- The CLAIMs of the row that ends are resolved (R230); the needle's own claim has then been granted or lost.
(DEDUCED, log entry 32) -/
def State.resolveClaims (s : State) : State :=
  if s.needle then
    let t := (s.each (fun c u => u.grantOne c) (s.tp.claims.foldr insertClaim [])).judgeAsked
    { t with tp := { t.tp with claims := [] } }
  else s

/-! ## Step 1: blocking (R99, R206, R207, R209, R233 to R235) -/

/-- FROZEN clears with the blocking of its announcement.
(DEDUCED, log entry 26) -/
def State.clearFrozen (s : State) : State := s.wrB (ina INA_STAT) 6 false

/-- The blocking of this boundary, if one is due: the announced one, a catch-up alone, or a local one. `br` is the row that
starts. -/
def State.blockStep (s : State) (br : Word) : State :=
  if s.blockPend && s.rd (ina INA_BLK_ROW) == br && s.blockReady then (s.blockNow br (s.inaSt == inaCommit)).clearFrozen
  else if s.tp.catchup && s.tp.complete && s.inaSt == inaCommit then (s.blockNow br true).raiseIna 11
  else if s.rdB (sch 0 SCH_BLK_STAT) 3 && !stLater (s.rd (sch 0 SCH_BLK_ROW)) br then
    (s.wrB (sch 0 SCH_BLK_STAT) 3 false).blockNow br false
  else s

/-! ## Step 2: the profile swap (R112, R113) -/

/-- The requested or announced swap is over: it has taken effect, or its profile is not mapped. -/
def State.swapOver (s : State) : State := ((s.wrSchB SCH_STAT 7 false).wrSchB SCH_STAT 11 false).wrSchB SCH_SWAP 31 false

/-- A swap that is due at the boundary takes effect, or is deferred while a blocking is announced and in the blocking row itself.
(DEDUCED, log entry 26) -/
def State.swapStep (s : State) (row : Word) (blocked : Bool) : State :=
  if s.rdB (sch 0 SCH_STAT) 7 && (s.rdB (sch 0 SCH_STAT) 11 || !stLater s.sc.swapRow row) then
    if s.blockPend || blocked then
      (if s.rdB (sch 0 SCH_STAT) 11 then s else (s.wrSchB SCH_STAT 11 true).raiseSch 2)
    else
      let p := s.rdF (sch 0 SCH_STAT) 4 3
      if (s.slotOf s.actBank p).isSome then ((s.setProfile p).swapOver).raiseSch 0 else s.swapOver
  else s

/-! ## Step 3: the new row (R98, R99, R121, R248) -/

/-- The row number increments, and SCH_ROW_ST takes the new row's start. What the row that ended was is kept for frames and
windows that still belong to it. -/
def State.nextRow (s : State) (prf bank : Nat) (start : Word) : State :=
  let s := s.fillPending
  let old := s.row
  let t := (((s.wrSch SCH_ROW (old + 1)).wrSch SCH_ROW_ST start).wrSchB SCH_STAT 13 false)
  { t with
    sc := { t.sc with
      prevPrf := prf, prevBank := bank, prevRowSt := s.rd (sch 0 SCH_ROW_ST), prevPoll := s.sc.poll, prevPollSt := s.sc.pollSt, poll := none, marks := 0, sending := []
      adoptSt := none, decided := t.sc.decided.filter fun d => d.row == old || d.row == old + 1
      heard := t.sc.heard.filter fun h => h.1 == old || h.1 == old + 1 }
    cn := { t.cn with
      polls := t.cn.polls.filter fun p => p.row == old || p.row == old + 1
      replies := t.cn.replies.filter fun r => r.row == old || r.row == old + 1
      closed := t.cn.closed.filter fun c => c.1 == old || c.1 == old + 1 }
    fw := { t.fw with effOld := t.fw.eff, eff := [] } }

/-! ## After the new row has begun: the double mapping, announcements and grants (R206, R226 to R232) -/

/-- The double mapping ends after its last row or a frog, or starts before a blocking (R226, R228). -/
def State.spanStep (s : State) : State :=
  if s.rdB (sch 0 SCH_BLK_STAT) 1 && (if s.tp.dblOld then stLater s.row s.tp.dblEnd else s.tp.dblFrog) then s.endSpan
  else ({ s with tp := { s.tp with dblFrog := false } } : State).spanStart

/-- BLK_LEAD, at least 2 rows.
(DEDUCED, log entry 25) -/
def State.blkLead (s : State) : Nat := max 2 (s.rdF (ina INA_BLK_CFG) 0 8)

/-- The needle announces at the first boundary after it has reached COMMIT; elsewhere a row in COMMIT without an announcement is
counted (R203, R206). -/
def State.announceStep (s : State) : State :=
  if s.inaSt = inaCommit ∧ !s.blockPend ∧ !s.tp.catchup then
    (if s.needle then s.announce (s.row + wordOf (s.blkLead + if s.hasNew then s.rdF (ina INA_BLK_CFG) 8 8 else 0))
    else { s with tp := { s.tp with commitRows := s.tp.commitRows + 1 } })
  else s

/-- The needle carries grants up to row BR + D (R231). -/
def State.dropGrants (s : State) : State :=
  if s.blockPend ∨ !stLater s.row (s.rd (ina INA_BLK_ROW) + wordOf s.dblRows) then s else { s with sc := { s.sc with grants := [] } }

/-- A grant that the active overlay lacked is written to it (R231). -/
def State.lateGrant (s : State) (g : GrantSlot) : State :=
  let t := (s.setTb (overlayAddr s.actBank s.actPrf g.sid.toNat) (BitVec.ofNat 8 (0x80 + g.node.toNat))).raiseSch 28
  if g.node.toNat = t.num then t.granted g.sid.toNat else t

/-- Grants that waited for this boundary. -/
def State.lateGrants (s : State) : State :=
  let t := s.each (fun g u => u.lateGrant g) s.tp.late
  { t with tp := { t.tp with late := [] } }

/-- The SKEIN and SPARE stitches that the shadow overlays give the shadow number. -/
def State.shadowHeld (s : State) : Nat :=
  match s.actSlot with
  | none => 0
  | some sl => (List.range (s.slotCnt sl)).countP fun i =>
      let e := s.entry sl i
      (e.kind == kSkein || e.kind == kSpare) && s.effOwner (1 - s.actBank) s.actPrf i e == s.rdF (ina INA_STAT) 16 6

/-- The claim rows, and the row whose ROW_START carries the last grants, have ended: a claimant with fewer stitches than NEED has
failed (R232).
(DEDUCED, log entry 26) -/
def State.claimEnd (s : State) : State :=
  let n := s.rdF (ina INA_BLK_CFG) 8 8
  if s.blockPend && s.inaSt == inaCommit && n != 0 && s.rdF (ina INA_STAT) 16 6 != 0 && s.row == s.tp.annRow + wordOf (n + 1) then
    let t := s.wrSchB SCH_YO_STAT 4 false
    if t.shadowHeld < t.rdF (sch 0 SCH_YO_CFG) 0 4 then (t.wrSchB SCH_YO_STAT 5 true).raiseSch 27 else t
  else s

/-- Die 1 inverts its bank at the first boundary after the Komidon link has recovered, with BLK_LATE of its INA page (R235). -/
def State.flipLate (s : State) : State :=
  if s.tp.flip1 && s.die1On then
    let t := (s.wr (sch 1 SCH_BANK) (s.rd (sch 0 SCH_BANK))).raise (0x04000000 + ina 0) 10
    { t with tp := { t.tp with flip1 := false } }
  else s

/-- Die 1's generators take die 0's values after the link has recovered (R258). -/
def State.gensAfterLink (s : State) : State :=
  if s.dk.genSync && s.die1On then (let t := s.syncGens; { t with dk := { t.dk with genSync := false } }) else s

/-- Soft resets deferred while FROZEN are made at the boundary after the blocking row (R235).
(DEDUCED, log entry 26) -/
def State.deferredResets (s : State) (blocked : Bool) : State :=
  if s.frozen || blocked then s
  else
    let l := s.tp.resets
    let t : State := { s with tp := { s.tp with resets := [] } }
    t.each (fun b u => match u.pageOf b with
      | some p => u.softNow p b
      | none => u) l

/-- Held prefetch blocks last to the second boundary after their arrival (R418). -/
def State.ageBlocks (s : State) : State :=
  { s with hi := { s.hi with blocks := (s.hi.blocks.map fun b => { b with left := b.left - 1 }).filter fun b => b.left != 0 } }

/-- Bind-off: one that waited for the boundary is entered, and one whose END has come ends (R360, R363).
(DEDUCED, log entry 26) -/
def State.bindoffStep (s : State) : State :=
  if s.kp.boPend && s.mode.inRow then s.enterBindoff
  else if s.rdB (kpr KPR_MODE) 4 && s.mode.inRow && stReached (s.rd (kwk KWK_BO_END)) (s.st 0) then s.endBindoff
  else s

/-! ## The boundary -/

/-- What ends with the row, before step 1.
(DEDUCED, log entry 26) -/
def State.rowEnd (s : State) : State := (((s.endRs).singles).renotify).resolveClaims

/-- Steps 1 to 3, with the ages of contexts, the twin delta and the field buses' periods.
(DEDUCED, log entry 26) -/
def State.rowTurn (s : State) : State :=
  let row := s.row + 1
  let len := s.rowLen
  let start := s.rd (sch 0 SCH_ROW_ST) + wordOf len
  let prf := s.actPrf
  let bank := s.actBank
  let t := s.blockStep row
  let blocked := t.actBank != bank
  let u := (t.swapStep row blocked).nextRow prf bank start
  let v := ((((u.evalOwn).ageAll).deltaBoundary row).pairBoundary (row - 1)).fldBoundary len (blocked || u.actPrf != prf)
  (v.each (fun d w => w.evalBuf d) v.dies).staRow len

/-- Step 4, and the holdover counts of the time units (R75, R91, R127). -/
def State.muteStep (s : State) : State := ((((s.holdStep 0 1).holdStep 1 1).holdoverStep 1).muteBoundary.muteBoundary1)

/-- What the chapters place at a row start beside the steps of R99.
(DEDUCED, log entry 26) -/
def State.rowBegin (s : State) (blocked : Bool) : State :=
  let s1 := (((s.spanStep).lateGrants).dropGrants).claimEnd
  let s2 := ((((s1.announceStep).freezeStep).yieldBoundary).flipLate).gensAfterLink
  let s3 := (s2.each (fun d t => t.compareGuard d) s2.dies).turnBoundary
  ((((s3.alignStats).deferredResets blocked).ageBlocks).evalNeed).bindoffStep

/-- ROW_BOUNDARY: while rows run, the row clock reaches the end of the row, and the next one starts. Step 5 is STATS_BOUNDARY.
(DEDUCED, log entry 3) -/
def execRowBoundary (s : State) : Host.Outcome State Fault Refusal :=
  .next (s.when (s.dieUp 0 && s.run) fun t =>
    let u := t.reachSt (t.rd (sch 0 SCH_ROW_ST) + wordOf t.rowLen)
    let bank := u.actBank
    let v := (u.rowEnd).rowTurn
    ((v.muteStep).rowBegin (v.actBank != bank)).settle)

end Sys2Proof.Machine
end

