-- ==== Sys2Proof/Machine/Startup.lean ====
section
/-! DEFINITION. Startup (R463 to R470, R538): the choice of a flash copy, the checks of an image, its application in steps, and
the bring-up of die 1. -/

namespace Sys2Proof.Machine

/-! ## The boot loader's status (R465, R467, R473) -/

/-- DIE_BOOT_STAT.STATE. -/
def State.bootState (s : State) : Nat := s.rdF (die 0 DIE_BOOT_STAT) 0 4

def State.setBoot (s : State) (v : Nat) : State := s.wrF (die 0 DIE_BOOT_STAT) 0 4 v

/-- DIE_BOOT_STAT.COPY. -/
def State.bootCopy (s : State) : Nat := s.rdF (die 0 DIE_BOOT_STAT) 4 2

/-- The code of a source in COPY. -/
def srcCode : ImgSource → Nat
  | .copy0 => 0
  | .copy1 => 1
  | .host => 2

/-- The staging area, die 0's image store, is zeroed.
(DESIGN CHOICE, log entry 11) -/
def State.zeroStaging (s : State) : State := s.clearWin (win 0 0) 0x400000

/-- DIE_BOOT_FAIL and DIE_BOOT_STAT.CODE show the codes recorded. -/
def State.showFails (s : State) : State :=
  (s.wr (die 0 DIE_BOOT_FAIL) (s.kp.failCodes &&& 0x00FFFFFF)).wrF (die 0 DIE_BOOT_STAT) 8 8 (fld s.kp.failCodes 24 8)

/-- The code of a rejected image is recorded, and a flash copy counts as tried.
(DEDUCED, log entry 12) -/
def State.noteFail (s : State) (src : ImgSource) (c : Nat) : State :=
  let w := setFld (setFld s.kp.failCodes (8 * srcCode src) 8 c) 24 8 c
  let tried := match src with
    | .copy0 => s.kp.tried ||| 1
    | .copy1 => s.kp.tried ||| 2
    | .host => 3
  let t : State := { s with kp := { s.kp with failCodes := w, tried := tried, staged := none, initLeft := [], linkWait := false } }
  t.showFails

/-- A copy can still be tried. -/
def State.copyLeft (s : State) (k : Nat) : Bool := s.kp.marks.getLsbD k && !s.kp.tried.getLsbD k

/-- The first copy of an order that can still be tried is read; where there is none the boot has failed (R465). A second copy
sets COPY_FALLBACK. -/
def State.loadFirst (s : State) (order : List Nat) : State :=
  match order.find? s.copyLeft with
  | some k => ((s.setBoot 1).wrF (die 0 DIE_BOOT_STAT) 4 2 k).when (s.kp.tried != 0) fun t => t.raise (die 0 0) 2
  | none => (s.setBoot 6).raise (die 0 0) 1

/-- The copies in the order in which they are tried: after MAINTENANCE the one last accepted first (R470), else the higher version
first, and copy 0 at equal versions (R465).
(DEDUCED, log entry 12) -/
def State.copyOrder (s : State) (f : FlashMarks) : List Nat :=
  if s.mode ≠ .waking then (if s.kp.lastCopy = 1 then [1, 0] else [0, 1])
  else if f.ver0.ult f.ver1 then [1, 0] else [0, 1]

/-- The marks and headers of the flash have been read, and a copy is chosen.
(DEDUCED, log entry 12) -/
def State.chooseCopy (s : State) (f : FlashMarks) : State :=
  let t : State := { s with kp := { s.kp with bootDue := false, marks := BitVec.ofNat 2 (b2n f.mark0 + 2 * b2n f.mark1) } }
  t.showFails.loadFirst (t.copyOrder f)

/-- BOOT_START: a boot that is due begins. With FLASH_MODE at 1 and nothing tried, and after MAINTENANCE with a host-loaded image in
use, the boot loader waits for the host (R467, R470).
(DESIGN CHOICE, log entry 11) -/
def execBootStart (f : FlashMarks) (s : State) : Host.Outcome State Fault Refusal :=
  .next (s.when (s.dieUp 0 && s.kp.bootDue && s.mode != .maintenance) fun t =>
    if t.bootState = 7 ∨ (t.straps.getLsbD 2 ∧ t.bootState ≠ 1 ∧ t.kp.tried = 0) then
      ({ t with kp := { t.kp with bootDue := false } }).setBoot 7
    else t.chooseCopy f)

/-- BOOT_GO. -/
def execBootGo (s : State) : Host.Outcome State Fault Refusal := .next (s.guarded (die 0 DIE_BOOT_CTRL) State.bootGo)

/-- BOOT_RETRY: while the boot loader waits, R465 runs again from flash. -/
def execBootRetry (f : FlashMarks) (s : State) : Host.Outcome State Fault Refusal :=
  .next (s.guarded (die 0 DIE_BOOT_CTRL) fun t => t.when t.bootWaits fun u => (u.bootAgain).chooseCopy f)

/-! ## The checks of an image (R429, R468) -/

/-- The key of an image is a root key that is programmed and not revoked, or both slots are blank (R429). -/
def State.rootOk (s : State) (h : BitVec 256) : Bool :=
  s.rootsBlank || (List.range 2).any fun k => s.otpHash (8 * k) == h && s.otpHash (8 * k) != 0 && !bit (s.otpW 16) k

/-- The rollback count: the ones of OTP bytes 0x058–0x05F (R429). -/
def State.rollback (s : State) : Nat :=
  (List.range 32).countP (fun i => bit (s.otpW 22) i) + (List.range 32).countP fun i => bit (s.otpW 23) i

/-- The node UID of the OTP (R430). -/
def State.otpUid (s : State) : Uid := BitVec.ofNat 64 ((s.otpW 18).toNat + (s.otpW 19).toNat * 2 ^ 32)

/-- The code of the first of steps 1 to 4 that fails, 0 where all pass. -/
def State.headCode (s : State) (im : Image) : Nat :=
  if im.source ≠ .host ∧ !im.readOk then 0x0B
  else if !im.headerOk ∨ im.deviceId.toNat ≠ s.part.deviceId ∨ 0x400000 < im.length then 0x02
  else if !im.sigOk then 0x03
  else if !s.rootOk im.keyHash then 0x04
  else if im.version.toNat < s.rollback then 0x05
  else if im.uidFilter ≠ 0 ∧ im.uidFilter ≠ s.otpUid then 0x06
  else 0

/-- A slot register and its mirror on die 1. -/
def State.putSlotReg (s : State) (o : Nat) (w : Word) : State := s.wrSch o (w &&& slotMask o)

/-- A PROFILE section is written to its slot, and the slot is checked (step 5). -/
def State.putProfile (s : State) (p : ProfileSec) : State :=
  let n := p.slot.val
  let s1 := ((s.putSlotReg (SCH_SLOT_ROWLEN n) p.rowLen).putSlotReg (SCH_SLOT_SELV n) p.selv).putSlotReg (SCH_SLOT_CNT n) p.cnt
  let s2 := (s1.putSlotReg (SCH_SLOT_RSLEN n) p.rsLen).putSlotReg (SCH_SLOT_CRC n) p.crc
  (s2.setTws (entryAddr n 0) (p.entries.take 16384)).checked n

/-- The slots of an image passed their check. -/
def State.slotsOk (s : State) (im : Image) : Bool := im.profiles.all fun p => s.rdB (sch 0 (SCH_SLOT_STAT p.slot.val)) 0

/-- The words of an image's tables with their addresses.
(DESIGN CHOICE, log entry 1; DESIGN CHOICE, log entry 11) -/
def imageCells (im : Image) : List (Nat × Word) := im.tables.flatMap fun t => t.2.zipIdx.map fun x => (t.1 + 4 * x.2, x.1)

/-- The units of the image store that the staged contexts of a die own: from, and up to (R241). -/
def imageSpans (im : Image) (d : Nat) : List (Nat × Nat) :=
  let ws := imageCells im
  ws.filterMap fun x =>
    if ctxWord d 0 0 ≤ x.1 ∧ x.1 < ctxWord d 4096 0 ∧ (x.1 - ctxWord d 0 0) % 16 = 0 ∧ bit x.2 24 then
      let b := fld ((Assoc.get ws (x.1 + 4)).getD 0) 0 16
      some (b, b + 2 * bufUnits (fld x.2 13 11))
    else none

/-- Spans end within the store and do not overlap. -/
def spansOk : List (Nat × Nat) → Bool
  | [] => true
  | x :: xs => decide (x.2 ≤ 65536) && xs.all (fun y => decide (x.2 ≤ y.1 ∨ y.2 ≤ x.1)) && spansOk xs

/-- The store layout of the staged tables (R241). -/
def imageStoreOk (im : Image) : Bool := spansOk (imageSpans im 0) && spansOk (imageSpans im 1)

/-- A register as the init list of an image leaves it.
(DEDUCED, log entry 13) -/
def State.initValue (s : State) (im : Image) (a : Nat) : Word :=
  im.init.foldl (fun w r => match r with
    | .write b v m => if b = a then (w &&& ~~~m) ||| (v &&& m) else w
    | _ => w) (s.rd a)

/-- The translation settings of a die that an image leaves (R219).
(DEDUCED, log entry 13) -/
def State.xltOk (s : State) (im : Image) (d : Nat) : Bool :=
  let sh := fld (s.initValue im (fwd d FWD_XLT_CFG)) 8 5
  decide (sh + 6 ≤ 32) && (wordOf (0x3F * 2 ^ sh) &&& s.initValue im (fwd d FWD_XLT_HOST_MASK)) == 0

/-! ## Rejection -/

/-- An image is rejected before step 7: a host-loaded one returns the boot loader to waiting, a copy gives way to the other (R465,
R467).
(DEDUCED, log entry 12) -/
def State.rejectImage (s : State) (im : Image) (c : Nat) : State :=
  let t := s.noteFail im.source c
  if im.source = .host then t.setBoot 6 else t.zeroStaging.loadFirst [0, 1]

/-- A record of the init list fails (step 7): both switch dies are reset, and the boot restarts with the other copy.
(DEDUCED, log entry 12) -/
def State.initFail (s : State) (im : Image) : State :=
  let t := s.noteFail im.source 0x0A
  let k := t.kp
  let u := t.reboot .dieReset
  { u with kp := { u.kp with tried := k.tried, failCodes := k.failCodes } }

/-! ## Application (R468, steps 5 to 9) -/

/-- An address of die 1 is left out while die 1 is (R469).
(DEDUCED, log entry 13) -/
def State.leftOut (s : State) (a : Nat) : Bool := dieOf a == 1 && !s.dieUp 1

/-- INSERT_OK of a die (R346). -/
def State.insertOk (s : State) (d : Nat) : State := ((s.wrB (rng d RNG_INSERT) 0 true).setInsLine d true).evalRelays

/-- The node enters CAST-ON from WAKING, and keeps the cause of its wake (R42, R46).
(DEDUCED, log entry 15) -/
def State.castOnFromBoot (s : State) : State :=
  let c := s.rdF (kpr KPR_MODE) 16 8
  ((s.setMode .castOn .por).wrF (kpr KPR_MODE) 16 8 c).enterCastOn

/-- Steps 8 and 9. DIE_BOOT_T is a measured time: a free value.
(DESIGN CHOICE, log entry 14) -/
def State.finishBoot (s : State) (im : Image) : State :=
  let s1 := s.each (fun x t => if t.leftOut x.1 then t else t.setTws x.1 x.2) im.tables
  let s2 := (s1.zeroStaging).cleanTables
  let s3 := s2.each (fun d t => t.insertOk d) s2.dies
  let s4 := if s3.mode = .waking then s3.castOnFromBoot else s3
  let s5 := (((s4.setBoot 5).wr (die 0 DIE_BOOT_VER) im.version).wrF (die 0 DIE_BOOT_T) 0 16 s4.fresh.toNat).useFree
  let s6 := s5.raise (die 0 0) 0
  { s6 with kp := { s6.kp with tried := 0, staged := none, initLeft := [], inUse := some im, lastCopy := BitVec.ofNat 2 (srcCode im.source) } }

/-- The rest of the init list is still to come; where nothing is left, steps 8 and 9 follow. -/
def State.initRest (s : State) (im : Image) (l : List InitRec) : State :=
  if l.isEmpty then s.finishBoot im else { s with kp := { s.kp with initLeft := l } }

/-- The timer of step 5's wait for the Komidon link: 10 ms (R469). -/
abbrev linkTmr : Nat := tmr (die 0 DIE_BOOT_STAT) 0

/-- Steps 5 and 6, and the start of step 7. A rejection at step 6 leaves the node as it was before step 5.
(DESIGN CHOICE, log entry 11) -/
def State.applyImage (s : State) (im : Image) : State :=
  let s0 := ({ s with kp := { s.kp with linkWait := false } } : State).disarm linkTmr
  let t := s0.each (fun p u => u.putProfile p) im.profiles
  if !t.slotsOk im then
    (t.each (fun p u => u.wrSchF (SCH_SLOT_STAT p.slot.val) 0 1 0) im.profiles).rejectImage im 0x07
  else if !imageStoreOk im then (s0.raise (dsk 0 0) 9).rejectImage im 0x08
  else if !(t.dies.all fun d => t.xltOk im d) then s0.rejectImage im 0x09
  else (({ t with kp := { t.kp with staged := some im } }).setBoot 4).initRest im im.init

/-- IMAGE_READ_DONE: an image has been staged from the copy being read, or its checks were started by GO. Step 5 waits for the
Komidon link where it is not up (R469). -/
def execImageReadDone (i : Image) (s : State) : Host.Outcome State Fault Refusal :=
  .next (s.when (s.dieUp 0 && s.kp.staged.isNone && !s.kp.bootDue && s.bootCopy == srcCode i.source
      && s.bootState == (if i.source = .host then 2 else 1)) fun t =>
    let c := t.headCode i
    if c ≠ 0 then t.rejectImage i c
    else if t.part.twoDies ∧ !t.linkUp ∧ !t.rdB (die 0 DIE_BOOT_STAT) 6 then
      ({ t with kp := { t.kp with staged := some i, linkWait := true } }).setBoot 3 |>.arm linkTmr (10 * ms)
    else t.applyImage i)

/-- Step 5 continues with the image that waited. -/
def State.linkAwaited (s : State) : State :=
  match s.kp.staged with
  | some im => if s.kp.linkWait then s.applyImage im else s
  | none => s

/-- KLK_LINK_UP: both dies are out of reset, and the link trains. The measured latencies are the event's. A boot that waits for the
link goes on (R469). -/
def execKlkLinkUp (rtt lat : BitVec 16) (s : State) : Host.Outcome State Fault Refusal :=
  .next (s.when (s.dieUp 0 && s.dieUp 1 && !s.linkUp && !s.rdB (die 0 DIE_BOOT_STAT) 6) fun t =>
    (t.linkUpNow rtt.toNat lat.toNat).linkAwaited)

/-- DIE1_LINK_WAIT_TIMEOUT: die 1 is held in reset, DIE1_OUT is set, and the boot goes on with die 0 alone (R469). -/
def execDie1LinkWaitTimeout (s : State) : Host.Outcome State Fault Refusal :=
  .next (s.when (s.kp.linkWait && !s.linkUp) fun t0 =>
    let t := t0.expire linkTmr
    (((t.setWrap true).resetDie 1).wrB (die 0 DIE_BOOT_STAT) 6 true).linkAwaited)

/-! ## The init list (R466, R468) -/

/-- An init record's address is a multiple of 4 within the map: an absent range of it takes a write without an error (R3). -/
def initAddrOk (a : Nat) : Bool := a % 4 == 0 && decide (a < 0x20000000)

/-- A WRITE record is applied past the locks: with a full mask the value, else the masked bits replaced.
(DEDUCED, log entry 13) -/
def State.initApply (s : State) (a : Nat) (v m : Word) : State :=
  if s.leftOut a || s.absent a then s else s.rawWrite a (if m = 0xFFFFFFFF then v else (s.liveWord a &&& ~~~m) ||| (v &&& m))

/-- The next record of the init list is due, if it is this one.
(DEDUCED, log entry 13) -/
def State.nextInit (s : State) (r : InitRec) (f : Image → List InitRec → State) : State :=
  match s.kp.staged, s.kp.initLeft with
  | some im, x :: rest => if x = r then f im rest else s
  | _, _ => s

/-- INIT_WRITE. -/
def execInitWrite (addr : Nat) (value mask : Word) (s : State) : Host.Outcome State Fault Refusal :=
  .next (s.nextInit (.write addr value mask) fun im rest =>
    if initAddrOk addr then ((s.initApply addr value mask).settle).initRest im rest else s.initFail im)

/-- INIT_WAIT: the pause of the record passes. -/
def execInitWait (us : BitVec 16) (s : State) : Host.Outcome State Fault Refusal :=
  .next (s.nextInit (.wait us.toNat) fun im rest => (s.reachAt (s.now + us.toNat * 1000)).initRest im rest)

/-- The timer of a POLL record: its 10 ms end here. -/
abbrev pollTmr : Nat := tmr (die 0 DIE_BOOT_STAT) 1

/-- INIT_POLL: the register is compared under the mask; where it differs, the poll goes on until its 10 ms have `expired`. -/
def execInitPoll (addr : Nat) (value mask : Word) (expired : Bool) (s : State) : Host.Outcome State Fault Refusal :=
  .next (s.nextInit (.poll addr value mask) fun im rest =>
    if !initAddrOk addr then s.initFail im
    else
      let s0 := if (s.timer pollTmr).isSome then s else s.arm pollTmr (10 * ms)
      let s1 := if expired then s0.reachFrom pollTmr 0 else s0
      if s1.leftOut addr ∨ (if s1.absent addr then 0 else s1.liveWord addr) &&& mask = value then (s1.disarm pollTmr).initRest im rest
      else if expired then (s1.disarm pollTmr).initFail im
      else s1)

/-! ## The bring-up of die 1 (R469, R538) -/

/-- Die 1's share of an image: its init writes and its tables. -/
def State.die1Share (s : State) (im : Image) : State :=
  let t := s.each (fun r u => match r with
    | .write a v m => if dieOf a = 1 ∧ initAddrOk a then u.initApply a v m else u
    | _ => u) im.init
  t.each (fun x u => if dieOf x.1 = 1 then u.setTws x.1 x.2 else u) im.tables

/-- A static directory entry of die 1 is written again, with the number that its node has in the active list. -/
def State.redirect (s : State) (k : DirKey) (w2 : Word) : State :=
  let n := fld w2 0 6
  let m := match s.expected.find? (·.2 == n) with
    | some x => s.numOf s.actBank x.1
    | none => n
  if m = 0 then s
  else
    let k' := s.rekey 1 m k
    match s.dirFree 1 k' with
    | some j => s.dirWrite 1 j k' (setFld (setFld w2 0 6 m) 7 1 (s.sideToward s.actBank m))
    | none => s.raise (sch 0 0) 31

/-- The NODE_REL entries of die 1's directory are renumbered under the active node list.
(DEDUCED, log entry 16) -/
def State.renumDir1 (s : State) : State :=
  let es := ((s.entriesIn (dirWord 1 0 0) 65536 10).filter fun i => bit (s.tw (dirWord 1 i 2)) 18 && s.twF (dirWord 1 i 2) 0 6 != 0)
  let olds := es.map fun i => (s.dirKey 1 i, s.tw (dirWord 1 i 2))
  (s.each (fun i t => t.clearWin (dirWord 1 i 0) 16) es).each (fun x t => t.redirect x.1 x.2) olds

/-- The tables of die 1 as the image and the numbers in force make them: static content in both banks (R236), renumbered under the
active list, and under the shadow list while a shadow is written (R538). -/
def State.die1Tables (s : State) : State :=
  let s1 := s.each (fun i u => u.setTwF (dirWord 1 i 2) 16 2 3) (s.entriesIn (dirWord 1 0 0) 65536 7)
  let s2 := (s1.each (fun i u => u.setTwF (xltWord 1 i 2) 12 2 3) (s1.entriesIn (xltWord 1 0 0) 16384 9)).reseedData 1 0
  let s3 := if s2.num = 0 then s2
    else s2.renumDir1.each (fun i u => u.evalTrain 1 i) (s2.entriesIn (xltWord 1 0 0) 16384 9)
  let s4 := if s3.tp.writing ∨ s3.tp.complete then s3.shadowTables (1 - s3.actBank) (s3.rdF (ina INA_STAT) 16 6) 1 else s3
  s4.evalTables 1

/-- Die 1's share of the image in use, if one is. -/
def State.shareOf (s : State) : Option Image → State
  | some im => s.die1Share im
  | none => s

/-- Die 1 leaves reset with the link up, takes die 0's state and its share of the image in use, and requests line B again. The
latencies measured at the training are free values.
(DESIGN CHOICE, log entry 14; DEDUCED, log entry 16) -/
def State.bringUp1 (s : State) : State :=
  let s1 := ((s.wrB (kps KPS_STAT) 9 false).startDie 1)
  let s2 := if s1.linkUp then s1.mirrorSch.mirrorTmu
    else ((s1.useFree).useFree).linkUpNow (fld s1.fresh 0 16) (fld (s1.useFree).fresh 0 16)
  let s3 := ((s2.wr (sch 1 SCH_BANK) (s2.rd (sch 0 SCH_BANK))).takeTimeWord).evalFloors
  let s4 : State := { s3 with tp := { s3.tp with flip1 := false } }
  let s5 := s4.shareOf (s4.kp.staged.or s4.kp.inUse)
  (((s5.die1Tables).loadGuard 1).insertOk 1).evalNbr

/-- DIE1_BRINGUP_DONE: after a reset of die 1 alone; a boot that waits for the link goes on. -/
def execDie1BringupDone (s : State) : Host.Outcome State Fault Refusal :=
  .next (s.when (s.part.twoDies && s.dieUp 0 && s.rdB (kps KPS_STAT) 9 && !s.rdB (die 0 DIE_BOOT_STAT) 6
      && !(s.sw.tests.any fun t => t.code == 8 && t.die == 1)) fun t => t.bringUp1.linkAwaited)

end Sys2Proof.Machine
end

