-- ==== Sys2Proof/Machine/Dispatch.lean ====
section
/-! DEFINITION. What each command does: one arm for each constructor of `Instr`, in the order of the spec's table. -/

namespace Sys2Proof.Machine

/-- The effect of a command on everything but the queue. -/
def exec (i : Instr) (s : State) : Host.Outcome State Fault Refusal :=
  match i with
  | .keeperPowerUp straps => Sys2Proof.Machine.execKeeperPowerUp straps s
  | .keeperPowerLoss => Sys2Proof.Machine.execKeeperPowerLoss s
  | .wakeInputEdge ix => Sys2Proof.Machine.execWakeInputEdge ix s
  | .wakeDebounceDone ix => Sys2Proof.Machine.execWakeDebounceDone ix s
  | .wakeInputBounce ix => Sys2Proof.Machine.execWakeInputBounce ix s
  | .ladEnergyChange n present => Sys2Proof.Machine.execLadEnergyChange n present s
  | .ladBurstQualify n => Sys2Proof.Machine.execLadBurstQualify n s
  | .rtcAlarm => Sys2Proof.Machine.execRtcAlarm s
  | .rtcTick => Sys2Proof.Machine.execRtcTick s
  | .rtcSet hi => Sys2Proof.Machine.execRtcSet hi s
  | .kprReqWake => Sys2Proof.Machine.execKprReqWake s
  | .kprReqMaintenance => Sys2Proof.Machine.execKprReqMaintenance s
  | .kprReqCastOn => Sys2Proof.Machine.execKprReqCastOn s
  | .kprReqPark => Sys2Proof.Machine.execKprReqPark s
  | .kprReqWithdraw => Sys2Proof.Machine.execKprReqWithdraw s
  | .modeRequestTake => Sys2Proof.Machine.execModeRequestTake s
  | .pwrEnStep => Sys2Proof.Machine.execPwrEnStep s
  | .pgoodReached => Sys2Proof.Machine.execPgoodReached s
  | .pgoodTimeout => Sys2Proof.Machine.execPgoodTimeout s
  | .pgoodLoss => Sys2Proof.Machine.execPgoodLoss s
  | .dieResetRelease straps => Sys2Proof.Machine.execDieResetRelease straps s
  | .powerDownEnd => Sys2Proof.Machine.execPowerDownEnd s
  | .sysRstAssert => Sys2Proof.Machine.execSysRstAssert s
  | .kpsRstReqDie0 => Sys2Proof.Machine.execKpsRstReqDie0 s
  | .kpsRstReqDie1 => Sys2Proof.Machine.execKpsRstReqDie1 s
  | .pllUnlock d => Sys2Proof.Machine.execPllUnlock d s
  | .refLoss d => Sys2Proof.Machine.execRefLoss d s
  | .pllLock d p => Sys2Proof.Machine.execPllLock d p s
  | .die1BringupDone => Sys2Proof.Machine.execDie1BringupDone s
  | .rstOutRelease => Sys2Proof.Machine.execRstOutRelease s
  | .khfStart byWake => Sys2Proof.Machine.execKhfStart byWake s
  | .khfStop => Sys2Proof.Machine.execKhfStop s
  | .regionSleepEnter g => Sys2Proof.Machine.execRegionSleepEnter g s
  | .regionIdleHoldExpiry g => Sys2Proof.Machine.execRegionIdleHoldExpiry g s
  | .regionWakeStart g => Sys2Proof.Machine.execRegionWakeStart g s
  | .regionUnknownWake g => Sys2Proof.Machine.execRegionUnknownWake g s
  | .regionWakeDone g => Sys2Proof.Machine.execRegionWakeDone g s
  | .tensionCommit d hi => Sys2Proof.Machine.execTensionCommit d hi s
  | .offsetStep d step => Sys2Proof.Machine.execOffsetStep d step s
  | .timeSet d hi => Sys2Proof.Machine.execTimeSet d hi s
  | .domainLostSet d v => Sys2Proof.Machine.execDomainLostSet d v s
  | .domainGmWrite d v => Sys2Proof.Machine.execDomainGmWrite d v s
  | .domainLostTimeout d => Sys2Proof.Machine.execDomainLostTimeout d s
  | .rowClockSelect d => Sys2Proof.Machine.execRowClockSelect d s
  | .holdoverMuteExpiry => Sys2Proof.Machine.execHoldoverMuteExpiry s
  | .stHalf d => Sys2Proof.Machine.execStHalf d s
  | .pairLowRead agent addr => Sys2Proof.Machine.execPairLowRead agent addr s
  | .timerArm d n => Sys2Proof.Machine.execTimerArm d n s
  | .timerDisarm d n => Sys2Proof.Machine.execTimerDisarm d n s
  | .timerRetarget d n tgt => Sys2Proof.Machine.execTimerRetarget d n tgt s
  | .timerFire d n => Sys2Proof.Machine.execTimerFire d n s
  | .timeWord => Sys2Proof.Machine.execTimeWord s
  | .syncRx rx f residence16 => Sys2Proof.Machine.execSyncRx rx f residence16 s
  | .followUpRx rx f residence16 => Sys2Proof.Machine.execFollowUpRx rx f residence16 s
  | .twoStepTimeout port domain => Sys2Proof.Machine.execTwoStepTimeout port domain s
  | .syncOriginate d => Sys2Proof.Machine.execSyncOriginate d s
  | .slavePortWrite d value => Sys2Proof.Machine.execSlavePortWrite d value s
  | .holdoverExpiry d => Sys2Proof.Machine.execHoldoverExpiry d s
  | .holdEnd d => Sys2Proof.Machine.execHoldEnd d s
  | .ppsOutPulse => Sys2Proof.Machine.execPpsOutPulse s
  | .ppsOutEnd => Sys2Proof.Machine.execPpsOutEnd s
  | .ppsInCapture => Sys2Proof.Machine.execPpsInCapture s
  | .snapCapture => Sys2Proof.Machine.execSnapCapture s
  | .rowBoundary => Sys2Proof.Machine.execRowBoundary s
  | .rowStartSend => Sys2Proof.Machine.execRowStartSend s
  | .rowStartRx rx h b => Sys2Proof.Machine.execRowStartRx rx h b s
  | .rowStartLoss => Sys2Proof.Machine.execRowStartLoss s
  | .stitchDecision sid => Sys2Proof.Machine.execStitchDecision sid s
  | .knit d sid => Sys2Proof.Machine.execKnit d sid s
  | .skeinSend sid => Sys2Proof.Machine.execSkeinSend sid s
  | .mgmtStitchSend sid => Sys2Proof.Machine.execMgmtStitchSend sid s
  | .guardianCutoff port => Sys2Proof.Machine.execGuardianCutoff port s
  | .skeinMiss sid => Sys2Proof.Machine.execSkeinMiss sid s
  | .skeinRx rx h rtag b => Sys2Proof.Machine.execSkeinRx rx h rtag b s
  | .nullRx rx h rtag b => Sys2Proof.Machine.execNullRx rx h rtag b s
  | .outputLatch => Sys2Proof.Machine.execOutputLatch s
  | .inputSample gpio stm => Sys2Proof.Machine.execInputSample gpio stm s
  | .stmPulseEnd n => Sys2Proof.Machine.execStmPulseEnd n s
  | .gpioDirWrite value => Sys2Proof.Machine.execGpioDirWrite value s
  | .gpioOutNextWrite value => Sys2Proof.Machine.execGpioOutNextWrite value s
  | .slotCheck slot => Sys2Proof.Machine.execSlotCheck slot s
  | .slotCheckDone => Sys2Proof.Machine.execSlotCheckDone s
  | .scheduleTableWrite addr value => Sys2Proof.Machine.execScheduleTableWrite addr value s
  | .swapRequest prf => Sys2Proof.Machine.execSwapRequest prf s
  | .listenTimeout => Sys2Proof.Machine.execListenTimeout s
  | .coldstartRx rx h b => Sys2Proof.Machine.execColdstartRx rx h b s
  | .coldstartRepeat => Sys2Proof.Machine.execColdstartRepeat s
  | .needleStart => Sys2Proof.Machine.execNeedleStart s
  | .followTimeout => Sys2Proof.Machine.execFollowTimeout s
  | .verifyTimeout => Sys2Proof.Machine.execVerifyTimeout s
  | .resyncTimeout => Sys2Proof.Machine.execResyncTimeout s
  | .needleAnnounce => Sys2Proof.Machine.execNeedleAnnounce s
  | .needleYieldSend => Sys2Proof.Machine.execNeedleYieldSend s
  | .needleYieldEnd => Sys2Proof.Machine.execNeedleYieldEnd s
  | .consistFrameRx rx e k => Sys2Proof.Machine.execConsistFrameRx rx e k s
  | .fenceHoldoffExpiry p => Sys2Proof.Machine.execFenceHoldoffExpiry p s
  | .grdUnfence p => Sys2Proof.Machine.execGrdUnfence p s
  | .grdFence p => Sys2Proof.Machine.execGrdFence p s
  | .grdClearHistory p => Sys2Proof.Machine.execGrdClearHistory p s
  | .pollSend sid => Sys2Proof.Machine.execPollSend sid s
  | .replyCommit sid => Sys2Proof.Machine.execReplyCommit sid s
  | .portLinkUp p speed => Sys2Proof.Machine.execPortLinkUp p speed s
  | .portLinkDown p => Sys2Proof.Machine.execPortLinkDown p s
  | .mvbEnable n => Sys2Proof.Machine.execMvbEnable n s
  | .mvbMasterFrameSend n entry => Sys2Proof.Machine.execMvbMasterFrameSend n entry s
  | .mvbSlaveFrameSend n fcode addr => Sys2Proof.Machine.execMvbSlaveFrameSend n fcode addr s
  | .mvbFrameRx n fcode addr a b data => Sys2Proof.Machine.execMvbFrameRx n fcode addr a b data s
  | .mvbReplyTimeout n addr badA badB => Sys2Proof.Machine.execMvbReplyTimeout n addr badA badB s
  | .mvbNoMaster n => Sys2Proof.Machine.execMvbNoMaster n s
  | .mvbBasicPeriodEnd n => Sys2Proof.Machine.execMvbBasicPeriodEnd n s
  | .canEnable c => Sys2Proof.Machine.execCanEnable c s
  | .canFieldTrigger sid => Sys2Proof.Machine.execCanFieldTrigger sid s
  | .canFrameTx c => Sys2Proof.Machine.execCanFrameTx c s
  | .canFrameRx c ide fdf brs cid dlc data => Sys2Proof.Machine.execCanFrameRx c ide fdf brs cid dlc data s
  | .canErrorStateChange c st tec rec => Sys2Proof.Machine.execCanErrorStateChange c st tec rec s
  | .canBusOn c => Sys2Proof.Machine.execCanBusOn c s
  | .fldMsgPop agent => Sys2Proof.Machine.execFldMsgPop agent s
  | .helloSend p => Sys2Proof.Machine.execHelloSend p s
  | .helloRx rx uid hearsUs => Sys2Proof.Machine.execHelloRx rx uid hearsUs s
  | .helloTimeout p => Sys2Proof.Machine.execHelloTimeout p s
  | .cplDebounceDone sd => Sys2Proof.Machine.execCplDebounceDone sd s
  | .couplePendTimeout sd => Sys2Proof.Machine.execCouplePendTimeout sd s
  | .topologySend => Sys2Proof.Machine.execTopologySend s
  | .topologyRx rx f => Sys2Proof.Machine.execTopologyRx rx f s
  | .topologyRelay p f => Sys2Proof.Machine.execTopologyRelay p f s
  | .stableTimeout => Sys2Proof.Machine.execStableTimeout s
  | .shadowWriteDone => Sys2Proof.Machine.execShadowWriteDone s
  | .commitTimeout => Sys2Proof.Machine.execCommitTimeout s
  | .inaRestart => Sys2Proof.Machine.execInaRestart s
  | .localCommitTimer => Sys2Proof.Machine.execLocalCommitTimer s
  | .claimSend sid => Sys2Proof.Machine.execClaimSend sid s
  | .claimRx rx h b => Sys2Proof.Machine.execClaimRx rx h b s
  | .trainBlockingReq => Sys2Proof.Machine.execTrainBlockingReq s
  | .localBlockingReq => Sys2Proof.Machine.execLocalBlockingReq s
  | .bankedTableWrite addr value => Sys2Proof.Machine.execBankedTableWrite addr value s
  | .dirAgeExpiry d index => Sys2Proof.Machine.execDirAgeExpiry d index s
  | .flushLearned => Sys2Proof.Machine.execFlushLearned s
  | .hostCommit d ds => Sys2Proof.Machine.execHostCommit d ds s
  | .bufferFlip d ctx => Sys2Proof.Machine.execBufferFlip d ctx s
  | .cmpAgeTick d => Sys2Proof.Machine.execCmpAgeTick d s
  | .frerTimeout d ctx rogue => Sys2Proof.Machine.execFrerTimeout d ctx rogue s
  | .trdpRx d t => Sys2Proof.Machine.execTrdpRx d t s
  | .trdpCycleSend d entry => Sys2Proof.Machine.execTrdpCycleSend d entry s
  | .ntfPop d => Sys2Proof.Machine.execNtfPop d s
  | .beFrameRx rx e => Sys2Proof.Machine.execBeFrameRx rx e s
  | .egressTransmit p => Sys2Proof.Machine.execEgressTransmit p s
  | .gateChange p cls opens => Sys2Proof.Machine.execGateChange p cls opens s
  | .preemptVerifyDone p ok => Sys2Proof.Machine.execPreemptVerifyDone p ok s
  | .pfcRx p prio quanta => Sys2Proof.Machine.execPfcRx p prio quanta s
  | .pfcPauseExpiry p prio => Sys2Proof.Machine.execPfcPauseExpiry p prio s
  | .reserveWrite addr value => Sys2Proof.Machine.execReserveWrite addr value s
  | .watermarkRead addr => Sys2Proof.Machine.execWatermarkRead addr s
  | .klkRetrain d => Sys2Proof.Machine.execKlkRetrain d s
  | .klkLinkUp rtt lat => Sys2Proof.Machine.execKlkLinkUp rtt lat s
  | .klkLinkDown => Sys2Proof.Machine.execKlkLinkDown s
  | .lineFailure p => Sys2Proof.Machine.execLineFailure p s
  | .lineLockRegained p rate10 => Sys2Proof.Machine.execLineLockRegained p rate10 s
  | .turnNoticeSend sd => Sys2Proof.Machine.execTurnNoticeSend sd s
  | .turnNoticeRx rx h b => Sys2Proof.Machine.execTurnNoticeRx rx h b s
  | .forceClearFault => Sys2Proof.Machine.execForceClearFault s
  | .forceSplit one two => Sys2Proof.Machine.execForceSplit one two s
  | .heartbeatLost => Sys2Proof.Machine.execHeartbeatLost s
  | .heartbeatRegained => Sys2Proof.Machine.execHeartbeatRegained s
  | .hbOutStall => Sys2Proof.Machine.execHbOutStall s
  | .tokenLineChange tok0 tok1 => Sys2Proof.Machine.execTokenLineChange tok0 tok1 s
  | .tokenFault => Sys2Proof.Machine.execTokenFault s
  | .twinObserveEnd => Sys2Proof.Machine.execTwinObserveEnd s
  | .tokenClaimStart => Sys2Proof.Machine.execTokenClaimStart s
  | .tokenClaimWaitEnd => Sys2Proof.Machine.execTokenClaimWaitEnd s
  | .tokenAcquired => Sys2Proof.Machine.execTokenAcquired s
  | .twinHelloSend => Sys2Proof.Machine.execTwinHelloSend s
  | .twinHelloRx h b => Sys2Proof.Machine.execTwinHelloRx h b s
  | .twinLaneTimeout lane => Sys2Proof.Machine.execTwinLaneTimeout lane s
  | .deltaSend => Sys2Proof.Machine.execDeltaSend s
  | .deltaRx h isEnd records => Sys2Proof.Machine.execDeltaRx h isEnd records s
  | .resyncReqSend => Sys2Proof.Machine.execResyncReqSend s
  | .twinResyncCmd => Sys2Proof.Machine.execTwinResyncCmd s
  | .resyncReqRx h => Sys2Proof.Machine.execResyncReqRx h s
  | .resyncDataSend lane => Sys2Proof.Machine.execResyncDataSend lane s
  | .resyncEndSend lane => Sys2Proof.Machine.execResyncEndSend lane s
  | .resyncFrameRx h f => Sys2Proof.Machine.execResyncFrameRx h f s
  | .twinDrill => Sys2Proof.Machine.execTwinDrill s
  | .drillRx h => Sys2Proof.Machine.execDrillRx h s
  | .drillAckRx h => Sys2Proof.Machine.execDrillAckRx h s
  | .drillTimeout => Sys2Proof.Machine.execDrillTimeout s
  | .forceTake => Sys2Proof.Machine.execForceTake s
  | .insertOkWrite d v => Sys2Proof.Machine.execInsertOkWrite d v s
  | .insertLineStop d => Sys2Proof.Machine.execInsertLineStop d s
  | .relayPullinStart l => Sys2Proof.Machine.execRelayPullinStart l s
  | .relayStaggerExpiry => Sys2Proof.Machine.execRelayStaggerExpiry s
  | .relayPullinEnd l => Sys2Proof.Machine.execRelayPullinEnd l s
  | .bypassFault n f => Sys2Proof.Machine.execBypassFault n f s
  | .bypassClearFault => Sys2Proof.Machine.execBypassClearFault s
  | .coilRequest n => Sys2Proof.Machine.execCoilRequest n s
  | .coilTestStart n => Sys2Proof.Machine.execCoilTestStart n s
  | .coilTestDone n code => Sys2Proof.Machine.execCoilTestDone n code s
  | .ladBurstSend n => Sys2Proof.Machine.execLadBurstSend n s
  | .ladBurstEnd n => Sys2Proof.Machine.execLadBurstEnd n s
  | .rateTryExpiry p => Sys2Proof.Machine.execRateTryExpiry p s
  | .i2cCommand m cmd => Sys2Proof.Machine.execI2cCommand m cmd s
  | .i2cPollRead m k value => Sys2Proof.Machine.execI2cPollRead m k value s
  | .i2cDone m r => Sys2Proof.Machine.execI2cDone m r s
  | .keepaliveSend => Sys2Proof.Machine.execKeepaliveSend s
  | .keepaliveRx rx h b => Sys2Proof.Machine.execKeepaliveRx rx h b s
  | .needHostWrite v => Sys2Proof.Machine.execNeedHostWrite v s
  | .wakeNeedExpiry => Sys2Proof.Machine.execWakeNeedExpiry s
  | .keepaliveTimeout => Sys2Proof.Machine.execKeepaliveTimeout s
  | .bindoffEnd => Sys2Proof.Machine.execBindoffEnd s
  | .rewakeBurst sd => Sys2Proof.Machine.execRewakeBurst sd s
  | .minOffExpiry => Sys2Proof.Machine.execMinOffExpiry s
  | .eventSourceEdge src => Sys2Proof.Machine.execEventSourceEdge src s
  | .evcSetPend src => Sys2Proof.Machine.execEvcSetPend src s
  | .evcClrPend src => Sys2Proof.Machine.execEvcClrPend src s
  | .evcEnable src => Sys2Proof.Machine.execEvcEnable src s
  | .evcDisable src => Sys2Proof.Machine.execEvcDisable src s
  | .evcForceDone src => Sys2Proof.Machine.execEvcForceDone src s
  | .evcBitmapWrite d ena w value edges => Sys2Proof.Machine.execEvcBitmapWrite d ena w value edges s
  | .evcTgtEnWrite value => Sys2Proof.Machine.execEvcTgtEnWrite value s
  | .evcClaim t => Sys2Proof.Machine.execEvcClaim t s
  | .evcDone t src => Sys2Proof.Machine.execEvcDone t src s
  | .rqConsWrite t value => Sys2Proof.Machine.execRqConsWrite t value s
  | .rqEnable t value => Sys2Proof.Machine.execRqEnable t value s
  | .rqModerationExpiry t => Sys2Proof.Machine.execRqModerationExpiry t s
  | .pcieLinkL0 => Sys2Proof.Machine.execPcieLinkL0 s
  | .msixVectorUnmask v => Sys2Proof.Machine.execMsixVectorUnmask v s
  | .perstAssert => Sys2Proof.Machine.execPerstAssert s
  | .perstDeassert => Sys2Proof.Machine.execPerstDeassert s
  | .pcieConfigReady => Sys2Proof.Machine.execPcieConfigReady s
  | .bar0Request r => Sys2Proof.Machine.execBar0Request r s
  | .ringEnable rx n => Sys2Proof.Machine.execRingEnable rx n s
  | .txTailWrite n value => Sys2Proof.Machine.execTxTailWrite n value s
  | .txDescriptorDone n d st => Sys2Proof.Machine.execTxDescriptorDone n d st s
  | .rxTailWrite n value => Sys2Proof.Machine.execRxTailWrite n value s
  | .rxFrameToHost p reason cls e sof d => Sys2Proof.Machine.execRxFrameToHost p reason cls e sof d s
  | .dmaError rx n buffer addr => Sys2Proof.Machine.execDmaError rx n buffer addr s
  | .mspiRead addr => Sys2Proof.Machine.execMspiRead addr s
  | .mspiWrite addr value => Sys2Proof.Machine.execMspiWrite addr value s
  | .bar2Request r => Sys2Proof.Machine.execBar2Request r s
  | .bridgeReqSend w mgmt => Sys2Proof.Machine.execBridgeReqSend w mgmt s
  | .bridgeRetransmit w seq => Sys2Proof.Machine.execBridgeRetransmit w seq s
  | .bridgeTimeout w seq => Sys2Proof.Machine.execBridgeTimeout w seq s
  | .bridgeReqRx rx h b => Sys2Proof.Machine.execBridgeReqRx rx h b s
  | .bridgeRspRx rx h b => Sys2Proof.Machine.execBridgeRspRx rx h b s
  | .bridgeFlush mask => Sys2Proof.Machine.execBridgeFlush mask s
  | .prefetchExpiry w block => Sys2Proof.Machine.execPrefetchExpiry w block s
  | .bridgeErrPop agent => Sys2Proof.Machine.execBridgeErrPop agent s
  | .eventMsgSend => Sys2Proof.Machine.execEventMsgSend s
  | .eventMsgRx rx h b => Sys2Proof.Machine.execEventMsgRx rx h b s
  | .remoteEventEnqueue uid => Sys2Proof.Machine.execRemoteEventEnqueue uid s
  | .remoteEventGapTimeout uid => Sys2Proof.Machine.execRemoteEventGapTimeout uid s
  | .remoteEventPop agent => Sys2Proof.Machine.execRemoteEventPop agent s
  | .txsaSelect d m slot => Sys2Proof.Machine.execTxsaSelect d m slot s
  | .saCtrlWrite d m rx slot value => Sys2Proof.Machine.execSaCtrlWrite d m rx slot value s
  | .saKeyWrite d m rx slot salt k value => Sys2Proof.Machine.execSaKeyWrite d m rx slot salt k value s
  | .otpProgram bit => Sys2Proof.Machine.execOtpProgram bit s
  | .otpProgramDone => Sys2Proof.Machine.execOtpProgramDone s
  | .jtagChallengeRead agent => Sys2Proof.Machine.execJtagChallengeRead agent s
  | .jtagUnlock => Sys2Proof.Machine.execJtagUnlock s
  | .jtagBlockExpiry => Sys2Proof.Machine.execJtagBlockExpiry s
  | .pageUnlock page => Sys2Proof.Machine.execPageUnlock page s
  | .pageLock page value => Sys2Proof.Machine.execPageLock page value s
  | .statsBoundary d => Sys2Proof.Machine.execStatsBoundary d s
  | .statsSnapRequest d => Sys2Proof.Machine.execStatsSnapRequest d s
  | .statsEnableWrite d v => Sys2Proof.Machine.execStatsEnableWrite d v s
  | .bufBist d bank => Sys2Proof.Machine.execBufBist d bank s
  | .bistBankDrained d => Sys2Proof.Machine.execBistBankDrained d s
  | .bistDrainTimeout d => Sys2Proof.Machine.execBistDrainTimeout d s
  | .bistBankDone d pass => Sys2Proof.Machine.execBistBankDone d pass s
  | .bistGapExpiry d => Sys2Proof.Machine.execBistGapExpiry d s
  | .eyeScan d lane => Sys2Proof.Machine.execEyeScan d lane s
  | .eyeScanDone d horizontal vertical => Sys2Proof.Machine.execEyeScanDone d horizontal vertical s
  | .coilSwatch d relay => Sys2Proof.Machine.execCoilSwatch d relay s
  | .tsCal d lane => Sys2Proof.Machine.execTsCal d lane s
  | .tsCalDone d rxLat txLat => Sys2Proof.Machine.execTsCalDone d rxLat txLat s
  | .lbist d => Sys2Proof.Machine.execLbist d s
  | .lbistDone d pass => Sys2Proof.Machine.execLbistDone d pass s
  | .extLoop d port => Sys2Proof.Machine.execExtLoop d port s
  | .extLoopDone d received errors => Sys2Proof.Machine.execExtLoopDone d received errors s
  | .bootStart f => Sys2Proof.Machine.execBootStart f s
  | .imageReadDone ix => Sys2Proof.Machine.execImageReadDone ix s
  | .die1LinkWaitTimeout => Sys2Proof.Machine.execDie1LinkWaitTimeout s
  | .initWrite addr value mask => Sys2Proof.Machine.execInitWrite addr value mask s
  | .initWait us => Sys2Proof.Machine.execInitWait us s
  | .initPoll addr value mask expired => Sys2Proof.Machine.execInitPoll addr value mask expired s
  | .bootGo => Sys2Proof.Machine.execBootGo s
  | .bootRetry f => Sys2Proof.Machine.execBootRetry f s
  | .softReset page => Sys2Proof.Machine.execSoftReset page s
  | .softResetDone page => Sys2Proof.Machine.execSoftResetDone page s
  | .portEnableWrite page v => Sys2Proof.Machine.execPortEnableWrite page v s
  | .powerReqWrite p v => Sys2Proof.Machine.execPowerReqWrite p v s
  | .pgEvtClear page ones set => Sys2Proof.Machine.execPgEvtClear page ones set s
  | .clearOnRead addr => Sys2Proof.Machine.execClearOnRead addr s
  | .mdioC22Write m phy reg => Sys2Proof.Machine.execMdioC22Write m phy reg s
  | .mdioC22Read m phy reg => Sys2Proof.Machine.execMdioC22Read m phy reg s
  | .mdioC45Address m phy reg => Sys2Proof.Machine.execMdioC45Address m phy reg s
  | .mdioC45Write m phy reg => Sys2Proof.Machine.execMdioC45Write m phy reg s
  | .mdioC45Read m phy reg => Sys2Proof.Machine.execMdioC45Read m phy reg s
  | .mdioC45ReadInc m phy reg => Sys2Proof.Machine.execMdioC45ReadInc m phy reg s
  | .mdioDone m data noTa => Sys2Proof.Machine.execMdioDone m data noTa s
  | .registerWrite agent addr be value => Sys2Proof.Machine.execRegisterWrite agent addr be value s
  | .wakeInputRelease ix => Sys2Proof.Machine.execWakeInputRelease ix s
  | .hbInEdge spaced => Sys2Proof.Machine.execHbInEdge spaced s
  | .stmInEdge n => Sys2Proof.Machine.execStmInEdge n s
  | .blockLockLoss e l => Sys2Proof.Machine.execBlockLockLoss e l s
  | .pcieLinkStateChange l => Sys2Proof.Machine.execPcieLinkStateChange l s
  | .klfValid => Sys2Proof.Machine.execKlfValid s

end Sys2Proof.Machine
end

