-- ==== Sys2Proof/Machine/Step.lean ====
section
/-! DEFINITION. One step of the block: the command at the front of the queue takes effect; with an empty queue one tick of the
clocks passes (R64). -/

namespace Sys2Proof.Machine

/-- No command waits: one tick of 2 ns passes on every die that is up (R64).
(DESIGN CHOICE, log entry 2) -/
def State.idle (s : State) : State := s.advance 1

/-- One step. -/
def step (s : State) : Host.Outcome State Fault Refusal :=
  match s.pending with
  | [] => .next s.idle
  | c :: cs => exec c { s with pending := cs }

/-- The command that a word spells is put at the front of the queue; a word that spells none changes nothing.
(DESIGN CHOICE, log entry 4) -/
def State.withFetchWord (s : State) (nbits w : Nat) : State :=
  match decodeTableWord nbits w with
  | some c => { s with pending := c :: s.pending }
  | none => s

end Sys2Proof.Machine
end

