-- ==== Sys2Proof/Safety.lean ====
section
/-! DEFINITION. The terms in which claims speak: the canonical form of the stores, the components of the state and what a command leaves
unchanged, and the registers that commands of software write. -/

namespace Sys2Proof

open Sys2Proof.Machine

/-- The registers, the table windows and the fuses are in their canonical form. -/
def Machine.State.storesOk (s : State) : Prop :=
  Sparse.wf regDefault s.regs = true ∧ Sparse.wf (fun _ => (0 : Byte)) s.tbl = true ∧ Sparse.wf (fun _ => (0 : Word)) s.otp = true

/-- A step answers a next state. -/
def Machine.State.runs (s : State) : Prop := ∃ t, step s = .next t

end Sys2Proof

namespace Sys2Proof.Machine

/-- The components of the state beside the family member and the queue, which no command changes. -/
inductive Comp where
  | straps | regs | tbl | otp | lat | kp | tm | ev | se | sc | sw | rg | dk | tp | pr | cn | fw | fb | hi | live | since | stats | rgnEdge | el | out | free
  deriving DecidableEq, Repr

/-- Two states hold the same in a component. -/
def Comp.same (s t : State) : Comp → Prop
  | .straps => t.straps = s.straps
  | .regs => t.regs = s.regs
  | .tbl => t.tbl = s.tbl
  | .otp => t.otp = s.otp
  | .lat => t.lat = s.lat
  | .kp => t.kp = s.kp
  | .tm => t.tm = s.tm
  | .ev => t.ev = s.ev
  | .se => t.se = s.se
  | .sc => t.sc = s.sc
  | .sw => t.sw = s.sw
  | .rg => t.rg = s.rg
  | .dk => t.dk = s.dk
  | .tp => t.tp = s.tp
  | .pr => t.pr = s.pr
  | .cn => t.cn = s.cn
  | .fw => t.fw = s.fw
  | .fb => t.fb = s.fb
  | .hi => t.hi = s.hi
  | .live => t.live = s.live
  | .since => t.since = s.since
  | .stats => t.stats = s.stats
  | .rgnEdge => t.rgnEdge = s.rgnEdge
  | .el => t.el = s.el
  | .out => t.out = s.out
  | .free => t.free = s.free

/-- Two states differ at most in the components listed. -/
def State.sameBut (s t : State) (l : List Comp) : Prop := t.part = s.part ∧ t.pending = s.pending ∧ ∀ x, x ∉ l → Comp.same s t x

/-- The components that a command may change; it leaves every other one as it is. -/
def writes : Instr → List Comp
  | .keeperPowerUp .. => [.straps, .regs, .tbl, .lat, .kp, .tm, .ev, .se, .sc, .sw, .rg, .dk, .tp, .pr, .cn, .fw, .fb, .hi, .live, .since, .stats, .rgnEdge, .el]
  | .keeperPowerLoss .. => [.regs, .tbl, .lat, .kp, .tm, .ev, .se, .sc, .sw, .rg, .dk, .tp, .pr, .cn, .fw, .fb, .hi, .live, .since, .stats, .rgnEdge, .el]
  | .wakeInputEdge .. | .powerDownEnd .. => [.regs, .kp, .el]
  | .wakeDebounceDone .. | .ladBurstQualify .. | .minOffExpiry .. => [.regs, .kp, .tm, .ev, .sw, .pr, .live, .since, .el, .out]
  | .wakeInputBounce .. | .wakeInputRelease .. => [.regs, .kp, .ev, .el]
  | .ladEnergyChange .. => [.regs, .el]
  | .rtcAlarm .. | .tokenLineChange .. => [.regs, .kp, .ev, .sw, .pr, .live, .since, .el, .out]
  | .rtcTick .. | .regionWakeDone .. | .ppsInCapture .. | .slotCheckDone .. | .heartbeatRegained .. => [.regs, .ev]
  | .rtcSet .. | .kprReqWake .. | .kprReqMaintenance .. | .kprReqCastOn .. | .kprReqPark .. | .kprReqWithdraw ..
  | .timerDisarm .. | .holdEnd .. | .snapCapture .. | .gpioDirWrite .. | .gpioOutNextWrite .. | .forceClearFault ..
  | .twinResyncCmd .. | .twinDrill .. | .coilRequest .. | .ringEnable .. | .txTailWrite .. | .rxTailWrite ..
  | .txsaSelect .. | .saCtrlWrite .. | .saKeyWrite .. | .pageUnlock .. | .pageLock .. | .statsSnapRequest .. | .bootGo ..
  | .pgEvtClear .. => [.regs, .ev, .live, .since]
  | .modeRequestTake .. | .die1BringupDone .. | .rowBoundary .. | .bar0Request .. | .mspiRead .. | .mspiWrite ..
  | .bar2Request .. | .bridgeTimeout .. | .bridgeReqRx .. | .bridgeRspRx .. | .bridgeFlush .. | .lbistDone ..
  | .die1LinkWaitTimeout .. | .initWrite .. | .initPoll .. | .registerWrite .. => [.regs, .tbl, .lat, .kp, .tm, .ev, .se, .sc, .sw, .rg, .dk, .tp, .pr, .cn, .fw, .fb, .hi, .live, .since, .stats, .rgnEdge, .el, .out, .free]
  | .pwrEnStep .. | .rstOutRelease .. | .domainLostTimeout .. | .holdoverMuteExpiry .. | .stHalf .. | .timerFire ..
  | .timeWord .. | .twoStepTimeout .. | .holdoverExpiry .. | .ppsOutPulse .. | .ppsOutEnd .. | .preemptVerifyDone ..
  | .pfcPauseExpiry .. | .twinLaneTimeout .. | .relayPullinEnd .. | .rateTryExpiry .. | .rqModerationExpiry ..
  | .pcieConfigReady .. | .mdioDone .. => [.regs, .tm, .ev, .el, .out]
  | .pgoodReached .. => [.regs, .kp, .el, .free]
  | .pgoodTimeout .. | .pgoodLoss .. | .sysRstAssert .. | .kpsRstReqDie0 .. | .kpsRstReqDie1 .. | .pllUnlock ..
  | .refLoss .. | .bindoffEnd .. => [.regs, .tbl, .lat, .kp, .tm, .ev, .se, .sc, .sw, .rg, .dk, .tp, .pr, .cn, .fw, .fb, .hi, .live, .since, .stats, .rgnEdge, .el, .out]
  | .dieResetRelease .. => [.straps, .regs, .kp, .tm, .ev, .live, .since, .el, .out, .free]
  | .pllLock .. | .softResetDone .. => [.regs]
  | .khfStart .. | .klfValid .. => [.kp]
  | .khfStop .. | .relayStaggerExpiry .. | .bypassFault .. | .coilTestStart .. | .ladBurstEnd .. | .i2cPollRead ..
  | .i2cDone .. | .wakeNeedExpiry .. | .rewakeBurst .. => [.regs, .kp, .tm, .ev, .el, .out]
  | .regionSleepEnter .. | .regionUnknownWake .. => [.regs, .live, .since]
  | .regionIdleHoldExpiry .. | .regionWakeStart .. => [.regs, .tm, .ev, .live, .since, .el, .out]
  | .tensionCommit .. | .offsetStep .. | .timeSet .. | .domainLostSet .. | .rowClockSelect .. | .timerArm ..
  | .timerRetarget .. | .slavePortWrite .. => [.regs, .tm, .ev, .live, .since]
  | .domainGmWrite .. => [.regs, .tm, .ev, .live, .since, .el]
  | .pairLowRead .. | .bridgeErrPop .. | .remoteEventPop .. | .clearOnRead .. => [.regs, .lat, .ev, .dk, .fw, .fb, .hi, .live, .since, .el, .out, .free]
  | .syncRx .. | .followUpRx .. => [.regs, .tm, .ev, .cn, .fw, .live, .rgnEdge, .el, .out, .free]
  | .syncOriginate .. | .coldstartRepeat .. | .needleAnnounce .. | .helloSend .. | .keepaliveSend .. => [.regs, .tm, .ev, .fw, .live, .rgnEdge, .el, .out, .free]
  | .rowStartSend .. | .claimSend .. => [.regs, .tm, .ev, .sc, .tp, .fw, .live, .rgnEdge, .el, .out, .free]
  | .rowStartRx .. => [.regs, .tbl, .kp, .tm, .ev, .sc, .sw, .rg, .dk, .tp, .pr, .cn, .fw, .fb, .hi, .live, .since, .rgnEdge, .el, .out, .free]
  | .rowStartLoss .. | .followTimeout .. | .resyncTimeout .. => [.regs, .tbl, .kp, .tm, .ev, .sc, .sw, .dk, .pr, .cn, .fw, .live, .since, .el, .out]
  | .stitchDecision .. | .skeinSend .. => [.regs, .tm, .ev, .sc, .dk, .pr, .fw, .live, .rgnEdge, .el, .out, .free]
  | .knit .. => [.regs, .tm, .ev, .sc, .dk, .el, .out]
  | .mgmtStitchSend .. | .bridgeReqSend .. => [.regs, .tm, .ev, .sc, .fw, .hi, .live, .rgnEdge, .el, .out, .free]
  | .guardianCutoff .. => [.regs, .ev, .sc, .live, .out]
  | .skeinMiss .. => [.regs, .tbl, .tm, .ev, .sc, .dk, .live, .el, .out]
  | .skeinRx .. => [.regs, .tbl, .kp, .ev, .sc, .dk, .fw, .live, .rgnEdge, .el, .out, .free]
  | .nullRx .. => [.regs, .tbl, .ev, .sc, .dk, .fw, .live, .rgnEdge, .out, .free]
  | .outputLatch .. => [.regs, .tm, .ev, .sc, .dk, .pr, .fw, .fb, .hi, .live, .rgnEdge, .el, .out, .free]
  | .inputSample .. => [.regs, .tbl, .tm, .ev, .sc, .dk, .pr, .fb, .hi, .live, .el, .out]
  | .stmPulseEnd .. => [.regs, .tm, .ev, .sc, .el, .out]
  | .slotCheck .. | .swapRequest .. => [.regs, .ev, .sc, .live, .since]
  | .scheduleTableWrite .. => [.regs, .tbl, .ev, .pr, .live, .since]
  | .listenTimeout .. | .needleYieldSend .. => [.regs, .tm, .ev, .sc, .fw, .live, .rgnEdge, .el, .out, .free]
  | .coldstartRx .. => [.regs, .ev, .sc, .fw, .live, .rgnEdge, .out, .free]
  | .needleStart .. => [.regs, .tbl, .tm, .ev, .sc, .tp, .fb, .hi, .el, .out]
  | .verifyTimeout .. => [.regs, .sc, .cn, .fw, .el]
  | .needleYieldEnd .. => [.regs, .sc]
  | .consistFrameRx .. | .beFrameRx .. => [.regs, .tbl, .ev, .pr, .cn, .fw, .live, .rgnEdge, .out, .free]
  | .fenceHoldoffExpiry .. => [.regs, .tm, .ev, .cn, .el, .out]
  | .grdUnfence .. | .grdFence .. | .grdClearHistory .. => [.regs, .ev, .cn, .live, .since]
  | .pollSend .. => [.regs, .tm, .ev, .sc, .pr, .cn, .fw, .live, .rgnEdge, .el, .out, .free]
  | .replyCommit .. => [.regs, .tbl, .tm, .ev, .dk, .pr, .cn, .live, .el, .out]
  | .portLinkUp .. => [.regs, .ev, .tp, .since, .el]
  | .portLinkDown .. | .turnNoticeRx .. | .forceSplit .. | .powerReqWrite .. => [.regs, .tbl, .kp, .ev, .sc, .sw, .rg, .tp, .pr, .fw, .live, .since, .rgnEdge, .el, .out, .free]
  | .mvbEnable .. | .canEnable .. => [.regs, .ev, .fb, .hi, .live, .since, .el]
  | .mvbMasterFrameSend .. => [.regs, .tm, .ev, .fb, .el, .out]
  | .mvbSlaveFrameSend .. => [.regs, .ev, .fb, .hi, .el, .out]
  | .mvbFrameRx .. => [.regs, .ev, .fb, .hi]
  | .mvbReplyTimeout .. | .mvbNoMaster .. | .canFieldTrigger .. | .canBusOn .. => [.regs, .tm, .ev, .fb, .hi, .el, .out]
  | .mvbBasicPeriodEnd .. => [.regs, .tbl, .tm, .ev, .dk, .pr, .fb, .hi, .live, .el, .out]
  | .canFrameTx .. => [.regs, .ev, .fb, .hi, .out]
  | .canFrameRx .. => [.regs, .tbl, .ev, .dk, .pr, .fb, .hi, .live]
  | .canErrorStateChange .. => [.regs, .ev, .fb, .hi, .el]
  | .fldMsgPop .. => [.regs, .fb, .out]
  | .helloRx .. => [.regs, .tbl, .kp, .ev, .sc, .sw, .rg, .tp, .pr, .fw, .live, .since, .rgnEdge, .el, .out]
  | .helloTimeout .. | .klkRetrain .. | .klkLinkDown .. | .lbist .. => [.regs, .tbl, .kp, .tm, .ev, .sc, .sw, .rg, .tp, .pr, .live, .since, .el, .out]
  | .cplDebounceDone .. | .couplePendTimeout .. | .stableTimeout .. => [.regs, .tm, .ev, .tp, .el, .out]
  | .topologySend .. => [.regs, .tbl, .tm, .ev, .tp, .fw, .live, .rgnEdge, .el, .out, .free]
  | .topologyRx .. => [.regs, .tbl, .ev, .sc, .tp, .fw, .live, .rgnEdge, .el]
  | .topologyRelay .. | .claimRx .. => [.regs, .ev, .tp, .fw, .live, .rgnEdge, .out, .free]
  | .shadowWriteDone .. => [.regs, .ev, .tp]
  | .commitTimeout .. => [.regs, .tbl, .ev, .sc, .tp, .el]
  | .inaRestart .. => [.regs, .tbl, .ev, .sc, .tp, .live, .since, .el]
  | .localCommitTimer .. => [.regs, .tbl, .kp, .tm, .ev, .sc, .sw, .rg, .dk, .tp, .pr, .fb, .hi, .live, .since, .el, .out]
  | .trainBlockingReq .. | .localBlockingReq .. => [.regs, .ev, .tp, .live, .since]
  | .bankedTableWrite .. => [.regs, .tbl, .ev, .pr, .fw, .live, .since]
  | .dirAgeExpiry .. => [.regs, .tbl, .tm, .ev, .pr, .el, .out]
  | .flushLearned .. => [.regs, .tbl, .ev, .live, .since]
  | .hostCommit .. => [.regs, .tbl, .ev, .dk, .pr, .live, .since]
  | .bufferFlip .. | .cmpAgeTick .. => [.regs, .tbl, .tm, .ev, .dk, .live, .el, .out]
  | .frerTimeout .. => [.regs, .tbl, .ev, .dk]
  | .trdpRx .. => [.regs, .tbl, .ev, .dk, .pr, .live]
  | .trdpCycleSend .. => [.regs, .tm, .ev, .dk, .pr, .fw, .live, .rgnEdge, .el, .out, .free]
  | .ntfPop .. => [.regs, .dk, .out]
  | .egressTransmit .. | .txDescriptorDone .. => [.regs, .ev, .fw, .live, .rgnEdge, .out, .free]
  | .gateChange .. => [.regs, .tm, .ev, .fw, .live, .el, .out]
  | .pfcRx .. => [.regs, .fw, .live, .rgnEdge, .el]
  | .reserveWrite .. => [.regs, .ev, .cn, .fw, .live, .since]
  | .watermarkRead .. => [.regs, .ev, .fw, .live, .since, .out, .free]
  | .klkLinkUp .. => [.regs, .tbl, .kp, .tm, .ev, .sc, .sw, .rg, .dk, .tp, .pr, .cn, .fw, .live, .since, .stats, .el, .out, .free]
  | .lineFailure .. => [.regs, .tbl, .kp, .tm, .ev, .sc, .sw, .rg, .tp, .pr, .fw, .live, .since, .rgnEdge, .el, .out, .free]
  | .lineLockRegained .. => [.regs, .kp, .ev, .rg, .el, .out]
  | .turnNoticeSend .. => [.regs, .tm, .ev, .rg, .fw, .live, .rgnEdge, .el, .out, .free]
  | .heartbeatLost .. | .tokenFault .. | .tokenClaimWaitEnd .. | .tokenAcquired .. | .twinHelloSend .. | .deltaSend ..
  | .resyncDataSend .. | .resyncEndSend .. | .drillTimeout .. => [.regs, .tm, .ev, .pr, .el, .out]
  | .hbOutStall .. | .drillAckRx .. => [.regs, .ev, .pr]
  | .twinObserveEnd .. => [.regs, .tm, .ev, .pr, .el, .out, .free]
  | .tokenClaimStart .. => [.regs, .pr, .free]
  | .twinHelloRx .. => [.regs, .ev, .pr, .el]
  | .deltaRx .. | .drillRx .. => [.regs, .tbl, .ev, .dk, .pr, .cn, .live, .out]
  | .resyncReqSend .. | .resyncReqRx .. => [.regs, .ev, .pr, .out]
  | .resyncFrameRx .. => [.regs, .tbl, .ev, .dk, .pr]
  | .forceTake .. => [.regs, .ev, .pr, .live, .since, .free]
  | .insertOkWrite .. | .bypassClearFault .. | .ladBurstSend .. => [.regs, .kp, .ev, .live, .since, .el, .out]
  | .insertLineStop .. => [.regs, .kp, .ev, .el, .out]
  | .relayPullinStart .. => [.regs, .kp, .el, .out]
  | .coilTestDone .. => [.regs, .kp, .tm, .ev, .sw, .el, .out, .free]
  | .i2cCommand .. | .mdioC22Write .. | .mdioC22Read .. | .mdioC45Address .. | .mdioC45Write .. | .mdioC45Read ..
  | .mdioC45ReadInc .. => [.regs, .ev, .live, .since, .el, .out]
  | .keepaliveRx .. => [.regs, .kp, .ev, .fw, .live, .rgnEdge, .el, .out, .free]
  | .needHostWrite .. => [.regs, .kp, .ev, .live, .since, .el]
  | .keepaliveTimeout .. => [.regs, .kp, .tm, .ev, .fw, .live, .rgnEdge, .el, .out, .free]
  | .eventSourceEdge .. => [.regs, .ev, .hi, .el, .out, .free]
  | .evcSetPend .. | .evcClrPend .. | .evcEnable .. | .evcDisable .. | .evcForceDone .. | .evcTgtEnWrite .. | .evcDone ..
  | .rqConsWrite .. | .rqEnable .. => [.regs, .ev, .live, .since, .el, .out, .free]
  | .evcBitmapWrite .. => [.regs, .ev, .hi, .live, .since, .el, .out, .free]
  | .evcClaim .. | .pcieLinkL0 .. | .pcieLinkStateChange .. => [.regs, .ev, .el, .out, .free]
  | .msixVectorUnmask .. | .dmaError .. => [.regs, .ev, .out]
  | .perstAssert .. => [.regs, .lat, .ev, .hi, .el, .out, .free]
  | .perstDeassert .. => [.regs, .ev, .hi, .el]
  | .rxFrameToHost .. => [.regs, .ev, .fw, .out]
  | .bridgeRetransmit .. | .prefetchExpiry .. | .remoteEventEnqueue .. | .remoteEventGapTimeout .. => [.regs, .tm, .ev, .hi, .el, .out]
  | .eventMsgSend .. | .eventMsgRx .. => [.regs, .ev, .fw, .hi, .live, .rgnEdge, .out, .free]
  | .otpProgram .. => [.regs, .ev, .se, .live, .since, .el]
  | .otpProgramDone .. => [.regs, .otp, .tm, .ev, .se, .el, .out]
  | .jtagChallengeRead .. => [.regs, .ev, .live, .since, .out, .free]
  | .jtagUnlock .. => [.regs, .ev, .se, .live, .since, .el, .out]
  | .jtagBlockExpiry .. => [.regs, .tm, .ev, .se, .el, .out]
  | .statsBoundary .. => [.regs, .tbl, .tm, .ev, .live, .since, .stats, .el, .out, .free]
  | .statsEnableWrite .. => [.regs, .ev, .live, .since, .stats]
  | .bufBist .. => [.regs, .ev, .sw, .live, .since, .el]
  | .bistBankDrained .. | .bistBankDone .. => [.regs, .ev, .sw, .el]
  | .bistDrainTimeout .. | .bistGapExpiry .. => [.regs, .tm, .ev, .sw, .el, .out]
  | .eyeScan .. | .coilSwatch .. | .tsCal .. => [.regs, .ev, .sw, .live, .since]
  | .eyeScanDone .. | .tsCalDone .. => [.regs, .ev, .sw]
  | .extLoop .. => [.regs, .ev, .sw, .live, .since, .out]
  | .extLoopDone .. => [.regs, .ev, .sw, .live]
  | .bootStart .. => [.regs, .kp, .ev]
  | .imageReadDone .. | .initWait .. => [.regs, .tbl, .kp, .tm, .ev, .sc, .sw, .dk, .tp, .pr, .cn, .fw, .live, .since, .el, .out, .free]
  | .bootRetry .. => [.regs, .kp, .ev, .live, .since]
  | .softReset .. => [.regs, .tbl, .lat, .kp, .tm, .ev, .sc, .sw, .rg, .dk, .tp, .pr, .cn, .fw, .fb, .hi, .live, .since, .rgnEdge, .el, .out, .free]
  | .portEnableWrite .. => [.regs, .tbl, .kp, .ev, .sc, .sw, .rg, .tp, .pr, .fw, .fb, .hi, .live, .since, .rgnEdge, .el, .out, .free]
  | .hbInEdge .. => [.pr, .el]
  | .stmInEdge .. => [.sc]
  | .blockLockLoss .. => [.regs, .ev, .rg, .fw, .live, .rgnEdge, .el, .out, .free]

/-! ## Writes of software -/

/-- A write to an address is taken: its die can be reached and no closed lock lies on it (R400, R435). -/
def State.takes (s : State) (a : Nat) : Bool := s.reach a && !s.locked a

/-- A frame of the twin pair with header `h` is taken on its lane, and the state is then `u`: the pair works, the lane is the part's and
its die is up, addresses, EtherType and version are right, and the frame passes MACsec (R325, R425). -/
def State.twinPasses (s : State) (h : TwinHdr) (u : State) : Prop :=
  let v := s.verify (twinSa s.part h.lane.val).1 (twinSa s.part h.lane.val).2 h.sec false
  (s.twinOn && s.lanes.contains h.lane.val && s.dieUp h.lane.val && s.efilaner h && v.2) = true ∧ u = v.1.laneSeq h

/-- The register or table address that a command of software writes in state `s`; none for a command that is no such write, or whose
address is not one of its kind. OTP_PROGRAM, whose refusal has an effect of its own (R431), and the accesses of agents, which carry their
address themselves, are apart. -/
def writeAddr (s : State) : Instr → Option Nat
  | .rtcSet _ => some (krt KRT_SET_HI)
  | .kprReqWake => some (kpr KPR_MODE_REQ)
  | .kprReqMaintenance => some (kpr KPR_MODE_REQ)
  | .kprReqCastOn => some (kpr KPR_MODE_REQ)
  | .kprReqPark => some (kpr KPR_MODE_REQ)
  | .kprReqWithdraw => some (kpr KPR_MODE_REQ)
  | .kpsRstReqDie0 => some (kps KPS_RST_REQ)
  | .kpsRstReqDie1 => some (kps KPS_RST_REQ)
  | .tensionCommit d _ => some (tmu 0 (TMU_TD_TENS_HI d.val))
  | .offsetStep d _ => some (tmu 0 (TMU_TD_STEP d.val))
  | .timeSet d _ => some (tmu 0 (TMU_TD_SET_SEC_HI d.val))
  | .domainLostSet d _ => some (tmu 0 (TMU_TD_CTRL d.val))
  | .domainGmWrite d _ => some (tmu 0 (TMU_TD_CFG d.val))
  | .rowClockSelect _ => some (tmu 0 TMU_CTRL)
  | .timerArm d n => some (tmu (dieNum d) (TMU_TMR_CTRL n.val))
  | .timerDisarm d n => some (tmu (dieNum d) (TMU_TMR_CTRL n.val))
  | .timerRetarget d n _ => some (tmu (dieNum d) (TMU_TMR_TGT n.val))
  | .slavePortWrite d _ => some (tmu 0 (TMU_TD_SLAVE d.val))
  | .holdEnd d => some (tmu 0 (TMU_TD_CTRL d.val))
  | .snapCapture => some (tmu 0 TMU_SNAP_CTRL)
  | .gpioDirWrite _ => some (sch 0 SCH_GPIO_DIR)
  | .gpioOutNextWrite _ => some (sch 0 SCH_GPIO_OUT_NEXT)
  | .slotCheck _ => some (sch 0 SCH_CHK)
  | .scheduleTableWrite a _ => if (schWinOf a).isSome ∨ schTableReg a then some (a) else none
  | .swapRequest _ => some (sch 0 SCH_SWAP)
  | .grdUnfence p => some (prt p.val PRT_GRD_CTRL)
  | .grdFence p => some (prt p.val PRT_GRD_CTRL)
  | .grdClearHistory p => some (prt p.val PRT_GRD_CTRL)
  | .mvbEnable _ => some (fldp FLD_CTRL)
  | .canEnable _ => some (fldp FLD_CTRL)
  | .inaRestart => some (ina INA_CTRL)
  | .trainBlockingReq => some (sch 0 SCH_BLK_CTRL)
  | .localBlockingReq => some (sch 0 SCH_BLK_CTRL)
  | .bankedTableWrite a _ => if 0x10000000 ≤ a ∧ a < 0x20000000 then some (a) else none
  | .flushLearned => some (fwd 0 FWD_DIR_FLUSH)
  | .hostCommit d _ => some (dsk (dieNum d) DSK_COMMIT)
  | .reserveWrite a _ => if isReserve a then some (a) else none
  | .klkRetrain d => some (klk (dieNum d) KLK_CTRL)
  | .forceClearFault => some (rng 0 RNG_FORCE)
  | .forceSplit _ _ => some (rng 0 RNG_FORCE)
  | .twinResyncCmd => some (twn 0 TWN_CTRL)
  | .twinDrill => some (twn 0 TWN_CTRL)
  | .forceTake => some (twn 0 TWN_CTRL)
  | .insertOkWrite d _ => some (rng (dieNum d) RNG_INSERT)
  | .bypassClearFault => some (kby KBY_CTRL)
  | .coilRequest _ => some (kby KBY_CTRL)
  | .ladBurstSend _ => some (kby KBY_BURST)
  | .i2cCommand m _ => some (s.i2c m.val RNG_I2C_CMD)
  | .needHostWrite _ => some (kwk KWK_NEED)
  | .evcSetPend _ => some (evcc 0 EVC_SRC_CMD)
  | .evcClrPend _ => some (evcc 0 EVC_SRC_CMD)
  | .evcEnable _ => some (evcc 0 EVC_SRC_CMD)
  | .evcDisable _ => some (evcc 0 EVC_SRC_CMD)
  | .evcForceDone _ => some (evcc 0 EVC_SRC_CMD)
  | .evcBitmapWrite d e w _ _ => some (evcm (dieNum d) ((if e then EVC_ENA else EVC_PEND) w.val))
  | .evcTgtEnWrite _ => some (evcc 0 EVC_TGT_EN)
  | .evcDone t _ => some (evcc 0 (EVC_DONE t.val))
  | .rqConsWrite t _ => some (evcc 0 (EVC_RQ_CONS t.val))
  | .rqEnable t _ => some (evcc 0 (EVC_RQ_CFG t.val))
  | .ringEnable r n => some (ringReg r n.val rgCfg)
  | .txTailWrite n _ => some (ringReg false n.val rgTail)
  | .rxTailWrite n _ => some (ringReg true n.val rgTail)
  | .txsaSelect d m _ => if hasSa s.part (dieNum d) m.val then some (sa (dieNum d) m.val SEC_PORT_TXSA) else none
  | .saCtrlWrite d m r k _ => if hasSa s.part (dieNum d) m.val then some (slotReg (dieNum d) m.val r k.val 0) else none
  | .saKeyWrite d m r k salt i _ => if hasSa s.part (dieNum d) m.val && (!salt || i.val < 3) then some (slotReg (dieNum d) m.val r k.val ((if salt then 0x40 else 0x20) + 4 * i.val)) else none
  | .jtagUnlock => some (sec 0 SEC_JTAG_CTRL)
  | .pageUnlock page => some (pageBase page + PG_LOCK)
  | .pageLock page _ => some (pageBase page + PG_LOCK)
  | .statsSnapRequest d => some (sta (dieNum d) STA_CTRL)
  | .statsEnableWrite d _ => some (sta (dieNum d) STA_CFG)
  | .bufBist d _ => some (swt (dieNum d) SWT_REQ)
  | .eyeScan d _ => some (swt (dieNum d) SWT_REQ)
  | .coilSwatch d _ => some (swt (dieNum d) SWT_REQ)
  | .tsCal d _ => some (swt (dieNum d) SWT_REQ)
  | .lbist d => some (swt (dieNum d) SWT_REQ)
  | .extLoop d _ => some (swt (dieNum d) SWT_REQ)
  | .bootGo => some (die 0 DIE_BOOT_CTRL)
  | .bootRetry _ => some (die 0 DIE_BOOT_CTRL)
  | .softReset page => if (s.pageOf page).isSome then some (pageBase page + PG_CTRL) else none
  | .portEnableWrite page _ => if (s.pageOf page).isSome then some (pageBase page + PG_CTRL) else none
  | .powerReqWrite p _ => if p.val < s.part.ports then some (prt p.val PG_CTRL) else none
  | .pgEvtClear page _ _ => if (s.pageOf page).isSome then some (pageBase page + PG_EVT) else none
  | .mdioC22Write m _ _ => some (s.mdio m.val DIE_MDIO_CMD)
  | .mdioC22Read m _ _ => some (s.mdio m.val DIE_MDIO_CMD)
  | .mdioC45Address m _ _ => some (s.mdio m.val DIE_MDIO_CMD)
  | .mdioC45Write m _ _ => some (s.mdio m.val DIE_MDIO_CMD)
  | .mdioC45Read m _ _ => some (s.mdio m.val DIE_MDIO_CMD)
  | .mdioC45ReadInc m _ _ => some (s.mdio m.val DIE_MDIO_CMD)
  | .keeperPowerUp .. | .keeperPowerLoss .. | .wakeInputEdge .. | .wakeDebounceDone .. | .wakeInputBounce ..
  | .ladEnergyChange .. | .ladBurstQualify .. | .rtcAlarm .. | .rtcTick .. | .modeRequestTake .. | .pwrEnStep ..
  | .pgoodReached .. | .pgoodTimeout .. | .pgoodLoss .. | .dieResetRelease .. | .powerDownEnd .. | .sysRstAssert ..
  | .pllUnlock .. | .refLoss .. | .pllLock .. | .die1BringupDone .. | .rstOutRelease .. | .khfStart .. | .khfStop ..
  | .regionSleepEnter .. | .regionIdleHoldExpiry .. | .regionWakeStart .. | .regionUnknownWake .. | .regionWakeDone ..
  | .domainLostTimeout .. | .holdoverMuteExpiry .. | .stHalf .. | .pairLowRead .. | .timerFire .. | .timeWord ..
  | .syncRx .. | .followUpRx .. | .twoStepTimeout .. | .syncOriginate .. | .holdoverExpiry .. | .ppsOutPulse ..
  | .ppsOutEnd .. | .ppsInCapture .. | .rowBoundary .. | .rowStartSend .. | .rowStartRx .. | .rowStartLoss ..
  | .stitchDecision .. | .knit .. | .skeinSend .. | .mgmtStitchSend .. | .guardianCutoff .. | .skeinMiss .. | .skeinRx ..
  | .nullRx .. | .outputLatch .. | .inputSample .. | .stmPulseEnd .. | .slotCheckDone .. | .listenTimeout ..
  | .coldstartRx .. | .coldstartRepeat .. | .needleStart .. | .followTimeout .. | .verifyTimeout .. | .resyncTimeout ..
  | .needleAnnounce .. | .needleYieldSend .. | .needleYieldEnd .. | .consistFrameRx .. | .fenceHoldoffExpiry ..
  | .pollSend .. | .replyCommit .. | .portLinkUp .. | .portLinkDown .. | .mvbMasterFrameSend .. | .mvbSlaveFrameSend ..
  | .mvbFrameRx .. | .mvbReplyTimeout .. | .mvbNoMaster .. | .mvbBasicPeriodEnd .. | .canFieldTrigger .. | .canFrameTx ..
  | .canFrameRx .. | .canErrorStateChange .. | .canBusOn .. | .fldMsgPop .. | .helloSend .. | .helloRx .. | .helloTimeout ..
  | .cplDebounceDone .. | .couplePendTimeout .. | .topologySend .. | .topologyRx .. | .topologyRelay .. | .stableTimeout ..
  | .shadowWriteDone .. | .commitTimeout .. | .localCommitTimer .. | .claimSend .. | .claimRx .. | .dirAgeExpiry ..
  | .bufferFlip .. | .cmpAgeTick .. | .frerTimeout .. | .trdpRx .. | .trdpCycleSend .. | .ntfPop .. | .beFrameRx ..
  | .egressTransmit .. | .gateChange .. | .preemptVerifyDone .. | .pfcRx .. | .pfcPauseExpiry .. | .watermarkRead ..
  | .klkLinkUp .. | .klkLinkDown .. | .lineFailure .. | .lineLockRegained .. | .turnNoticeSend .. | .turnNoticeRx ..
  | .heartbeatLost .. | .heartbeatRegained .. | .hbOutStall .. | .tokenLineChange .. | .tokenFault .. | .twinObserveEnd ..
  | .tokenClaimStart .. | .tokenClaimWaitEnd .. | .tokenAcquired .. | .twinHelloSend .. | .twinHelloRx ..
  | .twinLaneTimeout .. | .deltaSend .. | .deltaRx .. | .resyncReqSend .. | .resyncReqRx .. | .resyncDataSend ..
  | .resyncEndSend .. | .resyncFrameRx .. | .drillRx .. | .drillAckRx .. | .drillTimeout .. | .insertLineStop ..
  | .relayPullinStart .. | .relayStaggerExpiry .. | .relayPullinEnd .. | .bypassFault .. | .coilTestStart ..
  | .coilTestDone .. | .ladBurstEnd .. | .rateTryExpiry .. | .i2cPollRead .. | .i2cDone .. | .keepaliveSend ..
  | .keepaliveRx .. | .wakeNeedExpiry .. | .keepaliveTimeout .. | .bindoffEnd .. | .rewakeBurst .. | .minOffExpiry ..
  | .eventSourceEdge .. | .evcClaim .. | .rqModerationExpiry .. | .pcieLinkL0 .. | .msixVectorUnmask .. | .perstAssert ..
  | .perstDeassert .. | .pcieConfigReady .. | .bar0Request .. | .txDescriptorDone .. | .rxFrameToHost .. | .dmaError ..
  | .mspiRead .. | .mspiWrite .. | .bar2Request .. | .bridgeReqSend .. | .bridgeRetransmit .. | .bridgeTimeout ..
  | .bridgeReqRx .. | .bridgeRspRx .. | .bridgeFlush .. | .prefetchExpiry .. | .bridgeErrPop .. | .eventMsgSend ..
  | .eventMsgRx .. | .remoteEventEnqueue .. | .remoteEventGapTimeout .. | .remoteEventPop .. | .otpProgram ..
  | .otpProgramDone .. | .jtagChallengeRead .. | .jtagBlockExpiry .. | .statsBoundary .. | .bistBankDrained ..
  | .bistDrainTimeout .. | .bistBankDone .. | .bistGapExpiry .. | .eyeScanDone .. | .tsCalDone .. | .lbistDone ..
  | .extLoopDone .. | .bootStart .. | .imageReadDone .. | .die1LinkWaitTimeout .. | .initWrite .. | .initWait ..
  | .initPoll .. | .softResetDone .. | .clearOnRead .. | .mdioDone .. | .registerWrite .. | .wakeInputRelease ..
  | .hbInEdge .. | .stmInEdge .. | .blockLockLoss .. | .pcieLinkStateChange .. | .klfValid .. => none

end Sys2Proof.Machine
end

