-- ==== Sys2Proof/Certificates/Slice0/Obligations.lean ====
section
/-! DEFINITION. The statements for the provers: what the machine as a whole and every family of commands does, from the numbered rules of
the spec. -/

open Sys2Proof Sys2Proof.Machine

/-- For every command c and every state s, a step of s with c at the front of its queue is exec of c on s with the rest of the
queue: the queue is taken first in, first out, one command a step. (95_what_each_step_holds.md) -/
def Obligations.StepRunsTheFrontCommand : Prop :=
  ∀ (c : Instr) (rest : List Instr) (s : State),
    step { s with pending := c :: rest } = exec c { s with pending := rest }

/-- With no command waiting a step is the passage of one 2 ns tick, which the model chose in place of idling (assumption log entry
2): the count of elapsed time (the model's own, log entry 70) grows by 2 ns on each such step, the queue stays empty, and while
die 0 is not up nothing else changes. While it is up and no software change is due, the full view of each domain with its
fraction advances by the domain's tension (short of the end of the 48-bit seconds), and its ST follows. (R64, R65, 03_time.md,
log entry 2, log entry 70) -/
def Obligations.EmptyQueueStepIsOneTick : Prop :=
  (∀ s : State, s.pending = [] → step s = .next (s.advance 1)) ∧
  (∀ s : State, s.pending = [] → s.dieUp 0 = false → step s = .next { s with el := { s.el with clk := s.el.clk + 2 } }) ∧
  (∀ s t : State, s.pending = [] → step s = .next t → t.pending = [] ∧ t.now = s.now + 2) ∧
  (∀ (s t : State) (d : Fin 2), s.pending = [] → s.dieUp 0 = true → s.tm.anyDue = false → step s = .next t →
    s.viewFrac 0 d.val + s.tens d.val < 2 ^ 48 * 1000000000 * 2 ^ 32 →
    t.viewFrac 0 d.val = s.viewFrac 0 d.val + s.tens d.val ∧ t.rd (tmu 0 (TMU_TD_ST d.val)) = wordOf (t.view 0 d.val))

/-- After power-on the node is in PARKED with CAUSE POR; every register of the map reads its reset value, no table byte is written
(log entry 1 chose 0 for what they then read), every fuse is 0, nothing has left the device and no command waits; the tension of
both time domains is 2.000 ns and row clock 0. (02_modes_and_power.md, 21_register_map.md, log entry 1) -/
def Obligations.ResetHoldsTheSpecValues : Prop :=
  State.reset.mode = .parked ∧
  State.reset.rdF (kpr KPR_MODE) 16 8 = Cause.por.code ∧
  (∀ a, State.reset.rd a = regDefault a) ∧
  (∀ a, State.reset.tb a = 0) ∧
  (∀ i, State.reset.otpW i = 0) ∧
  State.reset.out = [] ∧ State.reset.pending = [] ∧
  State.reset.tens 0 = 0x0200000000 ∧ State.reset.tens 1 = 0x0200000000 ∧
  State.reset.st 0 = 0

/-- The register store, the table window store and the fuse store of the reset state are in their canonical form.
(21_register_map.md) -/
def Obligations.ResetStoresAreCanonical : Prop :=
  State.reset.storesOk

/-- From every state whose register, table window and fuse stores are in canonical form (addresses strictly rising, no entry equal
to what an unlisted address reads as), every step, whatever command is at the front or with none, answers a state in which they
are again. (21_register_map.md, 18_security.md) -/
def Obligations.EveryStepKeepsStoresCanonical : Prop :=
  ∀ s t : State, s.storesOk → step s = .next t → t.storesOk

/-- For every step and every one of the fuse words, a bit that reads 1 before the step reads 1 after it: no command, reset, power
loss or tick changes a fuse from 1 to 0. (R430, 18_security.md) -/
def Obligations.FuseBitsOnlyRise : Prop :=
  ∀ (s t : State) (i j : Nat), step s = .next t → (s.otpW i).getLsbD j = true → (t.otpW i).getLsbD j = true

/-- Every command but the end of an OTP programming leaves every fuse word as it is, through every reset and power loss;
OTP_PROGRAM_DONE changes at most the one bit that was being programmed, to 1. (18_security.md) -/
def Obligations.OnlyProgrammingChangesFuses : Prop :=
  (∀ (c : Instr) (s t : State), c ≠ .otpProgramDone → exec c s = .next t → t.otp = s.otp) ∧
  (∀ (s : State) (b : Nat), s.se.otpBusy = some b → ∃ t, exec .otpProgramDone s = .next t ∧
    ∀ i, t.otpW i = if i = b / 32 then setBit (s.otpW i) (b % 32) true else s.otpW i)

/-- No command faults or is refused in any state: exec answers a next state, with the queue and the family member unchanged. What
the next state holds is said by the statements of each family. (95_what_each_step_holds.md) -/
def Obligations.EveryCommandAnswersANextState : Prop :=
  ∀ (c : Instr) (s : State), ∃ t, exec c s = .next t ∧ t.pending = s.pending ∧ t.part = s.part

/-- For each of the 306 commands, the parts of the state that are not listed for it in `writes` are unchanged whenever it answers a
next state: the registers, the table windows, the fuses, the read latches, and the hidden state of each block (keeper, time
unit, event controller, security, scheduler, statistics and the others). (95_what_each_step_holds.md) -/
def Obligations.CommandsChangeOnlyListedComponents : Prop :=
  ∀ (c : Instr) (s t : State), exec c s = .next t → s.sameBut t (writes c)

/-- For every command of software that writes a register or a table entry whose address lies under a closed lock while its die can
be reached: the access wakes what any access to its address wakes (log entry 73), and nothing is written but the report, namely
SEC_CNT_LOCKED counts, SEC_LOCK_VIOL holds the device address, and PG_EVT.LOCK_VIOL of die 0's SEC page is set. Beyond the wake,
every other register, every table byte and the hidden state of every block but the event edges are unchanged. An address of no
region's page and of no shared block wakes nothing. (R25, R55, R433, R435, 18_security.md, log entry 73) -/
def Obligations.LockedWritesAreDiscarded : Prop :=
  (∀ (c : Instr) (s : State) (a : Nat), writeAddr s c = some a → s.reach a = true → s.locked a = true →
    exec c s = .next ((s.wakeFor a).lockViol a)) ∧
  (∀ (s : State) (a : Nat), (s.lockViol a).rd (sec 0 SEC_LOCK_VIOL) = wordOf a ∧ (s.lockViol a).rdB (sec 0 PG_EVT) 0 = true ∧
    (s.lockViol a).rd (sec 0 SEC_CNT_LOCKED) = (if s.rd (sec 0 SEC_CNT_LOCKED) = 0xFFFFFFFF then 0xFFFFFFFF else s.rd (sec 0 SEC_CNT_LOCKED) + 1) ∧
    (∀ b, b ∉ [sec 0 SEC_LOCK_VIOL, sec 0 SEC_CNT_LOCKED, sec 0 PG_EVT, sec 0 PG_SEQ] → (s.lockViol a).rd b = s.rd b) ∧
    s.sameBut (s.lockViol a) [.regs, .ev]) ∧
  (∀ (s : State) (a : Nat), pageRegion a = none → sharedAddr a = false → s.wakeFor a = s)

/-- For every command of software that writes a register or a table entry of a die that cannot be reached: for die 1 of a two-die
part while die 0 runs, the write is discarded, HDM_CNT_XDIE counts it and PG_EVT.XDIE_DROP of the HDM page is set; otherwise it
has no effect at all. (R400, 17_host_interface_and_bridge.md) -/
def Obligations.UnreachedWritesAreDropped : Prop :=
  (∀ (c : Instr) (s : State) (a : Nat), writeAddr s c = some a → s.reach a = false →
    exec c s = .next (if dieOf a = 1 ∧ s.dieUp 0 = true ∧ s.part.twoDies = true then s.xdieDrop else s)) ∧
  (∀ s : State, s.xdieDrop.rdB (hdm PG_EVT) 3 = true ∧
    s.xdieDrop.rd (hdm HDM_CNT_XDIE) = (if s.rd (hdm HDM_CNT_XDIE) = 0xFFFFFFFF then 0xFFFFFFFF else s.rd (hdm HDM_CNT_XDIE) + 1) ∧
    s.sameBut s.xdieDrop [.regs, .ev])

/-- An access to a page of a region in DOZE or LANE-IDLE whose die is up leaves the region ACTIVE, and one to a shared block of a
die that is up ungates it (CPM_SHARED[0] is 0; which pages these are is log entry 73). An access to a page or window whose lock
is open, other than to PG_LOCK, decrements the page's PG_LOCK.COUNT by one and beside that only wakes; an access to a page
without a lock only wakes. PG_LOCK written with 0xC0DE sets the count to 256, whatever it was, and written with any other value
sets it to 0. (R25, R53, R55, R434, 18_security.md, log entry 73) -/
def Obligations.AccessesUseUpTheUnlock : Prop :=
  (∀ (s : State) (a g : Nat), pageRegion a = some g → s.rgnOn g = true → 2 ≤ s.rgnState g →
    (s.wakeFor a).rgnState g = 0 ∧ (s.wakeFor a).rgnWaking g = false) ∧
  (∀ (s : State) (a : Nat), sharedAddr a = true → s.dieUp (dieOf a) = true → (s.wakeFor a).rdB (cpm (dieOf a) CPM_SHARED) 0 = false) ∧
  (∀ (s : State) (a pg : Nat), lockPage a = some pg → a ≠ pg + PG_LOCK → s.lockCount pg ≠ 0 →
    (s.access a).lockCount pg = s.lockCount pg - 1 ∧ (∀ b, b ≠ pg + PG_LOCK → (s.access a).rd b = (s.wakeFor a).rd b) ∧
    (s.wakeFor a).sameBut (s.access a) [.regs]) ∧
  (∀ (s : State) (a : Nat), lockPage a = none → s.access a = s.wakeFor a) ∧
  (∀ (s : State) (page : Nat), lockPage (pageBase page + PG_LOCK) = some (pageBase page) → s.takes (pageBase page + PG_LOCK) = true →
    ∃ t, exec (.pageUnlock page) s = .next t ∧ t.lockCount (pageBase page) = 256) ∧
  (∀ (s : State) (page : Nat) (v : Word), v ≠ 0xC0DE → lockPage (pageBase page + PG_LOCK) = some (pageBase page) →
    s.takes (pageBase page + PG_LOCK) = true → ∃ t, exec (.pageLock page v) s = .next t ∧ t.lockCount (pageBase page) = 0)

/-- KEEPER_POWER_UP in OFF gives PARKED with CAUSE POR, every register at its reset value, no table content, the straps as sampled
and the fuses kept; in any other mode it has no effect. KEEPER_POWER_LOSS outside OFF gives OFF with every table byte gone, no
relay driven and the fuses kept. (R42, R459, 02_modes_and_power.md) -/
def Obligations.KeeperPowersUpParkedAndLosesPower : Prop :=
  (∀ (p : Byte) (s : State), s.mode = .off → ∃ t, exec (.keeperPowerUp p) s = .next t ∧ t.mode = .parked ∧
    t.rdF (kpr KPR_MODE) 16 8 = Cause.por.code ∧ (∀ a, t.rd a = regDefault a) ∧ (∀ a, t.tb a = 0) ∧ t.straps = p ∧ t.otp = s.otp) ∧
  (∀ (p : Byte) (s : State), s.mode ≠ .off → exec (.keeperPowerUp p) s = .next s) ∧
  (∀ s : State, s.mode ≠ .off → ∃ t, exec .keeperPowerLoss s = .next t ∧ t.mode = .off ∧ (∀ a, t.tb a = 0) ∧
    (∀ l, t.driven l = false) ∧ t.otp = s.otp)

/-- In every mode but OFF: an edge of an input that has not passed its debounce sets the input's latch and starts KHF; an input that
stays active to the end of its debounce (whose timer, log entry 70, the clocks reach) is accepted, as a wake where its enable is
set, a CPL_SNS only in PARKED; one that leaves its active level before is counted in BOUNCE and reported, and its latch clears;
a released input no longer counts as held, NEED is judged anew, and a released CPL_SNS switches to the fast HELLO interval. Line
energy shows in KBY_LAD_STAT, and a burst that qualifies sets SEEN, the LAD event and, in PARKED with the LAD armed, is accepted
as a wake. (R197, R351, R356, R364, R365, 15_network_sleep_and_wake.md, log entry 70) -/
def Obligations.WakeInputsDebounceAndWake : Prop :=
  (∀ (i : WakeIn) (s : State), s.mode ≠ .off → s.kp.held.getLsbD (WakeIn.idx i) = false →
    ∃ t, exec (.wakeInputEdge i) s = .next t ∧ t.latched i = true ∧ t.kp.khf = true ∧ s.sameBut t [.regs, .kp, .el]) ∧
  (∀ (n : Fin 4) (s : State), s.mode ≠ .off → s.latched (.wake n) = true →
    let u := (((s.expire (debTmr (.wake n))).setLatch (.wake n) false true).setHeld (.wake n) true).evalNeed
    exec (.wakeDebounceDone (.wake n)) s = .next (if u.rdB (kwk KWK_WAKE_CFG) n.val then u.acceptWake .wakeIn else u)) ∧
  (∀ (n : Fin 2) (s : State), s.mode ≠ .off → s.latched (.cpl n) = true →
    let u := (((s.expire (debTmr (.cpl n))).setLatch (.cpl n) false true).setHeld (.cpl n) true).evalNeed
    exec (.wakeDebounceDone (.cpl n)) s = .next (if u.mode = .parked ∧ u.rdB (kwk KWK_WAKE_CFG) (12 + n.val) then u.acceptWake .cplSns else u)) ∧
  (∀ (i : WakeIn) (s : State), s.mode ≠ .off → s.latched i = true →
    ∃ t, exec (.wakeInputBounce i) s = .next t ∧ t.latched i = false ∧ t.rdB (kwk PG_EVT) 4 = true ∧
      t.rdF (kwk KWK_CNT) 8 8 = min (s.rdF (kwk KWK_CNT) 8 8 + 1) 255) ∧
  (∀ (n : Fin 4) (s : State), s.mode ≠ .off → s.kp.held.getLsbD n.val = true →
    exec (.wakeInputRelease (.wake n)) s = .next ((s.setLatch (.wake n) (s.latched (.wake n)) false).setHeld (.wake n) false).evalNeed) ∧
  (∀ (n : Fin 2) (s : State), s.mode ≠ .off → s.kp.held.getLsbD (4 + n.val) = true →
    ∃ t, exec (.wakeInputRelease (.cpl n)) s = .next t ∧ t.kp.held.getLsbD (4 + n.val) = false ∧
      t.timer (tmr (ina INA_T_HELLO) 63) = some s.now) ∧
  (∀ (n : Fin 4) (b : Bool) (s : State), s.mode ≠ .off → s.kp.bursting.getLsbD n.val = false →
    ∃ t, exec (.ladEnergyChange n b) s = .next t ∧ t.rdB (kby KBY_LAD_STAT) n.val = b ∧
      (∀ a, a ≠ kby KBY_LAD_STAT → t.rd a = s.rd a) ∧ s.sameBut t [.regs, .el]) ∧
  (∀ (n : Fin 4) (s : State), s.mode ≠ .off → s.rdB (kby KBY_LAD_STAT) n.val = true →
    let u := ((s.expire (qualTmr n.val)).wrB (kby KBY_LAD_STAT) (4 + n.val) true).raise (kby 0) 4
    exec (.ladBurstQualify n) s = .next (if u.mode = .parked ∧ u.rdB (kby KBY_LAD_CFG) n.val then u.acceptWake .lad else u))

/-- In every mode but OFF the RTC's 48-bit seconds advance by one at each RTC_TICK, which sets TICK; a write of KRT_SET_HI that is
taken loads the seconds from KRT_SET_LO and the low 16 bits written; an alarm that equals the seconds clears KWK_ALARM and, with
RTC_WK set, is accepted as a wake. (R364, R493, 21_register_map.md) -/
def Obligations.RtcCountsAndWakesAtAlarm : Prop :=
  (∀ s : State, s.mode ≠ .off → ∃ t, exec .rtcTick s = .next t ∧ t.rdB (krt PG_EVT) 0 = true ∧
    t.rd64 (krt KRT_SEC_LO) (krt KRT_SEC_HI) = (s.rd64 (krt KRT_SEC_LO) (krt KRT_SEC_HI) + 1) % 2 ^ 48) ∧
  (∀ (hi : Word) (s : State), s.takes (krt KRT_SET_HI) = true → ∃ t, exec (.rtcSet hi) s = .next t ∧
    t.rd (krt KRT_SEC_LO) = s.rd (krt KRT_SET_LO) ∧ t.rd (krt KRT_SEC_HI) = wordOf (fld hi 0 16)) ∧
  (∀ s : State, s.mode ≠ .off → s.rd (kwk KWK_ALARM) ≠ 0 → s.rd (kwk KWK_ALARM) = s.rd (krt KRT_SEC_LO) →
    exec .rtcAlarm s = .next (if s.rdB (kwk KWK_WAKE_CFG) 14 then (s.wr (kwk KWK_ALARM) 0).acceptWake .rtcAlarm else s.wr (kwk KWK_ALARM) 0))

/-- A write of a request that reaches the keeper leaves it pending in KPR_MODE_REQ: WAKE at any time, the others outside a
power-down, MAINTENANCE and PARK only while the KPR page is unlocked; in a power-down the others are discarded with REQ_REJ, and
a locked MAINTENANCE or PARK is discarded as a write to a locked page. A write of 0 withdraws the request. When a request is
taken, KPR_MODE_REQ returns to 0 and the request is judged against the current mode: WAKE in PARKED, MAINTENANCE in the four
connected modes, CAST-ON and PARK in MAINTENANCE; every other is rejected with REQ_REJ, and without a request nothing happens.
(R44, R46, R537, 02_modes_and_power.md) -/
def Obligations.ModeRequestsPlacedAndTaken : Prop :=
  (∀ s : State, s.takes (kpr KPR_MODE_REQ) = true → ∃ t, exec .kprReqWake s = .next t ∧ t.rdF (kpr KPR_MODE_REQ) 0 3 = 1) ∧
  (∀ s : State, s.takes (kpr KPR_MODE_REQ) = true → s.kp.powerDown = false →
    ∃ t, exec .kprReqCastOn s = .next t ∧ t.rdF (kpr KPR_MODE_REQ) 0 3 = 3) ∧
  (∀ s : State, s.takes (kpr KPR_MODE_REQ) = true → s.kp.powerDown = false → s.lockCount (kpr 0) ≠ 0 →
    (∃ t, exec .kprReqMaintenance s = .next t ∧ t.rdF (kpr KPR_MODE_REQ) 0 3 = 2) ∧
    (∃ t, exec .kprReqPark s = .next t ∧ t.rdF (kpr KPR_MODE_REQ) 0 3 = 4)) ∧
  (∀ s : State, s.takes (kpr KPR_MODE_REQ) = true → s.lockCount (kpr 0) = 0 →
    exec .kprReqMaintenance s = .next (s.lockViol (kpr KPR_MODE_REQ)) ∧ exec .kprReqPark s = .next (s.lockViol (kpr KPR_MODE_REQ))) ∧
  (∀ s : State, s.takes (kpr KPR_MODE_REQ) = true → s.kp.powerDown = true →
    ∃ t, exec .kprReqCastOn s = .next t ∧ t.rdB (kpr PG_EVT) 1 = true ∧ t.rdF (kpr KPR_MODE_REQ) 0 3 = s.rdF (kpr KPR_MODE_REQ) 0 3) ∧
  (∀ s : State, s.takes (kpr KPR_MODE_REQ) = true → ∃ t, exec .kprReqWithdraw s = .next t ∧ t.rdF (kpr KPR_MODE_REQ) 0 3 = 0 ∧
    t.rd (kpr PG_EVT) = s.rd (kpr PG_EVT)) ∧
  (∀ s : State, s.mode ≠ .off → let u := s.wrF (kpr KPR_MODE_REQ) 0 3 0
    (s.rdF (kpr KPR_MODE_REQ) 0 3 = 1 → exec .modeRequestTake s = .next (if s.mode = .parked then u.acceptWake .hostRequest else u.raise (kpr 0) 1)) ∧
    (s.rdF (kpr KPR_MODE_REQ) 0 3 = 2 → exec .modeRequestTake s = .next (if s.mode = .castOn ∨ s.mode.inRow then u.toMaintenance else u.raise (kpr 0) 1)) ∧
    (s.rdF (kpr KPR_MODE_REQ) 0 3 = 3 → exec .modeRequestTake s = .next (if s.mode = .maintenance then u.fromMaintenance else u.raise (kpr 0) 1)) ∧
    (s.rdF (kpr KPR_MODE_REQ) 0 3 = 4 → exec .modeRequestTake s = .next (if s.mode = .maintenance then u.park .hostRequest else u.raise (kpr 0) 1)) ∧
    (4 < s.rdF (kpr KPR_MODE_REQ) 0 3 → exec .modeRequestTake s = .next (u.raise (kpr 0) 1)) ∧
    (s.rdF (kpr KPR_MODE_REQ) 0 3 = 0 → exec .modeRequestTake s = .next s))

/-- In WAKING each step drives one PWR_EN output more; in a power-down each step drops the last one, and PGOOD[1] and, below two
outputs, PGOOD[0] with it. With all four outputs on, PGOOD_REACHED shows both PGOOD inputs, starts the wait of KPS_CFG.RST_DLY,
and KPS_T_PGOOD takes a measured time, a free value (log entry 14). Without PGOOD in time PG_TMO's event is set, and on a loss
of PGOOD in a powered mode the event of the loss with both PGOOD bits 0, and the node parks with that cause: it is in PARKED,
its power-down runs, and the dies are in reset. DIE_RESET_RELEASE in WAKING with PGOOD releases die 0 and, in a two-die part,
die 1, with the straps sampled again, and a boot is due. The end of the power-down ends it with MIN_OFF_ACT and MIN_OFF
counting. RST_OUT_N rises by its own event, which sets its flag. (R42, R460, R461, R462, R537, 02_modes_and_power.md,
20_startup_and_configuration.md, log entry 14, log entry 70) -/
def Obligations.PowerSequencerRaisesAndDropsRails : Prop :=
  (∀ s : State, s.mode = .waking → s.pwrEn < 15 → ∃ t, exec .pwrEnStep s = .next t ∧ t.pwrEn = (s.pwrEn * 2 + 1) % 16 ∧
    t.timer stepTmr = some (t.now + atLeast1 (s.rdF (kps KPS_CFG) 0 4) * ms)) ∧
  (∀ s : State, s.mode = .parked → s.kp.powerDown = true → 0 < s.pwrEn → ∃ t, exec .pwrEnStep s = .next t ∧ t.pwrEn = s.pwrEn / 2 ∧
    t.pgood = (if s.pwrEn / 2 < 3 then 0 else s.pgood % 2) ∧ t.timer stepTmr = some (t.now + atLeast1 (s.rdF (kps KPS_CFG) 0 4) * ms)) ∧
  (∀ s : State, s.mode = .waking → s.pwrEn = 15 → ∃ t, exec .pgoodReached s = .next t ∧ t.pgood = 3 ∧ t.kp.rstWait = true ∧
    t.rdF (kps KPS_T_PGOOD) 0 16 = s.fresh.toNat % 65536 ∧ t.free = s.free + 1 ∧
    t.timer rstDlyTmr = some (s.now + atLeast1 (s.rdF (kps KPS_CFG) 16 4) * ms)) ∧
  (∀ s : State, s.mode = .waking → s.pgood ≠ 3 → s.pwrEn ≠ 0 →
    exec .pgoodTimeout s = .next (((s.expire pgoodTmr).raise (kps 0) 0).park .pgoodTimeout)) ∧
  (∀ s : State, s.mode.powered = true → s.pgood = 3 → ∃ u : State, exec .pgoodLoss s = .next (u.park .pgoodLoss) ∧ u.pgood = 0 ∧
    u.rdB (kps PG_EVT) 1 = true ∧ u.kp.rstWait = false ∧ u.mode = s.mode) ∧
  (∀ (s : State) (c : Cause), (s.park c).mode = .parked ∧ (s.park c).rdF (kpr KPR_MODE) 16 8 = c.code ∧ (s.park c).kp.powerDown = true ∧
    (s.park c).kp.bootDue = false ∧ (s.park c).rdB (kps KPS_STAT) 8 = true ∧ (s.part.twoDies = true → (s.park c).rdB (kps KPS_STAT) 9 = true)) ∧
  (∀ (p : Byte) (s : State), s.mode = .waking → s.pgood = 3 → s.rdB (kps KPS_STAT) 8 = true →
    ∃ t, exec (.dieResetRelease p) s = .next t ∧ t.straps = p ∧ t.kp.bootDue = true ∧ t.kp.rstWait = false ∧ t.rdB (kps KPS_STAT) 8 = false ∧
      (s.part.twoDies = true → t.rdB (kps KPS_STAT) 9 = false)) ∧
  (∀ s : State, s.kp.powerDown = true → s.pwrEn = 0 → ∃ t, exec .powerDownEnd s = .next t ∧ t.kp.powerDown = false ∧
    t.rdB (kpr KPR_MODE) 5 = true ∧ t.timer minOffTmr = some (s.now + max 10 (s.rdF (kwk KWK_MIN_OFF) 0 8) * ms)) ∧
  (∀ s : State, s.dieUp 0 = true → s.rdB (kps KPS_STAT) 10 = true → ∃ t, exec .rstOutRelease s = .next t ∧
    t.rdB (kps KPS_STAT) 10 = false ∧ t.rdB (kps PG_EVT) 2 = true)

/-- SYS_RST_N and a die 0 reset request in a powered mode, a PLL unlock and a REF loss on die 0 reset both dies and reboot the node
into WAKING with their cause, the CPM event of a loss staying set. A die 1 request, unlock or loss in a two-die part resets die
1 alone; in the single-die parts every die reset is one of die 0. After a reboot the mode is WAKING with the cause recorded, the
dies are in reset, straps and fuses are kept, and no boot is due until the release. After a reset of die 1 the mode and die 0's
reset are as before, and no shadow is complete. (R42, R59, R462, R538, 20_startup_and_configuration.md) -/
def Obligations.DieResetsClearWhatTheyReset : Prop :=
  (∀ s : State, s.mode.powered = true → exec .sysRstAssert s = .next (s.reboot .sysRst)) ∧
  (∀ s : State, s.takes (kps KPS_RST_REQ) = true → s.mode.powered = true → exec .kpsRstReqDie0 s = .next (s.reboot .dieReset)) ∧
  (∀ s : State, s.takes (kps KPS_RST_REQ) = true → s.mode.powered = true →
    exec .kpsRstReqDie1 s = .next (if s.part.twoDies then s.dropDie1 else s.reboot .dieReset)) ∧
  (∀ s : State, s.dieUp 0 = true → exec (.pllUnlock .d0) s = .next ((s.reboot .lossOfLock).raise (cpm 0 0) 0) ∧
    exec (.refLoss .d0) s = .next ((s.reboot .lossOfLock).raise (cpm 0 0) 1)) ∧
  (∀ s : State, s.dieUp 1 = true → exec (.pllUnlock .d1) s = .next (s.dropDie1.raise (cpm 1 0) 0) ∧
    exec (.refLoss .d1) s = .next (s.dropDie1.raise (cpm 1 0) 1)) ∧
  (∀ (s : State) (c : Cause), (s.reboot c).mode = .waking ∧ (s.reboot c).rdF (kpr KPR_MODE) 16 8 = c.code ∧
    (s.reboot c).rdB (kps KPS_STAT) 8 = true ∧ (s.part.twoDies = true → (s.reboot c).rdB (kps KPS_STAT) 9 = true) ∧ (s.reboot c).kp.bootDue = false ∧ (s.reboot c).kp.tried = 0 ∧ (s.reboot c).kp.failCodes = 0 ∧
    (s.reboot c).otp = s.otp ∧ (s.reboot c).straps = s.straps) ∧
  (∀ s : State, s.dropDie1.mode = s.mode ∧ s.dropDie1.rdB (kps KPS_STAT) 9 = true ∧
    s.dropDie1.rdB (kps KPS_STAT) 8 = s.rdB (kps KPS_STAT) 8 ∧ s.dropDie1.tp.complete = false)

/-- A PLL that exists on a die that is up and locks shows its bit in CPM_CLK_STAT, a HOST lock also the reference clock's bit, and
every other register stays; KHF runs from a start in any mode but OFF, and stops in PARKED outside a power-down, once KLF is
valid or no debounce runs, at the end of its 1 ms (log entry 70); KLF becomes valid in any mode but OFF. (R56, R58, R62,
02_modes_and_power.md, log entry 70) -/
def Obligations.PllLocksAndKeeperClocks : Prop :=
  (∀ (d : Sys2Proof.Die) (p : Pll) (s : State), s.dieUp (dieNum d) = true → s.pllPresent (dieNum d) p = true →
    ∃ t, exec (.pllLock d p) s = .next t ∧ t.rdB (cpm (dieNum d) CPM_CLK_STAT) (pllBit p) = true ∧
      (p = .host → t.rdB (cpm 0 CPM_CLK_STAT) 9 = true) ∧ (∀ a, a ≠ cpm (dieNum d) CPM_CLK_STAT → a ≠ cpm 0 CPM_CLK_STAT → t.rd a = s.rd a)) ∧
  (∀ (b : Bool) (s : State), s.mode ≠ .off → exec (.khfStart b) s = .next { s with kp := { s.kp with khf := true } }) ∧
  (∀ s : State, s.mode = .parked → s.kp.powerDown = false → (s.kp.klf || !s.debouncing) = true →
    let u := s.expire khfTmr
    exec .khfStop s = .next { u with kp := { u.kp with khf := false } }) ∧
  (∀ s : State, s.mode ≠ .off → exec .klfValid s = .next { s with kp := { s.kp with klf := true } })

/-- KEEPALIVE goes out on every side and line while the node may send it and its NEED is 1 or bind-off lasts: at the end of its
period, at once without rows, with rows in the first gap of the row (which State.toGap finds), and the period starts again. One
received, past its checks, restarts the timer in RUNNING, HEALING and STANDBY and cancels bind-off on NEED, or brings a later
END. A write of HOST and the end of WAKE_NEED change NEED. When the timer expires in RUNNING, HEALING or STANDBY without a NEED
the node enters bind-off, at once where rows do not run and at the next row boundary where they do: BINDOFF is set, END lies
BO_TIME ahead, BO_START is set, and without rows a KEEPALIVE leaves where the node may send it. Without rows the end of bind-off
is reached, BO_END is set and the node parks; with rows the boundary at or after END does so. After a cancellation a side
without lock gets one burst on both its taps, with REWAKE. MIN_OFF's end lets a latched wake enter WAKING. (R306, R356, R357,
R359, R360, R361, R362, R363, R367, R368, R369, log entry 70) -/
def Obligations.NeedKeepAliveAndBindOff : Prop :=
  (∀ s : State, s.dieUp 0 = true → s.canKeepalive = true → (s.need || s.rdB (kpr KPR_MODE) 4) = true →
    let u := s.expire kaPerTmr
    let per := fun (v : State) => (if v.rdB (kpr KPR_MODE) 4 then 100 else clampTo 100 1000 (v.rdF (kwk KWK_KA) 16 16)) * ms
    (u.run = false → exec .keepaliveSend s = .next ((u.sendCtl 0x05 (.keepAlive u.keepAlive)).arm kaPerTmr (per u))) ∧
    (∀ k, u.run = true → u.toGap 64 = some k →
      let v := u.reachSt (u.st 0 + wordOf k)
      exec .keepaliveSend s = .next ((v.sendCtl 0x05 (.keepAlive v.keepAlive)).arm kaPerTmr (per v)))) ∧
  (∀ (rx : Rx) (h : Hdr) (b : KeepAlive) (s t : State), s.takeStitch rx h 0x05 (fun u => b.uid == u.uid) none (.keepAlive b) false = (t, true) →
    exec (.keepaliveRx rx h b) s = .next (if b.need then (if t.mode.inRow then t.kaRestart.boCancel else t)
      else if b.bindoff ∧ t.rdB (kpr KPR_MODE) 4 ∧ stLater b.endSt (t.rd (kwk KWK_BO_END)) then t.wr (kwk KWK_BO_END) b.endSt else t)) ∧
  (∀ (v : Bool) (s : State), s.takes (kwk KWK_NEED) = true → exec (.needHostWrite v) s = .next (s.wrB (kwk KWK_NEED) 0 v).evalNeed) ∧
  (∀ s : State, s.mode ≠ .off → s.rdB (kwk KWK_NEED) 1 = true → s.kp.needCounting = true →
    let u := (s.expire needTmr).wrB (kwk KWK_NEED) 1 false
    exec .wakeNeedExpiry s = .next ({ u with kp := { u.kp with needCounting := false } } : State).evalNeed) ∧
  (∀ s : State, s.mode.inRow = true → s.need = false → s.rdB (kpr KPR_MODE) 4 = false →
    let u := (s.expire kaTmr).wrF (kwk KWK_KA_LEFT) 0 24 0
    (s.run = true → exec .keepaliveTimeout s = .next { u with kp := { u.kp with boPend := true } }) ∧
    (s.run = false → ∃ v : State, exec .keepaliveTimeout s =
        .next (if v.canKeepalive then (v.sendCtl 0x05 (.keepAlive v.keepAlive)).arm kaPerTmr (100 * ms) else v) ∧
      v.rdB (kpr KPR_MODE) 4 = true ∧ v.rd (kwk KWK_BO_END) = u.st 0 + wordOf (u.boTime * 1000000) ∧ v.rdB (kwk PG_EVT) 0 = true ∧
      v.kp.boPend = false)) ∧
  (∀ s : State, s.mode.inRow = true → s.rdB (kpr KPR_MODE) 4 = true →
    (s.run = false → exec .bindoffEnd s = .next (((s.reachSt (s.rd (kwk KWK_BO_END))).raise (kwk 0) 2).park .bindoffEnd)) ∧
    (s.run = true → exec .bindoffEnd s = .next s) ∧
    (s.kp.boPend = false → stReached (s.rd (kwk KWK_BO_END)) (s.st 0) = true → s.bindoffStep = (s.raise (kwk 0) 2).park .bindoffEnd)) ∧
  (∀ (sd : Side) (s : State), s.mayRewake (sideNum sd) = true → ∃ t, exec (.rewakeBurst sd) s = .next t ∧
    t.kp.rewakeDone.getLsbD (sideNum sd) = true ∧ t.kp.bursting.getLsbD (sideNum sd) = true ∧ t.kp.bursting.getLsbD (2 + sideNum sd) = true ∧
    t.rdB (kwk PG_EVT) 6 = true) ∧
  (∀ s : State, s.mode = .parked → s.rdB (kpr KPR_MODE) 5 = true →
    let u := (s.expire minOffTmr).wrB (kpr KPR_MODE) 5 false
    exec .minOffExpiry s = .next (if u.rdB (kwk KWK_STAT) 8 then (u.wrB (kwk KWK_STAT) 8 false).enterWaking (wakeCause (u.rdF (kwk KWK_STAT) 16 8)) else u))

/-- INSERT_OK written 1 or 0 starts or stops the die's insert line, and the lines follow; an insert line that stops does the same. A
line whose insert conditions hold is driven and in pull-in, or waits while the other one pulls in or waits; a waiting line is
driven at the stagger's end, line A first; at the end of pull-in the line shows inserted and INSERTED is set. A fault in a
powered mode shows its code and event, and STUCK_BYP past pull-in releases the line and holds it released; clearing removes
codes and hold. A coil test is requested, starts with the drive off and VRLY present when it is requested or automatic in
WAKING, and ends with its result valid and the request gone; a code below 0.5 V gives 0xFFFF and COIL_HIGH. A burst begins on a
tap that has none and ends. (R346, R347, R348, R349, R350, R351, R352, R353, 14_backbone_line_and_bypass.md, log entry 62, log
entry 70) -/
def Obligations.BypassRelaysSwitchAndFault : Prop :=
  (∀ (d : Sys2Proof.Die) (v : Bool) (s : State), s.takes (rng (dieNum d) RNG_INSERT) = true →
    exec (.insertOkWrite d v) s = .next ((((s.access (rng (dieNum d) RNG_INSERT)).wrB (rng (dieNum d) RNG_INSERT) 0 v).setInsLine (dieNum d) v).evalRelays)) ∧
  (∀ (d : Sys2Proof.Die) (s : State), s.mode ≠ .off → exec (.insertLineStop d) s = .next (s.setInsLine (dieNum d) false).evalRelays) ∧
  (∀ (l : Line) (s : State), s.insertCond (lineNum l) = true → s.driven (lineNum l) = false → s.waits (lineNum l) = false →
    ((s.pullin (1 - lineNum l) || s.waits (1 - lineNum l)) = true → exec (.relayPullinStart l) s = .next (s.setWait (lineNum l) true)) ∧
    ((s.pullin (1 - lineNum l) || s.waits (1 - lineNum l)) = false → ∃ t, exec (.relayPullinStart l) s = .next t ∧
      t.driven (lineNum l) = true ∧ t.pullin (lineNum l) = true)) ∧
  (∀ s : State, s.waits 0 = true → ∃ t, exec .relayStaggerExpiry s = .next t ∧ t.waits 0 = false ∧ t.driven 0 = true ∧ t.pullin 0 = true) ∧
  (∀ s : State, s.waits 0 = false → s.waits 1 = true →
    ∃ t, exec .relayStaggerExpiry s = .next t ∧ t.waits 1 = false ∧ t.driven 1 = true ∧ t.pullin 1 = true) ∧
  (∀ (l : Line) (s : State), s.pullin (lineNum l) = true → ∃ t, exec (.relayPullinEnd l) s = .next t ∧ t.pullin (lineNum l) = false ∧
    t.rdF (kby KBY_STAT) (4 + 2 * lineNum l) 2 = 3 ∧ t.rdB (kby PG_EVT) 0 = true) ∧
  (∀ (n : Fin 4) (s : State), s.mode.powered = true →
    (∃ t, exec (.bypassFault n .snsRange) s = .next t ∧ t.rdF (kby KBY_FAULT) (4 * n.val) 4 = 5 ∧ t.rdB (kby PG_EVT) 2 = true) ∧
    (s.rdB (kby KBY_STAT) n.val = false → ∃ t, exec (.bypassFault n .stuckIns) s = .next t ∧ t.rdF (kby KBY_FAULT) (4 * n.val) 4 = 2 ∧
      t.rdB (kby PG_EVT) 2 = true) ∧
    (s.rdB (kby KBY_STAT) n.val = true → s.pullin (n.val / 2) = false → ∃ t, exec (.bypassFault n .stuckByp) s = .next t ∧
      t.stuckLine (n.val / 2) = true ∧ t.driven (n.val / 2) = false ∧ t.rdF (kby KBY_FAULT) (4 * n.val) 4 = 1 ∧ t.rdB (kby PG_EVT) 2 = true)) ∧
  (∀ s : State, s.takes (kby KBY_CTRL) = true → ∃ u : State, exec .bypassClearFault s = .next u.evalRelays ∧ u.rd (kby KBY_FAULT) = 0 ∧
    u.kp.stuck = 0 ∧ u.rdF (kby KBY_STAT) 20 4 = 0) ∧
  (∀ (n : Fin 4) (s : State), s.takes (kby KBY_CTRL) = true → ∃ t, exec (.coilRequest n) s = .next t ∧ t.rdB (kby KBY_STAT) (16 + n.val) = true) ∧
  (∀ (n : Fin 4) (s : State), s.mode.powered = true → s.rdB (kby KBY_STAT) n.val = false → s.rdB (kps KPS_STAT) 3 = true →
    (s.rdB (kby KBY_STAT) (16 + n.val) || (s.mode == .waking && s.rdB (kby KBY_CTRL) 4)) = true →
    ∃ t, exec (.coilTestStart n) s = .next t ∧ t.kp.sampling.getLsbD n.val = true) ∧
  (∀ (n : Fin 4) (code : BitVec 10) (s : State), s.kp.sampling.getLsbD n.val = true → ∃ t, exec (.coilTestDone n code) s = .next t ∧
    t.rdB (kby (KBY_COIL n.val)) 31 = true ∧ t.rdF (kby (KBY_COIL n.val)) 16 10 = code.toNat ∧ t.rdB (kby KBY_STAT) (16 + n.val) = false ∧
    t.kp.sampling.getLsbD n.val = false ∧ t.rdB (kby PG_EVT) 3 = true ∧
    (code.toNat * 3300 < 500 * 1024 → t.rdF (kby (KBY_COIL n.val)) 0 16 = 0xFFFF ∧ t.rdF (kby KBY_FAULT) (4 * n.val) 4 = 4)) ∧
  (∀ (n : Fin 4) (s : State), s.takes (kby KBY_BURST) = true → s.kp.bursting.getLsbD n.val = false →
    ∃ t, exec (.ladBurstSend n) s = .next t ∧ t.kp.bursting.getLsbD n.val = true ∧
      t.out = .burst n.val (s.rdB (kby KBY_LAD_CFG) (4 + n.val)) :: s.out) ∧
  (∀ (n : Fin 4) (s : State), s.kp.bursting.getLsbD n.val = true →
    ∃ t, exec (.ladBurstEnd n) s = .next t ∧ t.kp.bursting.getLsbD n.val = false ∧
      t.out = .burstEnd n.val :: (s.expire (tmr (kby KBY_BURST) n.val)).out)

/-- An idle ACTIVE region that may enter a deeper state enters the one that State.rgnChoice gives; that choice lies within the floor
in force and leaves at least the state's wake time with the margin, and its shortest interval, before the next known event,
compared in the half range of ST (which events are known is log entry 19). A DOZE region whose lanes are free goes to LANE-IDLE
at the end of the hold. A wake for the known event begins at that event less the wake time and margin, one for an unknown event
at once with UNKNOWN set; while it lasts WAKING is 1. At its end the region is ACTIVE, and WAKE_LATE is set if the known event
came first. (R47, R49, R50, R51, R53, R63, 02_modes_and_power.md, log entry 19) -/
def Obligations.RegionsSleepAndWake : Prop :=
  (∀ (g : Fin 4) (s : State), s.rgnOn g.val = true → s.rgnState g.val = 0 → s.rgnIdle g.val = true → s.rgnChoice g.val ≠ 0 →
    ∃ t, exec (.regionSleepEnter g) s = .next t ∧ t.rgnState g.val = s.rgnChoice g.val ∧ t.rgnWaking g.val = false) ∧
  (∀ (g : Fin 4) (s : State) (n : Int), s.rgnChoice g.val ≠ 0 → s.rgnNext g.val = some n →
    (rgnWake (s.rgnChoice g.val) + s.regMargin g.val : Nat) ≤ (BitVec.ofInt 32 n).toInt ∧
    (rgnMin (s.rgnChoice g.val) : Int) ≤ (BitVec.ofInt 32 n).toInt ∧ s.rgnChoice g.val ≤ s.effFloor g.val) ∧
  (∀ (g : Fin 4) (s : State), s.rgnOn g.val = true → s.rgnState g.val = 2 → s.rgnWaking g.val = false → s.lanesFree g.val = true →
    s.rgnMay g.val 3 (s.rgnNext g.val) = true → ∃ t, exec (.regionIdleHoldExpiry g) s = .next t ∧ t.rgnState g.val = 3 ∧
      t.rgnWaking g.val = false ∧ s.rgnHoldEnd g.val ≤ t.now) ∧
  (∀ (g : Fin 4) (s : State), s.rgnOn g.val = true → s.rgnState g.val ≠ 0 → s.rgnWaking g.val = false →
    let u := s.reachSt (s.rd (rgn g.val RGN_NEXT_EVT) - wordOf (rgnWake (s.rgnState g.val) + s.regMargin g.val))
    ∃ t, exec (.regionWakeStart g) s = .next t ∧ t.rgnWaking g.val = true ∧ t.rdB (rgn g.val RGN_PSTATE) 3 = false ∧ t.st 0 = u.st 0) ∧
  (∀ (g : Fin 4) (s : State), s.rgnOn g.val = true → 2 ≤ s.rgnState g.val → s.rgnWaking g.val = false →
    ∃ t, exec (.regionUnknownWake g) s = .next t ∧ t.rgnWaking g.val = true ∧ t.rdB (rgn g.val RGN_PSTATE) 3 = true ∧ t.rgnState g.val = s.rgnState g.val) ∧
  (∀ (g : Fin 4) (s : State), s.rgnOn g.val = true → s.rgnWaking g.val = true →
    ∃ t, exec (.regionWakeDone g) s = .next t ∧ t.rgnState g.val = 0 ∧ t.rgnWaking g.val = false ∧
      t.rdB (rgn g.val PG_EVT) 0 = (s.rdB (rgn g.val PG_EVT) 0 || stReached (s.rd (rgn g.val RGN_NEXT_EVT)) (s.st (g.val / 2))))

/-- Writing TMU_TDd_TENS_HI commits both halves, which are due at the next tick; no tension changes before. At the tick that takes a
tension that is due: inside the limits the domain's tension is the value written, with PG_EVT.TENS_CLAMP as it was unless the
other domain takes one too; outside it is the nearer limit, and PG_EVT.TENS_CLAMP is set. Both registers then show the tension,
and nothing is due any longer. (R66) -/
def Obligations.TensionHeldWithinClamp : Prop :=
  (∀ (d : Fin 2) (hi : Word) (s : State), s.takes (tmu 0 (TMU_TD_TENS_HI d.val)) = true →
    ∃ t, exec (.tensionCommit d hi) s = .next t ∧
      (t.due d.val).tens = some ((s.rd (tmu 0 (TMU_TD_TENS_LO d.val))).toNat + fld hi 0 8 * 2 ^ 32) ∧
      (∀ e : Fin 2, t.tens e.val = s.tens e.val) ∧ (∀ a, a ≠ tmu 0 (TMU_TD_TENS_HI d.val) → t.rd a = s.rd a)) ∧
  (∀ (d : Fin 2) (v : Nat) (s : State), s.dieUp 0 = true → (s.due d.val).tens = some v →
    let t := s.advance 1
    (0x01FF7CED91 ≤ v → v ≤ 0x020083126F → t.tens d.val = v ∧
      ((s.due (1 - d.val)).tens = none → t.rdB (tmu 0 PG_EVT) 8 = s.rdB (tmu 0 PG_EVT) 8)) ∧
    (v < 0x01FF7CED91 → t.tens d.val = 0x01FF7CED91 ∧ t.rdB (tmu 0 PG_EVT) 8 = true) ∧
    (0x020083126F < v → t.tens d.val = 0x020083126F ∧ t.rdB (tmu 0 PG_EVT) 8 = true) ∧
    (t.rd (tmu 0 (TMU_TD_TENS_LO d.val))).toNat + fld (t.rd (tmu 0 (TMU_TD_TENS_HI d.val))) 0 8 * 2 ^ 32 = t.tens d.val ∧
    t.tm.anyDue = false)

/-- A step, and a set with TMU_TDd_SET_NS below 1,000,000,000, are due at the next tick, and no clock changes before; steps that are
due add up. A set with a larger TMU_TDd_SET_NS is discarded whole and sets STEP_ERR. The tick that takes a step alone first
advances as a tick with nothing due does, and then adds the signed ns to the domain's full view and its short time, keeping the
fraction; one that would go below 0 leaves seconds and nanoseconds 0 and sets STEP_ERR. The tick that takes a set loads the full
view with the fraction cleared, and then adds a step that is due as well; the short time follows. The row clock advances as in a
tick with nothing due. (R64, R67, R68, R70, 03_time.md, log entry 22) -/
def Obligations.TimeStepAndTimeSetChangeADomain : Prop :=
  (∀ (d : Fin 2) (step : Word) (s : State), s.takes (tmu 0 (TMU_TD_STEP d.val)) = true →
    ∃ t, exec (.offsetStep d step) s = .next t ∧ (t.due d.val).step = (s.due d.val).step + step.toInt ∧
      (t.due d.val).set = (s.due d.val).set ∧ (∀ a, t.rd a = s.rd a)) ∧
  (∀ (d : Fin 2) (hi : Word) (s : State), s.takes (tmu 0 (TMU_TD_SET_SEC_HI d.val)) = true →
    s.rdF (tmu 0 (TMU_TD_SET_NS d.val)) 0 30 < 1000000000 →
    ∃ t, exec (.timeSet d hi) s = .next t ∧ (t.due d.val).step = (s.due d.val).step ∧ (∀ a, t.rd a = s.rd a) ∧
      (t.due d.val).set = some (((s.rd (tmu 0 (TMU_TD_SET_SEC_LO d.val))).toNat + fld hi 0 16 * 2 ^ 32) * 1000000000 +
        s.rdF (tmu 0 (TMU_TD_SET_NS d.val)) 0 30)) ∧
  (∀ (d : Fin 2) (hi : Word) (s : State), s.takes (tmu 0 (TMU_TD_SET_SEC_HI d.val)) = true →
    1000000000 ≤ s.rdF (tmu 0 (TMU_TD_SET_NS d.val)) 0 30 → exec (.timeSet d hi) s = .next (s.raise (tmu 0 0) 9)) ∧
  (∀ (d : Fin 2) (x : Int) (s : State), s.dieUp 0 = true → s.due (1 - d.val) = TimeDue.none → (s.due d.val).tens = none → x ≠ 0 →
    (s.due d.val).step = x → (s.due d.val).set = none →
    let u := (s.setDue d.val TimeDue.none).advance 1
    let t := s.advance 1
    t.frac 0 d.val = u.frac 0 d.val ∧ t.st 0 = u.st 0 ∧
    (0 ≤ (u.view 0 d.val : Int) + x → (u.view 0 d.val : Int) + x < 2 ^ 48 * 1000000000 →
      (t.view 0 d.val : Int) = u.view 0 d.val + x ∧ t.rd (tmu 0 (TMU_TD_ST d.val)) = wordOf (t.view 0 d.val)) ∧
    ((u.view 0 d.val : Int) + x < 0 → t.view 0 d.val = 0 ∧ t.rdB (tmu 0 PG_EVT) 9 = true)) ∧
  (∀ (d : Fin 2) (x : Int) (n : Nat) (s : State), s.dieUp 0 = true → s.due (1 - d.val) = TimeDue.none → (s.due d.val).tens = none →
    (s.due d.val).step = x → (s.due d.val).set = some n → n < 2 ^ 48 * 1000000000 → 0 ≤ (n : Int) + x → (n : Int) + x < 2 ^ 48 * 1000000000 →
    let u := (s.setDue d.val TimeDue.none).advance 1
    let t := s.advance 1
    t.frac 0 d.val = 0 ∧ t.st 0 = u.st 0 ∧ (t.view 0 d.val : Int) = n + x ∧ t.rd (tmu 0 (TMU_TD_ST d.val)) = wordOf (t.view 0 d.val))

/-- LOST_SET at 1 and the end of the timeout of a domain without GM declare it lost, and LOST_SET at 0 or GM at 1 makes an own
source valid, each change setting TDd_LOST. The loss of the followed domain with AUTO_SW, outside HOLDOVER, switches the row
clock to a valid other domain within TMU_SW_MAX, and sets HOLDOVER at the tension of then otherwise. A RCK_SEL write for a
domain that is valid and near enough clears HOLDOVER and switches with RCK_SWITCH, and is discarded without the event otherwise;
outside HOLDOVER a write that names the domain followed already switches nothing (the model's reading, log entry 8). Once
TMU_HOLD rows have passed in HOLDOVER the offset counts as above the mute threshold. The end of the holdover of a path change,
by its count or by a write, lets OFS follow OFS_RAW again with TDd_HOLD_END; that HOLD_LEFT then reads 0 after a write is the
model's choice (log entry 22). (R72, R73, R74, R75, R90, R91, 03_time.md, log entry 8, log entry 22) -/
def Obligations.DomainLossSwitchesOrHolds : Prop :=
  (∀ (d : Fin 2) (s : State), s.takes (tmu 0 (TMU_TD_CTRL d.val)) = true →
    (∃ t, exec (.domainLostSet d true) s = .next t ∧ t.tdLost d.val = true ∧ (s.tdLost d.val = false → t.rdB (tmu 0 PG_EVT) (1 + d.val) = true)) ∧
    (∃ t, exec (.domainLostSet d false) s = .next t ∧ t.tdLost d.val = (s.tdLost d.val && !s.gm d.val) ∧ t.lostSet d.val = false ∧
      (t.tdLost d.val ≠ s.tdLost d.val → t.rdB (tmu 0 PG_EVT) (1 + d.val) = true))) ∧
  (∀ (d : Fin 2) (v : Bool) (s : State), s.takes (tmu 0 (TMU_TD_CFG d.val)) = true →
    ∃ t, exec (.domainGmWrite d v) s = .next t ∧ t.gm d.val = v ∧ t.tdLost d.val = (s.tdLost d.val && !(v && !s.lostSet d.val)) ∧
      (t.tdLost d.val ≠ s.tdLost d.val → t.rdB (tmu 0 PG_EVT) (1 + d.val) = true)) ∧
  (∀ (d : Fin 2) (s : State), s.dieUp 0 = true → s.gm d.val = false →
    let u := s.expire (lossTmr d.val)
    ∃ t, exec (.domainLostTimeout d) s = .next t ∧ t.tdLost d.val = true ∧
    (u.tdLost d.val = false → t.rdB (tmu 0 PG_EVT) (1 + d.val) = true ∧
      (u.rckDom = d.val → u.rdB (tmu 0 TMU_CTRL) 1 = true → u.holdover = false →
        (u.switchable (1 - d.val) = true → t.rckDom = 1 - d.val ∧ t.rdB (tmu 0 PG_EVT) 3 = true ∧ t.holdover = false) ∧
        (u.switchable (1 - d.val) = false → t.rckDom = u.rckDom ∧ t.holdover = true ∧ t.tm.holdTens = u.tens d.val)))) ∧
  (∀ (d : Fin 2) (s : State), s.takes (tmu 0 TMU_CTRL) = true →
    (s.rckDom = d.val → s.holdover = false → s.switchable d.val = true → exec (.rowClockSelect d) s = .next (s.wrB (tmu 0 TMU_CTRL) 0 (d.val == 1))) ∧
    (s.rckDom ≠ d.val ∨ s.holdover = true → s.switchable d.val = true → ∃ t, exec (.rowClockSelect d) s = .next t ∧ t.rckDom = d.val ∧ t.holdover = false ∧
      t.rdF (tmu 0 TMU_CTRL) 0 1 = d.val ∧ t.rdB (tmu 0 PG_EVT) 3 = true ∧ t.st 0 = s.st 0) ∧
    (s.switchable d.val = false → exec (.rowClockSelect d) s = .next s)) ∧
  (∀ s : State, s.dieUp 0 = true → s.holdover = true → ∃ t, exec .holdoverMuteExpiry s = .next t ∧ t.offLimit = true) ∧
  (∀ (d : Fin 2) (s : State), s.tdHold d.val = true →
    (s.dieUp 0 = true → ∃ t, exec (.holdoverExpiry d) s = .next t ∧ t.tdHold d.val = false ∧ t.rd (tmu 0 (TMU_TD_HOLD_LEFT d.val)) = 0 ∧
      t.rd (tmu 0 (TMU_TD_OFS d.val)) = s.rd (tmu 0 (TMU_TD_OFS_RAW d.val)) ∧ t.rdB (tmu 0 PG_EVT) (6 + d.val) = true) ∧
    (s.takes (tmu 0 (TMU_TD_CTRL d.val)) = true → ∃ t, exec (.holdEnd d) s = .next t ∧ t.tdHold d.val = false ∧
      t.rd (tmu 0 (TMU_TD_HOLD_LEFT d.val)) = 0 ∧ t.rd (tmu 0 (TMU_TD_OFS d.val)) = s.rd (tmu 0 (TMU_TD_OFS_RAW d.val)) ∧
      t.rdB (tmu 0 PG_EVT) (6 + d.val) = true))

/-- ST_HALF of a die is set when bit 31 of its ST changes, and not by a change that leaves it; the command ST_HALF lets the row
clock gain the distance to the next multiple of 2^31 ns. Arming, re-arming and a new target of an armed timer make the LATE test
against the ST at that write: past by the half-range difference means late, 0 does not. Disarming clears ARM and sets no event.
An armed timer fires with ARM cleared and TMRn set, at its target where that lay ahead at arming and at the next tick otherwise;
LATE and TMR_LATE are set exactly where its target was past at arming. (R76, R78, R79, R80, 03_time.md, log entry 6) -/
def Obligations.TimersArmExpireAndReadHalves : Prop :=
  (∀ (k : Fin 2) (v : Word) (s : State), (s.setSt k.val v).st k.val = v ∧
    (s.setSt k.val v).rdB (tmu k.val PG_EVT) 0 = (s.rdB (tmu k.val PG_EVT) 0 || (bit v 31 != bit (s.st k.val) 31))) ∧
  (∀ (d : Sys2Proof.Die) (s : State), s.dieUp (dieNum d) = true → ∃ t, exec (.stHalf d) s = .next t ∧
    t = s.gain (dieNum d) (2 ^ 31 - (s.st (dieNum d)).toNat % 2 ^ 31) ∧
    (bit (t.st (dieNum d)) 31 ≠ bit (s.st (dieNum d)) 31 → t.rdB (tmu (dieNum d) PG_EVT) 0 = true)) ∧
  (∀ (d : Sys2Proof.Die) (n : Fin 4) (s : State), s.takes (tmu (dieNum d) (TMU_TMR_CTRL n.val)) = true →
    (∃ t, exec (.timerArm d n) s = .next t ∧ t.rdB (tmu (dieNum d) (TMU_TMR_CTRL n.val)) 0 = true ∧
      t.tm.tmrLate.getLsbD (4 * dieNum d + n.val) = decide ((s.rd (tmu (dieNum d) (TMU_TMR_TGT n.val)) - s.st (dieNum d)).toInt < 0) ∧
      Assoc.get t.tm.tmrAt (4 * dieNum d + n.val) =
        if (s.rd (tmu (dieNum d) (TMU_TMR_TGT n.val)) - s.st (dieNum d)).toInt ≤ 0 then some (s.st (dieNum d)) else none) ∧
    exec (.timerDisarm d n) s = .next (s.wrB (tmu (dieNum d) (TMU_TMR_CTRL n.val)) 0 false)) ∧
  (∀ (d : Sys2Proof.Die) (n : Fin 4) (g : Word) (s : State), s.takes (tmu (dieNum d) (TMU_TMR_TGT n.val)) = true →
    ∃ t, exec (.timerRetarget d n g) s = .next t ∧ t.rd (tmu (dieNum d) (TMU_TMR_TGT n.val)) = g ∧
      (s.rdB (tmu (dieNum d) (TMU_TMR_CTRL n.val)) 0 = true →
        t.tm.tmrLate.getLsbD (4 * dieNum d + n.val) = decide ((g - s.st (dieNum d)).toInt < 0)) ∧
      (∀ a, a ≠ tmu (dieNum d) (TMU_TMR_TGT n.val) → t.rd a = s.rd a)) ∧
  (∀ (d : Sys2Proof.Die) (n : Fin 4) (s : State), s.dieUp (dieNum d) = true → s.rdB (tmu (dieNum d) (TMU_TMR_CTRL n.val)) 0 = true →
    ∃ t, exec (.timerFire d n) s = .next t ∧ t.rdB (tmu (dieNum d) (TMU_TMR_CTRL n.val)) 0 = false ∧
      t.rdB (tmu (dieNum d) PG_EVT) (11 + n.val) = true ∧
      (Assoc.get s.tm.tmrAt (4 * dieNum d + n.val) = none →
        t.st (dieNum d) = (s.reachOn (dieNum d) (s.rd (tmu (dieNum d) (TMU_TMR_TGT n.val)))).st (dieNum d)) ∧
      (Assoc.get s.tm.tmrAt (4 * dieNum d + n.val) = some (s.st (dieNum d)) → t.st (dieNum d) = (s.advance 1).st (dieNum d)) ∧
      t.rdB (tmu (dieNum d) (TMU_TMR_CTRL n.val)) 1 =
        (s.rdB (tmu (dieNum d) (TMU_TMR_CTRL n.val)) 1 || s.tm.tmrLate.getLsbD (4 * dieNum d + n.val)) ∧
      t.rdB (tmu (dieNum d) PG_EVT) 10 = (s.rdB (tmu (dieNum d) PG_EVT) 10 || s.tm.tmrLate.getLsbD (4 * dieNum d + n.val)))

/-- A Sync that gets past its port (State.ptpIn) and names an enabled domain is, one-step, relayed and accepted at its receive time
less the receive latency (State.takeSync), and two-step, held with that time and the link delay of then until its Follow_Up,
whose correction is added and which counts with the held receive time, or is discarded at the timeout. One of no enabled domain
has no effect beyond its reception. A copy of the slave port, a candidate that is AS_CAPABLE and no backbone port, while the
Komidon link is up or on die 0's ports gives the offset of R87 and goes to the MASTER ports with its sequence number counted.
The correction that leaves adds link delay, asymmetry and residence, scaled together by the rate ratio, which is also added to
the cumulative rate offset; what leaves is one-step. A source originates a Sync with its next sequence number, one Sync interval
after the last. A write of the slave port selects it, and where the domain is enabled sets TDd_HOLD and TDd_PATH_CHANGE, with
HOLD_LEFT at TMU_HOLD and OFS as it was. The time word steps die 1 to die 0's row clock with DIE_ALIGN if any of the clocks is
more than 8 ns off, and ALIGNED is then 1. (R72, R81, R84, R85, R86, R87, R89, R90, R140, log entry 21, log entry 69) -/
def Obligations.SyncRelayedAcceptedOriginated : Prop :=
  (∀ (rx : Rx) (f : Sync) (res : List (Port × Nat)) (s t : State),
    s.ptpIn { rx with sof := s.st (rx.port.val / 32) } = (t, true) →
    (t.syncDomain f.domain = none → exec (.syncRx rx f res) s = .next t) ∧
    (∀ d, t.syncDomain f.domain = some d →
      let at16 : Int := (t.view16 (rx.port.val / 32) d : Int) - t.rxLat16 rx.port.val
      (f.twoStep = false → exec (.syncRx rx f res) s = .next (t.takeSync d rx.port.val (t.linkDelay16 rx.port.val) f res at16)) ∧
      (f.twoStep = true → ∃ u, exec (.syncRx rx f res) s = .next u ∧ u.tm.twoStep =
        t.tm.twoStep.filter (fun h => !(h.port == rx.port.val && h.sync.domain == f.domain)) ++
          [{ port := rx.port.val, sync := f, rx16 := at16, link := t.linkDelay16 rx.port.val }]))) ∧
  (∀ (rx : Rx) (f : Sync) (res : List (Port × Nat)) (d : Nat) (h : HeldSync) (s t : State),
    s.ptpIn { rx with sof := s.st (rx.port.val / 32) } = (t, true) → t.syncDomain f.domain = some d →
    (t.tm.twoStep.find? fun h => h.port == rx.port.val && h.sync.domain == f.domain && h.sync.seq == f.seq) = some h →
    let u : State := { t with tm := { t.tm with twoStep := t.tm.twoStep.filter (· ≠ h) } }
    exec (.followUpRx rx f res) s = .next ((u.disarm (twoStepTmr rx.port.val d)).takeSync d rx.port.val h.link
      { f with twoStep := false, corr16 := h.sync.corr16 + f.corr16 } res h.rx16)) ∧
  (∀ (d : Fin 2) (p : Nat) (link rx : Int) (res : List (Port × Nat)) (f : Sync) (s : State), s.candidate d.val p = true →
    isBackbone s.part p = false → s.slave d.val = p → s.syncDie p = 0 →
    ∃ u : State, s.takeSync d.val p link f res rx = (u.wrOfs 0 d.val (u.syncOffset d.val link f rx)).masterRelay d.val p link f res ∧
      u.slave d.val = p ∧ u.rdF (tmu 0 (TMU_TD_SYNC_CNT d.val)) 0 16 = f.seq.toNat) ∧
  (∀ (d : Nat) (link rx : Int) (f : Sync) (s : State), s.syncOffset d link f rx =
    rx - ((f.origSec.toNat * 1000000000 + f.origNs.toNat : Nat) * 16 + f.corr16 + s.scaled d link)) ∧
  (∀ (d res : Nat) (link : Int) (f : Sync) (s : State), (s.relayedSync d link f res).twoStep = false ∧
    (s.relayedSync d link f res).corr16 = f.corr16 + s.scaled d (link + res) ∧
    (s.relayedSync d link f res).csro = f.csro + (s.rd (tmu 0 (TMU_TD_RR d))).toInt) ∧
  (∀ (p : Port) (n : Byte) (s : State), (s.tm.twoStep.any fun h => h.port == p.val && h.sync.domain == n) = true →
    ∃ t, exec (.twoStepTimeout p n) s = .next t ∧ t.tm.twoStep = s.tm.twoStep.filter fun h => !(h.port == p.val && h.sync.domain == n)) ∧
  (∀ (d : Fin 2) (s : State), s.dieUp 0 = true → s.gm d.val = true → s.tdEnabled d.val = true →
    let u := s.expire (originTmr d.val)
    exec (.syncOriginate d) s = .next ((u.arm (originTmr d.val) (u.syncIvl d.val)).originate d.val) ∧
    (u.originSync d.val).seq = (if d.val = 0 then s.tm.originSeq0 else s.tm.originSeq1) + 1) ∧
  (∀ (d : Fin 2) (v : Word) (s : State), s.takes (tmu 0 (TMU_TD_SLAVE d.val)) = true →
    ∃ t, exec (.slavePortWrite d v) s = .next t ∧ t.slave d.val = fld v 0 7 ∧
      (s.tdEnabled d.val = true → t.tdHold d.val = true ∧ t.rdF (tmu 0 (TMU_TD_HOLD_LEFT d.val)) 0 24 = s.rdF (tmu 0 TMU_HOLD) 0 24 ∧
        t.rdB (tmu 0 PG_EVT) (4 + d.val) = true ∧ t.rd (tmu 0 (TMU_TD_OFS d.val)) = s.rd (tmu 0 (TMU_TD_OFS d.val)))) ∧
  (∀ s : State, s.dieUp 0 = true → s.dieUp 1 = true → s.linkUp = true →
    let u := s.expire (tmr (klk 0 KLK_STAT) 0)
    ∃ t, exec .timeWord s = .next t ∧ t.rck 0 = u.rck 0 ∧
      ((beyond8 u.timeDiffs.1 || beyond8 u.timeDiffs.2.1 || beyond8 u.timeDiffs.2.2) = true →
        t.rck 1 = u.rck 0 ∧ t.rdB (tmu 1 PG_EVT) 16 = true ∧
        (u.view 0 0 < 2 ^ 48 * 1000000000 → u.view 0 1 < 2 ^ 48 * 1000000000 → t.rdB (tmu 1 TMU_STAT) 3 = true)))

/-- With OUT_EN at 1 the clocks reach the next second of the domain of PPS_OUT. PPS_OUT goes high where that domain's seconds have
moved forward past the highest already pulsed, and not otherwise, and falls at the end of its width. With IN_EN at 1 an edge of
PPS_IN takes a capture and sets PPS_IN; a write of CAP takes the same capture. A capture holds ST, its wraps and both full views
of one instant, with its source shown, both sources where the last capture was of the same tick. (R93, R94, 03_time.md, log
entry 6) -/
def Obligations.PpsEdgesAndTimeCapture : Prop :=
  (∀ s : State, s.dieUp 0 = true → s.rdB (tmu 0 TMU_PPS_CFG) 0 = true → exec .ppsOutPulse s = .next (s.reachSec s.ppsDom)) ∧
  (∀ (s : State) (old : Nat), let top := if s.ppsDom = 0 then s.tm.ppsTop0 else s.tm.ppsTop1
    (s.rdB (tmu 0 TMU_PPS_CFG) 0 = true → old < s.secs s.ppsDom → top < s.secs s.ppsDom →
      (s.ppsFrom old).out = .pps true :: s.out ∧ (s.ppsFrom old).tm.ppsHigh = true) ∧
    (s.rdB (tmu 0 TMU_PPS_CFG) 0 = false ∨ s.secs s.ppsDom ≤ old ∨ s.secs s.ppsDom ≤ top → s.ppsFrom old = s)) ∧
  (∀ s : State, s.dieUp 0 = true → s.tm.ppsHigh = true → ∃ t, exec .ppsOutEnd s = .next t ∧ t.tm.ppsHigh = false ∧
    t.out = .pps false :: (s.expire ppsTmr).out) ∧
  (∀ s : State, s.dieUp 0 = true → s.rdB (tmu 0 TMU_PPS_CFG) 16 = true → ∃ t, exec .ppsInCapture s = .next t ∧
    t.rd (tmu 0 TMU_SNAP_ST) = s.st 0 ∧ t.rd (tmu 0 TMU_SNAP_WRAP) = s.rd (tmu 0 TMU_ST_WRAP) ∧
    t.rd (tmu 0 TMU_SNAP_TD0_NS) = s.rd (tmu 0 (TMU_TD_NS 0)) ∧ t.rd (tmu 0 TMU_SNAP_TD0_SEC_LO) = s.rd (tmu 0 (TMU_TD_SEC_LO 0)) ∧
    t.rd (tmu 0 TMU_SNAP_TD0_SEC_HI) = s.rd (tmu 0 (TMU_TD_SEC_HI 0)) ∧ t.rd (tmu 0 TMU_SNAP_TD1_NS) = s.rd (tmu 0 (TMU_TD_NS 1)) ∧
    t.rd (tmu 0 TMU_SNAP_TD1_SEC_LO) = s.rd (tmu 0 (TMU_TD_SEC_LO 1)) ∧ t.rd (tmu 0 TMU_SNAP_TD1_SEC_HI) = s.rd (tmu 0 (TMU_TD_SEC_HI 1)) ∧
    t.rdF (tmu 0 TMU_SNAP_CTRL) 8 2 = (if s.capturedNow 0 then s.rdF (tmu 0 TMU_SNAP_CTRL) 8 2 ||| 2 else 2) ∧ t.rdB (tmu 0 PG_EVT) 15 = true) ∧
  (∀ s : State, s.takes (tmu 0 TMU_SNAP_CTRL) = true → ∃ t, exec .snapCapture s = .next t ∧
    t.rd (tmu 0 TMU_SNAP_ST) = s.st 0 ∧ t.rd (tmu 0 TMU_SNAP_WRAP) = s.rd (tmu 0 TMU_ST_WRAP) ∧
    t.rd (tmu 0 TMU_SNAP_TD0_NS) = s.rd (tmu 0 (TMU_TD_NS 0)) ∧ t.rd (tmu 0 TMU_SNAP_TD0_SEC_LO) = s.rd (tmu 0 (TMU_TD_SEC_LO 0)) ∧
    t.rd (tmu 0 TMU_SNAP_TD0_SEC_HI) = s.rd (tmu 0 (TMU_TD_SEC_HI 0)) ∧ t.rd (tmu 0 TMU_SNAP_TD1_NS) = s.rd (tmu 0 (TMU_TD_NS 1)) ∧
    t.rd (tmu 0 TMU_SNAP_TD1_SEC_LO) = s.rd (tmu 0 (TMU_TD_SEC_LO 1)) ∧ t.rd (tmu 0 TMU_SNAP_TD1_SEC_HI) = s.rd (tmu 0 (TMU_TD_SEC_HI 1)) ∧
    t.rdF (tmu 0 TMU_SNAP_CTRL) 8 2 = (if s.capturedNow 0 then s.rdF (tmu 0 TMU_SNAP_CTRL) 8 2 ||| 1 else 1) ∧
    (∀ a, a < tmu 0 TMU_SNAP_CTRL ∨ tmu 0 TMU_SNAP_TD1_SEC_HI < a → t.rd a = s.rd a))

/-- While rows run, the boundary lies one row length after the row's start, and the clocks reach it. What ended with the row is
judged (State.rowEnd), then a blocking and a swap are made, the new row begins with the next number, contexts age, the twin
delta, the token and the field buses have their boundary, buffers and the statistics count the row, muting is evaluated, and
what the chapters place at a row start follows (State.rowBegin; the order of these is log entry 26). The new row has no
ROW_START, poll vector, marker or frame being sent yet, and keeps the start and the vector of the row before. (R98, R99, R112,
R127, R206, R207, R248, R541, 04_rows_and_stitches.md, log entry 3, log entry 26) -/
def Obligations.RowBoundaryStartsTheNextRow : Prop :=
  (∀ s : State, s.dieUp 0 = true → s.run = true →
    let u := s.reachSt (s.rd (sch 0 SCH_ROW_ST) + wordOf s.rowLen)
    let e := u.rowEnd
    let b := e.blockStep (e.row + 1)
    let blocked := b.actBank != e.actBank
    let w := (b.swapStep (e.row + 1) blocked).nextRow e.actPrf e.actBank (e.rd (sch 0 SCH_ROW_ST) + wordOf e.rowLen)
    let x := ((((w.evalOwn).ageAll).deltaBoundary (e.row + 1)).pairBoundary e.row).fldBoundary e.rowLen (blocked || w.actPrf != e.actPrf)
    let y := (x.each (fun d z => z.evalBuf d) x.dies).staRow e.rowLen
    exec .rowBoundary s = .next ((y.muteStep.rowBegin (y.actBank != u.actBank)).settle)) ∧
  (∀ (prf bank : Nat) (start : Word) (s : State), (s.nextRow prf bank start).row = s.row + 1 ∧ (s.nextRow prf bank start).rd (sch 0 SCH_ROW_ST) = start ∧
    (s.nextRow prf bank start).rdB (sch 0 SCH_STAT) 13 = false ∧ (s.nextRow prf bank start).sc.poll = none ∧
    (s.nextRow prf bank start).sc.marks = 0 ∧ (s.nextRow prf bank start).sc.sending = [] ∧ (s.nextRow prf bank start).sc.prevPoll = s.sc.poll ∧
    (s.nextRow prf bank start).sc.prevRowSt = s.rd (sch 0 SCH_ROW_ST))

/-- At stitch start − KNIT_LEAD the knitter of a die of the effective owner takes its strands, by the tables of the stitch's row;
for another stitch nothing happens. At start − NULL_LEAD a stitch that is not decided yet is decided. An owned, active, served
stitch whose instant is more than 8 ns past is recorded as skipped, SCH_CNT_SKIP of die 0 and the stitch's error counter
increment and SKIP is set; one that carries a skein is decided by what the dies can send, and every other is recorded as one in
which the node sends none. With no reason for a NULL both dies of an unmuted node decide for the skein; both dies muted send
nothing; with one die, a reason makes it send a NULL. The reason is HOLD before FORCED before NO_CELLS before NOT_READY, where
no skein has been knitted. (R101, R111, R115, R116, R117, R127, R251, R252, R253, R540, log entry 27, log entry 28) -/
def Obligations.StitchDecidedOnceForSkeinOrNull : Prop :=
  (∀ (d : Sys2Proof.Die) (sid : Fin 4096) (s v : State) (e : Stitch), s.dieUp 0 = true → s.dieUp (dieNum d) = true → s.run = true →
    s.rowFor sid.val (s.knitLead (dieNum d)) (fun u => u.knitDone (dieNum d) sid.val) = some (v, e) →
    exec (.knit d sid) s = .next (if v.ownsSkein sid.val e then
      (s.reachOn (dieNum d) (v.stitchSt e - wordOf (s.knitLead (dieNum d)))).inRowOf v (dieNum d) fun u => u.knitOn v.row sid.val e (dieNum d) else s)) ∧
  (∀ (sid : Fin 4096) (s v : State) (e : Stitch), s.dieUp 0 = true → s.run = true →
    s.rowFor sid.val s.nullLead (fun u => (u.decision u.row u.actPrf sid.val).isSome) = some (v, e) →
    (s.decision v.row v.actPrf sid.val ≠ none → exec (.stitchDecision sid) s = .next s) ∧
    (s.decision v.row v.actPrf sid.val = none → exec (.stitchDecision sid) s = .next (s.decideStitch v sid.val e))) ∧
  (∀ (sid : Nat) (s v : State) (e : Stitch),
    let target := v.stitchSt e - wordOf s.nullLead
    let t := (s.reachSt target).evalMute
    let act := v.entryActive v.row v.actBank v.actPrf sid e (v.pollFor v.thisRow e)
    let rec0 : Bool → Decision := fun k => { row := v.row, prf := v.actPrf, sid := sid, active := act, own := .none, own1 := .none, skipped := k }
    ((act && t.serves && v.ownsSend sid e) = true → (target - s.st 0).toInt < -8 →
      s.decideStitch v sid e = (((t.record (rec0 true)).count (sch 0 SCH_CNT_SKIP)).raise (sch 0 0) 6).statBy (stitchCtr 0 sid 1) 1) ∧
    ((act && t.serves && v.ownsSkein sid e) = true → -8 ≤ (target - s.st 0).toInt → s.decideStitch v sid e = t.decideOwn v sid e) ∧
    ((act && t.serves && v.ownsSend sid e) = false → s.decideStitch v sid e = t.record (rec0 false)) ∧
    (v.ownsSkein sid e = false → -8 ≤ (target - s.st 0).toInt → s.decideStitch v sid e = t.record (rec0 false))) ∧
  (∀ (sid : Nat) (s v : State) (e : Stitch), s.reasons v sid e = (none, none) → s.mutedOn 0 = false → s.mutedOn 1 = false →
    s.decideOwn v sid e = s.record { row := v.row, prf := v.actPrf, sid := sid, active := true, own := .skein, own1 := .skein, skipped := false }) ∧
  (∀ (sid : Nat) (s v : State) (e : Stitch), s.mutedOn 0 = true → s.mutedOn 1 = true →
    s.decideOwn v sid e = s.record { row := v.row, prf := v.actPrf, sid := sid, active := true, own := .none, own1 := .none, skipped := false }) ∧
  (∀ (sid k : Nat) (s v : State) (e : Stitch), s.dieUp 1 = false → s.nullReason v 0 sid e v.actSelv = some k → s.muted = false →
    s.decideOwn v sid e = (s.record { row := v.row, prf := v.actPrf, sid := sid, active := true, own := .null k, own1 := .null k, skipped := false }).sendNull v 0 sid k e) ∧
  (∀ (d sid selv : Nat) (s v : State) (e : Stitch),
    (s.sc.hold = true → s.nullReason v d sid e selv = some 3) ∧
    (s.sc.hold = false → bit (s.eff (sch 0 SCH_CTRL)) 0 = true → s.nullReason v d sid e selv = some 4) ∧
    (s.sc.hold = false → bit (s.eff (sch 0 SCH_CTRL)) 0 = false → s.knitOf v.row sid d = none →
      s.nullReason v d sid e selv = if fld (s.eff (buf d BUF_KRSV)) 0 12 ≤ s.knitUsed d then some 2 else some 1))

/-- Each die that decided for the skein sends its copies at stitch start + TXOFS, once, by the entry of the profile under which it
was decided. A skein or NULL that passes its checks while rows run notes its stitch as heard; the copy that frame replication
takes on a die unravels the skein there, or for a NULL increments SCH_CNT_NULL_RX and the stitch's error counter and marks the
strands stale. At TSPAN after the row start a stitch of the row before that was expected and not heard is missed: each die that
consumes it increments SCH_CNT_MISS, and its strands go stale. A frame that does not pass its checks changes only what they
count. (R114, R115, R118, R253, R254, R256, R257, R258, R259, 10_datasets_and_skeins.md, log entry 27) -/
def Obligations.SkeinsSentReceivedAndMissed : Prop :=
  (∀ (sid : Fin 4096) (s : State) (d : Decision) (e : Stitch), s.toSend sid.val = some d → s.prfEntry d.prf sid.val = some e →
    s.dieUp 0 = true → s.run = true →
    let u := (s.reachSt (s.stitchSt e + wordOf (txofs s.actSelv))).record { d with own := .none, own1 := .none }
    let w := if d.own = .skein then u.sendSkein 0 sid.val e else u
    exec (.skeinSend sid) s = .next (if w.dieUp 1 ∧ d.own1 = .skein then w.sendSkein 1 sid.val e else w)) ∧
  (∀ (sid : Fin 4096) (s : State), s.dieUp 0 = true → s.run = true →
    let u := s.reachSt (s.rd (sch 0 SCH_ROW_ST) + wordOf (s.tspan 0))
    (∀ e, u.missed sid.val = some e → exec (.skeinMiss sid) s = .next (u.missStitch sid.val e)) ∧
    (u.missed sid.val = none → exec (.skeinMiss sid) s = .next u)) ∧
  (∀ (sid : Nat) (e : Stitch) (s : State), s.dies = [0] → s.expecting 0 e.ident ≠ [] →
    s.missStitch sid e = ((((s.count (sch 0 SCH_CNT_MISS)).statBy (stitchCtr 0 sid 1) 1).markStale e.ident [0]).noteHeard (s.row - 1) sid)) ∧
  (∀ (rx : Rx) (h : Hdr) (q : BitVec 16) (b : Skein) (s t u : State) (r : Nat),
    s.takeStitch rx h 0x04 (fun t => t.ownSender h.sender.toNat) (some q) (.skein b) true = (t, true) → t.run = true →
    (t.noteHeard h.row h.sid.toNat).recoverOn (rx.port.val / 32) b.skein q = (u, some r) →
    exec (.skeinRx rx h q b) s = .next ((u.unravel r b.skein b.strands).needSeen b.need)) ∧
  (∀ (rx : Rx) (h : Hdr) (q : BitVec 16) (b : NullBody) (s t u : State) (r : Nat),
    s.takeStitch rx h 0x03 (fun t => t.ownSender h.sender.toNat) (some q) (.null b) true = (t, true) → t.run = true →
    (t.noteHeard h.row h.sid.toNat).recoverOn (rx.port.val / 32) b.skein q = (u, some r) →
    exec (.nullRx rx h q b) s = .next (((u.count (sch r SCH_CNT_NULL_RX)).statBy (stitchCtr r h.sid.toNat 1) 1).markStale b.skein.toNat (u.dataDies r))) ∧
  (∀ (rx : Rx) (h : Hdr) (q : BitVec 16) (b : Skein) (c : NullBody) (s t : State),
    (s.takeStitch rx h 0x04 (fun t => t.ownSender h.sender.toNat) (some q) (.skein b) true = (t, false) → exec (.skeinRx rx h q b) s = .next t) ∧
    (s.takeStitch rx h 0x03 (fun t => t.ownSender h.sender.toNat) (some q) (.null c) true = (t, false) → exec (.nullRx rx h q c) s = .next t)) ∧
  (∀ (s : State) (row : Word) (sid : Nat), (row, sid) ∈ (s.noteHeard row sid).sc.heard)

/-- An own frame that a port is still sending at the cut-off is ended with an inverted FCS: the port is cut and no longer sends it,
SCH_CNT_GRD of the port's die increments (it saturates), and PG_EVT.GRD_FAULT is set. A port that sends no own frame, a transit
frame included, is not touched. (R125) -/
def Obligations.GuardianEndsOwnFrameAtSlotEnd : Prop :=
  (∀ (p : Port) (x : Nat × Nat) (s : State), (s.sc.sending.find? fun e => e.1 == p.val) = some x → s.portOn p.val = true →
    ∃ t, exec (.guardianCutoff p) s = .next t ∧ t.out = .cut p.val :: s.out ∧ (t.sc.sending.find? fun e => e.1 == p.val) = none ∧
      (t.rd (sch (p.val / 32) SCH_CNT_GRD)).toNat = min 0xFFFFFFFF ((s.rd (sch (p.val / 32) SCH_CNT_GRD)).toNat + 1) ∧
      t.rdB (sch (p.val / 32) PG_EVT) 8 = true) ∧
  (∀ (p : Port) (s : State), (s.sc.sending.find? fun e => e.1 == p.val) = none → exec (.guardianCutoff p) s = .next s)

/-- A Slandongo frame on a port that is no backbone port, or of another EtherType, changes nothing. One that is taken came in on a
backbone port that took it, with the device's EtherType, a good common header, and the subtype asked for. Of the stitch frames,
one with the node's own sender is stripped and counted, not taken; one that the port does not take goes no further; and one that
is taken has come whole, is not the node's own, and has the verdict use or pass of the timing and transit checks. (R38, R107,
R299, 04_rows_and_stitches.md, 12_ring_and_turns.md) -/
def Obligations.ReceivedFramesPassChecks : Prop :=
  (∀ (rx : Rx) (h : Hdr) (k : Byte) (s : State), isBackbone s.part rx.port.val = false ∨ h.l2.etype ≠ s.slEtype → s.takeSl rx h k = (s, .none)) ∧
  (∀ (rx : Rx) (h : Hdr) (k : Byte) (a : Arrival) (s t : State), s.takeSl rx h k = (t, a) → a ≠ .none →
    isBackbone s.part rx.port.val = true ∧ h.l2.etype = s.slEtype ∧ headerOk h = true ∧ h.subtype = k ∧ (s.takeRx rx false).2 = a) ∧
  (∀ (rx : Rx) (h : Hdr) (k : Byte) (m : State → Bool) (q : Option (BitVec 16)) (b : Body) (sched : Bool) (a : Arrival) (s t : State),
    s.takeSl rx h k = (t, a) →
    (a = .none → s.takeStitch rx h k m q b sched = (t, false)) ∧
    (a ≠ .none → m t = true → s.takeStitch rx h k m q b sched = (t.count (rng (rx.port.val / 32) RNG_CNT_STRIP), false))) ∧
  (∀ (rx : Rx) (h : Hdr) (k : Byte) (m : State → Bool) (q : Option (BitVec 16)) (b : Body) (sched : Bool) (s t : State),
    s.takeStitch rx h k m q b sched = (t, true) →
    ∃ u : State, s.takeSl rx h k = (u, .good) ∧ m u = false ∧ ((u.slCheck rx h).2 = .use ∨ (u.slCheck rx h).2 = .pass))

/-- The needle sends its ROW_START at row start + TXOFS, except once its HOLD rows have passed; it then counts as accepted, with its
poll vector, and no row is missed. A received one whose start the relay took is stripped and counted by the needle or after a
circuit. Otherwise its timing at the first hop is judged: a dropped one does nothing more, one with a bad end is ended as such,
a late one is ended by the egress, and the rest are noted, relayed and, at a node that takes part in rows, given to the state
machine. A member whose third row in succession ends without one has lost rows. In its rows the needle announces itself every
2^ANN_LOG rows in the first gap; a yielding needle sends YIELD there once, in its first HOLD row, and after its last one goes to
RESYNC and is needle no more. (R38, R108, R109, R110, R119, R120, R136, R142, R144, R299, R306, R541) -/
def Obligations.RowStartSentTakenAndLost : Prop :=
  (∀ (sl : Nat) (s : State), s.actSlot = some sl → s.dieUp 0 = true → s.run = true → s.needle = true → s.sc.yieldLeft ≠ some 0 →
    exec .rowStartSend s = .next ((s.reachSt (s.rd (sch 0 SCH_ROW_ST) + wordOf (txofs (s.selv sl)))).sendRs sl)) ∧
  (∀ (sl : Nat) (s : State), (s.sendRs sl).sc.rsMiss = 0 ∧ (s.sendRs sl).rdB (sch 0 SCH_STAT) 13 = true ∧ (s.sendRs sl).sc.poll = some (s.pollVector sl) ∧
    (s.rowStart sl).rowSt = s.rd (sch 0 SCH_ROW_ST) ∧ (s.rowStart sl).poll = s.pollVector sl) ∧
  (∀ (rx : Rx) (h : Hdr) (b : RowStart) (a : Arrival) (s t : State), s.takeSl rx h 0x01 = (t, a) → a ≠ .none →
    ((t.needle || t.circled rx.port.val h b) = true → exec (.rowStartRx rx h b) s = .next (t.count (rng (rx.port.val / 32) RNG_CNT_STRIP))) ∧
    ((t.needle || t.circled rx.port.val h b) = false →
      exec (.rowStartRx rx h b) s = .next ((t.rsTiming rx h).1.rsRelay rx h b (t.rsTiming rx h).2 a))) ∧
  (∀ (rx : Rx) (h : Hdr) (b : RowStart) (s : State),
    let f : Frame := .sl h none (.rowStart b)
    let v := (s.noteRelayed rx.port.val h b).relay rx.port.val h none (.rowStart b) true
    s.rsRelay rx h b .drop .good = s ∧ s.rsRelay rx h b .drop .bad = s ∧ s.rsRelay rx h b .use .bad = s.endBad rx.port.val f ∧
    s.rsRelay rx h b .spoil .good = s.relayBad rx.port.val f ∧
    s.rsRelay rx h b .use .good = (if v.connected then v.rsMachine (v.rxStamp rx) h b else v)) ∧
  (∀ s : State, s.dieUp 0 = true → s.run = true → s.needle = false → s.cs = csMember →
    (3 ≤ s.sc.rsMiss → exec .rowStartLoss s = .next s.loseRows) ∧
    (s.sc.rsMiss = 2 → s.rdB (sch 0 SCH_STAT) 13 = false → exec .rowStartLoss s = .next (s.count (sch 0 SCH_CNT_RS_MISS)).loseRows)) ∧
  (∀ s : State, s.dieUp 0 = true → s.run = true → s.needle = true → s.row.toNat % 2 ^ s.rdF (sch 0 SCH_CS_CFG) 16 4 = 0 →
    exec .needleAnnounce s = .next (s.inFirstGap 66 fun u => u.sendCs .needle (u.rd (sch 0 SCH_ROW_ST)) 0)) ∧
  (∀ (k : Nat) (s : State), s.dieUp 0 = true → s.run = true → s.sc.yieldLeft = some (max 1 (s.rdF (sch 0 SCH_CS_CFG) 20 4)) → s.sc.yieldSent = false →
    s.toGap 66 = some k → ∃ t, exec .needleYieldSend s = .next t ∧ t.sc.yieldSent = true ∧
      t.out = ((s.reachSt (s.st 0 + wordOf k)).sendCs .yield 0 s.sc.winner).out) ∧
  (∀ s : State, s.dieUp 0 = true → s.needle = true → s.sc.yieldLeft = some 0 →
    ∃ t, exec .needleYieldEnd s = .next t ∧ t.needle = false ∧ t.cs = csResync ∧ t.sc.yieldLeft = none ∧ t.sc.winner = 0)

/-- A capable node in LISTEN at its timeout plans row 0 two rows ahead, is in COLD_WAIT, and sends INITIAL, counted, with its event;
if the conditions of R135 hold it sets CS_CFG_ERR and keeps listening. It repeats one row later, and at the planned ST becomes
the needle of row 0. A COLDSTART of another node that comes whole is relayed, and at a node that takes part in rows given to the
state machine: LISTEN follows it, COLD_WAIT and SETTLE follow the lower UID with YIELD, COLD_WAIT with the lower UID sends
RESTART and plans row 0 one row ahead, SETTLE with the lower UID goes on. The node's own is stripped and counted. FOLLOW without
ROW_START for three rows sets its event and has lost rows, VERIFY without the next ROW_START returns to FOLLOW without rows, and
RESYNC after three rows has lost rows; a node in CAST-ON that has lost rows listens again. (R38, R133, R134, R135, R136, R138,
R139, R140, R143, R145, 05_cold_start_and_needle.md, log entry 31) -/
def Obligations.ColdStartStatesAndTransitions : Prop :=
  (∀ s : State, s.dieUp 0 = true → s.connected = true → s.cs = csListen → s.capable = true →
    let u := s.reachSt (s.sc.csSince + s.rd (sch 0 SCH_CS_TMO) * 1000)
    let v := (u.setCs csColdWait).csMark
    let plan := u.st 0 + wordOf (2 * u.csLenNs)
    (u.csUnfit = true → exec .listenTimeout s = .next (u.raise (sch 0 0) 22).csMark) ∧
    (u.csUnfit = false → exec .listenTimeout s =
      .next (((({ v with sc := { v.sc with planned := plan } } : State).sendCs .initial plan 0).raise (sch 0 0) 16).csCount 0))) ∧
  (∀ (rx : Rx) (h : Hdr) (b : ColdStart) (a : Arrival) (s t : State), s.takeSl rx h 0x02 = (t, a) → a ≠ .none →
    let u := t.relay rx.port.val h none (.coldStart b) (b.kind == .initial || b.kind == .repeat || b.kind == .restart)
    (b.uid = t.uid → exec (.coldstartRx rx h b) s = .next (t.count (rng (rx.port.val / 32) RNG_CNT_STRIP))) ∧
    (b.uid ≠ t.uid → a = .good → exec (.coldstartRx rx h b) s = .next (if u.connected then u.csMachine b else u)) ∧
    (b.uid ≠ t.uid → a = .bad → exec (.coldstartRx rx h b) s = .next (t.endBad rx.port.val (.sl h none (.coldStart b))))) ∧
  (∀ (b : ColdStart) (s : State), b.kind ≠ .needle →
    (s.cs = csListen → s.csMachine b = s.follow b.uid) ∧
    (s.cs = csColdWait ∨ s.cs = csSettle → b.uid.toNat < s.uid.toNat → s.csMachine b = ((s.csYield).setPeer b.uid).follow b.uid) ∧
    (s.cs = csColdWait → s.uid.toNat ≤ b.uid.toNat → s.csMachine b = s.csWin b.uid) ∧
    (s.cs = csSettle → s.uid.toNat ≤ b.uid.toNat → s.csMachine b = s) ∧
    (∀ u : Uid, (s.follow u).cs = csFollow ∧ (s.follow u).ndlUid = u) ∧
    (∀ u : Uid, (s.csWin u).sc.planned = s.st 0 + wordOf s.csLenNs ∧ (s.csWin u).cs = csSettle ∧ (s.csWin u).rdB (sch 0 PG_EVT) 17 = true) ∧
    s.csYield.rdB (sch 0 PG_EVT) 18 = true) ∧
  (∀ s : State, s.dieUp 0 = true → s.connected = true → s.cs = csColdWait →
    exec .coldstartRepeat s = .next ((s.reachSt (s.sc.csSince + wordOf s.csLenNs)).sendCs .repeat s.sc.planned 0)) ∧
  (∀ s : State, s.dieUp 0 = true → s.connected = true → s.cs = csColdWait ∨ s.cs = csSettle → exec .needleStart s = .next (s.reachSt s.sc.planned).startRows) ∧
  (∀ s : State, s.startRows.row = 0 ∧ s.startRows.rd (sch 0 SCH_ROW_ST) = s.sc.planned ∧ s.startRows.needle = true ∧ s.startRows.run = true ∧
    s.startRows.cs = csNeedle ∧ s.startRows.rdB (sch 0 PG_EVT) 20 = true) ∧
  (∀ s : State, s.dieUp 0 = true → s.connected = true → s.cs = csFollow →
    exec .followTimeout s = .next ((s.reachSt (s.sc.csSince + wordOf (3 * s.sc.followNs))).raise (sch 0 0) 23).loseRows) ∧
  (∀ s : State, s.dieUp 0 = true → s.connected = true → s.cs = csVerify → ∃ t, exec .verifyTimeout s = .next t ∧ t.cs = csFollow ∧ t.run = false ∧ t.needle = false) ∧
  (∀ s : State, s.dieUp 0 = true → s.connected = true → s.cs = csResync →
    exec .resyncTimeout s = .next (s.reachSt (s.sc.csSince + wordOf (3 * s.rowLen))).loseRows) ∧
  (∀ s : State, s.mode = .castOn → s.loseRows.cs = csListen ∧ s.loseRows.run = false ∧ s.loseRows.mode = .castOn)

/-- A marker of the active profile is applied at its instant, once in its row, while rows run and no adoption has passed it; the row
clock reaches that instant, and one late by more than 8 ns sets MRK_LATE. The output latch drives the GPIO outputs with their
next values and starts the STM pulses asked for, unless outputs are held or the node is in STANDBY, then come the field outputs,
then the row's telegrams, and its event; the input sample takes the pins with the STM edges since the last one, then the field
inputs, and its event. A pulse falls once it has lasted its width. An STM edge is remembered and the other pins keep theirs; the
direction is written; a next output value is stored, and driven at once while rows do not run. (R101, R114, R128, R129, R130,
R131, R146, R168, R264, R320, 04_rows_and_stitches.md, log entry 30) -/
def Obligations.MarkersLatchOutputsAndSampleInputs : Prop :=
  (∀ (s : State) (st : Word), s.markerSt 0 = some st → s.dieUp 0 = true → s.run = true → s.sc.marks.getLsbD 0 = false →
    (∀ a, s.sc.adoptSt = some a → stLater a st = false) →
    let t := if stLater (s.st 0) (st + 8) then (s.reachSt st).raise (sch 0 0) 15 else s.reachSt st
    let u : State := { t with sc := { t.sc with marks := t.sc.marks ||| 1 } }
    exec .outputLatch s = .next (u.latchPins.fldLatch.trdpRow.raise (sch 0 0) 13)) ∧
  (∀ (gpio : Word) (stm : Byte) (s : State) (st : Word), s.markerSt 1 = some st → s.dieUp 0 = true → s.run = true →
    s.sc.marks.getLsbD 1 = false → (∀ a, s.sc.adoptSt = some a → stLater a st = false) →
    let t := if stLater (s.st 0) (st + 8) then (s.reachSt st).raise (sch 0 0) 15 else s.reachSt st
    let u : State := { t with sc := { t.sc with marks := t.sc.marks ||| 2 } }
    exec (.inputSample gpio stm) s = .next ((u.samplePins gpio stm).fldSample.raise (sch 0 0) 14)) ∧
  (∀ (gpio : Word) (stm : Byte) (s : State) (st : Word), s.markerSt 0 = some st → s.markerSt 1 = some st →
    (s.sc.marks = 3 ∨ (∃ a, s.sc.adoptSt = some a ∧ stLater a st = true) → exec .outputLatch s = .next s ∧ exec (.inputSample gpio stm) s = .next s)) ∧
  (∀ s : State, s.drives = (!s.sc.hold && s.mode != .standby) ∧
    (s.drives = true → s.latchPins.rd (sch 0 SCH_GPIO_OUT) = s.rd (sch 0 SCH_GPIO_OUT_NEXT) ∧ s.latchPins.rdF (sch 0 SCH_STM_OUT_NEXT) 0 8 = 0 ∧
      (∀ n, n < 8 → (s.rdB (sch 0 SCH_STM_OUT_NEXT) n || s.rdB (sch 0 SCH_STM_CFG) (16 + n)) = true → s.latchPins.sc.stmOut.getLsbD n = true)) ∧
    (s.drives = false → s.latchPins = s)) ∧
  (∀ (gpio : Word) (stm : Byte) (s : State), (s.samplePins gpio stm).rd (sch 0 SCH_GPIO_IN) = gpio ∧
    (s.samplePins gpio stm).rdF (sch 0 SCH_STM_IN) 0 8 = stm.toNat ∧ (s.samplePins gpio stm).rdF (sch 0 SCH_STM_IN) 8 8 = s.sc.stmEdges.toNat ∧
    (s.samplePins gpio stm).sc.stmEdges = 0) ∧
  (∀ (n : Fin 8) (s : State), s.sc.stmOut.getLsbD n.val = true → ∃ t, exec (.stmPulseEnd n) s = .next t ∧ t.sc.stmOut.getLsbD n.val = false ∧
    t.out = .stm n.val false :: (s.expire (stmTmr n.val)).out) ∧
  (∀ (n : Fin 8) (s : State), s.dieUp 0 = true → ∃ t, exec (.stmInEdge n) s = .next t ∧ t.sc.stmEdges.getLsbD n.val = true ∧
    (∀ k, k ≠ n.val → t.sc.stmEdges.getLsbD k = s.sc.stmEdges.getLsbD k)) ∧
  (∀ (v : Word) (s : State), s.takes (sch 0 SCH_GPIO_DIR) = true → ∃ t, exec (.gpioDirWrite v) s = .next t ∧ t.rd (sch 0 SCH_GPIO_DIR) = v) ∧
  (∀ (v : Word) (s : State), s.takes (sch 0 SCH_GPIO_OUT_NEXT) = true → ∃ t, exec (.gpioOutNextWrite v) s = .next t ∧
    t.rd (sch 0 SCH_GPIO_OUT_NEXT) = v ∧ t.rd (sch 0 SCH_GPIO_OUT) = (if s.run then s.rd (sch 0 SCH_GPIO_OUT) else v))

/-- A write of the schedule tables that is taken goes to the window or register it addresses. One to a slot that a bank maps is
discarded with SLOT_BUSY, one to a slot that none maps is made and clears its VALID; a map or an overlay of the active bank is
not written, with SLOT_BUSY. GO starts the check of a slot, and is discarded while one runs; at its end the checked slot's VALID
and the verdict show, BUSY clears and the event is set. A swap request by the needle for a mapped profile is pending and
announced for its row, replacing one that waits, and for a row that has begun it is announced for the next row with SWAP_LATE;
otherwise it is rejected with its event and announces nothing. (R104, R105, R106, R112, R132, R225, R535,
04_rows_and_stitches.md, log entry 29) -/
def Obligations.SlotsCheckedAndSchedulesSwapped : Prop :=
  (∀ (a : Nat) (v : Word) (d o : Nat) (s : State), schWinOf a = some (d, o) → s.takes a = true →
    exec (.scheduleTableWrite a v) s = .next ((s.access a).schWinWrite d o v)) ∧
  (∀ (a : Nat) (v : Word) (s : State), schWinOf a = none → schTableReg a = true → s.takes a = true →
    exec (.scheduleTableWrite a v) s = .next ((s.access a).schRegWrite (a % 0x1000) v)) ∧
  (∀ (sl : Nat) (f : State → State) (s : State), (s.slotMapped sl = true → s.slotWrite sl f = s.raise (sch 0 0) 10) ∧
    (s.slotMapped sl = false → s.slotWrite sl f = (f s).wrSchB (SCH_SLOT_STAT sl) 0 false ∧ (sl < 8 → (s.slotWrite sl f).rdB (sch 0 (SCH_SLOT_STAT sl)) 0 = false))) ∧
  (∀ (a : Nat) (v : Word) (s : State), s.mapWrite s.actBank v = s.raise (sch 0 0) 10 ∧ s.overlayWrite s.actBank a v = s.raise (sch 0 0) 10) ∧
  (∀ (sl : Fin 8) (s : State), s.takes (sch 0 SCH_CHK) = true → s.rdB (sch 0 SCH_CHK_STAT) 31 = false →
    ∃ t, exec (.slotCheck sl) s = .next t ∧ t.rdB (sch 0 SCH_CHK_STAT) 31 = true ∧ t.rdF (sch 0 SCH_CHK) 0 3 = sl.val ∧ t.sc.chkSlot = sl.val) ∧
  (∀ (sl : Fin 8) (s : State), s.takes (sch 0 SCH_CHK) = true → s.rdB (sch 0 SCH_CHK_STAT) 31 = true →
    exec (.slotCheck sl) s = .next (s.access (sch 0 SCH_CHK))) ∧
  (∀ s : State, s.dieUp 0 = true → s.rdB (sch 0 SCH_CHK_STAT) 31 = true → s.sc.chkSlot < 8 →
    let sl := s.sc.chkSlot
    ∃ t, exec .slotCheckDone s = .next t ∧ t.rdB (sch 0 SCH_CHK_STAT) 31 = false ∧ t.rdB (sch 0 PG_EVT) 12 = true ∧
      (t.rdB (sch 0 (SCH_SLOT_STAT sl)) 0 = true ↔ (s.checkSlot sl).1 = 0) ∧ t.rdF (sch 0 SCH_CHK_STAT) 0 8 = (s.checkSlot sl).1) ∧
  (∀ (p : Fin 8) (s : State), s.takes (sch 0 SCH_SWAP) = true → exec (.swapRequest p) s = .next ((s.access (sch 0 SCH_SWAP)).swapRequest p.val)) ∧
  (∀ (p : Nat) (s : State), p < 8 →
    ((s.needle = false ∨ s.slotOf s.actBank p = none) → (s.swapRequest p).rdB (sch 0 PG_EVT) 3 = true ∧ (s.swapRequest p).rdB (sch 0 SCH_SWAP) 31 = false ∧
      (s.swapRequest p).sc.swapRow = s.sc.swapRow) ∧
    (s.needle = true → s.slotOf s.actBank p ≠ none →
      (s.swapRequest p).rdB (sch 0 SCH_SWAP) 31 = true ∧ (s.swapRequest p).rdF (sch 0 SCH_STAT) 4 3 = p ∧ (s.swapRequest p).rdB (sch 0 SCH_STAT) 7 = true ∧
      (1 ≤ (s.rd (sch 0 SCH_SWAP_ROW) - s.row).toInt → (s.swapRequest p).sc.swapRow = s.rd (sch 0 SCH_SWAP_ROW)) ∧
      ((s.rd (sch 0 SCH_SWAP_ROW) - s.row).toInt < 1 → (s.swapRequest p).sc.swapRow = s.row + 1 ∧ (s.swapRequest p).rdB (sch 0 PG_EVT) 1 = true)))

/-- A frame on a consist port that works is counted at its MAC; a MAC control frame is consumed, one at a shut ingress is dropped
and counted FENCED, and any other is judged by the guard and enters forwarding if it passes. A best-effort frame on a consist
port comes through the guard in the same way, on a backbone port through the port's own checks, and then enters forwarding. The
policer fills the bucket and passes a frame for which it holds enough, taking its length where the rate is limited; it passes
none longer than the bucket holds, and none longer than the burst. FENCE fences the port, with FENCE_ST and the event where it
was not fenced, and sets SW_FENCE; UNFENCE lifts, with FENCES and LATCHED cleared; CLR_HIST clears the history; and the end of
the holdoff lifts a fence that software did not set and that is not latched. Lifting clears the history and sets its event.
(R149, R150, R152, R153, R154, R155, R156, R157, R164, R287, 06_consist_star.md, log entry 33) -/
def Obligations.GuardsPoliceAndFencePorts : Prop :=
  (∀ (rx : Rx) (e : Eth) (k : ConsistKind) (s t : State), hasGuard s.part rx.port.val = true → s.portOn rx.port.val = true →
    (s.macRx rx e = (t, false) → exec (.consistFrameRx rx e k) s = .next t) ∧
    (s.macRx rx e = (t, true) →
      (t.kindOf e k = .macControl → exec (.consistFrameRx rx e k) s = .next (t.pst rx.port.val 9)) ∧
      (t.kindOf e k ≠ .macControl → t.ingressShut rx = true →
        exec (.consistFrameRx rx e k) s = .next ((t.count (prt rx.port.val PRT_GRD_CNT_FENCED)).pst rx.port.val 18)) ∧
      (t.kindOf e k ≠ .macControl → t.ingressShut rx = false →
        exec (.consistFrameRx rx e k) s = .next (if (t.judge rx e (t.kindOf e k)).2 then (t.judge rx e (t.kindOf e k)).1.beIngress rx e
          else (t.judge rx e (t.kindOf e k)).1)))) ∧
  (∀ (rx : Rx) (e : Eth) (s t : State),
    let free := (match portSa s.part rx.port.val with | some (d, m) => s.secExempt d m (.eth e) | none => true)
    (isBackbone s.part rx.port.val = false → exec (.beFrameRx rx e) s = exec (.consistFrameRx rx e .other) s) ∧
    (isBackbone s.part rx.port.val = true → e.etype ≠ 0x8808 → s.takeRx rx free = (t, .good) →
      exec (.beFrameRx rx e) s = .next ((t.pst rx.port.val (2 + (Frame.eth e).cast)).beIngress rx e))) ∧
  (∀ (p n end0 sid : Nat) (start cfg : Word) (s : State),
    let rate := polRate cfg (s.effAt start (prt p PRT_POL_RATE))
    let burst := fld (s.effAt start (prt p PRT_POL_BURST)) 0 20
    let t := s.fill p rate burst end0
    (n ≤ t.rdF (prt p PRT_POL_TOKENS) 0 20 → (s.police p n start end0 sid cfg).2 = true ∧
      (rate ≠ 0xFFFF → (s.police p n start end0 sid cfg).1.rdF (prt p PRT_POL_TOKENS) 0 20 = t.rdF (prt p PRT_POL_TOKENS) 0 20 - n)) ∧
    (t.rdF (prt p PRT_POL_TOKENS) 0 20 < n → (s.police p n start end0 sid cfg).2 = false) ∧
    (burst < n → (s.police p n start end0 sid cfg).2 = false)) ∧
  (∀ (p : Port) (s : State), s.takes (prt p.val PRT_GRD_CTRL) = true → hasGuard s.part p.val = true →
    (∃ t, exec (.grdFence p) s = .next t ∧ t.fenced p.val = true ∧ t.rdB (prt p.val PRT_GRD_STAT) 2 = true ∧
      (s.fenced p.val = false → t.rdB (prt p.val PG_EVT) 9 = true ∧ t.rd (prt p.val PRT_GRD_FENCE_ST) = s.st (p.val / 32))) ∧
    (∃ t, exec (.grdUnfence p) s = .next t ∧ t.fenced p.val = false ∧ t.rdF (prt p.val PRT_GRD_STAT) 8 8 = 0 ∧ t.rdB (prt p.val PRT_GRD_STAT) 1 = false ∧
      (s.fenced p.val = true → t.rdB (prt p.val PG_EVT) 10 = true ∧ t.rdF (prt p.val PRT_GRD_STAT) 16 7 = 0 ∧ (t.guard p.val).hist = [])) ∧
    (∃ t, exec (.grdClearHistory p) s = .next t ∧ t.rdF (prt p.val PRT_GRD_STAT) 16 7 = 0 ∧ (t.guard p.val).hist = [] ∧ t.fenced p.val = s.fenced p.val)) ∧
  (∀ (p : Port) (s : State), hasGuard s.part p.val = true → s.dieUp (p.val / 32) = true → s.rdF (prt p.val PRT_GRD_HOLDOFF) 0 24 ≠ 0 →
    s.rdB (prt p.val PRT_GRD_STAT) 1 = false → s.rdB (prt p.val PRT_GRD_STAT) 2 = false → s.fenced p.val = true →
    ∃ t, exec (.fenceHoldoffExpiry p) s = .next t ∧ t.fenced p.val = false ∧ (t.guard p.val).hist = [] ∧ t.rdB (prt p.val PG_EVT) 10 = true ∧
      (s.guard p.val).fencedAt + s.rdF (prt p.val PRT_GRD_HOLDOFF) 0 24 * 1000000 ≤ t.now)

/-- At stitch start + TXOFS an active, owned POLL of a serving node that does not mute, neither skipped nor passed by an adoption,
is offered once in its row to each port of its mask; a port whose link is down, or whose device entry is not enabled, sends
none. At B + S an active, owned REPLY window that is still open closes, one of the row before that reaches into this row first:
with the strand kept for it, which is committed, else, on a node with a port for it, as a miss with its counter and event. The
reason of a miss is fenced before not polled before a bad reply before no reply. (R117, R151, R158, R159, R160, R161, R162,
R243, 06_consist_star.md, log entry 34) -/
def Obligations.PollsSentAndReplyWindowsClosed : Prop :=
  (∀ (sid : Fin 4096) (sl : Nat) (e : Stitch) (s : State), s.actSlot = some sl → s.actEntry sid.val = some e → s.dieUp 0 = true → s.run = true →
    s.serves = true → e.kind = kPoll → s.ownNum (s.ownerNow sid.val e) = true → s.muted = false → s.mayServe sid.val e = true →
    (s.cn.polls.any fun q => q.row == s.row && q.sid == sid.val) = false →
    let u := s.reachSt (s.stitchSt e + wordOf (txofs s.actSelv))
    exec (.pollSend sid) s = .next (u.each (fun p v => v.pollPort sl sid.val e p) (u.maskPorts e))) ∧
  (∀ (sl sid p : Nat) (e : Stitch) (s : State), s.link p = false ∨ (s.tb (pollDev (p / 32) e.ident + 8)).getLsbD 0 = false → s.pollPort sl sid e p = s) ∧
  (∀ (sid : Fin 4096) (sl : Nat) (e : Stitch) (s : State), s.dieUp 0 = true → s.run = true → s.serves = true →
    (s.replyDue (s.row - 1) s.lastRow sid.val = none → s.replyDue s.row s.thisRow sid.val = some (sl, e) →
      exec (.replyCommit sid) s = .next ((s.reachSt (s.stitchSt e + wordOf (e.lenNs + s.selv sl))).closeReply s.row sl sid.val e)) ∧
    (s.replyDue (s.row - 1) s.lastRow sid.val = some (sl, e) →
      (stDiff (s.rd (sch 0 SCH_ROW_ST)) s.sc.prevRowSt).toNat < e.startNs + e.lenNs + s.selv sl →
      exec (.replyCommit sid) s = .next
        ((s.reachSt (s.sc.prevRowSt + wordOf (e.startNs + e.lenNs + s.selv sl))).closeReply (s.row - 1) sl sid.val e))) ∧
  (∀ (row : Word) (sl sid : Nat) (e : Stitch) (x : Strand) (q : ReplyGot) (s : State), q.strand = some x →
    (s.cn.replies.find? fun q => q.row == row && q.sid == sid && q.strand.isSome) = some q →
    s.closeReply row sl sid e = ({ s with cn := { s.cn with closed := s.cn.closed ++ [(row, sid)] } } : State).commitReply (q.port / 32) e.ident x) ∧
  (∀ (row : Word) (sl sid p : Nat) (ps : List Nat) (e : Stitch) (s : State), s.maskPorts e = p :: ps →
    (s.cn.replies.find? fun q => q.row == row && q.sid == sid && q.strand.isSome) = none →
    (s.closeReply row sl sid e).rdB (prt p PG_EVT) 11 = true ∧
    ((s.closeReply row sl sid e).rd (prt p PRT_POLL_CNT_MISS)).toNat = min 0xFFFFFFFF ((s.rd (prt p PRT_POLL_CNT_MISS)).toNat + 1)) ∧
  (∀ (row : Word) (sl sid : Nat) (e : Stitch) (s : State),
    let polled (i : Nat) : Bool := s.cn.polls.any fun q => q.row == row && q.sid == i
    let bad : Bool := s.cn.replies.any fun q => q.row == row && q.sid == sid
    ((s.maskPorts e).all (fun p => s.wasFenced p (e.lenNs + s.selv sl)) = true → s.replyReason row sl sid e = 3) ∧
    ((s.maskPorts e).all (fun p => s.wasFenced p (e.lenNs + s.selv sl)) = false →
      (∀ i, s.pollOf sl sid = some i → polled i = false → s.replyReason row sl sid e = 2) ∧
      (∀ i, s.pollOf sl sid = some i → polled i = true → s.replyReason row sl sid e = if bad then 4 else 1) ∧
      (s.pollOf sl sid = none → s.replyReason row sl sid e = if bad then 4 else 1)))

/-- A link that comes up shows with its speed and the port's weight, sets its event and starts verify where that is enabled; on a
backbone port an end side then detects a coupling. One that goes down shows so with its event, preemption ends and the
best-effort frame in flight is lost; a backbone port loses its neighbour and declares a line failure, unless one is already
declared. A port that may transmit, with no best-effort frame being sent, no turn that drops its queue and no scheduled frame on
it, sends the frame it picks if that ends in time, and holds it otherwise. A gate change reaches its instant, and a close
preempts where preemption is active. A running verify ends with preemption active, or failed with PRE_FAIL. PFC received for an
enabled priority of an uplink pauses the queue for its quanta and counts; elsewhere it is only consumed; the pause ends. (R39,
R150, R193, R195, R277, R279, R281, R283, R291, R303, R491, log entry 38) -/
def Obligations.LinksGatesAndTransmission : Prop :=
  (∀ (p : Port) (v : Fin 6) (s : State), s.portOn p.val = true → s.link p.val = false → ∃ u : State,
    exec (.portLinkUp p v) s = .next (if isBackbone u.part p.val then u.coupleDetect (portSide p.val) else u) ∧
    u.link p.val = true ∧ u.rdF (prt p.val PRT_LINK_STAT) 1 3 = v.val ∧ u.rdB (prt p.val PG_EVT) 0 = true ∧
    u.rd (weightReg p.val) = wordOf (rateWeight (speedRate v.val)) ∧
    (canPreempt s.part p.val = true → s.rdB (prt p.val PRT_PRE_CFG) 0 = true → s.rdB (prt p.val PRT_PRE_CFG) 1 = false →
      u.rdF (prt p.val PRT_PRE_STAT) 1 2 = 1)) ∧
  (∀ (p : Port) (s : State), s.dieUp (p.val / 32) = true → s.link p.val = true →
    (isBackbone s.part p.val = false → ∃ t, exec (.portLinkDown p) s = .next t ∧ t.link p.val = false ∧ t.rdB (prt p.val PG_EVT) 1 = true ∧
      t.preActive p.val = false ∧ (∀ x ∈ t.fw.sending, x.ent.port ≠ p.val)) ∧
    (isBackbone s.part p.val = true → ∃ u : State, exec (.portLinkDown p) s =
      .next (if (Assoc.get (u.loseNbr p.val).rg.failed p.val).isNone then (u.loseNbr p.val).declareFailure p.val else u.loseNbr p.val) ∧
      u.link p.val = false ∧ u.rdB (prt p.val PG_EVT) 1 = true ∧ (∀ x ∈ u.fw.sending, x.ent.port ≠ p.val))) ∧
  (∀ (p : Port) (e : QEnt) (u : State) (s : State), s.egressOn p.val = true → (isBackbone s.part p.val = false ∨ (s.reap p.val).turnAt p.val = .none) →
    ((s.reap p.val).fw.sending.find? fun x => x.ent.port == p.val) = none → (s.reap p.val).freeAt p.val (s.reap p.val).now = (s.reap p.val).now →
    ((s.reap p.val).pick p.val = (u, none) → exec (.egressTransmit p) s = .next u) ∧
    ((s.reap p.val).pick p.val = (u, some e) → exec (.egressTransmit p) s =
      .next (if u.endsInTime p.val e.cls e.len then u.startEnt e else u.holdEnt e))) ∧
  (∀ (p : Port) (c : Fin 8) (opens : Bool) (y : Int) (s : State), s.portOn p.val = true →
    s.nextGate p.val c.val (s.gatePos (p.val / 32)) opens = some y →
    let t := s.reachSt (s.st 0 + wordOf (y - s.gatePos (p.val / 32)).toNat)
    exec (.gateChange p c opens) s = .next ((if opens then t else t.preemptAt p.val c.val).evalGates p.val)) ∧
  (∀ (p : Port) (s : State), s.portOn p.val = true → s.rdF (prt p.val PRT_PRE_STAT) 1 2 = 1 →
    (∃ t, exec (.preemptVerifyDone p true) s = .next t ∧ t.rdB (prt p.val PRT_PRE_STAT) 0 = true) ∧
    (∃ t, exec (.preemptVerifyDone p false) s = .next t ∧ t.rdB (prt p.val PRT_PRE_STAT) 0 = false ∧ t.rdB (prt p.val PG_EVT) 12 = true)) ∧
  (∀ (p : Port) (q : Fin 8) (n : BitVec 16) (s : State), s.portOn p.val = true → ∃ u : State, u = s.macControl p.val 64 ∧
    (u.pfcOn p.val q.val = true → ∃ t, exec (.pfcRx p q n) s = .next t ∧ t.rdB (prt p.val PRT_PFC_STAT) (8 + q.val) = (n != 0) ∧
      (t.rd (prt p.val PRT_CNT_PFC_RX)).toNat = min 0xFFFFFFFF ((s.rd (prt p.val PRT_CNT_PFC_RX)).toNat + 1) ∧
      t.timer (pauseTmr p.val q.val) = some (s.now + s.quantaNs p.val n.toNat)) ∧
    (u.pfcOn p.val q.val = false → exec (.pfcRx p q n) s = .next u)) ∧
  (∀ (p : Port) (q : Fin 8) (s : State), s.portOn p.val = true → s.pausedCls p.val q.val = true →
    ∃ t, exec (.pfcPauseExpiry p q) s = .next t ∧ t.pausedCls p.val q.val = false ∧ (∀ x, s.timer (pauseTmr p.val q.val) = some x → x ≤ t.now))

/-- A reserve write that would bring the total above 16,384 cells is discarded with RSV_REJ; any other is stored, and takes effect
as R288 says. A frame without PFC first wakes the shared blocks; one that then passes the threshold with free cells enters its
queue, one that does not leaves the queues as they are and is dropped with its event. The threshold admits no frame that needs
more than the free cells, and never a queue of more than 8 times the cells left free. (R25, R284, R285, R286, R287, R288, R291,
R295, 11_forwarding_and_buffers.md, log entry 42) -/
def Obligations.FramesAdmittedByDynamicThreshold : Prop :=
  (∀ (a : Nat) (v : Word) (s : State), isReserve a = true → s.takes a = true →
    exec (.reserveWrite a v) s = .next ((s.access a).reserveWrite a v)) ∧
  (∀ (a : Nat) (v : Word) (s : State), let w := v &&& s.maskAt a
    (16384 < s.rsvSum (dieOf a) (fun x => if x = a then w else s.rd x) → s.reserveWrite a v = s.raise (buf (dieOf a) 0) 2) ∧
    (s.rsvSum (dieOf a) (fun x => if x = a then w else s.rd x) ≤ 16384 → s.reserveWrite a v = (s.deferWrite a w).evalBuf (dieOf a) ∧
      (s.deferWrite a w).rd a = w)) ∧
  (∀ (f : Nat) (e : QEnt) (s : State), e.pfc = none → let t := s.askShared (e.port / 32)
    t.rdB (cpm (e.port / 32) CPM_SHARED) 0 = false ∧
    (t.underThreshold e.port e.cls (cells e.len) f = true → 0 < f → cells e.len ≤ f ∧ s.takeIn f e = (t.enqueue e).evalPort e.port) ∧
    (t.underThreshold e.port e.cls (cells e.len) f = false →
      (s.takeIn f e).fw.queue = s.fw.queue ∧ (s.takeIn f e).rdB (prt e.port PG_EVT) 13 = true)) ∧
  (∀ (p q c f : Nat) (s : State), s.underThreshold p q c f = true → c ≤ f ∧ s.qCells p q + c ≤ 8 * (f - c))

/-- A host commit of a dataset with a HOST context sets BUSY and commits the back buffer, with its flip due 1 µs later; while BUSY,
or without such a context, it is discarded with COMMIT_REJ. A flip is made at its due instant, and a host's commit is then over.
Without rows the ages of a die count one tick after the last. A recovery context in use whose quiet rows, or rows of rogues
alone, have reached their number takes any copy and counts anew. A telegram that matches an entry with a context is committed if
its header, length and counter are right, and counted bad otherwise; one that matches none is left. Without rows a transmit
entry sends CYCLE ticks after its last telegram. A read of DSK_NTF_POP answers the die's oldest notification, 0 where there is
none, and removes it. (R244, R245, R246, R248, R260, R261, R262, R263, R264, R267, 10_datasets_and_skeins.md, log entry 35) -/
def Obligations.DatasetsCommitFlipAndAge : Prop :=
  (∀ (d : Sys2Proof.Die) (ds : BitVec 13) (s : State), s.takes (dsk (dieNum d) DSK_COMMIT) = true →
    let t := s.access (dsk (dieNum d) DSK_COMMIT)
    (∀ c, t.hostCtx (dieNum d) ds.toNat = some c → t.rdB (dsk (dieNum d) DSK_COMMIT_STAT) 0 = false →
      exec (.hostCommit d ds) s = .next ((t.wr (dsk (dieNum d) DSK_COMMIT_STAT) 1).commitBack (dieNum d) c)) ∧
    ((t.hostCtx (dieNum d) ds.toNat = none ∨ t.rdB (dsk (dieNum d) DSK_COMMIT_STAT) 0 = true) →
      exec (.hostCommit d ds) s = .next ((t.wrB (dsk (dieNum d) DSK_COMMIT_STAT) 1 true).raise (dsk (dieNum d) 0) 2))) ∧
  (∀ (d c : Nat) (s : State), (⟨d, c, none, s.st d + 1000⟩ : Flip) ∈ (s.commitBack d c).dk.flips) ∧
  (∀ (d : Sys2Proof.Die) (c : Fin 4096) (f : Flip) (s : State), (s.dk.flips.find? fun f => f.die == dieNum d && f.ctx == c.val) = some f →
    s.dieUp (dieNum d) = true → let u := (s.reachOn (dieNum d) f.due).doFlip f
    exec (.bufferFlip d c) s = .next (if u.ctxSrc f.die f.ctx == 0 && f.null.isNone then u.wrB (dsk f.die DSK_COMMIT_STAT) 0 false else u)) ∧
  (∀ (d : Sys2Proof.Die) (s : State), s.dieUp (dieNum d) = true → s.run = false →
    let k := tmr (dsk (dieNum d) DSK_CMP_TICK) 0
    exec (.cmpAgeTick d) s = .next (((s.reachFrom k (s.cmpTick (dieNum d))).ageDie (dieNum d)).mark k)) ∧
  (∀ (d : Sys2Proof.Die) (c : Fin 1024) (b : Bool) (s : State), s.dieUp (dieNum d) = true → s.run = true → s.cmpMode = false →
    bit (s.tw (recWord (dieNum d) c.val 0)) 15 = true → s.frerDue (dieNum d) c.val b = true →
    ∃ t, exec (.frerTimeout d c b) s = .next t ∧ s.twF (recWord (dieNum d) c.val 1) 0 16 = t.twF (recWord (dieNum d) c.val 1) 0 16 ∧
      bit (t.tw (recWord (dieNum d) c.val 1)) 16 = true ∧ t.rdB (dsk (dieNum d) PG_EVT) 4 = true ∧
      (t.recInfo (dieNum d) c.val).quiet = 0 ∧ (t.recInfo (dieNum d) c.val).rogues = 0) ∧
  (∀ (d : Sys2Proof.Die) (x : Trdp) (i c : Nat) (s : State), s.trdpOn (dieNum d) = true →
    (s.trdpMatch (dieNum d) x = none → exec (.trdpRx d x) s = .next s) ∧
    (s.trdpMatch (dieNum d) x = some i → s.trdpCtx (dieNum d) i = some c →
      exec (.trdpRx d x) s = .next (if x.headerOk && x.data.length == s.ctxLen (dieNum d) c &&
          (!bit (s.tw (trdpWord (dieNum d) i 1)) 15 || x.etbTopo == 0 || x.etbTopo == s.topoCtr)
        then s.trdpCommit (dieNum d) c x else (s.count (dsk (dieNum d) DSK_CNT_TRDP_BAD)).raise (dsk (dieNum d) 0) 6))) ∧
  (∀ (d : Sys2Proof.Die) (i : Fin 4096) (s : State), s.run = false → s.mode ≠ .standby → s.trdpTx (dieNum d) i.val = true →
    let k := tmr (trdpWord (dieNum d) i.val 5) 0
    exec (.trdpCycleSend d i) s =
      .next (((s.reachFrom k (s.twF (trdpWord (dieNum d) i.val 5) 0 16 * s.cmpTick (dieNum d))).trdpSend (dieNum d) i.val).mark k)) ∧
  (∀ (d : Sys2Proof.Die) (s : State), s.reach (dsk (dieNum d) DSK_NTF_POP) = true → ∃ t, exec (.ntfPop d) s = .next t ∧
    t.out = .read .pcie (dsk (dieNum d) DSK_NTF_POP) (match s.dk.ntf.find? (·.1 == dieNum d) with | some e => e.2 | none => 0) :: s.out ∧
    (t.dk.ntf.filter (·.1 == dieNum d)) = (s.dk.ntf.filter (·.1 == dieNum d)).tail)

/-- Enabling an interface writes its bit; an interface that starts runs if its configuration passes, and sets CFG_ERR and does not
run otherwise. An administrator sends a due master frame at its instant, on the lines in use, with the entry's F-code and
address. It answers its own master frame for its device status or for one of its source ports; a device answers another master's
in the same way, and the device that hears one is no longer without a master. A slave frame that it may take is taken from the
lines that delivered it well; bad on the lines that delivered one, it fails; where no line in use delivered any, nothing
happens. No reply in time to a master frame for another device fails at the end of the timeout. A device that hears no master
frame for 3 × BP reports NO_MASTER once. Without rows the basic period counts modulo the macro period at its end, commits the
interface's staged inputs, and releases its messages. (R168, R170, R171, R172, R173, R174, R175, R182, R184, 07_field_buses.md,
log entry 63) -/
def Obligations.MvbInterfacesSendAndTakeFrames : Prop :=
  (∀ (n : Fin 2) (s : State), s.takes (fldp FLD_CTRL) = true → let t := s.access (fldp FLD_CTRL)
    exec (.mvbEnable n) s = .next (t.fldCtrl (setBit (t.rd (fldp FLD_CTRL)) n.val true))) ∧
  (∀ (n : Fin 2) (s : State), s.fldOn = true →
    let u := (((s.setMvb n.val Mvb.init).wrB (fldp (FLD_MVB_STAT n.val)) 0 true).arm (quietTmr n.val) (3 * s.mvbBp n.val)).arm (periodTmr n.val) (s.mvbBp n.val)
    (u.mvbCheck n.val = none → (s.mvbStart n.val).rdB (fldp (FLD_MVB_STAT n.val)) 0 = true ∧ (s.mvbStart n.val).rdB (fldp (FLD_MVB_STAT n.val)) 4 = false) ∧
    (u.mvbCheck n.val ≠ none → (s.mvbStart n.val).rdB (fldp (FLD_MVB_STAT n.val)) 0 = false ∧ (s.mvbStart n.val).rdB (fldp (FLD_MVB_STAT n.val)) 4 = true)) ∧
  (∀ (n : Fin 2) (i : Fin 4096) (at0 : Nat) (s : State), s.mvbRun n.val = true → s.mvbAdmin n.val = true → s.mode ≠ .standby →
    s.twF (mvbWord n.val i.val 0) 31 1 = 1 → s.run = true → s.mvbDue n.val i.val = some at0 →
    exec (.mvbMasterFrameSend n i) s = .next ((s.reachSt (s.rd (sch 0 SCH_ROW_ST) + wordOf at0)).mvbMaster n.val i.val)) ∧
  (∀ (n i : Nat) (s : State), (s.mvbLineEn n 0 || s.mvbLineEn n 1) = true →
    (s.mvbMaster n i).out = .mvbMaster n (s.mvbLineEn n 0) (s.mvbLineEn n 1) (s.twF (mvbWord n i 0) 12 4) (s.twF (mvbWord n i 0) 0 12) :: s.out) ∧
  (∀ (n : Fin 2) (f : Fin 16) (a : Fin 4096) (s : State), s.mvbRun n.val = true → s.mode ≠ .standby → s.mvbOwn n.val f.val a.val = true →
    (s.mvbAdmin n.val = true → (s.mvb n.val).awaited = some (f.val, a.val) →
      exec (.mvbSlaveFrameSend n f a) s = .next ((s.setMvb n.val { s.mvb n.val with awaited := none }).mvbSlave n.val f.val a.val)) ∧
    (s.mvbAdmin n.val = false → exec (.mvbSlaveFrameSend n f a) s =
      .next (((s.setMvb n.val { s.mvb n.val with answering := true }).arm (quietTmr n.val) (3 * s.mvbBp n.val)).mvbSlave n.val f.val a.val))) ∧
  (∀ (n : Fin 2) (f : Fin 16) (a : Fin 4096) (x y : MvbLine) (l : List Byte) (s : State), s.mvbRun n.val = true → s.mvbAwaits n.val f.val a.val = true →
    let ga := s.mvbLineEn n.val 0 && x == .good
    let gb := s.mvbLineEn n.val 1 && y == .good
    let ba := s.mvbLineEn n.val 0 && x == .bad
    let bb := s.mvbLineEn n.val 1 && y == .bad
    exec (.mvbFrameRx n f a x y l) s = .next (if ga || gb then s.mvbTake n.val f.val a.val ga gb l
      else if ba || bb then s.mvbFail n.val f.val a.val ba bb else s)) ∧
  (∀ (n : Fin 2) (f : Nat) (a : Fin 4096) (ba bb : Bool) (s : State), s.mvbRun n.val = true → s.mvbAdmin n.val = true → s.mode ≠ .standby →
    (s.mvb n.val).awaited = some (f, a.val) → s.mvbOwn n.val f a.val = false →
    exec (.mvbReplyTimeout n a ba bb) s =
      .next ((s.expire (rtoTmr n.val)).mvbFail n.val f a.val (ba && s.mvbLineEn n.val 0) (bb && s.mvbLineEn n.val 1))) ∧
  (∀ (n : Fin 2) (s : State), s.mvbRun n.val = true → s.mvbAdmin n.val = false → (s.mvb n.val).answering = true →
    exec (.mvbNoMaster n) s =
      .next (((s.expire (quietTmr n.val)).setMvb n.val { s.mvb n.val with answering := false }).fldReport 0x05 n.val noDs 0 false)) ∧
  (∀ (n : Fin 2) (s : State), s.mvbRun n.val = true → s.run = false →
    let k := ((s.mvb n.val).periods + 1) % 2 ^ s.mvbMacro n.val
    let u := (s.expire (periodTmr n.val)).arm (periodTmr n.val) (s.mvbBp n.val)
    exec (.mvbBasicPeriodEnd n) s =
      .next (((u.setMvb n.val { u.mvb n.val with periods := k, tail := false }).fldCommit (· == n.val)).fldRelease (· == n.val)))

/-- Enabling a controller writes its bit; one that was disabled starts error active where the block runs. An own, active FIELD
stitch requests its mailboxes, on every controller that is enabled and may be asked, at its start; a request is remembered. A
controller that may send gives the pending mailbox that it offers to its transmitter with the staged data and removes the
request. A frame of a permitted form is staged by the first mailbox that takes it if its length is right, reported otherwise,
and counted as dropped where none takes it; one of another form changes nothing. Error states show with both counters, entering
error passive and bus-off are reported, and with AUTO_REC a controller is error active again at the end of its wait after
bus-off, and says so. A read of FLD_MSG_W0 by an agent that may answers the oldest message's word 0, removes it, and shows its
words 1 to 3 in the registers; with no message it answers 0. (R177, R178, R179, R180, R181, R183, R184, 07_field_buses.md, log
entry 63) -/
def Obligations.CanControllersSendAndReceive : Prop :=
  (∀ (c : Fin 4) (s : State), s.takes (fldp FLD_CTRL) = true → let t := s.access (fldp FLD_CTRL)
    exec (.canEnable c) s = .next (t.fldCtrl (setBit (t.rd (fldp FLD_CTRL)) (2 + c.val) true))) ∧
  (∀ (c : Fin 4) (s : State), s.takes (fldp FLD_CTRL) = true → s.fldEn (2 + c.val) = false →
    ∃ t, exec (.canEnable c) s = .next t ∧ t.rdF (fldp (FLD_CAN_STAT c.val)) 0 2 = 0 ∧ t.fldEn (2 + c.val) = true) ∧
  (∀ (sid : Fin 4096) (e : Stitch) (s : State), s.actEntry sid.val = some e → s.run = true → e.kind = kField →
    s.ownNum (s.ownerNow sid.val e) = true → s.wasActive s.row s.thisRow sid.val e = true →
    exec (.canFieldTrigger sid) s = .next ((s.reachSt (s.stitchSt e)).each (fun c u => u.each (fun m v => v.canRequest c m)
      ((u.boxes c true).filter fun m => u.twF (boxWord c m 2) 20 2 == 1 && u.twF (boxWord c m 2) 0 13 == e.ident)) ((List.range 4).filter s.canAsks))) ∧
  (∀ (c m : Nat) (s : State), (c, m) ∈ (s.canRequest c m).fb.requests) ∧
  (∀ (c : Fin 4) (s : State), s.canSends c.val = true → exec (.canFrameTx c) s = .next (s.canSend c.val (s.canOffer c.val))) ∧
  (∀ (c m : Nat) (s : State), s.run = true → (s.canSend c (some m)).fb.requests = s.fb.requests.filter (· != (c, m)) ∧
    ∃ (fd brs ide : Bool) (id : Nat), (s.canSend c (some m)).out =
      .can c fd brs ide id (s.stagedData (s.twF (boxWord c m 2) 0 13) (s.boxLen c m)) :: s.out) ∧
  (∀ (c : Fin 4) (ide fdf brs : Bool) (cid : BitVec 29) (dlc : BitVec 4) (l : List Byte) (m : Nat) (s : State), s.canOn c.val = true →
    (s.canPermits c.val fdf brs = false → exec (.canFrameRx c ide fdf brs cid dlc l) s = .next s) ∧
    (s.canPermits c.val fdf brs = true →
      (s.canMatch c.val ide cid = none → exec (.canFrameRx c ide fdf brs cid dlc l) s = .next (s.count (fldp (FLD_CAN_CNT_RX_DROP c.val)))) ∧
      (s.canMatch c.val ide cid = some m → canLen fdf dlc.toNat = s.boxLen c.val m → l.length = canLen fdf dlc.toNat →
        exec (.canFrameRx c ide fdf brs cid dlc l) s = .next (s.canTake c.val m l)) ∧
      (s.canMatch c.val ide cid = some m → canLen fdf dlc.toNat ≠ s.boxLen c.val m → s.run = true →
        exec (.canFrameRx c ide fdf brs cid dlc l) s = .next (s.fldReport 0x12 (2 + c.val) (s.twF (boxWord c.val m 2) 0 13) dlc.toNat true)))) ∧
  (∀ (c : Fin 4) (st : CanState) (tec rec : Byte) (s : State), s.canOn c.val = true →
    (∃ t, exec (.canErrorStateChange c st tec rec) s = .next t ∧ t.rdF (fldp (FLD_CAN_STAT c.val)) 0 2 = Sys2Proof.Machine.CanState.code st ∧
      t.rdF (fldp (FLD_CAN_STAT c.val)) 8 8 = tec.toNat ∧ t.rdF (fldp (FLD_CAN_STAT c.val)) 16 8 = rec.toNat) ∧
    (s.rdF (fldp (FLD_CAN_STAT c.val)) 0 2 ≠ 1 → exec (.canErrorStateChange c .passive tec rec) s =
      .next ((s.wr (fldp (FLD_CAN_STAT c.val)) (wordOf (1 + tec.toNat * 2 ^ 8 + rec.toNat * 2 ^ 16))).fldReport 0x13 (2 + c.val) noDs
        (tec.toNat * 2 ^ 8 + rec.toNat) false)) ∧
    exec (.canErrorStateChange c .busOff tec rec) s =
      .next (((s.wr (fldp (FLD_CAN_STAT c.val)) (wordOf (2 + tec.toNat * 2 ^ 8 + rec.toNat * 2 ^ 16))).arm (busTmr c.val)
        (128 * 11 * s.canBit c.val)).fldReport 0x14 (2 + c.val) noDs tec.toNat false)) ∧
  (∀ (c : Fin 4) (s : State), s.fldOn = true → s.fldEn (2 + c.val) = true → s.rdF (fldp (FLD_CAN_STAT c.val)) 0 2 = 2 →
    s.rdB (fldp (FLD_CAN_CFG c.val)) 2 = true →
    exec (.canBusOn c) s = .next (((s.expire (busTmr c.val)).wr (fldp (FLD_CAN_STAT c.val)) 0).fldReport 0x15 (2 + c.val) noDs 0 false)) ∧
  (∀ (a : Agent) (s : State), s.dieUp 0 = true → s.agentMay a (fldp FLD_MSG_W0) = true →
    (s.fb.queue = [] → exec (.fldMsgPop a) s = .next (s.emit (.read a (fldp FLD_MSG_W0) 0))) ∧
    (∀ m l, s.fb.queue = m :: l → ∃ t, exec (.fldMsgPop a) s = .next t ∧ t.fb.queue = l ∧ t.rd (fldp FLD_MSG_W1) = m.st ∧
      t.rd (fldp FLD_MSG_W2) = m.row ∧ t.rd (fldp FLD_MSG_W3) = m.info ∧ t.out = .read a (fldp FLD_MSG_W0) m.w0 :: s.out))

/-- A port that takes part queues its HELLO in class 7 one HELLO interval after its last one, saying whether it hears a neighbour;
another one sends none. A HELLO of another node that comes whole enters the port's neighbour entry, and silence for the timeout
clears it, each with the neighbour changes that follow. A coupling sense that is enabled and stable on an end side is a coupling
detection at the end of its debounce; a coupling side that is an end side without any link is one no longer after a HELLO
timeout. The node's TOPOLOGY goes to its backbone ports one interval after its last one with its next sequence, and in AGREE
ends a round. A TOPOLOGY frame not seen before, of another node, counts as bad beyond 63 nodes or 32 consists, and is otherwise
recorded, taken as a change where its vector is new, and counts as a report of the round; one that is recorded leaves on the
other side of its line. (R186, R189, R190, R191, R192, R193, R195, R196, R197, R205, 08_topology_and_numbering.md, log entry 43) -/
def Obligations.NeighboursLearnedAndCoupled : Prop :=
  (∀ (p : Port) (s : State), s.ttdpPort p.val = true → exec (.helloSend p) s =
    .next (((s.reachFrom (helloMark p.val) s.helloIvl).mark (helloMark p.val)).queueTtdp p.val 128 (.hello s.uid (s.nbrUid p.val != 0)))) ∧
  (∀ (p n : Nat) (f : Frame) (s : State), (s.ttdpPort p = false → s.queueTtdp p n f = s) ∧
    (s.ttdpPort p = true → s.queueTtdp p n f = (s.takeIn (s.freeCells (p / 32))
      { id := s.fw.nextId, port := p, cls := 7, frame := f, len := n, pfc := none, hdrm := false, held := false }).newGroup)) ∧
  (∀ (p : Port) (s : State), s.ttdpPort p.val = false → exec (.helloSend p) s = .next s) ∧
  (∀ (rx : Rx) (u : Uid) (b : Bool) (s t : State), s.ttdpIn rx = (t, true) → u ≠ 0 → u ≠ t.uid →
    exec (.helloRx rx u b) s = .next ((t.mark (heardMark rx.port.val)).withNbr fun v =>
      ((v.setTuid (nbrAddr (portIdx v.part rx.port.val)) u).setTb (nbrAddr (portIdx v.part rx.port.val) + 8) (BitVec.ofNat 8 (b2n b))).setTw
        (nbrAddr (portIdx v.part rx.port.val) + 12) (v.st 0))) ∧
  (∀ (p : Port) (s : State), s.inaOn = true → isBackbone s.part p.val = true →
    exec (.helloTimeout p) s = .next ((s.reachFrom (heardMark p.val) s.helloTmo).withNbr fun t => t.clearWin (nbrAddr (portIdx t.part p.val)) 16)) ∧
  (∀ (sd : Side) (s : State), s.inaOn = true → s.rdB (ina INA_CPL) (sideNum sd) = true → s.endSide (sideNum sd) = true →
    s.rdB (ina INA_CFG) 0 = true → ∃ t, exec (.cplDebounceDone sd) s = .next t ∧ t.coupling (sideNum sd) = true ∧
      t.rdB (ina INA_STAT) 22 = true ∧ t.rdB (ina PG_EVT) 1 = true ∧ (∀ x, s.timer (tmr (ina INA_CPL) (sideNum sd)) = some x → x ≤ t.now)) ∧
  (∀ (sd : Side) (s : State), s.inaOn = true → s.coupling (sideNum sd) = true → s.endSide (sideNum sd) = true →
    (sidePorts s.part (sideNum sd)).all (fun p => !s.link p) = true →
    ∃ t, exec (.couplePendTimeout sd) s = .next t ∧ t.coupling (sideNum sd) = false ∧ t.coupling (1 - sideNum sd) = s.coupling (1 - sideNum sd) ∧
      (∀ x, s.timer (loneMark (sideNum sd)) = some x → x + s.helloTmo ≤ t.now)) ∧
  (∀ s : State, s.inaOn = true →
    let t := (s.reachFrom topoMark s.topoIvl).mark topoMark
    let u := t.each (fun p v => v.queueTtdp p 256 (.topology t.ownTopology)) (backbonePorts t.part)
    let v : State := { u with tp := { u.tp with seq := t.ownTopology.seq } }
    exec .topologySend s = .next (if v.inaSt = inaAgree then (v.roundEnd).evalAgree else v)) ∧
  (∀ s : State, s.ownTopology.seq = s.tp.seq + 1) ∧
  (∀ (rx : Rx) (f : Topology) (s t : State), s.ttdpIn rx = (t, true) → f.origin ≠ 0 → f.origin ≠ t.uid →
    (t.tp.relayed.contains (f.origin, f.seq) = true → exec (.topologyRx rx f) s = .next t) ∧
    (t.tp.relayed.contains (f.origin, f.seq) = false →
      (63 < f.nodes ∨ 32 < f.consists → exec (.topologyRx rx f) s = .next (t.countF (ina INA_CNT) 24 8)) ∧
      (f.nodes ≤ 63 → f.consists ≤ 32 → exec (.topologyRx rx f) s = .next
        (((if (Assoc.get t.tp.vecs f.origin).map topoVector = some (topoVector f) then t.recordTopology rx.port.val f
          else (t.recordTopology rx.port.val f).change).report f.origin f.counter).evalInhibit)))) ∧
  (∀ (p : Port) (f : Topology) (s : State), s.tp.toRelay.contains (p.val, f) = true →
    exec (.topologyRelay p f) s = .next (({ s with tp := { s.tp with toRelay := s.tp.toRelay.erase (p.val, f) } } : State).queueTtdp
      (acrossPort p.val) 256 (.topology f)))

/-- When the stable timer, counted from its start, expires in DISCOVER, the engine goes to AGREE with its rounds counted anew, or,
numbered with an inhibiting node, to INHIBITED with its event. A finished shadow shows SHADOW_RDY. COMMIT without an
announcement for COMMIT_TMO rows frogs; a frog leads to DISCOVER with FROG, one more frog in succession, and no announcement.
RESTART is taken as a change: from STABLE it leads to DISCOVER, in AGREE it frogs, in COMMIT it frogs at the needle, and waits
as CHG_PEND while FROZEN or at another node while rows run. Without rows the node commits alone BLK_LEAD ms after its agreement,
and its span ends at once. In the row before the blocking row the tables freeze. (R202, R203, R204, R205, R206, R208, R216,
08_topology_and_numbering.md, log entry 43) -/
def Obligations.InaugurationStatesAndTransitions : Prop :=
  (∀ s : State, s.inaOn = true → s.inaSt = inaDiscover →
    let u := s.reachFrom stableMark s.stableNs
    ((u.inhibitSeen = false ∨ u.num = 0) → ∃ t, exec .stableTimeout s = .next t ∧ t.inaSt = inaAgree ∧ t.tp.reports = [] ∧ t.tp.rounds = 0) ∧
    (u.inhibitSeen = true → u.num ≠ 0 → ∃ t, exec .stableTimeout s = .next t ∧ t.inaSt = inaInhibited ∧ t.rdB (ina INA_STAT) 7 = true ∧
      t.rdB (ina PG_EVT) 12 = true) ∧ u.inaSt = inaDiscover) ∧
  (∀ s : State, s.dieUp 0 = true → s.tp.writing = true → s.inaSt = inaCommit → s.shadowWhole = true →
    ∃ t, exec .shadowWriteDone s = .next t ∧ t.tp.writing = false ∧ t.tp.complete = true ∧ t.rdB (ina PG_EVT) 4 = true) ∧
  (∀ s : State, s.inaOn = true → s.inaSt = inaCommit → s.tp.announced = false → s.rdF (ina INA_BLK_CFG) 16 16 ≤ s.tp.commitRows →
    ∃ t, exec .commitTimeout s = .next t ∧ t.inaSt = inaDiscover ∧ t.rdB (ina PG_EVT) 7 = true ∧
      t.rdF (ina INA_STAT) 24 3 = min (s.rdF (ina INA_STAT) 24 3 + 1) 7 ∧ t.blockPend = false) ∧
  (∀ s : State, s.takes (ina INA_CTRL) = true → s.inaOn = true → exec .inaRestart s = .next (s.access (ina INA_CTRL)).change) ∧
  (∀ s : State, s.change.rdB (ina PG_EVT) 0 = true ∧
    (s.inaSt = inaStable → s.change.inaSt = inaDiscover) ∧
    (s.inaSt = inaAgree → s.change.inaSt = inaDiscover ∧ s.change.rdB (ina PG_EVT) 7 = true) ∧
    (s.inaSt = inaCommit → s.frozen = true → s.change.inaSt = inaCommit ∧ s.change.chgPend = true) ∧
    (s.inaSt = inaCommit → s.frozen = false → s.needle = true → s.change.inaSt = inaDiscover ∧ s.change.rdB (ina PG_EVT) 7 = true) ∧
    (s.inaSt = inaCommit → s.frozen = false → s.needle = false → s.cmpMode = false → s.run = true →
      s.change.inaSt = inaCommit ∧ s.change.chgPend = true)) ∧
  (∀ s : State, s.inaOn = true → s.cmpMode = true → s.inaSt = inaCommit → s.tp.complete = true →
    let t := s.reachFrom agreeMark (s.rdF (ina INA_BLK_CFG) 0 8 * 1000000)
    exec .localCommitTimer s = .next (let u := (t.blockNow t.row true).mvbRecheck t.actPrf t.actBank
      if u.rdB (sch 0 SCH_BLK_STAT) 1 then u.endSpan else u)) ∧
  (∀ s : State, s.blockPend = true → s.row + 1 = s.rd (ina INA_BLK_ROW) → s.freezeStep.frozen = true)

/-- In a claim row a node with a shadow number that lacks stitches, and has not claimed in this row, claims the first free spare
beyond those it lost, in the first active CLAIM stitch; the needle takes one claim of each sender. TRAIN_REQ on the needle
announces a blocking at least 2 rows ahead and is refused otherwise; elsewhere it does nothing. LOCAL_REQ is accepted while no
blocking is announced, the engine does not own the shadow and the shadow equals the active tables, and refused otherwise. A
taken table write goes to the word it addresses. A learned entry is removed as it reaches its age, and every one on FLUSH_LRN.
(R218, R225, R229, R230, R231, R233, R234, R237, 09_address_translation_and_blocking.md, log entry 26, log entry 32) -/
def Obligations.ClaimsGrantedAndBlockingsRequested : Prop :=
  (∀ (sid : Fin 4096) (k : Nat) (e : Stitch) (s : State), s.inaOn = true → s.run = true → s.claimRow = true → s.tp.claimed ≠ some s.row →
    s.rdF (ina INA_STAT) 16 6 ≠ 0 →
    s.shadowOwned < s.rdF (sch 0 SCH_YO_CFG) 0 4 → s.claimStitch = some sid.val → s.spareToClaim = some k → s.actEntry sid.val = some e →
    exec (.claimSend sid) s = .next (s.sendClaim sid.val k e)) ∧
  (∀ (rx : Rx) (h : Hdr) (b : Claim) (s t : State), s.takeStitch rx h 0x06 (fun t => b.uid == t.uid) none (.claim b) true = (t, true) →
    exec (.claimRx rx h b) s = .next (if t.needle && t.claimRow && t.tp.claims.all (·.1 != h.sender.toNat)
      then { t with tp := { t.tp with claims := t.tp.claims ++ [(h.sender.toNat, b.uid, b.spare.toNat)] } } else t)) ∧
  (∀ s : State, s.takes (sch 0 SCH_BLK_CTRL) = true → ∃ u : State, u = s.access (sch 0 SCH_BLK_CTRL) ∧
    exec .trainBlockingReq s = .next u.trainReq ∧ exec .localBlockingReq s = .next u.localReq) ∧
  (∀ s : State, (s.needle = false → s.trainReq = s) ∧
    (s.needle = true → (s.blockPend = true ∨ (s.rd (sch 0 SCH_BLK_ROW) - s.row).toInt < 2) → s.trainReq = s.raise (sch 0 0) 30) ∧
    (s.needle = true → s.blockPend = false → 2 ≤ (s.rd (sch 0 SCH_BLK_ROW) - s.row).toInt →
      s.trainReq.blockPend = true ∧ s.trainReq.rd (ina INA_BLK_ROW) = s.rd (sch 0 SCH_BLK_ROW) ∧ s.trainReq.rdB (ina PG_EVT) 5 = true)) ∧
  (∀ s : State, ((s.blockPend || s.shdOwned || !s.shadowSame) = true → s.localReq = s.raise (sch 0 0) 30) ∧
    ((s.blockPend || s.shdOwned || !s.shadowSame) = false → s.localReq.rdB (sch 0 SCH_BLK_STAT) 3 = true)) ∧
  (∀ (a : Nat) (v : Word) (s : State), 0x10000000 ≤ a → a < 0x20000000 → s.takes a = true →
    exec (.bankedTableWrite a v) s = .next ((s.access a).winWrite (a - a % 4) v)) ∧
  (∀ (d : Sys2Proof.Die) (i : Fin 65536) (s : State), s.dieUp (dieNum d) = true → bit (s.tw (dirWord (dieNum d) i.val 2)) 15 = true →
    let t := s.reachAt (s.ageEnd (dieNum d) i.val)
    exec (.dirAgeExpiry d i) s = .next (((t.clearWin (dirWord (dieNum d) i.val 0) 16).noteEnt (dieNum d) 1 i.val).evalTables (dieNum d)) ∧
    (t.clearWin (dirWord (dieNum d) i.val 0) 16).tw (dirWord (dieNum d) i.val 2) = 0) ∧
  (∀ s : State, s.takes (fwd 0 FWD_DIR_FLUSH) = true → exec .flushLearned s = .next (s.access (fwd 0 FWD_DIR_FLUSH)).flushAll)

/-- A working backbone port without lock or with a fault ordered set, whose failure is not declared, declares it at its instant;
with turns off that sets no turn. A line's loss of lock or fault ordered set shows in its status, a regained lock at a permitted
rate clears them with the rate and starts the restoration hold; a twin lane's loss of lock takes the lane down. A notice that is
due, new or in a later row, leaves in the first gap; a side without one sends none. One received for the first time is relayed
and taken, one seen before is dropped without a count, the node's own is stripped and counted, and one with a bad end is ended
as such. CLR_FAULT reads 1 until the next row boundary; the SPLIT bits are stored, and act at once while rows do not run. (R38,
R299, R303, R304, R306, R307, R308, R309, R311, R325, R342, log entry 45) -/
def Obligations.LineFailuresNoticedAndTurnsForced : Prop :=
  (∀ (p : Port) (s : State), isBackbone s.part p.val = true → s.portOn p.val = true → Assoc.get s.rg.failed p.val = none → s.lineBad p.val = true →
    exec (.lineFailure p) s = .next ((s.reachAt ((Assoc.get s.rg.due p.val).getD 0)).declareFailure p.val)) ∧
  (∀ (p : Nat) (s : State), s.rdB (rng (p / 32) RNG_CFG) 0 = false → ∀ k, (s.declareFailure p).sideCode k = s.sideCode k) ∧
  (∀ (p : Port) (l : LineLoss) (s : State), isBackbone s.part p.val = true → s.portOn p.val = true → ∃ t, exec (.blockLockLoss (.port p) l) s = .next t ∧
    (l = .lock → t.rdB (prt p.val PRT_LINE_STAT) 0 = false) ∧ (l = .localFault → t.rdB (prt p.val PRT_LINE_STAT) 2 = true) ∧
    (l = .remoteFault → t.rdB (prt p.val PRT_LINE_STAT) 3 = true ∧ t.rdB (rng (p.val / 32) PG_EVT) 5 = true)) ∧
  (∀ (n : Fin 2) (s : State), s.twinOn = true → exec (.blockLockLoss (.twin n) .lock) s = .next (s.laneDown n.val)) ∧
  (∀ (p : Port) (b : Bool) (s : State), isBackbone s.part p.val = true → s.portOn p.val = true → s.rateMay p.val b = true →
    exec (.lineLockRegained p b) s = .next (((s.lineUp p.val b).stopBursts (portSide p.val)).lockStarts (portLine s.part p.val)) ∧
    (s.lineUp p.val b).rdB (prt p.val PRT_LINE_STAT) 0 = true ∧ (s.lineUp p.val b).rdB (prt p.val PRT_LINE_STAT) 1 = b ∧
    (s.lineUp p.val b).rdF (prt p.val PRT_LINE_STAT) 2 2 = 0 ∧
    (s.lock p.val = false → Assoc.get (s.lineUp p.val b).rg.locked p.val = some (s.now + s.rstHold p.val))) ∧
  (∀ (sd : Side) (s : State), s.dieUp 0 = true → let u := s.endPairWait (sideNum sd)
    exec (.turnNoticeSend sd) s = .next (if u.rg.notices.any (fun n => n.side == sideNum sd && u.noticeDue n)
      then u.inFirstGap 64 fun w => w.sendNotice (sideNum sd) else u)) ∧
  (∀ (rx : Rx) (h : Hdr) (b : TurnNotice) (a : Arrival) (s t : State), s.takeSl rx h 0x07 = (t, a) → a ≠ .none →
    (b.uid = t.uid → exec (.turnNoticeRx rx h b) s = .next (t.count (rng (rx.port.val / 32) RNG_CNT_STRIP))) ∧
    (b.uid ≠ t.uid → t.rg.seen.contains (b.uid, b.seq) = true → exec (.turnNoticeRx rx h b) s = .next t) ∧
    (b.uid ≠ t.uid → t.rg.seen.contains (b.uid, b.seq) = false →
      (a = .good → exec (.turnNoticeRx rx h b) s = .next ((t.relay rx.port.val h none (.turnNotice b) false).takeNotice h b)) ∧
      (a = .bad → exec (.turnNoticeRx rx h b) s = .next (t.endBad rx.port.val (.sl h none (.turnNotice b)))))) ∧
  (∀ s : State, s.takes (rng 0 RNG_FORCE) = true → ∃ t, exec .forceClearFault s = .next t ∧ t.rdB (rng 0 RNG_FORCE) 8 = true) ∧
  (∀ s : State, s.turnBoundary.rdB (rng 0 RNG_FORCE) 8 = false) ∧
  (∀ (one two : Bool) (s : State), s.takes (rng 0 RNG_FORCE) = true → ∃ u : State, u.rdB (rng 0 RNG_FORCE) 0 = one ∧ u.rdB (rng 0 RNG_FORCE) 1 = two ∧
    exec (.forceSplit one two) s = .next (if u.run then u else (u.forceSide 0).forceSide 1))

/-- A lost heartbeat clears HB_OK 60 µs after the last edge, is counted and reported; one that was regained by eight edges sets it.
The token lines are read as R322's table; a stall of HB_OUT, an acknowledged drill and a lost claim release what the node
drives, which leaves it IDLE. An invalid pattern shows TOK_FAULT after its time and ends a claim. A claim waits D; at its end a
low line loses it and two high ones let the node drive TOK0. The node that acquires the token after its arbitration is LEAD with
both lines low and SYNC SYNCED, records instant and claim time, and a standby counts and reports its takeover, which the next
boundary makes RUNNING, leaving the cold-start state as it is. FORCE_TAKE claims a free token whatever SYNC; DRILL is taken only
on a lead with a synchronised, living partner. A claim that a serving node loses makes it STANDBY at the next boundary (the
model's choice of the instant, log entry 46). (R321, R322, R323, R324, R331, R332, R333, R338, R339, 13_twin_pairs.md, log entry
46) -/
def Obligations.TwinTokenClaimedHeldAndDropped : Prop :=
  (∀ s : State, s.twinOn = true → s.hbOk = true → let u := s.reachFrom hbMark 60000
    ∃ t, exec .heartbeatLost s = .next t ∧ t.now = u.now ∧ t.hbOk = false ∧ t.rdB (twn 0 PG_EVT) 0 = true ∧
    t.rd (twn 0 TWN_CNT_HB_LOSS) = (if u.rd (twn 0 TWN_CNT_HB_LOSS) = 0xFFFFFFFF then 0xFFFFFFFF else u.rd (twn 0 TWN_CNT_HB_LOSS) + 1)) ∧
  (∀ s : State, s.twinOn = true → s.hbOk = false → 8 ≤ s.pr.hbRun →
    ∃ t, exec .heartbeatRegained s = .next t ∧ t.hbOk = true ∧ t.rdB (twn 0 PG_EVT) 1 = true) ∧
  (∀ (b : Bool) (s : State), s.twinOn = true → exec (.hbInEdge b) s = .next
    (({ s with pr := { s.pr with hbRun := if b then s.pr.hbRun + 1 else 1 } } : State).mark hbMark)) ∧
  (∀ s : State, s.mode ≠ .off → exec .hbOutStall s = .next s.dropToken) ∧
  (∀ s : State, (s.pr.drv0 || s.pr.drv1) = true → s.dropToken.pr.drv0 = false ∧ s.dropToken.pr.drv1 = false ∧ s.dropToken.role = 5 ∧
    s.dropToken.pr.tok0 = (s.pr.tok0 || s.pr.drv0) ∧ s.dropToken.pr.tok1 = (s.pr.tok1 || s.pr.drv1) ∧
    (s.role = 3 → s.dropToken.rdB (twn 0 PG_EVT) 5 = true)) ∧
  (∀ (a b : Bool) (s : State), s.twinOn = true → exec (.tokenLineChange a b) s =
    .next ((({ s with pr := { s.pr with tok0 := a, tok1 := b } } : State).mark tokMark).tokenMoved s.tok)) ∧
  (∀ s : State, (s.pr.tok0 = true → s.pr.tok1 = true → s.evalTok.tok = 0) ∧ (s.pr.tok0 = false → s.pr.tok1 = true → s.evalTok.tok = 1) ∧
    (s.pr.tok0 = false → s.pr.tok1 = false → s.pr.drv0 = false → s.evalTok.tok = 3) ∧
    (s.pr.tok0 = false → s.pr.tok1 = false → s.pr.drv0 = true → s.role ≠ 2 → s.evalTok.tok = 2)) ∧
  (∀ s : State, s.mode = .standby → s.mayTake = false → s.tokenFreed.role = 5 ∧ s.tokenFreed.rdB (twn 0 PG_EVT) 8 = true) ∧
  (∀ s : State, s.twinOn = true → s.pr.tok0 ≠ s.pr.tok1 → ∃ t, exec .tokenFault s = .next t ∧
    t.now = (s.reachFrom tokMark (if s.pr.tok0 then 4000 else 200000)).now ∧ t.rdB (twn 0 TWN_STAT) 12 = true ∧
    t.rdB (twn 0 PG_EVT) 7 = true ∧ t.pr.claimAt = none ∧ (s.role = 2 → (s.pr.drv0 || s.pr.drv1) = true → t.pr.drv0 = false ∧ t.pr.drv1 = false)) ∧
  (∀ s : State, s.twinOn = true → s.mode = .castOn → s.role = 1 → let u := (s.expire observeTmr).setRole 5
    exec .twinObserveEnd s = .next (if u.canClaim then u.startClaim false else u)) ∧
  (∀ s : State, s.canClaim = true → exec .tokenClaimStart s = .next (s.startClaim false)) ∧
  (∀ (b : Bool) (s : State), (s.startClaim b).role = 2 ∧ (s.startClaim b).pr.claimAt = some s.now ∧ (s.startClaim b).pr.forced = b ∧
    (s.distinct = true → (s.startClaim b).pr.claimD = 8 * b2n (s.rdB (twn 0 TWN_CFG) 1)) ∧ (s.startClaim b).pr.claimD ≤ 31) ∧
  (∀ (a : Nat) (s : State), s.twinOn = true → s.role = 2 → s.pr.drv0 = false → s.pr.claimAt = some a →
    let u := s.reachAt (a + s.pr.claimD * 1000)
    ((u.pr.tok0 = false ∨ u.pr.tok1 = false) → exec .tokenClaimWaitEnd s = .next u.claimLost) ∧
    (u.pr.tok0 = true → u.pr.tok1 = true → ∃ t, exec .tokenClaimWaitEnd s = .next t ∧ t.pr.drv0 = true ∧ t.pr.tok0 = false ∧
      t.pr.driveAt = u.now ∧ t.tok = 1)) ∧
  (∀ s : State, s.claimLost.rdB (twn 0 PG_EVT) 6 = true ∧ s.claimLost.pr.claimAt = none ∧ s.claimLost.role = (if s.mode = .standby then 4 else 5) ∧
    ((s.mode = .running ∨ s.mode = .healing) → s.claimLost.pr.give = true)) ∧
  (∀ (a : Nat) (s : State), s.twinOn = true → s.role = 2 → s.pr.drv0 = true → s.pr.claimAt = some a →
    let u := s.reachAt (s.pr.driveAt + (if s.distinct then 4000 else 68000))
    ∃ t, exec .tokenAcquired s = .next t ∧ t.now = u.now ∧ t.role = 3 ∧ t.tok = 2 ∧ t.sync = 2 ∧ t.pr.tok0 = false ∧ t.pr.tok1 = false ∧ t.pr.drv0 = true ∧
      t.pr.drv1 = true ∧ t.rd (twn 0 TWN_SW_ST) = u.st 0 ∧ (t.rd (twn 0 TWN_SW_T)).toNat = (u.now - a) / 1000 % 65536 ∧
      (u.mode = .standby → t.pr.take = true ∧ t.rdB (twn 0 PG_EVT) 4 = true)) ∧
  (∀ s : State, s.takes (twn 0 TWN_CTRL) = true → let u := s.access (twn 0 TWN_CTRL)
    u.twinOn = true → u.tok = 0 → u.rdB (twn 0 TWN_STAT) 12 = false → u.role ≠ 2 → u.role ≠ 3 →
    exec .forceTake s = .next (u.startClaim true)) ∧
  (∀ s : State, s.takes (twn 0 TWN_CTRL) = true → let u := s.access (twn 0 TWN_CTRL)
    u.tok = 3 → exec .forceTake s = .next u) ∧
  (∀ s : State, s.takes (twn 0 TWN_CTRL) = true → let u := s.access (twn 0 TWN_CTRL)
    ((u.lead && u.rdB (twn 0 TWN_PEER) 2 && u.hbOk) = true → exec .twinDrill s = .next (u.wrB (twn 0 TWN_CTRL) 0 true)) ∧
    ((u.lead && u.rdB (twn 0 TWN_PEER) 2 && u.hbOk) = false → exec .twinDrill s = .next (u.raise (twn 0 0) 13))) ∧
  (∀ (h : TwinHdr) (u s : State), s.twinPasses h u → u.mode = .standby →
    exec (.drillRx h) s = .next ({ u with pr := { u.pr with drillRow := some (h.row - 1) } } : State).tryDrill) ∧
  (∀ (h : TwinHdr) (u s : State), s.twinPasses h u → u.lead = true → u.pr.drillRow.isSome = true →
    ∃ t, exec (.drillAckRx h) s = .next t ∧ t.pr.give = true ∧ t.pr.drillRow = none ∧ t.pr.drv0 = false ∧ t.pr.drv1 = false) ∧
  (∀ s : State, s.twinOn = true → s.lead = true → s.pr.drillRow.isSome = true → let u := s.reachFrom drillMark (2 * s.rowLen)
    ∃ t, exec .drillTimeout s = .next t ∧ t.now = u.now ∧ t.pr.drillRow = none ∧ t.pr.drv0 = u.pr.drv0 ∧ t.rdB (twn 0 PG_EVT) 13 = true) ∧
  (∀ (r : Word) (s : State), s.twinOn = true → s.pr.take = true → s.mode = .standby → (s.pairBoundary r).mode = .running ∧
    (s.pairBoundary r).cs = s.cs) ∧
  (∀ (r : Word) (s : State), s.twinOn = true → s.pr.take = false → s.pr.give = true → (s.mode = .running ∨ s.mode = .healing) →
    (s.pairBoundary r).mode = .standby)

/-- Every lane carries the node's HELLO, 1 ms after the last. A frame of the pair with R325's addresses and version that passes
MACsec is taken, and no other. A HELLO taken brings its lane up and shows the partner; another partner's UID is reported, and a
lane silent for 3 ms is down. The lead's collected deltas leave from 1 µs after the boundary, each as bodies of its records and
DELTA_END or, too late, as DELTA_END with OVF. Records join their row's delta; at the boundary two rows on the standby commits
the delta if it is whole, showing its row, and discards it otherwise, becoming UNSYNCED. An UNSYNCED standby asks for a resync,
where software or RESYNC_AUTO says so; the lead starts its sweep from the first chunk, sends 8 KiB at a time at RS_PACE,
advancing the progress, and names the row in which the sweep ended; the standby is RESYNCING from START on and SYNCED with the
commit of the row that every lane has named, and not before. (R325, R326, R327, R328, R329, R330, R337, R425, 13_twin_pairs.md,
log entry 46) -/
def Obligations.LifelineDeltasSentAndResynced : Prop :=
  (∀ s : State, s.twinOn = true → let t := (s.reachFrom hailMark 1000000).mark hailMark
    exec .twinHelloSend s = .next (t.each (fun l u => u.sendLane l u.row false false (.hello
    { uid := t.uid, pos := t.rdB (twn 0 TWN_CFG) 1, role := BitVec.ofNat 3 t.role, sync := BitVec.ofNat 2 t.sync, num := BitVec.ofNat 6 t.num,
      topo := t.topoCtr })) t.lanes)) ∧
  (∀ (l : Nat) (row : Word) (o d : Bool) (f : TwinFrame) (s : State), s.dieUp l = true →
    s.secOn (twinSa s.part l).1 (twinSa s.part l).2 = false →
    (s.sendLane l row o d f).out = .twin l
      { da := efilanerDa, sa := s.mac, etype := s.twinEtype, version := 1, incomplete := !s.pr.sweep.isEmpty, ovf := o, lead := s.tok == 2,
        synced := s.sync == 2, drill := d, lane := if l = 0 then 0 else 1, row := row, seq := (Assoc.get s.pr.txSeq l).getD 0 + 1, sec := none } f :: s.out) ∧
  (∀ (h : TwinHdr) (b : TwinHello) (s : State), s.twinOn = true → s.lanes.contains h.lane.val = true → s.dieUp h.lane.val = true →
    (s.efilaner h = false → exec (.twinHelloRx h b) s = .next s) ∧
    (s.efilaner h = true → let v := s.verify (twinSa s.part h.lane.val).1 (twinSa s.part h.lane.val).2 h.sec false
      v.2 = false → exec (.twinHelloRx h b) s = .next v.1)) ∧
  (∀ (h : TwinHdr) (b : TwinHello) (u s : State), s.twinPasses h u →
    ∃ t, exec (.twinHelloRx h b) s = .next t ∧ t.laneUp h.lane.val = true ∧ t.peerUid = b.uid ∧ t.rdB (twn 0 TWN_PEER) 0 = b.pos ∧
      t.rdB (twn 0 TWN_PEER) 1 = true ∧ t.rdB (twn 0 TWN_PEER) 2 = (b.sync == 2) ∧ t.rdB (twn 0 TWN_PEER) 3 = h.lead ∧
      t.rdF (twn 0 TWN_PEER) 8 6 = b.num.toNat ∧ t.rdB (twn 0 TWN_STAT) 13 = h.incomplete ∧
      (u.rdB (twn 0 TWN_PEER) 1 = true → u.peerUid ≠ b.uid → t.rdB (twn 0 PG_EVT) 12 = true ∧ (u.mode = .standby → t.sync = 0))) ∧
  (∀ (l : Fin 2) (s : State), s.twinOn = true → let u := s.reachFrom (laneMark l.val) 3000000
    u.laneUp l.val = true → ∃ t, exec (.twinLaneTimeout l) s = .next t ∧ t.now = u.now ∧ t.laneUp l.val = false ∧
      t.laneUp (1 - l.val) = u.laneUp (1 - l.val) ∧ t.rdB (twn 0 PG_EVT) 10 = true) ∧
  (∀ s : State, s.twinOn = true → s.lead = true → s.pr.send ≠ [] → let u := if s.run then s.reachSt (s.rd (sch 0 SCH_ROW_ST) + 1000) else s
    ∃ t, exec .deltaSend s = .next t ∧ t.pr.send = [] ∧ t.out = (u.each (fun e v => v.sendDelta e) u.pr.send).out) ∧
  (∀ (e : Nat × Word × List LlRecord) (s : State), let b := bodies e.2.2
    (s.deltaLate e.2.1 (laneNs (b.map recsSize ++ [0])) = true →
      s.sendDelta e = (s.sendLane e.1 e.2.1 true s.pr.sendDrill (.delta true [])).count (twn e.1 TWN_CNT_OVF)) ∧
    (s.deltaLate e.2.1 (laneNs (b.map recsSize ++ [0])) = false → s.sendDelta e =
      (s.each (fun c t => t.sendLane e.1 e.2.1 false s.pr.sendDrill (.delta false c)) b).sendLane e.1 e.2.1 false s.pr.sendDrill (.delta true []))) ∧
  (∀ l : List LlRecord, (bodies l).flatten = l ∧ ((∀ r ∈ l, recSize r ≤ 9100) → ∀ b ∈ bodies l, recsSize b ≤ 9100)) ∧
  (∀ (h : TwinHdr) (b : Bool) (l : List LlRecord) (u s : State), s.twinPasses h u → u.mode = .standby →
    exec (.deltaRx h b l) s = .next ((u.joinDelta h b l).tryDrill)) ∧
  (∀ (r : Word) (s : State), s.mode = .standby →
    (s.deltaWhole (r - 2) = true → s.deltaBoundary r = s.commitDelta (r - 2)) ∧
    (s.deltaWhole (r - 2) = false → s.pr.deltas.any (·.row == r - 2) = true → (s.discardDelta (r - 2)).sync = 0 ∧
      s.deltaBoundary r = (s.discardDelta (r - 2)).ageLifeline)) ∧
  (∀ (r : Word) (s : State), (s.commitDelta r).rd (twn 0 TWN_LL_ROW) = r ∧ (s.commitDelta r).llOk = true) ∧
  (∀ (h : TwinHdr) (s : State), s.pr.skipped.contains h.lane.val = false → (s.laneSeq h).pr.skipped.contains h.lane.val =
    (match Assoc.get s.pr.rxSeq h.lane.val with | some q => decide (h.seq ≠ q + 1) | none => false)) ∧
  (∀ s : State, s.twinOn = true → s.mode = .standby → s.sync = 0 → s.lanes.all s.laneUp = true →
    (s.rdB (twn 0 TWN_CFG) 16 = true ∨ s.rdB (twn 0 TWN_CTRL) 1 = true) →
    exec .resyncReqSend s = .next (s.each (fun l u => u.sendLane l u.row false false .resyncReq) s.lanes)) ∧
  (∀ s : State, s.takes (twn 0 TWN_CTRL) = true → exec .twinResyncCmd s = .next ((s.access (twn 0 TWN_CTRL)).wrB (twn 0 TWN_CTRL) 1 true)) ∧
  (∀ (h : TwinHdr) (u s : State), s.twinPasses h u → u.lead = true →
    ∃ t, exec (.resyncReqRx h) s = .next t ∧ t.pr.sweep = u.lanes.map (fun l => (l, 0)) ∧
    t.rdF (twn 0 TWN_RS_PROG) 0 16 = 0 ∧ t.rdF (twn 0 TWN_RS_PROG) 16 16 = (if u.part.twoDies then 12464 else 6288)) ∧
  (∀ (l : Fin 2) (o k : Nat) (s : State), s.twinOn = true → s.lead = true → Assoc.get s.pr.sweep l.val = some k → chunkIn (sweepAreas l.val) k = some o →
    let u := s.reachAt ((Assoc.get s.pr.pace l.val).getD 0)
    ∃ t, exec (.resyncDataSend l) s = .next t ∧ t.out = (u.sendLane l.val u.row false false (.resync (.data [.bulk o (u.tws (win l.val o) 2048)]))).out ∧
      Assoc.get t.pr.sweep l.val = some (((Assoc.get u.pr.sweep l.val).getD 0) + 1) ∧ Assoc.get t.pr.pace l.val = some (u.now + u.paceNs) ∧
      t.rdF (twn 0 TWN_RS_PROG) 0 16 = (u.rdF (twn 0 TWN_RS_PROG) 0 16 + 8) % 65536) ∧
  (∀ (l : Fin 2) (k : Nat) (s : State), s.twinOn = true → s.lead = true → Assoc.get s.pr.sweep l.val = some k → chunkIn (sweepAreas l.val) k = none →
    let u := s.reachAt ((Assoc.get s.pr.pace l.val).getD 0)
    ∃ t, exec (.resyncEndSend l) s = .next t ∧ t.out = (u.sendLane l.val u.row false false (.resync (.endRow u.row))).out ∧
      Assoc.get t.pr.sweep l.val = none) ∧
  (∀ (h : TwinHdr) (f : ResyncFrame) (u s : State), s.twinPasses h u → u.mode = .standby →
    exec (.resyncFrameRx h f) s = .next (u.takeResync h.lane.val f)) ∧
  (∀ (l : Nat) (k : Word) (s : State), (s.takeResync l (.start k)).sync = 1) ∧
  (∀ (l : Nat) (r : Word) (s : State), s.sync = 1 → Assoc.get (s.takeResync l (.endRow r)).pr.ends l = some r) ∧
  (∀ (r : Word) (s : State), s.mode = .standby → s.sync = 1 →
    ((∀ l ∈ s.lanes, Assoc.get s.pr.ends l = some r) → (s.commitDelta r).sync = 2) ∧
    ((∃ l ∈ s.lanes, Assoc.get s.pr.ends l = none) → (s.commitDelta r).sync = 1))

/-- An edge of a source sets its PEND, whatever its ENA is, and removes the waiting edge. Each EVC_SRC_CMD acts on the one source it
names: SET_PEND and CLR_PEND on PEND, ENABLE and DISABLE on ENA, FORCE_DONE completes an active source; another source's bits
stay. A reserved source is ignored. A write of a bitmap word stores the word, edges of the same cycle ending at 1. After each
the assignments follow. A source is assigned, with the priority it has then (log entry 57), to a target that its TMASK and
EVC_TGT_EN hold; the winner of a target has the highest PRIO, and among equals the lowest ID. (R371, R373, R374, R375, R377,
R381, R382, R385, R394, 16_event_controller.md, log entry 57) -/
def Obligations.EventSourcesRaiseAndAreAssigned : Prop :=
  (∀ (src : BitVec 11) (at0 : Word) (s : State), s.dieUp (src.toNat / 1024) = true → s.sourceOk src.toNat = true → Assoc.get s.ev.edges src.toNat = some at0 →
    exec (.eventSourceEdge src) s = .next (s.takeEdge src.toNat).evalEvc ∧ (s.takeEdge src.toNat).srcB EVC_PEND src.toNat = true ∧
      (s.takeEdge src.toNat).ev.edges = dropEdge src.toNat s.ev.edges ∧
      (s.srcB EVC_PEND src.toNat = false → Assoc.get (s.takeEdge src.toNat).ev.pendSt src.toNat = some at0)) ∧
  (∀ (src : BitVec 11) (s : State), s.takes (evcc 0 EVC_SRC_CMD) = true → let u := s.access (evcc 0 EVC_SRC_CMD)
    (u.sourceOk src.toNat = true → (src.toNat < 1024 ∨ u.die1On = true) →
      exec (.evcSetPend src) s = .next (u.setPend src.toNat).evalEvc ∧
      exec (.evcClrPend src) s = .next (u.setSrcB EVC_PEND src.toNat false).evalEvc ∧
      exec (.evcEnable src) s = .next (u.setSrcB EVC_ENA src.toNat true).evalEvc ∧
      exec (.evcDisable src) s = .next (u.setSrcB EVC_ENA src.toNat false).evalEvc) ∧
    (u.sourceOk src.toNat = true → u.active src.toNat = true → exec (.evcForceDone src) s = .next (u.completeOn src.toNat).evalEvc) ∧
    (u.sourceOk src.toNat = false → exec (.evcSetPend src) s = .next u ∧ exec (.evcClrPend src) s = .next u ∧
      exec (.evcEnable src) s = .next u ∧ exec (.evcDisable src) s = .next u ∧ exec (.evcForceDone src) s = .next u)) ∧
  (∀ (src : BitVec 11) (s : State), (s.setPend src.toNat).srcB EVC_PEND src.toNat = true ∧
    (s.srcB EVC_PEND src.toNat = false → Assoc.get (s.setPend src.toNat).ev.pendSt src.toNat = some (s.st (src.toNat / 1024)))) ∧
  (∀ (f : Nat → Nat) (src other : BitVec 11) (b : Bool) (s : State), f = EVC_PEND ∨ f = EVC_ENA ∨ f = EVC_ACT →
    (s.setSrcB f src.toNat b).srcB f src.toNat = b ∧ (other ≠ src → (s.setSrcB f src.toNat b).srcB f other.toNat = s.srcB f other.toNat)) ∧
  (∀ (src : BitVec 11) (s : State), (s.complete src.toNat).srcB EVC_ACT src.toNat = false ∧
    (s.srcB EVC_PEND src.toNat = true → (s.complete src.toNat).srcB EVC_PEND src.toNat = true)) ∧
  (∀ (d : Sys2Proof.Die) (w : Fin 32) (v e : Word) (s : State),
    (s.takes (evcm (dieNum d) (EVC_ENA w.val)) = true → exec (.evcBitmapWrite d true w v e) s =
      .next (((((s.access (evcm (dieNum d) (EVC_ENA w.val))).wr (evcm (dieNum d) (EVC_ENA w.val)) v).evalEvc).takeEdges (dieNum d) w.val e).evalEvc)) ∧
    (s.takes (evcm (dieNum d) (EVC_PEND w.val)) = true → exec (.evcBitmapWrite d false w v e) s =
      .next ((((s.access (evcm (dieNum d) (EVC_PEND w.val))).bitmapWrite (dieNum d) false w.val v).takeEdges (dieNum d) w.val e).evalEvc))) ∧
  (∀ (src t : Nat) (s : State), s.pickTarget src = some t → t < 9 ∧ s.rdB (routeAddr src) t = true ∧ s.tgtEn t = true ∧
    (s.assignOne src).ev.asg = s.ev.asg ++ [{ src := src, tgt := t, prio := s.srcPrio src }] ∧ (s.assignOne src).rdF (routeAddr src) 16 4 = t) ∧
  (∀ (l : List Asg) (a : Asg), winnerOf l = some a → a ∈ l ∧ ∀ b ∈ l, b.prio < a.prio ∨ (b.prio = a.prio ∧ a.src ≤ b.src))

/-- A write of EVC_TGT_EN is stored and the sources assigned anew. A read of EVC_CLAIM_Tt answers the target's winner, which becomes
active, no longer pending and no longer assigned, or 0x7FF, which clears SIG; a write of EVC_DONE_Tt completes a source claimed
there, and is BAD_DONE otherwise. In the record parts a record is written at PROD; CONS and CFG are stored, EN resetting PROD
and PHASE; a moderation timer that expires MIN_IVL after the last message lets the waiting records be signalled. A message that
is due leaves only while the link carries one and its vector is unmasked with MSI-X enabled; L0 and an unmasked vector send
those held, and L0 reached from down shows a rate and a width that the model leaves free (log entry 59). (R377, R379, R381,
R382, R385, R386, R388, R389, R390, R401, 16_event_controller.md, log entry 57) -/
def Obligations.EventsClaimedRecordedAndMessaged : Prop :=
  (∀ (v : Word) (s : State), s.takes (evcc 0 EVC_TGT_EN) = true → exec (.evcTgtEnWrite v) s =
    .next ((s.access (evcc 0 EVC_TGT_EN)).wrF (evcc 0 EVC_TGT_EN) 0 9 (fld v 0 9)).evalEvc) ∧
  (∀ (t : Fin 9) (s : State), s.dieUp 0 = true → (t.val = 8 ∨ s.part.twoDies = true) →
    (∀ a, winnerOf (s.assigned t.val) = some a → ∃ u v : State, u = ((s.setSrcB EVC_ACT a.src true).setSrcB EVC_PEND a.src false).unassign a.src ∧
      v = { u with ev := { u.ev with claimed := Assoc.put u.ev.claimed a.src t.val } } ∧
      exec (.evcClaim t) s = .next (v.evalEvc.emit (.read .pcie (evcc 0 (EVC_CLAIM t.val)) (wordOf a.src)))) ∧
    (winnerOf (s.assigned t.val) = none → t.val < 8 →
      exec (.evcClaim t) s = .next ((s.wrB (evcc 0 EVC_STAT) (16 + t.val) false).evalEvc.emit (.read .pcie (evcc 0 (EVC_CLAIM t.val)) 0x7FF)))) ∧
  (∀ (t : Fin 9) (src : BitVec 11) (s : State), s.takes (evcc 0 (EVC_DONE t.val)) = true → (t.val = 8 ∨ s.part.twoDies = true) →
    let u := s.access (evcc 0 (EVC_DONE t.val))
    (u.active src.toNat = true → Assoc.get u.ev.claimed src.toNat = some t.val →
      exec (.evcDone t src) s = .next (u.completeOn src.toNat).evalEvc) ∧
    (u.active src.toNat = false ∨ Assoc.get u.ev.claimed src.toNat ≠ some t.val → exec (.evcDone t src) s = .next (u.raise (evcc 0 0) 0))) ∧
  (∀ (src : Nat) (s : State), ((src < 1024 ∨ s.die1On = true) → s.completeOn src = s.complete src) ∧
    (1024 ≤ src → s.die1On = false → s.completeOn src = { s with ev := { s.ev with doneQ := s.ev.doneQ ++ [src] } })) ∧
  (∀ (t : Fin 8) (v : Word) (s : State), s.part.twoDies = false →
    (s.takes (evcc 0 (EVC_RQ_CONS t.val)) = true → exec (.rqConsWrite t v) s =
      .next ((s.access (evcc 0 (EVC_RQ_CONS t.val))).wrF (evcc 0 (EVC_RQ_CONS t.val)) 0 12 (fld v 0 12)).evalEvc) ∧
    (s.takes (evcc 0 (EVC_RQ_CFG t.val)) = true → bit v 31 = true → ∃ u : State, exec (.rqEnable t v) s = .next u.evalEvc ∧
      u.rd (evcc 0 (EVC_RQ_PROD t.val)) = 0x10000 ∧ u.ev.modExpired.getLsbD t.val = true ∧ u.rdB (evcc 0 (EVC_RQ_CFG t.val)) 31 = true ∧
      u.rdF (evcc 0 (EVC_RQ_CFG t.val)) 0 4 = fld v 0 4 ∧ u.ev.asg = (s.access (evcc 0 (EVC_RQ_CFG t.val))).ev.asg) ∧
    (s.dieUp 0 = true → let x := s.reachFrom (modTmr t.val) (min 1000 (s.rdF (evcc 0 (EVC_RQ_MOD t.val)) 0 10) * 1000)
      exec (.rqModerationExpiry t) s =
      .next ((({ x with ev := { x.ev with modExpired := x.ev.modExpired ||| tbit t.val } } : State).moderate t.val).evalWake))) ∧
  (∀ (t src prio : Nat) (s : State), ∃ i2 i3 : Word, (s.writeRecord t src prio).out =
      .hostWrite (s.rd64 (evcc 0 (EVC_RQ_BASE_LO t)) (evcc 0 (EVC_RQ_BASE_HI t)) / 16 * 16 + 16 * s.rdF (evcc 0 (EVC_RQ_PROD t)) 0 12)
        [wordOf (src % 1024 + prio * 2 ^ 12 + b2n (s.rdB (evcc 0 (EVC_RQ_PROD t)) 16) * 2 ^ 15), (Assoc.get s.ev.pendSt src).getD 0, i2, i3] :: s.out) ∧
  (∀ (t : Fin 8) (s : State), (s.assigned t.val).isEmpty = false → s.rdB (evcc 0 EVC_STAT) (16 + t.val) = false →
    s.signal t.val = (s.wrB (evcc 0 EVC_STAT) (16 + t.val) true).messageDue t.val) ∧
  (∀ (t : Nat) (s : State), (s.pcieCarries = true → s.messageDue t = s.sendMessage t) ∧
    (s.pcieCarries = false → s.messageDue t = { s with ev := { s.ev with due := s.ev.due ||| tbit t } })) ∧
  (∀ (t : Fin 8) (s : State), (s.ev.msixEn = true → s.rdB (msix (MSIX_CTRL t.val)) 0 = false → (s.hdmMessage t.val).out =
      .msix t.val (s.rd64 (msix (MSIX_ADDR_LO t.val)) (msix (MSIX_ADDR_HI t.val))) (s.rd (msix (MSIX_DATA t.val))) :: s.out) ∧
    ((s.ev.msixEn = false ∨ s.rdB (msix (MSIX_CTRL t.val)) 0 = true) → (s.hdmMessage t.val).out = s.out ∧
      (s.hdmMessage t.val).ev.held.getLsbD t.val = true)) ∧
  (∀ s : State, s.hostOn = true → ∃ u : State, u = (s.trained).wrF (hdm HDM_STAT) 8 3 0 ∧
    exec .pcieLinkL0 s = .next ((((({ u with ev := { u.ev with wakeN := false } } : State).each (fun t x => x.when (u.ev.due.getLsbD t) fun y => y.sendMessage t)
      [0, 1, 2, 3, 4, 5, 6, 7]).each (fun t x => x.release t) [0, 1, 2, 3, 4, 5, 6, 7])).evalEvc) ∧ u.rdB (hdm HDM_STAT) 1 = true ∧ u.rdF (hdm HDM_STAT) 8 3 = 0) ∧
  (∀ (l : LinkState) (s : State), s.hostOn = true → s.pcieUp = true →
    (l = .l1 ∨ l = .l11 ∨ l = .l12 ∨ l = .l2 → exec (.pcieLinkStateChange l) s = .next (s.wrF (hdm HDM_STAT) 8 3 (linkCode l)).evalEvc) ∧
    (l = .down → ∃ t, exec (.pcieLinkStateChange l) s = .next t ∧ t.rdB (hdm HDM_STAT) 1 = false ∧ t.rdF (hdm HDM_STAT) 2 6 = 0 ∧ t.rdF (hdm HDM_STAT) 8 3 = 0)) ∧
  (∀ (v : Fin 64) (s : State), s.hostOn = true → ∃ t, exec (.msixVectorUnmask v) s = .next t ∧ t.ev.msixEn = true ∧ t.rdB (msix (MSIX_CTRL v.val)) 0 = false ∧
    (v.val < 8 → s.pcieCarries = true → t.ev.held.getLsbD v.val = false))

/-- An assertion of PERST_N takes the link down, resets the HDM page and discards the prefetched blocks, with PERST; a release of it
reports too and starts the time of 100 ms after which the endpoint is ready for configuration. Setting a ring's EN resets its
indices; a TAIL write is stored. A descriptor that is done is written back with its code at its address and HEAD advances: a bad
LEN is code 2, a DIRECT port that is down code 4. A frame received for the host goes to the ring its class or reason selects
with the write-back of length, port, reason, class and VID, TRUNC where it is longer than the buffer, and the receive ST where
the port stamps; it no longer waits, and is counted and reported as dropped without a free buffer. A DMA error stops its ring
and is recorded. (R397, R402, R403, R404, R405, R421, 17_host_interface_and_bridge.md, log entry 37, log entry 58) -/
def Obligations.HostResetAndDmaRings : Prop :=
  (∀ s : State, s.straps.getLsbD 3 = true → s.dieUp 0 = true → s.hi.perstN = true → ∃ t, exec .perstAssert s = .next t ∧ t.hi.perstN = false ∧
    t.pcieUp = false ∧ t.hi.blocks = [] ∧ t.hi.errs.length ≤ 32 ∧ t.rdB (hdm PG_EVT) 4 = true ∧ t.rdB (hdm HDM_STAT) 0 = false ∧
    (∀ n : Fin 32, t.ringOn false n.val = false ∧ t.ringOn true n.val = false) ∧ t.ev.msixEn = false) ∧
  (∀ s : State, s.straps.getLsbD 3 = true → s.dieUp 0 = true → s.hi.perstN = false → ∃ t, exec .perstDeassert s = .next t ∧ t.hi.perstN = true ∧
    t.timer cfgTmr = some s.now ∧ t.rdB (hdm PG_EVT) 4 = true) ∧
  (∀ s : State, s.hostOn = true → let u := s.reachFrom cfgTmr 100000000
    ∃ t, exec .pcieConfigReady s = .next t ∧ t.now = u.now ∧ t.rdB (hdm HDM_STAT) 0 = true ∧ (∀ a, a ≠ hdm HDM_STAT → t.rd a = u.rd a)) ∧
  (∀ (rx : Bool) (n : Fin 32) (s : State), s.takes (ringReg rx n.val rgCfg) = true → s.rdB (ringReg rx n.val rgCfg) 31 = false →
    ∃ t, exec (.ringEnable rx n) s = .next t ∧ t.rdB (ringReg rx n.val rgCfg) 31 = true ∧ t.ringIdx rx n.val rgTail = 0 ∧ t.ringIdx rx n.val rgHead = 0 ∧
      t.ringIdx rx n.val rgClean = 0 ∧ t.rdF (ringReg rx n.val rgCfg) 0 4 = s.rdF (ringReg rx n.val rgCfg) 0 4) ∧
  (∀ (n : Fin 32) (v : Word) (s : State),
    (s.takes (ringReg false n.val rgTail) = true → exec (.txTailWrite n v) s =
      .next ((s.access (ringReg false n.val rgTail)).wrF (ringReg false n.val rgTail) 0 12 (fld v 0 12))) ∧
    (s.takes (ringReg true n.val rgTail) = true → exec (.rxTailWrite n v) s =
      .next ((s.access (ringReg true n.val rgTail)).wrF (ringReg true n.val rgTail) 0 12 (fld v 0 12)))) ∧
  (∀ (n : Fin 32) (d : TxDesc) (st : Word) (s : State), s.ringHas false n.val = true → ∃ t, exec (.txDescriptorDone n d st) s = .next t ∧
    t.ringIdx false n.val rgHead = (s.ringIdx false n.val rgHead + 1) % s.ringSize false n.val ∧
    (d.len < 14 ∨ 9212 < d.len → t.out = .hostWrite (s.descAddr false n.val + 16) [5, 0] :: s.out) ∧
    (14 ≤ d.len → d.len ≤ 9212 → d.direct = true → s.directUp d.port.val = false → t.out = .hostWrite (s.descAddr false n.val + 16) [9, 0] :: s.out) ∧
    (14 ≤ d.len → d.len ≤ 9212 → d.direct = false → t.out = (s.txDone n.val d st).out)) ∧
  (∀ (p : Port) (r : RxReason) (c : Fin 8) (e : Eth) (sof : Word) (d : RxDesc) (s : State), s.dieUp 0 = true → let n := s.rxRing r c.val
    let f : HostFrame := { port := p.val, reason := r, cls := c.val, frame := e, sof := sof }
    let ts := s.rdB (prt p.val PRT_PTP_CFG) 1
    (s.ringHas true n = true → ∃ t : State, exec (.rxFrameToHost p r c e sof d) s = .next t ∧ t.fw.toHost = s.fw.toHost.erase f ∧
      t.ringIdx true n rgHead = (s.ringIdx true n rgHead + 1) % s.ringSize true n ∧
      t.out = .hostWrite (s.descAddr true n + 16) [wordOf (e.len - 4 + p.val * 2 ^ 16 + RxReason.code r * 2 ^ 24), if ts then sof else 0,
          wordOf (c.val + (1 + 2 * b2n (decide (clampTo 64 65535 d.size < e.len - 4)) + 4 * b2n ts) * 2 ^ 8 + s.vidOf p.val e * 2 ^ 16)] ::
        .toHost n (.eth e) (RxReason.code r) :: s.out) ∧
    (s.ringHas true n = false → ∃ t, exec (.rxFrameToHost p r c e sof d) s = .next t ∧ t.fw.toHost = s.fw.toHost.erase f ∧ t.out = s.out ∧ t.rdB (hdm PG_EVT) 1 = true ∧
      t.rd (rxr (HDM_RX_DROP n)) = (if s.rd (rxr (HDM_RX_DROP n)) = 0xFFFFFFFF then 0xFFFFFFFF else s.rd (rxr (HDM_RX_DROP n)) + 1))) ∧
  (∀ (rx : Bool) (n : Fin 32) (a : BitVec 64) (b : Bool) (s : State), s.ringHas rx n.val = true → (rx && b) = false →
    ∃ t, exec (.dmaError rx n b a) s = .next t ∧ t.rdB (ringReg rx n.val rgCfg) 31 = false ∧ t.ringOn rx n.val = false ∧
      t.rd (hdm HDM_DMA_ERR) = wordOf (n.val + b2n rx * 2 ^ 5 + b2n b * 2 ^ 8) ∧
      t.rd64 (hdm HDM_DMA_ERR_ADDR_LO) (hdm HDM_DMA_ERR_ADDR_HI) = a.toNat ∧ t.rdB (hdm PG_EVT) 0 = true)

/-- BAR0 requests are executed word by word in ascending order behind what waits, reads answering one completion; a partial dword of
a register page is discarded, counted and reported; BAR2 requests go to the bridge. A management SPI transaction answers its
status: BAD_ADDR outside its ranges, NOPOWER while die 0 is down, OK with the value read, or with the write done; an access to a
die 1 that cannot be reached is dropped with its status. An agent's read or write of a register completes where that agent may
access it, and does nothing where it may not. A read of a die 1 address that cannot be reached answers all ones and is counted
and reported. (R398, R399, R400, R406, R407, R409, 17_host_interface_and_bridge.md, log entry 47, log entry 48, log entry 55,
log entry 56) -/
def Obligations.HostAndSpiAccessesActOnRegisters : Prop :=
  (∀ (r : BarReq) (s : State), s.hostOn = true → s.pcieUp = true → s.hi.waits.any (·.agent == .pcie) = false →
    (r.write = true → exec (.bar0Request r) s = .next (s.bar0Write r.offset r.dwords).settle) ∧
    (r.write = false → ∃ u l, s.bar0Read r.offset r.dwords.length = (u, l) ∧ l.length = r.dwords.length ∧
      exec (.bar0Request r) s = .next (u.emit (.completion l)).settle)) ∧
  (∀ (a : Nat) (d : BitVec 4 × Word) (ds : List (BitVec 4 × Word)) (s : State), s.bar0Write a [] = s ∧
    s.bar0Write a (d :: ds) = (s.beWrite d.1 a d.2).bar0Write (a + 4) ds) ∧
  (∀ (be : BitVec 4) (a : Nat) (v : Word) (s : State), (be = 0xF → s.beWrite be a v = s.busWrite a v) ∧
    (be ≠ 0xF → s.absent a = false → inWindow a = false → s.dieUp 0 = true → (s.beWrite be a v).rdB (hdm PG_EVT) 2 = true ∧
      s.sameBut (s.beWrite be a v) [.regs, .ev] ∧ ∀ b, b ∉ [hdm PG_EVT, hdm PG_SEQ, hdm HDM_CNT_PARTIAL] → (s.beWrite be a v).rd b = s.rd b)) ∧
  (∀ (r : BarReq) (s : State), s.hostOn = true → s.pcieUp = true →
    exec (.bar2Request r) s = .next (s.hostRequest { agent := .pcie, bar2 := true, req := r, access := none })) ∧
  (∀ (a : Nat) (s : State), s.mode ≠ .off →
    (s.mspiStatus a ≠ 0 → exec (.mspiRead a) s = .next (s.mspiFail a (s.mspiStatus a))) ∧
    (s.mspiStatus a = 0 → a < 0x40000000 → exec (.mspiRead a) s = .next ((s.busRead .mspi a).1.mspiAnswer 0 (s.busRead .mspi a).2)) ∧
    (s.mspiStatus a = 0 → 0x40000000 ≤ a → exec (.mspiRead a) s = .next ((s.wrB (kms KMS_STAT) 0 true).hostRequest
      { agent := .mspi, bar2 := true, req := { offset := a - 0x40000000, write := false, dwords := [(0xF, 0)] }, access := none }))) ∧
  (∀ (a : Nat) (v : Word) (s : State), s.mode ≠ .off →
    (s.mspiStatus a ≠ 0 → exec (.mspiWrite a v) s = .next (s.mspiFail a (s.mspiStatus a))) ∧
    (s.mspiStatus a = 0 → a < 0x40000000 → exec (.mspiWrite a v) s = .next ((s.busWrite a v).mspiAnswer 0 0).settle) ∧
    (s.mspiStatus a = 0 → 0x40000000 ≤ a → exec (.mspiWrite a v) s = .next ((s.wrB (kms KMS_STAT) 0 true).hostRequest
      { agent := .mspi, bar2 := true, req := { offset := a - 0x40000000, write := true, dwords := [(0xF, v)] }, access := none }))) ∧
  (∀ (a : Nat) (s : State), (a % 4 ≠ 0 → s.mspiStatus a = 4) ∧ (0x20000000 ≤ a → a < 0x40000000 → s.mspiStatus a = 4) ∧
    (a % 4 = 0 → a < 0x20000000 → dieOf a = 0 → s.mspiStatus a = (if s.dieUp 0 then 0 else 1)) ∧
    (a % 4 = 0 → a < 0x20000000 → dieOf a = 2 → s.mspiStatus a = 0) ∧
    (a % 4 = 0 → a < 0x20000000 → dieOf a = 1 → s.part.twoDies = true → s.dieUp 0 = true → s.dieUp 1 = true → s.linkUp = false →
      s.rdB (die 0 DIE_BOOT_STAT) 6 = false → s.mspiStatus a = 2 ∧ s.mspiFail a 2 = s.xdieDrop.mspiAnswer 2 0)) ∧
  (∀ (st : Nat) (v : Word) (s : State), (s.mspiAnswer st v).out = .mspi st (if st = 0 then v else 0) :: s.out ∧
    (st ≠ 0 → (s.mspiAnswer st v).rdB (kms PG_EVT) 0 = true)) ∧
  (∀ (ag : Agent) (a : Nat) (be : BitVec 4) (v : Word) (s : State),
    (s.agentMay ag (a - a % 4) = true →
      exec (.registerWrite ag a be v) s = .next (s.beWrite (if ag = .pcie then be else 0xF) (a - a % 4) v).settle) ∧
    (s.agentMay ag (a - a % 4) = false → exec (.registerWrite ag a be v) s = .next s)) ∧
  (∀ (ag : Agent) (a : Nat) (s : State), s.agentMay ag a = true → s.highsOf a ≠ [] →
    exec (.pairLowRead ag a) s = .next ((s.busRead ag a).1.emit (.read ag a (s.busRead ag a).2)) ∧
    (s.reach a = true → s.absent a = false → ∀ h ∈ s.highsOf a, ((s.busRead ag a).1.lat.find? fun e => e.1 == ag && e.2.1 == h).isSome = true)) ∧
  (∀ (a : Nat) (s : State), s.agentMay .pcie a = true → s.clearsOnRead a = true →
    exec (.clearOnRead a) s = .next ((s.busRead .pcie a).1.emit (.read .pcie a (s.busRead .pcie a).2)) ∧
    (s.absent a = false → s.reach a = true → ∃ p, s.pageOf a = some p ∧ (s.busRead .pcie a).1.rd (homeAddr p a) = 0)) ∧
  (∀ (ag : Agent) (a : Nat) (s : State), s.absent a = false → s.reach a = false → dieOf a = 1 → s.dieUp 0 = true →
    s.busRead ag a = (s.xdieDrop, 0xFFFFFFFF) ∧ s.xdieDrop.rdB (hdm PG_EVT) 3 = true)

/-- A window's first queued request leaves as class 6 where no MGMT stitch takes it, or in the node's own MGMT stitch, from its
start + TXOFS on, with what else is queued; one unanswered BRG_RTX after it was sent is queued again and counted, and fails with
TIMEOUT and its record BRG_TMO after its issue; a flush discards a window's requests and blocks; a held block expires 1 ms after
its arrival while rows do not run. A response retires its request with the data, or as a failure with its status; one that
matches none is counted. A far node answers a request with its status: 1 while REMOTE_EN is 0, 2 for another UID, 3 for another
topology; the next in sequence is executed and the sequence advances; a repeated one is answered from what is held. Events leave
behind the responses queued before them, and are taken once, enqueued in sequence order, over a gap of 2 ms with REV_GAP; pops
remove the oldest record and latch its other words. (R408, R410, R412, R413, R414, R416, R418, R419, R420,
17_host_interface_and_bridge.md, log entry 54) -/
def Obligations.BridgeCarriesRequestsAndResponses : Prop :=
  (∀ (w : Fin 8) (o : BrOut) (s : State), s.firstReq w.val = some o →
    (s.dieUp 0 = true → s.pathAuto o = false → exec (.bridgeReqSend w none) s = .next (s.sendClass6 o)) ∧
    (∀ (sid : Fin 4096) (e : Stitch), s.mgmtEntry sid.val = some e → let t := s.reachSt (s.stitchSt e + wordOf (txofs s.actSelv))
      exec (.bridgeReqSend w (some sid)) s = .next (t.mgmtFrames sid.val t.actSelv e (s.stitchSt e) 0
        ((t.hi.outq.find? t.pathAuto).toList.filter (· == o))))) ∧
  (∀ (sid : Fin 4096) (e : Stitch) (s : State), s.mgmtEntry sid.val = some e → let t := s.reachSt (s.stitchSt e + wordOf (txofs s.actSelv))
    exec (.mgmtStitchSend sid) s = .next (t.mgmtFrames sid.val t.actSelv e (s.stitchSt e) 0 t.hi.outq)) ∧
  (∀ (o : BrOut) (s : State), (s.sentOut o).hi.outq = eraseFirst (fun x => x == o) s.hi.outq) ∧
  (∀ (w : Fin 8) (q : BitVec 16) (r : BrReq) (s : State), s.findReq w.val q = some r →
    (r.sent = true → s.hi.outq.any (fun o => o.isReq w.val q) = false → let u := s.reachAt (r.sentAt + atLeast1 (s.rdF (brg BRG_RTX) 0 8) * 1000000)
      ∃ t, exec (.bridgeRetransmit w q) s = .next t ∧ t.now = u.now ∧
      t.hi.outq = u.hi.outq ++ [.req w.val q] ∧ t.rd (brg BRG_CNT_RTX) = (if u.rd (brg BRG_CNT_RTX) = 0xFFFFFFFF then 0xFFFFFFFF else u.rd (brg BRG_CNT_RTX) + 1)) ∧
    exec (.bridgeTimeout w q) s = .next ((s.reachAt (r.issued + atLeast1 (s.rdF (brg BRG_TMO) 0 8) * 1000000)).failReq r 0x11 0).evalBrg.settle) ∧
  (∀ (r : BrReq) (st : Nat) (row : Word) (s : State), s.hi.errs.length < 32 → (s.failReq r st row).hi.errs = s.hi.errs ++
    [[wordOf (r.w + b2n r.write * 16 + 128 + st * 256 + r.seq.toNat * 65536), wordOf r.addr, row, s.st 0]] ∧ (s.failReq r st row).rdB (brg PG_EVT) 0 = true) ∧
  (∀ (m : Byte) (s : State), s.dieUp 0 = true → exec (.bridgeFlush m) s = .next (s.brgFlush m.toNat).settle) ∧
  (∀ (w : Nat) (s : State), ∀ x ∈ (s.flushWin w).hi.blocks, x.w ≠ w) ∧
  (∀ (w : Fin 8) (b : Nat) (x : BrBlock) (s : State), s.run = false → (s.hi.blocks.find? fun x => x.w == w.val && x.block == b) = some x →
    let u := s.reachAt (x.at0 + 1000000)
    exec (.prefetchExpiry w b) s = .next { u with hi := { u.hi with blocks := u.hi.blocks.filter fun x => !(x.w == w.val && x.block == b) } }) ∧
  (∀ (rx : Rx) (h : Hdr) (b : BridgeReq) (s t : State), s.takeBridge rx h 0x08 (.bridgeReq b) = (t, true) →
    exec (.bridgeReqRx rx h b) s = .next (t.farRequest h b).settle ∧
    (t.rdB (brg BRG_CFG) 0 = false → t.farRequest h b = t.respond h.sender.toNat (t.rspTo b 1 false [])) ∧
    (t.rdB (brg BRG_CFG) 0 = true → b.target ≠ 0 → b.target ≠ t.uid → t.farRequest h b = t.respond h.sender.toNat (t.rspTo b 2 false [])) ∧
    (t.rdB (brg BRG_CFG) 0 = true → b.target = 0 → h.topo ≠ t.topoCtr → t.farRequest h b = t.respond h.sender.toNat (t.rspTo b 3 false []))) ∧
  (∀ (b : BridgeReq) (f : BrFar) (d : Nat) (s u : State) (st : Nat) (wh : Bool) (l : List Word), Assoc.get s.hi.far (b.initiator, b.window.val) = some f →
    b.seq = f.next → b.newSeq = false → s.farExec b = (u, st, wh, l) →
    ∃ v : State, s.farSequence d b = v.respond d (u.rspTo b st wh l) ∧ (∀ a, v.rd a = u.rd a) ∧
      (Assoc.get v.hi.far (b.initiator, b.window.val)).map BrFar.next = some (f.next + 1)) ∧
  (∀ (b : BridgeReq) (f : BrFar) (r : BridgeRsp) (d : Nat) (s : State), Assoc.get s.hi.far (b.initiator, b.window.val) = some f →
    0x8000 < (b.seq - f.next).toNat → b.newSeq = false → (f.held.find? fun r => r.seq == b.seq) = some r →
    s.farSequence d b = (s.count (brg BRG_CNT_DUP)).respond d r) ∧
  (∀ (rx : Rx) (h : Hdr) (b : BridgeRsp) (s t : State), s.takeBridge rx h 0x09 (.bridgeRsp b) = (t, true) → b.initiator = t.uid →
    (∀ r, t.findReq b.window.val b.seq = some r → r.write = b.write → exec (.bridgeRspRx rx h b) s = .next (t.takeRsp r b).evalBrg.settle ∧
      (b.status ≠ 0 → t.takeRsp r b = t.failReq r b.status.toNat b.farRow)) ∧
    (t.findReq b.window.val b.seq = none → exec (.bridgeRspRx rx h b) s = .next (t.count (brg BRG_CNT_LATE_RSP)))) ∧
  (∀ (d : Nat) (m : EventMsg) (s : State), s.firstEvt = some (.evt d m) → s.dieUp 0 = true → s.pathAuto (.evt d m) = false →
    exec .eventMsgSend s = .next (let u := s.sendClass6 (.evt d m); u.flushRsp d u.hi.outq.length)) ∧
  (∀ (rx : Rx) (h : Hdr) (b : EventMsg) (s t : State), s.takeBridge rx h 0x0A (.eventMsg b) = (t, true) →
    exec (.eventMsgRx rx h b) s = .next (t.takeEvt h.sender.toNat b)) ∧
  (∀ (n : Nat) (m : EventMsg) (x : EvtSender) (s : State), Assoc.get s.hi.senders m.uid = some x →
    (0x8000 ≤ (m.seq - x.next).toNat ∨ x.held.any (fun e => e.msg.seq == m.seq) = true → s.takeEvt n m = s) ∧
    ((m.seq - x.next).toNat < 0x8000 → x.held.any (fun e => e.msg.seq == m.seq) = false → s.takeEvt n m =
      { s with hi := { s.hi with senders := Assoc.put s.hi.senders m.uid { x with held := x.held ++ [{ num := n, at0 := s.now, msg := m }] } } })) ∧
  (∀ (u : Uid) (s : State), s.dieUp 0 = true → exec (.remoteEventEnqueue u) s = .next (s.enqueueNext u)) ∧
  (∀ (u : Uid) (x : EvtSender) (e : HeldEvt) (s t : State), Assoc.get s.hi.senders u = some x → (x.held.find? fun e => e.msg.seq == x.next) = some e →
    s.evtRow e.msg = some t → let y : EvtSender := { next := x.next + 1, held := x.held.filter fun e => e.msg.seq != x.next }
    s.enqueueNext u = ({ t with hi := { t.hi with senders := Assoc.put t.hi.senders u y } } : State).enqueueEvt e.num e.msg) ∧
  (∀ (n : Nat) (m : EventMsg) (s : State), (64 ≤ s.hi.revs.length → (s.enqueueEvt n m).hi.revs = s.hi.revs ∧ (s.enqueueEvt n m).rdB (brg PG_EVT) 4 = true) ∧
    (s.hi.revs.length < 64 → (s.enqueueEvt n m).rdB (brg PG_EVT) 1 = true ∧ ∃ w0, (s.enqueueEvt n m).hi.revs = s.hi.revs ++ [[w0, m.st, m.drow] ++ m.info])) ∧
  (∀ (u : Uid) (x : EvtSender) (q : HeldEvt) (s : State), Assoc.get s.hi.senders u = some x → x.nearest = some q → q.msg.seq ≠ x.next →
    let v := s.reachAt (q.at0 + 2000000)
    exec (.remoteEventGapTimeout u) s = .next ((({ v with hi := { v.hi with senders := Assoc.put v.hi.senders u { x with next := q.msg.seq } } } : State).raise (brg 0) 2).enqueueNext u)) ∧
  (∀ (ag : Agent) (s : State), s.dieUp 0 = true →
    (s.agentMay ag (brg BRG_ERR_W0) = true → ∃ t, exec (.bridgeErrPop ag) s = .next t ∧ t.hi.errs = s.hi.errs.drop 1 ∧
      t.rd (brg BRG_ERR_W1) = (s.hi.errs.headD []).getD 1 0 ∧ t.rd (brg BRG_ERR_W3) = (s.hi.errs.headD []).getD 3 0 ∧
      t.out = .read ag (brg BRG_ERR_W0) ((s.hi.errs.headD []).headD 0) :: s.out) ∧
    (s.agentMay ag (brg (BRG_REV_W 0)) = true → ∃ t, exec (.remoteEventPop ag) s = .next t ∧ t.hi.revs = s.hi.revs.drop 1 ∧
      (∀ i : Fin 7, 0 < i.val → t.rd (brg (BRG_REV_W i.val)) = (s.hi.revs.headD []).getD i.val 0) ∧
      t.out = .read ag (brg (BRG_REV_W 0)) ((s.hi.revs.headD []).headD 0) :: s.out))

/-- A transmit slot is selected only while it is VALID; keys and salts are written only while their slot is not VALID, with SA_REJ
otherwise; clearing VALID zeroes the slot's key and salt; a receive slot that would repeat a VALID slot's SCI and AN is refused
with SA_CONFLICT. OTP_PROGRAM starts programming of a bit open to software in MAINTENANCE with none under way, for 100 µs, and
is rejected with OTP_REJ otherwise; its end sets that one bit and shows the image anew. A challenge read draws a challenge of
free values and answers its first word. A response whose key's SHA-256 is the one in OTP, with a signature that verifies, opens
the TAP with every slot zeroed and UNLOCKED shown (the byte order of what is signed is the model's choice, log entry 49, and the
two algorithms are free functions); another one is counted, reported and blocks GO for 1 s. (R426, R427, R430, R431, R432,
18_security.md, log entry 49, log entry 50) -/
def Obligations.MacsecSlotsFusesAndDebugUnlock : Prop :=
  (∀ (d : Sys2Proof.Die) (m : Fin 5) (k : Fin 8) (s : State), hasSa s.part (dieNum d) m.val = true → s.takes (sa (dieNum d) m.val SEC_PORT_TXSA) = true →
    let u := s.access (sa (dieNum d) m.val SEC_PORT_TXSA)
    (u.slotValid (dieNum d) m.val false k.val = true → exec (.txsaSelect d m k) s = .next (u.wrF (sa (dieNum d) m.val SEC_PORT_TXSA) 0 3 k.val)) ∧
    (u.slotValid (dieNum d) m.val false k.val = false → exec (.txsaSelect d m k) s = .next (u.raise (sa (dieNum d) m.val 0) 0))) ∧
  (∀ (d : Sys2Proof.Die) (m : Fin 5) (rx : Bool) (k : Fin 8) (v : Word) (s : State), hasSa s.part (dieNum d) m.val = true →
    s.takes (slotReg (dieNum d) m.val rx k.val 0) = true → let u := s.access (slotReg (dieNum d) m.val rx k.val 0)
    ((rx = false ∨ bit v 0 = false ∨ u.saConflict (dieNum d) m.val k.val (fld v 1 2) (u.rxSci (dieNum d) m.val k.val) = false) →
      ∃ t, exec (.saCtrlWrite d m rx k v) s = .next t ∧ t.rdF (slotReg (dieNum d) m.val rx k.val 0) 0 3 = fld v 0 3 ∧
        (bit v 0 = false → u.slotValid (dieNum d) m.val rx k.val = true → ∀ j : Fin 11, t.rd (slotReg (dieNum d) m.val rx k.val (0x20 + 4 * j.val)) = 0)) ∧
    (rx = true → bit v 0 = true → u.saConflict (dieNum d) m.val k.val (fld v 1 2) (u.rxSci (dieNum d) m.val k.val) = true →
      exec (.saCtrlWrite d m rx k v) s = .next (u.raise (sa (dieNum d) m.val 0) 1))) ∧
  (∀ (d : Sys2Proof.Die) (m : Fin 5) (rx salt : Bool) (k j : Fin 8) (v : Word) (s : State), hasSa s.part (dieNum d) m.val = true →
    (salt = true → j.val < 3) → let a := slotReg (dieNum d) m.val rx k.val ((if salt then 0x40 else 0x20) + 4 * j.val)
    let u := s.access a
    s.takes a = true →
    (u.slotValid (dieNum d) m.val rx k.val = false → exec (.saKeyWrite d m rx k salt j v) s = .next (u.wr a v)) ∧
    (u.slotValid (dieNum d) m.val rx k.val = true → exec (.saKeyWrite d m rx k salt j v) s = .next (u.raise (sa (dieNum d) m.val 0) 0))) ∧
  (∀ (b : Fin 4096) (s : State), s.takes (sec 0 SEC_OTP_PROG) = true →
    (s.mode = .maintenance → otpReserved b.val = false → s.se.otpBusy = none → ∃ t, exec (.otpProgram b) s = .next t ∧ t.se.otpBusy = some b.val ∧
      t.rdB (sec 0 SEC_OTP_PROG) 30 = true ∧ t.rdF (sec 0 SEC_OTP_PROG) 0 12 = b.val ∧ t.otp = s.otp ∧
      t.timer (tmr (sec 0 SEC_OTP_PROG) 0) = some (s.now + 100000)) ∧
    ((s.mode ≠ .maintenance ∨ otpReserved b.val = true ∨ s.se.otpBusy ≠ none) →
      exec (.otpProgram b) s = .next ((s.access (sec 0 SEC_OTP_PROG)).raise (sec 0 0) 1))) ∧
  (∀ (b : Fin 4096) (s : State), s.reach (sec 0 SEC_OTP_PROG) = true → s.locked (sec 0 SEC_OTP_PROG) = true →
    exec (.otpProgram b) s = .next (((s.wakeFor (sec 0 SEC_OTP_PROG)).lockViol (sec 0 SEC_OTP_PROG)).raise (sec 0 0) 1)) ∧
  (∀ (b : Nat) (s : State), s.se.otpBusy = some b → b < 4096 → ∃ t, exec .otpProgramDone s = .next t ∧
    t.now = (s.expire (tmr (sec 0 SEC_OTP_PROG) 0)).now ∧ t.se.otpBusy = none ∧ t.rdB (sec 0 SEC_OTP_PROG) 30 = false ∧
    (∀ i, t.otpW i = if i = b / 32 then setBit (s.otpW i) (b % 32) true else s.otpW i) ∧ t.rd (sec 0 (SEC_OTP (b / 32))) = t.otpW (b / 32)) ∧
  (∀ (ag : Agent) (s : State), s.dieUp 0 = true → ∃ t, exec (.jtagChallengeRead ag) s = .next t ∧
    t.out = .read ag (sec 0 (SEC_JTAG_CHAL 0)) (t.rd (sec 0 (SEC_JTAG_CHAL 0))) :: s.out ∧
    ∀ i : Fin 4, t.rd (sec 0 (SEC_JTAG_CHAL i.val)) = Config.freeWord ((s.access (sec 0 (SEC_JTAG_CHAL 0))).free + i.val)) ∧
  (∀ s : State, s.takes (sec 0 SEC_JTAG_CTRL) = true → s.se.jtagBlocked = false → let u := s.access (sec 0 SEC_JTAG_CTRL)
    ∃ t, exec .jtagUnlock s = .next t ∧ t.out = (if u.responseOk then .tapOpen :: u.out else u.out) ∧
      (u.responseOk = true → t.rdB (sec 0 SEC_STAT) 1 = true ∧ (∀ a, inSlot a = true → t.rd a = regDefault a) ∧ t.rdB (sec 0 SEC_JTAG_STAT) 1 = false) ∧
      (u.responseOk = false → t.rdB (sec 0 SEC_JTAG_STAT) 1 = true ∧ t.rdF (sec 0 SEC_JTAG_STAT) 8 8 = min 255 (u.rdF (sec 0 SEC_JTAG_STAT) 8 8 + 1) ∧
        t.timer (tmr (sec 0 SEC_JTAG_CTRL) 0) = some (s.now + 1000000000) ∧ t.rdB (sec 0 PG_EVT) 2 = true ∧ t.se.jtagBlocked = true ∧
        t.rdB (sec 0 SEC_STAT) 1 = u.rdB (sec 0 SEC_STAT) 1)) ∧
  (∀ s : State, s.responseOk = (Config.sha256 s.debugKey == s.otpHash 24 &&
    Config.ecdsaOk s.debugKey (Config.sha256 s.challengeBytes) (s.regBytes (sec 0 (SEC_JTAG_RESP 0)) 16))) ∧
  (∀ s : State, s.takes (sec 0 SEC_JTAG_CTRL) = true → s.se.jtagBlocked = true →
    exec .jtagUnlock s = .next (s.access (sec 0 SEC_JTAG_CTRL))) ∧
  (∀ s : State, s.se.jtagBlocked = true → let u := s.expire (tmr (sec 0 SEC_JTAG_CTRL) 0)
    exec .jtagBlockExpiry s = .next { u with se := { u.se with jtagBlocked := false } })

/-- At a row boundary that completes its count, or that a SNAP waits for, and without rows at the tick that does, a die's statistics
give PERIOD_END and the next snapshot sequence, with the count at 0; SNAP waits for the boundary; EN is stored. A request for a
test is answered with its status: 3 without its target, 1 outside MAINTENANCE where it needs it, 2 while the test runs, each
with REQ_REF; otherwise the test runs: a buffer pass drains its first bank, a coil test sets COIL_REQ, an LBIST takes its die
out, a loop test sends its frames. A drained bank is marched, one that does not drain in its time is skipped and counted, a
failed one stays out with BIST_FAIL, and the next bank follows, with AUTO after GAP seconds. Each end writes its results and
sets DONE; the openings of an eye, latencies and loop counts are what the command reports as measured. (R438, R440, R441, R448,
R450, R451, R452, R453, R454, R455, log entry 60, 19_statistics_and_self_test.md) -/
def Obligations.StatisticsPeriodsAndSwatchTests : Prop :=
  (∀ (d : Sys2Proof.Die) (s : State), s.dieUp (dieNum d) = true → s.rdB (sta (dieNum d) STA_CFG) 0 = true →
    (s.run = true → (s.snapDue (dieNum d) = true ∨ s.periodNow (dieNum d) ≤ s.staCount (dieNum d)) → exec (.statsBoundary d) s = .next (s.staBoundary (dieNum d))) ∧
    (s.run = false → exec (.statsBoundary d) s = .next (((s.reachAt (s.staInstant (dieNum d))).staBoundary (dieNum d)).alignStats))) ∧
  (∀ (d : Sys2Proof.Die) (s : State), let t := s.staBoundary (dieNum d)
    t.rdB (sta (dieNum d) PG_EVT) 0 = true ∧ t.rd (sta (dieNum d) PG_SEQ) = s.rd (sta (dieNum d) PG_SEQ) + 1 ∧ t.rdF (sta (dieNum d) STA_STAT) 0 17 = 0 ∧
    t.rd (sta (dieNum d) STA_SNAP_ST) = s.st (dieNum d) ∧ t.snapDue (dieNum d) = false) ∧
  (∀ (d : Sys2Proof.Die) (s : State), s.takes (sta (dieNum d) STA_CTRL) = true →
    exec (.statsSnapRequest d) s = .next ((s.access (sta (dieNum d) STA_CTRL)).wrB (sta (dieNum d) STA_CTRL) 0 true)) ∧
  (∀ (d : Sys2Proof.Die) (b : Bool) (s : State), s.takes (sta (dieNum d) STA_CFG) = true →
    ∃ t, exec (.statsEnableWrite d b) s = .next t ∧ t.rdB (sta (dieNum d) STA_CFG) 0 = b) ∧
  (∀ (r : SwReq) (f : State → State) (s : State), s.swStatus r ≠ 0 → s.swRequest r f =
    ((s.wr (swt r.die SWT_REQ) (wordOf (r.code + r.target * 256))).wr (swt r.die SWT_REQ_STAT) (wordOf (s.swStatus r))).raise (swt r.die 0) 3) ∧
  (∀ (r : SwReq) (s : State), s.swStatus r = (if !r.held then 3 else if r.offline ∧ s.mode ≠ .maintenance then 1 else if s.swRuns r then 2 else 0)) ∧
  (∀ (d : Sys2Proof.Die) (n : BitVec 6) (s : State), s.takes (swt (dieNum d) SWT_REQ) = true → let u := s.access (swt (dieNum d) SWT_REQ)
    (∀ k, n.toNat < 16 → u.swRuns { die := dieNum d, code := 1, target := n.toNat, held := true, offline := false } = false → u.bankFrom (dieNum d) 0 = some k →
      ∃ t, exec (.bufBist d n) s = .next t ∧ t.rd (swt (dieNum d) SWT_REQ_STAT) = 0 ∧ t.rdB (swt (dieNum d) SWT_RUN) 1 = true ∧
        t.bist (dieNum d) = .draining ∧ t.bistBank (dieNum d) = k) ∧
    (u.swStatus (u.laneReq (dieNum d) 2 n.toNat) = 0 → ∃ t, exec (.eyeScan d n) s = .next t ∧ t.rd (swt (dieNum d) SWT_REQ_STAT) = 0 ∧
      t.rdB (swt (dieNum d) SWT_RUN) 2 = true) ∧
    (u.swStatus (u.laneReq (dieNum d) 4 n.toNat) = 0 → ∃ t, exec (.tsCal d n) s = .next t ∧ t.rd (swt (dieNum d) SWT_REQ_STAT) = 0 ∧
      t.rdB (swt (dieNum d) SWT_RUN) 4 = true) ∧
    (n.toNat < 4 → lineDie u.part (n.toNat / 2) = dieNum d → u.swRuns { die := dieNum d, code := 3, target := n.toNat, held := true, offline := false } = false →
      ∃ t, exec (.coilSwatch d n) s = .next t ∧ t.rd (swt (dieNum d) SWT_REQ_STAT) = 0 ∧ t.rdB (swt (dieNum d) SWT_RUN) 3 = true ∧ t.rdB (kby KBY_STAT) (16 + n.toNat) = true) ∧
    (u.mode = .maintenance → u.swRuns { die := dieNum d, code := 8, target := 0, held := true, offline := true } = false →
      ∃ t, exec (.lbist d) s = .next t ∧ t.rd (swt (dieNum d) SWT_REQ_STAT) = 0 ∧ t.rdB (swt (dieNum d) SWT_RUN) 8 = true ∧ t.dieUp (dieNum d) = false) ∧
    (u.mode = .maintenance → n.toNat < u.part.ports → n.toNat / 32 = dieNum d →
      u.swRuns { die := dieNum d, code := 9, target := n.toNat, held := true, offline := true } = false →
      ∃ t, exec (.extLoop d n) s = .next t ∧ t.rd (swt (dieNum d) SWT_REQ_STAT) = 0 ∧ t.rdB (swt (dieNum d) SWT_RUN) 9 = true ∧
        t.out = .tx n.toNat (.loop (u.loopLen (dieNum d)) (u.loopCount (dieNum d))) :: u.out)) ∧
  (∀ (d : Sys2Proof.Die) (s : State), s.dieUp (dieNum d) = true → let x := s.expire (bistTmr (dieNum d))
    (s.bist (dieNum d) = .draining → (∃ t, exec (.bistBankDrained d) s = .next t ∧ t.bist (dieNum d) = .march ∧ t.bistBank (dieNum d) = s.bistBank (dieNum d)) ∧
      exec (.bistDrainTimeout d) s = .next (((x.countF (swt (dieNum d) SWT_BIST_STAT) 8 8).setBist (dieNum d) .gap).bankDone (dieNum d))) ∧
    (s.bist (dieNum d) = .march → exec (.bistBankDone d true) s = .next ((s.setBist (dieNum d) .gap).bankDone (dieNum d)) ∧
      ∃ u : State, exec (.bistBankDone d false) s = .next ((u.setBist (dieNum d) .gap).bankDone (dieNum d)) ∧
        u.rdB (swt (dieNum d) SWT_BIST_STAT) (16 + s.bistBank (dieNum d)) = true ∧ u.rdB (swt (dieNum d) PG_EVT) 1 = true) ∧
    (∀ k, s.bist (dieNum d) = .gap → x.bankFrom (dieNum d) ((x.bistBank (dieNum d) + 1) % 16) = some k → ∃ t, exec (.bistGapExpiry d) s = .next t ∧
      t.bist (dieNum d) = .draining ∧ t.bistBank (dieNum d) = k)) ∧
  (∀ (d k : Nat) (s : State), s.bankFrom d (s.bistBank d + 1) = some k → s.bankDone d = (if s.rdB (swt d SWT_BIST_CFG) 0 then
    (s.setBist d .gap).arm (bistTmr d) (atLeast1 (s.rdF (swt d SWT_BIST_CFG) 8 8) * 1000000000) else s.bistStart d k)) ∧
  (∀ (d : Sys2Proof.Die) (n : Nat) (x y : Byte) (s : State), s.dieUp (dieNum d) = true → s.swTarget (dieNum d) 2 = some n → ∃ t, exec (.eyeScanDone d x y) s = .next t ∧
    t.rd (swt (dieNum d) SWT_EYE_RES) = wordOf (x.toNat + y.toNat * 256 + n % 32 * 65536 + 2 ^ 31) ∧ t.rdB (swt (dieNum d) PG_EVT) 0 = true) ∧
  (∀ (d : Sys2Proof.Die) (n : Nat) (x y : BitVec 16) (s : State), s.dieUp (dieNum d) = true → s.swTarget (dieNum d) 4 = some n → ∃ t, exec (.tsCalDone d x y) s = .next t ∧
    t.rd (swt (dieNum d) SWT_TSCAL_RES) = wordOf (x.toNat + y.toNat * 65536) ∧ t.rdB (swt (dieNum d) PG_EVT) 0 = true ∧
    (s.rdB (swt (dieNum d) SWT_TSCAL_CFG) 0 = true → ∀ p ∈ lanePorts s.part n, t.rd (prt p PRT_PTP_RXLAT) = wordOf x.toNat ∧ t.rd (prt p PRT_PTP_TXLAT) = wordOf y.toNat)) ∧
  (∀ (d : Sys2Proof.Die) (b : Bool) (n : Nat) (s : State), s.swTarget (dieNum d) 8 = some n → exec (.lbistDone d b) s = .next (s.lbistEnd (dieNum d) (wordOf (1 + b2n b * 2))) ∧
    (s.lbistEnd (dieNum d) (wordOf (1 + b2n b * 2))).rd (swt (dieNum d) SWT_LBIST) = wordOf (1 + b2n b * 2)) ∧
  (∀ (d : Sys2Proof.Die) (n : Nat) (x y : Word) (s : State), s.dieUp (dieNum d) = true → s.swTarget (dieNum d) 9 = some n → ∃ t, exec (.extLoopDone d x y) s = .next t ∧
    t.rd (swt (dieNum d) SWT_LOOP_SENT) = wordOf (s.loopCount (dieNum d)) ∧ t.rd (swt (dieNum d) SWT_LOOP_RCVD) = x ∧
    t.rd (swt (dieNum d) SWT_LOOP_ERR) = y &&& 0x7FFFFFFF ∧ t.rdB (swt (dieNum d) PG_EVT) 0 = true)

/-- A due boot reads the flash and chooses a copy, the higher version first, or waits for the host where FLASH_MODE says so; without
a marked copy it fails. A staged image that fails a check is rejected with its code shown; one that passes waits 10 ms for die 1
on a two-die part whose link is down, and else is applied; after the wait die 1 is left out. Records of the init list take
effect one after another in order, a pause with its time, a bad address or a poll that its 10 ms have ended failing the boot;
after the last one the tables are in place, the version shows, BOOT_OK is set and a waking node enters CAST-ON. GO takes a
host's image and RETRY the flash while the boot loader waits. A die 1 that comes up again is brought up with its link. What the
boot leaves open beside this is the model's choice (log entries 11, 12, 13 and 16). (R429, R465, R467, R468, R469, R470, R538,
20_startup_and_configuration.md, log entry 11, log entry 12, log entry 13, log entry 16) -/
def Obligations.BootTakesCopiesAndRunsInitList : Prop :=
  (∀ (f : FlashMarks) (s : State), s.dieUp 0 = true → s.kp.bootDue = true → s.mode ≠ .maintenance →
    ((s.bootState = 7 ∨ (s.straps.getLsbD 2 = true ∧ s.bootState ≠ 1 ∧ s.kp.tried = 0)) → ∃ t, exec (.bootStart f) s = .next t ∧ t.bootState = 7 ∧ t.kp.bootDue = false) ∧
    (s.bootState ≠ 7 → (s.straps.getLsbD 2 = false ∨ s.bootState = 1 ∨ s.kp.tried ≠ 0) → exec (.bootStart f) s = .next (s.chooseCopy f))) ∧
  (∀ (f : FlashMarks) (s : State), (f.mark0 = false → f.mark1 = false → (s.chooseCopy f).bootState = 6 ∧ (s.chooseCopy f).rdB (die 0 PG_EVT) 1 = true) ∧
    (s.mode = .waking → f.mark0 = true → f.mark1 = true → s.kp.tried = 0 → (s.chooseCopy f).bootState = 1 ∧
      (s.chooseCopy f).bootCopy = (if f.ver0.ult f.ver1 then 1 else 0))) ∧
  (∀ (i : Image) (s : State), s.dieUp 0 = true → s.kp.staged = none → s.kp.bootDue = false → s.bootCopy = srcCode i.source →
    s.bootState = (if i.source = .host then 2 else 1) →
    (s.headCode i ≠ 0 → exec (.imageReadDone i) s = .next (s.rejectImage i (s.headCode i))) ∧
    (s.headCode i = 0 → (s.part.twoDies = false ∨ s.linkUp = true ∨ s.rdB (die 0 DIE_BOOT_STAT) 6 = true) → exec (.imageReadDone i) s = .next (s.applyImage i)) ∧
    (s.headCode i = 0 → s.part.twoDies = true → s.linkUp = false → s.rdB (die 0 DIE_BOOT_STAT) 6 = false → ∃ t, exec (.imageReadDone i) s = .next t ∧
      t.bootState = 3 ∧ t.kp.staged = some i ∧ t.kp.linkWait = true ∧ t.timer linkTmr = some (s.now + 10000000))) ∧
  (∀ (i : Image) (c : Nat) (s : State), c < 256 → (s.rejectImage i c).rdF (die 0 DIE_BOOT_FAIL) (8 * srcCode i.source) 8 = c ∧
    (s.rejectImage i c).rdF (die 0 DIE_BOOT_STAT) 8 8 = c ∧ (s.rejectImage i c).kp.staged = none ∧ (i.source = .host → (s.rejectImage i c).bootState = 6)) ∧
  (∀ (i : Image) (s : State), s.kp.linkWait = true → s.linkUp = false → s.kp.staged = some i → ∃ u : State, exec .die1LinkWaitTimeout s = .next (u.applyImage i) ∧
    u.now = (s.expire linkTmr).now ∧ u.rdB (die 0 DIE_BOOT_STAT) 6 = true ∧ u.dieUp 1 = false) ∧
  (∀ (a : Nat) (v m : Word) (i : Image) (l : List InitRec) (s : State), s.kp.staged = some i → s.kp.initLeft = .write a v m :: l →
    (initAddrOk a = true → exec (.initWrite a v m) s = .next ((s.initApply a v m).settle.initRest i l)) ∧
    (initAddrOk a = false → exec (.initWrite a v m) s = .next (s.initFail i))) ∧
  (∀ a : Nat, initAddrOk a = (a % 4 == 0 && decide (a < 0x20000000))) ∧
  (∀ (us : BitVec 16) (i : Image) (l : List InitRec) (s : State), s.kp.staged = some i → s.kp.initLeft = .wait us.toNat :: l →
    exec (.initWait us) s = .next ((s.reachAt (s.now + us.toNat * 1000)).initRest i l)) ∧
  (∀ (a : Nat) (v m : Word) (b : Bool) (i : Image) (l : List InitRec) (s : State), s.kp.staged = some i → s.kp.initLeft = .poll a v m :: l →
    let x := if (s.timer pollTmr).isSome then s else s.arm pollTmr 10000000
    let y := if b then x.reachFrom pollTmr 0 else x
    (initAddrOk a = false → exec (.initPoll a v m b) s = .next (s.initFail i)) ∧
    (initAddrOk a = true → (y.leftOut a = true ∨ (if y.absent a then 0 else y.liveWord a) &&& m = v) →
      exec (.initPoll a v m b) s = .next ((y.disarm pollTmr).initRest i l)) ∧
    (initAddrOk a = true → y.leftOut a = false → (if y.absent a then 0 else y.liveWord a) &&& m ≠ v →
      exec (.initPoll a v m b) s = .next (if b then (y.disarm pollTmr).initFail i else y))) ∧
  (∀ (i : Image) (l : List InitRec) (s : State), (l ≠ [] → s.initRest i l = { s with kp := { s.kp with initLeft := l } }) ∧ s.initRest i [] = s.finishBoot i) ∧
  (∀ (i : Image) (s : State), (s.finishBoot i).bootState = 5 ∧ (s.finishBoot i).rd (die 0 DIE_BOOT_VER) = i.version ∧
    (s.finishBoot i).rdB (die 0 PG_EVT) 0 = true ∧ (s.finishBoot i).kp.inUse = some i ∧ (s.mode = .waking → (s.finishBoot i).mode = .castOn)) ∧
  (∀ s : State, s.takes (die 0 DIE_BOOT_CTRL) = true → s.bootWaits = true → ∃ t, exec .bootGo s = .next t ∧ t.bootState = 2 ∧ t.bootCopy = 2) ∧
  (∀ (f : FlashMarks) (s : State), s.takes (die 0 DIE_BOOT_CTRL) = true → s.bootWaits = true →
    exec (.bootRetry f) s = .next ((s.access (die 0 DIE_BOOT_CTRL)).bootAgain.chooseCopy f)) ∧
  (∀ s : State, s.part.twoDies = true → s.dieUp 0 = true → s.rdB (kps KPS_STAT) 9 = true → s.rdB (die 0 DIE_BOOT_STAT) 6 = false →
    s.sw.tests.any (fun t => t.code == 8 && t.die == 1) = false → exec .die1BringupDone s = .next s.bringUp1.linkAwaited ∧
      s.bringUp1.dieUp 1 = true ∧ s.bringUp1.linkUp = true) ∧
  (∀ s : State, (s.kp.linkWait = false → s.linkAwaited = s) ∧
    (∀ i, s.kp.linkWait = true → s.kp.staged = some i → s.linkAwaited = s.applyImage i))

/-- A retraining or a loss of the link takes it down, the loss with its count and event; the link up shows the latencies measured
and both trainings counted, and a boot that waits for it goes on. In AUTO a port without lock tries the other rate each RETRY
ms. A watermark read answers and starts anew from the present value. An I2C command starts unless one is BUSY, and ends with
DONE and its data or error, after 25 ms at the latest with TIMEOUT; a poll read shows its value at its period, and one that
falls due while a command runs waits for its end. (R30, R81, R289, R290, R296, R342, R343, R457, 11_forwarding_and_buffers.md,
log entry 52) -/
def Obligations.KomidonLineRatesAndI2cMasters : Prop :=
  (∀ (d : Sys2Proof.Die) (s : State), s.takes (klk (dieNum d) KLK_CTRL) = true → s.part.twoDies = true →
    ∃ t, exec (.klkRetrain d) s = .next t ∧ t.linkUp = false ∧ t.rd (klk 0 KLK_CNT_DOWN) = s.rd (klk 0 KLK_CNT_DOWN)) ∧
  (∀ s : State, s.part.twoDies = true → s.linkUp = true → ∃ t, exec .klkLinkDown s = .next t ∧ t.linkUp = false ∧ t.rdB (klk 0 PG_EVT) 0 = true ∧ t.rdB (klk 1 PG_EVT) 0 = true ∧
    t.rdB (evcc 0 PG_EVT) 2 = true ∧ t.rd (klk 0 KLK_CNT_DOWN) = (if s.rd (klk 0 KLK_CNT_DOWN) = 0xFFFFFFFF then 0xFFFFFFFF else s.rd (klk 0 KLK_CNT_DOWN) + 1)) ∧
  (∀ (r l : BitVec 16) (s : State), s.dieUp 0 = true → s.dieUp 1 = true → s.linkUp = false → s.rdB (die 0 DIE_BOOT_STAT) 6 = false →
    let t := s.linkUpNow r.toNat l.toNat
    exec (.klkLinkUp r l) s = .next t.linkAwaited ∧ t.linkUp = true ∧ t.rdF (klk 0 KLK_RTT) 0 16 = r.toNat ∧ t.rdF (klk 1 KLK_RTT) 0 16 = r.toNat ∧
      t.rd (tmu 0 TMU_KLK_LAT) = wordOf l.toNat ∧ t.rdB (klk 0 PG_EVT) 1 = true) ∧
  (∀ (d : Nat) (s : State), d ≤ 1 → (s.takeCredits d).rdF (klk d KLK_CRD_AV0) 0 10 = max 36 (s.rdF (klk (1 - d) KLK_CRD_CFG0) 0 10)) ∧
  (∀ (p : Port) (s : State), isBackbone s.part p.val = true → s.dieUp (p.val / 32) = true → s.rdF (prt p.val PRT_LINE_CFG) 0 2 = 2 →
    s.rdB (prt p.val PRT_LINE_STAT) 0 = false →
    let k := tmr (prt p.val PRT_LINE_CFG) 0
    let u := s.expire k
    ∃ t, exec (.rateTryExpiry p) s = .next t ∧ t.rdB (prt p.val PRT_LINE_STAT) 1 = !u.rdB (prt p.val PRT_LINE_STAT) 1 ∧
      t.timer k = some (u.now + atLeast1 (u.rdF (prt p.val PRT_LINE_CFG) 8 8) * 1000000) ∧ (∀ a, a ≠ prt p.val PRT_LINE_STAT → t.rd a = u.rd a)) ∧
  (∀ (a : Nat) (s : State), isWatermark a = true → s.reach a = true → a % 0x1000 ≠ BUF_MIN_FREE → ∃ t, exec (.watermarkRead a) s = .next t ∧
    t.out = .read .pcie a (s.stageFill a) :: s.out ∧ t.fw.staged = s.fw.staged.filter (· ≠ cluOf a)) ∧
  (∀ (a : Nat) (s : State), isWatermark a = true → s.reach a = true → a % 0x1000 = BUF_MIN_FREE → ∃ t, exec (.watermarkRead a) s = .next t ∧
    t.out = .read .pcie a ((s.evalBuf (dieOf a)).rd a) :: s.out ∧ t.rd a = (s.evalBuf (dieOf a)).rd (pageBase a + BUF_FREE)) ∧
  (∀ (m : Fin 2) (c : Word) (s : State), s.takes (s.i2c m.val RNG_I2C_CMD) = true → let u := s.access (s.i2c m.val RNG_I2C_CMD)
    (u.rdB (s.i2c m.val RNG_I2C_STAT) 0 = false → ∃ t, exec (.i2cCommand m c) s = .next t ∧ t.rdB (s.i2c m.val RNG_I2C_STAT) 0 = true ∧
      t.rd (s.i2c m.val RNG_I2C_CMD) = c &&& 0x0007FF7F ∧ t.timer (tmr (s.i2c m.val RNG_I2C_CMD) 0) = some (u.now + 25000000) ∧
      t.out = .i2c m.val c (u.rd (s.i2c m.val RNG_I2C_DATA)) :: u.out) ∧
    (u.rdB (s.i2c m.val RNG_I2C_STAT) 0 = true → exec (.i2cCommand m c) s = .next u)) ∧
  (∀ (m k : Fin 2) (v : Byte) (s : State), s.dieUp (dieOf (s.i2c m.val 0)) = true → s.rdB (s.i2c m.val (RNG_I2C_POLL k.val)) 31 = true →
    s.rdF (s.i2c m.val RNG_I2C_CFG) 8 8 ≠ 0 → let u := s.expire (tmr (s.i2c m.val (RNG_I2C_POLL k.val)) 0)
    (u.rdB (s.i2c m.val RNG_I2C_STAT) 0 = false → ∃ t, exec (.i2cPollRead m k v) s = .next t ∧ t.now = u.now ∧ t.rd (s.i2c m.val (RNG_I2C_POLL_VAL k.val)) = wordOf v.toNat) ∧
    (u.rdB (s.i2c m.val RNG_I2C_STAT) 0 = true → ∃ t, exec (.i2cPollRead m k v) s = .next t ∧ t.kp.i2cPolls = u.kp.i2cPolls ++ [(m.val, k.val, v)])) ∧
  (∀ (m : Fin 2) (r : I2cEnd) (s : State), s.dieUp (dieOf (s.i2c m.val 0)) = true → s.rdB (s.i2c m.val RNG_I2C_STAT) 0 = true →
    ∃ t, exec (.i2cDone m r) s = .next t ∧ t.rdB (s.i2c m.val RNG_I2C_STAT) 0 = false ∧ t.rdB (pageBase (s.i2c m.val 0) + PG_EVT) 7 = true ∧
      (r = .nack → t.rdB (s.i2c m.val RNG_I2C_STAT) 1 = true) ∧
      (r = .timeout → t.rdB (s.i2c m.val RNG_I2C_STAT) 2 = true ∧ t.now = (s.expire (tmr (s.i2c m.val RNG_I2C_CMD) 0)).now) ∧
      (∀ w, r = .ok w → bit (s.rd (s.i2c m.val RNG_I2C_CMD)) 18 = false → let n := 8 * (fld (s.rd (s.i2c m.val RNG_I2C_CMD)) 16 2 + 1)
        t.rdF (s.i2c m.val RNG_I2C_DATA) 0 n = fld w 0 n))

/-- SOFT_RESET returns the block registers of its page to their reset values with PG_EVT clear, the page locked and BUSY set until
it is done; it waits while FROZEN on the SCH, INA and FWD pages, and is discarded on the pages without one. ENABLE is stored on
a port page and a port held at 0; on a page without it, it does nothing; POWER_REQ is stored with the floors following. A 1
written to PG_EVT clears its bit unless hardware sets it in the same cycle. Each MDIO command starts its frame with its clause,
OP, PHY and register unless one is BUSY, the frame waiting while RST_OUT_N is low (log entry 52), and ends with DONE and a
read's data, or NO_TA. (R479, R481, R482, R483, R485, R492, 21_register_map.md, log entry 51, log entry 52) -/
def Obligations.PageHeadersAndMdioMasters : Prop :=
  (∀ (page : Nat) (p : Page) (s : State), s.pageOf page = some p → s.takes (pageBase page + PG_CTRL) = true → let u := s.access (pageBase page + PG_CTRL)
    (noSoftReset p.kind = true → exec (.softReset page) s = .next u) ∧
    (noSoftReset p.kind = false → u.frozen = false → exec (.softReset page) s = .next (u.softNow p (pageBase page))) ∧
    (noSoftReset p.kind = false → p.kind ≠ .sch → p.kind ≠ .ina → p.kind ≠ .fwd → exec (.softReset page) s = .next (u.softNow p (pageBase page))) ∧
    (p.kind = .sch ∨ p.kind = .ina ∨ p.kind = .fwd → u.frozen = true →
      exec (.softReset page) s = .next { u with tp := { u.tp with resets := u.tp.resets ++ [pageBase page] } })) ∧
  (∀ (page : Nat) (p : Page) (s : State), s.pageOf page = some p → p.kind ∈ [PageKind.sa, .msix, .txRings, .rxRings, .krt, .kms] →
    let t := s.softNow p (pageBase page)
    (∀ a, softReg (pageBase page) a = true → t.rd a = regDefault a) ∧ t.rd (pageBase page + PG_EVT) = 0 ∧ t.lockCount (pageBase page) = 0 ∧
      t.rdB (pageBase page + PG_STAT) 1 = true ∧ (∀ a, pageBase a ≠ pageBase page → t.rd a = s.rd a)) ∧
  (∀ (page : Nat) (s : State), (s.pageOf page).isSome = true → ∃ t, exec (.softResetDone page) s = .next t ∧ t.rdB (pageBase page + PG_STAT) 1 = false ∧
    ∀ a, a ≠ pageBase page + PG_STAT → t.rd a = s.rd a) ∧
  (∀ (page : Nat) (b : Bool) (p : Page) (s : State), s.pageOf page = some p → s.takes (pageBase page + PG_CTRL) = true → let u := s.access (pageBase page + PG_CTRL)
    (p.kind = .prt → exec (.portEnableWrite page b) s = .next (if b then u.wrB (prt (p.die * 32 + p.idx) PG_CTRL) 0 true
      else (u.wrB (prt (p.die * 32 + p.idx) PG_CTRL) 0 false).portHeld (p.die * 32 + p.idx))) ∧
    (p.kind = .fld → exec (.portEnableWrite page b) s = .next (u.fldEnable b)) ∧
    (p.kind ≠ .prt → p.kind ≠ .fld → exec (.portEnableWrite page b) s = .next u)) ∧
  (∀ (p : Port) (v : BitVec 2) (s : State), p.val < s.part.ports → s.takes (prt p.val PG_CTRL) = true → let u := s.access (prt p.val PG_CTRL)
    (v ≠ 2 → exec (.powerReqWrite p v) s = .next (u.wrF (prt p.val PG_CTRL) 2 2 v.toNat).evalFloors) ∧
    (v = 2 → exec (.powerReqWrite p v) s = .next ((u.wrF (prt p.val PG_CTRL) 2 2 2).portHeld p.val).evalFloors)) ∧
  (∀ (page : Nat) (ones set : Word) (s : State), (s.pageOf page).isSome = true → s.takes (pageBase page + PG_EVT) = true → let u := s.access (pageBase page + PG_EVT)
    ∃ t, exec (.pgEvtClear page ones set) s = .next t ∧ ∀ i < 32,
      t.rdB (pageBase page + PG_EVT) i = (bit set i || (u.rdB (pageBase page + PG_EVT) i && !bit ones i))) ∧
  (∀ (m : Fin 2) (phy reg : BitVec 5) (s : State), s.takes (s.mdio m.val DIE_MDIO_CMD) = true → let u := s.access (s.mdio m.val DIE_MDIO_CMD)
    exec (.mdioC22Write m phy reg) s = .next (u.mdioGo m.val (wordOf (phy.toNat + reg.toNat * 2 ^ 5 + 0x400))) ∧
    exec (.mdioC22Read m phy reg) s = .next (u.mdioGo m.val (wordOf (phy.toNat + reg.toNat * 2 ^ 5 + 0x800))) ∧
    exec (.mdioC45Address m phy reg) s = .next (u.mdioGo m.val (wordOf (phy.toNat + reg.toNat * 2 ^ 5 + 0x1000))) ∧
    exec (.mdioC45Write m phy reg) s = .next (u.mdioGo m.val (wordOf (phy.toNat + reg.toNat * 2 ^ 5 + 0x1400))) ∧
    exec (.mdioC45ReadInc m phy reg) s = .next (u.mdioGo m.val (wordOf (phy.toNat + reg.toNat * 2 ^ 5 + 0x1800))) ∧
    exec (.mdioC45Read m phy reg) s = .next (u.mdioGo m.val (wordOf (phy.toNat + reg.toNat * 2 ^ 5 + 0x1C00)))) ∧
  (∀ (m : Fin 2) (v : Word) (s : State), (s.rdB (s.mdio m.val DIE_MDIO_STAT) 0 = true → s.mdioGo m.val v = s) ∧
    (s.rdB (s.mdio m.val DIE_MDIO_STAT) 0 = false → (s.mdioGo m.val v).rdB (s.mdio m.val DIE_MDIO_STAT) 0 = true ∧
      (s.mdioGo m.val v).rd (s.mdio m.val DIE_MDIO_CMD) = v &&& 0x1FFF ∧
      (s.mdioGo m.val v).out = (if s.rdB (kps KPS_STAT) 10 then s.out else
        .mdio m.val (bit v 12) (fld v 10 2) (fld v 0 5) (fld v 5 5) (s.rdF (s.mdio m.val DIE_MDIO_DATA) 0 16) :: s.out))) ∧
  (∀ (m : Fin 2) (x : BitVec 16) (no : Bool) (s : State), s.rdB (s.mdio m.val DIE_MDIO_STAT) 0 = true → s.dieUp (dieOf (s.mdio m.val 0)) = true →
    s.rdB (kps KPS_STAT) 10 = false → ∃ t, exec (.mdioDone m x no) s = .next t ∧ t.now = (s.expire (tmr (s.mdio m.val DIE_MDIO_CMD) 0)).now ∧
      t.rdB (s.mdio m.val DIE_MDIO_STAT) 0 = false ∧
      t.rdB (s.mdio m.val DIE_MDIO_STAT) 1 = true ∧ t.rdB (pageBase (s.mdio m.val 0) + PG_EVT) 3 = true ∧
      (s.mdioReads m.val = true → t.rd (s.mdio m.val DIE_MDIO_DATA) = (if no then 0xFFFF else wordOf x.toNat) ∧ t.rdB (s.mdio m.val DIE_MDIO_STAT) 2 = no))
end

