-- ==== Sys2Proof/Laws/Fields.lean ====
section
/-! SUPPORT. The fields of a word: what a field reads after a field has been written. -/

namespace Sys2Proof.Machine

theorem fld_testBit (w : Word) (lo n j : Nat) : (fld w lo n).testBit j = (decide (j < n) && w.getLsbD (lo + j)) := by
  unfold fld
  rw [Nat.testBit_mod_two_pow, Nat.testBit_div_two_pow, Nat.add_comm]
  rfl

theorem bit_getLsbD (w : Word) (i : Nat) : bit w i = w.getLsbD i := by
  unfold bit
  rw [BitVec.getLsbD, Nat.testBit_eq_decide_div_mod_eq]
  rfl

theorem setFld_getLsbD (w : Word) (lo n v j : Nat) (hj : j < 32) :
    (setFld w lo n v).getLsbD j = if lo ≤ j ∧ j < lo + n then v.testBit (j - lo) else w.getLsbD j := by
  have e : w.toNat % 2 ^ lo + v % 2 ^ n * 2 ^ lo + w.toNat / 2 ^ (lo + n) * 2 ^ (lo + n) =
      2 ^ (lo + n) * (w.toNat / 2 ^ (lo + n)) + (2 ^ lo * (v % 2 ^ n) + w.toNat % 2 ^ lo) := by
    rw [Nat.mul_comm _ (2 ^ (lo + n)), Nat.mul_comm _ (2 ^ lo)]; omega
  have h1 : w.toNat % 2 ^ lo < 2 ^ lo := Nat.mod_lt _ (Nat.two_pow_pos _)
  have h2 : v % 2 ^ n < 2 ^ n := Nat.mod_lt _ (Nat.two_pow_pos _)
  have h3 : 2 ^ lo * (v % 2 ^ n) + w.toNat % 2 ^ lo < 2 ^ (lo + n) := by
    rw [Nat.pow_add]
    calc 2 ^ lo * (v % 2 ^ n) + w.toNat % 2 ^ lo < 2 ^ lo * (v % 2 ^ n) + 2 ^ lo := by omega
      _ = 2 ^ lo * (v % 2 ^ n + 1) := by rw [Nat.mul_add, Nat.mul_one]
      _ ≤ 2 ^ lo * 2 ^ n := Nat.mul_le_mul_left _ h2
  unfold setFld
  rw [e, BitVec.getLsbD_ofNat, Nat.testBit_two_pow_mul_add _ h3, Nat.testBit_two_pow_mul_add _ h1,
    Nat.testBit_div_two_pow, Nat.testBit_mod_two_pow, Nat.testBit_mod_two_pow]
  simp only [hj, decide_true, Bool.true_and, BitVec.getLsbD]
  by_cases a : j < lo
  · simp [a, show j < lo + n by omega, show ¬ lo ≤ j by omega]
  · by_cases b : j < lo + n
    · simp [a, b, show lo ≤ j by omega, show j - lo < n by omega]
    · simp [a, b, show j - (lo + n) + (lo + n) = j by omega]

/-- A field reads what was written to it. -/
theorem fld_setFld (w : Word) (lo n v : Nat) (h : lo + n ≤ 32) : fld (setFld w lo n v) lo n = v % 2 ^ n := by
  apply Nat.eq_of_testBit_eq
  intro j
  rw [fld_testBit, Nat.testBit_mod_two_pow]
  by_cases hj : j < n
  · rw [setFld_getLsbD _ _ _ _ _ (by omega)]
    simp [hj, show lo + j < lo + n by omega]
  · simp [hj]

/-- A field apart from the one written stays. -/
theorem fld_setFld_ne (w : Word) (lo n v lo' n' : Nat) (h' : lo' + n' ≤ 32) (h : lo' + n' ≤ lo ∨ lo + n ≤ lo') :
    fld (setFld w lo n v) lo' n' = fld w lo' n' := by
  apply Nat.eq_of_testBit_eq
  intro j
  rw [fld_testBit, fld_testBit]
  by_cases hj : j < n'
  · rw [setFld_getLsbD _ _ _ _ _ (by omega), if_neg (by omega)]
  · simp [hj]

/-- A bit reads what was written to it, and the other bits stay. -/
theorem bit_setBit (w : Word) (i j : Nat) (b : Bool) (hi : i < 32) : bit (setBit w i b) j = if j = i then b else bit w j := by
  rw [bit_getLsbD, bit_getLsbD]
  by_cases hj : j < 32
  · unfold setBit
    rw [setFld_getLsbD _ _ _ _ _ hj]
    by_cases e : j = i
    · subst e; cases b <;> simp
    · rw [if_neg (by omega), if_neg e]
  · rw [if_neg (by omega), BitVec.getLsbD_of_ge _ _ (by omega), BitVec.getLsbD_of_ge _ _ (by omega)]

/-- Setting a bit loses no bit that is 1. -/
theorem setBit_keeps_ones (v : Word) (i : Nat) : v &&& ~~~ setBit v i true = 0 := by
  apply BitVec.eq_of_getLsbD_eq
  intro j hj
  unfold setBit
  simp only [BitVec.getLsbD_and, BitVec.getLsbD_not, hj, decide_true, Bool.true_and, setFld_getLsbD _ _ _ _ _ hj, if_true]
  split
  · rename_i e
    simp [show j - i = 0 by omega]
  · simp

end Sys2Proof.Machine
end

