-- ==== Sys2Proof/Laws/Store.lean ====
section
/-! SUPPORT. Laws of sparse stores: what a key reads as after a write or a drop, and that both keep the canonical form. -/

namespace Sys2Proof.Machine

variable {α : Type} [DecidableEq α] {dflt : Nat → α} {es : List (Nat × α)}

theorem Sparse.wf_nil : Sparse.wf dflt [] = true := rfl

theorem Sparse.wfFrom_mono {lo hi : Nat} (h : lo ≤ hi) (hw : Sparse.wfFrom dflt hi es = true) : Sparse.wfFrom dflt lo es = true := by
  cases es with
  | nil => rfl
  | cons e es =>
    simp only [Sparse.wfFrom, Bool.and_eq_true, decide_eq_true_eq] at hw ⊢
    exact ⟨⟨Nat.le_trans h hw.1.1, hw.1.2⟩, hw.2⟩

/-- Dropping keys keeps the canonical form. -/
theorem Sparse.wf_drop {p : Nat → Bool} {lo : Nat} (hw : Sparse.wfFrom dflt lo es = true) :
    Sparse.wfFrom dflt lo (Sparse.drop p es) = true := by
  induction es generalizing lo with
  | nil => rfl
  | cons e es ih =>
    simp only [Sparse.wfFrom, Bool.and_eq_true, decide_eq_true_eq] at hw
    unfold Sparse.drop
    split
    · exact Sparse.wfFrom_mono (Nat.le_succ_of_le hw.1.1) (ih hw.2)
    · simp only [Sparse.wfFrom, Bool.and_eq_true, decide_eq_true_eq]
      exact ⟨hw.1, ih hw.2⟩

theorem Sparse.wf_erase {k lo : Nat} (hw : Sparse.wfFrom dflt lo es = true) : Sparse.wfFrom dflt lo (Sparse.erase k es) = true := by
  induction es generalizing lo with
  | nil => rfl
  | cons e es ih =>
    simp only [Sparse.wfFrom, Bool.and_eq_true, decide_eq_true_eq] at hw
    unfold Sparse.erase
    split
    · exact Sparse.wfFrom_mono (Nat.le_succ_of_le hw.1.1) (ih hw.2)
    · simp only [Sparse.wfFrom, Bool.and_eq_true, decide_eq_true_eq]
      exact ⟨hw.1, ih hw.2⟩

omit [DecidableEq α] in
theorem Sparse.erase_ne {k : Nat} {e : Nat × α} (h : e ∈ Sparse.erase k es) : e.1 ≠ k := by
  induction es with
  | nil => cases h
  | cons x es ih =>
    unfold Sparse.erase at h
    split at h
    · exact ih h
    · rcases List.mem_cons.1 h with rfl | h
      · assumption
      · exact ih h

theorem Sparse.wf_insert {k : Nat} {v : α} {lo : Nat} (hw : Sparse.wfFrom dflt lo es = true) (hlo : lo ≤ k) (hv : v ≠ dflt k)
    (hne : ∀ e ∈ es, e.1 ≠ k) : Sparse.wfFrom dflt lo (Sparse.insert k v es) = true := by
  induction es generalizing lo with
  | nil => simp [Sparse.insert, Sparse.wfFrom, hlo, hv]
  | cons e es ih =>
    simp only [Sparse.wfFrom, Bool.and_eq_true, decide_eq_true_eq] at hw
    unfold Sparse.insert
    split
    · rename_i hlt
      simp only [Sparse.wfFrom, Bool.and_eq_true, decide_eq_true_eq]
      exact ⟨⟨hlo, hv⟩, ⟨hlt, hw.1.2⟩, hw.2⟩
    · rename_i hlt
      simp only [Sparse.wfFrom, Bool.and_eq_true, decide_eq_true_eq]
      have hk : e.1 ≠ k := hne e (List.mem_cons_self ..)
      exact ⟨hw.1, ih hw.2 (by omega) fun x hx => hne x (List.mem_cons_of_mem _ hx)⟩

/-- A write keeps the canonical form. -/
theorem Sparse.wf_set {k : Nat} {v : α} (hw : Sparse.wf dflt es = true) : Sparse.wf dflt (Sparse.set dflt es k v) = true := by
  unfold Sparse.set
  split
  · exact Sparse.wf_erase hw
  · rename_i hv
    exact Sparse.wf_insert (Sparse.wf_erase hw) (Nat.zero_le k) hv fun e he => Sparse.erase_ne he

omit [DecidableEq α] in
theorem Sparse.get_erase (k j : Nat) : Sparse.get dflt (Sparse.erase k es) j = if k = j then dflt j else Sparse.get dflt es j := by
  induction es with
  | nil => simp [Sparse.erase, Sparse.get]
  | cons e es ih =>
    unfold Sparse.erase
    split
    · rename_i h; rw [ih]; by_cases hj : k = j
      · simp [hj]
      · have : e.1 ≠ j := by omega
        simp [hj, Sparse.get, this]
    · rename_i h
      by_cases hj : e.1 = j
      · have : k ≠ j := by omega
        simp [Sparse.get, hj, this]
      · simp [Sparse.get, hj, ih]

omit [DecidableEq α] in
theorem Sparse.get_insert {k : Nat} (v : α) (j : Nat) (hne : ∀ e ∈ es, e.1 ≠ k) :
    Sparse.get dflt (Sparse.insert k v es) j = if k = j then v else Sparse.get dflt es j := by
  induction es with
  | nil => simp [Sparse.insert, Sparse.get]
  | cons e es ih =>
    unfold Sparse.insert
    split
    · simp [Sparse.get]
    · have hk : e.1 ≠ k := hne e (List.mem_cons_self ..)
      have ih' := ih fun x hx => hne x (List.mem_cons_of_mem _ hx)
      by_cases hj : e.1 = j
      · have : k ≠ j := by omega
        simp [Sparse.get, hj, this]
      · simp [Sparse.get, hj, ih']

/-- Read after write. -/
theorem Sparse.get_set (k : Nat) (v : α) (j : Nat) :
    Sparse.get dflt (Sparse.set dflt es k v) j = if k = j then v else Sparse.get dflt es j := by
  unfold Sparse.set
  split
  · rename_i h; rw [Sparse.get_erase]; by_cases hj : k = j
    · simp [hj, h]
    · simp [hj]
  · rw [Sparse.get_insert v j fun e he => Sparse.erase_ne he, Sparse.get_erase]
    by_cases hj : k = j <;> simp [hj]

omit [DecidableEq α] in
/-- A dropped key reads as its default, any other as before. -/
theorem Sparse.get_drop (p : Nat → Bool) (j : Nat) :
    Sparse.get dflt (Sparse.drop p es) j = if p j then dflt j else Sparse.get dflt es j := by
  induction es with
  | nil => simp [Sparse.drop, Sparse.get]
  | cons e es ih =>
    unfold Sparse.drop
    split
    · rename_i h; rw [ih]; by_cases hj : e.1 = j
      · subst hj; simp [h]
      · simp [Sparse.get, hj]
    · rename_i h
      by_cases hj : e.1 = j
      · subst hj; simp [Sparse.get, h]
      · simp [Sparse.get, hj, ih]

end Sys2Proof.Machine
end

