-- ==== Sys2Proof/Laws/Keeps.lean ====
section
/-! SUPPORT. What every function of the machine keeps, as one relation with one lemma for each function: the stores stay
canonical, the part and the queue stay, no fuse goes back to 0, and the components of the state that the function does not write
stay as they are. -/

namespace Sys2Proof.Machine

/-- A set of components, by the bits of a number, lies within another one. -/
abbrev Sub (a b : Nat) : Prop := a ||| b = b

theorem Sub.bit {a b i : Nat} (h : Sub a b) (hi : a.testBit i = true) : b.testBit i = true := by
  unfold Sub at h
  have := congrArg (fun n => Nat.testBit n i) h
  simp only [Nat.testBit_or, hi, Bool.true_or] at this
  exact this.symm

theorem Sub.trans {a b c : Nat} (h : Sub a b) (k : Sub b c) : Sub a c := by
  unfold Sub at *
  rw [← k, ← Nat.or_assoc, h]

theorem Sub.refl (a : Nat) : Sub a a := Nat.or_self a

/-- From `s` to `t` only components of the set `w` have changed, and the whole-machine rules are kept. -/
structure Keeps (w : Nat) (s t : State) : Prop where
  regsOk : Sparse.wf regDefault s.regs = true → Sparse.wf regDefault t.regs = true
  tblOk : Sparse.wf (fun _ => (0 : Byte)) s.tbl = true → Sparse.wf (fun _ => (0 : Byte)) t.tbl = true
  otpOk : Sparse.wf (fun _ => (0 : Word)) s.otp = true → Sparse.wf (fun _ => (0 : Word)) t.otp = true
  fuses : ∀ i, s.otpW i &&& ~~~ t.otpW i = 0
  part : t.part = s.part
  pending : t.pending = s.pending
  straps : w.testBit 1 = false → t.straps = s.straps
  regs : w.testBit 2 = false → t.regs = s.regs
  tbl : w.testBit 3 = false → t.tbl = s.tbl
  otp : w.testBit 4 = false → t.otp = s.otp
  lat : w.testBit 5 = false → t.lat = s.lat
  kp : w.testBit 6 = false → t.kp = s.kp
  tm : w.testBit 7 = false → t.tm = s.tm
  ev : w.testBit 8 = false → t.ev = s.ev
  se : w.testBit 9 = false → t.se = s.se
  sc : w.testBit 10 = false → t.sc = s.sc
  sw : w.testBit 11 = false → t.sw = s.sw
  rg : w.testBit 12 = false → t.rg = s.rg
  dk : w.testBit 13 = false → t.dk = s.dk
  tp : w.testBit 14 = false → t.tp = s.tp
  pr : w.testBit 15 = false → t.pr = s.pr
  cn : w.testBit 16 = false → t.cn = s.cn
  fw : w.testBit 17 = false → t.fw = s.fw
  fb : w.testBit 18 = false → t.fb = s.fb
  hi : w.testBit 19 = false → t.hi = s.hi
  live : w.testBit 20 = false → t.live = s.live
  since : w.testBit 21 = false → t.since = s.since
  stats : w.testBit 22 = false → t.stats = s.stats
  rgnEdge : w.testBit 23 = false → t.rgnEdge = s.rgnEdge
  el : w.testBit 24 = false → t.el = s.el
  out : w.testBit 25 = false → t.out = s.out
  free : w.testBit 26 = false → t.free = s.free

theorem Keeps.refl (w : Nat) (s : State) : Keeps w s s := by
  constructor <;> first | exact fun h => h | exact fun _ => rfl | (intro i; exact BitVec.and_not_self _) | rfl

theorem fuses_trans {a b c : Word} (h : a &&& ~~~ b = 0) (k : b &&& ~~~ c = 0) : a &&& ~~~ c = 0 := by
  apply BitVec.eq_of_getLsbD_eq
  intro i hi
  have h' := congrArg (fun v => BitVec.getLsbD v i) h
  have k' := congrArg (fun v => BitVec.getLsbD v i) k
  simp only [BitVec.getLsbD_and, BitVec.getLsbD_not, hi, decide_true, Bool.true_and] at *
  revert h' k'
  cases a.getLsbD i <;> cases b.getLsbD i <;> cases c.getLsbD i <;> simp

theorem Keeps.trans {w : Nat} {s t u : State} (h : Keeps w s t) (k : Keeps w t u) : Keeps w s u where
  regsOk x := k.regsOk (h.regsOk x)
  tblOk x := k.tblOk (h.tblOk x)
  otpOk x := k.otpOk (h.otpOk x)
  fuses i := fuses_trans (h.fuses i) (k.fuses i)
  part := k.part.trans h.part
  pending := k.pending.trans h.pending
  straps x := (k.straps x).trans (h.straps x)
  regs x := (k.regs x).trans (h.regs x)
  tbl x := (k.tbl x).trans (h.tbl x)
  otp x := (k.otp x).trans (h.otp x)
  lat x := (k.lat x).trans (h.lat x)
  kp x := (k.kp x).trans (h.kp x)
  tm x := (k.tm x).trans (h.tm x)
  ev x := (k.ev x).trans (h.ev x)
  se x := (k.se x).trans (h.se x)
  sc x := (k.sc x).trans (h.sc x)
  sw x := (k.sw x).trans (h.sw x)
  rg x := (k.rg x).trans (h.rg x)
  dk x := (k.dk x).trans (h.dk x)
  tp x := (k.tp x).trans (h.tp x)
  pr x := (k.pr x).trans (h.pr x)
  cn x := (k.cn x).trans (h.cn x)
  fw x := (k.fw x).trans (h.fw x)
  fb x := (k.fb x).trans (h.fb x)
  hi x := (k.hi x).trans (h.hi x)
  live x := (k.live x).trans (h.live x)
  since x := (k.since x).trans (h.since x)
  stats x := (k.stats x).trans (h.stats x)
  rgnEdge x := (k.rgnEdge x).trans (h.rgnEdge x)
  el x := (k.el x).trans (h.el x)
  out x := (k.out x).trans (h.out x)
  free x := (k.free x).trans (h.free x)

/-- A larger set of components. -/
theorem Keeps.mono {v w : Nat} {s t : State} (hs : Sub v w) (h : Keeps v s t) : Keeps w s t := by
  have hb : ∀ i, w.testBit i = false → v.testBit i = false := fun i hi => by
    cases hv : v.testBit i with
    | false => rfl
    | true => rw [Sub.bit hs hv] at hi; cases hi
  exact { h with
    straps := fun x => h.straps (hb _ x)
    regs := fun x => h.regs (hb _ x)
    tbl := fun x => h.tbl (hb _ x)
    otp := fun x => h.otp (hb _ x)
    lat := fun x => h.lat (hb _ x)
    kp := fun x => h.kp (hb _ x)
    tm := fun x => h.tm (hb _ x)
    ev := fun x => h.ev (hb _ x)
    se := fun x => h.se (hb _ x)
    sc := fun x => h.sc (hb _ x)
    sw := fun x => h.sw (hb _ x)
    rg := fun x => h.rg (hb _ x)
    dk := fun x => h.dk (hb _ x)
    tp := fun x => h.tp (hb _ x)
    pr := fun x => h.pr (hb _ x)
    cn := fun x => h.cn (hb _ x)
    fw := fun x => h.fw (hb _ x)
    fb := fun x => h.fb (hb _ x)
    hi := fun x => h.hi (hb _ x)
    live := fun x => h.live (hb _ x)
    since := fun x => h.since (hb _ x)
    stats := fun x => h.stats (hb _ x)
    rgnEdge := fun x => h.rgnEdge (hb _ x)
    el := fun x => h.el (hb _ x)
    out := fun x => h.out (hb _ x)
    free := fun x => h.free (hb _ x) }

/-- A record update: each component is the old one or lies in the set; the stores stay canonical. -/
theorem keeps_upd {w : Nat} {s0 s : State} (h : Keeps w s0 s)
    {straps' : Byte}
    {regs' : List (Nat × Word)}
    {tbl' : List Host.Cell}
    {lat' : List (Agent × Nat × Word)}
    {kp' : Keeper}
    {tm' : TimeUnit}
    {ev' : EventCtl}
    {se' : Security}
    {sc' : Sched}
    {sw' : Swatch}
    {rg' : Ring}
    {dk' : Datasets}
    {tp' : Topo}
    {pr' : Twin}
    {cn' : Consist}
    {fw' : Forwarding}
    {fb' : FieldBus}
    {hi' : HostIf}
    {live' : List (Nat × Nat)}
    {since' : List (Nat × Nat)}
    {stats' : Stats}
    {rgnEdge' : List (Nat × Nat)}
    {el' : Elapsed}
    {out' : List Out}
    {free' : Nat}
    (hr : Sparse.wf regDefault s.regs = true → Sparse.wf regDefault regs' = true)
    (ht : Sparse.wf (fun _ => (0 : Byte)) s.tbl = true → Sparse.wf (fun _ => (0 : Byte)) tbl' = true)
    (h_straps : w.testBit 1 = true ∨ straps' = s.straps)
    (h_regs : w.testBit 2 = true ∨ regs' = s.regs)
    (h_tbl : w.testBit 3 = true ∨ tbl' = s.tbl)
    (h_lat : w.testBit 5 = true ∨ lat' = s.lat)
    (h_kp : w.testBit 6 = true ∨ kp' = s.kp)
    (h_tm : w.testBit 7 = true ∨ tm' = s.tm)
    (h_ev : w.testBit 8 = true ∨ ev' = s.ev)
    (h_se : w.testBit 9 = true ∨ se' = s.se)
    (h_sc : w.testBit 10 = true ∨ sc' = s.sc)
    (h_sw : w.testBit 11 = true ∨ sw' = s.sw)
    (h_rg : w.testBit 12 = true ∨ rg' = s.rg)
    (h_dk : w.testBit 13 = true ∨ dk' = s.dk)
    (h_tp : w.testBit 14 = true ∨ tp' = s.tp)
    (h_pr : w.testBit 15 = true ∨ pr' = s.pr)
    (h_cn : w.testBit 16 = true ∨ cn' = s.cn)
    (h_fw : w.testBit 17 = true ∨ fw' = s.fw)
    (h_fb : w.testBit 18 = true ∨ fb' = s.fb)
    (h_hi : w.testBit 19 = true ∨ hi' = s.hi)
    (h_live : w.testBit 20 = true ∨ live' = s.live)
    (h_since : w.testBit 21 = true ∨ since' = s.since)
    (h_stats : w.testBit 22 = true ∨ stats' = s.stats)
    (h_rgnEdge : w.testBit 23 = true ∨ rgnEdge' = s.rgnEdge)
    (h_el : w.testBit 24 = true ∨ el' = s.el)
    (h_out : w.testBit 25 = true ∨ out' = s.out)
    (h_free : w.testBit 26 = true ∨ free' = s.free)
    : Keeps w s0 { part := s.part, straps := straps', regs := regs', tbl := tbl', otp := s.otp, lat := lat', kp := kp', tm := tm', ev := ev', se := se', sc := sc', sw := sw', rg := rg', dk := dk', tp := tp', pr := pr', cn := cn', fw := fw', fb := fb', hi := hi', live := live', since := since', stats := stats', rgnEdge := rgnEdge', el := el', out := out', free := free', pending := s.pending } where
  regsOk x := hr (h.regsOk x)
  tblOk x := ht (h.tblOk x)
  otpOk x := h.otpOk x
  fuses := h.fuses
  part := h.part
  pending := h.pending
  straps x := by
    rcases h_straps with e | e
    · rw [e] at x; cases x
    · exact e.trans (h.straps x)
  regs x := by
    rcases h_regs with e | e
    · rw [e] at x; cases x
    · exact e.trans (h.regs x)
  tbl x := by
    rcases h_tbl with e | e
    · rw [e] at x; cases x
    · exact e.trans (h.tbl x)
  otp x := h.otp x
  lat x := by
    rcases h_lat with e | e
    · rw [e] at x; cases x
    · exact e.trans (h.lat x)
  kp x := by
    rcases h_kp with e | e
    · rw [e] at x; cases x
    · exact e.trans (h.kp x)
  tm x := by
    rcases h_tm with e | e
    · rw [e] at x; cases x
    · exact e.trans (h.tm x)
  ev x := by
    rcases h_ev with e | e
    · rw [e] at x; cases x
    · exact e.trans (h.ev x)
  se x := by
    rcases h_se with e | e
    · rw [e] at x; cases x
    · exact e.trans (h.se x)
  sc x := by
    rcases h_sc with e | e
    · rw [e] at x; cases x
    · exact e.trans (h.sc x)
  sw x := by
    rcases h_sw with e | e
    · rw [e] at x; cases x
    · exact e.trans (h.sw x)
  rg x := by
    rcases h_rg with e | e
    · rw [e] at x; cases x
    · exact e.trans (h.rg x)
  dk x := by
    rcases h_dk with e | e
    · rw [e] at x; cases x
    · exact e.trans (h.dk x)
  tp x := by
    rcases h_tp with e | e
    · rw [e] at x; cases x
    · exact e.trans (h.tp x)
  pr x := by
    rcases h_pr with e | e
    · rw [e] at x; cases x
    · exact e.trans (h.pr x)
  cn x := by
    rcases h_cn with e | e
    · rw [e] at x; cases x
    · exact e.trans (h.cn x)
  fw x := by
    rcases h_fw with e | e
    · rw [e] at x; cases x
    · exact e.trans (h.fw x)
  fb x := by
    rcases h_fb with e | e
    · rw [e] at x; cases x
    · exact e.trans (h.fb x)
  hi x := by
    rcases h_hi with e | e
    · rw [e] at x; cases x
    · exact e.trans (h.hi x)
  live x := by
    rcases h_live with e | e
    · rw [e] at x; cases x
    · exact e.trans (h.live x)
  since x := by
    rcases h_since with e | e
    · rw [e] at x; cases x
    · exact e.trans (h.since x)
  stats x := by
    rcases h_stats with e | e
    · rw [e] at x; cases x
    · exact e.trans (h.stats x)
  rgnEdge x := by
    rcases h_rgnEdge with e | e
    · rw [e] at x; cases x
    · exact e.trans (h.rgnEdge x)
  el x := by
    rcases h_el with e | e
    · rw [e] at x; cases x
    · exact e.trans (h.el x)
  out x := by
    rcases h_out with e | e
    · rw [e] at x; cases x
    · exact e.trans (h.out x)
  free x := by
    rcases h_free with e | e
    · rw [e] at x; cases x
    · exact e.trans (h.free x)

theorem keeps_ite {w : Nat} {s a b : State} {c : Prop} [Decidable c] (ha : Keeps w s a) (hb : Keeps w s b) :
    Keeps w s (if c then a else b) := by split <;> assumption

theorem keeps_cut {w : Nat} {s t : State} {P : Prop} (hp : Keeps w s t → P) (ht : Keeps w s t) : P := hp ht

theorem keeps_fst_ite {w : Nat} {s : State} {α : Type} {a b : State × α} {c : Prop} [Decidable c] (ha : Keeps w s a.1) (hb : Keeps w s b.1) :
    Keeps w s (if c then a else b).1 := by split <;> assumption

theorem keeps_of_eq {w : Nat} {s t : State} {α : Type} {p : State × α} {b : α} (e : p = (t, b)) (h : Keeps w s p.1) : Keeps w s t := by
  rw [e] at h; exact h

theorem keeps_foldl {w : Nat} {s t : State} {α : Type} {f : State → α → State} (l : List α) (h : Keeps w s t)
    (hf : ∀ u x, Keeps w s u → Keeps w s (f u x)) : Keeps w s (l.foldl f t) := by
  induction l generalizing t with
  | nil => exact h
  | cons x xs ih => exact ih (hf t x h)

theorem keeps_foldl_fst {w : Nat} {s : State} {α β : Type} {t : State × β} {f : State × β → α → State × β} (l : List α)
    (h : Keeps w s t.1) (hf : ∀ u x, Keeps w s u.1 → Keeps w s (f u x).1) : Keeps w s (l.foldl f t).1 := by
  induction l generalizing t with
  | nil => exact h
  | cons x xs ih => exact ih (hf t x h)

end Sys2Proof.Machine
end

