-- ==== Sys2Proof/Laws/Ops.lean ====
section
/-! SUPPORT. What the functions of Machine/Ops.lean keep, one lemma for each. -/

namespace Sys2Proof.Machine

theorem State.wr_keeps {w : Nat} {s0 s : State} (hw : Sub 0x4 w) (h : Keeps w s0 s) (a : Nat) (v : Word) : Keeps w s0 (s.wr a v) := by
  unfold State.wr
  with_reducible apply keeps_upd h (fun x => Sparse.wf_set x) (fun x => x)
  all_goals first | exact Or.inl (Sub.bit hw rfl) | exact Or.inr rfl

theorem State.wrF_keeps {w : Nat} {s0 s : State} (hw : Sub 0x4 w) (h : Keeps w s0 s) (a : Nat) (lo : Nat) (len : Nat) (v : Nat) :
    Keeps w s0 (State.wrF s a lo len v) := by
  unfold State.wrF
  repeat' (first
    | with_reducible assumption
    | (intro t_; first | (with_reducible refine keeps_cut (w := w) (s := s0) (t := t_) ?_ ?_; intro ht_; rotate_left; dsimp -zeta only [t_]) | skip)
    | with_reducible apply State.wr_keeps (Sub.trans rfl hw)
    | lift_lets
    | with_reducible refine keeps_ite ?_ ?_)

theorem State.wrB_keeps {w : Nat} {s0 s : State} (hw : Sub 0x4 w) (h : Keeps w s0 s) (a : Nat) (i : Nat) (b : Bool) :
    Keeps w s0 (State.wrB s a i b) := by
  unfold State.wrB
  repeat' (first
    | with_reducible assumption
    | (intro t_; first | (with_reducible refine keeps_cut (w := w) (s := s0) (t := t_) ?_ ?_; intro ht_; rotate_left; dsimp -zeta only [t_]) | skip)
    | with_reducible apply State.wrF_keeps (Sub.trans rfl hw)
    | lift_lets
    | with_reducible refine keeps_ite ?_ ?_)

theorem State.count_keeps {w : Nat} {s0 s : State} (hw : Sub 0x4 w) (h : Keeps w s0 s) (a : Nat) :
    Keeps w s0 (State.count s a) := by
  unfold State.count
  repeat' (first
    | with_reducible assumption
    | (intro t_; first | (with_reducible refine keeps_cut (w := w) (s := s0) (t := t_) ?_ ?_; intro ht_; rotate_left; dsimp -zeta only [t_]) | skip)
    | with_reducible apply State.wr_keeps (Sub.trans rfl hw)
    | lift_lets
    | with_reducible refine keeps_ite ?_ ?_)

theorem State.countBy_keeps {w : Nat} {s0 s : State} (hw : Sub 0x4 w) (h : Keeps w s0 s) (a : Nat) (n : Nat) :
    Keeps w s0 (State.countBy s a n) := by
  unfold State.countBy
  repeat' (first
    | with_reducible assumption
    | (intro t_; first | (with_reducible refine keeps_cut (w := w) (s := s0) (t := t_) ?_ ?_; intro ht_; rotate_left; dsimp -zeta only [t_]) | skip)
    | with_reducible apply State.wr_keeps (Sub.trans rfl hw)
    | lift_lets
    | with_reducible refine keeps_ite ?_ ?_)

theorem State.countF_keeps {w : Nat} {s0 s : State} (hw : Sub 0x4 w) (h : Keeps w s0 s) (a : Nat) (lo : Nat) (len : Nat) :
    Keeps w s0 (State.countF s a lo len) := by
  unfold State.countF
  repeat' (first
    | with_reducible assumption
    | (intro t_; first | (with_reducible refine keeps_cut (w := w) (s := s0) (t := t_) ?_ ?_; intro ht_; rotate_left; dsimp -zeta only [t_]) | skip)
    | with_reducible apply State.wrF_keeps (Sub.trans rfl hw)
    | lift_lets
    | with_reducible refine keeps_ite ?_ ?_)

theorem State.bumpF_keeps {w : Nat} {s0 s : State} (hw : Sub 0x4 w) (h : Keeps w s0 s) (a : Nat) (lo : Nat) (len : Nat) :
    Keeps w s0 (State.bumpF s a lo len) := by
  unfold State.bumpF
  repeat' (first
    | with_reducible assumption
    | (intro t_; first | (with_reducible refine keeps_cut (w := w) (s := s0) (t := t_) ?_ ?_; intro ht_; rotate_left; dsimp -zeta only [t_]) | skip)
    | with_reducible apply State.wrF_keeps (Sub.trans rfl hw)
    | lift_lets
    | with_reducible refine keeps_ite ?_ ?_)

theorem State.wr64_keeps {w : Nat} {s0 s : State} (hw : Sub 0x4 w) (h : Keeps w s0 s) (lo : Nat) (hi : Nat) (v : Nat) :
    Keeps w s0 (State.wr64 s lo hi v) := by
  unfold State.wr64
  repeat' (first
    | with_reducible assumption
    | (intro t_; first | (with_reducible refine keeps_cut (w := w) (s := s0) (t := t_) ?_ ?_; intro ht_; rotate_left; dsimp -zeta only [t_]) | skip)
    | with_reducible apply State.wr_keeps (Sub.trans rfl hw)
    | lift_lets
    | with_reducible refine keeps_ite ?_ ?_)

theorem State.setTb_keeps {w : Nat} {s0 s : State} (hw : Sub 0x8 w) (h : Keeps w s0 s) (a : Nat) (b : Byte) : Keeps w s0 (s.setTb a b) := by
  unfold State.setTb
  with_reducible apply keeps_upd h (fun x => x) (fun x => Sparse.wf_set x)
  all_goals first | exact Or.inl (Sub.bit hw rfl) | exact Or.inr rfl

theorem State.setTw_keeps {w : Nat} {s0 s : State} (hw : Sub 0x8 w) (h : Keeps w s0 s) (a : Nat) (x_w : Sys2Proof.Word) :
    Keeps w s0 (State.setTw s a x_w) := by
  unfold State.setTw
  repeat' (first
    | with_reducible assumption
    | (intro t_; first | (with_reducible refine keeps_cut (w := w) (s := s0) (t := t_) ?_ ?_; intro ht_; rotate_left; dsimp -zeta only [t_]) | skip)
    | with_reducible apply State.setTb_keeps (Sub.trans rfl hw)
    | lift_lets
    | with_reducible refine keeps_ite ?_ ?_)

theorem State.setTwF_keeps {w : Nat} {s0 s : State} (hw : Sub 0x8 w) (h : Keeps w s0 s) (a : Nat) (lo : Nat) (len : Nat) (v : Nat) :
    Keeps w s0 (State.setTwF s a lo len v) := by
  unfold State.setTwF
  repeat' (first
    | with_reducible assumption
    | (intro t_; first | (with_reducible refine keeps_cut (w := w) (s := s0) (t := t_) ?_ ?_; intro ht_; rotate_left; dsimp -zeta only [t_]) | skip)
    | with_reducible apply State.setTw_keeps (Sub.trans rfl hw)
    | lift_lets
    | with_reducible refine keeps_ite ?_ ?_)

theorem State.setTbs_keeps {w : Nat} {s0 s : State} (hw : Sub 0x8 w) (h : Keeps w s0 s) (a : Nat) (l : List Byte) : Keeps w s0 (s.setTbs a l) := by
  induction l generalizing s a with
  | nil => exact h
  | cons x xs ih => exact ih (State.setTb_keeps hw h a x) _

theorem State.setTws_keeps {w : Nat} {s0 s : State} (hw : Sub 0x8 w) (h : Keeps w s0 s) (a : Nat) (l : List Word) : Keeps w s0 (s.setTws a l) := by
  induction l generalizing s a with
  | nil => exact h
  | cons x xs ih => exact ih (State.setTw_keeps hw h a x) _

theorem State.setOtpW_keeps {w : Nat} {s0 s : State} (hw : Sub 0x10 w) (h : Keeps w s0 s) (i : Nat) (v : Word) (hv : s.otpW i &&& ~~~v = 0) :
    Keeps w s0 (s.setOtpW i v) where
  regsOk := h.regsOk
  tblOk := h.tblOk
  otpOk x := Sparse.wf_set (h.otpOk x)
  fuses j := by
    refine fuses_trans (h.fuses j) ?_
    unfold State.setOtpW State.otpW
    simp only [Sparse.get_set]
    split
    · rename_i e; subst e; exact hv
    · exact BitVec.and_not_self _
  part := h.part
  pending := h.pending
  otp x := by rw [Sub.bit hw rfl] at x; cases x
  straps := h.straps
  regs := h.regs
  tbl := h.tbl
  lat := h.lat
  kp := h.kp
  tm := h.tm
  ev := h.ev
  se := h.se
  sc := h.sc
  sw := h.sw
  rg := h.rg
  dk := h.dk
  tp := h.tp
  pr := h.pr
  cn := h.cn
  fw := h.fw
  fb := h.fb
  hi := h.hi
  live := h.live
  since := h.since
  stats := h.stats
  rgnEdge := h.rgnEdge
  el := h.el
  out := h.out
  free := h.free

theorem State.emit_keeps {w : Nat} {s0 s : State} (hw : Sub 0x2000000 w) (h : Keeps w s0 s) (o : Sys2Proof.Machine.Out) :
    Keeps w s0 (State.emit s o) := by
  have b25 := Sub.bit (i := 25) hw rfl
  unfold State.emit
  repeat' (first
    | with_reducible assumption
    | (intro t_; first | (with_reducible refine keeps_cut (w := w) (s := s0) (t := t_) ?_ ?_; intro ht_; rotate_left; dsimp -zeta only [t_]) | skip)
    | lift_lets
    | with_reducible refine keeps_ite ?_ ?_
    | with_reducible refine keeps_upd ?_ (fun x => x) (fun x => x) (.inr rfl) (.inr rfl) (.inr rfl) (.inr rfl) (.inr rfl) (.inr rfl) (.inr rfl) (.inr rfl) (.inr rfl) (.inr rfl) (.inr rfl) (.inr rfl) (.inr rfl) (.inr rfl) (.inr rfl) (.inr rfl) (.inr rfl) (.inr rfl) (.inr rfl) (.inr rfl) (.inr rfl) (.inr rfl) (.inr rfl) (.inl b25) (.inr rfl))

theorem State.useFree_keeps {w : Nat} {s0 s : State} (hw : Sub 0x4000000 w) (h : Keeps w s0 s) :
    Keeps w s0 (State.useFree s) := by
  have b26 := Sub.bit (i := 26) hw rfl
  unfold State.useFree
  repeat' (first
    | with_reducible assumption
    | (intro t_; first | (with_reducible refine keeps_cut (w := w) (s := s0) (t := t_) ?_ ?_; intro ht_; rotate_left; dsimp -zeta only [t_]) | skip)
    | lift_lets
    | with_reducible refine keeps_ite ?_ ?_
    | with_reducible refine keeps_upd ?_ (fun x => x) (fun x => x) (.inr rfl) (.inr rfl) (.inr rfl) (.inr rfl) (.inr rfl) (.inr rfl) (.inr rfl) (.inr rfl) (.inr rfl) (.inr rfl) (.inr rfl) (.inr rfl) (.inr rfl) (.inr rfl) (.inr rfl) (.inr rfl) (.inr rfl) (.inr rfl) (.inr rfl) (.inr rfl) (.inr rfl) (.inr rfl) (.inr rfl) (.inr rfl) (.inl b26))

theorem State.when_keeps {w : Nat} {s0 s : State} (_hw : Sub 0x0 w) (h : Keeps w s0 s) (c : Bool) (f : Sys2Proof.Machine.State → Sys2Proof.Machine.State) (h_f : ∀ t_, Keeps w s0 t_ → Keeps w s0 (f t_)) :
    Keeps w s0 (State.when s c f) := by
  unfold State.when
  repeat' (first
    | with_reducible assumption
    | (intro t_; first | (with_reducible refine keeps_cut (w := w) (s := s0) (t := t_) ?_ ?_; intro ht_; rotate_left; dsimp -zeta only [t_]) | skip)
    | with_reducible apply h_f
    | lift_lets
    | with_reducible refine keeps_ite ?_ ?_)

theorem State.each_keeps {w : Nat} {s0 s : State} {α : Type} (_hw : Sub 0x0 w) (h : Keeps w s0 s) (f : α → State → State)
    (hf : ∀ x t, Keeps w s0 t → Keeps w s0 (f x t)) (l : List α) : Keeps w s0 (s.each f l) := by
  induction l generalizing s with
  | nil => exact h
  | cons x xs ih => exact ih (hf x s h)

theorem State.onSome_keeps {w : Nat} {s0 s : State} {α : Type} (_hw : Sub 0x0 w) (h : Keeps w s0 s) (o : Option α) (f : α → State → State)
    (hf : ∀ x t, Keeps w s0 t → Keeps w s0 (f x t)) : Keeps w s0 (s.onSome o f) := by
  cases o with
  | none => exact h
  | some x => exact hf x s h

theorem State.arm_keeps {w : Nat} {s0 s : State} (hw : Sub 0x1000000 w) (h : Keeps w s0 s) (k : Nat) (ns : Nat) :
    Keeps w s0 (State.arm s k ns) := by
  have b24 := Sub.bit (i := 24) hw rfl
  unfold State.arm
  repeat' (first
    | with_reducible assumption
    | (intro t_; first | (with_reducible refine keeps_cut (w := w) (s := s0) (t := t_) ?_ ?_; intro ht_; rotate_left; dsimp -zeta only [t_]) | skip)
    | lift_lets
    | with_reducible refine keeps_ite ?_ ?_
    | with_reducible refine keeps_upd ?_ (fun x => x) (fun x => x) (.inr rfl) (.inr rfl) (.inr rfl) (.inr rfl) (.inr rfl) (.inr rfl) (.inr rfl) (.inr rfl) (.inr rfl) (.inr rfl) (.inr rfl) (.inr rfl) (.inr rfl) (.inr rfl) (.inr rfl) (.inr rfl) (.inr rfl) (.inr rfl) (.inr rfl) (.inr rfl) (.inr rfl) (.inr rfl) (.inl b24) (.inr rfl) (.inr rfl))

theorem State.disarm_keeps {w : Nat} {s0 s : State} (hw : Sub 0x1000000 w) (h : Keeps w s0 s) (k : Nat) :
    Keeps w s0 (State.disarm s k) := by
  have b24 := Sub.bit (i := 24) hw rfl
  unfold State.disarm
  repeat' (first
    | with_reducible assumption
    | (intro t_; first | (with_reducible refine keeps_cut (w := w) (s := s0) (t := t_) ?_ ?_; intro ht_; rotate_left; dsimp -zeta only [t_]) | skip)
    | lift_lets
    | with_reducible refine keeps_ite ?_ ?_
    | with_reducible refine keeps_upd ?_ (fun x => x) (fun x => x) (.inr rfl) (.inr rfl) (.inr rfl) (.inr rfl) (.inr rfl) (.inr rfl) (.inr rfl) (.inr rfl) (.inr rfl) (.inr rfl) (.inr rfl) (.inr rfl) (.inr rfl) (.inr rfl) (.inr rfl) (.inr rfl) (.inr rfl) (.inr rfl) (.inr rfl) (.inr rfl) (.inr rfl) (.inr rfl) (.inl b24) (.inr rfl) (.inr rfl))

theorem State.mark_keeps {w : Nat} {s0 s : State} (hw : Sub 0x1000000 w) (h : Keeps w s0 s) (k : Nat) :
    Keeps w s0 (State.mark s k) := by
  unfold State.mark
  repeat' (first
    | with_reducible assumption
    | (intro t_; first | (with_reducible refine keeps_cut (w := w) (s := s0) (t := t_) ?_ ?_; intro ht_; rotate_left; dsimp -zeta only [t_]) | skip)
    | with_reducible apply State.arm_keeps (Sub.trans rfl hw)
    | lift_lets
    | with_reducible refine keeps_ite ?_ ?_)

theorem State.dropTimers_keeps {w : Nat} {s0 s : State} (hw : Sub 0x1000000 w) (h : Keeps w s0 s) (f : Nat → Bool) :
    Keeps w s0 (State.dropTimers s f) := by
  have b24 := Sub.bit (i := 24) hw rfl
  unfold State.dropTimers
  repeat' (first
    | with_reducible assumption
    | (intro t_; first | (with_reducible refine keeps_cut (w := w) (s := s0) (t := t_) ?_ ?_; intro ht_; rotate_left; dsimp -zeta only [t_]) | skip)
    | lift_lets
    | with_reducible refine keeps_ite ?_ ?_
    | with_reducible refine keeps_fst_ite ?_ ?_
    | (with_reducible refine keeps_of_eq (by assumption) ?_)
    | with_reducible refine keeps_upd ?_ (fun x => x) (fun x => x) (.inr rfl) (.inr rfl) (.inr rfl) (.inr rfl) (.inr rfl) (.inr rfl) (.inr rfl) (.inr rfl) (.inr rfl) (.inr rfl) (.inr rfl) (.inr rfl) (.inr rfl) (.inr rfl) (.inr rfl) (.inr rfl) (.inr rfl) (.inr rfl) (.inr rfl) (.inr rfl) (.inr rfl) (.inr rfl) (.inl b24) (.inr rfl) (.inr rfl))

end Sys2Proof.Machine
end

