-- ==== Sys2Proof/Laws/Flags.lean ====
section
/-! SUPPORT. What the functions of Machine/Flags.lean keep, one lemma for each. -/

namespace Sys2Proof.Machine

theorem State.edge_keeps {w : Nat} {s0 s : State} (hw : Sub 0x100 w) (h : Keeps w s0 s) (src : Nat) :
    Keeps w s0 (State.edge s src) := by
  have b8 := Sub.bit (i := 8) hw rfl
  unfold State.edge
  repeat' (first
    | with_reducible assumption
    | (intro t_; first | (with_reducible refine keeps_cut (w := w) (s := s0) (t := t_) ?_ ?_; intro ht_; rotate_left; dsimp -zeta only [t_]) | skip)
    | lift_lets
    | with_reducible refine keeps_ite ?_ ?_
    | with_reducible refine keeps_fst_ite ?_ ?_
    | (with_reducible refine keeps_of_eq (by assumption) ?_)
    | with_reducible refine keeps_upd ?_ (fun x => x) (fun x => x) (.inr rfl) (.inr rfl) (.inr rfl) (.inr rfl) (.inr rfl) (.inr rfl) (.inl b8) (.inr rfl) (.inr rfl) (.inr rfl) (.inr rfl) (.inr rfl) (.inr rfl) (.inr rfl) (.inr rfl) (.inr rfl) (.inr rfl) (.inr rfl) (.inr rfl) (.inr rfl) (.inr rfl) (.inr rfl) (.inr rfl) (.inr rfl) (.inr rfl))

theorem State.raise_keeps {w : Nat} {s0 s : State} (hw : Sub 0x104 w) (h : Keeps w s0 s) (base : Nat) (i : Nat) :
    Keeps w s0 (State.raise s base i) := by
  unfold State.raise
  repeat' (first
    | with_reducible assumption
    | (intro t_; first | (with_reducible refine keeps_cut (w := w) (s := s0) (t := t_) ?_ ?_; intro ht_; rotate_left; dsimp -zeta only [t_]) | skip)
    | with_reducible apply State.wrB_keeps (Sub.trans rfl hw)
    | with_reducible apply State.wr_keeps (Sub.trans rfl hw)
    | with_reducible apply State.edge_keeps (Sub.trans rfl hw)
    | lift_lets
    | with_reducible refine keeps_ite ?_ ?_)

theorem State.edges_keeps {w : Nat} {s0 s : State} (hw : Sub 0x100 w) (h : Keeps w s0 s) (src : Nat) (y2 : Nat) :
    Keeps w s0 (State.edges s src y2) := by
  induction y2 generalizing src s with
  | zero =>
    unfold State.edges
    repeat' (first
    | with_reducible assumption
    | (intro t_; first | (with_reducible refine keeps_cut (w := w) (s := s0) (t := t_) ?_ ?_; intro ht_; rotate_left; dsimp -zeta only [t_]) | skip)
    | with_reducible apply State.edge_keeps (Sub.trans rfl hw)
    | lift_lets
    | with_reducible refine keeps_ite ?_ ?_
    | split
    | (clear_value *; split))
  | succ n ih =>
    unfold State.edges
    repeat' (first
    | with_reducible assumption
    | with_reducible apply ih
    | (intro t_; first | (with_reducible refine keeps_cut (w := w) (s := s0) (t := t_) ?_ ?_; intro ht_; rotate_left; dsimp -zeta only [t_]) | skip)
    | with_reducible apply State.edge_keeps (Sub.trans rfl hw)
    | lift_lets
    | with_reducible refine keeps_ite ?_ ?_
    | split
    | (clear_value *; split))
  

theorem State.statBy_keeps {w : Nat} {s0 s : State} (hw : Sub 0x100000 w) (h : Keeps w s0 s) (a : Nat) (n : Nat) :
    Keeps w s0 (State.statBy s a n) := by
  have b20 := Sub.bit (i := 20) hw rfl
  unfold State.statBy
  repeat' (first
    | with_reducible assumption
    | (intro t_; first | (with_reducible refine keeps_cut (w := w) (s := s0) (t := t_) ?_ ?_; intro ht_; rotate_left; dsimp -zeta only [t_]) | skip)
    | lift_lets
    | with_reducible refine keeps_ite ?_ ?_
    | with_reducible refine keeps_upd ?_ (fun x => x) (fun x => x) (.inr rfl) (.inr rfl) (.inr rfl) (.inr rfl) (.inr rfl) (.inr rfl) (.inr rfl) (.inr rfl) (.inr rfl) (.inr rfl) (.inr rfl) (.inr rfl) (.inr rfl) (.inr rfl) (.inr rfl) (.inr rfl) (.inr rfl) (.inr rfl) (.inl b20) (.inr rfl) (.inr rfl) (.inr rfl) (.inr rfl) (.inr rfl) (.inr rfl))

theorem State.meter_keeps {w : Nat} {s0 s : State} (hw : Sub 0x300000 w) (h : Keeps w s0 s) (a : Nat) :
    Keeps w s0 (State.meter s a) := by
  have b20 := Sub.bit (i := 20) hw rfl; have b21 := Sub.bit (i := 21) hw rfl
  unfold State.meter
  repeat' (first
    | with_reducible assumption
    | (intro t_; first | (with_reducible refine keeps_cut (w := w) (s := s0) (t := t_) ?_ ?_; intro ht_; rotate_left; dsimp -zeta only [t_]) | skip)
    | with_reducible apply State.statBy_keeps (Sub.trans rfl hw)
    | lift_lets
    | with_reducible refine keeps_ite ?_ ?_
    | split
    | (clear_value *; split)
    | with_reducible refine keeps_upd ?_ (fun x => x) (fun x => x) (.inr rfl) (.inr rfl) (.inr rfl) (.inr rfl) (.inr rfl) (.inr rfl) (.inr rfl) (.inr rfl) (.inr rfl) (.inr rfl) (.inr rfl) (.inr rfl) (.inr rfl) (.inr rfl) (.inr rfl) (.inr rfl) (.inr rfl) (.inr rfl) (.inl b20) (.inl b21) (.inr rfl) (.inr rfl) (.inr rfl) (.inr rfl) (.inr rfl))

theorem State.meterOn_keeps {w : Nat} {s0 s : State} (hw : Sub 0x200000 w) (h : Keeps w s0 s) (a : Nat) :
    Keeps w s0 (State.meterOn s a) := by
  have b21 := Sub.bit (i := 21) hw rfl
  unfold State.meterOn
  repeat' (first
    | with_reducible assumption
    | (intro t_; first | (with_reducible refine keeps_cut (w := w) (s := s0) (t := t_) ?_ ?_; intro ht_; rotate_left; dsimp -zeta only [t_]) | skip)
    | lift_lets
    | with_reducible refine keeps_ite ?_ ?_
    | with_reducible refine keeps_upd ?_ (fun x => x) (fun x => x) (.inr rfl) (.inr rfl) (.inr rfl) (.inr rfl) (.inr rfl) (.inr rfl) (.inr rfl) (.inr rfl) (.inr rfl) (.inr rfl) (.inr rfl) (.inr rfl) (.inr rfl) (.inr rfl) (.inr rfl) (.inr rfl) (.inr rfl) (.inr rfl) (.inr rfl) (.inl b21) (.inr rfl) (.inr rfl) (.inr rfl) (.inr rfl) (.inr rfl))

theorem State.meterOff_keeps {w : Nat} {s0 s : State} (hw : Sub 0x300000 w) (h : Keeps w s0 s) (a : Nat) :
    Keeps w s0 (State.meterOff s a) := by
  have b20 := Sub.bit (i := 20) hw rfl; have b21 := Sub.bit (i := 21) hw rfl
  unfold State.meterOff
  repeat' (first
    | with_reducible assumption
    | (intro t_; first | (with_reducible refine keeps_cut (w := w) (s := s0) (t := t_) ?_ ?_; intro ht_; rotate_left; dsimp -zeta only [t_]) | skip)
    | with_reducible apply State.meter_keeps (Sub.trans rfl hw)
    | lift_lets
    | with_reducible refine keeps_ite ?_ ?_
    | with_reducible refine keeps_upd ?_ (fun x => x) (fun x => x) (.inr rfl) (.inr rfl) (.inr rfl) (.inr rfl) (.inr rfl) (.inr rfl) (.inr rfl) (.inr rfl) (.inr rfl) (.inr rfl) (.inr rfl) (.inr rfl) (.inr rfl) (.inr rfl) (.inr rfl) (.inr rfl) (.inr rfl) (.inr rfl) (.inl b20) (.inl b21) (.inr rfl) (.inr rfl) (.inr rfl) (.inr rfl) (.inr rfl))

theorem State.evalShared_keeps {w : Nat} {s0 s : State} (hw : Sub 0x4 w) (h : Keeps w s0 s) (d : Nat) :
    Keeps w s0 (State.evalShared s d) := by
  unfold State.evalShared
  repeat' (first
    | with_reducible assumption
    | (intro t_; first | (with_reducible refine keeps_cut (w := w) (s := s0) (t := t_) ?_ ?_; intro ht_; rotate_left; dsimp -zeta only [t_]) | skip)
    | with_reducible apply State.wrB_keeps (Sub.trans rfl hw)
    | lift_lets
    | with_reducible refine keeps_ite ?_ ?_)

theorem State.rgnCount_keeps {w : Nat} {s0 s : State} (hw : Sub 0x300000 w) (h : Keeps w s0 s) (g : Nat) (a : Nat) (b : Nat) :
    Keeps w s0 (State.rgnCount s g a b) := by
  unfold State.rgnCount
  repeat' (first
    | with_reducible assumption
    | (intro t_; first | (with_reducible refine keeps_cut (w := w) (s := s0) (t := t_) ?_ ?_; intro ht_; rotate_left; dsimp -zeta only [t_]) | skip)
    | with_reducible apply State.meterOn_keeps (Sub.trans rfl hw)
    | with_reducible apply State.meterOff_keeps (Sub.trans rfl hw)
    | lift_lets
    | with_reducible refine keeps_ite ?_ ?_)

theorem State.rgnWakeUp_keeps {w : Nat} {s0 s : State} (hw : Sub 0x300004 w) (h : Keeps w s0 s) (g : Nat) (unknown : Bool) :
    Keeps w s0 (State.rgnWakeUp s g unknown) := by
  unfold State.rgnWakeUp
  repeat' (first
    | with_reducible assumption
    | (intro t_; first | (with_reducible refine keeps_cut (w := w) (s := s0) (t := t_) ?_ ?_; intro ht_; rotate_left; dsimp -zeta only [t_]) | skip)
    | with_reducible apply State.rgnCount_keeps (Sub.trans rfl hw)
    | with_reducible apply State.evalShared_keeps (Sub.trans rfl hw)
    | with_reducible apply State.wrB_keeps (Sub.trans rfl hw)
    | lift_lets
    | with_reducible refine keeps_ite ?_ ?_)

theorem State.rgnAwake_keeps {w : Nat} {s0 s : State} (hw : Sub 0x104 w) (h : Keeps w s0 s) (g : Nat) :
    Keeps w s0 (State.rgnAwake s g) := by
  unfold State.rgnAwake
  repeat' (first
    | with_reducible assumption
    | (intro t_; first | (with_reducible refine keeps_cut (w := w) (s := s0) (t := t_) ?_ ?_; intro ht_; rotate_left; dsimp -zeta only [t_]) | skip)
    | with_reducible apply State.evalShared_keeps (Sub.trans rfl hw)
    | with_reducible apply State.wrB_keeps (Sub.trans rfl hw)
    | with_reducible apply State.wrF_keeps (Sub.trans rfl hw)
    | with_reducible apply State.when_keeps (Sub.trans rfl hw)
    | with_reducible apply State.raise_keeps (Sub.trans rfl hw)
    | dsimp only [id]
    | lift_lets
    | with_reducible refine keeps_ite ?_ ?_)

theorem State.askShared_keeps {w : Nat} {s0 s : State} (hw : Sub 0x4 w) (h : Keeps w s0 s) (d : Nat) :
    Keeps w s0 (State.askShared s d) := by
  unfold State.askShared
  repeat' (first
    | with_reducible assumption
    | (intro t_; first | (with_reducible refine keeps_cut (w := w) (s := s0) (t := t_) ?_ ?_; intro ht_; rotate_left; dsimp -zeta only [t_]) | skip)
    | with_reducible apply State.when_keeps (Sub.trans rfl hw)
    | with_reducible apply State.wrB_keeps (Sub.trans rfl hw)
    | dsimp only [id]
    | lift_lets
    | with_reducible refine keeps_ite ?_ ?_)

theorem State.wakeFor_keeps {w : Nat} {s0 s : State} (hw : Sub 0x300104 w) (h : Keeps w s0 s) (a : Nat) :
    Keeps w s0 (State.wakeFor s a) := by
  unfold State.wakeFor
  repeat' (first
    | with_reducible assumption
    | (intro t_; first | (with_reducible refine keeps_cut (w := w) (s := s0) (t := t_) ?_ ?_; intro ht_; rotate_left; dsimp -zeta only [t_]) | skip)
    | with_reducible apply State.when_keeps (Sub.trans rfl hw)
    | with_reducible apply State.rgnAwake_keeps (Sub.trans rfl hw)
    | with_reducible apply State.rgnWakeUp_keeps (Sub.trans rfl hw)
    | with_reducible apply State.askShared_keeps (Sub.trans rfl hw)
    | dsimp only [id]
    | lift_lets
    | with_reducible refine keeps_ite ?_ ?_
    | split
    | (clear_value *; split))

theorem State.lockTick_keeps {w : Nat} {s0 s : State} (hw : Sub 0x4 w) (h : Keeps w s0 s) (a : Nat) :
    Keeps w s0 (State.lockTick s a) := by
  unfold State.lockTick
  repeat' (first
    | with_reducible assumption
    | (intro t_; first | (with_reducible refine keeps_cut (w := w) (s := s0) (t := t_) ?_ ?_; intro ht_; rotate_left; dsimp -zeta only [t_]) | skip)
    | with_reducible apply State.wrF_keeps (Sub.trans rfl hw)
    | lift_lets
    | with_reducible refine keeps_ite ?_ ?_
    | split
    | (clear_value *; split))

theorem State.access_keeps {w : Nat} {s0 s : State} (hw : Sub 0x300104 w) (h : Keeps w s0 s) (a : Nat) :
    Keeps w s0 (State.access s a) := by
  unfold State.access
  repeat' (first
    | with_reducible assumption
    | (intro t_; first | (with_reducible refine keeps_cut (w := w) (s := s0) (t := t_) ?_ ?_; intro ht_; rotate_left; dsimp -zeta only [t_]) | skip)
    | with_reducible apply State.lockTick_keeps (Sub.trans rfl hw)
    | with_reducible apply State.wakeFor_keeps (Sub.trans rfl hw)
    | lift_lets
    | with_reducible refine keeps_ite ?_ ?_)

theorem State.lockViol_keeps {w : Nat} {s0 s : State} (hw : Sub 0x104 w) (h : Keeps w s0 s) (a : Nat) :
    Keeps w s0 (State.lockViol s a) := by
  unfold State.lockViol
  repeat' (first
    | with_reducible assumption
    | (intro t_; first | (with_reducible refine keeps_cut (w := w) (s := s0) (t := t_) ?_ ?_; intro ht_; rotate_left; dsimp -zeta only [t_]) | skip)
    | with_reducible apply State.raise_keeps (Sub.trans rfl hw)
    | with_reducible apply State.wr_keeps (Sub.trans rfl hw)
    | with_reducible apply State.count_keeps (Sub.trans rfl hw)
    | lift_lets
    | with_reducible refine keeps_ite ?_ ?_)

theorem State.xdieDrop_keeps {w : Nat} {s0 s : State} (hw : Sub 0x104 w) (h : Keeps w s0 s) :
    Keeps w s0 (State.xdieDrop s) := by
  unfold State.xdieDrop
  repeat' (first
    | with_reducible assumption
    | (intro t_; first | (with_reducible refine keeps_cut (w := w) (s := s0) (t := t_) ?_ ?_; intro ht_; rotate_left; dsimp -zeta only [t_]) | skip)
    | with_reducible apply State.raise_keeps (Sub.trans rfl hw)
    | with_reducible apply State.count_keeps (Sub.trans rfl hw)
    | lift_lets
    | with_reducible refine keeps_ite ?_ ?_)

theorem State.guarded_keeps {w : Nat} {s0 s : State} (hw : Sub 0x300104 w) (h : Keeps w s0 s) (a : Nat) (f : Sys2Proof.Machine.State → Sys2Proof.Machine.State) (h_f : ∀ t_, Keeps w s0 t_ → Keeps w s0 (f t_)) :
    Keeps w s0 (State.guarded s a f) := by
  unfold State.guarded
  repeat' (first
    | with_reducible assumption
    | (intro t_; first | (with_reducible refine keeps_cut (w := w) (s := s0) (t := t_) ?_ ?_; intro ht_; rotate_left; dsimp -zeta only [t_]) | skip)
    | with_reducible apply h_f
    | with_reducible apply State.lockViol_keeps (Sub.trans rfl hw)
    | with_reducible apply State.wakeFor_keeps (Sub.trans rfl hw)
    | with_reducible apply State.access_keeps (Sub.trans rfl hw)
    | with_reducible apply State.xdieDrop_keeps (Sub.trans rfl hw)
    | lift_lets
    | with_reducible refine keeps_ite ?_ ?_)

theorem State.queueEvt_keeps {w : Nat} {s0 s : State} (hw : Sub 0x80000 w) (h : Keeps w s0 s) (dst : Nat) (src : Nat) (kind : Bool) (st : Sys2Proof.Word) (info : List Sys2Proof.Word) :
    Keeps w s0 (State.queueEvt s dst src kind st info) := by
  have b19 := Sub.bit (i := 19) hw rfl
  unfold State.queueEvt
  repeat' (first
    | with_reducible assumption
    | (intro t_; first | (with_reducible refine keeps_cut (w := w) (s := s0) (t := t_) ?_ ?_; intro ht_; rotate_left; dsimp -zeta only [t_]) | skip)
    | lift_lets
    | with_reducible refine keeps_ite ?_ ?_
    | with_reducible refine keeps_upd ?_ (fun x => x) (fun x => x) (.inr rfl) (.inr rfl) (.inr rfl) (.inr rfl) (.inr rfl) (.inr rfl) (.inr rfl) (.inr rfl) (.inr rfl) (.inr rfl) (.inr rfl) (.inr rfl) (.inr rfl) (.inr rfl) (.inr rfl) (.inr rfl) (.inr rfl) (.inl b19) (.inr rfl) (.inr rfl) (.inr rfl) (.inr rfl) (.inr rfl) (.inr rfl) (.inr rfl))

theorem State.fwdEvent_keeps {w : Nat} {s0 s : State} (hw : Sub 0x80000 w) (h : Keeps w s0 s) (src : Nat) (kind : Bool) (st : Sys2Proof.Word) (info : List Sys2Proof.Word) :
    Keeps w s0 (State.fwdEvent s src kind st info) := by
  unfold State.fwdEvent
  repeat' (first
    | with_reducible assumption
    | (intro t_; first | (with_reducible refine keeps_cut (w := w) (s := s0) (t := t_) ?_ ?_; intro ht_; rotate_left; dsimp -zeta only [t_]) | skip)
    | with_reducible apply State.each_keeps (Sub.trans rfl hw)
    | with_reducible apply State.when_keeps (Sub.trans rfl hw)
    | with_reducible apply State.queueEvt_keeps (Sub.trans rfl hw)
    | dsimp only [id]
    | lift_lets
    | with_reducible refine keeps_ite ?_ ?_)

end Sys2Proof.Machine
end

