-- ==== Sys2Proof/Laws/Sched.lean ====
section
/-! SUPPORT. What the functions of Machine/Sched.lean keep, one lemma for each. -/

namespace Sys2Proof.Machine

theorem State.wrSch_keeps {w : Nat} {s0 s : State} (hw : Sub 0x4 w) (h : Keeps w s0 s) (o : Nat) (v : Sys2Proof.Word) :
    Keeps w s0 (State.wrSch s o v) := by
  unfold State.wrSch
  repeat' (first
    | with_reducible assumption
    | (intro t_; first | (with_reducible refine keeps_cut (w := w) (s := s0) (t := t_) ?_ ?_; intro ht_; rotate_left; dsimp -zeta only [t_]) | skip)
    | with_reducible apply State.when_keeps (Sub.trans rfl hw)
    | with_reducible apply State.wr_keeps (Sub.trans rfl hw)
    | dsimp only [id]
    | lift_lets
    | with_reducible refine keeps_ite ?_ ?_)

theorem State.wrSchF_keeps {w : Nat} {s0 s : State} (hw : Sub 0x4 w) (h : Keeps w s0 s) (o : Nat) (lo : Nat) (len : Nat) (v : Nat) :
    Keeps w s0 (State.wrSchF s o lo len v) := by
  unfold State.wrSchF
  repeat' (first
    | with_reducible assumption
    | (intro t_; first | (with_reducible refine keeps_cut (w := w) (s := s0) (t := t_) ?_ ?_; intro ht_; rotate_left; dsimp -zeta only [t_]) | skip)
    | with_reducible apply State.wrSch_keeps (Sub.trans rfl hw)
    | lift_lets
    | with_reducible refine keeps_ite ?_ ?_)

theorem State.wrSchB_keeps {w : Nat} {s0 s : State} (hw : Sub 0x4 w) (h : Keeps w s0 s) (o : Nat) (i : Nat) (b : Bool) :
    Keeps w s0 (State.wrSchB s o i b) := by
  unfold State.wrSchB
  repeat' (first
    | with_reducible assumption
    | (intro t_; first | (with_reducible refine keeps_cut (w := w) (s := s0) (t := t_) ?_ ?_; intro ht_; rotate_left; dsimp -zeta only [t_]) | skip)
    | with_reducible apply State.wrSchF_keeps (Sub.trans rfl hw)
    | lift_lets
    | with_reducible refine keeps_ite ?_ ?_)

theorem State.raiseSch_keeps {w : Nat} {s0 s : State} (hw : Sub 0x104 w) (h : Keeps w s0 s) (i : Nat) :
    Keeps w s0 (State.raiseSch s i) := by
  unfold State.raiseSch
  repeat' (first
    | with_reducible assumption
    | (intro t_; first | (with_reducible refine keeps_cut (w := w) (s := s0) (t := t_) ?_ ?_; intro ht_; rotate_left; dsimp -zeta only [t_]) | skip)
    | with_reducible apply State.raise_keeps (Sub.trans rfl hw)
    | lift_lets
    | with_reducible refine keeps_ite ?_ ?_)

theorem State.setCs_keeps {w : Nat} {s0 s : State} (hw : Sub 0x4 w) (h : Keeps w s0 s) (v : Nat) :
    Keeps w s0 (State.setCs s v) := by
  unfold State.setCs
  repeat' (first
    | with_reducible assumption
    | (intro t_; first | (with_reducible refine keeps_cut (w := w) (s := s0) (t := t_) ?_ ?_; intro ht_; rotate_left; dsimp -zeta only [t_]) | skip)
    | with_reducible apply State.wrF_keeps (Sub.trans rfl hw)
    | lift_lets
    | with_reducible refine keeps_ite ?_ ?_)

theorem State.enterListen_keeps {w : Nat} {s0 s : State} (hw : Sub 0x404 w) (h : Keeps w s0 s) :
    Keeps w s0 (State.enterListen s) := by
  have b2 := Sub.bit (i := 2) hw rfl; have b10 := Sub.bit (i := 10) hw rfl
  unfold State.enterListen
  repeat' (first
    | with_reducible assumption
    | (intro t_; first | (with_reducible refine keeps_cut (w := w) (s := s0) (t := t_) ?_ ?_; intro ht_; rotate_left; dsimp -zeta only [t_]) | skip)
    | with_reducible apply State.wrF_keeps (Sub.trans rfl hw)
    | with_reducible apply State.wr_keeps (Sub.trans rfl hw)
    | with_reducible apply State.setCs_keeps (Sub.trans rfl hw)
    | lift_lets
    | with_reducible refine keeps_ite ?_ ?_
    | with_reducible refine keeps_upd ?_ (fun x => x) (fun x => x) (.inr rfl) (.inl b2) (.inr rfl) (.inr rfl) (.inr rfl) (.inr rfl) (.inr rfl) (.inr rfl) (.inl b10) (.inr rfl) (.inr rfl) (.inr rfl) (.inr rfl) (.inr rfl) (.inr rfl) (.inr rfl) (.inr rfl) (.inr rfl) (.inr rfl) (.inr rfl) (.inr rfl) (.inr rfl) (.inr rfl) (.inr rfl) (.inr rfl))

theorem State.setGuard_keeps {w : Nat} {s0 s : State} (hw : Sub 0x10000 w) (h : Keeps w s0 s) (p : Nat) (g : Sys2Proof.Machine.PortGuard) :
    Keeps w s0 (State.setGuard s p g) := by
  have b16 := Sub.bit (i := 16) hw rfl
  unfold State.setGuard
  repeat' (first
    | with_reducible assumption
    | (intro t_; first | (with_reducible refine keeps_cut (w := w) (s := s0) (t := t_) ?_ ?_; intro ht_; rotate_left; dsimp -zeta only [t_]) | skip)
    | lift_lets
    | with_reducible refine keeps_ite ?_ ?_
    | with_reducible refine keeps_upd ?_ (fun x => x) (fun x => x) (.inr rfl) (.inr rfl) (.inr rfl) (.inr rfl) (.inr rfl) (.inr rfl) (.inr rfl) (.inr rfl) (.inr rfl) (.inr rfl) (.inr rfl) (.inr rfl) (.inr rfl) (.inr rfl) (.inl b16) (.inr rfl) (.inr rfl) (.inr rfl) (.inr rfl) (.inr rfl) (.inr rfl) (.inr rfl) (.inr rfl) (.inr rfl) (.inr rfl))

theorem State.fill_keeps {w : Nat} {s0 s : State} (hw : Sub 0x10004 w) (h : Keeps w s0 s) (p : Nat) (rate : Nat) (burst : Nat) (at0 : Nat) :
    Keeps w s0 (State.fill s p rate burst at0) := by
  unfold State.fill
  repeat' (first
    | with_reducible assumption
    | (intro t_; first | (with_reducible refine keeps_cut (w := w) (s := s0) (t := t_) ?_ ?_; intro ht_; rotate_left; dsimp -zeta only [t_]) | skip)
    | with_reducible apply State.wrF_keeps (Sub.trans rfl hw)
    | with_reducible apply State.setGuard_keeps (Sub.trans rfl hw)
    | lift_lets
    | with_reducible refine keeps_ite ?_ ?_)

theorem State.fillNow_keeps {w : Nat} {s0 s : State} (hw : Sub 0x10004 w) (h : Keeps w s0 s) (p : Nat) :
    Keeps w s0 (State.fillNow s p) := by
  unfold State.fillNow
  repeat' (first
    | with_reducible assumption
    | (intro t_; first | (with_reducible refine keeps_cut (w := w) (s := s0) (t := t_) ?_ ?_; intro ht_; rotate_left; dsimp -zeta only [t_]) | skip)
    | with_reducible apply State.fill_keeps (Sub.trans rfl hw)
    | lift_lets
    | with_reducible refine keeps_ite ?_ ?_)

theorem State.fillPending_keeps {w : Nat} {s0 s : State} (hw : Sub 0x10004 w) (h : Keeps w s0 s) :
    Keeps w s0 (State.fillPending s) := by
  unfold State.fillPending
  repeat' (first
    | with_reducible assumption
    | (intro t_; first | (with_reducible refine keeps_cut (w := w) (s := s0) (t := t_) ?_ ?_; intro ht_; rotate_left; dsimp -zeta only [t_]) | skip)
    | with_reducible apply State.each_keeps (Sub.trans rfl hw)
    | with_reducible apply State.fillNow_keeps (Sub.trans rfl hw)
    | lift_lets
    | with_reducible refine keeps_ite ?_ ?_
    | with_reducible refine keeps_fst_ite ?_ ?_
    | (with_reducible refine keeps_of_eq (by assumption) ?_))

theorem State.settleEff_keeps {w : Nat} {s0 s : State} (hw : Sub 0x30004 w) (h : Keeps w s0 s) :
    Keeps w s0 (State.settleEff s) := by
  have b2 := Sub.bit (i := 2) hw rfl; have b16 := Sub.bit (i := 16) hw rfl; have b17 := Sub.bit (i := 17) hw rfl
  unfold State.settleEff
  repeat' (first
    | with_reducible assumption
    | (intro t_; first | (with_reducible refine keeps_cut (w := w) (s := s0) (t := t_) ?_ ?_; intro ht_; rotate_left; dsimp -zeta only [t_]) | skip)
    | with_reducible apply State.fillPending_keeps (Sub.trans rfl hw)
    | lift_lets
    | with_reducible refine keeps_ite ?_ ?_
    | with_reducible refine keeps_fst_ite ?_ ?_
    | (with_reducible refine keeps_of_eq (by assumption) ?_)
    | with_reducible refine keeps_upd ?_ (fun x => x) (fun x => x) (.inr rfl) (.inl b2) (.inr rfl) (.inr rfl) (.inr rfl) (.inr rfl) (.inr rfl) (.inr rfl) (.inr rfl) (.inr rfl) (.inr rfl) (.inr rfl) (.inr rfl) (.inr rfl) (.inl b16) (.inl b17) (.inr rfl) (.inr rfl) (.inr rfl) (.inr rfl) (.inr rfl) (.inr rfl) (.inr rfl) (.inr rfl) (.inr rfl))

theorem State.stopRows_keeps {w : Nat} {s0 s : State} (hw : Sub 0x1030404 w) (h : Keeps w s0 s) :
    Keeps w s0 (State.stopRows s) := by
  have b2 := Sub.bit (i := 2) hw rfl; have b10 := Sub.bit (i := 10) hw rfl; have b16 := Sub.bit (i := 16) hw rfl; have b17 := Sub.bit (i := 17) hw rfl; have b24 := Sub.bit (i := 24) hw rfl
  unfold State.stopRows
  repeat' (first
    | with_reducible assumption
    | (intro t_; first | (with_reducible refine keeps_cut (w := w) (s := s0) (t := t_) ?_ ?_; intro ht_; rotate_left; dsimp -zeta only [t_]) | skip)
    | with_reducible apply State.mark_keeps (Sub.trans rfl hw)
    | with_reducible apply State.settleEff_keeps (Sub.trans rfl hw)
    | with_reducible apply State.wrSchB_keeps (Sub.trans rfl hw)
    | lift_lets
    | with_reducible refine keeps_ite ?_ ?_
    | with_reducible refine keeps_fst_ite ?_ ?_
    | (with_reducible refine keeps_of_eq (by assumption) ?_)
    | with_reducible refine keeps_upd ?_ (fun x => x) (fun x => x) (.inr rfl) (.inl b2) (.inr rfl) (.inr rfl) (.inr rfl) (.inr rfl) (.inr rfl) (.inr rfl) (.inl b10) (.inr rfl) (.inr rfl) (.inr rfl) (.inr rfl) (.inr rfl) (.inl b16) (.inl b17) (.inr rfl) (.inr rfl) (.inr rfl) (.inr rfl) (.inr rfl) (.inr rfl) (.inl b24) (.inr rfl) (.inr rfl))

end Sys2Proof.Machine
end

