-- ==== Sys2Proof/Laws/Keeper.lean ====
section
/-! SUPPORT. What the functions of Machine/Keeper.lean keep, one lemma for each. -/

namespace Sys2Proof.Machine

theorem State.setWait_keeps {w : Nat} {s0 s : State} (hw : Sub 0x44 w) (h : Keeps w s0 s) (l : Nat) (b : Bool) :
    Keeps w s0 (State.setWait s l b) := by
  have b2 := Sub.bit (i := 2) hw rfl; have b6 := Sub.bit (i := 6) hw rfl
  unfold State.setWait
  repeat' (first
    | with_reducible assumption
    | (intro t_; first | (with_reducible refine keeps_cut (w := w) (s := s0) (t := t_) ?_ ?_; intro ht_; rotate_left; dsimp -zeta only [t_]) | skip)
    | with_reducible apply State.wrB_keeps (Sub.trans rfl hw)
    | lift_lets
    | with_reducible refine keeps_ite ?_ ?_
    | with_reducible refine keeps_upd ?_ (fun x => x) (fun x => x) (.inr rfl) (.inl b2) (.inr rfl) (.inr rfl) (.inl b6) (.inr rfl) (.inr rfl) (.inr rfl) (.inr rfl) (.inr rfl) (.inr rfl) (.inr rfl) (.inr rfl) (.inr rfl) (.inr rfl) (.inr rfl) (.inr rfl) (.inr rfl) (.inr rfl) (.inr rfl) (.inr rfl) (.inr rfl) (.inr rfl) (.inr rfl) (.inr rfl))

theorem State.armRelease_keeps {w : Nat} {s0 s : State} (hw : Sub 0x1000000 w) (h : Keeps w s0 s) (l : Nat) :
    Keeps w s0 (State.armRelease s l) := by
  unfold State.armRelease
  repeat' (first
    | with_reducible assumption
    | (intro t_; first | (with_reducible refine keeps_cut (w := w) (s := s0) (t := t_) ?_ ?_; intro ht_; rotate_left; dsimp -zeta only [t_]) | skip)
    | with_reducible apply State.arm_keeps (Sub.trans rfl hw)
    | with_reducible apply State.disarm_keeps (Sub.trans rfl hw)
    | lift_lets
    | with_reducible refine keeps_ite ?_ ?_)

theorem State.releaseLine_keeps {w : Nat} {s0 s : State} (hw : Sub 0x3000144 w) (h : Keeps w s0 s) (l : Nat) :
    Keeps w s0 (State.releaseLine s l) := by
  unfold State.releaseLine
  repeat' (first
    | with_reducible assumption
    | (intro t_; first | (with_reducible refine keeps_cut (w := w) (s := s0) (t := t_) ?_ ?_; intro ht_; rotate_left; dsimp -zeta only [t_]) | skip)
    | with_reducible apply State.setWait_keeps (Sub.trans rfl hw)
    | with_reducible apply State.wrB_keeps (Sub.trans rfl hw)
    | with_reducible apply State.wrF_keeps (Sub.trans rfl hw)
    | with_reducible apply State.raise_keeps (Sub.trans rfl hw)
    | with_reducible apply State.emit_keeps (Sub.trans rfl hw)
    | with_reducible apply State.armRelease_keeps (Sub.trans rfl hw)
    | lift_lets
    | with_reducible refine keeps_ite ?_ ?_)

theorem State.evalLine_keeps {w : Nat} {s0 s : State} (hw : Sub 0x3000144 w) (h : Keeps w s0 s) (l : Nat) :
    Keeps w s0 (State.evalLine s l) := by
  unfold State.evalLine
  repeat' (first
    | with_reducible assumption
    | (intro t_; first | (with_reducible refine keeps_cut (w := w) (s := s0) (t := t_) ?_ ?_; intro ht_; rotate_left; dsimp -zeta only [t_]) | skip)
    | with_reducible apply State.wrB_keeps (Sub.trans rfl hw)
    | with_reducible apply State.releaseLine_keeps (Sub.trans rfl hw)
    | lift_lets
    | with_reducible refine keeps_ite ?_ ?_)

theorem State.evalRelays_keeps {w : Nat} {s0 s : State} (hw : Sub 0x3000144 w) (h : Keeps w s0 s) :
    Keeps w s0 (State.evalRelays s) := by
  unfold State.evalRelays
  repeat' (first
    | with_reducible assumption
    | (intro t_; first | (with_reducible refine keeps_cut (w := w) (s := s0) (t := t_) ?_ ?_; intro ht_; rotate_left; dsimp -zeta only [t_]) | skip)
    | with_reducible apply State.evalLine_keeps (Sub.trans rfl hw)
    | lift_lets
    | with_reducible refine keeps_ite ?_ ?_)

theorem State.setInsLine_keeps {w : Nat} {s0 s : State} (hw : Sub 0x40 w) (h : Keeps w s0 s) (d : Nat) (b : Bool) :
    Keeps w s0 (State.setInsLine s d b) := by
  have b6 := Sub.bit (i := 6) hw rfl
  unfold State.setInsLine
  repeat' (first
    | with_reducible assumption
    | (intro t_; first | (with_reducible refine keeps_cut (w := w) (s := s0) (t := t_) ?_ ?_; intro ht_; rotate_left; dsimp -zeta only [t_]) | skip)
    | lift_lets
    | with_reducible refine keeps_ite ?_ ?_
    | with_reducible refine keeps_upd ?_ (fun x => x) (fun x => x) (.inr rfl) (.inr rfl) (.inr rfl) (.inr rfl) (.inl b6) (.inr rfl) (.inr rfl) (.inr rfl) (.inr rfl) (.inr rfl) (.inr rfl) (.inr rfl) (.inr rfl) (.inr rfl) (.inr rfl) (.inr rfl) (.inr rfl) (.inr rfl) (.inr rfl) (.inr rfl) (.inr rfl) (.inr rfl) (.inr rfl) (.inr rfl) (.inr rfl))

theorem State.evalFloors_keeps {w : Nat} {s0 s : State} (hw : Sub 0x300004 w) (h : Keeps w s0 s) :
    Keeps w s0 (State.evalFloors s) := by
  unfold State.evalFloors
  repeat' (first
    | with_reducible assumption
    | (intro t_; first | (with_reducible refine keeps_cut (w := w) (s := s0) (t := t_) ?_ ?_; intro ht_; rotate_left; dsimp -zeta only [t_]) | skip)
    | with_reducible apply State.each_keeps (Sub.trans rfl hw)
    | with_reducible apply State.when_keeps (Sub.trans rfl hw)
    | with_reducible apply State.wrF_keeps (Sub.trans rfl hw)
    | with_reducible apply State.rgnWakeUp_keeps (Sub.trans rfl hw)
    | dsimp only [id]
    | lift_lets
    | with_reducible refine keeps_ite ?_ ?_)

theorem State.kaRestart_keeps {w : Nat} {s0 s : State} (hw : Sub 0x1000044 w) (h : Keeps w s0 s) :
    Keeps w s0 (State.kaRestart s) := by
  have b2 := Sub.bit (i := 2) hw rfl; have b6 := Sub.bit (i := 6) hw rfl; have b24 := Sub.bit (i := 24) hw rfl
  unfold State.kaRestart
  repeat' (first
    | with_reducible assumption
    | (intro t_; first | (with_reducible refine keeps_cut (w := w) (s := s0) (t := t_) ?_ ?_; intro ht_; rotate_left; dsimp -zeta only [t_]) | skip)
    | with_reducible apply State.arm_keeps (Sub.trans rfl hw)
    | with_reducible apply State.wrF_keeps (Sub.trans rfl hw)
    | lift_lets
    | with_reducible refine keeps_ite ?_ ?_
    | with_reducible refine keeps_upd ?_ (fun x => x) (fun x => x) (.inr rfl) (.inl b2) (.inr rfl) (.inr rfl) (.inl b6) (.inr rfl) (.inr rfl) (.inr rfl) (.inr rfl) (.inr rfl) (.inr rfl) (.inr rfl) (.inr rfl) (.inr rfl) (.inr rfl) (.inr rfl) (.inr rfl) (.inr rfl) (.inr rfl) (.inr rfl) (.inr rfl) (.inr rfl) (.inl b24) (.inr rfl) (.inr rfl))

theorem State.kaStop_keeps {w : Nat} {s0 s : State} (hw : Sub 0x1000004 w) (h : Keeps w s0 s) :
    Keeps w s0 (State.kaStop s) := by
  unfold State.kaStop
  repeat' (first
    | with_reducible assumption
    | (intro t_; first | (with_reducible refine keeps_cut (w := w) (s := s0) (t := t_) ?_ ?_; intro ht_; rotate_left; dsimp -zeta only [t_]) | skip)
    | with_reducible apply State.disarm_keeps (Sub.trans rfl hw)
    | with_reducible apply State.wrF_keeps (Sub.trans rfl hw)
    | lift_lets
    | with_reducible refine keeps_ite ?_ ?_)

theorem State.countNeed_keeps {w : Nat} {s0 s : State} (hw : Sub 0x1000040 w) (h : Keeps w s0 s) :
    Keeps w s0 (State.countNeed s) := by
  have b6 := Sub.bit (i := 6) hw rfl; have b24 := Sub.bit (i := 24) hw rfl
  unfold State.countNeed
  repeat' (first
    | with_reducible assumption
    | (intro t_; first | (with_reducible refine keeps_cut (w := w) (s := s0) (t := t_) ?_ ?_; intro ht_; rotate_left; dsimp -zeta only [t_]) | skip)
    | with_reducible apply State.arm_keeps (Sub.trans rfl hw)
    | lift_lets
    | with_reducible refine keeps_ite ?_ ?_
    | with_reducible refine keeps_upd ?_ (fun x => x) (fun x => x) (.inr rfl) (.inr rfl) (.inr rfl) (.inr rfl) (.inl b6) (.inr rfl) (.inr rfl) (.inr rfl) (.inr rfl) (.inr rfl) (.inr rfl) (.inr rfl) (.inr rfl) (.inr rfl) (.inr rfl) (.inr rfl) (.inr rfl) (.inr rfl) (.inr rfl) (.inr rfl) (.inr rfl) (.inr rfl) (.inl b24) (.inr rfl) (.inr rfl))

theorem State.boCancel_keeps {w : Nat} {s0 s : State} (hw : Sub 0x1000144 w) (h : Keeps w s0 s) :
    Keeps w s0 (State.boCancel s) := by
  have b2 := Sub.bit (i := 2) hw rfl; have b6 := Sub.bit (i := 6) hw rfl; have b8 := Sub.bit (i := 8) hw rfl; have b24 := Sub.bit (i := 24) hw rfl
  unfold State.boCancel
  repeat' (first
    | with_reducible assumption
    | (intro t_; first | (with_reducible refine keeps_cut (w := w) (s := s0) (t := t_) ?_ ?_; intro ht_; rotate_left; dsimp -zeta only [t_]) | skip)
    | with_reducible apply State.raise_keeps (Sub.trans rfl hw)
    | with_reducible apply State.countF_keeps (Sub.trans rfl hw)
    | with_reducible apply State.kaRestart_keeps (Sub.trans rfl hw)
    | with_reducible apply State.wrB_keeps (Sub.trans rfl hw)
    | with_reducible apply State.arm_keeps (Sub.trans rfl hw)
    | lift_lets
    | with_reducible refine keeps_ite ?_ ?_
    | with_reducible refine keeps_upd ?_ (fun x => x) (fun x => x) (.inr rfl) (.inl b2) (.inr rfl) (.inr rfl) (.inl b6) (.inr rfl) (.inl b8) (.inr rfl) (.inr rfl) (.inr rfl) (.inr rfl) (.inr rfl) (.inr rfl) (.inr rfl) (.inr rfl) (.inr rfl) (.inr rfl) (.inr rfl) (.inr rfl) (.inr rfl) (.inr rfl) (.inr rfl) (.inl b24) (.inr rfl) (.inr rfl))

theorem State.evalNeed_keeps {w : Nat} {s0 s : State} (hw : Sub 0x1000144 w) (h : Keeps w s0 s) :
    Keeps w s0 (State.evalNeed s) := by
  unfold State.evalNeed
  repeat' (first
    | with_reducible assumption
    | (intro t_; first | (with_reducible refine keeps_cut (w := w) (s := s0) (t := t_) ?_ ?_; intro ht_; rotate_left; dsimp -zeta only [t_]) | skip)
    | with_reducible apply State.wrB_keeps (Sub.trans rfl hw)
    | with_reducible apply State.disarm_keeps (Sub.trans rfl hw)
    | with_reducible apply State.boCancel_keeps (Sub.trans rfl hw)
    | with_reducible apply State.kaRestart_keeps (Sub.trans rfl hw)
    | lift_lets
    | with_reducible refine keeps_ite ?_ ?_)

theorem State.abortOffline_keeps {w : Nat} {s0 s : State} (hw : Sub 0x904 w) (h : Keeps w s0 s) :
    Keeps w s0 (State.abortOffline s) := by
  have b2 := Sub.bit (i := 2) hw rfl; have b8 := Sub.bit (i := 8) hw rfl; have b11 := Sub.bit (i := 11) hw rfl
  unfold State.abortOffline
  repeat' (first
    | with_reducible assumption
    | (intro t_; first | (with_reducible refine keeps_cut (w := w) (s := s0) (t := t_) ?_ ?_; intro ht_; rotate_left; dsimp -zeta only [t_]) | skip)
    | with_reducible apply State.each_keeps (Sub.trans rfl hw)
    | with_reducible apply State.wrB_keeps (Sub.trans rfl hw)
    | with_reducible apply State.raise_keeps (Sub.trans rfl hw)
    | lift_lets
    | with_reducible refine keeps_ite ?_ ?_
    | with_reducible refine keeps_upd ?_ (fun x => x) (fun x => x) (.inr rfl) (.inl b2) (.inr rfl) (.inr rfl) (.inr rfl) (.inr rfl) (.inl b8) (.inr rfl) (.inr rfl) (.inl b11) (.inr rfl) (.inr rfl) (.inr rfl) (.inr rfl) (.inr rfl) (.inr rfl) (.inr rfl) (.inr rfl) (.inr rfl) (.inr rfl) (.inr rfl) (.inr rfl) (.inr rfl) (.inr rfl) (.inr rfl))

theorem State.evalTok_keeps {w : Nat} {s0 s : State} (hw : Sub 0x4 w) (h : Keeps w s0 s) :
    Keeps w s0 (State.evalTok s) := by
  unfold State.evalTok
  repeat' (first
    | with_reducible assumption
    | (intro t_; first | (with_reducible refine keeps_cut (w := w) (s := s0) (t := t_) ?_ ?_; intro ht_; rotate_left; dsimp -zeta only [t_]) | skip)
    | with_reducible apply State.wrF_keeps (Sub.trans rfl hw)
    | lift_lets
    | with_reducible refine keeps_ite ?_ ?_)

theorem State.setRole_keeps {w : Nat} {s0 s : State} (hw : Sub 0x4 w) (h : Keeps w s0 s) (v : Nat) :
    Keeps w s0 (State.setRole s v) := by
  unfold State.setRole
  repeat' (first
    | with_reducible assumption
    | (intro t_; first | (with_reducible refine keeps_cut (w := w) (s := s0) (t := t_) ?_ ?_; intro ht_; rotate_left; dsimp -zeta only [t_]) | skip)
    | with_reducible apply State.wrF_keeps (Sub.trans rfl hw)
    | lift_lets
    | with_reducible refine keeps_ite ?_ ?_)

theorem State.dropToken_keeps {w : Nat} {s0 s : State} (hw : Sub 0x8104 w) (h : Keeps w s0 s) :
    Keeps w s0 (State.dropToken s) := by
  have b2 := Sub.bit (i := 2) hw rfl; have b8 := Sub.bit (i := 8) hw rfl; have b15 := Sub.bit (i := 15) hw rfl
  unfold State.dropToken
  repeat' (first
    | with_reducible assumption
    | (intro t_; first | (with_reducible refine keeps_cut (w := w) (s := s0) (t := t_) ?_ ?_; intro ht_; rotate_left; dsimp -zeta only [t_]) | skip)
    | with_reducible apply State.when_keeps (Sub.trans rfl hw)
    | with_reducible apply State.evalTok_keeps (Sub.trans rfl hw)
    | with_reducible apply State.setRole_keeps (Sub.trans rfl hw)
    | with_reducible apply State.raise_keeps (Sub.trans rfl hw)
    | dsimp only [id]
    | lift_lets
    | with_reducible refine keeps_ite ?_ ?_
    | with_reducible refine keeps_upd ?_ (fun x => x) (fun x => x) (.inr rfl) (.inl b2) (.inr rfl) (.inr rfl) (.inr rfl) (.inr rfl) (.inl b8) (.inr rfl) (.inr rfl) (.inr rfl) (.inr rfl) (.inr rfl) (.inr rfl) (.inl b15) (.inr rfl) (.inr rfl) (.inr rfl) (.inr rfl) (.inr rfl) (.inr rfl) (.inr rfl) (.inr rfl) (.inr rfl) (.inr rfl) (.inr rfl))

theorem State.recordMode_keeps {w : Nat} {s0 s : State} (hw : Sub 0x104 w) (h : Keeps w s0 s) (m : Sys2Proof.Machine.Mode) (c : Sys2Proof.Machine.Cause) :
    Keeps w s0 (State.recordMode s m c) := by
  unfold State.recordMode
  repeat' (first
    | with_reducible assumption
    | (intro t_; first | (with_reducible refine keeps_cut (w := w) (s := s0) (t := t_) ?_ ?_; intro ht_; rotate_left; dsimp -zeta only [t_]) | skip)
    | with_reducible apply State.wrF_keeps (Sub.trans rfl hw)
    | with_reducible apply State.wr_keeps (Sub.trans rfl hw)
    | with_reducible apply State.raise_keeps (Sub.trans rfl hw)
    | lift_lets
    | with_reducible refine keeps_ite ?_ ?_)

theorem State.noBindoff_keeps {w : Nat} {s0 s : State} (hw : Sub 0x44 w) (h : Keeps w s0 s) :
    Keeps w s0 (State.noBindoff s) := by
  have b2 := Sub.bit (i := 2) hw rfl; have b6 := Sub.bit (i := 6) hw rfl
  unfold State.noBindoff
  repeat' (first
    | with_reducible assumption
    | (intro t_; first | (with_reducible refine keeps_cut (w := w) (s := s0) (t := t_) ?_ ?_; intro ht_; rotate_left; dsimp -zeta only [t_]) | skip)
    | with_reducible apply State.wrB_keeps (Sub.trans rfl hw)
    | lift_lets
    | with_reducible refine keeps_ite ?_ ?_
    | with_reducible refine keeps_upd ?_ (fun x => x) (fun x => x) (.inr rfl) (.inl b2) (.inr rfl) (.inr rfl) (.inl b6) (.inr rfl) (.inr rfl) (.inr rfl) (.inr rfl) (.inr rfl) (.inr rfl) (.inr rfl) (.inr rfl) (.inr rfl) (.inr rfl) (.inr rfl) (.inr rfl) (.inr rfl) (.inr rfl) (.inr rfl) (.inr rfl) (.inr rfl) (.inr rfl) (.inr rfl) (.inr rfl))

theorem State.setMode_keeps {w : Nat} {s0 s : State} (hw : Sub 0x3308944 w) (h : Keeps w s0 s) (m : Sys2Proof.Machine.Mode) (c : Sys2Proof.Machine.Cause) :
    Keeps w s0 (State.setMode s m c) := by
  unfold State.setMode
  repeat' (first
    | with_reducible assumption
    | (intro t_; first | (with_reducible refine keeps_cut (w := w) (s := s0) (t := t_) ?_ ?_; intro ht_; rotate_left; dsimp -zeta only [t_]) | skip)
    | with_reducible apply State.when_keeps (Sub.trans rfl hw)
    | with_reducible apply State.recordMode_keeps (Sub.trans rfl hw)
    | with_reducible apply State.noBindoff_keeps (Sub.trans rfl hw)
    | with_reducible apply State.abortOffline_keeps (Sub.trans rfl hw)
    | with_reducible apply State.kaStop_keeps (Sub.trans rfl hw)
    | with_reducible apply State.kaRestart_keeps (Sub.trans rfl hw)
    | with_reducible apply State.countNeed_keeps (Sub.trans rfl hw)
    | with_reducible apply State.dropToken_keeps (Sub.trans rfl hw)
    | with_reducible apply State.evalFloors_keeps (Sub.trans rfl hw)
    | with_reducible apply State.evalRelays_keeps (Sub.trans rfl hw)
    | dsimp only [id]
    | lift_lets
    | with_reducible refine keeps_ite ?_ ?_)

theorem State.resetHidden0_keeps {w : Nat} {s0 s : State} (hw : Sub 0xffff80 w) (h : Keeps w s0 s) :
    Keeps w s0 (State.resetHidden0 s) := by
  have b7 := Sub.bit (i := 7) hw rfl; have b8 := Sub.bit (i := 8) hw rfl; have b9 := Sub.bit (i := 9) hw rfl; have b10 := Sub.bit (i := 10) hw rfl; have b11 := Sub.bit (i := 11) hw rfl; have b12 := Sub.bit (i := 12) hw rfl; have b13 := Sub.bit (i := 13) hw rfl; have b14 := Sub.bit (i := 14) hw rfl; have b15 := Sub.bit (i := 15) hw rfl; have b16 := Sub.bit (i := 16) hw rfl; have b17 := Sub.bit (i := 17) hw rfl; have b18 := Sub.bit (i := 18) hw rfl; have b19 := Sub.bit (i := 19) hw rfl; have b20 := Sub.bit (i := 20) hw rfl; have b21 := Sub.bit (i := 21) hw rfl; have b22 := Sub.bit (i := 22) hw rfl; have b23 := Sub.bit (i := 23) hw rfl
  unfold State.resetHidden0
  repeat' (first
    | with_reducible assumption
    | (intro t_; first | (with_reducible refine keeps_cut (w := w) (s := s0) (t := t_) ?_ ?_; intro ht_; rotate_left; dsimp -zeta only [t_]) | skip)
    | lift_lets
    | with_reducible refine keeps_ite ?_ ?_
    | with_reducible refine keeps_fst_ite ?_ ?_
    | (with_reducible refine keeps_of_eq (by assumption) ?_)
    | with_reducible refine keeps_upd ?_ (fun x => x) (fun x => x) (.inr rfl) (.inr rfl) (.inr rfl) (.inr rfl) (.inr rfl) (.inl b7) (.inl b8) (.inl b9) (.inl b10) (.inl b11) (.inl b12) (.inl b13) (.inl b14) (.inl b15) (.inl b16) (.inl b17) (.inl b18) (.inl b19) (.inl b20) (.inl b21) (.inl b22) (.inl b23) (.inr rfl) (.inr rfl) (.inr rfl))

theorem State.resetHidden1_keeps {w : Nat} {s0 s : State} (hw : Sub 0xf32980 w) (h : Keeps w s0 s) :
    Keeps w s0 (State.resetHidden1 s) := by
  have b7 := Sub.bit (i := 7) hw rfl; have b8 := Sub.bit (i := 8) hw rfl; have b11 := Sub.bit (i := 11) hw rfl; have b13 := Sub.bit (i := 13) hw rfl; have b16 := Sub.bit (i := 16) hw rfl; have b17 := Sub.bit (i := 17) hw rfl; have b20 := Sub.bit (i := 20) hw rfl; have b21 := Sub.bit (i := 21) hw rfl; have b22 := Sub.bit (i := 22) hw rfl; have b23 := Sub.bit (i := 23) hw rfl
  unfold State.resetHidden1
  repeat' (first
    | with_reducible assumption
    | (intro t_; first | (with_reducible refine keeps_cut (w := w) (s := s0) (t := t_) ?_ ?_; intro ht_; rotate_left; dsimp -zeta only [t_]) | skip)
    | lift_lets
    | with_reducible refine keeps_ite ?_ ?_
    | with_reducible refine keeps_fst_ite ?_ ?_
    | (with_reducible refine keeps_of_eq (by assumption) ?_)
    | with_reducible refine keeps_upd ?_ (fun x => x) (fun x => x) (.inr rfl) (.inr rfl) (.inr rfl) (.inr rfl) (.inr rfl) (.inl b7) (.inl b8) (.inr rfl) (.inr rfl) (.inl b11) (.inr rfl) (.inl b13) (.inr rfl) (.inr rfl) (.inl b16) (.inl b17) (.inr rfl) (.inr rfl) (.inl b20) (.inl b21) (.inl b22) (.inl b23) (.inr rfl) (.inr rfl) (.inr rfl))

theorem State.resetDie_keeps {w : Nat} {s0 s : State} (hw : Sub 0x3ffffec w) (h : Keeps w s0 s) (d : Nat) :
    Keeps w s0 (State.resetDie s d) := by
  have b2 := Sub.bit (i := 2) hw rfl; have b3 := Sub.bit (i := 3) hw rfl; have b5 := Sub.bit (i := 5) hw rfl; have b6 := Sub.bit (i := 6) hw rfl; have b7 := Sub.bit (i := 7) hw rfl; have b8 := Sub.bit (i := 8) hw rfl; have b9 := Sub.bit (i := 9) hw rfl; have b10 := Sub.bit (i := 10) hw rfl; have b11 := Sub.bit (i := 11) hw rfl; have b12 := Sub.bit (i := 12) hw rfl; have b13 := Sub.bit (i := 13) hw rfl; have b14 := Sub.bit (i := 14) hw rfl; have b15 := Sub.bit (i := 15) hw rfl; have b16 := Sub.bit (i := 16) hw rfl; have b17 := Sub.bit (i := 17) hw rfl; have b18 := Sub.bit (i := 18) hw rfl; have b19 := Sub.bit (i := 19) hw rfl; have b20 := Sub.bit (i := 20) hw rfl; have b21 := Sub.bit (i := 21) hw rfl; have b22 := Sub.bit (i := 22) hw rfl; have b23 := Sub.bit (i := 23) hw rfl; have b24 := Sub.bit (i := 24) hw rfl; have b25 := Sub.bit (i := 25) hw rfl
  unfold State.resetDie
  repeat' (first
    | with_reducible assumption
    | with_reducible exact (fun _ => Sparse.wf_nil)
    | with_reducible exact (fun _ => Sparse.wf_set Sparse.wf_nil)
    | with_reducible exact (fun x => Sparse.wf_drop x)
    | with_reducible exact (fun x => x)
    | with_reducible exact (fun x => rfl)
    | (intro t_; first | (with_reducible refine keeps_cut (w := w) (s := s0) (t := t_) ?_ ?_; intro ht_; rotate_left; dsimp -zeta only [t_]) | skip)
    | with_reducible apply State.resetHidden0_keeps (Sub.trans rfl hw)
    | with_reducible apply State.resetHidden1_keeps (Sub.trans rfl hw)
    | with_reducible apply State.setInsLine_keeps (Sub.trans rfl hw)
    | with_reducible apply State.wrB_keeps (Sub.trans rfl hw)
    | with_reducible apply State.disarm_keeps (Sub.trans rfl hw)
    | with_reducible apply State.evalRelays_keeps (Sub.trans rfl hw)
    | with_reducible apply State.dropTimers_keeps (Sub.trans rfl hw)
    | lift_lets
    | with_reducible refine keeps_ite ?_ ?_
    | with_reducible refine keeps_fst_ite ?_ ?_
    | (with_reducible refine keeps_of_eq (by assumption) ?_)
    | with_reducible refine keeps_upd ?_ ?_ ?_ (.inr rfl) (.inl b2) (.inl b3) (.inl b5) (.inl b6) (.inl b7) (.inl b8) (.inl b9) (.inl b10) (.inl b11) (.inl b12) (.inl b13) (.inl b14) (.inl b15) (.inl b16) (.inl b17) (.inl b18) (.inl b19) (.inl b20) (.inl b21) (.inl b22) (.inl b23) (.inl b24) (.inl b25) (.inr rfl))

theorem State.resetDies_keeps {w : Nat} {s0 s : State} (hw : Sub 0x3ffffec w) (h : Keeps w s0 s) :
    Keeps w s0 (State.resetDies s) := by
  unfold State.resetDies
  repeat' (first
    | with_reducible assumption
    | (intro t_; first | (with_reducible refine keeps_cut (w := w) (s := s0) (t := t_) ?_ ?_; intro ht_; rotate_left; dsimp -zeta only [t_]) | skip)
    | with_reducible apply State.resetDie_keeps (Sub.trans rfl hw)
    | lift_lets
    | with_reducible refine keeps_ite ?_ ?_)

theorem State.reboot_keeps {w : Nat} {s0 s : State} (hw : Sub 0x3ffffec w) (h : Keeps w s0 s) (c : Sys2Proof.Machine.Cause) :
    Keeps w s0 (State.reboot s c) := by
  have b2 := Sub.bit (i := 2) hw rfl; have b3 := Sub.bit (i := 3) hw rfl; have b5 := Sub.bit (i := 5) hw rfl; have b6 := Sub.bit (i := 6) hw rfl; have b7 := Sub.bit (i := 7) hw rfl; have b8 := Sub.bit (i := 8) hw rfl; have b9 := Sub.bit (i := 9) hw rfl; have b10 := Sub.bit (i := 10) hw rfl; have b11 := Sub.bit (i := 11) hw rfl; have b12 := Sub.bit (i := 12) hw rfl; have b13 := Sub.bit (i := 13) hw rfl; have b14 := Sub.bit (i := 14) hw rfl; have b15 := Sub.bit (i := 15) hw rfl; have b16 := Sub.bit (i := 16) hw rfl; have b17 := Sub.bit (i := 17) hw rfl; have b18 := Sub.bit (i := 18) hw rfl; have b19 := Sub.bit (i := 19) hw rfl; have b20 := Sub.bit (i := 20) hw rfl; have b21 := Sub.bit (i := 21) hw rfl; have b22 := Sub.bit (i := 22) hw rfl; have b23 := Sub.bit (i := 23) hw rfl; have b24 := Sub.bit (i := 24) hw rfl; have b25 := Sub.bit (i := 25) hw rfl
  unfold State.reboot
  repeat' (first
    | with_reducible assumption
    | (intro t_; first | (with_reducible refine keeps_cut (w := w) (s := s0) (t := t_) ?_ ?_; intro ht_; rotate_left; dsimp -zeta only [t_]) | skip)
    | with_reducible apply State.setMode_keeps (Sub.trans rfl hw)
    | with_reducible apply State.resetDies_keeps (Sub.trans rfl hw)
    | lift_lets
    | with_reducible refine keeps_ite ?_ ?_
    | with_reducible refine keeps_upd ?_ (fun x => x) (fun x => x) (.inr rfl) (.inl b2) (.inl b3) (.inl b5) (.inl b6) (.inl b7) (.inl b8) (.inl b9) (.inl b10) (.inl b11) (.inl b12) (.inl b13) (.inl b14) (.inl b15) (.inl b16) (.inl b17) (.inl b18) (.inl b19) (.inl b20) (.inl b21) (.inl b22) (.inl b23) (.inl b24) (.inl b25) (.inr rfl))

theorem State.park_keeps {w : Nat} {s0 s : State} (hw : Sub 0x3ffffec w) (h : Keeps w s0 s) (c : Sys2Proof.Machine.Cause) :
    Keeps w s0 (State.park s c) := by
  have b2 := Sub.bit (i := 2) hw rfl; have b3 := Sub.bit (i := 3) hw rfl; have b5 := Sub.bit (i := 5) hw rfl; have b6 := Sub.bit (i := 6) hw rfl; have b7 := Sub.bit (i := 7) hw rfl; have b8 := Sub.bit (i := 8) hw rfl; have b9 := Sub.bit (i := 9) hw rfl; have b10 := Sub.bit (i := 10) hw rfl; have b11 := Sub.bit (i := 11) hw rfl; have b12 := Sub.bit (i := 12) hw rfl; have b13 := Sub.bit (i := 13) hw rfl; have b14 := Sub.bit (i := 14) hw rfl; have b15 := Sub.bit (i := 15) hw rfl; have b16 := Sub.bit (i := 16) hw rfl; have b17 := Sub.bit (i := 17) hw rfl; have b18 := Sub.bit (i := 18) hw rfl; have b19 := Sub.bit (i := 19) hw rfl; have b20 := Sub.bit (i := 20) hw rfl; have b21 := Sub.bit (i := 21) hw rfl; have b22 := Sub.bit (i := 22) hw rfl; have b23 := Sub.bit (i := 23) hw rfl; have b24 := Sub.bit (i := 24) hw rfl; have b25 := Sub.bit (i := 25) hw rfl
  unfold State.park
  repeat' (first
    | with_reducible assumption
    | (intro t_; first | (with_reducible refine keeps_cut (w := w) (s := s0) (t := t_) ?_ ?_; intro ht_; rotate_left; dsimp -zeta only [t_]) | skip)
    | with_reducible apply State.resetDies_keeps (Sub.trans rfl hw)
    | with_reducible apply State.setMode_keeps (Sub.trans rfl hw)
    | with_reducible apply State.raise_keeps (Sub.trans rfl hw)
    | with_reducible apply State.wrF_keeps (Sub.trans rfl hw)
    | with_reducible apply State.dropTimers_keeps (Sub.trans rfl hw)
    | lift_lets
    | with_reducible refine keeps_ite ?_ ?_
    | with_reducible refine keeps_upd ?_ (fun x => x) (fun x => x) (.inr rfl) (.inl b2) (.inl b3) (.inl b5) (.inl b6) (.inl b7) (.inl b8) (.inl b9) (.inl b10) (.inl b11) (.inl b12) (.inl b13) (.inl b14) (.inl b15) (.inl b16) (.inl b17) (.inl b18) (.inl b19) (.inl b20) (.inl b21) (.inl b22) (.inl b23) (.inl b24) (.inl b25) (.inr rfl))

theorem State.burst_keeps {w : Nat} {s0 s : State} (hw : Sub 0x3000040 w) (h : Keeps w s0 s) (n : Nat) :
    Keeps w s0 (State.burst s n) := by
  have b6 := Sub.bit (i := 6) hw rfl; have b24 := Sub.bit (i := 24) hw rfl; have b25 := Sub.bit (i := 25) hw rfl
  unfold State.burst
  repeat' (first
    | with_reducible assumption
    | (intro t_; first | (with_reducible refine keeps_cut (w := w) (s := s0) (t := t_) ?_ ?_; intro ht_; rotate_left; dsimp -zeta only [t_]) | skip)
    | with_reducible apply State.arm_keeps (Sub.trans rfl hw)
    | with_reducible apply State.emit_keeps (Sub.trans rfl hw)
    | lift_lets
    | with_reducible refine keeps_ite ?_ ?_
    | with_reducible refine keeps_upd ?_ (fun x => x) (fun x => x) (.inr rfl) (.inr rfl) (.inr rfl) (.inr rfl) (.inl b6) (.inr rfl) (.inr rfl) (.inr rfl) (.inr rfl) (.inr rfl) (.inr rfl) (.inr rfl) (.inr rfl) (.inr rfl) (.inr rfl) (.inr rfl) (.inr rfl) (.inr rfl) (.inr rfl) (.inr rfl) (.inr rfl) (.inr rfl) (.inl b24) (.inl b25) (.inr rfl))

theorem State.enterWaking_keeps {w : Nat} {s0 s : State} (hw : Sub 0x3308944 w) (h : Keeps w s0 s) (c : Sys2Proof.Machine.Cause) :
    Keeps w s0 (State.enterWaking s c) := by
  have b2 := Sub.bit (i := 2) hw rfl; have b6 := Sub.bit (i := 6) hw rfl; have b8 := Sub.bit (i := 8) hw rfl; have b11 := Sub.bit (i := 11) hw rfl; have b15 := Sub.bit (i := 15) hw rfl; have b20 := Sub.bit (i := 20) hw rfl; have b21 := Sub.bit (i := 21) hw rfl; have b24 := Sub.bit (i := 24) hw rfl; have b25 := Sub.bit (i := 25) hw rfl
  unfold State.enterWaking
  repeat' (first
    | with_reducible assumption
    | (intro t_; first | (with_reducible refine keeps_cut (w := w) (s := s0) (t := t_) ?_ ?_; intro ht_; rotate_left; dsimp -zeta only [t_]) | skip)
    | with_reducible apply State.setMode_keeps (Sub.trans rfl hw)
    | with_reducible apply State.each_keeps (Sub.trans rfl hw)
    | with_reducible apply State.burst_keeps (Sub.trans rfl hw)
    | lift_lets
    | with_reducible refine keeps_ite ?_ ?_
    | with_reducible refine keeps_upd ?_ (fun x => x) (fun x => x) (.inr rfl) (.inl b2) (.inr rfl) (.inr rfl) (.inl b6) (.inr rfl) (.inl b8) (.inr rfl) (.inr rfl) (.inl b11) (.inr rfl) (.inr rfl) (.inr rfl) (.inl b15) (.inr rfl) (.inr rfl) (.inr rfl) (.inr rfl) (.inl b20) (.inl b21) (.inr rfl) (.inr rfl) (.inl b24) (.inl b25) (.inr rfl))

theorem State.noteWake_keeps {w : Nat} {s0 s : State} (hw : Sub 0x104 w) (h : Keeps w s0 s) (c : Sys2Proof.Machine.Cause) :
    Keeps w s0 (State.noteWake s c) := by
  unfold State.noteWake
  repeat' (first
    | with_reducible assumption
    | (intro t_; first | (with_reducible refine keeps_cut (w := w) (s := s0) (t := t_) ?_ ?_; intro ht_; rotate_left; dsimp -zeta only [t_]) | skip)
    | with_reducible apply State.wrF_keeps (Sub.trans rfl hw)
    | with_reducible apply State.raise_keeps (Sub.trans rfl hw)
    | with_reducible apply State.countF_keeps (Sub.trans rfl hw)
    | with_reducible apply State.wrB_keeps (Sub.trans rfl hw)
    | lift_lets
    | with_reducible refine keeps_ite ?_ ?_)

theorem State.wakeParked_keeps {w : Nat} {s0 s : State} (hw : Sub 0x3308944 w) (h : Keeps w s0 s) (c : Sys2Proof.Machine.Cause) :
    Keeps w s0 (State.wakeParked s c) := by
  have b2 := Sub.bit (i := 2) hw rfl; have b6 := Sub.bit (i := 6) hw rfl; have b8 := Sub.bit (i := 8) hw rfl; have b11 := Sub.bit (i := 11) hw rfl; have b15 := Sub.bit (i := 15) hw rfl; have b20 := Sub.bit (i := 20) hw rfl; have b21 := Sub.bit (i := 21) hw rfl; have b24 := Sub.bit (i := 24) hw rfl; have b25 := Sub.bit (i := 25) hw rfl
  unfold State.wakeParked
  repeat' (first
    | with_reducible assumption
    | (intro t_; first | (with_reducible refine keeps_cut (w := w) (s := s0) (t := t_) ?_ ?_; intro ht_; rotate_left; dsimp -zeta only [t_]) | skip)
    | with_reducible apply State.evalNeed_keeps (Sub.trans rfl hw)
    | with_reducible apply State.noteWake_keeps (Sub.trans rfl hw)
    | with_reducible apply State.disarm_keeps (Sub.trans rfl hw)
    | with_reducible apply State.wrF_keeps (Sub.trans rfl hw)
    | with_reducible apply State.raise_keeps (Sub.trans rfl hw)
    | with_reducible apply State.countF_keeps (Sub.trans rfl hw)
    | with_reducible apply State.wrB_keeps (Sub.trans rfl hw)
    | with_reducible apply State.enterWaking_keeps (Sub.trans rfl hw)
    | lift_lets
    | with_reducible refine keeps_ite ?_ ?_
    | with_reducible refine keeps_upd ?_ (fun x => x) (fun x => x) (.inr rfl) (.inl b2) (.inr rfl) (.inr rfl) (.inl b6) (.inr rfl) (.inl b8) (.inr rfl) (.inr rfl) (.inl b11) (.inr rfl) (.inr rfl) (.inr rfl) (.inl b15) (.inr rfl) (.inr rfl) (.inr rfl) (.inr rfl) (.inl b20) (.inl b21) (.inr rfl) (.inr rfl) (.inl b24) (.inl b25) (.inr rfl))

theorem State.wakeAwake_keeps {w : Nat} {s0 s : State} (hw : Sub 0x1000144 w) (h : Keeps w s0 s) (c : Sys2Proof.Machine.Cause) :
    Keeps w s0 (State.wakeAwake s c) := by
  have b2 := Sub.bit (i := 2) hw rfl; have b6 := Sub.bit (i := 6) hw rfl; have b8 := Sub.bit (i := 8) hw rfl; have b24 := Sub.bit (i := 24) hw rfl
  unfold State.wakeAwake
  repeat' (first
    | with_reducible assumption
    | (intro t_; first | (with_reducible refine keeps_cut (w := w) (s := s0) (t := t_) ?_ ?_; intro ht_; rotate_left; dsimp -zeta only [t_]) | skip)
    | with_reducible apply State.noteWake_keeps (Sub.trans rfl hw)
    | with_reducible apply State.countNeed_keeps (Sub.trans rfl hw)
    | with_reducible apply State.disarm_keeps (Sub.trans rfl hw)
    | with_reducible apply State.boCancel_keeps (Sub.trans rfl hw)
    | with_reducible apply State.evalNeed_keeps (Sub.trans rfl hw)
    | lift_lets
    | with_reducible refine keeps_ite ?_ ?_
    | with_reducible refine keeps_upd ?_ (fun x => x) (fun x => x) (.inr rfl) (.inl b2) (.inr rfl) (.inr rfl) (.inl b6) (.inr rfl) (.inl b8) (.inr rfl) (.inr rfl) (.inr rfl) (.inr rfl) (.inr rfl) (.inr rfl) (.inr rfl) (.inr rfl) (.inr rfl) (.inr rfl) (.inr rfl) (.inr rfl) (.inr rfl) (.inr rfl) (.inr rfl) (.inl b24) (.inr rfl) (.inr rfl))

theorem State.acceptWake_keeps {w : Nat} {s0 s : State} (hw : Sub 0x3308944 w) (h : Keeps w s0 s) (c : Sys2Proof.Machine.Cause) :
    Keeps w s0 (State.acceptWake s c) := by
  unfold State.acceptWake
  repeat' (first
    | with_reducible assumption
    | (intro t_; first | (with_reducible refine keeps_cut (w := w) (s := s0) (t := t_) ?_ ?_; intro ht_; rotate_left; dsimp -zeta only [t_]) | skip)
    | with_reducible apply State.wakeParked_keeps (Sub.trans rfl hw)
    | with_reducible apply State.wakeAwake_keeps (Sub.trans rfl hw)
    | lift_lets
    | with_reducible refine keeps_ite ?_ ?_
    | split
    | (clear_value *; split))

end Sys2Proof.Machine
end

