-- ==== Sys2Proof/Laws/Clock.lean ====
section
/-! SUPPORT. What the functions of Machine/Clock.lean keep, one lemma for each. -/

namespace Sys2Proof.Machine

theorem State.setView_keeps {w : Nat} {s0 s : State} (hw : Sub 0x4 w) (h : Keeps w s0 s) (k : Nat) (d : Nat) (n : Nat) :
    Keeps w s0 (State.setView s k d n) := by
  unfold State.setView
  repeat' (first
    | with_reducible assumption
    | (intro t_; first | (with_reducible refine keeps_cut (w := w) (s := s0) (t := t_) ?_ ?_; intro ht_; rotate_left; dsimp -zeta only [t_]) | skip)
    | with_reducible apply State.wr64_keeps (Sub.trans rfl hw)
    | with_reducible apply State.wr_keeps (Sub.trans rfl hw)
    | lift_lets
    | with_reducible refine keeps_ite ?_ ?_)

theorem State.keepTension_keeps {w : Nat} {s0 s : State} (hw : Sub 0x80 w) (h : Keeps w s0 s) :
    Keeps w s0 (State.keepTension s) := by
  have b7 := Sub.bit (i := 7) hw rfl
  unfold State.keepTension
  repeat' (first
    | with_reducible assumption
    | (intro t_; first | (with_reducible refine keeps_cut (w := w) (s := s0) (t := t_) ?_ ?_; intro ht_; rotate_left; dsimp -zeta only [t_]) | skip)
    | lift_lets
    | with_reducible refine keeps_ite ?_ ?_
    | with_reducible refine keeps_upd ?_ (fun x => x) (fun x => x) (.inr rfl) (.inr rfl) (.inr rfl) (.inr rfl) (.inr rfl) (.inl b7) (.inr rfl) (.inr rfl) (.inr rfl) (.inr rfl) (.inr rfl) (.inr rfl) (.inr rfl) (.inr rfl) (.inr rfl) (.inr rfl) (.inr rfl) (.inr rfl) (.inr rfl) (.inr rfl) (.inr rfl) (.inr rfl) (.inr rfl) (.inr rfl) (.inr rfl))

theorem State.advDomain_keeps {w : Nat} {s0 s : State} (hw : Sub 0x4 w) (h : Keeps w s0 s) (k : Nat) (d : Nat) (n : Nat) :
    Keeps w s0 (State.advDomain s k d n) := by
  unfold State.advDomain
  repeat' (first
    | with_reducible assumption
    | (intro t_; first | (with_reducible refine keeps_cut (w := w) (s := s0) (t := t_) ?_ ?_; intro ht_; rotate_left; dsimp -zeta only [t_]) | skip)
    | with_reducible apply State.wr_keeps (Sub.trans rfl hw)
    | with_reducible apply State.setView_keeps (Sub.trans rfl hw)
    | lift_lets
    | with_reducible refine keeps_ite ?_ ?_)

theorem State.setSt_keeps {w : Nat} {s0 s : State} (hw : Sub 0x104 w) (h : Keeps w s0 s) (k : Nat) (v : Sys2Proof.Word) :
    Keeps w s0 (State.setSt s k v) := by
  unfold State.setSt
  repeat' (first
    | with_reducible assumption
    | (intro t_; first | (with_reducible refine keeps_cut (w := w) (s := s0) (t := t_) ?_ ?_; intro ht_; rotate_left; dsimp -zeta only [t_]) | skip)
    | with_reducible apply State.wr_keeps (Sub.trans rfl hw)
    | with_reducible apply State.raise_keeps (Sub.trans rfl hw)
    | lift_lets
    | with_reducible refine keeps_ite ?_ ?_)

theorem State.setRck_keeps {w : Nat} {s0 s : State} (hw : Sub 0x184 w) (h : Keeps w s0 s) (k : Nat) (v : Nat) :
    Keeps w s0 (State.setRck s k v) := by
  have b2 := Sub.bit (i := 2) hw rfl; have b7 := Sub.bit (i := 7) hw rfl; have b8 := Sub.bit (i := 8) hw rfl
  unfold State.setRck
  repeat' (first
    | with_reducible assumption
    | (intro t_; first | (with_reducible refine keeps_cut (w := w) (s := s0) (t := t_) ?_ ?_; intro ht_; rotate_left; dsimp -zeta only [t_]) | skip)
    | with_reducible apply State.wr_keeps (Sub.trans rfl hw)
    | with_reducible apply State.setSt_keeps (Sub.trans rfl hw)
    | lift_lets
    | with_reducible refine keeps_ite ?_ ?_
    | with_reducible refine keeps_upd ?_ (fun x => x) (fun x => x) (.inr rfl) (.inl b2) (.inr rfl) (.inr rfl) (.inr rfl) (.inl b7) (.inl b8) (.inr rfl) (.inr rfl) (.inr rfl) (.inr rfl) (.inr rfl) (.inr rfl) (.inr rfl) (.inr rfl) (.inr rfl) (.inr rfl) (.inr rfl) (.inr rfl) (.inr rfl) (.inr rfl) (.inr rfl) (.inr rfl) (.inr rfl) (.inr rfl))

theorem State.evalRck_keeps {w : Nat} {s0 s : State} (hw : Sub 0x4 w) (h : Keeps w s0 s) (k : Nat) :
    Keeps w s0 (State.evalRck s k) := by
  unfold State.evalRck
  repeat' (first
    | with_reducible assumption
    | (intro t_; first | (with_reducible refine keeps_cut (w := w) (s := s0) (t := t_) ?_ ?_; intro ht_; rotate_left; dsimp -zeta only [t_]) | skip)
    | with_reducible apply State.wrB_keeps (Sub.trans rfl hw)
    | with_reducible apply State.wr_keeps (Sub.trans rfl hw)
    | lift_lets
    | with_reducible refine keeps_ite ?_ ?_)

theorem State.evalRcks_keeps {w : Nat} {s0 s : State} (hw : Sub 0x4 w) (h : Keeps w s0 s) :
    Keeps w s0 (State.evalRcks s) := by
  unfold State.evalRcks
  repeat' (first
    | with_reducible assumption
    | (intro t_; first | (with_reducible refine keeps_cut (w := w) (s := s0) (t := t_) ?_ ?_; intro ht_; rotate_left; dsimp -zeta only [t_]) | skip)
    | with_reducible apply State.evalRck_keeps (Sub.trans rfl hw)
    | lift_lets
    | with_reducible refine keeps_ite ?_ ?_)

theorem State.wrTmuStat_keeps {w : Nat} {s0 s : State} (hw : Sub 0x4 w) (h : Keeps w s0 s) (i : Nat) (b : Bool) :
    Keeps w s0 (State.wrTmuStat s i b) := by
  unfold State.wrTmuStat
  repeat' (first
    | with_reducible assumption
    | (intro t_; first | (with_reducible refine keeps_cut (w := w) (s := s0) (t := t_) ?_ ?_; intro ht_; rotate_left; dsimp -zeta only [t_]) | skip)
    | with_reducible apply State.when_keeps (Sub.trans rfl hw)
    | with_reducible apply State.wrB_keeps (Sub.trans rfl hw)
    | dsimp only [id]
    | lift_lets
    | with_reducible refine keeps_ite ?_ ?_)

theorem State.mirrorTmu_keeps {w : Nat} {s0 s : State} (hw : Sub 0x4 w) (h : Keeps w s0 s) :
    Keeps w s0 (State.mirrorTmu s) := by
  unfold State.mirrorTmu
  repeat' (first
    | with_reducible assumption
    | (intro t_; first | (with_reducible refine keeps_cut (w := w) (s := s0) (t := t_) ?_ ?_; intro ht_; rotate_left; dsimp -zeta only [t_]) | skip)
    | with_reducible apply State.each_keeps (Sub.trans rfl hw)
    | with_reducible apply State.wrB_keeps (Sub.trans rfl hw)
    | lift_lets
    | with_reducible refine keeps_ite ?_ ?_)

theorem State.raiseTmu_keeps {w : Nat} {s0 s : State} (hw : Sub 0x104 w) (h : Keeps w s0 s) (i : Nat) :
    Keeps w s0 (State.raiseTmu s i) := by
  unfold State.raiseTmu
  repeat' (first
    | with_reducible assumption
    | (intro t_; first | (with_reducible refine keeps_cut (w := w) (s := s0) (t := t_) ?_ ?_; intro ht_; rotate_left; dsimp -zeta only [t_]) | skip)
    | with_reducible apply State.raise_keeps (Sub.trans rfl hw)
    | lift_lets
    | with_reducible refine keeps_ite ?_ ?_)

theorem State.setSyncRun_keeps {w : Nat} {s0 s : State} (hw : Sub 0x80 w) (h : Keeps w s0 s) (d : Nat) (n : Nat) :
    Keeps w s0 (State.setSyncRun s d n) := by
  have b7 := Sub.bit (i := 7) hw rfl
  unfold State.setSyncRun
  repeat' (first
    | with_reducible assumption
    | (intro t_; first | (with_reducible refine keeps_cut (w := w) (s := s0) (t := t_) ?_ ?_; intro ht_; rotate_left; dsimp -zeta only [t_]) | skip)
    | lift_lets
    | with_reducible refine keeps_ite ?_ ?_
    | with_reducible refine keeps_upd ?_ (fun x => x) (fun x => x) (.inr rfl) (.inr rfl) (.inr rfl) (.inr rfl) (.inr rfl) (.inl b7) (.inr rfl) (.inr rfl) (.inr rfl) (.inr rfl) (.inr rfl) (.inr rfl) (.inr rfl) (.inr rfl) (.inr rfl) (.inr rfl) (.inr rfl) (.inr rfl) (.inr rfl) (.inr rfl) (.inr rfl) (.inr rfl) (.inr rfl) (.inr rfl) (.inr rfl))

theorem State.setHoldover_keeps {w : Nat} {s0 s : State} (hw : Sub 0x84 w) (h : Keeps w s0 s) :
    Keeps w s0 (State.setHoldover s) := by
  have b2 := Sub.bit (i := 2) hw rfl; have b7 := Sub.bit (i := 7) hw rfl
  unfold State.setHoldover
  repeat' (first
    | with_reducible assumption
    | (intro t_; first | (with_reducible refine keeps_cut (w := w) (s := s0) (t := t_) ?_ ?_; intro ht_; rotate_left; dsimp -zeta only [t_]) | skip)
    | with_reducible apply State.wrTmuStat_keeps (Sub.trans rfl hw)
    | lift_lets
    | with_reducible refine keeps_ite ?_ ?_
    | with_reducible refine keeps_upd ?_ (fun x => x) (fun x => x) (.inr rfl) (.inl b2) (.inr rfl) (.inr rfl) (.inr rfl) (.inl b7) (.inr rfl) (.inr rfl) (.inr rfl) (.inr rfl) (.inr rfl) (.inr rfl) (.inr rfl) (.inr rfl) (.inr rfl) (.inr rfl) (.inr rfl) (.inr rfl) (.inr rfl) (.inr rfl) (.inr rfl) (.inr rfl) (.inr rfl) (.inr rfl) (.inr rfl))

theorem State.clrHoldover_keeps {w : Nat} {s0 s : State} (hw : Sub 0x84 w) (h : Keeps w s0 s) :
    Keeps w s0 (State.clrHoldover s) := by
  have b2 := Sub.bit (i := 2) hw rfl; have b7 := Sub.bit (i := 7) hw rfl
  unfold State.clrHoldover
  repeat' (first
    | with_reducible assumption
    | (intro t_; first | (with_reducible refine keeps_cut (w := w) (s := s0) (t := t_) ?_ ?_; intro ht_; rotate_left; dsimp -zeta only [t_]) | skip)
    | with_reducible apply State.wrTmuStat_keeps (Sub.trans rfl hw)
    | lift_lets
    | with_reducible refine keeps_ite ?_ ?_
    | with_reducible refine keeps_upd ?_ (fun x => x) (fun x => x) (.inr rfl) (.inl b2) (.inr rfl) (.inr rfl) (.inr rfl) (.inl b7) (.inr rfl) (.inr rfl) (.inr rfl) (.inr rfl) (.inr rfl) (.inr rfl) (.inr rfl) (.inr rfl) (.inr rfl) (.inr rfl) (.inr rfl) (.inr rfl) (.inr rfl) (.inr rfl) (.inr rfl) (.inr rfl) (.inr rfl) (.inr rfl) (.inr rfl))

theorem State.switchRck_keeps {w : Nat} {s0 s : State} (hw : Sub 0x104 w) (h : Keeps w s0 s) (d : Nat) :
    Keeps w s0 (State.switchRck s d) := by
  unfold State.switchRck
  repeat' (first
    | with_reducible assumption
    | (intro t_; first | (with_reducible refine keeps_cut (w := w) (s := s0) (t := t_) ?_ ?_; intro ht_; rotate_left; dsimp -zeta only [t_]) | skip)
    | with_reducible apply State.evalRcks_keeps (Sub.trans rfl hw)
    | with_reducible apply State.raiseTmu_keeps (Sub.trans rfl hw)
    | with_reducible apply State.wrTmuStat_keeps (Sub.trans rfl hw)
    | lift_lets
    | with_reducible refine keeps_ite ?_ ?_)

theorem State.markCycle_keeps {w : Nat} {s0 s : State} (hw : Sub 0x80 w) (h : Keeps w s0 s) :
    Keeps w s0 (State.markCycle s) := by
  have b7 := Sub.bit (i := 7) hw rfl
  unfold State.markCycle
  repeat' (first
    | with_reducible assumption
    | (intro t_; first | (with_reducible refine keeps_cut (w := w) (s := s0) (t := t_) ?_ ?_; intro ht_; rotate_left; dsimp -zeta only [t_]) | skip)
    | lift_lets
    | with_reducible refine keeps_ite ?_ ?_
    | with_reducible refine keeps_fst_ite ?_ ?_
    | (with_reducible refine keeps_of_eq (by assumption) ?_)
    | with_reducible refine keeps_upd ?_ (fun x => x) (fun x => x) (.inr rfl) (.inr rfl) (.inr rfl) (.inr rfl) (.inr rfl) (.inl b7) (.inr rfl) (.inr rfl) (.inr rfl) (.inr rfl) (.inr rfl) (.inr rfl) (.inr rfl) (.inr rfl) (.inr rfl) (.inr rfl) (.inr rfl) (.inr rfl) (.inr rfl) (.inr rfl) (.inr rfl) (.inr rfl) (.inr rfl) (.inr rfl) (.inr rfl))

theorem State.declareLost_keeps {w : Nat} {s0 s : State} (hw : Sub 0x184 w) (h : Keeps w s0 s) (d : Nat) :
    Keeps w s0 (State.declareLost s d) := by
  unfold State.declareLost
  repeat' (first
    | with_reducible assumption
    | (intro t_; first | (with_reducible refine keeps_cut (w := w) (s := s0) (t := t_) ?_ ?_; intro ht_; rotate_left; dsimp -zeta only [t_]) | skip)
    | with_reducible apply State.setSyncRun_keeps (Sub.trans rfl hw)
    | with_reducible apply State.when_keeps (Sub.trans rfl hw)
    | with_reducible apply State.raiseTmu_keeps (Sub.trans rfl hw)
    | with_reducible apply State.wrTmuStat_keeps (Sub.trans rfl hw)
    | with_reducible apply State.markCycle_keeps (Sub.trans rfl hw)
    | with_reducible apply State.switchRck_keeps (Sub.trans rfl hw)
    | with_reducible apply State.setHoldover_keeps (Sub.trans rfl hw)
    | dsimp only [id]
    | lift_lets
    | with_reducible refine keeps_ite ?_ ?_)

theorem State.declareValid_keeps {w : Nat} {s0 s : State} (hw : Sub 0x184 w) (h : Keeps w s0 s) (d : Nat) :
    Keeps w s0 (State.declareValid s d) := by
  unfold State.declareValid
  repeat' (first
    | with_reducible assumption
    | (intro t_; first | (with_reducible refine keeps_cut (w := w) (s := s0) (t := t_) ?_ ?_; intro ht_; rotate_left; dsimp -zeta only [t_]) | skip)
    | with_reducible apply State.setSyncRun_keeps (Sub.trans rfl hw)
    | with_reducible apply State.raiseTmu_keeps (Sub.trans rfl hw)
    | with_reducible apply State.wrTmuStat_keeps (Sub.trans rfl hw)
    | lift_lets
    | with_reducible refine keeps_ite ?_ ?_)

theorem State.markPath_keeps {w : Nat} {s0 s : State} (hw : Sub 0x4 w) (h : Keeps w s0 s) (d : Nat) (p : Nat) :
    Keeps w s0 (State.markPath s d p) := by
  unfold State.markPath
  repeat' (first
    | with_reducible assumption
    | (intro t_; first | (with_reducible refine keeps_cut (w := w) (s := s0) (t := t_) ?_ ?_; intro ht_; rotate_left; dsimp -zeta only [t_]) | skip)
    | with_reducible apply State.wrB_keeps (Sub.trans rfl hw)
    | lift_lets
    | with_reducible refine keeps_ite ?_ ?_)

theorem State.pathChangeTd_keeps {w : Nat} {s0 s : State} (hw : Sub 0x104 w) (h : Keeps w s0 s) (ports : List Nat) (d : Nat) :
    Keeps w s0 (State.pathChangeTd s ports d) := by
  unfold State.pathChangeTd
  repeat' (first
    | with_reducible assumption
    | (intro t_; first | (with_reducible refine keeps_cut (w := w) (s := s0) (t := t_) ?_ ?_; intro ht_; rotate_left; dsimp -zeta only [t_]) | skip)
    | with_reducible apply State.wr_keeps (Sub.trans rfl hw)
    | with_reducible apply State.wrTmuStat_keeps (Sub.trans rfl hw)
    | with_reducible apply State.raiseTmu_keeps (Sub.trans rfl hw)
    | with_reducible apply State.each_keeps (Sub.trans rfl hw)
    | with_reducible apply State.markPath_keeps (Sub.trans rfl hw)
    | lift_lets
    | with_reducible refine keeps_ite ?_ ?_)

theorem State.pathChange_keeps {w : Nat} {s0 s : State} (hw : Sub 0x104 w) (h : Keeps w s0 s) (ports : List Nat) :
    Keeps w s0 (State.pathChange s ports) := by
  unfold State.pathChange
  repeat' (first
    | with_reducible assumption
    | (intro t_; first | (with_reducible refine keeps_cut (w := w) (s := s0) (t := t_) ?_ ?_; intro ht_; rotate_left; dsimp -zeta only [t_]) | skip)
    | with_reducible apply State.pathChangeTd_keeps (Sub.trans rfl hw)
    | lift_lets
    | with_reducible refine keeps_ite ?_ ?_)

theorem State.holdEnd_keeps {w : Nat} {s0 s : State} (hw : Sub 0x104 w) (h : Keeps w s0 s) (d : Nat) :
    Keeps w s0 (State.holdEnd s d) := by
  unfold State.holdEnd
  repeat' (first
    | with_reducible assumption
    | (intro t_; first | (with_reducible refine keeps_cut (w := w) (s := s0) (t := t_) ?_ ?_; intro ht_; rotate_left; dsimp -zeta only [t_]) | skip)
    | with_reducible apply State.raiseTmu_keeps (Sub.trans rfl hw)
    | with_reducible apply State.wr_keeps (Sub.trans rfl hw)
    | with_reducible apply State.wrTmuStat_keeps (Sub.trans rfl hw)
    | lift_lets
    | with_reducible refine keeps_ite ?_ ?_)

theorem State.holdStep_keeps {w : Nat} {s0 s : State} (hw : Sub 0x104 w) (h : Keeps w s0 s) (d : Nat) (m : Nat) :
    Keeps w s0 (State.holdStep s d m) := by
  unfold State.holdStep
  repeat' (first
    | with_reducible assumption
    | (intro t_; first | (with_reducible refine keeps_cut (w := w) (s := s0) (t := t_) ?_ ?_; intro ht_; rotate_left; dsimp -zeta only [t_]) | skip)
    | with_reducible apply State.wr_keeps (Sub.trans rfl hw)
    | with_reducible apply State.holdEnd_keeps (Sub.trans rfl hw)
    | lift_lets
    | with_reducible refine keeps_ite ?_ ?_)

theorem State.holdoverStep_keeps {w : Nat} {s0 s : State} (hw : Sub 0x80 w) (h : Keeps w s0 s) (m : Nat) :
    Keeps w s0 (State.holdoverStep s m) := by
  have b7 := Sub.bit (i := 7) hw rfl
  unfold State.holdoverStep
  repeat' (first
    | with_reducible assumption
    | (intro t_; first | (with_reducible refine keeps_cut (w := w) (s := s0) (t := t_) ?_ ?_; intro ht_; rotate_left; dsimp -zeta only [t_]) | skip)
    | lift_lets
    | with_reducible refine keeps_ite ?_ ?_
    | with_reducible refine keeps_upd ?_ (fun x => x) (fun x => x) (.inr rfl) (.inr rfl) (.inr rfl) (.inr rfl) (.inr rfl) (.inl b7) (.inr rfl) (.inr rfl) (.inr rfl) (.inr rfl) (.inr rfl) (.inr rfl) (.inr rfl) (.inr rfl) (.inr rfl) (.inr rfl) (.inr rfl) (.inr rfl) (.inr rfl) (.inr rfl) (.inr rfl) (.inr rfl) (.inr rfl) (.inr rfl) (.inr rfl))

theorem State.setSlave_keeps {w : Nat} {s0 s : State} (hw : Sub 0x104 w) (h : Keeps w s0 s) (d : Nat) (v : Nat) :
    Keeps w s0 (State.setSlave s d v) := by
  unfold State.setSlave
  repeat' (first
    | with_reducible assumption
    | (intro t_; first | (with_reducible refine keeps_cut (w := w) (s := s0) (t := t_) ?_ ?_; intro ht_; rotate_left; dsimp -zeta only [t_]) | skip)
    | with_reducible apply State.pathChange_keeps (Sub.trans rfl hw)
    | with_reducible apply State.wr_keeps (Sub.trans rfl hw)
    | with_reducible apply State.markPath_keeps (Sub.trans rfl hw)
    | lift_lets
    | with_reducible refine keeps_ite ?_ ?_)

theorem State.ppsFrom_keeps {w : Nat} {s0 s : State} (hw : Sub 0x3000080 w) (h : Keeps w s0 s) (old : Nat) :
    Keeps w s0 (State.ppsFrom s old) := by
  have b7 := Sub.bit (i := 7) hw rfl; have b24 := Sub.bit (i := 24) hw rfl; have b25 := Sub.bit (i := 25) hw rfl
  unfold State.ppsFrom
  repeat' (first
    | with_reducible assumption
    | (intro t_; first | (with_reducible refine keeps_cut (w := w) (s := s0) (t := t_) ?_ ?_; intro ht_; rotate_left; dsimp -zeta only [t_]) | skip)
    | with_reducible apply State.arm_keeps (Sub.trans rfl hw)
    | with_reducible apply State.emit_keeps (Sub.trans rfl hw)
    | lift_lets
    | with_reducible refine keeps_ite ?_ ?_
    | with_reducible refine keeps_upd ?_ (fun x => x) (fun x => x) (.inr rfl) (.inr rfl) (.inr rfl) (.inr rfl) (.inr rfl) (.inl b7) (.inr rfl) (.inr rfl) (.inr rfl) (.inr rfl) (.inr rfl) (.inr rfl) (.inr rfl) (.inr rfl) (.inr rfl) (.inr rfl) (.inr rfl) (.inr rfl) (.inr rfl) (.inr rfl) (.inr rfl) (.inr rfl) (.inl b24) (.inl b25) (.inr rfl))

theorem State.advDie_keeps {w : Nat} {s0 s : State} (hw : Sub 0x184 w) (h : Keeps w s0 s) (k : Nat) (n : Nat) :
    Keeps w s0 (State.advDie s k n) := by
  unfold State.advDie
  repeat' (first
    | with_reducible assumption
    | (intro t_; first | (with_reducible refine keeps_cut (w := w) (s := s0) (t := t_) ?_ ?_; intro ht_; rotate_left; dsimp -zeta only [t_]) | skip)
    | with_reducible apply State.evalRck_keeps (Sub.trans rfl hw)
    | with_reducible apply State.setRck_keeps (Sub.trans rfl hw)
    | with_reducible apply State.advDomain_keeps (Sub.trans rfl hw)
    | lift_lets
    | with_reducible refine keeps_ite ?_ ?_)

theorem State.advDies_keeps {w : Nat} {s0 s : State} (hw : Sub 0x3000184 w) (h : Keeps w s0 s) (n : Nat) :
    Keeps w s0 (State.advDies s n) := by
  unfold State.advDies
  repeat' (first
    | with_reducible assumption
    | (intro t_; first | (with_reducible refine keeps_cut (w := w) (s := s0) (t := t_) ?_ ?_; intro ht_; rotate_left; dsimp -zeta only [t_]) | skip)
    | with_reducible apply State.ppsFrom_keeps (Sub.trans rfl hw)
    | with_reducible apply State.when_keeps (Sub.trans rfl hw)
    | with_reducible apply State.advDie_keeps (Sub.trans rfl hw)
    | dsimp only [id]
    | lift_lets
    | with_reducible refine keeps_ite ?_ ?_)

theorem State.rowlessTicks_keeps {w : Nat} {s0 s : State} (hw : Sub 0x184 w) (h : Keeps w s0 s) (n : Nat) :
    Keeps w s0 (State.rowlessTicks s n) := by
  have b2 := Sub.bit (i := 2) hw rfl; have b7 := Sub.bit (i := 7) hw rfl; have b8 := Sub.bit (i := 8) hw rfl
  unfold State.rowlessTicks
  repeat' (first
    | with_reducible assumption
    | (intro t_; first | (with_reducible refine keeps_cut (w := w) (s := s0) (t := t_) ?_ ?_; intro ht_; rotate_left; dsimp -zeta only [t_]) | skip)
    | with_reducible apply State.holdoverStep_keeps (Sub.trans rfl hw)
    | with_reducible apply State.holdStep_keeps (Sub.trans rfl hw)
    | lift_lets
    | with_reducible refine keeps_ite ?_ ?_
    | with_reducible refine keeps_upd ?_ (fun x => x) (fun x => x) (.inr rfl) (.inl b2) (.inr rfl) (.inr rfl) (.inr rfl) (.inl b7) (.inl b8) (.inr rfl) (.inr rfl) (.inr rfl) (.inr rfl) (.inr rfl) (.inr rfl) (.inr rfl) (.inr rfl) (.inr rfl) (.inr rfl) (.inr rfl) (.inr rfl) (.inr rfl) (.inr rfl) (.inr rfl) (.inr rfl) (.inr rfl) (.inr rfl))

theorem State.setDue_keeps {w : Nat} {s0 s : State} (hw : Sub 0x80 w) (h : Keeps w s0 s) (d : Nat) (x : Sys2Proof.Machine.TimeDue) :
    Keeps w s0 (State.setDue s d x) := by
  have b7 := Sub.bit (i := 7) hw rfl
  unfold State.setDue
  repeat' (first
    | with_reducible assumption
    | (intro t_; first | (with_reducible refine keeps_cut (w := w) (s := s0) (t := t_) ?_ ?_; intro ht_; rotate_left; dsimp -zeta only [t_]) | skip)
    | lift_lets
    | with_reducible refine keeps_ite ?_ ?_
    | with_reducible refine keeps_upd ?_ (fun x => x) (fun x => x) (.inr rfl) (.inr rfl) (.inr rfl) (.inr rfl) (.inr rfl) (.inl b7) (.inr rfl) (.inr rfl) (.inr rfl) (.inr rfl) (.inr rfl) (.inr rfl) (.inr rfl) (.inr rfl) (.inr rfl) (.inr rfl) (.inr rfl) (.inr rfl) (.inr rfl) (.inr rfl) (.inr rfl) (.inr rfl) (.inr rfl) (.inr rfl) (.inr rfl))

theorem State.setTens_keeps {w : Nat} {s0 s : State} (hw : Sub 0x80 w) (h : Keeps w s0 s) (d : Nat) (v : Nat) :
    Keeps w s0 (State.setTens s d v) := by
  have b7 := Sub.bit (i := 7) hw rfl
  unfold State.setTens
  repeat' (first
    | with_reducible assumption
    | (intro t_; first | (with_reducible refine keeps_cut (w := w) (s := s0) (t := t_) ?_ ?_; intro ht_; rotate_left; dsimp -zeta only [t_]) | skip)
    | lift_lets
    | with_reducible refine keeps_ite ?_ ?_
    | with_reducible refine keeps_upd ?_ (fun x => x) (fun x => x) (.inr rfl) (.inr rfl) (.inr rfl) (.inr rfl) (.inr rfl) (.inl b7) (.inr rfl) (.inr rfl) (.inr rfl) (.inr rfl) (.inr rfl) (.inr rfl) (.inr rfl) (.inr rfl) (.inr rfl) (.inr rfl) (.inr rfl) (.inr rfl) (.inr rfl) (.inr rfl) (.inr rfl) (.inr rfl) (.inr rfl) (.inr rfl) (.inr rfl))

theorem State.commitTens_keeps {w : Nat} {s0 s : State} (hw : Sub 0x184 w) (h : Keeps w s0 s) (d : Nat) (v : Nat) :
    Keeps w s0 (State.commitTens s d v) := by
  unfold State.commitTens
  repeat' (first
    | with_reducible assumption
    | (intro t_; first | (with_reducible refine keeps_cut (w := w) (s := s0) (t := t_) ?_ ?_; intro ht_; rotate_left; dsimp -zeta only [t_]) | skip)
    | with_reducible apply State.wr_keeps (Sub.trans rfl hw)
    | with_reducible apply State.setTens_keeps (Sub.trans rfl hw)
    | with_reducible apply State.raiseTmu_keeps (Sub.trans rfl hw)
    | lift_lets
    | with_reducible refine keeps_ite ?_ ?_)

theorem State.stepDomain_keeps {w : Nat} {s0 s : State} (hw : Sub 0x104 w) (h : Keeps w s0 s) (d : Nat) (step : Int) :
    Keeps w s0 (State.stepDomain s d step) := by
  unfold State.stepDomain
  repeat' (first
    | with_reducible assumption
    | (intro t_; first | (with_reducible refine keeps_cut (w := w) (s := s0) (t := t_) ?_ ?_; intro ht_; rotate_left; dsimp -zeta only [t_]) | skip)
    | with_reducible apply State.evalRck_keeps (Sub.trans rfl hw)
    | with_reducible apply State.raiseTmu_keeps (Sub.trans rfl hw)
    | with_reducible apply State.setView_keeps (Sub.trans rfl hw)
    | lift_lets
    | with_reducible refine keeps_ite ?_ ?_)

theorem State.loadView_keeps {w : Nat} {s0 s : State} (hw : Sub 0x4 w) (h : Keeps w s0 s) (d : Nat) (ns : Nat) :
    Keeps w s0 (State.loadView s d ns) := by
  unfold State.loadView
  repeat' (first
    | with_reducible assumption
    | (intro t_; first | (with_reducible refine keeps_cut (w := w) (s := s0) (t := t_) ?_ ?_; intro ht_; rotate_left; dsimp -zeta only [t_]) | skip)
    | with_reducible apply State.evalRck_keeps (Sub.trans rfl hw)
    | with_reducible apply State.wr_keeps (Sub.trans rfl hw)
    | with_reducible apply State.setView_keeps (Sub.trans rfl hw)
    | lift_lets
    | with_reducible refine keeps_ite ?_ ?_)

theorem State.takeTens_keeps {w : Nat} {s0 s : State} (hw : Sub 0x184 w) (h : Keeps w s0 s) (d : Nat) :
    Keeps w s0 (State.takeTens s d) := by
  unfold State.takeTens
  repeat' (first
    | with_reducible assumption
    | (intro t_; first | (with_reducible refine keeps_cut (w := w) (s := s0) (t := t_) ?_ ?_; intro ht_; rotate_left; dsimp -zeta only [t_]) | skip)
    | with_reducible apply State.commitTens_keeps (Sub.trans rfl hw)
    | lift_lets
    | with_reducible refine keeps_ite ?_ ?_
    | split
    | (clear_value *; split))

theorem State.takeSetStep_keeps {w : Nat} {s0 s : State} (hw : Sub 0x184 w) (h : Keeps w s0 s) (d : Nat) :
    Keeps w s0 (State.takeSetStep s d) := by
  unfold State.takeSetStep
  repeat' (first
    | with_reducible assumption
    | (intro t_; first | (with_reducible refine keeps_cut (w := w) (s := s0) (t := t_) ?_ ?_; intro ht_; rotate_left; dsimp -zeta only [t_]) | skip)
    | with_reducible apply State.loadView_keeps (Sub.trans rfl hw)
    | with_reducible apply State.setDue_keeps (Sub.trans rfl hw)
    | with_reducible apply State.stepDomain_keeps (Sub.trans rfl hw)
    | lift_lets
    | with_reducible refine keeps_ite ?_ ?_
    | split
    | (clear_value *; split))

theorem State.dueTick_keeps {w : Nat} {s0 s : State} (hw : Sub 0x3000184 w) (h : Keeps w s0 s) :
    Keeps w s0 (State.dueTick s) := by
  unfold State.dueTick
  repeat' (first
    | with_reducible assumption
    | (intro t_; first | (with_reducible refine keeps_cut (w := w) (s := s0) (t := t_) ?_ ?_; intro ht_; rotate_left; dsimp -zeta only [t_]) | skip)
    | with_reducible apply State.advDies_keeps (Sub.trans rfl hw)
    | with_reducible apply State.takeTens_keeps (Sub.trans rfl hw)
    | with_reducible apply State.ppsFrom_keeps (Sub.trans rfl hw)
    | with_reducible apply State.takeSetStep_keeps (Sub.trans rfl hw)
    | lift_lets
    | with_reducible refine keeps_ite ?_ ?_)

theorem State.advance_keeps {w : Nat} {s0 s : State} (hw : Sub 0x3000184 w) (h : Keeps w s0 s) (n : Nat) :
    Keeps w s0 (State.advance s n) := by
  have b2 := Sub.bit (i := 2) hw rfl; have b7 := Sub.bit (i := 7) hw rfl; have b8 := Sub.bit (i := 8) hw rfl; have b24 := Sub.bit (i := 24) hw rfl; have b25 := Sub.bit (i := 25) hw rfl
  unfold State.advance
  repeat' (first
    | with_reducible assumption
    | (intro t_; first | (with_reducible refine keeps_cut (w := w) (s := s0) (t := t_) ?_ ?_; intro ht_; rotate_left; dsimp -zeta only [t_]) | skip)
    | with_reducible apply State.rowlessTicks_keeps (Sub.trans rfl hw)
    | with_reducible apply State.advDies_keeps (Sub.trans rfl hw)
    | with_reducible apply State.dueTick_keeps (Sub.trans rfl hw)
    | lift_lets
    | with_reducible refine keeps_ite ?_ ?_
    | with_reducible refine keeps_upd ?_ (fun x => x) (fun x => x) (.inr rfl) (.inl b2) (.inr rfl) (.inr rfl) (.inr rfl) (.inl b7) (.inl b8) (.inr rfl) (.inr rfl) (.inr rfl) (.inr rfl) (.inr rfl) (.inr rfl) (.inr rfl) (.inr rfl) (.inr rfl) (.inr rfl) (.inr rfl) (.inr rfl) (.inr rfl) (.inr rfl) (.inr rfl) (.inl b24) (.inl b25) (.inr rfl))

theorem State.gain_keeps {w : Nat} {s0 s : State} (hw : Sub 0x3000184 w) (h : Keeps w s0 s) (k : Nat) (dist : Nat) :
    Keeps w s0 (State.gain s k dist) := by
  unfold State.gain
  repeat' (first
    | with_reducible assumption
    | (intro t_; first | (with_reducible refine keeps_cut (w := w) (s := s0) (t := t_) ?_ ?_; intro ht_; rotate_left; dsimp -zeta only [t_]) | skip)
    | with_reducible apply State.advance_keeps (Sub.trans rfl hw)
    | lift_lets
    | with_reducible refine keeps_ite ?_ ?_)

theorem State.reachOn_keeps {w : Nat} {s0 s : State} (hw : Sub 0x3000184 w) (h : Keeps w s0 s) (k : Nat) (target : Sys2Proof.Word) :
    Keeps w s0 (State.reachOn s k target) := by
  unfold State.reachOn
  repeat' (first
    | with_reducible assumption
    | (intro t_; first | (with_reducible refine keeps_cut (w := w) (s := s0) (t := t_) ?_ ?_; intro ht_; rotate_left; dsimp -zeta only [t_]) | skip)
    | with_reducible apply State.gain_keeps (Sub.trans rfl hw)
    | lift_lets
    | with_reducible refine keeps_ite ?_ ?_)

theorem State.reachSt_keeps {w : Nat} {s0 s : State} (hw : Sub 0x3000184 w) (h : Keeps w s0 s) (target : Sys2Proof.Word) :
    Keeps w s0 (State.reachSt s target) := by
  unfold State.reachSt
  repeat' (first
    | with_reducible assumption
    | (intro t_; first | (with_reducible refine keeps_cut (w := w) (s := s0) (t := t_) ?_ ?_; intro ht_; rotate_left; dsimp -zeta only [t_]) | skip)
    | with_reducible apply State.reachOn_keeps (Sub.trans rfl hw)
    | lift_lets
    | with_reducible refine keeps_ite ?_ ?_)

theorem State.reachAt_keeps {w : Nat} {s0 s : State} (hw : Sub 0x3000184 w) (h : Keeps w s0 s) (n : Nat) :
    Keeps w s0 (State.reachAt s n) := by
  unfold State.reachAt
  repeat' (first
    | with_reducible assumption
    | (intro t_; first | (with_reducible refine keeps_cut (w := w) (s := s0) (t := t_) ?_ ?_; intro ht_; rotate_left; dsimp -zeta only [t_]) | skip)
    | with_reducible apply State.advance_keeps (Sub.trans rfl hw)
    | lift_lets
    | with_reducible refine keeps_ite ?_ ?_)

theorem State.expire_keeps {w : Nat} {s0 s : State} (hw : Sub 0x3000184 w) (h : Keeps w s0 s) (k : Nat) :
    Keeps w s0 (State.expire s k) := by
  unfold State.expire
  repeat' (first
    | with_reducible assumption
    | (intro t_; first | (with_reducible refine keeps_cut (w := w) (s := s0) (t := t_) ?_ ?_; intro ht_; rotate_left; dsimp -zeta only [t_]) | skip)
    | with_reducible apply State.disarm_keeps (Sub.trans rfl hw)
    | with_reducible apply State.reachAt_keeps (Sub.trans rfl hw)
    | lift_lets
    | with_reducible refine keeps_ite ?_ ?_
    | split
    | (clear_value *; split))

theorem State.reachFrom_keeps {w : Nat} {s0 s : State} (hw : Sub 0x3000184 w) (h : Keeps w s0 s) (k : Nat) (ns : Nat) :
    Keeps w s0 (State.reachFrom s k ns) := by
  unfold State.reachFrom
  repeat' (first
    | with_reducible assumption
    | (intro t_; first | (with_reducible refine keeps_cut (w := w) (s := s0) (t := t_) ?_ ?_; intro ht_; rotate_left; dsimp -zeta only [t_]) | skip)
    | with_reducible apply State.reachAt_keeps (Sub.trans rfl hw)
    | lift_lets
    | with_reducible refine keeps_ite ?_ ?_
    | split
    | (clear_value *; split))

theorem State.reachSec_keeps {w : Nat} {s0 s : State} (hw : Sub 0x3000184 w) (h : Keeps w s0 s) (d : Nat) :
    Keeps w s0 (State.reachSec s d) := by
  unfold State.reachSec
  repeat' (first
    | with_reducible assumption
    | (intro t_; first | (with_reducible refine keeps_cut (w := w) (s := s0) (t := t_) ?_ ?_; intro ht_; rotate_left; dsimp -zeta only [t_]) | skip)
    | with_reducible apply State.advance_keeps (Sub.trans rfl hw)
    | lift_lets
    | with_reducible refine keeps_ite ?_ ?_)

end Sys2Proof.Machine
end

