-- ==== Sys2Proof/Laws/Net.lean ====
section
/-! SUPPORT. What the functions of Machine/Net.lean keep, one lemma for each. -/

namespace Sys2Proof.Machine

theorem State.pst_keeps {w : Nat} {s0 s : State} (hw : Sub 0x100000 w) (h : Keeps w s0 s) (p : Nat) (i : Nat) :
    Keeps w s0 (State.pst s p i) := by
  unfold State.pst
  repeat' (first
    | with_reducible assumption
    | (intro t_; first | (with_reducible refine keeps_cut (w := w) (s := s0) (t := t_) ?_ ?_; intro ht_; rotate_left; dsimp -zeta only [t_]) | skip)
    | with_reducible apply State.statBy_keeps (Sub.trans rfl hw)
    | lift_lets
    | with_reducible refine keeps_ite ?_ ?_)

theorem State.sst_keeps {w : Nat} {s0 s : State} (hw : Sub 0x100000 w) (h : Keeps w s0 s) (d : Nat) (sid : Nat) (i : Nat) :
    Keeps w s0 (State.sst s d sid i) := by
  unfold State.sst
  repeat' (first
    | with_reducible assumption
    | (intro t_; first | (with_reducible refine keeps_cut (w := w) (s := s0) (t := t_) ?_ ?_; intro ht_; rotate_left; dsimp -zeta only [t_]) | skip)
    | with_reducible apply State.statBy_keeps (Sub.trans rfl hw)
    | lift_lets
    | with_reducible refine keeps_ite ?_ ?_)

theorem State.clearSlot_keeps {w : Nat} {s0 s : State} (hw : Sub 0x4 w) (h : Keeps w s0 s) (d : Nat) (m : Nat) (rx : Bool) (slot : Nat) :
    Keeps w s0 (State.clearSlot s d m rx slot) := by
  unfold State.clearSlot
  repeat' (first
    | with_reducible assumption
    | (intro t_; first | (with_reducible refine keeps_cut (w := w) (s := s0) (t := t_) ?_ ?_; intro ht_; rotate_left; dsimp -zeta only [t_]) | skip)
    | with_reducible apply State.each_keeps (Sub.trans rfl hw)
    | with_reducible apply State.wr_keeps (Sub.trans rfl hw)
    | with_reducible apply State.wrB_keeps (Sub.trans rfl hw)
    | lift_lets
    | with_reducible refine keeps_ite ?_ ?_)

theorem State.pnAdvance_keeps {w : Nat} {s0 s : State} (hw : Sub 0x104 w) (h : Keeps w s0 s) (d : Nat) (m : Nat) (slot : Nat) :
    Keeps w s0 (State.pnAdvance s d m slot) := by
  unfold State.pnAdvance
  repeat' (first
    | with_reducible assumption
    | (intro t_; first | (with_reducible refine keeps_cut (w := w) (s := s0) (t := t_) ?_ ?_; intro ht_; rotate_left; dsimp -zeta only [t_]) | skip)
    | with_reducible apply State.wr_keeps (Sub.trans rfl hw)
    | with_reducible apply State.wr64_keeps (Sub.trans rfl hw)
    | with_reducible apply State.raise_keeps (Sub.trans rfl hw)
    | with_reducible apply State.clearSlot_keeps (Sub.trans rfl hw)
    | lift_lets
    | with_reducible refine keeps_ite ?_ ?_)

theorem State.protect_keeps {w : Nat} {s0 s : State} (hw : Sub 0x104 w) (h : Keeps w s0 s) (d : Nat) (m : Nat) :
    Keeps w s0 (State.protect s d m).1 := by
  unfold State.protect
  repeat' (first
    | with_reducible assumption
    | (intro t_; first | (with_reducible refine keeps_cut (w := w) (s := s0) (t := t_) ?_ ?_; intro ht_; rotate_left; dsimp -zeta only [t_]) | skip)
    | with_reducible apply State.pnAdvance_keeps (Sub.trans rfl hw)
    | with_reducible apply State.count_keeps (Sub.trans rfl hw)
    | lift_lets
    | with_reducible refine keeps_ite ?_ ?_
    | with_reducible refine keeps_fst_ite ?_ ?_
    | (with_reducible refine keeps_of_eq (by assumption) ?_)
    | dsimp -zeta only)

theorem State.verify_keeps {w : Nat} {s0 s : State} (hw : Sub 0x4 w) (h : Keeps w s0 s) (d : Nat) (m : Nat) (tag : Option Sys2Proof.SecTag) (exempt : Bool) :
    Keeps w s0 (State.verify s d m tag exempt).1 := by
  unfold State.verify
  repeat' (first
    | with_reducible assumption
    | (intro t_; first | (with_reducible refine keeps_cut (w := w) (s := s0) (t := t_) ?_ ?_; intro ht_; rotate_left; dsimp -zeta only [t_]) | skip)
    | with_reducible apply State.count_keeps (Sub.trans rfl hw)
    | with_reducible apply State.wr64_keeps (Sub.trans rfl hw)
    | with_reducible apply State.wr_keeps (Sub.trans rfl hw)
    | lift_lets
    | with_reducible refine keeps_ite ?_ ?_
    | split
    | (clear_value *; split)
    | with_reducible refine keeps_fst_ite ?_ ?_
    | (with_reducible refine keeps_of_eq (by assumption) ?_)
    | dsimp -zeta only)

theorem State.meet_keeps {w : Nat} {s0 s : State} (hw : Sub 0x100104 w) (h : Keeps w s0 s) (p : Nat) (start : Nat) :
    Keeps w s0 (State.meet s p start) := by
  unfold State.meet
  repeat' (first
    | with_reducible assumption
    | (intro t_; first | (with_reducible refine keeps_cut (w := w) (s := s0) (t := t_) ?_ ?_; intro ht_; rotate_left; dsimp -zeta only [t_]) | skip)
    | with_reducible apply State.raise_keeps (Sub.trans rfl hw)
    | with_reducible apply State.pst_keeps (Sub.trans rfl hw)
    | with_reducible apply State.count_keeps (Sub.trans rfl hw)
    | lift_lets
    | with_reducible refine keeps_ite ?_ ?_)

theorem State.fragment_keeps {w : Nat} {s0 s : State} (hw : Sub 0x100004 w) (h : Keeps w s0 s) (p : Nat) :
    Keeps w s0 (State.fragment s p) := by
  unfold State.fragment
  repeat' (first
    | with_reducible assumption
    | (intro t_; first | (with_reducible refine keeps_cut (w := w) (s := s0) (t := t_) ?_ ?_; intro ht_; rotate_left; dsimp -zeta only [t_]) | skip)
    | with_reducible apply State.pst_keeps (Sub.trans rfl hw)
    | with_reducible apply State.count_keeps (Sub.trans rfl hw)
    | lift_lets
    | with_reducible refine keeps_ite ?_ ?_)

theorem State.preemptIf_keeps {w : Nat} {s0 s : State} (hw : Sub 0x120004 w) (h : Keeps w s0 s) (p : Nat) (c : Sys2Proof.Machine.Sending → Bool) :
    Keeps w s0 (State.preemptIf s p c) := by
  have b2 := Sub.bit (i := 2) hw rfl; have b17 := Sub.bit (i := 17) hw rfl; have b20 := Sub.bit (i := 20) hw rfl
  unfold State.preemptIf
  repeat' (first
    | with_reducible assumption
    | (intro t_; first | (with_reducible refine keeps_cut (w := w) (s := s0) (t := t_) ?_ ?_; intro ht_; rotate_left; dsimp -zeta only [t_]) | skip)
    | with_reducible apply State.fragment_keeps (Sub.trans rfl hw)
    | lift_lets
    | with_reducible refine keeps_ite ?_ ?_
    | split
    | (clear_value *; split)
    | with_reducible refine keeps_upd ?_ (fun x => x) (fun x => x) (.inr rfl) (.inl b2) (.inr rfl) (.inr rfl) (.inr rfl) (.inr rfl) (.inr rfl) (.inr rfl) (.inr rfl) (.inr rfl) (.inr rfl) (.inr rfl) (.inr rfl) (.inr rfl) (.inr rfl) (.inl b17) (.inr rfl) (.inr rfl) (.inl b20) (.inr rfl) (.inr rfl) (.inr rfl) (.inr rfl) (.inr rfl) (.inr rfl))

theorem State.occupy_keeps {w : Nat} {s0 s : State} (hw : Sub 0x120004 w) (h : Keeps w s0 s) (p : Nat) (n : Nat) (start : Nat) :
    Keeps w s0 (State.occupy s p n start) := by
  have b2 := Sub.bit (i := 2) hw rfl; have b17 := Sub.bit (i := 17) hw rfl; have b20 := Sub.bit (i := 20) hw rfl
  unfold State.occupy
  repeat' (first
    | with_reducible assumption
    | (intro t_; first | (with_reducible refine keeps_cut (w := w) (s := s0) (t := t_) ?_ ?_; intro ht_; rotate_left; dsimp -zeta only [t_]) | skip)
    | with_reducible apply State.preemptIf_keeps (Sub.trans rfl hw)
    | lift_lets
    | with_reducible refine keeps_ite ?_ ?_
    | with_reducible refine keeps_fst_ite ?_ ?_
    | (with_reducible refine keeps_of_eq (by assumption) ?_)
    | with_reducible refine keeps_upd ?_ (fun x => x) (fun x => x) (.inr rfl) (.inl b2) (.inr rfl) (.inr rfl) (.inr rfl) (.inr rfl) (.inr rfl) (.inr rfl) (.inr rfl) (.inr rfl) (.inr rfl) (.inr rfl) (.inr rfl) (.inr rfl) (.inr rfl) (.inl b17) (.inr rfl) (.inr rfl) (.inl b20) (.inr rfl) (.inr rfl) (.inr rfl) (.inr rfl) (.inr rfl) (.inr rfl))

theorem State.borrow_keeps {w : Nat} {s0 s : State} (hw : Sub 0x20104 w) (h : Keeps w s0 s) (p : Nat) (n : Nat) (start : Nat) :
    Keeps w s0 (State.borrow s p n start) := by
  have b2 := Sub.bit (i := 2) hw rfl; have b8 := Sub.bit (i := 8) hw rfl; have b17 := Sub.bit (i := 17) hw rfl
  unfold State.borrow
  repeat' (first
    | with_reducible assumption
    | (intro t_; first | (with_reducible refine keeps_cut (w := w) (s := s0) (t := t_) ?_ ?_; intro ht_; rotate_left; dsimp -zeta only [t_]) | skip)
    | with_reducible apply State.raise_keeps (Sub.trans rfl hw)
    | with_reducible apply State.countBy_keeps (Sub.trans rfl hw)
    | lift_lets
    | with_reducible refine keeps_ite ?_ ?_
    | with_reducible refine keeps_upd ?_ (fun x => x) (fun x => x) (.inr rfl) (.inl b2) (.inr rfl) (.inr rfl) (.inr rfl) (.inr rfl) (.inl b8) (.inr rfl) (.inr rfl) (.inr rfl) (.inr rfl) (.inr rfl) (.inr rfl) (.inr rfl) (.inr rfl) (.inl b17) (.inr rfl) (.inr rfl) (.inr rfl) (.inr rfl) (.inr rfl) (.inr rfl) (.inr rfl) (.inr rfl) (.inr rfl))

theorem State.passCluster_keeps {w : Nat} {s0 s : State} (hw : Sub 0x20000 w) (h : Keeps w s0 s) (c : Nat) :
    Keeps w s0 (State.passCluster s c) := by
  have b17 := Sub.bit (i := 17) hw rfl
  unfold State.passCluster
  repeat' (first
    | with_reducible assumption
    | (intro t_; first | (with_reducible refine keeps_cut (w := w) (s := s0) (t := t_) ?_ ?_; intro ht_; rotate_left; dsimp -zeta only [t_]) | skip)
    | lift_lets
    | with_reducible refine keeps_ite ?_ ?_
    | with_reducible refine keeps_upd ?_ (fun x => x) (fun x => x) (.inr rfl) (.inr rfl) (.inr rfl) (.inr rfl) (.inr rfl) (.inr rfl) (.inr rfl) (.inr rfl) (.inr rfl) (.inr rfl) (.inr rfl) (.inr rfl) (.inr rfl) (.inr rfl) (.inr rfl) (.inl b17) (.inr rfl) (.inr rfl) (.inr rfl) (.inr rfl) (.inr rfl) (.inr rfl) (.inr rfl) (.inr rfl) (.inr rfl))

theorem State.crossPort_keeps {w : Nat} {s0 s : State} (hw : Sub 0x820000 w) (h : Keeps w s0 s) (p : Nat) :
    Keeps w s0 (State.crossPort s p) := by
  have b17 := Sub.bit (i := 17) hw rfl; have b23 := Sub.bit (i := 23) hw rfl
  unfold State.crossPort
  repeat' (first
    | with_reducible assumption
    | (intro t_; first | (with_reducible refine keeps_cut (w := w) (s := s0) (t := t_) ?_ ?_; intro ht_; rotate_left; dsimp -zeta only [t_]) | skip)
    | with_reducible apply State.passCluster_keeps (Sub.trans rfl hw)
    | lift_lets
    | with_reducible refine keeps_ite ?_ ?_
    | with_reducible refine keeps_upd ?_ (fun x => x) (fun x => x) (.inr rfl) (.inr rfl) (.inr rfl) (.inr rfl) (.inr rfl) (.inr rfl) (.inr rfl) (.inr rfl) (.inr rfl) (.inr rfl) (.inr rfl) (.inr rfl) (.inr rfl) (.inr rfl) (.inr rfl) (.inl b17) (.inr rfl) (.inr rfl) (.inr rfl) (.inr rfl) (.inr rfl) (.inl b23) (.inr rfl) (.inr rfl) (.inr rfl))

theorem State.txCount_keeps {w : Nat} {s0 s : State} (hw : Sub 0x2920000 w) (h : Keeps w s0 s) (p : Nat) (f : Sys2Proof.Machine.Frame) (n : Nat) (sched : Bool) :
    Keeps w s0 (State.txCount s p f n sched) := by
  unfold State.txCount
  repeat' (first
    | with_reducible assumption
    | (intro t_; first | (with_reducible refine keeps_cut (w := w) (s := s0) (t := t_) ?_ ?_; intro ht_; rotate_left; dsimp -zeta only [t_]) | skip)
    | with_reducible apply State.when_keeps (Sub.trans rfl hw)
    | with_reducible apply State.pst_keeps (Sub.trans rfl hw)
    | with_reducible apply State.statBy_keeps (Sub.trans rfl hw)
    | with_reducible apply State.emit_keeps (Sub.trans rfl hw)
    | with_reducible apply State.crossPort_keeps (Sub.trans rfl hw)
    | dsimp only [id]
    | lift_lets
    | with_reducible refine keeps_ite ?_ ?_)

theorem State.txFrame_keeps {w : Nat} {s0 s : State} (hw : Sub 0x6920000 w) (h : Keeps w s0 s) (p : Nat) (f : Sys2Proof.Machine.Frame) (add : Nat) (sched : Bool) :
    Keeps w s0 (State.txFrame s p f add sched) := by
  unfold State.txFrame
  repeat' (first
    | with_reducible assumption
    | (intro t_; first | (with_reducible refine keeps_cut (w := w) (s := s0) (t := t_) ?_ ?_; intro ht_; rotate_left; dsimp -zeta only [t_]) | skip)
    | with_reducible apply State.txCount_keeps (Sub.trans rfl hw)
    | with_reducible apply State.useFree_keeps (Sub.trans rfl hw)
    | lift_lets
    | with_reducible refine keeps_ite ?_ ?_
    | split
    | (clear_value *; split))

theorem State.sendPort_keeps {w : Nat} {s0 s : State} (hw : Sub 0x6920104 w) (h : Keeps w s0 s) (p : Nat) (f : Sys2Proof.Machine.Frame) (sched : Bool) :
    Keeps w s0 (State.sendPort s p f sched) := by
  unfold State.sendPort
  repeat' (first
    | with_reducible assumption
    | (intro t_; first | (with_reducible refine keeps_cut (w := w) (s := s0) (t := t_) ?_ ?_; intro ht_; rotate_left; dsimp -zeta only [t_]) | skip)
    | with_reducible apply State.txFrame_keeps (Sub.trans rfl hw)
    | with_reducible apply State.protect_keeps (Sub.trans rfl hw)
    | with_reducible apply State.emit_keeps (Sub.trans rfl hw)
    | with_reducible apply State.pst_keeps (Sub.trans rfl hw)
    | lift_lets
    | with_reducible refine keeps_ite ?_ ?_
    | split
    | (clear_value *; split)
    | with_reducible refine keeps_fst_ite ?_ ?_
    | (with_reducible refine keeps_of_eq (by assumption) ?_))

theorem State.sendSched_keeps {w : Nat} {s0 s : State} (hw : Sub 0x6920104 w) (h : Keeps w s0 s) (p : Nat) (f : Sys2Proof.Machine.Frame) (start : Nat) :
    Keeps w s0 (State.sendSched s p f start) := by
  unfold State.sendSched
  repeat' (first
    | with_reducible assumption
    | (intro t_; first | (with_reducible refine keeps_cut (w := w) (s := s0) (t := t_) ?_ ?_; intro ht_; rotate_left; dsimp -zeta only [t_]) | skip)
    | with_reducible apply State.sendPort_keeps (Sub.trans rfl hw)
    | with_reducible apply State.occupy_keeps (Sub.trans rfl hw)
    | with_reducible apply State.meet_keeps (Sub.trans rfl hw)
    | lift_lets
    | with_reducible refine keeps_ite ?_ ?_)

theorem State.sendCoupling_keeps {w : Nat} {s0 s : State} (hw : Sub 0x6920104 w) (h : Keeps w s0 s) (f : Sys2Proof.Machine.Frame) (start : Nat) (sched : Bool) :
    Keeps w s0 (State.sendCoupling s f start sched) := by
  unfold State.sendCoupling
  repeat' (first
    | with_reducible assumption
    | (intro t_; first | (with_reducible refine keeps_cut (w := w) (s := s0) (t := t_) ?_ ?_; intro ht_; rotate_left; dsimp -zeta only [t_]) | skip)
    | with_reducible apply State.each_keeps (Sub.trans rfl hw)
    | with_reducible apply State.when_keeps (Sub.trans rfl hw)
    | with_reducible apply State.sendSched_keeps (Sub.trans rfl hw)
    | with_reducible apply State.sendPort_keeps (Sub.trans rfl hw)
    | dsimp only [id]
    | lift_lets
    | with_reducible refine keeps_ite ?_ ?_)

theorem State.sendRing_keeps {w : Nat} {s0 s : State} (hw : Sub 0x6920104 w) (h : Keeps w s0 s) (x_h : Sys2Proof.Hdr) (rtag : Option (BitVec 16)) (b : Sys2Proof.Machine.Body) (sched : Bool) :
    Keeps w s0 (State.sendRing s x_h rtag b sched) := by
  unfold State.sendRing
  repeat' (first
    | with_reducible assumption
    | (intro t_; first | (with_reducible refine keeps_cut (w := w) (s := s0) (t := t_) ?_ ?_; intro ht_; rotate_left; dsimp -zeta only [t_]) | skip)
    | with_reducible apply State.each_keeps (Sub.trans rfl hw)
    | with_reducible apply State.when_keeps (Sub.trans rfl hw)
    | with_reducible apply State.sendSched_keeps (Sub.trans rfl hw)
    | with_reducible apply State.sendPort_keeps (Sub.trans rfl hw)
    | with_reducible apply State.sendCoupling_keeps (Sub.trans rfl hw)
    | dsimp only [id]
    | lift_lets
    | with_reducible refine keeps_ite ?_ ?_)

theorem State.relay_keeps {w : Nat} {s0 s : State} (hw : Sub 0x6920104 w) (h : Keeps w s0 s) (p : Nat) (x_h : Sys2Proof.Hdr) (rtag : Option (BitVec 16)) (b : Sys2Proof.Machine.Body) (sched : Bool) :
    Keeps w s0 (State.relay s p x_h rtag b sched) := by
  unfold State.relay
  repeat' (first
    | with_reducible assumption
    | (intro t_; first | (with_reducible refine keeps_cut (w := w) (s := s0) (t := t_) ?_ ?_; intro ht_; rotate_left; dsimp -zeta only [t_]) | skip)
    | with_reducible apply State.sendSched_keeps (Sub.trans rfl hw)
    | with_reducible apply State.borrow_keeps (Sub.trans rfl hw)
    | with_reducible apply State.sendPort_keeps (Sub.trans rfl hw)
    | with_reducible apply State.when_keeps (Sub.trans rfl hw)
    | with_reducible apply State.sendCoupling_keeps (Sub.trans rfl hw)
    | dsimp only [id]
    | lift_lets
    | with_reducible refine keeps_ite ?_ ?_
    | split
    | (clear_value *; split))

theorem State.onArrival_keeps {w : Nat} {s0 : State} (_hw : Sub 0x0 w) {r : State × Arrival} (h : Keeps w s0 r.1)
    (f : Arrival → State → State) (hf : ∀ a t, Keeps w s0 t → Keeps w s0 (f a t)) : Keeps w s0 (State.onArrival r f) := by
  unfold State.onArrival
  exact keeps_ite h (hf _ _ h)

theorem State.takeRx_keeps {w : Nat} {s0 s : State} (hw : Sub 0x920004 w) (h : Keeps w s0 s) (rx : Sys2Proof.Rx) (exempt : Bool) :
    Keeps w s0 (State.takeRx s rx exempt).1 := by
  have b2 := Sub.bit (i := 2) hw rfl; have b17 := Sub.bit (i := 17) hw rfl; have b20 := Sub.bit (i := 20) hw rfl; have b23 := Sub.bit (i := 23) hw rfl
  unfold State.takeRx
  repeat' (first
    | with_reducible assumption
    | (intro t_; first | (with_reducible refine keeps_cut (w := w) (s := s0) (t := t_) ?_ ?_; intro ht_; rotate_left; dsimp -zeta only [t_]) | skip)
    | with_reducible apply State.statBy_keeps (Sub.trans rfl hw)
    | with_reducible apply State.pst_keeps (Sub.trans rfl hw)
    | with_reducible apply State.crossPort_keeps (Sub.trans rfl hw)
    | with_reducible apply State.verify_keeps (Sub.trans rfl hw)
    | lift_lets
    | with_reducible refine keeps_ite ?_ ?_
    | split
    | (clear_value *; split)
    | with_reducible refine keeps_fst_ite ?_ ?_
    | (with_reducible refine keeps_of_eq (by assumption) ?_)
    | with_reducible refine keeps_upd ?_ (fun x => x) (fun x => x) (.inr rfl) (.inl b2) (.inr rfl) (.inr rfl) (.inr rfl) (.inr rfl) (.inr rfl) (.inr rfl) (.inr rfl) (.inr rfl) (.inr rfl) (.inr rfl) (.inr rfl) (.inr rfl) (.inr rfl) (.inl b17) (.inr rfl) (.inr rfl) (.inl b20) (.inr rfl) (.inr rfl) (.inl b23) (.inr rfl) (.inr rfl) (.inr rfl)
    | dsimp -zeta only)

theorem State.xchk_keeps {w : Nat} {s0 s : State} (hw : Sub 0x100004 w) (h : Keeps w s0 s) (p : Nat) :
    Keeps w s0 (State.xchk s p) := by
  unfold State.xchk
  repeat' (first
    | with_reducible assumption
    | (intro t_; first | (with_reducible refine keeps_cut (w := w) (s := s0) (t := t_) ?_ ?_; intro ht_; rotate_left; dsimp -zeta only [t_]) | skip)
    | with_reducible apply State.pst_keeps (Sub.trans rfl hw)
    | with_reducible apply State.count_keeps (Sub.trans rfl hw)
    | lift_lets
    | with_reducible refine keeps_ite ?_ ?_)

theorem State.strip_keeps {w : Nat} {s0 s : State} (hw : Sub 0x4 w) (h : Keeps w s0 s) (p : Nat) :
    Keeps w s0 (State.strip s p) := by
  unfold State.strip
  repeat' (first
    | with_reducible assumption
    | (intro t_; first | (with_reducible refine keeps_cut (w := w) (s := s0) (t := t_) ?_ ?_; intro ht_; rotate_left; dsimp -zeta only [t_]) | skip)
    | with_reducible apply State.count_keeps (Sub.trans rfl hw)
    | lift_lets
    | with_reducible refine keeps_ite ?_ ?_)

theorem State.takeSl_keeps {w : Nat} {s0 s : State} (hw : Sub 0x920004 w) (h : Keeps w s0 s) (rx : Sys2Proof.Rx) (x_h : Sys2Proof.Hdr) (subtype : Sys2Proof.Byte) :
    Keeps w s0 (State.takeSl s rx x_h subtype).1 := by
  unfold State.takeSl
  repeat' (first
    | with_reducible assumption
    | (intro t_; first | (with_reducible refine keeps_cut (w := w) (s := s0) (t := t_) ?_ ?_; intro ht_; rotate_left; dsimp -zeta only [t_]) | skip)
    | with_reducible apply State.takeRx_keeps (Sub.trans rfl hw)
    | with_reducible apply State.pst_keeps (Sub.trans rfl hw)
    | with_reducible apply State.xchk_keeps (Sub.trans rfl hw)
    | lift_lets
    | with_reducible refine keeps_ite ?_ ?_
    | with_reducible refine keeps_fst_ite ?_ ?_
    | (with_reducible refine keeps_of_eq (by assumption) ?_)
    | dsimp -zeta only)

theorem State.relayBad_keeps {w : Nat} {s0 s : State} (hw : Sub 0x2000000 w) (h : Keeps w s0 s) (p : Nat) (f : Sys2Proof.Machine.Frame) :
    Keeps w s0 (State.relayBad s p f) := by
  unfold State.relayBad
  repeat' (first
    | with_reducible assumption
    | (intro t_; first | (with_reducible refine keeps_cut (w := w) (s := s0) (t := t_) ?_ ?_; intro ht_; rotate_left; dsimp -zeta only [t_]) | skip)
    | with_reducible apply State.emit_keeps (Sub.trans rfl hw)
    | lift_lets
    | with_reducible refine keeps_ite ?_ ?_
    | split
    | (clear_value *; split))

theorem State.endBad_keeps {w : Nat} {s0 s : State} (hw : Sub 0x2100000 w) (h : Keeps w s0 s) (p : Nat) (f : Sys2Proof.Machine.Frame) :
    Keeps w s0 (State.endBad s p f) := by
  unfold State.endBad
  repeat' (first
    | with_reducible assumption
    | (intro t_; first | (with_reducible refine keeps_cut (w := w) (s := s0) (t := t_) ?_ ?_; intro ht_; rotate_left; dsimp -zeta only [t_]) | skip)
    | with_reducible apply State.pst_keeps (Sub.trans rfl hw)
    | with_reducible apply State.relayBad_keeps (Sub.trans rfl hw)
    | lift_lets
    | with_reducible refine keeps_ite ?_ ?_
    | split
    | (clear_value *; split))

theorem State.noteCtx_keeps {w : Nat} {s0 s : State} (hw : Sub 0x8000 w) (h : Keeps w s0 s) (d : Nat) (c : Nat) :
    Keeps w s0 (State.noteCtx s d c) := by
  have b15 := Sub.bit (i := 15) hw rfl
  unfold State.noteCtx
  repeat' (first
    | with_reducible assumption
    | (intro t_; first | (with_reducible refine keeps_cut (w := w) (s := s0) (t := t_) ?_ ?_; intro ht_; rotate_left; dsimp -zeta only [t_]) | skip)
    | lift_lets
    | with_reducible refine keeps_ite ?_ ?_
    | with_reducible refine keeps_fst_ite ?_ ?_
    | (with_reducible refine keeps_of_eq (by assumption) ?_)
    | with_reducible refine keeps_upd ?_ (fun x => x) (fun x => x) (.inr rfl) (.inr rfl) (.inr rfl) (.inr rfl) (.inr rfl) (.inr rfl) (.inr rfl) (.inr rfl) (.inr rfl) (.inr rfl) (.inr rfl) (.inr rfl) (.inr rfl) (.inl b15) (.inr rfl) (.inr rfl) (.inr rfl) (.inr rfl) (.inr rfl) (.inr rfl) (.inr rfl) (.inr rfl) (.inr rfl) (.inr rfl) (.inr rfl))

theorem State.noteSeq_keeps {w : Nat} {s0 s : State} (hw : Sub 0x8000 w) (h : Keeps w s0 s) (d : Nat) (k : Nat) (i : Nat) :
    Keeps w s0 (State.noteSeq s d k i) := by
  have b15 := Sub.bit (i := 15) hw rfl
  unfold State.noteSeq
  repeat' (first
    | with_reducible assumption
    | (intro t_; first | (with_reducible refine keeps_cut (w := w) (s := s0) (t := t_) ?_ ?_; intro ht_; rotate_left; dsimp -zeta only [t_]) | skip)
    | lift_lets
    | with_reducible refine keeps_ite ?_ ?_
    | with_reducible refine keeps_fst_ite ?_ ?_
    | (with_reducible refine keeps_of_eq (by assumption) ?_)
    | with_reducible refine keeps_upd ?_ (fun x => x) (fun x => x) (.inr rfl) (.inr rfl) (.inr rfl) (.inr rfl) (.inr rfl) (.inr rfl) (.inr rfl) (.inr rfl) (.inr rfl) (.inr rfl) (.inr rfl) (.inr rfl) (.inr rfl) (.inl b15) (.inr rfl) (.inr rfl) (.inr rfl) (.inr rfl) (.inr rfl) (.inr rfl) (.inr rfl) (.inr rfl) (.inr rfl) (.inr rfl) (.inr rfl))

theorem State.noteEnt_keeps {w : Nat} {s0 s : State} (hw : Sub 0x8000 w) (h : Keeps w s0 s) (d : Nat) (t : Nat) (i : Nat) :
    Keeps w s0 (State.noteEnt s d t i) := by
  have b15 := Sub.bit (i := 15) hw rfl
  unfold State.noteEnt
  repeat' (first
    | with_reducible assumption
    | (intro t_; first | (with_reducible refine keeps_cut (w := w) (s := s0) (t := t_) ?_ ?_; intro ht_; rotate_left; dsimp -zeta only [t_]) | skip)
    | lift_lets
    | with_reducible refine keeps_ite ?_ ?_
    | with_reducible refine keeps_fst_ite ?_ ?_
    | (with_reducible refine keeps_of_eq (by assumption) ?_)
    | with_reducible refine keeps_upd ?_ (fun x => x) (fun x => x) (.inr rfl) (.inr rfl) (.inr rfl) (.inr rfl) (.inr rfl) (.inr rfl) (.inr rfl) (.inr rfl) (.inr rfl) (.inr rfl) (.inr rfl) (.inr rfl) (.inr rfl) (.inl b15) (.inr rfl) (.inr rfl) (.inr rfl) (.inr rfl) (.inr rfl) (.inr rfl) (.inr rfl) (.inr rfl) (.inr rfl) (.inr rfl) (.inr rfl))

end Sys2Proof.Machine
end

