-- ==== Sys2Proof/Laws/Data.lean ====
section
/-! SUPPORT. What the functions of Machine/Data.lean keep, one lemma for each. -/

namespace Sys2Proof.Machine

theorem State.setInfo_keeps {w : Nat} {s0 s : State} (hw : Sub 0x2000 w) (h : Keeps w s0 s) (d : Nat) (c : Nat) (i : Sys2Proof.Machine.CtxInfo) :
    Keeps w s0 (State.setInfo s d c i) := by
  have b13 := Sub.bit (i := 13) hw rfl
  unfold State.setInfo
  repeat' (first
    | with_reducible assumption
    | (intro t_; first | (with_reducible refine keeps_cut (w := w) (s := s0) (t := t_) ?_ ?_; intro ht_; rotate_left; dsimp -zeta only [t_]) | skip)
    | lift_lets
    | with_reducible refine keeps_ite ?_ ?_
    | with_reducible refine keeps_upd ?_ (fun x => x) (fun x => x) (.inr rfl) (.inr rfl) (.inr rfl) (.inr rfl) (.inr rfl) (.inr rfl) (.inr rfl) (.inr rfl) (.inr rfl) (.inr rfl) (.inr rfl) (.inl b13) (.inr rfl) (.inr rfl) (.inr rfl) (.inr rfl) (.inr rfl) (.inr rfl) (.inr rfl) (.inr rfl) (.inr rfl) (.inr rfl) (.inr rfl) (.inr rfl) (.inr rfl))

theorem State.notify_keeps {w : Nat} {s0 s : State} (hw : Sub 0x2104 w) (h : Keeps w s0 s) (d : Nat) (c : Nat) (kind : Nat) :
    Keeps w s0 (State.notify s d c kind) := by
  have b2 := Sub.bit (i := 2) hw rfl; have b8 := Sub.bit (i := 8) hw rfl; have b13 := Sub.bit (i := 13) hw rfl
  unfold State.notify
  repeat' (first
    | with_reducible assumption
    | (intro t_; first | (with_reducible refine keeps_cut (w := w) (s := s0) (t := t_) ?_ ?_; intro ht_; rotate_left; dsimp -zeta only [t_]) | skip)
    | with_reducible apply State.raise_keeps (Sub.trans rfl hw)
    | with_reducible apply State.countF_keeps (Sub.trans rfl hw)
    | with_reducible apply State.when_keeps (Sub.trans rfl hw)
    | with_reducible apply State.wrF_keeps (Sub.trans rfl hw)
    | with_reducible apply State.edge_keeps (Sub.trans rfl hw)
    | dsimp only [id]
    | lift_lets
    | with_reducible refine keeps_ite ?_ ?_
    | with_reducible refine keeps_fst_ite ?_ ?_
    | (with_reducible refine keeps_of_eq (by assumption) ?_)
    | with_reducible refine keeps_upd ?_ (fun x => x) (fun x => x) (.inr rfl) (.inl b2) (.inr rfl) (.inr rfl) (.inr rfl) (.inr rfl) (.inl b8) (.inr rfl) (.inr rfl) (.inr rfl) (.inr rfl) (.inl b13) (.inr rfl) (.inr rfl) (.inr rfl) (.inr rfl) (.inr rfl) (.inr rfl) (.inr rfl) (.inr rfl) (.inr rfl) (.inr rfl) (.inr rfl) (.inr rfl) (.inr rfl))

theorem State.refresh_keeps {w : Nat} {s0 s : State} (hw : Sub 0x10210c w) (h : Keeps w s0 s) (d : Nat) (c : Nat) :
    Keeps w s0 (State.refresh s d c) := by
  unfold State.refresh
  repeat' (first
    | with_reducible assumption
    | (intro t_; first | (with_reducible refine keeps_cut (w := w) (s := s0) (t := t_) ?_ ?_; intro ht_; rotate_left; dsimp -zeta only [t_]) | skip)
    | with_reducible apply State.statBy_keeps (Sub.trans rfl hw)
    | with_reducible apply State.setTwF_keeps (Sub.trans rfl hw)
    | with_reducible apply State.setInfo_keeps (Sub.trans rfl hw)
    | with_reducible apply State.notify_keeps (Sub.trans rfl hw)
    | lift_lets
    | with_reducible refine keeps_ite ?_ ?_)

theorem State.turnFront_keeps {w : Nat} {s0 s : State} (hw : Sub 0x8 w) (h : Keeps w s0 s) (d : Nat) (c : Nat) :
    Keeps w s0 (State.turnFront s d c) := by
  unfold State.turnFront
  repeat' (first
    | with_reducible assumption
    | (intro t_; first | (with_reducible refine keeps_cut (w := w) (s := s0) (t := t_) ?_ ?_; intro ht_; rotate_left; dsimp -zeta only [t_]) | skip)
    | with_reducible apply State.setTw_keeps (Sub.trans rfl hw)
    | lift_lets
    | with_reducible refine keeps_ite ?_ ?_)

theorem State.madeValid_keeps {w : Nat} {s0 s : State} (hw : Sub 0x10210c w) (h : Keeps w s0 s) (d : Nat) (c : Nat) :
    Keeps w s0 (State.madeValid s d c) := by
  unfold State.madeValid
  repeat' (first
    | with_reducible assumption
    | (intro t_; first | (with_reducible refine keeps_cut (w := w) (s := s0) (t := t_) ?_ ?_; intro ht_; rotate_left; dsimp -zeta only [t_]) | skip)
    | with_reducible apply State.notify_keeps (Sub.trans rfl hw)
    | with_reducible apply State.refresh_keeps (Sub.trans rfl hw)
    | with_reducible apply State.setInfo_keeps (Sub.trans rfl hw)
    | lift_lets
    | with_reducible refine keeps_ite ?_ ?_)

theorem State.madeNull_keeps {w : Nat} {s0 s : State} (hw : Sub 0x10210c w) (h : Keeps w s0 s) (d : Nat) (c : Nat) (st : BitVec 3) (reason : BitVec 5) :
    Keeps w s0 (State.madeNull s d c st reason) := by
  unfold State.madeNull
  repeat' (first
    | with_reducible assumption
    | (intro t_; first | (with_reducible refine keeps_cut (w := w) (s := s0) (t := t_) ?_ ?_; intro ht_; rotate_left; dsimp -zeta only [t_]) | skip)
    | with_reducible apply State.refresh_keeps (Sub.trans rfl hw)
    | with_reducible apply State.setInfo_keeps (Sub.trans rfl hw)
    | lift_lets
    | with_reducible refine keeps_ite ?_ ?_)

theorem State.backHeader_keeps {w : Nat} {s0 s : State} (hw : Sub 0x8 w) (h : Keeps w s0 s) (d : Nat) (c : Nat) :
    Keeps w s0 (State.backHeader s d c) := by
  unfold State.backHeader
  repeat' (first
    | with_reducible assumption
    | (intro t_; first | (with_reducible refine keeps_cut (w := w) (s := s0) (t := t_) ?_ ?_; intro ht_; rotate_left; dsimp -zeta only [t_]) | skip)
    | with_reducible apply State.setTbs_keeps (Sub.trans rfl hw)
    | lift_lets
    | with_reducible refine keeps_ite ?_ ?_)

theorem State.putFlip_keeps {w : Nat} {s0 s : State} (hw : Sub 0x2000 w) (h : Keeps w s0 s) (f : Sys2Proof.Machine.Flip) :
    Keeps w s0 (State.putFlip s f) := by
  have b13 := Sub.bit (i := 13) hw rfl
  unfold State.putFlip
  repeat' (first
    | with_reducible assumption
    | (intro t_; first | (with_reducible refine keeps_cut (w := w) (s := s0) (t := t_) ?_ ?_; intro ht_; rotate_left; dsimp -zeta only [t_]) | skip)
    | lift_lets
    | with_reducible refine keeps_ite ?_ ?_
    | with_reducible refine keeps_upd ?_ (fun x => x) (fun x => x) (.inr rfl) (.inr rfl) (.inr rfl) (.inr rfl) (.inr rfl) (.inr rfl) (.inr rfl) (.inr rfl) (.inr rfl) (.inr rfl) (.inr rfl) (.inl b13) (.inr rfl) (.inr rfl) (.inr rfl) (.inr rfl) (.inr rfl) (.inr rfl) (.inr rfl) (.inr rfl) (.inr rfl) (.inr rfl) (.inr rfl) (.inr rfl) (.inr rfl))

theorem State.commitBack_keeps {w : Nat} {s0 s : State} (hw : Sub 0x10a008 w) (h : Keeps w s0 s) (d : Nat) (c : Nat) :
    Keeps w s0 (State.commitBack s d c) := by
  unfold State.commitBack
  repeat' (first
    | with_reducible assumption
    | (intro t_; first | (with_reducible refine keeps_cut (w := w) (s := s0) (t := t_) ?_ ?_; intro ht_; rotate_left; dsimp -zeta only [t_]) | skip)
    | with_reducible apply State.putFlip_keeps (Sub.trans rfl hw)
    | with_reducible apply State.noteCtx_keeps (Sub.trans rfl hw)
    | with_reducible apply State.statBy_keeps (Sub.trans rfl hw)
    | with_reducible apply State.setTwF_keeps (Sub.trans rfl hw)
    | with_reducible apply State.backHeader_keeps (Sub.trans rfl hw)
    | lift_lets
    | with_reducible refine keeps_ite ?_ ?_)

theorem State.commitData_keeps {w : Nat} {s0 s : State} (hw : Sub 0x10a008 w) (h : Keeps w s0 s) (d : Nat) (c : Nat) (data : List Sys2Proof.Byte) :
    Keeps w s0 (State.commitData s d c data) := by
  unfold State.commitData
  repeat' (first
    | with_reducible assumption
    | (intro t_; first | (with_reducible refine keeps_cut (w := w) (s := s0) (t := t_) ?_ ?_; intro ht_; rotate_left; dsimp -zeta only [t_]) | skip)
    | with_reducible apply State.commitBack_keeps (Sub.trans rfl hw)
    | with_reducible apply State.setTbs_keeps (Sub.trans rfl hw)
    | lift_lets
    | with_reducible refine keeps_ite ?_ ?_)

theorem State.commitNull_keeps {w : Nat} {s0 s : State} (hw : Sub 0x10a008 w) (h : Keeps w s0 s) (d : Nat) (c : Nat) (reason : BitVec 5) :
    Keeps w s0 (State.commitNull s d c reason) := by
  unfold State.commitNull
  repeat' (first
    | with_reducible assumption
    | (intro t_; first | (with_reducible refine keeps_cut (w := w) (s := s0) (t := t_) ?_ ?_; intro ht_; rotate_left; dsimp -zeta only [t_]) | skip)
    | with_reducible apply State.putFlip_keeps (Sub.trans rfl hw)
    | with_reducible apply State.noteCtx_keeps (Sub.trans rfl hw)
    | with_reducible apply State.statBy_keeps (Sub.trans rfl hw)
    | with_reducible apply State.setTwF_keeps (Sub.trans rfl hw)
    | lift_lets
    | with_reducible refine keeps_ite ?_ ?_)

theorem State.flipOne_keeps {w : Nat} {s0 s : State} (hw : Sub 0x10210c w) (h : Keeps w s0 s) (d : Nat) (c : Nat) (null : Option (BitVec 5)) :
    Keeps w s0 (State.flipOne s d c null) := by
  unfold State.flipOne
  repeat' (first
    | with_reducible assumption
    | (intro t_; first | (with_reducible refine keeps_cut (w := w) (s := s0) (t := t_) ?_ ?_; intro ht_; rotate_left; dsimp -zeta only [t_]) | skip)
    | with_reducible apply State.madeValid_keeps (Sub.trans rfl hw)
    | with_reducible apply State.turnFront_keeps (Sub.trans rfl hw)
    | with_reducible apply State.madeNull_keeps (Sub.trans rfl hw)
    | lift_lets
    | with_reducible refine keeps_ite ?_ ?_
    | split
    | (clear_value *; split))

theorem State.flipMirror_keeps {w : Nat} {s0 s : State} (hw : Sub 0x10210c w) (h : Keeps w s0 s) (d : Nat) (c : Nat) (null : Option (BitVec 5)) :
    Keeps w s0 (State.flipMirror s d c null) := by
  unfold State.flipMirror
  repeat' (first
    | with_reducible assumption
    | (intro t_; first | (with_reducible refine keeps_cut (w := w) (s := s0) (t := t_) ?_ ?_; intro ht_; rotate_left; dsimp -zeta only [t_]) | skip)
    | with_reducible apply State.setTbs_keeps (Sub.trans rfl hw)
    | with_reducible apply State.flipOne_keeps (Sub.trans rfl hw)
    | with_reducible apply State.setTwF_keeps (Sub.trans rfl hw)
    | with_reducible apply State.raise_keeps (Sub.trans rfl hw)
    | with_reducible apply State.count_keeps (Sub.trans rfl hw)
    | lift_lets
    | with_reducible refine keeps_ite ?_ ?_
    | split
    | (clear_value *; split))

theorem State.doFlip_keeps {w : Nat} {s0 s : State} (hw : Sub 0x10210c w) (h : Keeps w s0 s) (f : Sys2Proof.Machine.Flip) :
    Keeps w s0 (State.doFlip s f) := by
  have b2 := Sub.bit (i := 2) hw rfl; have b3 := Sub.bit (i := 3) hw rfl; have b8 := Sub.bit (i := 8) hw rfl; have b13 := Sub.bit (i := 13) hw rfl; have b20 := Sub.bit (i := 20) hw rfl
  unfold State.doFlip
  repeat' (first
    | with_reducible assumption
    | (intro t_; first | (with_reducible refine keeps_cut (w := w) (s := s0) (t := t_) ?_ ?_; intro ht_; rotate_left; dsimp -zeta only [t_]) | skip)
    | with_reducible apply State.flipMirror_keeps (Sub.trans rfl hw)
    | with_reducible apply State.flipOne_keeps (Sub.trans rfl hw)
    | lift_lets
    | with_reducible refine keeps_ite ?_ ?_
    | with_reducible refine keeps_upd ?_ (fun x => x) (fun x => x) (.inr rfl) (.inl b2) (.inl b3) (.inr rfl) (.inr rfl) (.inr rfl) (.inl b8) (.inr rfl) (.inr rfl) (.inr rfl) (.inr rfl) (.inl b13) (.inr rfl) (.inr rfl) (.inr rfl) (.inr rfl) (.inr rfl) (.inr rfl) (.inl b20) (.inr rfl) (.inr rfl) (.inr rfl) (.inr rfl) (.inr rfl) (.inr rfl))

theorem State.consume_keeps {w : Nat} {s0 s : State} (hw : Sub 0x10210c w) (h : Keeps w s0 s) (d : Nat) (c : Nat) (t : Sys2Proof.Strand) :
    Keeps w s0 (State.consume s d c t) := by
  unfold State.consume
  repeat' (first
    | with_reducible assumption
    | (intro t_; first | (with_reducible refine keeps_cut (w := w) (s := s0) (t := t_) ?_ ?_; intro ht_; rotate_left; dsimp -zeta only [t_]) | skip)
    | with_reducible apply State.statBy_keeps (Sub.trans rfl hw)
    | with_reducible apply State.turnFront_keeps (Sub.trans rfl hw)
    | with_reducible apply State.setTbs_keeps (Sub.trans rfl hw)
    | with_reducible apply State.madeValid_keeps (Sub.trans rfl hw)
    | with_reducible apply State.setTwF_keeps (Sub.trans rfl hw)
    | with_reducible apply State.madeNull_keeps (Sub.trans rfl hw)
    | with_reducible apply State.when_keeps (Sub.trans rfl hw)
    | dsimp only [id]
    | lift_lets
    | with_reducible refine keeps_ite ?_ ?_)

theorem State.unravelStrand_keeps {w : Nat} {s0 s : State} (hw : Sub 0x10210c w) (h : Keeps w s0 s) (d : Nat) (skein : BitVec 13) (t : Sys2Proof.Strand) :
    Keeps w s0 (State.unravelStrand s d skein t) := by
  unfold State.unravelStrand
  repeat' (first
    | with_reducible assumption
    | (intro t_; first | (with_reducible refine keeps_cut (w := w) (s := s0) (t := t_) ?_ ?_; intro ht_; rotate_left; dsimp -zeta only [t_]) | skip)
    | with_reducible apply State.consume_keeps (Sub.trans rfl hw)
    | with_reducible apply State.raise_keeps (Sub.trans rfl hw)
    | with_reducible apply State.count_keeps (Sub.trans rfl hw)
    | lift_lets
    | with_reducible refine keeps_ite ?_ ?_
    | split
    | (clear_value *; split))

theorem State.unravel_keeps {w : Nat} {s0 s : State} (hw : Sub 0x10210c w) (h : Keeps w s0 s) (r : Nat) (skein : BitVec 13) (l : List Sys2Proof.Strand) :
    Keeps w s0 (State.unravel s r skein l) := by
  unfold State.unravel
  repeat' (first
    | with_reducible assumption
    | (intro t_; first | (with_reducible refine keeps_cut (w := w) (s := s0) (t := t_) ?_ ?_; intro ht_; rotate_left; dsimp -zeta only [t_]) | skip)
    | with_reducible apply State.each_keeps (Sub.trans rfl hw)
    | with_reducible apply State.unravelStrand_keeps (Sub.trans rfl hw)
    | lift_lets
    | with_reducible refine keeps_ite ?_ ?_)

theorem State.markStale_keeps {w : Nat} {s0 s : State} (hw : Sub 0x10210c w) (h : Keeps w s0 s) (skein : Nat) (ds : List Nat) :
    Keeps w s0 (State.markStale s skein ds) := by
  unfold State.markStale
  repeat' (first
    | with_reducible assumption
    | (intro t_; first | (with_reducible refine keeps_cut (w := w) (s := s0) (t := t_) ?_ ?_; intro ht_; rotate_left; dsimp -zeta only [t_]) | skip)
    | with_reducible apply State.each_keeps (Sub.trans rfl hw)
    | with_reducible apply State.refresh_keeps (Sub.trans rfl hw)
    | with_reducible apply State.setInfo_keeps (Sub.trans rfl hw)
    | lift_lets
    | with_reducible refine keeps_ite ?_ ?_)

theorem State.ageCtx_keeps {w : Nat} {s0 s : State} (hw : Sub 0x10210c w) (h : Keeps w s0 s) (d : Nat) (c : Nat) :
    Keeps w s0 (State.ageCtx s d c) := by
  unfold State.ageCtx
  repeat' (first
    | with_reducible assumption
    | (intro t_; first | (with_reducible refine keeps_cut (w := w) (s := s0) (t := t_) ?_ ?_; intro ht_; rotate_left; dsimp -zeta only [t_]) | skip)
    | with_reducible apply State.setTw_keeps (Sub.trans rfl hw)
    | with_reducible apply State.refresh_keeps (Sub.trans rfl hw)
    | with_reducible apply State.setInfo_keeps (Sub.trans rfl hw)
    | lift_lets
    | with_reducible refine keeps_ite ?_ ?_)

theorem State.ageDie_keeps {w : Nat} {s0 s : State} (hw : Sub 0x10210c w) (h : Keeps w s0 s) (d : Nat) :
    Keeps w s0 (State.ageDie s d) := by
  unfold State.ageDie
  repeat' (first
    | with_reducible assumption
    | (intro t_; first | (with_reducible refine keeps_cut (w := w) (s := s0) (t := t_) ?_ ?_; intro ht_; rotate_left; dsimp -zeta only [t_]) | skip)
    | with_reducible apply State.each_keeps (Sub.trans rfl hw)
    | with_reducible apply State.ageCtx_keeps (Sub.trans rfl hw)
    | lift_lets
    | with_reducible refine keeps_ite ?_ ?_)

theorem State.ageAll_keeps {w : Nat} {s0 s : State} (hw : Sub 0x10210c w) (h : Keeps w s0 s) :
    Keeps w s0 (State.ageAll s) := by
  unfold State.ageAll
  repeat' (first
    | with_reducible assumption
    | (intro t_; first | (with_reducible refine keeps_cut (w := w) (s := s0) (t := t_) ?_ ?_; intro ht_; rotate_left; dsimp -zeta only [t_]) | skip)
    | with_reducible apply State.each_keeps (Sub.trans rfl hw)
    | with_reducible apply State.ageDie_keeps (Sub.trans rfl hw)
    | lift_lets
    | with_reducible refine keeps_ite ?_ ?_)

theorem State.setRecInfo_keeps {w : Nat} {s0 s : State} (hw : Sub 0x2000 w) (h : Keeps w s0 s) (d : Nat) (i : Nat) (x : Sys2Proof.Machine.RecInfo) :
    Keeps w s0 (State.setRecInfo s d i x) := by
  have b13 := Sub.bit (i := 13) hw rfl
  unfold State.setRecInfo
  repeat' (first
    | with_reducible assumption
    | (intro t_; first | (with_reducible refine keeps_cut (w := w) (s := s0) (t := t_) ?_ ?_; intro ht_; rotate_left; dsimp -zeta only [t_]) | skip)
    | lift_lets
    | with_reducible refine keeps_ite ?_ ?_
    | with_reducible refine keeps_upd ?_ (fun x => x) (fun x => x) (.inr rfl) (.inr rfl) (.inr rfl) (.inr rfl) (.inr rfl) (.inr rfl) (.inr rfl) (.inr rfl) (.inr rfl) (.inr rfl) (.inr rfl) (.inl b13) (.inr rfl) (.inr rfl) (.inr rfl) (.inr rfl) (.inr rfl) (.inr rfl) (.inr rfl) (.inr rfl) (.inr rfl) (.inr rfl) (.inr rfl) (.inr rfl) (.inr rfl))

theorem State.takeAny_keeps {w : Nat} {s0 s : State} (hw : Sub 0x10c w) (h : Keeps w s0 s) (d : Nat) (i : Nat) :
    Keeps w s0 (State.takeAny s d i) := by
  unfold State.takeAny
  repeat' (first
    | with_reducible assumption
    | (intro t_; first | (with_reducible refine keeps_cut (w := w) (s := s0) (t := t_) ?_ ?_; intro ht_; rotate_left; dsimp -zeta only [t_]) | skip)
    | with_reducible apply State.raise_keeps (Sub.trans rfl hw)
    | with_reducible apply State.setTwF_keeps (Sub.trans rfl hw)
    | lift_lets
    | with_reducible refine keeps_ite ?_ ?_)

theorem State.recAccept_keeps {w : Nat} {s0 s : State} (hw : Sub 0x2008 w) (h : Keeps w s0 s) (d : Nat) (i : Nat) (q : Nat) (hist : Nat) :
    Keeps w s0 (State.recAccept s d i q hist) := by
  unfold State.recAccept
  repeat' (first
    | with_reducible assumption
    | (intro t_; first | (with_reducible refine keeps_cut (w := w) (s := s0) (t := t_) ?_ ?_; intro ht_; rotate_left; dsimp -zeta only [t_]) | skip)
    | with_reducible apply State.setTw_keeps (Sub.trans rfl hw)
    | with_reducible apply State.setRecInfo_keeps (Sub.trans rfl hw)
    | lift_lets
    | with_reducible refine keeps_ite ?_ ?_)

theorem State.recover_keeps {w : Nat} {s0 s : State} (hw : Sub 0x200c w) (h : Keeps w s0 s) (d : Nat) (i : Nat) (q : BitVec 16) :
    Keeps w s0 (State.recover s d i q).1 := by
  unfold State.recover
  repeat' (first
    | with_reducible assumption
    | (intro t_; first | (with_reducible refine keeps_cut (w := w) (s := s0) (t := t_) ?_ ?_; intro ht_; rotate_left; dsimp -zeta only [t_]) | skip)
    | with_reducible apply State.setRecInfo_keeps (Sub.trans rfl hw)
    | with_reducible apply State.recAccept_keeps (Sub.trans rfl hw)
    | with_reducible apply State.count_keeps (Sub.trans rfl hw)
    | lift_lets
    | with_reducible refine keeps_ite ?_ ?_
    | with_reducible refine keeps_fst_ite ?_ ?_
    | (with_reducible refine keeps_of_eq (by assumption) ?_)
    | dsimp -zeta only)

theorem State.recoverOn_keeps {w : Nat} {s0 s : State} (hw : Sub 0x200c w) (h : Keeps w s0 s) (k : Nat) (skein : BitVec 13) (q : BitVec 16) :
    Keeps w s0 (State.recoverOn s k skein q).1 := by
  unfold State.recoverOn
  repeat' (first
    | with_reducible assumption
    | (intro t_; first | (with_reducible refine keeps_cut (w := w) (s := s0) (t := t_) ?_ ?_; intro ht_; rotate_left; dsimp -zeta only [t_]) | skip)
    | with_reducible apply State.recover_keeps (Sub.trans rfl hw)
    | lift_lets
    | with_reducible refine keeps_ite ?_ ?_
    | split
    | (clear_value *; split)
    | with_reducible refine keeps_fst_ite ?_ ?_
    | (with_reducible refine keeps_of_eq (by assumption) ?_)
    | dsimp -zeta only)

theorem State.resetStreams_keeps {w : Nat} {s0 s : State} (hw : Sub 0x210c w) (h : Keeps w s0 s) :
    Keeps w s0 (State.resetStreams s) := by
  have b2 := Sub.bit (i := 2) hw rfl; have b3 := Sub.bit (i := 3) hw rfl; have b8 := Sub.bit (i := 8) hw rfl; have b13 := Sub.bit (i := 13) hw rfl
  unfold State.resetStreams
  repeat' (first
    | with_reducible assumption
    | (intro t_; first | (with_reducible refine keeps_cut (w := w) (s := s0) (t := t_) ?_ ?_; intro ht_; rotate_left; dsimp -zeta only [t_]) | skip)
    | with_reducible apply State.each_keeps (Sub.trans rfl hw)
    | with_reducible apply State.takeAny_keeps (Sub.trans rfl hw)
    | lift_lets
    | with_reducible refine keeps_ite ?_ ?_
    | with_reducible refine keeps_fst_ite ?_ ?_
    | (with_reducible refine keeps_of_eq (by assumption) ?_)
    | with_reducible refine keeps_upd ?_ (fun x => x) (fun x => x) (.inr rfl) (.inl b2) (.inl b3) (.inr rfl) (.inr rfl) (.inr rfl) (.inl b8) (.inr rfl) (.inr rfl) (.inr rfl) (.inr rfl) (.inl b13) (.inr rfl) (.inr rfl) (.inr rfl) (.inr rfl) (.inr rfl) (.inr rfl) (.inr rfl) (.inr rfl) (.inr rfl) (.inr rfl) (.inr rfl) (.inr rfl) (.inr rfl))

theorem State.knitOn_keeps {w : Nat} {s0 s : State} (hw : Sub 0x2000 w) (h : Keeps w s0 s) (row : Sys2Proof.Word) (sid : Nat) (e : Sys2Proof.Machine.Stitch) (d : Nat) :
    Keeps w s0 (State.knitOn s row sid e d) := by
  have b13 := Sub.bit (i := 13) hw rfl
  unfold State.knitOn
  repeat' (first
    | with_reducible assumption
    | (intro t_; first | (with_reducible refine keeps_cut (w := w) (s := s0) (t := t_) ?_ ?_; intro ht_; rotate_left; dsimp -zeta only [t_]) | skip)
    | with_reducible apply State.when_keeps (Sub.trans rfl hw)
    | dsimp only [id]
    | lift_lets
    | with_reducible refine keeps_ite ?_ ?_
    | split
    | (clear_value *; split)
    | with_reducible refine keeps_upd ?_ (fun x => x) (fun x => x) (.inr rfl) (.inr rfl) (.inr rfl) (.inr rfl) (.inr rfl) (.inr rfl) (.inr rfl) (.inr rfl) (.inr rfl) (.inr rfl) (.inr rfl) (.inl b13) (.inr rfl) (.inr rfl) (.inr rfl) (.inr rfl) (.inr rfl) (.inr rfl) (.inr rfl) (.inr rfl) (.inr rfl) (.inr rfl) (.inr rfl) (.inr rfl) (.inr rfl))

theorem State.advGen_keeps {w : Nat} {s0 s : State} (hw : Sub 0xa000 w) (h : Keeps w s0 s) (d : Nat) (sid : Nat) (e : Sys2Proof.Machine.Stitch) :
    Keeps w s0 (State.advGen s d sid e) := by
  have b13 := Sub.bit (i := 13) hw rfl; have b15 := Sub.bit (i := 15) hw rfl
  unfold State.advGen
  repeat' (first
    | with_reducible assumption
    | (intro t_; first | (with_reducible refine keeps_cut (w := w) (s := s0) (t := t_) ?_ ?_; intro ht_; rotate_left; dsimp -zeta only [t_]) | skip)
    | with_reducible apply State.noteSeq_keeps (Sub.trans rfl hw)
    | lift_lets
    | with_reducible refine keeps_ite ?_ ?_
    | split
    | (clear_value *; split)
    | with_reducible refine keeps_upd ?_ (fun x => x) (fun x => x) (.inr rfl) (.inr rfl) (.inr rfl) (.inr rfl) (.inr rfl) (.inr rfl) (.inr rfl) (.inr rfl) (.inr rfl) (.inr rfl) (.inr rfl) (.inl b13) (.inr rfl) (.inl b15) (.inr rfl) (.inr rfl) (.inr rfl) (.inr rfl) (.inr rfl) (.inr rfl) (.inr rfl) (.inr rfl) (.inr rfl) (.inr rfl) (.inr rfl))

end Sys2Proof.Machine
end

