-- ==== Sys2Proof/Laws/Tables.lean ====
section
/-! SUPPORT. What the functions of Machine/Tables.lean keep, one lemma for each. -/

namespace Sys2Proof.Machine

theorem State.setTuid_keeps {w : Nat} {s0 s : State} (hw : Sub 0x8 w) (h : Keeps w s0 s) (a : Nat) (u : Sys2Proof.Uid) :
    Keeps w s0 (State.setTuid s a u) := by
  unfold State.setTuid
  repeat' (first
    | with_reducible assumption
    | (intro t_; first | (with_reducible refine keeps_cut (w := w) (s := s0) (t := t_) ?_ ?_; intro ht_; rotate_left; dsimp -zeta only [t_]) | skip)
    | with_reducible apply State.setTw_keeps (Sub.trans rfl hw)
    | lift_lets
    | with_reducible refine keeps_ite ?_ ?_)

theorem State.clearWin_keeps {w : Nat} {s0 s : State} (hw : Sub 0x8 w) (h : Keeps w s0 s) (a n : Nat) : Keeps w s0 (s.clearWin a n) := by
  unfold State.clearWin
  with_reducible apply keeps_upd h (fun x => x) (fun x => Sparse.wf_drop x)
  all_goals first | exact Or.inl (Sub.bit hw rfl) | exact Or.inr rfl

theorem State.copyWin_keeps {w : Nat} {s0 s : State} (hw : Sub 0x8 w) (h : Keeps w s0 s) (src : Nat) (dst : Nat) (n : Nat) :
    Keeps w s0 (State.copyWin s src dst n) := by
  unfold State.copyWin
  repeat' (first
    | with_reducible assumption
    | (intro t_; first | (with_reducible refine keeps_cut (w := w) (s := s0) (t := t_) ?_ ?_; intro ht_; rotate_left; dsimp -zeta only [t_]) | skip)
    | with_reducible apply State.each_keeps (Sub.trans rfl hw)
    | with_reducible apply State.clearWin_keeps (Sub.trans rfl hw)
    | with_reducible apply State.setTb_keeps (Sub.trans rfl hw)
    | lift_lets
    | with_reducible refine keeps_ite ?_ ?_)

theorem State.reseedBits_keeps {w : Nat} {s0 s : State} (hw : Sub 0x8 w) (h : Keeps w s0 s) (d : Nat) (b : Nat) :
    Keeps w s0 (State.reseedBits s d b) := by
  unfold State.reseedBits
  repeat' (first
    | with_reducible assumption
    | (intro t_; first | (with_reducible refine keeps_cut (w := w) (s := s0) (t := t_) ?_ ?_; intro ht_; rotate_left; dsimp -zeta only [t_]) | skip)
    | with_reducible apply State.each_keeps (Sub.trans rfl hw)
    | with_reducible apply State.setTw_keeps (Sub.trans rfl hw)
    | lift_lets
    | with_reducible refine keeps_ite ?_ ?_)

theorem State.reseedData_keeps {w : Nat} {s0 s : State} (hw : Sub 0x8 w) (h : Keeps w s0 s) (d : Nat) (b : Nat) :
    Keeps w s0 (State.reseedData s d b) := by
  unfold State.reseedData
  repeat' (first
    | with_reducible assumption
    | (intro t_; first | (with_reducible refine keeps_cut (w := w) (s := s0) (t := t_) ?_ ?_; intro ht_; rotate_left; dsimp -zeta only [t_]) | skip)
    | with_reducible apply State.copyWin_keeps (Sub.trans rfl hw)
    | lift_lets
    | with_reducible refine keeps_ite ?_ ?_)

theorem State.reseedMaps_keeps {w : Nat} {s0 s : State} (hw : Sub 0xc w) (h : Keeps w s0 s) :
    Keeps w s0 (State.reseedMaps s) := by
  unfold State.reseedMaps
  repeat' (first
    | with_reducible assumption
    | (intro t_; first | (with_reducible refine keeps_cut (w := w) (s := s0) (t := t_) ?_ ?_; intro ht_; rotate_left; dsimp -zeta only [t_]) | skip)
    | with_reducible apply State.wr_keeps (Sub.trans rfl hw)
    | with_reducible apply State.copyWin_keeps (Sub.trans rfl hw)
    | with_reducible apply State.each_keeps (Sub.trans rfl hw)
    | with_reducible apply State.reseedData_keeps (Sub.trans rfl hw)
    | with_reducible apply State.wrB_keeps (Sub.trans rfl hw)
    | lift_lets
    | with_reducible refine keeps_ite ?_ ?_)

theorem State.reseed_keeps {w : Nat} {s0 s : State} (hw : Sub 0xc w) (h : Keeps w s0 s) :
    Keeps w s0 (State.reseed s) := by
  unfold State.reseed
  repeat' (first
    | with_reducible assumption
    | (intro t_; first | (with_reducible refine keeps_cut (w := w) (s := s0) (t := t_) ?_ ?_; intro ht_; rotate_left; dsimp -zeta only [t_]) | skip)
    | with_reducible apply State.reseedMaps_keeps (Sub.trans rfl hw)
    | with_reducible apply State.each_keeps (Sub.trans rfl hw)
    | with_reducible apply State.reseedBits_keeps (Sub.trans rfl hw)
    | lift_lets
    | with_reducible refine keeps_ite ?_ ?_)

theorem State.freeOld_keeps {w : Nat} {s0 s : State} (hw : Sub 0x8 w) (h : Keeps w s0 s) (d : Nat) (o : Nat) :
    Keeps w s0 (State.freeOld s d o) := by
  unfold State.freeOld
  repeat' (first
    | with_reducible assumption
    | (intro t_; first | (with_reducible refine keeps_cut (w := w) (s := s0) (t := t_) ?_ ?_; intro ht_; rotate_left; dsimp -zeta only [t_]) | skip)
    | with_reducible apply State.each_keeps (Sub.trans rfl hw)
    | with_reducible apply State.when_keeps (Sub.trans rfl hw)
    | with_reducible apply State.clearWin_keeps (Sub.trans rfl hw)
    | dsimp only [id]
    | lift_lets
    | with_reducible refine keeps_ite ?_ ?_)

theorem State.dirWrite_keeps {w : Nat} {s0 s : State} (hw : Sub 0x8 w) (h : Keeps w s0 s) (d : Nat) (i : Nat) (k : Sys2Proof.Machine.DirKey) (w2 : Sys2Proof.Word) :
    Keeps w s0 (State.dirWrite s d i k w2) := by
  unfold State.dirWrite
  repeat' (first
    | with_reducible assumption
    | (intro t_; first | (with_reducible refine keeps_cut (w := w) (s := s0) (t := t_) ?_ ?_; intro ht_; rotate_left; dsimp -zeta only [t_]) | skip)
    | with_reducible apply State.setTw_keeps (Sub.trans rfl hw)
    | lift_lets
    | with_reducible refine keeps_ite ?_ ?_
    | split
    | (clear_value *; split))

theorem State.ageFrom_keeps {w : Nat} {s0 s : State} (hw : Sub 0x20000 w) (h : Keeps w s0 s) (d : Nat) (i : Nat) :
    Keeps w s0 (State.ageFrom s d i) := by
  have b17 := Sub.bit (i := 17) hw rfl
  unfold State.ageFrom
  repeat' (first
    | with_reducible assumption
    | (intro t_; first | (with_reducible refine keeps_cut (w := w) (s := s0) (t := t_) ?_ ?_; intro ht_; rotate_left; dsimp -zeta only [t_]) | skip)
    | lift_lets
    | with_reducible refine keeps_ite ?_ ?_
    | with_reducible refine keeps_upd ?_ (fun x => x) (fun x => x) (.inr rfl) (.inr rfl) (.inr rfl) (.inr rfl) (.inr rfl) (.inr rfl) (.inr rfl) (.inr rfl) (.inr rfl) (.inr rfl) (.inr rfl) (.inr rfl) (.inr rfl) (.inr rfl) (.inr rfl) (.inl b17) (.inr rfl) (.inr rfl) (.inr rfl) (.inr rfl) (.inr rfl) (.inr rfl) (.inr rfl) (.inr rfl) (.inr rfl))

theorem State.evalTables_keeps {w : Nat} {s0 s : State} (hw : Sub 0x4 w) (h : Keeps w s0 s) (d : Nat) :
    Keeps w s0 (State.evalTables s d) := by
  unfold State.evalTables
  repeat' (first
    | with_reducible assumption
    | (intro t_; first | (with_reducible refine keeps_cut (w := w) (s := s0) (t := t_) ?_ ?_; intro ht_; rotate_left; dsimp -zeta only [t_]) | skip)
    | with_reducible apply State.wrB_keeps (Sub.trans rfl hw)
    | with_reducible apply State.wrF_keeps (Sub.trans rfl hw)
    | lift_lets
    | with_reducible refine keeps_ite ?_ ?_)

theorem State.flushLearned_keeps {w : Nat} {s0 s : State} (hw : Sub 0x8 w) (h : Keeps w s0 s) (d : Nat) :
    Keeps w s0 (State.flushLearned s d) := by
  unfold State.flushLearned
  repeat' (first
    | with_reducible assumption
    | (intro t_; first | (with_reducible refine keeps_cut (w := w) (s := s0) (t := t_) ?_ ?_; intro ht_; rotate_left; dsimp -zeta only [t_]) | skip)
    | with_reducible apply State.each_keeps (Sub.trans rfl hw)
    | with_reducible apply State.when_keeps (Sub.trans rfl hw)
    | with_reducible apply State.clearWin_keeps (Sub.trans rfl hw)
    | dsimp only [id]
    | lift_lets
    | with_reducible refine keeps_ite ?_ ?_)

end Sys2Proof.Machine
end

