-- ==== Sys2Proof/Laws/Turns.lean ====
section
/-! SUPPORT. What the functions of Machine/Turns.lean keep, one lemma for each. -/

namespace Sys2Proof.Machine

theorem State.toHealing_keeps {w : Nat} {s0 s : State} (hw : Sub 0x3308944 w) (h : Keeps w s0 s) :
    Keeps w s0 (State.toHealing s) := by
  unfold State.toHealing
  repeat' (first
    | with_reducible assumption
    | (intro t_; first | (with_reducible refine keeps_cut (w := w) (s := s0) (t := t_) ?_ ?_; intro ht_; rotate_left; dsimp -zeta only [t_]) | skip)
    | with_reducible apply State.setMode_keeps (Sub.trans rfl hw)
    | lift_lets
    | with_reducible refine keeps_ite ?_ ?_)

theorem State.fromHealing_keeps {w : Nat} {s0 s : State} (hw : Sub 0x3308944 w) (h : Keeps w s0 s) :
    Keeps w s0 (State.fromHealing s) := by
  unfold State.fromHealing
  repeat' (first
    | with_reducible assumption
    | (intro t_; first | (with_reducible refine keeps_cut (w := w) (s := s0) (t := t_) ?_ ?_; intro ht_; rotate_left; dsimp -zeta only [t_]) | skip)
    | with_reducible apply State.setMode_keeps (Sub.trans rfl hw)
    | lift_lets
    | with_reducible refine keeps_ite ?_ ?_)

theorem State.raiseTurn_keeps {w : Nat} {s0 s : State} (hw : Sub 0x104 w) (h : Keeps w s0 s) (ports : List Nat) (i : Nat) :
    Keeps w s0 (State.raiseTurn s ports i) := by
  unfold State.raiseTurn
  repeat' (first
    | with_reducible assumption
    | (intro t_; first | (with_reducible refine keeps_cut (w := w) (s := s0) (t := t_) ?_ ?_; intro ht_; rotate_left; dsimp -zeta only [t_]) | skip)
    | with_reducible apply State.each_keeps (Sub.trans rfl hw)
    | with_reducible apply State.raise_keeps (Sub.trans rfl hw)
    | lift_lets
    | with_reducible refine keeps_ite ?_ ?_)

theorem State.wrSide_keeps {w : Nat} {s0 s : State} (hw : Sub 0x4 w) (h : Keeps w s0 s) (side : Nat) (code : Nat) :
    Keeps w s0 (State.wrSide s side code) := by
  unfold State.wrSide
  repeat' (first
    | with_reducible assumption
    | (intro t_; first | (with_reducible refine keeps_cut (w := w) (s := s0) (t := t_) ?_ ?_; intro ht_; rotate_left; dsimp -zeta only [t_]) | skip)
    | with_reducible apply State.wr_keeps (Sub.trans rfl hw)
    | with_reducible apply State.wrF_keeps (Sub.trans rfl hw)
    | lift_lets
    | with_reducible refine keeps_ite ?_ ?_)

theorem State.countTurn_keeps {w : Nat} {s0 s : State} (hw : Sub 0x100104 w) (h : Keeps w s0 s) (ports : List Nat) :
    Keeps w s0 (State.countTurn s ports) := by
  unfold State.countTurn
  repeat' (first
    | with_reducible assumption
    | (intro t_; first | (with_reducible refine keeps_cut (w := w) (s := s0) (t := t_) ?_ ?_; intro ht_; rotate_left; dsimp -zeta only [t_]) | skip)
    | with_reducible apply State.raiseTurn_keeps (Sub.trans rfl hw)
    | with_reducible apply State.wr_keeps (Sub.trans rfl hw)
    | with_reducible apply State.each_keeps (Sub.trans rfl hw)
    | with_reducible apply State.count_keeps (Sub.trans rfl hw)
    | with_reducible apply State.pst_keeps (Sub.trans rfl hw)
    | lift_lets
    | with_reducible refine keeps_ite ?_ ?_)

theorem State.setTurn_keeps {w : Nat} {s0 s : State} (hw : Sub 0x3308944 w) (h : Keeps w s0 s) (side : Nat) (code : Nat) (ports : List Nat) :
    Keeps w s0 (State.setTurn s side code ports) := by
  unfold State.setTurn
  repeat' (first
    | with_reducible assumption
    | (intro t_; first | (with_reducible refine keeps_cut (w := w) (s := s0) (t := t_) ?_ ?_; intro ht_; rotate_left; dsimp -zeta only [t_]) | skip)
    | with_reducible apply State.toHealing_keeps (Sub.trans rfl hw)
    | with_reducible apply State.pathChange_keeps (Sub.trans rfl hw)
    | with_reducible apply State.countTurn_keeps (Sub.trans rfl hw)
    | with_reducible apply State.wrSide_keeps (Sub.trans rfl hw)
    | lift_lets
    | with_reducible refine keeps_ite ?_ ?_)

theorem State.clrTurn_keeps {w : Nat} {s0 s : State} (hw : Sub 0x104 w) (h : Keeps w s0 s) (side : Nat) (ports : List Nat) :
    Keeps w s0 (State.clrTurn s side ports) := by
  unfold State.clrTurn
  repeat' (first
    | with_reducible assumption
    | (intro t_; first | (with_reducible refine keeps_cut (w := w) (s := s0) (t := t_) ?_ ?_; intro ht_; rotate_left; dsimp -zeta only [t_]) | skip)
    | with_reducible apply State.pathChange_keeps (Sub.trans rfl hw)
    | with_reducible apply State.raiseTurn_keeps (Sub.trans rfl hw)
    | with_reducible apply State.wrSide_keeps (Sub.trans rfl hw)
    | lift_lets
    | with_reducible refine keeps_ite ?_ ?_)

theorem State.setEnd_keeps {w : Nat} {s0 s : State} (hw : Sub 0x3308944 w) (h : Keeps w s0 s) (side : Nat) :
    Keeps w s0 (State.setEnd s side) := by
  unfold State.setEnd
  repeat' (first
    | with_reducible assumption
    | (intro t_; first | (with_reducible refine keeps_cut (w := w) (s := s0) (t := t_) ?_ ?_; intro ht_; rotate_left; dsimp -zeta only [t_]) | skip)
    | with_reducible apply State.setTurn_keeps (Sub.trans rfl hw)
    | lift_lets
    | with_reducible refine keeps_ite ?_ ?_)

theorem State.evalKnown_keeps {w : Nat} {s0 s : State} (hw : Sub 0x4 w) (h : Keeps w s0 s) :
    Keeps w s0 (State.evalKnown s) := by
  unfold State.evalKnown
  repeat' (first
    | with_reducible assumption
    | (intro t_; first | (with_reducible refine keeps_cut (w := w) (s := s0) (t := t_) ?_ ?_; intro ht_; rotate_left; dsimp -zeta only [t_]) | skip)
    | with_reducible apply State.wrB_keeps (Sub.trans rfl hw)
    | with_reducible apply State.wrF_keeps (Sub.trans rfl hw)
    | lift_lets
    | with_reducible refine keeps_ite ?_ ?_)

theorem State.addKnown_keeps {w : Nat} {s0 s : State} (hw : Sub 0x104 w) (h : Keeps w s0 s) (rep : Nat) (side : Nat) (far : Nat) (line : Nat) (isSplit : Bool) (own : Bool) :
    Keeps w s0 (State.addKnown s rep side far line isSplit own) := by
  unfold State.addKnown
  repeat' (first
    | with_reducible assumption
    | (intro t_; first | (with_reducible refine keeps_cut (w := w) (s := s0) (t := t_) ?_ ?_; intro ht_; rotate_left; dsimp -zeta only [t_]) | skip)
    | with_reducible apply State.raise_keeps (Sub.trans rfl hw)
    | with_reducible apply State.evalKnown_keeps (Sub.trans rfl hw)
    | with_reducible apply State.wr_keeps (Sub.trans rfl hw)
    | lift_lets
    | with_reducible refine keeps_ite ?_ ?_
    | split
    | (clear_value *; split))

theorem State.dropKnown_keeps {w : Nat} {s0 s : State} (hw : Sub 0x4 w) (h : Keeps w s0 s) (p : Sys2Proof.Word → Bool) :
    Keeps w s0 (State.dropKnown s p) := by
  unfold State.dropKnown
  repeat' (first
    | with_reducible assumption
    | (intro t_; first | (with_reducible refine keeps_cut (w := w) (s := s0) (t := t_) ?_ ?_; intro ht_; rotate_left; dsimp -zeta only [t_]) | skip)
    | with_reducible apply State.evalKnown_keeps (Sub.trans rfl hw)
    | with_reducible apply State.each_keeps (Sub.trans rfl hw)
    | with_reducible apply State.when_keeps (Sub.trans rfl hw)
    | with_reducible apply State.wr_keeps (Sub.trans rfl hw)
    | dsimp only [id]
    | lift_lets
    | with_reducible refine keeps_ite ?_ ?_)

theorem State.delKnown_keeps {w : Nat} {s0 s : State} (hw : Sub 0x4 w) (h : Keeps w s0 s) (rep : Nat) (side : Nat) :
    Keeps w s0 (State.delKnown s rep side) := by
  unfold State.delKnown
  repeat' (first
    | with_reducible assumption
    | (intro t_; first | (with_reducible refine keeps_cut (w := w) (s := s0) (t := t_) ?_ ?_; intro ht_; rotate_left; dsimp -zeta only [t_]) | skip)
    | with_reducible apply State.dropKnown_keeps (Sub.trans rfl hw)
    | lift_lets
    | with_reducible refine keeps_ite ?_ ?_)

theorem State.newNotice_keeps {w : Nat} {s0 s : State} (hw : Sub 0x1004 w) (h : Keeps w s0 s) (k : Sys2Proof.NoticeKind) (line : Nat) (side : Nat) :
    Keeps w s0 (State.newNotice s k line side) := by
  have b2 := Sub.bit (i := 2) hw rfl; have b12 := Sub.bit (i := 12) hw rfl
  unfold State.newNotice
  repeat' (first
    | with_reducible assumption
    | (intro t_; first | (with_reducible refine keeps_cut (w := w) (s := s0) (t := t_) ?_ ?_; intro ht_; rotate_left; dsimp -zeta only [t_]) | skip)
    | with_reducible apply State.wrF_keeps (Sub.trans rfl hw)
    | lift_lets
    | with_reducible refine keeps_ite ?_ ?_
    | with_reducible refine keeps_upd ?_ (fun x => x) (fun x => x) (.inr rfl) (.inl b2) (.inr rfl) (.inr rfl) (.inr rfl) (.inr rfl) (.inr rfl) (.inr rfl) (.inr rfl) (.inr rfl) (.inl b12) (.inr rfl) (.inr rfl) (.inr rfl) (.inr rfl) (.inr rfl) (.inr rfl) (.inr rfl) (.inr rfl) (.inr rfl) (.inr rfl) (.inr rfl) (.inr rfl) (.inr rfl) (.inr rfl))

theorem State.makeSplit_keeps {w : Nat} {s0 s : State} (hw : Sub 0x3309944 w) (h : Keeps w s0 s) (side : Nat) (second : Bool) :
    Keeps w s0 (State.makeSplit s side second) := by
  unfold State.makeSplit
  repeat' (first
    | with_reducible assumption
    | (intro t_; first | (with_reducible refine keeps_cut (w := w) (s := s0) (t := t_) ?_ ?_; intro ht_; rotate_left; dsimp -zeta only [t_]) | skip)
    | with_reducible apply State.raise_keeps (Sub.trans rfl hw)
    | with_reducible apply State.setTurn_keeps (Sub.trans rfl hw)
    | with_reducible apply State.when_keeps (Sub.trans rfl hw)
    | with_reducible apply State.addKnown_keeps (Sub.trans rfl hw)
    | with_reducible apply State.newNotice_keeps (Sub.trans rfl hw)
    | dsimp only [id]
    | lift_lets
    | with_reducible refine keeps_ite ?_ ?_)

theorem State.setFault_keeps {w : Nat} {s0 s : State} (hw : Sub 0x3309944 w) (h : Keeps w s0 s) (p : Nat) :
    Keeps w s0 (State.setFault s p) := by
  have b2 := Sub.bit (i := 2) hw rfl; have b6 := Sub.bit (i := 6) hw rfl; have b8 := Sub.bit (i := 8) hw rfl; have b11 := Sub.bit (i := 11) hw rfl; have b12 := Sub.bit (i := 12) hw rfl; have b15 := Sub.bit (i := 15) hw rfl; have b20 := Sub.bit (i := 20) hw rfl; have b21 := Sub.bit (i := 21) hw rfl; have b24 := Sub.bit (i := 24) hw rfl; have b25 := Sub.bit (i := 25) hw rfl
  unfold State.setFault
  repeat' (first
    | with_reducible assumption
    | (intro t_; first | (with_reducible refine keeps_cut (w := w) (s := s0) (t := t_) ?_ ?_; intro ht_; rotate_left; dsimp -zeta only [t_]) | skip)
    | with_reducible apply State.setTurn_keeps (Sub.trans rfl hw)
    | with_reducible apply State.addKnown_keeps (Sub.trans rfl hw)
    | lift_lets
    | with_reducible refine keeps_ite ?_ ?_
    | with_reducible refine keeps_upd ?_ (fun x => x) (fun x => x) (.inr rfl) (.inl b2) (.inr rfl) (.inr rfl) (.inl b6) (.inr rfl) (.inl b8) (.inr rfl) (.inr rfl) (.inl b11) (.inl b12) (.inr rfl) (.inr rfl) (.inl b15) (.inr rfl) (.inr rfl) (.inr rfl) (.inr rfl) (.inl b20) (.inl b21) (.inr rfl) (.inr rfl) (.inl b24) (.inl b25) (.inr rfl))

theorem State.clearFault_keeps {w : Nat} {s0 s : State} (hw : Sub 0x1104 w) (h : Keeps w s0 s) (side : Nat) :
    Keeps w s0 (State.clearFault s side) := by
  have b2 := Sub.bit (i := 2) hw rfl; have b8 := Sub.bit (i := 8) hw rfl; have b12 := Sub.bit (i := 12) hw rfl
  unfold State.clearFault
  repeat' (first
    | with_reducible assumption
    | (intro t_; first | (with_reducible refine keeps_cut (w := w) (s := s0) (t := t_) ?_ ?_; intro ht_; rotate_left; dsimp -zeta only [t_]) | skip)
    | with_reducible apply State.delKnown_keeps (Sub.trans rfl hw)
    | with_reducible apply State.clrTurn_keeps (Sub.trans rfl hw)
    | with_reducible apply State.newNotice_keeps (Sub.trans rfl hw)
    | lift_lets
    | with_reducible refine keeps_ite ?_ ?_
    | split
    | (clear_value *; split)
    | with_reducible refine keeps_upd ?_ (fun x => x) (fun x => x) (.inr rfl) (.inl b2) (.inr rfl) (.inr rfl) (.inr rfl) (.inr rfl) (.inl b8) (.inr rfl) (.inr rfl) (.inr rfl) (.inl b12) (.inr rfl) (.inr rfl) (.inr rfl) (.inr rfl) (.inr rfl) (.inr rfl) (.inr rfl) (.inr rfl) (.inr rfl) (.inr rfl) (.inr rfl) (.inr rfl) (.inr rfl) (.inr rfl))

end Sys2Proof.Machine
end

