-- ==== Sys2Proof/Laws/Inaug.lean ====
section
/-! SUPPORT. What the functions of Machine/Inaug.lean keep, one lemma for each. -/

namespace Sys2Proof.Machine

theorem State.setIna_keeps {w : Nat} {s0 s : State} (hw : Sub 0x1000004 w) (h : Keeps w s0 s) (v : Nat) :
    Keeps w s0 (State.setIna s v) := by
  unfold State.setIna
  repeat' (first
    | with_reducible assumption
    | (intro t_; first | (with_reducible refine keeps_cut (w := w) (s := s0) (t := t_) ?_ ?_; intro ht_; rotate_left; dsimp -zeta only [t_]) | skip)
    | with_reducible apply State.wrF_keeps (Sub.trans rfl hw)
    | with_reducible apply State.mark_keeps (Sub.trans rfl hw)
    | with_reducible apply State.disarm_keeps (Sub.trans rfl hw)
    | lift_lets
    | with_reducible refine keeps_ite ?_ ?_)

theorem State.raiseIna_keeps {w : Nat} {s0 s : State} (hw : Sub 0x104 w) (h : Keeps w s0 s) (i : Nat) :
    Keeps w s0 (State.raiseIna s i) := by
  unfold State.raiseIna
  repeat' (first
    | with_reducible assumption
    | (intro t_; first | (with_reducible refine keeps_cut (w := w) (s := s0) (t := t_) ?_ ?_; intro ht_; rotate_left; dsimp -zeta only [t_]) | skip)
    | with_reducible apply State.raise_keeps (Sub.trans rfl hw)
    | lift_lets
    | with_reducible refine keeps_ite ?_ ?_)

theorem State.evalNbr_keeps {w : Nat} {s0 s : State} (hw : Sub 0x4 w) (h : Keeps w s0 s) :
    Keeps w s0 (State.evalNbr s) := by
  unfold State.evalNbr
  repeat' (first
    | with_reducible assumption
    | (intro t_; first | (with_reducible refine keeps_cut (w := w) (s := s0) (t := t_) ?_ ?_; intro ht_; rotate_left; dsimp -zeta only [t_]) | skip)
    | with_reducible apply State.wrF_keeps (Sub.trans rfl hw)
    | with_reducible apply State.when_keeps (Sub.trans rfl hw)
    | with_reducible apply State.wr_keeps (Sub.trans rfl hw)
    | dsimp only [id]
    | lift_lets
    | with_reducible refine keeps_ite ?_ ?_
    | with_reducible apply keeps_foldl
    | with_reducible apply keeps_foldl_fst)

theorem State.dropShadow_keeps {w : Nat} {s0 s : State} (hw : Sub 0x440c w) (h : Keeps w s0 s) :
    Keeps w s0 (State.dropShadow s) := by
  have b2 := Sub.bit (i := 2) hw rfl; have b3 := Sub.bit (i := 3) hw rfl; have b10 := Sub.bit (i := 10) hw rfl; have b14 := Sub.bit (i := 14) hw rfl
  unfold State.dropShadow
  repeat' (first
    | with_reducible assumption
    | (intro t_; first | (with_reducible refine keeps_cut (w := w) (s := s0) (t := t_) ?_ ?_; intro ht_; rotate_left; dsimp -zeta only [t_]) | skip)
    | with_reducible apply State.wrB_keeps (Sub.trans rfl hw)
    | with_reducible apply State.reseed_keeps (Sub.trans rfl hw)
    | with_reducible apply State.wrF_keeps (Sub.trans rfl hw)
    | with_reducible apply State.wr_keeps (Sub.trans rfl hw)
    | lift_lets
    | with_reducible refine keeps_ite ?_ ?_
    | with_reducible refine keeps_fst_ite ?_ ?_
    | (with_reducible refine keeps_of_eq (by assumption) ?_)
    | with_reducible refine keeps_upd ?_ (fun x => x) (fun x => x) (.inr rfl) (.inl b2) (.inl b3) (.inr rfl) (.inr rfl) (.inr rfl) (.inr rfl) (.inr rfl) (.inl b10) (.inr rfl) (.inr rfl) (.inr rfl) (.inl b14) (.inr rfl) (.inr rfl) (.inr rfl) (.inr rfl) (.inr rfl) (.inr rfl) (.inr rfl) (.inr rfl) (.inr rfl) (.inr rfl) (.inr rfl) (.inr rfl))

theorem State.frog_keeps {w : Nat} {s0 s : State} (hw : Sub 0x100450c w) (h : Keeps w s0 s) :
    Keeps w s0 (State.frog s) := by
  have b2 := Sub.bit (i := 2) hw rfl; have b3 := Sub.bit (i := 3) hw rfl; have b8 := Sub.bit (i := 8) hw rfl; have b10 := Sub.bit (i := 10) hw rfl; have b14 := Sub.bit (i := 14) hw rfl; have b24 := Sub.bit (i := 24) hw rfl
  unfold State.frog
  repeat' (first
    | with_reducible assumption
    | (intro t_; first | (with_reducible refine keeps_cut (w := w) (s := s0) (t := t_) ?_ ?_; intro ht_; rotate_left; dsimp -zeta only [t_]) | skip)
    | with_reducible apply State.wrF_keeps (Sub.trans rfl hw)
    | with_reducible apply State.wrB_keeps (Sub.trans rfl hw)
    | with_reducible apply State.setIna_keeps (Sub.trans rfl hw)
    | with_reducible apply State.dropShadow_keeps (Sub.trans rfl hw)
    | with_reducible apply State.when_keeps (Sub.trans rfl hw)
    | with_reducible apply State.raiseIna_keeps (Sub.trans rfl hw)
    | with_reducible apply State.countF_keeps (Sub.trans rfl hw)
    | with_reducible apply State.wrSchB_keeps (Sub.trans rfl hw)
    | dsimp only [id]
    | lift_lets
    | with_reducible refine keeps_ite ?_ ?_
    | with_reducible refine keeps_upd ?_ (fun x => x) (fun x => x) (.inr rfl) (.inl b2) (.inl b3) (.inr rfl) (.inr rfl) (.inr rfl) (.inl b8) (.inr rfl) (.inl b10) (.inr rfl) (.inr rfl) (.inr rfl) (.inl b14) (.inr rfl) (.inr rfl) (.inr rfl) (.inr rfl) (.inr rfl) (.inr rfl) (.inr rfl) (.inr rfl) (.inr rfl) (.inl b24) (.inr rfl) (.inr rfl))

theorem State.change_keeps {w : Nat} {s0 s : State} (hw : Sub 0x100450c w) (h : Keeps w s0 s) :
    Keeps w s0 (State.change s) := by
  have b2 := Sub.bit (i := 2) hw rfl; have b3 := Sub.bit (i := 3) hw rfl; have b8 := Sub.bit (i := 8) hw rfl; have b10 := Sub.bit (i := 10) hw rfl; have b14 := Sub.bit (i := 14) hw rfl; have b24 := Sub.bit (i := 24) hw rfl
  unfold State.change
  repeat' (first
    | with_reducible assumption
    | (intro t_; first | (with_reducible refine keeps_cut (w := w) (s := s0) (t := t_) ?_ ?_; intro ht_; rotate_left; dsimp -zeta only [t_]) | skip)
    | with_reducible apply State.raiseIna_keeps (Sub.trans rfl hw)
    | with_reducible apply State.frog_keeps (Sub.trans rfl hw)
    | with_reducible apply State.wrB_keeps (Sub.trans rfl hw)
    | with_reducible apply State.setIna_keeps (Sub.trans rfl hw)
    | with_reducible apply State.mark_keeps (Sub.trans rfl hw)
    | lift_lets
    | with_reducible refine keeps_ite ?_ ?_
    | with_reducible refine keeps_fst_ite ?_ ?_
    | (with_reducible refine keeps_of_eq (by assumption) ?_)
    | with_reducible refine keeps_upd ?_ (fun x => x) (fun x => x) (.inr rfl) (.inl b2) (.inl b3) (.inr rfl) (.inr rfl) (.inr rfl) (.inl b8) (.inr rfl) (.inl b10) (.inr rfl) (.inr rfl) (.inr rfl) (.inl b14) (.inr rfl) (.inr rfl) (.inr rfl) (.inr rfl) (.inr rfl) (.inr rfl) (.inr rfl) (.inr rfl) (.inr rfl) (.inl b24) (.inr rfl) (.inr rfl))

theorem State.uncouple_keeps {w : Nat} {s0 s : State} (hw : Sub 0x3308944 w) (h : Keeps w s0 s) (side : Nat) :
    Keeps w s0 (State.uncouple s side) := by
  unfold State.uncouple
  repeat' (first
    | with_reducible assumption
    | (intro t_; first | (with_reducible refine keeps_cut (w := w) (s := s0) (t := t_) ?_ ?_; intro ht_; rotate_left; dsimp -zeta only [t_]) | skip)
    | with_reducible apply State.setEnd_keeps (Sub.trans rfl hw)
    | with_reducible apply State.raiseIna_keeps (Sub.trans rfl hw)
    | lift_lets
    | with_reducible refine keeps_ite ?_ ?_)

theorem State.sideChanged_keeps {w : Nat} {s0 s : State} (hw : Sub 0x330dd4c w) (h : Keeps w s0 s) (side : Nat) (old : Option Sys2Proof.Uid) (oldNum : Nat) :
    Keeps w s0 (State.sideChanged s side old oldNum) := by
  have b2 := Sub.bit (i := 2) hw rfl; have b3 := Sub.bit (i := 3) hw rfl; have b6 := Sub.bit (i := 6) hw rfl; have b8 := Sub.bit (i := 8) hw rfl; have b10 := Sub.bit (i := 10) hw rfl; have b11 := Sub.bit (i := 11) hw rfl; have b12 := Sub.bit (i := 12) hw rfl; have b14 := Sub.bit (i := 14) hw rfl; have b15 := Sub.bit (i := 15) hw rfl; have b20 := Sub.bit (i := 20) hw rfl; have b21 := Sub.bit (i := 21) hw rfl; have b24 := Sub.bit (i := 24) hw rfl; have b25 := Sub.bit (i := 25) hw rfl
  unfold State.sideChanged
  repeat' (first
    | with_reducible assumption
    | (intro t_; first | (with_reducible refine keeps_cut (w := w) (s := s0) (t := t_) ?_ ?_; intro ht_; rotate_left; dsimp -zeta only [t_]) | skip)
    | with_reducible apply State.mark_keeps (Sub.trans rfl hw)
    | with_reducible apply State.uncouple_keeps (Sub.trans rfl hw)
    | with_reducible apply State.change_keeps (Sub.trans rfl hw)
    | with_reducible apply State.disarm_keeps (Sub.trans rfl hw)
    | lift_lets
    | with_reducible refine keeps_ite ?_ ?_
    | split
    | (clear_value *; split)
    | with_reducible refine keeps_fst_ite ?_ ?_
    | (with_reducible refine keeps_of_eq (by assumption) ?_)
    | with_reducible refine keeps_upd ?_ (fun x => x) (fun x => x) (.inr rfl) (.inl b2) (.inl b3) (.inr rfl) (.inl b6) (.inr rfl) (.inl b8) (.inr rfl) (.inl b10) (.inl b11) (.inl b12) (.inr rfl) (.inl b14) (.inl b15) (.inr rfl) (.inr rfl) (.inr rfl) (.inr rfl) (.inl b20) (.inl b21) (.inr rfl) (.inr rfl) (.inl b24) (.inl b25) (.inr rfl))

theorem State.setCouple_keeps {w : Nat} {s0 s : State} (hw : Sub 0x4004 w) (h : Keeps w s0 s) (side : Nat) (b : Bool) :
    Keeps w s0 (State.setCouple s side b) := by
  have b2 := Sub.bit (i := 2) hw rfl; have b14 := Sub.bit (i := 14) hw rfl
  unfold State.setCouple
  repeat' (first
    | with_reducible assumption
    | (intro t_; first | (with_reducible refine keeps_cut (w := w) (s := s0) (t := t_) ?_ ?_; intro ht_; rotate_left; dsimp -zeta only [t_]) | skip)
    | with_reducible apply State.wrB_keeps (Sub.trans rfl hw)
    | lift_lets
    | with_reducible refine keeps_ite ?_ ?_
    | with_reducible refine keeps_upd ?_ (fun x => x) (fun x => x) (.inr rfl) (.inl b2) (.inr rfl) (.inr rfl) (.inr rfl) (.inr rfl) (.inr rfl) (.inr rfl) (.inr rfl) (.inr rfl) (.inr rfl) (.inr rfl) (.inl b14) (.inr rfl) (.inr rfl) (.inr rfl) (.inr rfl) (.inr rfl) (.inr rfl) (.inr rfl) (.inr rfl) (.inr rfl) (.inr rfl) (.inr rfl) (.inr rfl))

theorem State.coupleDetect_keeps {w : Nat} {s0 s : State} (hw : Sub 0x1004104 w) (h : Keeps w s0 s) (side : Nat) :
    Keeps w s0 (State.coupleDetect s side) := by
  unfold State.coupleDetect
  repeat' (first
    | with_reducible assumption
    | (intro t_; first | (with_reducible refine keeps_cut (w := w) (s := s0) (t := t_) ?_ ?_; intro ht_; rotate_left; dsimp -zeta only [t_]) | skip)
    | with_reducible apply State.raiseIna_keeps (Sub.trans rfl hw)
    | with_reducible apply State.mark_keeps (Sub.trans rfl hw)
    | with_reducible apply State.setCouple_keeps (Sub.trans rfl hw)
    | lift_lets
    | with_reducible refine keeps_ite ?_ ?_)

theorem State.evalInhibit_keeps {w : Nat} {s0 s : State} (hw : Sub 0x1000004 w) (h : Keeps w s0 s) :
    Keeps w s0 (State.evalInhibit s) := by
  unfold State.evalInhibit
  repeat' (first
    | with_reducible assumption
    | (intro t_; first | (with_reducible refine keeps_cut (w := w) (s := s0) (t := t_) ?_ ?_; intro ht_; rotate_left; dsimp -zeta only [t_]) | skip)
    | with_reducible apply State.wrB_keeps (Sub.trans rfl hw)
    | with_reducible apply State.setIna_keeps (Sub.trans rfl hw)
    | lift_lets
    | with_reducible refine keeps_ite ?_ ?_)

theorem State.withNbr_keeps {w : Nat} {s0 s : State} (hw : Sub 0x330dd4c w) (h : Keeps w s0 s) (f : Sys2Proof.Machine.State → Sys2Proof.Machine.State) (h_f : ∀ t_, Keeps w s0 t_ → Keeps w s0 (f t_)) :
    Keeps w s0 (State.withNbr s f) := by
  unfold State.withNbr
  repeat' (first
    | with_reducible assumption
    | (intro t_; first | (with_reducible refine keeps_cut (w := w) (s := s0) (t := t_) ?_ ?_; intro ht_; rotate_left; dsimp -zeta only [t_]) | skip)
    | with_reducible apply h_f
    | with_reducible apply State.when_keeps (Sub.trans rfl hw)
    | with_reducible apply State.raiseIna_keeps (Sub.trans rfl hw)
    | with_reducible apply State.sideChanged_keeps (Sub.trans rfl hw)
    | with_reducible apply State.evalInhibit_keeps (Sub.trans rfl hw)
    | with_reducible apply State.evalNbr_keeps (Sub.trans rfl hw)
    | dsimp only [id]
    | lift_lets
    | with_reducible refine keeps_ite ?_ ?_)

theorem State.loseNbr_keeps {w : Nat} {s0 s : State} (hw : Sub 0x330dd4c w) (h : Keeps w s0 s) (p : Nat) :
    Keeps w s0 (State.loseNbr s p) := by
  unfold State.loseNbr
  repeat' (first
    | with_reducible assumption
    | (intro t_; first | (with_reducible refine keeps_cut (w := w) (s := s0) (t := t_) ?_ ?_; intro ht_; rotate_left; dsimp -zeta only [t_]) | skip)
    | with_reducible apply State.withNbr_keeps (Sub.trans rfl hw)
    | with_reducible apply State.clearWin_keeps (Sub.trans rfl hw)
    | dsimp only [id]
    | lift_lets
    | with_reducible refine keeps_ite ?_ ?_)

theorem State.roundEnd_keeps {w : Nat} {s0 s : State} (hw : Sub 0x4000 w) (h : Keeps w s0 s) :
    Keeps w s0 (State.roundEnd s) := by
  have b14 := Sub.bit (i := 14) hw rfl
  unfold State.roundEnd
  repeat' (first
    | with_reducible assumption
    | (intro t_; first | (with_reducible refine keeps_cut (w := w) (s := s0) (t := t_) ?_ ?_; intro ht_; rotate_left; dsimp -zeta only [t_]) | skip)
    | lift_lets
    | with_reducible refine keeps_ite ?_ ?_
    | with_reducible refine keeps_fst_ite ?_ ?_
    | (with_reducible refine keeps_of_eq (by assumption) ?_)
    | with_reducible refine keeps_upd ?_ (fun x => x) (fun x => x) (.inr rfl) (.inr rfl) (.inr rfl) (.inr rfl) (.inr rfl) (.inr rfl) (.inr rfl) (.inr rfl) (.inr rfl) (.inr rfl) (.inr rfl) (.inr rfl) (.inl b14) (.inr rfl) (.inr rfl) (.inr rfl) (.inr rfl) (.inr rfl) (.inr rfl) (.inr rfl) (.inr rfl) (.inr rfl) (.inr rfl) (.inr rfl) (.inr rfl))

theorem State.report_keeps {w : Nat} {s0 s : State} (hw : Sub 0x4000 w) (h : Keeps w s0 s) (u : Sys2Proof.Uid) (c : Sys2Proof.Word) :
    Keeps w s0 (State.report s u c) := by
  have b14 := Sub.bit (i := 14) hw rfl
  unfold State.report
  repeat' (first
    | with_reducible assumption
    | (intro t_; first | (with_reducible refine keeps_cut (w := w) (s := s0) (t := t_) ?_ ?_; intro ht_; rotate_left; dsimp -zeta only [t_]) | skip)
    | lift_lets
    | with_reducible refine keeps_ite ?_ ?_
    | with_reducible refine keeps_fst_ite ?_ ?_
    | (with_reducible refine keeps_of_eq (by assumption) ?_)
    | with_reducible refine keeps_upd ?_ (fun x => x) (fun x => x) (.inr rfl) (.inr rfl) (.inr rfl) (.inr rfl) (.inr rfl) (.inr rfl) (.inr rfl) (.inr rfl) (.inr rfl) (.inr rfl) (.inr rfl) (.inr rfl) (.inl b14) (.inr rfl) (.inr rfl) (.inr rfl) (.inr rfl) (.inr rfl) (.inr rfl) (.inr rfl) (.inr rfl) (.inr rfl) (.inr rfl) (.inr rfl) (.inr rfl))

theorem State.clearAgree_keeps {w : Nat} {s0 s : State} (hw : Sub 0x4000 w) (h : Keeps w s0 s) :
    Keeps w s0 (State.clearAgree s) := by
  have b14 := Sub.bit (i := 14) hw rfl
  unfold State.clearAgree
  repeat' (first
    | with_reducible assumption
    | (intro t_; first | (with_reducible refine keeps_cut (w := w) (s := s0) (t := t_) ?_ ?_; intro ht_; rotate_left; dsimp -zeta only [t_]) | skip)
    | lift_lets
    | with_reducible refine keeps_ite ?_ ?_
    | with_reducible refine keeps_fst_ite ?_ ?_
    | (with_reducible refine keeps_of_eq (by assumption) ?_)
    | with_reducible refine keeps_upd ?_ (fun x => x) (fun x => x) (.inr rfl) (.inr rfl) (.inr rfl) (.inr rfl) (.inr rfl) (.inr rfl) (.inr rfl) (.inr rfl) (.inr rfl) (.inr rfl) (.inr rfl) (.inr rfl) (.inl b14) (.inr rfl) (.inr rfl) (.inr rfl) (.inr rfl) (.inr rfl) (.inr rfl) (.inr rfl) (.inr rfl) (.inr rfl) (.inr rfl) (.inr rfl) (.inr rfl))

end Sys2Proof.Machine
end

