-- ==== Sys2Proof/Laws/Blocking.lean ====
section
/-! SUPPORT. What the functions of Machine/Blocking.lean keep, one lemma for each. -/

namespace Sys2Proof.Machine

theorem State.loadGuard_keeps {w : Nat} {s0 s : State} (hw : Sub 0xc w) (h : Keeps w s0 s) (d : Nat) :
    Keeps w s0 (State.loadGuard s d) := by
  unfold State.loadGuard
  repeat' (first
    | with_reducible assumption
    | (intro t_; first | (with_reducible refine keeps_cut (w := w) (s := s0) (t := t_) ?_ ?_; intro ht_; rotate_left; dsimp -zeta only [t_]) | skip)
    | with_reducible apply State.setTws_keeps (Sub.trans rfl hw)
    | with_reducible apply State.clearWin_keeps (Sub.trans rfl hw)
    | with_reducible apply State.wr_keeps (Sub.trans rfl hw)
    | with_reducible apply State.wrB_keeps (Sub.trans rfl hw)
    | with_reducible apply State.wrF_keeps (Sub.trans rfl hw)
    | lift_lets
    | with_reducible refine keeps_ite ?_ ?_)

theorem State.loadGuards_keeps {w : Nat} {s0 s : State} (hw : Sub 0xc w) (h : Keeps w s0 s) :
    Keeps w s0 (State.loadGuards s) := by
  unfold State.loadGuards
  repeat' (first
    | with_reducible assumption
    | (intro t_; first | (with_reducible refine keeps_cut (w := w) (s := s0) (t := t_) ?_ ?_; intro ht_; rotate_left; dsimp -zeta only [t_]) | skip)
    | with_reducible apply State.each_keeps (Sub.trans rfl hw)
    | with_reducible apply State.loadGuard_keeps (Sub.trans rfl hw)
    | lift_lets
    | with_reducible refine keeps_ite ?_ ?_)

theorem State.compareGuard_keeps {w : Nat} {s0 s : State} (hw : Sub 0x104 w) (h : Keeps w s0 s) (d : Nat) :
    Keeps w s0 (State.compareGuard s d) := by
  unfold State.compareGuard
  repeat' (first
    | with_reducible assumption
    | (intro t_; first | (with_reducible refine keeps_cut (w := w) (s := s0) (t := t_) ?_ ?_; intro ht_; rotate_left; dsimp -zeta only [t_]) | skip)
    | with_reducible apply State.raise_keeps (Sub.trans rfl hw)
    | with_reducible apply State.wrB_keeps (Sub.trans rfl hw)
    | lift_lets
    | with_reducible refine keeps_ite ?_ ?_)

theorem State.evalPair_keeps {w : Nat} {s0 s : State} (hw : Sub 0x4 w) (h : Keeps w s0 s) :
    Keeps w s0 (State.evalPair s) := by
  unfold State.evalPair
  repeat' (first
    | with_reducible assumption
    | (intro t_; first | (with_reducible refine keeps_cut (w := w) (s := s0) (t := t_) ?_ ?_; intro ht_; rotate_left; dsimp -zeta only [t_]) | skip)
    | with_reducible apply State.wrF_keeps (Sub.trans rfl hw)
    | lift_lets
    | with_reducible refine keeps_ite ?_ ?_)

theorem State.writeNode_keeps {w : Nat} {s0 s : State} (hw : Sub 0x8 w) (h : Keeps w s0 s) (b : Nat) (ref : List (Sys2Proof.Uid × Nat)) (n : Sys2Proof.Machine.Node) (num : Nat) (cst : Nat) :
    Keeps w s0 (State.writeNode s b ref n num cst) := by
  unfold State.writeNode
  repeat' (first
    | with_reducible assumption
    | (intro t_; first | (with_reducible refine keeps_cut (w := w) (s := s0) (t := t_) ?_ ?_; intro ht_; rotate_left; dsimp -zeta only [t_]) | skip)
    | with_reducible apply State.setTb_keeps (Sub.trans rfl hw)
    | with_reducible apply State.setTuid_keeps (Sub.trans rfl hw)
    | lift_lets
    | with_reducible refine keeps_ite ?_ ?_
    | with_reducible refine keeps_fst_ite ?_ ?_
    | (with_reducible refine keeps_of_eq (by assumption) ?_))

theorem State.writeNodes_keeps {w : Nat} {s0 s : State} (hw : Sub 0xc w) (h : Keeps w s0 s) (b : Nat) (ref : List (Sys2Proof.Uid × Nat)) (pos : Nat)
    (ns : List Sys2Proof.Machine.Node) (cs : List Nat) : Keeps w s0 (State.writeNodes s b ref pos ns cs) := by
  induction ns generalizing s pos cs with
  | nil => unfold State.writeNodes; exact h
  | cons n ns ih =>
    cases cs with
    | nil => unfold State.writeNodes; exact h
    | cons c cs =>
      unfold State.writeNodes
      dsimp only
      apply ih
      split
      · exact State.wrB_keeps (Sub.trans rfl hw) h _ _ _
      · exact State.writeNode_keeps (Sub.trans rfl hw) h _ _ _ _ _

theorem State.shadowOwner_keeps {w : Nat} {s0 s : State} (hw : Sub 0x8 w) (h : Keeps w s0 s) (sb : Nat) (sl : Nat) (p : Nat) (i : Nat) :
    Keeps w s0 (State.shadowOwner s sb sl p i) := by
  unfold State.shadowOwner
  repeat' (first
    | with_reducible assumption
    | (intro t_; first | (with_reducible refine keeps_cut (w := w) (s := s0) (t := t_) ?_ ?_; intro ht_; rotate_left; dsimp -zeta only [t_]) | skip)
    | with_reducible apply State.setTb_keeps (Sub.trans rfl hw)
    | lift_lets
    | with_reducible refine keeps_ite ?_ ?_
    | split
    | (clear_value *; split)
    | with_reducible refine keeps_fst_ite ?_ ?_
    | (with_reducible refine keeps_of_eq (by assumption) ?_))

theorem State.shadowOwners_keeps {w : Nat} {s0 s : State} (hw : Sub 0x8 w) (h : Keeps w s0 s) (sb : Nat) :
    Keeps w s0 (State.shadowOwners s sb) := by
  unfold State.shadowOwners
  repeat' (first
    | with_reducible assumption
    | (intro t_; first | (with_reducible refine keeps_cut (w := w) (s := s0) (t := t_) ?_ ?_; intro ht_; rotate_left; dsimp -zeta only [t_]) | skip)
    | with_reducible apply State.each_keeps (Sub.trans rfl hw)
    | with_reducible apply State.shadowOwner_keeps (Sub.trans rfl hw)
    | lift_lets
    | with_reducible refine keeps_ite ?_ ?_
    | split
    | (clear_value *; split))

theorem State.dirPut_keeps {w : Nat} {s0 s : State} (hw : Sub 0x10c w) (h : Keeps w s0 s) (d : Nat) (k : Sys2Proof.Machine.DirKey) (w2 : Sys2Proof.Word) (y4 : Option Nat) :
    Keeps w s0 (State.dirPut s d k w2 y4) := by
  unfold State.dirPut
  repeat' (first
    | with_reducible assumption
    | (intro t_; first | (with_reducible refine keeps_cut (w := w) (s := s0) (t := t_) ?_ ?_; intro ht_; rotate_left; dsimp -zeta only [t_]) | skip)
    | with_reducible apply State.dirWrite_keeps (Sub.trans rfl hw)
    | with_reducible apply State.raise_keeps (Sub.trans rfl hw)
    | lift_lets
    | with_reducible refine keeps_ite ?_ ?_
    | split
    | (clear_value *; split))

theorem State.dirNew_keeps {w : Nat} {s0 s : State} (hw : Sub 0x10c w) (h : Keeps w s0 s) (d : Nat) (k : Sys2Proof.Machine.DirKey) (w2 : Sys2Proof.Word) :
    Keeps w s0 (State.dirNew s d k w2) := by
  unfold State.dirNew
  repeat' (first
    | with_reducible assumption
    | (intro t_; first | (with_reducible refine keeps_cut (w := w) (s := s0) (t := t_) ?_ ?_; intro ht_; rotate_left; dsimp -zeta only [t_]) | skip)
    | with_reducible apply State.flushLearned_keeps (Sub.trans rfl hw)
    | with_reducible apply State.dirPut_keeps (Sub.trans rfl hw)
    | lift_lets
    | with_reducible refine keeps_ite ?_ ?_)

theorem State.shadowDir_keeps {w : Nat} {s0 s : State} (hw : Sub 0x10c w) (h : Keeps w s0 s) (d : Nat) (sb : Nat) (i : Nat) :
    Keeps w s0 (State.shadowDir s d sb i) := by
  unfold State.shadowDir
  repeat' (first
    | with_reducible assumption
    | (intro t_; first | (with_reducible refine keeps_cut (w := w) (s := s0) (t := t_) ?_ ?_; intro ht_; rotate_left; dsimp -zeta only [t_]) | skip)
    | with_reducible apply State.setTw_keeps (Sub.trans rfl hw)
    | with_reducible apply State.dirNew_keeps (Sub.trans rfl hw)
    | lift_lets
    | with_reducible refine keeps_ite ?_ ?_)

theorem State.shadowXlt_keeps {w : Nat} {s0 s : State} (hw : Sub 0x10c w) (h : Keeps w s0 s) (d : Nat) (sb : Nat) (num : Nat) (i : Nat) :
    Keeps w s0 (State.shadowXlt s d sb num i) := by
  unfold State.shadowXlt
  repeat' (first
    | with_reducible assumption
    | (intro t_; first | (with_reducible refine keeps_cut (w := w) (s := s0) (t := t_) ?_ ?_; intro ht_; rotate_left; dsimp -zeta only [t_]) | skip)
    | with_reducible apply State.setTw_keeps (Sub.trans rfl hw)
    | with_reducible apply State.flushLearned_keeps (Sub.trans rfl hw)
    | with_reducible apply State.raise_keeps (Sub.trans rfl hw)
    | lift_lets
    | with_reducible refine keeps_ite ?_ ?_
    | split
    | (clear_value *; split))

theorem State.shadowTables_keeps {w : Nat} {s0 s : State} (hw : Sub 0x10c w) (h : Keeps w s0 s) (sb : Nat) (num : Nat) (d : Nat) :
    Keeps w s0 (State.shadowTables s sb num d) := by
  unfold State.shadowTables
  repeat' (first
    | with_reducible assumption
    | (intro t_; first | (with_reducible refine keeps_cut (w := w) (s := s0) (t := t_) ?_ ?_; intro ht_; rotate_left; dsimp -zeta only [t_]) | skip)
    | with_reducible apply State.each_keeps (Sub.trans rfl hw)
    | with_reducible apply State.shadowDir_keeps (Sub.trans rfl hw)
    | with_reducible apply State.evalTables_keeps (Sub.trans rfl hw)
    | with_reducible apply State.shadowXlt_keeps (Sub.trans rfl hw)
    | lift_lets
    | with_reducible refine keeps_ite ?_ ?_)

theorem State.writeShadow_keeps {w : Nat} {s0 s : State} (hw : Sub 0x410c w) (h : Keeps w s0 s) :
    Keeps w s0 (State.writeShadow s) := by
  have b2 := Sub.bit (i := 2) hw rfl; have b3 := Sub.bit (i := 3) hw rfl; have b8 := Sub.bit (i := 8) hw rfl; have b14 := Sub.bit (i := 14) hw rfl
  unfold State.writeShadow
  repeat' (first
    | with_reducible assumption
    | (intro t_; first | (with_reducible refine keeps_cut (w := w) (s := s0) (t := t_) ?_ ?_; intro ht_; rotate_left; dsimp -zeta only [t_]) | skip)
    | with_reducible apply State.when_keeps (Sub.trans rfl hw)
    | with_reducible apply State.raise_keeps (Sub.trans rfl hw)
    | with_reducible apply State.wrB_keeps (Sub.trans rfl hw)
    | with_reducible apply State.reseed_keeps (Sub.trans rfl hw)
    | with_reducible apply State.clearWin_keeps (Sub.trans rfl hw)
    | with_reducible apply State.writeNodes_keeps (Sub.trans rfl hw)
    | with_reducible apply State.wrF_keeps (Sub.trans rfl hw)
    | with_reducible apply State.wr_keeps (Sub.trans rfl hw)
    | with_reducible apply State.shadowOwners_keeps (Sub.trans rfl hw)
    | with_reducible apply State.each_keeps (Sub.trans rfl hw)
    | with_reducible apply State.shadowTables_keeps (Sub.trans rfl hw)
    | dsimp only [id]
    | lift_lets
    | with_reducible refine keeps_ite ?_ ?_
    | with_reducible refine keeps_fst_ite ?_ ?_
    | (with_reducible refine keeps_of_eq (by assumption) ?_)
    | with_reducible refine keeps_upd ?_ (fun x => x) (fun x => x) (.inr rfl) (.inl b2) (.inl b3) (.inr rfl) (.inr rfl) (.inr rfl) (.inl b8) (.inr rfl) (.inr rfl) (.inr rfl) (.inr rfl) (.inr rfl) (.inl b14) (.inr rfl) (.inr rfl) (.inr rfl) (.inr rfl) (.inr rfl) (.inr rfl) (.inr rfl) (.inr rfl) (.inr rfl) (.inr rfl) (.inr rfl) (.inr rfl))

theorem State.enterCommit_keeps {w : Nat} {s0 s : State} (hw : Sub 0x100410c w) (h : Keeps w s0 s) (catchup : Bool) :
    Keeps w s0 (State.enterCommit s catchup) := by
  have b2 := Sub.bit (i := 2) hw rfl; have b3 := Sub.bit (i := 3) hw rfl; have b8 := Sub.bit (i := 8) hw rfl; have b14 := Sub.bit (i := 14) hw rfl; have b24 := Sub.bit (i := 24) hw rfl
  unfold State.enterCommit
  repeat' (first
    | with_reducible assumption
    | (intro t_; first | (with_reducible refine keeps_cut (w := w) (s := s0) (t := t_) ?_ ?_; intro ht_; rotate_left; dsimp -zeta only [t_]) | skip)
    | with_reducible apply State.mark_keeps (Sub.trans rfl hw)
    | with_reducible apply State.setIna_keeps (Sub.trans rfl hw)
    | with_reducible apply State.wrB_keeps (Sub.trans rfl hw)
    | with_reducible apply State.writeShadow_keeps (Sub.trans rfl hw)
    | lift_lets
    | with_reducible refine keeps_ite ?_ ?_
    | with_reducible refine keeps_upd ?_ (fun x => x) (fun x => x) (.inr rfl) (.inl b2) (.inl b3) (.inr rfl) (.inr rfl) (.inr rfl) (.inl b8) (.inr rfl) (.inr rfl) (.inr rfl) (.inr rfl) (.inr rfl) (.inl b14) (.inr rfl) (.inr rfl) (.inr rfl) (.inr rfl) (.inr rfl) (.inr rfl) (.inr rfl) (.inr rfl) (.inr rfl) (.inl b24) (.inr rfl) (.inr rfl))

theorem State.endSpan_keeps {w : Nat} {s0 s : State} (hw : Sub 0x410c w) (h : Keeps w s0 s) :
    Keeps w s0 (State.endSpan s) := by
  have b2 := Sub.bit (i := 2) hw rfl; have b3 := Sub.bit (i := 3) hw rfl; have b8 := Sub.bit (i := 8) hw rfl; have b14 := Sub.bit (i := 14) hw rfl
  unfold State.endSpan
  repeat' (first
    | with_reducible assumption
    | (intro t_; first | (with_reducible refine keeps_cut (w := w) (s := s0) (t := t_) ?_ ?_; intro ht_; rotate_left; dsimp -zeta only [t_]) | skip)
    | with_reducible apply State.each_keeps (Sub.trans rfl hw)
    | with_reducible apply State.evalTables_keeps (Sub.trans rfl hw)
    | with_reducible apply State.freeOld_keeps (Sub.trans rfl hw)
    | with_reducible apply State.wrB_keeps (Sub.trans rfl hw)
    | with_reducible apply State.raise_keeps (Sub.trans rfl hw)
    | with_reducible apply State.reseedMaps_keeps (Sub.trans rfl hw)
    | with_reducible apply State.writeShadow_keeps (Sub.trans rfl hw)
    | lift_lets
    | with_reducible refine keeps_ite ?_ ?_
    | with_reducible refine keeps_upd ?_ (fun x => x) (fun x => x) (.inr rfl) (.inl b2) (.inl b3) (.inr rfl) (.inr rfl) (.inr rfl) (.inl b8) (.inr rfl) (.inr rfl) (.inr rfl) (.inr rfl) (.inr rfl) (.inl b14) (.inr rfl) (.inr rfl) (.inr rfl) (.inr rfl) (.inr rfl) (.inr rfl) (.inr rfl) (.inr rfl) (.inr rfl) (.inr rfl) (.inr rfl) (.inr rfl))

theorem State.spanStart_keeps {w : Nat} {s0 s : State} (hw : Sub 0x4004 w) (h : Keeps w s0 s) :
    Keeps w s0 (State.spanStart s) := by
  have b2 := Sub.bit (i := 2) hw rfl; have b14 := Sub.bit (i := 14) hw rfl
  unfold State.spanStart
  repeat' (first
    | with_reducible assumption
    | (intro t_; first | (with_reducible refine keeps_cut (w := w) (s := s0) (t := t_) ?_ ?_; intro ht_; rotate_left; dsimp -zeta only [t_]) | skip)
    | with_reducible apply State.wrB_keeps (Sub.trans rfl hw)
    | lift_lets
    | with_reducible refine keeps_ite ?_ ?_
    | split
    | (clear_value *; split)
    | with_reducible refine keeps_upd ?_ (fun x => x) (fun x => x) (.inr rfl) (.inl b2) (.inr rfl) (.inr rfl) (.inr rfl) (.inr rfl) (.inr rfl) (.inr rfl) (.inr rfl) (.inr rfl) (.inr rfl) (.inr rfl) (.inl b14) (.inr rfl) (.inr rfl) (.inr rfl) (.inr rfl) (.inr rfl) (.inr rfl) (.inr rfl) (.inr rfl) (.inr rfl) (.inr rfl) (.inr rfl) (.inr rfl))

theorem State.spanDrop_keeps {w : Nat} {s0 s : State} (hw : Sub 0x410c w) (h : Keeps w s0 s) :
    Keeps w s0 (State.spanDrop s) := by
  unfold State.spanDrop
  repeat' (first
    | with_reducible assumption
    | (intro t_; first | (with_reducible refine keeps_cut (w := w) (s := s0) (t := t_) ?_ ?_; intro ht_; rotate_left; dsimp -zeta only [t_]) | skip)
    | with_reducible apply State.endSpan_keeps (Sub.trans rfl hw)
    | with_reducible apply State.wrB_keeps (Sub.trans rfl hw)
    | lift_lets
    | with_reducible refine keeps_ite ?_ ?_)

theorem State.newStreams_keeps {w : Nat} {s0 s : State} (hw : Sub 0x10c w) (h : Keeps w s0 s) (d : Nat) :
    Keeps w s0 (State.newStreams s d) := by
  unfold State.newStreams
  repeat' (first
    | with_reducible assumption
    | (intro t_; first | (with_reducible refine keeps_cut (w := w) (s := s0) (t := t_) ?_ ?_; intro ht_; rotate_left; dsimp -zeta only [t_]) | skip)
    | with_reducible apply State.each_keeps (Sub.trans rfl hw)
    | with_reducible apply State.takeAny_keeps (Sub.trans rfl hw)
    | lift_lets
    | with_reducible refine keeps_ite ?_ ?_)

theorem State.syncGens_keeps {w : Nat} {s0 s : State} (hw : Sub 0x2000 w) (h : Keeps w s0 s) :
    Keeps w s0 (State.syncGens s) := by
  have b13 := Sub.bit (i := 13) hw rfl
  unfold State.syncGens
  repeat' (first
    | with_reducible assumption
    | (intro t_; first | (with_reducible refine keeps_cut (w := w) (s := s0) (t := t_) ?_ ?_; intro ht_; rotate_left; dsimp -zeta only [t_]) | skip)
    | lift_lets
    | with_reducible refine keeps_ite ?_ ?_
    | with_reducible refine keeps_fst_ite ?_ ?_
    | (with_reducible refine keeps_of_eq (by assumption) ?_)
    | with_reducible refine keeps_upd ?_ (fun x => x) (fun x => x) (.inr rfl) (.inr rfl) (.inr rfl) (.inr rfl) (.inr rfl) (.inr rfl) (.inr rfl) (.inr rfl) (.inr rfl) (.inr rfl) (.inr rfl) (.inl b13) (.inr rfl) (.inr rfl) (.inr rfl) (.inr rfl) (.inr rfl) (.inr rfl) (.inr rfl) (.inr rfl) (.inr rfl) (.inr rfl) (.inr rfl) (.inr rfl) (.inr rfl))

theorem State.flipBank_keeps {w : Nat} {s0 s : State} (hw : Sub 0x4004 w) (h : Keeps w s0 s) :
    Keeps w s0 (State.flipBank s) := by
  have b2 := Sub.bit (i := 2) hw rfl; have b14 := Sub.bit (i := 14) hw rfl
  unfold State.flipBank
  repeat' (first
    | with_reducible assumption
    | (intro t_; first | (with_reducible refine keeps_cut (w := w) (s := s0) (t := t_) ?_ ?_; intro ht_; rotate_left; dsimp -zeta only [t_]) | skip)
    | with_reducible apply State.wr_keeps (Sub.trans rfl hw)
    | lift_lets
    | with_reducible refine keeps_ite ?_ ?_
    | with_reducible refine keeps_upd ?_ (fun x => x) (fun x => x) (.inr rfl) (.inl b2) (.inr rfl) (.inr rfl) (.inr rfl) (.inr rfl) (.inr rfl) (.inr rfl) (.inr rfl) (.inr rfl) (.inr rfl) (.inr rfl) (.inl b14) (.inr rfl) (.inr rfl) (.inr rfl) (.inr rfl) (.inr rfl) (.inr rfl) (.inr rfl) (.inr rfl) (.inr rfl) (.inr rfl) (.inr rfl) (.inr rfl))

theorem State.takeNumber_keeps {w : Nat} {s0 s : State} (hw : Sub 0x4 w) (h : Keeps w s0 s) :
    Keeps w s0 (State.takeNumber s) := by
  unfold State.takeNumber
  repeat' (first
    | with_reducible assumption
    | (intro t_; first | (with_reducible refine keeps_cut (w := w) (s := s0) (t := t_) ?_ ?_; intro ht_; rotate_left; dsimp -zeta only [t_]) | skip)
    | with_reducible apply State.wrB_keeps (Sub.trans rfl hw)
    | with_reducible apply State.wrF_keeps (Sub.trans rfl hw)
    | lift_lets
    | with_reducible refine keeps_ite ?_ ?_
    | with_reducible apply keeps_foldl
    | with_reducible apply keeps_foldl_fst
    | with_reducible refine keeps_fst_ite ?_ ?_
    | (with_reducible refine keeps_of_eq (by assumption) ?_))

theorem State.blockTurns_keeps {w : Nat} {s0 s : State} (hw : Sub 0x330d944 w) (h : Keeps w s0 s) (side : Nat) :
    Keeps w s0 (State.blockTurns s side) := by
  unfold State.blockTurns
  repeat' (first
    | with_reducible assumption
    | (intro t_; first | (with_reducible refine keeps_cut (w := w) (s := s0) (t := t_) ?_ ?_; intro ht_; rotate_left; dsimp -zeta only [t_]) | skip)
    | with_reducible apply State.setCouple_keeps (Sub.trans rfl hw)
    | with_reducible apply State.clrTurn_keeps (Sub.trans rfl hw)
    | with_reducible apply State.setFault_keeps (Sub.trans rfl hw)
    | lift_lets
    | with_reducible refine keeps_ite ?_ ?_
    | split
    | (clear_value *; split))

theorem State.renumbered_keeps {w : Nat} {s0 s : State} (hw : Sub 0x104 w) (h : Keeps w s0 s) (old : Nat × List (Nat × Sys2Proof.Uid)) :
    Keeps w s0 (State.renumbered s old) := by
  unfold State.renumbered
  repeat' (first
    | with_reducible assumption
    | (intro t_; first | (with_reducible refine keeps_cut (w := w) (s := s0) (t := t_) ?_ ?_; intro ht_; rotate_left; dsimp -zeta only [t_]) | skip)
    | with_reducible apply State.when_keeps (Sub.trans rfl hw)
    | with_reducible apply State.pathChange_keeps (Sub.trans rfl hw)
    | dsimp only [id]
    | lift_lets
    | with_reducible refine keeps_ite ?_ ?_
    | with_reducible refine keeps_fst_ite ?_ ?_
    | (with_reducible refine keeps_of_eq (by assumption) ?_))

theorem State.inaugurated_keeps {w : Nat} {s0 s : State} (hw : Sub 0x1004504 w) (h : Keeps w s0 s) :
    Keeps w s0 (State.inaugurated s) := by
  have b2 := Sub.bit (i := 2) hw rfl; have b8 := Sub.bit (i := 8) hw rfl; have b10 := Sub.bit (i := 10) hw rfl; have b14 := Sub.bit (i := 14) hw rfl; have b24 := Sub.bit (i := 24) hw rfl
  unfold State.inaugurated
  repeat' (first
    | with_reducible assumption
    | (intro t_; first | (with_reducible refine keeps_cut (w := w) (s := s0) (t := t_) ?_ ?_; intro ht_; rotate_left; dsimp -zeta only [t_]) | skip)
    | with_reducible apply State.wr_keeps (Sub.trans rfl hw)
    | with_reducible apply State.takeNumber_keeps (Sub.trans rfl hw)
    | with_reducible apply State.raiseIna_keeps (Sub.trans rfl hw)
    | with_reducible apply State.countF_keeps (Sub.trans rfl hw)
    | with_reducible apply State.wrB_keeps (Sub.trans rfl hw)
    | with_reducible apply State.setIna_keeps (Sub.trans rfl hw)
    | with_reducible apply State.renumbered_keeps (Sub.trans rfl hw)
    | lift_lets
    | with_reducible refine keeps_ite ?_ ?_
    | with_reducible refine keeps_fst_ite ?_ ?_
    | (with_reducible refine keeps_of_eq (by assumption) ?_)
    | with_reducible refine keeps_upd ?_ (fun x => x) (fun x => x) (.inr rfl) (.inl b2) (.inr rfl) (.inr rfl) (.inr rfl) (.inr rfl) (.inl b8) (.inr rfl) (.inl b10) (.inr rfl) (.inr rfl) (.inr rfl) (.inl b14) (.inr rfl) (.inr rfl) (.inr rfl) (.inr rfl) (.inr rfl) (.inr rfl) (.inr rfl) (.inr rfl) (.inr rfl) (.inl b24) (.inr rfl) (.inr rfl))

theorem State.flip_keeps {w : Nat} {s0 s : State} (hw : Sub 0x4104 w) (h : Keeps w s0 s) (br : Sys2Proof.Word) (shadow : Bool) :
    Keeps w s0 (State.flip s br shadow) := by
  have b2 := Sub.bit (i := 2) hw rfl; have b8 := Sub.bit (i := 8) hw rfl; have b14 := Sub.bit (i := 14) hw rfl
  unfold State.flip
  repeat' (first
    | with_reducible assumption
    | (intro t_; first | (with_reducible refine keeps_cut (w := w) (s := s0) (t := t_) ?_ ?_; intro ht_; rotate_left; dsimp -zeta only [t_]) | skip)
    | with_reducible apply State.wrF_keeps (Sub.trans rfl hw)
    | with_reducible apply State.wrSchB_keeps (Sub.trans rfl hw)
    | with_reducible apply State.raise_keeps (Sub.trans rfl hw)
    | with_reducible apply State.flipBank_keeps (Sub.trans rfl hw)
    | lift_lets
    | with_reducible refine keeps_ite ?_ ?_
    | with_reducible refine keeps_upd ?_ (fun x => x) (fun x => x) (.inr rfl) (.inl b2) (.inr rfl) (.inr rfl) (.inr rfl) (.inr rfl) (.inl b8) (.inr rfl) (.inr rfl) (.inr rfl) (.inr rfl) (.inr rfl) (.inl b14) (.inr rfl) (.inr rfl) (.inr rfl) (.inr rfl) (.inr rfl) (.inr rfl) (.inr rfl) (.inr rfl) (.inr rfl) (.inr rfl) (.inr rfl) (.inr rfl))

theorem State.renotice_keeps {w : Nat} {s0 s : State} (hw : Sub 0x1000 w) (h : Keeps w s0 s) :
    Keeps w s0 (State.renotice s) := by
  have b12 := Sub.bit (i := 12) hw rfl
  unfold State.renotice
  repeat' (first
    | with_reducible assumption
    | (intro t_; first | (with_reducible refine keeps_cut (w := w) (s := s0) (t := t_) ?_ ?_; intro ht_; rotate_left; dsimp -zeta only [t_]) | skip)
    | lift_lets
    | with_reducible refine keeps_ite ?_ ?_
    | with_reducible refine keeps_upd ?_ (fun x => x) (fun x => x) (.inr rfl) (.inr rfl) (.inr rfl) (.inr rfl) (.inr rfl) (.inr rfl) (.inr rfl) (.inr rfl) (.inr rfl) (.inr rfl) (.inl b12) (.inr rfl) (.inr rfl) (.inr rfl) (.inr rfl) (.inr rfl) (.inr rfl) (.inr rfl) (.inr rfl) (.inr rfl) (.inr rfl) (.inr rfl) (.inr rfl) (.inr rfl) (.inr rfl))

theorem State.reviewTables_keeps {w : Nat} {s0 s : State} (hw : Sub 0x210c w) (h : Keeps w s0 s) :
    Keeps w s0 (State.reviewTables s) := by
  unfold State.reviewTables
  repeat' (first
    | with_reducible assumption
    | (intro t_; first | (with_reducible refine keeps_cut (w := w) (s := s0) (t := t_) ?_ ?_; intro ht_; rotate_left; dsimp -zeta only [t_]) | skip)
    | with_reducible apply State.syncGens_keeps (Sub.trans rfl hw)
    | with_reducible apply State.each_keeps (Sub.trans rfl hw)
    | with_reducible apply State.evalTables_keeps (Sub.trans rfl hw)
    | with_reducible apply State.newStreams_keeps (Sub.trans rfl hw)
    | lift_lets
    | with_reducible refine keeps_ite ?_ ?_)

theorem State.afterFlip_keeps {w : Nat} {s0 s : State} (hw : Sub 0x330f94c w) (h : Keeps w s0 s) :
    Keeps w s0 (State.afterFlip s) := by
  unfold State.afterFlip
  repeat' (first
    | with_reducible assumption
    | (intro t_; first | (with_reducible refine keeps_cut (w := w) (s := s0) (t := t_) ?_ ?_; intro ht_; rotate_left; dsimp -zeta only [t_]) | skip)
    | with_reducible apply State.blockTurns_keeps (Sub.trans rfl hw)
    | with_reducible apply State.evalPair_keeps (Sub.trans rfl hw)
    | with_reducible apply State.dropKnown_keeps (Sub.trans rfl hw)
    | with_reducible apply State.evalNbr_keeps (Sub.trans rfl hw)
    | with_reducible apply State.loadGuards_keeps (Sub.trans rfl hw)
    | with_reducible apply State.reviewTables_keeps (Sub.trans rfl hw)
    | with_reducible apply State.renotice_keeps (Sub.trans rfl hw)
    | with_reducible apply State.endSpan_keeps (Sub.trans rfl hw)
    | lift_lets
    | with_reducible refine keeps_ite ?_ ?_)

theorem State.castOnDone_keeps {w : Nat} {s0 s : State} (hw : Sub 0x3308944 w) (h : Keeps w s0 s) :
    Keeps w s0 (State.castOnDone s) := by
  unfold State.castOnDone
  repeat' (first
    | with_reducible assumption
    | (intro t_; first | (with_reducible refine keeps_cut (w := w) (s := s0) (t := t_) ?_ ?_; intro ht_; rotate_left; dsimp -zeta only [t_]) | skip)
    | with_reducible apply State.setRole_keeps (Sub.trans rfl hw)
    | with_reducible apply State.setMode_keeps (Sub.trans rfl hw)
    | with_reducible apply State.toHealing_keeps (Sub.trans rfl hw)
    | lift_lets
    | with_reducible refine keeps_ite ?_ ?_)

theorem State.blockNow_keeps {w : Nat} {s0 s : State} (hw : Sub 0x330fd4c w) (h : Keeps w s0 s) (br : Sys2Proof.Word) (shadow : Bool) :
    Keeps w s0 (State.blockNow s br shadow) := by
  unfold State.blockNow
  repeat' (first
    | with_reducible assumption
    | (intro t_; first | (with_reducible refine keeps_cut (w := w) (s := s0) (t := t_) ?_ ?_; intro ht_; rotate_left; dsimp -zeta only [t_]) | skip)
    | with_reducible apply State.flip_keeps (Sub.trans rfl hw)
    | with_reducible apply State.inaugurated_keeps (Sub.trans rfl hw)
    | with_reducible apply State.castOnDone_keeps (Sub.trans rfl hw)
    | with_reducible apply State.afterFlip_keeps (Sub.trans rfl hw)
    | lift_lets
    | with_reducible refine keeps_ite ?_ ?_)

theorem State.endTurns_keeps {w : Nat} {s0 s : State} (hw : Sub 0x3308944 w) (h : Keeps w s0 s) :
    Keeps w s0 (State.endTurns s) := by
  unfold State.endTurns
  repeat' (first
    | with_reducible assumption
    | (intro t_; first | (with_reducible refine keeps_cut (w := w) (s := s0) (t := t_) ?_ ?_; intro ht_; rotate_left; dsimp -zeta only [t_]) | skip)
    | with_reducible apply State.setEnd_keeps (Sub.trans rfl hw)
    | lift_lets
    | with_reducible refine keeps_ite ?_ ?_)

theorem State.syncUnseen_keeps {w : Nat} {s0 s : State} (hw : Sub 0x80 w) (h : Keeps w s0 s) :
    Keeps w s0 (State.syncUnseen s) := by
  have b7 := Sub.bit (i := 7) hw rfl
  unfold State.syncUnseen
  repeat' (first
    | with_reducible assumption
    | (intro t_; first | (with_reducible refine keeps_cut (w := w) (s := s0) (t := t_) ?_ ?_; intro ht_; rotate_left; dsimp -zeta only [t_]) | skip)
    | lift_lets
    | with_reducible refine keeps_ite ?_ ?_
    | with_reducible refine keeps_upd ?_ (fun x => x) (fun x => x) (.inr rfl) (.inr rfl) (.inr rfl) (.inr rfl) (.inr rfl) (.inl b7) (.inr rfl) (.inr rfl) (.inr rfl) (.inr rfl) (.inr rfl) (.inr rfl) (.inr rfl) (.inr rfl) (.inr rfl) (.inr rfl) (.inr rfl) (.inr rfl) (.inr rfl) (.inr rfl) (.inr rfl) (.inr rfl) (.inr rfl) (.inr rfl) (.inr rfl))

theorem State.observeToken_keeps {w : Nat} {s0 s : State} (hw : Sub 0x1000004 w) (h : Keeps w s0 s) :
    Keeps w s0 (State.observeToken s) := by
  unfold State.observeToken
  repeat' (first
    | with_reducible assumption
    | (intro t_; first | (with_reducible refine keeps_cut (w := w) (s := s0) (t := t_) ?_ ?_; intro ht_; rotate_left; dsimp -zeta only [t_]) | skip)
    | with_reducible apply State.arm_keeps (Sub.trans rfl hw)
    | with_reducible apply State.wrF_keeps (Sub.trans rfl hw)
    | lift_lets
    | with_reducible refine keeps_ite ?_ ?_)

theorem State.startDiscovery_keeps {w : Nat} {s0 s : State} (hw : Sub 0x1000004 w) (h : Keeps w s0 s) :
    Keeps w s0 (State.startDiscovery s) := by
  unfold State.startDiscovery
  repeat' (first
    | with_reducible assumption
    | (intro t_; first | (with_reducible refine keeps_cut (w := w) (s := s0) (t := t_) ?_ ?_; intro ht_; rotate_left; dsimp -zeta only [t_]) | skip)
    | with_reducible apply State.setIna_keeps (Sub.trans rfl hw)
    | lift_lets
    | with_reducible refine keeps_ite ?_ ?_)

theorem State.enterCastOn_keeps {w : Nat} {s0 s : State} (hw : Sub 0x333adcc w) (h : Keeps w s0 s) :
    Keeps w s0 (State.enterCastOn s) := by
  unfold State.enterCastOn
  repeat' (first
    | with_reducible assumption
    | (intro t_; first | (with_reducible refine keeps_cut (w := w) (s := s0) (t := t_) ?_ ?_; intro ht_; rotate_left; dsimp -zeta only [t_]) | skip)
    | with_reducible apply State.startDiscovery_keeps (Sub.trans rfl hw)
    | with_reducible apply State.observeToken_keeps (Sub.trans rfl hw)
    | with_reducible apply State.syncUnseen_keeps (Sub.trans rfl hw)
    | with_reducible apply State.endTurns_keeps (Sub.trans rfl hw)
    | with_reducible apply State.resetStreams_keeps (Sub.trans rfl hw)
    | with_reducible apply State.enterListen_keeps (Sub.trans rfl hw)
    | with_reducible apply State.stopRows_keeps (Sub.trans rfl hw)
    | lift_lets
    | with_reducible refine keeps_ite ?_ ?_)

theorem State.cleanTables_keeps {w : Nat} {s0 s : State} (hw : Sub 0x400c w) (h : Keeps w s0 s) :
    Keeps w s0 (State.cleanTables s) := by
  have b2 := Sub.bit (i := 2) hw rfl; have b3 := Sub.bit (i := 3) hw rfl; have b14 := Sub.bit (i := 14) hw rfl
  unfold State.cleanTables
  repeat' (first
    | with_reducible assumption
    | (intro t_; first | (with_reducible refine keeps_cut (w := w) (s := s0) (t := t_) ?_ ?_; intro ht_; rotate_left; dsimp -zeta only [t_]) | skip)
    | with_reducible apply State.clearWin_keeps (Sub.trans rfl hw)
    | with_reducible apply State.wrSch_keeps (Sub.trans rfl hw)
    | with_reducible apply State.each_keeps (Sub.trans rfl hw)
    | with_reducible apply State.flushLearned_keeps (Sub.trans rfl hw)
    | with_reducible apply State.setTwF_keeps (Sub.trans rfl hw)
    | with_reducible apply State.evalTables_keeps (Sub.trans rfl hw)
    | with_reducible apply State.wr_keeps (Sub.trans rfl hw)
    | with_reducible apply State.wrF_keeps (Sub.trans rfl hw)
    | with_reducible apply State.reseedData_keeps (Sub.trans rfl hw)
    | with_reducible apply State.evalNbr_keeps (Sub.trans rfl hw)
    | lift_lets
    | with_reducible refine keeps_ite ?_ ?_
    | with_reducible refine keeps_upd ?_ (fun x => x) (fun x => x) (.inr rfl) (.inl b2) (.inl b3) (.inr rfl) (.inr rfl) (.inr rfl) (.inr rfl) (.inr rfl) (.inr rfl) (.inr rfl) (.inr rfl) (.inr rfl) (.inl b14) (.inr rfl) (.inr rfl) (.inr rfl) (.inr rfl) (.inr rfl) (.inr rfl) (.inr rfl) (.inr rfl) (.inr rfl) (.inr rfl) (.inr rfl) (.inr rfl))

theorem State.inaToOff_keeps {w : Nat} {s0 s : State} (hw : Sub 0x100440c w) (h : Keeps w s0 s) :
    Keeps w s0 (State.inaToOff s) := by
  have b2 := Sub.bit (i := 2) hw rfl; have b3 := Sub.bit (i := 3) hw rfl; have b10 := Sub.bit (i := 10) hw rfl; have b14 := Sub.bit (i := 14) hw rfl; have b24 := Sub.bit (i := 24) hw rfl
  unfold State.inaToOff
  repeat' (first
    | with_reducible assumption
    | (intro t_; first | (with_reducible refine keeps_cut (w := w) (s := s0) (t := t_) ?_ ?_; intro ht_; rotate_left; dsimp -zeta only [t_]) | skip)
    | with_reducible apply State.wrB_keeps (Sub.trans rfl hw)
    | with_reducible apply State.setIna_keeps (Sub.trans rfl hw)
    | with_reducible apply State.dropShadow_keeps (Sub.trans rfl hw)
    | lift_lets
    | with_reducible refine keeps_ite ?_ ?_
    | with_reducible refine keeps_fst_ite ?_ ?_
    | (with_reducible refine keeps_of_eq (by assumption) ?_)
    | with_reducible refine keeps_upd ?_ (fun x => x) (fun x => x) (.inr rfl) (.inl b2) (.inl b3) (.inr rfl) (.inr rfl) (.inr rfl) (.inr rfl) (.inr rfl) (.inl b10) (.inr rfl) (.inr rfl) (.inr rfl) (.inl b14) (.inr rfl) (.inr rfl) (.inr rfl) (.inr rfl) (.inr rfl) (.inr rfl) (.inr rfl) (.inr rfl) (.inr rfl) (.inl b24) (.inr rfl) (.inr rfl))

end Sys2Proof.Machine
end

