-- ==== Sys2Proof/Laws/Transit.lean ====
section
/-! SUPPORT. What the functions of Machine/Transit.lean keep, one lemma for each. -/

namespace Sys2Proof.Machine

theorem State.hopCount_keeps {w : Nat} {s0 s : State} (hw : Sub 0x100004 w) (h : Keeps w s0 s) (p : Nat) (sid : Nat) (y3 : Sys2Proof.Machine.Hop) :
    Keeps w s0 (State.hopCount s p sid y3) := by
  unfold State.hopCount
  repeat' (first
    | with_reducible assumption
    | (intro t_; first | (with_reducible refine keeps_cut (w := w) (s := s0) (t := t_) ?_ ?_; intro ht_; rotate_left; dsimp -zeta only [t_]) | skip)
    | with_reducible apply State.when_keeps (Sub.trans rfl hw)
    | with_reducible apply State.pst_keeps (Sub.trans rfl hw)
    | with_reducible apply State.count_keeps (Sub.trans rfl hw)
    | with_reducible apply State.statBy_keeps (Sub.trans rfl hw)
    | dsimp only [id]
    | lift_lets
    | with_reducible refine keeps_ite ?_ ?_
    | split
    | (clear_value *; split))

theorem State.slCheck_keeps {w : Nat} {s0 s : State} (hw : Sub 0x100004 w) (h : Keeps w s0 s) (rx : Sys2Proof.Rx) (x_h : Sys2Proof.Hdr) :
    Keeps w s0 (State.slCheck s rx x_h).1 := by
  unfold State.slCheck
  repeat' (first
    | with_reducible assumption
    | (intro t_; first | (with_reducible refine keeps_cut (w := w) (s := s0) (t := t_) ?_ ?_; intro ht_; rotate_left; dsimp -zeta only [t_]) | skip)
    | with_reducible apply State.statBy_keeps (Sub.trans rfl hw)
    | with_reducible apply State.xchk_keeps (Sub.trans rfl hw)
    | with_reducible apply State.hopCount_keeps (Sub.trans rfl hw)
    | lift_lets
    | with_reducible refine keeps_ite ?_ ?_
    | split
    | (clear_value *; split)
    | with_reducible refine keeps_fst_ite ?_ ?_
    | (with_reducible refine keeps_of_eq (by assumption) ?_)
    | dsimp -zeta only)

theorem State.takeStitch_keeps {w : Nat} {s0 s : State} (hw : Sub 0x6920104 w) (h : Keeps w s0 s) (rx : Sys2Proof.Rx) (x_h : Sys2Proof.Hdr) (subtype : Sys2Proof.Byte) (mine : Sys2Proof.Machine.State → Bool) (rtag : Option (BitVec 16)) (b : Sys2Proof.Machine.Body) (sched : Bool) :
    Keeps w s0 (State.takeStitch s rx x_h subtype mine rtag b sched).1 := by
  unfold State.takeStitch
  repeat' (first
    | with_reducible assumption
    | (intro t_; first | (with_reducible refine keeps_cut (w := w) (s := s0) (t := t_) ?_ ?_; intro ht_; rotate_left; dsimp -zeta only [t_]) | skip)
    | with_reducible apply State.takeSl_keeps (Sub.trans rfl hw)
    | with_reducible apply State.strip_keeps (Sub.trans rfl hw)
    | with_reducible apply State.slCheck_keeps (Sub.trans rfl hw)
    | with_reducible apply State.endBad_keeps (Sub.trans rfl hw)
    | with_reducible apply State.relayBad_keeps (Sub.trans rfl hw)
    | with_reducible apply State.relay_keeps (Sub.trans rfl hw)
    | lift_lets
    | with_reducible refine keeps_ite ?_ ?_
    | with_reducible refine keeps_fst_ite ?_ ?_
    | (with_reducible refine keeps_of_eq (by assumption) ?_)
    | dsimp -zeta only)

theorem State.guardRefuse_keeps {w : Nat} {s0 s : State} (hw : Sub 0x100004 w) (h : Keeps w s0 s) (p : Nat) (sid : Nat) :
    Keeps w s0 (State.guardRefuse s p sid) := by
  unfold State.guardRefuse
  repeat' (first
    | with_reducible assumption
    | (intro t_; first | (with_reducible refine keeps_cut (w := w) (s := s0) (t := t_) ?_ ?_; intro ht_; rotate_left; dsimp -zeta only [t_]) | skip)
    | with_reducible apply State.when_keeps (Sub.trans rfl hw)
    | with_reducible apply State.pst_keeps (Sub.trans rfl hw)
    | with_reducible apply State.count_keeps (Sub.trans rfl hw)
    | with_reducible apply State.statBy_keeps (Sub.trans rfl hw)
    | dsimp only [id]
    | lift_lets
    | with_reducible refine keeps_ite ?_ ?_)

end Sys2Proof.Machine
end

