-- ==== Sys2Proof/Laws/Stitches.lean ====
section
/-! SUPPORT. What the functions of Machine/Stitches.lean keep, one lemma for each. -/

namespace Sys2Proof.Machine

theorem State.inRowOf_keeps {w : Nat} {s0 s : State} (hw : Sub 0x4 w) (h : Keeps w s0 s) (v : Sys2Proof.Machine.State) (d : Nat) (f : Sys2Proof.Machine.State → Sys2Proof.Machine.State) (h_f : ∀ t_, Keeps w s0 t_ → Keeps w s0 (f t_)) :
    Keeps w s0 (State.inRowOf s v d f) := by
  unfold State.inRowOf
  repeat' (first
    | with_reducible assumption
    | (intro t_; first | (with_reducible refine keeps_cut (w := w) (s := s0) (t := t_) ?_ ?_; intro ht_; rotate_left; dsimp -zeta only [t_]) | skip)
    | with_reducible apply h_f
    | with_reducible apply State.wrF_keeps (Sub.trans rfl hw)
    | lift_lets
    | with_reducible refine keeps_ite ?_ ?_)

theorem State.mute_keeps {w : Nat} {s0 s : State} (hw : Sub 0x584 w) (h : Keeps w s0 s) :
    Keeps w s0 (State.mute s) := by
  have b2 := Sub.bit (i := 2) hw rfl; have b7 := Sub.bit (i := 7) hw rfl; have b8 := Sub.bit (i := 8) hw rfl; have b10 := Sub.bit (i := 10) hw rfl
  unfold State.mute
  repeat' (first
    | with_reducible assumption
    | (intro t_; first | (with_reducible refine keeps_cut (w := w) (s := s0) (t := t_) ?_ ?_; intro ht_; rotate_left; dsimp -zeta only [t_]) | skip)
    | with_reducible apply State.raiseSch_keeps (Sub.trans rfl hw)
    | with_reducible apply State.wrSchB_keeps (Sub.trans rfl hw)
    | with_reducible apply State.each_keeps (Sub.trans rfl hw)
    | with_reducible apply State.wrB_keeps (Sub.trans rfl hw)
    | lift_lets
    | with_reducible refine keeps_ite ?_ ?_
    | with_reducible refine keeps_upd ?_ (fun x => x) (fun x => x) (.inr rfl) (.inl b2) (.inr rfl) (.inr rfl) (.inr rfl) (.inl b7) (.inl b8) (.inr rfl) (.inl b10) (.inr rfl) (.inr rfl) (.inr rfl) (.inr rfl) (.inr rfl) (.inr rfl) (.inr rfl) (.inr rfl) (.inr rfl) (.inr rfl) (.inr rfl) (.inr rfl) (.inr rfl) (.inr rfl) (.inr rfl) (.inr rfl))

theorem State.mute1_keeps {w : Nat} {s0 s : State} (hw : Sub 0x584 w) (h : Keeps w s0 s) :
    Keeps w s0 (State.mute1 s) := by
  have b2 := Sub.bit (i := 2) hw rfl; have b7 := Sub.bit (i := 7) hw rfl; have b8 := Sub.bit (i := 8) hw rfl; have b10 := Sub.bit (i := 10) hw rfl
  unfold State.mute1
  repeat' (first
    | with_reducible assumption
    | (intro t_; first | (with_reducible refine keeps_cut (w := w) (s := s0) (t := t_) ?_ ?_; intro ht_; rotate_left; dsimp -zeta only [t_]) | skip)
    | with_reducible apply State.raise_keeps (Sub.trans rfl hw)
    | with_reducible apply State.wrB_keeps (Sub.trans rfl hw)
    | lift_lets
    | with_reducible refine keeps_ite ?_ ?_
    | with_reducible refine keeps_upd ?_ (fun x => x) (fun x => x) (.inr rfl) (.inl b2) (.inr rfl) (.inr rfl) (.inr rfl) (.inl b7) (.inl b8) (.inr rfl) (.inl b10) (.inr rfl) (.inr rfl) (.inr rfl) (.inr rfl) (.inr rfl) (.inr rfl) (.inr rfl) (.inr rfl) (.inr rfl) (.inr rfl) (.inr rfl) (.inr rfl) (.inr rfl) (.inr rfl) (.inr rfl) (.inr rfl))

theorem State.evalMute_keeps {w : Nat} {s0 s : State} (hw : Sub 0x584 w) (h : Keeps w s0 s) :
    Keeps w s0 (State.evalMute s) := by
  unfold State.evalMute
  repeat' (first
    | with_reducible assumption
    | (intro t_; first | (with_reducible refine keeps_cut (w := w) (s := s0) (t := t_) ?_ ?_; intro ht_; rotate_left; dsimp -zeta only [t_]) | skip)
    | with_reducible apply State.mute_keeps (Sub.trans rfl hw)
    | with_reducible apply State.mute1_keeps (Sub.trans rfl hw)
    | lift_lets
    | with_reducible refine keeps_ite ?_ ?_)

theorem State.unmute_keeps {w : Nat} {s0 s : State} (hw : Sub 0x504 w) (h : Keeps w s0 s) :
    Keeps w s0 (State.unmute s) := by
  have b2 := Sub.bit (i := 2) hw rfl; have b8 := Sub.bit (i := 8) hw rfl; have b10 := Sub.bit (i := 10) hw rfl
  unfold State.unmute
  repeat' (first
    | with_reducible assumption
    | (intro t_; first | (with_reducible refine keeps_cut (w := w) (s := s0) (t := t_) ?_ ?_; intro ht_; rotate_left; dsimp -zeta only [t_]) | skip)
    | with_reducible apply State.raiseSch_keeps (Sub.trans rfl hw)
    | with_reducible apply State.wrSchB_keeps (Sub.trans rfl hw)
    | with_reducible apply State.each_keeps (Sub.trans rfl hw)
    | with_reducible apply State.wrB_keeps (Sub.trans rfl hw)
    | lift_lets
    | with_reducible refine keeps_ite ?_ ?_
    | with_reducible refine keeps_upd ?_ (fun x => x) (fun x => x) (.inr rfl) (.inl b2) (.inr rfl) (.inr rfl) (.inr rfl) (.inr rfl) (.inl b8) (.inr rfl) (.inl b10) (.inr rfl) (.inr rfl) (.inr rfl) (.inr rfl) (.inr rfl) (.inr rfl) (.inr rfl) (.inr rfl) (.inr rfl) (.inr rfl) (.inr rfl) (.inr rfl) (.inr rfl) (.inr rfl) (.inr rfl) (.inr rfl))

theorem State.unmute1_keeps {w : Nat} {s0 s : State} (hw : Sub 0x504 w) (h : Keeps w s0 s) :
    Keeps w s0 (State.unmute1 s) := by
  have b2 := Sub.bit (i := 2) hw rfl; have b8 := Sub.bit (i := 8) hw rfl; have b10 := Sub.bit (i := 10) hw rfl
  unfold State.unmute1
  repeat' (first
    | with_reducible assumption
    | (intro t_; first | (with_reducible refine keeps_cut (w := w) (s := s0) (t := t_) ?_ ?_; intro ht_; rotate_left; dsimp -zeta only [t_]) | skip)
    | with_reducible apply State.raise_keeps (Sub.trans rfl hw)
    | with_reducible apply State.wrB_keeps (Sub.trans rfl hw)
    | lift_lets
    | with_reducible refine keeps_ite ?_ ?_
    | with_reducible refine keeps_upd ?_ (fun x => x) (fun x => x) (.inr rfl) (.inl b2) (.inr rfl) (.inr rfl) (.inr rfl) (.inr rfl) (.inl b8) (.inr rfl) (.inl b10) (.inr rfl) (.inr rfl) (.inr rfl) (.inr rfl) (.inr rfl) (.inr rfl) (.inr rfl) (.inr rfl) (.inr rfl) (.inr rfl) (.inr rfl) (.inr rfl) (.inr rfl) (.inr rfl) (.inr rfl) (.inr rfl))

theorem State.muteBoundary_keeps {w : Nat} {s0 s : State} (hw : Sub 0x584 w) (h : Keeps w s0 s) :
    Keeps w s0 (State.muteBoundary s) := by
  have b2 := Sub.bit (i := 2) hw rfl; have b7 := Sub.bit (i := 7) hw rfl; have b8 := Sub.bit (i := 8) hw rfl; have b10 := Sub.bit (i := 10) hw rfl
  unfold State.muteBoundary
  repeat' (first
    | with_reducible assumption
    | (intro t_; first | (with_reducible refine keeps_cut (w := w) (s := s0) (t := t_) ?_ ?_; intro ht_; rotate_left; dsimp -zeta only [t_]) | skip)
    | with_reducible apply State.mute_keeps (Sub.trans rfl hw)
    | with_reducible apply State.unmute_keeps (Sub.trans rfl hw)
    | lift_lets
    | with_reducible refine keeps_ite ?_ ?_
    | with_reducible refine keeps_upd ?_ (fun x => x) (fun x => x) (.inr rfl) (.inl b2) (.inr rfl) (.inr rfl) (.inr rfl) (.inl b7) (.inl b8) (.inr rfl) (.inl b10) (.inr rfl) (.inr rfl) (.inr rfl) (.inr rfl) (.inr rfl) (.inr rfl) (.inr rfl) (.inr rfl) (.inr rfl) (.inr rfl) (.inr rfl) (.inr rfl) (.inr rfl) (.inr rfl) (.inr rfl) (.inr rfl))

theorem State.muteBoundary1_keeps {w : Nat} {s0 s : State} (hw : Sub 0x584 w) (h : Keeps w s0 s) :
    Keeps w s0 (State.muteBoundary1 s) := by
  have b2 := Sub.bit (i := 2) hw rfl; have b7 := Sub.bit (i := 7) hw rfl; have b8 := Sub.bit (i := 8) hw rfl; have b10 := Sub.bit (i := 10) hw rfl
  unfold State.muteBoundary1
  repeat' (first
    | with_reducible assumption
    | (intro t_; first | (with_reducible refine keeps_cut (w := w) (s := s0) (t := t_) ?_ ?_; intro ht_; rotate_left; dsimp -zeta only [t_]) | skip)
    | with_reducible apply State.mute1_keeps (Sub.trans rfl hw)
    | with_reducible apply State.unmute1_keeps (Sub.trans rfl hw)
    | lift_lets
    | with_reducible refine keeps_ite ?_ ?_
    | with_reducible refine keeps_upd ?_ (fun x => x) (fun x => x) (.inr rfl) (.inl b2) (.inr rfl) (.inr rfl) (.inr rfl) (.inl b7) (.inl b8) (.inr rfl) (.inl b10) (.inr rfl) (.inr rfl) (.inr rfl) (.inr rfl) (.inr rfl) (.inr rfl) (.inr rfl) (.inr rfl) (.inr rfl) (.inr rfl) (.inr rfl) (.inr rfl) (.inr rfl) (.inr rfl) (.inr rfl) (.inr rfl))

theorem execKnit_keeps (d : Sys2Proof.Die) (sid : Fin 4096) (s : State) :
    ∃ t_, execKnit d sid s = .next t_ ∧ Keeps 0x3002584 s t_ := by
  have h := Keeps.refl 0x3002584 s
  have hw := Sub.refl 0x3002584
  
  refine ⟨_, rfl, ?_⟩
  repeat' (first
    | with_reducible assumption
    | (intro t_; first | (with_reducible refine keeps_cut (w := w) (s := s0) (t := t_) ?_ ?_; intro ht_; rotate_left; dsimp -zeta only [t_]) | skip)
    | with_reducible apply State.when_keeps (Sub.trans rfl hw)
    | (with_reducible refine State.rowFor_keeps (Sub.trans rfl hw) ?_ (by assumption))
    | with_reducible apply State.inRowOf_keeps (Sub.trans rfl hw)
    | with_reducible apply State.reachOn_keeps (Sub.trans rfl hw)
    | with_reducible apply State.knitOn_keeps (Sub.trans rfl hw)
    | dsimp only [id]
    | lift_lets
    | with_reducible refine keeps_ite ?_ ?_
    | split
    | (clear_value *; split)
    | with_reducible refine keeps_fst_ite ?_ ?_
    | (with_reducible refine keeps_of_eq (by assumption) ?_))

theorem State.passGuard_keeps {w : Nat} {s0 s : State} (hw : Sub 0x6920504 w) (h : Keeps w s0 s) (p : Nat) (sid : Nat) (n : Nat) (start : Nat) (f : Sys2Proof.Machine.Frame) (y6 : Bool) :
    Keeps w s0 (State.passGuard s p sid n start f y6).1 := by
  have b2 := Sub.bit (i := 2) hw rfl; have b8 := Sub.bit (i := 8) hw rfl; have b10 := Sub.bit (i := 10) hw rfl; have b17 := Sub.bit (i := 17) hw rfl; have b20 := Sub.bit (i := 20) hw rfl; have b23 := Sub.bit (i := 23) hw rfl; have b25 := Sub.bit (i := 25) hw rfl; have b26 := Sub.bit (i := 26) hw rfl
  unfold State.passGuard
  repeat' (first
    | with_reducible assumption
    | (intro t_; first | (with_reducible refine keeps_cut (w := w) (s := s0) (t := t_) ?_ ?_; intro ht_; rotate_left; dsimp -zeta only [t_]) | skip)
    | with_reducible apply State.sendPort_keeps (Sub.trans rfl hw)
    | with_reducible apply State.occupy_keeps (Sub.trans rfl hw)
    | with_reducible apply State.guardRefuse_keeps (Sub.trans rfl hw)
    | lift_lets
    | with_reducible refine keeps_ite ?_ ?_
    | split
    | (clear_value *; split)
    | with_reducible refine keeps_fst_ite ?_ ?_
    | (with_reducible refine keeps_of_eq (by assumption) ?_)
    | with_reducible refine keeps_upd ?_ (fun x => x) (fun x => x) (.inr rfl) (.inl b2) (.inr rfl) (.inr rfl) (.inr rfl) (.inr rfl) (.inl b8) (.inr rfl) (.inl b10) (.inr rfl) (.inr rfl) (.inr rfl) (.inr rfl) (.inr rfl) (.inr rfl) (.inl b17) (.inr rfl) (.inr rfl) (.inl b20) (.inr rfl) (.inr rfl) (.inl b23) (.inr rfl) (.inl b25) (.inl b26)
    | dsimp -zeta only)

theorem State.sendGuarded_keeps {w : Nat} {s0 s : State} (hw : Sub 0x6920504 w) (h : Keeps w s0 s) (p : Nat) (sid : Nat) (selv : Nat) (n : Nat) (e : Sys2Proof.Machine.Stitch) (st0 : Sys2Proof.Word) (delta : Nat) (free : Bool) (f : Sys2Proof.Machine.Frame) :
    Keeps w s0 (State.sendGuarded s p sid selv n e st0 delta free f).1 := by
  unfold State.sendGuarded
  repeat' (first
    | with_reducible assumption
    | (intro t_; first | (with_reducible refine keeps_cut (w := w) (s := s0) (t := t_) ?_ ?_; intro ht_; rotate_left; dsimp -zeta only [t_]) | skip)
    | with_reducible apply State.passGuard_keeps (Sub.trans rfl hw)
    | with_reducible apply State.meet_keeps (Sub.trans rfl hw)
    | lift_lets
    | with_reducible refine keeps_ite ?_ ?_
    | dsimp -zeta only)

theorem State.sendCopies_keeps {w : Nat} {s0 s : State} (hw : Sub 0x6920504 w) (h : Keeps w s0 s) (sid : Nat) (selv : Nat) (n : Nat) (e : Sys2Proof.Machine.Stitch) (st0 : Sys2Proof.Word) (delta : Nat) (free : Bool) (f : Sys2Proof.Machine.Frame) (y9 : List Nat) :
    Keeps w s0 (State.sendCopies s sid selv n e st0 delta free f y9).1 := by
  induction y9 generalizing sid selv n e st0 delta free f s with
  | nil =>
    unfold State.sendCopies
    repeat' (first
    | with_reducible assumption
    | (intro t_; first | (with_reducible refine keeps_cut (w := w) (s := s0) (t := t_) ?_ ?_; intro ht_; rotate_left; dsimp -zeta only [t_]) | skip)
    | with_reducible apply State.sendGuarded_keeps (Sub.trans rfl hw)
    | lift_lets
    | with_reducible refine keeps_ite ?_ ?_
    | split
    | (clear_value *; split)
    | with_reducible refine keeps_fst_ite ?_ ?_
    | (with_reducible refine keeps_of_eq (by assumption) ?_)
    | dsimp -zeta only)
  | cons x xs ih =>
    unfold State.sendCopies
    repeat' (first
    | with_reducible assumption
    | with_reducible apply ih
    | (intro t_; first | (with_reducible refine keeps_cut (w := w) (s := s0) (t := t_) ?_ ?_; intro ht_; rotate_left; dsimp -zeta only [t_]) | skip)
    | with_reducible apply State.sendGuarded_keeps (Sub.trans rfl hw)
    | lift_lets
    | with_reducible refine keeps_ite ?_ ?_
    | split
    | (clear_value *; split)
    | with_reducible refine keeps_fst_ite ?_ ?_
    | (with_reducible refine keeps_of_eq (by assumption) ?_)
    | dsimp -zeta only)
  

theorem State.sendNull_keeps {w : Nat} {s0 s : State} (hw : Sub 0x692a504 w) (h : Keeps w s0 s) (v : Sys2Proof.Machine.State) (d : Nat) (sid : Nat) (reason : Nat) (e : Sys2Proof.Machine.Stitch) :
    Keeps w s0 (State.sendNull s v d sid reason e) := by
  have b2 := Sub.bit (i := 2) hw rfl; have b8 := Sub.bit (i := 8) hw rfl; have b10 := Sub.bit (i := 10) hw rfl; have b13 := Sub.bit (i := 13) hw rfl; have b15 := Sub.bit (i := 15) hw rfl; have b17 := Sub.bit (i := 17) hw rfl; have b20 := Sub.bit (i := 20) hw rfl; have b23 := Sub.bit (i := 23) hw rfl; have b25 := Sub.bit (i := 25) hw rfl; have b26 := Sub.bit (i := 26) hw rfl
  unfold State.sendNull
  repeat' (first
    | with_reducible assumption
    | (intro t_; first | (with_reducible refine keeps_cut (w := w) (s := s0) (t := t_) ?_ ?_; intro ht_; rotate_left; dsimp -zeta only [t_]) | skip)
    | with_reducible apply State.sendCopies_keeps (Sub.trans rfl hw)
    | with_reducible apply State.each_keeps (Sub.trans rfl hw)
    | with_reducible apply State.pst_keeps (Sub.trans rfl hw)
    | with_reducible apply State.when_keeps (Sub.trans rfl hw)
    | with_reducible apply State.statBy_keeps (Sub.trans rfl hw)
    | with_reducible apply State.count_keeps (Sub.trans rfl hw)
    | with_reducible apply State.inRowOf_keeps (Sub.trans rfl hw)
    | with_reducible apply State.advGen_keeps (Sub.trans rfl hw)
    | dsimp only [id]
    | lift_lets
    | with_reducible refine keeps_ite ?_ ?_
    | with_reducible refine keeps_fst_ite ?_ ?_
    | (with_reducible refine keeps_of_eq (by assumption) ?_)
    | with_reducible refine keeps_upd ?_ (fun x => x) (fun x => x) (.inr rfl) (.inl b2) (.inr rfl) (.inr rfl) (.inr rfl) (.inr rfl) (.inl b8) (.inr rfl) (.inl b10) (.inr rfl) (.inr rfl) (.inl b13) (.inr rfl) (.inl b15) (.inr rfl) (.inl b17) (.inr rfl) (.inr rfl) (.inl b20) (.inr rfl) (.inr rfl) (.inl b23) (.inr rfl) (.inl b25) (.inl b26))

theorem State.record_keeps {w : Nat} {s0 s : State} (hw : Sub 0x400 w) (h : Keeps w s0 s) (d : Sys2Proof.Machine.Decision) :
    Keeps w s0 (State.record s d) := by
  have b10 := Sub.bit (i := 10) hw rfl
  unfold State.record
  repeat' (first
    | with_reducible assumption
    | (intro t_; first | (with_reducible refine keeps_cut (w := w) (s := s0) (t := t_) ?_ ?_; intro ht_; rotate_left; dsimp -zeta only [t_]) | skip)
    | lift_lets
    | with_reducible refine keeps_ite ?_ ?_
    | with_reducible refine keeps_upd ?_ (fun x => x) (fun x => x) (.inr rfl) (.inr rfl) (.inr rfl) (.inr rfl) (.inr rfl) (.inr rfl) (.inr rfl) (.inr rfl) (.inl b10) (.inr rfl) (.inr rfl) (.inr rfl) (.inr rfl) (.inr rfl) (.inr rfl) (.inr rfl) (.inr rfl) (.inr rfl) (.inr rfl) (.inr rfl) (.inr rfl) (.inr rfl) (.inr rfl) (.inr rfl) (.inr rfl))

theorem State.decideOwn_keeps {w : Nat} {s0 s : State} (hw : Sub 0x692a504 w) (h : Keeps w s0 s) (v : Sys2Proof.Machine.State) (sid : Nat) (e : Sys2Proof.Machine.Stitch) :
    Keeps w s0 (State.decideOwn s v sid e) := by
  unfold State.decideOwn
  repeat' (first
    | with_reducible assumption
    | (intro t_; first | (with_reducible refine keeps_cut (w := w) (s := s0) (t := t_) ?_ ?_; intro ht_; rotate_left; dsimp -zeta only [t_]) | skip)
    | with_reducible apply State.record_keeps (Sub.trans rfl hw)
    | with_reducible apply State.sendNull_keeps (Sub.trans rfl hw)
    | lift_lets
    | with_reducible refine keeps_ite ?_ ?_
    | split
    | (clear_value *; split)
    | with_reducible refine keeps_fst_ite ?_ ?_
    | (with_reducible refine keeps_of_eq (by assumption) ?_))

theorem State.skipStitch_keeps {w : Nat} {s0 s : State} (hw : Sub 0x100104 w) (h : Keeps w s0 s) (sid : Nat) :
    Keeps w s0 (State.skipStitch s sid) := by
  unfold State.skipStitch
  repeat' (first
    | with_reducible assumption
    | (intro t_; first | (with_reducible refine keeps_cut (w := w) (s := s0) (t := t_) ?_ ?_; intro ht_; rotate_left; dsimp -zeta only [t_]) | skip)
    | with_reducible apply State.statBy_keeps (Sub.trans rfl hw)
    | with_reducible apply State.raiseSch_keeps (Sub.trans rfl hw)
    | with_reducible apply State.count_keeps (Sub.trans rfl hw)
    | lift_lets
    | with_reducible refine keeps_ite ?_ ?_)

theorem State.decideStitch_keeps {w : Nat} {s0 s : State} (hw : Sub 0x792a584 w) (h : Keeps w s0 s) (v : Sys2Proof.Machine.State) (sid : Nat) (e : Sys2Proof.Machine.Stitch) :
    Keeps w s0 (State.decideStitch s v sid e) := by
  unfold State.decideStitch
  repeat' (first
    | with_reducible assumption
    | (intro t_; first | (with_reducible refine keeps_cut (w := w) (s := s0) (t := t_) ?_ ?_; intro ht_; rotate_left; dsimp -zeta only [t_]) | skip)
    | with_reducible apply State.evalMute_keeps (Sub.trans rfl hw)
    | with_reducible apply State.reachSt_keeps (Sub.trans rfl hw)
    | with_reducible apply State.skipStitch_keeps (Sub.trans rfl hw)
    | with_reducible apply State.record_keeps (Sub.trans rfl hw)
    | with_reducible apply State.decideOwn_keeps (Sub.trans rfl hw)
    | lift_lets
    | with_reducible refine keeps_ite ?_ ?_)

theorem execStitchDecision_keeps (sid : Fin 4096) (s : State) :
    ∃ t_, execStitchDecision sid s = .next t_ ∧ Keeps 0x792a584 s t_ := by
  have h := Keeps.refl 0x792a584 s
  have hw := Sub.refl 0x792a584
  
  refine ⟨_, rfl, ?_⟩
  repeat' (first
    | with_reducible assumption
    | (intro t_; first | (with_reducible refine keeps_cut (w := w) (s := s0) (t := t_) ?_ ?_; intro ht_; rotate_left; dsimp -zeta only [t_]) | skip)
    | with_reducible apply State.when_keeps (Sub.trans rfl hw)
    | (with_reducible refine State.rowFor_keeps (Sub.trans rfl hw) ?_ (by assumption))
    | with_reducible apply State.decideStitch_keeps (Sub.trans rfl hw)
    | dsimp only [id]
    | lift_lets
    | with_reducible refine keeps_ite ?_ ?_
    | split
    | (clear_value *; split)
    | with_reducible refine keeps_fst_ite ?_ ?_
    | (with_reducible refine keeps_of_eq (by assumption) ?_))

theorem State.sendSkein_keeps {w : Nat} {s0 s : State} (hw : Sub 0x692a504 w) (h : Keeps w s0 s) (d : Nat) (sid : Nat) (e : Sys2Proof.Machine.Stitch) :
    Keeps w s0 (State.sendSkein s d sid e) := by
  have b2 := Sub.bit (i := 2) hw rfl; have b8 := Sub.bit (i := 8) hw rfl; have b10 := Sub.bit (i := 10) hw rfl; have b13 := Sub.bit (i := 13) hw rfl; have b15 := Sub.bit (i := 15) hw rfl; have b17 := Sub.bit (i := 17) hw rfl; have b20 := Sub.bit (i := 20) hw rfl; have b23 := Sub.bit (i := 23) hw rfl; have b25 := Sub.bit (i := 25) hw rfl; have b26 := Sub.bit (i := 26) hw rfl
  unfold State.sendSkein
  repeat' (first
    | with_reducible assumption
    | (intro t_; first | (with_reducible refine keeps_cut (w := w) (s := s0) (t := t_) ?_ ?_; intro ht_; rotate_left; dsimp -zeta only [t_]) | skip)
    | with_reducible apply State.sendCopies_keeps (Sub.trans rfl hw)
    | with_reducible apply State.when_keeps (Sub.trans rfl hw)
    | with_reducible apply State.advGen_keeps (Sub.trans rfl hw)
    | dsimp only [id]
    | lift_lets
    | with_reducible refine keeps_ite ?_ ?_
    | split
    | (clear_value *; split)
    | with_reducible refine keeps_fst_ite ?_ ?_
    | (with_reducible refine keeps_of_eq (by assumption) ?_)
    | with_reducible refine keeps_upd ?_ (fun x => x) (fun x => x) (.inr rfl) (.inl b2) (.inr rfl) (.inr rfl) (.inr rfl) (.inr rfl) (.inl b8) (.inr rfl) (.inl b10) (.inr rfl) (.inr rfl) (.inl b13) (.inr rfl) (.inl b15) (.inr rfl) (.inl b17) (.inr rfl) (.inr rfl) (.inl b20) (.inr rfl) (.inr rfl) (.inl b23) (.inr rfl) (.inl b25) (.inl b26))

theorem execSkeinSend_keeps (sid : Fin 4096) (s : State) :
    ∃ t_, execSkeinSend sid s = .next t_ ∧ Keeps 0x792a584 s t_ := by
  have h := Keeps.refl 0x792a584 s
  have hw := Sub.refl 0x792a584
  
  refine ⟨_, rfl, ?_⟩
  repeat' (first
    | with_reducible assumption
    | (intro t_; first | (with_reducible refine keeps_cut (w := w) (s := s0) (t := t_) ?_ ?_; intro ht_; rotate_left; dsimp -zeta only [t_]) | skip)
    | with_reducible apply State.when_keeps (Sub.trans rfl hw)
    | with_reducible apply State.record_keeps (Sub.trans rfl hw)
    | with_reducible apply State.reachSt_keeps (Sub.trans rfl hw)
    | with_reducible apply State.sendSkein_keeps (Sub.trans rfl hw)
    | dsimp only [id]
    | lift_lets
    | with_reducible refine keeps_ite ?_ ?_
    | split
    | (clear_value *; split))

theorem execGuardianCutoff_keeps (port : Sys2Proof.Port) (s : State) :
    ∃ t_, execGuardianCutoff port s = .next t_ ∧ Keeps 0x2100504 s t_ := by
  have h := Keeps.refl 0x2100504 s
  have hw := Sub.refl 0x2100504
  have b2 := Sub.bit (i := 2) hw rfl; have b8 := Sub.bit (i := 8) hw rfl; have b10 := Sub.bit (i := 10) hw rfl; have b20 := Sub.bit (i := 20) hw rfl; have b25 := Sub.bit (i := 25) hw rfl; 
  refine ⟨_, rfl, ?_⟩
  repeat' (first
    | with_reducible assumption
    | (intro t_; first | (with_reducible refine keeps_cut (w := w) (s := s0) (t := t_) ?_ ?_; intro ht_; rotate_left; dsimp -zeta only [t_]) | skip)
    | with_reducible apply State.when_keeps (Sub.trans rfl hw)
    | with_reducible apply State.pst_keeps (Sub.trans rfl hw)
    | with_reducible apply State.raise_keeps (Sub.trans rfl hw)
    | with_reducible apply State.count_keeps (Sub.trans rfl hw)
    | with_reducible apply State.emit_keeps (Sub.trans rfl hw)
    | dsimp only [id]
    | lift_lets
    | with_reducible refine keeps_ite ?_ ?_
    | split
    | (clear_value *; split)
    | with_reducible refine keeps_fst_ite ?_ ?_
    | (with_reducible refine keeps_of_eq (by assumption) ?_)
    | with_reducible refine keeps_upd ?_ (fun x => x) (fun x => x) (.inr rfl) (.inl b2) (.inr rfl) (.inr rfl) (.inr rfl) (.inr rfl) (.inl b8) (.inr rfl) (.inl b10) (.inr rfl) (.inr rfl) (.inr rfl) (.inr rfl) (.inr rfl) (.inr rfl) (.inr rfl) (.inr rfl) (.inr rfl) (.inl b20) (.inr rfl) (.inr rfl) (.inr rfl) (.inr rfl) (.inl b25) (.inr rfl))

theorem State.noteHeard_keeps {w : Nat} {s0 s : State} (hw : Sub 0x400 w) (h : Keeps w s0 s) (row : Sys2Proof.Word) (sid : Nat) :
    Keeps w s0 (State.noteHeard s row sid) := by
  have b10 := Sub.bit (i := 10) hw rfl
  unfold State.noteHeard
  repeat' (first
    | with_reducible assumption
    | (intro t_; first | (with_reducible refine keeps_cut (w := w) (s := s0) (t := t_) ?_ ?_; intro ht_; rotate_left; dsimp -zeta only [t_]) | skip)
    | lift_lets
    | with_reducible refine keeps_ite ?_ ?_
    | with_reducible refine keeps_fst_ite ?_ ?_
    | (with_reducible refine keeps_of_eq (by assumption) ?_)
    | with_reducible refine keeps_upd ?_ (fun x => x) (fun x => x) (.inr rfl) (.inr rfl) (.inr rfl) (.inr rfl) (.inr rfl) (.inr rfl) (.inr rfl) (.inr rfl) (.inl b10) (.inr rfl) (.inr rfl) (.inr rfl) (.inr rfl) (.inr rfl) (.inr rfl) (.inr rfl) (.inr rfl) (.inr rfl) (.inr rfl) (.inr rfl) (.inr rfl) (.inr rfl) (.inr rfl) (.inr rfl) (.inr rfl))

theorem State.needSeen_keeps {w : Nat} {s0 s : State} (hw : Sub 0x1000144 w) (h : Keeps w s0 s) (need : Bool) :
    Keeps w s0 (State.needSeen s need) := by
  unfold State.needSeen
  repeat' (first
    | with_reducible assumption
    | (intro t_; first | (with_reducible refine keeps_cut (w := w) (s := s0) (t := t_) ?_ ?_; intro ht_; rotate_left; dsimp -zeta only [t_]) | skip)
    | with_reducible apply State.boCancel_keeps (Sub.trans rfl hw)
    | with_reducible apply State.kaRestart_keeps (Sub.trans rfl hw)
    | lift_lets
    | with_reducible refine keeps_ite ?_ ?_)

theorem execSkeinRx_keeps (rx : Sys2Proof.Rx) (x_h : Sys2Proof.Hdr) (rtag : BitVec 16) (b : Sys2Proof.Skein) (s : State) :
    ∃ t_, execSkeinRx rx x_h rtag b s = .next t_ ∧ Keeps 0x792254c s t_ := by
  have h := Keeps.refl 0x792254c s
  have hw := Sub.refl 0x792254c
  
  refine ⟨_, rfl, ?_⟩
  repeat' (first
    | with_reducible assumption
    | (intro t_; first | (with_reducible refine keeps_cut (w := w) (s := s0) (t := t_) ?_ ?_; intro ht_; rotate_left; dsimp -zeta only [t_]) | skip)
    | with_reducible apply State.takeStitch_keeps (Sub.trans rfl hw)
    | with_reducible apply State.recoverOn_keeps (Sub.trans rfl hw)
    | with_reducible apply State.noteHeard_keeps (Sub.trans rfl hw)
    | with_reducible apply State.needSeen_keeps (Sub.trans rfl hw)
    | with_reducible apply State.unravel_keeps (Sub.trans rfl hw)
    | lift_lets
    | with_reducible refine keeps_ite ?_ ?_
    | split
    | (clear_value *; split)
    | with_reducible refine keeps_fst_ite ?_ ?_
    | (with_reducible refine keeps_of_eq (by assumption) ?_))

theorem execNullRx_keeps (rx : Sys2Proof.Rx) (x_h : Sys2Proof.Hdr) (rtag : BitVec 16) (b : Sys2Proof.NullBody) (s : State) :
    ∃ t_, execNullRx rx x_h rtag b s = .next t_ ∧ Keeps 0x692250c s t_ := by
  have h := Keeps.refl 0x692250c s
  have hw := Sub.refl 0x692250c
  
  refine ⟨_, rfl, ?_⟩
  repeat' (first
    | with_reducible assumption
    | (intro t_; first | (with_reducible refine keeps_cut (w := w) (s := s0) (t := t_) ?_ ?_; intro ht_; rotate_left; dsimp -zeta only [t_]) | skip)
    | with_reducible apply State.takeStitch_keeps (Sub.trans rfl hw)
    | with_reducible apply State.recoverOn_keeps (Sub.trans rfl hw)
    | with_reducible apply State.noteHeard_keeps (Sub.trans rfl hw)
    | with_reducible apply State.markStale_keeps (Sub.trans rfl hw)
    | with_reducible apply State.statBy_keeps (Sub.trans rfl hw)
    | with_reducible apply State.count_keeps (Sub.trans rfl hw)
    | lift_lets
    | with_reducible refine keeps_ite ?_ ?_
    | split
    | (clear_value *; split)
    | with_reducible refine keeps_fst_ite ?_ ?_
    | (with_reducible refine keeps_of_eq (by assumption) ?_))

theorem State.missStitch_keeps {w : Nat} {s0 s : State} (hw : Sub 0x10250c w) (h : Keeps w s0 s) (sid : Nat) (e : Sys2Proof.Machine.Stitch) :
    Keeps w s0 (State.missStitch s sid e) := by
  unfold State.missStitch
  repeat' (first
    | with_reducible assumption
    | (intro t_; first | (with_reducible refine keeps_cut (w := w) (s := s0) (t := t_) ?_ ?_; intro ht_; rotate_left; dsimp -zeta only [t_]) | skip)
    | with_reducible apply State.each_keeps (Sub.trans rfl hw)
    | with_reducible apply State.statBy_keeps (Sub.trans rfl hw)
    | with_reducible apply State.count_keeps (Sub.trans rfl hw)
    | with_reducible apply State.noteHeard_keeps (Sub.trans rfl hw)
    | with_reducible apply State.markStale_keeps (Sub.trans rfl hw)
    | lift_lets
    | with_reducible refine keeps_ite ?_ ?_)

theorem execSkeinMiss_keeps (sid : Fin 4096) (s : State) :
    ∃ t_, execSkeinMiss sid s = .next t_ ∧ Keeps 0x310258c s t_ := by
  have h := Keeps.refl 0x310258c s
  have hw := Sub.refl 0x310258c
  
  refine ⟨_, rfl, ?_⟩
  repeat' (first
    | with_reducible assumption
    | (intro t_; first | (with_reducible refine keeps_cut (w := w) (s := s0) (t := t_) ?_ ?_; intro ht_; rotate_left; dsimp -zeta only [t_]) | skip)
    | with_reducible apply State.when_keeps (Sub.trans rfl hw)
    | with_reducible apply State.reachSt_keeps (Sub.trans rfl hw)
    | with_reducible apply State.missStitch_keeps (Sub.trans rfl hw)
    | dsimp only [id]
    | lift_lets
    | with_reducible refine keeps_ite ?_ ?_
    | split
    | (clear_value *; split))

end Sys2Proof.Machine
end

