-- ==== Sys2Proof/Laws/Buffer.lean ====
section
/-! SUPPORT. What the functions of Machine/Buffer.lean keep, one lemma for each. -/

namespace Sys2Proof.Machine

theorem State.deferWrite_keeps {w : Nat} {s0 s : State} (hw : Sub 0x30004 w) (h : Keeps w s0 s) (a : Nat) (v : Sys2Proof.Word) :
    Keeps w s0 (State.deferWrite s a v) := by
  have b2 := Sub.bit (i := 2) hw rfl; have b16 := Sub.bit (i := 16) hw rfl; have b17 := Sub.bit (i := 17) hw rfl
  unfold State.deferWrite
  repeat' (first
    | with_reducible assumption
    | (intro t_; first | (with_reducible refine keeps_cut (w := w) (s := s0) (t := t_) ?_ ?_; intro ht_; rotate_left; dsimp -zeta only [t_]) | skip)
    | with_reducible apply State.each_keeps (Sub.trans rfl hw)
    | with_reducible apply State.fillNow_keeps (Sub.trans rfl hw)
    | with_reducible apply State.wr_keeps (Sub.trans rfl hw)
    | lift_lets
    | with_reducible refine keeps_ite ?_ ?_
    | with_reducible refine keeps_fst_ite ?_ ?_
    | (with_reducible refine keeps_of_eq (by assumption) ?_)
    | with_reducible refine keeps_upd ?_ (fun x => x) (fun x => x) (.inr rfl) (.inl b2) (.inr rfl) (.inr rfl) (.inr rfl) (.inr rfl) (.inr rfl) (.inr rfl) (.inr rfl) (.inr rfl) (.inr rfl) (.inr rfl) (.inr rfl) (.inr rfl) (.inl b16) (.inl b17) (.inr rfl) (.inr rfl) (.inr rfl) (.inr rfl) (.inr rfl) (.inr rfl) (.inr rfl) (.inr rfl) (.inr rfl))

theorem State.keepCrd_keeps {w : Nat} {s0 s : State} (hw : Sub 0x20000 w) (h : Keeps w s0 s) (d : Nat) :
    Keeps w s0 (State.keepCrd s d) := by
  have b17 := Sub.bit (i := 17) hw rfl
  unfold State.keepCrd
  repeat' (first
    | with_reducible assumption
    | (intro t_; first | (with_reducible refine keeps_cut (w := w) (s := s0) (t := t_) ?_ ?_; intro ht_; rotate_left; dsimp -zeta only [t_]) | skip)
    | lift_lets
    | with_reducible refine keeps_ite ?_ ?_
    | with_reducible refine keeps_upd ?_ (fun x => x) (fun x => x) (.inr rfl) (.inr rfl) (.inr rfl) (.inr rfl) (.inr rfl) (.inr rfl) (.inr rfl) (.inr rfl) (.inr rfl) (.inr rfl) (.inr rfl) (.inr rfl) (.inr rfl) (.inr rfl) (.inr rfl) (.inl b17) (.inr rfl) (.inr rfl) (.inr rfl) (.inr rfl) (.inr rfl) (.inr rfl) (.inr rfl) (.inr rfl) (.inr rfl))

theorem State.evalBuf_keeps {w : Nat} {s0 s : State} (hw : Sub 0x104 w) (h : Keeps w s0 s) (d : Nat) :
    Keeps w s0 (State.evalBuf s d) := by
  unfold State.evalBuf
  repeat' (first
    | with_reducible assumption
    | (intro t_; first | (with_reducible refine keeps_cut (w := w) (s := s0) (t := t_) ?_ ?_; intro ht_; rotate_left; dsimp -zeta only [t_]) | skip)
    | with_reducible apply State.wr_keeps (Sub.trans rfl hw)
    | with_reducible apply State.raise_keeps (Sub.trans rfl hw)
    | lift_lets
    | with_reducible refine keeps_ite ?_ ?_)

theorem State.evalQueues_keeps {w : Nat} {s0 s : State} (hw : Sub 0x4 w) (h : Keeps w s0 s) (p : Nat) :
    Keeps w s0 (State.evalQueues s p) := by
  unfold State.evalQueues
  repeat' (first
    | with_reducible assumption
    | (intro t_; first | (with_reducible refine keeps_cut (w := w) (s := s0) (t := t_) ?_ ?_; intro ht_; rotate_left; dsimp -zeta only [t_]) | skip)
    | with_reducible apply State.each_keeps (Sub.trans rfl hw)
    | with_reducible apply State.wrF_keeps (Sub.trans rfl hw)
    | lift_lets
    | with_reducible refine keeps_ite ?_ ?_)

theorem State.evalPort_keeps {w : Nat} {s0 s : State} (hw : Sub 0x104 w) (h : Keeps w s0 s) (p : Nat) :
    Keeps w s0 (State.evalPort s p) := by
  unfold State.evalPort
  repeat' (first
    | with_reducible assumption
    | (intro t_; first | (with_reducible refine keeps_cut (w := w) (s := s0) (t := t_) ?_ ?_; intro ht_; rotate_left; dsimp -zeta only [t_]) | skip)
    | with_reducible apply State.evalBuf_keeps (Sub.trans rfl hw)
    | with_reducible apply State.evalQueues_keeps (Sub.trans rfl hw)
    | lift_lets
    | with_reducible refine keeps_ite ?_ ?_)

theorem State.evalPfc_keeps {w : Nat} {s0 s : State} (hw : Sub 0x6920104 w) (h : Keeps w s0 s) (p : Nat) (prio : Nat) :
    Keeps w s0 (State.evalPfc s p prio) := by
  unfold State.evalPfc
  repeat' (first
    | with_reducible assumption
    | (intro t_; first | (with_reducible refine keeps_cut (w := w) (s := s0) (t := t_) ?_ ?_; intro ht_; rotate_left; dsimp -zeta only [t_]) | skip)
    | with_reducible apply State.sendPort_keeps (Sub.trans rfl hw)
    | with_reducible apply State.pst_keeps (Sub.trans rfl hw)
    | with_reducible apply State.count_keeps (Sub.trans rfl hw)
    | with_reducible apply State.wrB_keeps (Sub.trans rfl hw)
    | lift_lets
    | with_reducible refine keeps_ite ?_ ?_)

theorem State.enqueue_keeps {w : Nat} {s0 s : State} (hw : Sub 0x20000 w) (h : Keeps w s0 s) (e : Sys2Proof.Machine.QEnt) :
    Keeps w s0 (State.enqueue s e) := by
  have b17 := Sub.bit (i := 17) hw rfl
  unfold State.enqueue
  repeat' (first
    | with_reducible assumption
    | (intro t_; first | (with_reducible refine keeps_cut (w := w) (s := s0) (t := t_) ?_ ?_; intro ht_; rotate_left; dsimp -zeta only [t_]) | skip)
    | lift_lets
    | with_reducible refine keeps_ite ?_ ?_
    | with_reducible refine keeps_upd ?_ (fun x => x) (fun x => x) (.inr rfl) (.inr rfl) (.inr rfl) (.inr rfl) (.inr rfl) (.inr rfl) (.inr rfl) (.inr rfl) (.inr rfl) (.inr rfl) (.inr rfl) (.inr rfl) (.inr rfl) (.inr rfl) (.inr rfl) (.inl b17) (.inr rfl) (.inr rfl) (.inr rfl) (.inr rfl) (.inr rfl) (.inr rfl) (.inr rfl) (.inr rfl) (.inr rfl))

theorem State.tailDrop_keeps {w : Nat} {s0 s : State} (hw : Sub 0x100104 w) (h : Keeps w s0 s) (p : Nat) :
    Keeps w s0 (State.tailDrop s p) := by
  unfold State.tailDrop
  repeat' (first
    | with_reducible assumption
    | (intro t_; first | (with_reducible refine keeps_cut (w := w) (s := s0) (t := t_) ?_ ?_; intro ht_; rotate_left; dsimp -zeta only [t_]) | skip)
    | with_reducible apply State.raise_keeps (Sub.trans rfl hw)
    | with_reducible apply State.pst_keeps (Sub.trans rfl hw)
    | with_reducible apply State.count_keeps (Sub.trans rfl hw)
    | lift_lets
    | with_reducible refine keeps_ite ?_ ?_)

theorem State.noCell_keeps {w : Nat} {s0 s : State} (hw : Sub 0x104 w) (h : Keeps w s0 s) (d : Nat) :
    Keeps w s0 (State.noCell s d) := by
  unfold State.noCell
  repeat' (first
    | with_reducible assumption
    | (intro t_; first | (with_reducible refine keeps_cut (w := w) (s := s0) (t := t_) ?_ ?_; intro ht_; rotate_left; dsimp -zeta only [t_]) | skip)
    | with_reducible apply State.raise_keeps (Sub.trans rfl hw)
    | with_reducible apply State.count_keeps (Sub.trans rfl hw)
    | lift_lets
    | with_reducible refine keeps_ite ?_ ?_)

theorem State.takeIn_keeps {w : Nat} {s0 s : State} (hw : Sub 0x6920104 w) (h : Keeps w s0 s) (f : Nat) (e : Sys2Proof.Machine.QEnt) :
    Keeps w s0 (State.takeIn s f e) := by
  unfold State.takeIn
  repeat' (first
    | with_reducible assumption
    | (intro t_; first | (with_reducible refine keeps_cut (w := w) (s := s0) (t := t_) ?_ ?_; intro ht_; rotate_left; dsimp -zeta only [t_]) | skip)
    | with_reducible apply State.askShared_keeps (Sub.trans rfl hw)
    | with_reducible apply State.evalPfc_keeps (Sub.trans rfl hw)
    | with_reducible apply State.evalPort_keeps (Sub.trans rfl hw)
    | with_reducible apply State.enqueue_keeps (Sub.trans rfl hw)
    | with_reducible apply State.raise_keeps (Sub.trans rfl hw)
    | with_reducible apply State.pst_keeps (Sub.trans rfl hw)
    | with_reducible apply State.count_keeps (Sub.trans rfl hw)
    | with_reducible apply State.noCell_keeps (Sub.trans rfl hw)
    | with_reducible apply State.tailDrop_keeps (Sub.trans rfl hw)
    | lift_lets
    | with_reducible refine keeps_ite ?_ ?_
    | split
    | (clear_value *; split)
    | with_reducible refine keeps_fst_ite ?_ ?_
    | (with_reducible refine keeps_of_eq (by assumption) ?_))

theorem State.reserveWrite_keeps {w : Nat} {s0 s : State} (hw : Sub 0x30104 w) (h : Keeps w s0 s) (a : Nat) (v : Sys2Proof.Word) :
    Keeps w s0 (State.reserveWrite s a v) := by
  unfold State.reserveWrite
  repeat' (first
    | with_reducible assumption
    | (intro t_; first | (with_reducible refine keeps_cut (w := w) (s := s0) (t := t_) ?_ ?_; intro ht_; rotate_left; dsimp -zeta only [t_]) | skip)
    | with_reducible apply State.raise_keeps (Sub.trans rfl hw)
    | with_reducible apply State.evalBuf_keeps (Sub.trans rfl hw)
    | with_reducible apply State.deferWrite_keeps (Sub.trans rfl hw)
    | lift_lets
    | with_reducible refine keeps_ite ?_ ?_)

theorem execReserveWrite_keeps (addr : Nat) (value : Sys2Proof.Word) (s : State) :
    ∃ t_, execReserveWrite addr value s = .next t_ ∧ Keeps 0x330104 s t_ := by
  have h := Keeps.refl 0x330104 s
  have hw := Sub.refl 0x330104
  
  refine ⟨_, rfl, ?_⟩
  repeat' (first
    | with_reducible assumption
    | (intro t_; first | (with_reducible refine keeps_cut (w := w) (s := s0) (t := t_) ?_ ?_; intro ht_; rotate_left; dsimp -zeta only [t_]) | skip)
    | with_reducible apply State.guarded_keeps (Sub.trans rfl hw)
    | with_reducible apply State.reserveWrite_keeps (Sub.trans rfl hw)
    | dsimp only [id]
    | lift_lets
    | with_reducible refine keeps_ite ?_ ?_)

theorem State.readWatermark_keeps {w : Nat} {s0 s : State} (hw : Sub 0x4020004 w) (h : Keeps w s0 s) (a : Nat) :
    Keeps w s0 (State.readWatermark s a) := by
  have b2 := Sub.bit (i := 2) hw rfl; have b17 := Sub.bit (i := 17) hw rfl; have b26 := Sub.bit (i := 26) hw rfl
  unfold State.readWatermark
  repeat' (first
    | with_reducible assumption
    | (intro t_; first | (with_reducible refine keeps_cut (w := w) (s := s0) (t := t_) ?_ ?_; intro ht_; rotate_left; dsimp -zeta only [t_]) | skip)
    | with_reducible apply State.wr_keeps (Sub.trans rfl hw)
    | with_reducible apply State.useFree_keeps (Sub.trans rfl hw)
    | lift_lets
    | with_reducible refine keeps_ite ?_ ?_
    | with_reducible refine keeps_upd ?_ (fun x => x) (fun x => x) (.inr rfl) (.inl b2) (.inr rfl) (.inr rfl) (.inr rfl) (.inr rfl) (.inr rfl) (.inr rfl) (.inr rfl) (.inr rfl) (.inr rfl) (.inr rfl) (.inr rfl) (.inr rfl) (.inr rfl) (.inl b17) (.inr rfl) (.inr rfl) (.inr rfl) (.inr rfl) (.inr rfl) (.inr rfl) (.inr rfl) (.inr rfl) (.inl b26))

theorem execWatermarkRead_keeps (addr : Nat) (s : State) :
    ∃ t_, execWatermarkRead addr s = .next t_ ∧ Keeps 0x6320104 s t_ := by
  have h := Keeps.refl 0x6320104 s
  have hw := Sub.refl 0x6320104
  
  refine ⟨_, rfl, ?_⟩
  repeat' (first
    | with_reducible assumption
    | (intro t_; first | (with_reducible refine keeps_cut (w := w) (s := s0) (t := t_) ?_ ?_; intro ht_; rotate_left; dsimp -zeta only [t_]) | skip)
    | with_reducible apply State.when_keeps (Sub.trans rfl hw)
    | with_reducible apply State.evalBuf_keeps (Sub.trans rfl hw)
    | with_reducible apply State.readWatermark_keeps (Sub.trans rfl hw)
    | with_reducible apply State.emit_keeps (Sub.trans rfl hw)
    | with_reducible apply State.access_keeps (Sub.trans rfl hw)
    | dsimp only [id]
    | lift_lets
    | with_reducible refine keeps_ite ?_ ?_)

end Sys2Proof.Machine
end

