-- ==== Sys2Proof/Laws/Forward.lean ====
section
/-! SUPPORT. What the functions of Machine/Forward.lean keep, one lemma for each. -/

namespace Sys2Proof.Machine

theorem State.queueAs_keeps {w : Nat} {s0 s : State} (hw : Sub 0x6920104 w) (h : Keeps w s0 s) (f : Sys2Proof.Machine.Flow) (id : Nat) (free : Nat) (p : Nat) (e : Sys2Proof.Eth) :
    Keeps w s0 (State.queueAs s f id free p e) := by
  unfold State.queueAs
  repeat' (first
    | with_reducible assumption
    | (intro t_; first | (with_reducible refine keeps_cut (w := w) (s := s0) (t := t_) ?_ ?_; intro ht_; rotate_left; dsimp -zeta only [t_]) | skip)
    | with_reducible apply State.takeIn_keeps (Sub.trans rfl hw)
    | lift_lets
    | with_reducible refine keeps_ite ?_ ?_)

theorem State.newGroup_keeps {w : Nat} {s0 s : State} (hw : Sub 0x20000 w) (h : Keeps w s0 s) :
    Keeps w s0 (State.newGroup s) := by
  have b17 := Sub.bit (i := 17) hw rfl
  unfold State.newGroup
  repeat' (first
    | with_reducible assumption
    | (intro t_; first | (with_reducible refine keeps_cut (w := w) (s := s0) (t := t_) ?_ ?_; intro ht_; rotate_left; dsimp -zeta only [t_]) | skip)
    | lift_lets
    | with_reducible refine keeps_ite ?_ ?_
    | with_reducible refine keeps_upd ?_ (fun x => x) (fun x => x) (.inr rfl) (.inr rfl) (.inr rfl) (.inr rfl) (.inr rfl) (.inr rfl) (.inr rfl) (.inr rfl) (.inr rfl) (.inr rfl) (.inr rfl) (.inr rfl) (.inr rfl) (.inr rfl) (.inr rfl) (.inl b17) (.inr rfl) (.inr rfl) (.inr rfl) (.inr rfl) (.inr rfl) (.inr rfl) (.inr rfl) (.inr rfl) (.inr rfl))

theorem State.queueOne_keeps {w : Nat} {s0 s : State} (hw : Sub 0x6920104 w) (h : Keeps w s0 s) (f : Sys2Proof.Machine.Flow) (p : Nat) (e : Sys2Proof.Eth) :
    Keeps w s0 (State.queueOne s f p e) := by
  unfold State.queueOne
  repeat' (first
    | with_reducible assumption
    | (intro t_; first | (with_reducible refine keeps_cut (w := w) (s := s0) (t := t_) ?_ ?_; intro ht_; rotate_left; dsimp -zeta only [t_]) | skip)
    | with_reducible apply State.newGroup_keeps (Sub.trans rfl hw)
    | with_reducible apply State.queueAs_keeps (Sub.trans rfl hw)
    | lift_lets
    | with_reducible refine keeps_ite ?_ ?_)

theorem State.turnDrop_keeps {w : Nat} {s0 s : State} (hw : Sub 0x4 w) (h : Keeps w s0 s) (p : Nat) :
    Keeps w s0 (State.turnDrop s p) := by
  unfold State.turnDrop
  repeat' (first
    | with_reducible assumption
    | (intro t_; first | (with_reducible refine keeps_cut (w := w) (s := s0) (t := t_) ?_ ?_; intro ht_; rotate_left; dsimp -zeta only [t_]) | skip)
    | with_reducible apply State.count_keeps (Sub.trans rfl hw)
    | lift_lets
    | with_reducible refine keeps_ite ?_ ?_)

theorem State.leaveBackbone_keeps {w : Nat} {s0 s : State} (hw : Sub 0x6920104 w) (h : Keeps w s0 s) (f : Sys2Proof.Machine.Flow) (p : Nat) (e : Sys2Proof.Eth) :
    Keeps w s0 (State.leaveBackbone s f p e) := by
  unfold State.leaveBackbone
  repeat' (first
    | with_reducible assumption
    | (intro t_; first | (with_reducible refine keeps_cut (w := w) (s := s0) (t := t_) ?_ ?_; intro ht_; rotate_left; dsimp -zeta only [t_]) | skip)
    | with_reducible apply State.queueOne_keeps (Sub.trans rfl hw)
    | with_reducible apply State.turnDrop_keeps (Sub.trans rfl hw)
    | with_reducible apply State.count_keeps (Sub.trans rfl hw)
    | lift_lets
    | with_reducible refine keeps_ite ?_ ?_
    | split
    | (clear_value *; split))

theorem State.floodBackbone_keeps {w : Nat} {s0 s : State} (hw : Sub 0x6920104 w) (h : Keeps w s0 s) (f : Sys2Proof.Machine.Flow) (id : Nat) (free : Nat) (p : Nat) :
    Keeps w s0 (State.floodBackbone s f id free p) := by
  unfold State.floodBackbone
  repeat' (first
    | with_reducible assumption
    | (intro t_; first | (with_reducible refine keeps_cut (w := w) (s := s0) (t := t_) ?_ ?_; intro ht_; rotate_left; dsimp -zeta only [t_]) | skip)
    | with_reducible apply State.queueAs_keeps (Sub.trans rfl hw)
    | with_reducible apply State.count_keeps (Sub.trans rfl hw)
    | lift_lets
    | with_reducible refine keeps_ite ?_ ?_)

theorem State.flood_keeps {w : Nat} {s0 s : State} (hw : Sub 0x6920104 w) (h : Keeps w s0 s) (f : Sys2Proof.Machine.Flow) :
    Keeps w s0 (State.flood s f) := by
  unfold State.flood
  repeat' (first
    | with_reducible assumption
    | (intro t_; first | (with_reducible refine keeps_cut (w := w) (s := s0) (t := t_) ?_ ?_; intro ht_; rotate_left; dsimp -zeta only [t_]) | skip)
    | with_reducible apply State.count_keeps (Sub.trans rfl hw)
    | with_reducible apply State.each_keeps (Sub.trans rfl hw)
    | with_reducible apply State.queueAs_keeps (Sub.trans rfl hw)
    | with_reducible apply State.newGroup_keeps (Sub.trans rfl hw)
    | with_reducible apply State.floodBackbone_keeps (Sub.trans rfl hw)
    | lift_lets
    | with_reducible refine keeps_ite ?_ ?_)

theorem State.dirLookup_keeps {w : Nat} {s0 s : State} (hw : Sub 0x4 w) (h : Keeps w s0 s) (d : Nat) (k : Sys2Proof.Machine.DirKey) :
    Keeps w s0 (State.dirLookup s d k).1 := by
  unfold State.dirLookup
  repeat' (first
    | with_reducible assumption
    | (intro t_; first | (with_reducible refine keeps_cut (w := w) (s := s0) (t := t_) ?_ ?_; intro ht_; rotate_left; dsimp -zeta only [t_]) | skip)
    | with_reducible apply State.count_keeps (Sub.trans rfl hw)
    | lift_lets
    | with_reducible refine keeps_ite ?_ ?_
    | split
    | (clear_value *; split)
    | with_reducible refine keeps_fst_ite ?_ ?_
    | (with_reducible refine keeps_of_eq (by assumption) ?_)
    | dsimp -zeta only)

theorem State.learnOn_keeps {w : Nat} {s0 s : State} (hw : Sub 0x2800c w) (h : Keeps w s0 s) (k : Sys2Proof.Machine.DirKey) (p : Nat) (d : Nat) :
    Keeps w s0 (State.learnOn s k p d) := by
  unfold State.learnOn
  repeat' (first
    | with_reducible assumption
    | (intro t_; first | (with_reducible refine keeps_cut (w := w) (s := s0) (t := t_) ?_ ?_; intro ht_; rotate_left; dsimp -zeta only [t_]) | skip)
    | with_reducible apply State.evalTables_keeps (Sub.trans rfl hw)
    | with_reducible apply State.ageFrom_keeps (Sub.trans rfl hw)
    | with_reducible apply State.noteEnt_keeps (Sub.trans rfl hw)
    | with_reducible apply State.dirWrite_keeps (Sub.trans rfl hw)
    | with_reducible apply State.count_keeps (Sub.trans rfl hw)
    | lift_lets
    | with_reducible refine keeps_ite ?_ ?_
    | split
    | (clear_value *; split))

theorem State.learn_keeps {w : Nat} {s0 s : State} (hw : Sub 0x2800c w) (h : Keeps w s0 s) (p : Nat) (vid : Nat) (sa : Sys2Proof.Mac) :
    Keeps w s0 (State.learn s p vid sa) := by
  unfold State.learn
  repeat' (first
    | with_reducible assumption
    | (intro t_; first | (with_reducible refine keeps_cut (w := w) (s := s0) (t := t_) ?_ ?_; intro ht_; rotate_left; dsimp -zeta only [t_]) | skip)
    | with_reducible apply State.each_keeps (Sub.trans rfl hw)
    | with_reducible apply State.ageFrom_keeps (Sub.trans rfl hw)
    | with_reducible apply State.setTwF_keeps (Sub.trans rfl hw)
    | with_reducible apply State.learnOn_keeps (Sub.trans rfl hw)
    | lift_lets
    | with_reducible refine keeps_ite ?_ ?_
    | split
    | (clear_value *; split))

theorem State.xltLookup_keeps {w : Nat} {s0 s : State} (hw : Sub 0x4 w) (h : Keeps w s0 s) (d : Nat) (k : Nat) (a : Sys2Proof.Word) :
    Keeps w s0 (State.xltLookup s d k a).1 := by
  unfold State.xltLookup
  repeat' (first
    | with_reducible assumption
    | (intro t_; first | (with_reducible refine keeps_cut (w := w) (s := s0) (t := t_) ?_ ?_; intro ht_; rotate_left; dsimp -zeta only [t_]) | skip)
    | with_reducible apply State.count_keeps (Sub.trans rfl hw)
    | lift_lets
    | with_reducible refine keeps_ite ?_ ?_
    | split
    | (clear_value *; split)
    | with_reducible refine keeps_fst_ite ?_ ?_
    | (with_reducible refine keeps_of_eq (by assumption) ?_)
    | dsimp -zeta only)

theorem State.translate_keeps {w : Nat} {s0 s : State} (hw : Sub 0x4 w) (h : Keeps w s0 s) (d : Nat) (k : Nat) (a : Sys2Proof.Word) :
    Keeps w s0 (State.translate s d k a).1 := by
  unfold State.translate
  repeat' (first
    | with_reducible assumption
    | (intro t_; first | (with_reducible refine keeps_cut (w := w) (s := s0) (t := t_) ?_ ?_; intro ht_; rotate_left; dsimp -zeta only [t_]) | skip)
    | with_reducible apply State.xltLookup_keeps (Sub.trans rfl hw)
    | with_reducible apply State.count_keeps (Sub.trans rfl hw)
    | lift_lets
    | with_reducible refine keeps_ite ?_ ?_
    | split
    | (clear_value *; split)
    | with_reducible refine keeps_fst_ite ?_ ?_
    | (with_reducible refine keeps_of_eq (by assumption) ?_)
    | dsimp -zeta only)

theorem State.toHost_keeps {w : Nat} {s0 s : State} (hw : Sub 0x20000 w) (h : Keeps w s0 s) (f : Sys2Proof.Machine.Flow) (r : Sys2Proof.RxReason) :
    Keeps w s0 (State.toHost s f r) := by
  have b17 := Sub.bit (i := 17) hw rfl
  unfold State.toHost
  repeat' (first
    | with_reducible assumption
    | (intro t_; first | (with_reducible refine keeps_cut (w := w) (s := s0) (t := t_) ?_ ?_; intro ht_; rotate_left; dsimp -zeta only [t_]) | skip)
    | lift_lets
    | with_reducible refine keeps_ite ?_ ?_
    | with_reducible refine keeps_upd ?_ (fun x => x) (fun x => x) (.inr rfl) (.inr rfl) (.inr rfl) (.inr rfl) (.inr rfl) (.inr rfl) (.inr rfl) (.inr rfl) (.inr rfl) (.inr rfl) (.inr rfl) (.inr rfl) (.inr rfl) (.inr rfl) (.inr rfl) (.inl b17) (.inr rfl) (.inr rfl) (.inr rfl) (.inr rfl) (.inr rfl) (.inr rfl) (.inr rfl) (.inr rfl) (.inr rfl))

theorem State.routeArp_keeps {w : Nat} {s0 s : State} (hw : Sub 0x6920104 w) (h : Keeps w s0 s) (f : Sys2Proof.Machine.Flow) (p : Nat) (vid : Nat) (ip : Sys2Proof.Ip) (y5 : Option Nat) :
    Keeps w s0 (State.routeArp s f p vid ip y5) := by
  unfold State.routeArp
  repeat' (first
    | with_reducible assumption
    | (intro t_; first | (with_reducible refine keeps_cut (w := w) (s := s0) (t := t_) ?_ ?_; intro ht_; rotate_left; dsimp -zeta only [t_]) | skip)
    | with_reducible apply State.toHost_keeps (Sub.trans rfl hw)
    | with_reducible apply State.raise_keeps (Sub.trans rfl hw)
    | with_reducible apply State.count_keeps (Sub.trans rfl hw)
    | with_reducible apply State.queueOne_keeps (Sub.trans rfl hw)
    | lift_lets
    | with_reducible refine keeps_ite ?_ ?_
    | split
    | (clear_value *; split))

theorem State.routeLocal_keeps {w : Nat} {s0 s : State} (hw : Sub 0x6920104 w) (h : Keeps w s0 s) (f : Sys2Proof.Machine.Flow) (p : Nat) (vid : Nat) (ip : Sys2Proof.Ip) :
    Keeps w s0 (State.routeLocal s f p vid ip) := by
  unfold State.routeLocal
  repeat' (first
    | with_reducible assumption
    | (intro t_; first | (with_reducible refine keeps_cut (w := w) (s := s0) (t := t_) ?_ ?_; intro ht_; rotate_left; dsimp -zeta only [t_]) | skip)
    | with_reducible apply State.routeArp_keeps (Sub.trans rfl hw)
    | lift_lets
    | with_reducible refine keeps_ite ?_ ?_)

theorem State.routeRemote_keeps {w : Nat} {s0 s : State} (hw : Sub 0x6920104 w) (h : Keeps w s0 s) (f : Sys2Proof.Machine.Flow) (n : Nat) (line : Nat) (side : Nat) (ip : Sys2Proof.Ip) :
    Keeps w s0 (State.routeRemote s f n line side ip) := by
  unfold State.routeRemote
  repeat' (first
    | with_reducible assumption
    | (intro t_; first | (with_reducible refine keeps_cut (w := w) (s := s0) (t := t_) ?_ ?_; intro ht_; rotate_left; dsimp -zeta only [t_]) | skip)
    | with_reducible apply State.leaveBackbone_keeps (Sub.trans rfl hw)
    | lift_lets
    | with_reducible refine keeps_ite ?_ ?_
    | split
    | (clear_value *; split))

theorem State.routeTo_keeps {w : Nat} {s0 t : State} (hw : Sub 0x6920104 w) (h : Keeps w s0 t) (f : Sys2Proof.Machine.Flow) (fromConsist : Bool) (vid : Nat) (ip : Sys2Proof.Ip) (y5 : Option Sys2Proof.Machine.Dest) :
    Keeps w s0 (State.routeTo t f fromConsist vid ip y5) := by
  unfold State.routeTo
  repeat' (first
    | with_reducible assumption
    | (intro t_; first | (with_reducible refine keeps_cut (w := w) (s := s0) (t := t_) ?_ ?_; intro ht_; rotate_left; dsimp -zeta only [t_]) | skip)
    | with_reducible apply State.count_keeps (Sub.trans rfl hw)
    | with_reducible apply State.toHost_keeps (Sub.trans rfl hw)
    | with_reducible apply State.routeLocal_keeps (Sub.trans rfl hw)
    | with_reducible apply State.routeRemote_keeps (Sub.trans rfl hw)
    | lift_lets
    | with_reducible refine keeps_ite ?_ ?_
    | split
    | (clear_value *; split))

theorem State.routeOn_keeps {w : Nat} {s0 s : State} (hw : Sub 0x6920104 w) (h : Keeps w s0 s) (f : Sys2Proof.Machine.Flow) (fromConsist : Bool) (key : Sys2Proof.Word) (vid : Nat) (ip : Sys2Proof.Ip) :
    Keeps w s0 (State.routeOn s f fromConsist key vid ip) := by
  unfold State.routeOn
  repeat' (first
    | with_reducible assumption
    | (intro t_; first | (with_reducible refine keeps_cut (w := w) (s := s0) (t := t_) ?_ ?_; intro ht_; rotate_left; dsimp -zeta only [t_]) | skip)
    | with_reducible apply State.dirLookup_keeps (Sub.trans rfl hw)
    | with_reducible apply State.routeTo_keeps (Sub.trans rfl hw)
    | lift_lets
    | with_reducible refine keeps_ite ?_ ?_
    | with_reducible refine keeps_fst_ite ?_ ?_
    | (with_reducible refine keeps_of_eq (by assumption) ?_))

theorem State.route_keeps {w : Nat} {s0 s : State} (hw : Sub 0x6920104 w) (h : Keeps w s0 s) (f : Sys2Proof.Machine.Flow) :
    Keeps w s0 (State.route s f) := by
  unfold State.route
  repeat' (first
    | with_reducible assumption
    | (intro t_; first | (with_reducible refine keeps_cut (w := w) (s := s0) (t := t_) ?_ ?_; intro ht_; rotate_left; dsimp -zeta only [t_]) | skip)
    | with_reducible apply State.toHost_keeps (Sub.trans rfl hw)
    | with_reducible apply State.count_keeps (Sub.trans rfl hw)
    | with_reducible apply State.translate_keeps (Sub.trans rfl hw)
    | with_reducible apply State.routeOn_keeps (Sub.trans rfl hw)
    | lift_lets
    | with_reducible refine keeps_ite ?_ ?_
    | split
    | (clear_value *; split)
    | with_reducible refine keeps_fst_ite ?_ ?_
    | (with_reducible refine keeps_of_eq (by assumption) ?_))

theorem State.bridge_keeps {w : Nat} {s0 s : State} (hw : Sub 0x6920104 w) (h : Keeps w s0 s) (f : Sys2Proof.Machine.Flow) :
    Keeps w s0 (State.bridge s f) := by
  unfold State.bridge
  repeat' (first
    | with_reducible assumption
    | (intro t_; first | (with_reducible refine keeps_cut (w := w) (s := s0) (t := t_) ?_ ?_; intro ht_; rotate_left; dsimp -zeta only [t_]) | skip)
    | with_reducible apply State.flood_keeps (Sub.trans rfl hw)
    | with_reducible apply State.dirLookup_keeps (Sub.trans rfl hw)
    | with_reducible apply State.queueOne_keeps (Sub.trans rfl hw)
    | with_reducible apply State.leaveBackbone_keeps (Sub.trans rfl hw)
    | lift_lets
    | with_reducible refine keeps_ite ?_ ?_
    | split
    | (clear_value *; split)
    | with_reducible refine keeps_fst_ite ?_ ?_
    | (with_reducible refine keeps_of_eq (by assumption) ?_))

theorem State.routeOr_keeps {w : Nat} {s0 s : State} (hw : Sub 0x6920104 w) (h : Keeps w s0 s) (f : Sys2Proof.Machine.Flow) :
    Keeps w s0 (State.routeOr s f) := by
  unfold State.routeOr
  repeat' (first
    | with_reducible assumption
    | (intro t_; first | (with_reducible refine keeps_cut (w := w) (s := s0) (t := t_) ?_ ?_; intro ht_; rotate_left; dsimp -zeta only [t_]) | skip)
    | with_reducible apply State.leaveBackbone_keeps (Sub.trans rfl hw)
    | with_reducible apply State.route_keeps (Sub.trans rfl hw)
    | lift_lets
    | with_reducible refine keeps_ite ?_ ?_
    | split
    | (clear_value *; split))

theorem State.forward_keeps {w : Nat} {s0 s : State} (hw : Sub 0x6920104 w) (h : Keeps w s0 s) (f : Sys2Proof.Machine.Flow) :
    Keeps w s0 (State.forward s f) := by
  unfold State.forward
  repeat' (first
    | with_reducible assumption
    | (intro t_; first | (with_reducible refine keeps_cut (w := w) (s := s0) (t := t_) ?_ ?_; intro ht_; rotate_left; dsimp -zeta only [t_]) | skip)
    | with_reducible apply State.toHost_keeps (Sub.trans rfl hw)
    | with_reducible apply State.routeOr_keeps (Sub.trans rfl hw)
    | with_reducible apply State.bridge_keeps (Sub.trans rfl hw)
    | lift_lets
    | with_reducible refine keeps_ite ?_ ?_)

theorem State.beIngress_keeps {w : Nat} {s0 s : State} (hw : Sub 0x692810c w) (h : Keeps w s0 s) (rx : Sys2Proof.Rx) (e : Sys2Proof.Eth) :
    Keeps w s0 (State.beIngress s rx e) := by
  unfold State.beIngress
  repeat' (first
    | with_reducible assumption
    | (intro t_; first | (with_reducible refine keeps_cut (w := w) (s := s0) (t := t_) ?_ ?_; intro ht_; rotate_left; dsimp -zeta only [t_]) | skip)
    | with_reducible apply State.pst_keeps (Sub.trans rfl hw)
    | with_reducible apply State.count_keeps (Sub.trans rfl hw)
    | with_reducible apply State.forward_keeps (Sub.trans rfl hw)
    | with_reducible apply State.learn_keeps (Sub.trans rfl hw)
    | lift_lets
    | with_reducible refine keeps_ite ?_ ?_)

theorem State.fromHost_keeps {w : Nat} {s0 s : State} (hw : Sub 0x6920104 w) (h : Keeps w s0 s) (cls : Nat) (e : Sys2Proof.Eth) (other : Option Sys2Proof.Machine.Frame) :
    Keeps w s0 (State.fromHost s cls e other) := by
  unfold State.fromHost
  repeat' (first
    | with_reducible assumption
    | (intro t_; first | (with_reducible refine keeps_cut (w := w) (s := s0) (t := t_) ?_ ?_; intro ht_; rotate_left; dsimp -zeta only [t_]) | skip)
    | with_reducible apply State.forward_keeps (Sub.trans rfl hw)
    | lift_lets
    | with_reducible refine keeps_ite ?_ ?_
    | split
    | (clear_value *; split)
    | with_reducible refine keeps_fst_ite ?_ ?_
    | (with_reducible refine keeps_of_eq (by assumption) ?_))

end Sys2Proof.Machine
end

