-- ==== Sys2Proof/Laws/Datasets.lean ====
section
/-! SUPPORT. What the functions of Machine/Datasets.lean keep, one lemma for each. -/

namespace Sys2Proof.Machine

theorem State.hostCommit_keeps {w : Nat} {s0 s : State} (hw : Sub 0x10a10c w) (h : Keeps w s0 s) (d : Nat) (id : Nat) :
    Keeps w s0 (State.hostCommit s d id) := by
  unfold State.hostCommit
  repeat' (first
    | with_reducible assumption
    | (intro t_; first | (with_reducible refine keeps_cut (w := w) (s := s0) (t := t_) ?_ ?_; intro ht_; rotate_left; dsimp -zeta only [t_]) | skip)
    | with_reducible apply State.raise_keeps (Sub.trans rfl hw)
    | with_reducible apply State.wrB_keeps (Sub.trans rfl hw)
    | with_reducible apply State.commitBack_keeps (Sub.trans rfl hw)
    | with_reducible apply State.wr_keeps (Sub.trans rfl hw)
    | lift_lets
    | with_reducible refine keeps_ite ?_ ?_
    | split
    | (clear_value *; split))

theorem execHostCommit_keeps (d : Sys2Proof.Die) (ds : BitVec 13) (s : State) :
    ∃ t_, execHostCommit d ds s = .next t_ ∧ Keeps 0x30a10c s t_ := by
  have h := Keeps.refl 0x30a10c s
  have hw := Sub.refl 0x30a10c
  
  refine ⟨_, rfl, ?_⟩
  repeat' (first
    | with_reducible assumption
    | (intro t_; first | (with_reducible refine keeps_cut (w := w) (s := s0) (t := t_) ?_ ?_; intro ht_; rotate_left; dsimp -zeta only [t_]) | skip)
    | with_reducible apply State.guarded_keeps (Sub.trans rfl hw)
    | with_reducible apply State.hostCommit_keeps (Sub.trans rfl hw)
    | dsimp only [id]
    | lift_lets
    | with_reducible refine keeps_ite ?_ ?_)

theorem execBufferFlip_keeps (d : Sys2Proof.Die) (ctx : Fin 4096) (s : State) :
    ∃ t_, execBufferFlip d ctx s = .next t_ ∧ Keeps 0x310218c s t_ := by
  have h := Keeps.refl 0x310218c s
  have hw := Sub.refl 0x310218c
  
  refine ⟨_, rfl, ?_⟩
  repeat' (first
    | with_reducible assumption
    | (intro t_; first | (with_reducible refine keeps_cut (w := w) (s := s0) (t := t_) ?_ ?_; intro ht_; rotate_left; dsimp -zeta only [t_]) | skip)
    | with_reducible apply State.when_keeps (Sub.trans rfl hw)
    | with_reducible apply State.doFlip_keeps (Sub.trans rfl hw)
    | with_reducible apply State.reachOn_keeps (Sub.trans rfl hw)
    | with_reducible apply State.wrB_keeps (Sub.trans rfl hw)
    | dsimp only [id]
    | lift_lets
    | with_reducible refine keeps_ite ?_ ?_
    | split
    | (clear_value *; split))

theorem execCmpAgeTick_keeps (d : Sys2Proof.Die) (s : State) :
    ∃ t_, execCmpAgeTick d s = .next t_ ∧ Keeps 0x310218c s t_ := by
  have h := Keeps.refl 0x310218c s
  have hw := Sub.refl 0x310218c
  
  refine ⟨_, rfl, ?_⟩
  repeat' (first
    | with_reducible assumption
    | (intro t_; first | (with_reducible refine keeps_cut (w := w) (s := s0) (t := t_) ?_ ?_; intro ht_; rotate_left; dsimp -zeta only [t_]) | skip)
    | with_reducible apply State.when_keeps (Sub.trans rfl hw)
    | with_reducible apply State.mark_keeps (Sub.trans rfl hw)
    | with_reducible apply State.ageDie_keeps (Sub.trans rfl hw)
    | with_reducible apply State.reachFrom_keeps (Sub.trans rfl hw)
    | dsimp only [id]
    | lift_lets
    | with_reducible refine keeps_ite ?_ ?_)

theorem State.recRow_keeps {w : Nat} {s0 s : State} (hw : Sub 0x2104 w) (h : Keeps w s0 s) (d : Nat) (i : Nat) :
    Keeps w s0 (State.recRow s d i) := by
  unfold State.recRow
  repeat' (first
    | with_reducible assumption
    | (intro t_; first | (with_reducible refine keeps_cut (w := w) (s := s0) (t := t_) ?_ ?_; intro ht_; rotate_left; dsimp -zeta only [t_]) | skip)
    | with_reducible apply State.raise_keeps (Sub.trans rfl hw)
    | with_reducible apply State.count_keeps (Sub.trans rfl hw)
    | with_reducible apply State.setRecInfo_keeps (Sub.trans rfl hw)
    | lift_lets
    | with_reducible refine keeps_ite ?_ ?_)

theorem State.singles_keeps {w : Nat} {s0 s : State} (hw : Sub 0x2104 w) (h : Keeps w s0 s) :
    Keeps w s0 (State.singles s) := by
  unfold State.singles
  repeat' (first
    | with_reducible assumption
    | (intro t_; first | (with_reducible refine keeps_cut (w := w) (s := s0) (t := t_) ?_ ?_; intro ht_; rotate_left; dsimp -zeta only [t_]) | skip)
    | with_reducible apply State.each_keeps (Sub.trans rfl hw)
    | with_reducible apply State.recRow_keeps (Sub.trans rfl hw)
    | lift_lets
    | with_reducible refine keeps_ite ?_ ?_)

theorem execFrerTimeout_keeps (d : Sys2Proof.Die) (ctx : Fin 1024) (rogue : Bool) (s : State) :
    ∃ t_, execFrerTimeout d ctx rogue s = .next t_ ∧ Keeps 0x210c s t_ := by
  have h := Keeps.refl 0x210c s
  have hw := Sub.refl 0x210c
  
  refine ⟨_, rfl, ?_⟩
  repeat' (first
    | with_reducible assumption
    | (intro t_; first | (with_reducible refine keeps_cut (w := w) (s := s0) (t := t_) ?_ ?_; intro ht_; rotate_left; dsimp -zeta only [t_]) | skip)
    | with_reducible apply State.when_keeps (Sub.trans rfl hw)
    | with_reducible apply State.setRecInfo_keeps (Sub.trans rfl hw)
    | with_reducible apply State.takeAny_keeps (Sub.trans rfl hw)
    | dsimp only [id]
    | lift_lets
    | with_reducible refine keeps_ite ?_ ?_)

theorem State.trdpBad_keeps {w : Nat} {s0 s : State} (hw : Sub 0x104 w) (h : Keeps w s0 s) (d : Nat) :
    Keeps w s0 (State.trdpBad s d) := by
  unfold State.trdpBad
  repeat' (first
    | with_reducible assumption
    | (intro t_; first | (with_reducible refine keeps_cut (w := w) (s := s0) (t := t_) ?_ ?_; intro ht_; rotate_left; dsimp -zeta only [t_]) | skip)
    | with_reducible apply State.raise_keeps (Sub.trans rfl hw)
    | with_reducible apply State.count_keeps (Sub.trans rfl hw)
    | lift_lets
    | with_reducible refine keeps_ite ?_ ?_)

theorem State.trdpCommit_keeps {w : Nat} {s0 s : State} (hw : Sub 0x10a10c w) (h : Keeps w s0 s) (d : Nat) (c : Nat) (t : Sys2Proof.Trdp) :
    Keeps w s0 (State.trdpCommit s d c t) := by
  unfold State.trdpCommit
  repeat' (first
    | with_reducible assumption
    | (intro t_; first | (with_reducible refine keeps_cut (w := w) (s := s0) (t := t_) ?_ ?_; intro ht_; rotate_left; dsimp -zeta only [t_]) | skip)
    | with_reducible apply State.commitData_keeps (Sub.trans rfl hw)
    | with_reducible apply State.consume_keeps (Sub.trans rfl hw)
    | lift_lets
    | with_reducible refine keeps_ite ?_ ?_)

theorem State.trdpTake_keeps {w : Nat} {s0 s : State} (hw : Sub 0x10a10c w) (h : Keeps w s0 s) (k : Nat) (c : Nat) (etb : Bool) (t : Sys2Proof.Trdp) :
    Keeps w s0 (State.trdpTake s k c etb t) := by
  unfold State.trdpTake
  repeat' (first
    | with_reducible assumption
    | (intro t_; first | (with_reducible refine keeps_cut (w := w) (s := s0) (t := t_) ?_ ?_; intro ht_; rotate_left; dsimp -zeta only [t_]) | skip)
    | with_reducible apply State.trdpCommit_keeps (Sub.trans rfl hw)
    | with_reducible apply State.trdpBad_keeps (Sub.trans rfl hw)
    | lift_lets
    | with_reducible refine keeps_ite ?_ ?_)

theorem execTrdpRx_keeps (d : Sys2Proof.Die) (t : Sys2Proof.Trdp) (s : State) :
    ∃ t_, execTrdpRx d t s = .next t_ ∧ Keeps 0x10a10c s t_ := by
  have h := Keeps.refl 0x10a10c s
  have hw := Sub.refl 0x10a10c
  
  refine ⟨_, rfl, ?_⟩
  repeat' (first
    | with_reducible assumption
    | (intro t_; first | (with_reducible refine keeps_cut (w := w) (s := s0) (t := t_) ?_ ?_; intro ht_; rotate_left; dsimp -zeta only [t_]) | skip)
    | with_reducible apply State.when_keeps (Sub.trans rfl hw)
    | with_reducible apply State.onSome_keeps (Sub.trans rfl hw)
    | with_reducible apply State.trdpTake_keeps (Sub.trans rfl hw)
    | dsimp only [id]
    | lift_lets
    | with_reducible refine keeps_ite ?_ ?_)

theorem State.trdpFrame_keeps {w : Nat} {s0 s : State} (hw : Sub 0x692a104 w) (h : Keeps w s0 s) (d : Nat) (i : Nat) (c : Nat) :
    Keeps w s0 (State.trdpFrame s d i c) := by
  have b2 := Sub.bit (i := 2) hw rfl; have b8 := Sub.bit (i := 8) hw rfl; have b13 := Sub.bit (i := 13) hw rfl; have b15 := Sub.bit (i := 15) hw rfl; have b17 := Sub.bit (i := 17) hw rfl; have b20 := Sub.bit (i := 20) hw rfl; have b23 := Sub.bit (i := 23) hw rfl; have b25 := Sub.bit (i := 25) hw rfl; have b26 := Sub.bit (i := 26) hw rfl
  unfold State.trdpFrame
  repeat' (first
    | with_reducible assumption
    | (intro t_; first | (with_reducible refine keeps_cut (w := w) (s := s0) (t := t_) ?_ ?_; intro ht_; rotate_left; dsimp -zeta only [t_]) | skip)
    | with_reducible apply State.useFree_keeps (Sub.trans rfl hw)
    | with_reducible apply State.fromHost_keeps (Sub.trans rfl hw)
    | with_reducible apply State.noteSeq_keeps (Sub.trans rfl hw)
    | lift_lets
    | with_reducible refine keeps_ite ?_ ?_
    | with_reducible refine keeps_fst_ite ?_ ?_
    | (with_reducible refine keeps_of_eq (by assumption) ?_)
    | with_reducible refine keeps_upd ?_ (fun x => x) (fun x => x) (.inr rfl) (.inl b2) (.inr rfl) (.inr rfl) (.inr rfl) (.inr rfl) (.inl b8) (.inr rfl) (.inr rfl) (.inr rfl) (.inr rfl) (.inl b13) (.inr rfl) (.inl b15) (.inr rfl) (.inl b17) (.inr rfl) (.inr rfl) (.inl b20) (.inr rfl) (.inr rfl) (.inl b23) (.inr rfl) (.inl b25) (.inl b26))

theorem State.trdpSend_keeps {w : Nat} {s0 s : State} (hw : Sub 0x692a104 w) (h : Keeps w s0 s) (d : Nat) (i : Nat) :
    Keeps w s0 (State.trdpSend s d i) := by
  unfold State.trdpSend
  repeat' (first
    | with_reducible assumption
    | (intro t_; first | (with_reducible refine keeps_cut (w := w) (s := s0) (t := t_) ?_ ?_; intro ht_; rotate_left; dsimp -zeta only [t_]) | skip)
    | with_reducible apply State.onSome_keeps (Sub.trans rfl hw)
    | with_reducible apply State.trdpFrame_keeps (Sub.trans rfl hw)
    | lift_lets
    | with_reducible refine keeps_ite ?_ ?_)

theorem execTrdpCycleSend_keeps (d : Sys2Proof.Die) (entry : Fin 4096) (s : State) :
    ∃ t_, execTrdpCycleSend d entry s = .next t_ ∧ Keeps 0x792a184 s t_ := by
  have h := Keeps.refl 0x792a184 s
  have hw := Sub.refl 0x792a184
  
  refine ⟨_, rfl, ?_⟩
  repeat' (first
    | with_reducible assumption
    | (intro t_; first | (with_reducible refine keeps_cut (w := w) (s := s0) (t := t_) ?_ ?_; intro ht_; rotate_left; dsimp -zeta only [t_]) | skip)
    | with_reducible apply State.when_keeps (Sub.trans rfl hw)
    | with_reducible apply State.mark_keeps (Sub.trans rfl hw)
    | with_reducible apply State.trdpSend_keeps (Sub.trans rfl hw)
    | with_reducible apply State.reachFrom_keeps (Sub.trans rfl hw)
    | dsimp only [id]
    | lift_lets
    | with_reducible refine keeps_ite ?_ ?_)

theorem State.trdpRow_keeps {w : Nat} {s0 s : State} (hw : Sub 0x692a104 w) (h : Keeps w s0 s) :
    Keeps w s0 (State.trdpRow s) := by
  unfold State.trdpRow
  repeat' (first
    | with_reducible assumption
    | (intro t_; first | (with_reducible refine keeps_cut (w := w) (s := s0) (t := t_) ?_ ?_; intro ht_; rotate_left; dsimp -zeta only [t_]) | skip)
    | with_reducible apply State.each_keeps (Sub.trans rfl hw)
    | with_reducible apply State.when_keeps (Sub.trans rfl hw)
    | with_reducible apply State.trdpSend_keeps (Sub.trans rfl hw)
    | dsimp only [id]
    | lift_lets
    | with_reducible refine keeps_ite ?_ ?_)

theorem State.popNtf_keeps {w : Nat} {s0 s : State} (hw : Sub 0x2004 w) (h : Keeps w s0 s) (d : Nat) :
    Keeps w s0 (State.popNtf s d) := by
  have b2 := Sub.bit (i := 2) hw rfl; have b13 := Sub.bit (i := 13) hw rfl
  unfold State.popNtf
  repeat' (first
    | with_reducible assumption
    | (intro t_; first | (with_reducible refine keeps_cut (w := w) (s := s0) (t := t_) ?_ ?_; intro ht_; rotate_left; dsimp -zeta only [t_]) | skip)
    | with_reducible apply State.wrF_keeps (Sub.trans rfl hw)
    | lift_lets
    | with_reducible refine keeps_ite ?_ ?_
    | with_reducible refine keeps_fst_ite ?_ ?_
    | (with_reducible refine keeps_of_eq (by assumption) ?_)
    | with_reducible refine keeps_upd ?_ (fun x => x) (fun x => x) (.inr rfl) (.inl b2) (.inr rfl) (.inr rfl) (.inr rfl) (.inr rfl) (.inr rfl) (.inr rfl) (.inr rfl) (.inr rfl) (.inr rfl) (.inl b13) (.inr rfl) (.inr rfl) (.inr rfl) (.inr rfl) (.inr rfl) (.inr rfl) (.inr rfl) (.inr rfl) (.inr rfl) (.inr rfl) (.inr rfl) (.inr rfl) (.inr rfl))

theorem execNtfPop_keeps (d : Sys2Proof.Die) (s : State) :
    ∃ t_, execNtfPop d s = .next t_ ∧ Keeps 0x2002004 s t_ := by
  have h := Keeps.refl 0x2002004 s
  have hw := Sub.refl 0x2002004
  
  refine ⟨_, rfl, ?_⟩
  repeat' (first
    | with_reducible assumption
    | (intro t_; first | (with_reducible refine keeps_cut (w := w) (s := s0) (t := t_) ?_ ?_; intro ht_; rotate_left; dsimp -zeta only [t_]) | skip)
    | with_reducible apply State.when_keeps (Sub.trans rfl hw)
    | with_reducible apply State.popNtf_keeps (Sub.trans rfl hw)
    | with_reducible apply State.emit_keeps (Sub.trans rfl hw)
    | dsimp only [id]
    | lift_lets
    | with_reducible refine keeps_ite ?_ ?_)

end Sys2Proof.Machine
end

