-- ==== Sys2Proof/Laws/Egress.lean ====
section
/-! SUPPORT. What the functions of Machine/Egress.lean keep, one lemma for each. -/

namespace Sys2Proof.Machine

theorem State.evalGates_keeps {w : Nat} {s0 s : State} (hw : Sub 0x4 w) (h : Keeps w s0 s) (p : Nat) :
    Keeps w s0 (State.evalGates s p) := by
  unfold State.evalGates
  repeat' (first
    | with_reducible assumption
    | (intro t_; first | (with_reducible refine keeps_cut (w := w) (s := s0) (t := t_) ?_ ?_; intro ht_; rotate_left; dsimp -zeta only [t_]) | skip)
    | with_reducible apply State.wr_keeps (Sub.trans rfl hw)
    | lift_lets
    | with_reducible refine keeps_ite ?_ ?_)

theorem State.inFirstGap_keeps {w : Nat} {s0 s : State} (hw : Sub 0x3000184 w) (h : Keeps w s0 s) (n : Nat) (f : Sys2Proof.Machine.State → Sys2Proof.Machine.State) (h_f : ∀ t_, Keeps w s0 t_ → Keeps w s0 (f t_)) :
    Keeps w s0 (State.inFirstGap s n f) := by
  unfold State.inFirstGap
  repeat' (first
    | with_reducible assumption
    | (intro t_; first | (with_reducible refine keeps_cut (w := w) (s := s0) (t := t_) ?_ ?_; intro ht_; rotate_left; dsimp -zeta only [t_]) | skip)
    | with_reducible apply h_f
    | with_reducible apply State.reachSt_keeps (Sub.trans rfl hw)
    | lift_lets
    | with_reducible refine keeps_ite ?_ ?_
    | split
    | (clear_value *; split))

theorem State.setDeficit_keeps {w : Nat} {s0 s : State} (hw : Sub 0x20000 w) (h : Keeps w s0 s) (p : Nat) (q : Nat) (v : Nat) :
    Keeps w s0 (State.setDeficit s p q v) := by
  have b17 := Sub.bit (i := 17) hw rfl
  unfold State.setDeficit
  repeat' (first
    | with_reducible assumption
    | (intro t_; first | (with_reducible refine keeps_cut (w := w) (s := s0) (t := t_) ?_ ?_; intro ht_; rotate_left; dsimp -zeta only [t_]) | skip)
    | lift_lets
    | with_reducible refine keeps_ite ?_ ?_
    | with_reducible refine keeps_upd ?_ (fun x => x) (fun x => x) (.inr rfl) (.inr rfl) (.inr rfl) (.inr rfl) (.inr rfl) (.inr rfl) (.inr rfl) (.inr rfl) (.inr rfl) (.inr rfl) (.inr rfl) (.inr rfl) (.inr rfl) (.inr rfl) (.inr rfl) (.inl b17) (.inr rfl) (.inr rfl) (.inr rfl) (.inr rfl) (.inr rfl) (.inr rfl) (.inr rfl) (.inr rfl) (.inr rfl))

theorem State.drrTurn_keeps {w : Nat} {s0 t : State} (hw : Sub 0x20000 w) (h : Keeps w s0 t) (p : Nat) (r : Nat) :
    Keeps w s0 (State.drrTurn t p r) := by
  have b17 := Sub.bit (i := 17) hw rfl
  unfold State.drrTurn
  repeat' (first
    | with_reducible assumption
    | (intro t_; first | (with_reducible refine keeps_cut (w := w) (s := s0) (t := t_) ?_ ?_; intro ht_; rotate_left; dsimp -zeta only [t_]) | skip)
    | with_reducible apply State.setDeficit_keeps (Sub.trans rfl hw)
    | lift_lets
    | with_reducible refine keeps_ite ?_ ?_
    | with_reducible refine keeps_upd ?_ (fun x => x) (fun x => x) (.inr rfl) (.inr rfl) (.inr rfl) (.inr rfl) (.inr rfl) (.inr rfl) (.inr rfl) (.inr rfl) (.inr rfl) (.inr rfl) (.inr rfl) (.inr rfl) (.inr rfl) (.inr rfl) (.inr rfl) (.inl b17) (.inr rfl) (.inr rfl) (.inr rfl) (.inr rfl) (.inr rfl) (.inr rfl) (.inr rfl) (.inr rfl) (.inr rfl))

theorem State.drrPick_keeps {w : Nat} {s0 s : State} (hw : Sub 0x20000 w) (h : Keeps w s0 s) (p : Nat) (y2 : Nat) (y3 : Nat) :
    Keeps w s0 (State.drrPick s p y2 y3).1 := by
  induction y2 generalizing p y3 s with
  | zero =>
    unfold State.drrPick
    repeat' (first
    | with_reducible assumption
    | (intro t_; first | (with_reducible refine keeps_cut (w := w) (s := s0) (t := t_) ?_ ?_; intro ht_; rotate_left; dsimp -zeta only [t_]) | skip)
    | with_reducible apply State.drrTurn_keeps (Sub.trans rfl hw)
    | with_reducible apply State.setDeficit_keeps (Sub.trans rfl hw)
    | lift_lets
    | with_reducible refine keeps_ite ?_ ?_
    | split
    | (clear_value *; split)
    | with_reducible refine keeps_fst_ite ?_ ?_
    | (with_reducible refine keeps_of_eq (by assumption) ?_)
    | dsimp -zeta only)
  | succ n ih =>
    unfold State.drrPick
    repeat' (first
    | with_reducible assumption
    | with_reducible apply ih
    | (intro t_; first | (with_reducible refine keeps_cut (w := w) (s := s0) (t := t_) ?_ ?_; intro ht_; rotate_left; dsimp -zeta only [t_]) | skip)
    | with_reducible apply State.drrTurn_keeps (Sub.trans rfl hw)
    | with_reducible apply State.setDeficit_keeps (Sub.trans rfl hw)
    | lift_lets
    | with_reducible refine keeps_ite ?_ ?_
    | split
    | (clear_value *; split)
    | with_reducible refine keeps_fst_ite ?_ ?_
    | (with_reducible refine keeps_of_eq (by assumption) ?_)
    | dsimp -zeta only)
  

theorem State.pick_keeps {w : Nat} {s0 s : State} (hw : Sub 0x20000 w) (h : Keeps w s0 s) (p : Nat) :
    Keeps w s0 (State.pick s p).1 := by
  unfold State.pick
  repeat' (first
    | with_reducible assumption
    | (intro t_; first | (with_reducible refine keeps_cut (w := w) (s := s0) (t := t_) ?_ ?_; intro ht_; rotate_left; dsimp -zeta only [t_]) | skip)
    | with_reducible apply State.drrPick_keeps (Sub.trans rfl hw)
    | lift_lets
    | with_reducible refine keeps_ite ?_ ?_
    | split
    | (clear_value *; split)
    | with_reducible refine keeps_fst_ite ?_ ?_
    | (with_reducible refine keeps_of_eq (by assumption) ?_)
    | dsimp -zeta only)

theorem State.holdEnt_keeps {w : Nat} {s0 s : State} (hw : Sub 0x120004 w) (h : Keeps w s0 s) (e : Sys2Proof.Machine.QEnt) :
    Keeps w s0 (State.holdEnt s e) := by
  have b2 := Sub.bit (i := 2) hw rfl; have b17 := Sub.bit (i := 17) hw rfl; have b20 := Sub.bit (i := 20) hw rfl
  unfold State.holdEnt
  repeat' (first
    | with_reducible assumption
    | (intro t_; first | (with_reducible refine keeps_cut (w := w) (s := s0) (t := t_) ?_ ?_; intro ht_; rotate_left; dsimp -zeta only [t_]) | skip)
    | with_reducible apply State.evalGates_keeps (Sub.trans rfl hw)
    | with_reducible apply State.pst_keeps (Sub.trans rfl hw)
    | with_reducible apply State.count_keeps (Sub.trans rfl hw)
    | lift_lets
    | with_reducible refine keeps_ite ?_ ?_
    | with_reducible refine keeps_upd ?_ (fun x => x) (fun x => x) (.inr rfl) (.inl b2) (.inr rfl) (.inr rfl) (.inr rfl) (.inr rfl) (.inr rfl) (.inr rfl) (.inr rfl) (.inr rfl) (.inr rfl) (.inr rfl) (.inr rfl) (.inr rfl) (.inr rfl) (.inl b17) (.inr rfl) (.inr rfl) (.inl b20) (.inr rfl) (.inr rfl) (.inr rfl) (.inr rfl) (.inr rfl) (.inr rfl))

theorem State.startEnt_keeps {w : Nat} {s0 s : State} (hw : Sub 0x6920104 w) (h : Keeps w s0 s) (e : Sys2Proof.Machine.QEnt) :
    Keeps w s0 (State.startEnt s e) := by
  have b2 := Sub.bit (i := 2) hw rfl; have b8 := Sub.bit (i := 8) hw rfl; have b17 := Sub.bit (i := 17) hw rfl; have b20 := Sub.bit (i := 20) hw rfl; have b23 := Sub.bit (i := 23) hw rfl; have b25 := Sub.bit (i := 25) hw rfl; have b26 := Sub.bit (i := 26) hw rfl
  unfold State.startEnt
  repeat' (first
    | with_reducible assumption
    | (intro t_; first | (with_reducible refine keeps_cut (w := w) (s := s0) (t := t_) ?_ ?_; intro ht_; rotate_left; dsimp -zeta only [t_]) | skip)
    | with_reducible apply State.setDeficit_keeps (Sub.trans rfl hw)
    | with_reducible apply State.sendPort_keeps (Sub.trans rfl hw)
    | with_reducible apply State.evalGates_keeps (Sub.trans rfl hw)
    | with_reducible apply State.evalPort_keeps (Sub.trans rfl hw)
    | lift_lets
    | with_reducible refine keeps_ite ?_ ?_
    | with_reducible refine keeps_upd ?_ (fun x => x) (fun x => x) (.inr rfl) (.inl b2) (.inr rfl) (.inr rfl) (.inr rfl) (.inr rfl) (.inl b8) (.inr rfl) (.inr rfl) (.inr rfl) (.inr rfl) (.inr rfl) (.inr rfl) (.inr rfl) (.inr rfl) (.inl b17) (.inr rfl) (.inr rfl) (.inl b20) (.inr rfl) (.inr rfl) (.inl b23) (.inr rfl) (.inl b25) (.inl b26))

theorem State.reap_keeps {w : Nat} {s0 s : State} (hw : Sub 0x6920104 w) (h : Keeps w s0 s) (p : Nat) :
    Keeps w s0 (State.reap s p) := by
  have b2 := Sub.bit (i := 2) hw rfl; have b8 := Sub.bit (i := 8) hw rfl; have b17 := Sub.bit (i := 17) hw rfl; have b20 := Sub.bit (i := 20) hw rfl; have b23 := Sub.bit (i := 23) hw rfl; have b25 := Sub.bit (i := 25) hw rfl; have b26 := Sub.bit (i := 26) hw rfl
  unfold State.reap
  repeat' (first
    | with_reducible assumption
    | (intro t_; first | (with_reducible refine keeps_cut (w := w) (s := s0) (t := t_) ?_ ?_; intro ht_; rotate_left; dsimp -zeta only [t_]) | skip)
    | with_reducible apply State.each_keeps (Sub.trans rfl hw)
    | with_reducible apply State.evalPort_keeps (Sub.trans rfl hw)
    | with_reducible apply State.evalPfc_keeps (Sub.trans rfl hw)
    | lift_lets
    | with_reducible refine keeps_ite ?_ ?_
    | split
    | (clear_value *; split)
    | with_reducible refine keeps_fst_ite ?_ ?_
    | (with_reducible refine keeps_of_eq (by assumption) ?_)
    | with_reducible refine keeps_upd ?_ (fun x => x) (fun x => x) (.inr rfl) (.inl b2) (.inr rfl) (.inr rfl) (.inr rfl) (.inr rfl) (.inl b8) (.inr rfl) (.inr rfl) (.inr rfl) (.inr rfl) (.inr rfl) (.inr rfl) (.inr rfl) (.inr rfl) (.inl b17) (.inr rfl) (.inr rfl) (.inl b20) (.inr rfl) (.inr rfl) (.inl b23) (.inr rfl) (.inl b25) (.inl b26))

theorem State.loseFlight_keeps {w : Nat} {s0 s : State} (hw : Sub 0x6920104 w) (h : Keeps w s0 s) (p : Nat) :
    Keeps w s0 (State.loseFlight s p) := by
  have b2 := Sub.bit (i := 2) hw rfl; have b8 := Sub.bit (i := 8) hw rfl; have b17 := Sub.bit (i := 17) hw rfl; have b20 := Sub.bit (i := 20) hw rfl; have b23 := Sub.bit (i := 23) hw rfl; have b25 := Sub.bit (i := 25) hw rfl; have b26 := Sub.bit (i := 26) hw rfl
  unfold State.loseFlight
  repeat' (first
    | with_reducible assumption
    | (intro t_; first | (with_reducible refine keeps_cut (w := w) (s := s0) (t := t_) ?_ ?_; intro ht_; rotate_left; dsimp -zeta only [t_]) | skip)
    | with_reducible apply State.each_keeps (Sub.trans rfl hw)
    | with_reducible apply State.evalPort_keeps (Sub.trans rfl hw)
    | with_reducible apply State.evalPfc_keeps (Sub.trans rfl hw)
    | lift_lets
    | with_reducible refine keeps_ite ?_ ?_
    | split
    | (clear_value *; split)
    | with_reducible refine keeps_fst_ite ?_ ?_
    | (with_reducible refine keeps_of_eq (by assumption) ?_)
    | with_reducible refine keeps_upd ?_ (fun x => x) (fun x => x) (.inr rfl) (.inl b2) (.inr rfl) (.inr rfl) (.inr rfl) (.inr rfl) (.inl b8) (.inr rfl) (.inr rfl) (.inr rfl) (.inr rfl) (.inr rfl) (.inr rfl) (.inr rfl) (.inr rfl) (.inl b17) (.inr rfl) (.inr rfl) (.inl b20) (.inr rfl) (.inr rfl) (.inl b23) (.inr rfl) (.inl b25) (.inl b26))

theorem State.loseQueue_keeps {w : Nat} {s0 s : State} (hw : Sub 0x6920104 w) (h : Keeps w s0 s) (p : Nat) :
    Keeps w s0 (State.loseQueue s p) := by
  have b2 := Sub.bit (i := 2) hw rfl; have b8 := Sub.bit (i := 8) hw rfl; have b17 := Sub.bit (i := 17) hw rfl; have b20 := Sub.bit (i := 20) hw rfl; have b23 := Sub.bit (i := 23) hw rfl; have b25 := Sub.bit (i := 25) hw rfl; have b26 := Sub.bit (i := 26) hw rfl
  unfold State.loseQueue
  repeat' (first
    | with_reducible assumption
    | (intro t_; first | (with_reducible refine keeps_cut (w := w) (s := s0) (t := t_) ?_ ?_; intro ht_; rotate_left; dsimp -zeta only [t_]) | skip)
    | with_reducible apply State.each_keeps (Sub.trans rfl hw)
    | with_reducible apply State.evalPort_keeps (Sub.trans rfl hw)
    | with_reducible apply State.evalPfc_keeps (Sub.trans rfl hw)
    | lift_lets
    | with_reducible refine keeps_ite ?_ ?_
    | split
    | (clear_value *; split)
    | with_reducible refine keeps_fst_ite ?_ ?_
    | (with_reducible refine keeps_of_eq (by assumption) ?_)
    | with_reducible refine keeps_upd ?_ (fun x => x) (fun x => x) (.inr rfl) (.inl b2) (.inr rfl) (.inr rfl) (.inr rfl) (.inr rfl) (.inl b8) (.inr rfl) (.inr rfl) (.inr rfl) (.inr rfl) (.inr rfl) (.inr rfl) (.inr rfl) (.inr rfl) (.inl b17) (.inr rfl) (.inr rfl) (.inl b20) (.inr rfl) (.inr rfl) (.inl b23) (.inr rfl) (.inl b25) (.inl b26))

theorem State.resume_keeps {w : Nat} {s0 s : State} (hw : Sub 0x120004 w) (h : Keeps w s0 s) (p : Nat) (x : Sys2Proof.Machine.Sending) :
    Keeps w s0 (State.resume s p x) := by
  have b2 := Sub.bit (i := 2) hw rfl; have b17 := Sub.bit (i := 17) hw rfl; have b20 := Sub.bit (i := 20) hw rfl
  unfold State.resume
  repeat' (first
    | with_reducible assumption
    | (intro t_; first | (with_reducible refine keeps_cut (w := w) (s := s0) (t := t_) ?_ ?_; intro ht_; rotate_left; dsimp -zeta only [t_]) | skip)
    | with_reducible apply State.fragment_keeps (Sub.trans rfl hw)
    | lift_lets
    | with_reducible refine keeps_ite ?_ ?_
    | with_reducible refine keeps_upd ?_ (fun x => x) (fun x => x) (.inr rfl) (.inl b2) (.inr rfl) (.inr rfl) (.inr rfl) (.inr rfl) (.inr rfl) (.inr rfl) (.inr rfl) (.inr rfl) (.inr rfl) (.inr rfl) (.inr rfl) (.inr rfl) (.inr rfl) (.inl b17) (.inr rfl) (.inr rfl) (.inl b20) (.inr rfl) (.inr rfl) (.inr rfl) (.inr rfl) (.inr rfl) (.inr rfl))

theorem State.transmitOn_keeps {w : Nat} {s0 s : State} (hw : Sub 0x6920104 w) (h : Keeps w s0 s) (p : Nat) :
    Keeps w s0 (State.transmitOn s p) := by
  unfold State.transmitOn
  repeat' (first
    | with_reducible assumption
    | (intro t_; first | (with_reducible refine keeps_cut (w := w) (s := s0) (t := t_) ?_ ?_; intro ht_; rotate_left; dsimp -zeta only [t_]) | skip)
    | with_reducible apply State.when_keeps (Sub.trans rfl hw)
    | with_reducible apply State.reap_keeps (Sub.trans rfl hw)
    | with_reducible apply State.loseQueue_keeps (Sub.trans rfl hw)
    | with_reducible apply State.resume_keeps (Sub.trans rfl hw)
    | with_reducible apply State.pick_keeps (Sub.trans rfl hw)
    | with_reducible apply State.startEnt_keeps (Sub.trans rfl hw)
    | with_reducible apply State.holdEnt_keeps (Sub.trans rfl hw)
    | dsimp only [id]
    | lift_lets
    | with_reducible refine keeps_ite ?_ ?_
    | split
    | (clear_value *; split)
    | with_reducible refine keeps_fst_ite ?_ ?_
    | (with_reducible refine keeps_of_eq (by assumption) ?_))

theorem execEgressTransmit_keeps (p : Sys2Proof.Port) (s : State) :
    ∃ t_, execEgressTransmit p s = .next t_ ∧ Keeps 0x6920104 s t_ := by
  have h := Keeps.refl 0x6920104 s
  have hw := Sub.refl 0x6920104
  
  refine ⟨_, rfl, ?_⟩
  repeat' (first
    | with_reducible assumption
    | (intro t_; first | (with_reducible refine keeps_cut (w := w) (s := s0) (t := t_) ?_ ?_; intro ht_; rotate_left; dsimp -zeta only [t_]) | skip)
    | with_reducible apply State.when_keeps (Sub.trans rfl hw)
    | with_reducible apply State.transmitOn_keeps (Sub.trans rfl hw)
    | dsimp only [id]
    | lift_lets
    | with_reducible refine keeps_ite ?_ ?_)

theorem State.preemptAt_keeps {w : Nat} {s0 s : State} (hw : Sub 0x120004 w) (h : Keeps w s0 s) (p : Nat) (cls : Nat) :
    Keeps w s0 (State.preemptAt s p cls) := by
  unfold State.preemptAt
  repeat' (first
    | with_reducible assumption
    | (intro t_; first | (with_reducible refine keeps_cut (w := w) (s := s0) (t := t_) ?_ ?_; intro ht_; rotate_left; dsimp -zeta only [t_]) | skip)
    | with_reducible apply State.preemptIf_keeps (Sub.trans rfl hw)
    | lift_lets
    | with_reducible refine keeps_ite ?_ ?_)

theorem State.gateChange_keeps {w : Nat} {s0 s : State} (hw : Sub 0x3120184 w) (h : Keeps w s0 s) (p : Nat) (cls : Nat) (opens : Bool) :
    Keeps w s0 (State.gateChange s p cls opens) := by
  unfold State.gateChange
  repeat' (first
    | with_reducible assumption
    | (intro t_; first | (with_reducible refine keeps_cut (w := w) (s := s0) (t := t_) ?_ ?_; intro ht_; rotate_left; dsimp -zeta only [t_]) | skip)
    | with_reducible apply State.reachSt_keeps (Sub.trans rfl hw)
    | with_reducible apply State.evalGates_keeps (Sub.trans rfl hw)
    | with_reducible apply State.preemptAt_keeps (Sub.trans rfl hw)
    | lift_lets
    | with_reducible refine keeps_ite ?_ ?_
    | split
    | (clear_value *; split))

theorem execGateChange_keeps (p : Sys2Proof.Port) (cls : Fin 8) (opens : Bool) (s : State) :
    ∃ t_, execGateChange p cls opens s = .next t_ ∧ Keeps 0x3120184 s t_ := by
  have h := Keeps.refl 0x3120184 s
  have hw := Sub.refl 0x3120184
  
  refine ⟨_, rfl, ?_⟩
  repeat' (first
    | with_reducible assumption
    | (intro t_; first | (with_reducible refine keeps_cut (w := w) (s := s0) (t := t_) ?_ ?_; intro ht_; rotate_left; dsimp -zeta only [t_]) | skip)
    | with_reducible apply State.when_keeps (Sub.trans rfl hw)
    | with_reducible apply State.gateChange_keeps (Sub.trans rfl hw)
    | dsimp only [id]
    | lift_lets
    | with_reducible refine keeps_ite ?_ ?_)

theorem State.startVerify_keeps {w : Nat} {s0 s : State} (hw : Sub 0x1000004 w) (h : Keeps w s0 s) (p : Nat) :
    Keeps w s0 (State.startVerify s p) := by
  unfold State.startVerify
  repeat' (first
    | with_reducible assumption
    | (intro t_; first | (with_reducible refine keeps_cut (w := w) (s := s0) (t := t_) ?_ ?_; intro ht_; rotate_left; dsimp -zeta only [t_]) | skip)
    | with_reducible apply State.wrF_keeps (Sub.trans rfl hw)
    | with_reducible apply State.arm_keeps (Sub.trans rfl hw)
    | lift_lets
    | with_reducible refine keeps_ite ?_ ?_)

theorem execPreemptVerifyDone_keeps (p : Sys2Proof.Port) (ok : Bool) (s : State) :
    ∃ t_, execPreemptVerifyDone p ok s = .next t_ ∧ Keeps 0x3000184 s t_ := by
  have h := Keeps.refl 0x3000184 s
  have hw := Sub.refl 0x3000184
  
  refine ⟨_, rfl, ?_⟩
  repeat' (first
    | with_reducible assumption
    | (intro t_; first | (with_reducible refine keeps_cut (w := w) (s := s0) (t := t_) ?_ ?_; intro ht_; rotate_left; dsimp -zeta only [t_]) | skip)
    | with_reducible apply State.when_keeps (Sub.trans rfl hw)
    | with_reducible apply State.disarm_keeps (Sub.trans rfl hw)
    | with_reducible apply State.expire_keeps (Sub.trans rfl hw)
    | with_reducible apply State.wrF_keeps (Sub.trans rfl hw)
    | with_reducible apply State.raise_keeps (Sub.trans rfl hw)
    | dsimp only [id]
    | lift_lets
    | with_reducible refine keeps_ite ?_ ?_)

theorem State.macControl_keeps {w : Nat} {s0 s : State} (hw : Sub 0x920000 w) (h : Keeps w s0 s) (p : Nat) (n : Nat) :
    Keeps w s0 (State.macControl s p n) := by
  unfold State.macControl
  repeat' (first
    | with_reducible assumption
    | (intro t_; first | (with_reducible refine keeps_cut (w := w) (s := s0) (t := t_) ?_ ?_; intro ht_; rotate_left; dsimp -zeta only [t_]) | skip)
    | with_reducible apply State.pst_keeps (Sub.trans rfl hw)
    | with_reducible apply State.statBy_keeps (Sub.trans rfl hw)
    | with_reducible apply State.crossPort_keeps (Sub.trans rfl hw)
    | lift_lets
    | with_reducible refine keeps_ite ?_ ?_)

theorem execPfcRx_keeps (p : Sys2Proof.Port) (prio : Fin 8) (quanta : BitVec 16) (s : State) :
    ∃ t_, execPfcRx p prio quanta s = .next t_ ∧ Keeps 0x1920004 s t_ := by
  have h := Keeps.refl 0x1920004 s
  have hw := Sub.refl 0x1920004
  
  refine ⟨_, rfl, ?_⟩
  repeat' (first
    | with_reducible assumption
    | (intro t_; first | (with_reducible refine keeps_cut (w := w) (s := s0) (t := t_) ?_ ?_; intro ht_; rotate_left; dsimp -zeta only [t_]) | skip)
    | with_reducible apply State.when_keeps (Sub.trans rfl hw)
    | with_reducible apply State.macControl_keeps (Sub.trans rfl hw)
    | with_reducible apply State.arm_keeps (Sub.trans rfl hw)
    | with_reducible apply State.wrB_keeps (Sub.trans rfl hw)
    | with_reducible apply State.count_keeps (Sub.trans rfl hw)
    | dsimp only [id]
    | lift_lets
    | with_reducible refine keeps_ite ?_ ?_)

theorem execPfcPauseExpiry_keeps (p : Sys2Proof.Port) (prio : Fin 8) (s : State) :
    ∃ t_, execPfcPauseExpiry p prio s = .next t_ ∧ Keeps 0x3000184 s t_ := by
  have h := Keeps.refl 0x3000184 s
  have hw := Sub.refl 0x3000184
  
  refine ⟨_, rfl, ?_⟩
  repeat' (first
    | with_reducible assumption
    | (intro t_; first | (with_reducible refine keeps_cut (w := w) (s := s0) (t := t_) ?_ ?_; intro ht_; rotate_left; dsimp -zeta only [t_]) | skip)
    | with_reducible apply State.when_keeps (Sub.trans rfl hw)
    | with_reducible apply State.wrB_keeps (Sub.trans rfl hw)
    | with_reducible apply State.expire_keeps (Sub.trans rfl hw)
    | dsimp only [id]
    | lift_lets
    | with_reducible refine keeps_ite ?_ ?_)

end Sys2Proof.Machine
end

