-- ==== Sys2Proof/Laws/Field.lean ====
section
/-! SUPPORT. What the functions of Machine/Field.lean keep, one lemma for each. -/

namespace Sys2Proof.Machine

theorem State.setMvb_keeps {w : Nat} {s0 s : State} (hw : Sub 0x40000 w) (h : Keeps w s0 s) (n : Nat) (m : Sys2Proof.Machine.Mvb) :
    Keeps w s0 (State.setMvb s n m) := by
  have b18 := Sub.bit (i := 18) hw rfl
  unfold State.setMvb
  repeat' (first
    | with_reducible assumption
    | (intro t_; first | (with_reducible refine keeps_cut (w := w) (s := s0) (t := t_) ?_ ?_; intro ht_; rotate_left; dsimp -zeta only [t_]) | skip)
    | lift_lets
    | with_reducible refine keeps_ite ?_ ?_
    | with_reducible refine keeps_upd ?_ (fun x => x) (fun x => x) (.inr rfl) (.inr rfl) (.inr rfl) (.inr rfl) (.inr rfl) (.inr rfl) (.inr rfl) (.inr rfl) (.inr rfl) (.inr rfl) (.inr rfl) (.inr rfl) (.inr rfl) (.inr rfl) (.inr rfl) (.inr rfl) (.inl b18) (.inr rfl) (.inr rfl) (.inr rfl) (.inr rfl) (.inr rfl) (.inr rfl) (.inr rfl) (.inr rfl))

theorem State.fldEnqueue_keeps {w : Nat} {s0 s : State} (hw : Sub 0xc0104 w) (h : Keeps w s0 s) (m : Sys2Proof.Machine.FldMsg) :
    Keeps w s0 (State.fldEnqueue s m) := by
  have b2 := Sub.bit (i := 2) hw rfl; have b8 := Sub.bit (i := 8) hw rfl; have b18 := Sub.bit (i := 18) hw rfl; have b19 := Sub.bit (i := 19) hw rfl
  unfold State.fldEnqueue
  repeat' (first
    | with_reducible assumption
    | (intro t_; first | (with_reducible refine keeps_cut (w := w) (s := s0) (t := t_) ?_ ?_; intro ht_; rotate_left; dsimp -zeta only [t_]) | skip)
    | with_reducible apply State.raise_keeps (Sub.trans rfl hw)
    | with_reducible apply State.countF_keeps (Sub.trans rfl hw)
    | with_reducible apply State.when_keeps (Sub.trans rfl hw)
    | with_reducible apply State.wrF_keeps (Sub.trans rfl hw)
    | with_reducible apply State.edge_keeps (Sub.trans rfl hw)
    | with_reducible apply State.fwdEvent_keeps (Sub.trans rfl hw)
    | dsimp only [id]
    | lift_lets
    | with_reducible refine keeps_ite ?_ ?_
    | with_reducible refine keeps_upd ?_ (fun x => x) (fun x => x) (.inr rfl) (.inl b2) (.inr rfl) (.inr rfl) (.inr rfl) (.inr rfl) (.inl b8) (.inr rfl) (.inr rfl) (.inr rfl) (.inr rfl) (.inr rfl) (.inr rfl) (.inr rfl) (.inr rfl) (.inr rfl) (.inl b18) (.inl b19) (.inr rfl) (.inr rfl) (.inr rfl) (.inr rfl) (.inr rfl) (.inr rfl) (.inr rfl))

theorem State.fldReport_keeps {w : Nat} {s0 s : State} (hw : Sub 0xc0104 w) (h : Keeps w s0 s) (kind : Nat) (src : Nat) (ds : Nat) (info : Nat) (waits : Bool) :
    Keeps w s0 (State.fldReport s kind src ds info waits) := by
  have b2 := Sub.bit (i := 2) hw rfl; have b8 := Sub.bit (i := 8) hw rfl; have b18 := Sub.bit (i := 18) hw rfl; have b19 := Sub.bit (i := 19) hw rfl
  unfold State.fldReport
  repeat' (first
    | with_reducible assumption
    | (intro t_; first | (with_reducible refine keeps_cut (w := w) (s := s0) (t := t_) ?_ ?_; intro ht_; rotate_left; dsimp -zeta only [t_]) | skip)
    | with_reducible apply State.fldEnqueue_keeps (Sub.trans rfl hw)
    | lift_lets
    | with_reducible refine keeps_ite ?_ ?_
    | with_reducible refine keeps_upd ?_ (fun x => x) (fun x => x) (.inr rfl) (.inl b2) (.inr rfl) (.inr rfl) (.inr rfl) (.inr rfl) (.inl b8) (.inr rfl) (.inr rfl) (.inr rfl) (.inr rfl) (.inr rfl) (.inr rfl) (.inr rfl) (.inr rfl) (.inr rfl) (.inl b18) (.inl b19) (.inr rfl) (.inr rfl) (.inr rfl) (.inr rfl) (.inr rfl) (.inr rfl) (.inr rfl))

theorem State.fldRelease_keeps {w : Nat} {s0 s : State} (hw : Sub 0xc0104 w) (h : Keeps w s0 s) (p : Nat → Bool) :
    Keeps w s0 (State.fldRelease s p) := by
  have b2 := Sub.bit (i := 2) hw rfl; have b8 := Sub.bit (i := 8) hw rfl; have b18 := Sub.bit (i := 18) hw rfl; have b19 := Sub.bit (i := 19) hw rfl
  unfold State.fldRelease
  repeat' (first
    | with_reducible assumption
    | (intro t_; first | (with_reducible refine keeps_cut (w := w) (s := s0) (t := t_) ?_ ?_; intro ht_; rotate_left; dsimp -zeta only [t_]) | skip)
    | with_reducible apply State.each_keeps (Sub.trans rfl hw)
    | with_reducible apply State.fldEnqueue_keeps (Sub.trans rfl hw)
    | lift_lets
    | with_reducible refine keeps_ite ?_ ?_
    | with_reducible refine keeps_upd ?_ (fun x => x) (fun x => x) (.inr rfl) (.inl b2) (.inr rfl) (.inr rfl) (.inr rfl) (.inr rfl) (.inl b8) (.inr rfl) (.inr rfl) (.inr rfl) (.inr rfl) (.inr rfl) (.inr rfl) (.inr rfl) (.inr rfl) (.inr rfl) (.inl b18) (.inl b19) (.inr rfl) (.inr rfl) (.inr rfl) (.inr rfl) (.inr rfl) (.inr rfl) (.inr rfl))

theorem State.fldPop_keeps {w : Nat} {s0 s : State} (hw : Sub 0x40004 w) (h : Keeps w s0 s) :
    Keeps w s0 (State.fldPop s) := by
  have b2 := Sub.bit (i := 2) hw rfl; have b18 := Sub.bit (i := 18) hw rfl
  unfold State.fldPop
  repeat' (first
    | with_reducible assumption
    | (intro t_; first | (with_reducible refine keeps_cut (w := w) (s := s0) (t := t_) ?_ ?_; intro ht_; rotate_left; dsimp -zeta only [t_]) | skip)
    | with_reducible apply State.wr_keeps (Sub.trans rfl hw)
    | with_reducible apply State.wrF_keeps (Sub.trans rfl hw)
    | lift_lets
    | with_reducible refine keeps_ite ?_ ?_
    | split
    | (clear_value *; split)
    | with_reducible refine keeps_upd ?_ (fun x => x) (fun x => x) (.inr rfl) (.inl b2) (.inr rfl) (.inr rfl) (.inr rfl) (.inr rfl) (.inr rfl) (.inr rfl) (.inr rfl) (.inr rfl) (.inr rfl) (.inr rfl) (.inr rfl) (.inr rfl) (.inr rfl) (.inr rfl) (.inl b18) (.inr rfl) (.inr rfl) (.inr rfl) (.inr rfl) (.inr rfl) (.inr rfl) (.inr rfl) (.inr rfl))

theorem execFldMsgPop_keeps (agent : Sys2Proof.Agent) (s : State) :
    ∃ t_, execFldMsgPop agent s = .next t_ ∧ Keeps 0x2040004 s t_ := by
  have h := Keeps.refl 0x2040004 s
  have hw := Sub.refl 0x2040004
  
  refine ⟨_, rfl, ?_⟩
  repeat' (first
    | with_reducible assumption
    | (intro t_; first | (with_reducible refine keeps_cut (w := w) (s := s0) (t := t_) ?_ ?_; intro ht_; rotate_left; dsimp -zeta only [t_]) | skip)
    | with_reducible apply State.when_keeps (Sub.trans rfl hw)
    | with_reducible apply State.fldPop_keeps (Sub.trans rfl hw)
    | with_reducible apply State.emit_keeps (Sub.trans rfl hw)
    | dsimp only [id]
    | lift_lets
    | with_reducible refine keeps_ite ?_ ?_)

theorem State.stage_keeps {w : Nat} {s0 s : State} (hw : Sub 0x40000 w) (h : Keeps w s0 s) (ds : Nat) (x : Sys2Proof.Machine.Staged) :
    Keeps w s0 (State.stage s ds x) := by
  have b18 := Sub.bit (i := 18) hw rfl
  unfold State.stage
  repeat' (first
    | with_reducible assumption
    | (intro t_; first | (with_reducible refine keeps_cut (w := w) (s := s0) (t := t_) ?_ ?_; intro ht_; rotate_left; dsimp -zeta only [t_]) | skip)
    | lift_lets
    | with_reducible refine keeps_ite ?_ ?_
    | with_reducible refine keeps_upd ?_ (fun x => x) (fun x => x) (.inr rfl) (.inr rfl) (.inr rfl) (.inr rfl) (.inr rfl) (.inr rfl) (.inr rfl) (.inr rfl) (.inr rfl) (.inr rfl) (.inr rfl) (.inr rfl) (.inr rfl) (.inr rfl) (.inr rfl) (.inr rfl) (.inl b18) (.inr rfl) (.inr rfl) (.inr rfl) (.inr rfl) (.inr rfl) (.inr rfl) (.inr rfl) (.inr rfl))

theorem State.stageIn_keeps {w : Nat} {s0 s : State} (hw : Sub 0x40000 w) (h : Keeps w s0 s) (ds : Nat) (src : Nat) (k : Nat) (data : List Sys2Proof.Byte) :
    Keeps w s0 (State.stageIn s ds src k data) := by
  have b18 := Sub.bit (i := 18) hw rfl
  unfold State.stageIn
  repeat' (first
    | with_reducible assumption
    | (intro t_; first | (with_reducible refine keeps_cut (w := w) (s := s0) (t := t_) ?_ ?_; intro ht_; rotate_left; dsimp -zeta only [t_]) | skip)
    | lift_lets
    | with_reducible refine keeps_ite ?_ ?_
    | with_reducible refine keeps_fst_ite ?_ ?_
    | (with_reducible refine keeps_of_eq (by assumption) ?_)
    | with_reducible refine keeps_upd ?_ (fun x => x) (fun x => x) (.inr rfl) (.inr rfl) (.inr rfl) (.inr rfl) (.inr rfl) (.inr rfl) (.inr rfl) (.inr rfl) (.inr rfl) (.inr rfl) (.inr rfl) (.inr rfl) (.inr rfl) (.inr rfl) (.inr rfl) (.inr rfl) (.inl b18) (.inr rfl) (.inr rfl) (.inr rfl) (.inr rfl) (.inr rfl) (.inr rfl) (.inr rfl) (.inr rfl))

theorem State.dropData_keeps {w : Nat} {s0 s : State} (hw : Sub 0x40000 w) (h : Keeps w s0 s) (ds : Nat) (p : Nat → Bool) :
    Keeps w s0 (State.dropData s ds p) := by
  have b18 := Sub.bit (i := 18) hw rfl
  unfold State.dropData
  repeat' (first
    | with_reducible assumption
    | (intro t_; first | (with_reducible refine keeps_cut (w := w) (s := s0) (t := t_) ?_ ?_; intro ht_; rotate_left; dsimp -zeta only [t_]) | skip)
    | lift_lets
    | with_reducible refine keeps_ite ?_ ?_
    | with_reducible refine keeps_upd ?_ (fun x => x) (fun x => x) (.inr rfl) (.inr rfl) (.inr rfl) (.inr rfl) (.inr rfl) (.inr rfl) (.inr rfl) (.inr rfl) (.inr rfl) (.inr rfl) (.inr rfl) (.inr rfl) (.inr rfl) (.inr rfl) (.inr rfl) (.inr rfl) (.inl b18) (.inr rfl) (.inr rfl) (.inr rfl) (.inr rfl) (.inr rfl) (.inr rfl) (.inr rfl) (.inr rfl))

theorem State.stageOut_keeps {w : Nat} {s0 s : State} (hw : Sub 0x40000 w) (h : Keeps w s0 s) (ds : Nat) :
    Keeps w s0 (State.stageOut s ds) := by
  unfold State.stageOut
  repeat' (first
    | with_reducible assumption
    | (intro t_; first | (with_reducible refine keeps_cut (w := w) (s := s0) (t := t_) ?_ ?_; intro ht_; rotate_left; dsimp -zeta only [t_]) | skip)
    | with_reducible apply State.stage_keeps (Sub.trans rfl hw)
    | lift_lets
    | with_reducible refine keeps_ite ?_ ?_
    | split
    | (clear_value *; split))

theorem State.stageFor_keeps {w : Nat} {s0 s : State} (hw : Sub 0xc0104 w) (h : Keeps w s0 s) (src : Nat) (k : Nat) (ds : Nat) (notify : Bool) :
    Keeps w s0 (State.stageFor s src k ds notify) := by
  unfold State.stageFor
  repeat' (first
    | with_reducible assumption
    | (intro t_; first | (with_reducible refine keeps_cut (w := w) (s := s0) (t := t_) ?_ ?_; intro ht_; rotate_left; dsimp -zeta only [t_]) | skip)
    | with_reducible apply State.when_keeps (Sub.trans rfl hw)
    | with_reducible apply State.stageOut_keeps (Sub.trans rfl hw)
    | with_reducible apply State.fldReport_keeps (Sub.trans rfl hw)
    | dsimp only [id]
    | lift_lets
    | with_reducible refine keeps_ite ?_ ?_)

theorem State.fldCommit_keeps {w : Nat} {s0 s : State} (hw : Sub 0x14a008 w) (h : Keeps w s0 s) (p : Nat → Bool) :
    Keeps w s0 (State.fldCommit s p) := by
  have b3 := Sub.bit (i := 3) hw rfl; have b13 := Sub.bit (i := 13) hw rfl; have b15 := Sub.bit (i := 15) hw rfl; have b18 := Sub.bit (i := 18) hw rfl; have b20 := Sub.bit (i := 20) hw rfl
  unfold State.fldCommit
  repeat' (first
    | with_reducible assumption
    | (intro t_; first | (with_reducible refine keeps_cut (w := w) (s := s0) (t := t_) ?_ ?_; intro ht_; rotate_left; dsimp -zeta only [t_]) | skip)
    | with_reducible apply State.each_keeps (Sub.trans rfl hw)
    | with_reducible apply State.commitData_keeps (Sub.trans rfl hw)
    | with_reducible apply State.dropData_keeps (Sub.trans rfl hw)
    | lift_lets
    | with_reducible refine keeps_ite ?_ ?_
    | split
    | (clear_value *; split)
    | with_reducible refine keeps_fst_ite ?_ ?_
    | (with_reducible refine keeps_of_eq (by assumption) ?_)
    | with_reducible refine keeps_upd ?_ (fun x => x) (fun x => x) (.inr rfl) (.inr rfl) (.inl b3) (.inr rfl) (.inr rfl) (.inr rfl) (.inr rfl) (.inr rfl) (.inr rfl) (.inr rfl) (.inr rfl) (.inl b13) (.inr rfl) (.inl b15) (.inr rfl) (.inr rfl) (.inl b18) (.inr rfl) (.inl b20) (.inr rfl) (.inr rfl) (.inr rfl) (.inr rfl) (.inr rfl) (.inr rfl))

theorem State.mvbJudge_keeps {w : Nat} {s0 s : State} (hw : Sub 0xc0104 w) (h : Keeps w s0 s) (n : Nat) :
    Keeps w s0 (State.mvbJudge s n) := by
  unfold State.mvbJudge
  repeat' (first
    | with_reducible assumption
    | (intro t_; first | (with_reducible refine keeps_cut (w := w) (s := s0) (t := t_) ?_ ?_; intro ht_; rotate_left; dsimp -zeta only [t_]) | skip)
    | with_reducible apply State.wrB_keeps (Sub.trans rfl hw)
    | with_reducible apply State.fldReport_keeps (Sub.trans rfl hw)
    | lift_lets
    | with_reducible refine keeps_ite ?_ ?_
    | split
    | (clear_value *; split))

theorem State.mvbHalt_keeps {w : Nat} {s0 s : State} (hw : Sub 0x4 w) (h : Keeps w s0 s) (n : Nat) :
    Keeps w s0 (State.mvbHalt s n) := by
  unfold State.mvbHalt
  repeat' (first
    | with_reducible assumption
    | (intro t_; first | (with_reducible refine keeps_cut (w := w) (s := s0) (t := t_) ?_ ?_; intro ht_; rotate_left; dsimp -zeta only [t_]) | skip)
    | with_reducible apply State.wrB_keeps (Sub.trans rfl hw)
    | lift_lets
    | with_reducible refine keeps_ite ?_ ?_)

theorem State.mvbVerdict_keeps {w : Nat} {s0 s : State} (hw : Sub 0xc0104 w) (h : Keeps w s0 s) (n : Nat) :
    Keeps w s0 (State.mvbVerdict s n) := by
  unfold State.mvbVerdict
  repeat' (first
    | with_reducible assumption
    | (intro t_; first | (with_reducible refine keeps_cut (w := w) (s := s0) (t := t_) ?_ ?_; intro ht_; rotate_left; dsimp -zeta only [t_]) | skip)
    | with_reducible apply State.mvbHalt_keeps (Sub.trans rfl hw)
    | with_reducible apply State.mvbJudge_keeps (Sub.trans rfl hw)
    | lift_lets
    | with_reducible refine keeps_ite ?_ ?_)

theorem State.mvbRecheck_keeps {w : Nat} {s0 s : State} (hw : Sub 0xc0104 w) (h : Keeps w s0 s) (prf : Nat) (bank : Nat) :
    Keeps w s0 (State.mvbRecheck s prf bank) := by
  unfold State.mvbRecheck
  repeat' (first
    | with_reducible assumption
    | (intro t_; first | (with_reducible refine keeps_cut (w := w) (s := s0) (t := t_) ?_ ?_; intro ht_; rotate_left; dsimp -zeta only [t_]) | skip)
    | with_reducible apply State.each_keeps (Sub.trans rfl hw)
    | with_reducible apply State.mvbJudge_keeps (Sub.trans rfl hw)
    | with_reducible apply State.mvbVerdict_keeps (Sub.trans rfl hw)
    | lift_lets
    | with_reducible refine keeps_ite ?_ ?_)

theorem State.mvbStart_keeps {w : Nat} {s0 s : State} (hw : Sub 0x10c0104 w) (h : Keeps w s0 s) (n : Nat) :
    Keeps w s0 (State.mvbStart s n) := by
  unfold State.mvbStart
  repeat' (first
    | with_reducible assumption
    | (intro t_; first | (with_reducible refine keeps_cut (w := w) (s := s0) (t := t_) ?_ ?_; intro ht_; rotate_left; dsimp -zeta only [t_]) | skip)
    | with_reducible apply State.mvbVerdict_keeps (Sub.trans rfl hw)
    | with_reducible apply State.arm_keeps (Sub.trans rfl hw)
    | with_reducible apply State.wrB_keeps (Sub.trans rfl hw)
    | with_reducible apply State.setMvb_keeps (Sub.trans rfl hw)
    | lift_lets
    | with_reducible refine keeps_ite ?_ ?_)

theorem State.canStart_keeps {w : Nat} {s0 s : State} (hw : Sub 0x4 w) (h : Keeps w s0 s) (c : Nat) :
    Keeps w s0 (State.canStart s c) := by
  unfold State.canStart
  repeat' (first
    | with_reducible assumption
    | (intro t_; first | (with_reducible refine keeps_cut (w := w) (s := s0) (t := t_) ?_ ?_; intro ht_; rotate_left; dsimp -zeta only [t_]) | skip)
    | with_reducible apply State.wr_keeps (Sub.trans rfl hw)
    | lift_lets
    | with_reducible refine keeps_ite ?_ ?_)

theorem State.fldStop_keeps {w : Nat} {s0 s : State} (hw : Sub 0x40004 w) (h : Keeps w s0 s) (i : Nat) :
    Keeps w s0 (State.fldStop s i) := by
  have b2 := Sub.bit (i := 2) hw rfl; have b18 := Sub.bit (i := 18) hw rfl
  unfold State.fldStop
  repeat' (first
    | with_reducible assumption
    | (intro t_; first | (with_reducible refine keeps_cut (w := w) (s := s0) (t := t_) ?_ ?_; intro ht_; rotate_left; dsimp -zeta only [t_]) | skip)
    | with_reducible apply State.wrB_keeps (Sub.trans rfl hw)
    | lift_lets
    | with_reducible refine keeps_ite ?_ ?_
    | with_reducible refine keeps_fst_ite ?_ ?_
    | (with_reducible refine keeps_of_eq (by assumption) ?_)
    | with_reducible refine keeps_upd ?_ (fun x => x) (fun x => x) (.inr rfl) (.inl b2) (.inr rfl) (.inr rfl) (.inr rfl) (.inr rfl) (.inr rfl) (.inr rfl) (.inr rfl) (.inr rfl) (.inr rfl) (.inr rfl) (.inr rfl) (.inr rfl) (.inr rfl) (.inr rfl) (.inl b18) (.inr rfl) (.inr rfl) (.inr rfl) (.inr rfl) (.inr rfl) (.inr rfl) (.inr rfl) (.inr rfl))

theorem State.fldCtrl_keeps {w : Nat} {s0 s : State} (hw : Sub 0x10c0104 w) (h : Keeps w s0 s) (v : Sys2Proof.Word) :
    Keeps w s0 (State.fldCtrl s v) := by
  unfold State.fldCtrl
  repeat' (first
    | with_reducible assumption
    | (intro t_; first | (with_reducible refine keeps_cut (w := w) (s := s0) (t := t_) ?_ ?_; intro ht_; rotate_left; dsimp -zeta only [t_]) | skip)
    | with_reducible apply State.wr_keeps (Sub.trans rfl hw)
    | with_reducible apply State.each_keeps (Sub.trans rfl hw)
    | with_reducible apply State.mvbStart_keeps (Sub.trans rfl hw)
    | with_reducible apply State.canStart_keeps (Sub.trans rfl hw)
    | with_reducible apply State.fldStop_keeps (Sub.trans rfl hw)
    | lift_lets
    | with_reducible refine keeps_ite ?_ ?_)

theorem State.fldEnable_keeps {w : Nat} {s0 s : State} (hw : Sub 0x10c0104 w) (h : Keeps w s0 s) (v : Bool) :
    Keeps w s0 (State.fldEnable s v) := by
  unfold State.fldEnable
  repeat' (first
    | with_reducible assumption
    | (intro t_; first | (with_reducible refine keeps_cut (w := w) (s := s0) (t := t_) ?_ ?_; intro ht_; rotate_left; dsimp -zeta only [t_]) | skip)
    | with_reducible apply State.wrB_keeps (Sub.trans rfl hw)
    | with_reducible apply State.each_keeps (Sub.trans rfl hw)
    | with_reducible apply State.mvbStart_keeps (Sub.trans rfl hw)
    | with_reducible apply State.canStart_keeps (Sub.trans rfl hw)
    | with_reducible apply State.fldStop_keeps (Sub.trans rfl hw)
    | lift_lets
    | with_reducible refine keeps_ite ?_ ?_)

theorem execMvbEnable_keeps (n : Fin 2) (s : State) :
    ∃ t_, execMvbEnable n s = .next t_ ∧ Keeps 0x13c0104 s t_ := by
  have h := Keeps.refl 0x13c0104 s
  have hw := Sub.refl 0x13c0104
  
  refine ⟨_, rfl, ?_⟩
  repeat' (first
    | with_reducible assumption
    | (intro t_; first | (with_reducible refine keeps_cut (w := w) (s := s0) (t := t_) ?_ ?_; intro ht_; rotate_left; dsimp -zeta only [t_]) | skip)
    | with_reducible apply State.guarded_keeps (Sub.trans rfl hw)
    | with_reducible apply State.fldCtrl_keeps (Sub.trans rfl hw)
    | dsimp only [id]
    | lift_lets
    | with_reducible refine keeps_ite ?_ ?_)

theorem execCanEnable_keeps (c : Fin 4) (s : State) :
    ∃ t_, execCanEnable c s = .next t_ ∧ Keeps 0x13c0104 s t_ := by
  have h := Keeps.refl 0x13c0104 s
  have hw := Sub.refl 0x13c0104
  
  refine ⟨_, rfl, ?_⟩
  repeat' (first
    | with_reducible assumption
    | (intro t_; first | (with_reducible refine keeps_cut (w := w) (s := s0) (t := t_) ?_ ?_; intro ht_; rotate_left; dsimp -zeta only [t_]) | skip)
    | with_reducible apply State.guarded_keeps (Sub.trans rfl hw)
    | with_reducible apply State.fldCtrl_keeps (Sub.trans rfl hw)
    | dsimp only [id]
    | lift_lets
    | with_reducible refine keeps_ite ?_ ?_)

theorem State.mvbOut_keeps {w : Nat} {s0 s : State} (hw : Sub 0x2000000 w) (h : Keeps w s0 s) (n : Nat) (f : Bool → Bool → Sys2Proof.Machine.Out) :
    Keeps w s0 (State.mvbOut s n f) := by
  unfold State.mvbOut
  repeat' (first
    | with_reducible assumption
    | (intro t_; first | (with_reducible refine keeps_cut (w := w) (s := s0) (t := t_) ?_ ?_; intro ht_; rotate_left; dsimp -zeta only [t_]) | skip)
    | with_reducible apply State.when_keeps (Sub.trans rfl hw)
    | with_reducible apply State.emit_keeps (Sub.trans rfl hw)
    | dsimp only [id]
    | lift_lets
    | with_reducible refine keeps_ite ?_ ?_)

theorem State.mvbMaster_keeps {w : Nat} {s0 s : State} (hw : Sub 0x3040000 w) (h : Keeps w s0 s) (n : Nat) (i : Nat) :
    Keeps w s0 (State.mvbMaster s n i) := by
  unfold State.mvbMaster
  repeat' (first
    | with_reducible assumption
    | (intro t_; first | (with_reducible refine keeps_cut (w := w) (s := s0) (t := t_) ?_ ?_; intro ht_; rotate_left; dsimp -zeta only [t_]) | skip)
    | with_reducible apply State.mvbOut_keeps (Sub.trans rfl hw)
    | with_reducible apply State.arm_keeps (Sub.trans rfl hw)
    | with_reducible apply State.setMvb_keeps (Sub.trans rfl hw)
    | lift_lets
    | with_reducible refine keeps_ite ?_ ?_
    | with_reducible refine keeps_fst_ite ?_ ?_
    | (with_reducible refine keeps_of_eq (by assumption) ?_))

theorem execMvbMasterFrameSend_keeps (n : Fin 2) (entry : Fin 4096) (s : State) :
    ∃ t_, execMvbMasterFrameSend n entry s = .next t_ ∧ Keeps 0x3040184 s t_ := by
  have h := Keeps.refl 0x3040184 s
  have hw := Sub.refl 0x3040184
  
  refine ⟨_, rfl, ?_⟩
  repeat' (first
    | with_reducible assumption
    | (intro t_; first | (with_reducible refine keeps_cut (w := w) (s := s0) (t := t_) ?_ ?_; intro ht_; rotate_left; dsimp -zeta only [t_]) | skip)
    | with_reducible apply State.when_keeps (Sub.trans rfl hw)
    | with_reducible apply State.mvbMaster_keeps (Sub.trans rfl hw)
    | with_reducible apply State.reachSt_keeps (Sub.trans rfl hw)
    | dsimp only [id]
    | lift_lets
    | with_reducible refine keeps_ite ?_ ?_
    | split
    | (clear_value *; split)
    | with_reducible refine keeps_fst_ite ?_ ?_
    | (with_reducible refine keeps_of_eq (by assumption) ?_))

theorem State.mvbSlave_keeps {w : Nat} {s0 s : State} (hw : Sub 0x20c0104 w) (h : Keeps w s0 s) (n : Nat) (f : Nat) (addr : Nat) :
    Keeps w s0 (State.mvbSlave s n f addr) := by
  unfold State.mvbSlave
  repeat' (first
    | with_reducible assumption
    | (intro t_; first | (with_reducible refine keeps_cut (w := w) (s := s0) (t := t_) ?_ ?_; intro ht_; rotate_left; dsimp -zeta only [t_]) | skip)
    | with_reducible apply State.mvbOut_keeps (Sub.trans rfl hw)
    | with_reducible apply State.stageFor_keeps (Sub.trans rfl hw)
    | lift_lets
    | with_reducible refine keeps_ite ?_ ?_)

theorem execMvbSlaveFrameSend_keeps (n : Fin 2) (fcode : Fin 16) (addr : Fin 4096) (s : State) :
    ∃ t_, execMvbSlaveFrameSend n fcode addr s = .next t_ ∧ Keeps 0x30c0104 s t_ := by
  have h := Keeps.refl 0x30c0104 s
  have hw := Sub.refl 0x30c0104
  
  refine ⟨_, rfl, ?_⟩
  repeat' (first
    | with_reducible assumption
    | (intro t_; first | (with_reducible refine keeps_cut (w := w) (s := s0) (t := t_) ?_ ?_; intro ht_; rotate_left; dsimp -zeta only [t_]) | skip)
    | with_reducible apply State.when_keeps (Sub.trans rfl hw)
    | with_reducible apply State.mvbSlave_keeps (Sub.trans rfl hw)
    | with_reducible apply State.setMvb_keeps (Sub.trans rfl hw)
    | with_reducible apply State.arm_keeps (Sub.trans rfl hw)
    | dsimp only [id]
    | lift_lets
    | with_reducible refine keeps_ite ?_ ?_
    | with_reducible refine keeps_fst_ite ?_ ?_
    | (with_reducible refine keeps_of_eq (by assumption) ?_))

theorem State.mvbLine_keeps {w : Nat} {s0 s : State} (hw : Sub 0xc0104 w) (h : Keeps w s0 s) (n : Nat) (a : Bool) (b : Bool) :
    Keeps w s0 (State.mvbLine s n a b) := by
  unfold State.mvbLine
  repeat' (first
    | with_reducible assumption
    | (intro t_; first | (with_reducible refine keeps_cut (w := w) (s := s0) (t := t_) ?_ ?_; intro ht_; rotate_left; dsimp -zeta only [t_]) | skip)
    | with_reducible apply State.wrB_keeps (Sub.trans rfl hw)
    | with_reducible apply State.setMvb_keeps (Sub.trans rfl hw)
    | with_reducible apply State.fldReport_keeps (Sub.trans rfl hw)
    | with_reducible apply State.count_keeps (Sub.trans rfl hw)
    | lift_lets
    | with_reducible refine keeps_ite ?_ ?_)

theorem State.mvbFail_keeps {w : Nat} {s0 s : State} (hw : Sub 0xc0104 w) (h : Keeps w s0 s) (n : Nat) (f : Nat) (addr : Nat) (badA : Bool) (badB : Bool) :
    Keeps w s0 (State.mvbFail s n f addr badA badB) := by
  unfold State.mvbFail
  repeat' (first
    | with_reducible assumption
    | (intro t_; first | (with_reducible refine keeps_cut (w := w) (s := s0) (t := t_) ?_ ?_; intro ht_; rotate_left; dsimp -zeta only [t_]) | skip)
    | with_reducible apply State.wrB_keeps (Sub.trans rfl hw)
    | with_reducible apply State.setMvb_keeps (Sub.trans rfl hw)
    | with_reducible apply State.fldReport_keeps (Sub.trans rfl hw)
    | with_reducible apply State.when_keeps (Sub.trans rfl hw)
    | with_reducible apply State.countF_keeps (Sub.trans rfl hw)
    | with_reducible apply State.count_keeps (Sub.trans rfl hw)
    | dsimp only [id]
    | lift_lets
    | with_reducible refine keeps_ite ?_ ?_
    | with_reducible refine keeps_fst_ite ?_ ?_
    | (with_reducible refine keeps_of_eq (by assumption) ?_))

theorem State.mvbTake_keeps {w : Nat} {s0 s : State} (hw : Sub 0xc0104 w) (h : Keeps w s0 s) (n : Nat) (f : Nat) (addr : Nat) (a : Bool) (b : Bool) (data : List Sys2Proof.Byte) :
    Keeps w s0 (State.mvbTake s n f addr a b data) := by
  unfold State.mvbTake
  repeat' (first
    | with_reducible assumption
    | (intro t_; first | (with_reducible refine keeps_cut (w := w) (s := s0) (t := t_) ?_ ?_; intro ht_; rotate_left; dsimp -zeta only [t_]) | skip)
    | with_reducible apply State.mvbLine_keeps (Sub.trans rfl hw)
    | with_reducible apply State.setMvb_keeps (Sub.trans rfl hw)
    | with_reducible apply State.when_keeps (Sub.trans rfl hw)
    | with_reducible apply State.stageIn_keeps (Sub.trans rfl hw)
    | with_reducible apply State.fldReport_keeps (Sub.trans rfl hw)
    | dsimp only [id]
    | lift_lets
    | with_reducible refine keeps_ite ?_ ?_
    | with_reducible refine keeps_fst_ite ?_ ?_
    | (with_reducible refine keeps_of_eq (by assumption) ?_))

theorem execMvbFrameRx_keeps (n : Fin 2) (fcode : Fin 16) (addr : Fin 4096) (a : Sys2Proof.MvbLine) (b : Sys2Proof.MvbLine) (data : List Sys2Proof.Byte) (s : State) :
    ∃ t_, execMvbFrameRx n fcode addr a b data s = .next t_ ∧ Keeps 0xc0104 s t_ := by
  have h := Keeps.refl 0xc0104 s
  have hw := Sub.refl 0xc0104
  
  refine ⟨_, rfl, ?_⟩
  repeat' (first
    | with_reducible assumption
    | (intro t_; first | (with_reducible refine keeps_cut (w := w) (s := s0) (t := t_) ?_ ?_; intro ht_; rotate_left; dsimp -zeta only [t_]) | skip)
    | with_reducible apply State.when_keeps (Sub.trans rfl hw)
    | with_reducible apply State.mvbTake_keeps (Sub.trans rfl hw)
    | with_reducible apply State.mvbFail_keeps (Sub.trans rfl hw)
    | dsimp only [id]
    | lift_lets
    | with_reducible refine keeps_ite ?_ ?_)

theorem execMvbReplyTimeout_keeps (n : Fin 2) (addr : Fin 4096) (badA : Bool) (badB : Bool) (s : State) :
    ∃ t_, execMvbReplyTimeout n addr badA badB s = .next t_ ∧ Keeps 0x30c0184 s t_ := by
  have h := Keeps.refl 0x30c0184 s
  have hw := Sub.refl 0x30c0184
  
  refine ⟨_, rfl, ?_⟩
  repeat' (first
    | with_reducible assumption
    | (intro t_; first | (with_reducible refine keeps_cut (w := w) (s := s0) (t := t_) ?_ ?_; intro ht_; rotate_left; dsimp -zeta only [t_]) | skip)
    | with_reducible apply State.when_keeps (Sub.trans rfl hw)
    | with_reducible apply State.mvbFail_keeps (Sub.trans rfl hw)
    | with_reducible apply State.expire_keeps (Sub.trans rfl hw)
    | dsimp only [id]
    | lift_lets
    | with_reducible refine keeps_ite ?_ ?_
    | split
    | (clear_value *; split)
    | with_reducible refine keeps_fst_ite ?_ ?_
    | (with_reducible refine keeps_of_eq (by assumption) ?_))

theorem execMvbNoMaster_keeps (n : Fin 2) (s : State) :
    ∃ t_, execMvbNoMaster n s = .next t_ ∧ Keeps 0x30c0184 s t_ := by
  have h := Keeps.refl 0x30c0184 s
  have hw := Sub.refl 0x30c0184
  
  refine ⟨_, rfl, ?_⟩
  repeat' (first
    | with_reducible assumption
    | (intro t_; first | (with_reducible refine keeps_cut (w := w) (s := s0) (t := t_) ?_ ?_; intro ht_; rotate_left; dsimp -zeta only [t_]) | skip)
    | with_reducible apply State.when_keeps (Sub.trans rfl hw)
    | with_reducible apply State.fldReport_keeps (Sub.trans rfl hw)
    | with_reducible apply State.setMvb_keeps (Sub.trans rfl hw)
    | with_reducible apply State.expire_keeps (Sub.trans rfl hw)
    | dsimp only [id]
    | lift_lets
    | with_reducible refine keeps_ite ?_ ?_)

theorem execMvbBasicPeriodEnd_keeps (n : Fin 2) (s : State) :
    ∃ t_, execMvbBasicPeriodEnd n s = .next t_ ∧ Keeps 0x31ca18c s t_ := by
  have h := Keeps.refl 0x31ca18c s
  have hw := Sub.refl 0x31ca18c
  
  refine ⟨_, rfl, ?_⟩
  repeat' (first
    | with_reducible assumption
    | (intro t_; first | (with_reducible refine keeps_cut (w := w) (s := s0) (t := t_) ?_ ?_; intro ht_; rotate_left; dsimp -zeta only [t_]) | skip)
    | with_reducible apply State.when_keeps (Sub.trans rfl hw)
    | with_reducible apply State.arm_keeps (Sub.trans rfl hw)
    | with_reducible apply State.expire_keeps (Sub.trans rfl hw)
    | with_reducible apply State.fldRelease_keeps (Sub.trans rfl hw)
    | with_reducible apply State.fldCommit_keeps (Sub.trans rfl hw)
    | with_reducible apply State.setMvb_keeps (Sub.trans rfl hw)
    | dsimp only [id]
    | lift_lets
    | with_reducible refine keeps_ite ?_ ?_)

theorem State.canRequest_keeps {w : Nat} {s0 s : State} (hw : Sub 0xc0104 w) (h : Keeps w s0 s) (c : Nat) (m : Nat) :
    Keeps w s0 (State.canRequest s c m) := by
  have b2 := Sub.bit (i := 2) hw rfl; have b8 := Sub.bit (i := 8) hw rfl; have b18 := Sub.bit (i := 18) hw rfl; have b19 := Sub.bit (i := 19) hw rfl
  unfold State.canRequest
  repeat' (first
    | with_reducible assumption
    | (intro t_; first | (with_reducible refine keeps_cut (w := w) (s := s0) (t := t_) ?_ ?_; intro ht_; rotate_left; dsimp -zeta only [t_]) | skip)
    | with_reducible apply State.fldReport_keeps (Sub.trans rfl hw)
    | with_reducible apply State.count_keeps (Sub.trans rfl hw)
    | lift_lets
    | with_reducible refine keeps_ite ?_ ?_
    | with_reducible refine keeps_fst_ite ?_ ?_
    | (with_reducible refine keeps_of_eq (by assumption) ?_)
    | with_reducible refine keeps_upd ?_ (fun x => x) (fun x => x) (.inr rfl) (.inl b2) (.inr rfl) (.inr rfl) (.inr rfl) (.inr rfl) (.inl b8) (.inr rfl) (.inr rfl) (.inr rfl) (.inr rfl) (.inr rfl) (.inr rfl) (.inr rfl) (.inr rfl) (.inr rfl) (.inl b18) (.inl b19) (.inr rfl) (.inr rfl) (.inr rfl) (.inr rfl) (.inr rfl) (.inr rfl) (.inr rfl))

theorem execCanFieldTrigger_keeps (sid : Fin 4096) (s : State) :
    ∃ t_, execCanFieldTrigger sid s = .next t_ ∧ Keeps 0x30c0184 s t_ := by
  have h := Keeps.refl 0x30c0184 s
  have hw := Sub.refl 0x30c0184
  
  refine ⟨_, rfl, ?_⟩
  repeat' (first
    | with_reducible assumption
    | (intro t_; first | (with_reducible refine keeps_cut (w := w) (s := s0) (t := t_) ?_ ?_; intro ht_; rotate_left; dsimp -zeta only [t_]) | skip)
    | with_reducible apply State.when_keeps (Sub.trans rfl hw)
    | with_reducible apply State.each_keeps (Sub.trans rfl hw)
    | with_reducible apply State.reachSt_keeps (Sub.trans rfl hw)
    | with_reducible apply State.canRequest_keeps (Sub.trans rfl hw)
    | dsimp only [id]
    | lift_lets
    | with_reducible refine keeps_ite ?_ ?_
    | split
    | (clear_value *; split))

theorem State.canSend_keeps {w : Nat} {s0 t : State} (hw : Sub 0x20c0104 w) (h : Keeps w s0 t) (c : Nat) (y2 : Option Nat) :
    Keeps w s0 (State.canSend t c y2) := by
  have b2 := Sub.bit (i := 2) hw rfl; have b8 := Sub.bit (i := 8) hw rfl; have b18 := Sub.bit (i := 18) hw rfl; have b19 := Sub.bit (i := 19) hw rfl; have b25 := Sub.bit (i := 25) hw rfl
  unfold State.canSend
  repeat' (first
    | with_reducible assumption
    | (intro t_; first | (with_reducible refine keeps_cut (w := w) (s := s0) (t := t_) ?_ ?_; intro ht_; rotate_left; dsimp -zeta only [t_]) | skip)
    | with_reducible apply State.stageFor_keeps (Sub.trans rfl hw)
    | with_reducible apply State.emit_keeps (Sub.trans rfl hw)
    | lift_lets
    | with_reducible refine keeps_ite ?_ ?_
    | split
    | (clear_value *; split)
    | with_reducible refine keeps_fst_ite ?_ ?_
    | (with_reducible refine keeps_of_eq (by assumption) ?_)
    | with_reducible refine keeps_upd ?_ (fun x => x) (fun x => x) (.inr rfl) (.inl b2) (.inr rfl) (.inr rfl) (.inr rfl) (.inr rfl) (.inl b8) (.inr rfl) (.inr rfl) (.inr rfl) (.inr rfl) (.inr rfl) (.inr rfl) (.inr rfl) (.inr rfl) (.inr rfl) (.inl b18) (.inl b19) (.inr rfl) (.inr rfl) (.inr rfl) (.inr rfl) (.inr rfl) (.inl b25) (.inr rfl))

theorem execCanFrameTx_keeps (c : Fin 4) (s : State) :
    ∃ t_, execCanFrameTx c s = .next t_ ∧ Keeps 0x20c0104 s t_ := by
  have h := Keeps.refl 0x20c0104 s
  have hw := Sub.refl 0x20c0104
  
  refine ⟨_, rfl, ?_⟩
  repeat' (first
    | with_reducible assumption
    | (intro t_; first | (with_reducible refine keeps_cut (w := w) (s := s0) (t := t_) ?_ ?_; intro ht_; rotate_left; dsimp -zeta only [t_]) | skip)
    | with_reducible apply State.when_keeps (Sub.trans rfl hw)
    | with_reducible apply State.canSend_keeps (Sub.trans rfl hw)
    | dsimp only [id]
    | lift_lets
    | with_reducible refine keeps_ite ?_ ?_)

theorem State.canTake_keeps {w : Nat} {s0 s : State} (hw : Sub 0x1ca10c w) (h : Keeps w s0 s) (c : Nat) (m : Nat) (data : List Sys2Proof.Byte) :
    Keeps w s0 (State.canTake s c m data) := by
  unfold State.canTake
  repeat' (first
    | with_reducible assumption
    | (intro t_; first | (with_reducible refine keeps_cut (w := w) (s := s0) (t := t_) ?_ ?_; intro ht_; rotate_left; dsimp -zeta only [t_]) | skip)
    | with_reducible apply State.stageIn_keeps (Sub.trans rfl hw)
    | with_reducible apply State.when_keeps (Sub.trans rfl hw)
    | with_reducible apply State.fldReport_keeps (Sub.trans rfl hw)
    | with_reducible apply State.fldRelease_keeps (Sub.trans rfl hw)
    | with_reducible apply State.fldCommit_keeps (Sub.trans rfl hw)
    | dsimp only [id]
    | lift_lets
    | with_reducible refine keeps_ite ?_ ?_
    | with_reducible refine keeps_fst_ite ?_ ?_
    | (with_reducible refine keeps_of_eq (by assumption) ?_))

theorem State.canGot_keeps {w : Nat} {s0 t : State} (hw : Sub 0x1ca10c w) (h : Keeps w s0 t) (c : Nat) (fdf : Bool) (dlc : Nat) (data : List Sys2Proof.Byte) (y5 : Option Nat) :
    Keeps w s0 (State.canGot t c fdf dlc data y5) := by
  unfold State.canGot
  repeat' (first
    | with_reducible assumption
    | (intro t_; first | (with_reducible refine keeps_cut (w := w) (s := s0) (t := t_) ?_ ?_; intro ht_; rotate_left; dsimp -zeta only [t_]) | skip)
    | with_reducible apply State.count_keeps (Sub.trans rfl hw)
    | with_reducible apply State.canTake_keeps (Sub.trans rfl hw)
    | with_reducible apply State.fldReport_keeps (Sub.trans rfl hw)
    | with_reducible apply State.fldRelease_keeps (Sub.trans rfl hw)
    | lift_lets
    | with_reducible refine keeps_ite ?_ ?_
    | split
    | (clear_value *; split))

theorem execCanFrameRx_keeps (c : Fin 4) (ide : Bool) (fdf : Bool) (brs : Bool) (cid : BitVec 29) (dlc : BitVec 4) (data : List Sys2Proof.Byte) (s : State) :
    ∃ t_, execCanFrameRx c ide fdf brs cid dlc data s = .next t_ ∧ Keeps 0x1ca10c s t_ := by
  have h := Keeps.refl 0x1ca10c s
  have hw := Sub.refl 0x1ca10c
  
  refine ⟨_, rfl, ?_⟩
  repeat' (first
    | with_reducible assumption
    | (intro t_; first | (with_reducible refine keeps_cut (w := w) (s := s0) (t := t_) ?_ ?_; intro ht_; rotate_left; dsimp -zeta only [t_]) | skip)
    | with_reducible apply State.when_keeps (Sub.trans rfl hw)
    | with_reducible apply State.canGot_keeps (Sub.trans rfl hw)
    | dsimp only [id]
    | lift_lets
    | with_reducible refine keeps_ite ?_ ?_)

theorem execCanErrorStateChange_keeps (c : Fin 4) (st : Sys2Proof.CanState) (tec : Sys2Proof.Byte) (rec : Sys2Proof.Byte) (s : State) :
    ∃ t_, execCanErrorStateChange c st tec rec s = .next t_ ∧ Keeps 0x10c0104 s t_ := by
  have h := Keeps.refl 0x10c0104 s
  have hw := Sub.refl 0x10c0104
  
  refine ⟨_, rfl, ?_⟩
  repeat' (first
    | with_reducible assumption
    | (intro t_; first | (with_reducible refine keeps_cut (w := w) (s := s0) (t := t_) ?_ ?_; intro ht_; rotate_left; dsimp -zeta only [t_]) | skip)
    | with_reducible apply State.when_keeps (Sub.trans rfl hw)
    | with_reducible apply State.wr_keeps (Sub.trans rfl hw)
    | with_reducible apply State.fldReport_keeps (Sub.trans rfl hw)
    | with_reducible apply State.arm_keeps (Sub.trans rfl hw)
    | dsimp only [id]
    | lift_lets
    | with_reducible refine keeps_ite ?_ ?_
    | split
    | (clear_value *; split))

theorem execCanBusOn_keeps (c : Fin 4) (s : State) :
    ∃ t_, execCanBusOn c s = .next t_ ∧ Keeps 0x30c0184 s t_ := by
  have h := Keeps.refl 0x30c0184 s
  have hw := Sub.refl 0x30c0184
  
  refine ⟨_, rfl, ?_⟩
  repeat' (first
    | with_reducible assumption
    | (intro t_; first | (with_reducible refine keeps_cut (w := w) (s := s0) (t := t_) ?_ ?_; intro ht_; rotate_left; dsimp -zeta only [t_]) | skip)
    | with_reducible apply State.when_keeps (Sub.trans rfl hw)
    | with_reducible apply State.fldReport_keeps (Sub.trans rfl hw)
    | with_reducible apply State.canStart_keeps (Sub.trans rfl hw)
    | with_reducible apply State.expire_keeps (Sub.trans rfl hw)
    | dsimp only [id]
    | lift_lets
    | with_reducible refine keeps_ite ?_ ?_)

theorem State.fldLatch_keeps {w : Nat} {s0 s : State} (hw : Sub 0xc0104 w) (h : Keeps w s0 s) :
    Keeps w s0 (State.fldLatch s) := by
  unfold State.fldLatch
  repeat' (first
    | with_reducible assumption
    | (intro t_; first | (with_reducible refine keeps_cut (w := w) (s := s0) (t := t_) ?_ ?_; intro ht_; rotate_left; dsimp -zeta only [t_]) | skip)
    | with_reducible apply State.each_keeps (Sub.trans rfl hw)
    | with_reducible apply State.stageOut_keeps (Sub.trans rfl hw)
    | with_reducible apply State.fldReport_keeps (Sub.trans rfl hw)
    | with_reducible apply State.canRequest_keeps (Sub.trans rfl hw)
    | lift_lets
    | with_reducible refine keeps_ite ?_ ?_
    | with_reducible refine keeps_fst_ite ?_ ?_
    | (with_reducible refine keeps_of_eq (by assumption) ?_))

theorem State.fldSample_keeps {w : Nat} {s0 s : State} (hw : Sub 0x1ca10c w) (h : Keeps w s0 s) :
    Keeps w s0 (State.fldSample s) := by
  unfold State.fldSample
  repeat' (first
    | with_reducible assumption
    | (intro t_; first | (with_reducible refine keeps_cut (w := w) (s := s0) (t := t_) ?_ ?_; intro ht_; rotate_left; dsimp -zeta only [t_]) | skip)
    | with_reducible apply State.fldRelease_keeps (Sub.trans rfl hw)
    | with_reducible apply State.fldCommit_keeps (Sub.trans rfl hw)
    | lift_lets
    | with_reducible refine keeps_ite ?_ ?_)

theorem State.fldBoundary_keeps {w : Nat} {s0 s : State} (hw : Sub 0xc0104 w) (h : Keeps w s0 s) (len : Nat) (changed : Bool) :
    Keeps w s0 (State.fldBoundary s len changed) := by
  unfold State.fldBoundary
  repeat' (first
    | with_reducible assumption
    | (intro t_; first | (with_reducible refine keeps_cut (w := w) (s := s0) (t := t_) ?_ ?_; intro ht_; rotate_left; dsimp -zeta only [t_]) | skip)
    | with_reducible apply State.each_keeps (Sub.trans rfl hw)
    | with_reducible apply State.setMvb_keeps (Sub.trans rfl hw)
    | with_reducible apply State.mvbVerdict_keeps (Sub.trans rfl hw)
    | with_reducible apply State.mvbHalt_keeps (Sub.trans rfl hw)
    | lift_lets
    | with_reducible refine keeps_ite ?_ ?_)

theorem State.mvbRowsStart_keeps {w : Nat} {s0 s : State} (hw : Sub 0x40000 w) (h : Keeps w s0 s) :
    Keeps w s0 (State.mvbRowsStart s) := by
  unfold State.mvbRowsStart
  repeat' (first
    | with_reducible assumption
    | (intro t_; first | (with_reducible refine keeps_cut (w := w) (s := s0) (t := t_) ?_ ?_; intro ht_; rotate_left; dsimp -zeta only [t_]) | skip)
    | with_reducible apply State.each_keeps (Sub.trans rfl hw)
    | with_reducible apply State.setMvb_keeps (Sub.trans rfl hw)
    | lift_lets
    | with_reducible refine keeps_ite ?_ ?_)

theorem State.fldWinWrite_keeps {w : Nat} {s0 s : State} (hw : Sub 0x810c w) (h : Keeps w s0 s) (o : Nat) (v : Sys2Proof.Word) :
    Keeps w s0 (State.fldWinWrite s o v) := by
  unfold State.fldWinWrite
  repeat' (first
    | with_reducible assumption
    | (intro t_; first | (with_reducible refine keeps_cut (w := w) (s := s0) (t := t_) ?_ ?_; intro ht_; rotate_left; dsimp -zeta only [t_]) | skip)
    | with_reducible apply State.raise_keeps (Sub.trans rfl hw)
    | with_reducible apply State.noteEnt_keeps (Sub.trans rfl hw)
    | with_reducible apply State.setTw_keeps (Sub.trans rfl hw)
    | lift_lets
    | with_reducible refine keeps_ite ?_ ?_
    | split
    | (clear_value *; split))

end Sys2Proof.Machine
end

