-- ==== Sys2Proof/Laws/Markers.lean ====
section
/-! SUPPORT. What the functions of Machine/Markers.lean keep, one lemma for each. -/

namespace Sys2Proof.Machine

theorem State.marker_keeps {w : Nat} {s0 s : State} (hw : Sub 0x3000584 w) (h : Keeps w s0 s) (sub : Nat) (f : Sys2Proof.Machine.State → Sys2Proof.Machine.State) (h_f : ∀ t_, Keeps w s0 t_ → Keeps w s0 (f t_)) :
    Keeps w s0 (State.marker s sub f) := by
  have b2 := Sub.bit (i := 2) hw rfl; have b7 := Sub.bit (i := 7) hw rfl; have b8 := Sub.bit (i := 8) hw rfl; have b10 := Sub.bit (i := 10) hw rfl; have b24 := Sub.bit (i := 24) hw rfl; have b25 := Sub.bit (i := 25) hw rfl
  unfold State.marker
  repeat' (first
    | with_reducible assumption
    | (intro t_; first | (with_reducible refine keeps_cut (w := w) (s := s0) (t := t_) ?_ ?_; intro ht_; rotate_left; dsimp -zeta only [t_]) | skip)
    | with_reducible apply h_f
    | with_reducible apply State.when_keeps (Sub.trans rfl hw)
    | with_reducible apply State.reachSt_keeps (Sub.trans rfl hw)
    | with_reducible apply State.raise_keeps (Sub.trans rfl hw)
    | dsimp only [id]
    | lift_lets
    | with_reducible refine keeps_ite ?_ ?_
    | split
    | (clear_value *; split)
    | with_reducible refine keeps_upd ?_ (fun x => x) (fun x => x) (.inr rfl) (.inl b2) (.inr rfl) (.inr rfl) (.inr rfl) (.inl b7) (.inl b8) (.inr rfl) (.inl b10) (.inr rfl) (.inr rfl) (.inr rfl) (.inr rfl) (.inr rfl) (.inr rfl) (.inr rfl) (.inr rfl) (.inr rfl) (.inr rfl) (.inr rfl) (.inr rfl) (.inr rfl) (.inl b24) (.inl b25) (.inr rfl))

theorem State.stmPulse_keeps {w : Nat} {s0 s : State} (hw : Sub 0x3000400 w) (h : Keeps w s0 s) (pins : Nat) :
    Keeps w s0 (State.stmPulse s pins) := by
  have b10 := Sub.bit (i := 10) hw rfl; have b24 := Sub.bit (i := 24) hw rfl; have b25 := Sub.bit (i := 25) hw rfl
  unfold State.stmPulse
  repeat' (first
    | with_reducible assumption
    | (intro t_; first | (with_reducible refine keeps_cut (w := w) (s := s0) (t := t_) ?_ ?_; intro ht_; rotate_left; dsimp -zeta only [t_]) | skip)
    | with_reducible apply State.each_keeps (Sub.trans rfl hw)
    | with_reducible apply State.emit_keeps (Sub.trans rfl hw)
    | with_reducible apply State.arm_keeps (Sub.trans rfl hw)
    | lift_lets
    | with_reducible refine keeps_ite ?_ ?_
    | with_reducible refine keeps_upd ?_ (fun x => x) (fun x => x) (.inr rfl) (.inr rfl) (.inr rfl) (.inr rfl) (.inr rfl) (.inr rfl) (.inr rfl) (.inr rfl) (.inl b10) (.inr rfl) (.inr rfl) (.inr rfl) (.inr rfl) (.inr rfl) (.inr rfl) (.inr rfl) (.inr rfl) (.inr rfl) (.inr rfl) (.inr rfl) (.inr rfl) (.inr rfl) (.inl b24) (.inl b25) (.inr rfl))

theorem State.latchPins_keeps {w : Nat} {s0 s : State} (hw : Sub 0x3000404 w) (h : Keeps w s0 s) :
    Keeps w s0 (State.latchPins s) := by
  unfold State.latchPins
  repeat' (first
    | with_reducible assumption
    | (intro t_; first | (with_reducible refine keeps_cut (w := w) (s := s0) (t := t_) ?_ ?_; intro ht_; rotate_left; dsimp -zeta only [t_]) | skip)
    | with_reducible apply State.stmPulse_keeps (Sub.trans rfl hw)
    | with_reducible apply State.wrF_keeps (Sub.trans rfl hw)
    | with_reducible apply State.wr_keeps (Sub.trans rfl hw)
    | lift_lets
    | with_reducible refine keeps_ite ?_ ?_)

theorem execOutputLatch_keeps (s : State) :
    ∃ t_, execOutputLatch s = .next t_ ∧ Keeps 0x79ea584 s t_ := by
  have h := Keeps.refl 0x79ea584 s
  have hw := Sub.refl 0x79ea584
  
  refine ⟨_, rfl, ?_⟩
  repeat' (first
    | with_reducible assumption
    | (intro t_; first | (with_reducible refine keeps_cut (w := w) (s := s0) (t := t_) ?_ ?_; intro ht_; rotate_left; dsimp -zeta only [t_]) | skip)
    | with_reducible apply State.marker_keeps (Sub.trans rfl hw)
    | with_reducible apply State.trdpRow_keeps (Sub.trans rfl hw)
    | with_reducible apply State.fldLatch_keeps (Sub.trans rfl hw)
    | with_reducible apply State.latchPins_keeps (Sub.trans rfl hw)
    | dsimp only [id]
    | lift_lets
    | with_reducible refine keeps_ite ?_ ?_)

theorem State.samplePins_keeps {w : Nat} {s0 s : State} (hw : Sub 0x404 w) (h : Keeps w s0 s) (gpio : Sys2Proof.Word) (stm : Sys2Proof.Byte) :
    Keeps w s0 (State.samplePins s gpio stm) := by
  have b2 := Sub.bit (i := 2) hw rfl; have b10 := Sub.bit (i := 10) hw rfl
  unfold State.samplePins
  repeat' (first
    | with_reducible assumption
    | (intro t_; first | (with_reducible refine keeps_cut (w := w) (s := s0) (t := t_) ?_ ?_; intro ht_; rotate_left; dsimp -zeta only [t_]) | skip)
    | with_reducible apply State.wr_keeps (Sub.trans rfl hw)
    | lift_lets
    | with_reducible refine keeps_ite ?_ ?_
    | with_reducible refine keeps_upd ?_ (fun x => x) (fun x => x) (.inr rfl) (.inl b2) (.inr rfl) (.inr rfl) (.inr rfl) (.inr rfl) (.inr rfl) (.inr rfl) (.inl b10) (.inr rfl) (.inr rfl) (.inr rfl) (.inr rfl) (.inr rfl) (.inr rfl) (.inr rfl) (.inr rfl) (.inr rfl) (.inr rfl) (.inr rfl) (.inr rfl) (.inr rfl) (.inr rfl) (.inr rfl) (.inr rfl))

theorem execInputSample_keeps (gpio : Sys2Proof.Word) (stm : Sys2Proof.Byte) (s : State) :
    ∃ t_, execInputSample gpio stm s = .next t_ ∧ Keeps 0x31ca58c s t_ := by
  have h := Keeps.refl 0x31ca58c s
  have hw := Sub.refl 0x31ca58c
  
  refine ⟨_, rfl, ?_⟩
  repeat' (first
    | with_reducible assumption
    | (intro t_; first | (with_reducible refine keeps_cut (w := w) (s := s0) (t := t_) ?_ ?_; intro ht_; rotate_left; dsimp -zeta only [t_]) | skip)
    | with_reducible apply State.marker_keeps (Sub.trans rfl hw)
    | with_reducible apply State.fldSample_keeps (Sub.trans rfl hw)
    | with_reducible apply State.samplePins_keeps (Sub.trans rfl hw)
    | dsimp only [id]
    | lift_lets
    | with_reducible refine keeps_ite ?_ ?_)

theorem State.stmFall_keeps {w : Nat} {s0 s : State} (hw : Sub 0x3000584 w) (h : Keeps w s0 s) (n : Nat) :
    Keeps w s0 (State.stmFall s n) := by
  have b2 := Sub.bit (i := 2) hw rfl; have b7 := Sub.bit (i := 7) hw rfl; have b8 := Sub.bit (i := 8) hw rfl; have b10 := Sub.bit (i := 10) hw rfl; have b24 := Sub.bit (i := 24) hw rfl; have b25 := Sub.bit (i := 25) hw rfl
  unfold State.stmFall
  repeat' (first
    | with_reducible assumption
    | (intro t_; first | (with_reducible refine keeps_cut (w := w) (s := s0) (t := t_) ?_ ?_; intro ht_; rotate_left; dsimp -zeta only [t_]) | skip)
    | with_reducible apply State.expire_keeps (Sub.trans rfl hw)
    | with_reducible apply State.emit_keeps (Sub.trans rfl hw)
    | lift_lets
    | with_reducible refine keeps_ite ?_ ?_
    | with_reducible refine keeps_upd ?_ (fun x => x) (fun x => x) (.inr rfl) (.inl b2) (.inr rfl) (.inr rfl) (.inr rfl) (.inl b7) (.inl b8) (.inr rfl) (.inl b10) (.inr rfl) (.inr rfl) (.inr rfl) (.inr rfl) (.inr rfl) (.inr rfl) (.inr rfl) (.inr rfl) (.inr rfl) (.inr rfl) (.inr rfl) (.inr rfl) (.inr rfl) (.inl b24) (.inl b25) (.inr rfl))

theorem execStmPulseEnd_keeps (n : Fin 8) (s : State) :
    ∃ t_, execStmPulseEnd n s = .next t_ ∧ Keeps 0x3000584 s t_ := by
  have h := Keeps.refl 0x3000584 s
  have hw := Sub.refl 0x3000584
  
  refine ⟨_, rfl, ?_⟩
  repeat' (first
    | with_reducible assumption
    | (intro t_; first | (with_reducible refine keeps_cut (w := w) (s := s0) (t := t_) ?_ ?_; intro ht_; rotate_left; dsimp -zeta only [t_]) | skip)
    | with_reducible apply State.when_keeps (Sub.trans rfl hw)
    | with_reducible apply State.stmFall_keeps (Sub.trans rfl hw)
    | dsimp only [id]
    | lift_lets
    | with_reducible refine keeps_ite ?_ ?_)

theorem execStmInEdge_keeps (n : Fin 8) (s : State) :
    ∃ t_, execStmInEdge n s = .next t_ ∧ Keeps 0x400 s t_ := by
  have h := Keeps.refl 0x400 s
  have hw := Sub.refl 0x400
  have b10 := Sub.bit (i := 10) hw rfl; 
  refine ⟨_, rfl, ?_⟩
  repeat' (first
    | with_reducible assumption
    | (intro t_; first | (with_reducible refine keeps_cut (w := w) (s := s0) (t := t_) ?_ ?_; intro ht_; rotate_left; dsimp -zeta only [t_]) | skip)
    | with_reducible apply State.when_keeps (Sub.trans rfl hw)
    | dsimp only [id]
    | lift_lets
    | with_reducible refine keeps_ite ?_ ?_
    | with_reducible refine keeps_upd ?_ (fun x => x) (fun x => x) (.inr rfl) (.inr rfl) (.inr rfl) (.inr rfl) (.inr rfl) (.inr rfl) (.inr rfl) (.inr rfl) (.inl b10) (.inr rfl) (.inr rfl) (.inr rfl) (.inr rfl) (.inr rfl) (.inr rfl) (.inr rfl) (.inr rfl) (.inr rfl) (.inr rfl) (.inr rfl) (.inr rfl) (.inr rfl) (.inr rfl) (.inr rfl) (.inr rfl))

theorem execGpioDirWrite_keeps (value : Sys2Proof.Word) (s : State) :
    ∃ t_, execGpioDirWrite value s = .next t_ ∧ Keeps 0x300104 s t_ := by
  have h := Keeps.refl 0x300104 s
  have hw := Sub.refl 0x300104
  
  refine ⟨_, rfl, ?_⟩
  repeat' (first
    | with_reducible assumption
    | (intro t_; first | (with_reducible refine keeps_cut (w := w) (s := s0) (t := t_) ?_ ?_; intro ht_; rotate_left; dsimp -zeta only [t_]) | skip)
    | with_reducible apply State.guarded_keeps (Sub.trans rfl hw)
    | with_reducible apply State.wr_keeps (Sub.trans rfl hw)
    | dsimp only [id]
    | lift_lets
    | with_reducible refine keeps_ite ?_ ?_)

theorem State.gpioNext_keeps {w : Nat} {s0 s : State} (hw : Sub 0x4 w) (h : Keeps w s0 s) (v : Sys2Proof.Word) :
    Keeps w s0 (State.gpioNext s v) := by
  unfold State.gpioNext
  repeat' (first
    | with_reducible assumption
    | (intro t_; first | (with_reducible refine keeps_cut (w := w) (s := s0) (t := t_) ?_ ?_; intro ht_; rotate_left; dsimp -zeta only [t_]) | skip)
    | with_reducible apply State.when_keeps (Sub.trans rfl hw)
    | with_reducible apply State.wr_keeps (Sub.trans rfl hw)
    | dsimp only [id]
    | lift_lets
    | with_reducible refine keeps_ite ?_ ?_)

theorem execGpioOutNextWrite_keeps (value : Sys2Proof.Word) (s : State) :
    ∃ t_, execGpioOutNextWrite value s = .next t_ ∧ Keeps 0x300104 s t_ := by
  have h := Keeps.refl 0x300104 s
  have hw := Sub.refl 0x300104
  
  refine ⟨_, rfl, ?_⟩
  repeat' (first
    | with_reducible assumption
    | (intro t_; first | (with_reducible refine keeps_cut (w := w) (s := s0) (t := t_) ?_ ?_; intro ht_; rotate_left; dsimp -zeta only [t_]) | skip)
    | with_reducible apply State.guarded_keeps (Sub.trans rfl hw)
    | with_reducible apply State.gpioNext_keeps (Sub.trans rfl hw)
    | dsimp only [id]
    | lift_lets
    | with_reducible refine keeps_ite ?_ ?_)

end Sys2Proof.Machine
end

