-- ==== Sys2Proof/Laws/Bypass.lean ====
section
/-! SUPPORT. What the functions of Machine/Bypass.lean keep, one lemma for each. -/

namespace Sys2Proof.Machine

theorem execInsertOkWrite_keeps (d : Sys2Proof.Die) (v : Bool) (s : State) :
    ∃ t_, execInsertOkWrite d v s = .next t_ ∧ Keeps 0x3300144 s t_ := by
  have h := Keeps.refl 0x3300144 s
  have hw := Sub.refl 0x3300144
  
  refine ⟨_, rfl, ?_⟩
  repeat' (first
    | with_reducible assumption
    | (intro t_; first | (with_reducible refine keeps_cut (w := w) (s := s0) (t := t_) ?_ ?_; intro ht_; rotate_left; dsimp -zeta only [t_]) | skip)
    | with_reducible apply State.guarded_keeps (Sub.trans rfl hw)
    | with_reducible apply State.evalRelays_keeps (Sub.trans rfl hw)
    | with_reducible apply State.setInsLine_keeps (Sub.trans rfl hw)
    | with_reducible apply State.wrB_keeps (Sub.trans rfl hw)
    | dsimp only [id]
    | lift_lets
    | with_reducible refine keeps_ite ?_ ?_)

theorem execInsertLineStop_keeps (d : Sys2Proof.Die) (s : State) :
    ∃ t_, execInsertLineStop d s = .next t_ ∧ Keeps 0x3000144 s t_ := by
  have h := Keeps.refl 0x3000144 s
  have hw := Sub.refl 0x3000144
  
  refine ⟨_, rfl, ?_⟩
  repeat' (first
    | with_reducible assumption
    | (intro t_; first | (with_reducible refine keeps_cut (w := w) (s := s0) (t := t_) ?_ ?_; intro ht_; rotate_left; dsimp -zeta only [t_]) | skip)
    | with_reducible apply State.when_keeps (Sub.trans rfl hw)
    | with_reducible apply State.evalRelays_keeps (Sub.trans rfl hw)
    | with_reducible apply State.setInsLine_keeps (Sub.trans rfl hw)
    | dsimp only [id]
    | lift_lets
    | with_reducible refine keeps_ite ?_ ?_)

theorem State.drive_keeps {w : Nat} {s0 s : State} (hw : Sub 0x3000044 w) (h : Keeps w s0 s) (l : Nat) :
    Keeps w s0 (State.drive s l) := by
  have b2 := Sub.bit (i := 2) hw rfl; have b6 := Sub.bit (i := 6) hw rfl; have b24 := Sub.bit (i := 24) hw rfl; have b25 := Sub.bit (i := 25) hw rfl
  unfold State.drive
  repeat' (first
    | with_reducible assumption
    | (intro t_; first | (with_reducible refine keeps_cut (w := w) (s := s0) (t := t_) ?_ ?_; intro ht_; rotate_left; dsimp -zeta only [t_]) | skip)
    | with_reducible apply State.wrB_keeps (Sub.trans rfl hw)
    | with_reducible apply State.wrF_keeps (Sub.trans rfl hw)
    | with_reducible apply State.setWait_keeps (Sub.trans rfl hw)
    | with_reducible apply State.arm_keeps (Sub.trans rfl hw)
    | with_reducible apply State.disarm_keeps (Sub.trans rfl hw)
    | with_reducible apply State.emit_keeps (Sub.trans rfl hw)
    | lift_lets
    | with_reducible refine keeps_ite ?_ ?_
    | with_reducible refine keeps_upd ?_ (fun x => x) (fun x => x) (.inr rfl) (.inl b2) (.inr rfl) (.inr rfl) (.inl b6) (.inr rfl) (.inr rfl) (.inr rfl) (.inr rfl) (.inr rfl) (.inr rfl) (.inr rfl) (.inr rfl) (.inr rfl) (.inr rfl) (.inr rfl) (.inr rfl) (.inr rfl) (.inr rfl) (.inr rfl) (.inr rfl) (.inr rfl) (.inl b24) (.inl b25) (.inr rfl))

theorem execRelayPullinStart_keeps (l : Sys2Proof.Line) (s : State) :
    ∃ t_, execRelayPullinStart l s = .next t_ ∧ Keeps 0x3000044 s t_ := by
  have h := Keeps.refl 0x3000044 s
  have hw := Sub.refl 0x3000044
  
  refine ⟨_, rfl, ?_⟩
  repeat' (first
    | with_reducible assumption
    | (intro t_; first | (with_reducible refine keeps_cut (w := w) (s := s0) (t := t_) ?_ ?_; intro ht_; rotate_left; dsimp -zeta only [t_]) | skip)
    | with_reducible apply State.when_keeps (Sub.trans rfl hw)
    | with_reducible apply State.setWait_keeps (Sub.trans rfl hw)
    | with_reducible apply State.drive_keeps (Sub.trans rfl hw)
    | dsimp only [id]
    | lift_lets
    | with_reducible refine keeps_ite ?_ ?_)

theorem State.startWaiting_keeps {w : Nat} {s0 s : State} (hw : Sub 0x3000044 w) (h : Keeps w s0 s) :
    Keeps w s0 (State.startWaiting s) := by
  unfold State.startWaiting
  repeat' (first
    | with_reducible assumption
    | (intro t_; first | (with_reducible refine keeps_cut (w := w) (s := s0) (t := t_) ?_ ?_; intro ht_; rotate_left; dsimp -zeta only [t_]) | skip)
    | with_reducible apply State.drive_keeps (Sub.trans rfl hw)
    | lift_lets
    | with_reducible refine keeps_ite ?_ ?_)

theorem execRelayStaggerExpiry_keeps (s : State) :
    ∃ t_, execRelayStaggerExpiry s = .next t_ ∧ Keeps 0x30001c4 s t_ := by
  have h := Keeps.refl 0x30001c4 s
  have hw := Sub.refl 0x30001c4
  
  refine ⟨_, rfl, ?_⟩
  repeat' (first
    | with_reducible assumption
    | (intro t_; first | (with_reducible refine keeps_cut (w := w) (s := s0) (t := t_) ?_ ?_; intro ht_; rotate_left; dsimp -zeta only [t_]) | skip)
    | with_reducible apply State.when_keeps (Sub.trans rfl hw)
    | with_reducible apply State.startWaiting_keeps (Sub.trans rfl hw)
    | with_reducible apply State.expire_keeps (Sub.trans rfl hw)
    | dsimp only [id]
    | lift_lets
    | with_reducible refine keeps_ite ?_ ?_)

theorem State.holdLine_keeps {w : Nat} {s0 s : State} (hw : Sub 0x3000104 w) (h : Keeps w s0 s) (l : Nat) :
    Keeps w s0 (State.holdLine s l) := by
  unfold State.holdLine
  repeat' (first
    | with_reducible assumption
    | (intro t_; first | (with_reducible refine keeps_cut (w := w) (s := s0) (t := t_) ?_ ?_; intro ht_; rotate_left; dsimp -zeta only [t_]) | skip)
    | with_reducible apply State.raise_keeps (Sub.trans rfl hw)
    | with_reducible apply State.emit_keeps (Sub.trans rfl hw)
    | with_reducible apply State.arm_keeps (Sub.trans rfl hw)
    | lift_lets
    | with_reducible refine keeps_ite ?_ ?_)

theorem execRelayPullinEnd_keeps (l : Sys2Proof.Line) (s : State) :
    ∃ t_, execRelayPullinEnd l s = .next t_ ∧ Keeps 0x3000184 s t_ := by
  have h := Keeps.refl 0x3000184 s
  have hw := Sub.refl 0x3000184
  
  refine ⟨_, rfl, ?_⟩
  repeat' (first
    | with_reducible assumption
    | (intro t_; first | (with_reducible refine keeps_cut (w := w) (s := s0) (t := t_) ?_ ?_; intro ht_; rotate_left; dsimp -zeta only [t_]) | skip)
    | with_reducible apply State.when_keeps (Sub.trans rfl hw)
    | with_reducible apply State.holdLine_keeps (Sub.trans rfl hw)
    | with_reducible apply State.wrF_keeps (Sub.trans rfl hw)
    | with_reducible apply State.wrB_keeps (Sub.trans rfl hw)
    | with_reducible apply State.expire_keeps (Sub.trans rfl hw)
    | dsimp only [id]
    | lift_lets
    | with_reducible refine keeps_ite ?_ ?_)

theorem State.relayFault_keeps {w : Nat} {s0 s : State} (hw : Sub 0x104 w) (h : Keeps w s0 s) (n : Nat) (code : Nat) :
    Keeps w s0 (State.relayFault s n code) := by
  unfold State.relayFault
  repeat' (first
    | with_reducible assumption
    | (intro t_; first | (with_reducible refine keeps_cut (w := w) (s := s0) (t := t_) ?_ ?_; intro ht_; rotate_left; dsimp -zeta only [t_]) | skip)
    | with_reducible apply State.raise_keeps (Sub.trans rfl hw)
    | with_reducible apply State.wrB_keeps (Sub.trans rfl hw)
    | with_reducible apply State.wrF_keeps (Sub.trans rfl hw)
    | lift_lets
    | with_reducible refine keeps_ite ?_ ?_)

theorem execBypassFault_keeps (n : Fin 4) (f : Sys2Proof.BypFault) (s : State) :
    ∃ t_, execBypassFault n f s = .next t_ ∧ Keeps 0x30001c4 s t_ := by
  have h := Keeps.refl 0x30001c4 s
  have hw := Sub.refl 0x30001c4
  have b2 := Sub.bit (i := 2) hw rfl; have b6 := Sub.bit (i := 6) hw rfl; have b7 := Sub.bit (i := 7) hw rfl; have b8 := Sub.bit (i := 8) hw rfl; have b24 := Sub.bit (i := 24) hw rfl; have b25 := Sub.bit (i := 25) hw rfl; 
  refine ⟨_, rfl, ?_⟩
  repeat' (first
    | with_reducible assumption
    | (intro t_; first | (with_reducible refine keeps_cut (w := w) (s := s0) (t := t_) ?_ ?_; intro ht_; rotate_left; dsimp -zeta only [t_]) | skip)
    | with_reducible apply State.when_keeps (Sub.trans rfl hw)
    | with_reducible apply State.wrB_keeps (Sub.trans rfl hw)
    | with_reducible apply State.relayFault_keeps (Sub.trans rfl hw)
    | with_reducible apply State.expire_keeps (Sub.trans rfl hw)
    | with_reducible apply State.evalRelays_keeps (Sub.trans rfl hw)
    | dsimp only [id]
    | lift_lets
    | with_reducible refine keeps_ite ?_ ?_
    | split
    | (clear_value *; split)
    | with_reducible refine keeps_upd ?_ (fun x => x) (fun x => x) (.inr rfl) (.inl b2) (.inr rfl) (.inr rfl) (.inl b6) (.inl b7) (.inl b8) (.inr rfl) (.inr rfl) (.inr rfl) (.inr rfl) (.inr rfl) (.inr rfl) (.inr rfl) (.inr rfl) (.inr rfl) (.inr rfl) (.inr rfl) (.inr rfl) (.inr rfl) (.inr rfl) (.inr rfl) (.inl b24) (.inl b25) (.inr rfl))

theorem execBypassClearFault_keeps (s : State) :
    ∃ t_, execBypassClearFault s = .next t_ ∧ Keeps 0x3300144 s t_ := by
  have h := Keeps.refl 0x3300144 s
  have hw := Sub.refl 0x3300144
  have b2 := Sub.bit (i := 2) hw rfl; have b6 := Sub.bit (i := 6) hw rfl; have b8 := Sub.bit (i := 8) hw rfl; have b20 := Sub.bit (i := 20) hw rfl; have b21 := Sub.bit (i := 21) hw rfl; have b24 := Sub.bit (i := 24) hw rfl; have b25 := Sub.bit (i := 25) hw rfl; 
  refine ⟨_, rfl, ?_⟩
  repeat' (first
    | with_reducible assumption
    | (intro t_; first | (with_reducible refine keeps_cut (w := w) (s := s0) (t := t_) ?_ ?_; intro ht_; rotate_left; dsimp -zeta only [t_]) | skip)
    | with_reducible apply State.guarded_keeps (Sub.trans rfl hw)
    | with_reducible apply State.wrF_keeps (Sub.trans rfl hw)
    | with_reducible apply State.wr_keeps (Sub.trans rfl hw)
    | with_reducible apply State.evalRelays_keeps (Sub.trans rfl hw)
    | dsimp only [id]
    | lift_lets
    | with_reducible refine keeps_ite ?_ ?_
    | with_reducible refine keeps_upd ?_ (fun x => x) (fun x => x) (.inr rfl) (.inl b2) (.inr rfl) (.inr rfl) (.inl b6) (.inr rfl) (.inl b8) (.inr rfl) (.inr rfl) (.inr rfl) (.inr rfl) (.inr rfl) (.inr rfl) (.inr rfl) (.inr rfl) (.inr rfl) (.inr rfl) (.inr rfl) (.inl b20) (.inl b21) (.inr rfl) (.inr rfl) (.inl b24) (.inl b25) (.inr rfl))

theorem execCoilRequest_keeps (n : Fin 4) (s : State) :
    ∃ t_, execCoilRequest n s = .next t_ ∧ Keeps 0x300104 s t_ := by
  have h := Keeps.refl 0x300104 s
  have hw := Sub.refl 0x300104
  
  refine ⟨_, rfl, ?_⟩
  repeat' (first
    | with_reducible assumption
    | (intro t_; first | (with_reducible refine keeps_cut (w := w) (s := s0) (t := t_) ?_ ?_; intro ht_; rotate_left; dsimp -zeta only [t_]) | skip)
    | with_reducible apply State.guarded_keeps (Sub.trans rfl hw)
    | with_reducible apply State.wrB_keeps (Sub.trans rfl hw)
    | dsimp only [id]
    | lift_lets
    | with_reducible refine keeps_ite ?_ ?_)

theorem execCoilTestStart_keeps (n : Fin 4) (s : State) :
    ∃ t_, execCoilTestStart n s = .next t_ ∧ Keeps 0x30001c4 s t_ := by
  have h := Keeps.refl 0x30001c4 s
  have hw := Sub.refl 0x30001c4
  have b2 := Sub.bit (i := 2) hw rfl; have b6 := Sub.bit (i := 6) hw rfl; have b7 := Sub.bit (i := 7) hw rfl; have b8 := Sub.bit (i := 8) hw rfl; have b24 := Sub.bit (i := 24) hw rfl; have b25 := Sub.bit (i := 25) hw rfl; 
  refine ⟨_, rfl, ?_⟩
  repeat' (first
    | with_reducible assumption
    | (intro t_; first | (with_reducible refine keeps_cut (w := w) (s := s0) (t := t_) ?_ ?_; intro ht_; rotate_left; dsimp -zeta only [t_]) | skip)
    | with_reducible apply State.when_keeps (Sub.trans rfl hw)
    | with_reducible apply State.arm_keeps (Sub.trans rfl hw)
    | with_reducible apply State.reachAt_keeps (Sub.trans rfl hw)
    | dsimp only [id]
    | lift_lets
    | with_reducible refine keeps_ite ?_ ?_
    | with_reducible refine keeps_upd ?_ (fun x => x) (fun x => x) (.inr rfl) (.inl b2) (.inr rfl) (.inr rfl) (.inl b6) (.inl b7) (.inl b8) (.inr rfl) (.inr rfl) (.inr rfl) (.inr rfl) (.inr rfl) (.inr rfl) (.inr rfl) (.inr rfl) (.inr rfl) (.inr rfl) (.inr rfl) (.inr rfl) (.inr rfl) (.inr rfl) (.inr rfl) (.inl b24) (.inl b25) (.inr rfl))

theorem State.coilSwatchDone_keeps {w : Nat} {s0 s : State} (hw : Sub 0x904 w) (h : Keeps w s0 s) (n : Nat) :
    Keeps w s0 (State.coilSwatchDone s n) := by
  have b2 := Sub.bit (i := 2) hw rfl; have b8 := Sub.bit (i := 8) hw rfl; have b11 := Sub.bit (i := 11) hw rfl
  unfold State.coilSwatchDone
  repeat' (first
    | with_reducible assumption
    | (intro t_; first | (with_reducible refine keeps_cut (w := w) (s := s0) (t := t_) ?_ ?_; intro ht_; rotate_left; dsimp -zeta only [t_]) | skip)
    | with_reducible apply State.each_keeps (Sub.trans rfl hw)
    | with_reducible apply State.raise_keeps (Sub.trans rfl hw)
    | with_reducible apply State.wrB_keeps (Sub.trans rfl hw)
    | lift_lets
    | with_reducible refine keeps_ite ?_ ?_
    | with_reducible refine keeps_upd ?_ (fun x => x) (fun x => x) (.inr rfl) (.inl b2) (.inr rfl) (.inr rfl) (.inr rfl) (.inr rfl) (.inl b8) (.inr rfl) (.inr rfl) (.inl b11) (.inr rfl) (.inr rfl) (.inr rfl) (.inr rfl) (.inr rfl) (.inr rfl) (.inr rfl) (.inr rfl) (.inr rfl) (.inr rfl) (.inr rfl) (.inr rfl) (.inr rfl) (.inr rfl) (.inr rfl))

theorem State.coilResult_keeps {w : Nat} {s0 s : State} (hw : Sub 0x4000944 w) (h : Keeps w s0 s) (n : Nat) (code : Nat) :
    Keeps w s0 (State.coilResult s n code) := by
  have b2 := Sub.bit (i := 2) hw rfl; have b6 := Sub.bit (i := 6) hw rfl; have b8 := Sub.bit (i := 8) hw rfl; have b11 := Sub.bit (i := 11) hw rfl; have b26 := Sub.bit (i := 26) hw rfl
  unfold State.coilResult
  repeat' (first
    | with_reducible assumption
    | (intro t_; first | (with_reducible refine keeps_cut (w := w) (s := s0) (t := t_) ?_ ?_; intro ht_; rotate_left; dsimp -zeta only [t_]) | skip)
    | with_reducible apply State.useFree_keeps (Sub.trans rfl hw)
    | with_reducible apply State.raise_keeps (Sub.trans rfl hw)
    | with_reducible apply State.wrB_keeps (Sub.trans rfl hw)
    | with_reducible apply State.wr_keeps (Sub.trans rfl hw)
    | with_reducible apply State.relayFault_keeps (Sub.trans rfl hw)
    | with_reducible apply State.coilSwatchDone_keeps (Sub.trans rfl hw)
    | lift_lets
    | with_reducible refine keeps_ite ?_ ?_
    | split
    | (clear_value *; split)
    | with_reducible refine keeps_upd ?_ (fun x => x) (fun x => x) (.inr rfl) (.inl b2) (.inr rfl) (.inr rfl) (.inl b6) (.inr rfl) (.inl b8) (.inr rfl) (.inr rfl) (.inl b11) (.inr rfl) (.inr rfl) (.inr rfl) (.inr rfl) (.inr rfl) (.inr rfl) (.inr rfl) (.inr rfl) (.inr rfl) (.inr rfl) (.inr rfl) (.inr rfl) (.inr rfl) (.inr rfl) (.inl b26))

theorem execCoilTestDone_keeps (n : Fin 4) (code : BitVec 10) (s : State) :
    ∃ t_, execCoilTestDone n code s = .next t_ ∧ Keeps 0x70009c4 s t_ := by
  have h := Keeps.refl 0x70009c4 s
  have hw := Sub.refl 0x70009c4
  
  refine ⟨_, rfl, ?_⟩
  repeat' (first
    | with_reducible assumption
    | (intro t_; first | (with_reducible refine keeps_cut (w := w) (s := s0) (t := t_) ?_ ?_; intro ht_; rotate_left; dsimp -zeta only [t_]) | skip)
    | with_reducible apply State.when_keeps (Sub.trans rfl hw)
    | with_reducible apply State.coilResult_keeps (Sub.trans rfl hw)
    | with_reducible apply State.expire_keeps (Sub.trans rfl hw)
    | dsimp only [id]
    | lift_lets
    | with_reducible refine keeps_ite ?_ ?_)

theorem execLadBurstSend_keeps (n : Fin 4) (s : State) :
    ∃ t_, execLadBurstSend n s = .next t_ ∧ Keeps 0x3300144 s t_ := by
  have h := Keeps.refl 0x3300144 s
  have hw := Sub.refl 0x3300144
  
  refine ⟨_, rfl, ?_⟩
  repeat' (first
    | with_reducible assumption
    | (intro t_; first | (with_reducible refine keeps_cut (w := w) (s := s0) (t := t_) ?_ ?_; intro ht_; rotate_left; dsimp -zeta only [t_]) | skip)
    | with_reducible apply State.guarded_keeps (Sub.trans rfl hw)
    | with_reducible apply State.when_keeps (Sub.trans rfl hw)
    | with_reducible apply State.burst_keeps (Sub.trans rfl hw)
    | dsimp only [id]
    | lift_lets
    | with_reducible refine keeps_ite ?_ ?_)

theorem execLadBurstEnd_keeps (n : Fin 4) (s : State) :
    ∃ t_, execLadBurstEnd n s = .next t_ ∧ Keeps 0x30001c4 s t_ := by
  have h := Keeps.refl 0x30001c4 s
  have hw := Sub.refl 0x30001c4
  have b2 := Sub.bit (i := 2) hw rfl; have b6 := Sub.bit (i := 6) hw rfl; have b7 := Sub.bit (i := 7) hw rfl; have b8 := Sub.bit (i := 8) hw rfl; have b24 := Sub.bit (i := 24) hw rfl; have b25 := Sub.bit (i := 25) hw rfl; 
  refine ⟨_, rfl, ?_⟩
  repeat' (first
    | with_reducible assumption
    | (intro t_; first | (with_reducible refine keeps_cut (w := w) (s := s0) (t := t_) ?_ ?_; intro ht_; rotate_left; dsimp -zeta only [t_]) | skip)
    | with_reducible apply State.when_keeps (Sub.trans rfl hw)
    | with_reducible apply State.expire_keeps (Sub.trans rfl hw)
    | with_reducible apply State.emit_keeps (Sub.trans rfl hw)
    | dsimp only [id]
    | lift_lets
    | with_reducible refine keeps_ite ?_ ?_
    | with_reducible refine keeps_upd ?_ (fun x => x) (fun x => x) (.inr rfl) (.inl b2) (.inr rfl) (.inr rfl) (.inl b6) (.inl b7) (.inl b8) (.inr rfl) (.inr rfl) (.inr rfl) (.inr rfl) (.inr rfl) (.inr rfl) (.inr rfl) (.inr rfl) (.inr rfl) (.inr rfl) (.inr rfl) (.inr rfl) (.inr rfl) (.inr rfl) (.inr rfl) (.inl b24) (.inl b25) (.inr rfl))

theorem execRateTryExpiry_keeps (p : Sys2Proof.Port) (s : State) :
    ∃ t_, execRateTryExpiry p s = .next t_ ∧ Keeps 0x3000184 s t_ := by
  have h := Keeps.refl 0x3000184 s
  have hw := Sub.refl 0x3000184
  
  refine ⟨_, rfl, ?_⟩
  repeat' (first
    | with_reducible assumption
    | (intro t_; first | (with_reducible refine keeps_cut (w := w) (s := s0) (t := t_) ?_ ?_; intro ht_; rotate_left; dsimp -zeta only [t_]) | skip)
    | with_reducible apply State.when_keeps (Sub.trans rfl hw)
    | with_reducible apply State.arm_keeps (Sub.trans rfl hw)
    | with_reducible apply State.expire_keeps (Sub.trans rfl hw)
    | with_reducible apply State.wrB_keeps (Sub.trans rfl hw)
    | dsimp only [id]
    | lift_lets
    | with_reducible refine keeps_ite ?_ ?_)

theorem State.i2cPolled_keeps {w : Nat} {s0 s : State} (hw : Sub 0x104 w) (h : Keeps w s0 s) (m : Nat) (k : Nat) (v : Sys2Proof.Byte) :
    Keeps w s0 (State.i2cPolled s m k v) := by
  unfold State.i2cPolled
  repeat' (first
    | with_reducible assumption
    | (intro t_; first | (with_reducible refine keeps_cut (w := w) (s := s0) (t := t_) ?_ ?_; intro ht_; rotate_left; dsimp -zeta only [t_]) | skip)
    | with_reducible apply State.wr_keeps (Sub.trans rfl hw)
    | with_reducible apply State.when_keeps (Sub.trans rfl hw)
    | with_reducible apply State.raise_keeps (Sub.trans rfl hw)
    | dsimp only [id]
    | lift_lets
    | with_reducible refine keeps_ite ?_ ?_)

theorem State.i2cGo_keeps {w : Nat} {s0 s : State} (hw : Sub 0x3000004 w) (h : Keeps w s0 s) (m : Nat) (cmd : Sys2Proof.Word) :
    Keeps w s0 (State.i2cGo s m cmd) := by
  unfold State.i2cGo
  repeat' (first
    | with_reducible assumption
    | (intro t_; first | (with_reducible refine keeps_cut (w := w) (s := s0) (t := t_) ?_ ?_; intro ht_; rotate_left; dsimp -zeta only [t_]) | skip)
    | with_reducible apply State.when_keeps (Sub.trans rfl hw)
    | with_reducible apply State.arm_keeps (Sub.trans rfl hw)
    | with_reducible apply State.emit_keeps (Sub.trans rfl hw)
    | with_reducible apply State.wr_keeps (Sub.trans rfl hw)
    | dsimp only [id]
    | lift_lets
    | with_reducible refine keeps_ite ?_ ?_)

theorem execI2cCommand_keeps (m : Fin 2) (cmd : Sys2Proof.Word) (s : State) :
    ∃ t_, execI2cCommand m cmd s = .next t_ ∧ Keeps 0x3300104 s t_ := by
  have h := Keeps.refl 0x3300104 s
  have hw := Sub.refl 0x3300104
  
  refine ⟨_, rfl, ?_⟩
  repeat' (first
    | with_reducible assumption
    | (intro t_; first | (with_reducible refine keeps_cut (w := w) (s := s0) (t := t_) ?_ ?_; intro ht_; rotate_left; dsimp -zeta only [t_]) | skip)
    | with_reducible apply State.guarded_keeps (Sub.trans rfl hw)
    | with_reducible apply State.i2cGo_keeps (Sub.trans rfl hw)
    | dsimp only [id]
    | lift_lets
    | with_reducible refine keeps_ite ?_ ?_)

theorem execI2cPollRead_keeps (m : Fin 2) (k : Fin 2) (value : Sys2Proof.Byte) (s : State) :
    ∃ t_, execI2cPollRead m k value s = .next t_ ∧ Keeps 0x30001c4 s t_ := by
  have h := Keeps.refl 0x30001c4 s
  have hw := Sub.refl 0x30001c4
  have b2 := Sub.bit (i := 2) hw rfl; have b6 := Sub.bit (i := 6) hw rfl; have b7 := Sub.bit (i := 7) hw rfl; have b8 := Sub.bit (i := 8) hw rfl; have b24 := Sub.bit (i := 24) hw rfl; have b25 := Sub.bit (i := 25) hw rfl; 
  refine ⟨_, rfl, ?_⟩
  repeat' (first
    | with_reducible assumption
    | (intro t_; first | (with_reducible refine keeps_cut (w := w) (s := s0) (t := t_) ?_ ?_; intro ht_; rotate_left; dsimp -zeta only [t_]) | skip)
    | with_reducible apply State.when_keeps (Sub.trans rfl hw)
    | with_reducible apply State.arm_keeps (Sub.trans rfl hw)
    | with_reducible apply State.expire_keeps (Sub.trans rfl hw)
    | with_reducible apply State.i2cPolled_keeps (Sub.trans rfl hw)
    | dsimp only [id]
    | lift_lets
    | with_reducible refine keeps_ite ?_ ?_
    | with_reducible refine keeps_fst_ite ?_ ?_
    | (with_reducible refine keeps_of_eq (by assumption) ?_)
    | with_reducible refine keeps_upd ?_ (fun x => x) (fun x => x) (.inr rfl) (.inl b2) (.inr rfl) (.inr rfl) (.inl b6) (.inl b7) (.inl b8) (.inr rfl) (.inr rfl) (.inr rfl) (.inr rfl) (.inr rfl) (.inr rfl) (.inr rfl) (.inr rfl) (.inr rfl) (.inr rfl) (.inr rfl) (.inr rfl) (.inr rfl) (.inr rfl) (.inr rfl) (.inl b24) (.inl b25) (.inr rfl))

theorem State.i2cEnd_keeps {w : Nat} {s0 s : State} (hw : Sub 0x144 w) (h : Keeps w s0 s) (m : Nat) (r : Sys2Proof.I2cEnd) :
    Keeps w s0 (State.i2cEnd s m r) := by
  have b2 := Sub.bit (i := 2) hw rfl; have b6 := Sub.bit (i := 6) hw rfl; have b8 := Sub.bit (i := 8) hw rfl
  unfold State.i2cEnd
  repeat' (first
    | with_reducible assumption
    | (intro t_; first | (with_reducible refine keeps_cut (w := w) (s := s0) (t := t_) ?_ ?_; intro ht_; rotate_left; dsimp -zeta only [t_]) | skip)
    | with_reducible apply State.when_keeps (Sub.trans rfl hw)
    | with_reducible apply State.wr_keeps (Sub.trans rfl hw)
    | with_reducible apply State.wrF_keeps (Sub.trans rfl hw)
    | with_reducible apply State.raise_keeps (Sub.trans rfl hw)
    | with_reducible apply State.each_keeps (Sub.trans rfl hw)
    | with_reducible apply State.i2cPolled_keeps (Sub.trans rfl hw)
    | dsimp only [id]
    | lift_lets
    | with_reducible refine keeps_ite ?_ ?_
    | split
    | (clear_value *; split)
    | with_reducible refine keeps_fst_ite ?_ ?_
    | (with_reducible refine keeps_of_eq (by assumption) ?_)
    | with_reducible refine keeps_upd ?_ (fun x => x) (fun x => x) (.inr rfl) (.inl b2) (.inr rfl) (.inr rfl) (.inl b6) (.inr rfl) (.inl b8) (.inr rfl) (.inr rfl) (.inr rfl) (.inr rfl) (.inr rfl) (.inr rfl) (.inr rfl) (.inr rfl) (.inr rfl) (.inr rfl) (.inr rfl) (.inr rfl) (.inr rfl) (.inr rfl) (.inr rfl) (.inr rfl) (.inr rfl) (.inr rfl))

theorem execI2cDone_keeps (m : Fin 2) (r : Sys2Proof.I2cEnd) (s : State) :
    ∃ t_, execI2cDone m r s = .next t_ ∧ Keeps 0x30001c4 s t_ := by
  have h := Keeps.refl 0x30001c4 s
  have hw := Sub.refl 0x30001c4
  
  refine ⟨_, rfl, ?_⟩
  repeat' (first
    | with_reducible assumption
    | (intro t_; first | (with_reducible refine keeps_cut (w := w) (s := s0) (t := t_) ?_ ?_; intro ht_; rotate_left; dsimp -zeta only [t_]) | skip)
    | with_reducible apply State.when_keeps (Sub.trans rfl hw)
    | with_reducible apply State.i2cEnd_keeps (Sub.trans rfl hw)
    | with_reducible apply State.expire_keeps (Sub.trans rfl hw)
    | with_reducible apply State.disarm_keeps (Sub.trans rfl hw)
    | dsimp only [id]
    | lift_lets
    | with_reducible refine keeps_ite ?_ ?_)

end Sys2Proof.Machine
end

