-- ==== Sys2Proof/Laws/Twin.lean ====
section
/-! SUPPORT. What the functions of Machine/Twin.lean keep, one lemma for each. -/

namespace Sys2Proof.Machine

theorem State.raiseTwn_keeps {w : Nat} {s0 s : State} (hw : Sub 0x104 w) (h : Keeps w s0 s) (i : Nat) :
    Keeps w s0 (State.raiseTwn s i) := by
  unfold State.raiseTwn
  repeat' (first
    | with_reducible assumption
    | (intro t_; first | (with_reducible refine keeps_cut (w := w) (s := s0) (t := t_) ?_ ?_; intro ht_; rotate_left; dsimp -zeta only [t_]) | skip)
    | with_reducible apply State.raise_keeps (Sub.trans rfl hw)
    | lift_lets
    | with_reducible refine keeps_ite ?_ ?_)

theorem State.setSync_keeps {w : Nat} {s0 s : State} (hw : Sub 0x104 w) (h : Keeps w s0 s) (v : Nat) :
    Keeps w s0 (State.setSync s v) := by
  unfold State.setSync
  repeat' (first
    | with_reducible assumption
    | (intro t_; first | (with_reducible refine keeps_cut (w := w) (s := s0) (t := t_) ?_ ?_; intro ht_; rotate_left; dsimp -zeta only [t_]) | skip)
    | with_reducible apply State.wrF_keeps (Sub.trans rfl hw)
    | with_reducible apply State.raiseTwn_keeps (Sub.trans rfl hw)
    | lift_lets
    | with_reducible refine keeps_ite ?_ ?_)

theorem State.enterStandby_keeps {w : Nat} {s0 s : State} (hw : Sub 0x3308944 w) (h : Keeps w s0 s) (c : Sys2Proof.Machine.Cause) :
    Keeps w s0 (State.enterStandby s c) := by
  unfold State.enterStandby
  repeat' (first
    | with_reducible assumption
    | (intro t_; first | (with_reducible refine keeps_cut (w := w) (s := s0) (t := t_) ?_ ?_; intro ht_; rotate_left; dsimp -zeta only [t_]) | skip)
    | with_reducible apply State.setSync_keeps (Sub.trans rfl hw)
    | with_reducible apply State.setRole_keeps (Sub.trans rfl hw)
    | with_reducible apply State.setMode_keeps (Sub.trans rfl hw)
    | with_reducible apply State.wrB_keeps (Sub.trans rfl hw)
    | lift_lets
    | with_reducible refine keeps_ite ?_ ?_)

theorem State.evalPartner_keeps {w : Nat} {s0 s : State} (hw : Sub 0x104 w) (h : Keeps w s0 s) :
    Keeps w s0 (State.evalPartner s) := by
  unfold State.evalPartner
  repeat' (first
    | with_reducible assumption
    | (intro t_; first | (with_reducible refine keeps_cut (w := w) (s := s0) (t := t_) ?_ ?_; intro ht_; rotate_left; dsimp -zeta only [t_]) | skip)
    | with_reducible apply State.raiseTwn_keeps (Sub.trans rfl hw)
    | with_reducible apply State.setSync_keeps (Sub.trans rfl hw)
    | lift_lets
    | with_reducible refine keeps_ite ?_ ?_)

theorem execHbInEdge_keeps (spaced : Bool) (s : State) :
    ∃ t_, execHbInEdge spaced s = .next t_ ∧ Keeps 0x1008000 s t_ := by
  have h := Keeps.refl 0x1008000 s
  have hw := Sub.refl 0x1008000
  have b15 := Sub.bit (i := 15) hw rfl; have b24 := Sub.bit (i := 24) hw rfl; 
  refine ⟨_, rfl, ?_⟩
  repeat' (first
    | with_reducible assumption
    | (intro t_; first | (with_reducible refine keeps_cut (w := w) (s := s0) (t := t_) ?_ ?_; intro ht_; rotate_left; dsimp -zeta only [t_]) | skip)
    | with_reducible apply State.when_keeps (Sub.trans rfl hw)
    | with_reducible apply State.mark_keeps (Sub.trans rfl hw)
    | dsimp only [id]
    | lift_lets
    | with_reducible refine keeps_ite ?_ ?_
    | with_reducible refine keeps_upd ?_ (fun x => x) (fun x => x) (.inr rfl) (.inr rfl) (.inr rfl) (.inr rfl) (.inr rfl) (.inr rfl) (.inr rfl) (.inr rfl) (.inr rfl) (.inr rfl) (.inr rfl) (.inr rfl) (.inr rfl) (.inl b15) (.inr rfl) (.inr rfl) (.inr rfl) (.inr rfl) (.inr rfl) (.inr rfl) (.inr rfl) (.inr rfl) (.inl b24) (.inr rfl) (.inr rfl))

theorem execHeartbeatLost_keeps (s : State) :
    ∃ t_, execHeartbeatLost s = .next t_ ∧ Keeps 0x3008184 s t_ := by
  have h := Keeps.refl 0x3008184 s
  have hw := Sub.refl 0x3008184
  have b2 := Sub.bit (i := 2) hw rfl; have b7 := Sub.bit (i := 7) hw rfl; have b8 := Sub.bit (i := 8) hw rfl; have b15 := Sub.bit (i := 15) hw rfl; have b24 := Sub.bit (i := 24) hw rfl; have b25 := Sub.bit (i := 25) hw rfl; 
  refine ⟨_, rfl, ?_⟩
  repeat' (first
    | with_reducible assumption
    | (intro t_; first | (with_reducible refine keeps_cut (w := w) (s := s0) (t := t_) ?_ ?_; intro ht_; rotate_left; dsimp -zeta only [t_]) | skip)
    | with_reducible apply State.when_keeps (Sub.trans rfl hw)
    | with_reducible apply State.reachFrom_keeps (Sub.trans rfl hw)
    | with_reducible apply State.count_keeps (Sub.trans rfl hw)
    | with_reducible apply State.raiseTwn_keeps (Sub.trans rfl hw)
    | with_reducible apply State.wrB_keeps (Sub.trans rfl hw)
    | with_reducible apply State.evalPartner_keeps (Sub.trans rfl hw)
    | dsimp only [id]
    | lift_lets
    | with_reducible refine keeps_ite ?_ ?_
    | with_reducible refine keeps_upd ?_ (fun x => x) (fun x => x) (.inr rfl) (.inl b2) (.inr rfl) (.inr rfl) (.inr rfl) (.inl b7) (.inl b8) (.inr rfl) (.inr rfl) (.inr rfl) (.inr rfl) (.inr rfl) (.inr rfl) (.inl b15) (.inr rfl) (.inr rfl) (.inr rfl) (.inr rfl) (.inr rfl) (.inr rfl) (.inr rfl) (.inr rfl) (.inl b24) (.inl b25) (.inr rfl))

theorem execHeartbeatRegained_keeps (s : State) :
    ∃ t_, execHeartbeatRegained s = .next t_ ∧ Keeps 0x104 s t_ := by
  have h := Keeps.refl 0x104 s
  have hw := Sub.refl 0x104
  
  refine ⟨_, rfl, ?_⟩
  repeat' (first
    | with_reducible assumption
    | (intro t_; first | (with_reducible refine keeps_cut (w := w) (s := s0) (t := t_) ?_ ?_; intro ht_; rotate_left; dsimp -zeta only [t_]) | skip)
    | with_reducible apply State.when_keeps (Sub.trans rfl hw)
    | with_reducible apply State.raiseTwn_keeps (Sub.trans rfl hw)
    | with_reducible apply State.wrB_keeps (Sub.trans rfl hw)
    | dsimp only [id]
    | lift_lets
    | with_reducible refine keeps_ite ?_ ?_)

theorem execHbOutStall_keeps (s : State) :
    ∃ t_, execHbOutStall s = .next t_ ∧ Keeps 0x8104 s t_ := by
  have h := Keeps.refl 0x8104 s
  have hw := Sub.refl 0x8104
  
  refine ⟨_, rfl, ?_⟩
  repeat' (first
    | with_reducible assumption
    | (intro t_; first | (with_reducible refine keeps_cut (w := w) (s := s0) (t := t_) ?_ ?_; intro ht_; rotate_left; dsimp -zeta only [t_]) | skip)
    | with_reducible apply State.when_keeps (Sub.trans rfl hw)
    | with_reducible apply State.dropToken_keeps (Sub.trans rfl hw)
    | dsimp only [id]
    | lift_lets
    | with_reducible refine keeps_ite ?_ ?_)

theorem State.tokenFreed_keeps {w : Nat} {s0 s : State} (hw : Sub 0x104 w) (h : Keeps w s0 s) :
    Keeps w s0 (State.tokenFreed s) := by
  unfold State.tokenFreed
  repeat' (first
    | with_reducible assumption
    | (intro t_; first | (with_reducible refine keeps_cut (w := w) (s := s0) (t := t_) ?_ ?_; intro ht_; rotate_left; dsimp -zeta only [t_]) | skip)
    | with_reducible apply State.raiseTwn_keeps (Sub.trans rfl hw)
    | with_reducible apply State.setRole_keeps (Sub.trans rfl hw)
    | lift_lets
    | with_reducible refine keeps_ite ?_ ?_)

theorem State.claimLost_keeps {w : Nat} {s0 s : State} (hw : Sub 0x8104 w) (h : Keeps w s0 s) :
    Keeps w s0 (State.claimLost s) := by
  have b2 := Sub.bit (i := 2) hw rfl; have b8 := Sub.bit (i := 8) hw rfl; have b15 := Sub.bit (i := 15) hw rfl
  unfold State.claimLost
  repeat' (first
    | with_reducible assumption
    | (intro t_; first | (with_reducible refine keeps_cut (w := w) (s := s0) (t := t_) ?_ ?_; intro ht_; rotate_left; dsimp -zeta only [t_]) | skip)
    | with_reducible apply State.raiseTwn_keeps (Sub.trans rfl hw)
    | with_reducible apply State.count_keeps (Sub.trans rfl hw)
    | with_reducible apply State.dropToken_keeps (Sub.trans rfl hw)
    | with_reducible apply State.setRole_keeps (Sub.trans rfl hw)
    | lift_lets
    | with_reducible refine keeps_ite ?_ ?_
    | with_reducible refine keeps_upd ?_ (fun x => x) (fun x => x) (.inr rfl) (.inl b2) (.inr rfl) (.inr rfl) (.inr rfl) (.inr rfl) (.inl b8) (.inr rfl) (.inr rfl) (.inr rfl) (.inr rfl) (.inr rfl) (.inr rfl) (.inl b15) (.inr rfl) (.inr rfl) (.inr rfl) (.inr rfl) (.inr rfl) (.inr rfl) (.inr rfl) (.inr rfl) (.inr rfl) (.inr rfl) (.inr rfl))

theorem State.standbyIfHeld_keeps {w : Nat} {s0 s : State} (hw : Sub 0x3308944 w) (h : Keeps w s0 s) :
    Keeps w s0 (State.standbyIfHeld s) := by
  unfold State.standbyIfHeld
  repeat' (first
    | with_reducible assumption
    | (intro t_; first | (with_reducible refine keeps_cut (w := w) (s := s0) (t := t_) ?_ ?_; intro ht_; rotate_left; dsimp -zeta only [t_]) | skip)
    | with_reducible apply State.enterStandby_keeps (Sub.trans rfl hw)
    | lift_lets
    | with_reducible refine keeps_ite ?_ ?_)

theorem State.tokenMoved_keeps {w : Nat} {s0 s : State} (hw : Sub 0x3308944 w) (h : Keeps w s0 s) (old : Nat) :
    Keeps w s0 (State.tokenMoved s old) := by
  unfold State.tokenMoved
  repeat' (first
    | with_reducible assumption
    | (intro t_; first | (with_reducible refine keeps_cut (w := w) (s := s0) (t := t_) ?_ ?_; intro ht_; rotate_left; dsimp -zeta only [t_]) | skip)
    | with_reducible apply State.evalTok_keeps (Sub.trans rfl hw)
    | with_reducible apply State.wrB_keeps (Sub.trans rfl hw)
    | with_reducible apply State.claimLost_keeps (Sub.trans rfl hw)
    | with_reducible apply State.tokenFreed_keeps (Sub.trans rfl hw)
    | with_reducible apply State.setRole_keeps (Sub.trans rfl hw)
    | with_reducible apply State.standbyIfHeld_keeps (Sub.trans rfl hw)
    | lift_lets
    | with_reducible refine keeps_ite ?_ ?_)

theorem execTokenLineChange_keeps (tok0 : Bool) (tok1 : Bool) (s : State) :
    ∃ t_, execTokenLineChange tok0 tok1 s = .next t_ ∧ Keeps 0x3308944 s t_ := by
  have h := Keeps.refl 0x3308944 s
  have hw := Sub.refl 0x3308944
  have b2 := Sub.bit (i := 2) hw rfl; have b6 := Sub.bit (i := 6) hw rfl; have b8 := Sub.bit (i := 8) hw rfl; have b11 := Sub.bit (i := 11) hw rfl; have b15 := Sub.bit (i := 15) hw rfl; have b20 := Sub.bit (i := 20) hw rfl; have b21 := Sub.bit (i := 21) hw rfl; have b24 := Sub.bit (i := 24) hw rfl; have b25 := Sub.bit (i := 25) hw rfl; 
  refine ⟨_, rfl, ?_⟩
  repeat' (first
    | with_reducible assumption
    | (intro t_; first | (with_reducible refine keeps_cut (w := w) (s := s0) (t := t_) ?_ ?_; intro ht_; rotate_left; dsimp -zeta only [t_]) | skip)
    | with_reducible apply State.when_keeps (Sub.trans rfl hw)
    | with_reducible apply State.tokenMoved_keeps (Sub.trans rfl hw)
    | with_reducible apply State.mark_keeps (Sub.trans rfl hw)
    | dsimp only [id]
    | lift_lets
    | with_reducible refine keeps_ite ?_ ?_
    | with_reducible refine keeps_upd ?_ (fun x => x) (fun x => x) (.inr rfl) (.inl b2) (.inr rfl) (.inr rfl) (.inl b6) (.inr rfl) (.inl b8) (.inr rfl) (.inr rfl) (.inl b11) (.inr rfl) (.inr rfl) (.inr rfl) (.inl b15) (.inr rfl) (.inr rfl) (.inr rfl) (.inr rfl) (.inl b20) (.inl b21) (.inr rfl) (.inr rfl) (.inl b24) (.inl b25) (.inr rfl))

theorem execTokenFault_keeps (s : State) :
    ∃ t_, execTokenFault s = .next t_ ∧ Keeps 0x3008184 s t_ := by
  have h := Keeps.refl 0x3008184 s
  have hw := Sub.refl 0x3008184
  have b2 := Sub.bit (i := 2) hw rfl; have b7 := Sub.bit (i := 7) hw rfl; have b8 := Sub.bit (i := 8) hw rfl; have b15 := Sub.bit (i := 15) hw rfl; have b24 := Sub.bit (i := 24) hw rfl; have b25 := Sub.bit (i := 25) hw rfl; 
  refine ⟨_, rfl, ?_⟩
  repeat' (first
    | with_reducible assumption
    | (intro t_; first | (with_reducible refine keeps_cut (w := w) (s := s0) (t := t_) ?_ ?_; intro ht_; rotate_left; dsimp -zeta only [t_]) | skip)
    | with_reducible apply State.when_keeps (Sub.trans rfl hw)
    | with_reducible apply State.reachFrom_keeps (Sub.trans rfl hw)
    | with_reducible apply State.raiseTwn_keeps (Sub.trans rfl hw)
    | with_reducible apply State.wrB_keeps (Sub.trans rfl hw)
    | with_reducible apply State.dropToken_keeps (Sub.trans rfl hw)
    | dsimp only [id]
    | lift_lets
    | with_reducible refine keeps_ite ?_ ?_
    | with_reducible refine keeps_upd ?_ (fun x => x) (fun x => x) (.inr rfl) (.inl b2) (.inr rfl) (.inr rfl) (.inr rfl) (.inl b7) (.inl b8) (.inr rfl) (.inr rfl) (.inr rfl) (.inr rfl) (.inr rfl) (.inr rfl) (.inl b15) (.inr rfl) (.inr rfl) (.inr rfl) (.inr rfl) (.inr rfl) (.inr rfl) (.inr rfl) (.inr rfl) (.inl b24) (.inl b25) (.inr rfl))

theorem State.startClaim_keeps {w : Nat} {s0 s : State} (hw : Sub 0x4008004 w) (h : Keeps w s0 s) (forced : Bool) :
    Keeps w s0 (State.startClaim s forced) := by
  have b2 := Sub.bit (i := 2) hw rfl; have b15 := Sub.bit (i := 15) hw rfl; have b26 := Sub.bit (i := 26) hw rfl
  unfold State.startClaim
  repeat' (first
    | with_reducible assumption
    | (intro t_; first | (with_reducible refine keeps_cut (w := w) (s := s0) (t := t_) ?_ ?_; intro ht_; rotate_left; dsimp -zeta only [t_]) | skip)
    | with_reducible apply State.setRole_keeps (Sub.trans rfl hw)
    | with_reducible apply State.useFree_keeps (Sub.trans rfl hw)
    | lift_lets
    | with_reducible refine keeps_ite ?_ ?_
    | with_reducible refine keeps_upd ?_ (fun x => x) (fun x => x) (.inr rfl) (.inl b2) (.inr rfl) (.inr rfl) (.inr rfl) (.inr rfl) (.inr rfl) (.inr rfl) (.inr rfl) (.inr rfl) (.inr rfl) (.inr rfl) (.inr rfl) (.inl b15) (.inr rfl) (.inr rfl) (.inr rfl) (.inr rfl) (.inr rfl) (.inr rfl) (.inr rfl) (.inr rfl) (.inr rfl) (.inr rfl) (.inl b26))

theorem execTwinObserveEnd_keeps (s : State) :
    ∃ t_, execTwinObserveEnd s = .next t_ ∧ Keeps 0x7008184 s t_ := by
  have h := Keeps.refl 0x7008184 s
  have hw := Sub.refl 0x7008184
  
  refine ⟨_, rfl, ?_⟩
  repeat' (first
    | with_reducible assumption
    | (intro t_; first | (with_reducible refine keeps_cut (w := w) (s := s0) (t := t_) ?_ ?_; intro ht_; rotate_left; dsimp -zeta only [t_]) | skip)
    | with_reducible apply State.when_keeps (Sub.trans rfl hw)
    | with_reducible apply State.setRole_keeps (Sub.trans rfl hw)
    | with_reducible apply State.expire_keeps (Sub.trans rfl hw)
    | with_reducible apply State.startClaim_keeps (Sub.trans rfl hw)
    | dsimp only [id]
    | lift_lets
    | with_reducible refine keeps_ite ?_ ?_)

theorem execTokenClaimStart_keeps (s : State) :
    ∃ t_, execTokenClaimStart s = .next t_ ∧ Keeps 0x4008004 s t_ := by
  have h := Keeps.refl 0x4008004 s
  have hw := Sub.refl 0x4008004
  
  refine ⟨_, rfl, ?_⟩
  repeat' (first
    | with_reducible assumption
    | (intro t_; first | (with_reducible refine keeps_cut (w := w) (s := s0) (t := t_) ?_ ?_; intro ht_; rotate_left; dsimp -zeta only [t_]) | skip)
    | with_reducible apply State.when_keeps (Sub.trans rfl hw)
    | with_reducible apply State.startClaim_keeps (Sub.trans rfl hw)
    | dsimp only [id]
    | lift_lets
    | with_reducible refine keeps_ite ?_ ?_)

theorem State.endWait_keeps {w : Nat} {s0 s : State} (hw : Sub 0x3008184 w) (h : Keeps w s0 s) (at0 : Nat) :
    Keeps w s0 (State.endWait s at0) := by
  have b2 := Sub.bit (i := 2) hw rfl; have b7 := Sub.bit (i := 7) hw rfl; have b8 := Sub.bit (i := 8) hw rfl; have b15 := Sub.bit (i := 15) hw rfl; have b24 := Sub.bit (i := 24) hw rfl; have b25 := Sub.bit (i := 25) hw rfl
  unfold State.endWait
  repeat' (first
    | with_reducible assumption
    | (intro t_; first | (with_reducible refine keeps_cut (w := w) (s := s0) (t := t_) ?_ ?_; intro ht_; rotate_left; dsimp -zeta only [t_]) | skip)
    | with_reducible apply State.reachAt_keeps (Sub.trans rfl hw)
    | with_reducible apply State.claimLost_keeps (Sub.trans rfl hw)
    | with_reducible apply State.evalTok_keeps (Sub.trans rfl hw)
    | lift_lets
    | with_reducible refine keeps_ite ?_ ?_
    | with_reducible refine keeps_upd ?_ (fun x => x) (fun x => x) (.inr rfl) (.inl b2) (.inr rfl) (.inr rfl) (.inr rfl) (.inl b7) (.inl b8) (.inr rfl) (.inr rfl) (.inr rfl) (.inr rfl) (.inr rfl) (.inr rfl) (.inl b15) (.inr rfl) (.inr rfl) (.inr rfl) (.inr rfl) (.inr rfl) (.inr rfl) (.inr rfl) (.inr rfl) (.inl b24) (.inl b25) (.inr rfl))

theorem execTokenClaimWaitEnd_keeps (s : State) :
    ∃ t_, execTokenClaimWaitEnd s = .next t_ ∧ Keeps 0x3008184 s t_ := by
  have h := Keeps.refl 0x3008184 s
  have hw := Sub.refl 0x3008184
  
  refine ⟨_, rfl, ?_⟩
  repeat' (first
    | with_reducible assumption
    | (intro t_; first | (with_reducible refine keeps_cut (w := w) (s := s0) (t := t_) ?_ ?_; intro ht_; rotate_left; dsimp -zeta only [t_]) | skip)
    | with_reducible apply State.when_keeps (Sub.trans rfl hw)
    | with_reducible apply State.endWait_keeps (Sub.trans rfl hw)
    | dsimp only [id]
    | lift_lets
    | with_reducible refine keeps_ite ?_ ?_
    | split
    | (clear_value *; split))

theorem State.holdToken_keeps {w : Nat} {s0 s : State} (hw : Sub 0x3008184 w) (h : Keeps w s0 s) (at0 : Nat) :
    Keeps w s0 (State.holdToken s at0) := by
  have b2 := Sub.bit (i := 2) hw rfl; have b7 := Sub.bit (i := 7) hw rfl; have b8 := Sub.bit (i := 8) hw rfl; have b15 := Sub.bit (i := 15) hw rfl; have b24 := Sub.bit (i := 24) hw rfl; have b25 := Sub.bit (i := 25) hw rfl
  unfold State.holdToken
  repeat' (first
    | with_reducible assumption
    | (intro t_; first | (with_reducible refine keeps_cut (w := w) (s := s0) (t := t_) ?_ ?_; intro ht_; rotate_left; dsimp -zeta only [t_]) | skip)
    | with_reducible apply State.reachAt_keeps (Sub.trans rfl hw)
    | with_reducible apply State.setRole_keeps (Sub.trans rfl hw)
    | with_reducible apply State.wr_keeps (Sub.trans rfl hw)
    | with_reducible apply State.wrF_keeps (Sub.trans rfl hw)
    | with_reducible apply State.evalTok_keeps (Sub.trans rfl hw)
    | with_reducible apply State.raiseTwn_keeps (Sub.trans rfl hw)
    | with_reducible apply State.count_keeps (Sub.trans rfl hw)
    | lift_lets
    | with_reducible refine keeps_ite ?_ ?_
    | with_reducible refine keeps_upd ?_ (fun x => x) (fun x => x) (.inr rfl) (.inl b2) (.inr rfl) (.inr rfl) (.inr rfl) (.inl b7) (.inl b8) (.inr rfl) (.inr rfl) (.inr rfl) (.inr rfl) (.inr rfl) (.inr rfl) (.inl b15) (.inr rfl) (.inr rfl) (.inr rfl) (.inr rfl) (.inr rfl) (.inr rfl) (.inr rfl) (.inr rfl) (.inl b24) (.inl b25) (.inr rfl))

theorem execTokenAcquired_keeps (s : State) :
    ∃ t_, execTokenAcquired s = .next t_ ∧ Keeps 0x3008184 s t_ := by
  have h := Keeps.refl 0x3008184 s
  have hw := Sub.refl 0x3008184
  
  refine ⟨_, rfl, ?_⟩
  repeat' (first
    | with_reducible assumption
    | (intro t_; first | (with_reducible refine keeps_cut (w := w) (s := s0) (t := t_) ?_ ?_; intro ht_; rotate_left; dsimp -zeta only [t_]) | skip)
    | with_reducible apply State.when_keeps (Sub.trans rfl hw)
    | with_reducible apply State.holdToken_keeps (Sub.trans rfl hw)
    | dsimp only [id]
    | lift_lets
    | with_reducible refine keeps_ite ?_ ?_
    | split
    | (clear_value *; split))

theorem execForceTake_keeps (s : State) :
    ∃ t_, execForceTake s = .next t_ ∧ Keeps 0x4308104 s t_ := by
  have h := Keeps.refl 0x4308104 s
  have hw := Sub.refl 0x4308104
  
  refine ⟨_, rfl, ?_⟩
  repeat' (first
    | with_reducible assumption
    | (intro t_; first | (with_reducible refine keeps_cut (w := w) (s := s0) (t := t_) ?_ ?_; intro ht_; rotate_left; dsimp -zeta only [t_]) | skip)
    | with_reducible apply State.guarded_keeps (Sub.trans rfl hw)
    | with_reducible apply State.when_keeps (Sub.trans rfl hw)
    | with_reducible apply State.startClaim_keeps (Sub.trans rfl hw)
    | dsimp only [id]
    | lift_lets
    | with_reducible refine keeps_ite ?_ ?_)

theorem State.llHdr_keeps {w : Nat} {s0 s : State} (hw : Sub 0x8000 w) (h : Keeps w s0 s) (l : Nat) (row : Sys2Proof.Word) (ovf : Bool) (drill : Bool) :
    Keeps w s0 (State.llHdr s l row ovf drill).1 := by
  have b15 := Sub.bit (i := 15) hw rfl
  unfold State.llHdr
  repeat' (first
    | with_reducible assumption
    | (intro t_; first | (with_reducible refine keeps_cut (w := w) (s := s0) (t := t_) ?_ ?_; intro ht_; rotate_left; dsimp -zeta only [t_]) | skip)
    | lift_lets
    | with_reducible refine keeps_ite ?_ ?_
    | with_reducible refine keeps_fst_ite ?_ ?_
    | (with_reducible refine keeps_of_eq (by assumption) ?_)
    | with_reducible refine keeps_upd ?_ (fun x => x) (fun x => x) (.inr rfl) (.inr rfl) (.inr rfl) (.inr rfl) (.inr rfl) (.inr rfl) (.inr rfl) (.inr rfl) (.inr rfl) (.inr rfl) (.inr rfl) (.inr rfl) (.inr rfl) (.inl b15) (.inr rfl) (.inr rfl) (.inr rfl) (.inr rfl) (.inr rfl) (.inr rfl) (.inr rfl) (.inr rfl) (.inr rfl) (.inr rfl) (.inr rfl)
    | dsimp -zeta only)

theorem State.sendLane_keeps {w : Nat} {s0 s : State} (hw : Sub 0x2008104 w) (h : Keeps w s0 s) (l : Nat) (row : Sys2Proof.Word) (ovf : Bool) (drill : Bool) (f : Sys2Proof.Machine.TwinFrame) :
    Keeps w s0 (State.sendLane s l row ovf drill f) := by
  unfold State.sendLane
  repeat' (first
    | with_reducible assumption
    | (intro t_; first | (with_reducible refine keeps_cut (w := w) (s := s0) (t := t_) ?_ ?_; intro ht_; rotate_left; dsimp -zeta only [t_]) | skip)
    | with_reducible apply State.llHdr_keeps (Sub.trans rfl hw)
    | with_reducible apply State.emit_keeps (Sub.trans rfl hw)
    | with_reducible apply State.protect_keeps (Sub.trans rfl hw)
    | lift_lets
    | with_reducible refine keeps_ite ?_ ?_
    | split
    | (clear_value *; split)
    | with_reducible refine keeps_fst_ite ?_ ?_
    | (with_reducible refine keeps_of_eq (by assumption) ?_))

theorem State.laneSeq_keeps {w : Nat} {s0 s : State} (hw : Sub 0x8004 w) (h : Keeps w s0 s) (x_h : Sys2Proof.TwinHdr) :
    Keeps w s0 (State.laneSeq s x_h) := by
  have b2 := Sub.bit (i := 2) hw rfl; have b15 := Sub.bit (i := 15) hw rfl
  unfold State.laneSeq
  repeat' (first
    | with_reducible assumption
    | (intro t_; first | (with_reducible refine keeps_cut (w := w) (s := s0) (t := t_) ?_ ?_; intro ht_; rotate_left; dsimp -zeta only [t_]) | skip)
    | with_reducible apply State.wrB_keeps (Sub.trans rfl hw)
    | lift_lets
    | with_reducible refine keeps_ite ?_ ?_
    | split
    | (clear_value *; split)
    | with_reducible refine keeps_upd ?_ (fun x => x) (fun x => x) (.inr rfl) (.inl b2) (.inr rfl) (.inr rfl) (.inr rfl) (.inr rfl) (.inr rfl) (.inr rfl) (.inr rfl) (.inr rfl) (.inr rfl) (.inr rfl) (.inr rfl) (.inl b15) (.inr rfl) (.inr rfl) (.inr rfl) (.inr rfl) (.inr rfl) (.inr rfl) (.inr rfl) (.inr rfl) (.inr rfl) (.inr rfl) (.inr rfl))

theorem State.laneRx_keeps {w : Nat} {s0 s : State} (hw : Sub 0x8004 w) (h : Keeps w s0 s) (x_h : Sys2Proof.TwinHdr) (f : Sys2Proof.Machine.State → Sys2Proof.Machine.State) (h_f : ∀ t_, Keeps w s0 t_ → Keeps w s0 (f t_)) :
    Keeps w s0 (State.laneRx s x_h f) := by
  unfold State.laneRx
  repeat' (first
    | with_reducible assumption
    | (intro t_; first | (with_reducible refine keeps_cut (w := w) (s := s0) (t := t_) ?_ ?_; intro ht_; rotate_left; dsimp -zeta only [t_]) | skip)
    | with_reducible apply h_f
    | with_reducible apply State.when_keeps (Sub.trans rfl hw)
    | with_reducible apply State.verify_keeps (Sub.trans rfl hw)
    | with_reducible apply State.laneSeq_keeps (Sub.trans rfl hw)
    | dsimp only [id]
    | lift_lets
    | with_reducible refine keeps_ite ?_ ?_
    | split
    | (clear_value *; split)
    | with_reducible refine keeps_fst_ite ?_ ?_
    | (with_reducible refine keeps_of_eq (by assumption) ?_))

theorem execTwinHelloSend_keeps (s : State) :
    ∃ t_, execTwinHelloSend s = .next t_ ∧ Keeps 0x3008184 s t_ := by
  have h := Keeps.refl 0x3008184 s
  have hw := Sub.refl 0x3008184
  
  refine ⟨_, rfl, ?_⟩
  repeat' (first
    | with_reducible assumption
    | (intro t_; first | (with_reducible refine keeps_cut (w := w) (s := s0) (t := t_) ?_ ?_; intro ht_; rotate_left; dsimp -zeta only [t_]) | skip)
    | with_reducible apply State.when_keeps (Sub.trans rfl hw)
    | with_reducible apply State.mark_keeps (Sub.trans rfl hw)
    | with_reducible apply State.reachFrom_keeps (Sub.trans rfl hw)
    | with_reducible apply State.each_keeps (Sub.trans rfl hw)
    | with_reducible apply State.sendLane_keeps (Sub.trans rfl hw)
    | dsimp only [id]
    | lift_lets
    | with_reducible refine keeps_ite ?_ ?_)

theorem State.takeHello_keeps {w : Nat} {s0 s : State} (hw : Sub 0x1000104 w) (h : Keeps w s0 s) (l : Nat) (x_h : Sys2Proof.TwinHdr) (b : Sys2Proof.TwinHello) :
    Keeps w s0 (State.takeHello s l x_h b) := by
  unfold State.takeHello
  repeat' (first
    | with_reducible assumption
    | (intro t_; first | (with_reducible refine keeps_cut (w := w) (s := s0) (t := t_) ?_ ?_; intro ht_; rotate_left; dsimp -zeta only [t_]) | skip)
    | with_reducible apply State.wr64_keeps (Sub.trans rfl hw)
    | with_reducible apply State.wr_keeps (Sub.trans rfl hw)
    | with_reducible apply State.mark_keeps (Sub.trans rfl hw)
    | with_reducible apply State.raiseTwn_keeps (Sub.trans rfl hw)
    | with_reducible apply State.wrB_keeps (Sub.trans rfl hw)
    | with_reducible apply State.setSync_keeps (Sub.trans rfl hw)
    | lift_lets
    | with_reducible refine keeps_ite ?_ ?_)

theorem execTwinHelloRx_keeps (x_h : Sys2Proof.TwinHdr) (b : Sys2Proof.TwinHello) (s : State) :
    ∃ t_, execTwinHelloRx x_h b s = .next t_ ∧ Keeps 0x1008104 s t_ := by
  have h := Keeps.refl 0x1008104 s
  have hw := Sub.refl 0x1008104
  
  refine ⟨_, rfl, ?_⟩
  repeat' (first
    | with_reducible assumption
    | (intro t_; first | (with_reducible refine keeps_cut (w := w) (s := s0) (t := t_) ?_ ?_; intro ht_; rotate_left; dsimp -zeta only [t_]) | skip)
    | with_reducible apply State.laneRx_keeps (Sub.trans rfl hw)
    | with_reducible apply State.takeHello_keeps (Sub.trans rfl hw)
    | dsimp only [id]
    | lift_lets
    | with_reducible refine keeps_ite ?_ ?_)

theorem State.laneDown_keeps {w : Nat} {s0 s : State} (hw : Sub 0x104 w) (h : Keeps w s0 s) (l : Nat) :
    Keeps w s0 (State.laneDown s l) := by
  unfold State.laneDown
  repeat' (first
    | with_reducible assumption
    | (intro t_; first | (with_reducible refine keeps_cut (w := w) (s := s0) (t := t_) ?_ ?_; intro ht_; rotate_left; dsimp -zeta only [t_]) | skip)
    | with_reducible apply State.raiseTwn_keeps (Sub.trans rfl hw)
    | with_reducible apply State.wrB_keeps (Sub.trans rfl hw)
    | lift_lets
    | with_reducible refine keeps_ite ?_ ?_)

theorem execTwinLaneTimeout_keeps (lane : Fin 2) (s : State) :
    ∃ t_, execTwinLaneTimeout lane s = .next t_ ∧ Keeps 0x3000184 s t_ := by
  have h := Keeps.refl 0x3000184 s
  have hw := Sub.refl 0x3000184
  
  refine ⟨_, rfl, ?_⟩
  repeat' (first
    | with_reducible assumption
    | (intro t_; first | (with_reducible refine keeps_cut (w := w) (s := s0) (t := t_) ?_ ?_; intro ht_; rotate_left; dsimp -zeta only [t_]) | skip)
    | with_reducible apply State.when_keeps (Sub.trans rfl hw)
    | with_reducible apply State.laneDown_keeps (Sub.trans rfl hw)
    | with_reducible apply State.reachFrom_keeps (Sub.trans rfl hw)
    | dsimp only [id]
    | lift_lets
    | with_reducible refine keeps_ite ?_ ?_)

theorem State.closeDelta_keeps {w : Nat} {s0 s : State} (hw : Sub 0x8000 w) (h : Keeps w s0 s) (row : Sys2Proof.Word) (drill : Bool) :
    Keeps w s0 (State.closeDelta s row drill) := by
  have b15 := Sub.bit (i := 15) hw rfl
  unfold State.closeDelta
  repeat' (first
    | with_reducible assumption
    | (intro t_; first | (with_reducible refine keeps_cut (w := w) (s := s0) (t := t_) ?_ ?_; intro ht_; rotate_left; dsimp -zeta only [t_]) | skip)
    | lift_lets
    | with_reducible refine keeps_ite ?_ ?_
    | with_reducible refine keeps_fst_ite ?_ ?_
    | (with_reducible refine keeps_of_eq (by assumption) ?_)
    | with_reducible refine keeps_upd ?_ (fun x => x) (fun x => x) (.inr rfl) (.inr rfl) (.inr rfl) (.inr rfl) (.inr rfl) (.inr rfl) (.inr rfl) (.inr rfl) (.inr rfl) (.inr rfl) (.inr rfl) (.inr rfl) (.inr rfl) (.inl b15) (.inr rfl) (.inr rfl) (.inr rfl) (.inr rfl) (.inr rfl) (.inr rfl) (.inr rfl) (.inr rfl) (.inr rfl) (.inr rfl) (.inr rfl))

theorem State.sendDelta_keeps {w : Nat} {s0 s : State} (hw : Sub 0x2008104 w) (h : Keeps w s0 s) (e : Nat × Sys2Proof.Word × List Sys2Proof.LlRecord) :
    Keeps w s0 (State.sendDelta s e) := by
  unfold State.sendDelta
  repeat' (first
    | with_reducible assumption
    | (intro t_; first | (with_reducible refine keeps_cut (w := w) (s := s0) (t := t_) ?_ ?_; intro ht_; rotate_left; dsimp -zeta only [t_]) | skip)
    | with_reducible apply State.count_keeps (Sub.trans rfl hw)
    | with_reducible apply State.sendLane_keeps (Sub.trans rfl hw)
    | with_reducible apply State.each_keeps (Sub.trans rfl hw)
    | lift_lets
    | with_reducible refine keeps_ite ?_ ?_
    | with_reducible refine keeps_fst_ite ?_ ?_
    | (with_reducible refine keeps_of_eq (by assumption) ?_))

theorem execDeltaSend_keeps (s : State) :
    ∃ t_, execDeltaSend s = .next t_ ∧ Keeps 0x3008184 s t_ := by
  have h := Keeps.refl 0x3008184 s
  have hw := Sub.refl 0x3008184
  have b2 := Sub.bit (i := 2) hw rfl; have b7 := Sub.bit (i := 7) hw rfl; have b8 := Sub.bit (i := 8) hw rfl; have b15 := Sub.bit (i := 15) hw rfl; have b24 := Sub.bit (i := 24) hw rfl; have b25 := Sub.bit (i := 25) hw rfl; 
  refine ⟨_, rfl, ?_⟩
  repeat' (first
    | with_reducible assumption
    | (intro t_; first | (with_reducible refine keeps_cut (w := w) (s := s0) (t := t_) ?_ ?_; intro ht_; rotate_left; dsimp -zeta only [t_]) | skip)
    | with_reducible apply State.when_keeps (Sub.trans rfl hw)
    | with_reducible apply State.reachSt_keeps (Sub.trans rfl hw)
    | with_reducible apply State.each_keeps (Sub.trans rfl hw)
    | with_reducible apply State.sendDelta_keeps (Sub.trans rfl hw)
    | dsimp only [id]
    | lift_lets
    | with_reducible refine keeps_ite ?_ ?_
    | with_reducible refine keeps_fst_ite ?_ ?_
    | (with_reducible refine keeps_of_eq (by assumption) ?_)
    | with_reducible refine keeps_upd ?_ (fun x => x) (fun x => x) (.inr rfl) (.inl b2) (.inr rfl) (.inr rfl) (.inr rfl) (.inl b7) (.inl b8) (.inr rfl) (.inr rfl) (.inr rfl) (.inr rfl) (.inr rfl) (.inr rfl) (.inl b15) (.inr rfl) (.inr rfl) (.inr rfl) (.inr rfl) (.inr rfl) (.inr rfl) (.inr rfl) (.inr rfl) (.inl b24) (.inl b25) (.inr rfl))

theorem State.takeImage_keeps {w : Nat} {s0 s : State} (hw : Sub 0x10a10c w) (h : Keeps w s0 s) (d : Nat) (t : Sys2Proof.Strand) :
    Keeps w s0 (State.takeImage s d t) := by
  have b2 := Sub.bit (i := 2) hw rfl; have b3 := Sub.bit (i := 3) hw rfl; have b8 := Sub.bit (i := 8) hw rfl; have b13 := Sub.bit (i := 13) hw rfl; have b15 := Sub.bit (i := 15) hw rfl; have b20 := Sub.bit (i := 20) hw rfl
  unfold State.takeImage
  repeat' (first
    | with_reducible assumption
    | (intro t_; first | (with_reducible refine keeps_cut (w := w) (s := s0) (t := t_) ?_ ?_; intro ht_; rotate_left; dsimp -zeta only [t_]) | skip)
    | with_reducible apply State.setTbs_keeps (Sub.trans rfl hw)
    | with_reducible apply State.setTwF_keeps (Sub.trans rfl hw)
    | with_reducible apply State.flipMirror_keeps (Sub.trans rfl hw)
    | with_reducible apply State.flipOne_keeps (Sub.trans rfl hw)
    | lift_lets
    | with_reducible refine keeps_ite ?_ ?_
    | split
    | (clear_value *; split)
    | with_reducible refine keeps_fst_ite ?_ ?_
    | (with_reducible refine keeps_of_eq (by assumption) ?_)
    | with_reducible refine keeps_upd ?_ (fun x => x) (fun x => x) (.inr rfl) (.inl b2) (.inl b3) (.inr rfl) (.inr rfl) (.inr rfl) (.inl b8) (.inr rfl) (.inr rfl) (.inr rfl) (.inr rfl) (.inl b13) (.inr rfl) (.inl b15) (.inr rfl) (.inr rfl) (.inr rfl) (.inr rfl) (.inl b20) (.inr rfl) (.inr rfl) (.inr rfl) (.inr rfl) (.inr rfl) (.inr rfl))

theorem State.takeSeq_keeps {w : Nat} {s0 s : State} (hw : Sub 0x12000 w) (h : Keeps w s0 s) (d : Nat) (k : Nat) (i : Nat) (v : Sys2Proof.Word) :
    Keeps w s0 (State.takeSeq s d k i v) := by
  have b13 := Sub.bit (i := 13) hw rfl; have b16 := Sub.bit (i := 16) hw rfl
  unfold State.takeSeq
  repeat' (first
    | with_reducible assumption
    | (intro t_; first | (with_reducible refine keeps_cut (w := w) (s := s0) (t := t_) ?_ ?_; intro ht_; rotate_left; dsimp -zeta only [t_]) | skip)
    | lift_lets
    | with_reducible refine keeps_ite ?_ ?_
    | with_reducible refine keeps_upd ?_ (fun x => x) (fun x => x) (.inr rfl) (.inr rfl) (.inr rfl) (.inr rfl) (.inr rfl) (.inr rfl) (.inr rfl) (.inr rfl) (.inr rfl) (.inr rfl) (.inr rfl) (.inl b13) (.inr rfl) (.inr rfl) (.inl b16) (.inr rfl) (.inr rfl) (.inr rfl) (.inr rfl) (.inr rfl) (.inr rfl) (.inr rfl) (.inr rfl) (.inr rfl) (.inr rfl))

theorem State.takeEnt_keeps {w : Nat} {s0 s : State} (hw : Sub 0xc w) (h : Keeps w s0 s) (d : Nat) (t : Nat) (i : Nat) (data : List Sys2Proof.Word) :
    Keeps w s0 (State.takeEnt s d t i data) := by
  unfold State.takeEnt
  repeat' (first
    | with_reducible assumption
    | (intro t_; first | (with_reducible refine keeps_cut (w := w) (s := s0) (t := t_) ?_ ?_; intro ht_; rotate_left; dsimp -zeta only [t_]) | skip)
    | with_reducible apply State.evalTables_keeps (Sub.trans rfl hw)
    | with_reducible apply State.setTws_keeps (Sub.trans rfl hw)
    | lift_lets
    | with_reducible refine keeps_ite ?_ ?_)

theorem State.takeRecord_keeps {w : Nat} {s0 s : State} (hw : Sub 0x11a10c w) (h : Keeps w s0 s) (d : Nat) (y2 : Sys2Proof.LlRecord) :
    Keeps w s0 (State.takeRecord s d y2) := by
  unfold State.takeRecord
  repeat' (first
    | with_reducible assumption
    | (intro t_; first | (with_reducible refine keeps_cut (w := w) (s := s0) (t := t_) ?_ ?_; intro ht_; rotate_left; dsimp -zeta only [t_]) | skip)
    | with_reducible apply State.takeImage_keeps (Sub.trans rfl hw)
    | with_reducible apply State.takeSeq_keeps (Sub.trans rfl hw)
    | with_reducible apply State.takeEnt_keeps (Sub.trans rfl hw)
    | with_reducible apply State.wr_keeps (Sub.trans rfl hw)
    | lift_lets
    | with_reducible refine keeps_ite ?_ ?_
    | split
    | (clear_value *; split))

theorem State.commitDelta_keeps {w : Nat} {s0 s : State} (hw : Sub 0x11a10c w) (h : Keeps w s0 s) (row : Sys2Proof.Word) :
    Keeps w s0 (State.commitDelta s row) := by
  have b2 := Sub.bit (i := 2) hw rfl; have b3 := Sub.bit (i := 3) hw rfl; have b8 := Sub.bit (i := 8) hw rfl; have b13 := Sub.bit (i := 13) hw rfl; have b15 := Sub.bit (i := 15) hw rfl; have b16 := Sub.bit (i := 16) hw rfl; have b20 := Sub.bit (i := 20) hw rfl
  unfold State.commitDelta
  repeat' (first
    | with_reducible assumption
    | (intro t_; first | (with_reducible refine keeps_cut (w := w) (s := s0) (t := t_) ?_ ?_; intro ht_; rotate_left; dsimp -zeta only [t_]) | skip)
    | with_reducible apply State.each_keeps (Sub.trans rfl hw)
    | with_reducible apply State.count_keeps (Sub.trans rfl hw)
    | with_reducible apply State.takeRecord_keeps (Sub.trans rfl hw)
    | with_reducible apply State.wrB_keeps (Sub.trans rfl hw)
    | with_reducible apply State.wr_keeps (Sub.trans rfl hw)
    | with_reducible apply State.setSync_keeps (Sub.trans rfl hw)
    | lift_lets
    | with_reducible refine keeps_ite ?_ ?_
    | with_reducible refine keeps_fst_ite ?_ ?_
    | (with_reducible refine keeps_of_eq (by assumption) ?_)
    | with_reducible refine keeps_upd ?_ (fun x => x) (fun x => x) (.inr rfl) (.inl b2) (.inl b3) (.inr rfl) (.inr rfl) (.inr rfl) (.inl b8) (.inr rfl) (.inr rfl) (.inr rfl) (.inr rfl) (.inl b13) (.inr rfl) (.inl b15) (.inl b16) (.inr rfl) (.inr rfl) (.inr rfl) (.inl b20) (.inr rfl) (.inr rfl) (.inr rfl) (.inr rfl) (.inr rfl) (.inr rfl))

theorem State.discardDelta_keeps {w : Nat} {s0 s : State} (hw : Sub 0x8104 w) (h : Keeps w s0 s) (row : Sys2Proof.Word) :
    Keeps w s0 (State.discardDelta s row) := by
  have b2 := Sub.bit (i := 2) hw rfl; have b8 := Sub.bit (i := 8) hw rfl; have b15 := Sub.bit (i := 15) hw rfl
  unfold State.discardDelta
  repeat' (first
    | with_reducible assumption
    | (intro t_; first | (with_reducible refine keeps_cut (w := w) (s := s0) (t := t_) ?_ ?_; intro ht_; rotate_left; dsimp -zeta only [t_]) | skip)
    | with_reducible apply State.each_keeps (Sub.trans rfl hw)
    | with_reducible apply State.count_keeps (Sub.trans rfl hw)
    | with_reducible apply State.setSync_keeps (Sub.trans rfl hw)
    | lift_lets
    | with_reducible refine keeps_ite ?_ ?_
    | with_reducible refine keeps_fst_ite ?_ ?_
    | (with_reducible refine keeps_of_eq (by assumption) ?_)
    | with_reducible refine keeps_upd ?_ (fun x => x) (fun x => x) (.inr rfl) (.inl b2) (.inr rfl) (.inr rfl) (.inr rfl) (.inr rfl) (.inl b8) (.inr rfl) (.inr rfl) (.inr rfl) (.inr rfl) (.inr rfl) (.inr rfl) (.inl b15) (.inr rfl) (.inr rfl) (.inr rfl) (.inr rfl) (.inr rfl) (.inr rfl) (.inr rfl) (.inr rfl) (.inr rfl) (.inr rfl) (.inr rfl))

theorem State.ageLifeline_keeps {w : Nat} {s0 s : State} (hw : Sub 0x8104 w) (h : Keeps w s0 s) :
    Keeps w s0 (State.ageLifeline s) := by
  have b2 := Sub.bit (i := 2) hw rfl; have b8 := Sub.bit (i := 8) hw rfl; have b15 := Sub.bit (i := 15) hw rfl
  unfold State.ageLifeline
  repeat' (first
    | with_reducible assumption
    | (intro t_; first | (with_reducible refine keeps_cut (w := w) (s := s0) (t := t_) ?_ ?_; intro ht_; rotate_left; dsimp -zeta only [t_]) | skip)
    | with_reducible apply State.evalPartner_keeps (Sub.trans rfl hw)
    | with_reducible apply State.setSync_keeps (Sub.trans rfl hw)
    | with_reducible apply State.wrB_keeps (Sub.trans rfl hw)
    | lift_lets
    | with_reducible refine keeps_ite ?_ ?_
    | with_reducible refine keeps_upd ?_ (fun x => x) (fun x => x) (.inr rfl) (.inl b2) (.inr rfl) (.inr rfl) (.inr rfl) (.inr rfl) (.inl b8) (.inr rfl) (.inr rfl) (.inr rfl) (.inr rfl) (.inr rfl) (.inr rfl) (.inl b15) (.inr rfl) (.inr rfl) (.inr rfl) (.inr rfl) (.inr rfl) (.inr rfl) (.inr rfl) (.inr rfl) (.inr rfl) (.inr rfl) (.inr rfl))

theorem State.deltaBoundary_keeps {w : Nat} {s0 s : State} (hw : Sub 0x11a10c w) (h : Keeps w s0 s) (row : Sys2Proof.Word) :
    Keeps w s0 (State.deltaBoundary s row) := by
  unfold State.deltaBoundary
  repeat' (first
    | with_reducible assumption
    | (intro t_; first | (with_reducible refine keeps_cut (w := w) (s := s0) (t := t_) ?_ ?_; intro ht_; rotate_left; dsimp -zeta only [t_]) | skip)
    | with_reducible apply State.commitDelta_keeps (Sub.trans rfl hw)
    | with_reducible apply State.ageLifeline_keeps (Sub.trans rfl hw)
    | with_reducible apply State.discardDelta_keeps (Sub.trans rfl hw)
    | lift_lets
    | with_reducible refine keeps_ite ?_ ?_)

theorem State.tryDrill_keeps {w : Nat} {s0 s : State} (hw : Sub 0x211a10c w) (h : Keeps w s0 s) :
    Keeps w s0 (State.tryDrill s) := by
  have b2 := Sub.bit (i := 2) hw rfl; have b3 := Sub.bit (i := 3) hw rfl; have b8 := Sub.bit (i := 8) hw rfl; have b13 := Sub.bit (i := 13) hw rfl; have b15 := Sub.bit (i := 15) hw rfl; have b16 := Sub.bit (i := 16) hw rfl; have b20 := Sub.bit (i := 20) hw rfl; have b25 := Sub.bit (i := 25) hw rfl
  unfold State.tryDrill
  repeat' (first
    | with_reducible assumption
    | (intro t_; first | (with_reducible refine keeps_cut (w := w) (s := s0) (t := t_) ?_ ?_; intro ht_; rotate_left; dsimp -zeta only [t_]) | skip)
    | with_reducible apply State.commitDelta_keeps (Sub.trans rfl hw)
    | with_reducible apply State.sendLane_keeps (Sub.trans rfl hw)
    | lift_lets
    | with_reducible refine keeps_ite ?_ ?_
    | split
    | (clear_value *; split)
    | with_reducible refine keeps_upd ?_ (fun x => x) (fun x => x) (.inr rfl) (.inl b2) (.inl b3) (.inr rfl) (.inr rfl) (.inr rfl) (.inl b8) (.inr rfl) (.inr rfl) (.inr rfl) (.inr rfl) (.inl b13) (.inr rfl) (.inl b15) (.inl b16) (.inr rfl) (.inr rfl) (.inr rfl) (.inl b20) (.inr rfl) (.inr rfl) (.inr rfl) (.inr rfl) (.inl b25) (.inr rfl))

theorem State.joinDelta_keeps {w : Nat} {s0 s : State} (hw : Sub 0x8000 w) (h : Keeps w s0 s) (x_h : Sys2Proof.TwinHdr) (isEnd : Bool) (records : List Sys2Proof.LlRecord) :
    Keeps w s0 (State.joinDelta s x_h isEnd records) := by
  have b15 := Sub.bit (i := 15) hw rfl
  unfold State.joinDelta
  repeat' (first
    | with_reducible assumption
    | (intro t_; first | (with_reducible refine keeps_cut (w := w) (s := s0) (t := t_) ?_ ?_; intro ht_; rotate_left; dsimp -zeta only [t_]) | skip)
    | lift_lets
    | with_reducible refine keeps_ite ?_ ?_
    | with_reducible refine keeps_upd ?_ (fun x => x) (fun x => x) (.inr rfl) (.inr rfl) (.inr rfl) (.inr rfl) (.inr rfl) (.inr rfl) (.inr rfl) (.inr rfl) (.inr rfl) (.inr rfl) (.inr rfl) (.inr rfl) (.inr rfl) (.inl b15) (.inr rfl) (.inr rfl) (.inr rfl) (.inr rfl) (.inr rfl) (.inr rfl) (.inr rfl) (.inr rfl) (.inr rfl) (.inr rfl) (.inr rfl))

theorem execDeltaRx_keeps (x_h : Sys2Proof.TwinHdr) (isEnd : Bool) (records : List Sys2Proof.LlRecord) (s : State) :
    ∃ t_, execDeltaRx x_h isEnd records s = .next t_ ∧ Keeps 0x211a10c s t_ := by
  have h := Keeps.refl 0x211a10c s
  have hw := Sub.refl 0x211a10c
  
  refine ⟨_, rfl, ?_⟩
  repeat' (first
    | with_reducible assumption
    | (intro t_; first | (with_reducible refine keeps_cut (w := w) (s := s0) (t := t_) ?_ ?_; intro ht_; rotate_left; dsimp -zeta only [t_]) | skip)
    | with_reducible apply State.laneRx_keeps (Sub.trans rfl hw)
    | with_reducible apply State.when_keeps (Sub.trans rfl hw)
    | with_reducible apply State.tryDrill_keeps (Sub.trans rfl hw)
    | with_reducible apply State.joinDelta_keeps (Sub.trans rfl hw)
    | dsimp only [id]
    | lift_lets
    | with_reducible refine keeps_ite ?_ ?_)

theorem execResyncReqSend_keeps (s : State) :
    ∃ t_, execResyncReqSend s = .next t_ ∧ Keeps 0x2008104 s t_ := by
  have h := Keeps.refl 0x2008104 s
  have hw := Sub.refl 0x2008104
  
  refine ⟨_, rfl, ?_⟩
  repeat' (first
    | with_reducible assumption
    | (intro t_; first | (with_reducible refine keeps_cut (w := w) (s := s0) (t := t_) ?_ ?_; intro ht_; rotate_left; dsimp -zeta only [t_]) | skip)
    | with_reducible apply State.when_keeps (Sub.trans rfl hw)
    | with_reducible apply State.each_keeps (Sub.trans rfl hw)
    | with_reducible apply State.sendLane_keeps (Sub.trans rfl hw)
    | dsimp only [id]
    | lift_lets
    | with_reducible refine keeps_ite ?_ ?_)

theorem State.askResync_keeps {w : Nat} {s0 s : State} (hw : Sub 0x4 w) (h : Keeps w s0 s) :
    Keeps w s0 (State.askResync s) := by
  unfold State.askResync
  repeat' (first
    | with_reducible assumption
    | (intro t_; first | (with_reducible refine keeps_cut (w := w) (s := s0) (t := t_) ?_ ?_; intro ht_; rotate_left; dsimp -zeta only [t_]) | skip)
    | with_reducible apply State.wrB_keeps (Sub.trans rfl hw)
    | lift_lets
    | with_reducible refine keeps_ite ?_ ?_)

theorem execTwinResyncCmd_keeps (s : State) :
    ∃ t_, execTwinResyncCmd s = .next t_ ∧ Keeps 0x300104 s t_ := by
  have h := Keeps.refl 0x300104 s
  have hw := Sub.refl 0x300104
  
  refine ⟨_, rfl, ?_⟩
  repeat' (first
    | with_reducible assumption
    | (intro t_; first | (with_reducible refine keeps_cut (w := w) (s := s0) (t := t_) ?_ ?_; intro ht_; rotate_left; dsimp -zeta only [t_]) | skip)
    | with_reducible apply State.guarded_keeps (Sub.trans rfl hw)
    | with_reducible apply State.askResync_keeps (Sub.trans rfl hw)
    | dsimp only [id]
    | lift_lets
    | with_reducible refine keeps_ite ?_ ?_)

theorem State.startSweep_keeps {w : Nat} {s0 s : State} (hw : Sub 0x2008104 w) (h : Keeps w s0 s) :
    Keeps w s0 (State.startSweep s) := by
  have b2 := Sub.bit (i := 2) hw rfl; have b8 := Sub.bit (i := 8) hw rfl; have b15 := Sub.bit (i := 15) hw rfl; have b25 := Sub.bit (i := 25) hw rfl
  unfold State.startSweep
  repeat' (first
    | with_reducible assumption
    | (intro t_; first | (with_reducible refine keeps_cut (w := w) (s := s0) (t := t_) ?_ ?_; intro ht_; rotate_left; dsimp -zeta only [t_]) | skip)
    | with_reducible apply State.each_keeps (Sub.trans rfl hw)
    | with_reducible apply State.sendLane_keeps (Sub.trans rfl hw)
    | with_reducible apply State.wr_keeps (Sub.trans rfl hw)
    | lift_lets
    | with_reducible refine keeps_ite ?_ ?_
    | with_reducible apply keeps_foldl
    | with_reducible apply keeps_foldl_fst
    | with_reducible refine keeps_fst_ite ?_ ?_
    | (with_reducible refine keeps_of_eq (by assumption) ?_)
    | with_reducible refine keeps_upd ?_ (fun x => x) (fun x => x) (.inr rfl) (.inl b2) (.inr rfl) (.inr rfl) (.inr rfl) (.inr rfl) (.inl b8) (.inr rfl) (.inr rfl) (.inr rfl) (.inr rfl) (.inr rfl) (.inr rfl) (.inl b15) (.inr rfl) (.inr rfl) (.inr rfl) (.inr rfl) (.inr rfl) (.inr rfl) (.inr rfl) (.inr rfl) (.inr rfl) (.inl b25) (.inr rfl))

theorem execResyncReqRx_keeps (x_h : Sys2Proof.TwinHdr) (s : State) :
    ∃ t_, execResyncReqRx x_h s = .next t_ ∧ Keeps 0x2008104 s t_ := by
  have h := Keeps.refl 0x2008104 s
  have hw := Sub.refl 0x2008104
  
  refine ⟨_, rfl, ?_⟩
  repeat' (first
    | with_reducible assumption
    | (intro t_; first | (with_reducible refine keeps_cut (w := w) (s := s0) (t := t_) ?_ ?_; intro ht_; rotate_left; dsimp -zeta only [t_]) | skip)
    | with_reducible apply State.laneRx_keeps (Sub.trans rfl hw)
    | with_reducible apply State.when_keeps (Sub.trans rfl hw)
    | with_reducible apply State.startSweep_keeps (Sub.trans rfl hw)
    | dsimp only [id]
    | lift_lets
    | with_reducible refine keeps_ite ?_ ?_)

theorem State.reachPace_keeps {w : Nat} {s0 s : State} (hw : Sub 0x3000184 w) (h : Keeps w s0 s) (l : Nat) :
    Keeps w s0 (State.reachPace s l) := by
  unfold State.reachPace
  repeat' (first
    | with_reducible assumption
    | (intro t_; first | (with_reducible refine keeps_cut (w := w) (s := s0) (t := t_) ?_ ?_; intro ht_; rotate_left; dsimp -zeta only [t_]) | skip)
    | with_reducible apply State.reachAt_keeps (Sub.trans rfl hw)
    | lift_lets
    | with_reducible refine keeps_ite ?_ ?_)

theorem execResyncDataSend_keeps (lane : Fin 2) (s : State) :
    ∃ t_, execResyncDataSend lane s = .next t_ ∧ Keeps 0x3008184 s t_ := by
  have h := Keeps.refl 0x3008184 s
  have hw := Sub.refl 0x3008184
  have b2 := Sub.bit (i := 2) hw rfl; have b7 := Sub.bit (i := 7) hw rfl; have b8 := Sub.bit (i := 8) hw rfl; have b15 := Sub.bit (i := 15) hw rfl; have b24 := Sub.bit (i := 24) hw rfl; have b25 := Sub.bit (i := 25) hw rfl; 
  refine ⟨_, rfl, ?_⟩
  repeat' (first
    | with_reducible assumption
    | (intro t_; first | (with_reducible refine keeps_cut (w := w) (s := s0) (t := t_) ?_ ?_; intro ht_; rotate_left; dsimp -zeta only [t_]) | skip)
    | with_reducible apply State.when_keeps (Sub.trans rfl hw)
    | with_reducible apply State.reachPace_keeps (Sub.trans rfl hw)
    | with_reducible apply State.sendLane_keeps (Sub.trans rfl hw)
    | with_reducible apply State.wrF_keeps (Sub.trans rfl hw)
    | dsimp only [id]
    | lift_lets
    | with_reducible refine keeps_ite ?_ ?_
    | split
    | (clear_value *; split)
    | with_reducible refine keeps_upd ?_ (fun x => x) (fun x => x) (.inr rfl) (.inl b2) (.inr rfl) (.inr rfl) (.inr rfl) (.inl b7) (.inl b8) (.inr rfl) (.inr rfl) (.inr rfl) (.inr rfl) (.inr rfl) (.inr rfl) (.inl b15) (.inr rfl) (.inr rfl) (.inr rfl) (.inr rfl) (.inr rfl) (.inr rfl) (.inr rfl) (.inr rfl) (.inl b24) (.inl b25) (.inr rfl))

theorem execResyncEndSend_keeps (lane : Fin 2) (s : State) :
    ∃ t_, execResyncEndSend lane s = .next t_ ∧ Keeps 0x3008184 s t_ := by
  have h := Keeps.refl 0x3008184 s
  have hw := Sub.refl 0x3008184
  have b2 := Sub.bit (i := 2) hw rfl; have b7 := Sub.bit (i := 7) hw rfl; have b8 := Sub.bit (i := 8) hw rfl; have b15 := Sub.bit (i := 15) hw rfl; have b24 := Sub.bit (i := 24) hw rfl; have b25 := Sub.bit (i := 25) hw rfl; 
  refine ⟨_, rfl, ?_⟩
  repeat' (first
    | with_reducible assumption
    | (intro t_; first | (with_reducible refine keeps_cut (w := w) (s := s0) (t := t_) ?_ ?_; intro ht_; rotate_left; dsimp -zeta only [t_]) | skip)
    | with_reducible apply State.when_keeps (Sub.trans rfl hw)
    | with_reducible apply State.reachPace_keeps (Sub.trans rfl hw)
    | with_reducible apply State.sendLane_keeps (Sub.trans rfl hw)
    | dsimp only [id]
    | lift_lets
    | with_reducible refine keeps_ite ?_ ?_
    | with_reducible refine keeps_upd ?_ (fun x => x) (fun x => x) (.inr rfl) (.inl b2) (.inr rfl) (.inr rfl) (.inr rfl) (.inl b7) (.inl b8) (.inr rfl) (.inr rfl) (.inr rfl) (.inr rfl) (.inr rfl) (.inr rfl) (.inl b15) (.inr rfl) (.inr rfl) (.inr rfl) (.inr rfl) (.inr rfl) (.inr rfl) (.inr rfl) (.inr rfl) (.inl b24) (.inl b25) (.inr rfl))

theorem State.takeEntries_keeps {w : Nat} {s0 s : State} (hw : Sub 0x8 w) (h : Keeps w s0 s) (t a : Nat) (ws : List Word) :
    Keeps w s0 (State.takeEntries s t a ws) := by
  fun_induction State.takeEntries s t a ws with
  | case1 s a w0 w1 w2 w3 ws u ih =>
    apply ih
    dsimp only [u]
    exact keeps_ite h (State.setTws_keeps (Sub.trans rfl hw) h _ _)
  | case2 => exact h

theorem State.takeBulk_keeps {w : Nat} {s0 s : State} (hw : Sub 0xa00c w) (h : Keeps w s0 s) (d : Nat) (o : Nat) (data : List Sys2Proof.Word) :
    Keeps w s0 (State.takeBulk s d o data) := by
  have b2 := Sub.bit (i := 2) hw rfl; have b3 := Sub.bit (i := 3) hw rfl; have b13 := Sub.bit (i := 13) hw rfl; have b15 := Sub.bit (i := 15) hw rfl
  unfold State.takeBulk
  repeat' (first
    | with_reducible assumption
    | (intro t_; first | (with_reducible refine keeps_cut (w := w) (s := s0) (t := t_) ?_ ?_; intro ht_; rotate_left; dsimp -zeta only [t_]) | skip)
    | with_reducible apply State.setTws_keeps (Sub.trans rfl hw)
    | with_reducible apply State.takeEntries_keeps (Sub.trans rfl hw)
    | with_reducible apply State.each_keeps (Sub.trans rfl hw)
    | with_reducible apply State.setInfo_keeps (Sub.trans rfl hw)
    | with_reducible apply State.evalTables_keeps (Sub.trans rfl hw)
    | lift_lets
    | with_reducible refine keeps_ite ?_ ?_
    | with_reducible refine keeps_fst_ite ?_ ?_
    | (with_reducible refine keeps_of_eq (by assumption) ?_)
    | with_reducible refine keeps_upd ?_ (fun x => x) (fun x => x) (.inr rfl) (.inl b2) (.inl b3) (.inr rfl) (.inr rfl) (.inr rfl) (.inr rfl) (.inr rfl) (.inr rfl) (.inr rfl) (.inr rfl) (.inl b13) (.inr rfl) (.inl b15) (.inr rfl) (.inr rfl) (.inr rfl) (.inr rfl) (.inr rfl) (.inr rfl) (.inr rfl) (.inr rfl) (.inr rfl) (.inr rfl) (.inr rfl))

theorem State.takeResync_keeps {w : Nat} {s0 s : State} (hw : Sub 0xa10c w) (h : Keeps w s0 s) (l : Nat) (y2 : Sys2Proof.ResyncFrame) :
    Keeps w s0 (State.takeResync s l y2) := by
  have b2 := Sub.bit (i := 2) hw rfl; have b3 := Sub.bit (i := 3) hw rfl; have b8 := Sub.bit (i := 8) hw rfl; have b13 := Sub.bit (i := 13) hw rfl; have b15 := Sub.bit (i := 15) hw rfl
  unfold State.takeResync
  repeat' (first
    | with_reducible assumption
    | (intro t_; first | (with_reducible refine keeps_cut (w := w) (s := s0) (t := t_) ?_ ?_; intro ht_; rotate_left; dsimp -zeta only [t_]) | skip)
    | with_reducible apply State.wr_keeps (Sub.trans rfl hw)
    | with_reducible apply State.setSync_keeps (Sub.trans rfl hw)
    | with_reducible apply State.wrB_keeps (Sub.trans rfl hw)
    | with_reducible apply State.each_keeps (Sub.trans rfl hw)
    | with_reducible apply State.wrF_keeps (Sub.trans rfl hw)
    | with_reducible apply State.takeBulk_keeps (Sub.trans rfl hw)
    | lift_lets
    | with_reducible refine keeps_ite ?_ ?_
    | split
    | (clear_value *; split)
    | with_reducible refine keeps_fst_ite ?_ ?_
    | (with_reducible refine keeps_of_eq (by assumption) ?_)
    | with_reducible refine keeps_upd ?_ (fun x => x) (fun x => x) (.inr rfl) (.inl b2) (.inl b3) (.inr rfl) (.inr rfl) (.inr rfl) (.inl b8) (.inr rfl) (.inr rfl) (.inr rfl) (.inr rfl) (.inl b13) (.inr rfl) (.inl b15) (.inr rfl) (.inr rfl) (.inr rfl) (.inr rfl) (.inr rfl) (.inr rfl) (.inr rfl) (.inr rfl) (.inr rfl) (.inr rfl) (.inr rfl))

theorem execResyncFrameRx_keeps (x_h : Sys2Proof.TwinHdr) (f : Sys2Proof.ResyncFrame) (s : State) :
    ∃ t_, execResyncFrameRx x_h f s = .next t_ ∧ Keeps 0xa10c s t_ := by
  have h := Keeps.refl 0xa10c s
  have hw := Sub.refl 0xa10c
  
  refine ⟨_, rfl, ?_⟩
  repeat' (first
    | with_reducible assumption
    | (intro t_; first | (with_reducible refine keeps_cut (w := w) (s := s0) (t := t_) ?_ ?_; intro ht_; rotate_left; dsimp -zeta only [t_]) | skip)
    | with_reducible apply State.laneRx_keeps (Sub.trans rfl hw)
    | with_reducible apply State.when_keeps (Sub.trans rfl hw)
    | with_reducible apply State.takeResync_keeps (Sub.trans rfl hw)
    | dsimp only [id]
    | lift_lets
    | with_reducible refine keeps_ite ?_ ?_)

theorem State.askDrill_keeps {w : Nat} {s0 s : State} (hw : Sub 0x104 w) (h : Keeps w s0 s) :
    Keeps w s0 (State.askDrill s) := by
  unfold State.askDrill
  repeat' (first
    | with_reducible assumption
    | (intro t_; first | (with_reducible refine keeps_cut (w := w) (s := s0) (t := t_) ?_ ?_; intro ht_; rotate_left; dsimp -zeta only [t_]) | skip)
    | with_reducible apply State.wrB_keeps (Sub.trans rfl hw)
    | with_reducible apply State.raiseTwn_keeps (Sub.trans rfl hw)
    | lift_lets
    | with_reducible refine keeps_ite ?_ ?_)

theorem execTwinDrill_keeps (s : State) :
    ∃ t_, execTwinDrill s = .next t_ ∧ Keeps 0x300104 s t_ := by
  have h := Keeps.refl 0x300104 s
  have hw := Sub.refl 0x300104
  
  refine ⟨_, rfl, ?_⟩
  repeat' (first
    | with_reducible assumption
    | (intro t_; first | (with_reducible refine keeps_cut (w := w) (s := s0) (t := t_) ?_ ?_; intro ht_; rotate_left; dsimp -zeta only [t_]) | skip)
    | with_reducible apply State.guarded_keeps (Sub.trans rfl hw)
    | with_reducible apply State.askDrill_keeps (Sub.trans rfl hw)
    | dsimp only [id]
    | lift_lets
    | with_reducible refine keeps_ite ?_ ?_)

theorem execDrillRx_keeps (x_h : Sys2Proof.TwinHdr) (s : State) :
    ∃ t_, execDrillRx x_h s = .next t_ ∧ Keeps 0x211a10c s t_ := by
  have h := Keeps.refl 0x211a10c s
  have hw := Sub.refl 0x211a10c
  have b2 := Sub.bit (i := 2) hw rfl; have b3 := Sub.bit (i := 3) hw rfl; have b8 := Sub.bit (i := 8) hw rfl; have b13 := Sub.bit (i := 13) hw rfl; have b15 := Sub.bit (i := 15) hw rfl; have b16 := Sub.bit (i := 16) hw rfl; have b20 := Sub.bit (i := 20) hw rfl; have b25 := Sub.bit (i := 25) hw rfl; 
  refine ⟨_, rfl, ?_⟩
  repeat' (first
    | with_reducible assumption
    | (intro t_; first | (with_reducible refine keeps_cut (w := w) (s := s0) (t := t_) ?_ ?_; intro ht_; rotate_left; dsimp -zeta only [t_]) | skip)
    | with_reducible apply State.laneRx_keeps (Sub.trans rfl hw)
    | with_reducible apply State.when_keeps (Sub.trans rfl hw)
    | with_reducible apply State.tryDrill_keeps (Sub.trans rfl hw)
    | dsimp only [id]
    | lift_lets
    | with_reducible refine keeps_ite ?_ ?_
    | with_reducible refine keeps_upd ?_ (fun x => x) (fun x => x) (.inr rfl) (.inl b2) (.inl b3) (.inr rfl) (.inr rfl) (.inr rfl) (.inl b8) (.inr rfl) (.inr rfl) (.inr rfl) (.inr rfl) (.inl b13) (.inr rfl) (.inl b15) (.inl b16) (.inr rfl) (.inr rfl) (.inr rfl) (.inl b20) (.inr rfl) (.inr rfl) (.inr rfl) (.inr rfl) (.inl b25) (.inr rfl))

theorem execDrillAckRx_keeps (x_h : Sys2Proof.TwinHdr) (s : State) :
    ∃ t_, execDrillAckRx x_h s = .next t_ ∧ Keeps 0x8104 s t_ := by
  have h := Keeps.refl 0x8104 s
  have hw := Sub.refl 0x8104
  have b2 := Sub.bit (i := 2) hw rfl; have b8 := Sub.bit (i := 8) hw rfl; have b15 := Sub.bit (i := 15) hw rfl; 
  refine ⟨_, rfl, ?_⟩
  repeat' (first
    | with_reducible assumption
    | (intro t_; first | (with_reducible refine keeps_cut (w := w) (s := s0) (t := t_) ?_ ?_; intro ht_; rotate_left; dsimp -zeta only [t_]) | skip)
    | with_reducible apply State.laneRx_keeps (Sub.trans rfl hw)
    | with_reducible apply State.when_keeps (Sub.trans rfl hw)
    | with_reducible apply State.dropToken_keeps (Sub.trans rfl hw)
    | dsimp only [id]
    | lift_lets
    | with_reducible refine keeps_ite ?_ ?_
    | with_reducible refine keeps_upd ?_ (fun x => x) (fun x => x) (.inr rfl) (.inl b2) (.inr rfl) (.inr rfl) (.inr rfl) (.inr rfl) (.inl b8) (.inr rfl) (.inr rfl) (.inr rfl) (.inr rfl) (.inr rfl) (.inr rfl) (.inl b15) (.inr rfl) (.inr rfl) (.inr rfl) (.inr rfl) (.inr rfl) (.inr rfl) (.inr rfl) (.inr rfl) (.inr rfl) (.inr rfl) (.inr rfl))

theorem execDrillTimeout_keeps (s : State) :
    ∃ t_, execDrillTimeout s = .next t_ ∧ Keeps 0x3008184 s t_ := by
  have h := Keeps.refl 0x3008184 s
  have hw := Sub.refl 0x3008184
  have b2 := Sub.bit (i := 2) hw rfl; have b7 := Sub.bit (i := 7) hw rfl; have b8 := Sub.bit (i := 8) hw rfl; have b15 := Sub.bit (i := 15) hw rfl; have b24 := Sub.bit (i := 24) hw rfl; have b25 := Sub.bit (i := 25) hw rfl; 
  refine ⟨_, rfl, ?_⟩
  repeat' (first
    | with_reducible assumption
    | (intro t_; first | (with_reducible refine keeps_cut (w := w) (s := s0) (t := t_) ?_ ?_; intro ht_; rotate_left; dsimp -zeta only [t_]) | skip)
    | with_reducible apply State.when_keeps (Sub.trans rfl hw)
    | with_reducible apply State.reachFrom_keeps (Sub.trans rfl hw)
    | with_reducible apply State.raiseTwn_keeps (Sub.trans rfl hw)
    | dsimp only [id]
    | lift_lets
    | with_reducible refine keeps_ite ?_ ?_
    | with_reducible refine keeps_upd ?_ (fun x => x) (fun x => x) (.inr rfl) (.inl b2) (.inr rfl) (.inr rfl) (.inr rfl) (.inl b7) (.inl b8) (.inr rfl) (.inr rfl) (.inr rfl) (.inr rfl) (.inr rfl) (.inr rfl) (.inl b15) (.inr rfl) (.inr rfl) (.inr rfl) (.inr rfl) (.inr rfl) (.inr rfl) (.inr rfl) (.inr rfl) (.inl b24) (.inl b25) (.inr rfl))

theorem State.emptyCtx_keeps {w : Nat} {s0 s : State} (hw : Sub 0x10210c w) (h : Keeps w s0 s) (d : Nat) (c : Nat) :
    Keeps w s0 (State.emptyCtx s d c) := by
  unfold State.emptyCtx
  repeat' (first
    | with_reducible assumption
    | (intro t_; first | (with_reducible refine keeps_cut (w := w) (s := s0) (t := t_) ?_ ?_; intro ht_; rotate_left; dsimp -zeta only [t_]) | skip)
    | with_reducible apply State.refresh_keeps (Sub.trans rfl hw)
    | with_reducible apply State.setInfo_keeps (Sub.trans rfl hw)
    | lift_lets
    | with_reducible refine keeps_ite ?_ ?_)

theorem State.takeLead_keeps {w : Nat} {s0 s : State} (hw : Sub 0x330a94c w) (h : Keeps w s0 s) :
    Keeps w s0 (State.takeLead s) := by
  have b2 := Sub.bit (i := 2) hw rfl; have b3 := Sub.bit (i := 3) hw rfl; have b6 := Sub.bit (i := 6) hw rfl; have b8 := Sub.bit (i := 8) hw rfl; have b11 := Sub.bit (i := 11) hw rfl; have b13 := Sub.bit (i := 13) hw rfl; have b15 := Sub.bit (i := 15) hw rfl; have b20 := Sub.bit (i := 20) hw rfl; have b21 := Sub.bit (i := 21) hw rfl; have b24 := Sub.bit (i := 24) hw rfl; have b25 := Sub.bit (i := 25) hw rfl
  unfold State.takeLead
  repeat' (first
    | with_reducible assumption
    | (intro t_; first | (with_reducible refine keeps_cut (w := w) (s := s0) (t := t_) ?_ ?_; intro ht_; rotate_left; dsimp -zeta only [t_]) | skip)
    | with_reducible apply State.each_keeps (Sub.trans rfl hw)
    | with_reducible apply State.emptyCtx_keeps (Sub.trans rfl hw)
    | with_reducible apply State.wrF_keeps (Sub.trans rfl hw)
    | with_reducible apply State.setMode_keeps (Sub.trans rfl hw)
    | lift_lets
    | with_reducible refine keeps_ite ?_ ?_
    | with_reducible refine keeps_fst_ite ?_ ?_
    | (with_reducible refine keeps_of_eq (by assumption) ?_)
    | with_reducible refine keeps_upd ?_ (fun x => x) (fun x => x) (.inr rfl) (.inl b2) (.inl b3) (.inr rfl) (.inl b6) (.inr rfl) (.inl b8) (.inr rfl) (.inr rfl) (.inl b11) (.inr rfl) (.inl b13) (.inr rfl) (.inl b15) (.inr rfl) (.inr rfl) (.inr rfl) (.inr rfl) (.inl b20) (.inl b21) (.inr rfl) (.inr rfl) (.inl b24) (.inl b25) (.inr rfl))

theorem State.pairBoundary_keeps {w : Nat} {s0 s : State} (hw : Sub 0x330a94c w) (h : Keeps w s0 s) (row : Sys2Proof.Word) :
    Keeps w s0 (State.pairBoundary s row) := by
  have b2 := Sub.bit (i := 2) hw rfl; have b3 := Sub.bit (i := 3) hw rfl; have b6 := Sub.bit (i := 6) hw rfl; have b8 := Sub.bit (i := 8) hw rfl; have b11 := Sub.bit (i := 11) hw rfl; have b13 := Sub.bit (i := 13) hw rfl; have b15 := Sub.bit (i := 15) hw rfl; have b20 := Sub.bit (i := 20) hw rfl; have b21 := Sub.bit (i := 21) hw rfl; have b24 := Sub.bit (i := 24) hw rfl; have b25 := Sub.bit (i := 25) hw rfl
  unfold State.pairBoundary
  repeat' (first
    | with_reducible assumption
    | (intro t_; first | (with_reducible refine keeps_cut (w := w) (s := s0) (t := t_) ?_ ?_; intro ht_; rotate_left; dsimp -zeta only [t_]) | skip)
    | with_reducible apply State.takeLead_keeps (Sub.trans rfl hw)
    | with_reducible apply State.enterStandby_keeps (Sub.trans rfl hw)
    | with_reducible apply State.wrB_keeps (Sub.trans rfl hw)
    | with_reducible apply State.closeDelta_keeps (Sub.trans rfl hw)
    | with_reducible apply State.sendLane_keeps (Sub.trans rfl hw)
    | with_reducible apply State.mark_keeps (Sub.trans rfl hw)
    | lift_lets
    | with_reducible refine keeps_ite ?_ ?_
    | with_reducible refine keeps_fst_ite ?_ ?_
    | (with_reducible refine keeps_of_eq (by assumption) ?_)
    | with_reducible refine keeps_upd ?_ (fun x => x) (fun x => x) (.inr rfl) (.inl b2) (.inl b3) (.inr rfl) (.inl b6) (.inr rfl) (.inl b8) (.inr rfl) (.inr rfl) (.inl b11) (.inr rfl) (.inl b13) (.inr rfl) (.inl b15) (.inr rfl) (.inr rfl) (.inr rfl) (.inr rfl) (.inl b20) (.inl b21) (.inr rfl) (.inr rfl) (.inl b24) (.inl b25) (.inr rfl))

end Sys2Proof.Machine
end

