-- ==== Sys2Proof/Laws/Ring.lean ====
section
/-! SUPPORT. What the functions of Machine/Ring.lean keep, one lemma for each. -/

namespace Sys2Proof.Machine

theorem State.noteBefore_keeps {w : Nat} {s0 s : State} (hw : Sub 0x1000 w) (h : Keeps w s0 s) (side : Nat) :
    Keeps w s0 (State.noteBefore s side) := by
  have b12 := Sub.bit (i := 12) hw rfl
  unfold State.noteBefore
  repeat' (first
    | with_reducible assumption
    | (intro t_; first | (with_reducible refine keeps_cut (w := w) (s := s0) (t := t_) ?_ ?_; intro ht_; rotate_left; dsimp -zeta only [t_]) | skip)
    | lift_lets
    | with_reducible refine keeps_ite ?_ ?_
    | split
    | (clear_value *; split)
    | with_reducible refine keeps_fst_ite ?_ ?_
    | (with_reducible refine keeps_of_eq (by assumption) ?_)
    | with_reducible refine keeps_upd ?_ (fun x => x) (fun x => x) (.inr rfl) (.inr rfl) (.inr rfl) (.inr rfl) (.inr rfl) (.inr rfl) (.inr rfl) (.inr rfl) (.inr rfl) (.inr rfl) (.inl b12) (.inr rfl) (.inr rfl) (.inr rfl) (.inr rfl) (.inr rfl) (.inr rfl) (.inr rfl) (.inr rfl) (.inr rfl) (.inr rfl) (.inr rfl) (.inr rfl) (.inr rfl) (.inr rfl))

theorem State.splitSide_keeps {w : Nat} {s0 s : State} (hw : Sub 0x7b2dd4c w) (h : Keeps w s0 s) (side : Nat) (second : Bool) :
    Keeps w s0 (State.splitSide s side second) := by
  unfold State.splitSide
  repeat' (first
    | with_reducible assumption
    | (intro t_; first | (with_reducible refine keeps_cut (w := w) (s := s0) (t := t_) ?_ ?_; intro ht_; rotate_left; dsimp -zeta only [t_]) | skip)
    | with_reducible apply State.each_keeps (Sub.trans rfl hw)
    | with_reducible apply State.makeSplit_keeps (Sub.trans rfl hw)
    | with_reducible apply State.noteBefore_keeps (Sub.trans rfl hw)
    | with_reducible apply State.loseQueue_keeps (Sub.trans rfl hw)
    | with_reducible apply State.withNbr_keeps (Sub.trans rfl hw)
    | with_reducible apply State.clearWin_keeps (Sub.trans rfl hw)
    | dsimp only [id]
    | lift_lets
    | with_reducible refine keeps_ite ?_ ?_)

theorem State.secondFault_keeps {w : Nat} {s0 s : State} (hw : Sub 0x7b2dd4c w) (h : Keeps w s0 s) (side : Nat) :
    Keeps w s0 (State.secondFault s side) := by
  unfold State.secondFault
  repeat' (first
    | with_reducible assumption
    | (intro t_; first | (with_reducible refine keeps_cut (w := w) (s := s0) (t := t_) ?_ ?_; intro ht_; rotate_left; dsimp -zeta only [t_]) | skip)
    | with_reducible apply State.splitSide_keeps (Sub.trans rfl hw)
    | lift_lets
    | with_reducible refine keeps_ite ?_ ?_)

theorem State.declareFailure_keeps {w : Nat} {s0 s : State} (hw : Sub 0x7b2dd4c w) (h : Keeps w s0 s) (p : Nat) :
    Keeps w s0 (State.declareFailure s p) := by
  have b2 := Sub.bit (i := 2) hw rfl; have b3 := Sub.bit (i := 3) hw rfl; have b6 := Sub.bit (i := 6) hw rfl; have b8 := Sub.bit (i := 8) hw rfl; have b10 := Sub.bit (i := 10) hw rfl; have b11 := Sub.bit (i := 11) hw rfl; have b12 := Sub.bit (i := 12) hw rfl; have b14 := Sub.bit (i := 14) hw rfl; have b15 := Sub.bit (i := 15) hw rfl; have b17 := Sub.bit (i := 17) hw rfl; have b20 := Sub.bit (i := 20) hw rfl; have b21 := Sub.bit (i := 21) hw rfl; have b23 := Sub.bit (i := 23) hw rfl; have b24 := Sub.bit (i := 24) hw rfl; have b25 := Sub.bit (i := 25) hw rfl; have b26 := Sub.bit (i := 26) hw rfl
  unfold State.declareFailure
  repeat' (first
    | with_reducible assumption
    | (intro t_; first | (with_reducible refine keeps_cut (w := w) (s := s0) (t := t_) ?_ ?_; intro ht_; rotate_left; dsimp -zeta only [t_]) | skip)
    | with_reducible apply State.pst_keeps (Sub.trans rfl hw)
    | with_reducible apply State.splitSide_keeps (Sub.trans rfl hw)
    | with_reducible apply State.secondFault_keeps (Sub.trans rfl hw)
    | with_reducible apply State.loseQueue_keeps (Sub.trans rfl hw)
    | with_reducible apply State.setFault_keeps (Sub.trans rfl hw)
    | with_reducible apply State.noteBefore_keeps (Sub.trans rfl hw)
    | lift_lets
    | with_reducible refine keeps_ite ?_ ?_
    | split
    | (clear_value *; split)
    | with_reducible refine keeps_upd ?_ (fun x => x) (fun x => x) (.inr rfl) (.inl b2) (.inl b3) (.inr rfl) (.inl b6) (.inr rfl) (.inl b8) (.inr rfl) (.inl b10) (.inl b11) (.inl b12) (.inr rfl) (.inl b14) (.inl b15) (.inr rfl) (.inl b17) (.inr rfl) (.inr rfl) (.inl b20) (.inl b21) (.inr rfl) (.inl b23) (.inl b24) (.inl b25) (.inl b26))

theorem execLineFailure_keeps (p : Sys2Proof.Port) (s : State) :
    ∃ t_, execLineFailure p s = .next t_ ∧ Keeps 0x7b2ddcc s t_ := by
  have h := Keeps.refl 0x7b2ddcc s
  have hw := Sub.refl 0x7b2ddcc
  
  refine ⟨_, rfl, ?_⟩
  repeat' (first
    | with_reducible assumption
    | (intro t_; first | (with_reducible refine keeps_cut (w := w) (s := s0) (t := t_) ?_ ?_; intro ht_; rotate_left; dsimp -zeta only [t_]) | skip)
    | with_reducible apply State.when_keeps (Sub.trans rfl hw)
    | with_reducible apply State.declareFailure_keeps (Sub.trans rfl hw)
    | with_reducible apply State.reachAt_keeps (Sub.trans rfl hw)
    | dsimp only [id]
    | lift_lets
    | with_reducible refine keeps_ite ?_ ?_)

theorem State.lineLost_keeps {w : Nat} {s0 s : State} (hw : Sub 0x7921104 w) (h : Keeps w s0 s) (p : Nat) (l : Sys2Proof.LineLoss) :
    Keeps w s0 (State.lineLost s p l) := by
  have b2 := Sub.bit (i := 2) hw rfl; have b8 := Sub.bit (i := 8) hw rfl; have b12 := Sub.bit (i := 12) hw rfl; have b17 := Sub.bit (i := 17) hw rfl; have b20 := Sub.bit (i := 20) hw rfl; have b23 := Sub.bit (i := 23) hw rfl; have b24 := Sub.bit (i := 24) hw rfl; have b25 := Sub.bit (i := 25) hw rfl; have b26 := Sub.bit (i := 26) hw rfl
  unfold State.lineLost
  repeat' (first
    | with_reducible assumption
    | (intro t_; first | (with_reducible refine keeps_cut (w := w) (s := s0) (t := t_) ?_ ?_; intro ht_; rotate_left; dsimp -zeta only [t_]) | skip)
    | with_reducible apply State.arm_keeps (Sub.trans rfl hw)
    | with_reducible apply State.loseFlight_keeps (Sub.trans rfl hw)
    | with_reducible apply State.wrB_keeps (Sub.trans rfl hw)
    | with_reducible apply State.raise_keeps (Sub.trans rfl hw)
    | lift_lets
    | with_reducible refine keeps_ite ?_ ?_
    | split
    | (clear_value *; split)
    | with_reducible refine keeps_fst_ite ?_ ?_
    | (with_reducible refine keeps_of_eq (by assumption) ?_)
    | with_reducible refine keeps_upd ?_ (fun x => x) (fun x => x) (.inr rfl) (.inl b2) (.inr rfl) (.inr rfl) (.inr rfl) (.inr rfl) (.inl b8) (.inr rfl) (.inr rfl) (.inr rfl) (.inl b12) (.inr rfl) (.inr rfl) (.inr rfl) (.inr rfl) (.inl b17) (.inr rfl) (.inr rfl) (.inl b20) (.inr rfl) (.inr rfl) (.inl b23) (.inl b24) (.inl b25) (.inl b26))

theorem State.lineUp_keeps {w : Nat} {s0 s : State} (hw : Sub 0x1144 w) (h : Keeps w s0 s) (p : Nat) (rate10 : Bool) :
    Keeps w s0 (State.lineUp s p rate10) := by
  have b2 := Sub.bit (i := 2) hw rfl; have b6 := Sub.bit (i := 6) hw rfl; have b8 := Sub.bit (i := 8) hw rfl; have b12 := Sub.bit (i := 12) hw rfl
  unfold State.lineUp
  repeat' (first
    | with_reducible assumption
    | (intro t_; first | (with_reducible refine keeps_cut (w := w) (s := s0) (t := t_) ?_ ?_; intro ht_; rotate_left; dsimp -zeta only [t_]) | skip)
    | with_reducible apply State.wrF_keeps (Sub.trans rfl hw)
    | with_reducible apply State.wrB_keeps (Sub.trans rfl hw)
    | with_reducible apply State.wr_keeps (Sub.trans rfl hw)
    | with_reducible apply State.raise_keeps (Sub.trans rfl hw)
    | with_reducible apply State.bumpF_keeps (Sub.trans rfl hw)
    | lift_lets
    | with_reducible refine keeps_ite ?_ ?_
    | with_reducible refine keeps_fst_ite ?_ ?_
    | (with_reducible refine keeps_of_eq (by assumption) ?_)
    | with_reducible refine keeps_upd ?_ (fun x => x) (fun x => x) (.inr rfl) (.inl b2) (.inr rfl) (.inr rfl) (.inl b6) (.inr rfl) (.inl b8) (.inr rfl) (.inr rfl) (.inr rfl) (.inl b12) (.inr rfl) (.inr rfl) (.inr rfl) (.inr rfl) (.inr rfl) (.inr rfl) (.inr rfl) (.inr rfl) (.inr rfl) (.inr rfl) (.inr rfl) (.inr rfl) (.inr rfl) (.inr rfl))

theorem State.stopBursts_keeps {w : Nat} {s0 s : State} (hw : Sub 0x3000040 w) (h : Keeps w s0 s) (side : Nat) :
    Keeps w s0 (State.stopBursts s side) := by
  have b6 := Sub.bit (i := 6) hw rfl; have b24 := Sub.bit (i := 24) hw rfl; have b25 := Sub.bit (i := 25) hw rfl
  unfold State.stopBursts
  repeat' (first
    | with_reducible assumption
    | (intro t_; first | (with_reducible refine keeps_cut (w := w) (s := s0) (t := t_) ?_ ?_; intro ht_; rotate_left; dsimp -zeta only [t_]) | skip)
    | with_reducible apply State.each_keeps (Sub.trans rfl hw)
    | with_reducible apply State.emit_keeps (Sub.trans rfl hw)
    | with_reducible apply State.disarm_keeps (Sub.trans rfl hw)
    | lift_lets
    | with_reducible refine keeps_ite ?_ ?_
    | with_reducible refine keeps_upd ?_ (fun x => x) (fun x => x) (.inr rfl) (.inr rfl) (.inr rfl) (.inr rfl) (.inl b6) (.inr rfl) (.inr rfl) (.inr rfl) (.inr rfl) (.inr rfl) (.inr rfl) (.inr rfl) (.inr rfl) (.inr rfl) (.inr rfl) (.inr rfl) (.inr rfl) (.inr rfl) (.inr rfl) (.inr rfl) (.inr rfl) (.inr rfl) (.inl b24) (.inl b25) (.inr rfl))

theorem State.lockStarts_keeps {w : Nat} {s0 s : State} (hw : Sub 0x3000044 w) (h : Keeps w s0 s) (line : Nat) :
    Keeps w s0 (State.lockStarts s line) := by
  unfold State.lockStarts
  repeat' (first
    | with_reducible assumption
    | (intro t_; first | (with_reducible refine keeps_cut (w := w) (s := s0) (t := t_) ?_ ?_; intro ht_; rotate_left; dsimp -zeta only [t_]) | skip)
    | with_reducible apply State.drive_keeps (Sub.trans rfl hw)
    | lift_lets
    | with_reducible refine keeps_ite ?_ ?_)

theorem execLineLockRegained_keeps (p : Sys2Proof.Port) (rate10 : Bool) (s : State) :
    ∃ t_, execLineLockRegained p rate10 s = .next t_ ∧ Keeps 0x3001144 s t_ := by
  have h := Keeps.refl 0x3001144 s
  have hw := Sub.refl 0x3001144
  
  refine ⟨_, rfl, ?_⟩
  repeat' (first
    | with_reducible assumption
    | (intro t_; first | (with_reducible refine keeps_cut (w := w) (s := s0) (t := t_) ?_ ?_; intro ht_; rotate_left; dsimp -zeta only [t_]) | skip)
    | with_reducible apply State.when_keeps (Sub.trans rfl hw)
    | with_reducible apply State.lockStarts_keeps (Sub.trans rfl hw)
    | with_reducible apply State.stopBursts_keeps (Sub.trans rfl hw)
    | with_reducible apply State.lineUp_keeps (Sub.trans rfl hw)
    | dsimp only [id]
    | lift_lets
    | with_reducible refine keeps_ite ?_ ?_)

theorem execBlockLockLoss_keeps (e : Sys2Proof.LineEnd) (l : Sys2Proof.LineLoss) (s : State) :
    ∃ t_, execBlockLockLoss e l s = .next t_ ∧ Keeps 0x7921104 s t_ := by
  have h := Keeps.refl 0x7921104 s
  have hw := Sub.refl 0x7921104
  
  refine ⟨_, rfl, ?_⟩
  repeat' (first
    | with_reducible assumption
    | (intro t_; first | (with_reducible refine keeps_cut (w := w) (s := s0) (t := t_) ?_ ?_; intro ht_; rotate_left; dsimp -zeta only [t_]) | skip)
    | with_reducible apply State.when_keeps (Sub.trans rfl hw)
    | with_reducible apply State.lineLost_keeps (Sub.trans rfl hw)
    | with_reducible apply State.laneDown_keeps (Sub.trans rfl hw)
    | dsimp only [id]
    | lift_lets
    | with_reducible refine keeps_ite ?_ ?_
    | split
    | (clear_value *; split))

theorem State.sendCtl_keeps {w : Nat} {s0 s : State} (hw : Sub 0x6920104 w) (h : Keeps w s0 s) (subtype : Sys2Proof.Byte) (b : Sys2Proof.Machine.Body) :
    Keeps w s0 (State.sendCtl s subtype b) := by
  unfold State.sendCtl
  repeat' (first
    | with_reducible assumption
    | (intro t_; first | (with_reducible refine keeps_cut (w := w) (s := s0) (t := t_) ?_ ?_; intro ht_; rotate_left; dsimp -zeta only [t_]) | skip)
    | with_reducible apply State.sendRing_keeps (Sub.trans rfl hw)
    | lift_lets
    | with_reducible refine keeps_ite ?_ ?_)

theorem State.endPairWait_keeps {w : Nat} {s0 s : State} (hw : Sub 0x3001184 w) (h : Keeps w s0 s) (side : Nat) :
    Keeps w s0 (State.endPairWait s side) := by
  have b2 := Sub.bit (i := 2) hw rfl; have b7 := Sub.bit (i := 7) hw rfl; have b8 := Sub.bit (i := 8) hw rfl; have b12 := Sub.bit (i := 12) hw rfl; have b24 := Sub.bit (i := 24) hw rfl; have b25 := Sub.bit (i := 25) hw rfl
  unfold State.endPairWait
  repeat' (first
    | with_reducible assumption
    | (intro t_; first | (with_reducible refine keeps_cut (w := w) (s := s0) (t := t_) ?_ ?_; intro ht_; rotate_left; dsimp -zeta only [t_]) | skip)
    | with_reducible apply State.reachAt_keeps (Sub.trans rfl hw)
    | with_reducible apply State.newNotice_keeps (Sub.trans rfl hw)
    | lift_lets
    | with_reducible refine keeps_ite ?_ ?_
    | split
    | (clear_value *; split)
    | with_reducible refine keeps_fst_ite ?_ ?_
    | (with_reducible refine keeps_of_eq (by assumption) ?_)
    | with_reducible refine keeps_upd ?_ (fun x => x) (fun x => x) (.inr rfl) (.inl b2) (.inr rfl) (.inr rfl) (.inr rfl) (.inl b7) (.inl b8) (.inr rfl) (.inr rfl) (.inr rfl) (.inl b12) (.inr rfl) (.inr rfl) (.inr rfl) (.inr rfl) (.inr rfl) (.inr rfl) (.inr rfl) (.inr rfl) (.inr rfl) (.inr rfl) (.inr rfl) (.inl b24) (.inl b25) (.inr rfl))

theorem State.noteFlood_keeps {w : Nat} {s0 s : State} (hw : Sub 0x4 w) (h : Keeps w s0 s) (line : Nat) :
    Keeps w s0 (State.noteFlood s line) := by
  unfold State.noteFlood
  repeat' (first
    | with_reducible assumption
    | (intro t_; first | (with_reducible refine keeps_cut (w := w) (s := s0) (t := t_) ?_ ?_; intro ht_; rotate_left; dsimp -zeta only [t_]) | skip)
    | with_reducible apply State.each_keeps (Sub.trans rfl hw)
    | with_reducible apply State.wrB_keeps (Sub.trans rfl hw)
    | lift_lets
    | with_reducible refine keeps_ite ?_ ?_)

theorem State.evalFlood_keeps {w : Nat} {s0 s : State} (hw : Sub 0x4 w) (h : Keeps w s0 s) :
    Keeps w s0 (State.evalFlood s) := by
  unfold State.evalFlood
  repeat' (first
    | with_reducible assumption
    | (intro t_; first | (with_reducible refine keeps_cut (w := w) (s := s0) (t := t_) ?_ ?_; intro ht_; rotate_left; dsimp -zeta only [t_]) | skip)
    | with_reducible apply State.each_keeps (Sub.trans rfl hw)
    | with_reducible apply State.wrB_keeps (Sub.trans rfl hw)
    | lift_lets
    | with_reducible refine keeps_ite ?_ ?_)

theorem State.flooding_keeps {w : Nat} {s0 s : State} (hw : Sub 0x4 w) (h : Keeps w s0 s) (k : Sys2Proof.NoticeKind) (line : Nat) :
    Keeps w s0 (State.flooding s k line) := by
  unfold State.flooding
  repeat' (first
    | with_reducible assumption
    | (intro t_; first | (with_reducible refine keeps_cut (w := w) (s := s0) (t := t_) ?_ ?_; intro ht_; rotate_left; dsimp -zeta only [t_]) | skip)
    | with_reducible apply State.noteFlood_keeps (Sub.trans rfl hw)
    | with_reducible apply State.evalFlood_keeps (Sub.trans rfl hw)
    | lift_lets
    | with_reducible refine keeps_ite ?_ ?_)

theorem State.sendNotice_keeps {w : Nat} {s0 s : State} (hw : Sub 0x6921104 w) (h : Keeps w s0 s) (side : Nat) :
    Keeps w s0 (State.sendNotice s side) := by
  have b2 := Sub.bit (i := 2) hw rfl; have b8 := Sub.bit (i := 8) hw rfl; have b12 := Sub.bit (i := 12) hw rfl; have b17 := Sub.bit (i := 17) hw rfl; have b20 := Sub.bit (i := 20) hw rfl; have b23 := Sub.bit (i := 23) hw rfl; have b25 := Sub.bit (i := 25) hw rfl; have b26 := Sub.bit (i := 26) hw rfl
  unfold State.sendNotice
  repeat' (first
    | with_reducible assumption
    | (intro t_; first | (with_reducible refine keeps_cut (w := w) (s := s0) (t := t_) ?_ ?_; intro ht_; rotate_left; dsimp -zeta only [t_]) | skip)
    | with_reducible apply State.flooding_keeps (Sub.trans rfl hw)
    | with_reducible apply State.sendCtl_keeps (Sub.trans rfl hw)
    | lift_lets
    | with_reducible refine keeps_ite ?_ ?_
    | split
    | (clear_value *; split)
    | with_reducible refine keeps_upd ?_ (fun x => x) (fun x => x) (.inr rfl) (.inl b2) (.inr rfl) (.inr rfl) (.inr rfl) (.inr rfl) (.inl b8) (.inr rfl) (.inr rfl) (.inr rfl) (.inl b12) (.inr rfl) (.inr rfl) (.inr rfl) (.inr rfl) (.inl b17) (.inr rfl) (.inr rfl) (.inl b20) (.inr rfl) (.inr rfl) (.inl b23) (.inr rfl) (.inl b25) (.inl b26))

theorem execTurnNoticeSend_keeps (sd : Sys2Proof.Side) (s : State) :
    ∃ t_, execTurnNoticeSend sd s = .next t_ ∧ Keeps 0x7921184 s t_ := by
  have h := Keeps.refl 0x7921184 s
  have hw := Sub.refl 0x7921184
  
  refine ⟨_, rfl, ?_⟩
  repeat' (first
    | with_reducible assumption
    | (intro t_; first | (with_reducible refine keeps_cut (w := w) (s := s0) (t := t_) ?_ ?_; intro ht_; rotate_left; dsimp -zeta only [t_]) | skip)
    | with_reducible apply State.when_keeps (Sub.trans rfl hw)
    | with_reducible apply State.endPairWait_keeps (Sub.trans rfl hw)
    | with_reducible apply State.inFirstGap_keeps (Sub.trans rfl hw)
    | with_reducible apply State.sendNotice_keeps (Sub.trans rfl hw)
    | dsimp only [id]
    | lift_lets
    | with_reducible refine keeps_ite ?_ ?_)

theorem State.takeNotice_keeps {w : Nat} {s0 s : State} (hw : Sub 0x7b2dd4c w) (h : Keeps w s0 s) (x_h : Sys2Proof.Hdr) (b : Sys2Proof.TurnNotice) :
    Keeps w s0 (State.takeNotice s x_h b) := by
  have b2 := Sub.bit (i := 2) hw rfl; have b3 := Sub.bit (i := 3) hw rfl; have b6 := Sub.bit (i := 6) hw rfl; have b8 := Sub.bit (i := 8) hw rfl; have b10 := Sub.bit (i := 10) hw rfl; have b11 := Sub.bit (i := 11) hw rfl; have b12 := Sub.bit (i := 12) hw rfl; have b14 := Sub.bit (i := 14) hw rfl; have b15 := Sub.bit (i := 15) hw rfl; have b17 := Sub.bit (i := 17) hw rfl; have b20 := Sub.bit (i := 20) hw rfl; have b21 := Sub.bit (i := 21) hw rfl; have b23 := Sub.bit (i := 23) hw rfl; have b24 := Sub.bit (i := 24) hw rfl; have b25 := Sub.bit (i := 25) hw rfl; have b26 := Sub.bit (i := 26) hw rfl
  unfold State.takeNotice
  repeat' (first
    | with_reducible assumption
    | (intro t_; first | (with_reducible refine keeps_cut (w := w) (s := s0) (t := t_) ?_ ?_; intro ht_; rotate_left; dsimp -zeta only [t_]) | skip)
    | with_reducible apply State.pathChange_keeps (Sub.trans rfl hw)
    | with_reducible apply State.raise_keeps (Sub.trans rfl hw)
    | with_reducible apply State.count_keeps (Sub.trans rfl hw)
    | with_reducible apply State.delKnown_keeps (Sub.trans rfl hw)
    | with_reducible apply State.addKnown_keeps (Sub.trans rfl hw)
    | with_reducible apply State.secondFault_keeps (Sub.trans rfl hw)
    | with_reducible apply State.flooding_keeps (Sub.trans rfl hw)
    | lift_lets
    | with_reducible refine keeps_ite ?_ ?_
    | split
    | (clear_value *; split)
    | with_reducible refine keeps_fst_ite ?_ ?_
    | (with_reducible refine keeps_of_eq (by assumption) ?_)
    | with_reducible refine keeps_upd ?_ (fun x => x) (fun x => x) (.inr rfl) (.inl b2) (.inl b3) (.inr rfl) (.inl b6) (.inr rfl) (.inl b8) (.inr rfl) (.inl b10) (.inl b11) (.inl b12) (.inr rfl) (.inl b14) (.inl b15) (.inr rfl) (.inl b17) (.inr rfl) (.inr rfl) (.inl b20) (.inl b21) (.inr rfl) (.inl b23) (.inl b24) (.inl b25) (.inl b26))

theorem execTurnNoticeRx_keeps (rx : Sys2Proof.Rx) (x_h : Sys2Proof.Hdr) (b : Sys2Proof.TurnNotice) (s : State) :
    ∃ t_, execTurnNoticeRx rx x_h b s = .next t_ ∧ Keeps 0x7b2dd4c s t_ := by
  have h := Keeps.refl 0x7b2dd4c s
  have hw := Sub.refl 0x7b2dd4c
  
  refine ⟨_, rfl, ?_⟩
  repeat' (first
    | with_reducible assumption
    | (intro t_; first | (with_reducible refine keeps_cut (w := w) (s := s0) (t := t_) ?_ ?_; intro ht_; rotate_left; dsimp -zeta only [t_]) | skip)
    | with_reducible apply State.onArrival_keeps (Sub.trans rfl hw)
    | with_reducible apply State.takeSl_keeps (Sub.trans rfl hw)
    | with_reducible apply State.strip_keeps (Sub.trans rfl hw)
    | with_reducible apply State.endBad_keeps (Sub.trans rfl hw)
    | with_reducible apply State.takeNotice_keeps (Sub.trans rfl hw)
    | with_reducible apply State.relay_keeps (Sub.trans rfl hw)
    | lift_lets
    | with_reducible refine keeps_ite ?_ ?_
    | with_reducible refine keeps_fst_ite ?_ ?_
    | (with_reducible refine keeps_of_eq (by assumption) ?_))

theorem State.reopen_keeps {w : Nat} {s0 s : State} (hw : Sub 0x1005104 w) (h : Keeps w s0 s) (side : Nat) :
    Keeps w s0 (State.reopen s side) := by
  unfold State.reopen
  repeat' (first
    | with_reducible assumption
    | (intro t_; first | (with_reducible refine keeps_cut (w := w) (s := s0) (t := t_) ?_ ?_; intro ht_; rotate_left; dsimp -zeta only [t_]) | skip)
    | with_reducible apply State.newNotice_keeps (Sub.trans rfl hw)
    | with_reducible apply State.delKnown_keeps (Sub.trans rfl hw)
    | with_reducible apply State.wrSide_keeps (Sub.trans rfl hw)
    | with_reducible apply State.coupleDetect_keeps (Sub.trans rfl hw)
    | lift_lets
    | with_reducible refine keeps_ite ?_ ?_)

theorem State.forceSide_keeps {w : Nat} {s0 s : State} (hw : Sub 0x7b2dd4c w) (h : Keeps w s0 s) (side : Nat) :
    Keeps w s0 (State.forceSide s side) := by
  unfold State.forceSide
  repeat' (first
    | with_reducible assumption
    | (intro t_; first | (with_reducible refine keeps_cut (w := w) (s := s0) (t := t_) ?_ ?_; intro ht_; rotate_left; dsimp -zeta only [t_]) | skip)
    | with_reducible apply State.splitSide_keeps (Sub.trans rfl hw)
    | with_reducible apply State.reopen_keeps (Sub.trans rfl hw)
    | lift_lets
    | with_reducible refine keeps_ite ?_ ?_)

theorem State.turnSide_keeps {w : Nat} {s0 s : State} (hw : Sub 0x7b2dd4c w) (h : Keeps w s0 s) (side : Nat) :
    Keeps w s0 (State.turnSide s side) := by
  unfold State.turnSide
  repeat' (first
    | with_reducible assumption
    | (intro t_; first | (with_reducible refine keeps_cut (w := w) (s := s0) (t := t_) ?_ ?_; intro ht_; rotate_left; dsimp -zeta only [t_]) | skip)
    | with_reducible apply State.forceSide_keeps (Sub.trans rfl hw)
    | with_reducible apply State.clearFault_keeps (Sub.trans rfl hw)
    | lift_lets
    | with_reducible refine keeps_ite ?_ ?_)

theorem State.renotify_keeps {w : Nat} {s0 s : State} (hw : Sub 0x1004 w) (h : Keeps w s0 s) :
    Keeps w s0 (State.renotify s) := by
  have b2 := Sub.bit (i := 2) hw rfl; have b12 := Sub.bit (i := 12) hw rfl
  unfold State.renotify
  repeat' (first
    | with_reducible assumption
    | (intro t_; first | (with_reducible refine keeps_cut (w := w) (s := s0) (t := t_) ?_ ?_; intro ht_; rotate_left; dsimp -zeta only [t_]) | skip)
    | with_reducible apply State.each_keeps (Sub.trans rfl hw)
    | with_reducible apply State.newNotice_keeps (Sub.trans rfl hw)
    | lift_lets
    | with_reducible refine keeps_ite ?_ ?_
    | split
    | (clear_value *; split)
    | with_reducible refine keeps_upd ?_ (fun x => x) (fun x => x) (.inr rfl) (.inl b2) (.inr rfl) (.inr rfl) (.inr rfl) (.inr rfl) (.inr rfl) (.inr rfl) (.inr rfl) (.inr rfl) (.inl b12) (.inr rfl) (.inr rfl) (.inr rfl) (.inr rfl) (.inr rfl) (.inr rfl) (.inr rfl) (.inr rfl) (.inr rfl) (.inr rfl) (.inr rfl) (.inr rfl) (.inr rfl) (.inr rfl))

theorem State.switchFlood_keeps {w : Nat} {s0 s : State} (hw : Sub 0x104 w) (h : Keeps w s0 s) (d : Nat) :
    Keeps w s0 (State.switchFlood s d) := by
  unfold State.switchFlood
  repeat' (first
    | with_reducible assumption
    | (intro t_; first | (with_reducible refine keeps_cut (w := w) (s := s0) (t := t_) ?_ ?_; intro ht_; rotate_left; dsimp -zeta only [t_]) | skip)
    | with_reducible apply State.raise_keeps (Sub.trans rfl hw)
    | with_reducible apply State.wrF_keeps (Sub.trans rfl hw)
    | lift_lets
    | with_reducible refine keeps_ite ?_ ?_)

theorem State.turnBoundary_keeps {w : Nat} {s0 s : State} (hw : Sub 0x7b2dd4c w) (h : Keeps w s0 s) :
    Keeps w s0 (State.turnBoundary s) := by
  unfold State.turnBoundary
  repeat' (first
    | with_reducible assumption
    | (intro t_; first | (with_reducible refine keeps_cut (w := w) (s := s0) (t := t_) ?_ ?_; intro ht_; rotate_left; dsimp -zeta only [t_]) | skip)
    | with_reducible apply State.turnSide_keeps (Sub.trans rfl hw)
    | with_reducible apply State.wrB_keeps (Sub.trans rfl hw)
    | with_reducible apply State.fromHealing_keeps (Sub.trans rfl hw)
    | with_reducible apply State.each_keeps (Sub.trans rfl hw)
    | with_reducible apply State.switchFlood_keeps (Sub.trans rfl hw)
    | lift_lets
    | with_reducible refine keeps_ite ?_ ?_)

theorem State.askClear_keeps {w : Nat} {s0 s : State} (hw : Sub 0x4 w) (h : Keeps w s0 s) :
    Keeps w s0 (State.askClear s) := by
  unfold State.askClear
  repeat' (first
    | with_reducible assumption
    | (intro t_; first | (with_reducible refine keeps_cut (w := w) (s := s0) (t := t_) ?_ ?_; intro ht_; rotate_left; dsimp -zeta only [t_]) | skip)
    | with_reducible apply State.wrB_keeps (Sub.trans rfl hw)
    | lift_lets
    | with_reducible refine keeps_ite ?_ ?_)

theorem execForceClearFault_keeps (s : State) :
    ∃ t_, execForceClearFault s = .next t_ ∧ Keeps 0x300104 s t_ := by
  have h := Keeps.refl 0x300104 s
  have hw := Sub.refl 0x300104
  
  refine ⟨_, rfl, ?_⟩
  repeat' (first
    | with_reducible assumption
    | (intro t_; first | (with_reducible refine keeps_cut (w := w) (s := s0) (t := t_) ?_ ?_; intro ht_; rotate_left; dsimp -zeta only [t_]) | skip)
    | with_reducible apply State.guarded_keeps (Sub.trans rfl hw)
    | with_reducible apply State.askClear_keeps (Sub.trans rfl hw)
    | dsimp only [id]
    | lift_lets
    | with_reducible refine keeps_ite ?_ ?_)

theorem State.askSplit_keeps {w : Nat} {s0 s : State} (hw : Sub 0x7b2dd4c w) (h : Keeps w s0 s) (one : Bool) (two : Bool) :
    Keeps w s0 (State.askSplit s one two) := by
  unfold State.askSplit
  repeat' (first
    | with_reducible assumption
    | (intro t_; first | (with_reducible refine keeps_cut (w := w) (s := s0) (t := t_) ?_ ?_; intro ht_; rotate_left; dsimp -zeta only [t_]) | skip)
    | with_reducible apply State.wrB_keeps (Sub.trans rfl hw)
    | with_reducible apply State.forceSide_keeps (Sub.trans rfl hw)
    | lift_lets
    | with_reducible refine keeps_ite ?_ ?_)

theorem execForceSplit_keeps (one : Bool) (two : Bool) (s : State) :
    ∃ t_, execForceSplit one two s = .next t_ ∧ Keeps 0x7b2dd4c s t_ := by
  have h := Keeps.refl 0x7b2dd4c s
  have hw := Sub.refl 0x7b2dd4c
  
  refine ⟨_, rfl, ?_⟩
  repeat' (first
    | with_reducible assumption
    | (intro t_; first | (with_reducible refine keeps_cut (w := w) (s := s0) (t := t_) ?_ ?_; intro ht_; rotate_left; dsimp -zeta only [t_]) | skip)
    | with_reducible apply State.guarded_keeps (Sub.trans rfl hw)
    | with_reducible apply State.askSplit_keeps (Sub.trans rfl hw)
    | dsimp only [id]
    | lift_lets
    | with_reducible refine keeps_ite ?_ ?_)

end Sys2Proof.Machine
end

