-- ==== Sys2Proof/Laws/Consist.lean ====
section
/-! SUPPORT. What the functions of Machine/Consist.lean keep, one lemma for each. -/

namespace Sys2Proof.Machine

theorem State.setHist_keeps {w : Nat} {s0 s : State} (hw : Sub 0x10004 w) (h : Keeps w s0 s) (p : Nat) (l : List Nat) :
    Keeps w s0 (State.setHist s p l) := by
  unfold State.setHist
  repeat' (first
    | with_reducible assumption
    | (intro t_; first | (with_reducible refine keeps_cut (w := w) (s := s0) (t := t_) ?_ ?_; intro ht_; rotate_left; dsimp -zeta only [t_]) | skip)
    | with_reducible apply State.wrF_keeps (Sub.trans rfl hw)
    | with_reducible apply State.setGuard_keeps (Sub.trans rfl hw)
    | lift_lets
    | with_reducible refine keeps_ite ?_ ?_)

theorem State.fence_keeps {w : Nat} {s0 s : State} (hw : Sub 0x10104 w) (h : Keeps w s0 s) (p : Nat) :
    Keeps w s0 (State.fence s p) := by
  unfold State.fence
  repeat' (first
    | with_reducible assumption
    | (intro t_; first | (with_reducible refine keeps_cut (w := w) (s := s0) (t := t_) ?_ ?_; intro ht_; rotate_left; dsimp -zeta only [t_]) | skip)
    | with_reducible apply State.setGuard_keeps (Sub.trans rfl hw)
    | with_reducible apply State.countF_keeps (Sub.trans rfl hw)
    | with_reducible apply State.wr_keeps (Sub.trans rfl hw)
    | with_reducible apply State.wrB_keeps (Sub.trans rfl hw)
    | with_reducible apply State.when_keeps (Sub.trans rfl hw)
    | with_reducible apply State.raise_keeps (Sub.trans rfl hw)
    | dsimp only [id]
    | lift_lets
    | with_reducible refine keeps_ite ?_ ?_)

theorem State.lift_keeps {w : Nat} {s0 s : State} (hw : Sub 0x10104 w) (h : Keeps w s0 s) (p : Nat) :
    Keeps w s0 (State.lift s p) := by
  unfold State.lift
  repeat' (first
    | with_reducible assumption
    | (intro t_; first | (with_reducible refine keeps_cut (w := w) (s := s0) (t := t_) ?_ ?_; intro ht_; rotate_left; dsimp -zeta only [t_]) | skip)
    | with_reducible apply State.setHist_keeps (Sub.trans rfl hw)
    | with_reducible apply State.wrB_keeps (Sub.trans rfl hw)
    | with_reducible apply State.raise_keeps (Sub.trans rfl hw)
    | with_reducible apply State.setGuard_keeps (Sub.trans rfl hw)
    | lift_lets
    | with_reducible refine keeps_ite ?_ ?_)

theorem State.violCount_keeps {w : Nat} {s0 s : State} (hw : Sub 0x100004 w) (h : Keeps w s0 s) (p : Nat) (k : Sys2Proof.Machine.Viol) :
    Keeps w s0 (State.violCount s p k) := by
  unfold State.violCount
  repeat' (first
    | with_reducible assumption
    | (intro t_; first | (with_reducible refine keeps_cut (w := w) (s := s0) (t := t_) ?_ ?_; intro ht_; rotate_left; dsimp -zeta only [t_]) | skip)
    | with_reducible apply State.pst_keeps (Sub.trans rfl hw)
    | with_reducible apply State.count_keeps (Sub.trans rfl hw)
    | lift_lets
    | with_reducible refine keeps_ite ?_ ?_)

theorem State.violation_keeps {w : Nat} {s0 s : State} (hw : Sub 0x10104 w) (h : Keeps w s0 s) (p : Nat) (k : Sys2Proof.Machine.Viol) (sid : Nat) (cfg : Sys2Proof.Word) :
    Keeps w s0 (State.violation s p k sid cfg) := by
  unfold State.violation
  repeat' (first
    | with_reducible assumption
    | (intro t_; first | (with_reducible refine keeps_cut (w := w) (s := s0) (t := t_) ?_ ?_; intro ht_; rotate_left; dsimp -zeta only [t_]) | skip)
    | with_reducible apply State.raise_keeps (Sub.trans rfl hw)
    | with_reducible apply State.wr_keeps (Sub.trans rfl hw)
    | with_reducible apply State.setHist_keeps (Sub.trans rfl hw)
    | with_reducible apply State.when_keeps (Sub.trans rfl hw)
    | with_reducible apply State.fence_keeps (Sub.trans rfl hw)
    | dsimp only [id]
    | lift_lets
    | with_reducible refine keeps_ite ?_ ?_
    | split
    | (clear_value *; split))

theorem State.police_keeps {w : Nat} {s0 s : State} (hw : Sub 0x110104 w) (h : Keeps w s0 s) (p : Nat) (n : Nat) (start : Sys2Proof.Word) (end0 : Nat) (sid : Nat) (cfg : Sys2Proof.Word) :
    Keeps w s0 (State.police s p n start end0 sid cfg).1 := by
  unfold State.police
  repeat' (first
    | with_reducible assumption
    | (intro t_; first | (with_reducible refine keeps_cut (w := w) (s := s0) (t := t_) ?_ ?_; intro ht_; rotate_left; dsimp -zeta only [t_]) | skip)
    | with_reducible apply State.fill_keeps (Sub.trans rfl hw)
    | with_reducible apply State.when_keeps (Sub.trans rfl hw)
    | with_reducible apply State.wrF_keeps (Sub.trans rfl hw)
    | with_reducible apply State.violCount_keeps (Sub.trans rfl hw)
    | with_reducible apply State.violation_keeps (Sub.trans rfl hw)
    | dsimp only [id]
    | lift_lets
    | with_reducible refine keeps_ite ?_ ?_
    | with_reducible refine keeps_fst_ite ?_ ?_
    | (with_reducible refine keeps_of_eq (by assumption) ?_)
    | dsimp -zeta only)

theorem State.noteReply_keeps {w : Nat} {s0 s : State} (hw : Sub 0x10000 w) (h : Keeps w s0 s) (x : Sys2Proof.Machine.ReplyGot) :
    Keeps w s0 (State.noteReply s x) := by
  have b16 := Sub.bit (i := 16) hw rfl
  unfold State.noteReply
  repeat' (first
    | with_reducible assumption
    | (intro t_; first | (with_reducible refine keeps_cut (w := w) (s := s0) (t := t_) ?_ ?_; intro ht_; rotate_left; dsimp -zeta only [t_]) | skip)
    | lift_lets
    | with_reducible refine keeps_ite ?_ ?_
    | with_reducible refine keeps_upd ?_ (fun x => x) (fun x => x) (.inr rfl) (.inr rfl) (.inr rfl) (.inr rfl) (.inr rfl) (.inr rfl) (.inr rfl) (.inr rfl) (.inr rfl) (.inr rfl) (.inr rfl) (.inr rfl) (.inr rfl) (.inr rfl) (.inl b16) (.inr rfl) (.inr rfl) (.inr rfl) (.inr rfl) (.inr rfl) (.inr rfl) (.inr rfl) (.inr rfl) (.inr rfl) (.inr rfl))

theorem State.takeReply_keeps {w : Nat} {s0 s : State} (hw : Sub 0x110104 w) (h : Keeps w s0 s) (p : Nat) (x_w : Sys2Proof.Machine.Win) (sa : Sys2Proof.Mac) (x_h : Sys2Proof.Hdr) (b : Sys2Proof.Reply) (cfg : Sys2Proof.Word) :
    Keeps w s0 (State.takeReply s p x_w sa x_h b cfg) := by
  unfold State.takeReply
  repeat' (first
    | with_reducible assumption
    | (intro t_; first | (with_reducible refine keeps_cut (w := w) (s := s0) (t := t_) ?_ ?_; intro ht_; rotate_left; dsimp -zeta only [t_]) | skip)
    | with_reducible apply State.count_keeps (Sub.trans rfl hw)
    | with_reducible apply State.noteReply_keeps (Sub.trans rfl hw)
    | with_reducible apply State.pst_keeps (Sub.trans rfl hw)
    | with_reducible apply State.violation_keeps (Sub.trans rfl hw)
    | with_reducible apply State.violCount_keeps (Sub.trans rfl hw)
    | lift_lets
    | with_reducible refine keeps_ite ?_ ?_)

theorem State.guardEdge_keeps {w : Nat} {s0 s : State} (hw : Sub 0x100004 w) (h : Keeps w s0 s) (p : Nat) (sid : Nat) :
    Keeps w s0 (State.guardEdge s p sid) := by
  unfold State.guardEdge
  repeat' (first
    | with_reducible assumption
    | (intro t_; first | (with_reducible refine keeps_cut (w := w) (s := s0) (t := t_) ?_ ?_; intro ht_; rotate_left; dsimp -zeta only [t_]) | skip)
    | with_reducible apply State.statBy_keeps (Sub.trans rfl hw)
    | with_reducible apply State.pst_keeps (Sub.trans rfl hw)
    | with_reducible apply State.count_keeps (Sub.trans rfl hw)
    | lift_lets
    | with_reducible refine keeps_ite ?_ ?_)

theorem State.guardBad_keeps {w : Nat} {s0 s : State} (hw : Sub 0x110104 w) (h : Keeps w s0 s) (p : Nat) (k : Sys2Proof.Machine.Viol) (sid : Nat) (cfg : Sys2Proof.Word) (reply : Option Sys2Proof.Hdr) :
    Keeps w s0 (State.guardBad s p k sid cfg reply) := by
  unfold State.guardBad
  repeat' (first
    | with_reducible assumption
    | (intro t_; first | (with_reducible refine keeps_cut (w := w) (s := s0) (t := t_) ?_ ?_; intro ht_; rotate_left; dsimp -zeta only [t_]) | skip)
    | with_reducible apply State.violation_keeps (Sub.trans rfl hw)
    | with_reducible apply State.violCount_keeps (Sub.trans rfl hw)
    | with_reducible apply State.noteReply_keeps (Sub.trans rfl hw)
    | lift_lets
    | with_reducible refine keeps_ite ?_ ?_
    | split
    | (clear_value *; split))

theorem State.refuse_keeps {w : Nat} {s0 t : State} (hw : Sub 0x110104 w) (h : Keeps w s0 t) (p : Nat) (sid : Nat) (cfg : Sys2Proof.Word) (k : Sys2Proof.ConsistKind) (v : Sys2Proof.Machine.Viol) :
    Keeps w s0 (State.refuse t p sid cfg k v).1 := by
  unfold State.refuse
  repeat' (first
    | with_reducible assumption
    | (intro t_; first | (with_reducible refine keeps_cut (w := w) (s := s0) (t := t_) ?_ ?_; intro ht_; rotate_left; dsimp -zeta only [t_]) | skip)
    | with_reducible apply State.guardBad_keeps (Sub.trans rfl hw)
    | lift_lets
    | with_reducible refine keeps_ite ?_ ?_
    | split
    | (clear_value *; split)
    | with_reducible refine keeps_fst_ite ?_ ?_
    | (with_reducible refine keeps_of_eq (by assumption) ?_)
    | dsimp -zeta only)

theorem State.flagEdge_keeps {w : Nat} {s0 t : State} (hw : Sub 0x100004 w) (h : Keeps w s0 t) (edge : Bool) (p : Nat) (sid : Nat) :
    Keeps w s0 (State.flagEdge t edge p sid) := by
  unfold State.flagEdge
  repeat' (first
    | with_reducible assumption
    | (intro t_; first | (with_reducible refine keeps_cut (w := w) (s := s0) (t := t_) ?_ ?_; intro ht_; rotate_left; dsimp -zeta only [t_]) | skip)
    | with_reducible apply State.when_keeps (Sub.trans rfl hw)
    | with_reducible apply State.guardEdge_keeps (Sub.trans rfl hw)
    | dsimp only [id]
    | lift_lets
    | with_reducible refine keeps_ite ?_ ?_)

theorem State.judge_keeps {w : Nat} {s0 s : State} (hw : Sub 0x110104 w) (h : Keeps w s0 s) (rx : Sys2Proof.Rx) (e : Sys2Proof.Eth) (k : Sys2Proof.ConsistKind) :
    Keeps w s0 (State.judge s rx e k).1 := by
  unfold State.judge
  repeat' (first
    | with_reducible assumption
    | (intro t_; first | (with_reducible refine keeps_cut (w := w) (s := s0) (t := t_) ?_ ?_; intro ht_; rotate_left; dsimp -zeta only [t_]) | skip)
    | with_reducible apply State.xchk_keeps (Sub.trans rfl hw)
    | with_reducible apply State.takeReply_keeps (Sub.trans rfl hw)
    | with_reducible apply State.flagEdge_keeps (Sub.trans rfl hw)
    | with_reducible apply State.refuse_keeps (Sub.trans rfl hw)
    | with_reducible apply State.police_keeps (Sub.trans rfl hw)
    | lift_lets
    | with_reducible refine keeps_ite ?_ ?_
    | split
    | (clear_value *; split)
    | with_reducible refine keeps_fst_ite ?_ ?_
    | (with_reducible refine keeps_of_eq (by assumption) ?_)
    | dsimp -zeta only)

theorem State.macRx_keeps {w : Nat} {s0 s : State} (hw : Sub 0x920000 w) (h : Keeps w s0 s) (rx : Sys2Proof.Rx) (e : Sys2Proof.Eth) :
    Keeps w s0 (State.macRx s rx e).1 := by
  unfold State.macRx
  repeat' (first
    | with_reducible assumption
    | (intro t_; first | (with_reducible refine keeps_cut (w := w) (s := s0) (t := t_) ?_ ?_; intro ht_; rotate_left; dsimp -zeta only [t_]) | skip)
    | with_reducible apply State.pst_keeps (Sub.trans rfl hw)
    | with_reducible apply State.statBy_keeps (Sub.trans rfl hw)
    | with_reducible apply State.crossPort_keeps (Sub.trans rfl hw)
    | lift_lets
    | with_reducible refine keeps_ite ?_ ?_
    | with_reducible refine keeps_fst_ite ?_ ?_
    | (with_reducible refine keeps_of_eq (by assumption) ?_)
    | dsimp -zeta only)

theorem State.consistIn_keeps {w : Nat} {s0 s : State} (hw : Sub 0x930104 w) (h : Keeps w s0 s) (rx : Sys2Proof.Rx) (e : Sys2Proof.Eth) (k : Sys2Proof.ConsistKind) :
    Keeps w s0 (State.consistIn s rx e k).1 := by
  unfold State.consistIn
  repeat' (first
    | with_reducible assumption
    | (intro t_; first | (with_reducible refine keeps_cut (w := w) (s := s0) (t := t_) ?_ ?_; intro ht_; rotate_left; dsimp -zeta only [t_]) | skip)
    | with_reducible apply State.macRx_keeps (Sub.trans rfl hw)
    | with_reducible apply State.pst_keeps (Sub.trans rfl hw)
    | with_reducible apply State.count_keeps (Sub.trans rfl hw)
    | with_reducible apply State.judge_keeps (Sub.trans rfl hw)
    | lift_lets
    | with_reducible refine keeps_ite ?_ ?_
    | split
    | (clear_value *; split)
    | with_reducible refine keeps_fst_ite ?_ ?_
    | (with_reducible refine keeps_of_eq (by assumption) ?_)
    | dsimp -zeta only)

theorem State.consistRx_keeps {w : Nat} {s0 s : State} (hw : Sub 0x693810c w) (h : Keeps w s0 s) (rx : Sys2Proof.Rx) (e : Sys2Proof.Eth) (k : Sys2Proof.ConsistKind) :
    Keeps w s0 (State.consistRx s rx e k) := by
  unfold State.consistRx
  repeat' (first
    | with_reducible assumption
    | (intro t_; first | (with_reducible refine keeps_cut (w := w) (s := s0) (t := t_) ?_ ?_; intro ht_; rotate_left; dsimp -zeta only [t_]) | skip)
    | with_reducible apply State.consistIn_keeps (Sub.trans rfl hw)
    | with_reducible apply State.beIngress_keeps (Sub.trans rfl hw)
    | lift_lets
    | with_reducible refine keeps_ite ?_ ?_
    | split
    | (clear_value *; split)
    | with_reducible refine keeps_fst_ite ?_ ?_
    | (with_reducible refine keeps_of_eq (by assumption) ?_))

theorem State.ptpIn_keeps {w : Nat} {s0 s : State} (hw : Sub 0x930104 w) (h : Keeps w s0 s) (rx : Sys2Proof.Rx) :
    Keeps w s0 (State.ptpIn s rx).1 := by
  unfold State.ptpIn
  repeat' (first
    | with_reducible assumption
    | (intro t_; first | (with_reducible refine keeps_cut (w := w) (s := s0) (t := t_) ?_ ?_; intro ht_; rotate_left; dsimp -zeta only [t_]) | skip)
    | with_reducible apply State.takeRx_keeps (Sub.trans rfl hw)
    | with_reducible apply State.pst_keeps (Sub.trans rfl hw)
    | with_reducible apply State.consistIn_keeps (Sub.trans rfl hw)
    | lift_lets
    | with_reducible refine keeps_ite ?_ ?_
    | split
    | (clear_value *; split)
    | with_reducible refine keeps_fst_ite ?_ ?_
    | (with_reducible refine keeps_of_eq (by assumption) ?_)
    | dsimp -zeta only)

theorem execConsistFrameRx_keeps (rx : Sys2Proof.Rx) (e : Sys2Proof.Eth) (k : Sys2Proof.ConsistKind) (s : State) :
    ∃ t_, execConsistFrameRx rx e k s = .next t_ ∧ Keeps 0x693810c s t_ := by
  have h := Keeps.refl 0x693810c s
  have hw := Sub.refl 0x693810c
  
  refine ⟨_, rfl, ?_⟩
  repeat' (first
    | with_reducible assumption
    | (intro t_; first | (with_reducible refine keeps_cut (w := w) (s := s0) (t := t_) ?_ ?_; intro ht_; rotate_left; dsimp -zeta only [t_]) | skip)
    | with_reducible apply State.consistRx_keeps (Sub.trans rfl hw)
    | lift_lets
    | with_reducible refine keeps_ite ?_ ?_)

theorem State.backboneRx_keeps {w : Nat} {s0 s : State} (hw : Sub 0x692810c w) (h : Keeps w s0 s) (rx : Sys2Proof.Rx) (e : Sys2Proof.Eth) :
    Keeps w s0 (State.backboneRx s rx e) := by
  unfold State.backboneRx
  repeat' (first
    | with_reducible assumption
    | (intro t_; first | (with_reducible refine keeps_cut (w := w) (s := s0) (t := t_) ?_ ?_; intro ht_; rotate_left; dsimp -zeta only [t_]) | skip)
    | with_reducible apply State.takeRx_keeps (Sub.trans rfl hw)
    | with_reducible apply State.pst_keeps (Sub.trans rfl hw)
    | with_reducible apply State.beIngress_keeps (Sub.trans rfl hw)
    | lift_lets
    | with_reducible refine keeps_ite ?_ ?_
    | split
    | (clear_value *; split)
    | with_reducible refine keeps_fst_ite ?_ ?_
    | (with_reducible refine keeps_of_eq (by assumption) ?_))

theorem execBeFrameRx_keeps (rx : Sys2Proof.Rx) (e : Sys2Proof.Eth) (s : State) :
    ∃ t_, execBeFrameRx rx e s = .next t_ ∧ Keeps 0x693810c s t_ := by
  have h := Keeps.refl 0x693810c s
  have hw := Sub.refl 0x693810c
  
  refine ⟨_, rfl, ?_⟩
  repeat' (first
    | with_reducible assumption
    | (intro t_; first | (with_reducible refine keeps_cut (w := w) (s := s0) (t := t_) ?_ ?_; intro ht_; rotate_left; dsimp -zeta only [t_]) | skip)
    | with_reducible apply State.backboneRx_keeps (Sub.trans rfl hw)
    | with_reducible apply State.consistRx_keeps (Sub.trans rfl hw)
    | lift_lets
    | with_reducible refine keeps_ite ?_ ?_)

theorem execFenceHoldoffExpiry_keeps (p : Sys2Proof.Port) (s : State) :
    ∃ t_, execFenceHoldoffExpiry p s = .next t_ ∧ Keeps 0x3010184 s t_ := by
  have h := Keeps.refl 0x3010184 s
  have hw := Sub.refl 0x3010184
  
  refine ⟨_, rfl, ?_⟩
  repeat' (first
    | with_reducible assumption
    | (intro t_; first | (with_reducible refine keeps_cut (w := w) (s := s0) (t := t_) ?_ ?_; intro ht_; rotate_left; dsimp -zeta only [t_]) | skip)
    | with_reducible apply State.when_keeps (Sub.trans rfl hw)
    | with_reducible apply State.lift_keeps (Sub.trans rfl hw)
    | with_reducible apply State.reachAt_keeps (Sub.trans rfl hw)
    | dsimp only [id]
    | lift_lets
    | with_reducible refine keeps_ite ?_ ?_)

theorem State.unfence_keeps {w : Nat} {s0 s : State} (hw : Sub 0x10104 w) (h : Keeps w s0 s) (p : Nat) :
    Keeps w s0 (State.unfence s p) := by
  unfold State.unfence
  repeat' (first
    | with_reducible assumption
    | (intro t_; first | (with_reducible refine keeps_cut (w := w) (s := s0) (t := t_) ?_ ?_; intro ht_; rotate_left; dsimp -zeta only [t_]) | skip)
    | with_reducible apply State.lift_keeps (Sub.trans rfl hw)
    | with_reducible apply State.wrB_keeps (Sub.trans rfl hw)
    | with_reducible apply State.wrF_keeps (Sub.trans rfl hw)
    | lift_lets
    | with_reducible refine keeps_ite ?_ ?_)

theorem State.softFence_keeps {w : Nat} {s0 s : State} (hw : Sub 0x10104 w) (h : Keeps w s0 s) (p : Nat) :
    Keeps w s0 (State.softFence s p) := by
  unfold State.softFence
  repeat' (first
    | with_reducible assumption
    | (intro t_; first | (with_reducible refine keeps_cut (w := w) (s := s0) (t := t_) ?_ ?_; intro ht_; rotate_left; dsimp -zeta only [t_]) | skip)
    | with_reducible apply State.wrB_keeps (Sub.trans rfl hw)
    | with_reducible apply State.fence_keeps (Sub.trans rfl hw)
    | lift_lets
    | with_reducible refine keeps_ite ?_ ?_)

theorem State.grdCtrl_keeps {w : Nat} {s0 s : State} (hw : Sub 0x10104 w) (h : Keeps w s0 s) (p : Nat) (v : Sys2Proof.Word) :
    Keeps w s0 (State.grdCtrl s p v) := by
  unfold State.grdCtrl
  repeat' (first
    | with_reducible assumption
    | (intro t_; first | (with_reducible refine keeps_cut (w := w) (s := s0) (t := t_) ?_ ?_; intro ht_; rotate_left; dsimp -zeta only [t_]) | skip)
    | with_reducible apply State.when_keeps (Sub.trans rfl hw)
    | with_reducible apply State.setHist_keeps (Sub.trans rfl hw)
    | with_reducible apply State.softFence_keeps (Sub.trans rfl hw)
    | with_reducible apply State.unfence_keeps (Sub.trans rfl hw)
    | dsimp only [id]
    | lift_lets
    | with_reducible refine keeps_ite ?_ ?_)

theorem execGrdUnfence_keeps (p : Sys2Proof.Port) (s : State) :
    ∃ t_, execGrdUnfence p s = .next t_ ∧ Keeps 0x310104 s t_ := by
  have h := Keeps.refl 0x310104 s
  have hw := Sub.refl 0x310104
  
  refine ⟨_, rfl, ?_⟩
  repeat' (first
    | with_reducible assumption
    | (intro t_; first | (with_reducible refine keeps_cut (w := w) (s := s0) (t := t_) ?_ ?_; intro ht_; rotate_left; dsimp -zeta only [t_]) | skip)
    | with_reducible apply State.guarded_keeps (Sub.trans rfl hw)
    | with_reducible apply State.grdCtrl_keeps (Sub.trans rfl hw)
    | dsimp only [id]
    | lift_lets
    | with_reducible refine keeps_ite ?_ ?_)

theorem execGrdFence_keeps (p : Sys2Proof.Port) (s : State) :
    ∃ t_, execGrdFence p s = .next t_ ∧ Keeps 0x310104 s t_ := by
  have h := Keeps.refl 0x310104 s
  have hw := Sub.refl 0x310104
  
  refine ⟨_, rfl, ?_⟩
  repeat' (first
    | with_reducible assumption
    | (intro t_; first | (with_reducible refine keeps_cut (w := w) (s := s0) (t := t_) ?_ ?_; intro ht_; rotate_left; dsimp -zeta only [t_]) | skip)
    | with_reducible apply State.guarded_keeps (Sub.trans rfl hw)
    | with_reducible apply State.grdCtrl_keeps (Sub.trans rfl hw)
    | dsimp only [id]
    | lift_lets
    | with_reducible refine keeps_ite ?_ ?_)

theorem execGrdClearHistory_keeps (p : Sys2Proof.Port) (s : State) :
    ∃ t_, execGrdClearHistory p s = .next t_ ∧ Keeps 0x310104 s t_ := by
  have h := Keeps.refl 0x310104 s
  have hw := Sub.refl 0x310104
  
  refine ⟨_, rfl, ?_⟩
  repeat' (first
    | with_reducible assumption
    | (intro t_; first | (with_reducible refine keeps_cut (w := w) (s := s0) (t := t_) ?_ ?_; intro ht_; rotate_left; dsimp -zeta only [t_]) | skip)
    | with_reducible apply State.guarded_keeps (Sub.trans rfl hw)
    | with_reducible apply State.grdCtrl_keeps (Sub.trans rfl hw)
    | dsimp only [id]
    | lift_lets
    | with_reducible refine keeps_ite ?_ ?_)

theorem State.pollPort_keeps {w : Nat} {s0 s : State} (hw : Sub 0x6938504 w) (h : Keeps w s0 s) (sl : Nat) (sid : Nat) (e : Sys2Proof.Machine.Stitch) (p : Nat) :
    Keeps w s0 (State.pollPort s sl sid e p) := by
  have b2 := Sub.bit (i := 2) hw rfl; have b8 := Sub.bit (i := 8) hw rfl; have b10 := Sub.bit (i := 10) hw rfl; have b15 := Sub.bit (i := 15) hw rfl; have b16 := Sub.bit (i := 16) hw rfl; have b17 := Sub.bit (i := 17) hw rfl; have b20 := Sub.bit (i := 20) hw rfl; have b23 := Sub.bit (i := 23) hw rfl; have b25 := Sub.bit (i := 25) hw rfl; have b26 := Sub.bit (i := 26) hw rfl
  unfold State.pollPort
  repeat' (first
    | with_reducible assumption
    | (intro t_; first | (with_reducible refine keeps_cut (w := w) (s := s0) (t := t_) ?_ ?_; intro ht_; rotate_left; dsimp -zeta only [t_]) | skip)
    | with_reducible apply State.sendGuarded_keeps (Sub.trans rfl hw)
    | with_reducible apply State.noteSeq_keeps (Sub.trans rfl hw)
    | with_reducible apply State.pst_keeps (Sub.trans rfl hw)
    | with_reducible apply State.count_keeps (Sub.trans rfl hw)
    | lift_lets
    | with_reducible refine keeps_ite ?_ ?_
    | with_reducible refine keeps_fst_ite ?_ ?_
    | (with_reducible refine keeps_of_eq (by assumption) ?_)
    | with_reducible refine keeps_upd ?_ (fun x => x) (fun x => x) (.inr rfl) (.inl b2) (.inr rfl) (.inr rfl) (.inr rfl) (.inr rfl) (.inl b8) (.inr rfl) (.inl b10) (.inr rfl) (.inr rfl) (.inr rfl) (.inr rfl) (.inl b15) (.inl b16) (.inl b17) (.inr rfl) (.inr rfl) (.inl b20) (.inr rfl) (.inr rfl) (.inl b23) (.inr rfl) (.inl b25) (.inl b26))

theorem execPollSend_keeps (sid : Fin 4096) (s : State) :
    ∃ t_, execPollSend sid s = .next t_ ∧ Keeps 0x7938584 s t_ := by
  have h := Keeps.refl 0x7938584 s
  have hw := Sub.refl 0x7938584
  
  refine ⟨_, rfl, ?_⟩
  repeat' (first
    | with_reducible assumption
    | (intro t_; first | (with_reducible refine keeps_cut (w := w) (s := s0) (t := t_) ?_ ?_; intro ht_; rotate_left; dsimp -zeta only [t_]) | skip)
    | with_reducible apply State.when_keeps (Sub.trans rfl hw)
    | with_reducible apply State.reachSt_keeps (Sub.trans rfl hw)
    | with_reducible apply State.each_keeps (Sub.trans rfl hw)
    | with_reducible apply State.pollPort_keeps (Sub.trans rfl hw)
    | dsimp only [id]
    | lift_lets
    | with_reducible refine keeps_ite ?_ ?_
    | split
    | (clear_value *; split))

theorem State.commitReply_keeps {w : Nat} {s0 s : State} (hw : Sub 0x10a008 w) (h : Keeps w s0 s) (d : Nat) (id : Nat) (t : Sys2Proof.Strand) :
    Keeps w s0 (State.commitReply s d id t) := by
  unfold State.commitReply
  repeat' (first
    | with_reducible assumption
    | (intro t_; first | (with_reducible refine keeps_cut (w := w) (s := s0) (t := t_) ?_ ?_; intro ht_; rotate_left; dsimp -zeta only [t_]) | skip)
    | with_reducible apply State.commitData_keeps (Sub.trans rfl hw)
    | with_reducible apply State.statBy_keeps (Sub.trans rfl hw)
    | lift_lets
    | with_reducible refine keeps_ite ?_ ?_
    | split
    | (clear_value *; split)
    | with_reducible refine keeps_fst_ite ?_ ?_
    | (with_reducible refine keeps_of_eq (by assumption) ?_))

theorem State.nullReply_keeps {w : Nat} {s0 t : State} (hw : Sub 0x10a008 w) (h : Keeps w s0 t) (row : Sys2Proof.Word) (sl : Nat) (sid : Nat) (e : Sys2Proof.Machine.Stitch) (y5 : Option (Nat × Nat)) :
    Keeps w s0 (State.nullReply t row sl sid e y5) := by
  unfold State.nullReply
  repeat' (first
    | with_reducible assumption
    | (intro t_; first | (with_reducible refine keeps_cut (w := w) (s := s0) (t := t_) ?_ ?_; intro ht_; rotate_left; dsimp -zeta only [t_]) | skip)
    | with_reducible apply State.commitNull_keeps (Sub.trans rfl hw)
    | lift_lets
    | with_reducible refine keeps_ite ?_ ?_
    | split
    | (clear_value *; split)
    | with_reducible refine keeps_fst_ite ?_ ?_
    | (with_reducible refine keeps_of_eq (by assumption) ?_))

theorem State.endReply_keeps {w : Nat} {s0 t : State} (hw : Sub 0x10a10c w) (h : Keeps w s0 t) (row : Sys2Proof.Word) (sl : Nat) (sid : Nat) (e : Sys2Proof.Machine.Stitch) (y5 : Option Sys2Proof.Machine.ReplyGot) (y6 : List Nat) :
    Keeps w s0 (State.endReply t row sl sid e y5 y6) := by
  unfold State.endReply
  repeat' (first
    | with_reducible assumption
    | (intro t_; first | (with_reducible refine keeps_cut (w := w) (s := s0) (t := t_) ?_ ?_; intro ht_; rotate_left; dsimp -zeta only [t_]) | skip)
    | with_reducible apply State.commitReply_keeps (Sub.trans rfl hw)
    | with_reducible apply State.raise_keeps (Sub.trans rfl hw)
    | with_reducible apply State.pst_keeps (Sub.trans rfl hw)
    | with_reducible apply State.count_keeps (Sub.trans rfl hw)
    | with_reducible apply State.nullReply_keeps (Sub.trans rfl hw)
    | lift_lets
    | with_reducible refine keeps_ite ?_ ?_
    | split
    | (clear_value *; split))

theorem State.closeReply_keeps {w : Nat} {s0 s : State} (hw : Sub 0x11a10c w) (h : Keeps w s0 s) (row : Sys2Proof.Word) (sl : Nat) (sid : Nat) (e : Sys2Proof.Machine.Stitch) :
    Keeps w s0 (State.closeReply s row sl sid e) := by
  have b2 := Sub.bit (i := 2) hw rfl; have b3 := Sub.bit (i := 3) hw rfl; have b8 := Sub.bit (i := 8) hw rfl; have b13 := Sub.bit (i := 13) hw rfl; have b15 := Sub.bit (i := 15) hw rfl; have b16 := Sub.bit (i := 16) hw rfl; have b20 := Sub.bit (i := 20) hw rfl
  unfold State.closeReply
  repeat' (first
    | with_reducible assumption
    | (intro t_; first | (with_reducible refine keeps_cut (w := w) (s := s0) (t := t_) ?_ ?_; intro ht_; rotate_left; dsimp -zeta only [t_]) | skip)
    | with_reducible apply State.endReply_keeps (Sub.trans rfl hw)
    | lift_lets
    | with_reducible refine keeps_ite ?_ ?_
    | with_reducible refine keeps_fst_ite ?_ ?_
    | (with_reducible refine keeps_of_eq (by assumption) ?_)
    | with_reducible refine keeps_upd ?_ (fun x => x) (fun x => x) (.inr rfl) (.inl b2) (.inl b3) (.inr rfl) (.inr rfl) (.inr rfl) (.inl b8) (.inr rfl) (.inr rfl) (.inr rfl) (.inr rfl) (.inl b13) (.inr rfl) (.inl b15) (.inl b16) (.inr rfl) (.inr rfl) (.inr rfl) (.inl b20) (.inr rfl) (.inr rfl) (.inr rfl) (.inr rfl) (.inr rfl) (.inr rfl))

theorem execReplyCommit_keeps (sid : Fin 4096) (s : State) :
    ∃ t_, execReplyCommit sid s = .next t_ ∧ Keeps 0x311a18c s t_ := by
  have h := Keeps.refl 0x311a18c s
  have hw := Sub.refl 0x311a18c
  
  refine ⟨_, rfl, ?_⟩
  repeat' (first
    | with_reducible assumption
    | (intro t_; first | (with_reducible refine keeps_cut (w := w) (s := s0) (t := t_) ?_ ?_; intro ht_; rotate_left; dsimp -zeta only [t_]) | skip)
    | with_reducible apply State.closeReply_keeps (Sub.trans rfl hw)
    | with_reducible apply State.reachSt_keeps (Sub.trans rfl hw)
    | lift_lets
    | with_reducible refine keeps_ite ?_ ?_
    | split
    | (clear_value *; split)
    | with_reducible refine keeps_fst_ite ?_ ?_
    | (with_reducible refine keeps_of_eq (by assumption) ?_))

theorem execPortLinkUp_keeps (p : Sys2Proof.Port) (speed : Fin 6) (s : State) :
    ∃ t_, execPortLinkUp p speed s = .next t_ ∧ Keeps 0x1204104 s t_ := by
  have h := Keeps.refl 0x1204104 s
  have hw := Sub.refl 0x1204104
  
  refine ⟨_, rfl, ?_⟩
  repeat' (first
    | with_reducible assumption
    | (intro t_; first | (with_reducible refine keeps_cut (w := w) (s := s0) (t := t_) ?_ ?_; intro ht_; rotate_left; dsimp -zeta only [t_]) | skip)
    | with_reducible apply State.when_keeps (Sub.trans rfl hw)
    | with_reducible apply State.startVerify_keeps (Sub.trans rfl hw)
    | with_reducible apply State.meterOn_keeps (Sub.trans rfl hw)
    | with_reducible apply State.raise_keeps (Sub.trans rfl hw)
    | with_reducible apply State.wr_keeps (Sub.trans rfl hw)
    | with_reducible apply State.coupleDetect_keeps (Sub.trans rfl hw)
    | dsimp only [id]
    | lift_lets
    | with_reducible refine keeps_ite ?_ ?_)

theorem State.linkDown_keeps {w : Nat} {s0 s : State} (hw : Sub 0x7b2dd4c w) (h : Keeps w s0 s) (p : Nat) :
    Keeps w s0 (State.linkDown s p) := by
  unfold State.linkDown
  repeat' (first
    | with_reducible assumption
    | (intro t_; first | (with_reducible refine keeps_cut (w := w) (s := s0) (t := t_) ?_ ?_; intro ht_; rotate_left; dsimp -zeta only [t_]) | skip)
    | with_reducible apply State.disarm_keeps (Sub.trans rfl hw)
    | with_reducible apply State.wrF_keeps (Sub.trans rfl hw)
    | with_reducible apply State.meterOff_keeps (Sub.trans rfl hw)
    | with_reducible apply State.pst_keeps (Sub.trans rfl hw)
    | with_reducible apply State.raise_keeps (Sub.trans rfl hw)
    | with_reducible apply State.wrB_keeps (Sub.trans rfl hw)
    | with_reducible apply State.loseFlight_keeps (Sub.trans rfl hw)
    | with_reducible apply State.loseNbr_keeps (Sub.trans rfl hw)
    | with_reducible apply State.mark_keeps (Sub.trans rfl hw)
    | with_reducible apply State.declareFailure_keeps (Sub.trans rfl hw)
    | lift_lets
    | with_reducible refine keeps_ite ?_ ?_)

theorem execPortLinkDown_keeps (p : Sys2Proof.Port) (s : State) :
    ∃ t_, execPortLinkDown p s = .next t_ ∧ Keeps 0x7b2dd4c s t_ := by
  have h := Keeps.refl 0x7b2dd4c s
  have hw := Sub.refl 0x7b2dd4c
  
  refine ⟨_, rfl, ?_⟩
  repeat' (first
    | with_reducible assumption
    | (intro t_; first | (with_reducible refine keeps_cut (w := w) (s := s0) (t := t_) ?_ ?_; intro ht_; rotate_left; dsimp -zeta only [t_]) | skip)
    | with_reducible apply State.when_keeps (Sub.trans rfl hw)
    | with_reducible apply State.linkDown_keeps (Sub.trans rfl hw)
    | dsimp only [id]
    | lift_lets
    | with_reducible refine keeps_ite ?_ ?_)

end Sys2Proof.Machine
end

