-- ==== Sys2Proof/Laws/Stats.lean ====
section
/-! SUPPORT. What the functions of Machine/Stats.lean keep, one lemma for each. -/

namespace Sys2Proof.Machine

theorem State.staRestart_keeps {w : Nat} {s0 s : State} (hw : Sub 0x200004 w) (h : Keeps w s0 s) (d : Nat) (n : Nat) :
    Keeps w s0 (State.staRestart s d n) := by
  have b2 := Sub.bit (i := 2) hw rfl; have b21 := Sub.bit (i := 21) hw rfl
  unfold State.staRestart
  repeat' (first
    | with_reducible assumption
    | (intro t_; first | (with_reducible refine keeps_cut (w := w) (s := s0) (t := t_) ?_ ?_; intro ht_; rotate_left; dsimp -zeta only [t_]) | skip)
    | with_reducible apply State.wrF_keeps (Sub.trans rfl hw)
    | lift_lets
    | with_reducible refine keeps_ite ?_ ?_
    | with_reducible refine keeps_upd ?_ (fun x => x) (fun x => x) (.inr rfl) (.inl b2) (.inr rfl) (.inr rfl) (.inr rfl) (.inr rfl) (.inr rfl) (.inr rfl) (.inr rfl) (.inr rfl) (.inr rfl) (.inr rfl) (.inr rfl) (.inr rfl) (.inr rfl) (.inr rfl) (.inr rfl) (.inr rfl) (.inr rfl) (.inl b21) (.inr rfl) (.inr rfl) (.inr rfl) (.inr rfl) (.inr rfl))

theorem State.newPeriod_keeps {w : Nat} {s0 s : State} (hw : Sub 0x600004 w) (h : Keeps w s0 s) (d : Nat) :
    Keeps w s0 (State.newPeriod s d) := by
  have b2 := Sub.bit (i := 2) hw rfl; have b21 := Sub.bit (i := 21) hw rfl; have b22 := Sub.bit (i := 22) hw rfl
  unfold State.newPeriod
  repeat' (first
    | with_reducible assumption
    | (intro t_; first | (with_reducible refine keeps_cut (w := w) (s := s0) (t := t_) ?_ ?_; intro ht_; rotate_left; dsimp -zeta only [t_]) | skip)
    | with_reducible apply State.staRestart_keeps (Sub.trans rfl hw)
    | with_reducible apply State.wrB_keeps (Sub.trans rfl hw)
    | lift_lets
    | with_reducible refine keeps_ite ?_ ?_
    | with_reducible refine keeps_upd ?_ (fun x => x) (fun x => x) (.inr rfl) (.inl b2) (.inr rfl) (.inr rfl) (.inr rfl) (.inr rfl) (.inr rfl) (.inr rfl) (.inr rfl) (.inr rfl) (.inr rfl) (.inr rfl) (.inr rfl) (.inr rfl) (.inr rfl) (.inr rfl) (.inr rfl) (.inr rfl) (.inr rfl) (.inl b21) (.inl b22) (.inr rfl) (.inr rfl) (.inr rfl) (.inr rfl))

theorem State.meterAll_keeps {w : Nat} {s0 s : State} (hw : Sub 0x300000 w) (h : Keeps w s0 s) (d : Nat) :
    Keeps w s0 (State.meterAll s d) := by
  unfold State.meterAll
  repeat' (first
    | with_reducible assumption
    | (intro t_; first | (with_reducible refine keeps_cut (w := w) (s := s0) (t := t_) ?_ ?_; intro ht_; rotate_left; dsimp -zeta only [t_]) | skip)
    | with_reducible apply State.each_keeps (Sub.trans rfl hw)
    | with_reducible apply State.meter_keeps (Sub.trans rfl hw)
    | lift_lets
    | with_reducible refine keeps_ite ?_ ?_
    | with_reducible refine keeps_fst_ite ?_ ?_
    | (with_reducible refine keeps_of_eq (by assumption) ?_))

theorem State.snapOne_keeps {w : Nat} {s0 s : State} (hw : Sub 0x8 w) (h : Keeps w s0 s) (a : Nat) (v : Nat) :
    Keeps w s0 (State.snapOne s a v) := by
  unfold State.snapOne
  repeat' (first
    | with_reducible assumption
    | (intro t_; first | (with_reducible refine keeps_cut (w := w) (s := s0) (t := t_) ?_ ?_; intro ht_; rotate_left; dsimp -zeta only [t_]) | skip)
    | with_reducible apply State.setTw_keeps (Sub.trans rfl hw)
    | lift_lets
    | with_reducible refine keeps_ite ?_ ?_)

theorem State.clearBank_keeps {w : Nat} {s0 s : State} (hw : Sub 0x8 w) (h : Keeps w s0 s) (d : Nat) : Keeps w s0 (s.clearBank d) := by
  unfold State.clearBank
  with_reducible apply keeps_upd h (fun x => x) (fun x => Sparse.wf_drop x)
  all_goals first | exact Or.inl (Sub.bit hw rfl) | exact Or.inr rfl

theorem State.clearLive_keeps {w : Nat} {s0 s : State} (hw : Sub 0x100000 w) (h : Keeps w s0 s) (d : Nat) :
    Keeps w s0 (State.clearLive s d) := by
  have b20 := Sub.bit (i := 20) hw rfl
  unfold State.clearLive
  repeat' (first
    | with_reducible assumption
    | (intro t_; first | (with_reducible refine keeps_cut (w := w) (s := s0) (t := t_) ?_ ?_; intro ht_; rotate_left; dsimp -zeta only [t_]) | skip)
    | lift_lets
    | with_reducible refine keeps_ite ?_ ?_
    | with_reducible refine keeps_fst_ite ?_ ?_
    | (with_reducible refine keeps_of_eq (by assumption) ?_)
    | with_reducible refine keeps_upd ?_ (fun x => x) (fun x => x) (.inr rfl) (.inr rfl) (.inr rfl) (.inr rfl) (.inr rfl) (.inr rfl) (.inr rfl) (.inr rfl) (.inr rfl) (.inr rfl) (.inr rfl) (.inr rfl) (.inr rfl) (.inr rfl) (.inr rfl) (.inr rfl) (.inr rfl) (.inr rfl) (.inl b20) (.inr rfl) (.inr rfl) (.inr rfl) (.inr rfl) (.inr rfl) (.inr rfl))

theorem State.alignStats_keeps {w : Nat} {s0 s : State} (hw : Sub 0x600004 w) (h : Keeps w s0 s) :
    Keeps w s0 (State.alignStats s) := by
  have b2 := Sub.bit (i := 2) hw rfl; have b21 := Sub.bit (i := 21) hw rfl; have b22 := Sub.bit (i := 22) hw rfl
  unfold State.alignStats
  repeat' (first
    | with_reducible assumption
    | (intro t_; first | (with_reducible refine keeps_cut (w := w) (s := s0) (t := t_) ?_ ?_; intro ht_; rotate_left; dsimp -zeta only [t_]) | skip)
    | with_reducible apply State.wr_keeps (Sub.trans rfl hw)
    | with_reducible apply State.staRestart_keeps (Sub.trans rfl hw)
    | lift_lets
    | with_reducible refine keeps_ite ?_ ?_
    | with_reducible refine keeps_upd ?_ (fun x => x) (fun x => x) (.inr rfl) (.inl b2) (.inr rfl) (.inr rfl) (.inr rfl) (.inr rfl) (.inr rfl) (.inr rfl) (.inr rfl) (.inr rfl) (.inr rfl) (.inr rfl) (.inr rfl) (.inr rfl) (.inr rfl) (.inr rfl) (.inr rfl) (.inr rfl) (.inr rfl) (.inl b21) (.inl b22) (.inr rfl) (.inr rfl) (.inr rfl) (.inr rfl))

theorem State.staBoundary_keeps {w : Nat} {s0 s : State} (hw : Sub 0x470010c w) (h : Keeps w s0 s) (d : Nat) :
    Keeps w s0 (State.staBoundary s d) := by
  unfold State.staBoundary
  repeat' (first
    | with_reducible assumption
    | (intro t_; first | (with_reducible refine keeps_cut (w := w) (s := s0) (t := t_) ?_ ?_; intro ht_; rotate_left; dsimp -zeta only [t_]) | skip)
    | with_reducible apply State.meterAll_keeps (Sub.trans rfl hw)
    | with_reducible apply State.each_keeps (Sub.trans rfl hw)
    | with_reducible apply State.clearBank_keeps (Sub.trans rfl hw)
    | with_reducible apply State.snapOne_keeps (Sub.trans rfl hw)
    | with_reducible apply State.wrF_keeps (Sub.trans rfl hw)
    | with_reducible apply State.wr_keeps (Sub.trans rfl hw)
    | with_reducible apply State.newPeriod_keeps (Sub.trans rfl hw)
    | with_reducible apply State.raise_keeps (Sub.trans rfl hw)
    | with_reducible apply State.clearLive_keeps (Sub.trans rfl hw)
    | with_reducible apply State.useFree_keeps (Sub.trans rfl hw)
    | lift_lets
    | with_reducible refine keeps_ite ?_ ?_
    | with_reducible refine keeps_fst_ite ?_ ?_
    | (with_reducible refine keeps_of_eq (by assumption) ?_))

theorem execStatsBoundary_keeps (d : Sys2Proof.Die) (s : State) :
    ∃ t_, execStatsBoundary d s = .next t_ ∧ Keeps 0x770018c s t_ := by
  have h := Keeps.refl 0x770018c s
  have hw := Sub.refl 0x770018c
  
  refine ⟨_, rfl, ?_⟩
  repeat' (first
    | with_reducible assumption
    | (intro t_; first | (with_reducible refine keeps_cut (w := w) (s := s0) (t := t_) ?_ ?_; intro ht_; rotate_left; dsimp -zeta only [t_]) | skip)
    | with_reducible apply State.when_keeps (Sub.trans rfl hw)
    | with_reducible apply State.staBoundary_keeps (Sub.trans rfl hw)
    | with_reducible apply State.alignStats_keeps (Sub.trans rfl hw)
    | with_reducible apply State.reachAt_keeps (Sub.trans rfl hw)
    | dsimp only [id]
    | lift_lets
    | with_reducible refine keeps_ite ?_ ?_)

theorem State.staSnap_keeps {w : Nat} {s0 s : State} (hw : Sub 0x4 w) (h : Keeps w s0 s) (d : Nat) :
    Keeps w s0 (State.staSnap s d) := by
  unfold State.staSnap
  repeat' (first
    | with_reducible assumption
    | (intro t_; first | (with_reducible refine keeps_cut (w := w) (s := s0) (t := t_) ?_ ?_; intro ht_; rotate_left; dsimp -zeta only [t_]) | skip)
    | with_reducible apply State.wrB_keeps (Sub.trans rfl hw)
    | lift_lets
    | with_reducible refine keeps_ite ?_ ?_)

theorem execStatsSnapRequest_keeps (d : Sys2Proof.Die) (s : State) :
    ∃ t_, execStatsSnapRequest d s = .next t_ ∧ Keeps 0x300104 s t_ := by
  have h := Keeps.refl 0x300104 s
  have hw := Sub.refl 0x300104
  
  refine ⟨_, rfl, ?_⟩
  repeat' (first
    | with_reducible assumption
    | (intro t_; first | (with_reducible refine keeps_cut (w := w) (s := s0) (t := t_) ?_ ?_; intro ht_; rotate_left; dsimp -zeta only [t_]) | skip)
    | with_reducible apply State.guarded_keeps (Sub.trans rfl hw)
    | with_reducible apply State.staSnap_keeps (Sub.trans rfl hw)
    | dsimp only [id]
    | lift_lets
    | with_reducible refine keeps_ite ?_ ?_)

theorem State.sinceNow_keeps {w : Nat} {s0 s : State} (hw : Sub 0x200000 w) (h : Keeps w s0 s) (d : Nat) :
    Keeps w s0 (State.sinceNow s d) := by
  have b21 := Sub.bit (i := 21) hw rfl
  unfold State.sinceNow
  repeat' (first
    | with_reducible assumption
    | (intro t_; first | (with_reducible refine keeps_cut (w := w) (s := s0) (t := t_) ?_ ?_; intro ht_; rotate_left; dsimp -zeta only [t_]) | skip)
    | lift_lets
    | with_reducible refine keeps_ite ?_ ?_
    | with_reducible refine keeps_fst_ite ?_ ?_
    | (with_reducible refine keeps_of_eq (by assumption) ?_)
    | with_reducible refine keeps_upd ?_ (fun x => x) (fun x => x) (.inr rfl) (.inr rfl) (.inr rfl) (.inr rfl) (.inr rfl) (.inr rfl) (.inr rfl) (.inr rfl) (.inr rfl) (.inr rfl) (.inr rfl) (.inr rfl) (.inr rfl) (.inr rfl) (.inr rfl) (.inr rfl) (.inr rfl) (.inr rfl) (.inr rfl) (.inl b21) (.inr rfl) (.inr rfl) (.inr rfl) (.inr rfl) (.inr rfl))

theorem State.staEnable_keeps {w : Nat} {s0 s : State} (hw : Sub 0x700004 w) (h : Keeps w s0 s) (d : Nat) (v : Bool) :
    Keeps w s0 (State.staEnable s d v) := by
  unfold State.staEnable
  repeat' (first
    | with_reducible assumption
    | (intro t_; first | (with_reducible refine keeps_cut (w := w) (s := s0) (t := t_) ?_ ?_; intro ht_; rotate_left; dsimp -zeta only [t_]) | skip)
    | with_reducible apply State.staRestart_keeps (Sub.trans rfl hw)
    | with_reducible apply State.meterAll_keeps (Sub.trans rfl hw)
    | with_reducible apply State.wrB_keeps (Sub.trans rfl hw)
    | with_reducible apply State.newPeriod_keeps (Sub.trans rfl hw)
    | with_reducible apply State.sinceNow_keeps (Sub.trans rfl hw)
    | with_reducible apply State.clearLive_keeps (Sub.trans rfl hw)
    | lift_lets
    | with_reducible refine keeps_ite ?_ ?_)

theorem execStatsEnableWrite_keeps (d : Sys2Proof.Die) (v : Bool) (s : State) :
    ∃ t_, execStatsEnableWrite d v s = .next t_ ∧ Keeps 0x700104 s t_ := by
  have h := Keeps.refl 0x700104 s
  have hw := Sub.refl 0x700104
  
  refine ⟨_, rfl, ?_⟩
  repeat' (first
    | with_reducible assumption
    | (intro t_; first | (with_reducible refine keeps_cut (w := w) (s := s0) (t := t_) ?_ ?_; intro ht_; rotate_left; dsimp -zeta only [t_]) | skip)
    | with_reducible apply State.guarded_keeps (Sub.trans rfl hw)
    | with_reducible apply State.staEnable_keeps (Sub.trans rfl hw)
    | dsimp only [id]
    | lift_lets
    | with_reducible refine keeps_ite ?_ ?_)

theorem State.staRow_keeps {w : Nat} {s0 s : State} (hw : Sub 0x200004 w) (h : Keeps w s0 s) (len : Nat) :
    Keeps w s0 (State.staRow s len) := by
  unfold State.staRow
  repeat' (first
    | with_reducible assumption
    | (intro t_; first | (with_reducible refine keeps_cut (w := w) (s := s0) (t := t_) ?_ ?_; intro ht_; rotate_left; dsimp -zeta only [t_]) | skip)
    | with_reducible apply State.each_keeps (Sub.trans rfl hw)
    | with_reducible apply State.when_keeps (Sub.trans rfl hw)
    | with_reducible apply State.staRestart_keeps (Sub.trans rfl hw)
    | dsimp only [id]
    | lift_lets
    | with_reducible refine keeps_ite ?_ ?_
    | split
    | (clear_value *; split))

end Sys2Proof.Machine
end

