-- ==== Sys2Proof/Laws/Region.lean ====
section
/-! SUPPORT. What the functions of Machine/Region.lean keep, one lemma for each. -/

namespace Sys2Proof.Machine

theorem State.evalNextEvt_keeps {w : Nat} {s0 s : State} (hw : Sub 0x4 w) (h : Keeps w s0 s) (g : Nat) :
    Keeps w s0 (State.evalNextEvt s g) := by
  unfold State.evalNextEvt
  repeat' (first
    | with_reducible assumption
    | (intro t_; first | (with_reducible refine keeps_cut (w := w) (s := s0) (t := t_) ?_ ?_; intro ht_; rotate_left; dsimp -zeta only [t_]) | skip)
    | with_reducible apply State.wr_keeps (Sub.trans rfl hw)
    | lift_lets
    | with_reducible refine keeps_ite ?_ ?_
    | split
    | (clear_value *; split))

theorem State.rgnEnter_keeps {w : Nat} {s0 s : State} (hw : Sub 0x300004 w) (h : Keeps w s0 s) (g : Nat) (v : Nat) :
    Keeps w s0 (State.rgnEnter s g v) := by
  unfold State.rgnEnter
  repeat' (first
    | with_reducible assumption
    | (intro t_; first | (with_reducible refine keeps_cut (w := w) (s := s0) (t := t_) ?_ ?_; intro ht_; rotate_left; dsimp -zeta only [t_]) | skip)
    | with_reducible apply State.rgnCount_keeps (Sub.trans rfl hw)
    | with_reducible apply State.evalShared_keeps (Sub.trans rfl hw)
    | with_reducible apply State.evalNextEvt_keeps (Sub.trans rfl hw)
    | with_reducible apply State.wrB_keeps (Sub.trans rfl hw)
    | with_reducible apply State.wrF_keeps (Sub.trans rfl hw)
    | lift_lets
    | with_reducible refine keeps_ite ?_ ?_)

theorem execRegionSleepEnter_keeps (g : Fin 4) (s : State) :
    ∃ t_, execRegionSleepEnter g s = .next t_ ∧ Keeps 0x300004 s t_ := by
  have h := Keeps.refl 0x300004 s
  have hw := Sub.refl 0x300004
  
  refine ⟨_, rfl, ?_⟩
  repeat' (first
    | with_reducible assumption
    | (intro t_; first | (with_reducible refine keeps_cut (w := w) (s := s0) (t := t_) ?_ ?_; intro ht_; rotate_left; dsimp -zeta only [t_]) | skip)
    | with_reducible apply State.when_keeps (Sub.trans rfl hw)
    | with_reducible apply State.rgnEnter_keeps (Sub.trans rfl hw)
    | dsimp only [id]
    | lift_lets
    | with_reducible refine keeps_ite ?_ ?_)

theorem execRegionIdleHoldExpiry_keeps (g : Fin 4) (s : State) :
    ∃ t_, execRegionIdleHoldExpiry g s = .next t_ ∧ Keeps 0x3300184 s t_ := by
  have h := Keeps.refl 0x3300184 s
  have hw := Sub.refl 0x3300184
  
  refine ⟨_, rfl, ?_⟩
  repeat' (first
    | with_reducible assumption
    | (intro t_; first | (with_reducible refine keeps_cut (w := w) (s := s0) (t := t_) ?_ ?_; intro ht_; rotate_left; dsimp -zeta only [t_]) | skip)
    | with_reducible apply State.when_keeps (Sub.trans rfl hw)
    | with_reducible apply State.rgnEnter_keeps (Sub.trans rfl hw)
    | with_reducible apply State.reachAt_keeps (Sub.trans rfl hw)
    | dsimp only [id]
    | lift_lets
    | with_reducible refine keeps_ite ?_ ?_)

theorem execRegionWakeStart_keeps (g : Fin 4) (s : State) :
    ∃ t_, execRegionWakeStart g s = .next t_ ∧ Keeps 0x3300184 s t_ := by
  have h := Keeps.refl 0x3300184 s
  have hw := Sub.refl 0x3300184
  
  refine ⟨_, rfl, ?_⟩
  repeat' (first
    | with_reducible assumption
    | (intro t_; first | (with_reducible refine keeps_cut (w := w) (s := s0) (t := t_) ?_ ?_; intro ht_; rotate_left; dsimp -zeta only [t_]) | skip)
    | with_reducible apply State.when_keeps (Sub.trans rfl hw)
    | with_reducible apply State.rgnWakeUp_keeps (Sub.trans rfl hw)
    | with_reducible apply State.reachSt_keeps (Sub.trans rfl hw)
    | dsimp only [id]
    | lift_lets
    | with_reducible refine keeps_ite ?_ ?_)

theorem execRegionUnknownWake_keeps (g : Fin 4) (s : State) :
    ∃ t_, execRegionUnknownWake g s = .next t_ ∧ Keeps 0x300004 s t_ := by
  have h := Keeps.refl 0x300004 s
  have hw := Sub.refl 0x300004
  
  refine ⟨_, rfl, ?_⟩
  repeat' (first
    | with_reducible assumption
    | (intro t_; first | (with_reducible refine keeps_cut (w := w) (s := s0) (t := t_) ?_ ?_; intro ht_; rotate_left; dsimp -zeta only [t_]) | skip)
    | with_reducible apply State.when_keeps (Sub.trans rfl hw)
    | with_reducible apply State.rgnWakeUp_keeps (Sub.trans rfl hw)
    | dsimp only [id]
    | lift_lets
    | with_reducible refine keeps_ite ?_ ?_)

theorem execRegionWakeDone_keeps (g : Fin 4) (s : State) :
    ∃ t_, execRegionWakeDone g s = .next t_ ∧ Keeps 0x104 s t_ := by
  have h := Keeps.refl 0x104 s
  have hw := Sub.refl 0x104
  
  refine ⟨_, rfl, ?_⟩
  repeat' (first
    | with_reducible assumption
    | (intro t_; first | (with_reducible refine keeps_cut (w := w) (s := s0) (t := t_) ?_ ?_; intro ht_; rotate_left; dsimp -zeta only [t_]) | skip)
    | with_reducible apply State.when_keeps (Sub.trans rfl hw)
    | with_reducible apply State.rgnAwake_keeps (Sub.trans rfl hw)
    | dsimp only [id]
    | lift_lets
    | with_reducible refine keeps_ite ?_ ?_)

end Sys2Proof.Machine
end

