-- ==== Sys2Proof/Laws/Link.lean ====
section
/-! SUPPORT. What the functions of Machine/Link.lean keep, one lemma for each. -/

namespace Sys2Proof.Machine

theorem State.setWrap_keeps {w : Nat} {s0 s : State} (hw : Sub 0x4 w) (h : Keeps w s0 s) (b : Bool) :
    Keeps w s0 (State.setWrap s b) := by
  unfold State.setWrap
  repeat' (first
    | with_reducible assumption
    | (intro t_; first | (with_reducible refine keeps_cut (w := w) (s := s0) (t := t_) ?_ ?_; intro ht_; rotate_left; dsimp -zeta only [t_]) | skip)
    | with_reducible apply State.wrB_keeps (Sub.trans rfl hw)
    | lift_lets
    | with_reducible refine keeps_ite ?_ ?_)

theorem State.setLink_keeps {w : Nat} {s0 s : State} (hw : Sub 0x4 w) (h : Keeps w s0 s) (up : Bool) (training : Bool) :
    Keeps w s0 (State.setLink s up training) := by
  unfold State.setLink
  repeat' (first
    | with_reducible assumption
    | (intro t_; first | (with_reducible refine keeps_cut (w := w) (s := s0) (t := t_) ?_ ?_; intro ht_; rotate_left; dsimp -zeta only [t_]) | skip)
    | with_reducible apply State.each_keeps (Sub.trans rfl hw)
    | with_reducible apply State.wrB_keeps (Sub.trans rfl hw)
    | lift_lets
    | with_reducible refine keeps_ite ?_ ?_)

theorem State.wrapEnds_keeps {w : Nat} {s0 s : State} (hw : Sub 0x101104 w) (h : Keeps w s0 s) :
    Keeps w s0 (State.wrapEnds s) := by
  unfold State.wrapEnds
  repeat' (first
    | with_reducible assumption
    | (intro t_; first | (with_reducible refine keeps_cut (w := w) (s := s0) (t := t_) ?_ ?_; intro ht_; rotate_left; dsimp -zeta only [t_]) | skip)
    | with_reducible apply State.each_keeps (Sub.trans rfl hw)
    | with_reducible apply State.setWrap_keeps (Sub.trans rfl hw)
    | with_reducible apply State.newNotice_keeps (Sub.trans rfl hw)
    | with_reducible apply State.countTurn_keeps (Sub.trans rfl hw)
    | with_reducible apply State.pathChange_keeps (Sub.trans rfl hw)
    | lift_lets
    | with_reducible refine keeps_ite ?_ ?_)

theorem State.linkGone_keeps {w : Nat} {s0 s : State} (hw : Sub 0x330ddcc w) (h : Keeps w s0 s) (down : Bool) :
    Keeps w s0 (State.linkGone s down) := by
  unfold State.linkGone
  repeat' (first
    | with_reducible assumption
    | (intro t_; first | (with_reducible refine keeps_cut (w := w) (s := s0) (t := t_) ?_ ?_; intro ht_; rotate_left; dsimp -zeta only [t_]) | skip)
    | with_reducible apply State.withNbr_keeps (Sub.trans rfl hw)
    | with_reducible apply State.setLink_keeps (Sub.trans rfl hw)
    | with_reducible apply State.when_keeps (Sub.trans rfl hw)
    | with_reducible apply State.each_keeps (Sub.trans rfl hw)
    | with_reducible apply State.raise_keeps (Sub.trans rfl hw)
    | with_reducible apply State.count_keeps (Sub.trans rfl hw)
    | with_reducible apply State.keepTension_keeps (Sub.trans rfl hw)
    | with_reducible apply State.wr_keeps (Sub.trans rfl hw)
    | with_reducible apply State.wrapEnds_keeps (Sub.trans rfl hw)
    | with_reducible apply State.wrB_keeps (Sub.trans rfl hw)
    | dsimp only [id]
    | lift_lets
    | with_reducible refine keeps_ite ?_ ?_)

theorem State.linkLost_keeps {w : Nat} {s0 s : State} (hw : Sub 0x330ddcc w) (h : Keeps w s0 s) (down : Bool) :
    Keeps w s0 (State.linkLost s down) := by
  unfold State.linkLost
  repeat' (first
    | with_reducible assumption
    | (intro t_; first | (with_reducible refine keeps_cut (w := w) (s := s0) (t := t_) ?_ ?_; intro ht_; rotate_left; dsimp -zeta only [t_]) | skip)
    | with_reducible apply State.toHealing_keeps (Sub.trans rfl hw)
    | with_reducible apply State.linkGone_keeps (Sub.trans rfl hw)
    | lift_lets
    | with_reducible refine keeps_ite ?_ ?_)

end Sys2Proof.Machine
end

