-- ==== Sys2Proof/Laws/Modes.lean ====
section
/-! SUPPORT. What the functions of Machine/Modes.lean keep, one lemma for each. -/

namespace Sys2Proof.Machine

theorem State.keeperUp_keeps {w : Nat} {s0 s : State} (hw : Sub 0x1ffffee w) (h : Keeps w s0 s) (straps : Sys2Proof.Byte) :
    Keeps w s0 (State.keeperUp s straps) := by
  have b1 := Sub.bit (i := 1) hw rfl; have b2 := Sub.bit (i := 2) hw rfl; have b3 := Sub.bit (i := 3) hw rfl; have b5 := Sub.bit (i := 5) hw rfl; have b6 := Sub.bit (i := 6) hw rfl; have b7 := Sub.bit (i := 7) hw rfl; have b8 := Sub.bit (i := 8) hw rfl; have b9 := Sub.bit (i := 9) hw rfl; have b10 := Sub.bit (i := 10) hw rfl; have b11 := Sub.bit (i := 11) hw rfl; have b12 := Sub.bit (i := 12) hw rfl; have b13 := Sub.bit (i := 13) hw rfl; have b14 := Sub.bit (i := 14) hw rfl; have b15 := Sub.bit (i := 15) hw rfl; have b16 := Sub.bit (i := 16) hw rfl; have b17 := Sub.bit (i := 17) hw rfl; have b18 := Sub.bit (i := 18) hw rfl; have b19 := Sub.bit (i := 19) hw rfl; have b20 := Sub.bit (i := 20) hw rfl; have b21 := Sub.bit (i := 21) hw rfl; have b22 := Sub.bit (i := 22) hw rfl; have b23 := Sub.bit (i := 23) hw rfl; have b24 := Sub.bit (i := 24) hw rfl
  unfold State.keeperUp
  repeat' (first
    | with_reducible assumption
    | with_reducible exact (fun _ => Sparse.wf_nil)
    | with_reducible exact (fun _ => Sparse.wf_set Sparse.wf_nil)
    | with_reducible exact (fun x => Sparse.wf_drop x)
    | with_reducible exact (fun x => x)
    | with_reducible exact (fun x => rfl)
    | (intro t_; first | (with_reducible refine keeps_cut (w := w) (s := s0) (t := t_) ?_ ?_; intro ht_; rotate_left; dsimp -zeta only [t_]) | skip)
    | with_reducible apply State.resetHidden1_keeps (Sub.trans rfl hw)
    | with_reducible apply State.resetHidden0_keeps (Sub.trans rfl hw)
    | lift_lets
    | with_reducible refine keeps_ite ?_ ?_
    | with_reducible refine keeps_fst_ite ?_ ?_
    | (with_reducible refine keeps_of_eq (by assumption) ?_)
    | with_reducible refine keeps_upd ?_ ?_ ?_ (.inl b1) (.inl b2) (.inl b3) (.inl b5) (.inl b6) (.inl b7) (.inl b8) (.inl b9) (.inl b10) (.inl b11) (.inl b12) (.inl b13) (.inl b14) (.inl b15) (.inl b16) (.inl b17) (.inl b18) (.inl b19) (.inl b20) (.inl b21) (.inl b22) (.inl b23) (.inl b24) (.inr rfl) (.inr rfl))

theorem execKeeperPowerUp_keeps (straps : Sys2Proof.Byte) (s : State) :
    ∃ t_, execKeeperPowerUp straps s = .next t_ ∧ Keeps 0x1ffffee s t_ := by
  have h := Keeps.refl 0x1ffffee s
  have hw := Sub.refl 0x1ffffee
  
  refine ⟨_, rfl, ?_⟩
  repeat' (first
    | with_reducible assumption
    | (intro t_; first | (with_reducible refine keeps_cut (w := w) (s := s0) (t := t_) ?_ ?_; intro ht_; rotate_left; dsimp -zeta only [t_]) | skip)
    | with_reducible apply State.when_keeps (Sub.trans rfl hw)
    | with_reducible apply State.keeperUp_keeps (Sub.trans rfl hw)
    | dsimp only [id]
    | lift_lets
    | with_reducible refine keeps_ite ?_ ?_)

theorem execKeeperPowerLoss_keeps (s : State) :
    ∃ t_, execKeeperPowerLoss s = .next t_ ∧ Keeps 0x1ffffec s t_ := by
  have h := Keeps.refl 0x1ffffec s
  have hw := Sub.refl 0x1ffffec
  have b2 := Sub.bit (i := 2) hw rfl; have b3 := Sub.bit (i := 3) hw rfl; have b5 := Sub.bit (i := 5) hw rfl; have b6 := Sub.bit (i := 6) hw rfl; have b7 := Sub.bit (i := 7) hw rfl; have b8 := Sub.bit (i := 8) hw rfl; have b9 := Sub.bit (i := 9) hw rfl; have b10 := Sub.bit (i := 10) hw rfl; have b11 := Sub.bit (i := 11) hw rfl; have b12 := Sub.bit (i := 12) hw rfl; have b13 := Sub.bit (i := 13) hw rfl; have b14 := Sub.bit (i := 14) hw rfl; have b15 := Sub.bit (i := 15) hw rfl; have b16 := Sub.bit (i := 16) hw rfl; have b17 := Sub.bit (i := 17) hw rfl; have b18 := Sub.bit (i := 18) hw rfl; have b19 := Sub.bit (i := 19) hw rfl; have b20 := Sub.bit (i := 20) hw rfl; have b21 := Sub.bit (i := 21) hw rfl; have b22 := Sub.bit (i := 22) hw rfl; have b23 := Sub.bit (i := 23) hw rfl; have b24 := Sub.bit (i := 24) hw rfl; 
  refine ⟨_, rfl, ?_⟩
  repeat' (first
    | with_reducible assumption
    | with_reducible exact (fun _ => Sparse.wf_nil)
    | with_reducible exact (fun _ => Sparse.wf_set Sparse.wf_nil)
    | with_reducible exact (fun x => Sparse.wf_drop x)
    | with_reducible exact (fun x => x)
    | with_reducible exact (fun x => rfl)
    | (intro t_; first | (with_reducible refine keeps_cut (w := w) (s := s0) (t := t_) ?_ ?_; intro ht_; rotate_left; dsimp -zeta only [t_]) | skip)
    | with_reducible apply State.when_keeps (Sub.trans rfl hw)
    | with_reducible apply State.resetHidden1_keeps (Sub.trans rfl hw)
    | with_reducible apply State.resetHidden0_keeps (Sub.trans rfl hw)
    | dsimp only [id]
    | lift_lets
    | with_reducible refine keeps_ite ?_ ?_
    | with_reducible refine keeps_fst_ite ?_ ?_
    | (with_reducible refine keeps_of_eq (by assumption) ?_)
    | with_reducible refine keeps_upd ?_ ?_ ?_ (.inr rfl) (.inl b2) (.inl b3) (.inl b5) (.inl b6) (.inl b7) (.inl b8) (.inl b9) (.inl b10) (.inl b11) (.inl b12) (.inl b13) (.inl b14) (.inl b15) (.inl b16) (.inl b17) (.inl b18) (.inl b19) (.inl b20) (.inl b21) (.inl b22) (.inl b23) (.inl b24) (.inr rfl) (.inr rfl))

theorem State.setLatch_keeps {w : Nat} {s0 s : State} (hw : Sub 0x44 w) (h : Keeps w s0 s) (i : Sys2Proof.WakeIn) (latch : Bool) (level : Bool) :
    Keeps w s0 (State.setLatch s i latch level) := by
  have b2 := Sub.bit (i := 2) hw rfl; have b6 := Sub.bit (i := 6) hw rfl
  unfold State.setLatch
  repeat' (first
    | with_reducible assumption
    | (intro t_; first | (with_reducible refine keeps_cut (w := w) (s := s0) (t := t_) ?_ ?_; intro ht_; rotate_left; dsimp -zeta only [t_]) | skip)
    | with_reducible apply State.wrB_keeps (Sub.trans rfl hw)
    | lift_lets
    | with_reducible refine keeps_ite ?_ ?_
    | split
    | (clear_value *; split)
    | with_reducible refine keeps_upd ?_ (fun x => x) (fun x => x) (.inr rfl) (.inl b2) (.inr rfl) (.inr rfl) (.inl b6) (.inr rfl) (.inr rfl) (.inr rfl) (.inr rfl) (.inr rfl) (.inr rfl) (.inr rfl) (.inr rfl) (.inr rfl) (.inr rfl) (.inr rfl) (.inr rfl) (.inr rfl) (.inr rfl) (.inr rfl) (.inr rfl) (.inr rfl) (.inr rfl) (.inr rfl) (.inr rfl))

theorem State.setHeld_keeps {w : Nat} {s0 s : State} (hw : Sub 0x40 w) (h : Keeps w s0 s) (i : Sys2Proof.WakeIn) (b : Bool) :
    Keeps w s0 (State.setHeld s i b) := by
  have b6 := Sub.bit (i := 6) hw rfl
  unfold State.setHeld
  repeat' (first
    | with_reducible assumption
    | (intro t_; first | (with_reducible refine keeps_cut (w := w) (s := s0) (t := t_) ?_ ?_; intro ht_; rotate_left; dsimp -zeta only [t_]) | skip)
    | lift_lets
    | with_reducible refine keeps_ite ?_ ?_
    | with_reducible refine keeps_upd ?_ (fun x => x) (fun x => x) (.inr rfl) (.inr rfl) (.inr rfl) (.inr rfl) (.inl b6) (.inr rfl) (.inr rfl) (.inr rfl) (.inr rfl) (.inr rfl) (.inr rfl) (.inr rfl) (.inr rfl) (.inr rfl) (.inr rfl) (.inr rfl) (.inr rfl) (.inr rfl) (.inr rfl) (.inr rfl) (.inr rfl) (.inr rfl) (.inr rfl) (.inr rfl) (.inr rfl))

theorem execWakeInputEdge_keeps (i : Sys2Proof.WakeIn) (s : State) :
    ∃ t_, execWakeInputEdge i s = .next t_ ∧ Keeps 0x1000044 s t_ := by
  have h := Keeps.refl 0x1000044 s
  have hw := Sub.refl 0x1000044
  have b2 := Sub.bit (i := 2) hw rfl; have b6 := Sub.bit (i := 6) hw rfl; have b24 := Sub.bit (i := 24) hw rfl; 
  refine ⟨_, rfl, ?_⟩
  repeat' (first
    | with_reducible assumption
    | (intro t_; first | (with_reducible refine keeps_cut (w := w) (s := s0) (t := t_) ?_ ?_; intro ht_; rotate_left; dsimp -zeta only [t_]) | skip)
    | with_reducible apply State.when_keeps (Sub.trans rfl hw)
    | with_reducible apply State.arm_keeps (Sub.trans rfl hw)
    | with_reducible apply State.setLatch_keeps (Sub.trans rfl hw)
    | dsimp only [id]
    | lift_lets
    | with_reducible refine keeps_ite ?_ ?_
    | split
    | (clear_value *; split)
    | with_reducible refine keeps_upd ?_ (fun x => x) (fun x => x) (.inr rfl) (.inl b2) (.inr rfl) (.inr rfl) (.inl b6) (.inr rfl) (.inr rfl) (.inr rfl) (.inr rfl) (.inr rfl) (.inr rfl) (.inr rfl) (.inr rfl) (.inr rfl) (.inr rfl) (.inr rfl) (.inr rfl) (.inr rfl) (.inr rfl) (.inr rfl) (.inr rfl) (.inr rfl) (.inl b24) (.inr rfl) (.inr rfl))

theorem State.debounced_keeps {w : Nat} {s0 s : State} (hw : Sub 0x3308944 w) (h : Keeps w s0 s) (i : Sys2Proof.WakeIn) :
    Keeps w s0 (State.debounced s i) := by
  unfold State.debounced
  repeat' (first
    | with_reducible assumption
    | (intro t_; first | (with_reducible refine keeps_cut (w := w) (s := s0) (t := t_) ?_ ?_; intro ht_; rotate_left; dsimp -zeta only [t_]) | skip)
    | with_reducible apply State.evalNeed_keeps (Sub.trans rfl hw)
    | with_reducible apply State.setHeld_keeps (Sub.trans rfl hw)
    | with_reducible apply State.setLatch_keeps (Sub.trans rfl hw)
    | with_reducible apply State.when_keeps (Sub.trans rfl hw)
    | with_reducible apply State.acceptWake_keeps (Sub.trans rfl hw)
    | dsimp only [id]
    | lift_lets
    | with_reducible refine keeps_ite ?_ ?_
    | split
    | (clear_value *; split))

theorem execWakeDebounceDone_keeps (i : Sys2Proof.WakeIn) (s : State) :
    ∃ t_, execWakeDebounceDone i s = .next t_ ∧ Keeps 0x33089c4 s t_ := by
  have h := Keeps.refl 0x33089c4 s
  have hw := Sub.refl 0x33089c4
  
  refine ⟨_, rfl, ?_⟩
  repeat' (first
    | with_reducible assumption
    | (intro t_; first | (with_reducible refine keeps_cut (w := w) (s := s0) (t := t_) ?_ ?_; intro ht_; rotate_left; dsimp -zeta only [t_]) | skip)
    | with_reducible apply State.when_keeps (Sub.trans rfl hw)
    | with_reducible apply State.debounced_keeps (Sub.trans rfl hw)
    | with_reducible apply State.expire_keeps (Sub.trans rfl hw)
    | dsimp only [id]
    | lift_lets
    | with_reducible refine keeps_ite ?_ ?_)

theorem State.cplOff_keeps {w : Nat} {s0 s : State} (hw : Sub 0x1000000 w) (h : Keeps w s0 s) (y1 : Sys2Proof.WakeIn) :
    Keeps w s0 (State.cplOff s y1) := by
  unfold State.cplOff
  repeat' (first
    | with_reducible assumption
    | (intro t_; first | (with_reducible refine keeps_cut (w := w) (s := s0) (t := t_) ?_ ?_; intro ht_; rotate_left; dsimp -zeta only [t_]) | skip)
    | with_reducible apply State.disarm_keeps (Sub.trans rfl hw)
    | lift_lets
    | with_reducible refine keeps_ite ?_ ?_
    | split
    | (clear_value *; split))

theorem execWakeInputBounce_keeps (i : Sys2Proof.WakeIn) (s : State) :
    ∃ t_, execWakeInputBounce i s = .next t_ ∧ Keeps 0x1000144 s t_ := by
  have h := Keeps.refl 0x1000144 s
  have hw := Sub.refl 0x1000144
  
  refine ⟨_, rfl, ?_⟩
  repeat' (first
    | with_reducible assumption
    | (intro t_; first | (with_reducible refine keeps_cut (w := w) (s := s0) (t := t_) ?_ ?_; intro ht_; rotate_left; dsimp -zeta only [t_]) | skip)
    | with_reducible apply State.when_keeps (Sub.trans rfl hw)
    | with_reducible apply State.raise_keeps (Sub.trans rfl hw)
    | with_reducible apply State.countF_keeps (Sub.trans rfl hw)
    | with_reducible apply State.cplOff_keeps (Sub.trans rfl hw)
    | with_reducible apply State.disarm_keeps (Sub.trans rfl hw)
    | with_reducible apply State.setLatch_keeps (Sub.trans rfl hw)
    | dsimp only [id]
    | lift_lets
    | with_reducible refine keeps_ite ?_ ?_)

theorem execWakeInputRelease_keeps (i : Sys2Proof.WakeIn) (s : State) :
    ∃ t_, execWakeInputRelease i s = .next t_ ∧ Keeps 0x1000144 s t_ := by
  have h := Keeps.refl 0x1000144 s
  have hw := Sub.refl 0x1000144
  
  refine ⟨_, rfl, ?_⟩
  repeat' (first
    | with_reducible assumption
    | (intro t_; first | (with_reducible refine keeps_cut (w := w) (s := s0) (t := t_) ?_ ?_; intro ht_; rotate_left; dsimp -zeta only [t_]) | skip)
    | with_reducible apply State.when_keeps (Sub.trans rfl hw)
    | with_reducible apply State.evalNeed_keeps (Sub.trans rfl hw)
    | with_reducible apply State.setHeld_keeps (Sub.trans rfl hw)
    | with_reducible apply State.setLatch_keeps (Sub.trans rfl hw)
    | with_reducible apply State.mark_keeps (Sub.trans rfl hw)
    | with_reducible apply State.cplOff_keeps (Sub.trans rfl hw)
    | dsimp only [id]
    | lift_lets
    | with_reducible refine keeps_ite ?_ ?_
    | split
    | (clear_value *; split))

theorem State.ladEnergy_keeps {w : Nat} {s0 s : State} (hw : Sub 0x1000000 w) (h : Keeps w s0 s) (n : Nat) (present : Bool) :
    Keeps w s0 (State.ladEnergy s n present) := by
  unfold State.ladEnergy
  repeat' (first
    | with_reducible assumption
    | (intro t_; first | (with_reducible refine keeps_cut (w := w) (s := s0) (t := t_) ?_ ?_; intro ht_; rotate_left; dsimp -zeta only [t_]) | skip)
    | with_reducible apply State.arm_keeps (Sub.trans rfl hw)
    | with_reducible apply State.disarm_keeps (Sub.trans rfl hw)
    | lift_lets
    | with_reducible refine keeps_ite ?_ ?_
    | split
    | (clear_value *; split))

theorem execLadEnergyChange_keeps (n : Fin 4) (present : Bool) (s : State) :
    ∃ t_, execLadEnergyChange n present s = .next t_ ∧ Keeps 0x1000004 s t_ := by
  have h := Keeps.refl 0x1000004 s
  have hw := Sub.refl 0x1000004
  
  refine ⟨_, rfl, ?_⟩
  repeat' (first
    | with_reducible assumption
    | (intro t_; first | (with_reducible refine keeps_cut (w := w) (s := s0) (t := t_) ?_ ?_; intro ht_; rotate_left; dsimp -zeta only [t_]) | skip)
    | with_reducible apply State.when_keeps (Sub.trans rfl hw)
    | with_reducible apply State.wrB_keeps (Sub.trans rfl hw)
    | with_reducible apply State.ladEnergy_keeps (Sub.trans rfl hw)
    | dsimp only [id]
    | lift_lets
    | with_reducible refine keeps_ite ?_ ?_)

theorem execLadBurstQualify_keeps (n : Fin 4) (s : State) :
    ∃ t_, execLadBurstQualify n s = .next t_ ∧ Keeps 0x33089c4 s t_ := by
  have h := Keeps.refl 0x33089c4 s
  have hw := Sub.refl 0x33089c4
  
  refine ⟨_, rfl, ?_⟩
  repeat' (first
    | with_reducible assumption
    | (intro t_; first | (with_reducible refine keeps_cut (w := w) (s := s0) (t := t_) ?_ ?_; intro ht_; rotate_left; dsimp -zeta only [t_]) | skip)
    | with_reducible apply State.when_keeps (Sub.trans rfl hw)
    | with_reducible apply State.expire_keeps (Sub.trans rfl hw)
    | with_reducible apply State.raise_keeps (Sub.trans rfl hw)
    | with_reducible apply State.wrB_keeps (Sub.trans rfl hw)
    | with_reducible apply State.acceptWake_keeps (Sub.trans rfl hw)
    | dsimp only [id]
    | lift_lets
    | with_reducible refine keeps_ite ?_ ?_)

theorem execRtcAlarm_keeps (s : State) :
    ∃ t_, execRtcAlarm s = .next t_ ∧ Keeps 0x3308944 s t_ := by
  have h := Keeps.refl 0x3308944 s
  have hw := Sub.refl 0x3308944
  
  refine ⟨_, rfl, ?_⟩
  repeat' (first
    | with_reducible assumption
    | (intro t_; first | (with_reducible refine keeps_cut (w := w) (s := s0) (t := t_) ?_ ?_; intro ht_; rotate_left; dsimp -zeta only [t_]) | skip)
    | with_reducible apply State.when_keeps (Sub.trans rfl hw)
    | with_reducible apply State.wr_keeps (Sub.trans rfl hw)
    | with_reducible apply State.acceptWake_keeps (Sub.trans rfl hw)
    | dsimp only [id]
    | lift_lets
    | with_reducible refine keeps_ite ?_ ?_)

theorem execRtcTick_keeps (s : State) :
    ∃ t_, execRtcTick s = .next t_ ∧ Keeps 0x104 s t_ := by
  have h := Keeps.refl 0x104 s
  have hw := Sub.refl 0x104
  
  refine ⟨_, rfl, ?_⟩
  repeat' (first
    | with_reducible assumption
    | (intro t_; first | (with_reducible refine keeps_cut (w := w) (s := s0) (t := t_) ?_ ?_; intro ht_; rotate_left; dsimp -zeta only [t_]) | skip)
    | with_reducible apply State.when_keeps (Sub.trans rfl hw)
    | with_reducible apply State.raise_keeps (Sub.trans rfl hw)
    | with_reducible apply State.wr64_keeps (Sub.trans rfl hw)
    | dsimp only [id]
    | lift_lets
    | with_reducible refine keeps_ite ?_ ?_)

theorem execRtcSet_keeps (hi : Sys2Proof.Word) (s : State) :
    ∃ t_, execRtcSet hi s = .next t_ ∧ Keeps 0x300104 s t_ := by
  have h := Keeps.refl 0x300104 s
  have hw := Sub.refl 0x300104
  
  refine ⟨_, rfl, ?_⟩
  repeat' (first
    | with_reducible assumption
    | (intro t_; first | (with_reducible refine keeps_cut (w := w) (s := s0) (t := t_) ?_ ?_; intro ht_; rotate_left; dsimp -zeta only [t_]) | skip)
    | with_reducible apply State.guarded_keeps (Sub.trans rfl hw)
    | with_reducible apply State.wr_keeps (Sub.trans rfl hw)
    | dsimp only [id]
    | lift_lets
    | with_reducible refine keeps_ite ?_ ?_)

theorem State.pwrStep_keeps {w : Nat} {s0 s : State} (hw : Sub 0x3000184 w) (h : Keeps w s0 s) :
    Keeps w s0 (State.pwrStep s) := by
  unfold State.pwrStep
  repeat' (first
    | with_reducible assumption
    | (intro t_; first | (with_reducible refine keeps_cut (w := w) (s := s0) (t := t_) ?_ ?_; intro ht_; rotate_left; dsimp -zeta only [t_]) | skip)
    | with_reducible apply State.arm_keeps (Sub.trans rfl hw)
    | with_reducible apply State.wrF_keeps (Sub.trans rfl hw)
    | with_reducible apply State.expire_keeps (Sub.trans rfl hw)
    | with_reducible apply State.wrB_keeps (Sub.trans rfl hw)
    | lift_lets
    | with_reducible refine keeps_ite ?_ ?_)

theorem execPwrEnStep_keeps (s : State) :
    ∃ t_, execPwrEnStep s = .next t_ ∧ Keeps 0x3000184 s t_ := by
  have h := Keeps.refl 0x3000184 s
  have hw := Sub.refl 0x3000184
  
  refine ⟨_, rfl, ?_⟩
  repeat' (first
    | with_reducible assumption
    | (intro t_; first | (with_reducible refine keeps_cut (w := w) (s := s0) (t := t_) ?_ ?_; intro ht_; rotate_left; dsimp -zeta only [t_]) | skip)
    | with_reducible apply State.pwrStep_keeps (Sub.trans rfl hw)
    | lift_lets
    | with_reducible refine keeps_ite ?_ ?_)

theorem execPgoodReached_keeps (s : State) :
    ∃ t_, execPgoodReached s = .next t_ ∧ Keeps 0x5000044 s t_ := by
  have h := Keeps.refl 0x5000044 s
  have hw := Sub.refl 0x5000044
  have b2 := Sub.bit (i := 2) hw rfl; have b6 := Sub.bit (i := 6) hw rfl; have b24 := Sub.bit (i := 24) hw rfl; have b26 := Sub.bit (i := 26) hw rfl; 
  refine ⟨_, rfl, ?_⟩
  repeat' (first
    | with_reducible assumption
    | (intro t_; first | (with_reducible refine keeps_cut (w := w) (s := s0) (t := t_) ?_ ?_; intro ht_; rotate_left; dsimp -zeta only [t_]) | skip)
    | with_reducible apply State.when_keeps (Sub.trans rfl hw)
    | with_reducible apply State.arm_keeps (Sub.trans rfl hw)
    | with_reducible apply State.disarm_keeps (Sub.trans rfl hw)
    | with_reducible apply State.useFree_keeps (Sub.trans rfl hw)
    | with_reducible apply State.wrF_keeps (Sub.trans rfl hw)
    | dsimp only [id]
    | lift_lets
    | with_reducible refine keeps_ite ?_ ?_
    | with_reducible refine keeps_upd ?_ (fun x => x) (fun x => x) (.inr rfl) (.inl b2) (.inr rfl) (.inr rfl) (.inl b6) (.inr rfl) (.inr rfl) (.inr rfl) (.inr rfl) (.inr rfl) (.inr rfl) (.inr rfl) (.inr rfl) (.inr rfl) (.inr rfl) (.inr rfl) (.inr rfl) (.inr rfl) (.inr rfl) (.inr rfl) (.inr rfl) (.inr rfl) (.inl b24) (.inr rfl) (.inl b26))

theorem execPgoodTimeout_keeps (s : State) :
    ∃ t_, execPgoodTimeout s = .next t_ ∧ Keeps 0x3ffffec s t_ := by
  have h := Keeps.refl 0x3ffffec s
  have hw := Sub.refl 0x3ffffec
  
  refine ⟨_, rfl, ?_⟩
  repeat' (first
    | with_reducible assumption
    | (intro t_; first | (with_reducible refine keeps_cut (w := w) (s := s0) (t := t_) ?_ ?_; intro ht_; rotate_left; dsimp -zeta only [t_]) | skip)
    | with_reducible apply State.when_keeps (Sub.trans rfl hw)
    | with_reducible apply State.park_keeps (Sub.trans rfl hw)
    | with_reducible apply State.raise_keeps (Sub.trans rfl hw)
    | with_reducible apply State.expire_keeps (Sub.trans rfl hw)
    | dsimp only [id]
    | lift_lets
    | with_reducible refine keeps_ite ?_ ?_)

theorem execPgoodLoss_keeps (s : State) :
    ∃ t_, execPgoodLoss s = .next t_ ∧ Keeps 0x3ffffec s t_ := by
  have h := Keeps.refl 0x3ffffec s
  have hw := Sub.refl 0x3ffffec
  have b2 := Sub.bit (i := 2) hw rfl; have b3 := Sub.bit (i := 3) hw rfl; have b5 := Sub.bit (i := 5) hw rfl; have b6 := Sub.bit (i := 6) hw rfl; have b7 := Sub.bit (i := 7) hw rfl; have b8 := Sub.bit (i := 8) hw rfl; have b9 := Sub.bit (i := 9) hw rfl; have b10 := Sub.bit (i := 10) hw rfl; have b11 := Sub.bit (i := 11) hw rfl; have b12 := Sub.bit (i := 12) hw rfl; have b13 := Sub.bit (i := 13) hw rfl; have b14 := Sub.bit (i := 14) hw rfl; have b15 := Sub.bit (i := 15) hw rfl; have b16 := Sub.bit (i := 16) hw rfl; have b17 := Sub.bit (i := 17) hw rfl; have b18 := Sub.bit (i := 18) hw rfl; have b19 := Sub.bit (i := 19) hw rfl; have b20 := Sub.bit (i := 20) hw rfl; have b21 := Sub.bit (i := 21) hw rfl; have b22 := Sub.bit (i := 22) hw rfl; have b23 := Sub.bit (i := 23) hw rfl; have b24 := Sub.bit (i := 24) hw rfl; have b25 := Sub.bit (i := 25) hw rfl; 
  refine ⟨_, rfl, ?_⟩
  repeat' (first
    | with_reducible assumption
    | (intro t_; first | (with_reducible refine keeps_cut (w := w) (s := s0) (t := t_) ?_ ?_; intro ht_; rotate_left; dsimp -zeta only [t_]) | skip)
    | with_reducible apply State.when_keeps (Sub.trans rfl hw)
    | with_reducible apply State.raise_keeps (Sub.trans rfl hw)
    | with_reducible apply State.wrF_keeps (Sub.trans rfl hw)
    | with_reducible apply State.park_keeps (Sub.trans rfl hw)
    | dsimp only [id]
    | lift_lets
    | with_reducible refine keeps_ite ?_ ?_
    | with_reducible refine keeps_upd ?_ (fun x => x) (fun x => x) (.inr rfl) (.inl b2) (.inl b3) (.inl b5) (.inl b6) (.inl b7) (.inl b8) (.inl b9) (.inl b10) (.inl b11) (.inl b12) (.inl b13) (.inl b14) (.inl b15) (.inl b16) (.inl b17) (.inl b18) (.inl b19) (.inl b20) (.inl b21) (.inl b22) (.inl b23) (.inl b24) (.inl b25) (.inr rfl))

theorem State.loadLat_keeps {w : Nat} {s0 s : State} (hw : Sub 0x4 w) (h : Keeps w s0 s) (p : Nat) :
    Keeps w s0 (State.loadLat s p) := by
  unfold State.loadLat
  repeat' (first
    | with_reducible assumption
    | (intro t_; first | (with_reducible refine keeps_cut (w := w) (s := s0) (t := t_) ?_ ?_; intro ht_; rotate_left; dsimp -zeta only [t_]) | skip)
    | with_reducible apply State.wr_keeps (Sub.trans rfl hw)
    | lift_lets
    | with_reducible refine keeps_ite ?_ ?_)

theorem State.loadOtp_keeps {w : Nat} {s0 s : State} (hw : Sub 0x4 w) (h : Keeps w s0 s) :
    Keeps w s0 (State.loadOtp s) := by
  unfold State.loadOtp
  repeat' (first
    | with_reducible assumption
    | (intro t_; first | (with_reducible refine keeps_cut (w := w) (s := s0) (t := t_) ?_ ?_; intro ht_; rotate_left; dsimp -zeta only [t_]) | skip)
    | with_reducible apply State.each_keeps (Sub.trans rfl hw)
    | with_reducible apply State.wr_keeps (Sub.trans rfl hw)
    | with_reducible apply State.wrB_keeps (Sub.trans rfl hw)
    | lift_lets
    | with_reducible refine keeps_ite ?_ ?_)

theorem State.loadWeights_keeps {w : Nat} {s0 s : State} (hw : Sub 0x4 w) (h : Keeps w s0 s) (d : Nat) :
    Keeps w s0 (State.loadWeights s d) := by
  unfold State.loadWeights
  repeat' (first
    | with_reducible assumption
    | (intro t_; first | (with_reducible refine keeps_cut (w := w) (s := s0) (t := t_) ?_ ?_; intro ht_; rotate_left; dsimp -zeta only [t_]) | skip)
    | with_reducible apply State.each_keeps (Sub.trans rfl hw)
    | with_reducible apply State.wr_keeps (Sub.trans rfl hw)
    | lift_lets
    | with_reducible refine keeps_ite ?_ ?_)

theorem State.loadHostRef_keeps {w : Nat} {s0 s : State} (hw : Sub 0x4000004 w) (h : Keeps w s0 s) :
    Keeps w s0 (State.loadHostRef s) := by
  unfold State.loadHostRef
  repeat' (first
    | with_reducible assumption
    | (intro t_; first | (with_reducible refine keeps_cut (w := w) (s := s0) (t := t_) ?_ ?_; intro ht_; rotate_left; dsimp -zeta only [t_]) | skip)
    | with_reducible apply State.when_keeps (Sub.trans rfl hw)
    | with_reducible apply State.useFree_keeps (Sub.trans rfl hw)
    | with_reducible apply State.wrB_keeps (Sub.trans rfl hw)
    | dsimp only [id]
    | lift_lets
    | with_reducible refine keeps_ite ?_ ?_)

theorem State.loadDie_keeps {w : Nat} {s0 s : State} (hw : Sub 0x4000004 w) (h : Keeps w s0 s) (d : Nat) :
    Keeps w s0 (State.loadDie s d) := by
  unfold State.loadDie
  repeat' (first
    | with_reducible assumption
    | (intro t_; first | (with_reducible refine keeps_cut (w := w) (s := s0) (t := t_) ?_ ?_; intro ht_; rotate_left; dsimp -zeta only [t_]) | skip)
    | with_reducible apply State.each_keeps (Sub.trans rfl hw)
    | with_reducible apply State.loadLat_keeps (Sub.trans rfl hw)
    | with_reducible apply State.wr_keeps (Sub.trans rfl hw)
    | with_reducible apply State.loadWeights_keeps (Sub.trans rfl hw)
    | with_reducible apply State.wrB_keeps (Sub.trans rfl hw)
    | with_reducible apply State.loadOtp_keeps (Sub.trans rfl hw)
    | with_reducible apply State.wrF_keeps (Sub.trans rfl hw)
    | with_reducible apply State.loadHostRef_keeps (Sub.trans rfl hw)
    | lift_lets
    | with_reducible refine keeps_ite ?_ ?_)

theorem State.keeperEdges_keeps {w : Nat} {s0 s : State} (hw : Sub 0x100 w) (h : Keeps w s0 s) :
    Keeps w s0 (State.keeperEdges s) := by
  unfold State.keeperEdges
  repeat' (first
    | with_reducible assumption
    | (intro t_; first | (with_reducible refine keeps_cut (w := w) (s := s0) (t := t_) ?_ ?_; intro ht_; rotate_left; dsimp -zeta only [t_]) | skip)
    | with_reducible apply State.each_keeps (Sub.trans rfl hw)
    | with_reducible apply State.when_keeps (Sub.trans rfl hw)
    | with_reducible apply State.edge_keeps (Sub.trans rfl hw)
    | dsimp only [id]
    | lift_lets
    | with_reducible refine keeps_ite ?_ ?_)

theorem State.startDie_keeps {w : Nat} {s0 s : State} (hw : Sub 0x5200104 w) (h : Keeps w s0 s) (d : Nat) :
    Keeps w s0 (State.startDie s d) := by
  unfold State.startDie
  repeat' (first
    | with_reducible assumption
    | (intro t_; first | (with_reducible refine keeps_cut (w := w) (s := s0) (t := t_) ?_ ?_; intro ht_; rotate_left; dsimp -zeta only [t_]) | skip)
    | with_reducible apply State.when_keeps (Sub.trans rfl hw)
    | with_reducible apply State.evalBuf_keeps (Sub.trans rfl hw)
    | with_reducible apply State.meterOn_keeps (Sub.trans rfl hw)
    | with_reducible apply State.loadDie_keeps (Sub.trans rfl hw)
    | with_reducible apply State.mark_keeps (Sub.trans rfl hw)
    | with_reducible apply State.each_keeps (Sub.trans rfl hw)
    | dsimp only [id]
    | lift_lets
    | with_reducible refine keeps_ite ?_ ?_)

theorem State.dropDie1_keeps {w : Nat} {s0 s : State} (hw : Sub 0x3ffffec w) (h : Keeps w s0 s) :
    Keeps w s0 (State.dropDie1 s) := by
  have b2 := Sub.bit (i := 2) hw rfl; have b3 := Sub.bit (i := 3) hw rfl; have b5 := Sub.bit (i := 5) hw rfl; have b6 := Sub.bit (i := 6) hw rfl; have b7 := Sub.bit (i := 7) hw rfl; have b8 := Sub.bit (i := 8) hw rfl; have b9 := Sub.bit (i := 9) hw rfl; have b10 := Sub.bit (i := 10) hw rfl; have b11 := Sub.bit (i := 11) hw rfl; have b12 := Sub.bit (i := 12) hw rfl; have b13 := Sub.bit (i := 13) hw rfl; have b14 := Sub.bit (i := 14) hw rfl; have b15 := Sub.bit (i := 15) hw rfl; have b16 := Sub.bit (i := 16) hw rfl; have b17 := Sub.bit (i := 17) hw rfl; have b18 := Sub.bit (i := 18) hw rfl; have b19 := Sub.bit (i := 19) hw rfl; have b20 := Sub.bit (i := 20) hw rfl; have b21 := Sub.bit (i := 21) hw rfl; have b22 := Sub.bit (i := 22) hw rfl; have b23 := Sub.bit (i := 23) hw rfl; have b24 := Sub.bit (i := 24) hw rfl; have b25 := Sub.bit (i := 25) hw rfl
  unfold State.dropDie1
  repeat' (first
    | with_reducible assumption
    | (intro t_; first | (with_reducible refine keeps_cut (w := w) (s := s0) (t := t_) ?_ ?_; intro ht_; rotate_left; dsimp -zeta only [t_]) | skip)
    | with_reducible apply State.resetDie_keeps (Sub.trans rfl hw)
    | with_reducible apply State.wrB_keeps (Sub.trans rfl hw)
    | with_reducible apply State.linkGone_keeps (Sub.trans rfl hw)
    | lift_lets
    | with_reducible refine keeps_ite ?_ ?_
    | with_reducible refine keeps_upd ?_ (fun x => x) (fun x => x) (.inr rfl) (.inl b2) (.inl b3) (.inl b5) (.inl b6) (.inl b7) (.inl b8) (.inl b9) (.inl b10) (.inl b11) (.inl b12) (.inl b13) (.inl b14) (.inl b15) (.inl b16) (.inl b17) (.inl b18) (.inl b19) (.inl b20) (.inl b21) (.inl b22) (.inl b23) (.inl b24) (.inl b25) (.inr rfl))

theorem State.lbistEnd_keeps {w : Nat} {s0 s : State} (hw : Sub 0x7ffffec w) (h : Keeps w s0 s) (d : Nat) (v : Sys2Proof.Word) :
    Keeps w s0 (State.lbistEnd s d v) := by
  have b2 := Sub.bit (i := 2) hw rfl; have b3 := Sub.bit (i := 3) hw rfl; have b5 := Sub.bit (i := 5) hw rfl; have b6 := Sub.bit (i := 6) hw rfl; have b7 := Sub.bit (i := 7) hw rfl; have b8 := Sub.bit (i := 8) hw rfl; have b9 := Sub.bit (i := 9) hw rfl; have b10 := Sub.bit (i := 10) hw rfl; have b11 := Sub.bit (i := 11) hw rfl; have b12 := Sub.bit (i := 12) hw rfl; have b13 := Sub.bit (i := 13) hw rfl; have b14 := Sub.bit (i := 14) hw rfl; have b15 := Sub.bit (i := 15) hw rfl; have b16 := Sub.bit (i := 16) hw rfl; have b17 := Sub.bit (i := 17) hw rfl; have b18 := Sub.bit (i := 18) hw rfl; have b19 := Sub.bit (i := 19) hw rfl; have b20 := Sub.bit (i := 20) hw rfl; have b21 := Sub.bit (i := 21) hw rfl; have b22 := Sub.bit (i := 22) hw rfl; have b23 := Sub.bit (i := 23) hw rfl; have b24 := Sub.bit (i := 24) hw rfl; have b25 := Sub.bit (i := 25) hw rfl; have b26 := Sub.bit (i := 26) hw rfl
  unfold State.lbistEnd
  repeat' (first
    | with_reducible assumption
    | (intro t_; first | (with_reducible refine keeps_cut (w := w) (s := s0) (t := t_) ?_ ?_; intro ht_; rotate_left; dsimp -zeta only [t_]) | skip)
    | with_reducible apply State.wr_keeps (Sub.trans rfl hw)
    | with_reducible apply State.resetDies_keeps (Sub.trans rfl hw)
    | with_reducible apply State.dropDie1_keeps (Sub.trans rfl hw)
    | with_reducible apply State.startDie_keeps (Sub.trans rfl hw)
    | with_reducible apply State.wrB_keeps (Sub.trans rfl hw)
    | with_reducible apply State.when_keeps (Sub.trans rfl hw)
    | with_reducible apply State.arm_keeps (Sub.trans rfl hw)
    | with_reducible apply State.keeperEdges_keeps (Sub.trans rfl hw)
    | with_reducible apply State.evalFloors_keeps (Sub.trans rfl hw)
    | dsimp only [id]
    | lift_lets
    | with_reducible refine keeps_ite ?_ ?_
    | with_reducible refine keeps_upd ?_ (fun x => x) (fun x => x) (.inr rfl) (.inl b2) (.inl b3) (.inl b5) (.inl b6) (.inl b7) (.inl b8) (.inl b9) (.inl b10) (.inl b11) (.inl b12) (.inl b13) (.inl b14) (.inl b15) (.inl b16) (.inl b17) (.inl b18) (.inl b19) (.inl b20) (.inl b21) (.inl b22) (.inl b23) (.inl b24) (.inl b25) (.inl b26))

theorem State.releaseDies_keeps {w : Nat} {s0 s : State} (hw : Sub 0x5300146 w) (h : Keeps w s0 s) (straps : Sys2Proof.Byte) :
    Keeps w s0 (State.releaseDies s straps) := by
  have b1 := Sub.bit (i := 1) hw rfl; have b2 := Sub.bit (i := 2) hw rfl; have b6 := Sub.bit (i := 6) hw rfl; have b8 := Sub.bit (i := 8) hw rfl; have b20 := Sub.bit (i := 20) hw rfl; have b21 := Sub.bit (i := 21) hw rfl; have b24 := Sub.bit (i := 24) hw rfl; have b26 := Sub.bit (i := 26) hw rfl
  unfold State.releaseDies
  repeat' (first
    | with_reducible assumption
    | (intro t_; first | (with_reducible refine keeps_cut (w := w) (s := s0) (t := t_) ?_ ?_; intro ht_; rotate_left; dsimp -zeta only [t_]) | skip)
    | with_reducible apply State.when_keeps (Sub.trans rfl hw)
    | with_reducible apply State.wrB_keeps (Sub.trans rfl hw)
    | with_reducible apply State.startDie_keeps (Sub.trans rfl hw)
    | with_reducible apply State.arm_keeps (Sub.trans rfl hw)
    | with_reducible apply State.keeperEdges_keeps (Sub.trans rfl hw)
    | with_reducible apply State.evalFloors_keeps (Sub.trans rfl hw)
    | dsimp only [id]
    | lift_lets
    | with_reducible refine keeps_ite ?_ ?_
    | with_reducible refine keeps_upd ?_ (fun x => x) (fun x => x) (.inl b1) (.inl b2) (.inr rfl) (.inr rfl) (.inl b6) (.inr rfl) (.inl b8) (.inr rfl) (.inr rfl) (.inr rfl) (.inr rfl) (.inr rfl) (.inr rfl) (.inr rfl) (.inr rfl) (.inr rfl) (.inr rfl) (.inr rfl) (.inl b20) (.inl b21) (.inr rfl) (.inr rfl) (.inl b24) (.inr rfl) (.inl b26))

theorem execDieResetRelease_keeps (straps : Sys2Proof.Byte) (s : State) :
    ∃ t_, execDieResetRelease straps s = .next t_ ∧ Keeps 0x73001c6 s t_ := by
  have h := Keeps.refl 0x73001c6 s
  have hw := Sub.refl 0x73001c6
  
  refine ⟨_, rfl, ?_⟩
  repeat' (first
    | with_reducible assumption
    | (intro t_; first | (with_reducible refine keeps_cut (w := w) (s := s0) (t := t_) ?_ ?_; intro ht_; rotate_left; dsimp -zeta only [t_]) | skip)
    | with_reducible apply State.when_keeps (Sub.trans rfl hw)
    | with_reducible apply State.releaseDies_keeps (Sub.trans rfl hw)
    | with_reducible apply State.expire_keeps (Sub.trans rfl hw)
    | dsimp only [id]
    | lift_lets
    | with_reducible refine keeps_ite ?_ ?_)

theorem execPowerDownEnd_keeps (s : State) :
    ∃ t_, execPowerDownEnd s = .next t_ ∧ Keeps 0x1000044 s t_ := by
  have h := Keeps.refl 0x1000044 s
  have hw := Sub.refl 0x1000044
  have b2 := Sub.bit (i := 2) hw rfl; have b6 := Sub.bit (i := 6) hw rfl; have b24 := Sub.bit (i := 24) hw rfl; 
  refine ⟨_, rfl, ?_⟩
  repeat' (first
    | with_reducible assumption
    | (intro t_; first | (with_reducible refine keeps_cut (w := w) (s := s0) (t := t_) ?_ ?_; intro ht_; rotate_left; dsimp -zeta only [t_]) | skip)
    | with_reducible apply State.when_keeps (Sub.trans rfl hw)
    | with_reducible apply State.arm_keeps (Sub.trans rfl hw)
    | with_reducible apply State.wrB_keeps (Sub.trans rfl hw)
    | with_reducible apply State.disarm_keeps (Sub.trans rfl hw)
    | dsimp only [id]
    | lift_lets
    | with_reducible refine keeps_ite ?_ ?_
    | with_reducible refine keeps_upd ?_ (fun x => x) (fun x => x) (.inr rfl) (.inl b2) (.inr rfl) (.inr rfl) (.inl b6) (.inr rfl) (.inr rfl) (.inr rfl) (.inr rfl) (.inr rfl) (.inr rfl) (.inr rfl) (.inr rfl) (.inr rfl) (.inr rfl) (.inr rfl) (.inr rfl) (.inr rfl) (.inr rfl) (.inr rfl) (.inr rfl) (.inr rfl) (.inl b24) (.inr rfl) (.inr rfl))

theorem State.modeRequest_keeps {w : Nat} {s0 s : State} (hw : Sub 0x300104 w) (h : Keeps w s0 s) (r : Sys2Proof.Machine.ModeReq) :
    Keeps w s0 (State.modeRequest s r) := by
  unfold State.modeRequest
  repeat' (first
    | with_reducible assumption
    | (intro t_; first | (with_reducible refine keeps_cut (w := w) (s := s0) (t := t_) ?_ ?_; intro ht_; rotate_left; dsimp -zeta only [t_]) | skip)
    | with_reducible apply State.guarded_keeps (Sub.trans rfl hw)
    | with_reducible apply State.lockViol_keeps (Sub.trans rfl hw)
    | with_reducible apply State.raise_keeps (Sub.trans rfl hw)
    | with_reducible apply State.wrF_keeps (Sub.trans rfl hw)
    | dsimp only [id]
    | lift_lets
    | with_reducible refine keeps_ite ?_ ?_)

theorem execKprReqWake_keeps (s : State) :
    ∃ t_, execKprReqWake s = .next t_ ∧ Keeps 0x300104 s t_ := by
  have h := Keeps.refl 0x300104 s
  have hw := Sub.refl 0x300104
  
  refine ⟨_, rfl, ?_⟩
  repeat' (first
    | with_reducible assumption
    | (intro t_; first | (with_reducible refine keeps_cut (w := w) (s := s0) (t := t_) ?_ ?_; intro ht_; rotate_left; dsimp -zeta only [t_]) | skip)
    | with_reducible apply State.modeRequest_keeps (Sub.trans rfl hw)
    | lift_lets
    | with_reducible refine keeps_ite ?_ ?_)

theorem execKprReqMaintenance_keeps (s : State) :
    ∃ t_, execKprReqMaintenance s = .next t_ ∧ Keeps 0x300104 s t_ := by
  have h := Keeps.refl 0x300104 s
  have hw := Sub.refl 0x300104
  
  refine ⟨_, rfl, ?_⟩
  repeat' (first
    | with_reducible assumption
    | (intro t_; first | (with_reducible refine keeps_cut (w := w) (s := s0) (t := t_) ?_ ?_; intro ht_; rotate_left; dsimp -zeta only [t_]) | skip)
    | with_reducible apply State.modeRequest_keeps (Sub.trans rfl hw)
    | lift_lets
    | with_reducible refine keeps_ite ?_ ?_)

theorem execKprReqCastOn_keeps (s : State) :
    ∃ t_, execKprReqCastOn s = .next t_ ∧ Keeps 0x300104 s t_ := by
  have h := Keeps.refl 0x300104 s
  have hw := Sub.refl 0x300104
  
  refine ⟨_, rfl, ?_⟩
  repeat' (first
    | with_reducible assumption
    | (intro t_; first | (with_reducible refine keeps_cut (w := w) (s := s0) (t := t_) ?_ ?_; intro ht_; rotate_left; dsimp -zeta only [t_]) | skip)
    | with_reducible apply State.modeRequest_keeps (Sub.trans rfl hw)
    | lift_lets
    | with_reducible refine keeps_ite ?_ ?_)

theorem execKprReqPark_keeps (s : State) :
    ∃ t_, execKprReqPark s = .next t_ ∧ Keeps 0x300104 s t_ := by
  have h := Keeps.refl 0x300104 s
  have hw := Sub.refl 0x300104
  
  refine ⟨_, rfl, ?_⟩
  repeat' (first
    | with_reducible assumption
    | (intro t_; first | (with_reducible refine keeps_cut (w := w) (s := s0) (t := t_) ?_ ?_; intro ht_; rotate_left; dsimp -zeta only [t_]) | skip)
    | with_reducible apply State.modeRequest_keeps (Sub.trans rfl hw)
    | lift_lets
    | with_reducible refine keeps_ite ?_ ?_)

theorem execKprReqWithdraw_keeps (s : State) :
    ∃ t_, execKprReqWithdraw s = .next t_ ∧ Keeps 0x300104 s t_ := by
  have h := Keeps.refl 0x300104 s
  have hw := Sub.refl 0x300104
  
  refine ⟨_, rfl, ?_⟩
  repeat' (first
    | with_reducible assumption
    | (intro t_; first | (with_reducible refine keeps_cut (w := w) (s := s0) (t := t_) ?_ ?_; intro ht_; rotate_left; dsimp -zeta only [t_]) | skip)
    | with_reducible apply State.guarded_keeps (Sub.trans rfl hw)
    | with_reducible apply State.wrF_keeps (Sub.trans rfl hw)
    | dsimp only [id]
    | lift_lets
    | with_reducible refine keeps_ite ?_ ?_)

theorem State.rejectReq_keeps {w : Nat} {s0 s : State} (hw : Sub 0x104 w) (h : Keeps w s0 s) :
    Keeps w s0 (State.rejectReq s) := by
  unfold State.rejectReq
  repeat' (first
    | with_reducible assumption
    | (intro t_; first | (with_reducible refine keeps_cut (w := w) (s := s0) (t := t_) ?_ ?_; intro ht_; rotate_left; dsimp -zeta only [t_]) | skip)
    | with_reducible apply State.raise_keeps (Sub.trans rfl hw)
    | lift_lets
    | with_reducible refine keeps_ite ?_ ?_)

theorem State.toMaintenance_keeps {w : Nat} {s0 s : State} (hw : Sub 0x333cd4c w) (h : Keeps w s0 s) :
    Keeps w s0 (State.toMaintenance s) := by
  unfold State.toMaintenance
  repeat' (first
    | with_reducible assumption
    | (intro t_; first | (with_reducible refine keeps_cut (w := w) (s := s0) (t := t_) ?_ ?_; intro ht_; rotate_left; dsimp -zeta only [t_]) | skip)
    | with_reducible apply State.setMode_keeps (Sub.trans rfl hw)
    | with_reducible apply State.inaToOff_keeps (Sub.trans rfl hw)
    | with_reducible apply State.stopRows_keeps (Sub.trans rfl hw)
    | lift_lets
    | with_reducible refine keeps_ite ?_ ?_)

theorem State.fromMaintenance_keeps {w : Nat} {s0 s : State} (hw : Sub 0x7ffffec w) (h : Keeps w s0 s) :
    Keeps w s0 (State.fromMaintenance s) := by
  have b2 := Sub.bit (i := 2) hw rfl; have b3 := Sub.bit (i := 3) hw rfl; have b5 := Sub.bit (i := 5) hw rfl; have b6 := Sub.bit (i := 6) hw rfl; have b7 := Sub.bit (i := 7) hw rfl; have b8 := Sub.bit (i := 8) hw rfl; have b9 := Sub.bit (i := 9) hw rfl; have b10 := Sub.bit (i := 10) hw rfl; have b11 := Sub.bit (i := 11) hw rfl; have b12 := Sub.bit (i := 12) hw rfl; have b13 := Sub.bit (i := 13) hw rfl; have b14 := Sub.bit (i := 14) hw rfl; have b15 := Sub.bit (i := 15) hw rfl; have b16 := Sub.bit (i := 16) hw rfl; have b17 := Sub.bit (i := 17) hw rfl; have b18 := Sub.bit (i := 18) hw rfl; have b19 := Sub.bit (i := 19) hw rfl; have b20 := Sub.bit (i := 20) hw rfl; have b21 := Sub.bit (i := 21) hw rfl; have b22 := Sub.bit (i := 22) hw rfl; have b23 := Sub.bit (i := 23) hw rfl; have b24 := Sub.bit (i := 24) hw rfl; have b25 := Sub.bit (i := 25) hw rfl; have b26 := Sub.bit (i := 26) hw rfl
  unfold State.fromMaintenance
  repeat' (first
    | with_reducible assumption
    | (intro t_; first | (with_reducible refine keeps_cut (w := w) (s := s0) (t := t_) ?_ ?_; intro ht_; rotate_left; dsimp -zeta only [t_]) | skip)
    | with_reducible apply State.lbistEnd_keeps (Sub.trans rfl hw)
    | with_reducible apply State.enterCastOn_keeps (Sub.trans rfl hw)
    | with_reducible apply State.setMode_keeps (Sub.trans rfl hw)
    | with_reducible apply State.cleanTables_keeps (Sub.trans rfl hw)
    | with_reducible apply State.wrF_keeps (Sub.trans rfl hw)
    | lift_lets
    | with_reducible refine keeps_ite ?_ ?_
    | split
    | (clear_value *; split)
    | with_reducible refine keeps_upd ?_ (fun x => x) (fun x => x) (.inr rfl) (.inl b2) (.inl b3) (.inl b5) (.inl b6) (.inl b7) (.inl b8) (.inl b9) (.inl b10) (.inl b11) (.inl b12) (.inl b13) (.inl b14) (.inl b15) (.inl b16) (.inl b17) (.inl b18) (.inl b19) (.inl b20) (.inl b21) (.inl b22) (.inl b23) (.inl b24) (.inl b25) (.inl b26))

theorem State.takeRequest_keeps {w : Nat} {s0 s : State} (hw : Sub 0x7ffffec w) (h : Keeps w s0 s) :
    Keeps w s0 (State.takeRequest s) := by
  unfold State.takeRequest
  repeat' (first
    | with_reducible assumption
    | (intro t_; first | (with_reducible refine keeps_cut (w := w) (s := s0) (t := t_) ?_ ?_; intro ht_; rotate_left; dsimp -zeta only [t_]) | skip)
    | with_reducible apply State.wrF_keeps (Sub.trans rfl hw)
    | with_reducible apply State.acceptWake_keeps (Sub.trans rfl hw)
    | with_reducible apply State.rejectReq_keeps (Sub.trans rfl hw)
    | with_reducible apply State.toMaintenance_keeps (Sub.trans rfl hw)
    | with_reducible apply State.fromMaintenance_keeps (Sub.trans rfl hw)
    | with_reducible apply State.park_keeps (Sub.trans rfl hw)
    | lift_lets
    | with_reducible refine keeps_ite ?_ ?_)

theorem execModeRequestTake_keeps (s : State) :
    ∃ t_, execModeRequestTake s = .next t_ ∧ Keeps 0x7ffffec s t_ := by
  have h := Keeps.refl 0x7ffffec s
  have hw := Sub.refl 0x7ffffec
  
  refine ⟨_, rfl, ?_⟩
  repeat' (first
    | with_reducible assumption
    | (intro t_; first | (with_reducible refine keeps_cut (w := w) (s := s0) (t := t_) ?_ ?_; intro ht_; rotate_left; dsimp -zeta only [t_]) | skip)
    | with_reducible apply State.when_keeps (Sub.trans rfl hw)
    | with_reducible apply State.takeRequest_keeps (Sub.trans rfl hw)
    | dsimp only [id]
    | lift_lets
    | with_reducible refine keeps_ite ?_ ?_)

theorem execSysRstAssert_keeps (s : State) :
    ∃ t_, execSysRstAssert s = .next t_ ∧ Keeps 0x3ffffec s t_ := by
  have h := Keeps.refl 0x3ffffec s
  have hw := Sub.refl 0x3ffffec
  
  refine ⟨_, rfl, ?_⟩
  repeat' (first
    | with_reducible assumption
    | (intro t_; first | (with_reducible refine keeps_cut (w := w) (s := s0) (t := t_) ?_ ?_; intro ht_; rotate_left; dsimp -zeta only [t_]) | skip)
    | with_reducible apply State.when_keeps (Sub.trans rfl hw)
    | with_reducible apply State.reboot_keeps (Sub.trans rfl hw)
    | dsimp only [id]
    | lift_lets
    | with_reducible refine keeps_ite ?_ ?_)

theorem execKpsRstReqDie0_keeps (s : State) :
    ∃ t_, execKpsRstReqDie0 s = .next t_ ∧ Keeps 0x3ffffec s t_ := by
  have h := Keeps.refl 0x3ffffec s
  have hw := Sub.refl 0x3ffffec
  
  refine ⟨_, rfl, ?_⟩
  repeat' (first
    | with_reducible assumption
    | (intro t_; first | (with_reducible refine keeps_cut (w := w) (s := s0) (t := t_) ?_ ?_; intro ht_; rotate_left; dsimp -zeta only [t_]) | skip)
    | with_reducible apply State.guarded_keeps (Sub.trans rfl hw)
    | with_reducible apply State.when_keeps (Sub.trans rfl hw)
    | with_reducible apply State.reboot_keeps (Sub.trans rfl hw)
    | dsimp only [id]
    | lift_lets
    | with_reducible refine keeps_ite ?_ ?_)

theorem State.resetDie1_keeps {w : Nat} {s0 s : State} (hw : Sub 0x3ffffec w) (h : Keeps w s0 s) (c : Sys2Proof.Machine.Cause) :
    Keeps w s0 (State.resetDie1 s c) := by
  unfold State.resetDie1
  repeat' (first
    | with_reducible assumption
    | (intro t_; first | (with_reducible refine keeps_cut (w := w) (s := s0) (t := t_) ?_ ?_; intro ht_; rotate_left; dsimp -zeta only [t_]) | skip)
    | with_reducible apply State.dropDie1_keeps (Sub.trans rfl hw)
    | with_reducible apply State.reboot_keeps (Sub.trans rfl hw)
    | lift_lets
    | with_reducible refine keeps_ite ?_ ?_)

theorem execKpsRstReqDie1_keeps (s : State) :
    ∃ t_, execKpsRstReqDie1 s = .next t_ ∧ Keeps 0x3ffffec s t_ := by
  have h := Keeps.refl 0x3ffffec s
  have hw := Sub.refl 0x3ffffec
  
  refine ⟨_, rfl, ?_⟩
  repeat' (first
    | with_reducible assumption
    | (intro t_; first | (with_reducible refine keeps_cut (w := w) (s := s0) (t := t_) ?_ ?_; intro ht_; rotate_left; dsimp -zeta only [t_]) | skip)
    | with_reducible apply State.guarded_keeps (Sub.trans rfl hw)
    | with_reducible apply State.when_keeps (Sub.trans rfl hw)
    | with_reducible apply State.resetDie1_keeps (Sub.trans rfl hw)
    | dsimp only [id]
    | lift_lets
    | with_reducible refine keeps_ite ?_ ?_)

theorem State.lossReset_keeps {w : Nat} {s0 s : State} (hw : Sub 0x3ffffec w) (h : Keeps w s0 s) (d : Nat) (evt : Nat) :
    Keeps w s0 (State.lossReset s d evt) := by
  unfold State.lossReset
  repeat' (first
    | with_reducible assumption
    | (intro t_; first | (with_reducible refine keeps_cut (w := w) (s := s0) (t := t_) ?_ ?_; intro ht_; rotate_left; dsimp -zeta only [t_]) | skip)
    | with_reducible apply State.raise_keeps (Sub.trans rfl hw)
    | with_reducible apply State.reboot_keeps (Sub.trans rfl hw)
    | with_reducible apply State.resetDie1_keeps (Sub.trans rfl hw)
    | lift_lets
    | with_reducible refine keeps_ite ?_ ?_)

theorem execPllUnlock_keeps (d : Sys2Proof.Die) (s : State) :
    ∃ t_, execPllUnlock d s = .next t_ ∧ Keeps 0x3ffffec s t_ := by
  have h := Keeps.refl 0x3ffffec s
  have hw := Sub.refl 0x3ffffec
  
  refine ⟨_, rfl, ?_⟩
  repeat' (first
    | with_reducible assumption
    | (intro t_; first | (with_reducible refine keeps_cut (w := w) (s := s0) (t := t_) ?_ ?_; intro ht_; rotate_left; dsimp -zeta only [t_]) | skip)
    | with_reducible apply State.when_keeps (Sub.trans rfl hw)
    | with_reducible apply State.lossReset_keeps (Sub.trans rfl hw)
    | dsimp only [id]
    | lift_lets
    | with_reducible refine keeps_ite ?_ ?_)

theorem execRefLoss_keeps (d : Sys2Proof.Die) (s : State) :
    ∃ t_, execRefLoss d s = .next t_ ∧ Keeps 0x3ffffec s t_ := by
  have h := Keeps.refl 0x3ffffec s
  have hw := Sub.refl 0x3ffffec
  
  refine ⟨_, rfl, ?_⟩
  repeat' (first
    | with_reducible assumption
    | (intro t_; first | (with_reducible refine keeps_cut (w := w) (s := s0) (t := t_) ?_ ?_; intro ht_; rotate_left; dsimp -zeta only [t_]) | skip)
    | with_reducible apply State.when_keeps (Sub.trans rfl hw)
    | with_reducible apply State.lossReset_keeps (Sub.trans rfl hw)
    | dsimp only [id]
    | lift_lets
    | with_reducible refine keeps_ite ?_ ?_)

theorem execPllLock_keeps (d : Sys2Proof.Die) (p : Sys2Proof.Pll) (s : State) :
    ∃ t_, execPllLock d p s = .next t_ ∧ Keeps 0x4 s t_ := by
  have h := Keeps.refl 0x4 s
  have hw := Sub.refl 0x4
  
  refine ⟨_, rfl, ?_⟩
  repeat' (first
    | with_reducible assumption
    | (intro t_; first | (with_reducible refine keeps_cut (w := w) (s := s0) (t := t_) ?_ ?_; intro ht_; rotate_left; dsimp -zeta only [t_]) | skip)
    | with_reducible apply State.when_keeps (Sub.trans rfl hw)
    | with_reducible apply State.wrB_keeps (Sub.trans rfl hw)
    | dsimp only [id]
    | lift_lets
    | with_reducible refine keeps_ite ?_ ?_)

theorem State.mdioSend_keeps {w : Nat} {s0 s : State} (hw : Sub 0x3000000 w) (h : Keeps w s0 s) (m : Nat) :
    Keeps w s0 (State.mdioSend s m) := by
  unfold State.mdioSend
  repeat' (first
    | with_reducible assumption
    | (intro t_; first | (with_reducible refine keeps_cut (w := w) (s := s0) (t := t_) ?_ ?_; intro ht_; rotate_left; dsimp -zeta only [t_]) | skip)
    | with_reducible apply State.arm_keeps (Sub.trans rfl hw)
    | with_reducible apply State.emit_keeps (Sub.trans rfl hw)
    | lift_lets
    | with_reducible refine keeps_ite ?_ ?_)

theorem execRstOutRelease_keeps (s : State) :
    ∃ t_, execRstOutRelease s = .next t_ ∧ Keeps 0x3000184 s t_ := by
  have h := Keeps.refl 0x3000184 s
  have hw := Sub.refl 0x3000184
  
  refine ⟨_, rfl, ?_⟩
  repeat' (first
    | with_reducible assumption
    | (intro t_; first | (with_reducible refine keeps_cut (w := w) (s := s0) (t := t_) ?_ ?_; intro ht_; rotate_left; dsimp -zeta only [t_]) | skip)
    | with_reducible apply State.when_keeps (Sub.trans rfl hw)
    | with_reducible apply State.raise_keeps (Sub.trans rfl hw)
    | with_reducible apply State.wrB_keeps (Sub.trans rfl hw)
    | with_reducible apply State.expire_keeps (Sub.trans rfl hw)
    | with_reducible apply State.each_keeps (Sub.trans rfl hw)
    | with_reducible apply State.mdioSend_keeps (Sub.trans rfl hw)
    | dsimp only [id]
    | lift_lets
    | with_reducible refine keeps_ite ?_ ?_)

theorem execKhfStart_keeps (_byWake : Bool) (s : State) :
    ∃ t_, execKhfStart _byWake s = .next t_ ∧ Keeps 0x40 s t_ := by
  have h := Keeps.refl 0x40 s
  have hw := Sub.refl 0x40
  have b6 := Sub.bit (i := 6) hw rfl; 
  refine ⟨_, rfl, ?_⟩
  repeat' (first
    | with_reducible assumption
    | (intro t_; first | (with_reducible refine keeps_cut (w := w) (s := s0) (t := t_) ?_ ?_; intro ht_; rotate_left; dsimp -zeta only [t_]) | skip)
    | with_reducible apply State.when_keeps (Sub.trans rfl hw)
    | dsimp only [id]
    | lift_lets
    | with_reducible refine keeps_ite ?_ ?_
    | with_reducible refine keeps_upd ?_ (fun x => x) (fun x => x) (.inr rfl) (.inr rfl) (.inr rfl) (.inr rfl) (.inl b6) (.inr rfl) (.inr rfl) (.inr rfl) (.inr rfl) (.inr rfl) (.inr rfl) (.inr rfl) (.inr rfl) (.inr rfl) (.inr rfl) (.inr rfl) (.inr rfl) (.inr rfl) (.inr rfl) (.inr rfl) (.inr rfl) (.inr rfl) (.inr rfl) (.inr rfl) (.inr rfl))

theorem execKhfStop_keeps (s : State) :
    ∃ t_, execKhfStop s = .next t_ ∧ Keeps 0x30001c4 s t_ := by
  have h := Keeps.refl 0x30001c4 s
  have hw := Sub.refl 0x30001c4
  have b2 := Sub.bit (i := 2) hw rfl; have b6 := Sub.bit (i := 6) hw rfl; have b7 := Sub.bit (i := 7) hw rfl; have b8 := Sub.bit (i := 8) hw rfl; have b24 := Sub.bit (i := 24) hw rfl; have b25 := Sub.bit (i := 25) hw rfl; 
  refine ⟨_, rfl, ?_⟩
  repeat' (first
    | with_reducible assumption
    | (intro t_; first | (with_reducible refine keeps_cut (w := w) (s := s0) (t := t_) ?_ ?_; intro ht_; rotate_left; dsimp -zeta only [t_]) | skip)
    | with_reducible apply State.when_keeps (Sub.trans rfl hw)
    | with_reducible apply State.expire_keeps (Sub.trans rfl hw)
    | dsimp only [id]
    | lift_lets
    | with_reducible refine keeps_ite ?_ ?_
    | with_reducible refine keeps_upd ?_ (fun x => x) (fun x => x) (.inr rfl) (.inl b2) (.inr rfl) (.inr rfl) (.inl b6) (.inl b7) (.inl b8) (.inr rfl) (.inr rfl) (.inr rfl) (.inr rfl) (.inr rfl) (.inr rfl) (.inr rfl) (.inr rfl) (.inr rfl) (.inr rfl) (.inr rfl) (.inr rfl) (.inr rfl) (.inr rfl) (.inr rfl) (.inl b24) (.inl b25) (.inr rfl))

theorem execKlfValid_keeps (s : State) :
    ∃ t_, execKlfValid s = .next t_ ∧ Keeps 0x40 s t_ := by
  have h := Keeps.refl 0x40 s
  have hw := Sub.refl 0x40
  have b6 := Sub.bit (i := 6) hw rfl; 
  refine ⟨_, rfl, ?_⟩
  repeat' (first
    | with_reducible assumption
    | (intro t_; first | (with_reducible refine keeps_cut (w := w) (s := s0) (t := t_) ?_ ?_; intro ht_; rotate_left; dsimp -zeta only [t_]) | skip)
    | with_reducible apply State.when_keeps (Sub.trans rfl hw)
    | dsimp only [id]
    | lift_lets
    | with_reducible refine keeps_ite ?_ ?_
    | with_reducible refine keeps_upd ?_ (fun x => x) (fun x => x) (.inr rfl) (.inr rfl) (.inr rfl) (.inr rfl) (.inl b6) (.inr rfl) (.inr rfl) (.inr rfl) (.inr rfl) (.inr rfl) (.inr rfl) (.inr rfl) (.inr rfl) (.inr rfl) (.inr rfl) (.inr rfl) (.inr rfl) (.inr rfl) (.inr rfl) (.inr rfl) (.inr rfl) (.inr rfl) (.inr rfl) (.inr rfl) (.inr rfl))

end Sys2Proof.Machine
end

