-- ==== Sys2Proof/Laws/Komidon.lean ====
section
/-! SUPPORT. What the functions of Machine/Komidon.lean keep, one lemma for each. -/

namespace Sys2Proof.Machine

theorem State.takeCredits_keeps {w : Nat} {s0 s : State} (hw : Sub 0x4 w) (h : Keeps w s0 s) (d : Nat) :
    Keeps w s0 (State.takeCredits s d) := by
  unfold State.takeCredits
  repeat' (first
    | with_reducible assumption
    | (intro t_; first | (with_reducible refine keeps_cut (w := w) (s := s0) (t := t_) ?_ ?_; intro ht_; rotate_left; dsimp -zeta only [t_]) | skip)
    | with_reducible apply State.wr_keeps (Sub.trans rfl hw)
    | lift_lets
    | with_reducible refine keeps_ite ?_ ?_)

theorem State.mirrorSch_keeps {w : Nat} {s0 s : State} (hw : Sub 0x4 w) (h : Keeps w s0 s) :
    Keeps w s0 (State.mirrorSch s) := by
  unfold State.mirrorSch
  repeat' (first
    | with_reducible assumption
    | (intro t_; first | (with_reducible refine keeps_cut (w := w) (s := s0) (t := t_) ?_ ?_; intro ht_; rotate_left; dsimp -zeta only [t_]) | skip)
    | with_reducible apply State.each_keeps (Sub.trans rfl hw)
    | with_reducible apply State.wr_keeps (Sub.trans rfl hw)
    | lift_lets
    | with_reducible refine keeps_ite ?_ ?_)

theorem State.unwrapEnds_keeps {w : Nat} {s0 s : State} (hw : Sub 0x1104 w) (h : Keeps w s0 s) :
    Keeps w s0 (State.unwrapEnds s) := by
  unfold State.unwrapEnds
  repeat' (first
    | with_reducible assumption
    | (intro t_; first | (with_reducible refine keeps_cut (w := w) (s := s0) (t := t_) ?_ ?_; intro ht_; rotate_left; dsimp -zeta only [t_]) | skip)
    | with_reducible apply State.each_keeps (Sub.trans rfl hw)
    | with_reducible apply State.setWrap_keeps (Sub.trans rfl hw)
    | with_reducible apply State.newNotice_keeps (Sub.trans rfl hw)
    | with_reducible apply State.wr_keeps (Sub.trans rfl hw)
    | with_reducible apply State.raiseTurn_keeps (Sub.trans rfl hw)
    | with_reducible apply State.pathChange_keeps (Sub.trans rfl hw)
    | lift_lets
    | with_reducible refine keeps_ite ?_ ?_)

theorem State.newCrd_keeps {w : Nat} {s0 s : State} (hw : Sub 0x20000 w) (h : Keeps w s0 s) :
    Keeps w s0 (State.newCrd s) := by
  have b17 := Sub.bit (i := 17) hw rfl
  unfold State.newCrd
  repeat' (first
    | with_reducible assumption
    | (intro t_; first | (with_reducible refine keeps_cut (w := w) (s := s0) (t := t_) ?_ ?_; intro ht_; rotate_left; dsimp -zeta only [t_]) | skip)
    | lift_lets
    | with_reducible refine keeps_ite ?_ ?_
    | with_reducible refine keeps_fst_ite ?_ ?_
    | (with_reducible refine keeps_of_eq (by assumption) ?_)
    | with_reducible refine keeps_upd ?_ (fun x => x) (fun x => x) (.inr rfl) (.inr rfl) (.inr rfl) (.inr rfl) (.inr rfl) (.inr rfl) (.inr rfl) (.inr rfl) (.inr rfl) (.inr rfl) (.inr rfl) (.inr rfl) (.inr rfl) (.inr rfl) (.inr rfl) (.inl b17) (.inr rfl) (.inr rfl) (.inr rfl) (.inr rfl) (.inr rfl) (.inr rfl) (.inr rfl) (.inr rfl) (.inr rfl))

theorem State.linkUpNow_keeps {w : Nat} {s0 s : State} (hw : Sub 0x772fd4c w) (h : Keeps w s0 s) (rtt : Nat) (lat : Nat) :
    Keeps w s0 (State.linkUpNow s rtt lat) := by
  have b2 := Sub.bit (i := 2) hw rfl; have b3 := Sub.bit (i := 3) hw rfl; have b6 := Sub.bit (i := 6) hw rfl; have b8 := Sub.bit (i := 8) hw rfl; have b10 := Sub.bit (i := 10) hw rfl; have b11 := Sub.bit (i := 11) hw rfl; have b12 := Sub.bit (i := 12) hw rfl; have b13 := Sub.bit (i := 13) hw rfl; have b14 := Sub.bit (i := 14) hw rfl; have b15 := Sub.bit (i := 15) hw rfl; have b17 := Sub.bit (i := 17) hw rfl; have b20 := Sub.bit (i := 20) hw rfl; have b21 := Sub.bit (i := 21) hw rfl; have b22 := Sub.bit (i := 22) hw rfl; have b24 := Sub.bit (i := 24) hw rfl; have b25 := Sub.bit (i := 25) hw rfl; have b26 := Sub.bit (i := 26) hw rfl
  unfold State.linkUpNow
  repeat' (first
    | with_reducible assumption
    | (intro t_; first | (with_reducible refine keeps_cut (w := w) (s := s0) (t := t_) ?_ ?_; intro ht_; rotate_left; dsimp -zeta only [t_]) | skip)
    | with_reducible apply State.withNbr_keeps (Sub.trans rfl hw)
    | with_reducible apply State.newCrd_keeps (Sub.trans rfl hw)
    | with_reducible apply State.setLink_keeps (Sub.trans rfl hw)
    | with_reducible apply State.each_keeps (Sub.trans rfl hw)
    | with_reducible apply State.evalBuf_keeps (Sub.trans rfl hw)
    | with_reducible apply State.takeCredits_keeps (Sub.trans rfl hw)
    | with_reducible apply State.wrF_keeps (Sub.trans rfl hw)
    | with_reducible apply State.bumpF_keeps (Sub.trans rfl hw)
    | with_reducible apply State.wr_keeps (Sub.trans rfl hw)
    | with_reducible apply State.mirrorTmu_keeps (Sub.trans rfl hw)
    | with_reducible apply State.mirrorSch_keeps (Sub.trans rfl hw)
    | with_reducible apply State.unwrapEnds_keeps (Sub.trans rfl hw)
    | with_reducible apply State.raise_keeps (Sub.trans rfl hw)
    | with_reducible apply State.evalEvc_keeps (Sub.trans rfl hw)
    | with_reducible apply State.applyDone_keeps (Sub.trans rfl hw)
    | dsimp only [id]
    | lift_lets
    | with_reducible refine keeps_ite ?_ ?_
    | with_reducible refine keeps_upd ?_ (fun x => x) (fun x => x) (.inr rfl) (.inl b2) (.inl b3) (.inr rfl) (.inl b6) (.inr rfl) (.inl b8) (.inr rfl) (.inl b10) (.inl b11) (.inl b12) (.inl b13) (.inl b14) (.inl b15) (.inr rfl) (.inl b17) (.inr rfl) (.inr rfl) (.inl b20) (.inl b21) (.inl b22) (.inr rfl) (.inl b24) (.inl b25) (.inl b26))

theorem execKlkRetrain_keeps (d : Sys2Proof.Die) (s : State) :
    ∃ t_, execKlkRetrain d s = .next t_ ∧ Keeps 0x330ddcc s t_ := by
  have h := Keeps.refl 0x330ddcc s
  have hw := Sub.refl 0x330ddcc
  
  refine ⟨_, rfl, ?_⟩
  repeat' (first
    | with_reducible assumption
    | (intro t_; first | (with_reducible refine keeps_cut (w := w) (s := s0) (t := t_) ?_ ?_; intro ht_; rotate_left; dsimp -zeta only [t_]) | skip)
    | with_reducible apply State.guarded_keeps (Sub.trans rfl hw)
    | with_reducible apply State.when_keeps (Sub.trans rfl hw)
    | with_reducible apply State.linkLost_keeps (Sub.trans rfl hw)
    | with_reducible apply State.setLink_keeps (Sub.trans rfl hw)
    | dsimp only [id]
    | lift_lets
    | with_reducible refine keeps_ite ?_ ?_)

theorem execKlkLinkDown_keeps (s : State) :
    ∃ t_, execKlkLinkDown s = .next t_ ∧ Keeps 0x330ddcc s t_ := by
  have h := Keeps.refl 0x330ddcc s
  have hw := Sub.refl 0x330ddcc
  
  refine ⟨_, rfl, ?_⟩
  repeat' (first
    | with_reducible assumption
    | (intro t_; first | (with_reducible refine keeps_cut (w := w) (s := s0) (t := t_) ?_ ?_; intro ht_; rotate_left; dsimp -zeta only [t_]) | skip)
    | with_reducible apply State.when_keeps (Sub.trans rfl hw)
    | with_reducible apply State.linkLost_keeps (Sub.trans rfl hw)
    | dsimp only [id]
    | lift_lets
    | with_reducible refine keeps_ite ?_ ?_)

end Sys2Proof.Machine
end

