-- ==== Sys2Proof/Laws/Swatch.lean ====
section
/-! SUPPORT. What the functions of Machine/Swatch.lean keep, one lemma for each. -/

namespace Sys2Proof.Machine

theorem State.swAdd_keeps {w : Nat} {s0 s : State} (hw : Sub 0x804 w) (h : Keeps w s0 s) (r : Sys2Proof.Machine.SwReq) :
    Keeps w s0 (State.swAdd s r) := by
  have b2 := Sub.bit (i := 2) hw rfl; have b11 := Sub.bit (i := 11) hw rfl
  unfold State.swAdd
  repeat' (first
    | with_reducible assumption
    | (intro t_; first | (with_reducible refine keeps_cut (w := w) (s := s0) (t := t_) ?_ ?_; intro ht_; rotate_left; dsimp -zeta only [t_]) | skip)
    | with_reducible apply State.wrB_keeps (Sub.trans rfl hw)
    | lift_lets
    | with_reducible refine keeps_ite ?_ ?_
    | with_reducible refine keeps_upd ?_ (fun x => x) (fun x => x) (.inr rfl) (.inl b2) (.inr rfl) (.inr rfl) (.inr rfl) (.inr rfl) (.inr rfl) (.inr rfl) (.inr rfl) (.inl b11) (.inr rfl) (.inr rfl) (.inr rfl) (.inr rfl) (.inr rfl) (.inr rfl) (.inr rfl) (.inr rfl) (.inr rfl) (.inr rfl) (.inr rfl) (.inr rfl) (.inr rfl) (.inr rfl) (.inr rfl))

theorem State.swRequest_keeps {w : Nat} {s0 s : State} (hw : Sub 0x904 w) (h : Keeps w s0 s) (r : Sys2Proof.Machine.SwReq) (start : Sys2Proof.Machine.State → Sys2Proof.Machine.State) (h_start : ∀ t_, Keeps w s0 t_ → Keeps w s0 (start t_)) :
    Keeps w s0 (State.swRequest s r start) := by
  unfold State.swRequest
  repeat' (first
    | with_reducible assumption
    | (intro t_; first | (with_reducible refine keeps_cut (w := w) (s := s0) (t := t_) ?_ ?_; intro ht_; rotate_left; dsimp -zeta only [t_]) | skip)
    | with_reducible apply h_start
    | with_reducible apply State.wr_keeps (Sub.trans rfl hw)
    | with_reducible apply State.swAdd_keeps (Sub.trans rfl hw)
    | with_reducible apply State.raise_keeps (Sub.trans rfl hw)
    | lift_lets
    | with_reducible refine keeps_ite ?_ ?_)

theorem State.swEnd_keeps {w : Nat} {s0 s : State} (hw : Sub 0x904 w) (h : Keeps w s0 s) (d : Nat) (code : Nat) (target : Nat) :
    Keeps w s0 (State.swEnd s d code target) := by
  have b2 := Sub.bit (i := 2) hw rfl; have b8 := Sub.bit (i := 8) hw rfl; have b11 := Sub.bit (i := 11) hw rfl
  unfold State.swEnd
  repeat' (first
    | with_reducible assumption
    | (intro t_; first | (with_reducible refine keeps_cut (w := w) (s := s0) (t := t_) ?_ ?_; intro ht_; rotate_left; dsimp -zeta only [t_]) | skip)
    | with_reducible apply State.raise_keeps (Sub.trans rfl hw)
    | with_reducible apply State.wrB_keeps (Sub.trans rfl hw)
    | lift_lets
    | with_reducible refine keeps_ite ?_ ?_
    | with_reducible refine keeps_upd ?_ (fun x => x) (fun x => x) (.inr rfl) (.inl b2) (.inr rfl) (.inr rfl) (.inr rfl) (.inr rfl) (.inl b8) (.inr rfl) (.inr rfl) (.inl b11) (.inr rfl) (.inr rfl) (.inr rfl) (.inr rfl) (.inr rfl) (.inr rfl) (.inr rfl) (.inr rfl) (.inr rfl) (.inr rfl) (.inr rfl) (.inr rfl) (.inr rfl) (.inr rfl) (.inr rfl))

theorem State.setBist_keeps {w : Nat} {s0 s : State} (hw : Sub 0x904 w) (h : Keeps w s0 s) (d : Nat) (p : Sys2Proof.Machine.BistPhase) :
    Keeps w s0 (State.setBist s d p) := by
  have b2 := Sub.bit (i := 2) hw rfl; have b8 := Sub.bit (i := 8) hw rfl; have b11 := Sub.bit (i := 11) hw rfl
  unfold State.setBist
  repeat' (first
    | with_reducible assumption
    | (intro t_; first | (with_reducible refine keeps_cut (w := w) (s := s0) (t := t_) ?_ ?_; intro ht_; rotate_left; dsimp -zeta only [t_]) | skip)
    | with_reducible apply State.evalBuf_keeps (Sub.trans rfl hw)
    | lift_lets
    | with_reducible refine keeps_ite ?_ ?_
    | with_reducible refine keeps_upd ?_ (fun x => x) (fun x => x) (.inr rfl) (.inl b2) (.inr rfl) (.inr rfl) (.inr rfl) (.inr rfl) (.inl b8) (.inr rfl) (.inr rfl) (.inl b11) (.inr rfl) (.inr rfl) (.inr rfl) (.inr rfl) (.inr rfl) (.inr rfl) (.inr rfl) (.inr rfl) (.inr rfl) (.inr rfl) (.inr rfl) (.inr rfl) (.inr rfl) (.inr rfl) (.inr rfl))

theorem State.bistStart_keeps {w : Nat} {s0 s : State} (hw : Sub 0x1000904 w) (h : Keeps w s0 s) (d : Nat) (k : Nat) :
    Keeps w s0 (State.bistStart s d k) := by
  unfold State.bistStart
  repeat' (first
    | with_reducible assumption
    | (intro t_; first | (with_reducible refine keeps_cut (w := w) (s := s0) (t := t_) ?_ ?_; intro ht_; rotate_left; dsimp -zeta only [t_]) | skip)
    | with_reducible apply State.arm_keeps (Sub.trans rfl hw)
    | with_reducible apply State.setBist_keeps (Sub.trans rfl hw)
    | with_reducible apply State.wrB_keeps (Sub.trans rfl hw)
    | with_reducible apply State.wrF_keeps (Sub.trans rfl hw)
    | lift_lets
    | with_reducible refine keeps_ite ?_ ?_)

theorem State.bistPause_keeps {w : Nat} {s0 s : State} (hw : Sub 0x1000904 w) (h : Keeps w s0 s) (d : Nat) :
    Keeps w s0 (State.bistPause s d) := by
  unfold State.bistPause
  repeat' (first
    | with_reducible assumption
    | (intro t_; first | (with_reducible refine keeps_cut (w := w) (s := s0) (t := t_) ?_ ?_; intro ht_; rotate_left; dsimp -zeta only [t_]) | skip)
    | with_reducible apply State.arm_keeps (Sub.trans rfl hw)
    | with_reducible apply State.setBist_keeps (Sub.trans rfl hw)
    | lift_lets
    | with_reducible refine keeps_ite ?_ ?_)

theorem State.passDone_keeps {w : Nat} {s0 s : State} (hw : Sub 0x1000904 w) (h : Keeps w s0 s) (d : Nat) :
    Keeps w s0 (State.passDone s d) := by
  unfold State.passDone
  repeat' (first
    | with_reducible assumption
    | (intro t_; first | (with_reducible refine keeps_cut (w := w) (s := s0) (t := t_) ?_ ?_; intro ht_; rotate_left; dsimp -zeta only [t_]) | skip)
    | with_reducible apply State.wr_keeps (Sub.trans rfl hw)
    | with_reducible apply State.bistPause_keeps (Sub.trans rfl hw)
    | with_reducible apply State.wrF_keeps (Sub.trans rfl hw)
    | with_reducible apply State.setBist_keeps (Sub.trans rfl hw)
    | with_reducible apply State.wrB_keeps (Sub.trans rfl hw)
    | with_reducible apply State.swEnd_keeps (Sub.trans rfl hw)
    | lift_lets
    | with_reducible refine keeps_ite ?_ ?_
    | split
    | (clear_value *; split))

theorem State.bankDone_keeps {w : Nat} {s0 s : State} (hw : Sub 0x1000904 w) (h : Keeps w s0 s) (d : Nat) :
    Keeps w s0 (State.bankDone s d) := by
  unfold State.bankDone
  repeat' (first
    | with_reducible assumption
    | (intro t_; first | (with_reducible refine keeps_cut (w := w) (s := s0) (t := t_) ?_ ?_; intro ht_; rotate_left; dsimp -zeta only [t_]) | skip)
    | with_reducible apply State.passDone_keeps (Sub.trans rfl hw)
    | with_reducible apply State.bistPause_keeps (Sub.trans rfl hw)
    | with_reducible apply State.bistStart_keeps (Sub.trans rfl hw)
    | lift_lets
    | with_reducible refine keeps_ite ?_ ?_
    | split
    | (clear_value *; split))

theorem State.bufBist_keeps {w : Nat} {s0 s : State} (hw : Sub 0x1000904 w) (h : Keeps w s0 s) (d : Nat) (bank : Nat) :
    Keeps w s0 (State.bufBist s d bank) := by
  unfold State.bufBist
  repeat' (first
    | with_reducible assumption
    | (intro t_; first | (with_reducible refine keeps_cut (w := w) (s := s0) (t := t_) ?_ ?_; intro ht_; rotate_left; dsimp -zeta only [t_]) | skip)
    | with_reducible apply State.swRequest_keeps (Sub.trans rfl hw)
    | with_reducible apply State.bistStart_keeps (Sub.trans rfl hw)
    | with_reducible apply State.passDone_keeps (Sub.trans rfl hw)
    | dsimp only [id]
    | lift_lets
    | with_reducible refine keeps_ite ?_ ?_
    | split
    | (clear_value *; split))

theorem execBufBist_keeps (d : Sys2Proof.Die) (bank : BitVec 6) (s : State) :
    ∃ t_, execBufBist d bank s = .next t_ ∧ Keeps 0x1300904 s t_ := by
  have h := Keeps.refl 0x1300904 s
  have hw := Sub.refl 0x1300904
  
  refine ⟨_, rfl, ?_⟩
  repeat' (first
    | with_reducible assumption
    | (intro t_; first | (with_reducible refine keeps_cut (w := w) (s := s0) (t := t_) ?_ ?_; intro ht_; rotate_left; dsimp -zeta only [t_]) | skip)
    | with_reducible apply State.guarded_keeps (Sub.trans rfl hw)
    | with_reducible apply State.bufBist_keeps (Sub.trans rfl hw)
    | dsimp only [id]
    | lift_lets
    | with_reducible refine keeps_ite ?_ ?_)

theorem execBistBankDrained_keeps (d : Sys2Proof.Die) (s : State) :
    ∃ t_, execBistBankDrained d s = .next t_ ∧ Keeps 0x1000904 s t_ := by
  have h := Keeps.refl 0x1000904 s
  have hw := Sub.refl 0x1000904
  
  refine ⟨_, rfl, ?_⟩
  repeat' (first
    | with_reducible assumption
    | (intro t_; first | (with_reducible refine keeps_cut (w := w) (s := s0) (t := t_) ?_ ?_; intro ht_; rotate_left; dsimp -zeta only [t_]) | skip)
    | with_reducible apply State.when_keeps (Sub.trans rfl hw)
    | with_reducible apply State.disarm_keeps (Sub.trans rfl hw)
    | with_reducible apply State.setBist_keeps (Sub.trans rfl hw)
    | dsimp only [id]
    | lift_lets
    | with_reducible refine keeps_ite ?_ ?_)

theorem execBistDrainTimeout_keeps (d : Sys2Proof.Die) (s : State) :
    ∃ t_, execBistDrainTimeout d s = .next t_ ∧ Keeps 0x3000984 s t_ := by
  have h := Keeps.refl 0x3000984 s
  have hw := Sub.refl 0x3000984
  
  refine ⟨_, rfl, ?_⟩
  repeat' (first
    | with_reducible assumption
    | (intro t_; first | (with_reducible refine keeps_cut (w := w) (s := s0) (t := t_) ?_ ?_; intro ht_; rotate_left; dsimp -zeta only [t_]) | skip)
    | with_reducible apply State.when_keeps (Sub.trans rfl hw)
    | with_reducible apply State.expire_keeps (Sub.trans rfl hw)
    | with_reducible apply State.bankDone_keeps (Sub.trans rfl hw)
    | with_reducible apply State.setBist_keeps (Sub.trans rfl hw)
    | with_reducible apply State.countF_keeps (Sub.trans rfl hw)
    | dsimp only [id]
    | lift_lets
    | with_reducible refine keeps_ite ?_ ?_)

theorem execBistBankDone_keeps (d : Sys2Proof.Die) (pass : Bool) (s : State) :
    ∃ t_, execBistBankDone d pass s = .next t_ ∧ Keeps 0x1000904 s t_ := by
  have h := Keeps.refl 0x1000904 s
  have hw := Sub.refl 0x1000904
  
  refine ⟨_, rfl, ?_⟩
  repeat' (first
    | with_reducible assumption
    | (intro t_; first | (with_reducible refine keeps_cut (w := w) (s := s0) (t := t_) ?_ ?_; intro ht_; rotate_left; dsimp -zeta only [t_]) | skip)
    | with_reducible apply State.when_keeps (Sub.trans rfl hw)
    | with_reducible apply State.raise_keeps (Sub.trans rfl hw)
    | with_reducible apply State.wrB_keeps (Sub.trans rfl hw)
    | with_reducible apply State.bankDone_keeps (Sub.trans rfl hw)
    | with_reducible apply State.setBist_keeps (Sub.trans rfl hw)
    | dsimp only [id]
    | lift_lets
    | with_reducible refine keeps_ite ?_ ?_)

theorem execBistGapExpiry_keeps (d : Sys2Proof.Die) (s : State) :
    ∃ t_, execBistGapExpiry d s = .next t_ ∧ Keeps 0x3000984 s t_ := by
  have h := Keeps.refl 0x3000984 s
  have hw := Sub.refl 0x3000984
  
  refine ⟨_, rfl, ?_⟩
  repeat' (first
    | with_reducible assumption
    | (intro t_; first | (with_reducible refine keeps_cut (w := w) (s := s0) (t := t_) ?_ ?_; intro ht_; rotate_left; dsimp -zeta only [t_]) | skip)
    | with_reducible apply State.when_keeps (Sub.trans rfl hw)
    | with_reducible apply State.expire_keeps (Sub.trans rfl hw)
    | with_reducible apply State.bistStart_keeps (Sub.trans rfl hw)
    | with_reducible apply State.passDone_keeps (Sub.trans rfl hw)
    | dsimp only [id]
    | lift_lets
    | with_reducible refine keeps_ite ?_ ?_
    | split
    | (clear_value *; split))

theorem State.eyeScan_keeps {w : Nat} {s0 s : State} (hw : Sub 0x904 w) (h : Keeps w s0 s) (d : Nat) (lane : Nat) :
    Keeps w s0 (State.eyeScan s d lane) := by
  unfold State.eyeScan
  repeat' (first
    | with_reducible assumption
    | (intro t_; first | (with_reducible refine keeps_cut (w := w) (s := s0) (t := t_) ?_ ?_; intro ht_; rotate_left; dsimp -zeta only [t_]) | skip)
    | with_reducible apply State.swRequest_keeps (Sub.trans rfl hw)
    | dsimp only [id]
    | lift_lets
    | with_reducible refine keeps_ite ?_ ?_)

theorem execEyeScan_keeps (d : Sys2Proof.Die) (lane : BitVec 6) (s : State) :
    ∃ t_, execEyeScan d lane s = .next t_ ∧ Keeps 0x300904 s t_ := by
  have h := Keeps.refl 0x300904 s
  have hw := Sub.refl 0x300904
  
  refine ⟨_, rfl, ?_⟩
  repeat' (first
    | with_reducible assumption
    | (intro t_; first | (with_reducible refine keeps_cut (w := w) (s := s0) (t := t_) ?_ ?_; intro ht_; rotate_left; dsimp -zeta only [t_]) | skip)
    | with_reducible apply State.guarded_keeps (Sub.trans rfl hw)
    | with_reducible apply State.eyeScan_keeps (Sub.trans rfl hw)
    | dsimp only [id]
    | lift_lets
    | with_reducible refine keeps_ite ?_ ?_)

theorem execEyeScanDone_keeps (d : Sys2Proof.Die) (horizontal : Sys2Proof.Byte) (vertical : Sys2Proof.Byte) (s : State) :
    ∃ t_, execEyeScanDone d horizontal vertical s = .next t_ ∧ Keeps 0x904 s t_ := by
  have h := Keeps.refl 0x904 s
  have hw := Sub.refl 0x904
  
  refine ⟨_, rfl, ?_⟩
  repeat' (first
    | with_reducible assumption
    | (intro t_; first | (with_reducible refine keeps_cut (w := w) (s := s0) (t := t_) ?_ ?_; intro ht_; rotate_left; dsimp -zeta only [t_]) | skip)
    | with_reducible apply State.when_keeps (Sub.trans rfl hw)
    | with_reducible apply State.swEnd_keeps (Sub.trans rfl hw)
    | with_reducible apply State.wr_keeps (Sub.trans rfl hw)
    | dsimp only [id]
    | lift_lets
    | with_reducible refine keeps_ite ?_ ?_
    | split
    | (clear_value *; split))

theorem State.tsCal_keeps {w : Nat} {s0 s : State} (hw : Sub 0x904 w) (h : Keeps w s0 s) (d : Nat) (lane : Nat) :
    Keeps w s0 (State.tsCal s d lane) := by
  unfold State.tsCal
  repeat' (first
    | with_reducible assumption
    | (intro t_; first | (with_reducible refine keeps_cut (w := w) (s := s0) (t := t_) ?_ ?_; intro ht_; rotate_left; dsimp -zeta only [t_]) | skip)
    | with_reducible apply State.swRequest_keeps (Sub.trans rfl hw)
    | dsimp only [id]
    | lift_lets
    | with_reducible refine keeps_ite ?_ ?_)

theorem execTsCal_keeps (d : Sys2Proof.Die) (lane : BitVec 6) (s : State) :
    ∃ t_, execTsCal d lane s = .next t_ ∧ Keeps 0x300904 s t_ := by
  have h := Keeps.refl 0x300904 s
  have hw := Sub.refl 0x300904
  
  refine ⟨_, rfl, ?_⟩
  repeat' (first
    | with_reducible assumption
    | (intro t_; first | (with_reducible refine keeps_cut (w := w) (s := s0) (t := t_) ?_ ?_; intro ht_; rotate_left; dsimp -zeta only [t_]) | skip)
    | with_reducible apply State.guarded_keeps (Sub.trans rfl hw)
    | with_reducible apply State.tsCal_keeps (Sub.trans rfl hw)
    | dsimp only [id]
    | lift_lets
    | with_reducible refine keeps_ite ?_ ?_)

theorem execTsCalDone_keeps (d : Sys2Proof.Die) (rxLat : BitVec 16) (txLat : BitVec 16) (s : State) :
    ∃ t_, execTsCalDone d rxLat txLat s = .next t_ ∧ Keeps 0x904 s t_ := by
  have h := Keeps.refl 0x904 s
  have hw := Sub.refl 0x904
  
  refine ⟨_, rfl, ?_⟩
  repeat' (first
    | with_reducible assumption
    | (intro t_; first | (with_reducible refine keeps_cut (w := w) (s := s0) (t := t_) ?_ ?_; intro ht_; rotate_left; dsimp -zeta only [t_]) | skip)
    | with_reducible apply State.when_keeps (Sub.trans rfl hw)
    | with_reducible apply State.wr_keeps (Sub.trans rfl hw)
    | with_reducible apply State.each_keeps (Sub.trans rfl hw)
    | with_reducible apply State.raise_keeps (Sub.trans rfl hw)
    | with_reducible apply State.swEnd_keeps (Sub.trans rfl hw)
    | dsimp only [id]
    | lift_lets
    | with_reducible refine keeps_ite ?_ ?_
    | split
    | (clear_value *; split))

theorem State.coilSwatch_keeps {w : Nat} {s0 s : State} (hw : Sub 0x904 w) (h : Keeps w s0 s) (d : Nat) (relay : Nat) :
    Keeps w s0 (State.coilSwatch s d relay) := by
  unfold State.coilSwatch
  repeat' (first
    | with_reducible assumption
    | (intro t_; first | (with_reducible refine keeps_cut (w := w) (s := s0) (t := t_) ?_ ?_; intro ht_; rotate_left; dsimp -zeta only [t_]) | skip)
    | with_reducible apply State.swRequest_keeps (Sub.trans rfl hw)
    | with_reducible apply State.wrB_keeps (Sub.trans rfl hw)
    | dsimp only [id]
    | lift_lets
    | with_reducible refine keeps_ite ?_ ?_)

theorem execCoilSwatch_keeps (d : Sys2Proof.Die) (relay : BitVec 6) (s : State) :
    ∃ t_, execCoilSwatch d relay s = .next t_ ∧ Keeps 0x300904 s t_ := by
  have h := Keeps.refl 0x300904 s
  have hw := Sub.refl 0x300904
  
  refine ⟨_, rfl, ?_⟩
  repeat' (first
    | with_reducible assumption
    | (intro t_; first | (with_reducible refine keeps_cut (w := w) (s := s0) (t := t_) ?_ ?_; intro ht_; rotate_left; dsimp -zeta only [t_]) | skip)
    | with_reducible apply State.guarded_keeps (Sub.trans rfl hw)
    | with_reducible apply State.coilSwatch_keeps (Sub.trans rfl hw)
    | dsimp only [id]
    | lift_lets
    | with_reducible refine keeps_ite ?_ ?_)

theorem State.lbist_keeps {w : Nat} {s0 s : State} (hw : Sub 0x330ddcc w) (h : Keeps w s0 s) (d : Nat) :
    Keeps w s0 (State.lbist s d) := by
  unfold State.lbist
  repeat' (first
    | with_reducible assumption
    | (intro t_; first | (with_reducible refine keeps_cut (w := w) (s := s0) (t := t_) ?_ ?_; intro ht_; rotate_left; dsimp -zeta only [t_]) | skip)
    | with_reducible apply State.swRequest_keeps (Sub.trans rfl hw)
    | with_reducible apply State.wrB_keeps (Sub.trans rfl hw)
    | with_reducible apply State.when_keeps (Sub.trans rfl hw)
    | with_reducible apply State.linkLost_keeps (Sub.trans rfl hw)
    | dsimp only [id]
    | lift_lets
    | with_reducible refine keeps_ite ?_ ?_)

theorem execLbist_keeps (d : Sys2Proof.Die) (s : State) :
    ∃ t_, execLbist d s = .next t_ ∧ Keeps 0x330ddcc s t_ := by
  have h := Keeps.refl 0x330ddcc s
  have hw := Sub.refl 0x330ddcc
  
  refine ⟨_, rfl, ?_⟩
  repeat' (first
    | with_reducible assumption
    | (intro t_; first | (with_reducible refine keeps_cut (w := w) (s := s0) (t := t_) ?_ ?_; intro ht_; rotate_left; dsimp -zeta only [t_]) | skip)
    | with_reducible apply State.guarded_keeps (Sub.trans rfl hw)
    | with_reducible apply State.lbist_keeps (Sub.trans rfl hw)
    | dsimp only [id]
    | lift_lets
    | with_reducible refine keeps_ite ?_ ?_)

theorem execLbistDone_keeps (d : Sys2Proof.Die) (pass : Bool) (s : State) :
    ∃ t_, execLbistDone d pass s = .next t_ ∧ Keeps 0x7ffffec s t_ := by
  have h := Keeps.refl 0x7ffffec s
  have hw := Sub.refl 0x7ffffec
  
  refine ⟨_, rfl, ?_⟩
  repeat' (first
    | with_reducible assumption
    | (intro t_; first | (with_reducible refine keeps_cut (w := w) (s := s0) (t := t_) ?_ ?_; intro ht_; rotate_left; dsimp -zeta only [t_]) | skip)
    | with_reducible apply State.when_keeps (Sub.trans rfl hw)
    | with_reducible apply State.lbistEnd_keeps (Sub.trans rfl hw)
    | dsimp only [id]
    | lift_lets
    | with_reducible refine keeps_ite ?_ ?_)

theorem State.extLoop_keeps {w : Nat} {s0 s : State} (hw : Sub 0x2100904 w) (h : Keeps w s0 s) (d : Nat) (port : Nat) :
    Keeps w s0 (State.extLoop s d port) := by
  unfold State.extLoop
  repeat' (first
    | with_reducible assumption
    | (intro t_; first | (with_reducible refine keeps_cut (w := w) (s := s0) (t := t_) ?_ ?_; intro ht_; rotate_left; dsimp -zeta only [t_]) | skip)
    | with_reducible apply State.swRequest_keeps (Sub.trans rfl hw)
    | with_reducible apply State.statBy_keeps (Sub.trans rfl hw)
    | with_reducible apply State.emit_keeps (Sub.trans rfl hw)
    | dsimp only [id]
    | lift_lets
    | with_reducible refine keeps_ite ?_ ?_)

theorem execExtLoop_keeps (d : Sys2Proof.Die) (port : BitVec 6) (s : State) :
    ∃ t_, execExtLoop d port s = .next t_ ∧ Keeps 0x2300904 s t_ := by
  have h := Keeps.refl 0x2300904 s
  have hw := Sub.refl 0x2300904
  
  refine ⟨_, rfl, ?_⟩
  repeat' (first
    | with_reducible assumption
    | (intro t_; first | (with_reducible refine keeps_cut (w := w) (s := s0) (t := t_) ?_ ?_; intro ht_; rotate_left; dsimp -zeta only [t_]) | skip)
    | with_reducible apply State.guarded_keeps (Sub.trans rfl hw)
    | with_reducible apply State.extLoop_keeps (Sub.trans rfl hw)
    | dsimp only [id]
    | lift_lets
    | with_reducible refine keeps_ite ?_ ?_)

theorem execExtLoopDone_keeps (d : Sys2Proof.Die) (received : Sys2Proof.Word) (errors : Sys2Proof.Word) (s : State) :
    ∃ t_, execExtLoopDone d received errors s = .next t_ ∧ Keeps 0x100904 s t_ := by
  have h := Keeps.refl 0x100904 s
  have hw := Sub.refl 0x100904
  
  refine ⟨_, rfl, ?_⟩
  repeat' (first
    | with_reducible assumption
    | (intro t_; first | (with_reducible refine keeps_cut (w := w) (s := s0) (t := t_) ?_ ?_; intro ht_; rotate_left; dsimp -zeta only [t_]) | skip)
    | with_reducible apply State.when_keeps (Sub.trans rfl hw)
    | with_reducible apply State.swEnd_keeps (Sub.trans rfl hw)
    | with_reducible apply State.statBy_keeps (Sub.trans rfl hw)
    | with_reducible apply State.wr_keeps (Sub.trans rfl hw)
    | dsimp only [id]
    | lift_lets
    | with_reducible refine keeps_ite ?_ ?_
    | split
    | (clear_value *; split))

theorem State.swWrite_keeps {w : Nat} {s0 s : State} (hw : Sub 0x330ddcc w) (h : Keeps w s0 s) (d : Nat) (v : Sys2Proof.Word) :
    Keeps w s0 (State.swWrite s d v) := by
  unfold State.swWrite
  repeat' (first
    | with_reducible assumption
    | (intro t_; first | (with_reducible refine keeps_cut (w := w) (s := s0) (t := t_) ?_ ?_; intro ht_; rotate_left; dsimp -zeta only [t_]) | skip)
    | with_reducible apply State.wr_keeps (Sub.trans rfl hw)
    | with_reducible apply State.bufBist_keeps (Sub.trans rfl hw)
    | with_reducible apply State.eyeScan_keeps (Sub.trans rfl hw)
    | with_reducible apply State.coilSwatch_keeps (Sub.trans rfl hw)
    | with_reducible apply State.tsCal_keeps (Sub.trans rfl hw)
    | with_reducible apply State.lbist_keeps (Sub.trans rfl hw)
    | with_reducible apply State.extLoop_keeps (Sub.trans rfl hw)
    | with_reducible apply State.swRequest_keeps (Sub.trans rfl hw)
    | dsimp only [id]
    | lift_lets
    | with_reducible refine keeps_ite ?_ ?_)

end Sys2Proof.Machine
end

