-- ==== Sys2Proof/Laws/Needle.lean ====
section
/-! SUPPORT. What the functions of Machine/Needle.lean keep, one lemma for each. -/

namespace Sys2Proof.Machine

theorem State.wrUid_keeps {w : Nat} {s0 s : State} (hw : Sub 0x4 w) (h : Keeps w s0 s) (lo : Nat) (hi : Nat) (u : Sys2Proof.Uid) :
    Keeps w s0 (State.wrUid s lo hi u) := by
  unfold State.wrUid
  repeat' (first
    | with_reducible assumption
    | (intro t_; first | (with_reducible refine keeps_cut (w := w) (s := s0) (t := t_) ?_ ?_; intro ht_; rotate_left; dsimp -zeta only [t_]) | skip)
    | with_reducible apply State.wr64_keeps (Sub.trans rfl hw)
    | lift_lets
    | with_reducible refine keeps_ite ?_ ?_)

theorem State.setNdl_keeps {w : Nat} {s0 s : State} (hw : Sub 0x4 w) (h : Keeps w s0 s) (u : Sys2Proof.Uid) :
    Keeps w s0 (State.setNdl s u) := by
  unfold State.setNdl
  repeat' (first
    | with_reducible assumption
    | (intro t_; first | (with_reducible refine keeps_cut (w := w) (s := s0) (t := t_) ?_ ?_; intro ht_; rotate_left; dsimp -zeta only [t_]) | skip)
    | with_reducible apply State.wrUid_keeps (Sub.trans rfl hw)
    | lift_lets
    | with_reducible refine keeps_ite ?_ ?_)

theorem State.setPeer_keeps {w : Nat} {s0 s : State} (hw : Sub 0x4 w) (h : Keeps w s0 s) (u : Sys2Proof.Uid) :
    Keeps w s0 (State.setPeer s u) := by
  unfold State.setPeer
  repeat' (first
    | with_reducible assumption
    | (intro t_; first | (with_reducible refine keeps_cut (w := w) (s := s0) (t := t_) ?_ ?_; intro ht_; rotate_left; dsimp -zeta only [t_]) | skip)
    | with_reducible apply State.wrUid_keeps (Sub.trans rfl hw)
    | lift_lets
    | with_reducible refine keeps_ite ?_ ?_)

theorem State.csCount_keeps {w : Nat} {s0 s : State} (hw : Sub 0x4 w) (h : Keeps w s0 s) (i : Nat) :
    Keeps w s0 (State.csCount s i) := by
  unfold State.csCount
  repeat' (first
    | with_reducible assumption
    | (intro t_; first | (with_reducible refine keeps_cut (w := w) (s := s0) (t := t_) ?_ ?_; intro ht_; rotate_left; dsimp -zeta only [t_]) | skip)
    | with_reducible apply State.countF_keeps (Sub.trans rfl hw)
    | lift_lets
    | with_reducible refine keeps_ite ?_ ?_)

theorem State.csMark_keeps {w : Nat} {s0 s : State} (hw : Sub 0x400 w) (h : Keeps w s0 s) :
    Keeps w s0 (State.csMark s) := by
  have b10 := Sub.bit (i := 10) hw rfl
  unfold State.csMark
  repeat' (first
    | with_reducible assumption
    | (intro t_; first | (with_reducible refine keeps_cut (w := w) (s := s0) (t := t_) ?_ ?_; intro ht_; rotate_left; dsimp -zeta only [t_]) | skip)
    | lift_lets
    | with_reducible refine keeps_ite ?_ ?_
    | with_reducible refine keeps_upd ?_ (fun x => x) (fun x => x) (.inr rfl) (.inr rfl) (.inr rfl) (.inr rfl) (.inr rfl) (.inr rfl) (.inr rfl) (.inr rfl) (.inl b10) (.inr rfl) (.inr rfl) (.inr rfl) (.inr rfl) (.inr rfl) (.inr rfl) (.inr rfl) (.inr rfl) (.inr rfl) (.inr rfl) (.inr rfl) (.inr rfl) (.inr rfl) (.inr rfl) (.inr rfl) (.inr rfl))

theorem State.evalOwn_keeps {w : Nat} {s0 s : State} (hw : Sub 0x4000 w) (h : Keeps w s0 s) :
    Keeps w s0 (State.evalOwn s) := by
  have b14 := Sub.bit (i := 14) hw rfl
  unfold State.evalOwn
  repeat' (first
    | with_reducible assumption
    | (intro t_; first | (with_reducible refine keeps_cut (w := w) (s := s0) (t := t_) ?_ ?_; intro ht_; rotate_left; dsimp -zeta only [t_]) | skip)
    | lift_lets
    | with_reducible refine keeps_ite ?_ ?_
    | with_reducible refine keeps_upd ?_ (fun x => x) (fun x => x) (.inr rfl) (.inr rfl) (.inr rfl) (.inr rfl) (.inr rfl) (.inr rfl) (.inr rfl) (.inr rfl) (.inr rfl) (.inr rfl) (.inr rfl) (.inr rfl) (.inl b14) (.inr rfl) (.inr rfl) (.inr rfl) (.inr rfl) (.inr rfl) (.inr rfl) (.inr rfl) (.inr rfl) (.inr rfl) (.inr rfl) (.inr rfl) (.inr rfl))

theorem State.granted_keeps {w : Nat} {s0 s : State} (hw : Sub 0x4104 w) (h : Keeps w s0 s) (sid : Nat) :
    Keeps w s0 (State.granted s sid) := by
  have b2 := Sub.bit (i := 2) hw rfl; have b8 := Sub.bit (i := 8) hw rfl; have b14 := Sub.bit (i := 14) hw rfl
  unfold State.granted
  repeat' (first
    | with_reducible assumption
    | (intro t_; first | (with_reducible refine keeps_cut (w := w) (s := s0) (t := t_) ?_ ?_; intro ht_; rotate_left; dsimp -zeta only [t_]) | skip)
    | with_reducible apply State.raiseSch_keeps (Sub.trans rfl hw)
    | with_reducible apply State.wrF_keeps (Sub.trans rfl hw)
    | lift_lets
    | with_reducible refine keeps_ite ?_ ?_
    | with_reducible refine keeps_upd ?_ (fun x => x) (fun x => x) (.inr rfl) (.inl b2) (.inr rfl) (.inr rfl) (.inr rfl) (.inr rfl) (.inl b8) (.inr rfl) (.inr rfl) (.inr rfl) (.inr rfl) (.inr rfl) (.inl b14) (.inr rfl) (.inr rfl) (.inr rfl) (.inr rfl) (.inr rfl) (.inr rfl) (.inr rfl) (.inr rfl) (.inr rfl) (.inr rfl) (.inr rfl) (.inr rfl))

theorem State.takeGrant_keeps {w : Nat} {s0 s : State} (hw : Sub 0x410c w) (h : Keeps w s0 s) (g : Sys2Proof.GrantSlot) :
    Keeps w s0 (State.takeGrant s g) := by
  have b2 := Sub.bit (i := 2) hw rfl; have b3 := Sub.bit (i := 3) hw rfl; have b8 := Sub.bit (i := 8) hw rfl; have b14 := Sub.bit (i := 14) hw rfl
  unfold State.takeGrant
  repeat' (first
    | with_reducible assumption
    | (intro t_; first | (with_reducible refine keeps_cut (w := w) (s := s0) (t := t_) ?_ ?_; intro ht_; rotate_left; dsimp -zeta only [t_]) | skip)
    | with_reducible apply State.setTb_keeps (Sub.trans rfl hw)
    | with_reducible apply State.granted_keeps (Sub.trans rfl hw)
    | lift_lets
    | with_reducible refine keeps_ite ?_ ?_
    | with_reducible refine keeps_upd ?_ (fun x => x) (fun x => x) (.inr rfl) (.inl b2) (.inl b3) (.inr rfl) (.inr rfl) (.inr rfl) (.inl b8) (.inr rfl) (.inr rfl) (.inr rfl) (.inr rfl) (.inr rfl) (.inl b14) (.inr rfl) (.inr rfl) (.inr rfl) (.inr rfl) (.inr rfl) (.inr rfl) (.inr rfl) (.inr rfl) (.inr rfl) (.inr rfl) (.inr rfl) (.inr rfl))

theorem State.judgeAsked_keeps {w : Nat} {s0 s : State} (hw : Sub 0x4004 w) (h : Keeps w s0 s) :
    Keeps w s0 (State.judgeAsked s) := by
  have b2 := Sub.bit (i := 2) hw rfl; have b14 := Sub.bit (i := 14) hw rfl
  unfold State.judgeAsked
  repeat' (first
    | with_reducible assumption
    | (intro t_; first | (with_reducible refine keeps_cut (w := w) (s := s0) (t := t_) ?_ ?_; intro ht_; rotate_left; dsimp -zeta only [t_]) | skip)
    | with_reducible apply State.countF_keeps (Sub.trans rfl hw)
    | lift_lets
    | with_reducible refine keeps_ite ?_ ?_
    | split
    | (clear_value *; split)
    | with_reducible refine keeps_upd ?_ (fun x => x) (fun x => x) (.inr rfl) (.inl b2) (.inr rfl) (.inr rfl) (.inr rfl) (.inr rfl) (.inr rfl) (.inr rfl) (.inr rfl) (.inr rfl) (.inr rfl) (.inr rfl) (.inl b14) (.inr rfl) (.inr rfl) (.inr rfl) (.inr rfl) (.inr rfl) (.inr rfl) (.inr rfl) (.inr rfl) (.inr rfl) (.inr rfl) (.inr rfl) (.inr rfl))

theorem State.announce_keeps {w : Nat} {s0 s : State} (hw : Sub 0x4104 w) (h : Keeps w s0 s) (br : Sys2Proof.Word) :
    Keeps w s0 (State.announce s br) := by
  have b2 := Sub.bit (i := 2) hw rfl; have b8 := Sub.bit (i := 8) hw rfl; have b14 := Sub.bit (i := 14) hw rfl
  unfold State.announce
  repeat' (first
    | with_reducible assumption
    | (intro t_; first | (with_reducible refine keeps_cut (w := w) (s := s0) (t := t_) ?_ ?_; intro ht_; rotate_left; dsimp -zeta only [t_]) | skip)
    | with_reducible apply State.raiseIna_keeps (Sub.trans rfl hw)
    | with_reducible apply State.wr_keeps (Sub.trans rfl hw)
    | with_reducible apply State.wrSchB_keeps (Sub.trans rfl hw)
    | with_reducible apply State.spanStart_keeps (Sub.trans rfl hw)
    | lift_lets
    | with_reducible refine keeps_ite ?_ ?_
    | with_reducible refine keeps_upd ?_ (fun x => x) (fun x => x) (.inr rfl) (.inl b2) (.inr rfl) (.inr rfl) (.inr rfl) (.inr rfl) (.inl b8) (.inr rfl) (.inr rfl) (.inr rfl) (.inr rfl) (.inr rfl) (.inl b14) (.inr rfl) (.inr rfl) (.inr rfl) (.inr rfl) (.inr rfl) (.inr rfl) (.inr rfl) (.inr rfl) (.inr rfl) (.inr rfl) (.inr rfl) (.inr rfl))

theorem State.hearSwap_keeps {w : Nat} {s0 s : State} (hw : Sub 0x404 w) (h : Keeps w s0 s) (b : Sys2Proof.RowStart) :
    Keeps w s0 (State.hearSwap s b) := by
  have b2 := Sub.bit (i := 2) hw rfl; have b10 := Sub.bit (i := 10) hw rfl
  unfold State.hearSwap
  repeat' (first
    | with_reducible assumption
    | (intro t_; first | (with_reducible refine keeps_cut (w := w) (s := s0) (t := t_) ?_ ?_; intro ht_; rotate_left; dsimp -zeta only [t_]) | skip)
    | with_reducible apply State.wrSchB_keeps (Sub.trans rfl hw)
    | with_reducible apply State.wrSchF_keeps (Sub.trans rfl hw)
    | lift_lets
    | with_reducible refine keeps_ite ?_ ?_
    | with_reducible refine keeps_upd ?_ (fun x => x) (fun x => x) (.inr rfl) (.inl b2) (.inr rfl) (.inr rfl) (.inr rfl) (.inr rfl) (.inr rfl) (.inr rfl) (.inl b10) (.inr rfl) (.inr rfl) (.inr rfl) (.inr rfl) (.inr rfl) (.inr rfl) (.inr rfl) (.inr rfl) (.inr rfl) (.inr rfl) (.inr rfl) (.inr rfl) (.inr rfl) (.inr rfl) (.inr rfl) (.inr rfl))

theorem State.freezeStep_keeps {w : Nat} {s0 s : State} (hw : Sub 0x4 w) (h : Keeps w s0 s) :
    Keeps w s0 (State.freezeStep s) := by
  unfold State.freezeStep
  repeat' (first
    | with_reducible assumption
    | (intro t_; first | (with_reducible refine keeps_cut (w := w) (s := s0) (t := t_) ?_ ?_; intro ht_; rotate_left; dsimp -zeta only [t_]) | skip)
    | with_reducible apply State.wrB_keeps (Sub.trans rfl hw)
    | lift_lets
    | with_reducible refine keeps_ite ?_ ?_)

theorem State.hearNoBlock_keeps {w : Nat} {s0 s : State} (hw : Sub 0x100450c w) (h : Keeps w s0 s) :
    Keeps w s0 (State.hearNoBlock s) := by
  have b2 := Sub.bit (i := 2) hw rfl; have b3 := Sub.bit (i := 3) hw rfl; have b8 := Sub.bit (i := 8) hw rfl; have b10 := Sub.bit (i := 10) hw rfl; have b14 := Sub.bit (i := 14) hw rfl; have b24 := Sub.bit (i := 24) hw rfl
  unfold State.hearNoBlock
  repeat' (first
    | with_reducible assumption
    | (intro t_; first | (with_reducible refine keeps_cut (w := w) (s := s0) (t := t_) ?_ ?_; intro ht_; rotate_left; dsimp -zeta only [t_]) | skip)
    | with_reducible apply State.frog_keeps (Sub.trans rfl hw)
    | with_reducible apply State.wrSchB_keeps (Sub.trans rfl hw)
    | with_reducible apply State.spanDrop_keeps (Sub.trans rfl hw)
    | lift_lets
    | with_reducible refine keeps_ite ?_ ?_
    | with_reducible refine keeps_upd ?_ (fun x => x) (fun x => x) (.inr rfl) (.inl b2) (.inl b3) (.inr rfl) (.inr rfl) (.inr rfl) (.inl b8) (.inr rfl) (.inl b10) (.inr rfl) (.inr rfl) (.inr rfl) (.inl b14) (.inr rfl) (.inr rfl) (.inr rfl) (.inr rfl) (.inr rfl) (.inr rfl) (.inr rfl) (.inr rfl) (.inr rfl) (.inl b24) (.inr rfl) (.inr rfl))

theorem State.hearBlock_keeps {w : Nat} {s0 s : State} (hw : Sub 0x100450c w) (h : Keeps w s0 s) (b : Sys2Proof.RowStart) :
    Keeps w s0 (State.hearBlock s b) := by
  have b2 := Sub.bit (i := 2) hw rfl; have b3 := Sub.bit (i := 3) hw rfl; have b8 := Sub.bit (i := 8) hw rfl; have b10 := Sub.bit (i := 10) hw rfl; have b14 := Sub.bit (i := 14) hw rfl; have b24 := Sub.bit (i := 24) hw rfl
  unfold State.hearBlock
  repeat' (first
    | with_reducible assumption
    | (intro t_; first | (with_reducible refine keeps_cut (w := w) (s := s0) (t := t_) ?_ ?_; intro ht_; rotate_left; dsimp -zeta only [t_]) | skip)
    | with_reducible apply State.wr_keeps (Sub.trans rfl hw)
    | with_reducible apply State.announce_keeps (Sub.trans rfl hw)
    | with_reducible apply State.freezeStep_keeps (Sub.trans rfl hw)
    | with_reducible apply State.hearNoBlock_keeps (Sub.trans rfl hw)
    | lift_lets
    | with_reducible refine keeps_ite ?_ ?_
    | with_reducible refine keeps_upd ?_ (fun x => x) (fun x => x) (.inr rfl) (.inl b2) (.inl b3) (.inr rfl) (.inr rfl) (.inr rfl) (.inl b8) (.inr rfl) (.inl b10) (.inr rfl) (.inr rfl) (.inr rfl) (.inl b14) (.inr rfl) (.inr rfl) (.inr rfl) (.inr rfl) (.inr rfl) (.inr rfl) (.inr rfl) (.inr rfl) (.inr rfl) (.inl b24) (.inr rfl) (.inr rfl))

theorem State.lateCommit_keeps {w : Nat} {s0 s : State} (hw : Sub 0x330fd4c w) (h : Keeps w s0 s) (topo : Sys2Proof.Word) :
    Keeps w s0 (State.lateCommit s topo) := by
  unfold State.lateCommit
  repeat' (first
    | with_reducible assumption
    | (intro t_; first | (with_reducible refine keeps_cut (w := w) (s := s0) (t := t_) ?_ ?_; intro ht_; rotate_left; dsimp -zeta only [t_]) | skip)
    | with_reducible apply State.raiseIna_keeps (Sub.trans rfl hw)
    | with_reducible apply State.blockNow_keeps (Sub.trans rfl hw)
    | lift_lets
    | with_reducible refine keeps_ite ?_ ?_)

theorem State.acceptRs_keeps {w : Nat} {s0 s : State} (hw : Sub 0x330fd4c w) (h : Keeps w s0 s) (x_h : Sys2Proof.Hdr) (b : Sys2Proof.RowStart) :
    Keeps w s0 (State.acceptRs s x_h b) := by
  have b2 := Sub.bit (i := 2) hw rfl; have b3 := Sub.bit (i := 3) hw rfl; have b6 := Sub.bit (i := 6) hw rfl; have b8 := Sub.bit (i := 8) hw rfl; have b10 := Sub.bit (i := 10) hw rfl; have b11 := Sub.bit (i := 11) hw rfl; have b12 := Sub.bit (i := 12) hw rfl; have b13 := Sub.bit (i := 13) hw rfl; have b14 := Sub.bit (i := 14) hw rfl; have b15 := Sub.bit (i := 15) hw rfl; have b20 := Sub.bit (i := 20) hw rfl; have b21 := Sub.bit (i := 21) hw rfl; have b24 := Sub.bit (i := 24) hw rfl; have b25 := Sub.bit (i := 25) hw rfl
  unfold State.acceptRs
  repeat' (first
    | with_reducible assumption
    | (intro t_; first | (with_reducible refine keeps_cut (w := w) (s := s0) (t := t_) ?_ ?_; intro ht_; rotate_left; dsimp -zeta only [t_]) | skip)
    | with_reducible apply State.wrSchB_keeps (Sub.trans rfl hw)
    | with_reducible apply State.hearBlock_keeps (Sub.trans rfl hw)
    | with_reducible apply State.hearSwap_keeps (Sub.trans rfl hw)
    | with_reducible apply State.lateCommit_keeps (Sub.trans rfl hw)
    | with_reducible apply State.judgeAsked_keeps (Sub.trans rfl hw)
    | with_reducible apply State.each_keeps (Sub.trans rfl hw)
    | with_reducible apply State.takeGrant_keeps (Sub.trans rfl hw)
    | lift_lets
    | with_reducible refine keeps_ite ?_ ?_
    | with_reducible refine keeps_upd ?_ (fun x => x) (fun x => x) (.inr rfl) (.inl b2) (.inl b3) (.inr rfl) (.inl b6) (.inr rfl) (.inl b8) (.inr rfl) (.inl b10) (.inl b11) (.inl b12) (.inl b13) (.inl b14) (.inl b15) (.inr rfl) (.inr rfl) (.inr rfl) (.inr rfl) (.inl b20) (.inl b21) (.inr rfl) (.inr rfl) (.inl b24) (.inl b25) (.inr rfl))

theorem State.adoptStep_keeps {w : Nat} {s0 s : State} (hw : Sub 0x104 w) (h : Keeps w s0 s) :
    Keeps w s0 (State.adoptStep s) := by
  unfold State.adoptStep
  repeat' (first
    | with_reducible assumption
    | (intro t_; first | (with_reducible refine keeps_cut (w := w) (s := s0) (t := t_) ?_ ?_; intro ht_; rotate_left; dsimp -zeta only [t_]) | skip)
    | with_reducible apply State.stepDomain_keeps (Sub.trans rfl hw)
    | lift_lets
    | with_reducible refine keeps_ite ?_ ?_)

theorem State.adoptRck_keeps {w : Nat} {s0 s : State} (hw : Sub 0x20184 w) (h : Keeps w s0 s) :
    Keeps w s0 (State.adoptRck s) := by
  have b2 := Sub.bit (i := 2) hw rfl; have b7 := Sub.bit (i := 7) hw rfl; have b8 := Sub.bit (i := 8) hw rfl; have b17 := Sub.bit (i := 17) hw rfl
  unfold State.adoptRck
  repeat' (first
    | with_reducible assumption
    | (intro t_; first | (with_reducible refine keeps_cut (w := w) (s := s0) (t := t_) ?_ ?_; intro ht_; rotate_left; dsimp -zeta only [t_]) | skip)
    | with_reducible apply State.setSt_keeps (Sub.trans rfl hw)
    | with_reducible apply State.evalRcks_keeps (Sub.trans rfl hw)
    | with_reducible apply State.when_keeps (Sub.trans rfl hw)
    | dsimp only [id]
    | lift_lets
    | with_reducible refine keeps_ite ?_ ?_
    | with_reducible refine keeps_fst_ite ?_ ?_
    | (with_reducible refine keeps_of_eq (by assumption) ?_)
    | with_reducible refine keeps_upd ?_ (fun x => x) (fun x => x) (.inr rfl) (.inl b2) (.inr rfl) (.inr rfl) (.inr rfl) (.inl b7) (.inl b8) (.inr rfl) (.inr rfl) (.inr rfl) (.inr rfl) (.inr rfl) (.inr rfl) (.inr rfl) (.inr rfl) (.inl b17) (.inr rfl) (.inr rfl) (.inr rfl) (.inr rfl) (.inr rfl) (.inr rfl) (.inr rfl) (.inr rfl) (.inr rfl))

theorem State.adoptTopo_keeps {w : Nat} {s0 s : State} (hw : Sub 0x4 w) (h : Keeps w s0 s) (topo : Sys2Proof.Word) :
    Keeps w s0 (State.adoptTopo s topo) := by
  unfold State.adoptTopo
  repeat' (first
    | with_reducible assumption
    | (intro t_; first | (with_reducible refine keeps_cut (w := w) (s := s0) (t := t_) ?_ ?_; intro ht_; rotate_left; dsimp -zeta only [t_]) | skip)
    | with_reducible apply State.wr_keeps (Sub.trans rfl hw)
    | lift_lets
    | with_reducible refine keeps_ite ?_ ?_)

theorem State.setProfile_keeps {w : Nat} {s0 s : State} (hw : Sub 0xc w) (h : Keeps w s0 s) (p : Nat) :
    Keeps w s0 (State.setProfile s p) := by
  unfold State.setProfile
  repeat' (first
    | with_reducible assumption
    | (intro t_; first | (with_reducible refine keeps_cut (w := w) (s := s0) (t := t_) ?_ ?_; intro ht_; rotate_left; dsimp -zeta only [t_]) | skip)
    | with_reducible apply State.loadGuards_keeps (Sub.trans rfl hw)
    | with_reducible apply State.wrSchF_keeps (Sub.trans rfl hw)
    | lift_lets
    | with_reducible refine keeps_ite ?_ ?_)

theorem State.adoptRow_keeps {w : Nat} {s0 s : State} (hw : Sub 0x450c w) (h : Keeps w s0 s) (x_h : Sys2Proof.Hdr) (b : Sys2Proof.RowStart) :
    Keeps w s0 (State.adoptRow s x_h b) := by
  have b2 := Sub.bit (i := 2) hw rfl; have b3 := Sub.bit (i := 3) hw rfl; have b8 := Sub.bit (i := 8) hw rfl; have b10 := Sub.bit (i := 10) hw rfl; have b14 := Sub.bit (i := 14) hw rfl
  unfold State.adoptRow
  repeat' (first
    | with_reducible assumption
    | (intro t_; first | (with_reducible refine keeps_cut (w := w) (s := s0) (t := t_) ?_ ?_; intro ht_; rotate_left; dsimp -zeta only [t_]) | skip)
    | with_reducible apply State.setProfile_keeps (Sub.trans rfl hw)
    | with_reducible apply State.wrSch_keeps (Sub.trans rfl hw)
    | with_reducible apply State.spanDrop_keeps (Sub.trans rfl hw)
    | with_reducible apply State.wrSchB_keeps (Sub.trans rfl hw)
    | lift_lets
    | with_reducible refine keeps_ite ?_ ?_
    | with_reducible refine keeps_fst_ite ?_ ?_
    | (with_reducible refine keeps_of_eq (by assumption) ?_)
    | with_reducible refine keeps_upd ?_ (fun x => x) (fun x => x) (.inr rfl) (.inl b2) (.inl b3) (.inr rfl) (.inr rfl) (.inr rfl) (.inl b8) (.inr rfl) (.inl b10) (.inr rfl) (.inr rfl) (.inr rfl) (.inl b14) (.inr rfl) (.inr rfl) (.inr rfl) (.inr rfl) (.inr rfl) (.inr rfl) (.inr rfl) (.inr rfl) (.inr rfl) (.inr rfl) (.inr rfl) (.inr rfl))

theorem State.adopt_keeps {w : Nat} {s0 s : State} (hw : Sub 0x33efdcc w) (h : Keeps w s0 s) (x_h : Sys2Proof.Hdr) (b : Sys2Proof.RowStart) :
    Keeps w s0 (State.adopt s x_h b) := by
  unfold State.adopt
  repeat' (first
    | with_reducible assumption
    | (intro t_; first | (with_reducible refine keeps_cut (w := w) (s := s0) (t := t_) ?_ ?_; intro ht_; rotate_left; dsimp -zeta only [t_]) | skip)
    | with_reducible apply State.setNdl_keeps (Sub.trans rfl hw)
    | with_reducible apply State.adoptTopo_keeps (Sub.trans rfl hw)
    | with_reducible apply State.adoptRow_keeps (Sub.trans rfl hw)
    | with_reducible apply State.adoptRck_keeps (Sub.trans rfl hw)
    | with_reducible apply State.adoptStep_keeps (Sub.trans rfl hw)
    | with_reducible apply State.setCs_keeps (Sub.trans rfl hw)
    | with_reducible apply State.mvbRecheck_keeps (Sub.trans rfl hw)
    | with_reducible apply State.acceptRs_keeps (Sub.trans rfl hw)
    | with_reducible apply State.mvbRowsStart_keeps (Sub.trans rfl hw)
    | with_reducible apply State.csMark_keeps (Sub.trans rfl hw)
    | with_reducible apply State.mute_keeps (Sub.trans rfl hw)
    | lift_lets
    | with_reducible refine keeps_ite ?_ ?_)

theorem State.csYield_keeps {w : Nat} {s0 s : State} (hw : Sub 0x104 w) (h : Keeps w s0 s) :
    Keeps w s0 (State.csYield s) := by
  unfold State.csYield
  repeat' (first
    | with_reducible assumption
    | (intro t_; first | (with_reducible refine keeps_cut (w := w) (s := s0) (t := t_) ?_ ?_; intro ht_; rotate_left; dsimp -zeta only [t_]) | skip)
    | with_reducible apply State.csCount_keeps (Sub.trans rfl hw)
    | with_reducible apply State.raiseSch_keeps (Sub.trans rfl hw)
    | lift_lets
    | with_reducible refine keeps_ite ?_ ?_)

theorem State.rsBad_keeps {w : Nat} {s0 s : State} (hw : Sub 0x104 w) (h : Keeps w s0 s) :
    Keeps w s0 (State.rsBad s) := by
  unfold State.rsBad
  repeat' (first
    | with_reducible assumption
    | (intro t_; first | (with_reducible refine keeps_cut (w := w) (s := s0) (t := t_) ?_ ?_; intro ht_; rotate_left; dsimp -zeta only [t_]) | skip)
    | with_reducible apply State.raiseSch_keeps (Sub.trans rfl hw)
    | with_reducible apply State.count_keeps (Sub.trans rfl hw)
    | lift_lets
    | with_reducible refine keeps_ite ?_ ?_)

theorem State.takeHold_keeps {w : Nat} {s0 s : State} (hw : Sub 0x3308d44 w) (h : Keeps w s0 s) (hold : Bool) :
    Keeps w s0 (State.takeHold s hold) := by
  have b2 := Sub.bit (i := 2) hw rfl; have b6 := Sub.bit (i := 6) hw rfl; have b8 := Sub.bit (i := 8) hw rfl; have b10 := Sub.bit (i := 10) hw rfl; have b11 := Sub.bit (i := 11) hw rfl; have b15 := Sub.bit (i := 15) hw rfl; have b20 := Sub.bit (i := 20) hw rfl; have b21 := Sub.bit (i := 21) hw rfl; have b24 := Sub.bit (i := 24) hw rfl; have b25 := Sub.bit (i := 25) hw rfl
  unfold State.takeHold
  repeat' (first
    | with_reducible assumption
    | (intro t_; first | (with_reducible refine keeps_cut (w := w) (s := s0) (t := t_) ?_ ?_; intro ht_; rotate_left; dsimp -zeta only [t_]) | skip)
    | with_reducible apply State.csMark_keeps (Sub.trans rfl hw)
    | with_reducible apply State.setCs_keeps (Sub.trans rfl hw)
    | with_reducible apply State.toHealing_keeps (Sub.trans rfl hw)
    | lift_lets
    | with_reducible refine keeps_ite ?_ ?_
    | with_reducible refine keeps_upd ?_ (fun x => x) (fun x => x) (.inr rfl) (.inl b2) (.inr rfl) (.inr rfl) (.inl b6) (.inr rfl) (.inl b8) (.inr rfl) (.inl b10) (.inl b11) (.inr rfl) (.inr rfl) (.inr rfl) (.inl b15) (.inr rfl) (.inr rfl) (.inr rfl) (.inr rfl) (.inl b20) (.inl b21) (.inr rfl) (.inr rfl) (.inl b24) (.inl b25) (.inr rfl))

theorem State.mismatch_keeps {w : Nat} {s0 s : State} (hw : Sub 0x100450c w) (h : Keeps w s0 s) (x_h : Sys2Proof.Hdr) :
    Keeps w s0 (State.mismatch s x_h) := by
  unfold State.mismatch
  repeat' (first
    | with_reducible assumption
    | (intro t_; first | (with_reducible refine keeps_cut (w := w) (s := s0) (t := t_) ?_ ?_; intro ht_; rotate_left; dsimp -zeta only [t_]) | skip)
    | with_reducible apply State.frog_keeps (Sub.trans rfl hw)
    | with_reducible apply State.raiseIna_keeps (Sub.trans rfl hw)
    | lift_lets
    | with_reducible refine keeps_ite ?_ ?_)

theorem State.adoptProfile_keeps {w : Nat} {s0 s : State} (hw : Sub 0x50c w) (h : Keeps w s0 s) (p : Nat) :
    Keeps w s0 (State.adoptProfile s p) := by
  have b2 := Sub.bit (i := 2) hw rfl; have b3 := Sub.bit (i := 3) hw rfl; have b8 := Sub.bit (i := 8) hw rfl; have b10 := Sub.bit (i := 10) hw rfl
  unfold State.adoptProfile
  repeat' (first
    | with_reducible assumption
    | (intro t_; first | (with_reducible refine keeps_cut (w := w) (s := s0) (t := t_) ?_ ?_; intro ht_; rotate_left; dsimp -zeta only [t_]) | skip)
    | with_reducible apply State.raiseSch_keeps (Sub.trans rfl hw)
    | with_reducible apply State.setProfile_keeps (Sub.trans rfl hw)
    | lift_lets
    | with_reducible refine keeps_ite ?_ ?_
    | with_reducible refine keeps_upd ?_ (fun x => x) (fun x => x) (.inr rfl) (.inl b2) (.inl b3) (.inr rfl) (.inr rfl) (.inr rfl) (.inl b8) (.inr rfl) (.inl b10) (.inr rfl) (.inr rfl) (.inr rfl) (.inr rfl) (.inr rfl) (.inr rfl) (.inr rfl) (.inr rfl) (.inr rfl) (.inr rfl) (.inr rfl) (.inr rfl) (.inr rfl) (.inr rfl) (.inr rfl) (.inr rfl))

theorem State.memberRs_keeps {w : Nat} {s0 s : State} (hw : Sub 0x33cfd4c w) (h : Keeps w s0 s) (x_h : Sys2Proof.Hdr) (b : Sys2Proof.RowStart) :
    Keeps w s0 (State.memberRs s x_h b) := by
  unfold State.memberRs
  repeat' (first
    | with_reducible assumption
    | (intro t_; first | (with_reducible refine keeps_cut (w := w) (s := s0) (t := t_) ?_ ?_; intro ht_; rotate_left; dsimp -zeta only [t_]) | skip)
    | with_reducible apply State.takeHold_keeps (Sub.trans rfl hw)
    | with_reducible apply State.mvbRecheck_keeps (Sub.trans rfl hw)
    | with_reducible apply State.acceptRs_keeps (Sub.trans rfl hw)
    | with_reducible apply State.adoptProfile_keeps (Sub.trans rfl hw)
    | with_reducible apply State.mismatch_keeps (Sub.trans rfl hw)
    | with_reducible apply State.rsBad_keeps (Sub.trans rfl hw)
    | lift_lets
    | with_reducible refine keeps_ite ?_ ?_)

theorem State.dropPhase_keeps {w : Nat} {s0 s : State} (hw : Sub 0x1030404 w) (h : Keeps w s0 s) :
    Keeps w s0 (State.dropPhase s) := by
  have b2 := Sub.bit (i := 2) hw rfl; have b10 := Sub.bit (i := 10) hw rfl; have b16 := Sub.bit (i := 16) hw rfl; have b17 := Sub.bit (i := 17) hw rfl; have b24 := Sub.bit (i := 24) hw rfl
  unfold State.dropPhase
  repeat' (first
    | with_reducible assumption
    | (intro t_; first | (with_reducible refine keeps_cut (w := w) (s := s0) (t := t_) ?_ ?_; intro ht_; rotate_left; dsimp -zeta only [t_]) | skip)
    | with_reducible apply State.csMark_keeps (Sub.trans rfl hw)
    | with_reducible apply State.setCs_keeps (Sub.trans rfl hw)
    | with_reducible apply State.stopRows_keeps (Sub.trans rfl hw)
    | lift_lets
    | with_reducible refine keeps_ite ?_ ?_
    | with_reducible refine keeps_upd ?_ (fun x => x) (fun x => x) (.inr rfl) (.inl b2) (.inr rfl) (.inr rfl) (.inr rfl) (.inr rfl) (.inr rfl) (.inr rfl) (.inl b10) (.inr rfl) (.inr rfl) (.inr rfl) (.inr rfl) (.inr rfl) (.inl b16) (.inl b17) (.inr rfl) (.inr rfl) (.inr rfl) (.inr rfl) (.inr rfl) (.inr rfl) (.inl b24) (.inr rfl) (.inr rfl))

theorem State.verifyRs_keeps {w : Nat} {s0 s : State} (hw : Sub 0x333fd4c w) (h : Keeps w s0 s) (sof : Sys2Proof.Word) (x_h : Sys2Proof.Hdr) (b : Sys2Proof.RowStart) :
    Keeps w s0 (State.verifyRs s sof x_h b) := by
  unfold State.verifyRs
  repeat' (first
    | with_reducible assumption
    | (intro t_; first | (with_reducible refine keeps_cut (w := w) (s := s0) (t := t_) ?_ ?_; intro ht_; rotate_left; dsimp -zeta only [t_]) | skip)
    | with_reducible apply State.dropPhase_keeps (Sub.trans rfl hw)
    | with_reducible apply State.rsBad_keeps (Sub.trans rfl hw)
    | with_reducible apply State.standbyIfHeld_keeps (Sub.trans rfl hw)
    | with_reducible apply State.raiseSch_keeps (Sub.trans rfl hw)
    | with_reducible apply State.setCs_keeps (Sub.trans rfl hw)
    | with_reducible apply State.acceptRs_keeps (Sub.trans rfl hw)
    | with_reducible apply State.adoptProfile_keeps (Sub.trans rfl hw)
    | lift_lets
    | with_reducible refine keeps_ite ?_ ?_)

theorem State.rsMachine_keeps {w : Nat} {s0 s : State} (hw : Sub 0x33ffdcc w) (h : Keeps w s0 s) (sof : Sys2Proof.Word) (x_h : Sys2Proof.Hdr) (b : Sys2Proof.RowStart) :
    Keeps w s0 (State.rsMachine s sof x_h b) := by
  unfold State.rsMachine
  repeat' (first
    | with_reducible assumption
    | (intro t_; first | (with_reducible refine keeps_cut (w := w) (s := s0) (t := t_) ?_ ?_; intro ht_; rotate_left; dsimp -zeta only [t_]) | skip)
    | with_reducible apply State.memberRs_keeps (Sub.trans rfl hw)
    | with_reducible apply State.verifyRs_keeps (Sub.trans rfl hw)
    | with_reducible apply State.adopt_keeps (Sub.trans rfl hw)
    | with_reducible apply State.csYield_keeps (Sub.trans rfl hw)
    | with_reducible apply State.csMark_keeps (Sub.trans rfl hw)
    | with_reducible apply State.raiseSch_keeps (Sub.trans rfl hw)
    | with_reducible apply State.rsBad_keeps (Sub.trans rfl hw)
    | lift_lets
    | with_reducible refine keeps_ite ?_ ?_)

theorem State.rsTiming_keeps {w : Nat} {s0 s : State} (hw : Sub 0x100004 w) (h : Keeps w s0 s) (rx : Sys2Proof.Rx) (x_h : Sys2Proof.Hdr) :
    Keeps w s0 (State.rsTiming s rx x_h).1 := by
  unfold State.rsTiming
  repeat' (first
    | with_reducible assumption
    | (intro t_; first | (with_reducible refine keeps_cut (w := w) (s := s0) (t := t_) ?_ ?_; intro ht_; rotate_left; dsimp -zeta only [t_]) | skip)
    | with_reducible apply State.hopCount_keeps (Sub.trans rfl hw)
    | lift_lets
    | with_reducible refine keeps_ite ?_ ?_
    | split
    | (clear_value *; split)
    | with_reducible refine keeps_fst_ite ?_ ?_
    | (with_reducible refine keeps_of_eq (by assumption) ?_)
    | dsimp -zeta only)

theorem State.noteRelayed_keeps {w : Nat} {s0 s : State} (hw : Sub 0x1000 w) (h : Keeps w s0 s) (p : Nat) (x_h : Sys2Proof.Hdr) (b : Sys2Proof.RowStart) :
    Keeps w s0 (State.noteRelayed s p x_h b) := by
  have b12 := Sub.bit (i := 12) hw rfl
  unfold State.noteRelayed
  repeat' (first
    | with_reducible assumption
    | (intro t_; first | (with_reducible refine keeps_cut (w := w) (s := s0) (t := t_) ?_ ?_; intro ht_; rotate_left; dsimp -zeta only [t_]) | skip)
    | lift_lets
    | with_reducible refine keeps_ite ?_ ?_
    | with_reducible refine keeps_fst_ite ?_ ?_
    | (with_reducible refine keeps_of_eq (by assumption) ?_)
    | with_reducible refine keeps_upd ?_ (fun x => x) (fun x => x) (.inr rfl) (.inr rfl) (.inr rfl) (.inr rfl) (.inr rfl) (.inr rfl) (.inr rfl) (.inr rfl) (.inr rfl) (.inr rfl) (.inl b12) (.inr rfl) (.inr rfl) (.inr rfl) (.inr rfl) (.inr rfl) (.inr rfl) (.inr rfl) (.inr rfl) (.inr rfl) (.inr rfl) (.inr rfl) (.inr rfl) (.inr rfl) (.inr rfl))

theorem State.rsRelay_keeps {w : Nat} {s0 s : State} (hw : Sub 0x7bffdcc w) (h : Keeps w s0 s) (rx : Sys2Proof.Rx) (x_h : Sys2Proof.Hdr) (b : Sys2Proof.RowStart) (y4 : Sys2Proof.Machine.Verdict) (y5 : Sys2Proof.Machine.Arrival) :
    Keeps w s0 (State.rsRelay s rx x_h b y4 y5) := by
  unfold State.rsRelay
  repeat' (first
    | with_reducible assumption
    | (intro t_; first | (with_reducible refine keeps_cut (w := w) (s := s0) (t := t_) ?_ ?_; intro ht_; rotate_left; dsimp -zeta only [t_]) | skip)
    | with_reducible apply State.endBad_keeps (Sub.trans rfl hw)
    | with_reducible apply State.relayBad_keeps (Sub.trans rfl hw)
    | with_reducible apply State.relay_keeps (Sub.trans rfl hw)
    | with_reducible apply State.noteRelayed_keeps (Sub.trans rfl hw)
    | with_reducible apply State.rsMachine_keeps (Sub.trans rfl hw)
    | lift_lets
    | with_reducible refine keeps_ite ?_ ?_
    | split
    | (clear_value *; split))

theorem execRowStartRx_keeps (rx : Sys2Proof.Rx) (x_h : Sys2Proof.Hdr) (b : Sys2Proof.RowStart) (s : State) :
    ∃ t_, execRowStartRx rx x_h b s = .next t_ ∧ Keeps 0x7bffdcc s t_ := by
  have h := Keeps.refl 0x7bffdcc s
  have hw := Sub.refl 0x7bffdcc
  
  refine ⟨_, rfl, ?_⟩
  repeat' (first
    | with_reducible assumption
    | (intro t_; first | (with_reducible refine keeps_cut (w := w) (s := s0) (t := t_) ?_ ?_; intro ht_; rotate_left; dsimp -zeta only [t_]) | skip)
    | with_reducible apply State.onArrival_keeps (Sub.trans rfl hw)
    | with_reducible apply State.takeSl_keeps (Sub.trans rfl hw)
    | with_reducible apply State.strip_keeps (Sub.trans rfl hw)
    | with_reducible apply State.rsTiming_keeps (Sub.trans rfl hw)
    | with_reducible apply State.rsRelay_keeps (Sub.trans rfl hw)
    | lift_lets
    | with_reducible refine keeps_ite ?_ ?_
    | with_reducible refine keeps_fst_ite ?_ ?_
    | (with_reducible refine keeps_of_eq (by assumption) ?_))

theorem State.ownRs_keeps {w : Nat} {s0 s : State} (hw : Sub 0x4404 w) (h : Keeps w s0 s) (b : Sys2Proof.RowStart) :
    Keeps w s0 (State.ownRs s b) := by
  have b2 := Sub.bit (i := 2) hw rfl; have b10 := Sub.bit (i := 10) hw rfl; have b14 := Sub.bit (i := 14) hw rfl
  unfold State.ownRs
  repeat' (first
    | with_reducible assumption
    | (intro t_; first | (with_reducible refine keeps_cut (w := w) (s := s0) (t := t_) ?_ ?_; intro ht_; rotate_left; dsimp -zeta only [t_]) | skip)
    | with_reducible apply State.wrSchB_keeps (Sub.trans rfl hw)
    | lift_lets
    | with_reducible refine keeps_ite ?_ ?_
    | with_reducible refine keeps_upd ?_ (fun x => x) (fun x => x) (.inr rfl) (.inl b2) (.inr rfl) (.inr rfl) (.inr rfl) (.inr rfl) (.inr rfl) (.inr rfl) (.inl b10) (.inr rfl) (.inr rfl) (.inr rfl) (.inl b14) (.inr rfl) (.inr rfl) (.inr rfl) (.inr rfl) (.inr rfl) (.inr rfl) (.inr rfl) (.inr rfl) (.inr rfl) (.inr rfl) (.inr rfl) (.inr rfl))

theorem State.sendRs_keeps {w : Nat} {s0 s : State} (hw : Sub 0x6924504 w) (h : Keeps w s0 s) (sl : Nat) :
    Keeps w s0 (State.sendRs s sl) := by
  unfold State.sendRs
  repeat' (first
    | with_reducible assumption
    | (intro t_; first | (with_reducible refine keeps_cut (w := w) (s := s0) (t := t_) ?_ ?_; intro ht_; rotate_left; dsimp -zeta only [t_]) | skip)
    | with_reducible apply State.each_keeps (Sub.trans rfl hw)
    | with_reducible apply State.meet_keeps (Sub.trans rfl hw)
    | with_reducible apply State.passGuard_keeps (Sub.trans rfl hw)
    | with_reducible apply State.ownRs_keeps (Sub.trans rfl hw)
    | with_reducible apply State.sendCoupling_keeps (Sub.trans rfl hw)
    | lift_lets
    | with_reducible refine keeps_ite ?_ ?_)

theorem execRowStartSend_keeps (s : State) :
    ∃ t_, execRowStartSend s = .next t_ ∧ Keeps 0x7924584 s t_ := by
  have h := Keeps.refl 0x7924584 s
  have hw := Sub.refl 0x7924584
  
  refine ⟨_, rfl, ?_⟩
  repeat' (first
    | with_reducible assumption
    | (intro t_; first | (with_reducible refine keeps_cut (w := w) (s := s0) (t := t_) ?_ ?_; intro ht_; rotate_left; dsimp -zeta only [t_]) | skip)
    | with_reducible apply State.when_keeps (Sub.trans rfl hw)
    | with_reducible apply State.sendRs_keeps (Sub.trans rfl hw)
    | with_reducible apply State.reachSt_keeps (Sub.trans rfl hw)
    | dsimp only [id]
    | lift_lets
    | with_reducible refine keeps_ite ?_ ?_
    | split
    | (clear_value *; split))

theorem State.loseRows_keeps {w : Nat} {s0 s : State} (hw : Sub 0x333adcc w) (h : Keeps w s0 s) :
    Keeps w s0 (State.loseRows s) := by
  unfold State.loseRows
  repeat' (first
    | with_reducible assumption
    | (intro t_; first | (with_reducible refine keeps_cut (w := w) (s := s0) (t := t_) ?_ ?_; intro ht_; rotate_left; dsimp -zeta only [t_]) | skip)
    | with_reducible apply State.enterCastOn_keeps (Sub.trans rfl hw)
    | with_reducible apply State.setMode_keeps (Sub.trans rfl hw)
    | with_reducible apply State.enterListen_keeps (Sub.trans rfl hw)
    | with_reducible apply State.stopRows_keeps (Sub.trans rfl hw)
    | lift_lets
    | with_reducible refine keeps_ite ?_ ?_)

theorem execRowStartLoss_keeps (s : State) :
    ∃ t_, execRowStartLoss s = .next t_ ∧ Keeps 0x333adcc s t_ := by
  have h := Keeps.refl 0x333adcc s
  have hw := Sub.refl 0x333adcc
  
  refine ⟨_, rfl, ?_⟩
  repeat' (first
    | with_reducible assumption
    | (intro t_; first | (with_reducible refine keeps_cut (w := w) (s := s0) (t := t_) ?_ ?_; intro ht_; rotate_left; dsimp -zeta only [t_]) | skip)
    | with_reducible apply State.when_keeps (Sub.trans rfl hw)
    | with_reducible apply State.loseRows_keeps (Sub.trans rfl hw)
    | with_reducible apply State.count_keeps (Sub.trans rfl hw)
    | dsimp only [id]
    | lift_lets
    | with_reducible refine keeps_ite ?_ ?_)

theorem State.sendCs_keeps {w : Nat} {s0 s : State} (hw : Sub 0x6920104 w) (h : Keeps w s0 s) (k : Sys2Proof.CsKind) (st : Sys2Proof.Word) (winner : Sys2Proof.Uid) :
    Keeps w s0 (State.sendCs s k st winner) := by
  unfold State.sendCs
  repeat' (first
    | with_reducible assumption
    | (intro t_; first | (with_reducible refine keeps_cut (w := w) (s := s0) (t := t_) ?_ ?_; intro ht_; rotate_left; dsimp -zeta only [t_]) | skip)
    | with_reducible apply State.sendRing_keeps (Sub.trans rfl hw)
    | lift_lets
    | with_reducible refine keeps_ite ?_ ?_)

theorem State.follow_keeps {w : Nat} {s0 s : State} (hw : Sub 0x404 w) (h : Keeps w s0 s) (u : Sys2Proof.Uid) :
    Keeps w s0 (State.follow s u) := by
  have b2 := Sub.bit (i := 2) hw rfl; have b10 := Sub.bit (i := 10) hw rfl
  unfold State.follow
  repeat' (first
    | with_reducible assumption
    | (intro t_; first | (with_reducible refine keeps_cut (w := w) (s := s0) (t := t_) ?_ ?_; intro ht_; rotate_left; dsimp -zeta only [t_]) | skip)
    | with_reducible apply State.csMark_keeps (Sub.trans rfl hw)
    | with_reducible apply State.setCs_keeps (Sub.trans rfl hw)
    | with_reducible apply State.setNdl_keeps (Sub.trans rfl hw)
    | lift_lets
    | with_reducible refine keeps_ite ?_ ?_
    | with_reducible refine keeps_upd ?_ (fun x => x) (fun x => x) (.inr rfl) (.inl b2) (.inr rfl) (.inr rfl) (.inr rfl) (.inr rfl) (.inr rfl) (.inr rfl) (.inl b10) (.inr rfl) (.inr rfl) (.inr rfl) (.inr rfl) (.inr rfl) (.inr rfl) (.inr rfl) (.inr rfl) (.inr rfl) (.inr rfl) (.inr rfl) (.inr rfl) (.inr rfl) (.inr rfl) (.inr rfl) (.inr rfl))

theorem State.meetNeedle_keeps {w : Nat} {s0 s : State} (hw : Sub 0x104 w) (h : Keeps w s0 s) (u : Sys2Proof.Uid) :
    Keeps w s0 (State.meetNeedle s u) := by
  unfold State.meetNeedle
  repeat' (first
    | with_reducible assumption
    | (intro t_; first | (with_reducible refine keeps_cut (w := w) (s := s0) (t := t_) ?_ ?_; intro ht_; rotate_left; dsimp -zeta only [t_]) | skip)
    | with_reducible apply State.setPeer_keeps (Sub.trans rfl hw)
    | with_reducible apply State.csCount_keeps (Sub.trans rfl hw)
    | with_reducible apply State.raiseSch_keeps (Sub.trans rfl hw)
    | lift_lets
    | with_reducible refine keeps_ite ?_ ?_)

theorem State.hearNeedle_keeps {w : Nat} {s0 s : State} (hw : Sub 0x504 w) (h : Keeps w s0 s) (u : Sys2Proof.Uid) :
    Keeps w s0 (State.hearNeedle s u) := by
  have b2 := Sub.bit (i := 2) hw rfl; have b8 := Sub.bit (i := 8) hw rfl; have b10 := Sub.bit (i := 10) hw rfl
  unfold State.hearNeedle
  repeat' (first
    | with_reducible assumption
    | (intro t_; first | (with_reducible refine keeps_cut (w := w) (s := s0) (t := t_) ?_ ?_; intro ht_; rotate_left; dsimp -zeta only [t_]) | skip)
    | with_reducible apply State.setNdl_keeps (Sub.trans rfl hw)
    | with_reducible apply State.meetNeedle_keeps (Sub.trans rfl hw)
    | lift_lets
    | with_reducible refine keeps_ite ?_ ?_
    | with_reducible refine keeps_upd ?_ (fun x => x) (fun x => x) (.inr rfl) (.inl b2) (.inr rfl) (.inr rfl) (.inr rfl) (.inr rfl) (.inl b8) (.inr rfl) (.inl b10) (.inr rfl) (.inr rfl) (.inr rfl) (.inr rfl) (.inr rfl) (.inr rfl) (.inr rfl) (.inr rfl) (.inr rfl) (.inr rfl) (.inr rfl) (.inr rfl) (.inr rfl) (.inr rfl) (.inr rfl) (.inr rfl))

theorem State.csWin_keeps {w : Nat} {s0 s : State} (hw : Sub 0x6920504 w) (h : Keeps w s0 s) (u : Sys2Proof.Uid) :
    Keeps w s0 (State.csWin s u) := by
  have b2 := Sub.bit (i := 2) hw rfl; have b8 := Sub.bit (i := 8) hw rfl; have b10 := Sub.bit (i := 10) hw rfl; have b17 := Sub.bit (i := 17) hw rfl; have b20 := Sub.bit (i := 20) hw rfl; have b23 := Sub.bit (i := 23) hw rfl; have b25 := Sub.bit (i := 25) hw rfl; have b26 := Sub.bit (i := 26) hw rfl
  unfold State.csWin
  repeat' (first
    | with_reducible assumption
    | (intro t_; first | (with_reducible refine keeps_cut (w := w) (s := s0) (t := t_) ?_ ?_; intro ht_; rotate_left; dsimp -zeta only [t_]) | skip)
    | with_reducible apply State.csMark_keeps (Sub.trans rfl hw)
    | with_reducible apply State.setCs_keeps (Sub.trans rfl hw)
    | with_reducible apply State.setPeer_keeps (Sub.trans rfl hw)
    | with_reducible apply State.csCount_keeps (Sub.trans rfl hw)
    | with_reducible apply State.raiseSch_keeps (Sub.trans rfl hw)
    | with_reducible apply State.sendCs_keeps (Sub.trans rfl hw)
    | lift_lets
    | with_reducible refine keeps_ite ?_ ?_
    | with_reducible refine keeps_upd ?_ (fun x => x) (fun x => x) (.inr rfl) (.inl b2) (.inr rfl) (.inr rfl) (.inr rfl) (.inr rfl) (.inl b8) (.inr rfl) (.inl b10) (.inr rfl) (.inr rfl) (.inr rfl) (.inr rfl) (.inr rfl) (.inr rfl) (.inl b17) (.inr rfl) (.inr rfl) (.inl b20) (.inr rfl) (.inr rfl) (.inl b23) (.inr rfl) (.inl b25) (.inl b26))

theorem State.csMachine_keeps {w : Nat} {s0 s : State} (hw : Sub 0x6920504 w) (h : Keeps w s0 s) (b : Sys2Proof.ColdStart) :
    Keeps w s0 (State.csMachine s b) := by
  unfold State.csMachine
  repeat' (first
    | with_reducible assumption
    | (intro t_; first | (with_reducible refine keeps_cut (w := w) (s := s0) (t := t_) ?_ ?_; intro ht_; rotate_left; dsimp -zeta only [t_]) | skip)
    | with_reducible apply State.meetNeedle_keeps (Sub.trans rfl hw)
    | with_reducible apply State.follow_keeps (Sub.trans rfl hw)
    | with_reducible apply State.setPeer_keeps (Sub.trans rfl hw)
    | with_reducible apply State.csYield_keeps (Sub.trans rfl hw)
    | with_reducible apply State.csWin_keeps (Sub.trans rfl hw)
    | with_reducible apply State.hearNeedle_keeps (Sub.trans rfl hw)
    | lift_lets
    | with_reducible refine keeps_ite ?_ ?_)

theorem execColdstartRx_keeps (rx : Sys2Proof.Rx) (x_h : Sys2Proof.Hdr) (b : Sys2Proof.ColdStart) (s : State) :
    ∃ t_, execColdstartRx rx x_h b s = .next t_ ∧ Keeps 0x6920504 s t_ := by
  have h := Keeps.refl 0x6920504 s
  have hw := Sub.refl 0x6920504
  
  refine ⟨_, rfl, ?_⟩
  repeat' (first
    | with_reducible assumption
    | (intro t_; first | (with_reducible refine keeps_cut (w := w) (s := s0) (t := t_) ?_ ?_; intro ht_; rotate_left; dsimp -zeta only [t_]) | skip)
    | with_reducible apply State.onArrival_keeps (Sub.trans rfl hw)
    | with_reducible apply State.takeSl_keeps (Sub.trans rfl hw)
    | with_reducible apply State.strip_keeps (Sub.trans rfl hw)
    | with_reducible apply State.endBad_keeps (Sub.trans rfl hw)
    | with_reducible apply State.relay_keeps (Sub.trans rfl hw)
    | with_reducible apply State.csMachine_keeps (Sub.trans rfl hw)
    | lift_lets
    | with_reducible refine keeps_ite ?_ ?_)

theorem execListenTimeout_keeps (s : State) :
    ∃ t_, execListenTimeout s = .next t_ ∧ Keeps 0x7920584 s t_ := by
  have h := Keeps.refl 0x7920584 s
  have hw := Sub.refl 0x7920584
  have b2 := Sub.bit (i := 2) hw rfl; have b7 := Sub.bit (i := 7) hw rfl; have b8 := Sub.bit (i := 8) hw rfl; have b10 := Sub.bit (i := 10) hw rfl; have b17 := Sub.bit (i := 17) hw rfl; have b20 := Sub.bit (i := 20) hw rfl; have b23 := Sub.bit (i := 23) hw rfl; have b24 := Sub.bit (i := 24) hw rfl; have b25 := Sub.bit (i := 25) hw rfl; have b26 := Sub.bit (i := 26) hw rfl; 
  refine ⟨_, rfl, ?_⟩
  repeat' (first
    | with_reducible assumption
    | (intro t_; first | (with_reducible refine keeps_cut (w := w) (s := s0) (t := t_) ?_ ?_; intro ht_; rotate_left; dsimp -zeta only [t_]) | skip)
    | with_reducible apply State.when_keeps (Sub.trans rfl hw)
    | with_reducible apply State.reachSt_keeps (Sub.trans rfl hw)
    | with_reducible apply State.csMark_keeps (Sub.trans rfl hw)
    | with_reducible apply State.raiseSch_keeps (Sub.trans rfl hw)
    | with_reducible apply State.setCs_keeps (Sub.trans rfl hw)
    | with_reducible apply State.csCount_keeps (Sub.trans rfl hw)
    | with_reducible apply State.sendCs_keeps (Sub.trans rfl hw)
    | dsimp only [id]
    | lift_lets
    | with_reducible refine keeps_ite ?_ ?_
    | with_reducible refine keeps_upd ?_ (fun x => x) (fun x => x) (.inr rfl) (.inl b2) (.inr rfl) (.inr rfl) (.inr rfl) (.inl b7) (.inl b8) (.inr rfl) (.inl b10) (.inr rfl) (.inr rfl) (.inr rfl) (.inr rfl) (.inr rfl) (.inr rfl) (.inl b17) (.inr rfl) (.inr rfl) (.inl b20) (.inr rfl) (.inr rfl) (.inl b23) (.inl b24) (.inl b25) (.inl b26))

theorem execColdstartRepeat_keeps (s : State) :
    ∃ t_, execColdstartRepeat s = .next t_ ∧ Keeps 0x7920184 s t_ := by
  have h := Keeps.refl 0x7920184 s
  have hw := Sub.refl 0x7920184
  
  refine ⟨_, rfl, ?_⟩
  repeat' (first
    | with_reducible assumption
    | (intro t_; first | (with_reducible refine keeps_cut (w := w) (s := s0) (t := t_) ?_ ?_; intro ht_; rotate_left; dsimp -zeta only [t_]) | skip)
    | with_reducible apply State.when_keeps (Sub.trans rfl hw)
    | with_reducible apply State.sendCs_keeps (Sub.trans rfl hw)
    | with_reducible apply State.reachSt_keeps (Sub.trans rfl hw)
    | dsimp only [id]
    | lift_lets
    | with_reducible refine keeps_ite ?_ ?_)

theorem State.gmAuto_keeps {w : Nat} {s0 s : State} (hw : Sub 0x1000184 w) (h : Keeps w s0 s) :
    Keeps w s0 (State.gmAuto s) := by
  unfold State.gmAuto
  repeat' (first
    | with_reducible assumption
    | (intro t_; first | (with_reducible refine keeps_cut (w := w) (s := s0) (t := t_) ?_ ?_; intro ht_; rotate_left; dsimp -zeta only [t_]) | skip)
    | with_reducible apply State.wrB_keeps (Sub.trans rfl hw)
    | with_reducible apply State.writeGm_keeps (Sub.trans rfl hw)
    | lift_lets
    | with_reducible refine keeps_ite ?_ ?_)

theorem State.startRows_keeps {w : Nat} {s0 s : State} (hw : Sub 0x10c458c w) (h : Keeps w s0 s) :
    Keeps w s0 (State.startRows s) := by
  have b2 := Sub.bit (i := 2) hw rfl; have b3 := Sub.bit (i := 3) hw rfl; have b7 := Sub.bit (i := 7) hw rfl; have b8 := Sub.bit (i := 8) hw rfl; have b10 := Sub.bit (i := 10) hw rfl; have b14 := Sub.bit (i := 14) hw rfl; have b18 := Sub.bit (i := 18) hw rfl; have b19 := Sub.bit (i := 19) hw rfl; have b24 := Sub.bit (i := 24) hw rfl
  unfold State.startRows
  repeat' (first
    | with_reducible assumption
    | (intro t_; first | (with_reducible refine keeps_cut (w := w) (s := s0) (t := t_) ?_ ?_; intro ht_; rotate_left; dsimp -zeta only [t_]) | skip)
    | with_reducible apply State.wrSchF_keeps (Sub.trans rfl hw)
    | with_reducible apply State.wrSch_keeps (Sub.trans rfl hw)
    | with_reducible apply State.spanDrop_keeps (Sub.trans rfl hw)
    | with_reducible apply State.wrSchB_keeps (Sub.trans rfl hw)
    | with_reducible apply State.loadGuards_keeps (Sub.trans rfl hw)
    | with_reducible apply State.setCs_keeps (Sub.trans rfl hw)
    | with_reducible apply State.gmAuto_keeps (Sub.trans rfl hw)
    | with_reducible apply State.setNdl_keeps (Sub.trans rfl hw)
    | with_reducible apply State.raiseSch_keeps (Sub.trans rfl hw)
    | with_reducible apply State.mvbRecheck_keeps (Sub.trans rfl hw)
    | with_reducible apply State.mvbRowsStart_keeps (Sub.trans rfl hw)
    | lift_lets
    | with_reducible refine keeps_ite ?_ ?_
    | with_reducible refine keeps_fst_ite ?_ ?_
    | (with_reducible refine keeps_of_eq (by assumption) ?_)
    | with_reducible refine keeps_upd ?_ (fun x => x) (fun x => x) (.inr rfl) (.inl b2) (.inl b3) (.inr rfl) (.inr rfl) (.inl b7) (.inl b8) (.inr rfl) (.inl b10) (.inr rfl) (.inr rfl) (.inr rfl) (.inl b14) (.inr rfl) (.inr rfl) (.inr rfl) (.inl b18) (.inl b19) (.inr rfl) (.inr rfl) (.inr rfl) (.inr rfl) (.inl b24) (.inr rfl) (.inr rfl))

theorem execNeedleStart_keeps (s : State) :
    ∃ t_, execNeedleStart s = .next t_ ∧ Keeps 0x30c458c s t_ := by
  have h := Keeps.refl 0x30c458c s
  have hw := Sub.refl 0x30c458c
  
  refine ⟨_, rfl, ?_⟩
  repeat' (first
    | with_reducible assumption
    | (intro t_; first | (with_reducible refine keeps_cut (w := w) (s := s0) (t := t_) ?_ ?_; intro ht_; rotate_left; dsimp -zeta only [t_]) | skip)
    | with_reducible apply State.when_keeps (Sub.trans rfl hw)
    | with_reducible apply State.startRows_keeps (Sub.trans rfl hw)
    | with_reducible apply State.reachSt_keeps (Sub.trans rfl hw)
    | dsimp only [id]
    | lift_lets
    | with_reducible refine keeps_ite ?_ ?_)

theorem execFollowTimeout_keeps (s : State) :
    ∃ t_, execFollowTimeout s = .next t_ ∧ Keeps 0x333adcc s t_ := by
  have h := Keeps.refl 0x333adcc s
  have hw := Sub.refl 0x333adcc
  
  refine ⟨_, rfl, ?_⟩
  repeat' (first
    | with_reducible assumption
    | (intro t_; first | (with_reducible refine keeps_cut (w := w) (s := s0) (t := t_) ?_ ?_; intro ht_; rotate_left; dsimp -zeta only [t_]) | skip)
    | with_reducible apply State.when_keeps (Sub.trans rfl hw)
    | with_reducible apply State.loseRows_keeps (Sub.trans rfl hw)
    | with_reducible apply State.raiseSch_keeps (Sub.trans rfl hw)
    | with_reducible apply State.reachSt_keeps (Sub.trans rfl hw)
    | dsimp only [id]
    | lift_lets
    | with_reducible refine keeps_ite ?_ ?_)

theorem execVerifyTimeout_keeps (s : State) :
    ∃ t_, execVerifyTimeout s = .next t_ ∧ Keeps 0x1030404 s t_ := by
  have h := Keeps.refl 0x1030404 s
  have hw := Sub.refl 0x1030404
  
  refine ⟨_, rfl, ?_⟩
  repeat' (first
    | with_reducible assumption
    | (intro t_; first | (with_reducible refine keeps_cut (w := w) (s := s0) (t := t_) ?_ ?_; intro ht_; rotate_left; dsimp -zeta only [t_]) | skip)
    | with_reducible apply State.when_keeps (Sub.trans rfl hw)
    | with_reducible apply State.dropPhase_keeps (Sub.trans rfl hw)
    | dsimp only [id]
    | lift_lets
    | with_reducible refine keeps_ite ?_ ?_)

theorem execResyncTimeout_keeps (s : State) :
    ∃ t_, execResyncTimeout s = .next t_ ∧ Keeps 0x333adcc s t_ := by
  have h := Keeps.refl 0x333adcc s
  have hw := Sub.refl 0x333adcc
  
  refine ⟨_, rfl, ?_⟩
  repeat' (first
    | with_reducible assumption
    | (intro t_; first | (with_reducible refine keeps_cut (w := w) (s := s0) (t := t_) ?_ ?_; intro ht_; rotate_left; dsimp -zeta only [t_]) | skip)
    | with_reducible apply State.when_keeps (Sub.trans rfl hw)
    | with_reducible apply State.loseRows_keeps (Sub.trans rfl hw)
    | with_reducible apply State.reachSt_keeps (Sub.trans rfl hw)
    | dsimp only [id]
    | lift_lets
    | with_reducible refine keeps_ite ?_ ?_)

theorem execNeedleAnnounce_keeps (s : State) :
    ∃ t_, execNeedleAnnounce s = .next t_ ∧ Keeps 0x7920184 s t_ := by
  have h := Keeps.refl 0x7920184 s
  have hw := Sub.refl 0x7920184
  
  refine ⟨_, rfl, ?_⟩
  repeat' (first
    | with_reducible assumption
    | (intro t_; first | (with_reducible refine keeps_cut (w := w) (s := s0) (t := t_) ?_ ?_; intro ht_; rotate_left; dsimp -zeta only [t_]) | skip)
    | with_reducible apply State.when_keeps (Sub.trans rfl hw)
    | with_reducible apply State.inFirstGap_keeps (Sub.trans rfl hw)
    | with_reducible apply State.sendCs_keeps (Sub.trans rfl hw)
    | dsimp only [id]
    | lift_lets
    | with_reducible refine keeps_ite ?_ ?_)

theorem execNeedleYieldSend_keeps (s : State) :
    ∃ t_, execNeedleYieldSend s = .next t_ ∧ Keeps 0x7920584 s t_ := by
  have h := Keeps.refl 0x7920584 s
  have hw := Sub.refl 0x7920584
  have b2 := Sub.bit (i := 2) hw rfl; have b7 := Sub.bit (i := 7) hw rfl; have b8 := Sub.bit (i := 8) hw rfl; have b10 := Sub.bit (i := 10) hw rfl; have b17 := Sub.bit (i := 17) hw rfl; have b20 := Sub.bit (i := 20) hw rfl; have b23 := Sub.bit (i := 23) hw rfl; have b24 := Sub.bit (i := 24) hw rfl; have b25 := Sub.bit (i := 25) hw rfl; have b26 := Sub.bit (i := 26) hw rfl; 
  refine ⟨_, rfl, ?_⟩
  repeat' (first
    | with_reducible assumption
    | (intro t_; first | (with_reducible refine keeps_cut (w := w) (s := s0) (t := t_) ?_ ?_; intro ht_; rotate_left; dsimp -zeta only [t_]) | skip)
    | with_reducible apply State.when_keeps (Sub.trans rfl hw)
    | with_reducible apply State.inFirstGap_keeps (Sub.trans rfl hw)
    | with_reducible apply State.sendCs_keeps (Sub.trans rfl hw)
    | dsimp only [id]
    | lift_lets
    | with_reducible refine keeps_ite ?_ ?_
    | with_reducible refine keeps_upd ?_ (fun x => x) (fun x => x) (.inr rfl) (.inl b2) (.inr rfl) (.inr rfl) (.inr rfl) (.inl b7) (.inl b8) (.inr rfl) (.inl b10) (.inr rfl) (.inr rfl) (.inr rfl) (.inr rfl) (.inr rfl) (.inr rfl) (.inl b17) (.inr rfl) (.inr rfl) (.inl b20) (.inr rfl) (.inr rfl) (.inl b23) (.inl b24) (.inl b25) (.inl b26))

theorem execNeedleYieldEnd_keeps (s : State) :
    ∃ t_, execNeedleYieldEnd s = .next t_ ∧ Keeps 0x404 s t_ := by
  have h := Keeps.refl 0x404 s
  have hw := Sub.refl 0x404
  have b2 := Sub.bit (i := 2) hw rfl; have b10 := Sub.bit (i := 10) hw rfl; 
  refine ⟨_, rfl, ?_⟩
  repeat' (first
    | with_reducible assumption
    | (intro t_; first | (with_reducible refine keeps_cut (w := w) (s := s0) (t := t_) ?_ ?_; intro ht_; rotate_left; dsimp -zeta only [t_]) | skip)
    | with_reducible apply State.when_keeps (Sub.trans rfl hw)
    | with_reducible apply State.csMark_keeps (Sub.trans rfl hw)
    | with_reducible apply State.setCs_keeps (Sub.trans rfl hw)
    | with_reducible apply State.wrSchB_keeps (Sub.trans rfl hw)
    | dsimp only [id]
    | lift_lets
    | with_reducible refine keeps_ite ?_ ?_
    | with_reducible refine keeps_upd ?_ (fun x => x) (fun x => x) (.inr rfl) (.inl b2) (.inr rfl) (.inr rfl) (.inr rfl) (.inr rfl) (.inr rfl) (.inr rfl) (.inl b10) (.inr rfl) (.inr rfl) (.inr rfl) (.inr rfl) (.inr rfl) (.inr rfl) (.inr rfl) (.inr rfl) (.inr rfl) (.inr rfl) (.inr rfl) (.inr rfl) (.inr rfl) (.inr rfl) (.inr rfl) (.inr rfl))

theorem State.yieldBoundary_keeps {w : Nat} {s0 s : State} (hw : Sub 0x3308d44 w) (h : Keeps w s0 s) :
    Keeps w s0 (State.yieldBoundary s) := by
  have b2 := Sub.bit (i := 2) hw rfl; have b6 := Sub.bit (i := 6) hw rfl; have b8 := Sub.bit (i := 8) hw rfl; have b10 := Sub.bit (i := 10) hw rfl; have b11 := Sub.bit (i := 11) hw rfl; have b15 := Sub.bit (i := 15) hw rfl; have b20 := Sub.bit (i := 20) hw rfl; have b21 := Sub.bit (i := 21) hw rfl; have b24 := Sub.bit (i := 24) hw rfl; have b25 := Sub.bit (i := 25) hw rfl
  unfold State.yieldBoundary
  repeat' (first
    | with_reducible assumption
    | (intro t_; first | (with_reducible refine keeps_cut (w := w) (s := s0) (t := t_) ?_ ?_; intro ht_; rotate_left; dsimp -zeta only [t_]) | skip)
    | with_reducible apply State.toHealing_keeps (Sub.trans rfl hw)
    | lift_lets
    | with_reducible refine keeps_ite ?_ ?_
    | split
    | (clear_value *; split)
    | with_reducible refine keeps_upd ?_ (fun x => x) (fun x => x) (.inr rfl) (.inl b2) (.inr rfl) (.inr rfl) (.inl b6) (.inr rfl) (.inl b8) (.inr rfl) (.inl b10) (.inl b11) (.inr rfl) (.inr rfl) (.inr rfl) (.inl b15) (.inr rfl) (.inr rfl) (.inr rfl) (.inr rfl) (.inl b20) (.inl b21) (.inr rfl) (.inr rfl) (.inl b24) (.inl b25) (.inr rfl))

end Sys2Proof.Machine
end

