-- ==== Sys2Proof/Laws/Slots.lean ====
section
/-! SUPPORT. What the functions of Machine/Slots.lean keep, one lemma for each. -/

namespace Sys2Proof.Machine

theorem State.checked_keeps {w : Nat} {s0 s : State} (hw : Sub 0x4 w) (h : Keeps w s0 s) (sl : Nat) :
    Keeps w s0 (State.checked s sl) := by
  unfold State.checked
  repeat' (first
    | with_reducible assumption
    | (intro t_; first | (with_reducible refine keeps_cut (w := w) (s := s0) (t := t_) ?_ ?_; intro ht_; rotate_left; dsimp -zeta only [t_]) | skip)
    | with_reducible apply State.wrSch_keeps (Sub.trans rfl hw)
    | lift_lets
    | with_reducible refine keeps_ite ?_ ?_)

theorem State.chkWrite_keeps {w : Nat} {s0 s : State} (hw : Sub 0x404 w) (h : Keeps w s0 s) (v : Sys2Proof.Word) :
    Keeps w s0 (State.chkWrite s v) := by
  have b2 := Sub.bit (i := 2) hw rfl; have b10 := Sub.bit (i := 10) hw rfl
  unfold State.chkWrite
  repeat' (first
    | with_reducible assumption
    | (intro t_; first | (with_reducible refine keeps_cut (w := w) (s := s0) (t := t_) ?_ ?_; intro ht_; rotate_left; dsimp -zeta only [t_]) | skip)
    | with_reducible apply State.wrSch_keeps (Sub.trans rfl hw)
    | lift_lets
    | with_reducible refine keeps_ite ?_ ?_
    | with_reducible refine keeps_upd ?_ (fun x => x) (fun x => x) (.inr rfl) (.inl b2) (.inr rfl) (.inr rfl) (.inr rfl) (.inr rfl) (.inr rfl) (.inr rfl) (.inl b10) (.inr rfl) (.inr rfl) (.inr rfl) (.inr rfl) (.inr rfl) (.inr rfl) (.inr rfl) (.inr rfl) (.inr rfl) (.inr rfl) (.inr rfl) (.inr rfl) (.inr rfl) (.inr rfl) (.inr rfl) (.inr rfl))

theorem execSlotCheck_keeps (slot : Fin 8) (s : State) :
    ∃ t_, execSlotCheck slot s = .next t_ ∧ Keeps 0x300504 s t_ := by
  have h := Keeps.refl 0x300504 s
  have hw := Sub.refl 0x300504
  
  refine ⟨_, rfl, ?_⟩
  repeat' (first
    | with_reducible assumption
    | (intro t_; first | (with_reducible refine keeps_cut (w := w) (s := s0) (t := t_) ?_ ?_; intro ht_; rotate_left; dsimp -zeta only [t_]) | skip)
    | with_reducible apply State.guarded_keeps (Sub.trans rfl hw)
    | with_reducible apply State.chkWrite_keeps (Sub.trans rfl hw)
    | dsimp only [id]
    | lift_lets
    | with_reducible refine keeps_ite ?_ ?_)

theorem execSlotCheckDone_keeps (s : State) :
    ∃ t_, execSlotCheckDone s = .next t_ ∧ Keeps 0x104 s t_ := by
  have h := Keeps.refl 0x104 s
  have hw := Sub.refl 0x104
  
  refine ⟨_, rfl, ?_⟩
  repeat' (first
    | with_reducible assumption
    | (intro t_; first | (with_reducible refine keeps_cut (w := w) (s := s0) (t := t_) ?_ ?_; intro ht_; rotate_left; dsimp -zeta only [t_]) | skip)
    | with_reducible apply State.when_keeps (Sub.trans rfl hw)
    | with_reducible apply State.raiseSch_keeps (Sub.trans rfl hw)
    | with_reducible apply State.wrSch_keeps (Sub.trans rfl hw)
    | with_reducible apply State.checked_keeps (Sub.trans rfl hw)
    | dsimp only [id]
    | lift_lets
    | with_reducible refine keeps_ite ?_ ?_
    | with_reducible refine keeps_fst_ite ?_ ?_
    | (with_reducible refine keeps_of_eq (by assumption) ?_))

theorem State.shdBusy_keeps {w : Nat} {s0 s : State} (hw : Sub 0x104 w) (h : Keeps w s0 s) (d : Nat) :
    Keeps w s0 (State.shdBusy s d) := by
  unfold State.shdBusy
  repeat' (first
    | with_reducible assumption
    | (intro t_; first | (with_reducible refine keeps_cut (w := w) (s := s0) (t := t_) ?_ ?_; intro ht_; rotate_left; dsimp -zeta only [t_]) | skip)
    | with_reducible apply State.raise_keeps (Sub.trans rfl hw)
    | lift_lets
    | with_reducible refine keeps_ite ?_ ?_)

theorem State.shdEdited_keeps {w : Nat} {s0 s : State} (hw : Sub 0x4 w) (h : Keeps w s0 s) :
    Keeps w s0 (State.shdEdited s) := by
  unfold State.shdEdited
  repeat' (first
    | with_reducible assumption
    | (intro t_; first | (with_reducible refine keeps_cut (w := w) (s := s0) (t := t_) ?_ ?_; intro ht_; rotate_left; dsimp -zeta only [t_]) | skip)
    | with_reducible apply State.wrSchB_keeps (Sub.trans rfl hw)
    | lift_lets
    | with_reducible refine keeps_ite ?_ ?_)

theorem State.slotWrite_keeps {w : Nat} {s0 s : State} (hw : Sub 0x104 w) (h : Keeps w s0 s) (sl : Nat) (f : Sys2Proof.Machine.State → Sys2Proof.Machine.State) (h_f : ∀ t_, Keeps w s0 t_ → Keeps w s0 (f t_)) :
    Keeps w s0 (State.slotWrite s sl f) := by
  unfold State.slotWrite
  repeat' (first
    | with_reducible assumption
    | (intro t_; first | (with_reducible refine keeps_cut (w := w) (s := s0) (t := t_) ?_ ?_; intro ht_; rotate_left; dsimp -zeta only [t_]) | skip)
    | with_reducible apply h_f
    | with_reducible apply State.raiseSch_keeps (Sub.trans rfl hw)
    | with_reducible apply State.wrSchB_keeps (Sub.trans rfl hw)
    | lift_lets
    | with_reducible refine keeps_ite ?_ ?_)

theorem State.mapWrite_keeps {w : Nat} {s0 s : State} (hw : Sub 0x104 w) (h : Keeps w s0 s) (b : Nat) (v : Sys2Proof.Word) :
    Keeps w s0 (State.mapWrite s b v) := by
  unfold State.mapWrite
  repeat' (first
    | with_reducible assumption
    | (intro t_; first | (with_reducible refine keeps_cut (w := w) (s := s0) (t := t_) ?_ ?_; intro ht_; rotate_left; dsimp -zeta only [t_]) | skip)
    | with_reducible apply State.raiseSch_keeps (Sub.trans rfl hw)
    | with_reducible apply State.shdBusy_keeps (Sub.trans rfl hw)
    | with_reducible apply State.wrSch_keeps (Sub.trans rfl hw)
    | with_reducible apply State.shdEdited_keeps (Sub.trans rfl hw)
    | lift_lets
    | with_reducible refine keeps_ite ?_ ?_)

theorem State.overlayWrite_keeps {w : Nat} {s0 s : State} (hw : Sub 0x10c w) (h : Keeps w s0 s) (b : Nat) (a : Nat) (v : Sys2Proof.Word) :
    Keeps w s0 (State.overlayWrite s b a v) := by
  unfold State.overlayWrite
  repeat' (first
    | with_reducible assumption
    | (intro t_; first | (with_reducible refine keeps_cut (w := w) (s := s0) (t := t_) ?_ ?_; intro ht_; rotate_left; dsimp -zeta only [t_]) | skip)
    | with_reducible apply State.raiseSch_keeps (Sub.trans rfl hw)
    | with_reducible apply State.shdBusy_keeps (Sub.trans rfl hw)
    | with_reducible apply State.setTw_keeps (Sub.trans rfl hw)
    | with_reducible apply State.shdEdited_keeps (Sub.trans rfl hw)
    | lift_lets
    | with_reducible refine keeps_ite ?_ ?_)

theorem State.schWinWrite_keeps {w : Nat} {s0 s : State} (hw : Sub 0x810c w) (h : Keeps w s0 s) (d : Nat) (o : Nat) (v : Sys2Proof.Word) :
    Keeps w s0 (State.schWinWrite s d o v) := by
  unfold State.schWinWrite
  repeat' (first
    | with_reducible assumption
    | (intro t_; first | (with_reducible refine keeps_cut (w := w) (s := s0) (t := t_) ?_ ?_; intro ht_; rotate_left; dsimp -zeta only [t_]) | skip)
    | with_reducible apply State.noteEnt_keeps (Sub.trans rfl hw)
    | with_reducible apply State.setTw_keeps (Sub.trans rfl hw)
    | with_reducible apply State.slotWrite_keeps (Sub.trans rfl hw)
    | with_reducible apply State.overlayWrite_keeps (Sub.trans rfl hw)
    | dsimp only [id]
    | lift_lets
    | with_reducible refine keeps_ite ?_ ?_)

theorem State.schRegWrite_keeps {w : Nat} {s0 s : State} (hw : Sub 0x104 w) (h : Keeps w s0 s) (o : Nat) (v : Sys2Proof.Word) :
    Keeps w s0 (State.schRegWrite s o v) := by
  unfold State.schRegWrite
  repeat' (first
    | with_reducible assumption
    | (intro t_; first | (with_reducible refine keeps_cut (w := w) (s := s0) (t := t_) ?_ ?_; intro ht_; rotate_left; dsimp -zeta only [t_]) | skip)
    | with_reducible apply State.mapWrite_keeps (Sub.trans rfl hw)
    | with_reducible apply State.slotWrite_keeps (Sub.trans rfl hw)
    | with_reducible apply State.wrSch_keeps (Sub.trans rfl hw)
    | dsimp only [id]
    | lift_lets
    | with_reducible refine keeps_ite ?_ ?_
    | split
    | (clear_value *; split))

theorem execScheduleTableWrite_keeps (addr : Nat) (value : Sys2Proof.Word) (s : State) :
    ∃ t_, execScheduleTableWrite addr value s = .next t_ ∧ Keeps 0x30810c s t_ := by
  have h := Keeps.refl 0x30810c s
  have hw := Sub.refl 0x30810c
  
  refine ⟨_, rfl, ?_⟩
  repeat' (first
    | with_reducible assumption
    | (intro t_; first | (with_reducible refine keeps_cut (w := w) (s := s0) (t := t_) ?_ ?_; intro ht_; rotate_left; dsimp -zeta only [t_]) | skip)
    | with_reducible apply State.guarded_keeps (Sub.trans rfl hw)
    | with_reducible apply State.schWinWrite_keeps (Sub.trans rfl hw)
    | with_reducible apply State.schRegWrite_keeps (Sub.trans rfl hw)
    | dsimp only [id]
    | lift_lets
    | with_reducible refine keeps_ite ?_ ?_
    | split
    | (clear_value *; split)
    | with_reducible refine keeps_fst_ite ?_ ?_
    | (with_reducible refine keeps_of_eq (by assumption) ?_))

theorem State.swapRequest_keeps {w : Nat} {s0 s : State} (hw : Sub 0x504 w) (h : Keeps w s0 s) (prf : Nat) :
    Keeps w s0 (State.swapRequest s prf) := by
  have b2 := Sub.bit (i := 2) hw rfl; have b8 := Sub.bit (i := 8) hw rfl; have b10 := Sub.bit (i := 10) hw rfl
  unfold State.swapRequest
  repeat' (first
    | with_reducible assumption
    | (intro t_; first | (with_reducible refine keeps_cut (w := w) (s := s0) (t := t_) ?_ ?_; intro ht_; rotate_left; dsimp -zeta only [t_]) | skip)
    | with_reducible apply State.raiseSch_keeps (Sub.trans rfl hw)
    | with_reducible apply State.wrSch_keeps (Sub.trans rfl hw)
    | with_reducible apply State.wrSchB_keeps (Sub.trans rfl hw)
    | with_reducible apply State.wrSchF_keeps (Sub.trans rfl hw)
    | lift_lets
    | with_reducible refine keeps_ite ?_ ?_
    | with_reducible refine keeps_upd ?_ (fun x => x) (fun x => x) (.inr rfl) (.inl b2) (.inr rfl) (.inr rfl) (.inr rfl) (.inr rfl) (.inl b8) (.inr rfl) (.inl b10) (.inr rfl) (.inr rfl) (.inr rfl) (.inr rfl) (.inr rfl) (.inr rfl) (.inr rfl) (.inr rfl) (.inr rfl) (.inr rfl) (.inr rfl) (.inr rfl) (.inr rfl) (.inr rfl) (.inr rfl) (.inr rfl))

theorem State.swapWrite_keeps {w : Nat} {s0 s : State} (hw : Sub 0x504 w) (h : Keeps w s0 s) (v : Sys2Proof.Word) :
    Keeps w s0 (State.swapWrite s v) := by
  unfold State.swapWrite
  repeat' (first
    | with_reducible assumption
    | (intro t_; first | (with_reducible refine keeps_cut (w := w) (s := s0) (t := t_) ?_ ?_; intro ht_; rotate_left; dsimp -zeta only [t_]) | skip)
    | with_reducible apply State.swapRequest_keeps (Sub.trans rfl hw)
    | with_reducible apply State.wrSch_keeps (Sub.trans rfl hw)
    | lift_lets
    | with_reducible refine keeps_ite ?_ ?_)

theorem execSwapRequest_keeps (prf : Fin 8) (s : State) :
    ∃ t_, execSwapRequest prf s = .next t_ ∧ Keeps 0x300504 s t_ := by
  have h := Keeps.refl 0x300504 s
  have hw := Sub.refl 0x300504
  
  refine ⟨_, rfl, ?_⟩
  repeat' (first
    | with_reducible assumption
    | (intro t_; first | (with_reducible refine keeps_cut (w := w) (s := s0) (t := t_) ?_ ?_; intro ht_; rotate_left; dsimp -zeta only [t_]) | skip)
    | with_reducible apply State.guarded_keeps (Sub.trans rfl hw)
    | with_reducible apply State.swapRequest_keeps (Sub.trans rfl hw)
    | dsimp only [id]
    | lift_lets
    | with_reducible refine keeps_ite ?_ ?_)

end Sys2Proof.Machine
end

