-- ==== Sys2Proof/Laws/Windows.lean ====
section
/-! SUPPORT. What the functions of Machine/Windows.lean keep, one lemma for each. -/

namespace Sys2Proof.Machine

theorem State.ctxBusy_keeps {w : Nat} {s0 s : State} (hw : Sub 0x104 w) (h : Keeps w s0 s) (d : Nat) :
    Keeps w s0 (State.ctxBusy s d) := by
  unfold State.ctxBusy
  repeat' (first
    | with_reducible assumption
    | (intro t_; first | (with_reducible refine keeps_cut (w := w) (s := s0) (t := t_) ?_ ?_; intro ht_; rotate_left; dsimp -zeta only [t_]) | skip)
    | with_reducible apply State.raise_keeps (Sub.trans rfl hw)
    | lift_lets
    | with_reducible refine keeps_ite ?_ ?_)

theorem State.dskBanked_keeps {w : Nat} {s0 s : State} (hw : Sub 0x10c w) (h : Keeps w s0 s) (d : Nat) (b : Nat) (a : Nat) (v : Sys2Proof.Word) :
    Keeps w s0 (State.dskBanked s d b a v) := by
  unfold State.dskBanked
  repeat' (first
    | with_reducible assumption
    | (intro t_; first | (with_reducible refine keeps_cut (w := w) (s := s0) (t := t_) ?_ ?_; intro ht_; rotate_left; dsimp -zeta only [t_]) | skip)
    | with_reducible apply State.ctxBusy_keeps (Sub.trans rfl hw)
    | with_reducible apply State.shdBusy_keeps (Sub.trans rfl hw)
    | with_reducible apply State.setTw_keeps (Sub.trans rfl hw)
    | with_reducible apply State.shdEdited_keeps (Sub.trans rfl hw)
    | lift_lets
    | with_reducible refine keeps_ite ?_ ?_)

theorem State.ctxWrite_keeps {w : Nat} {s0 s : State} (hw : Sub 0x10c w) (h : Keeps w s0 s) (d : Nat) (c : Nat) (k : Nat) (v : Sys2Proof.Word) :
    Keeps w s0 (State.ctxWrite s d c k v) := by
  unfold State.ctxWrite
  repeat' (first
    | with_reducible assumption
    | (intro t_; first | (with_reducible refine keeps_cut (w := w) (s := s0) (t := t_) ?_ ?_; intro ht_; rotate_left; dsimp -zeta only [t_]) | skip)
    | with_reducible apply State.ctxBusy_keeps (Sub.trans rfl hw)
    | with_reducible apply State.setTw_keeps (Sub.trans rfl hw)
    | lift_lets
    | with_reducible refine keeps_ite ?_ ?_)

theorem State.recWrite_keeps {w : Nat} {s0 s : State} (hw : Sub 0x10c w) (h : Keeps w s0 s) (d : Nat) (i : Nat) (k : Nat) (v : Sys2Proof.Word) :
    Keeps w s0 (State.recWrite s d i k v) := by
  unfold State.recWrite
  repeat' (first
    | with_reducible assumption
    | (intro t_; first | (with_reducible refine keeps_cut (w := w) (s := s0) (t := t_) ?_ ?_; intro ht_; rotate_left; dsimp -zeta only [t_]) | skip)
    | with_reducible apply State.ctxBusy_keeps (Sub.trans rfl hw)
    | with_reducible apply State.takeAny_keeps (Sub.trans rfl hw)
    | with_reducible apply State.setTw_keeps (Sub.trans rfl hw)
    | lift_lets
    | with_reducible refine keeps_ite ?_ ?_)

theorem State.dskWinWrite_keeps {w : Nat} {s0 s : State} (hw : Sub 0x810c w) (h : Keeps w s0 s) (d : Nat) (o : Nat) (v : Sys2Proof.Word) :
    Keeps w s0 (State.dskWinWrite s d o v) := by
  unfold State.dskWinWrite
  repeat' (first
    | with_reducible assumption
    | (intro t_; first | (with_reducible refine keeps_cut (w := w) (s := s0) (t := t_) ?_ ?_; intro ht_; rotate_left; dsimp -zeta only [t_]) | skip)
    | with_reducible apply State.setTw_keeps (Sub.trans rfl hw)
    | with_reducible apply State.ctxBusy_keeps (Sub.trans rfl hw)
    | with_reducible apply State.ctxWrite_keeps (Sub.trans rfl hw)
    | with_reducible apply State.dskBanked_keeps (Sub.trans rfl hw)
    | with_reducible apply State.recWrite_keeps (Sub.trans rfl hw)
    | with_reducible apply State.noteEnt_keeps (Sub.trans rfl hw)
    | lift_lets
    | with_reducible refine keeps_ite ?_ ?_)

theorem State.fwdBanked_keeps {w : Nat} {s0 s : State} (hw : Sub 0x104 w) (h : Keeps w s0 s) (d : Nat) (a2 : Nat) (b0 : Nat) (f : Sys2Proof.Machine.State → Sys2Proof.Machine.State) (h_f : ∀ t_, Keeps w s0 t_ → Keeps w s0 (f t_)) :
    Keeps w s0 (State.fwdBanked s d a2 b0 f) := by
  unfold State.fwdBanked
  repeat' (first
    | with_reducible assumption
    | (intro t_; first | (with_reducible refine keeps_cut (w := w) (s := s0) (t := t_) ?_ ?_; intro ht_; rotate_left; dsimp -zeta only [t_]) | skip)
    | with_reducible apply h_f
    | with_reducible apply State.shdBusy_keeps (Sub.trans rfl hw)
    | with_reducible apply State.evalTables_keeps (Sub.trans rfl hw)
    | with_reducible apply State.shdEdited_keeps (Sub.trans rfl hw)
    | lift_lets
    | with_reducible refine keeps_ite ?_ ?_)

theorem State.evalTrain_keeps {w : Nat} {s0 s : State} (hw : Sub 0x8 w) (h : Keeps w s0 s) (d : Nat) (i : Nat) :
    Keeps w s0 (State.evalTrain s d i) := by
  unfold State.evalTrain
  repeat' (first
    | with_reducible assumption
    | (intro t_; first | (with_reducible refine keeps_cut (w := w) (s := s0) (t := t_) ?_ ?_; intro ht_; rotate_left; dsimp -zeta only [t_]) | skip)
    | with_reducible apply State.setTw_keeps (Sub.trans rfl hw)
    | lift_lets
    | with_reducible refine keeps_ite ?_ ?_)

theorem State.xltWrite_keeps {w : Nat} {s0 s : State} (hw : Sub 0x810c w) (h : Keeps w s0 s) (d : Nat) (i : Nat) (k : Nat) (v : Sys2Proof.Word) :
    Keeps w s0 (State.xltWrite s d i k v) := by
  unfold State.xltWrite
  repeat' (first
    | with_reducible assumption
    | (intro t_; first | (with_reducible refine keeps_cut (w := w) (s := s0) (t := t_) ?_ ?_; intro ht_; rotate_left; dsimp -zeta only [t_]) | skip)
    | with_reducible apply State.fwdBanked_keeps (Sub.trans rfl hw)
    | with_reducible apply State.noteEnt_keeps (Sub.trans rfl hw)
    | with_reducible apply State.evalTrain_keeps (Sub.trans rfl hw)
    | with_reducible apply State.setTw_keeps (Sub.trans rfl hw)
    | dsimp only [id]
    | lift_lets
    | with_reducible refine keeps_ite ?_ ?_)

theorem State.fwdWinWrite_keeps {w : Nat} {s0 s : State} (hw : Sub 0x2810c w) (h : Keeps w s0 s) (d : Nat) (o : Nat) (v : Sys2Proof.Word) :
    Keeps w s0 (State.fwdWinWrite s d o v) := by
  unfold State.fwdWinWrite
  repeat' (first
    | with_reducible assumption
    | (intro t_; first | (with_reducible refine keeps_cut (w := w) (s := s0) (t := t_) ?_ ?_; intro ht_; rotate_left; dsimp -zeta only [t_]) | skip)
    | with_reducible apply State.fwdBanked_keeps (Sub.trans rfl hw)
    | with_reducible apply State.when_keeps (Sub.trans rfl hw)
    | with_reducible apply State.noteEnt_keeps (Sub.trans rfl hw)
    | with_reducible apply State.setTw_keeps (Sub.trans rfl hw)
    | with_reducible apply State.ageFrom_keeps (Sub.trans rfl hw)
    | with_reducible apply State.xltWrite_keeps (Sub.trans rfl hw)
    | dsimp only [id]
    | lift_lets
    | with_reducible refine keeps_ite ?_ ?_)

theorem State.winWrite_keeps {w : Nat} {s0 s : State} (hw : Sub 0x2810c w) (h : Keeps w s0 s) (a : Nat) (v : Sys2Proof.Word) :
    Keeps w s0 (State.winWrite s a v) := by
  unfold State.winWrite
  repeat' (first
    | with_reducible assumption
    | (intro t_; first | (with_reducible refine keeps_cut (w := w) (s := s0) (t := t_) ?_ ?_; intro ht_; rotate_left; dsimp -zeta only [t_]) | skip)
    | with_reducible apply State.dskWinWrite_keeps (Sub.trans rfl hw)
    | with_reducible apply State.fwdWinWrite_keeps (Sub.trans rfl hw)
    | with_reducible apply State.schWinWrite_keeps (Sub.trans rfl hw)
    | with_reducible apply State.setTw_keeps (Sub.trans rfl hw)
    | with_reducible apply State.fldWinWrite_keeps (Sub.trans rfl hw)
    | lift_lets
    | with_reducible refine keeps_ite ?_ ?_)

end Sys2Proof.Machine
end

