-- ==== Sys2Proof/Laws/Topology.lean ====
section
/-! SUPPORT. What the functions of Machine/Topology.lean keep, one lemma for each. -/

namespace Sys2Proof.Machine

theorem State.queueTtdp_keeps {w : Nat} {s0 s : State} (hw : Sub 0x6920104 w) (h : Keeps w s0 s) (p : Nat) (n : Nat) (f : Sys2Proof.Machine.Frame) :
    Keeps w s0 (State.queueTtdp s p n f) := by
  unfold State.queueTtdp
  repeat' (first
    | with_reducible assumption
    | (intro t_; first | (with_reducible refine keeps_cut (w := w) (s := s0) (t := t_) ?_ ?_; intro ht_; rotate_left; dsimp -zeta only [t_]) | skip)
    | with_reducible apply State.newGroup_keeps (Sub.trans rfl hw)
    | with_reducible apply State.takeIn_keeps (Sub.trans rfl hw)
    | lift_lets
    | with_reducible refine keeps_ite ?_ ?_
    | with_reducible refine keeps_fst_ite ?_ ?_
    | (with_reducible refine keeps_of_eq (by assumption) ?_))

theorem execHelloSend_keeps (p : Sys2Proof.Port) (s : State) :
    ∃ t_, execHelloSend p s = .next t_ ∧ Keeps 0x7920184 s t_ := by
  have h := Keeps.refl 0x7920184 s
  have hw := Sub.refl 0x7920184
  
  refine ⟨_, rfl, ?_⟩
  repeat' (first
    | with_reducible assumption
    | (intro t_; first | (with_reducible refine keeps_cut (w := w) (s := s0) (t := t_) ?_ ?_; intro ht_; rotate_left; dsimp -zeta only [t_]) | skip)
    | with_reducible apply State.when_keeps (Sub.trans rfl hw)
    | with_reducible apply State.queueTtdp_keeps (Sub.trans rfl hw)
    | with_reducible apply State.mark_keeps (Sub.trans rfl hw)
    | with_reducible apply State.reachFrom_keeps (Sub.trans rfl hw)
    | dsimp only [id]
    | lift_lets
    | with_reducible refine keeps_ite ?_ ?_)

theorem State.ttdpIn_keeps {w : Nat} {s0 s : State} (hw : Sub 0x920004 w) (h : Keeps w s0 s) (rx : Sys2Proof.Rx) :
    Keeps w s0 (State.ttdpIn s rx).1 := by
  unfold State.ttdpIn
  repeat' (first
    | with_reducible assumption
    | (intro t_; first | (with_reducible refine keeps_cut (w := w) (s := s0) (t := t_) ?_ ?_; intro ht_; rotate_left; dsimp -zeta only [t_]) | skip)
    | with_reducible apply State.takeRx_keeps (Sub.trans rfl hw)
    | with_reducible apply State.pst_keeps (Sub.trans rfl hw)
    | lift_lets
    | with_reducible refine keeps_ite ?_ ?_
    | split
    | (clear_value *; split)
    | with_reducible refine keeps_fst_ite ?_ ?_
    | (with_reducible refine keeps_of_eq (by assumption) ?_)
    | dsimp -zeta only)

theorem execHelloRx_keeps (rx : Sys2Proof.Rx) (uid : Sys2Proof.Uid) (hearsUs : Bool) (s : State) :
    ∃ t_, execHelloRx rx uid hearsUs s = .next t_ ∧ Keeps 0x3b2dd4c s t_ := by
  have h := Keeps.refl 0x3b2dd4c s
  have hw := Sub.refl 0x3b2dd4c
  
  refine ⟨_, rfl, ?_⟩
  repeat' (first
    | with_reducible assumption
    | (intro t_; first | (with_reducible refine keeps_cut (w := w) (s := s0) (t := t_) ?_ ?_; intro ht_; rotate_left; dsimp -zeta only [t_]) | skip)
    | with_reducible apply State.ttdpIn_keeps (Sub.trans rfl hw)
    | with_reducible apply State.when_keeps (Sub.trans rfl hw)
    | with_reducible apply State.withNbr_keeps (Sub.trans rfl hw)
    | with_reducible apply State.mark_keeps (Sub.trans rfl hw)
    | with_reducible apply State.setTw_keeps (Sub.trans rfl hw)
    | with_reducible apply State.setTb_keeps (Sub.trans rfl hw)
    | with_reducible apply State.setTuid_keeps (Sub.trans rfl hw)
    | dsimp only [id]
    | lift_lets
    | with_reducible refine keeps_ite ?_ ?_
    | split
    | (clear_value *; split)
    | with_reducible refine keeps_fst_ite ?_ ?_
    | (with_reducible refine keeps_of_eq (by assumption) ?_))

theorem execHelloTimeout_keeps (p : Sys2Proof.Port) (s : State) :
    ∃ t_, execHelloTimeout p s = .next t_ ∧ Keeps 0x330ddcc s t_ := by
  have h := Keeps.refl 0x330ddcc s
  have hw := Sub.refl 0x330ddcc
  
  refine ⟨_, rfl, ?_⟩
  repeat' (first
    | with_reducible assumption
    | (intro t_; first | (with_reducible refine keeps_cut (w := w) (s := s0) (t := t_) ?_ ?_; intro ht_; rotate_left; dsimp -zeta only [t_]) | skip)
    | with_reducible apply State.when_keeps (Sub.trans rfl hw)
    | with_reducible apply State.loseNbr_keeps (Sub.trans rfl hw)
    | with_reducible apply State.reachFrom_keeps (Sub.trans rfl hw)
    | dsimp only [id]
    | lift_lets
    | with_reducible refine keeps_ite ?_ ?_)

theorem execCplDebounceDone_keeps (sd : Sys2Proof.Side) (s : State) :
    ∃ t_, execCplDebounceDone sd s = .next t_ ∧ Keeps 0x3004184 s t_ := by
  have h := Keeps.refl 0x3004184 s
  have hw := Sub.refl 0x3004184
  
  refine ⟨_, rfl, ?_⟩
  repeat' (first
    | with_reducible assumption
    | (intro t_; first | (with_reducible refine keeps_cut (w := w) (s := s0) (t := t_) ?_ ?_; intro ht_; rotate_left; dsimp -zeta only [t_]) | skip)
    | with_reducible apply State.when_keeps (Sub.trans rfl hw)
    | with_reducible apply State.coupleDetect_keeps (Sub.trans rfl hw)
    | with_reducible apply State.expire_keeps (Sub.trans rfl hw)
    | dsimp only [id]
    | lift_lets
    | with_reducible refine keeps_ite ?_ ?_)

theorem execCouplePendTimeout_keeps (sd : Sys2Proof.Side) (s : State) :
    ∃ t_, execCouplePendTimeout sd s = .next t_ ∧ Keeps 0x3004184 s t_ := by
  have h := Keeps.refl 0x3004184 s
  have hw := Sub.refl 0x3004184
  
  refine ⟨_, rfl, ?_⟩
  repeat' (first
    | with_reducible assumption
    | (intro t_; first | (with_reducible refine keeps_cut (w := w) (s := s0) (t := t_) ?_ ?_; intro ht_; rotate_left; dsimp -zeta only [t_]) | skip)
    | with_reducible apply State.when_keeps (Sub.trans rfl hw)
    | with_reducible apply State.setCouple_keeps (Sub.trans rfl hw)
    | with_reducible apply State.reachFrom_keeps (Sub.trans rfl hw)
    | dsimp only [id]
    | lift_lets
    | with_reducible refine keeps_ite ?_ ?_)

theorem State.evalAgree_keeps {w : Nat} {s0 s : State} (hw : Sub 0x100410c w) (h : Keeps w s0 s) :
    Keeps w s0 (State.evalAgree s) := by
  unfold State.evalAgree
  repeat' (first
    | with_reducible assumption
    | (intro t_; first | (with_reducible refine keeps_cut (w := w) (s := s0) (t := t_) ?_ ?_; intro ht_; rotate_left; dsimp -zeta only [t_]) | skip)
    | with_reducible apply State.raiseIna_keeps (Sub.trans rfl hw)
    | with_reducible apply State.setIna_keeps (Sub.trans rfl hw)
    | with_reducible apply State.countF_keeps (Sub.trans rfl hw)
    | with_reducible apply State.enterCommit_keeps (Sub.trans rfl hw)
    | lift_lets
    | with_reducible refine keeps_ite ?_ ?_)

theorem execTopologySend_keeps (s : State) :
    ∃ t_, execTopologySend s = .next t_ ∧ Keeps 0x792418c s t_ := by
  have h := Keeps.refl 0x792418c s
  have hw := Sub.refl 0x792418c
  have b2 := Sub.bit (i := 2) hw rfl; have b3 := Sub.bit (i := 3) hw rfl; have b7 := Sub.bit (i := 7) hw rfl; have b8 := Sub.bit (i := 8) hw rfl; have b14 := Sub.bit (i := 14) hw rfl; have b17 := Sub.bit (i := 17) hw rfl; have b20 := Sub.bit (i := 20) hw rfl; have b23 := Sub.bit (i := 23) hw rfl; have b24 := Sub.bit (i := 24) hw rfl; have b25 := Sub.bit (i := 25) hw rfl; have b26 := Sub.bit (i := 26) hw rfl; 
  refine ⟨_, rfl, ?_⟩
  repeat' (first
    | with_reducible assumption
    | (intro t_; first | (with_reducible refine keeps_cut (w := w) (s := s0) (t := t_) ?_ ?_; intro ht_; rotate_left; dsimp -zeta only [t_]) | skip)
    | with_reducible apply State.when_keeps (Sub.trans rfl hw)
    | with_reducible apply State.mark_keeps (Sub.trans rfl hw)
    | with_reducible apply State.reachFrom_keeps (Sub.trans rfl hw)
    | with_reducible apply State.each_keeps (Sub.trans rfl hw)
    | with_reducible apply State.queueTtdp_keeps (Sub.trans rfl hw)
    | with_reducible apply State.evalAgree_keeps (Sub.trans rfl hw)
    | with_reducible apply State.roundEnd_keeps (Sub.trans rfl hw)
    | dsimp only [id]
    | lift_lets
    | with_reducible refine keeps_ite ?_ ?_
    | with_reducible refine keeps_upd ?_ (fun x => x) (fun x => x) (.inr rfl) (.inl b2) (.inl b3) (.inr rfl) (.inr rfl) (.inl b7) (.inl b8) (.inr rfl) (.inr rfl) (.inr rfl) (.inr rfl) (.inr rfl) (.inl b14) (.inr rfl) (.inr rfl) (.inl b17) (.inr rfl) (.inr rfl) (.inl b20) (.inr rfl) (.inr rfl) (.inl b23) (.inl b24) (.inl b25) (.inl b26))

theorem State.recordTopology_keeps {w : Nat} {s0 s : State} (hw : Sub 0x4000 w) (h : Keeps w s0 s) (p : Nat) (f : Sys2Proof.Topology) :
    Keeps w s0 (State.recordTopology s p f) := by
  have b14 := Sub.bit (i := 14) hw rfl
  unfold State.recordTopology
  repeat' (first
    | with_reducible assumption
    | (intro t_; first | (with_reducible refine keeps_cut (w := w) (s := s0) (t := t_) ?_ ?_; intro ht_; rotate_left; dsimp -zeta only [t_]) | skip)
    | lift_lets
    | with_reducible refine keeps_ite ?_ ?_
    | with_reducible refine keeps_fst_ite ?_ ?_
    | (with_reducible refine keeps_of_eq (by assumption) ?_)
    | with_reducible refine keeps_upd ?_ (fun x => x) (fun x => x) (.inr rfl) (.inr rfl) (.inr rfl) (.inr rfl) (.inr rfl) (.inr rfl) (.inr rfl) (.inr rfl) (.inr rfl) (.inr rfl) (.inr rfl) (.inr rfl) (.inl b14) (.inr rfl) (.inr rfl) (.inr rfl) (.inr rfl) (.inr rfl) (.inr rfl) (.inr rfl) (.inr rfl) (.inr rfl) (.inr rfl) (.inr rfl) (.inr rfl))

theorem State.takeTopology_keeps {w : Nat} {s0 s : State} (hw : Sub 0x100450c w) (h : Keeps w s0 s) (p : Nat) (f : Sys2Proof.Topology) :
    Keeps w s0 (State.takeTopology s p f) := by
  unfold State.takeTopology
  repeat' (first
    | with_reducible assumption
    | (intro t_; first | (with_reducible refine keeps_cut (w := w) (s := s0) (t := t_) ?_ ?_; intro ht_; rotate_left; dsimp -zeta only [t_]) | skip)
    | with_reducible apply State.countF_keeps (Sub.trans rfl hw)
    | with_reducible apply State.recordTopology_keeps (Sub.trans rfl hw)
    | with_reducible apply State.change_keeps (Sub.trans rfl hw)
    | with_reducible apply State.evalInhibit_keeps (Sub.trans rfl hw)
    | with_reducible apply State.report_keeps (Sub.trans rfl hw)
    | lift_lets
    | with_reducible refine keeps_ite ?_ ?_
    | with_reducible refine keeps_fst_ite ?_ ?_
    | (with_reducible refine keeps_of_eq (by assumption) ?_))

theorem execTopologyRx_keeps (rx : Sys2Proof.Rx) (f : Sys2Proof.Topology) (s : State) :
    ∃ t_, execTopologyRx rx f s = .next t_ ∧ Keeps 0x192450c s t_ := by
  have h := Keeps.refl 0x192450c s
  have hw := Sub.refl 0x192450c
  
  refine ⟨_, rfl, ?_⟩
  repeat' (first
    | with_reducible assumption
    | (intro t_; first | (with_reducible refine keeps_cut (w := w) (s := s0) (t := t_) ?_ ?_; intro ht_; rotate_left; dsimp -zeta only [t_]) | skip)
    | with_reducible apply State.ttdpIn_keeps (Sub.trans rfl hw)
    | with_reducible apply State.when_keeps (Sub.trans rfl hw)
    | with_reducible apply State.takeTopology_keeps (Sub.trans rfl hw)
    | dsimp only [id]
    | lift_lets
    | with_reducible refine keeps_ite ?_ ?_
    | split
    | (clear_value *; split)
    | with_reducible refine keeps_fst_ite ?_ ?_
    | (with_reducible refine keeps_of_eq (by assumption) ?_))

theorem execTopologyRelay_keeps (p : Sys2Proof.Port) (f : Sys2Proof.Topology) (s : State) :
    ∃ t_, execTopologyRelay p f s = .next t_ ∧ Keeps 0x6924104 s t_ := by
  have h := Keeps.refl 0x6924104 s
  have hw := Sub.refl 0x6924104
  have b2 := Sub.bit (i := 2) hw rfl; have b8 := Sub.bit (i := 8) hw rfl; have b14 := Sub.bit (i := 14) hw rfl; have b17 := Sub.bit (i := 17) hw rfl; have b20 := Sub.bit (i := 20) hw rfl; have b23 := Sub.bit (i := 23) hw rfl; have b25 := Sub.bit (i := 25) hw rfl; have b26 := Sub.bit (i := 26) hw rfl; 
  refine ⟨_, rfl, ?_⟩
  repeat' (first
    | with_reducible assumption
    | (intro t_; first | (with_reducible refine keeps_cut (w := w) (s := s0) (t := t_) ?_ ?_; intro ht_; rotate_left; dsimp -zeta only [t_]) | skip)
    | with_reducible apply State.when_keeps (Sub.trans rfl hw)
    | with_reducible apply State.queueTtdp_keeps (Sub.trans rfl hw)
    | dsimp only [id]
    | lift_lets
    | with_reducible refine keeps_ite ?_ ?_
    | with_reducible refine keeps_fst_ite ?_ ?_
    | (with_reducible refine keeps_of_eq (by assumption) ?_)
    | with_reducible refine keeps_upd ?_ (fun x => x) (fun x => x) (.inr rfl) (.inl b2) (.inr rfl) (.inr rfl) (.inr rfl) (.inr rfl) (.inl b8) (.inr rfl) (.inr rfl) (.inr rfl) (.inr rfl) (.inr rfl) (.inl b14) (.inr rfl) (.inr rfl) (.inl b17) (.inr rfl) (.inr rfl) (.inl b20) (.inr rfl) (.inr rfl) (.inl b23) (.inr rfl) (.inl b25) (.inl b26))

theorem execStableTimeout_keeps (s : State) :
    ∃ t_, execStableTimeout s = .next t_ ∧ Keeps 0x3004184 s t_ := by
  have h := Keeps.refl 0x3004184 s
  have hw := Sub.refl 0x3004184
  
  refine ⟨_, rfl, ?_⟩
  repeat' (first
    | with_reducible assumption
    | (intro t_; first | (with_reducible refine keeps_cut (w := w) (s := s0) (t := t_) ?_ ?_; intro ht_; rotate_left; dsimp -zeta only [t_]) | skip)
    | with_reducible apply State.when_keeps (Sub.trans rfl hw)
    | with_reducible apply State.reachFrom_keeps (Sub.trans rfl hw)
    | with_reducible apply State.raiseIna_keeps (Sub.trans rfl hw)
    | with_reducible apply State.wrB_keeps (Sub.trans rfl hw)
    | with_reducible apply State.setIna_keeps (Sub.trans rfl hw)
    | with_reducible apply State.clearAgree_keeps (Sub.trans rfl hw)
    | dsimp only [id]
    | lift_lets
    | with_reducible refine keeps_ite ?_ ?_)

theorem execShadowWriteDone_keeps (s : State) :
    ∃ t_, execShadowWriteDone s = .next t_ ∧ Keeps 0x4104 s t_ := by
  have h := Keeps.refl 0x4104 s
  have hw := Sub.refl 0x4104
  have b2 := Sub.bit (i := 2) hw rfl; have b8 := Sub.bit (i := 8) hw rfl; have b14 := Sub.bit (i := 14) hw rfl; 
  refine ⟨_, rfl, ?_⟩
  repeat' (first
    | with_reducible assumption
    | (intro t_; first | (with_reducible refine keeps_cut (w := w) (s := s0) (t := t_) ?_ ?_; intro ht_; rotate_left; dsimp -zeta only [t_]) | skip)
    | with_reducible apply State.when_keeps (Sub.trans rfl hw)
    | with_reducible apply State.raiseIna_keeps (Sub.trans rfl hw)
    | dsimp only [id]
    | lift_lets
    | with_reducible refine keeps_ite ?_ ?_
    | with_reducible refine keeps_upd ?_ (fun x => x) (fun x => x) (.inr rfl) (.inl b2) (.inr rfl) (.inr rfl) (.inr rfl) (.inr rfl) (.inl b8) (.inr rfl) (.inr rfl) (.inr rfl) (.inr rfl) (.inr rfl) (.inl b14) (.inr rfl) (.inr rfl) (.inr rfl) (.inr rfl) (.inr rfl) (.inr rfl) (.inr rfl) (.inr rfl) (.inr rfl) (.inr rfl) (.inr rfl) (.inr rfl))

theorem execCommitTimeout_keeps (s : State) :
    ∃ t_, execCommitTimeout s = .next t_ ∧ Keeps 0x100450c s t_ := by
  have h := Keeps.refl 0x100450c s
  have hw := Sub.refl 0x100450c
  
  refine ⟨_, rfl, ?_⟩
  repeat' (first
    | with_reducible assumption
    | (intro t_; first | (with_reducible refine keeps_cut (w := w) (s := s0) (t := t_) ?_ ?_; intro ht_; rotate_left; dsimp -zeta only [t_]) | skip)
    | with_reducible apply State.when_keeps (Sub.trans rfl hw)
    | with_reducible apply State.frog_keeps (Sub.trans rfl hw)
    | dsimp only [id]
    | lift_lets
    | with_reducible refine keeps_ite ?_ ?_)

theorem State.inaRestart_keeps {w : Nat} {s0 s : State} (hw : Sub 0x100450c w) (h : Keeps w s0 s) :
    Keeps w s0 (State.inaRestart s) := by
  unfold State.inaRestart
  repeat' (first
    | with_reducible assumption
    | (intro t_; first | (with_reducible refine keeps_cut (w := w) (s := s0) (t := t_) ?_ ?_; intro ht_; rotate_left; dsimp -zeta only [t_]) | skip)
    | with_reducible apply State.when_keeps (Sub.trans rfl hw)
    | with_reducible apply State.change_keeps (Sub.trans rfl hw)
    | dsimp only [id]
    | lift_lets
    | with_reducible refine keeps_ite ?_ ?_)

theorem execInaRestart_keeps (s : State) :
    ∃ t_, execInaRestart s = .next t_ ∧ Keeps 0x130450c s t_ := by
  have h := Keeps.refl 0x130450c s
  have hw := Sub.refl 0x130450c
  
  refine ⟨_, rfl, ?_⟩
  repeat' (first
    | with_reducible assumption
    | (intro t_; first | (with_reducible refine keeps_cut (w := w) (s := s0) (t := t_) ?_ ?_; intro ht_; rotate_left; dsimp -zeta only [t_]) | skip)
    | with_reducible apply State.guarded_keeps (Sub.trans rfl hw)
    | with_reducible apply State.inaRestart_keeps (Sub.trans rfl hw)
    | dsimp only [id]
    | lift_lets
    | with_reducible refine keeps_ite ?_ ?_)

theorem execLocalCommitTimer_keeps (s : State) :
    ∃ t_, execLocalCommitTimer s = .next t_ ∧ Keeps 0x33cfdcc s t_ := by
  have h := Keeps.refl 0x33cfdcc s
  have hw := Sub.refl 0x33cfdcc
  
  refine ⟨_, rfl, ?_⟩
  repeat' (first
    | with_reducible assumption
    | (intro t_; first | (with_reducible refine keeps_cut (w := w) (s := s0) (t := t_) ?_ ?_; intro ht_; rotate_left; dsimp -zeta only [t_]) | skip)
    | with_reducible apply State.when_keeps (Sub.trans rfl hw)
    | with_reducible apply State.reachFrom_keeps (Sub.trans rfl hw)
    | with_reducible apply State.mvbRecheck_keeps (Sub.trans rfl hw)
    | with_reducible apply State.blockNow_keeps (Sub.trans rfl hw)
    | with_reducible apply State.endSpan_keeps (Sub.trans rfl hw)
    | dsimp only [id]
    | lift_lets
    | with_reducible refine keeps_ite ?_ ?_)

theorem State.takeClaim_keeps {w : Nat} {s0 s : State} (hw : Sub 0x4000 w) (h : Keeps w s0 s) (n : Nat) (u : Sys2Proof.Uid) (spare : Nat) :
    Keeps w s0 (State.takeClaim s n u spare) := by
  have b14 := Sub.bit (i := 14) hw rfl
  unfold State.takeClaim
  repeat' (first
    | with_reducible assumption
    | (intro t_; first | (with_reducible refine keeps_cut (w := w) (s := s0) (t := t_) ?_ ?_; intro ht_; rotate_left; dsimp -zeta only [t_]) | skip)
    | lift_lets
    | with_reducible refine keeps_ite ?_ ?_
    | with_reducible refine keeps_fst_ite ?_ ?_
    | (with_reducible refine keeps_of_eq (by assumption) ?_)
    | with_reducible refine keeps_upd ?_ (fun x => x) (fun x => x) (.inr rfl) (.inr rfl) (.inr rfl) (.inr rfl) (.inr rfl) (.inr rfl) (.inr rfl) (.inr rfl) (.inr rfl) (.inr rfl) (.inr rfl) (.inr rfl) (.inl b14) (.inr rfl) (.inr rfl) (.inr rfl) (.inr rfl) (.inr rfl) (.inr rfl) (.inr rfl) (.inr rfl) (.inr rfl) (.inr rfl) (.inr rfl) (.inr rfl))

theorem State.sendClaim_keeps {w : Nat} {s0 s : State} (hw : Sub 0x7924584 w) (h : Keeps w s0 s) (sid : Nat) (spare : Nat) (e : Sys2Proof.Machine.Stitch) :
    Keeps w s0 (State.sendClaim s sid spare e) := by
  have b2 := Sub.bit (i := 2) hw rfl; have b7 := Sub.bit (i := 7) hw rfl; have b8 := Sub.bit (i := 8) hw rfl; have b10 := Sub.bit (i := 10) hw rfl; have b14 := Sub.bit (i := 14) hw rfl; have b17 := Sub.bit (i := 17) hw rfl; have b20 := Sub.bit (i := 20) hw rfl; have b23 := Sub.bit (i := 23) hw rfl; have b24 := Sub.bit (i := 24) hw rfl; have b25 := Sub.bit (i := 25) hw rfl; have b26 := Sub.bit (i := 26) hw rfl
  unfold State.sendClaim
  repeat' (first
    | with_reducible assumption
    | (intro t_; first | (with_reducible refine keeps_cut (w := w) (s := s0) (t := t_) ?_ ?_; intro ht_; rotate_left; dsimp -zeta only [t_]) | skip)
    | with_reducible apply State.reachSt_keeps (Sub.trans rfl hw)
    | with_reducible apply State.sendCopies_keeps (Sub.trans rfl hw)
    | with_reducible apply State.countF_keeps (Sub.trans rfl hw)
    | with_reducible apply State.when_keeps (Sub.trans rfl hw)
    | with_reducible apply State.sendCoupling_keeps (Sub.trans rfl hw)
    | with_reducible apply State.wrF_keeps (Sub.trans rfl hw)
    | with_reducible apply State.wrB_keeps (Sub.trans rfl hw)
    | with_reducible apply State.takeClaim_keeps (Sub.trans rfl hw)
    | dsimp only [id]
    | lift_lets
    | with_reducible refine keeps_ite ?_ ?_
    | with_reducible refine keeps_fst_ite ?_ ?_
    | (with_reducible refine keeps_of_eq (by assumption) ?_)
    | with_reducible refine keeps_upd ?_ (fun x => x) (fun x => x) (.inr rfl) (.inl b2) (.inr rfl) (.inr rfl) (.inr rfl) (.inl b7) (.inl b8) (.inr rfl) (.inl b10) (.inr rfl) (.inr rfl) (.inr rfl) (.inl b14) (.inr rfl) (.inr rfl) (.inl b17) (.inr rfl) (.inr rfl) (.inl b20) (.inr rfl) (.inr rfl) (.inl b23) (.inl b24) (.inl b25) (.inl b26))

theorem execClaimSend_keeps (sid : Fin 4096) (s : State) :
    ∃ t_, execClaimSend sid s = .next t_ ∧ Keeps 0x7924584 s t_ := by
  have h := Keeps.refl 0x7924584 s
  have hw := Sub.refl 0x7924584
  
  refine ⟨_, rfl, ?_⟩
  repeat' (first
    | with_reducible assumption
    | (intro t_; first | (with_reducible refine keeps_cut (w := w) (s := s0) (t := t_) ?_ ?_; intro ht_; rotate_left; dsimp -zeta only [t_]) | skip)
    | with_reducible apply State.sendClaim_keeps (Sub.trans rfl hw)
    | lift_lets
    | with_reducible refine keeps_ite ?_ ?_
    | split
    | (clear_value *; split))

theorem execClaimRx_keeps (rx : Sys2Proof.Rx) (x_h : Sys2Proof.Hdr) (b : Sys2Proof.Claim) (s : State) :
    ∃ t_, execClaimRx rx x_h b s = .next t_ ∧ Keeps 0x6924104 s t_ := by
  have h := Keeps.refl 0x6924104 s
  have hw := Sub.refl 0x6924104
  
  refine ⟨_, rfl, ?_⟩
  repeat' (first
    | with_reducible assumption
    | (intro t_; first | (with_reducible refine keeps_cut (w := w) (s := s0) (t := t_) ?_ ?_; intro ht_; rotate_left; dsimp -zeta only [t_]) | skip)
    | with_reducible apply State.takeStitch_keeps (Sub.trans rfl hw)
    | with_reducible apply State.takeClaim_keeps (Sub.trans rfl hw)
    | lift_lets
    | with_reducible refine keeps_ite ?_ ?_
    | split
    | (clear_value *; split)
    | with_reducible refine keeps_fst_ite ?_ ?_
    | (with_reducible refine keeps_of_eq (by assumption) ?_))

theorem State.trainReq_keeps {w : Nat} {s0 s : State} (hw : Sub 0x4104 w) (h : Keeps w s0 s) :
    Keeps w s0 (State.trainReq s) := by
  unfold State.trainReq
  repeat' (first
    | with_reducible assumption
    | (intro t_; first | (with_reducible refine keeps_cut (w := w) (s := s0) (t := t_) ?_ ?_; intro ht_; rotate_left; dsimp -zeta only [t_]) | skip)
    | with_reducible apply State.raiseSch_keeps (Sub.trans rfl hw)
    | with_reducible apply State.announce_keeps (Sub.trans rfl hw)
    | lift_lets
    | with_reducible refine keeps_ite ?_ ?_)

theorem execTrainBlockingReq_keeps (s : State) :
    ∃ t_, execTrainBlockingReq s = .next t_ ∧ Keeps 0x304104 s t_ := by
  have h := Keeps.refl 0x304104 s
  have hw := Sub.refl 0x304104
  
  refine ⟨_, rfl, ?_⟩
  repeat' (first
    | with_reducible assumption
    | (intro t_; first | (with_reducible refine keeps_cut (w := w) (s := s0) (t := t_) ?_ ?_; intro ht_; rotate_left; dsimp -zeta only [t_]) | skip)
    | with_reducible apply State.guarded_keeps (Sub.trans rfl hw)
    | with_reducible apply State.trainReq_keeps (Sub.trans rfl hw)
    | dsimp only [id]
    | lift_lets
    | with_reducible refine keeps_ite ?_ ?_)

theorem State.localReq_keeps {w : Nat} {s0 s : State} (hw : Sub 0x4104 w) (h : Keeps w s0 s) :
    Keeps w s0 (State.localReq s) := by
  have b2 := Sub.bit (i := 2) hw rfl; have b8 := Sub.bit (i := 8) hw rfl; have b14 := Sub.bit (i := 14) hw rfl
  unfold State.localReq
  repeat' (first
    | with_reducible assumption
    | (intro t_; first | (with_reducible refine keeps_cut (w := w) (s := s0) (t := t_) ?_ ?_; intro ht_; rotate_left; dsimp -zeta only [t_]) | skip)
    | with_reducible apply State.raiseSch_keeps (Sub.trans rfl hw)
    | with_reducible apply State.when_keeps (Sub.trans rfl hw)
    | with_reducible apply State.wrB_keeps (Sub.trans rfl hw)
    | with_reducible apply State.raise_keeps (Sub.trans rfl hw)
    | with_reducible apply State.spanStart_keeps (Sub.trans rfl hw)
    | dsimp only [id]
    | lift_lets
    | with_reducible refine keeps_ite ?_ ?_
    | with_reducible refine keeps_upd ?_ (fun x => x) (fun x => x) (.inr rfl) (.inl b2) (.inr rfl) (.inr rfl) (.inr rfl) (.inr rfl) (.inl b8) (.inr rfl) (.inr rfl) (.inr rfl) (.inr rfl) (.inr rfl) (.inl b14) (.inr rfl) (.inr rfl) (.inr rfl) (.inr rfl) (.inr rfl) (.inr rfl) (.inr rfl) (.inr rfl) (.inr rfl) (.inr rfl) (.inr rfl) (.inr rfl))

theorem execLocalBlockingReq_keeps (s : State) :
    ∃ t_, execLocalBlockingReq s = .next t_ ∧ Keeps 0x304104 s t_ := by
  have h := Keeps.refl 0x304104 s
  have hw := Sub.refl 0x304104
  
  refine ⟨_, rfl, ?_⟩
  repeat' (first
    | with_reducible assumption
    | (intro t_; first | (with_reducible refine keeps_cut (w := w) (s := s0) (t := t_) ?_ ?_; intro ht_; rotate_left; dsimp -zeta only [t_]) | skip)
    | with_reducible apply State.guarded_keeps (Sub.trans rfl hw)
    | with_reducible apply State.localReq_keeps (Sub.trans rfl hw)
    | dsimp only [id]
    | lift_lets
    | with_reducible refine keeps_ite ?_ ?_)

theorem execBankedTableWrite_keeps (addr : Nat) (value : Sys2Proof.Word) (s : State) :
    ∃ t_, execBankedTableWrite addr value s = .next t_ ∧ Keeps 0x32810c s t_ := by
  have h := Keeps.refl 0x32810c s
  have hw := Sub.refl 0x32810c
  
  refine ⟨_, rfl, ?_⟩
  repeat' (first
    | with_reducible assumption
    | (intro t_; first | (with_reducible refine keeps_cut (w := w) (s := s0) (t := t_) ?_ ?_; intro ht_; rotate_left; dsimp -zeta only [t_]) | skip)
    | with_reducible apply State.when_keeps (Sub.trans rfl hw)
    | with_reducible apply State.guarded_keeps (Sub.trans rfl hw)
    | with_reducible apply State.winWrite_keeps (Sub.trans rfl hw)
    | dsimp only [id]
    | lift_lets
    | with_reducible refine keeps_ite ?_ ?_)

theorem execDirAgeExpiry_keeps (d : Sys2Proof.Die) (index : Fin 65536) (s : State) :
    ∃ t_, execDirAgeExpiry d index s = .next t_ ∧ Keeps 0x300818c s t_ := by
  have h := Keeps.refl 0x300818c s
  have hw := Sub.refl 0x300818c
  
  refine ⟨_, rfl, ?_⟩
  repeat' (first
    | with_reducible assumption
    | (intro t_; first | (with_reducible refine keeps_cut (w := w) (s := s0) (t := t_) ?_ ?_; intro ht_; rotate_left; dsimp -zeta only [t_]) | skip)
    | with_reducible apply State.when_keeps (Sub.trans rfl hw)
    | with_reducible apply State.evalTables_keeps (Sub.trans rfl hw)
    | with_reducible apply State.noteEnt_keeps (Sub.trans rfl hw)
    | with_reducible apply State.clearWin_keeps (Sub.trans rfl hw)
    | with_reducible apply State.reachAt_keeps (Sub.trans rfl hw)
    | dsimp only [id]
    | lift_lets
    | with_reducible refine keeps_ite ?_ ?_)

theorem State.flushAll_keeps {w : Nat} {s0 s : State} (hw : Sub 0xc w) (h : Keeps w s0 s) :
    Keeps w s0 (State.flushAll s) := by
  unfold State.flushAll
  repeat' (first
    | with_reducible assumption
    | (intro t_; first | (with_reducible refine keeps_cut (w := w) (s := s0) (t := t_) ?_ ?_; intro ht_; rotate_left; dsimp -zeta only [t_]) | skip)
    | with_reducible apply State.each_keeps (Sub.trans rfl hw)
    | with_reducible apply State.evalTables_keeps (Sub.trans rfl hw)
    | with_reducible apply State.flushLearned_keeps (Sub.trans rfl hw)
    | lift_lets
    | with_reducible refine keeps_ite ?_ ?_)

theorem execFlushLearned_keeps (s : State) :
    ∃ t_, execFlushLearned s = .next t_ ∧ Keeps 0x30010c s t_ := by
  have h := Keeps.refl 0x30010c s
  have hw := Sub.refl 0x30010c
  
  refine ⟨_, rfl, ?_⟩
  repeat' (first
    | with_reducible assumption
    | (intro t_; first | (with_reducible refine keeps_cut (w := w) (s := s0) (t := t_) ?_ ?_; intro ht_; rotate_left; dsimp -zeta only [t_]) | skip)
    | with_reducible apply State.guarded_keeps (Sub.trans rfl hw)
    | with_reducible apply State.flushAll_keeps (Sub.trans rfl hw)
    | dsimp only [id]
    | lift_lets
    | with_reducible refine keeps_ite ?_ ?_)

end Sys2Proof.Machine
end

