-- ==== Sys2Proof/Laws/Pages.lean ====
section
/-! SUPPORT. What the functions of Machine/Pages.lean keep, one lemma for each. -/

namespace Sys2Proof.Machine

theorem State.evtClear_keeps {w : Nat} {s0 s : State} (hw : Sub 0x104 w) (h : Keeps w s0 s) (base : Nat) (ones : Sys2Proof.Word) (set : Sys2Proof.Word) :
    Keeps w s0 (State.evtClear s base ones set) := by
  unfold State.evtClear
  repeat' (first
    | with_reducible assumption
    | (intro t_; first | (with_reducible refine keeps_cut (w := w) (s := s0) (t := t_) ?_ ?_; intro ht_; rotate_left; dsimp -zeta only [t_]) | skip)
    | with_reducible apply State.wr_keeps (Sub.trans rfl hw)
    | with_reducible apply State.each_keeps (Sub.trans rfl hw)
    | with_reducible apply State.when_keeps (Sub.trans rfl hw)
    | with_reducible apply State.raise_keeps (Sub.trans rfl hw)
    | dsimp only [id]
    | lift_lets
    | with_reducible refine keeps_ite ?_ ?_)

theorem execPgEvtClear_keeps (page : Nat) (ones : Sys2Proof.Word) (set : Sys2Proof.Word) (s : State) :
    ∃ t_, execPgEvtClear page ones set s = .next t_ ∧ Keeps 0x300104 s t_ := by
  have h := Keeps.refl 0x300104 s
  have hw := Sub.refl 0x300104
  
  refine ⟨_, rfl, ?_⟩
  repeat' (first
    | with_reducible assumption
    | (intro t_; first | (with_reducible refine keeps_cut (w := w) (s := s0) (t := t_) ?_ ?_; intro ht_; rotate_left; dsimp -zeta only [t_]) | skip)
    | with_reducible apply State.when_keeps (Sub.trans rfl hw)
    | with_reducible apply State.guarded_keeps (Sub.trans rfl hw)
    | with_reducible apply State.evtClear_keeps (Sub.trans rfl hw)
    | dsimp only [id]
    | lift_lets
    | with_reducible refine keeps_ite ?_ ?_)

theorem State.evenWrite_keeps {w : Nat} {s0 s : State} (hw : Sub 0x104 w) (h : Keeps w s0 s) (base : Nat) (v : Sys2Proof.Word) :
    Keeps w s0 (State.evenWrite s base v) := by
  unfold State.evenWrite
  repeat' (first
    | with_reducible assumption
    | (intro t_; first | (with_reducible refine keeps_cut (w := w) (s := s0) (t := t_) ?_ ?_; intro ht_; rotate_left; dsimp -zeta only [t_]) | skip)
    | with_reducible apply State.edges_keeps (Sub.trans rfl hw)
    | with_reducible apply State.wr_keeps (Sub.trans rfl hw)
    | lift_lets
    | with_reducible refine keeps_ite ?_ ?_)

theorem State.portHeld_keeps {w : Nat} {s0 s : State} (hw : Sub 0x7b2dd4c w) (h : Keeps w s0 s) (p : Nat) :
    Keeps w s0 (State.portHeld s p) := by
  unfold State.portHeld
  repeat' (first
    | with_reducible assumption
    | (intro t_; first | (with_reducible refine keeps_cut (w := w) (s := s0) (t := t_) ?_ ?_; intro ht_; rotate_left; dsimp -zeta only [t_]) | skip)
    | with_reducible apply State.when_keeps (Sub.trans rfl hw)
    | with_reducible apply State.linkDown_keeps (Sub.trans rfl hw)
    | with_reducible apply State.lineLost_keeps (Sub.trans rfl hw)
    | dsimp only [id]
    | lift_lets
    | with_reducible refine keeps_ite ?_ ?_)

theorem State.enableWrite_keeps {w : Nat} {s0 s : State} (hw : Sub 0x7bedd4c w) (h : Keeps w s0 s) (p : Sys2Proof.Machine.Page) (v : Bool) :
    Keeps w s0 (State.enableWrite s p v) := by
  unfold State.enableWrite
  repeat' (first
    | with_reducible assumption
    | (intro t_; first | (with_reducible refine keeps_cut (w := w) (s := s0) (t := t_) ?_ ?_; intro ht_; rotate_left; dsimp -zeta only [t_]) | skip)
    | with_reducible apply State.when_keeps (Sub.trans rfl hw)
    | with_reducible apply State.wrB_keeps (Sub.trans rfl hw)
    | with_reducible apply State.portHeld_keeps (Sub.trans rfl hw)
    | with_reducible apply State.fldEnable_keeps (Sub.trans rfl hw)
    | dsimp only [id]
    | lift_lets
    | with_reducible refine keeps_ite ?_ ?_
    | split
    | (clear_value *; split))

theorem execPortEnableWrite_keeps (page : Nat) (v : Bool) (s : State) :
    ∃ t_, execPortEnableWrite page v s = .next t_ ∧ Keeps 0x7bedd4c s t_ := by
  have h := Keeps.refl 0x7bedd4c s
  have hw := Sub.refl 0x7bedd4c
  
  refine ⟨_, rfl, ?_⟩
  repeat' (first
    | with_reducible assumption
    | (intro t_; first | (with_reducible refine keeps_cut (w := w) (s := s0) (t := t_) ?_ ?_; intro ht_; rotate_left; dsimp -zeta only [t_]) | skip)
    | with_reducible apply State.guarded_keeps (Sub.trans rfl hw)
    | with_reducible apply State.enableWrite_keeps (Sub.trans rfl hw)
    | dsimp only [id]
    | lift_lets
    | with_reducible refine keeps_ite ?_ ?_
    | split
    | (clear_value *; split))

theorem State.powerWrite_keeps {w : Nat} {s0 s : State} (hw : Sub 0x7b2dd4c w) (h : Keeps w s0 s) (n : Nat) (v : Nat) :
    Keeps w s0 (State.powerWrite s n v) := by
  unfold State.powerWrite
  repeat' (first
    | with_reducible assumption
    | (intro t_; first | (with_reducible refine keeps_cut (w := w) (s := s0) (t := t_) ?_ ?_; intro ht_; rotate_left; dsimp -zeta only [t_]) | skip)
    | with_reducible apply State.evalFloors_keeps (Sub.trans rfl hw)
    | with_reducible apply State.when_keeps (Sub.trans rfl hw)
    | with_reducible apply State.wrF_keeps (Sub.trans rfl hw)
    | with_reducible apply State.portHeld_keeps (Sub.trans rfl hw)
    | dsimp only [id]
    | lift_lets
    | with_reducible refine keeps_ite ?_ ?_)

theorem execPowerReqWrite_keeps (p : Sys2Proof.Port) (v : BitVec 2) (s : State) :
    ∃ t_, execPowerReqWrite p v s = .next t_ ∧ Keeps 0x7b2dd4c s t_ := by
  have h := Keeps.refl 0x7b2dd4c s
  have hw := Sub.refl 0x7b2dd4c
  
  refine ⟨_, rfl, ?_⟩
  repeat' (first
    | with_reducible assumption
    | (intro t_; first | (with_reducible refine keeps_cut (w := w) (s := s0) (t := t_) ?_ ?_; intro ht_; rotate_left; dsimp -zeta only [t_]) | skip)
    | with_reducible apply State.when_keeps (Sub.trans rfl hw)
    | with_reducible apply State.guarded_keeps (Sub.trans rfl hw)
    | with_reducible apply State.powerWrite_keeps (Sub.trans rfl hw)
    | dsimp only [id]
    | lift_lets
    | with_reducible refine keeps_ite ?_ ?_)

theorem State.softBefore_keeps {w : Nat} {s0 s : State} (hw : Sub 0x7b6ddcc w) (h : Keeps w s0 s) (p : Sys2Proof.Machine.Page) :
    Keeps w s0 (State.softBefore s p) := by
  have b2 := Sub.bit (i := 2) hw rfl; have b3 := Sub.bit (i := 3) hw rfl; have b6 := Sub.bit (i := 6) hw rfl; have b7 := Sub.bit (i := 7) hw rfl; have b8 := Sub.bit (i := 8) hw rfl; have b10 := Sub.bit (i := 10) hw rfl; have b11 := Sub.bit (i := 11) hw rfl; have b12 := Sub.bit (i := 12) hw rfl; have b14 := Sub.bit (i := 14) hw rfl; have b15 := Sub.bit (i := 15) hw rfl; have b17 := Sub.bit (i := 17) hw rfl; have b18 := Sub.bit (i := 18) hw rfl; have b20 := Sub.bit (i := 20) hw rfl; have b21 := Sub.bit (i := 21) hw rfl; have b23 := Sub.bit (i := 23) hw rfl; have b24 := Sub.bit (i := 24) hw rfl; have b25 := Sub.bit (i := 25) hw rfl; have b26 := Sub.bit (i := 26) hw rfl
  unfold State.softBefore
  repeat' (first
    | with_reducible assumption
    | (intro t_; first | (with_reducible refine keeps_cut (w := w) (s := s0) (t := t_) ?_ ?_; intro ht_; rotate_left; dsimp -zeta only [t_]) | skip)
    | with_reducible apply State.keepCrd_keeps (Sub.trans rfl hw)
    | with_reducible apply State.linkLost_keeps (Sub.trans rfl hw)
    | with_reducible apply State.portHeld_keeps (Sub.trans rfl hw)
    | with_reducible apply State.dropToken_keeps (Sub.trans rfl hw)
    | with_reducible apply State.each_keeps (Sub.trans rfl hw)
    | with_reducible apply State.fldStop_keeps (Sub.trans rfl hw)
    | with_reducible apply State.releaseLine_keeps (Sub.trans rfl hw)
    | with_reducible apply State.rgnCount_keeps (Sub.trans rfl hw)
    | with_reducible apply State.pcieDown_keeps (Sub.trans rfl hw)
    | with_reducible apply State.setInsLine_keeps (Sub.trans rfl hw)
    | lift_lets
    | with_reducible refine keeps_ite ?_ ?_
    | split
    | (clear_value *; split)
    | with_reducible refine keeps_upd ?_ (fun x => x) (fun x => x) (.inr rfl) (.inl b2) (.inl b3) (.inr rfl) (.inl b6) (.inl b7) (.inl b8) (.inr rfl) (.inl b10) (.inl b11) (.inl b12) (.inr rfl) (.inl b14) (.inl b15) (.inr rfl) (.inl b17) (.inl b18) (.inr rfl) (.inl b20) (.inl b21) (.inr rfl) (.inl b23) (.inl b24) (.inl b25) (.inl b26))

theorem State.softHidden_keeps {w : Nat} {s0 s : State} (hw : Sub 0x1dfd44 w) (h : Keeps w s0 s) (p : Sys2Proof.Machine.Page) :
    Keeps w s0 (State.softHidden s p) := by
  have b2 := Sub.bit (i := 2) hw rfl; have b6 := Sub.bit (i := 6) hw rfl; have b8 := Sub.bit (i := 8) hw rfl; have b10 := Sub.bit (i := 10) hw rfl; have b11 := Sub.bit (i := 11) hw rfl; have b12 := Sub.bit (i := 12) hw rfl; have b13 := Sub.bit (i := 13) hw rfl; have b14 := Sub.bit (i := 14) hw rfl; have b15 := Sub.bit (i := 15) hw rfl; have b16 := Sub.bit (i := 16) hw rfl; have b18 := Sub.bit (i := 18) hw rfl; have b19 := Sub.bit (i := 19) hw rfl; have b20 := Sub.bit (i := 20) hw rfl
  unfold State.softHidden
  repeat' (first
    | with_reducible assumption
    | (intro t_; first | (with_reducible refine keeps_cut (w := w) (s := s0) (t := t_) ?_ ?_; intro ht_; rotate_left; dsimp -zeta only [t_]) | skip)
    | with_reducible apply State.setBist_keeps (Sub.trans rfl hw)
    | with_reducible apply State.clearLive_keeps (Sub.trans rfl hw)
    | lift_lets
    | with_reducible refine keeps_ite ?_ ?_
    | split
    | (clear_value *; split)
    | with_reducible refine keeps_fst_ite ?_ ?_
    | (with_reducible refine keeps_of_eq (by assumption) ?_)
    | with_reducible refine keeps_upd ?_ (fun x => x) (fun x => x) (.inr rfl) (.inl b2) (.inr rfl) (.inr rfl) (.inl b6) (.inr rfl) (.inl b8) (.inr rfl) (.inl b10) (.inl b11) (.inl b12) (.inl b13) (.inl b14) (.inl b15) (.inl b16) (.inr rfl) (.inl b18) (.inl b19) (.inl b20) (.inr rfl) (.inr rfl) (.inr rfl) (.inr rfl) (.inr rfl) (.inr rfl))

theorem State.softAfter_keeps {w : Nat} {s0 s : State} (hw : Sub 0x3300144 w) (h : Keeps w s0 s) (p : Sys2Proof.Machine.Page) (base : Nat) :
    Keeps w s0 (State.softAfter s p base) := by
  unfold State.softAfter
  repeat' (first
    | with_reducible assumption
    | (intro t_; first | (with_reducible refine keeps_cut (w := w) (s := s0) (t := t_) ?_ ?_; intro ht_; rotate_left; dsimp -zeta only [t_]) | skip)
    | with_reducible apply State.loadLat_keeps (Sub.trans rfl hw)
    | with_reducible apply State.evalPort_keeps (Sub.trans rfl hw)
    | with_reducible apply State.wr_keeps (Sub.trans rfl hw)
    | with_reducible apply State.each_keeps (Sub.trans rfl hw)
    | with_reducible apply State.wrB_keeps (Sub.trans rfl hw)
    | with_reducible apply State.evalNbr_keeps (Sub.trans rfl hw)
    | with_reducible apply State.wrF_keeps (Sub.trans rfl hw)
    | with_reducible apply State.evalTables_keeps (Sub.trans rfl hw)
    | with_reducible apply State.evalBuf_keeps (Sub.trans rfl hw)
    | with_reducible apply State.evalShared_keeps (Sub.trans rfl hw)
    | with_reducible apply State.evalFloors_keeps (Sub.trans rfl hw)
    | with_reducible apply State.evalTok_keeps (Sub.trans rfl hw)
    | with_reducible apply State.loadOtp_keeps (Sub.trans rfl hw)
    | with_reducible apply State.meterOn_keeps (Sub.trans rfl hw)
    | with_reducible apply State.evalNeed_keeps (Sub.trans rfl hw)
    | with_reducible apply State.evalRelays_keeps (Sub.trans rfl hw)
    | lift_lets
    | with_reducible refine keeps_ite ?_ ?_
    | with_reducible apply keeps_foldl
    | with_reducible apply keeps_foldl_fst
    | split
    | (clear_value *; split))

theorem State.softTimers_keeps {w : Nat} {s0 s : State} (hw : Sub 0x1000000 w) (h : Keeps w s0 s) (p : Sys2Proof.Machine.Page) (base : Nat) :
    Keeps w s0 (State.softTimers s p base) := by
  unfold State.softTimers
  repeat' (first
    | with_reducible assumption
    | (intro t_; first | (with_reducible refine keeps_cut (w := w) (s := s0) (t := t_) ?_ ?_; intro ht_; rotate_left; dsimp -zeta only [t_]) | skip)
    | with_reducible apply State.dropTimers_keeps (Sub.trans rfl hw)
    | lift_lets
    | with_reducible refine keeps_ite ?_ ?_
    | split
    | (clear_value *; split))

theorem State.softKeep_keeps {w : Nat} {s0 t : State} (hw : Sub 0x10104 w) (h : Keeps w s0 t) (s : Sys2Proof.Machine.State) (p : Sys2Proof.Machine.Page) :
    Keeps w s0 (State.softKeep s t p) := by
  unfold State.softKeep
  repeat' (first
    | with_reducible assumption
    | (intro t_; first | (with_reducible refine keeps_cut (w := w) (s := s0) (t := t_) ?_ ?_; intro ht_; rotate_left; dsimp -zeta only [t_]) | skip)
    | with_reducible apply State.wrB_keeps (Sub.trans rfl hw)
    | with_reducible apply State.when_keeps (Sub.trans rfl hw)
    | with_reducible apply State.raise_keeps (Sub.trans rfl hw)
    | with_reducible apply State.setGuard_keeps (Sub.trans rfl hw)
    | with_reducible apply State.wrF_keeps (Sub.trans rfl hw)
    | dsimp only [id]
    | lift_lets
    | with_reducible refine keeps_ite ?_ ?_
    | split
    | (clear_value *; split))

theorem State.softNow_keeps {w : Nat} {s0 s : State} (hw : Sub 0x7bffdec w) (h : Keeps w s0 s) (p : Sys2Proof.Machine.Page) (base : Nat) :
    Keeps w s0 (State.softNow s p base) := by
  have b2 := Sub.bit (i := 2) hw rfl; have b3 := Sub.bit (i := 3) hw rfl; have b5 := Sub.bit (i := 5) hw rfl; have b6 := Sub.bit (i := 6) hw rfl; have b7 := Sub.bit (i := 7) hw rfl; have b8 := Sub.bit (i := 8) hw rfl; have b10 := Sub.bit (i := 10) hw rfl; have b11 := Sub.bit (i := 11) hw rfl; have b12 := Sub.bit (i := 12) hw rfl; have b13 := Sub.bit (i := 13) hw rfl; have b14 := Sub.bit (i := 14) hw rfl; have b15 := Sub.bit (i := 15) hw rfl; have b16 := Sub.bit (i := 16) hw rfl; have b17 := Sub.bit (i := 17) hw rfl; have b18 := Sub.bit (i := 18) hw rfl; have b19 := Sub.bit (i := 19) hw rfl; have b20 := Sub.bit (i := 20) hw rfl; have b21 := Sub.bit (i := 21) hw rfl; have b23 := Sub.bit (i := 23) hw rfl; have b24 := Sub.bit (i := 24) hw rfl; have b25 := Sub.bit (i := 25) hw rfl; have b26 := Sub.bit (i := 26) hw rfl
  unfold State.softNow
  repeat' (first
    | with_reducible assumption
    | with_reducible exact (fun _ => Sparse.wf_nil)
    | with_reducible exact (fun _ => Sparse.wf_set Sparse.wf_nil)
    | with_reducible exact (fun x => Sparse.wf_drop x)
    | with_reducible exact (fun x => x)
    | with_reducible exact (fun x => rfl)
    | (intro t_; first | (with_reducible refine keeps_cut (w := w) (s := s0) (t := t_) ?_ ?_; intro ht_; rotate_left; dsimp -zeta only [t_]) | skip)
    | with_reducible apply State.softBefore_keeps (Sub.trans rfl hw)
    | with_reducible apply State.softTimers_keeps (Sub.trans rfl hw)
    | with_reducible apply State.wrB_keeps (Sub.trans rfl hw)
    | with_reducible apply State.wrF_keeps (Sub.trans rfl hw)
    | with_reducible apply State.wr_keeps (Sub.trans rfl hw)
    | with_reducible apply State.softKeep_keeps (Sub.trans rfl hw)
    | with_reducible apply State.softAfter_keeps (Sub.trans rfl hw)
    | with_reducible apply State.softHidden_keeps (Sub.trans rfl hw)
    | lift_lets
    | with_reducible refine keeps_ite ?_ ?_
    | with_reducible refine keeps_fst_ite ?_ ?_
    | (with_reducible refine keeps_of_eq (by assumption) ?_)
    | with_reducible refine keeps_upd ?_ ?_ ?_ (.inr rfl) (.inl b2) (.inl b3) (.inl b5) (.inl b6) (.inl b7) (.inl b8) (.inr rfl) (.inl b10) (.inl b11) (.inl b12) (.inl b13) (.inl b14) (.inl b15) (.inl b16) (.inl b17) (.inl b18) (.inl b19) (.inl b20) (.inl b21) (.inr rfl) (.inl b23) (.inl b24) (.inl b25) (.inl b26))

theorem State.softReset_keeps {w : Nat} {s0 s : State} (hw : Sub 0x7bffdec w) (h : Keeps w s0 s) (p : Sys2Proof.Machine.Page) (base : Nat) :
    Keeps w s0 (State.softReset s p base) := by
  have b2 := Sub.bit (i := 2) hw rfl; have b3 := Sub.bit (i := 3) hw rfl; have b5 := Sub.bit (i := 5) hw rfl; have b6 := Sub.bit (i := 6) hw rfl; have b7 := Sub.bit (i := 7) hw rfl; have b8 := Sub.bit (i := 8) hw rfl; have b10 := Sub.bit (i := 10) hw rfl; have b11 := Sub.bit (i := 11) hw rfl; have b12 := Sub.bit (i := 12) hw rfl; have b13 := Sub.bit (i := 13) hw rfl; have b14 := Sub.bit (i := 14) hw rfl; have b15 := Sub.bit (i := 15) hw rfl; have b16 := Sub.bit (i := 16) hw rfl; have b17 := Sub.bit (i := 17) hw rfl; have b18 := Sub.bit (i := 18) hw rfl; have b19 := Sub.bit (i := 19) hw rfl; have b20 := Sub.bit (i := 20) hw rfl; have b21 := Sub.bit (i := 21) hw rfl; have b23 := Sub.bit (i := 23) hw rfl; have b24 := Sub.bit (i := 24) hw rfl; have b25 := Sub.bit (i := 25) hw rfl; have b26 := Sub.bit (i := 26) hw rfl
  unfold State.softReset
  repeat' (first
    | with_reducible assumption
    | (intro t_; first | (with_reducible refine keeps_cut (w := w) (s := s0) (t := t_) ?_ ?_; intro ht_; rotate_left; dsimp -zeta only [t_]) | skip)
    | with_reducible apply State.softNow_keeps (Sub.trans rfl hw)
    | lift_lets
    | with_reducible refine keeps_ite ?_ ?_
    | with_reducible refine keeps_upd ?_ (fun x => x) (fun x => x) (.inr rfl) (.inl b2) (.inl b3) (.inl b5) (.inl b6) (.inl b7) (.inl b8) (.inr rfl) (.inl b10) (.inl b11) (.inl b12) (.inl b13) (.inl b14) (.inl b15) (.inl b16) (.inl b17) (.inl b18) (.inl b19) (.inl b20) (.inl b21) (.inr rfl) (.inl b23) (.inl b24) (.inl b25) (.inl b26))

theorem execSoftReset_keeps (page : Nat) (s : State) :
    ∃ t_, execSoftReset page s = .next t_ ∧ Keeps 0x7bffdec s t_ := by
  have h := Keeps.refl 0x7bffdec s
  have hw := Sub.refl 0x7bffdec
  
  refine ⟨_, rfl, ?_⟩
  repeat' (first
    | with_reducible assumption
    | (intro t_; first | (with_reducible refine keeps_cut (w := w) (s := s0) (t := t_) ?_ ?_; intro ht_; rotate_left; dsimp -zeta only [t_]) | skip)
    | with_reducible apply State.guarded_keeps (Sub.trans rfl hw)
    | with_reducible apply State.softReset_keeps (Sub.trans rfl hw)
    | dsimp only [id]
    | lift_lets
    | with_reducible refine keeps_ite ?_ ?_
    | split
    | (clear_value *; split))

theorem execSoftResetDone_keeps (page : Nat) (s : State) :
    ∃ t_, execSoftResetDone page s = .next t_ ∧ Keeps 0x4 s t_ := by
  have h := Keeps.refl 0x4 s
  have hw := Sub.refl 0x4
  
  refine ⟨_, rfl, ?_⟩
  repeat' (first
    | with_reducible assumption
    | (intro t_; first | (with_reducible refine keeps_cut (w := w) (s := s0) (t := t_) ?_ ?_; intro ht_; rotate_left; dsimp -zeta only [t_]) | skip)
    | with_reducible apply State.when_keeps (Sub.trans rfl hw)
    | with_reducible apply State.wrB_keeps (Sub.trans rfl hw)
    | dsimp only [id]
    | lift_lets
    | with_reducible refine keeps_ite ?_ ?_)

theorem State.mdioGo_keeps {w : Nat} {s0 s : State} (hw : Sub 0x3000004 w) (h : Keeps w s0 s) (m : Nat) (v : Sys2Proof.Word) :
    Keeps w s0 (State.mdioGo s m v) := by
  unfold State.mdioGo
  repeat' (first
    | with_reducible assumption
    | (intro t_; first | (with_reducible refine keeps_cut (w := w) (s := s0) (t := t_) ?_ ?_; intro ht_; rotate_left; dsimp -zeta only [t_]) | skip)
    | with_reducible apply State.wr_keeps (Sub.trans rfl hw)
    | with_reducible apply State.when_keeps (Sub.trans rfl hw)
    | with_reducible apply State.mdioSend_keeps (Sub.trans rfl hw)
    | dsimp only [id]
    | lift_lets
    | with_reducible refine keeps_ite ?_ ?_)

theorem State.mdioCmd_keeps {w : Nat} {s0 s : State} (hw : Sub 0x3300104 w) (h : Keeps w s0 s) (m : Nat) (c45 : Bool) (op : Nat) (phy : Nat) (reg : Nat) :
    Keeps w s0 (State.mdioCmd s m c45 op phy reg) := by
  unfold State.mdioCmd
  repeat' (first
    | with_reducible assumption
    | (intro t_; first | (with_reducible refine keeps_cut (w := w) (s := s0) (t := t_) ?_ ?_; intro ht_; rotate_left; dsimp -zeta only [t_]) | skip)
    | with_reducible apply State.guarded_keeps (Sub.trans rfl hw)
    | with_reducible apply State.mdioGo_keeps (Sub.trans rfl hw)
    | dsimp only [id]
    | lift_lets
    | with_reducible refine keeps_ite ?_ ?_)

theorem execMdioC22Write_keeps (m : Fin 2) (phy : BitVec 5) (reg : BitVec 5) (s : State) :
    ∃ t_, execMdioC22Write m phy reg s = .next t_ ∧ Keeps 0x3300104 s t_ := by
  have h := Keeps.refl 0x3300104 s
  have hw := Sub.refl 0x3300104
  
  refine ⟨_, rfl, ?_⟩
  repeat' (first
    | with_reducible assumption
    | (intro t_; first | (with_reducible refine keeps_cut (w := w) (s := s0) (t := t_) ?_ ?_; intro ht_; rotate_left; dsimp -zeta only [t_]) | skip)
    | with_reducible apply State.mdioCmd_keeps (Sub.trans rfl hw)
    | lift_lets
    | with_reducible refine keeps_ite ?_ ?_)

theorem execMdioC22Read_keeps (m : Fin 2) (phy : BitVec 5) (reg : BitVec 5) (s : State) :
    ∃ t_, execMdioC22Read m phy reg s = .next t_ ∧ Keeps 0x3300104 s t_ := by
  have h := Keeps.refl 0x3300104 s
  have hw := Sub.refl 0x3300104
  
  refine ⟨_, rfl, ?_⟩
  repeat' (first
    | with_reducible assumption
    | (intro t_; first | (with_reducible refine keeps_cut (w := w) (s := s0) (t := t_) ?_ ?_; intro ht_; rotate_left; dsimp -zeta only [t_]) | skip)
    | with_reducible apply State.mdioCmd_keeps (Sub.trans rfl hw)
    | lift_lets
    | with_reducible refine keeps_ite ?_ ?_)

theorem execMdioC45Address_keeps (m : Fin 2) (phy : BitVec 5) (reg : BitVec 5) (s : State) :
    ∃ t_, execMdioC45Address m phy reg s = .next t_ ∧ Keeps 0x3300104 s t_ := by
  have h := Keeps.refl 0x3300104 s
  have hw := Sub.refl 0x3300104
  
  refine ⟨_, rfl, ?_⟩
  repeat' (first
    | with_reducible assumption
    | (intro t_; first | (with_reducible refine keeps_cut (w := w) (s := s0) (t := t_) ?_ ?_; intro ht_; rotate_left; dsimp -zeta only [t_]) | skip)
    | with_reducible apply State.mdioCmd_keeps (Sub.trans rfl hw)
    | lift_lets
    | with_reducible refine keeps_ite ?_ ?_)

theorem execMdioC45Write_keeps (m : Fin 2) (phy : BitVec 5) (reg : BitVec 5) (s : State) :
    ∃ t_, execMdioC45Write m phy reg s = .next t_ ∧ Keeps 0x3300104 s t_ := by
  have h := Keeps.refl 0x3300104 s
  have hw := Sub.refl 0x3300104
  
  refine ⟨_, rfl, ?_⟩
  repeat' (first
    | with_reducible assumption
    | (intro t_; first | (with_reducible refine keeps_cut (w := w) (s := s0) (t := t_) ?_ ?_; intro ht_; rotate_left; dsimp -zeta only [t_]) | skip)
    | with_reducible apply State.mdioCmd_keeps (Sub.trans rfl hw)
    | lift_lets
    | with_reducible refine keeps_ite ?_ ?_)

theorem execMdioC45Read_keeps (m : Fin 2) (phy : BitVec 5) (reg : BitVec 5) (s : State) :
    ∃ t_, execMdioC45Read m phy reg s = .next t_ ∧ Keeps 0x3300104 s t_ := by
  have h := Keeps.refl 0x3300104 s
  have hw := Sub.refl 0x3300104
  
  refine ⟨_, rfl, ?_⟩
  repeat' (first
    | with_reducible assumption
    | (intro t_; first | (with_reducible refine keeps_cut (w := w) (s := s0) (t := t_) ?_ ?_; intro ht_; rotate_left; dsimp -zeta only [t_]) | skip)
    | with_reducible apply State.mdioCmd_keeps (Sub.trans rfl hw)
    | lift_lets
    | with_reducible refine keeps_ite ?_ ?_)

theorem execMdioC45ReadInc_keeps (m : Fin 2) (phy : BitVec 5) (reg : BitVec 5) (s : State) :
    ∃ t_, execMdioC45ReadInc m phy reg s = .next t_ ∧ Keeps 0x3300104 s t_ := by
  have h := Keeps.refl 0x3300104 s
  have hw := Sub.refl 0x3300104
  
  refine ⟨_, rfl, ?_⟩
  repeat' (first
    | with_reducible assumption
    | (intro t_; first | (with_reducible refine keeps_cut (w := w) (s := s0) (t := t_) ?_ ?_; intro ht_; rotate_left; dsimp -zeta only [t_]) | skip)
    | with_reducible apply State.mdioCmd_keeps (Sub.trans rfl hw)
    | lift_lets
    | with_reducible refine keeps_ite ?_ ?_)

theorem State.mdioEnd_keeps {w : Nat} {s0 s : State} (hw : Sub 0x104 w) (h : Keeps w s0 s) (m : Nat) (data : Nat) (noTa : Bool) :
    Keeps w s0 (State.mdioEnd s m data noTa) := by
  unfold State.mdioEnd
  repeat' (first
    | with_reducible assumption
    | (intro t_; first | (with_reducible refine keeps_cut (w := w) (s := s0) (t := t_) ?_ ?_; intro ht_; rotate_left; dsimp -zeta only [t_]) | skip)
    | with_reducible apply State.when_keeps (Sub.trans rfl hw)
    | with_reducible apply State.wr_keeps (Sub.trans rfl hw)
    | with_reducible apply State.raise_keeps (Sub.trans rfl hw)
    | dsimp only [id]
    | lift_lets
    | with_reducible refine keeps_ite ?_ ?_)

theorem execMdioDone_keeps (m : Fin 2) (data : BitVec 16) (noTa : Bool) (s : State) :
    ∃ t_, execMdioDone m data noTa s = .next t_ ∧ Keeps 0x3000184 s t_ := by
  have h := Keeps.refl 0x3000184 s
  have hw := Sub.refl 0x3000184
  
  refine ⟨_, rfl, ?_⟩
  repeat' (first
    | with_reducible assumption
    | (intro t_; first | (with_reducible refine keeps_cut (w := w) (s := s0) (t := t_) ?_ ?_; intro ht_; rotate_left; dsimp -zeta only [t_]) | skip)
    | with_reducible apply State.when_keeps (Sub.trans rfl hw)
    | with_reducible apply State.mdioEnd_keeps (Sub.trans rfl hw)
    | with_reducible apply State.expire_keeps (Sub.trans rfl hw)
    | dsimp only [id]
    | lift_lets
    | with_reducible refine keeps_ite ?_ ?_)

end Sys2Proof.Machine
end

