-- ==== Sys2Proof/Laws/Bus.lean ====
section
/-! SUPPORT. What the functions of Machine/Bus.lean keep, one lemma for each. -/

namespace Sys2Proof.Machine

theorem State.storeReg_keeps {w : Nat} {s0 s : State} (hw : Sub 0x4 w) (h : Keeps w s0 s) (a : Nat) (v : Sys2Proof.Word) :
    Keeps w s0 (State.storeReg s a v) := by
  unfold State.storeReg
  repeat' (first
    | with_reducible assumption
    | (intro t_; first | (with_reducible refine keeps_cut (w := w) (s := s0) (t := t_) ?_ ?_; intro ht_; rotate_left; dsimp -zeta only [t_]) | skip)
    | with_reducible apply State.wr_keeps (Sub.trans rfl hw)
    | lift_lets
    | with_reducible refine keeps_ite ?_ ?_
    | split
    | (clear_value *; split))

theorem State.bootGo_keeps {w : Nat} {s0 s : State} (hw : Sub 0x4 w) (h : Keeps w s0 s) :
    Keeps w s0 (State.bootGo s) := by
  unfold State.bootGo
  repeat' (first
    | with_reducible assumption
    | (intro t_; first | (with_reducible refine keeps_cut (w := w) (s := s0) (t := t_) ?_ ?_; intro ht_; rotate_left; dsimp -zeta only [t_]) | skip)
    | with_reducible apply State.when_keeps (Sub.trans rfl hw)
    | with_reducible apply State.wrF_keeps (Sub.trans rfl hw)
    | dsimp only [id]
    | lift_lets
    | with_reducible refine keeps_ite ?_ ?_)

theorem State.bootAgain_keeps {w : Nat} {s0 s : State} (hw : Sub 0x44 w) (h : Keeps w s0 s) :
    Keeps w s0 (State.bootAgain s) := by
  have b2 := Sub.bit (i := 2) hw rfl; have b6 := Sub.bit (i := 6) hw rfl
  unfold State.bootAgain
  repeat' (first
    | with_reducible assumption
    | (intro t_; first | (with_reducible refine keeps_cut (w := w) (s := s0) (t := t_) ?_ ?_; intro ht_; rotate_left; dsimp -zeta only [t_]) | skip)
    | with_reducible apply State.when_keeps (Sub.trans rfl hw)
    | with_reducible apply State.wrF_keeps (Sub.trans rfl hw)
    | dsimp only [id]
    | lift_lets
    | with_reducible refine keeps_ite ?_ ?_
    | with_reducible refine keeps_upd ?_ (fun x => x) (fun x => x) (.inr rfl) (.inl b2) (.inr rfl) (.inr rfl) (.inl b6) (.inr rfl) (.inr rfl) (.inr rfl) (.inr rfl) (.inr rfl) (.inr rfl) (.inr rfl) (.inr rfl) (.inr rfl) (.inr rfl) (.inr rfl) (.inr rfl) (.inr rfl) (.inr rfl) (.inr rfl) (.inr rfl) (.inr rfl) (.inr rfl) (.inr rfl) (.inr rfl))

theorem State.busDie_keeps {w : Nat} {s0 s : State} (hw : Sub 0x3000044 w) (h : Keeps w s0 s) (a : Nat) (v : Sys2Proof.Word) :
    Keeps w s0 (State.busDie s a v) := by
  unfold State.busDie
  repeat' (first
    | with_reducible assumption
    | (intro t_; first | (with_reducible refine keeps_cut (w := w) (s := s0) (t := t_) ?_ ?_; intro ht_; rotate_left; dsimp -zeta only [t_]) | skip)
    | with_reducible apply State.bootGo_keeps (Sub.trans rfl hw)
    | with_reducible apply State.bootAgain_keeps (Sub.trans rfl hw)
    | with_reducible apply State.mdioGo_keeps (Sub.trans rfl hw)
    | with_reducible apply State.storeReg_keeps (Sub.trans rfl hw)
    | lift_lets
    | with_reducible refine keeps_ite ?_ ?_)

theorem State.busEvcCtl_keeps {w : Nat} {s0 s : State} (hw : Sub 0x7300104 w) (h : Keeps w s0 s) (a : Nat) (v : Sys2Proof.Word) :
    Keeps w s0 (State.busEvcCtl s a v) := by
  unfold State.busEvcCtl
  repeat' (first
    | with_reducible assumption
    | (intro t_; first | (with_reducible refine keeps_cut (w := w) (s := s0) (t := t_) ?_ ?_; intro ht_; rotate_left; dsimp -zeta only [t_]) | skip)
    | with_reducible apply State.srcCmd_keeps (Sub.trans rfl hw)
    | with_reducible apply State.setPend_keeps (Sub.trans rfl hw)
    | with_reducible apply State.clearPend_keeps (Sub.trans rfl hw)
    | with_reducible apply State.setSrcB_keeps (Sub.trans rfl hw)
    | with_reducible apply State.forceDone_keeps (Sub.trans rfl hw)
    | with_reducible apply State.tgtEnWrite_keeps (Sub.trans rfl hw)
    | with_reducible apply State.doneWrite_keeps (Sub.trans rfl hw)
    | with_reducible apply State.rqCfgWrite_keeps (Sub.trans rfl hw)
    | with_reducible apply State.consWrite_keeps (Sub.trans rfl hw)
    | with_reducible apply State.evalEvc_keeps (Sub.trans rfl hw)
    | with_reducible apply State.moderate_keeps (Sub.trans rfl hw)
    | with_reducible apply State.storeReg_keeps (Sub.trans rfl hw)
    | dsimp only [id]
    | lift_lets
    | with_reducible refine keeps_ite ?_ ?_
    | split
    | (clear_value *; split))

theorem State.busEvcMap_keeps {w : Nat} {s0 s : State} (hw : Sub 0x7000104 w) (h : Keeps w s0 s) (d : Nat) (a : Nat) (v : Sys2Proof.Word) :
    Keeps w s0 (State.busEvcMap s d a v) := by
  unfold State.busEvcMap
  repeat' (first
    | with_reducible assumption
    | (intro t_; first | (with_reducible refine keeps_cut (w := w) (s := s0) (t := t_) ?_ ?_; intro ht_; rotate_left; dsimp -zeta only [t_]) | skip)
    | with_reducible apply State.bitmapWrite_keeps (Sub.trans rfl hw)
    | lift_lets
    | with_reducible refine keeps_ite ?_ ?_)

theorem State.busDomain_keeps {w : Nat} {s0 s : State} (hw : Sub 0x1000184 w) (h : Keeps w s0 s) (d : Nat) (a : Nat) (v : Sys2Proof.Word) :
    Keeps w s0 (State.busDomain s d a v) := by
  unfold State.busDomain
  repeat' (first
    | with_reducible assumption
    | (intro t_; first | (with_reducible refine keeps_cut (w := w) (s := s0) (t := t_) ?_ ?_; intro ht_; rotate_left; dsimp -zeta only [t_]) | skip)
    | with_reducible apply State.when_keeps (Sub.trans rfl hw)
    | with_reducible apply State.storeReg_keeps (Sub.trans rfl hw)
    | with_reducible apply State.writeGm_keeps (Sub.trans rfl hw)
    | with_reducible apply State.writeLost_keeps (Sub.trans rfl hw)
    | with_reducible apply State.holdEnd_keeps (Sub.trans rfl hw)
    | with_reducible apply State.askTens_keeps (Sub.trans rfl hw)
    | with_reducible apply State.askStep_keeps (Sub.trans rfl hw)
    | with_reducible apply State.setTime_keeps (Sub.trans rfl hw)
    | with_reducible apply State.setSeqs_keeps (Sub.trans rfl hw)
    | with_reducible apply State.setSlave_keeps (Sub.trans rfl hw)
    | dsimp only [id]
    | lift_lets
    | with_reducible refine keeps_ite ?_ ?_)

theorem State.busTmu_keeps {w : Nat} {s0 s : State} (hw : Sub 0x3000184 w) (h : Keeps w s0 s) (d : Nat) (a : Nat) (v : Sys2Proof.Word) :
    Keeps w s0 (State.busTmu s d a v) := by
  unfold State.busTmu
  repeat' (first
    | with_reducible assumption
    | (intro t_; first | (with_reducible refine keeps_cut (w := w) (s := s0) (t := t_) ?_ ?_; intro ht_; rotate_left; dsimp -zeta only [t_]) | skip)
    | with_reducible apply State.selectRck_keeps (Sub.trans rfl hw)
    | with_reducible apply State.wrB_keeps (Sub.trans rfl hw)
    | with_reducible apply State.when_keeps (Sub.trans rfl hw)
    | with_reducible apply State.storeReg_keeps (Sub.trans rfl hw)
    | with_reducible apply State.ppsLow_keeps (Sub.trans rfl hw)
    | with_reducible apply State.capture_keeps (Sub.trans rfl hw)
    | with_reducible apply State.retarget_keeps (Sub.trans rfl hw)
    | with_reducible apply State.armTimer_keeps (Sub.trans rfl hw)
    | with_reducible apply State.busDomain_keeps (Sub.trans rfl hw)
    | dsimp only [id]
    | lift_lets
    | with_reducible refine keeps_ite ?_ ?_)

theorem State.busPrt_keeps {w : Nat} {s0 s : State} (hw : Sub 0x30104 w) (h : Keeps w s0 s) (p : Nat) (a : Nat) (v : Sys2Proof.Word) :
    Keeps w s0 (State.busPrt s p a v) := by
  unfold State.busPrt
  repeat' (first
    | with_reducible assumption
    | (intro t_; first | (with_reducible refine keeps_cut (w := w) (s := s0) (t := t_) ?_ ?_; intro ht_; rotate_left; dsimp -zeta only [t_]) | skip)
    | with_reducible apply State.grdCtrl_keeps (Sub.trans rfl hw)
    | with_reducible apply State.deferWrite_keeps (Sub.trans rfl hw)
    | with_reducible apply State.reserveWrite_keeps (Sub.trans rfl hw)
    | with_reducible apply State.storeReg_keeps (Sub.trans rfl hw)
    | lift_lets
    | with_reducible refine keeps_ite ?_ ?_)

theorem State.busSch_keeps {w : Nat} {s0 s : State} (hw : Sub 0x34504 w) (h : Keeps w s0 s) (d : Nat) (a : Nat) (v : Sys2Proof.Word) :
    Keeps w s0 (State.busSch s d a v) := by
  unfold State.busSch
  repeat' (first
    | with_reducible assumption
    | (intro t_; first | (with_reducible refine keeps_cut (w := w) (s := s0) (t := t_) ?_ ?_; intro ht_; rotate_left; dsimp -zeta only [t_]) | skip)
    | with_reducible apply State.schRegWrite_keeps (Sub.trans rfl hw)
    | with_reducible apply State.chkWrite_keeps (Sub.trans rfl hw)
    | with_reducible apply State.swapWrite_keeps (Sub.trans rfl hw)
    | with_reducible apply State.when_keeps (Sub.trans rfl hw)
    | with_reducible apply State.trainReq_keeps (Sub.trans rfl hw)
    | with_reducible apply State.localReq_keeps (Sub.trans rfl hw)
    | with_reducible apply State.gpioNext_keeps (Sub.trans rfl hw)
    | with_reducible apply State.storeReg_keeps (Sub.trans rfl hw)
    | with_reducible apply State.wrF_keeps (Sub.trans rfl hw)
    | with_reducible apply State.wrSch_keeps (Sub.trans rfl hw)
    | with_reducible apply State.deferWrite_keeps (Sub.trans rfl hw)
    | dsimp only [id]
    | lift_lets
    | with_reducible refine keeps_ite ?_ ?_)

theorem State.busIna_keeps {w : Nat} {s0 s : State} (hw : Sub 0x100450c w) (h : Keeps w s0 s) (a : Nat) (v : Sys2Proof.Word) :
    Keeps w s0 (State.busIna s a v) := by
  unfold State.busIna
  repeat' (first
    | with_reducible assumption
    | (intro t_; first | (with_reducible refine keeps_cut (w := w) (s := s0) (t := t_) ?_ ?_; intro ht_; rotate_left; dsimp -zeta only [t_]) | skip)
    | with_reducible apply State.when_keeps (Sub.trans rfl hw)
    | with_reducible apply State.evalInhibit_keeps (Sub.trans rfl hw)
    | with_reducible apply State.storeReg_keeps (Sub.trans rfl hw)
    | with_reducible apply State.inaRestart_keeps (Sub.trans rfl hw)
    | dsimp only [id]
    | lift_lets
    | with_reducible refine keeps_ite ?_ ?_)

theorem State.busFwd_keeps {w : Nat} {s0 s : State} (hw : Sub 0x10c w) (h : Keeps w s0 s) (d : Nat) (a : Nat) (v : Sys2Proof.Word) :
    Keeps w s0 (State.busFwd s d a v) := by
  unfold State.busFwd
  repeat' (first
    | with_reducible assumption
    | (intro t_; first | (with_reducible refine keeps_cut (w := w) (s := s0) (t := t_) ?_ ?_; intro ht_; rotate_left; dsimp -zeta only [t_]) | skip)
    | with_reducible apply State.when_keeps (Sub.trans rfl hw)
    | with_reducible apply State.flushAll_keeps (Sub.trans rfl hw)
    | with_reducible apply State.storeReg_keeps (Sub.trans rfl hw)
    | with_reducible apply State.each_keeps (Sub.trans rfl hw)
    | with_reducible apply State.evalTrain_keeps (Sub.trans rfl hw)
    | with_reducible apply State.switchFlood_keeps (Sub.trans rfl hw)
    | dsimp only [id]
    | lift_lets
    | with_reducible refine keeps_ite ?_ ?_)

theorem State.busRng_keeps {w : Nat} {s0 s : State} (hw : Sub 0x7b2dd4c w) (h : Keeps w s0 s) (d : Nat) (a : Nat) (v : Sys2Proof.Word) :
    Keeps w s0 (State.busRng s d a v) := by
  unfold State.busRng
  repeat' (first
    | with_reducible assumption
    | (intro t_; first | (with_reducible refine keeps_cut (w := w) (s := s0) (t := t_) ?_ ?_; intro ht_; rotate_left; dsimp -zeta only [t_]) | skip)
    | with_reducible apply State.askSplit_keeps (Sub.trans rfl hw)
    | with_reducible apply State.when_keeps (Sub.trans rfl hw)
    | with_reducible apply State.askClear_keeps (Sub.trans rfl hw)
    | with_reducible apply State.evalRelays_keeps (Sub.trans rfl hw)
    | with_reducible apply State.setInsLine_keeps (Sub.trans rfl hw)
    | with_reducible apply State.storeReg_keeps (Sub.trans rfl hw)
    | with_reducible apply State.i2cGo_keeps (Sub.trans rfl hw)
    | dsimp only [id]
    | lift_lets
    | with_reducible refine keeps_ite ?_ ?_)

theorem State.busTwn_keeps {w : Nat} {s0 s : State} (hw : Sub 0x4008104 w) (h : Keeps w s0 s) (a : Nat) (v : Sys2Proof.Word) :
    Keeps w s0 (State.busTwn s a v) := by
  unfold State.busTwn
  repeat' (first
    | with_reducible assumption
    | (intro t_; first | (with_reducible refine keeps_cut (w := w) (s := s0) (t := t_) ?_ ?_; intro ht_; rotate_left; dsimp -zeta only [t_]) | skip)
    | with_reducible apply State.storeReg_keeps (Sub.trans rfl hw)
    | with_reducible apply State.when_keeps (Sub.trans rfl hw)
    | with_reducible apply State.askDrill_keeps (Sub.trans rfl hw)
    | with_reducible apply State.askResync_keeps (Sub.trans rfl hw)
    | with_reducible apply State.startClaim_keeps (Sub.trans rfl hw)
    | with_reducible apply State.evalTok_keeps (Sub.trans rfl hw)
    | with_reducible apply State.setRole_keeps (Sub.trans rfl hw)
    | with_reducible apply State.dropToken_keeps (Sub.trans rfl hw)
    | dsimp only [id]
    | lift_lets
    | with_reducible refine keeps_ite ?_ ?_)

theorem State.busSec_keeps {w : Nat} {s0 s : State} (hw : Sub 0x3000304 w) (h : Keeps w s0 s) (a : Nat) (v : Sys2Proof.Word) :
    Keeps w s0 (State.busSec s a v) := by
  unfold State.busSec
  repeat' (first
    | with_reducible assumption
    | (intro t_; first | (with_reducible refine keeps_cut (w := w) (s := s0) (t := t_) ?_ ?_; intro ht_; rotate_left; dsimp -zeta only [t_]) | skip)
    | with_reducible apply State.when_keeps (Sub.trans rfl hw)
    | with_reducible apply State.jtagGo_keeps (Sub.trans rfl hw)
    | with_reducible apply State.otpProgWrite_keeps (Sub.trans rfl hw)
    | with_reducible apply State.storeReg_keeps (Sub.trans rfl hw)
    | dsimp only [id]
    | lift_lets
    | with_reducible refine keeps_ite ?_ ?_)

theorem State.busSa_keeps {w : Nat} {s0 s : State} (hw : Sub 0x104 w) (h : Keeps w s0 s) (d : Nat) (m : Nat) (a : Nat) (v : Sys2Proof.Word) :
    Keeps w s0 (State.busSa s d m a v) := by
  unfold State.busSa
  repeat' (first
    | with_reducible assumption
    | (intro t_; first | (with_reducible refine keeps_cut (w := w) (s := s0) (t := t_) ?_ ?_; intro ht_; rotate_left; dsimp -zeta only [t_]) | skip)
    | with_reducible apply State.txsaWrite_keeps (Sub.trans rfl hw)
    | with_reducible apply State.saCtrlWrite_keeps (Sub.trans rfl hw)
    | with_reducible apply State.saSciWrite_keeps (Sub.trans rfl hw)
    | with_reducible apply State.saKeyWrite_keeps (Sub.trans rfl hw)
    | with_reducible apply State.storeReg_keeps (Sub.trans rfl hw)
    | lift_lets
    | with_reducible refine keeps_ite ?_ ?_)

theorem State.busRing_keeps {w : Nat} {s0 s : State} (hw : Sub 0x104 w) (h : Keeps w s0 s) (rx : Bool) (a : Nat) (v : Sys2Proof.Word) :
    Keeps w s0 (State.busRing s rx a v) := by
  unfold State.busRing
  repeat' (first
    | with_reducible assumption
    | (intro t_; first | (with_reducible refine keeps_cut (w := w) (s := s0) (t := t_) ?_ ?_; intro ht_; rotate_left; dsimp -zeta only [t_]) | skip)
    | with_reducible apply State.ringCfgWrite_keeps (Sub.trans rfl hw)
    | with_reducible apply State.ringCleanWrite_keeps (Sub.trans rfl hw)
    | with_reducible apply State.storeReg_keeps (Sub.trans rfl hw)
    | lift_lets
    | with_reducible refine keeps_ite ?_ ?_)

theorem State.busMsix_keeps {w : Nat} {s0 s : State} (hw : Sub 0x2000104 w) (h : Keeps w s0 s) (a : Nat) (v : Sys2Proof.Word) :
    Keeps w s0 (State.busMsix s a v) := by
  unfold State.busMsix
  repeat' (first
    | with_reducible assumption
    | (intro t_; first | (with_reducible refine keeps_cut (w := w) (s := s0) (t := t_) ?_ ?_; intro ht_; rotate_left; dsimp -zeta only [t_]) | skip)
    | with_reducible apply State.vectorCtrl_keeps (Sub.trans rfl hw)
    | with_reducible apply State.storeReg_keeps (Sub.trans rfl hw)
    | lift_lets
    | with_reducible refine keeps_ite ?_ ?_)

theorem State.busBrg_keeps {w : Nat} {s0 s : State} (hw : Sub 0x3080104 w) (h : Keeps w s0 s) (a : Nat) (v : Sys2Proof.Word) :
    Keeps w s0 (State.busBrg s a v) := by
  unfold State.busBrg
  repeat' (first
    | with_reducible assumption
    | (intro t_; first | (with_reducible refine keeps_cut (w := w) (s := s0) (t := t_) ?_ ?_; intro ht_; rotate_left; dsimp -zeta only [t_]) | skip)
    | with_reducible apply State.brgFlush_keeps (Sub.trans rfl hw)
    | with_reducible apply State.winRegWrite_keeps (Sub.trans rfl hw)
    | with_reducible apply State.storeReg_keeps (Sub.trans rfl hw)
    | lift_lets
    | with_reducible refine keeps_ite ?_ ?_
    | split
    | (clear_value *; split))

theorem State.busKlk_keeps {w : Nat} {s0 s : State} (hw : Sub 0x332ddcc w) (h : Keeps w s0 s) (d : Nat) (a : Nat) (v : Sys2Proof.Word) :
    Keeps w s0 (State.busKlk s d a v) := by
  unfold State.busKlk
  repeat' (first
    | with_reducible assumption
    | (intro t_; first | (with_reducible refine keeps_cut (w := w) (s := s0) (t := t_) ?_ ?_; intro ht_; rotate_left; dsimp -zeta only [t_]) | skip)
    | with_reducible apply State.when_keeps (Sub.trans rfl hw)
    | with_reducible apply State.linkLost_keeps (Sub.trans rfl hw)
    | with_reducible apply State.setLink_keeps (Sub.trans rfl hw)
    | with_reducible apply State.evalBuf_keeps (Sub.trans rfl hw)
    | with_reducible apply State.storeReg_keeps (Sub.trans rfl hw)
    | with_reducible apply State.keepCrd_keeps (Sub.trans rfl hw)
    | dsimp only [id]
    | lift_lets
    | with_reducible refine keeps_ite ?_ ?_)

theorem State.busKwk_keeps {w : Nat} {s0 s : State} (hw : Sub 0x1000144 w) (h : Keeps w s0 s) (a : Nat) (v : Sys2Proof.Word) :
    Keeps w s0 (State.busKwk s a v) := by
  unfold State.busKwk
  repeat' (first
    | with_reducible assumption
    | (intro t_; first | (with_reducible refine keeps_cut (w := w) (s := s0) (t := t_) ?_ ?_; intro ht_; rotate_left; dsimp -zeta only [t_]) | skip)
    | with_reducible apply State.evalNeed_keeps (Sub.trans rfl hw)
    | with_reducible apply State.wrB_keeps (Sub.trans rfl hw)
    | with_reducible apply State.storeReg_keeps (Sub.trans rfl hw)
    | lift_lets
    | with_reducible refine keeps_ite ?_ ?_)

theorem State.busKby_keeps {w : Nat} {s0 s : State} (hw : Sub 0x3000144 w) (h : Keeps w s0 s) (a : Nat) (v : Sys2Proof.Word) :
    Keeps w s0 (State.busKby s a v) := by
  have b2 := Sub.bit (i := 2) hw rfl; have b6 := Sub.bit (i := 6) hw rfl; have b8 := Sub.bit (i := 8) hw rfl; have b24 := Sub.bit (i := 24) hw rfl; have b25 := Sub.bit (i := 25) hw rfl
  unfold State.busKby
  repeat' (first
    | with_reducible assumption
    | (intro t_; first | (with_reducible refine keeps_cut (w := w) (s := s0) (t := t_) ?_ ?_; intro ht_; rotate_left; dsimp -zeta only [t_]) | skip)
    | with_reducible apply State.storeReg_keeps (Sub.trans rfl hw)
    | with_reducible apply State.when_keeps (Sub.trans rfl hw)
    | with_reducible apply State.wrF_keeps (Sub.trans rfl hw)
    | with_reducible apply State.wr_keeps (Sub.trans rfl hw)
    | with_reducible apply State.evalRelays_keeps (Sub.trans rfl hw)
    | with_reducible apply State.each_keeps (Sub.trans rfl hw)
    | with_reducible apply State.wrB_keeps (Sub.trans rfl hw)
    | with_reducible apply State.burst_keeps (Sub.trans rfl hw)
    | dsimp only [id]
    | lift_lets
    | with_reducible refine keeps_ite ?_ ?_
    | with_reducible refine keeps_upd ?_ (fun x => x) (fun x => x) (.inr rfl) (.inl b2) (.inr rfl) (.inr rfl) (.inl b6) (.inr rfl) (.inl b8) (.inr rfl) (.inr rfl) (.inr rfl) (.inr rfl) (.inr rfl) (.inr rfl) (.inr rfl) (.inr rfl) (.inr rfl) (.inr rfl) (.inr rfl) (.inr rfl) (.inr rfl) (.inr rfl) (.inr rfl) (.inl b24) (.inl b25) (.inr rfl))

theorem State.busKeeper_keeps {w : Nat} {s0 s : State} (hw : Sub 0x3ffffec w) (h : Keeps w s0 s) (a : Nat) (v : Sys2Proof.Word) :
    Keeps w s0 (State.busKeeper s a v) := by
  unfold State.busKeeper
  repeat' (first
    | with_reducible assumption
    | (intro t_; first | (with_reducible refine keeps_cut (w := w) (s := s0) (t := t_) ?_ ?_; intro ht_; rotate_left; dsimp -zeta only [t_]) | skip)
    | with_reducible apply State.wrF_keeps (Sub.trans rfl hw)
    | with_reducible apply State.when_keeps (Sub.trans rfl hw)
    | with_reducible apply State.reboot_keeps (Sub.trans rfl hw)
    | with_reducible apply State.resetDie1_keeps (Sub.trans rfl hw)
    | with_reducible apply State.wr_keeps (Sub.trans rfl hw)
    | with_reducible apply State.storeReg_keeps (Sub.trans rfl hw)
    | dsimp only [id]
    | lift_lets
    | with_reducible refine keeps_ite ?_ ?_)

theorem State.busHeader_keeps {w : Nat} {s0 s : State} (hw : Sub 0x7bffdec w) (h : Keeps w s0 s) (p : Sys2Proof.Machine.Page) (base : Nat) (o : Nat) (v : Sys2Proof.Word) :
    Keeps w s0 (State.busHeader s p base o v) := by
  unfold State.busHeader
  repeat' (first
    | with_reducible assumption
    | (intro t_; first | (with_reducible refine keeps_cut (w := w) (s := s0) (t := t_) ?_ ?_; intro ht_; rotate_left; dsimp -zeta only [t_]) | skip)
    | with_reducible apply State.when_keeps (Sub.trans rfl hw)
    | with_reducible apply State.enableWrite_keeps (Sub.trans rfl hw)
    | with_reducible apply State.powerWrite_keeps (Sub.trans rfl hw)
    | with_reducible apply State.softReset_keeps (Sub.trans rfl hw)
    | with_reducible apply State.evtClear_keeps (Sub.trans rfl hw)
    | with_reducible apply State.evenWrite_keeps (Sub.trans rfl hw)
    | with_reducible apply State.lockWrite_keeps (Sub.trans rfl hw)
    | dsimp only [id]
    | lift_lets
    | with_reducible refine keeps_ite ?_ ?_
    | split
    | (clear_value *; split))

theorem State.busBlock_keeps {w : Nat} {s0 s : State} (hw : Sub 0x7ffffec w) (h : Keeps w s0 s) (p : Sys2Proof.Machine.Page) (a : Nat) (v : Sys2Proof.Word) :
    Keeps w s0 (State.busBlock s p a v) := by
  unfold State.busBlock
  repeat' (first
    | with_reducible assumption
    | (intro t_; first | (with_reducible refine keeps_cut (w := w) (s := s0) (t := t_) ?_ ?_; intro ht_; rotate_left; dsimp -zeta only [t_]) | skip)
    | with_reducible apply State.busDie_keeps (Sub.trans rfl hw)
    | with_reducible apply State.busEvcCtl_keeps (Sub.trans rfl hw)
    | with_reducible apply State.busEvcMap_keeps (Sub.trans rfl hw)
    | with_reducible apply State.evalEvc_keeps (Sub.trans rfl hw)
    | with_reducible apply State.storeReg_keeps (Sub.trans rfl hw)
    | with_reducible apply State.busTmu_keeps (Sub.trans rfl hw)
    | with_reducible apply State.busPrt_keeps (Sub.trans rfl hw)
    | with_reducible apply State.evalFloors_keeps (Sub.trans rfl hw)
    | with_reducible apply State.busSch_keeps (Sub.trans rfl hw)
    | with_reducible apply State.busIna_keeps (Sub.trans rfl hw)
    | with_reducible apply State.hostCommit_keeps (Sub.trans rfl hw)
    | with_reducible apply State.busFwd_keeps (Sub.trans rfl hw)
    | with_reducible apply State.reserveWrite_keeps (Sub.trans rfl hw)
    | with_reducible apply State.evalBuf_keeps (Sub.trans rfl hw)
    | with_reducible apply State.busRng_keeps (Sub.trans rfl hw)
    | with_reducible apply State.busTwn_keeps (Sub.trans rfl hw)
    | with_reducible apply State.busSec_keeps (Sub.trans rfl hw)
    | with_reducible apply State.busSa_keeps (Sub.trans rfl hw)
    | with_reducible apply State.when_keeps (Sub.trans rfl hw)
    | with_reducible apply State.staSnap_keeps (Sub.trans rfl hw)
    | with_reducible apply State.staEnable_keeps (Sub.trans rfl hw)
    | with_reducible apply State.swWrite_keeps (Sub.trans rfl hw)
    | with_reducible apply State.busMsix_keeps (Sub.trans rfl hw)
    | with_reducible apply State.busRing_keeps (Sub.trans rfl hw)
    | with_reducible apply State.busBrg_keeps (Sub.trans rfl hw)
    | with_reducible apply State.fldCtrl_keeps (Sub.trans rfl hw)
    | with_reducible apply State.busKlk_keeps (Sub.trans rfl hw)
    | with_reducible apply State.busKwk_keeps (Sub.trans rfl hw)
    | with_reducible apply State.busKby_keeps (Sub.trans rfl hw)
    | with_reducible apply State.busKeeper_keeps (Sub.trans rfl hw)
    | dsimp only [id]
    | lift_lets
    | with_reducible refine keeps_ite ?_ ?_
    | split
    | (clear_value *; split))

theorem State.pageWrite_keeps {w : Nat} {s0 s : State} (hw : Sub 0x7ffffec w) (h : Keeps w s0 s) (a : Nat) (v : Sys2Proof.Word) :
    Keeps w s0 (State.pageWrite s a v) := by
  unfold State.pageWrite
  repeat' (first
    | with_reducible assumption
    | (intro t_; first | (with_reducible refine keeps_cut (w := w) (s := s0) (t := t_) ?_ ?_; intro ht_; rotate_left; dsimp -zeta only [t_]) | skip)
    | with_reducible apply State.busHeader_keeps (Sub.trans rfl hw)
    | with_reducible apply State.busBlock_keeps (Sub.trans rfl hw)
    | lift_lets
    | with_reducible refine keeps_ite ?_ ?_
    | split
    | (clear_value *; split))

theorem State.rawWrite_keeps {w : Nat} {s0 s : State} (hw : Sub 0x7ffffec w) (h : Keeps w s0 s) (a : Nat) (v : Sys2Proof.Word) :
    Keeps w s0 (State.rawWrite s a v) := by
  unfold State.rawWrite
  repeat' (first
    | with_reducible assumption
    | (intro t_; first | (with_reducible refine keeps_cut (w := w) (s := s0) (t := t_) ?_ ?_; intro ht_; rotate_left; dsimp -zeta only [t_]) | skip)
    | with_reducible apply State.winWrite_keeps (Sub.trans rfl hw)
    | with_reducible apply State.pageWrite_keeps (Sub.trans rfl hw)
    | lift_lets
    | with_reducible refine keeps_ite ?_ ?_)

theorem State.reqWrite_keeps {w : Nat} {s0 s : State} (hw : Sub 0x300104 w) (h : Keeps w s0 s) (v : Sys2Proof.Word) :
    Keeps w s0 (State.reqWrite s v) := by
  unfold State.reqWrite
  repeat' (first
    | with_reducible assumption
    | (intro t_; first | (with_reducible refine keeps_cut (w := w) (s := s0) (t := t_) ?_ ?_; intro ht_; rotate_left; dsimp -zeta only [t_]) | skip)
    | with_reducible apply State.modeRequest_keeps (Sub.trans rfl hw)
    | with_reducible apply State.guarded_keeps (Sub.trans rfl hw)
    | with_reducible apply State.raise_keeps (Sub.trans rfl hw)
    | with_reducible apply State.wrF_keeps (Sub.trans rfl hw)
    | dsimp only [id]
    | lift_lets
    | with_reducible refine keeps_ite ?_ ?_
    | split
    | (clear_value *; split))

theorem State.busWrite_keeps {w : Nat} {s0 s : State} (hw : Sub 0x7ffffec w) (h : Keeps w s0 s) (a : Nat) (v : Sys2Proof.Word) :
    Keeps w s0 (State.busWrite s a v) := by
  unfold State.busWrite
  repeat' (first
    | with_reducible assumption
    | (intro t_; first | (with_reducible refine keeps_cut (w := w) (s := s0) (t := t_) ?_ ?_; intro ht_; rotate_left; dsimp -zeta only [t_]) | skip)
    | with_reducible apply State.reqWrite_keeps (Sub.trans rfl hw)
    | with_reducible apply State.otpProg_keeps (Sub.trans rfl hw)
    | with_reducible apply State.guarded_keeps (Sub.trans rfl hw)
    | with_reducible apply State.rawWrite_keeps (Sub.trans rfl hw)
    | dsimp only [id]
    | lift_lets
    | with_reducible refine keeps_ite ?_ ?_)

theorem State.beWrite_keeps {w : Nat} {s0 s : State} (hw : Sub 0x7ffffec w) (h : Keeps w s0 s) (be : BitVec 4) (a : Nat) (v : Sys2Proof.Word) :
    Keeps w s0 (State.beWrite s be a v) := by
  unfold State.beWrite
  repeat' (first
    | with_reducible assumption
    | (intro t_; first | (with_reducible refine keeps_cut (w := w) (s := s0) (t := t_) ?_ ?_; intro ht_; rotate_left; dsimp -zeta only [t_]) | skip)
    | with_reducible apply State.busWrite_keeps (Sub.trans rfl hw)
    | with_reducible apply State.raise_keeps (Sub.trans rfl hw)
    | with_reducible apply State.count_keeps (Sub.trans rfl hw)
    | lift_lets
    | with_reducible refine keeps_ite ?_ ?_)

theorem State.beforeRead_keeps {w : Nat} {s0 s : State} (hw : Sub 0x4000004 w) (h : Keeps w s0 s) (a : Nat) :
    Keeps w s0 (State.beforeRead s a) := by
  unfold State.beforeRead
  repeat' (first
    | with_reducible assumption
    | (intro t_; first | (with_reducible refine keeps_cut (w := w) (s := s0) (t := t_) ?_ ?_; intro ht_; rotate_left; dsimp -zeta only [t_]) | skip)
    | with_reducible apply State.drawChallenge_keeps (Sub.trans rfl hw)
    | with_reducible apply State.evalNextEvt_keeps (Sub.trans rfl hw)
    | lift_lets
    | with_reducible refine keeps_ite ?_ ?_
    | split
    | (clear_value *; split))

theorem State.afterRead_keeps {w : Nat} {s0 s : State} (hw : Sub 0x70e2104 w) (h : Keeps w s0 s) (a : Nat) :
    Keeps w s0 (State.afterRead s a) := by
  unfold State.afterRead
  repeat' (first
    | with_reducible assumption
    | (intro t_; first | (with_reducible refine keeps_cut (w := w) (s := s0) (t := t_) ?_ ?_; intro ht_; rotate_left; dsimp -zeta only [t_]) | skip)
    | with_reducible apply State.claimRead_keeps (Sub.trans rfl hw)
    | with_reducible apply State.popNtf_keeps (Sub.trans rfl hw)
    | with_reducible apply State.fldPop_keeps (Sub.trans rfl hw)
    | with_reducible apply State.errPop_keeps (Sub.trans rfl hw)
    | with_reducible apply State.revPop_keeps (Sub.trans rfl hw)
    | with_reducible apply State.readWatermark_keeps (Sub.trans rfl hw)
    | with_reducible apply State.useFree_keeps (Sub.trans rfl hw)
    | with_reducible apply State.wr_keeps (Sub.trans rfl hw)
    | lift_lets
    | with_reducible refine keeps_ite ?_ ?_
    | split
    | (clear_value *; split))

theorem State.latchHighs_keeps {w : Nat} {s0 s : State} (hw : Sub 0x20 w) (h : Keeps w s0 s) (ag : Sys2Proof.Agent) (a : Nat) :
    Keeps w s0 (State.latchHighs s ag a) := by
  have b5 := Sub.bit (i := 5) hw rfl
  unfold State.latchHighs
  repeat' (first
    | with_reducible assumption
    | (intro t_; first | (with_reducible refine keeps_cut (w := w) (s := s0) (t := t_) ?_ ?_; intro ht_; rotate_left; dsimp -zeta only [t_]) | skip)
    | lift_lets
    | with_reducible refine keeps_ite ?_ ?_
    | split
    | (clear_value *; split)
    | with_reducible refine keeps_fst_ite ?_ ?_
    | (with_reducible refine keeps_of_eq (by assumption) ?_)
    | with_reducible refine keeps_upd ?_ (fun x => x) (fun x => x) (.inr rfl) (.inr rfl) (.inr rfl) (.inl b5) (.inr rfl) (.inr rfl) (.inr rfl) (.inr rfl) (.inr rfl) (.inr rfl) (.inr rfl) (.inr rfl) (.inr rfl) (.inr rfl) (.inr rfl) (.inr rfl) (.inr rfl) (.inr rfl) (.inr rfl) (.inr rfl) (.inr rfl) (.inr rfl) (.inr rfl) (.inr rfl) (.inr rfl))

theorem State.busRead_keeps {w : Nat} {s0 s : State} (hw : Sub 0x73e2124 w) (h : Keeps w s0 s) (ag : Sys2Proof.Agent) (a : Nat) :
    Keeps w s0 (State.busRead s ag a).1 := by
  unfold State.busRead
  repeat' (first
    | with_reducible assumption
    | (intro t_; first | (with_reducible refine keeps_cut (w := w) (s := s0) (t := t_) ?_ ?_; intro ht_; rotate_left; dsimp -zeta only [t_]) | skip)
    | with_reducible apply State.xdieDrop_keeps (Sub.trans rfl hw)
    | with_reducible apply State.beforeRead_keeps (Sub.trans rfl hw)
    | with_reducible apply State.access_keeps (Sub.trans rfl hw)
    | with_reducible apply State.afterRead_keeps (Sub.trans rfl hw)
    | with_reducible apply State.latchHighs_keeps (Sub.trans rfl hw)
    | lift_lets
    | with_reducible refine keeps_ite ?_ ?_
    | with_reducible refine keeps_fst_ite ?_ ?_
    | (with_reducible refine keeps_of_eq (by assumption) ?_)
    | dsimp -zeta only)

theorem State.readOut_keeps {w : Nat} {s0 s : State} (hw : Sub 0x73e2124 w) (h : Keeps w s0 s) (ag : Sys2Proof.Agent) (a : Nat) :
    Keeps w s0 (State.readOut s ag a) := by
  unfold State.readOut
  repeat' (first
    | with_reducible assumption
    | (intro t_; first | (with_reducible refine keeps_cut (w := w) (s := s0) (t := t_) ?_ ?_; intro ht_; rotate_left; dsimp -zeta only [t_]) | skip)
    | with_reducible apply State.when_keeps (Sub.trans rfl hw)
    | with_reducible apply State.busRead_keeps (Sub.trans rfl hw)
    | with_reducible apply State.emit_keeps (Sub.trans rfl hw)
    | dsimp only [id]
    | lift_lets
    | with_reducible refine keeps_ite ?_ ?_
    | with_reducible refine keeps_fst_ite ?_ ?_
    | (with_reducible refine keeps_of_eq (by assumption) ?_))

theorem execPairLowRead_keeps (agent : Sys2Proof.Agent) (addr : Nat) (s : State) :
    ∃ t_, execPairLowRead agent addr s = .next t_ ∧ Keeps 0x73e2124 s t_ := by
  have h := Keeps.refl 0x73e2124 s
  have hw := Sub.refl 0x73e2124
  
  refine ⟨_, rfl, ?_⟩
  repeat' (first
    | with_reducible assumption
    | (intro t_; first | (with_reducible refine keeps_cut (w := w) (s := s0) (t := t_) ?_ ?_; intro ht_; rotate_left; dsimp -zeta only [t_]) | skip)
    | with_reducible apply State.when_keeps (Sub.trans rfl hw)
    | with_reducible apply State.readOut_keeps (Sub.trans rfl hw)
    | dsimp only [id]
    | lift_lets
    | with_reducible refine keeps_ite ?_ ?_)

theorem execClearOnRead_keeps (addr : Nat) (s : State) :
    ∃ t_, execClearOnRead addr s = .next t_ ∧ Keeps 0x73e2124 s t_ := by
  have h := Keeps.refl 0x73e2124 s
  have hw := Sub.refl 0x73e2124
  
  refine ⟨_, rfl, ?_⟩
  repeat' (first
    | with_reducible assumption
    | (intro t_; first | (with_reducible refine keeps_cut (w := w) (s := s0) (t := t_) ?_ ?_; intro ht_; rotate_left; dsimp -zeta only [t_]) | skip)
    | with_reducible apply State.when_keeps (Sub.trans rfl hw)
    | with_reducible apply State.readOut_keeps (Sub.trans rfl hw)
    | dsimp only [id]
    | lift_lets
    | with_reducible refine keeps_ite ?_ ?_)

end Sys2Proof.Machine
end

