-- ==== Sys2Proof/Laws/Bridge.lean ====
section
/-! SUPPORT. What the functions of Machine/Bridge.lean keep, one lemma for each. -/

namespace Sys2Proof.Machine

theorem State.sentOut_keeps {w : Nat} {s0 s : State} (hw : Sub 0x80000 w) (h : Keeps w s0 s) (o : Sys2Proof.Machine.BrOut) :
    Keeps w s0 (State.sentOut s o) := by
  have b19 := Sub.bit (i := 19) hw rfl
  unfold State.sentOut
  repeat' (first
    | with_reducible assumption
    | (intro t_; first | (with_reducible refine keeps_cut (w := w) (s := s0) (t := t_) ?_ ?_; intro ht_; rotate_left; dsimp -zeta only [t_]) | skip)
    | lift_lets
    | with_reducible refine keeps_ite ?_ ?_
    | split
    | (clear_value *; split)
    | with_reducible refine keeps_upd ?_ (fun x => x) (fun x => x) (.inr rfl) (.inr rfl) (.inr rfl) (.inr rfl) (.inr rfl) (.inr rfl) (.inr rfl) (.inr rfl) (.inr rfl) (.inr rfl) (.inr rfl) (.inr rfl) (.inr rfl) (.inr rfl) (.inr rfl) (.inr rfl) (.inr rfl) (.inl b19) (.inr rfl) (.inr rfl) (.inr rfl) (.inr rfl) (.inr rfl) (.inr rfl) (.inr rfl))

theorem State.queueMgmt_keeps {w : Nat} {s0 s : State} (hw : Sub 0x6920104 w) (h : Keeps w s0 s) (p : Nat) (n : Nat) (f : Sys2Proof.Machine.Frame) :
    Keeps w s0 (State.queueMgmt s p n f) := by
  unfold State.queueMgmt
  repeat' (first
    | with_reducible assumption
    | (intro t_; first | (with_reducible refine keeps_cut (w := w) (s := s0) (t := t_) ?_ ?_; intro ht_; rotate_left; dsimp -zeta only [t_]) | skip)
    | with_reducible apply State.newGroup_keeps (Sub.trans rfl hw)
    | with_reducible apply State.takeIn_keeps (Sub.trans rfl hw)
    | with_reducible apply State.turnDrop_keeps (Sub.trans rfl hw)
    | with_reducible apply State.count_keeps (Sub.trans rfl hw)
    | lift_lets
    | with_reducible refine keeps_ite ?_ ?_
    | split
    | (clear_value *; split)
    | with_reducible refine keeps_fst_ite ?_ ?_
    | (with_reducible refine keeps_of_eq (by assumption) ?_))

theorem State.sendClass6_keeps {w : Nat} {s0 s : State} (hw : Sub 0x69a0104 w) (h : Keeps w s0 s) (o : Sys2Proof.Machine.BrOut) :
    Keeps w s0 (State.sendClass6 s o) := by
  unfold State.sendClass6
  repeat' (first
    | with_reducible assumption
    | (intro t_; first | (with_reducible refine keeps_cut (w := w) (s := s0) (t := t_) ?_ ?_; intro ht_; rotate_left; dsimp -zeta only [t_]) | skip)
    | with_reducible apply State.sentOut_keeps (Sub.trans rfl hw)
    | with_reducible apply State.queueMgmt_keeps (Sub.trans rfl hw)
    | lift_lets
    | with_reducible refine keeps_ite ?_ ?_
    | split
    | (clear_value *; split)
    | with_reducible refine keeps_fst_ite ?_ ?_
    | (with_reducible refine keeps_of_eq (by assumption) ?_))

theorem State.flushRsp_keeps {w : Nat} {s0 s : State} (hw : Sub 0x69a0104 w) (h : Keeps w s0 s) (dst : Nat) (y2 : Nat) :
    Keeps w s0 (State.flushRsp s dst y2) := by
  induction y2 generalizing dst s with
  | zero =>
    unfold State.flushRsp
    repeat' (first
    | with_reducible assumption
    | (intro t_; first | (with_reducible refine keeps_cut (w := w) (s := s0) (t := t_) ?_ ?_; intro ht_; rotate_left; dsimp -zeta only [t_]) | skip)
    | with_reducible apply State.sendClass6_keeps (Sub.trans rfl hw)
    | lift_lets
    | with_reducible refine keeps_ite ?_ ?_
    | split
    | (clear_value *; split))
  | succ n ih =>
    unfold State.flushRsp
    repeat' (first
    | with_reducible assumption
    | with_reducible apply ih
    | (intro t_; first | (with_reducible refine keeps_cut (w := w) (s := s0) (t := t_) ?_ ?_; intro ht_; rotate_left; dsimp -zeta only [t_]) | skip)
    | with_reducible apply State.sendClass6_keeps (Sub.trans rfl hw)
    | lift_lets
    | with_reducible refine keeps_ite ?_ ?_
    | split
    | (clear_value *; split))
  

theorem State.mgmtFrames_keeps {w : Nat} {s0 s : State} (hw : Sub 0x69a0504 w) (h : Keeps w s0 s) (sid : Nat) (selv : Nat) (e : Sys2Proof.Machine.Stitch) (st0 : Sys2Proof.Word) (k : Nat) (y6 : List Sys2Proof.Machine.BrOut) :
    Keeps w s0 (State.mgmtFrames s sid selv e st0 k y6) := by
  induction y6 generalizing sid selv e st0 k s with
  | nil =>
    unfold State.mgmtFrames
    repeat' (first
    | with_reducible assumption
    | (intro t_; first | (with_reducible refine keeps_cut (w := w) (s := s0) (t := t_) ?_ ?_; intro ht_; rotate_left; dsimp -zeta only [t_]) | skip)
    | with_reducible apply State.sentOut_keeps (Sub.trans rfl hw)
    | with_reducible apply State.sendCopies_keeps (Sub.trans rfl hw)
    | lift_lets
    | with_reducible refine keeps_ite ?_ ?_
    | split
    | (clear_value *; split)
    | with_reducible refine keeps_fst_ite ?_ ?_
    | (with_reducible refine keeps_of_eq (by assumption) ?_))
  | cons x xs ih =>
    unfold State.mgmtFrames
    repeat' (first
    | with_reducible assumption
    | with_reducible apply ih
    | (intro t_; first | (with_reducible refine keeps_cut (w := w) (s := s0) (t := t_) ?_ ?_; intro ht_; rotate_left; dsimp -zeta only [t_]) | skip)
    | with_reducible apply State.sentOut_keeps (Sub.trans rfl hw)
    | with_reducible apply State.sendCopies_keeps (Sub.trans rfl hw)
    | lift_lets
    | with_reducible refine keeps_ite ?_ ?_
    | split
    | (clear_value *; split)
    | with_reducible refine keeps_fst_ite ?_ ?_
    | (with_reducible refine keeps_of_eq (by assumption) ?_))
  

theorem State.mgmtSend_keeps {w : Nat} {s0 s : State} (hw : Sub 0x79a0584 w) (h : Keeps w s0 s) (sid : Nat) (sel : Sys2Proof.Machine.State → List Sys2Proof.Machine.BrOut) :
    Keeps w s0 (State.mgmtSend s sid sel) := by
  unfold State.mgmtSend
  repeat' (first
    | with_reducible assumption
    | (intro t_; first | (with_reducible refine keeps_cut (w := w) (s := s0) (t := t_) ?_ ?_; intro ht_; rotate_left; dsimp -zeta only [t_]) | skip)
    | with_reducible apply State.reachSt_keeps (Sub.trans rfl hw)
    | with_reducible apply State.mgmtFrames_keeps (Sub.trans rfl hw)
    | lift_lets
    | with_reducible refine keeps_ite ?_ ?_
    | split
    | (clear_value *; split))

theorem execMgmtStitchSend_keeps (sid : Fin 4096) (s : State) :
    ∃ t_, execMgmtStitchSend sid s = .next t_ ∧ Keeps 0x79a0584 s t_ := by
  have h := Keeps.refl 0x79a0584 s
  have hw := Sub.refl 0x79a0584
  
  refine ⟨_, rfl, ?_⟩
  repeat' (first
    | with_reducible assumption
    | (intro t_; first | (with_reducible refine keeps_cut (w := w) (s := s0) (t := t_) ?_ ?_; intro ht_; rotate_left; dsimp -zeta only [t_]) | skip)
    | with_reducible apply State.mgmtSend_keeps (Sub.trans rfl hw)
    | lift_lets
    | with_reducible refine keeps_ite ?_ ?_)

theorem execBridgeReqSend_keeps (x_w : Fin 8) (mgmt : Option (Fin 4096)) (s : State) :
    ∃ t_, execBridgeReqSend x_w mgmt s = .next t_ ∧ Keeps 0x79a0584 s t_ := by
  have h := Keeps.refl 0x79a0584 s
  have hw := Sub.refl 0x79a0584
  
  refine ⟨_, rfl, ?_⟩
  repeat' (first
    | with_reducible assumption
    | (intro t_; first | (with_reducible refine keeps_cut (w := w) (s := s0) (t := t_) ?_ ?_; intro ht_; rotate_left; dsimp -zeta only [t_]) | skip)
    | with_reducible apply State.mgmtSend_keeps (Sub.trans rfl hw)
    | with_reducible apply State.sendClass6_keeps (Sub.trans rfl hw)
    | lift_lets
    | with_reducible refine keeps_ite ?_ ?_
    | split
    | (clear_value *; split))

theorem State.touchBlock_keeps {w : Nat} {s0 s : State} (hw : Sub 0x80000 w) (h : Keeps w s0 s) (x : Sys2Proof.Machine.BrBlock) :
    Keeps w s0 (State.touchBlock s x) := by
  have b19 := Sub.bit (i := 19) hw rfl
  unfold State.touchBlock
  repeat' (first
    | with_reducible assumption
    | (intro t_; first | (with_reducible refine keeps_cut (w := w) (s := s0) (t := t_) ?_ ?_; intro ht_; rotate_left; dsimp -zeta only [t_]) | skip)
    | lift_lets
    | with_reducible refine keeps_ite ?_ ?_
    | with_reducible refine keeps_upd ?_ (fun x => x) (fun x => x) (.inr rfl) (.inr rfl) (.inr rfl) (.inr rfl) (.inr rfl) (.inr rfl) (.inr rfl) (.inr rfl) (.inr rfl) (.inr rfl) (.inr rfl) (.inr rfl) (.inr rfl) (.inr rfl) (.inr rfl) (.inr rfl) (.inr rfl) (.inl b19) (.inr rfl) (.inr rfl) (.inr rfl) (.inr rfl) (.inr rfl) (.inr rfl) (.inr rfl))

theorem State.addReq_keeps {w : Nat} {s0 s : State} (hw : Sub 0x80000 w) (h : Keeps w s0 s) (x_w : Nat) (write : Bool) (prefetch : Bool) (addr : Nat) (len : Nat) (data : List Sys2Proof.Word) (tgt : Sys2Proof.Uid × Nat) (a : Option (Nat × Nat)) :
    Keeps w s0 (State.addReq s x_w write prefetch addr len data tgt a) := by
  have b19 := Sub.bit (i := 19) hw rfl
  unfold State.addReq
  repeat' (first
    | with_reducible assumption
    | (intro t_; first | (with_reducible refine keeps_cut (w := w) (s := s0) (t := t_) ?_ ?_; intro ht_; rotate_left; dsimp -zeta only [t_]) | skip)
    | lift_lets
    | with_reducible refine keeps_ite ?_ ?_
    | with_reducible refine keeps_fst_ite ?_ ?_
    | (with_reducible refine keeps_of_eq (by assumption) ?_)
    | with_reducible refine keeps_upd ?_ (fun x => x) (fun x => x) (.inr rfl) (.inr rfl) (.inr rfl) (.inr rfl) (.inr rfl) (.inr rfl) (.inr rfl) (.inr rfl) (.inr rfl) (.inr rfl) (.inr rfl) (.inr rfl) (.inr rfl) (.inr rfl) (.inr rfl) (.inr rfl) (.inr rfl) (.inl b19) (.inr rfl) (.inr rfl) (.inr rfl) (.inr rfl) (.inr rfl) (.inr rfl) (.inr rfl))

theorem State.issuePiece_keeps {w : Nat} {s0 s : State} (hw : Sub 0x80104 w) (h : Keeps w s0 s) {ag : Sys2Proof.Agent} {write : Bool} {off : Nat}
    {ws : List Sys2Proof.Word} {a : Option (Nat × Nat)} {t : State} (he : State.issuePiece s ag write off ws a = some t) : Keeps w s0 t := by
  have h1 : Keeps w s0 (if write then s.dropBlocks (off / 0x1000000 % 8) else s) :=
    keeps_ite (State.dropBlocks_keeps (Sub.trans rfl hw) h _) h
  unfold State.issuePiece at he
  dsimp only at he
  generalize (if write then s.dropBlocks (off / 0x1000000 % 8) else s) = s1 at h1 he
  split at he
  · cases he
    exact State.fillAccess_keeps (Sub.trans rfl hw) (State.brgErr_keeps (Sub.trans rfl hw) h1 _ _ _ _ _ _) _ _ _
  · split at he
    · cases he
      exact State.fillAccess_keeps (Sub.trans rfl hw) (State.brgErr_keeps (Sub.trans rfl hw) h1 _ _ _ _ _ _) _ _ _
    · split at he
      · cases he
        exact State.fillAccess_keeps (Sub.trans rfl hw) (State.count_keeps (Sub.trans rfl hw) (State.touchBlock_keeps (Sub.trans rfl hw) h1 _) _) _ _ _
      · split at he
        · cases he
          exact State.addReq_keeps (Sub.trans rfl hw) h1 _ _ _ _ _ _ _ _
        · cases he

theorem State.partialDword_keeps {w : Nat} {s0 s : State} (hw : Sub 0x104 w) (h : Keeps w s0 s) :
    Keeps w s0 (State.partialDword s) := by
  unfold State.partialDword
  repeat' (first
    | with_reducible assumption
    | (intro t_; first | (with_reducible refine keeps_cut (w := w) (s := s0) (t := t_) ?_ ?_; intro ht_; rotate_left; dsimp -zeta only [t_]) | skip)
    | with_reducible apply State.raise_keeps (Sub.trans rfl hw)
    | with_reducible apply State.count_keeps (Sub.trans rfl hw)
    | lift_lets
    | with_reducible refine keeps_ite ?_ ?_)

theorem State.waitReq_keeps {w : Nat} {s0 s : State} (hw : Sub 0x80000 w) (h : Keeps w s0 s) (x : Sys2Proof.Machine.BrWait) :
    Keeps w s0 (State.waitReq s x) := by
  have b19 := Sub.bit (i := 19) hw rfl
  unfold State.waitReq
  repeat' (first
    | with_reducible assumption
    | (intro t_; first | (with_reducible refine keeps_cut (w := w) (s := s0) (t := t_) ?_ ?_; intro ht_; rotate_left; dsimp -zeta only [t_]) | skip)
    | lift_lets
    | with_reducible refine keeps_ite ?_ ?_
    | with_reducible refine keeps_upd ?_ (fun x => x) (fun x => x) (.inr rfl) (.inr rfl) (.inr rfl) (.inr rfl) (.inr rfl) (.inr rfl) (.inr rfl) (.inr rfl) (.inr rfl) (.inr rfl) (.inr rfl) (.inr rfl) (.inr rfl) (.inr rfl) (.inr rfl) (.inr rfl) (.inr rfl) (.inl b19) (.inr rfl) (.inr rfl) (.inr rfl) (.inr rfl) (.inr rfl) (.inr rfl) (.inr rfl))

theorem State.issueFrom_keeps {w : Nat} {s0 s : State} (hw : Sub 0x80104 w) (h : Keeps w s0 s) (ag : Sys2Proof.Agent) (write : Bool) (off : Nat) (a : Option (Nat × Nat)) (ds : List (BitVec 4 × Sys2Proof.Word)) (y6 : Nat) :
    Keeps w s0 (State.issueFrom s ag write off a ds y6) := by
  induction y6 generalizing ag write off a ds s with
  | zero =>
    unfold State.issueFrom
    repeat' (first
    | with_reducible assumption
    | (intro t_; first | (with_reducible refine keeps_cut (w := w) (s := s0) (t := t_) ?_ ?_; intro ht_; rotate_left; dsimp -zeta only [t_]) | skip)
    | with_reducible apply State.dropBlocks_keeps (Sub.trans rfl hw)
    | with_reducible apply State.partialDword_keeps (Sub.trans rfl hw)
    | (with_reducible refine State.issuePiece_keeps (Sub.trans rfl hw) ?_ (by assumption))
    | with_reducible apply State.waitReq_keeps (Sub.trans rfl hw)
    | lift_lets
    | with_reducible refine keeps_ite ?_ ?_
    | split
    | (clear_value *; split)
    | with_reducible refine keeps_fst_ite ?_ ?_
    | (with_reducible refine keeps_of_eq (by assumption) ?_))
  | succ n ih =>
    unfold State.issueFrom
    repeat' (first
    | with_reducible assumption
    | with_reducible apply ih
    | (intro t_; first | (with_reducible refine keeps_cut (w := w) (s := s0) (t := t_) ?_ ?_; intro ht_; rotate_left; dsimp -zeta only [t_]) | skip)
    | with_reducible apply State.dropBlocks_keeps (Sub.trans rfl hw)
    | with_reducible apply State.partialDword_keeps (Sub.trans rfl hw)
    | (with_reducible refine State.issuePiece_keeps (Sub.trans rfl hw) ?_ (by assumption))
    | with_reducible apply State.waitReq_keeps (Sub.trans rfl hw)
    | lift_lets
    | with_reducible refine keeps_ite ?_ ?_
    | split
    | (clear_value *; split)
    | with_reducible refine keeps_fst_ite ?_ ?_
    | (with_reducible refine keeps_of_eq (by assumption) ?_))
  

theorem State.newAccess_keeps {w : Nat} {s0 s : State} (hw : Sub 0x80000 w) (h : Keeps w s0 s) (ag : Sys2Proof.Agent) (write : Bool) (n : Nat) :
    Keeps w s0 (State.newAccess s ag write n).1 := by
  have b19 := Sub.bit (i := 19) hw rfl
  unfold State.newAccess
  repeat' (first
    | with_reducible assumption
    | (intro t_; first | (with_reducible refine keeps_cut (w := w) (s := s0) (t := t_) ?_ ?_; intro ht_; rotate_left; dsimp -zeta only [t_]) | skip)
    | lift_lets
    | with_reducible refine keeps_ite ?_ ?_
    | with_reducible refine keeps_fst_ite ?_ ?_
    | (with_reducible refine keeps_of_eq (by assumption) ?_)
    | with_reducible refine keeps_upd ?_ (fun x => x) (fun x => x) (.inr rfl) (.inr rfl) (.inr rfl) (.inr rfl) (.inr rfl) (.inr rfl) (.inr rfl) (.inr rfl) (.inr rfl) (.inr rfl) (.inr rfl) (.inr rfl) (.inr rfl) (.inr rfl) (.inr rfl) (.inr rfl) (.inr rfl) (.inl b19) (.inr rfl) (.inr rfl) (.inr rfl) (.inr rfl) (.inr rfl) (.inr rfl) (.inr rfl)
    | dsimp -zeta only)

theorem State.bar2_keeps {w : Nat} {s0 s : State} (hw : Sub 0x80104 w) (h : Keeps w s0 s) (x : Sys2Proof.Machine.BrWait) :
    Keeps w s0 (State.bar2 s x) := by
  unfold State.bar2
  repeat' (first
    | with_reducible assumption
    | (intro t_; first | (with_reducible refine keeps_cut (w := w) (s := s0) (t := t_) ?_ ?_; intro ht_; rotate_left; dsimp -zeta only [t_]) | skip)
    | with_reducible apply State.newAccess_keeps (Sub.trans rfl hw)
    | with_reducible apply State.issueFrom_keeps (Sub.trans rfl hw)
    | lift_lets
    | with_reducible refine keeps_ite ?_ ?_
    | split
    | (clear_value *; split)
    | with_reducible refine keeps_fst_ite ?_ ?_
    | (with_reducible refine keeps_of_eq (by assumption) ?_))

theorem State.bar0Write_keeps {w : Nat} {s0 s : State} (hw : Sub 0x7ffffec w) (h : Keeps w s0 s) (y1 : Nat) (y2 : List (BitVec 4 × Sys2Proof.Word)) :
    Keeps w s0 (State.bar0Write s y1 y2) := by
  induction y2 generalizing y1 s with
  | nil =>
    unfold State.bar0Write
    repeat' (first
    | with_reducible assumption
    | (intro t_; first | (with_reducible refine keeps_cut (w := w) (s := s0) (t := t_) ?_ ?_; intro ht_; rotate_left; dsimp -zeta only [t_]) | skip)
    | with_reducible apply State.beWrite_keeps (Sub.trans rfl hw)
    | lift_lets
    | with_reducible refine keeps_ite ?_ ?_
    | split
    | (clear_value *; split)
    | with_reducible refine keeps_fst_ite ?_ ?_
    | (with_reducible refine keeps_of_eq (by assumption) ?_))
  | cons x xs ih =>
    unfold State.bar0Write
    repeat' (first
    | with_reducible assumption
    | with_reducible apply ih
    | (intro t_; first | (with_reducible refine keeps_cut (w := w) (s := s0) (t := t_) ?_ ?_; intro ht_; rotate_left; dsimp -zeta only [t_]) | skip)
    | with_reducible apply State.beWrite_keeps (Sub.trans rfl hw)
    | lift_lets
    | with_reducible refine keeps_ite ?_ ?_
    | split
    | (clear_value *; split)
    | with_reducible refine keeps_fst_ite ?_ ?_
    | (with_reducible refine keeps_of_eq (by assumption) ?_))
  

theorem State.bar0Read_keeps {w : Nat} {s0 s : State} (hw : Sub 0x73e2124 w) (h : Keeps w s0 s) (y1 : Nat) (y2 : Nat) :
    Keeps w s0 (State.bar0Read s y1 y2).1 := by
  induction y2 generalizing y1 s with
  | zero =>
    unfold State.bar0Read
    repeat' (first
    | with_reducible assumption
    | (intro t_; first | (with_reducible refine keeps_cut (w := w) (s := s0) (t := t_) ?_ ?_; intro ht_; rotate_left; dsimp -zeta only [t_]) | skip)
    | with_reducible apply State.busRead_keeps (Sub.trans rfl hw)
    | lift_lets
    | with_reducible refine keeps_ite ?_ ?_
    | split
    | (clear_value *; split)
    | with_reducible refine keeps_fst_ite ?_ ?_
    | (with_reducible refine keeps_of_eq (by assumption) ?_)
    | dsimp -zeta only)
  | succ n ih =>
    unfold State.bar0Read
    repeat' (first
    | with_reducible assumption
    | with_reducible apply ih
    | (intro t_; first | (with_reducible refine keeps_cut (w := w) (s := s0) (t := t_) ?_ ?_; intro ht_; rotate_left; dsimp -zeta only [t_]) | skip)
    | with_reducible apply State.busRead_keeps (Sub.trans rfl hw)
    | lift_lets
    | with_reducible refine keeps_ite ?_ ?_
    | split
    | (clear_value *; split)
    | with_reducible refine keeps_fst_ite ?_ ?_
    | (with_reducible refine keeps_of_eq (by assumption) ?_)
    | dsimp -zeta only)
  

theorem State.bar0_keeps {w : Nat} {s0 s : State} (hw : Sub 0x7ffffec w) (h : Keeps w s0 s) (r : Sys2Proof.BarReq) :
    Keeps w s0 (State.bar0 s r) := by
  unfold State.bar0
  repeat' (first
    | with_reducible assumption
    | (intro t_; first | (with_reducible refine keeps_cut (w := w) (s := s0) (t := t_) ?_ ?_; intro ht_; rotate_left; dsimp -zeta only [t_]) | skip)
    | with_reducible apply State.bar0Write_keeps (Sub.trans rfl hw)
    | with_reducible apply State.bar0Read_keeps (Sub.trans rfl hw)
    | with_reducible apply State.emit_keeps (Sub.trans rfl hw)
    | lift_lets
    | with_reducible refine keeps_ite ?_ ?_
    | with_reducible refine keeps_fst_ite ?_ ?_
    | (with_reducible refine keeps_of_eq (by assumption) ?_))

theorem State.hostReq_keeps {w : Nat} {s0 s : State} (hw : Sub 0x7ffffec w) (h : Keeps w s0 s) (x : Sys2Proof.Machine.BrWait) :
    Keeps w s0 (State.hostReq s x) := by
  unfold State.hostReq
  repeat' (first
    | with_reducible assumption
    | (intro t_; first | (with_reducible refine keeps_cut (w := w) (s := s0) (t := t_) ?_ ?_; intro ht_; rotate_left; dsimp -zeta only [t_]) | skip)
    | with_reducible apply State.waitReq_keeps (Sub.trans rfl hw)
    | with_reducible apply State.bar2_keeps (Sub.trans rfl hw)
    | with_reducible apply State.bar0_keeps (Sub.trans rfl hw)
    | lift_lets
    | with_reducible refine keeps_ite ?_ ?_)

theorem State.settle_keeps {w : Nat} {s0 s : State} (hw : Sub 0x7ffffec w) (h : Keeps w s0 s) :
    Keeps w s0 (State.settle s) := by
  have b2 := Sub.bit (i := 2) hw rfl; have b3 := Sub.bit (i := 3) hw rfl; have b5 := Sub.bit (i := 5) hw rfl; have b6 := Sub.bit (i := 6) hw rfl; have b7 := Sub.bit (i := 7) hw rfl; have b8 := Sub.bit (i := 8) hw rfl; have b9 := Sub.bit (i := 9) hw rfl; have b10 := Sub.bit (i := 10) hw rfl; have b11 := Sub.bit (i := 11) hw rfl; have b12 := Sub.bit (i := 12) hw rfl; have b13 := Sub.bit (i := 13) hw rfl; have b14 := Sub.bit (i := 14) hw rfl; have b15 := Sub.bit (i := 15) hw rfl; have b16 := Sub.bit (i := 16) hw rfl; have b17 := Sub.bit (i := 17) hw rfl; have b18 := Sub.bit (i := 18) hw rfl; have b19 := Sub.bit (i := 19) hw rfl; have b20 := Sub.bit (i := 20) hw rfl; have b21 := Sub.bit (i := 21) hw rfl; have b22 := Sub.bit (i := 22) hw rfl; have b23 := Sub.bit (i := 23) hw rfl; have b24 := Sub.bit (i := 24) hw rfl; have b25 := Sub.bit (i := 25) hw rfl; have b26 := Sub.bit (i := 26) hw rfl
  unfold State.settle
  repeat' (first
    | with_reducible assumption
    | (intro t_; first | (with_reducible refine keeps_cut (w := w) (s := s0) (t := t_) ?_ ?_; intro ht_; rotate_left; dsimp -zeta only [t_]) | skip)
    | with_reducible apply State.hostReq_keeps (Sub.trans rfl hw)
    | with_reducible apply State.evalBrg_keeps (Sub.trans rfl hw)
    | with_reducible apply State.answerDone_keeps (Sub.trans rfl hw)
    | lift_lets
    | with_reducible refine keeps_ite ?_ ?_
    | with_reducible apply keeps_foldl
    | with_reducible apply keeps_foldl_fst
    | with_reducible refine keeps_upd ?_ (fun x => x) (fun x => x) (.inr rfl) (.inl b2) (.inl b3) (.inl b5) (.inl b6) (.inl b7) (.inl b8) (.inl b9) (.inl b10) (.inl b11) (.inl b12) (.inl b13) (.inl b14) (.inl b15) (.inl b16) (.inl b17) (.inl b18) (.inl b19) (.inl b20) (.inl b21) (.inl b22) (.inl b23) (.inl b24) (.inl b25) (.inl b26))

theorem State.hostRequest_keeps {w : Nat} {s0 s : State} (hw : Sub 0x7ffffec w) (h : Keeps w s0 s) (x : Sys2Proof.Machine.BrWait) :
    Keeps w s0 (State.hostRequest s x) := by
  unfold State.hostRequest
  repeat' (first
    | with_reducible assumption
    | (intro t_; first | (with_reducible refine keeps_cut (w := w) (s := s0) (t := t_) ?_ ?_; intro ht_; rotate_left; dsimp -zeta only [t_]) | skip)
    | with_reducible apply State.evalBrg_keeps (Sub.trans rfl hw)
    | with_reducible apply State.answerDone_keeps (Sub.trans rfl hw)
    | with_reducible apply State.hostReq_keeps (Sub.trans rfl hw)
    | with_reducible apply State.when_keeps (Sub.trans rfl hw)
    | with_reducible apply State.raise_keeps (Sub.trans rfl hw)
    | dsimp only [id]
    | lift_lets
    | with_reducible refine keeps_ite ?_ ?_)

theorem execBar0Request_keeps (r : Sys2Proof.BarReq) (s : State) :
    ∃ t_, execBar0Request r s = .next t_ ∧ Keeps 0x7ffffec s t_ := by
  have h := Keeps.refl 0x7ffffec s
  have hw := Sub.refl 0x7ffffec
  
  refine ⟨_, rfl, ?_⟩
  repeat' (first
    | with_reducible assumption
    | (intro t_; first | (with_reducible refine keeps_cut (w := w) (s := s0) (t := t_) ?_ ?_; intro ht_; rotate_left; dsimp -zeta only [t_]) | skip)
    | with_reducible apply State.when_keeps (Sub.trans rfl hw)
    | with_reducible apply State.waitReq_keeps (Sub.trans rfl hw)
    | with_reducible apply State.settle_keeps (Sub.trans rfl hw)
    | with_reducible apply State.bar0_keeps (Sub.trans rfl hw)
    | dsimp only [id]
    | lift_lets
    | with_reducible refine keeps_ite ?_ ?_
    | with_reducible refine keeps_fst_ite ?_ ?_
    | (with_reducible refine keeps_of_eq (by assumption) ?_))

theorem execBar2Request_keeps (r : Sys2Proof.BarReq) (s : State) :
    ∃ t_, execBar2Request r s = .next t_ ∧ Keeps 0x7ffffec s t_ := by
  have h := Keeps.refl 0x7ffffec s
  have hw := Sub.refl 0x7ffffec
  
  refine ⟨_, rfl, ?_⟩
  repeat' (first
    | with_reducible assumption
    | (intro t_; first | (with_reducible refine keeps_cut (w := w) (s := s0) (t := t_) ?_ ?_; intro ht_; rotate_left; dsimp -zeta only [t_]) | skip)
    | with_reducible apply State.when_keeps (Sub.trans rfl hw)
    | with_reducible apply State.hostRequest_keeps (Sub.trans rfl hw)
    | dsimp only [id]
    | lift_lets
    | with_reducible refine keeps_ite ?_ ?_
    | with_reducible refine keeps_fst_ite ?_ ?_
    | (with_reducible refine keeps_of_eq (by assumption) ?_))

theorem execRegisterWrite_keeps (agent : Sys2Proof.Agent) (addr : Nat) (be : BitVec 4) (value : Sys2Proof.Word) (s : State) :
    ∃ t_, execRegisterWrite agent addr be value s = .next t_ ∧ Keeps 0x7ffffec s t_ := by
  have h := Keeps.refl 0x7ffffec s
  have hw := Sub.refl 0x7ffffec
  
  refine ⟨_, rfl, ?_⟩
  repeat' (first
    | with_reducible assumption
    | (intro t_; first | (with_reducible refine keeps_cut (w := w) (s := s0) (t := t_) ?_ ?_; intro ht_; rotate_left; dsimp -zeta only [t_]) | skip)
    | with_reducible apply State.when_keeps (Sub.trans rfl hw)
    | with_reducible apply State.settle_keeps (Sub.trans rfl hw)
    | with_reducible apply State.beWrite_keeps (Sub.trans rfl hw)
    | dsimp only [id]
    | lift_lets
    | with_reducible refine keeps_ite ?_ ?_)

theorem State.mspiFail_keeps {w : Nat} {s0 s : State} (hw : Sub 0x3000104 w) (h : Keeps w s0 s) (a : Nat) (st : Nat) :
    Keeps w s0 (State.mspiFail s a st) := by
  unfold State.mspiFail
  repeat' (first
    | with_reducible assumption
    | (intro t_; first | (with_reducible refine keeps_cut (w := w) (s := s0) (t := t_) ?_ ?_; intro ht_; rotate_left; dsimp -zeta only [t_]) | skip)
    | with_reducible apply State.mspiAnswer_keeps (Sub.trans rfl hw)
    | with_reducible apply State.when_keeps (Sub.trans rfl hw)
    | with_reducible apply State.xdieDrop_keeps (Sub.trans rfl hw)
    | dsimp only [id]
    | lift_lets
    | with_reducible refine keeps_ite ?_ ?_)

theorem State.mspiRemote_keeps {w : Nat} {s0 s : State} (hw : Sub 0x7ffffec w) (h : Keeps w s0 s) (a : Nat) (write : Bool) (v : Sys2Proof.Word) :
    Keeps w s0 (State.mspiRemote s a write v) := by
  unfold State.mspiRemote
  repeat' (first
    | with_reducible assumption
    | (intro t_; first | (with_reducible refine keeps_cut (w := w) (s := s0) (t := t_) ?_ ?_; intro ht_; rotate_left; dsimp -zeta only [t_]) | skip)
    | with_reducible apply State.hostRequest_keeps (Sub.trans rfl hw)
    | with_reducible apply State.wrB_keeps (Sub.trans rfl hw)
    | lift_lets
    | with_reducible refine keeps_ite ?_ ?_
    | with_reducible refine keeps_fst_ite ?_ ?_
    | (with_reducible refine keeps_of_eq (by assumption) ?_))

theorem execMspiRead_keeps (addr : Nat) (s : State) :
    ∃ t_, execMspiRead addr s = .next t_ ∧ Keeps 0x7ffffec s t_ := by
  have h := Keeps.refl 0x7ffffec s
  have hw := Sub.refl 0x7ffffec
  
  refine ⟨_, rfl, ?_⟩
  repeat' (first
    | with_reducible assumption
    | (intro t_; first | (with_reducible refine keeps_cut (w := w) (s := s0) (t := t_) ?_ ?_; intro ht_; rotate_left; dsimp -zeta only [t_]) | skip)
    | with_reducible apply State.when_keeps (Sub.trans rfl hw)
    | with_reducible apply State.mspiFail_keeps (Sub.trans rfl hw)
    | with_reducible apply State.mspiRemote_keeps (Sub.trans rfl hw)
    | with_reducible apply State.busRead_keeps (Sub.trans rfl hw)
    | with_reducible apply State.mspiAnswer_keeps (Sub.trans rfl hw)
    | dsimp only [id]
    | lift_lets
    | with_reducible refine keeps_ite ?_ ?_
    | with_reducible refine keeps_fst_ite ?_ ?_
    | (with_reducible refine keeps_of_eq (by assumption) ?_))

theorem execMspiWrite_keeps (addr : Nat) (value : Sys2Proof.Word) (s : State) :
    ∃ t_, execMspiWrite addr value s = .next t_ ∧ Keeps 0x7ffffec s t_ := by
  have h := Keeps.refl 0x7ffffec s
  have hw := Sub.refl 0x7ffffec
  
  refine ⟨_, rfl, ?_⟩
  repeat' (first
    | with_reducible assumption
    | (intro t_; first | (with_reducible refine keeps_cut (w := w) (s := s0) (t := t_) ?_ ?_; intro ht_; rotate_left; dsimp -zeta only [t_]) | skip)
    | with_reducible apply State.when_keeps (Sub.trans rfl hw)
    | with_reducible apply State.mspiFail_keeps (Sub.trans rfl hw)
    | with_reducible apply State.mspiRemote_keeps (Sub.trans rfl hw)
    | with_reducible apply State.settle_keeps (Sub.trans rfl hw)
    | with_reducible apply State.mspiAnswer_keeps (Sub.trans rfl hw)
    | with_reducible apply State.busWrite_keeps (Sub.trans rfl hw)
    | dsimp only [id]
    | lift_lets
    | with_reducible refine keeps_ite ?_ ?_)

theorem execBridgeRetransmit_keeps (x_w : Fin 8) (seq : BitVec 16) (s : State) :
    ∃ t_, execBridgeRetransmit x_w seq s = .next t_ ∧ Keeps 0x3080184 s t_ := by
  have h := Keeps.refl 0x3080184 s
  have hw := Sub.refl 0x3080184
  have b2 := Sub.bit (i := 2) hw rfl; have b7 := Sub.bit (i := 7) hw rfl; have b8 := Sub.bit (i := 8) hw rfl; have b19 := Sub.bit (i := 19) hw rfl; have b24 := Sub.bit (i := 24) hw rfl; have b25 := Sub.bit (i := 25) hw rfl; 
  refine ⟨_, rfl, ?_⟩
  repeat' (first
    | with_reducible assumption
    | (intro t_; first | (with_reducible refine keeps_cut (w := w) (s := s0) (t := t_) ?_ ?_; intro ht_; rotate_left; dsimp -zeta only [t_]) | skip)
    | with_reducible apply State.reachAt_keeps (Sub.trans rfl hw)
    | with_reducible apply State.count_keeps (Sub.trans rfl hw)
    | lift_lets
    | with_reducible refine keeps_ite ?_ ?_
    | split
    | (clear_value *; split)
    | with_reducible refine keeps_upd ?_ (fun x => x) (fun x => x) (.inr rfl) (.inl b2) (.inr rfl) (.inr rfl) (.inr rfl) (.inl b7) (.inl b8) (.inr rfl) (.inr rfl) (.inr rfl) (.inr rfl) (.inr rfl) (.inr rfl) (.inr rfl) (.inr rfl) (.inr rfl) (.inr rfl) (.inl b19) (.inr rfl) (.inr rfl) (.inr rfl) (.inr rfl) (.inl b24) (.inl b25) (.inr rfl))

theorem execBridgeTimeout_keeps (x_w : Fin 8) (seq : BitVec 16) (s : State) :
    ∃ t_, execBridgeTimeout x_w seq s = .next t_ ∧ Keeps 0x7ffffec s t_ := by
  have h := Keeps.refl 0x7ffffec s
  have hw := Sub.refl 0x7ffffec
  
  refine ⟨_, rfl, ?_⟩
  repeat' (first
    | with_reducible assumption
    | (intro t_; first | (with_reducible refine keeps_cut (w := w) (s := s0) (t := t_) ?_ ?_; intro ht_; rotate_left; dsimp -zeta only [t_]) | skip)
    | with_reducible apply State.settle_keeps (Sub.trans rfl hw)
    | with_reducible apply State.evalBrg_keeps (Sub.trans rfl hw)
    | with_reducible apply State.failReq_keeps (Sub.trans rfl hw)
    | with_reducible apply State.reachAt_keeps (Sub.trans rfl hw)
    | lift_lets
    | with_reducible refine keeps_ite ?_ ?_
    | split
    | (clear_value *; split))

theorem execBridgeFlush_keeps (mask : Sys2Proof.Byte) (s : State) :
    ∃ t_, execBridgeFlush mask s = .next t_ ∧ Keeps 0x7ffffec s t_ := by
  have h := Keeps.refl 0x7ffffec s
  have hw := Sub.refl 0x7ffffec
  
  refine ⟨_, rfl, ?_⟩
  repeat' (first
    | with_reducible assumption
    | (intro t_; first | (with_reducible refine keeps_cut (w := w) (s := s0) (t := t_) ?_ ?_; intro ht_; rotate_left; dsimp -zeta only [t_]) | skip)
    | with_reducible apply State.when_keeps (Sub.trans rfl hw)
    | with_reducible apply State.settle_keeps (Sub.trans rfl hw)
    | with_reducible apply State.brgFlush_keeps (Sub.trans rfl hw)
    | dsimp only [id]
    | lift_lets
    | with_reducible refine keeps_ite ?_ ?_)

theorem execPrefetchExpiry_keeps (x_w : Fin 8) (block : Nat) (s : State) :
    ∃ t_, execPrefetchExpiry x_w block s = .next t_ ∧ Keeps 0x3080184 s t_ := by
  have h := Keeps.refl 0x3080184 s
  have hw := Sub.refl 0x3080184
  have b2 := Sub.bit (i := 2) hw rfl; have b7 := Sub.bit (i := 7) hw rfl; have b8 := Sub.bit (i := 8) hw rfl; have b19 := Sub.bit (i := 19) hw rfl; have b24 := Sub.bit (i := 24) hw rfl; have b25 := Sub.bit (i := 25) hw rfl; 
  refine ⟨_, rfl, ?_⟩
  repeat' (first
    | with_reducible assumption
    | (intro t_; first | (with_reducible refine keeps_cut (w := w) (s := s0) (t := t_) ?_ ?_; intro ht_; rotate_left; dsimp -zeta only [t_]) | skip)
    | with_reducible apply State.when_keeps (Sub.trans rfl hw)
    | with_reducible apply State.reachAt_keeps (Sub.trans rfl hw)
    | dsimp only [id]
    | lift_lets
    | with_reducible refine keeps_ite ?_ ?_
    | split
    | (clear_value *; split)
    | with_reducible refine keeps_upd ?_ (fun x => x) (fun x => x) (.inr rfl) (.inl b2) (.inr rfl) (.inr rfl) (.inr rfl) (.inl b7) (.inl b8) (.inr rfl) (.inr rfl) (.inr rfl) (.inr rfl) (.inr rfl) (.inr rfl) (.inr rfl) (.inr rfl) (.inr rfl) (.inr rfl) (.inl b19) (.inr rfl) (.inr rfl) (.inr rfl) (.inr rfl) (.inl b24) (.inl b25) (.inr rfl))

theorem execBridgeErrPop_keeps (agent : Sys2Proof.Agent) (s : State) :
    ∃ t_, execBridgeErrPop agent s = .next t_ ∧ Keeps 0x73e2124 s t_ := by
  have h := Keeps.refl 0x73e2124 s
  have hw := Sub.refl 0x73e2124
  
  refine ⟨_, rfl, ?_⟩
  repeat' (first
    | with_reducible assumption
    | (intro t_; first | (with_reducible refine keeps_cut (w := w) (s := s0) (t := t_) ?_ ?_; intro ht_; rotate_left; dsimp -zeta only [t_]) | skip)
    | with_reducible apply State.when_keeps (Sub.trans rfl hw)
    | with_reducible apply State.readOut_keeps (Sub.trans rfl hw)
    | dsimp only [id]
    | lift_lets
    | with_reducible refine keeps_ite ?_ ?_)

theorem State.passBridge_keeps {w : Nat} {s0 s : State} (hw : Sub 0x6920104 w) (h : Keeps w s0 s) (p : Nat) (x_h : Sys2Proof.Hdr) (b : Sys2Proof.Machine.Body) :
    Keeps w s0 (State.passBridge s p x_h b) := by
  unfold State.passBridge
  repeat' (first
    | with_reducible assumption
    | (intro t_; first | (with_reducible refine keeps_cut (w := w) (s := s0) (t := t_) ?_ ?_; intro ht_; rotate_left; dsimp -zeta only [t_]) | skip)
    | with_reducible apply State.queueMgmt_keeps (Sub.trans rfl hw)
    | with_reducible apply State.relay_keeps (Sub.trans rfl hw)
    | lift_lets
    | with_reducible refine keeps_ite ?_ ?_)

theorem State.takeBridge_keeps {w : Nat} {s0 s : State} (hw : Sub 0x6920104 w) (h : Keeps w s0 s) (rx : Sys2Proof.Rx) (x_h : Sys2Proof.Hdr) (subtype : Sys2Proof.Byte) (b : Sys2Proof.Machine.Body) :
    Keeps w s0 (State.takeBridge s rx x_h subtype b).1 := by
  unfold State.takeBridge
  repeat' (first
    | with_reducible assumption
    | (intro t_; first | (with_reducible refine keeps_cut (w := w) (s := s0) (t := t_) ?_ ?_; intro ht_; rotate_left; dsimp -zeta only [t_]) | skip)
    | with_reducible apply State.takeSl_keeps (Sub.trans rfl hw)
    | with_reducible apply State.strip_keeps (Sub.trans rfl hw)
    | with_reducible apply State.slCheck_keeps (Sub.trans rfl hw)
    | with_reducible apply State.endBad_keeps (Sub.trans rfl hw)
    | with_reducible apply State.relayBad_keeps (Sub.trans rfl hw)
    | with_reducible apply State.passBridge_keeps (Sub.trans rfl hw)
    | lift_lets
    | with_reducible refine keeps_ite ?_ ?_
    | with_reducible refine keeps_fst_ite ?_ ?_
    | (with_reducible refine keeps_of_eq (by assumption) ?_)
    | dsimp -zeta only)

theorem State.farWrite_keeps {w : Nat} {s0 s : State} (hw : Sub 0x7ffffec w) (h : Keeps w s0 s) (y1 : Nat) (y2 : List Sys2Proof.Word) :
    Keeps w s0 (State.farWrite s y1 y2).1 := by
  induction y2 generalizing y1 s with
  | nil =>
    unfold State.farWrite
    repeat' (first
    | with_reducible assumption
    | (intro t_; first | (with_reducible refine keeps_cut (w := w) (s := s0) (t := t_) ?_ ?_; intro ht_; rotate_left; dsimp -zeta only [t_]) | skip)
    | with_reducible apply State.busWrite_keeps (Sub.trans rfl hw)
    | lift_lets
    | with_reducible refine keeps_ite ?_ ?_
    | split
    | (clear_value *; split)
    | with_reducible refine keeps_fst_ite ?_ ?_
    | (with_reducible refine keeps_of_eq (by assumption) ?_)
    | dsimp -zeta only)
  | cons x xs ih =>
    unfold State.farWrite
    repeat' (first
    | with_reducible assumption
    | with_reducible apply ih
    | (intro t_; first | (with_reducible refine keeps_cut (w := w) (s := s0) (t := t_) ?_ ?_; intro ht_; rotate_left; dsimp -zeta only [t_]) | skip)
    | with_reducible apply State.busWrite_keeps (Sub.trans rfl hw)
    | lift_lets
    | with_reducible refine keeps_ite ?_ ?_
    | split
    | (clear_value *; split)
    | with_reducible refine keeps_fst_ite ?_ ?_
    | (with_reducible refine keeps_of_eq (by assumption) ?_)
    | dsimp -zeta only)
  

theorem State.farRead_keeps {w : Nat} {s0 s : State} (hw : Sub 0x73e2124 w) (h : Keeps w s0 s) (y1 : Nat) (y2 : Nat) :
    Keeps w s0 (State.farRead s y1 y2).1 := by
  induction y2 generalizing y1 s with
  | zero =>
    unfold State.farRead
    repeat' (first
    | with_reducible assumption
    | (intro t_; first | (with_reducible refine keeps_cut (w := w) (s := s0) (t := t_) ?_ ?_; intro ht_; rotate_left; dsimp -zeta only [t_]) | skip)
    | with_reducible apply State.busRead_keeps (Sub.trans rfl hw)
    | lift_lets
    | with_reducible refine keeps_ite ?_ ?_
    | split
    | (clear_value *; split)
    | with_reducible refine keeps_fst_ite ?_ ?_
    | (with_reducible refine keeps_of_eq (by assumption) ?_)
    | dsimp -zeta only)
  | succ n ih =>
    unfold State.farRead
    repeat' (first
    | with_reducible assumption
    | with_reducible apply ih
    | (intro t_; first | (with_reducible refine keeps_cut (w := w) (s := s0) (t := t_) ?_ ?_; intro ht_; rotate_left; dsimp -zeta only [t_]) | skip)
    | with_reducible apply State.busRead_keeps (Sub.trans rfl hw)
    | lift_lets
    | with_reducible refine keeps_ite ?_ ?_
    | split
    | (clear_value *; split)
    | with_reducible refine keeps_fst_ite ?_ ?_
    | (with_reducible refine keeps_of_eq (by assumption) ?_)
    | dsimp -zeta only)
  

theorem State.farExec_keeps {w : Nat} {s0 s : State} (hw : Sub 0x7ffffec w) (h : Keeps w s0 s) (b : Sys2Proof.BridgeReq) :
    Keeps w s0 (State.farExec s b).1 := by
  have h1 := State.farWrite_keeps (Sub.trans rfl hw) h
  have h2 := State.farRead_keeps (Sub.trans rfl hw) h
  unfold State.farExec
  split
  · exact h
  · split
    · dsimp only
      exact h1 _ _
    · split
      · dsimp only
        exact h2 _ _
      · dsimp only
        exact h2 _ _

theorem State.respond_keeps {w : Nat} {s0 s : State} (hw : Sub 0x69a0104 w) (h : Keeps w s0 s) (dst : Nat) (b : Sys2Proof.BridgeRsp) :
    Keeps w s0 (State.respond s dst b) := by
  have b2 := Sub.bit (i := 2) hw rfl; have b8 := Sub.bit (i := 8) hw rfl; have b17 := Sub.bit (i := 17) hw rfl; have b19 := Sub.bit (i := 19) hw rfl; have b20 := Sub.bit (i := 20) hw rfl; have b23 := Sub.bit (i := 23) hw rfl; have b25 := Sub.bit (i := 25) hw rfl; have b26 := Sub.bit (i := 26) hw rfl
  unfold State.respond
  repeat' (first
    | with_reducible assumption
    | (intro t_; first | (with_reducible refine keeps_cut (w := w) (s := s0) (t := t_) ?_ ?_; intro ht_; rotate_left; dsimp -zeta only [t_]) | skip)
    | with_reducible apply State.flushRsp_keeps (Sub.trans rfl hw)
    | lift_lets
    | with_reducible refine keeps_ite ?_ ?_
    | with_reducible refine keeps_upd ?_ (fun x => x) (fun x => x) (.inr rfl) (.inl b2) (.inr rfl) (.inr rfl) (.inr rfl) (.inr rfl) (.inl b8) (.inr rfl) (.inr rfl) (.inr rfl) (.inr rfl) (.inr rfl) (.inr rfl) (.inr rfl) (.inr rfl) (.inl b17) (.inr rfl) (.inl b19) (.inl b20) (.inr rfl) (.inr rfl) (.inl b23) (.inr rfl) (.inl b25) (.inl b26))

theorem State.farSequence_keeps {w : Nat} {s0 s : State} (hw : Sub 0x7ffffec w) (h : Keeps w s0 s) (dst : Nat) (b : Sys2Proof.BridgeReq) :
    Keeps w s0 (State.farSequence s dst b) := by
  have b2 := Sub.bit (i := 2) hw rfl; have b3 := Sub.bit (i := 3) hw rfl; have b5 := Sub.bit (i := 5) hw rfl; have b6 := Sub.bit (i := 6) hw rfl; have b7 := Sub.bit (i := 7) hw rfl; have b8 := Sub.bit (i := 8) hw rfl; have b9 := Sub.bit (i := 9) hw rfl; have b10 := Sub.bit (i := 10) hw rfl; have b11 := Sub.bit (i := 11) hw rfl; have b12 := Sub.bit (i := 12) hw rfl; have b13 := Sub.bit (i := 13) hw rfl; have b14 := Sub.bit (i := 14) hw rfl; have b15 := Sub.bit (i := 15) hw rfl; have b16 := Sub.bit (i := 16) hw rfl; have b17 := Sub.bit (i := 17) hw rfl; have b18 := Sub.bit (i := 18) hw rfl; have b19 := Sub.bit (i := 19) hw rfl; have b20 := Sub.bit (i := 20) hw rfl; have b21 := Sub.bit (i := 21) hw rfl; have b22 := Sub.bit (i := 22) hw rfl; have b23 := Sub.bit (i := 23) hw rfl; have b24 := Sub.bit (i := 24) hw rfl; have b25 := Sub.bit (i := 25) hw rfl; have b26 := Sub.bit (i := 26) hw rfl
  unfold State.farSequence
  repeat' (first
    | with_reducible assumption
    | (intro t_; first | (with_reducible refine keeps_cut (w := w) (s := s0) (t := t_) ?_ ?_; intro ht_; rotate_left; dsimp -zeta only [t_]) | skip)
    | with_reducible apply State.count_keeps (Sub.trans rfl hw)
    | with_reducible apply State.respond_keeps (Sub.trans rfl hw)
    | with_reducible apply State.farExec_keeps (Sub.trans rfl hw)
    | lift_lets
    | with_reducible refine keeps_ite ?_ ?_
    | split
    | (clear_value *; split)
    | with_reducible refine keeps_fst_ite ?_ ?_
    | (with_reducible refine keeps_of_eq (by assumption) ?_)
    | with_reducible refine keeps_upd ?_ (fun x => x) (fun x => x) (.inr rfl) (.inl b2) (.inl b3) (.inl b5) (.inl b6) (.inl b7) (.inl b8) (.inl b9) (.inl b10) (.inl b11) (.inl b12) (.inl b13) (.inl b14) (.inl b15) (.inl b16) (.inl b17) (.inl b18) (.inl b19) (.inl b20) (.inl b21) (.inl b22) (.inl b23) (.inl b24) (.inl b25) (.inl b26))

theorem State.farRequest_keeps {w : Nat} {s0 s : State} (hw : Sub 0x7ffffec w) (h : Keeps w s0 s) (x_h : Sys2Proof.Hdr) (b : Sys2Proof.BridgeReq) :
    Keeps w s0 (State.farRequest s x_h b) := by
  unfold State.farRequest
  repeat' (first
    | with_reducible assumption
    | (intro t_; first | (with_reducible refine keeps_cut (w := w) (s := s0) (t := t_) ?_ ?_; intro ht_; rotate_left; dsimp -zeta only [t_]) | skip)
    | with_reducible apply State.respond_keeps (Sub.trans rfl hw)
    | with_reducible apply State.farSequence_keeps (Sub.trans rfl hw)
    | lift_lets
    | with_reducible refine keeps_ite ?_ ?_)

theorem execBridgeReqRx_keeps (rx : Sys2Proof.Rx) (x_h : Sys2Proof.Hdr) (b : Sys2Proof.BridgeReq) (s : State) :
    ∃ t_, execBridgeReqRx rx x_h b s = .next t_ ∧ Keeps 0x7ffffec s t_ := by
  have h := Keeps.refl 0x7ffffec s
  have hw := Sub.refl 0x7ffffec
  
  refine ⟨_, rfl, ?_⟩
  repeat' (first
    | with_reducible assumption
    | (intro t_; first | (with_reducible refine keeps_cut (w := w) (s := s0) (t := t_) ?_ ?_; intro ht_; rotate_left; dsimp -zeta only [t_]) | skip)
    | with_reducible apply State.takeBridge_keeps (Sub.trans rfl hw)
    | with_reducible apply State.settle_keeps (Sub.trans rfl hw)
    | with_reducible apply State.farRequest_keeps (Sub.trans rfl hw)
    | lift_lets
    | with_reducible refine keeps_ite ?_ ?_
    | split
    | (clear_value *; split)
    | with_reducible refine keeps_fst_ite ?_ ?_
    | (with_reducible refine keeps_of_eq (by assumption) ?_))

theorem State.holdBlock_keeps {w : Nat} {s0 s : State} (hw : Sub 0x80000 w) (h : Keeps w s0 s) (x_w : Nat) (block : Nat) (ws : List Sys2Proof.Word) :
    Keeps w s0 (State.holdBlock s x_w block ws) := by
  have b19 := Sub.bit (i := 19) hw rfl
  unfold State.holdBlock
  repeat' (first
    | with_reducible assumption
    | (intro t_; first | (with_reducible refine keeps_cut (w := w) (s := s0) (t := t_) ?_ ?_; intro ht_; rotate_left; dsimp -zeta only [t_]) | skip)
    | lift_lets
    | with_reducible refine keeps_ite ?_ ?_
    | with_reducible refine keeps_upd ?_ (fun x => x) (fun x => x) (.inr rfl) (.inr rfl) (.inr rfl) (.inr rfl) (.inr rfl) (.inr rfl) (.inr rfl) (.inr rfl) (.inr rfl) (.inr rfl) (.inr rfl) (.inr rfl) (.inr rfl) (.inr rfl) (.inr rfl) (.inr rfl) (.inr rfl) (.inl b19) (.inr rfl) (.inr rfl) (.inr rfl) (.inr rfl) (.inr rfl) (.inr rfl) (.inr rfl))

theorem State.takeRsp_keeps {w : Nat} {s0 s : State} (hw : Sub 0x80104 w) (h : Keeps w s0 s) (r : Sys2Proof.Machine.BrReq) (b : Sys2Proof.BridgeRsp) :
    Keeps w s0 (State.takeRsp s r b) := by
  unfold State.takeRsp
  repeat' (first
    | with_reducible assumption
    | (intro t_; first | (with_reducible refine keeps_cut (w := w) (s := s0) (t := t_) ?_ ?_; intro ht_; rotate_left; dsimp -zeta only [t_]) | skip)
    | with_reducible apply State.failReq_keeps (Sub.trans rfl hw)
    | with_reducible apply State.fillAccess_keeps (Sub.trans rfl hw)
    | with_reducible apply State.dropReq_keeps (Sub.trans rfl hw)
    | with_reducible apply State.when_keeps (Sub.trans rfl hw)
    | with_reducible apply State.holdBlock_keeps (Sub.trans rfl hw)
    | dsimp only [id]
    | lift_lets
    | with_reducible refine keeps_ite ?_ ?_)

theorem execBridgeRspRx_keeps (rx : Sys2Proof.Rx) (x_h : Sys2Proof.Hdr) (b : Sys2Proof.BridgeRsp) (s : State) :
    ∃ t_, execBridgeRspRx rx x_h b s = .next t_ ∧ Keeps 0x7ffffec s t_ := by
  have h := Keeps.refl 0x7ffffec s
  have hw := Sub.refl 0x7ffffec
  
  refine ⟨_, rfl, ?_⟩
  repeat' (first
    | with_reducible assumption
    | (intro t_; first | (with_reducible refine keeps_cut (w := w) (s := s0) (t := t_) ?_ ?_; intro ht_; rotate_left; dsimp -zeta only [t_]) | skip)
    | with_reducible apply State.takeBridge_keeps (Sub.trans rfl hw)
    | with_reducible apply State.settle_keeps (Sub.trans rfl hw)
    | with_reducible apply State.evalBrg_keeps (Sub.trans rfl hw)
    | with_reducible apply State.takeRsp_keeps (Sub.trans rfl hw)
    | with_reducible apply State.count_keeps (Sub.trans rfl hw)
    | lift_lets
    | with_reducible refine keeps_ite ?_ ?_
    | split
    | (clear_value *; split)
    | with_reducible refine keeps_fst_ite ?_ ?_
    | (with_reducible refine keeps_of_eq (by assumption) ?_))

theorem execEventMsgSend_keeps (s : State) :
    ∃ t_, execEventMsgSend s = .next t_ ∧ Keeps 0x69a0104 s t_ := by
  have h := Keeps.refl 0x69a0104 s
  have hw := Sub.refl 0x69a0104
  
  refine ⟨_, rfl, ?_⟩
  repeat' (first
    | with_reducible assumption
    | (intro t_; first | (with_reducible refine keeps_cut (w := w) (s := s0) (t := t_) ?_ ?_; intro ht_; rotate_left; dsimp -zeta only [t_]) | skip)
    | with_reducible apply State.sendClass6_keeps (Sub.trans rfl hw)
    | with_reducible apply State.flushRsp_keeps (Sub.trans rfl hw)
    | lift_lets
    | with_reducible refine keeps_ite ?_ ?_
    | split
    | (clear_value *; split))

theorem State.takeEvt_keeps {w : Nat} {s0 s : State} (hw : Sub 0x80000 w) (h : Keeps w s0 s) (n : Nat) (m : Sys2Proof.EventMsg) :
    Keeps w s0 (State.takeEvt s n m) := by
  have b19 := Sub.bit (i := 19) hw rfl
  unfold State.takeEvt
  repeat' (first
    | with_reducible assumption
    | (intro t_; first | (with_reducible refine keeps_cut (w := w) (s := s0) (t := t_) ?_ ?_; intro ht_; rotate_left; dsimp -zeta only [t_]) | skip)
    | lift_lets
    | with_reducible refine keeps_ite ?_ ?_
    | with_reducible refine keeps_upd ?_ (fun x => x) (fun x => x) (.inr rfl) (.inr rfl) (.inr rfl) (.inr rfl) (.inr rfl) (.inr rfl) (.inr rfl) (.inr rfl) (.inr rfl) (.inr rfl) (.inr rfl) (.inr rfl) (.inr rfl) (.inr rfl) (.inr rfl) (.inr rfl) (.inr rfl) (.inl b19) (.inr rfl) (.inr rfl) (.inr rfl) (.inr rfl) (.inr rfl) (.inr rfl) (.inr rfl))

theorem execEventMsgRx_keeps (rx : Sys2Proof.Rx) (x_h : Sys2Proof.Hdr) (b : Sys2Proof.EventMsg) (s : State) :
    ∃ t_, execEventMsgRx rx x_h b s = .next t_ ∧ Keeps 0x69a0104 s t_ := by
  have h := Keeps.refl 0x69a0104 s
  have hw := Sub.refl 0x69a0104
  
  refine ⟨_, rfl, ?_⟩
  repeat' (first
    | with_reducible assumption
    | (intro t_; first | (with_reducible refine keeps_cut (w := w) (s := s0) (t := t_) ?_ ?_; intro ht_; rotate_left; dsimp -zeta only [t_]) | skip)
    | with_reducible apply State.takeBridge_keeps (Sub.trans rfl hw)
    | with_reducible apply State.takeEvt_keeps (Sub.trans rfl hw)
    | lift_lets
    | with_reducible refine keeps_ite ?_ ?_
    | split
    | (clear_value *; split)
    | with_reducible refine keeps_fst_ite ?_ ?_
    | (with_reducible refine keeps_of_eq (by assumption) ?_))

theorem State.evtRow_keeps {w : Nat} {s0 s : State} (hw : Sub 0x3000184 w) (h : Keeps w s0 s) {m : Sys2Proof.EventMsg} {t : State}
    (he : State.evtRow s m = some t) : Keeps w s0 t := by
  unfold State.evtRow at he
  dsimp only at he
  split at he
  · cases he; exact h
  · split at he
    · cases he
    · split at he
      · cases he; exact State.reachSt_keeps (Sub.trans rfl hw) h _
      · cases he; exact h

theorem State.enqueueEvt_keeps {w : Nat} {s0 s : State} (hw : Sub 0x80104 w) (h : Keeps w s0 s) (n : Nat) (m : Sys2Proof.EventMsg) :
    Keeps w s0 (State.enqueueEvt s n m) := by
  have b2 := Sub.bit (i := 2) hw rfl; have b8 := Sub.bit (i := 8) hw rfl; have b19 := Sub.bit (i := 19) hw rfl
  unfold State.enqueueEvt
  repeat' (first
    | with_reducible assumption
    | (intro t_; first | (with_reducible refine keeps_cut (w := w) (s := s0) (t := t_) ?_ ?_; intro ht_; rotate_left; dsimp -zeta only [t_]) | skip)
    | with_reducible apply State.raise_keeps (Sub.trans rfl hw)
    | with_reducible apply State.countF_keeps (Sub.trans rfl hw)
    | with_reducible apply State.wrF_keeps (Sub.trans rfl hw)
    | lift_lets
    | with_reducible refine keeps_ite ?_ ?_
    | with_reducible refine keeps_upd ?_ (fun x => x) (fun x => x) (.inr rfl) (.inl b2) (.inr rfl) (.inr rfl) (.inr rfl) (.inr rfl) (.inl b8) (.inr rfl) (.inr rfl) (.inr rfl) (.inr rfl) (.inr rfl) (.inr rfl) (.inr rfl) (.inr rfl) (.inr rfl) (.inr rfl) (.inl b19) (.inr rfl) (.inr rfl) (.inr rfl) (.inr rfl) (.inr rfl) (.inr rfl) (.inr rfl))

theorem State.enqueueNext_keeps {w : Nat} {s0 s : State} (hw : Sub 0x3080184 w) (h : Keeps w s0 s) (u : Sys2Proof.Uid) :
    Keeps w s0 (State.enqueueNext s u) := by
  have b2 := Sub.bit (i := 2) hw rfl; have b7 := Sub.bit (i := 7) hw rfl; have b8 := Sub.bit (i := 8) hw rfl; have b19 := Sub.bit (i := 19) hw rfl; have b24 := Sub.bit (i := 24) hw rfl; have b25 := Sub.bit (i := 25) hw rfl
  unfold State.enqueueNext
  repeat' (first
    | with_reducible assumption
    | (intro t_; first | (with_reducible refine keeps_cut (w := w) (s := s0) (t := t_) ?_ ?_; intro ht_; rotate_left; dsimp -zeta only [t_]) | skip)
    | (with_reducible refine State.evtRow_keeps (Sub.trans rfl hw) ?_ (by assumption))
    | with_reducible apply State.enqueueEvt_keeps (Sub.trans rfl hw)
    | lift_lets
    | with_reducible refine keeps_ite ?_ ?_
    | split
    | (clear_value *; split)
    | with_reducible refine keeps_upd ?_ (fun x => x) (fun x => x) (.inr rfl) (.inl b2) (.inr rfl) (.inr rfl) (.inr rfl) (.inl b7) (.inl b8) (.inr rfl) (.inr rfl) (.inr rfl) (.inr rfl) (.inr rfl) (.inr rfl) (.inr rfl) (.inr rfl) (.inr rfl) (.inr rfl) (.inl b19) (.inr rfl) (.inr rfl) (.inr rfl) (.inr rfl) (.inl b24) (.inl b25) (.inr rfl))

theorem execRemoteEventEnqueue_keeps (uid : Sys2Proof.Uid) (s : State) :
    ∃ t_, execRemoteEventEnqueue uid s = .next t_ ∧ Keeps 0x3080184 s t_ := by
  have h := Keeps.refl 0x3080184 s
  have hw := Sub.refl 0x3080184
  
  refine ⟨_, rfl, ?_⟩
  repeat' (first
    | with_reducible assumption
    | (intro t_; first | (with_reducible refine keeps_cut (w := w) (s := s0) (t := t_) ?_ ?_; intro ht_; rotate_left; dsimp -zeta only [t_]) | skip)
    | with_reducible apply State.when_keeps (Sub.trans rfl hw)
    | with_reducible apply State.enqueueNext_keeps (Sub.trans rfl hw)
    | dsimp only [id]
    | lift_lets
    | with_reducible refine keeps_ite ?_ ?_)

theorem execRemoteEventGapTimeout_keeps (uid : Sys2Proof.Uid) (s : State) :
    ∃ t_, execRemoteEventGapTimeout uid s = .next t_ ∧ Keeps 0x3080184 s t_ := by
  have h := Keeps.refl 0x3080184 s
  have hw := Sub.refl 0x3080184
  have b2 := Sub.bit (i := 2) hw rfl; have b7 := Sub.bit (i := 7) hw rfl; have b8 := Sub.bit (i := 8) hw rfl; have b19 := Sub.bit (i := 19) hw rfl; have b24 := Sub.bit (i := 24) hw rfl; have b25 := Sub.bit (i := 25) hw rfl; 
  refine ⟨_, rfl, ?_⟩
  repeat' (first
    | with_reducible assumption
    | (intro t_; first | (with_reducible refine keeps_cut (w := w) (s := s0) (t := t_) ?_ ?_; intro ht_; rotate_left; dsimp -zeta only [t_]) | skip)
    | with_reducible apply State.reachAt_keeps (Sub.trans rfl hw)
    | with_reducible apply State.enqueueNext_keeps (Sub.trans rfl hw)
    | with_reducible apply State.raise_keeps (Sub.trans rfl hw)
    | lift_lets
    | with_reducible refine keeps_ite ?_ ?_
    | split
    | (clear_value *; split)
    | with_reducible refine keeps_upd ?_ (fun x => x) (fun x => x) (.inr rfl) (.inl b2) (.inr rfl) (.inr rfl) (.inr rfl) (.inl b7) (.inl b8) (.inr rfl) (.inr rfl) (.inr rfl) (.inr rfl) (.inr rfl) (.inr rfl) (.inr rfl) (.inr rfl) (.inr rfl) (.inr rfl) (.inl b19) (.inr rfl) (.inr rfl) (.inr rfl) (.inr rfl) (.inl b24) (.inl b25) (.inr rfl))

theorem execRemoteEventPop_keeps (agent : Sys2Proof.Agent) (s : State) :
    ∃ t_, execRemoteEventPop agent s = .next t_ ∧ Keeps 0x73e2124 s t_ := by
  have h := Keeps.refl 0x73e2124 s
  have hw := Sub.refl 0x73e2124
  
  refine ⟨_, rfl, ?_⟩
  repeat' (first
    | with_reducible assumption
    | (intro t_; first | (with_reducible refine keeps_cut (w := w) (s := s0) (t := t_) ?_ ?_; intro ht_; rotate_left; dsimp -zeta only [t_]) | skip)
    | with_reducible apply State.when_keeps (Sub.trans rfl hw)
    | with_reducible apply State.readOut_keeps (Sub.trans rfl hw)
    | dsimp only [id]
    | lift_lets
    | with_reducible refine keeps_ite ?_ ?_)

theorem State.perstBridge_keeps {w : Nat} {s0 s : State} (hw : Sub 0x3080104 w) (h : Keeps w s0 s) :
    Keeps w s0 (State.perstBridge s) := by
  have b2 := Sub.bit (i := 2) hw rfl; have b8 := Sub.bit (i := 8) hw rfl; have b19 := Sub.bit (i := 19) hw rfl; have b24 := Sub.bit (i := 24) hw rfl; have b25 := Sub.bit (i := 25) hw rfl
  unfold State.perstBridge
  repeat' (first
    | with_reducible assumption
    | (intro t_; first | (with_reducible refine keeps_cut (w := w) (s := s0) (t := t_) ?_ ?_; intro ht_; rotate_left; dsimp -zeta only [t_]) | skip)
    | with_reducible apply State.each_keeps (Sub.trans rfl hw)
    | with_reducible apply State.brgErr_keeps (Sub.trans rfl hw)
    | with_reducible apply State.dropReq_keeps (Sub.trans rfl hw)
    | with_reducible apply State.answerAccess_keeps (Sub.trans rfl hw)
    | lift_lets
    | with_reducible refine keeps_ite ?_ ?_
    | with_reducible refine keeps_upd ?_ (fun x => x) (fun x => x) (.inr rfl) (.inl b2) (.inr rfl) (.inr rfl) (.inr rfl) (.inr rfl) (.inl b8) (.inr rfl) (.inr rfl) (.inr rfl) (.inr rfl) (.inr rfl) (.inr rfl) (.inr rfl) (.inr rfl) (.inr rfl) (.inr rfl) (.inl b19) (.inr rfl) (.inr rfl) (.inr rfl) (.inr rfl) (.inl b24) (.inl b25) (.inr rfl))

theorem State.perstLow_keeps {w : Nat} {s0 s : State} (hw : Sub 0x7080124 w) (h : Keeps w s0 s) :
    Keeps w s0 (State.perstLow s) := by
  have b2 := Sub.bit (i := 2) hw rfl; have b5 := Sub.bit (i := 5) hw rfl; have b8 := Sub.bit (i := 8) hw rfl; have b19 := Sub.bit (i := 19) hw rfl; have b24 := Sub.bit (i := 24) hw rfl; have b25 := Sub.bit (i := 25) hw rfl; have b26 := Sub.bit (i := 26) hw rfl
  unfold State.perstLow
  repeat' (first
    | with_reducible assumption
    | with_reducible exact (fun _ => Sparse.wf_nil)
    | with_reducible exact (fun _ => Sparse.wf_set Sparse.wf_nil)
    | with_reducible exact (fun x => Sparse.wf_drop x)
    | with_reducible exact (fun x => x)
    | with_reducible exact (fun x => rfl)
    | (intro t_; first | (with_reducible refine keeps_cut (w := w) (s := s0) (t := t_) ?_ ?_; intro ht_; rotate_left; dsimp -zeta only [t_]) | skip)
    | with_reducible apply State.pcieDown_keeps (Sub.trans rfl hw)
    | with_reducible apply State.wr_keeps (Sub.trans rfl hw)
    | with_reducible apply State.wrF_keeps (Sub.trans rfl hw)
    | with_reducible apply State.wrB_keeps (Sub.trans rfl hw)
    | with_reducible apply State.perstBridge_keeps (Sub.trans rfl hw)
    | with_reducible apply State.evalEvc_keeps (Sub.trans rfl hw)
    | with_reducible apply State.evalBrg_keeps (Sub.trans rfl hw)
    | with_reducible apply State.raise_keeps (Sub.trans rfl hw)
    | lift_lets
    | with_reducible refine keeps_ite ?_ ?_
    | with_reducible refine keeps_fst_ite ?_ ?_
    | (with_reducible refine keeps_of_eq (by assumption) ?_)
    | with_reducible refine keeps_upd ?_ ?_ ?_ (.inr rfl) (.inl b2) (.inr rfl) (.inl b5) (.inr rfl) (.inr rfl) (.inl b8) (.inr rfl) (.inr rfl) (.inr rfl) (.inr rfl) (.inr rfl) (.inr rfl) (.inr rfl) (.inr rfl) (.inr rfl) (.inr rfl) (.inl b19) (.inr rfl) (.inr rfl) (.inr rfl) (.inr rfl) (.inl b24) (.inl b25) (.inl b26))

theorem execPerstAssert_keeps (s : State) :
    ∃ t_, execPerstAssert s = .next t_ ∧ Keeps 0x7080124 s t_ := by
  have h := Keeps.refl 0x7080124 s
  have hw := Sub.refl 0x7080124
  have b2 := Sub.bit (i := 2) hw rfl; have b5 := Sub.bit (i := 5) hw rfl; have b8 := Sub.bit (i := 8) hw rfl; have b19 := Sub.bit (i := 19) hw rfl; have b24 := Sub.bit (i := 24) hw rfl; have b25 := Sub.bit (i := 25) hw rfl; have b26 := Sub.bit (i := 26) hw rfl; 
  refine ⟨_, rfl, ?_⟩
  repeat' (first
    | with_reducible assumption
    | (intro t_; first | (with_reducible refine keeps_cut (w := w) (s := s0) (t := t_) ?_ ?_; intro ht_; rotate_left; dsimp -zeta only [t_]) | skip)
    | with_reducible apply State.perstLow_keeps (Sub.trans rfl hw)
    | lift_lets
    | with_reducible refine keeps_ite ?_ ?_
    | with_reducible refine keeps_upd ?_ (fun x => x) (fun x => x) (.inr rfl) (.inl b2) (.inr rfl) (.inl b5) (.inr rfl) (.inr rfl) (.inl b8) (.inr rfl) (.inr rfl) (.inr rfl) (.inr rfl) (.inr rfl) (.inr rfl) (.inr rfl) (.inr rfl) (.inr rfl) (.inr rfl) (.inl b19) (.inr rfl) (.inr rfl) (.inr rfl) (.inr rfl) (.inl b24) (.inl b25) (.inl b26))

theorem execPerstDeassert_keeps (s : State) :
    ∃ t_, execPerstDeassert s = .next t_ ∧ Keeps 0x1080104 s t_ := by
  have h := Keeps.refl 0x1080104 s
  have hw := Sub.refl 0x1080104
  have b2 := Sub.bit (i := 2) hw rfl; have b8 := Sub.bit (i := 8) hw rfl; have b19 := Sub.bit (i := 19) hw rfl; have b24 := Sub.bit (i := 24) hw rfl; 
  refine ⟨_, rfl, ?_⟩
  repeat' (first
    | with_reducible assumption
    | (intro t_; first | (with_reducible refine keeps_cut (w := w) (s := s0) (t := t_) ?_ ?_; intro ht_; rotate_left; dsimp -zeta only [t_]) | skip)
    | with_reducible apply State.mark_keeps (Sub.trans rfl hw)
    | with_reducible apply State.when_keeps (Sub.trans rfl hw)
    | with_reducible apply State.raise_keeps (Sub.trans rfl hw)
    | dsimp only [id]
    | lift_lets
    | with_reducible refine keeps_ite ?_ ?_
    | with_reducible refine keeps_upd ?_ (fun x => x) (fun x => x) (.inr rfl) (.inl b2) (.inr rfl) (.inr rfl) (.inr rfl) (.inr rfl) (.inl b8) (.inr rfl) (.inr rfl) (.inr rfl) (.inr rfl) (.inr rfl) (.inr rfl) (.inr rfl) (.inr rfl) (.inr rfl) (.inr rfl) (.inl b19) (.inr rfl) (.inr rfl) (.inr rfl) (.inr rfl) (.inl b24) (.inr rfl) (.inr rfl))

theorem execPcieConfigReady_keeps (s : State) :
    ∃ t_, execPcieConfigReady s = .next t_ ∧ Keeps 0x3000184 s t_ := by
  have h := Keeps.refl 0x3000184 s
  have hw := Sub.refl 0x3000184
  
  refine ⟨_, rfl, ?_⟩
  repeat' (first
    | with_reducible assumption
    | (intro t_; first | (with_reducible refine keeps_cut (w := w) (s := s0) (t := t_) ?_ ?_; intro ht_; rotate_left; dsimp -zeta only [t_]) | skip)
    | with_reducible apply State.when_keeps (Sub.trans rfl hw)
    | with_reducible apply State.wrB_keeps (Sub.trans rfl hw)
    | with_reducible apply State.reachFrom_keeps (Sub.trans rfl hw)
    | dsimp only [id]
    | lift_lets
    | with_reducible refine keeps_ite ?_ ?_)

end Sys2Proof.Machine
end

