-- ==== Sys2Proof/Laws/State.lean ====
section
/-! SUPPORT. The fields of the state after each primitive update, and what a register or a window byte reads after a write. -/

namespace Sys2Proof.Machine

@[simp] theorem State.wr_part (s : State) (a : Nat) (v : Word) : (s.wr a v).part = s.part := rfl
@[simp] theorem State.wr_straps (s : State) (a : Nat) (v : Word) : (s.wr a v).straps = s.straps := rfl
@[simp] theorem State.wr_tbl (s : State) (a : Nat) (v : Word) : (s.wr a v).tbl = s.tbl := rfl
@[simp] theorem State.wr_otp (s : State) (a : Nat) (v : Word) : (s.wr a v).otp = s.otp := rfl
@[simp] theorem State.wr_lat (s : State) (a : Nat) (v : Word) : (s.wr a v).lat = s.lat := rfl
@[simp] theorem State.wr_kp (s : State) (a : Nat) (v : Word) : (s.wr a v).kp = s.kp := rfl
@[simp] theorem State.wr_tm (s : State) (a : Nat) (v : Word) : (s.wr a v).tm = s.tm := rfl
@[simp] theorem State.wr_ev (s : State) (a : Nat) (v : Word) : (s.wr a v).ev = s.ev := rfl
@[simp] theorem State.wr_se (s : State) (a : Nat) (v : Word) : (s.wr a v).se = s.se := rfl
@[simp] theorem State.wr_sc (s : State) (a : Nat) (v : Word) : (s.wr a v).sc = s.sc := rfl
@[simp] theorem State.wr_sw (s : State) (a : Nat) (v : Word) : (s.wr a v).sw = s.sw := rfl
@[simp] theorem State.wr_rg (s : State) (a : Nat) (v : Word) : (s.wr a v).rg = s.rg := rfl
@[simp] theorem State.wr_dk (s : State) (a : Nat) (v : Word) : (s.wr a v).dk = s.dk := rfl
@[simp] theorem State.wr_tp (s : State) (a : Nat) (v : Word) : (s.wr a v).tp = s.tp := rfl
@[simp] theorem State.wr_pr (s : State) (a : Nat) (v : Word) : (s.wr a v).pr = s.pr := rfl
@[simp] theorem State.wr_cn (s : State) (a : Nat) (v : Word) : (s.wr a v).cn = s.cn := rfl
@[simp] theorem State.wr_fw (s : State) (a : Nat) (v : Word) : (s.wr a v).fw = s.fw := rfl
@[simp] theorem State.wr_fb (s : State) (a : Nat) (v : Word) : (s.wr a v).fb = s.fb := rfl
@[simp] theorem State.wr_hi (s : State) (a : Nat) (v : Word) : (s.wr a v).hi = s.hi := rfl
@[simp] theorem State.wr_live (s : State) (a : Nat) (v : Word) : (s.wr a v).live = s.live := rfl
@[simp] theorem State.wr_since (s : State) (a : Nat) (v : Word) : (s.wr a v).since = s.since := rfl
@[simp] theorem State.wr_stats (s : State) (a : Nat) (v : Word) : (s.wr a v).stats = s.stats := rfl
@[simp] theorem State.wr_rgnEdge (s : State) (a : Nat) (v : Word) : (s.wr a v).rgnEdge = s.rgnEdge := rfl
@[simp] theorem State.wr_el (s : State) (a : Nat) (v : Word) : (s.wr a v).el = s.el := rfl
@[simp] theorem State.wr_out (s : State) (a : Nat) (v : Word) : (s.wr a v).out = s.out := rfl
@[simp] theorem State.wr_free (s : State) (a : Nat) (v : Word) : (s.wr a v).free = s.free := rfl
@[simp] theorem State.wr_pending (s : State) (a : Nat) (v : Word) : (s.wr a v).pending = s.pending := rfl

@[simp] theorem State.wrF_part (s : State) (a lo n v : Nat) : (s.wrF a lo n v).part = s.part := rfl
@[simp] theorem State.wrF_straps (s : State) (a lo n v : Nat) : (s.wrF a lo n v).straps = s.straps := rfl
@[simp] theorem State.wrF_tbl (s : State) (a lo n v : Nat) : (s.wrF a lo n v).tbl = s.tbl := rfl
@[simp] theorem State.wrF_otp (s : State) (a lo n v : Nat) : (s.wrF a lo n v).otp = s.otp := rfl
@[simp] theorem State.wrF_lat (s : State) (a lo n v : Nat) : (s.wrF a lo n v).lat = s.lat := rfl
@[simp] theorem State.wrF_kp (s : State) (a lo n v : Nat) : (s.wrF a lo n v).kp = s.kp := rfl
@[simp] theorem State.wrF_tm (s : State) (a lo n v : Nat) : (s.wrF a lo n v).tm = s.tm := rfl
@[simp] theorem State.wrF_ev (s : State) (a lo n v : Nat) : (s.wrF a lo n v).ev = s.ev := rfl
@[simp] theorem State.wrF_se (s : State) (a lo n v : Nat) : (s.wrF a lo n v).se = s.se := rfl
@[simp] theorem State.wrF_sc (s : State) (a lo n v : Nat) : (s.wrF a lo n v).sc = s.sc := rfl
@[simp] theorem State.wrF_sw (s : State) (a lo n v : Nat) : (s.wrF a lo n v).sw = s.sw := rfl
@[simp] theorem State.wrF_rg (s : State) (a lo n v : Nat) : (s.wrF a lo n v).rg = s.rg := rfl
@[simp] theorem State.wrF_dk (s : State) (a lo n v : Nat) : (s.wrF a lo n v).dk = s.dk := rfl
@[simp] theorem State.wrF_tp (s : State) (a lo n v : Nat) : (s.wrF a lo n v).tp = s.tp := rfl
@[simp] theorem State.wrF_pr (s : State) (a lo n v : Nat) : (s.wrF a lo n v).pr = s.pr := rfl
@[simp] theorem State.wrF_cn (s : State) (a lo n v : Nat) : (s.wrF a lo n v).cn = s.cn := rfl
@[simp] theorem State.wrF_fw (s : State) (a lo n v : Nat) : (s.wrF a lo n v).fw = s.fw := rfl
@[simp] theorem State.wrF_fb (s : State) (a lo n v : Nat) : (s.wrF a lo n v).fb = s.fb := rfl
@[simp] theorem State.wrF_hi (s : State) (a lo n v : Nat) : (s.wrF a lo n v).hi = s.hi := rfl
@[simp] theorem State.wrF_live (s : State) (a lo n v : Nat) : (s.wrF a lo n v).live = s.live := rfl
@[simp] theorem State.wrF_since (s : State) (a lo n v : Nat) : (s.wrF a lo n v).since = s.since := rfl
@[simp] theorem State.wrF_stats (s : State) (a lo n v : Nat) : (s.wrF a lo n v).stats = s.stats := rfl
@[simp] theorem State.wrF_rgnEdge (s : State) (a lo n v : Nat) : (s.wrF a lo n v).rgnEdge = s.rgnEdge := rfl
@[simp] theorem State.wrF_el (s : State) (a lo n v : Nat) : (s.wrF a lo n v).el = s.el := rfl
@[simp] theorem State.wrF_out (s : State) (a lo n v : Nat) : (s.wrF a lo n v).out = s.out := rfl
@[simp] theorem State.wrF_free (s : State) (a lo n v : Nat) : (s.wrF a lo n v).free = s.free := rfl
@[simp] theorem State.wrF_pending (s : State) (a lo n v : Nat) : (s.wrF a lo n v).pending = s.pending := rfl

@[simp] theorem State.wrB_part (s : State) (a i : Nat) (b : Bool) : (s.wrB a i b).part = s.part := rfl
@[simp] theorem State.wrB_straps (s : State) (a i : Nat) (b : Bool) : (s.wrB a i b).straps = s.straps := rfl
@[simp] theorem State.wrB_tbl (s : State) (a i : Nat) (b : Bool) : (s.wrB a i b).tbl = s.tbl := rfl
@[simp] theorem State.wrB_otp (s : State) (a i : Nat) (b : Bool) : (s.wrB a i b).otp = s.otp := rfl
@[simp] theorem State.wrB_lat (s : State) (a i : Nat) (b : Bool) : (s.wrB a i b).lat = s.lat := rfl
@[simp] theorem State.wrB_kp (s : State) (a i : Nat) (b : Bool) : (s.wrB a i b).kp = s.kp := rfl
@[simp] theorem State.wrB_tm (s : State) (a i : Nat) (b : Bool) : (s.wrB a i b).tm = s.tm := rfl
@[simp] theorem State.wrB_ev (s : State) (a i : Nat) (b : Bool) : (s.wrB a i b).ev = s.ev := rfl
@[simp] theorem State.wrB_se (s : State) (a i : Nat) (b : Bool) : (s.wrB a i b).se = s.se := rfl
@[simp] theorem State.wrB_sc (s : State) (a i : Nat) (b : Bool) : (s.wrB a i b).sc = s.sc := rfl
@[simp] theorem State.wrB_sw (s : State) (a i : Nat) (b : Bool) : (s.wrB a i b).sw = s.sw := rfl
@[simp] theorem State.wrB_rg (s : State) (a i : Nat) (b : Bool) : (s.wrB a i b).rg = s.rg := rfl
@[simp] theorem State.wrB_dk (s : State) (a i : Nat) (b : Bool) : (s.wrB a i b).dk = s.dk := rfl
@[simp] theorem State.wrB_tp (s : State) (a i : Nat) (b : Bool) : (s.wrB a i b).tp = s.tp := rfl
@[simp] theorem State.wrB_pr (s : State) (a i : Nat) (b : Bool) : (s.wrB a i b).pr = s.pr := rfl
@[simp] theorem State.wrB_cn (s : State) (a i : Nat) (b : Bool) : (s.wrB a i b).cn = s.cn := rfl
@[simp] theorem State.wrB_fw (s : State) (a i : Nat) (b : Bool) : (s.wrB a i b).fw = s.fw := rfl
@[simp] theorem State.wrB_fb (s : State) (a i : Nat) (b : Bool) : (s.wrB a i b).fb = s.fb := rfl
@[simp] theorem State.wrB_hi (s : State) (a i : Nat) (b : Bool) : (s.wrB a i b).hi = s.hi := rfl
@[simp] theorem State.wrB_live (s : State) (a i : Nat) (b : Bool) : (s.wrB a i b).live = s.live := rfl
@[simp] theorem State.wrB_since (s : State) (a i : Nat) (b : Bool) : (s.wrB a i b).since = s.since := rfl
@[simp] theorem State.wrB_stats (s : State) (a i : Nat) (b : Bool) : (s.wrB a i b).stats = s.stats := rfl
@[simp] theorem State.wrB_rgnEdge (s : State) (a i : Nat) (b : Bool) : (s.wrB a i b).rgnEdge = s.rgnEdge := rfl
@[simp] theorem State.wrB_el (s : State) (a i : Nat) (b : Bool) : (s.wrB a i b).el = s.el := rfl
@[simp] theorem State.wrB_out (s : State) (a i : Nat) (b : Bool) : (s.wrB a i b).out = s.out := rfl
@[simp] theorem State.wrB_free (s : State) (a i : Nat) (b : Bool) : (s.wrB a i b).free = s.free := rfl
@[simp] theorem State.wrB_pending (s : State) (a i : Nat) (b : Bool) : (s.wrB a i b).pending = s.pending := rfl

@[simp] theorem State.setTb_part (s : State) (a : Nat) (b : Byte) : (s.setTb a b).part = s.part := rfl
@[simp] theorem State.setTb_straps (s : State) (a : Nat) (b : Byte) : (s.setTb a b).straps = s.straps := rfl
@[simp] theorem State.setTb_regs (s : State) (a : Nat) (b : Byte) : (s.setTb a b).regs = s.regs := rfl
@[simp] theorem State.setTb_otp (s : State) (a : Nat) (b : Byte) : (s.setTb a b).otp = s.otp := rfl
@[simp] theorem State.setTb_lat (s : State) (a : Nat) (b : Byte) : (s.setTb a b).lat = s.lat := rfl
@[simp] theorem State.setTb_kp (s : State) (a : Nat) (b : Byte) : (s.setTb a b).kp = s.kp := rfl
@[simp] theorem State.setTb_tm (s : State) (a : Nat) (b : Byte) : (s.setTb a b).tm = s.tm := rfl
@[simp] theorem State.setTb_ev (s : State) (a : Nat) (b : Byte) : (s.setTb a b).ev = s.ev := rfl
@[simp] theorem State.setTb_se (s : State) (a : Nat) (b : Byte) : (s.setTb a b).se = s.se := rfl
@[simp] theorem State.setTb_sc (s : State) (a : Nat) (b : Byte) : (s.setTb a b).sc = s.sc := rfl
@[simp] theorem State.setTb_sw (s : State) (a : Nat) (b : Byte) : (s.setTb a b).sw = s.sw := rfl
@[simp] theorem State.setTb_rg (s : State) (a : Nat) (b : Byte) : (s.setTb a b).rg = s.rg := rfl
@[simp] theorem State.setTb_dk (s : State) (a : Nat) (b : Byte) : (s.setTb a b).dk = s.dk := rfl
@[simp] theorem State.setTb_tp (s : State) (a : Nat) (b : Byte) : (s.setTb a b).tp = s.tp := rfl
@[simp] theorem State.setTb_pr (s : State) (a : Nat) (b : Byte) : (s.setTb a b).pr = s.pr := rfl
@[simp] theorem State.setTb_cn (s : State) (a : Nat) (b : Byte) : (s.setTb a b).cn = s.cn := rfl
@[simp] theorem State.setTb_fw (s : State) (a : Nat) (b : Byte) : (s.setTb a b).fw = s.fw := rfl
@[simp] theorem State.setTb_fb (s : State) (a : Nat) (b : Byte) : (s.setTb a b).fb = s.fb := rfl
@[simp] theorem State.setTb_hi (s : State) (a : Nat) (b : Byte) : (s.setTb a b).hi = s.hi := rfl
@[simp] theorem State.setTb_live (s : State) (a : Nat) (b : Byte) : (s.setTb a b).live = s.live := rfl
@[simp] theorem State.setTb_since (s : State) (a : Nat) (b : Byte) : (s.setTb a b).since = s.since := rfl
@[simp] theorem State.setTb_stats (s : State) (a : Nat) (b : Byte) : (s.setTb a b).stats = s.stats := rfl
@[simp] theorem State.setTb_rgnEdge (s : State) (a : Nat) (b : Byte) : (s.setTb a b).rgnEdge = s.rgnEdge := rfl
@[simp] theorem State.setTb_el (s : State) (a : Nat) (b : Byte) : (s.setTb a b).el = s.el := rfl
@[simp] theorem State.setTb_out (s : State) (a : Nat) (b : Byte) : (s.setTb a b).out = s.out := rfl
@[simp] theorem State.setTb_free (s : State) (a : Nat) (b : Byte) : (s.setTb a b).free = s.free := rfl
@[simp] theorem State.setTb_pending (s : State) (a : Nat) (b : Byte) : (s.setTb a b).pending = s.pending := rfl

@[simp] theorem State.setTw_part (s : State) (a : Nat) (w : Word) : (s.setTw a w).part = s.part := rfl
@[simp] theorem State.setTw_straps (s : State) (a : Nat) (w : Word) : (s.setTw a w).straps = s.straps := rfl
@[simp] theorem State.setTw_regs (s : State) (a : Nat) (w : Word) : (s.setTw a w).regs = s.regs := rfl
@[simp] theorem State.setTw_otp (s : State) (a : Nat) (w : Word) : (s.setTw a w).otp = s.otp := rfl
@[simp] theorem State.setTw_lat (s : State) (a : Nat) (w : Word) : (s.setTw a w).lat = s.lat := rfl
@[simp] theorem State.setTw_kp (s : State) (a : Nat) (w : Word) : (s.setTw a w).kp = s.kp := rfl
@[simp] theorem State.setTw_tm (s : State) (a : Nat) (w : Word) : (s.setTw a w).tm = s.tm := rfl
@[simp] theorem State.setTw_ev (s : State) (a : Nat) (w : Word) : (s.setTw a w).ev = s.ev := rfl
@[simp] theorem State.setTw_se (s : State) (a : Nat) (w : Word) : (s.setTw a w).se = s.se := rfl
@[simp] theorem State.setTw_sc (s : State) (a : Nat) (w : Word) : (s.setTw a w).sc = s.sc := rfl
@[simp] theorem State.setTw_sw (s : State) (a : Nat) (w : Word) : (s.setTw a w).sw = s.sw := rfl
@[simp] theorem State.setTw_rg (s : State) (a : Nat) (w : Word) : (s.setTw a w).rg = s.rg := rfl
@[simp] theorem State.setTw_dk (s : State) (a : Nat) (w : Word) : (s.setTw a w).dk = s.dk := rfl
@[simp] theorem State.setTw_tp (s : State) (a : Nat) (w : Word) : (s.setTw a w).tp = s.tp := rfl
@[simp] theorem State.setTw_pr (s : State) (a : Nat) (w : Word) : (s.setTw a w).pr = s.pr := rfl
@[simp] theorem State.setTw_cn (s : State) (a : Nat) (w : Word) : (s.setTw a w).cn = s.cn := rfl
@[simp] theorem State.setTw_fw (s : State) (a : Nat) (w : Word) : (s.setTw a w).fw = s.fw := rfl
@[simp] theorem State.setTw_fb (s : State) (a : Nat) (w : Word) : (s.setTw a w).fb = s.fb := rfl
@[simp] theorem State.setTw_hi (s : State) (a : Nat) (w : Word) : (s.setTw a w).hi = s.hi := rfl
@[simp] theorem State.setTw_live (s : State) (a : Nat) (w : Word) : (s.setTw a w).live = s.live := rfl
@[simp] theorem State.setTw_since (s : State) (a : Nat) (w : Word) : (s.setTw a w).since = s.since := rfl
@[simp] theorem State.setTw_stats (s : State) (a : Nat) (w : Word) : (s.setTw a w).stats = s.stats := rfl
@[simp] theorem State.setTw_rgnEdge (s : State) (a : Nat) (w : Word) : (s.setTw a w).rgnEdge = s.rgnEdge := rfl
@[simp] theorem State.setTw_el (s : State) (a : Nat) (w : Word) : (s.setTw a w).el = s.el := rfl
@[simp] theorem State.setTw_out (s : State) (a : Nat) (w : Word) : (s.setTw a w).out = s.out := rfl
@[simp] theorem State.setTw_free (s : State) (a : Nat) (w : Word) : (s.setTw a w).free = s.free := rfl
@[simp] theorem State.setTw_pending (s : State) (a : Nat) (w : Word) : (s.setTw a w).pending = s.pending := rfl

@[simp] theorem State.setOtpW_part (s : State) (i : Nat) (w : Word) : (s.setOtpW i w).part = s.part := rfl
@[simp] theorem State.setOtpW_straps (s : State) (i : Nat) (w : Word) : (s.setOtpW i w).straps = s.straps := rfl
@[simp] theorem State.setOtpW_regs (s : State) (i : Nat) (w : Word) : (s.setOtpW i w).regs = s.regs := rfl
@[simp] theorem State.setOtpW_tbl (s : State) (i : Nat) (w : Word) : (s.setOtpW i w).tbl = s.tbl := rfl
@[simp] theorem State.setOtpW_lat (s : State) (i : Nat) (w : Word) : (s.setOtpW i w).lat = s.lat := rfl
@[simp] theorem State.setOtpW_kp (s : State) (i : Nat) (w : Word) : (s.setOtpW i w).kp = s.kp := rfl
@[simp] theorem State.setOtpW_tm (s : State) (i : Nat) (w : Word) : (s.setOtpW i w).tm = s.tm := rfl
@[simp] theorem State.setOtpW_ev (s : State) (i : Nat) (w : Word) : (s.setOtpW i w).ev = s.ev := rfl
@[simp] theorem State.setOtpW_se (s : State) (i : Nat) (w : Word) : (s.setOtpW i w).se = s.se := rfl
@[simp] theorem State.setOtpW_sc (s : State) (i : Nat) (w : Word) : (s.setOtpW i w).sc = s.sc := rfl
@[simp] theorem State.setOtpW_sw (s : State) (i : Nat) (w : Word) : (s.setOtpW i w).sw = s.sw := rfl
@[simp] theorem State.setOtpW_rg (s : State) (i : Nat) (w : Word) : (s.setOtpW i w).rg = s.rg := rfl
@[simp] theorem State.setOtpW_dk (s : State) (i : Nat) (w : Word) : (s.setOtpW i w).dk = s.dk := rfl
@[simp] theorem State.setOtpW_tp (s : State) (i : Nat) (w : Word) : (s.setOtpW i w).tp = s.tp := rfl
@[simp] theorem State.setOtpW_pr (s : State) (i : Nat) (w : Word) : (s.setOtpW i w).pr = s.pr := rfl
@[simp] theorem State.setOtpW_cn (s : State) (i : Nat) (w : Word) : (s.setOtpW i w).cn = s.cn := rfl
@[simp] theorem State.setOtpW_fw (s : State) (i : Nat) (w : Word) : (s.setOtpW i w).fw = s.fw := rfl
@[simp] theorem State.setOtpW_fb (s : State) (i : Nat) (w : Word) : (s.setOtpW i w).fb = s.fb := rfl
@[simp] theorem State.setOtpW_hi (s : State) (i : Nat) (w : Word) : (s.setOtpW i w).hi = s.hi := rfl
@[simp] theorem State.setOtpW_live (s : State) (i : Nat) (w : Word) : (s.setOtpW i w).live = s.live := rfl
@[simp] theorem State.setOtpW_since (s : State) (i : Nat) (w : Word) : (s.setOtpW i w).since = s.since := rfl
@[simp] theorem State.setOtpW_stats (s : State) (i : Nat) (w : Word) : (s.setOtpW i w).stats = s.stats := rfl
@[simp] theorem State.setOtpW_rgnEdge (s : State) (i : Nat) (w : Word) : (s.setOtpW i w).rgnEdge = s.rgnEdge := rfl
@[simp] theorem State.setOtpW_el (s : State) (i : Nat) (w : Word) : (s.setOtpW i w).el = s.el := rfl
@[simp] theorem State.setOtpW_out (s : State) (i : Nat) (w : Word) : (s.setOtpW i w).out = s.out := rfl
@[simp] theorem State.setOtpW_free (s : State) (i : Nat) (w : Word) : (s.setOtpW i w).free = s.free := rfl
@[simp] theorem State.setOtpW_pending (s : State) (i : Nat) (w : Word) : (s.setOtpW i w).pending = s.pending := rfl

@[simp] theorem State.emit_part (s : State) (o : Out) : (s.emit o).part = s.part := rfl
@[simp] theorem State.emit_straps (s : State) (o : Out) : (s.emit o).straps = s.straps := rfl
@[simp] theorem State.emit_regs (s : State) (o : Out) : (s.emit o).regs = s.regs := rfl
@[simp] theorem State.emit_tbl (s : State) (o : Out) : (s.emit o).tbl = s.tbl := rfl
@[simp] theorem State.emit_otp (s : State) (o : Out) : (s.emit o).otp = s.otp := rfl
@[simp] theorem State.emit_lat (s : State) (o : Out) : (s.emit o).lat = s.lat := rfl
@[simp] theorem State.emit_kp (s : State) (o : Out) : (s.emit o).kp = s.kp := rfl
@[simp] theorem State.emit_tm (s : State) (o : Out) : (s.emit o).tm = s.tm := rfl
@[simp] theorem State.emit_ev (s : State) (o : Out) : (s.emit o).ev = s.ev := rfl
@[simp] theorem State.emit_se (s : State) (o : Out) : (s.emit o).se = s.se := rfl
@[simp] theorem State.emit_sc (s : State) (o : Out) : (s.emit o).sc = s.sc := rfl
@[simp] theorem State.emit_sw (s : State) (o : Out) : (s.emit o).sw = s.sw := rfl
@[simp] theorem State.emit_rg (s : State) (o : Out) : (s.emit o).rg = s.rg := rfl
@[simp] theorem State.emit_dk (s : State) (o : Out) : (s.emit o).dk = s.dk := rfl
@[simp] theorem State.emit_tp (s : State) (o : Out) : (s.emit o).tp = s.tp := rfl
@[simp] theorem State.emit_pr (s : State) (o : Out) : (s.emit o).pr = s.pr := rfl
@[simp] theorem State.emit_cn (s : State) (o : Out) : (s.emit o).cn = s.cn := rfl
@[simp] theorem State.emit_fw (s : State) (o : Out) : (s.emit o).fw = s.fw := rfl
@[simp] theorem State.emit_fb (s : State) (o : Out) : (s.emit o).fb = s.fb := rfl
@[simp] theorem State.emit_hi (s : State) (o : Out) : (s.emit o).hi = s.hi := rfl
@[simp] theorem State.emit_live (s : State) (o : Out) : (s.emit o).live = s.live := rfl
@[simp] theorem State.emit_since (s : State) (o : Out) : (s.emit o).since = s.since := rfl
@[simp] theorem State.emit_stats (s : State) (o : Out) : (s.emit o).stats = s.stats := rfl
@[simp] theorem State.emit_rgnEdge (s : State) (o : Out) : (s.emit o).rgnEdge = s.rgnEdge := rfl
@[simp] theorem State.emit_el (s : State) (o : Out) : (s.emit o).el = s.el := rfl
@[simp] theorem State.emit_free (s : State) (o : Out) : (s.emit o).free = s.free := rfl
@[simp] theorem State.emit_pending (s : State) (o : Out) : (s.emit o).pending = s.pending := rfl

@[simp] theorem State.useFree_part (s : State) : (s.useFree).part = s.part := rfl
@[simp] theorem State.useFree_straps (s : State) : (s.useFree).straps = s.straps := rfl
@[simp] theorem State.useFree_regs (s : State) : (s.useFree).regs = s.regs := rfl
@[simp] theorem State.useFree_tbl (s : State) : (s.useFree).tbl = s.tbl := rfl
@[simp] theorem State.useFree_otp (s : State) : (s.useFree).otp = s.otp := rfl
@[simp] theorem State.useFree_lat (s : State) : (s.useFree).lat = s.lat := rfl
@[simp] theorem State.useFree_kp (s : State) : (s.useFree).kp = s.kp := rfl
@[simp] theorem State.useFree_tm (s : State) : (s.useFree).tm = s.tm := rfl
@[simp] theorem State.useFree_ev (s : State) : (s.useFree).ev = s.ev := rfl
@[simp] theorem State.useFree_se (s : State) : (s.useFree).se = s.se := rfl
@[simp] theorem State.useFree_sc (s : State) : (s.useFree).sc = s.sc := rfl
@[simp] theorem State.useFree_sw (s : State) : (s.useFree).sw = s.sw := rfl
@[simp] theorem State.useFree_rg (s : State) : (s.useFree).rg = s.rg := rfl
@[simp] theorem State.useFree_dk (s : State) : (s.useFree).dk = s.dk := rfl
@[simp] theorem State.useFree_tp (s : State) : (s.useFree).tp = s.tp := rfl
@[simp] theorem State.useFree_pr (s : State) : (s.useFree).pr = s.pr := rfl
@[simp] theorem State.useFree_cn (s : State) : (s.useFree).cn = s.cn := rfl
@[simp] theorem State.useFree_fw (s : State) : (s.useFree).fw = s.fw := rfl
@[simp] theorem State.useFree_fb (s : State) : (s.useFree).fb = s.fb := rfl
@[simp] theorem State.useFree_hi (s : State) : (s.useFree).hi = s.hi := rfl
@[simp] theorem State.useFree_live (s : State) : (s.useFree).live = s.live := rfl
@[simp] theorem State.useFree_since (s : State) : (s.useFree).since = s.since := rfl
@[simp] theorem State.useFree_stats (s : State) : (s.useFree).stats = s.stats := rfl
@[simp] theorem State.useFree_rgnEdge (s : State) : (s.useFree).rgnEdge = s.rgnEdge := rfl
@[simp] theorem State.useFree_el (s : State) : (s.useFree).el = s.el := rfl
@[simp] theorem State.useFree_out (s : State) : (s.useFree).out = s.out := rfl
@[simp] theorem State.useFree_pending (s : State) : (s.useFree).pending = s.pending := rfl

/-- A register reads what was written to it, and every other register stays. -/
theorem State.rd_wr (s : State) (a b : Nat) (v : Word) : (s.wr a v).rd b = if a = b then v else s.rd b := Sparse.get_set a v b

@[simp] theorem State.rd_wr_self (s : State) (a : Nat) (v : Word) : (s.wr a v).rd a = v := by rw [State.rd_wr, if_pos rfl]

theorem State.rd_wr_ne (s : State) {a b : Nat} (v : Word) (h : a ≠ b) : (s.wr a v).rd b = s.rd b := by rw [State.rd_wr, if_neg h]

@[simp] theorem State.rd_wrF_self (s : State) (a lo n v : Nat) : (s.wrF a lo n v).rd a = setFld (s.rd a) lo n v := State.rd_wr_self _ _ _

theorem State.rd_wrF_ne (s : State) {a b : Nat} (lo n v : Nat) (h : a ≠ b) : (s.wrF a lo n v).rd b = s.rd b := State.rd_wr_ne _ _ h

/-- A field reads what was written to it. -/
theorem State.rdF_wrF_self (s : State) (a lo n v : Nat) (h : lo + n ≤ 32) : (s.wrF a lo n v).rdF a lo n = v % 2 ^ n := by
  unfold State.rdF; rw [State.rd_wrF_self, fld_setFld _ _ _ _ h]

@[simp] theorem State.rd_wrB_self (s : State) (a i : Nat) (b : Bool) : (s.wrB a i b).rd a = setBit (s.rd a) i b := by
  cases b <;> exact State.rd_wr_self _ _ _

theorem State.rd_wrB_ne (s : State) {a b : Nat} (i : Nat) (v : Bool) (h : a ≠ b) : (s.wrB a i v).rd b = s.rd b := State.rd_wr_ne _ _ h

/-- A bit reads what was written to it, and the register's other bits stay. -/
theorem State.rdB_wrB (s : State) (a i j : Nat) (b : Bool) (hi : i < 32) : (s.wrB a i b).rdB a j = if j = i then b else s.rdB a j := by
  unfold State.rdB; rw [State.rd_wrB_self, bit_setBit _ _ _ _ hi]

@[simp] theorem State.rd_setTb (s : State) (a : Nat) (b : Byte) (c : Nat) : (s.setTb a b).rd c = s.rd c := rfl
@[simp] theorem State.rd_setTw (s : State) (a : Nat) (w : Word) (c : Nat) : (s.setTw a w).rd c = s.rd c := rfl
@[simp] theorem State.rd_emit (s : State) (o : Out) (c : Nat) : (s.emit o).rd c = s.rd c := rfl
@[simp] theorem State.rd_useFree (s : State) (c : Nat) : (s.useFree).rd c = s.rd c := rfl
@[simp] theorem State.tb_wr (s : State) (a : Nat) (v : Word) (c : Nat) : (s.wr a v).tb c = s.tb c := rfl
@[simp] theorem State.tb_emit (s : State) (o : Out) (c : Nat) : (s.emit o).tb c = s.tb c := rfl

/-- A byte of a window reads what was written to it, and every other byte stays. -/
theorem State.tb_setTb (s : State) (a b : Nat) (v : Byte) : (s.setTb a v).tb b = if a = b then v else s.tb b := Sparse.get_set a v b

/-- A word written to a window leaves every byte outside its four. -/
theorem State.tb_setTw_ne (s : State) {a b : Nat} (w : Word) (h : b < a ∨ a + 4 ≤ b) : (s.setTw a w).tb b = s.tb b := by
  unfold State.setTw
  simp only [State.tb_setTb]
  rw [if_neg (by omega), if_neg (by omega), if_neg (by omega), if_neg (by omega)]

/-- A word of a window reads what was written to it. -/
theorem State.tw_setTw (s : State) (a : Nat) (w : Word) : (s.setTw a w).tw a = w := by
  apply BitVec.eq_of_toNat_eq
  unfold State.tw State.setTw
  simp [State.tb_setTb]
  have := w.isLt
  omega

@[simp] theorem State.when_true (s : State) (f : State → State) : s.when true f = f s := rfl
@[simp] theorem State.when_false (s : State) (f : State → State) : s.when false f = s := rfl
@[simp] theorem State.each_nil {α : Type} (s : State) (f : α → State → State) : s.each f [] = s := rfl
@[simp] theorem State.each_cons {α : Type} (s : State) (f : α → State → State) (x : α) (xs : List α) : s.each f (x :: xs) = (f x s).each f xs := rfl

end Sys2Proof.Machine
end

