-- ==== Sys2Proof/Laws/Reads.lean ====
section
/-! SUPPORT. What a register reads after the shared operations: counting, raising an event flag, an access to a locked page. -/

namespace Sys2Proof.Machine

@[simp] theorem PG_ne_1 (b : Nat) : (b + PG_EVT = b + PG_SEQ) = False := by simp [PG_EVT, PG_SEQ]
@[simp] theorem PG_ne_2 (b : Nat) : (b + PG_SEQ = b + PG_EVT) = False := by simp [PG_EVT, PG_SEQ]

theorem State.rd_count_ne (s : State) {a b : Nat} (h : a ≠ b) : (s.count a).rd b = s.rd b := by
  unfold State.count
  split
  · rfl
  · exact State.rd_wr_ne _ _ h

/-- A counter counts by one and stays at all ones. -/
theorem State.rd_count_self (s : State) (a : Nat) : (s.count a).rd a = if s.rd a = 0xFFFFFFFF then 0xFFFFFFFF else s.rd a + 1 := by
  unfold State.count
  split
  · rename_i h; exact h
  · exact State.rd_wr_self _ _ _

theorem State.rd_countF_ne (s : State) {a b : Nat} (lo n : Nat) (h : a ≠ b) : (s.countF a lo n).rd b = s.rd b := by
  unfold State.countF
  split
  · exact State.rd_wrF_ne _ _ _ _ h
  · rfl

@[simp] theorem State.rd_edge (s : State) (src a : Nat) : (s.edge src).rd a = s.rd a := by
  unfold State.edge
  split <;> rfl

theorem State.rd_edge_ite (c : Prop) [Decidable c] (t : State) (src a : Nat) : (if c then t.edge src else t).rd a = t.rd a := by
  split
  · exact State.rd_edge _ _ _
  · rfl

/-- What a register reads once a flag is raised that was 0. -/
theorem State.rd_raise_of (s : State) (base i a : Nat) (h : s.rdB (base + PG_EVT) i = false) :
    (s.raise base i).rd a = if base + PG_SEQ = a ∧ seqCounts base = true then s.rd (base + PG_SEQ) + 1
      else if base + PG_EVT = a then setBit (s.rd (base + PG_EVT)) i true else s.rd a := by
  have hne : base + PG_EVT ≠ base + PG_SEQ := by simp [PG_EVT, PG_SEQ]
  have e1 : ∀ b, (s.wrB (base + PG_EVT) i true).rd b = if base + PG_EVT = b then setBit (s.rd (base + PG_EVT)) i true else s.rd b := by
    intro b
    by_cases hb : base + PG_EVT = b
    · rw [if_pos hb, ← hb, State.rd_wrB_self]
    · rw [if_neg hb, State.rd_wrB_ne _ _ _ hb]
  unfold State.raise
  rw [if_neg (by simp [h])]
  dsimp only
  rw [State.rd_edge_ite]
  cases hc : seqCounts base with
  | false => rw [if_neg (by simp), if_neg (by simp), e1]
  | true =>
    rw [if_pos rfl, State.rd_wr, e1, e1, if_neg hne]
    by_cases ha : base + PG_SEQ = a
    · simp [ha]
    · simp [ha]

/-- Raising an event flag leaves every register but the page's flags and its sequence. -/
theorem State.rd_raise_ne (s : State) {base a : Nat} (i : Nat) (h : base + PG_EVT ≠ a) (h' : base + PG_SEQ ≠ a) :
    (s.raise base i).rd a = s.rd a := by
  cases hb : s.rdB (base + PG_EVT) i with
  | true => unfold State.raise; rw [if_pos hb]
  | false => rw [State.rd_raise_of _ _ _ _ hb, if_neg (fun x => h' x.1), if_neg h]

/-- A raised flag reads 1, and the page's other flags stay. -/
theorem State.rdB_raise (s : State) (base i j : Nat) (hi : i < 32) :
    (s.raise base i).rdB (base + PG_EVT) j = if j = i then true else s.rdB (base + PG_EVT) j := by
  cases hb : s.rdB (base + PG_EVT) i with
  | true =>
    unfold State.raise; rw [if_pos hb]
    by_cases e : j = i
    · rw [if_pos e, e]; exact hb
    · rw [if_neg e]
  | false =>
    have hne : ¬ base + PG_SEQ = base + PG_EVT := by simp [PG_EVT, PG_SEQ]
    unfold State.rdB
    rw [State.rd_raise_of _ _ _ _ hb, if_neg (fun x => hne x.1), if_pos rfl, bit_setBit _ _ _ _ hi]

/-- The count against a lock touches only that page's access count. -/
theorem State.rd_lockTick (s : State) {a b : Nat} (h : ∀ pg, lockPage a = some pg → pg + PG_LOCK ≠ b) : (s.lockTick a).rd b = s.rd b := by
  unfold State.lockTick
  split
  · rfl
  · rename_i pg e
    split
    · rfl
    · exact State.rd_wrF_ne _ _ _ _ (h pg e)

/-- The count against a lock touches only registers. -/
theorem State.lockTick_frame (s : State) (a : Nat) : ∃ r, s.lockTick a = { s with regs := r } := by
  unfold State.lockTick
  split
  · exact ⟨s.regs, rfl⟩
  · split
    · exact ⟨s.regs, rfl⟩
    · exact ⟨_, rfl⟩

/-- An access to a page without a lock only wakes what it needs. -/
theorem State.access_none (s : State) {a : Nat} (h : lockPage a = none) : s.access a = s.wakeFor a := by
  unfold State.access State.lockTick; rw [h]

/-- An access to a page of no region and outside the shared blocks wakes nothing. -/
theorem State.wakeFor_none (s : State) {a : Nat} (h : pageRegion a = none) (hs : sharedAddr a = false) : s.wakeFor a = s := by
  unfold State.wakeFor; simp [h, hs, State.when]

end Sys2Proof.Machine
end

