-- ==== Sys2Proof/Laws/Rows.lean ====
section
/-! SUPPORT. What the functions of Machine/Rows.lean keep, one lemma for each. -/

namespace Sys2Proof.Machine

theorem State.endRs_keeps {w : Nat} {s0 s : State} (hw : Sub 0x404 w) (h : Keeps w s0 s) :
    Keeps w s0 (State.endRs s) := by
  have b2 := Sub.bit (i := 2) hw rfl; have b10 := Sub.bit (i := 10) hw rfl
  unfold State.endRs
  repeat' (first
    | with_reducible assumption
    | (intro t_; first | (with_reducible refine keeps_cut (w := w) (s := s0) (t := t_) ?_ ?_; intro ht_; rotate_left; dsimp -zeta only [t_]) | skip)
    | with_reducible apply State.count_keeps (Sub.trans rfl hw)
    | lift_lets
    | with_reducible refine keeps_ite ?_ ?_
    | with_reducible refine keeps_upd ?_ (fun x => x) (fun x => x) (.inr rfl) (.inl b2) (.inr rfl) (.inr rfl) (.inr rfl) (.inr rfl) (.inr rfl) (.inr rfl) (.inl b10) (.inr rfl) (.inr rfl) (.inr rfl) (.inr rfl) (.inr rfl) (.inr rfl) (.inr rfl) (.inr rfl) (.inr rfl) (.inr rfl) (.inr rfl) (.inr rfl) (.inr rfl) (.inr rfl) (.inr rfl) (.inr rfl))

theorem State.grantOne_keeps {w : Nat} {s0 s : State} (hw : Sub 0x450c w) (h : Keeps w s0 s) (c : Nat × Sys2Proof.Uid × Nat) :
    Keeps w s0 (State.grantOne s c) := by
  have b2 := Sub.bit (i := 2) hw rfl; have b3 := Sub.bit (i := 3) hw rfl; have b8 := Sub.bit (i := 8) hw rfl; have b10 := Sub.bit (i := 10) hw rfl; have b14 := Sub.bit (i := 14) hw rfl
  unfold State.grantOne
  repeat' (first
    | with_reducible assumption
    | (intro t_; first | (with_reducible refine keeps_cut (w := w) (s := s0) (t := t_) ?_ ?_; intro ht_; rotate_left; dsimp -zeta only [t_]) | skip)
    | with_reducible apply State.countF_keeps (Sub.trans rfl hw)
    | with_reducible apply State.setTb_keeps (Sub.trans rfl hw)
    | with_reducible apply State.granted_keeps (Sub.trans rfl hw)
    | lift_lets
    | with_reducible refine keeps_ite ?_ ?_
    | with_reducible refine keeps_fst_ite ?_ ?_
    | (with_reducible refine keeps_of_eq (by assumption) ?_)
    | with_reducible refine keeps_upd ?_ (fun x => x) (fun x => x) (.inr rfl) (.inl b2) (.inl b3) (.inr rfl) (.inr rfl) (.inr rfl) (.inl b8) (.inr rfl) (.inl b10) (.inr rfl) (.inr rfl) (.inr rfl) (.inl b14) (.inr rfl) (.inr rfl) (.inr rfl) (.inr rfl) (.inr rfl) (.inr rfl) (.inr rfl) (.inr rfl) (.inr rfl) (.inr rfl) (.inr rfl) (.inr rfl))

theorem State.resolveClaims_keeps {w : Nat} {s0 s : State} (hw : Sub 0x450c w) (h : Keeps w s0 s) :
    Keeps w s0 (State.resolveClaims s) := by
  have b2 := Sub.bit (i := 2) hw rfl; have b3 := Sub.bit (i := 3) hw rfl; have b8 := Sub.bit (i := 8) hw rfl; have b10 := Sub.bit (i := 10) hw rfl; have b14 := Sub.bit (i := 14) hw rfl
  unfold State.resolveClaims
  repeat' (first
    | with_reducible assumption
    | (intro t_; first | (with_reducible refine keeps_cut (w := w) (s := s0) (t := t_) ?_ ?_; intro ht_; rotate_left; dsimp -zeta only [t_]) | skip)
    | with_reducible apply State.judgeAsked_keeps (Sub.trans rfl hw)
    | with_reducible apply State.each_keeps (Sub.trans rfl hw)
    | with_reducible apply State.grantOne_keeps (Sub.trans rfl hw)
    | lift_lets
    | with_reducible refine keeps_ite ?_ ?_
    | with_reducible refine keeps_fst_ite ?_ ?_
    | (with_reducible refine keeps_of_eq (by assumption) ?_)
    | with_reducible refine keeps_upd ?_ (fun x => x) (fun x => x) (.inr rfl) (.inl b2) (.inl b3) (.inr rfl) (.inr rfl) (.inr rfl) (.inl b8) (.inr rfl) (.inl b10) (.inr rfl) (.inr rfl) (.inr rfl) (.inl b14) (.inr rfl) (.inr rfl) (.inr rfl) (.inr rfl) (.inr rfl) (.inr rfl) (.inr rfl) (.inr rfl) (.inr rfl) (.inr rfl) (.inr rfl) (.inr rfl))

theorem State.clearFrozen_keeps {w : Nat} {s0 s : State} (hw : Sub 0x4 w) (h : Keeps w s0 s) :
    Keeps w s0 (State.clearFrozen s) := by
  unfold State.clearFrozen
  repeat' (first
    | with_reducible assumption
    | (intro t_; first | (with_reducible refine keeps_cut (w := w) (s := s0) (t := t_) ?_ ?_; intro ht_; rotate_left; dsimp -zeta only [t_]) | skip)
    | with_reducible apply State.wrB_keeps (Sub.trans rfl hw)
    | lift_lets
    | with_reducible refine keeps_ite ?_ ?_)

theorem State.blockStep_keeps {w : Nat} {s0 s : State} (hw : Sub 0x330fd4c w) (h : Keeps w s0 s) (br : Sys2Proof.Word) :
    Keeps w s0 (State.blockStep s br) := by
  unfold State.blockStep
  repeat' (first
    | with_reducible assumption
    | (intro t_; first | (with_reducible refine keeps_cut (w := w) (s := s0) (t := t_) ?_ ?_; intro ht_; rotate_left; dsimp -zeta only [t_]) | skip)
    | with_reducible apply State.clearFrozen_keeps (Sub.trans rfl hw)
    | with_reducible apply State.blockNow_keeps (Sub.trans rfl hw)
    | with_reducible apply State.raiseIna_keeps (Sub.trans rfl hw)
    | with_reducible apply State.wrB_keeps (Sub.trans rfl hw)
    | lift_lets
    | with_reducible refine keeps_ite ?_ ?_)

theorem State.swapOver_keeps {w : Nat} {s0 s : State} (hw : Sub 0x4 w) (h : Keeps w s0 s) :
    Keeps w s0 (State.swapOver s) := by
  unfold State.swapOver
  repeat' (first
    | with_reducible assumption
    | (intro t_; first | (with_reducible refine keeps_cut (w := w) (s := s0) (t := t_) ?_ ?_; intro ht_; rotate_left; dsimp -zeta only [t_]) | skip)
    | with_reducible apply State.wrSchB_keeps (Sub.trans rfl hw)
    | lift_lets
    | with_reducible refine keeps_ite ?_ ?_)

theorem State.swapStep_keeps {w : Nat} {s0 s : State} (hw : Sub 0x10c w) (h : Keeps w s0 s) (row : Sys2Proof.Word) (blocked : Bool) :
    Keeps w s0 (State.swapStep s row blocked) := by
  unfold State.swapStep
  repeat' (first
    | with_reducible assumption
    | (intro t_; first | (with_reducible refine keeps_cut (w := w) (s := s0) (t := t_) ?_ ?_; intro ht_; rotate_left; dsimp -zeta only [t_]) | skip)
    | with_reducible apply State.raiseSch_keeps (Sub.trans rfl hw)
    | with_reducible apply State.wrSchB_keeps (Sub.trans rfl hw)
    | with_reducible apply State.swapOver_keeps (Sub.trans rfl hw)
    | with_reducible apply State.setProfile_keeps (Sub.trans rfl hw)
    | lift_lets
    | with_reducible refine keeps_ite ?_ ?_)

theorem State.nextRow_keeps {w : Nat} {s0 s : State} (hw : Sub 0x30404 w) (h : Keeps w s0 s) (prf : Nat) (bank : Nat) (start : Sys2Proof.Word) :
    Keeps w s0 (State.nextRow s prf bank start) := by
  have b2 := Sub.bit (i := 2) hw rfl; have b10 := Sub.bit (i := 10) hw rfl; have b16 := Sub.bit (i := 16) hw rfl; have b17 := Sub.bit (i := 17) hw rfl
  unfold State.nextRow
  repeat' (first
    | with_reducible assumption
    | (intro t_; first | (with_reducible refine keeps_cut (w := w) (s := s0) (t := t_) ?_ ?_; intro ht_; rotate_left; dsimp -zeta only [t_]) | skip)
    | with_reducible apply State.fillPending_keeps (Sub.trans rfl hw)
    | with_reducible apply State.wrSchB_keeps (Sub.trans rfl hw)
    | with_reducible apply State.wrSch_keeps (Sub.trans rfl hw)
    | lift_lets
    | with_reducible refine keeps_ite ?_ ?_
    | with_reducible refine keeps_fst_ite ?_ ?_
    | (with_reducible refine keeps_of_eq (by assumption) ?_)
    | with_reducible refine keeps_upd ?_ (fun x => x) (fun x => x) (.inr rfl) (.inl b2) (.inr rfl) (.inr rfl) (.inr rfl) (.inr rfl) (.inr rfl) (.inr rfl) (.inl b10) (.inr rfl) (.inr rfl) (.inr rfl) (.inr rfl) (.inr rfl) (.inl b16) (.inl b17) (.inr rfl) (.inr rfl) (.inr rfl) (.inr rfl) (.inr rfl) (.inr rfl) (.inr rfl) (.inr rfl) (.inr rfl))

theorem State.spanStep_keeps {w : Nat} {s0 s : State} (hw : Sub 0x410c w) (h : Keeps w s0 s) :
    Keeps w s0 (State.spanStep s) := by
  have b2 := Sub.bit (i := 2) hw rfl; have b3 := Sub.bit (i := 3) hw rfl; have b8 := Sub.bit (i := 8) hw rfl; have b14 := Sub.bit (i := 14) hw rfl
  unfold State.spanStep
  repeat' (first
    | with_reducible assumption
    | (intro t_; first | (with_reducible refine keeps_cut (w := w) (s := s0) (t := t_) ?_ ?_; intro ht_; rotate_left; dsimp -zeta only [t_]) | skip)
    | with_reducible apply State.endSpan_keeps (Sub.trans rfl hw)
    | with_reducible apply State.spanStart_keeps (Sub.trans rfl hw)
    | lift_lets
    | with_reducible refine keeps_ite ?_ ?_
    | with_reducible refine keeps_upd ?_ (fun x => x) (fun x => x) (.inr rfl) (.inl b2) (.inl b3) (.inr rfl) (.inr rfl) (.inr rfl) (.inl b8) (.inr rfl) (.inr rfl) (.inr rfl) (.inr rfl) (.inr rfl) (.inl b14) (.inr rfl) (.inr rfl) (.inr rfl) (.inr rfl) (.inr rfl) (.inr rfl) (.inr rfl) (.inr rfl) (.inr rfl) (.inr rfl) (.inr rfl) (.inr rfl))

theorem State.announceStep_keeps {w : Nat} {s0 s : State} (hw : Sub 0x4104 w) (h : Keeps w s0 s) :
    Keeps w s0 (State.announceStep s) := by
  have b2 := Sub.bit (i := 2) hw rfl; have b8 := Sub.bit (i := 8) hw rfl; have b14 := Sub.bit (i := 14) hw rfl
  unfold State.announceStep
  repeat' (first
    | with_reducible assumption
    | (intro t_; first | (with_reducible refine keeps_cut (w := w) (s := s0) (t := t_) ?_ ?_; intro ht_; rotate_left; dsimp -zeta only [t_]) | skip)
    | with_reducible apply State.announce_keeps (Sub.trans rfl hw)
    | lift_lets
    | with_reducible refine keeps_ite ?_ ?_
    | with_reducible refine keeps_upd ?_ (fun x => x) (fun x => x) (.inr rfl) (.inl b2) (.inr rfl) (.inr rfl) (.inr rfl) (.inr rfl) (.inl b8) (.inr rfl) (.inr rfl) (.inr rfl) (.inr rfl) (.inr rfl) (.inl b14) (.inr rfl) (.inr rfl) (.inr rfl) (.inr rfl) (.inr rfl) (.inr rfl) (.inr rfl) (.inr rfl) (.inr rfl) (.inr rfl) (.inr rfl) (.inr rfl))

theorem State.dropGrants_keeps {w : Nat} {s0 s : State} (hw : Sub 0x400 w) (h : Keeps w s0 s) :
    Keeps w s0 (State.dropGrants s) := by
  have b10 := Sub.bit (i := 10) hw rfl
  unfold State.dropGrants
  repeat' (first
    | with_reducible assumption
    | (intro t_; first | (with_reducible refine keeps_cut (w := w) (s := s0) (t := t_) ?_ ?_; intro ht_; rotate_left; dsimp -zeta only [t_]) | skip)
    | lift_lets
    | with_reducible refine keeps_ite ?_ ?_
    | with_reducible refine keeps_upd ?_ (fun x => x) (fun x => x) (.inr rfl) (.inr rfl) (.inr rfl) (.inr rfl) (.inr rfl) (.inr rfl) (.inr rfl) (.inr rfl) (.inl b10) (.inr rfl) (.inr rfl) (.inr rfl) (.inr rfl) (.inr rfl) (.inr rfl) (.inr rfl) (.inr rfl) (.inr rfl) (.inr rfl) (.inr rfl) (.inr rfl) (.inr rfl) (.inr rfl) (.inr rfl) (.inr rfl))

theorem State.lateGrant_keeps {w : Nat} {s0 s : State} (hw : Sub 0x410c w) (h : Keeps w s0 s) (g : Sys2Proof.GrantSlot) :
    Keeps w s0 (State.lateGrant s g) := by
  unfold State.lateGrant
  repeat' (first
    | with_reducible assumption
    | (intro t_; first | (with_reducible refine keeps_cut (w := w) (s := s0) (t := t_) ?_ ?_; intro ht_; rotate_left; dsimp -zeta only [t_]) | skip)
    | with_reducible apply State.raiseSch_keeps (Sub.trans rfl hw)
    | with_reducible apply State.setTb_keeps (Sub.trans rfl hw)
    | with_reducible apply State.granted_keeps (Sub.trans rfl hw)
    | lift_lets
    | with_reducible refine keeps_ite ?_ ?_)

theorem State.lateGrants_keeps {w : Nat} {s0 s : State} (hw : Sub 0x410c w) (h : Keeps w s0 s) :
    Keeps w s0 (State.lateGrants s) := by
  have b2 := Sub.bit (i := 2) hw rfl; have b3 := Sub.bit (i := 3) hw rfl; have b8 := Sub.bit (i := 8) hw rfl; have b14 := Sub.bit (i := 14) hw rfl
  unfold State.lateGrants
  repeat' (first
    | with_reducible assumption
    | (intro t_; first | (with_reducible refine keeps_cut (w := w) (s := s0) (t := t_) ?_ ?_; intro ht_; rotate_left; dsimp -zeta only [t_]) | skip)
    | with_reducible apply State.each_keeps (Sub.trans rfl hw)
    | with_reducible apply State.lateGrant_keeps (Sub.trans rfl hw)
    | lift_lets
    | with_reducible refine keeps_ite ?_ ?_
    | with_reducible refine keeps_upd ?_ (fun x => x) (fun x => x) (.inr rfl) (.inl b2) (.inl b3) (.inr rfl) (.inr rfl) (.inr rfl) (.inl b8) (.inr rfl) (.inr rfl) (.inr rfl) (.inr rfl) (.inr rfl) (.inl b14) (.inr rfl) (.inr rfl) (.inr rfl) (.inr rfl) (.inr rfl) (.inr rfl) (.inr rfl) (.inr rfl) (.inr rfl) (.inr rfl) (.inr rfl) (.inr rfl))

theorem State.claimEnd_keeps {w : Nat} {s0 s : State} (hw : Sub 0x104 w) (h : Keeps w s0 s) :
    Keeps w s0 (State.claimEnd s) := by
  unfold State.claimEnd
  repeat' (first
    | with_reducible assumption
    | (intro t_; first | (with_reducible refine keeps_cut (w := w) (s := s0) (t := t_) ?_ ?_; intro ht_; rotate_left; dsimp -zeta only [t_]) | skip)
    | with_reducible apply State.wrSchB_keeps (Sub.trans rfl hw)
    | with_reducible apply State.raiseSch_keeps (Sub.trans rfl hw)
    | lift_lets
    | with_reducible refine keeps_ite ?_ ?_)

theorem State.flipLate_keeps {w : Nat} {s0 s : State} (hw : Sub 0x4104 w) (h : Keeps w s0 s) :
    Keeps w s0 (State.flipLate s) := by
  have b2 := Sub.bit (i := 2) hw rfl; have b8 := Sub.bit (i := 8) hw rfl; have b14 := Sub.bit (i := 14) hw rfl
  unfold State.flipLate
  repeat' (first
    | with_reducible assumption
    | (intro t_; first | (with_reducible refine keeps_cut (w := w) (s := s0) (t := t_) ?_ ?_; intro ht_; rotate_left; dsimp -zeta only [t_]) | skip)
    | with_reducible apply State.raise_keeps (Sub.trans rfl hw)
    | with_reducible apply State.wr_keeps (Sub.trans rfl hw)
    | lift_lets
    | with_reducible refine keeps_ite ?_ ?_
    | with_reducible refine keeps_upd ?_ (fun x => x) (fun x => x) (.inr rfl) (.inl b2) (.inr rfl) (.inr rfl) (.inr rfl) (.inr rfl) (.inl b8) (.inr rfl) (.inr rfl) (.inr rfl) (.inr rfl) (.inr rfl) (.inl b14) (.inr rfl) (.inr rfl) (.inr rfl) (.inr rfl) (.inr rfl) (.inr rfl) (.inr rfl) (.inr rfl) (.inr rfl) (.inr rfl) (.inr rfl) (.inr rfl))

theorem State.gensAfterLink_keeps {w : Nat} {s0 s : State} (hw : Sub 0x2000 w) (h : Keeps w s0 s) :
    Keeps w s0 (State.gensAfterLink s) := by
  have b13 := Sub.bit (i := 13) hw rfl
  unfold State.gensAfterLink
  repeat' (first
    | with_reducible assumption
    | (intro t_; first | (with_reducible refine keeps_cut (w := w) (s := s0) (t := t_) ?_ ?_; intro ht_; rotate_left; dsimp -zeta only [t_]) | skip)
    | with_reducible apply State.syncGens_keeps (Sub.trans rfl hw)
    | lift_lets
    | with_reducible refine keeps_ite ?_ ?_
    | with_reducible refine keeps_upd ?_ (fun x => x) (fun x => x) (.inr rfl) (.inr rfl) (.inr rfl) (.inr rfl) (.inr rfl) (.inr rfl) (.inr rfl) (.inr rfl) (.inr rfl) (.inr rfl) (.inr rfl) (.inl b13) (.inr rfl) (.inr rfl) (.inr rfl) (.inr rfl) (.inr rfl) (.inr rfl) (.inr rfl) (.inr rfl) (.inr rfl) (.inr rfl) (.inr rfl) (.inr rfl) (.inr rfl))

theorem State.deferredResets_keeps {w : Nat} {s0 s : State} (hw : Sub 0x7bffdec w) (h : Keeps w s0 s) (blocked : Bool) :
    Keeps w s0 (State.deferredResets s blocked) := by
  have b2 := Sub.bit (i := 2) hw rfl; have b3 := Sub.bit (i := 3) hw rfl; have b5 := Sub.bit (i := 5) hw rfl; have b6 := Sub.bit (i := 6) hw rfl; have b7 := Sub.bit (i := 7) hw rfl; have b8 := Sub.bit (i := 8) hw rfl; have b10 := Sub.bit (i := 10) hw rfl; have b11 := Sub.bit (i := 11) hw rfl; have b12 := Sub.bit (i := 12) hw rfl; have b13 := Sub.bit (i := 13) hw rfl; have b14 := Sub.bit (i := 14) hw rfl; have b15 := Sub.bit (i := 15) hw rfl; have b16 := Sub.bit (i := 16) hw rfl; have b17 := Sub.bit (i := 17) hw rfl; have b18 := Sub.bit (i := 18) hw rfl; have b19 := Sub.bit (i := 19) hw rfl; have b20 := Sub.bit (i := 20) hw rfl; have b21 := Sub.bit (i := 21) hw rfl; have b23 := Sub.bit (i := 23) hw rfl; have b24 := Sub.bit (i := 24) hw rfl; have b25 := Sub.bit (i := 25) hw rfl; have b26 := Sub.bit (i := 26) hw rfl
  unfold State.deferredResets
  repeat' (first
    | with_reducible assumption
    | (intro t_; first | (with_reducible refine keeps_cut (w := w) (s := s0) (t := t_) ?_ ?_; intro ht_; rotate_left; dsimp -zeta only [t_]) | skip)
    | with_reducible apply State.each_keeps (Sub.trans rfl hw)
    | with_reducible apply State.softNow_keeps (Sub.trans rfl hw)
    | lift_lets
    | with_reducible refine keeps_ite ?_ ?_
    | split
    | (clear_value *; split)
    | with_reducible refine keeps_upd ?_ (fun x => x) (fun x => x) (.inr rfl) (.inl b2) (.inl b3) (.inl b5) (.inl b6) (.inl b7) (.inl b8) (.inr rfl) (.inl b10) (.inl b11) (.inl b12) (.inl b13) (.inl b14) (.inl b15) (.inl b16) (.inl b17) (.inl b18) (.inl b19) (.inl b20) (.inl b21) (.inr rfl) (.inl b23) (.inl b24) (.inl b25) (.inl b26))

theorem State.ageBlocks_keeps {w : Nat} {s0 s : State} (hw : Sub 0x80000 w) (h : Keeps w s0 s) :
    Keeps w s0 (State.ageBlocks s) := by
  have b19 := Sub.bit (i := 19) hw rfl
  unfold State.ageBlocks
  repeat' (first
    | with_reducible assumption
    | (intro t_; first | (with_reducible refine keeps_cut (w := w) (s := s0) (t := t_) ?_ ?_; intro ht_; rotate_left; dsimp -zeta only [t_]) | skip)
    | lift_lets
    | with_reducible refine keeps_ite ?_ ?_
    | with_reducible refine keeps_upd ?_ (fun x => x) (fun x => x) (.inr rfl) (.inr rfl) (.inr rfl) (.inr rfl) (.inr rfl) (.inr rfl) (.inr rfl) (.inr rfl) (.inr rfl) (.inr rfl) (.inr rfl) (.inr rfl) (.inr rfl) (.inr rfl) (.inr rfl) (.inr rfl) (.inr rfl) (.inl b19) (.inr rfl) (.inr rfl) (.inr rfl) (.inr rfl) (.inr rfl) (.inr rfl) (.inr rfl))

theorem State.bindoffStep_keeps {w : Nat} {s0 s : State} (hw : Sub 0x7ffffec w) (h : Keeps w s0 s) :
    Keeps w s0 (State.bindoffStep s) := by
  unfold State.bindoffStep
  repeat' (first
    | with_reducible assumption
    | (intro t_; first | (with_reducible refine keeps_cut (w := w) (s := s0) (t := t_) ?_ ?_; intro ht_; rotate_left; dsimp -zeta only [t_]) | skip)
    | with_reducible apply State.enterBindoff_keeps (Sub.trans rfl hw)
    | with_reducible apply State.endBindoff_keeps (Sub.trans rfl hw)
    | lift_lets
    | with_reducible refine keeps_ite ?_ ?_)

theorem State.rowEnd_keeps {w : Nat} {s0 s : State} (hw : Sub 0x750c w) (h : Keeps w s0 s) :
    Keeps w s0 (State.rowEnd s) := by
  unfold State.rowEnd
  repeat' (first
    | with_reducible assumption
    | (intro t_; first | (with_reducible refine keeps_cut (w := w) (s := s0) (t := t_) ?_ ?_; intro ht_; rotate_left; dsimp -zeta only [t_]) | skip)
    | with_reducible apply State.resolveClaims_keeps (Sub.trans rfl hw)
    | with_reducible apply State.renotify_keeps (Sub.trans rfl hw)
    | with_reducible apply State.singles_keeps (Sub.trans rfl hw)
    | with_reducible apply State.endRs_keeps (Sub.trans rfl hw)
    | lift_lets
    | with_reducible refine keeps_ite ?_ ?_)

theorem State.rowTurn_keeps {w : Nat} {s0 s : State} (hw : Sub 0x33ffd4c w) (h : Keeps w s0 s) :
    Keeps w s0 (State.rowTurn s) := by
  unfold State.rowTurn
  repeat' (first
    | with_reducible assumption
    | (intro t_; first | (with_reducible refine keeps_cut (w := w) (s := s0) (t := t_) ?_ ?_; intro ht_; rotate_left; dsimp -zeta only [t_]) | skip)
    | with_reducible apply State.blockStep_keeps (Sub.trans rfl hw)
    | with_reducible apply State.nextRow_keeps (Sub.trans rfl hw)
    | with_reducible apply State.swapStep_keeps (Sub.trans rfl hw)
    | with_reducible apply State.fldBoundary_keeps (Sub.trans rfl hw)
    | with_reducible apply State.pairBoundary_keeps (Sub.trans rfl hw)
    | with_reducible apply State.deltaBoundary_keeps (Sub.trans rfl hw)
    | with_reducible apply State.ageAll_keeps (Sub.trans rfl hw)
    | with_reducible apply State.evalOwn_keeps (Sub.trans rfl hw)
    | with_reducible apply State.staRow_keeps (Sub.trans rfl hw)
    | with_reducible apply State.each_keeps (Sub.trans rfl hw)
    | with_reducible apply State.evalBuf_keeps (Sub.trans rfl hw)
    | lift_lets
    | with_reducible refine keeps_ite ?_ ?_)

theorem State.muteStep_keeps {w : Nat} {s0 s : State} (hw : Sub 0x584 w) (h : Keeps w s0 s) :
    Keeps w s0 (State.muteStep s) := by
  unfold State.muteStep
  repeat' (first
    | with_reducible assumption
    | (intro t_; first | (with_reducible refine keeps_cut (w := w) (s := s0) (t := t_) ?_ ?_; intro ht_; rotate_left; dsimp -zeta only [t_]) | skip)
    | with_reducible apply State.muteBoundary1_keeps (Sub.trans rfl hw)
    | with_reducible apply State.muteBoundary_keeps (Sub.trans rfl hw)
    | with_reducible apply State.holdoverStep_keeps (Sub.trans rfl hw)
    | with_reducible apply State.holdStep_keeps (Sub.trans rfl hw)
    | lift_lets
    | with_reducible refine keeps_ite ?_ ?_)

theorem State.rowBegin_keeps {w : Nat} {s0 s : State} (hw : Sub 0x7ffffec w) (h : Keeps w s0 s) (blocked : Bool) :
    Keeps w s0 (State.rowBegin s blocked) := by
  unfold State.rowBegin
  repeat' (first
    | with_reducible assumption
    | (intro t_; first | (with_reducible refine keeps_cut (w := w) (s := s0) (t := t_) ?_ ?_; intro ht_; rotate_left; dsimp -zeta only [t_]) | skip)
    | with_reducible apply State.claimEnd_keeps (Sub.trans rfl hw)
    | with_reducible apply State.dropGrants_keeps (Sub.trans rfl hw)
    | with_reducible apply State.lateGrants_keeps (Sub.trans rfl hw)
    | with_reducible apply State.spanStep_keeps (Sub.trans rfl hw)
    | with_reducible apply State.gensAfterLink_keeps (Sub.trans rfl hw)
    | with_reducible apply State.flipLate_keeps (Sub.trans rfl hw)
    | with_reducible apply State.yieldBoundary_keeps (Sub.trans rfl hw)
    | with_reducible apply State.freezeStep_keeps (Sub.trans rfl hw)
    | with_reducible apply State.announceStep_keeps (Sub.trans rfl hw)
    | with_reducible apply State.turnBoundary_keeps (Sub.trans rfl hw)
    | with_reducible apply State.each_keeps (Sub.trans rfl hw)
    | with_reducible apply State.compareGuard_keeps (Sub.trans rfl hw)
    | with_reducible apply State.bindoffStep_keeps (Sub.trans rfl hw)
    | with_reducible apply State.evalNeed_keeps (Sub.trans rfl hw)
    | with_reducible apply State.ageBlocks_keeps (Sub.trans rfl hw)
    | with_reducible apply State.deferredResets_keeps (Sub.trans rfl hw)
    | with_reducible apply State.alignStats_keeps (Sub.trans rfl hw)
    | lift_lets
    | with_reducible refine keeps_ite ?_ ?_)

theorem execRowBoundary_keeps (s : State) :
    ∃ t_, execRowBoundary s = .next t_ ∧ Keeps 0x7ffffec s t_ := by
  have h := Keeps.refl 0x7ffffec s
  have hw := Sub.refl 0x7ffffec
  
  refine ⟨_, rfl, ?_⟩
  repeat' (first
    | with_reducible assumption
    | (intro t_; first | (with_reducible refine keeps_cut (w := w) (s := s0) (t := t_) ?_ ?_; intro ht_; rotate_left; dsimp -zeta only [t_]) | skip)
    | with_reducible apply State.when_keeps (Sub.trans rfl hw)
    | with_reducible apply State.reachSt_keeps (Sub.trans rfl hw)
    | with_reducible apply State.rowTurn_keeps (Sub.trans rfl hw)
    | with_reducible apply State.rowEnd_keeps (Sub.trans rfl hw)
    | with_reducible apply State.settle_keeps (Sub.trans rfl hw)
    | with_reducible apply State.rowBegin_keeps (Sub.trans rfl hw)
    | with_reducible apply State.muteStep_keeps (Sub.trans rfl hw)
    | dsimp only [id]
    | lift_lets
    | with_reducible refine keeps_ite ?_ ?_)

end Sys2Proof.Machine
end

