-- ==== Sys2Proof/Machine/Pins.lean ====
section
/-! DEFINITION. The levels of the device's output balls as the state gives them (R503): what a board would read. -/

namespace Sys2Proof.Machine

/-- The level that the device gives a ball: driven low, driven high, or not driven. -/
inductive Level where
  | low | high | released
  deriving DecidableEq, Repr

/-- A level by a bit. -/
def levelOf (b : Bool) : Level := if b then .high else .low

/-- The level of an open-drain ball. -/
def drainOf (low : Bool) : Level := if low then .low else .released

/-- The rails of a PWR_EN output are on: 2 carries VIO18, 3 VIO33 (R460). -/
def State.railOn (s : State) (n : Nat) : Bool := s.rdB (kps KPS_STAT) n

/-- A ball of die 0 on VIO33: not driven without its rail. -/
def State.ball33 (s : State) (l : Level) : Level := if s.railOn 3 then l else .released

/-- PWR_EN[n]. -/
def State.pinPwrEn (s : State) (n : Fin 4) : Level := levelOf (s.railOn n.val)

/-- RST_OUT_N (R462). -/
def State.pinRstOut (s : State) : Level := levelOf (s.mode != .off && !s.rdB (kps KPS_STAT) 10)

/-- BYP_DRV[n]: high while relay n is driven, with the reduced duty of KBY_HOLD while it is held (R345, R347). -/
def State.pinBypDrv (s : State) (n : Fin 4) : Level := levelOf (s.rdB (kby KBY_STAT) n.val)

/-- TOK0 and TOK1 are open-drain (R322). -/
def State.pinTok0 (s : State) : Level := drainOf s.pr.drv0
def State.pinTok1 (s : State) : Level := drainOf s.pr.drv1

/-- HB_OUT carries the heartbeat, a 50 kHz square wave; else it is low (R321). -/
def State.hbOutRuns (s : State) : Bool :=
  s.dieUp 0 && s.rdB (twn 0 TWN_CFG) 0 && (s.mode == .castOn || s.mode == .running || s.mode == .healing || s.mode == .standby)

/-- WAKE_N is driven under R390 alone. -/
def State.pinWakeN (s : State) : Level := drainOf (s.ev.wakeN && s.dieUp 0)

/-- CLKREQ_N is driven low from die 0's reset release while HOST_SEL is 1 (R395, R503). -/
def State.pinClkreqN (s : State) : Level := drainOf (s.dieUp 0 && s.straps.getLsbD 3)

/-- MS_IRQ_N (R380). -/
def State.pinMsIrqN (s : State) : Level := drainOf (s.mode != .off && s.irqLow)

/-- PPS_OUT (R93). -/
def State.pinPpsOut (s : State) : Level := s.ball33 (levelOf s.tm.ppsHigh)

/-- STM_OUT[n] (R128). -/
def State.pinStmOut (s : State) (n : Fin 8) : Level := s.ball33 (levelOf (s.sc.stmOut.getLsbD n.val))

/-- GPIO[n]: driven where SCH_GPIO_DIR is 1 (R128, R130). -/
def State.pinGpio (s : State) (n : Fin 32) : Level :=
  if s.rdB (sch 0 SCH_GPIO_DIR) n.val then s.ball33 (levelOf (s.rdB (sch 0 SCH_GPIO_OUT) n.val)) else .released

/-- CANn_STBY (R177). -/
def State.pinCanStby (s : State) (n : Fin 4) : Level := s.ball33 (levelOf (s.canStby n.val))

end Sys2Proof.Machine
end

