-- ==== Sys2Proof/WellFormed.lean ====
section
/-! DEFINITION. Well-formed commands: the bounds the spec puts on what an event can bring with it, as far as the operand types
do not say them already. A meaning is defined for every command; these say which ones the hardware can meet. -/

namespace Sys2Proof

/-- A strand's data are at most 2,047 bytes: its length field has 11 bits (R242). -/
def Strand.wf (t : Strand) : Bool := decide (t.data.length < 2048)

/-- The common header: version 1, no flag, and node, profile and stitch numbers in range (R107). -/
def Hdr.wf (h : Hdr) : Bool :=
  h.version == 1 && h.flags == 0 && decide (h.sender.toNat < 64) && decide (h.prf.toNat < 8)
    && (h.sid == 0xFFFF || decide (h.sid.toNat < 4096))

/-- A poll vector holds at most 128 words, and at most 8 grants travel in a ROW_START (R108). -/
def RowStart.wf (b : RowStart) : Bool := decide (b.grants.length ≤ 8) && decide (b.poll.length ≤ 128)

/-- Every strand of a skein is well formed (R254). -/
def Skein.wf (b : Skein) : Bool := b.strands.all Strand.wf

/-- A frame has at least one byte beside its FCS and at most 16,383 (R272). -/
def Rx.wf (r : Rx) : Bool := decide (0 < r.len) && decide (r.len < 16384)

/-- A request on BAR0 or BAR2 starts at a dword and carries at least one (R398, R399). -/
def BarReq.wf (r : BarReq) : Bool := r.offset % 4 == 0 && !r.dwords.isEmpty

/-- A register address is that of a 32-bit word (R8). -/
def addrOk (a : Nat) : Bool := decide (a < 0x20000000) && a % 4 == 0

/-- An MSPI frame carries any 32-bit address: a misaligned or unmapped one is answered with BAD_ADDR (R406). -/
def mspiOk (a : Nat) : Bool := decide (a < 2 ^ 32)

/-- The lengths of MVB process data (R169). -/
def mvbLenOk (n : Nat) : Bool := n == 2 || n == 4 || n == 8 || n == 16 || n == 32

/-- A UTC second has less than 10^9 ns (R64). -/
def Sync.wf (f : Sync) : Bool := decide (f.origNs.toNat < 1000000000)

/-- Well-formedness of a command: its frame, its body and its addresses. -/
def Instr.wf : Instr → Bool
  | .syncRx rx f _ | .followUpRx rx f _ => rx.wf && f.wf
  | .helloRx rx _ _ | .topologyRx rx _ => rx.wf
  | .rowStartRx rx h b => rx.wf && h.wf && b.wf
  | .coldstartRx rx h _ => rx.wf && h.wf
  | .skeinRx rx h _ b => rx.wf && h.wf && b.wf
  | .nullRx rx h _ _ => rx.wf && h.wf
  | .claimRx rx h _ => rx.wf && h.wf
  | .keepaliveRx rx h _ => rx.wf && h.wf
  | .turnNoticeRx rx h _ => rx.wf && h.wf
  | .bridgeReqRx rx h b => rx.wf && h.wf && b.addr % 4 == 0
  | .bridgeRspRx rx h _ => rx.wf && h.wf
  | .eventMsgRx rx h _ => rx.wf && h.wf
  | .consistFrameRx rx _ (.reply h b) => rx.wf && h.wf && b.strand.wf
  | .consistFrameRx rx _ _ => rx.wf
  | .beFrameRx rx _ => rx.wf
  | .mvbFrameRx _ _ _ _ _ data => mvbLenOk data.length
  | .canFrameRx _ _ fdf brs _ _ data => decide (data.length ≤ if fdf then 64 else 8) && (fdf || !brs)
  | .bar0Request r | .bar2Request r => r.wf
  | .mspiRead a | .mspiWrite a _ => mspiOk a
  | .clearOnRead a | .registerWrite _ a _ _ | .pairLowRead _ a | .initWrite a _ _
  | .scheduleTableWrite a _ | .bankedTableWrite a _ => addrOk a
  | _ => true

end Sys2Proof
end

