-- ==== Sys2Proof/Tests/Slice0.lean ====
section
/-! SUPPORT. Tests of the model: for every statement with hypotheses a state and operands that meet them, a smoke test of the
well-formedness checks, and single steps with the numbers that the spec gives. -/

namespace Sys2Proof.Tests
open Sys2Proof Sys2Proof.Machine
set_option Elab.async false

/-- A state put into a mode. -/
def inMode (m : Mode) (s : State) : State := s.wrF (kpr KPR_MODE) 0 3 m.code

/-- Registers set to words, in order. -/
def wrs (l : List (Nat × Word)) (s : State) : State := l.foldl (fun t x => t.wr x.1 x.2) s

/-- All locks of the pages named opened: 256 accesses each. -/
def opened (s : State) : State :=
  ([kpr 0, kby 0, ina 0] ++ [0, 1].flatMap fun d => [sch d 0, fwd d 0, rng d 0, twn d 0, sec d 0, sa d 0 0, sa d 1 0]).foldl
    (fun t a => t.wr (a + PG_LOCK) 256) s

/-- A stitch entry written to a slot of die 0's table, with the slot's length and selvedge (R100). -/
def entryAt (sl i start kind len owner : Nat) (s : State) : State :=
  s.setTws (entryAddr sl i) [wordOf (start + kind * 2 ^ 26), wordOf (len + owner * 2 ^ 20), 0, 0]

/-- A half-word of a table window (R486). -/
def half (a v : Nat) (s : State) : State := (s.setTb a (BitVec.ofNat 8 v)).setTb (a + 1) (BitVec.ofNat 8 (v / 256))

/-- A state given what a running node holds: both dies up, the Komidon link up, the locks open, node number 5, profile 0 in slot 0. -/
def onto (s0 : State) : State := (inMode .running (opened s0)) |> wrs
  [ (kps KPS_STAT, 0x3F), (klk 0 KLK_STAT, 1), (klk 1 KLK_STAT, 1), (hdm HDM_STAT, 2), (ina INA_STAT, 0x0504), (ina INA_CFG, 2),
    (sch 0 SCH_STAT, 0x200), (sch 0 SCH_MAP0, 8), (sch 0 (SCH_SLOT_CNT 0), 4), (sch 0 (SCH_SLOT_ROWLEN 0), 125000), (sch 0 (SCH_SLOT_SELV 0), 1600),
    (fldp PG_CTRL, 1), (twn 0 TWN_CFG, 1), (twn 0 TWN_STAT, 0x143), (twn 0 TWN_PAIR, 5), (sch 0 SCH_CS_CFG, 1) ]

/-- A node that runs, on a board with a host. -/
def ws : State := onto { State.reset with straps := 8, hi := HostIf.init true }

/-- The same on a part with one die. -/
def solo (s : State) : State := { s with part := .dn6432 }

/-- A frame that arrives at a port, intact. -/
def rx0 (p : Port) : Rx := { port := p, sof := 0, len := 100, fcsOk := true, sec := none }

/-- The common header of another node's frame. -/
def hd (k : Byte) : Hdr := { l2 := { da := 0x03005D000002, sa := 9, tci := some 0xE000, etype := 0x88B5 }, subtype := k, version := 1, flags := 0, row := 0, topo := 0, sender := 3, prf := 0, sid := 0xFFFF }

/-- The header of a bridge frame for node 5 (R410). -/
def hdB (k : Byte) : Hdr := { hd k with l2 := { da := 5, sa := 9, tci := some 0xC000, etype := 0x88B5 } }

/-! An image, a frame and the bodies that the commands below carry. -/

def image0 : Image := { source := .copy0, readOk := true, headerOk := true, deviceId := 0x6464, version := 1, length := 4096, uidFilter := 0, sigOk := true, keyHash := 0, profiles := [], init := [], tables := [] }
def eth0 : Eth := { da := 0x020000000001, sa := 0x020000000002, tag := none, etype := 0x0800, len := 100, ip := none }
def cst0 : ColdStart := { uid := 7, rank := 0, kind := .initial, rowLen := 125000, st := 0, winner := 0 }
def breq0 : BridgeReq := { initiator := 9, target := 0, window := 1, write := true, seq := 0, addr := 0x40, len := 4, prefetch := false, retry := false, newSeq := false, data := [5] }
def brsp0 : BridgeRsp := { responder := 9, initiator := 0, window := 1, write := true, seq := 0, status := 0, prefetch := false, farRow := 0, data := [] }
def sync0 : Sync := { domain := 0, seq := 1, twoStep := false, origSec := 0, origNs := 0, corr16 := 0, csro := 0 }
def topo0 : Topology := { origin := 9, seq := 1, nbr1 := 0, nbr2 := 0, cst := 9, lead := false, cabSide := false, inhibit := false, counter := 0, needle := false, item := [], nodes := 1, consists := 1, act := 0, list := [] }
def twin0 : TwinHdr := { da := efilanerDa, sa := 9, etype := 0x88B6, version := 1, incomplete := false, ovf := false, lead := true, synced := true, drill := false, lane := 0, row := 0, seq := 0, sec := none }
def evt0 : EventMsg := { uid := 9, src := 1, fld := false, seq := 0, st := 0, drow := 0, info := [] }
def rs0 : RowStart := { pendPrf := 0, blockPend := false, swapLate := false, hold := false, swapRow := 0, blkRow := 0, rowLen := 125000, rowSt := 0, grants := [], poll := [1] }
def qent0 : QEnt := { id := 1, port := 5, cls := 0, frame := .eth eth0, len := 100, pfc := none, hdrm := false, held := false }
def tn0 : TurnNotice := { uid := 9, kind := .set, line := .a, side := .one, far := 3, seq := 1, st := 0 }
def breqS : BrReq := { w := 1, seq := 0, write := true, addr := 0x40, data := [5], len := 4, prefetch := false, newSeq := false, target := 9, dst := 3, sent := true, issued := 0, sentAt := 0, access := none }
def null0 : NullBody := { reason := 0, unsent := 0, skein := 1, st := 0 }
def strand0 : Strand := { state := 0, dsid := 1, reason := 0, age := 0, seq := 1, data := [1, 2] }
def trdp0 : Trdp := { comId := 1, src := 1, headerOk := true, etbTopo := 0, opTopo := 0, data := [1] }
def txd0 : TxDesc := { len := 100, cls := 0, direct := true, tsReq := false, port := 5, frame := eth0 }
def loss0 : KeepAlive := { uid := 9, need := true, bindoff := false, sources := 1, endSt := 0 }


/-! ## Every statement with hypotheses has a state and operands that meet them, clause by clause (witness section) -/

theorem witness_EmptyQueueStepIsOneTick :
    [(let s : State := ws |> inMode .off
      decide (s.pending = [] ∧ s.dieUp 0 = false)),
      (let s : State := ws
      match step s with
      | .next _ =>
        decide (s.pending = [])
      | _ => false),
      (let s : State := ws
      let d : Fin 2 := 1
      match step s with
      | .next _ =>
        decide (s.pending = [] ∧ s.dieUp 0 = true ∧ s.tm.anyDue = false ∧ s.viewFrac 0 d.val + s.tens d.val < 2 ^ 48 * 1000000000 * 2 ^ 32)
      | _ => false)].all id = true := by decide +kernel

theorem witness_EveryStepKeepsStoresCanonical :
    [(let s : State := ws
      match step s with
      | .next _ =>
        decide (Sparse.wf regDefault s.regs = true ∧ Sparse.wf (fun _ => (0 : Byte)) s.tbl = true ∧ Sparse.wf (fun _ => (0 : Word)) s.otp = true)
      | _ => false)].all id = true := by decide +kernel

theorem witness_FuseBitsOnlyRise :
    [(let s : State := ws |>.setOtpW 3 8 |> (fun (s : State) => { s with pending := [.rtcTick] })
      let i : Nat := 3
      let j : Nat := 3
      match step s with
      | .next _ =>
        decide ((s.otpW i).getLsbD j = true)
      | _ => false)].all id = true := by decide +kernel

theorem witness_OnlyProgrammingChangesFuses :
    [(let c : Instr := .rtcTick
      let s : State := ws
      match exec c s with
      | .next _ =>
        decide (c ≠ .otpProgramDone)
      | _ => false),
      (let b : Nat := 100
      let s : State := ws |> (fun (s : State) => { s with se := { s.se with otpBusy := some b } })
      decide (s.se.otpBusy = some b))].all id = true := by decide +kernel

theorem witness_CommandsChangeOnlyListedComponents :
    [(let c : Instr := .rtcTick
      let s : State := ws
      match exec c s with
      | .next _ =>
        true
      | _ => false)].all id = true := by decide +kernel

theorem witness_LockedWritesAreDiscarded :
    [(let c : Instr := .localBlockingReq
      let s : State := ws |>.wr (sch 0 PG_LOCK) 0
      match writeAddr s c with
      | some a =>
        decide (s.reach a = true ∧ s.locked a = true)
      | _ => false),
      (let b := 1
      decide (b ∉ [sec 0 SEC_LOCK_VIOL, sec 0 SEC_CNT_LOCKED, sec 0 PG_EVT, sec 0 PG_SEQ])),
      (let a : Nat := 1
      decide (pageRegion a = none ∧ sharedAddr a = false))].all id = true := by decide +kernel

theorem witness_UnreachedWritesAreDropped :
    [(let c : Instr := .localBlockingReq
      let s : State := ws |> inMode .off
      match writeAddr s c with
      | some a =>
        decide (s.reach a = false)
      | _ => false)].all id = true := by decide +kernel

theorem witness_AccessesUseUpTheUnlock :
    [(let s : State := ws |>.wrF (rgn 0 RGN_PSTATE) 0 2 2
      let a : Nat := prt 5 0x100
      let g : Nat := 0
      decide (pageRegion a = some g ∧ s.rgnOn g = true ∧ 2 ≤ s.rgnState g)),
      (let s : State := ws
      let a : Nat := fwd 0 0x40
      decide (sharedAddr a = true ∧ s.dieUp (dieOf a) = true)),
      (let s : State := ws
      let a : Nat := sch 0 SCH_CTRL
      match lockPage a with
      | some pg =>
        let b := sch 0 SCH_CTRL
        decide (a ≠ pg + PG_LOCK ∧ s.lockCount pg ≠ 0 ∧ b ≠ pg + PG_LOCK)
      | _ => false),
      (let a : Nat := 1
      decide (lockPage a = none)),
      (let s : State := ws
      let page : Nat := sch 0 0
      decide (lockPage (pageBase page + PG_LOCK) = some (pageBase page) ∧ s.takes (pageBase page + PG_LOCK) = true)),
      (let s : State := ws
      let page : Nat := sch 0 0
      let v : Word := 1
      decide (v ≠ 0xC0DE ∧ lockPage (pageBase page + PG_LOCK) = some (pageBase page) ∧ s.takes (pageBase page + PG_LOCK) = true))].all id = true := by decide +kernel

theorem witness_KeeperPowersUpParkedAndLosesPower :
    [(let s : State := ws |> inMode .off
      decide (s.mode = .off)),
      (let s : State := ws
      decide (s.mode ≠ .off))].all id = true := by decide +kernel

theorem witness_WakeInputsDebounceAndWake :
    [(let i : WakeIn := .wake 0
      let s : State := ws
      decide (s.mode ≠ .off ∧ s.kp.held.getLsbD (WakeIn.idx i) = false)),
      (let n : Fin 4 := 1
      let s : State := ws |>.setLatch (.wake n) true true
      decide (s.mode ≠ .off ∧ s.latched (.wake n) = true)),
      (let n : Fin 2 := 1
      let s : State := ws |>.setLatch (.cpl n) true true
      decide (s.mode ≠ .off ∧ s.latched (.cpl n) = true)),
      (let i : WakeIn := .wake 0
      let s : State := ws |>.setLatch i true true
      decide (s.mode ≠ .off ∧ s.latched i = true)),
      (let n : Fin 4 := 1
      let s : State := ws |> (fun (s : State) => { s with kp := { s.kp with held := s.kp.held ||| BitVec.ofNat _ (2 ^ (n.val : Nat)) } })
      decide (s.mode ≠ .off ∧ s.kp.held.getLsbD n.val = true)),
      (let n : Fin 2 := 1
      let s : State := ws |>.setHeld (.cpl n) true
      decide (s.mode ≠ .off ∧ s.kp.held.getLsbD (4 + n.val) = true)),
      (let n : Fin 4 := 1
      let s : State := ws
      decide (s.mode ≠ .off ∧ s.kp.bursting.getLsbD n.val = false)),
      (let n : Fin 4 := 1
      let s : State := ws |>.wrB (kby KBY_LAD_STAT) n.val true
      decide (s.mode ≠ .off ∧ s.rdB (kby KBY_LAD_STAT) n.val = true))].all id = true := by decide +kernel

theorem witness_RtcCountsAndWakesAtAlarm :
    [(let s : State := ws
      decide (s.takes (krt KRT_SET_HI) = true)),
      (let s : State := ws |> (fun (s : State) => s.wr (kwk KWK_ALARM) (s.rd (krt KRT_SEC_LO))) |>.wr (kwk KWK_ALARM) 100 |>.wr (krt KRT_SEC_LO) 100
      decide (s.mode ≠ .off ∧ s.rd (kwk KWK_ALARM) ≠ 0 ∧ s.rd (kwk KWK_ALARM) = s.rd (krt KRT_SEC_LO)))].all id = true := by decide +kernel

theorem witness_ModeRequestsPlacedAndTaken :
    [(let s : State := ws |> (fun (s : State) => { s with kp := { s.kp with powerDown := false } })
      decide (s.takes (kpr KPR_MODE_REQ) = true ∧ s.kp.powerDown = false ∧ s.lockCount (kpr 0) ≠ 0)),
      (let s : State := ws |>.wr (kpr PG_LOCK) 0
      decide (s.takes (kpr KPR_MODE_REQ) = true ∧ s.lockCount (kpr 0) = 0)),
      (let s : State := ws |> (fun (s : State) => { s with kp := { s.kp with powerDown := true } })
      decide (s.takes (kpr KPR_MODE_REQ) = true ∧ s.kp.powerDown = true)),
      (let s : State := ws |>.wrF (kpr KPR_MODE_REQ) 0 3 1
      decide (s.mode ≠ .off ∧ s.rdF (kpr KPR_MODE_REQ) 0 3 = 1)),
      (let s : State := ws |>.wrF (kpr KPR_MODE_REQ) 0 3 2
      decide (s.mode ≠ .off ∧ s.rdF (kpr KPR_MODE_REQ) 0 3 = 2)),
      (let s : State := ws |>.wrF (kpr KPR_MODE_REQ) 0 3 3
      decide (s.mode ≠ .off ∧ s.rdF (kpr KPR_MODE_REQ) 0 3 = 3)),
      (let s : State := ws |>.wrF (kpr KPR_MODE_REQ) 0 3 4
      decide (s.mode ≠ .off ∧ s.rdF (kpr KPR_MODE_REQ) 0 3 = 4)),
      (let s : State := ws |>.wrF (kpr KPR_MODE_REQ) 0 3 5
      decide (s.mode ≠ .off ∧ 4 < s.rdF (kpr KPR_MODE_REQ) 0 3)),
      (let s : State := ws |>.wrF (kpr KPR_MODE_REQ) 0 3 0
      decide (s.mode ≠ .off ∧ s.rdF (kpr KPR_MODE_REQ) 0 3 = 0))].all id = true := by decide +kernel

theorem witness_PowerSequencerRaisesAndDropsRails :
    [(let s : State := ws |> inMode .waking |>.wrF (kps KPS_STAT) 0 4 3
      decide (s.mode = .waking ∧ s.pwrEn < 15)),
      (let s : State := ws |> inMode .parked |> (fun (s : State) => { s with kp := { s.kp with powerDown := true } })
      decide (s.mode = .parked ∧ s.kp.powerDown = true ∧ 0 < s.pwrEn)),
      (let s : State := ws |> inMode .waking
      decide (s.mode = .waking ∧ s.pwrEn = 15)),
      (let s : State := ws |> inMode .waking |>.wrF (kps KPS_STAT) 4 2 1
      decide (s.mode = .waking ∧ s.pgood ≠ 3 ∧ s.pwrEn ≠ 0)),
      (let s : State := ws
      decide (s.mode.powered = true ∧ s.pgood = 3)),
      (let s : State := ws
      decide (s.part.twoDies = true)),
      (let s : State := ws |> inMode .waking |>.wrB (kps KPS_STAT) 8 true
      decide (s.mode = .waking ∧ s.pgood = 3 ∧ s.rdB (kps KPS_STAT) 8 = true)),
      (let s : State := ws |> (fun (s : State) => { s with kp := { s.kp with powerDown := true } }) |>.wrF (kps KPS_STAT) 0 4 0
      decide (s.kp.powerDown = true ∧ s.pwrEn = 0)),
      (let s : State := ws |>.wrB (kps KPS_STAT) 10 true
      decide (s.dieUp 0 = true ∧ s.rdB (kps KPS_STAT) 10 = true)),
      (let s : State := ws |> inMode .waking |>.wrB (kps KPS_STAT) 8 true |>.wrF (kps KPS_STAT) 0 3 3
      decide (s.mode = .waking ∧ s.rdB (kps KPS_STAT) 8 = true ∧ s.part.twoDies = true))].all id = true := by decide +kernel

theorem witness_DieResetsClearWhatTheyReset :
    [(let s : State := ws
      decide (s.mode.powered = true)),
      (let s : State := ws
      decide (s.takes (kps KPS_RST_REQ) = true ∧ s.mode.powered = true)),
      (let s : State := ws
      decide (s.dieUp 0 = true)),
      (let s : State := ws
      decide (s.dieUp 1 = true)),
      (let s : State := ws
      decide (s.part.twoDies = true))].all id = true := by decide +kernel

theorem witness_PllLocksAndKeeperClocks :
    [(let d : Sys2Proof.Die := .d0
      let p : Pll := .core
      let s : State := ws
      decide (s.dieUp (dieNum d) = true ∧ s.pllPresent (dieNum d) p = true)),
      (let s : State := ws
      decide (s.mode ≠ .off)),
      (let s : State := ws |> inMode .parked |> (fun (s : State) => { s with kp := { s.kp with powerDown := false } })
      decide (s.mode = .parked ∧ s.kp.powerDown = false ∧ (s.kp.klf || !s.debouncing) = true)),
      (let s : State := ws
      decide (s.pllPresent 0 .host = true ∧ s.dieUp 0 = true))].all id = true := by decide +kernel

theorem witness_NeedKeepAliveAndBindOff :
    [(let s : State := ws |>.wrB (kpr KPR_MODE) 4 true |>.wrB (sch 0 SCH_STAT) 9 false |>.wrB (ina INA_CFG) 1 false
      let u := s.expire kaPerTmr
      decide (s.dieUp 0 = true ∧ s.canKeepalive = true ∧ (s.need || s.rdB (kpr KPR_MODE) 4) = true ∧ u.run = false)),
      (let s : State := ws |>.wrB (kpr KPR_MODE) 4 true |> entryAt 0 1 1000 4 8000 0
      let u := s.expire kaPerTmr
      match u.toGap 64 with
      | some _ =>
        decide (s.dieUp 0 = true ∧ s.canKeepalive = true ∧ (s.need || s.rdB (kpr KPR_MODE) 4) = true ∧ u.run = true)
      | _ => false),
      (let rx : Rx := rx0 0
      let h : Hdr := hd 0x05
      let b : KeepAlive := loss0
      let s : State := ws
      match s.takeStitch rx h 0x05 (fun u => b.uid == u.uid) none (.keepAlive b) false with
      | (_, true) =>
        true
      | _ => false),
      (let s : State := ws
      decide (s.takes (kwk KWK_NEED) = true)),
      (let s : State := ws |>.wrB (kwk KWK_NEED) 1 true |> (fun (s : State) => { s with kp := { s.kp with needCounting := true } })
      decide (s.mode ≠ .off ∧ s.rdB (kwk KWK_NEED) 1 = true ∧ s.kp.needCounting = true)),
      (let s : State := ws |>.wrB (kpr KPR_MODE) 4 false |>.wrB (sch 0 SCH_STAT) 9 true
      decide (s.mode.inRow = true ∧ s.need = false ∧ s.rdB (kpr KPR_MODE) 4 = false ∧ s.run = true)),
      (let s : State := ws |>.wrB (kpr KPR_MODE) 4 false |>.wrB (sch 0 SCH_STAT) 9 false
      decide (s.mode.inRow = true ∧ s.need = false ∧ s.rdB (kpr KPR_MODE) 4 = false ∧ s.run = false)),
      (let s : State := ws |>.wrB (kpr KPR_MODE) 4 true |>.wrB (sch 0 SCH_STAT) 9 false
      decide (s.mode.inRow = true ∧ s.rdB (kpr KPR_MODE) 4 = true ∧ s.run = false)),
      (let s : State := ws |>.wrB (kpr KPR_MODE) 4 true |>.wrB (sch 0 SCH_STAT) 9 true
      decide (s.mode.inRow = true ∧ s.rdB (kpr KPR_MODE) 4 = true ∧ s.run = true)),
      (let s : State := ws |>.wrB (kpr KPR_MODE) 4 true |> (fun (s : State) => { s with kp := { s.kp with boPend := false } })
      decide (s.mode.inRow = true ∧ s.rdB (kpr KPR_MODE) 4 = true ∧ s.kp.boPend = false ∧ stReached (s.rd (kwk KWK_BO_END)) (s.st 0) = true)),
      (let sd : Side := .one
      let s : State := ws |> (fun (s : State) => { s with kp := { s.kp with rewakeEnd := some 100 } })
      decide (s.mayRewake (sideNum sd) = true)),
      (let s : State := ws |> inMode .parked |>.wrB (kpr KPR_MODE) 5 true
      decide (s.mode = .parked ∧ s.rdB (kpr KPR_MODE) 5 = true))].all id = true := by decide +kernel

theorem witness_BypassRelaysSwitchAndFault :
    [(let d : Sys2Proof.Die := .d0
      let s : State := ws
      decide (s.takes (rng (dieNum d) RNG_INSERT) = true)),
      (let s : State := ws
      decide (s.mode ≠ .off)),
      (let l : Line := .a
      let s : State := ws |> (fun (s : State) => { s with kp := { s.kp with insLine := 3 } }) |>.wrB (kby KBY_STAT) 13 true
      decide (s.insertCond (lineNum l) = true ∧ s.driven (lineNum l) = false ∧ s.waits (lineNum l) = false ∧ (s.pullin (1 - lineNum l) || s.waits (1 - lineNum l)) = true)),
      (let l : Line := .a
      let s : State := ws |> (fun (s : State) => { s with kp := { s.kp with insLine := 3 } })
      decide (s.insertCond (lineNum l) = true ∧ s.driven (lineNum l) = false ∧ s.waits (lineNum l) = false ∧ (s.pullin (1 - lineNum l) || s.waits (1 - lineNum l)) = false)),
      (let s : State := ws |> (fun (s : State) => { s with kp := { s.kp with waiting := 1 } })
      decide (s.waits 0 = true)),
      (let s : State := ws |> (fun (s : State) => { s with kp := { s.kp with waiting := 2 } })
      decide (s.waits 0 = false ∧ s.waits 1 = true)),
      (let l : Line := .a
      let s : State := ws |>.wrB (kby KBY_STAT) 12 true
      decide (s.pullin (lineNum l) = true)),
      (let n : Fin 4 := 1
      let s : State := ws |>.wrB (kby KBY_STAT) n.val true
      decide (s.mode.powered = true ∧ s.rdB (kby KBY_STAT) n.val = true ∧ s.pullin (n.val / 2) = false)),
      (let s : State := ws
      decide (s.takes (kby KBY_CTRL) = true)),
      (let n : Fin 4 := 1
      let s : State := ws |>.wrB (kby KBY_STAT) n.val false |>.wrB (kps KPS_STAT) 3 true |>.wrB (kby KBY_STAT) (16 + n.val) true
      decide (s.mode.powered = true ∧ s.rdB (kby KBY_STAT) n.val = false ∧ s.rdB (kps KPS_STAT) 3 = true ∧ (s.rdB (kby KBY_STAT) (16 + n.val) || (s.mode == .waking && s.rdB (kby KBY_CTRL) 4)) = true)),
      (let n : Fin 4 := 1
      let s : State := ws |> (fun (s : State) => { s with kp := { s.kp with sampling := s.kp.sampling ||| BitVec.ofNat _ (2 ^ (n.val : Nat)) } })
      decide (s.kp.sampling.getLsbD n.val = true)),
      (let n : Fin 4 := 1
      let s : State := ws
      decide (s.takes (kby KBY_BURST) = true ∧ s.kp.bursting.getLsbD n.val = false)),
      (let n : Fin 4 := 1
      let s : State := ws |> (fun (s : State) => { s with kp := { s.kp with bursting := s.kp.bursting ||| BitVec.ofNat _ (2 ^ (n.val : Nat)) } })
      decide (s.kp.bursting.getLsbD n.val = true)),
      (let code : BitVec 10 := 155
      let s : State := ws |> fun (s : State) => { s with kp := { s.kp with sampling := 1 } }
      decide (s.kp.sampling.getLsbD 0 = true ∧ code.toNat * 3300 < 500 * 1024))].all id = true := by decide +kernel

theorem witness_RegionsSleepAndWake :
    [(let g : Fin 4 := 1
      let s : State := ws
      decide (s.rgnOn g.val = true ∧ s.rgnState g.val = 0 ∧ s.rgnIdle g.val = true ∧ s.rgnChoice g.val ≠ 0)),
      (let g : Fin 4 := 1
      let s : State := ws
      match s.rgnNext g.val with
      | some _ =>
        decide (s.rgnChoice g.val ≠ 0)
      | _ => false),
      (let g : Fin 4 := 1
      let s : State := ws |>.wrB (rgn g.val RGN_PSTATE) 2 false |>.wrF (rgn g.val RGN_PSTATE) 0 2 2 |>.wrF (rgn g.val RGN_FLOOR) 0 2 3 |>.wrB (sch 0 SCH_STAT) 9 false
      decide (s.rgnOn g.val = true ∧ s.rgnState g.val = 2 ∧ s.rgnWaking g.val = false ∧ s.lanesFree g.val = true ∧ s.rgnMay g.val 3 (s.rgnNext g.val) = true)),
      (let g : Fin 4 := 1
      let s : State := ws |>.wrF (rgn g.val RGN_PSTATE) 0 2 2
      decide (s.rgnOn g.val = true ∧ s.rgnState g.val ≠ 0 ∧ s.rgnWaking g.val = false)),
      (let g : Fin 4 := 1
      let s : State := ws |>.wrF (rgn g.val RGN_PSTATE) 0 2 3
      decide (s.rgnOn g.val = true ∧ 2 ≤ s.rgnState g.val ∧ s.rgnWaking g.val = false)),
      (let g : Fin 4 := 1
      let s : State := ws |>.wrB (rgn g.val RGN_PSTATE) 2 true
      decide (s.rgnOn g.val = true ∧ s.rgnWaking g.val = true))].all id = true := by decide +kernel

theorem witness_TensionHeldWithinClamp :
    [(let d : Fin 2 := 1
      let s : State := ws
      decide (s.takes (tmu 0 (TMU_TD_TENS_HI d.val)) = true)),
      (let d : Fin 2 := 1
      let v : Nat := 0x020083126F
      let s : State := ws |> (fun (s : State) => { s with tm := { s.tm with due1 := { tens := some v, set := none, step := 0 } } })
      decide (s.dieUp 0 = true ∧ (s.due d.val).tens = some v ∧ 0x01FF7CED91 ≤ v ∧ v ≤ 0x020083126F ∧ (s.due (1 - d.val)).tens = none)),
      (let d : Fin 2 := 1
      let v : Nat := 0x01FF7CED90
      let s : State := ws |> (fun (s : State) => { s with tm := { s.tm with due1 := { tens := some v, set := none, step := 0 } } })
      decide (s.dieUp 0 = true ∧ (s.due d.val).tens = some v ∧ v < 0x01FF7CED91)),
      (let d : Fin 2 := 1
      let v : Nat := 0x0200831270
      let s : State := ws |> (fun (s : State) => { s with tm := { s.tm with due1 := { tens := some v, set := none, step := 0 } } })
      decide (s.dieUp 0 = true ∧ (s.due d.val).tens = some v ∧ 0x020083126F < v)),
      (let s : State := ws |>.wr (tmu 0 (TMU_TD_TENS_LO 1)) 0xFF7CED91
      decide (s.takes (tmu 0 (TMU_TD_TENS_HI 1)) = true ∧ (s.rd (tmu 0 (TMU_TD_TENS_LO 1))).toNat + fld (1 : Word) 0 8 * 2 ^ 32 = 0x01FF7CED91)),
      (let s : State := ws |>.wr (tmu 0 (TMU_TD_TENS_LO 1)) 0x0083126F
      decide (s.takes (tmu 0 (TMU_TD_TENS_HI 1)) = true ∧ (s.rd (tmu 0 (TMU_TD_TENS_LO 1))).toNat + fld (2 : Word) 0 8 * 2 ^ 32 = 0x020083126F)),
      (let s : State := ws |>.wr (tmu 0 (TMU_TD_TENS_LO 1)) 0xFF7CED90
      decide (s.takes (tmu 0 (TMU_TD_TENS_HI 1)) = true ∧ (s.rd (tmu 0 (TMU_TD_TENS_LO 1))).toNat + fld (1 : Word) 0 8 * 2 ^ 32 < 0x01FF7CED91)),
      (let s : State := ws |>.wr (tmu 0 (TMU_TD_TENS_LO 1)) 0x00831270
      decide (s.takes (tmu 0 (TMU_TD_TENS_HI 1)) = true ∧ (s.rd (tmu 0 (TMU_TD_TENS_LO 1))).toNat + fld (2 : Word) 0 8 * 2 ^ 32 > 0x020083126F))].all id = true := by decide +kernel

theorem witness_TimeStepAndTimeSetChangeADomain :
    [(let d : Fin 2 := 1
      let s : State := ws
      decide (s.takes (tmu 0 (TMU_TD_STEP d.val)) = true)),
      (let d : Fin 2 := 1
      let s : State := ws
      decide (s.takes (tmu 0 (TMU_TD_SET_SEC_HI d.val)) = true ∧ s.rdF (tmu 0 (TMU_TD_SET_NS d.val)) 0 30 < 1000000000)),
      (let d : Fin 2 := 1
      let s : State := ws |>.wr (tmu 0 (TMU_TD_SET_NS d.val)) 1000000000
      decide (s.takes (tmu 0 (TMU_TD_SET_SEC_HI d.val)) = true ∧ 1000000000 ≤ s.rdF (tmu 0 (TMU_TD_SET_NS d.val)) 0 30)),
      (let d : Fin 2 := 1
      let x : Int := 5
      let s : State := ws |> (fun (s : State) => { s with tm := { s.tm with due1 := { tens := none, set := none, step := x } } })
      let u := (s.setDue d.val TimeDue.none).advance 1
      decide (s.dieUp 0 = true ∧ s.due (1 - d.val) = TimeDue.none ∧ (s.due d.val).tens = none ∧ x ≠ 0 ∧ (s.due d.val).step = x ∧ (s.due d.val).set = none ∧ 0 ≤ (u.view 0 d.val : Int) + x ∧ (u.view 0 d.val : Int) + x < 2 ^ 48 * 1000000000)),
      (let d : Fin 2 := 1
      let x : Int := -1000000000000000000
      let s : State := ws |> (fun (s : State) => { s with tm := { s.tm with due1 := { tens := none, set := none, step := x } } })
      let u := (s.setDue d.val TimeDue.none).advance 1
      decide (s.dieUp 0 = true ∧ s.due (1 - d.val) = TimeDue.none ∧ (s.due d.val).tens = none ∧ x ≠ 0 ∧ (s.due d.val).step = x ∧ (s.due d.val).set = none ∧ (u.view 0 d.val : Int) + x < 0)),
      (let d : Fin 2 := 1
      let x : Int := 5
      let n : Nat := 5000
      let s : State := ws |> (fun (s : State) => { s with tm := { s.tm with due1 := { tens := none, set := some n, step := x } } })
      decide (s.dieUp 0 = true ∧ s.due (1 - d.val) = TimeDue.none ∧ (s.due d.val).tens = none ∧ (s.due d.val).step = x ∧ (s.due d.val).set = some n ∧ n < 2 ^ 48 * 1000000000 ∧ 0 ≤ (n : Int) + x ∧ (n : Int) + x < 2 ^ 48 * 1000000000)),
      (let s : State := ws
      decide (s.takes (tmu 0 (TMU_TD_STEP 1)) = true ∧ 0 ≤ (s.view 0 1 : Int) + (0 : Word).toInt ∧ (s.view 0 1 : Int) + (0 : Word).toInt < 2 ^ 48 * 1000000000)),
      (let s : State := ws
      decide (s.takes (tmu 0 (TMU_TD_STEP 1)) = true ∧ (s.view 0 1 : Int) + (0xFFFFFFFF : Word).toInt < 0))].all id = true := by decide +kernel

theorem witness_DomainLossSwitchesOrHolds :
    [(let d : Fin 2 := 1
      let s : State := ws
      decide (s.takes (tmu 0 (TMU_TD_CTRL d.val)) = true)),
      (let d : Fin 2 := 1
      let s : State := ws
      decide (s.takes (tmu 0 (TMU_TD_CFG d.val)) = true)),
      (let d : Fin 2 := 1
      let s : State := ws
      decide (s.dieUp 0 = true ∧ s.gm d.val = false)),
      (let d : Fin 2 := 0
      let s : State := ws |>.wrB (tmu 0 TMU_STAT) 2 false |>.wrF (tmu 0 TMU_STAT) 4 2 0 |>.wr (tmu 0 TMU_SW_MAX) 1000 |>.wrB (tmu 0 (TMU_TD_CFG 0)) 8 true
      decide (s.takes (tmu 0 TMU_CTRL) = true ∧ s.rckDom = d.val ∧ s.holdover = false ∧ s.switchable d.val = true)),
      (let d : Fin 2 := 1
      let s : State := ws |>.wrB (tmu 0 TMU_STAT) (4 + d.val) false |>.wr (tmu 0 TMU_SW_MAX) 1000
      decide (s.takes (tmu 0 TMU_CTRL) = true ∧ (s.rckDom ≠ d.val ∨ s.holdover = true) ∧ s.switchable d.val = true)),
      (let d : Fin 2 := 1
      let s : State := ws
      decide (s.takes (tmu 0 TMU_CTRL) = true ∧ s.switchable d.val = false)),
      (let s : State := ws |>.wrB (tmu 0 TMU_STAT) 2 true
      decide (s.dieUp 0 = true ∧ s.holdover = true)),
      (let d : Fin 2 := 1
      let s : State := ws |>.wrB (tmu 0 TMU_STAT) (6 + d.val) true
      decide (s.tdHold d.val = true ∧ s.dieUp 0 = true)),
      (let d : Fin 2 := 1
      let s : State := ws |>.wrB (tmu 0 TMU_STAT) (6 + d.val) true
      decide (s.tdHold d.val = true ∧ s.takes (tmu 0 (TMU_TD_CTRL d.val)) = true)),
      (let s : State := ws |>.wrF (tmu 0 TMU_STAT) 4 2 0
      decide (s.takes (tmu 0 (TMU_TD_CTRL 0)) = true ∧ s.tdLost 0 = false)),
      (let s : State := ws |>.wrF (tmu 0 TMU_STAT) 4 2 2
      let t := match exec (.domainLostSet 1 false) s with | .next t => t | _ => s
      decide (s.takes (tmu 0 (TMU_TD_CTRL 1)) = true ∧ (s.gm 1 = true → t.tdLost 1 ≠ s.tdLost 1))),
      (let s : State := ws |>.wrF (tmu 0 TMU_STAT) 4 2 0 |>.wrB (tmu 0 TMU_CTRL) 1 true |>.wr (tmu 0 TMU_SW_MAX) 1000
      let u := s.expire (lossTmr 0)
      decide (s.dieUp 0 = true ∧ s.gm 0 = false ∧ u.tdLost 0 = false ∧ u.rckDom = 0 ∧ u.rdB (tmu 0 TMU_CTRL) 1 = true ∧ u.holdover = false ∧ u.switchable 1 = true)),
      (let s : State := ws |>.wrF (tmu 0 TMU_STAT) 4 2 2 |>.wrB (tmu 0 TMU_CTRL) 1 true
      let u := s.expire (lossTmr 0)
      decide (s.dieUp 0 = true ∧ s.gm 0 = false ∧ u.tdLost 0 = false ∧ u.rckDom = 0 ∧ u.rdB (tmu 0 TMU_CTRL) 1 = true ∧ u.holdover = false ∧ u.switchable 1 = false))].all id = true := by decide +kernel

theorem witness_TimersArmExpireAndReadHalves :
    [(let d : Sys2Proof.Die := .d0
      let s : State := ws
      decide (s.dieUp (dieNum d) = true)),
      (let d : Sys2Proof.Die := .d0
      let n : Fin 4 := 1
      let s : State := ws
      decide (s.takes (tmu (dieNum d) (TMU_TMR_CTRL n.val)) = true)),
      (let d : Sys2Proof.Die := .d0
      let n : Fin 4 := 1
      let s : State := ws
      decide (s.takes (tmu (dieNum d) (TMU_TMR_TGT n.val)) = true)),
      (let d : Sys2Proof.Die := .d0
      let n : Fin 4 := 1
      let s : State := ws |>.wrB (tmu (dieNum d) (TMU_TMR_CTRL n.val)) 0 true
      decide (s.dieUp (dieNum d) = true ∧ s.rdB (tmu (dieNum d) (TMU_TMR_CTRL n.val)) 0 = true)),
      (let s : State := ws |>.wrB (tmu 0 (TMU_TMR_CTRL 1)) 0 true
      decide (s.takes (tmu 0 (TMU_TMR_TGT 1)) = true ∧ s.rdB (tmu 0 (TMU_TMR_CTRL 1)) 0 = true)),
      (let s : State := ws |>.wrB (tmu 0 (TMU_TMR_CTRL 1)) 0 true |> fun (s : State) => { s with tm := { s.tm with tmrAt := [(1, s.st 0)] } }
      decide (s.dieUp 0 = true ∧ s.rdB (tmu 0 (TMU_TMR_CTRL 1)) 0 = true ∧ Assoc.get s.tm.tmrAt 1 = some (s.st 0) ∧ Assoc.get ws.tm.tmrAt 1 = none)),
      (let s : State := ws |>.wr (tmu 0 TMU_ST) 0x7FFFFFFE
      let t := s.gain 0 (2 ^ 31 - (s.st 0).toNat % 2 ^ 31)
      decide (s.dieUp 0 = true ∧ bit (t.st 0) 31 ≠ bit (s.st 0) 31))].all id = true := by decide +kernel

theorem witness_SyncRelayedAcceptedOriginated :
    [(let rx : Rx := rx0 0
      let f : Sync := { sync0 with domain := 99 }
      let s : State := ws
      match s.ptpIn { rx with sof := s.st (rx.port.val / 32) } with
      | (t, true) =>
        decide (t.syncDomain f.domain = none)
      | _ => false),
      (let rx : Rx := rx0 0
      let f : Sync := sync0
      let s : State := ws
      match s.ptpIn { rx with sof := s.st (rx.port.val / 32) } with
      | (t, true) =>
        match t.syncDomain f.domain with
        | some _ =>
          decide (f.twoStep = false)
        | _ => false
      | _ => false),
      (let rx : Rx := rx0 5
      let f : Sync := { sync0 with twoStep := true }
      let s : State := ws |>.wrB (tmu 0 (TMU_TD_CFG 0)) 8 true
      match s.ptpIn { rx with sof := s.st (rx.port.val / 32) } with
      | (t, true) =>
        let d := 0
        decide (t.syncDomain f.domain = some d ∧ f.twoStep = true)
      | _ => false),
      (let rx : Rx := rx0 0
      let f : Sync := sync0
      let h : HeldSync := { port := 0, sync := sync0, rx16 := 0, link := 0 }
      let s : State := ws |>.wrB (tmu 0 (TMU_TD_CFG 0)) 8 true |> (fun (s : State) => { s with tm := { s.tm with twoStep := [{ port := 0, sync := sync0, rx16 := 0, link := 0 }] } })
      match s.ptpIn { rx with sof := s.st (rx.port.val / 32) } with
      | (t, true) =>
        match t.syncDomain f.domain with
        | some _ =>
          decide ((t.tm.twoStep.find? fun h => h.port == rx.port.val && h.sync.domain == f.domain && h.sync.seq == f.seq) = some h)
        | _ => false
      | _ => false),
      (let d : Fin 2 := 1
      let p : Nat := 5
      let s : State := ws |>.wrF (tmu 0 (TMU_TD_SLAVE d.val)) 0 7 5 |>.wrB (tmu 0 (TMU_TD_CAND_LO d.val)) 5 true |>.wrB (prt 5 PRT_PTP_CFG) 0 true
      decide (s.candidate d.val p = true ∧ isBackbone s.part p = false ∧ s.slave d.val = p ∧ s.syncDie p = 0)),
      (let p : Port := 5
      let n : Byte := 0
      let s : State := ws |> (fun (s : State) => { s with tm := { s.tm with twoStep := [{ port := 5, sync := sync0, rx16 := 0, link := 0 }] } })
      decide ((s.tm.twoStep.any fun h => h.port == p.val && h.sync.domain == n) = true)),
      (let d : Fin 2 := 1
      let s : State := ws |>.wrB (tmu 0 (TMU_TD_CFG d.val)) 9 true |>.wrB (tmu 0 (TMU_TD_CFG d.val)) 8 true
      decide (s.dieUp 0 = true ∧ s.gm d.val = true ∧ s.tdEnabled d.val = true)),
      (let d : Fin 2 := 1
      let s : State := ws
      decide (s.takes (tmu 0 (TMU_TD_SLAVE d.val)) = true)),
      (let s : State := ws |>.wrB (klk 0 KLK_STAT) 0 true
      decide (s.dieUp 0 = true ∧ s.dieUp 1 = true ∧ s.linkUp = true)),
      (let s : State := ws |>.wrB (tmu 0 (TMU_TD_CFG 1)) 8 true
      decide (s.takes (tmu 0 (TMU_TD_SLAVE 1)) = true ∧ s.tdEnabled 1 = true)),
      (let s : State := ws |>.wr (tmu 1 (TMU_TD_SEC_LO 0)) 1
      let u := s.expire (tmr (klk 0 KLK_STAT) 0)
      decide (s.dieUp 0 = true ∧ s.dieUp 1 = true ∧ s.linkUp = true ∧ beyond8 u.timeDiffs.1 = true ∧ u.view 0 0 < 2 ^ 48 * 1000000000 ∧ u.view 0 1 < 2 ^ 48 * 1000000000))].all id = true := by decide +kernel

theorem witness_PpsEdgesAndTimeCapture :
    [(let s : State := ws |>.wrB (tmu 0 TMU_PPS_CFG) 0 true
      decide (s.dieUp 0 = true ∧ s.rdB (tmu 0 TMU_PPS_CFG) 0 = true)),
      (let s : State := ws |>.wrB (tmu 0 TMU_PPS_CFG) 0 true |>.wr (tmu 0 (TMU_TD_SEC_LO 0)) 5
      let old : Nat := 1
      let top := if s.ppsDom = 0 then s.tm.ppsTop0 else s.tm.ppsTop1
      decide (s.rdB (tmu 0 TMU_PPS_CFG) 0 = true ∧ old < s.secs s.ppsDom ∧ top < s.secs s.ppsDom)),
      (let s : State := ws
      let old : Nat := 1
      let top := if s.ppsDom = 0 then s.tm.ppsTop0 else s.tm.ppsTop1
      decide (s.rdB (tmu 0 TMU_PPS_CFG) 0 = false ∨ s.secs s.ppsDom ≤ old ∨ s.secs s.ppsDom ≤ top)),
      (let s : State := ws |> (fun (s : State) => { s with tm := { s.tm with ppsHigh := true } })
      decide (s.dieUp 0 = true ∧ s.tm.ppsHigh = true)),
      (let s : State := ws |>.wrB (tmu 0 TMU_PPS_CFG) 16 true
      decide (s.dieUp 0 = true ∧ s.rdB (tmu 0 TMU_PPS_CFG) 16 = true)),
      (let s : State := ws
      decide (s.takes (tmu 0 TMU_SNAP_CTRL) = true))].all id = true := by decide +kernel

theorem witness_RowBoundaryStartsTheNextRow :
    [(let s : State := ws |>.wrB (sch 0 SCH_STAT) 9 true
      decide (s.dieUp 0 = true ∧ s.run = true))].all id = true := by decide +kernel

theorem witness_StitchDecidedOnceForSkeinOrNull :
    [(let d : Sys2Proof.Die := .d0
      let sid : Fin 4096 := 1
      let s : State := ws |>.wrB (sch 0 SCH_STAT) 9 true |> entryAt 0 1 10000 1 500 5
      match s.rowFor sid.val (s.knitLead (dieNum d)) (fun u => u.knitDone (dieNum d) sid.val) with
      | some (_, _) =>
        decide (s.dieUp 0 = true ∧ s.dieUp (dieNum d) = true ∧ s.run = true)
      | _ => false),
      (let sid : Fin 4096 := 1
      let s : State := ws |>.wrB (sch 0 SCH_STAT) 9 true |> entryAt 0 1 10000 1 500 5 |> (fun (s : State) => { s with sc := { s.sc with decided := [{ row := 0, prf := 0, sid := 1, active := true, own := .skein, own1 := .none, skipped := false }] } })
      match s.rowFor sid.val s.nullLead (fun u => (u.decision u.row u.actPrf sid.val).isSome) with
      | some (v, _) =>
        decide (s.dieUp 0 = true ∧ s.run = true ∧ s.decision v.row v.actPrf sid.val ≠ none)
      | _ => false),
      (let sid : Fin 4096 := 1
      let s : State := ws |>.wrB (sch 0 SCH_STAT) 9 true |> entryAt 0 1 10000 1 500 6
      match s.rowFor sid.val s.nullLead (fun u => (u.decision u.row u.actPrf sid.val).isSome) with
      | some (v, _) =>
        decide (s.dieUp 0 = true ∧ s.run = true ∧ s.decision v.row v.actPrf sid.val = none)
      | _ => false),
      (let sid : Nat := 1
      let s : State := ws |> entryAt 0 1 1000 1 500 5 |>.wr (tmu 0 TMU_ST) 100000
      let v : State := s
      let e : Stitch := s.entry 0 1
      let target := v.stitchSt e - wordOf s.nullLead
      let t := (s.reachSt target).evalMute
      let act := v.entryActive v.row v.actBank v.actPrf sid e (v.pollFor v.thisRow e)
      decide ((act && t.serves && v.ownsSend sid e) = true ∧ (target - s.st 0).toInt < -8)),
      (let sid : Nat := 1
      let s : State := ws |> entryAt 0 1 10000 1 500 5
      let v : State := s
      let e : Stitch := s.entry 0 1
      let target := v.stitchSt e - wordOf s.nullLead
      let t := (s.reachSt target).evalMute
      let act := v.entryActive v.row v.actBank v.actPrf sid e (v.pollFor v.thisRow e)
      decide ((act && t.serves && v.ownsSkein sid e) = true ∧ -8 ≤ (target - s.st 0).toInt)),
      (let sid : Nat := 1
      let s : State := ws
      let v : State := ws
      let e : Stitch := stitchOf 0 0 0 0
      let target := v.stitchSt e - wordOf s.nullLead
      let t := (s.reachSt target).evalMute
      let act := v.entryActive v.row v.actBank v.actPrf sid e (v.pollFor v.thisRow e)
      decide ((act && t.serves && v.ownsSend sid e) = false)),
      (let sid : Nat := 1
      let s : State := ws |> entryAt 0 1 10000 1 500 6
      let v : State := s
      let e : Stitch := s.entry 0 1
      let target := v.stitchSt e - wordOf s.nullLead
      decide (v.ownsSkein sid e = false ∧ -8 ≤ (target - s.st 0).toInt)),
      (let sid : Nat := 1
      let s : State := ws |> (fun (s : State) => { s with dk := { s.dk with knits := [{ die := 0, row := 0, sid := 1, skein := 1, need := false, strands := [] }, { die := 1, row := 0, sid := 1, skein := 1, need := false, strands := [] }] } }) |> entryAt 0 1 10000 1 5000 5
      let v : State := s
      let e : Stitch := s.entry 0 1
      decide (s.reasons v sid e = (none, none) ∧ s.mutedOn 0 = false ∧ s.mutedOn 1 = false)),
      (let s : State := ws |>.wrB (sch 0 SCH_STAT) 8 true |>.wrB (sch 1 SCH_STAT) 8 true
      decide (s.mutedOn 0 = true ∧ s.mutedOn 1 = true)),
      (let sid : Nat := 1
      let s : State := ws |>.wrB (sch 0 SCH_STAT) 8 false |> solo |> entryAt 0 1 10000 1 500 5 |>.wrB (sch 0 SCH_CTRL) 0 true
      let v : State := s
      let e : Stitch := s.entry 0 1
      match s.nullReason v 0 sid e v.actSelv with
      | some _ =>
        decide (s.dieUp 1 = false ∧ s.muted = false)
      | _ => false),
      (let s : State := ws |> (fun (s : State) => { s with sc := { s.sc with hold := true } })
      decide (s.sc.hold = true)),
      (let s : State := ws |> (fun (s : State) => { s with sc := { s.sc with hold := false } }) |> entryAt 0 1 10000 1 500 5 |>.wrB (sch 0 SCH_CTRL) 0 true
      decide (s.sc.hold = false ∧ bit (s.eff (sch 0 SCH_CTRL)) 0 = true)),
      (let d : Nat := 1
      let sid : Nat := 1
      let s : State := ws |> (fun (s : State) => { s with sc := { s.sc with hold := false } }) |> (fun (s : State) => { s with sc := { s.sc with hold := false } })
      let v : State := s
      decide (s.sc.hold = false ∧ bit (s.eff (sch 0 SCH_CTRL)) 0 = false ∧ s.knitOf v.row sid d = none))].all id = true := by decide +kernel

theorem witness_SkeinsSentReceivedAndMissed :
    [(let sid : Fin 4096 := 1
      let s : State := ws |>.wrB (sch 0 SCH_STAT) 9 true |> entryAt 0 1 10000 1 5000 5 |> (fun (s : State) => { s with sc := { s.sc with decided := [{ row := 0, prf := 0, sid := 1, active := true, own := .skein, own1 := .skein, skipped := false }] } }) |> (fun (s : State) => { s with dk := { s.dk with knits := [{ die := 0, row := 0, sid := 1, skein := 1, need := false, strands := [strand0] }, { die := 1, row := 0, sid := 1, skein := 1, need := false, strands := [strand0] }] } })
      let d : Decision := { row := 0, prf := 0, sid := 1, active := true, own := .skein, own1 := .skein, skipped := false }
      let e : Stitch := s.entry 0 1
      decide (s.toSend sid.val = some d ∧ s.prfEntry d.prf sid.val = some e ∧ s.dieUp 0 = true ∧ s.run = true)),
      (let sid : Fin 4096 := 1
      let s : State := ws |>.wrB (sch 0 SCH_STAT) 9 true |>.wr (sch 0 SCH_ROW) 1 |> entryAt 0 1 10000 1 5000 6 |>.setTws (entryAddr 0 1) [wordOf (10000 + 2^26), wordOf (5000 + 6 * 2^20), wordOf (7 * 2^16), 0] |> (half (consMapAddr 0 0 7) 0x8001) |>.setTws (ctxWord 0 3 0) [0x1000000, 0, 7, 0]
      let u := s.reachSt (s.rd (sch 0 SCH_ROW_ST) + wordOf (s.tspan 0))
      match u.missed sid.val with
      | some _ =>
        decide (s.dieUp 0 = true ∧ s.run = true)
      | _ => false),
      (let sid : Fin 4096 := 1
      let s : State := ws |>.wrB (sch 0 SCH_STAT) 9 true
      let u := s.reachSt (s.rd (sch 0 SCH_ROW_ST) + wordOf (s.tspan 0))
      decide (s.dieUp 0 = true ∧ s.run = true ∧ u.missed sid.val = none)),
      (let s : State := ws |> solo |> entryAt 0 1 10000 1 500 3 |>.setTws (ctxWord 0 3 0) [0x1000000, 0, 0, 0] |> (fun (s : State) => s.setTw (ctxWord 0 3 2) (wordOf (s.entry 0 1).ident))
      let e : Stitch := s.entry 0 1
      decide (s.dies = [0] ∧ s.expecting 0 e.ident ≠ [])),
      (let rx : Rx := rx0 0
      let h : Hdr := hd 4
      let q : BitVec 16 := 1
      let b : Skein := { skein := 1, need := false, strands := [strand0] }
      let s : State := ws |> (half (consMapAddr 0 0 1) 0x8001) |>.setTw (recWord 0 1 0) 0x8000
      match s.takeStitch rx h 0x04 (fun t => t.ownSender h.sender.toNat) (some q) (.skein b) true with
      | (t, true) =>
        match (t.noteHeard h.row h.sid.toNat).recoverOn (rx.port.val / 32) b.skein q with
        | (_, some _) =>
          decide (t.run = true)
        | _ => false
      | _ => false),
      (let rx : Rx := rx0 0
      let h : Hdr := hd 3
      let q : BitVec 16 := 1
      let b : NullBody := null0
      let s : State := ws |> (half (consMapAddr 0 0 1) 0x8001) |>.setTw (recWord 0 1 0) 0x8000
      match s.takeStitch rx h 0x03 (fun t => t.ownSender h.sender.toNat) (some q) (.null b) true with
      | (t, true) =>
        match (t.noteHeard h.row h.sid.toNat).recoverOn (rx.port.val / 32) b.skein q with
        | (_, some _) =>
          decide (t.run = true)
        | _ => false
      | _ => false),
      (let rx : Rx := rx0 0
      let h : Hdr := hd 5
      let q : BitVec 16 := 1
      let b : Skein := { skein := 1, need := false, strands := [strand0] }
      let s : State := ws
      match s.takeStitch rx h 0x04 (fun t => t.ownSender h.sender.toNat) (some q) (.skein b) true with
      | (_, false) =>
        true
      | _ => false),
      (let rx : Rx := rx0 5
      let h : Hdr := hd 3
      let q : BitVec 16 := 1
      let c : NullBody := null0
      let s : State := ws
      match s.takeStitch rx h 0x03 (fun t => t.ownSender h.sender.toNat) (some q) (.null c) true with
      | (_, false) =>
        true
      | _ => false)].all id = true := by decide +kernel

theorem witness_GuardianEndsOwnFrameAtSlotEnd :
    [(let p : Port := 0
      let s : State := ws |> (fun (s : State) => { s with sc := { s.sc with sending := [(0, 1)] } })
      match (s.sc.sending.find? fun e => e.1 == p.val) with
      | some _ =>
        decide (s.portOn p.val = true)
      | _ => false),
      (let p : Port := 0
      let s : State := ws
      decide ((s.sc.sending.find? fun e => e.1 == p.val) = none))].all id = true := by decide +kernel

theorem witness_ReceivedFramesPassChecks :
    [(let rx : Rx := rx0 5
      let h : Hdr := hd 1
      let s : State := ws
      decide (isBackbone s.part rx.port.val = false ∨ h.l2.etype ≠ s.slEtype)),
      (let rx : Rx := rx0 0
      let h : Hdr := hd 1
      let k : Byte := 1
      let s : State := ws
      let (_, a) := s.takeSl rx h k
      decide (a ≠ .none)),
      (let rx : Rx := rx0 5
      let h : Hdr := hd 1
      let k : Byte := 1
      let s : State := ws
      let (_, a) := s.takeSl rx h k
      decide (a = .none)),
      (let rx : Rx := rx0 0
      let h : Hdr := hd 1
      let k : Byte := 1
      let m : State → Bool := fun _ => true
      let s : State := ws
      let (t, a) := s.takeSl rx h k
      decide (a ≠ .none ∧ m t = true)),
      (let rx : Rx := rx0 0
      let h : Hdr := hd 1
      let k : Byte := 1
      let m : State → Bool := fun _ => false
      let q : Option (BitVec 16) := none
      let b : Body := .null null0
      let sched : Bool := true
      let s : State := ws
      match s.takeStitch rx h k m q b sched with
      | (_, true) =>
        true
      | _ => false)].all id = true := by decide +kernel

theorem witness_RowStartSentTakenAndLost :
    [(let s : State := ws |>.wrB (sch 0 SCH_STAT) 9 true |>.wrB (sch 0 SCH_STAT) 12 true
      match s.actSlot with
      | some _ =>
        decide (s.dieUp 0 = true ∧ s.run = true ∧ s.needle = true ∧ s.sc.yieldLeft ≠ some 0)
      | _ => false),
      (let rx : Rx := rx0 0
      let h : Hdr := hd 0x01
      let b : RowStart := rs0
      let s : State := ws |>.wrB (sch 0 SCH_STAT) 12 true
      let (t, a) := s.takeSl rx h 0x01
      decide (a ≠ .none ∧ (t.needle || t.circled rx.port.val h b) = true)),
      (let rx : Rx := rx0 0
      let h : Hdr := hd 0x01
      let b : RowStart := rs0
      let s : State := ws
      let (t, a) := s.takeSl rx h 0x01
      decide (a ≠ .none ∧ (t.needle || t.circled rx.port.val h b) = false)),
      (let s : State := ws |>.wrB (sch 0 SCH_STAT) 9 true |>.wrB (sch 0 SCH_STAT) 12 false |>.wrF (sch 0 SCH_CS_STAT) 0 3 csMember |> (fun (s : State) => { s with sc := { s.sc with rsMiss := 3 } })
      decide (s.dieUp 0 = true ∧ s.run = true ∧ s.needle = false ∧ s.cs = csMember ∧ 3 ≤ s.sc.rsMiss)),
      (let s : State := ws |>.wrB (sch 0 SCH_STAT) 9 true |>.wrB (sch 0 SCH_STAT) 12 false |>.wrF (sch 0 SCH_CS_STAT) 0 3 csMember |> (fun (s : State) => { s with sc := { s.sc with rsMiss := 2 } }) |>.wrB (sch 0 SCH_STAT) 13 false
      decide (s.dieUp 0 = true ∧ s.run = true ∧ s.needle = false ∧ s.cs = csMember ∧ s.sc.rsMiss = 2 ∧ s.rdB (sch 0 SCH_STAT) 13 = false)),
      (let s : State := ws |>.wrB (sch 0 SCH_STAT) 9 true |>.wrB (sch 0 SCH_STAT) 12 true
      decide (s.dieUp 0 = true ∧ s.run = true ∧ s.needle = true ∧ s.row.toNat % 2 ^ s.rdF (sch 0 SCH_CS_CFG) 16 4 = 0)),
      (let s : State := ws |>.wrB (sch 0 SCH_STAT) 9 true |> (fun (s : State) => { s with sc := { s.sc with yieldLeft := some (max 1 (s.rdF (sch 0 SCH_CS_CFG) 20 4)) } }) |> (fun (s : State) => { s with sc := { s.sc with yieldSent := false } }) |> (fun (s : State) => { s with sc := { s.sc with yieldLeft := some 2 } }) |>.wrF (sch 0 SCH_CS_CFG) 20 4 2
      match s.toGap 66 with
      | some _ =>
        decide (s.dieUp 0 = true ∧ s.run = true ∧ s.sc.yieldLeft = some (max 1 (s.rdF (sch 0 SCH_CS_CFG) 20 4)) ∧ s.sc.yieldSent = false)
      | _ => false),
      (let s : State := ws |>.wrB (sch 0 SCH_STAT) 12 true |> (fun (s : State) => { s with sc := { s.sc with yieldLeft := some 0 } })
      decide (s.dieUp 0 = true ∧ s.needle = true ∧ s.sc.yieldLeft = some 0))].all id = true := by decide +kernel

theorem witness_ColdStartStatesAndTransitions :
    [(let s : State := ws |>.wrF (sch 0 SCH_CS_STAT) 0 3 csListen |>.wr (sch 0 SCH_MAP0) 0
      let u := s.reachSt (s.sc.csSince + s.rd (sch 0 SCH_CS_TMO) * 1000)
      decide (s.dieUp 0 = true ∧ s.connected = true ∧ s.cs = csListen ∧ s.capable = true ∧ u.csUnfit = true)),
      (let s : State := ws |>.wrF (sch 0 SCH_CS_STAT) 0 3 csListen
      let u := s.reachSt (s.sc.csSince + s.rd (sch 0 SCH_CS_TMO) * 1000)
      decide (s.dieUp 0 = true ∧ s.connected = true ∧ s.cs = csListen ∧ s.capable = true ∧ u.csUnfit = false)),
      (let rx : Rx := rx0 0
      let h : Hdr := hd 2
      let b : ColdStart := { cst0 with uid := 0 }
      let s : State := ws
      let (t, a) := s.takeSl rx h 0x02
      decide (a ≠ .none ∧ b.uid = t.uid)),
      (let rx : Rx := rx0 0
      let h : Hdr := hd 0x02
      let b : ColdStart := cst0
      let s : State := ws
      let (t, a) := s.takeSl rx h 0x02
      decide (a ≠ .none ∧ b.uid ≠ t.uid ∧ a = .good)),
      (let rx : Rx := { rx0 0 with fcsOk := false }
      let h : Hdr := hd 2
      let b : ColdStart := cst0
      let s : State := ws
      let (t, a) := s.takeSl rx h 0x02
      decide (a ≠ .none ∧ b.uid ≠ t.uid ∧ a = .bad)),
      (let b : ColdStart := cst0
      let s : State := ws |>.wrF (sch 0 SCH_CS_STAT) 0 3 csListen
      decide (b.kind ≠ .needle ∧ s.cs = csListen)),
      (let b : ColdStart := cst0
      let s : State := ws |>.wrF (sch 0 SCH_CS_STAT) 0 3 3 |>.wr (sch 0 SCH_CS_UID_LO) 99
      decide (b.kind ≠ .needle ∧ (s.cs = csColdWait ∨ s.cs = csSettle) ∧ b.uid.toNat < s.uid.toNat)),
      (let b : ColdStart := cst0
      let s : State := ws |>.wrF (sch 0 SCH_CS_STAT) 0 3 csColdWait |>.wr (sch 0 SCH_CS_UID_LO) 7
      decide (b.kind ≠ .needle ∧ s.cs = csColdWait ∧ s.uid.toNat ≤ b.uid.toNat)),
      (let b : ColdStart := cst0
      let s : State := ws |>.wrF (sch 0 SCH_CS_STAT) 0 3 csSettle
      decide (b.kind ≠ .needle ∧ s.cs = csSettle ∧ s.uid.toNat ≤ b.uid.toNat)),
      (let s : State := ws |>.wrF (sch 0 SCH_CS_STAT) 0 3 csColdWait
      decide (s.dieUp 0 = true ∧ s.connected = true ∧ s.cs = csColdWait)),
      (let s : State := ws |>.wrF (sch 0 SCH_CS_STAT) 0 3 2
      decide (s.dieUp 0 = true ∧ s.connected = true ∧ (s.cs = csColdWait ∨ s.cs = csSettle))),
      (let s : State := ws |>.wrF (sch 0 SCH_CS_STAT) 0 3 csFollow
      decide (s.dieUp 0 = true ∧ s.connected = true ∧ s.cs = csFollow)),
      (let s : State := ws |>.wrF (sch 0 SCH_CS_STAT) 0 3 csVerify
      decide (s.dieUp 0 = true ∧ s.connected = true ∧ s.cs = csVerify)),
      (let s : State := ws |>.wrF (sch 0 SCH_CS_STAT) 0 3 csResync
      decide (s.dieUp 0 = true ∧ s.connected = true ∧ s.cs = csResync)),
      (let s : State := ws |> inMode .castOn
      decide (s.mode = .castOn))].all id = true := by decide +kernel

theorem witness_MarkersLatchOutputsAndSampleInputs :
    [(let s : State := ws |>.wrB (sch 0 SCH_STAT) 9 true |>.setTws (entryAddr 0 1) [wordOf (1000 + 9 * 2^26), 0, 0, 0]
      match s.markerSt 0 with
      | some st =>
        decide (s.dieUp 0 = true ∧ s.run = true ∧ s.sc.marks.getLsbD 0 = false ∧ (s.sc.adoptSt.all fun a => decide (stLater a st = false)) = true)
      | _ => false),
      (let s : State := ws |>.wrB (sch 0 SCH_STAT) 9 true |>.setTws (entryAddr 0 1) [wordOf (1000 + 9 * 2^26), 0, 0, wordOf 1024]
      match s.markerSt 1 with
      | some st =>
        decide (s.dieUp 0 = true ∧ s.run = true ∧ s.sc.marks.getLsbD 1 = false ∧ (s.sc.adoptSt.all fun a => decide (stLater a st = false)) = true)
      | _ => false),
      (let s : State := ws |>.setTws (entryAddr 0 1) [wordOf (1000 + 9 * 2^26), 0, 0, 0] |>.setTws (entryAddr 0 2) [wordOf (1000 + 9 * 2^26), 0, 0, wordOf 1024] |> (fun (s : State) => { s with sc := { s.sc with marks := 3 } })
      match s.markerSt 0 with
      | some st =>
        decide (s.markerSt 1 = some st ∧ (s.sc.marks = 3 ∨ (∃ a, s.sc.adoptSt = some a ∧ stLater a st = true)))
      | _ => false),
      (let s : State := ws |>.wrB (sch 0 SCH_STM_CFG) 16 true
      let n := 0
      decide (s.drives = true ∧ n < 8 ∧ (s.rdB (sch 0 SCH_STM_OUT_NEXT) n || s.rdB (sch 0 SCH_STM_CFG) (16 + n)) = true)),
      (let s : State := ws |> (fun (s : State) => { s with sc := { s.sc with hold := true } })
      decide (s.drives = false)),
      (let n : Fin 8 := 1
      let s : State := ws |> (fun (s : State) => { s with sc := { s.sc with stmOut := s.sc.stmOut ||| BitVec.ofNat _ (2 ^ (n.val : Nat)) } })
      decide (s.sc.stmOut.getLsbD n.val = true)),
      (let s : State := ws
      decide (s.dieUp 0 = true)),
      (let s : State := ws
      decide (s.takes (sch 0 SCH_GPIO_DIR) = true)),
      (let s : State := ws
      decide (s.takes (sch 0 SCH_GPIO_OUT_NEXT) = true)),
      (let s : State := ws |>.setTws (entryAddr 0 1) [wordOf (1000 + 9 * 2^26), 0, 0, 0] |>.wr (tmu 0 TMU_ST) 9000
      match s.markerSt 0 with
      | some st =>
        decide (s.dieUp 0 = true ∧ s.run = true ∧ s.sc.marks.getLsbD 0 = false ∧ s.sc.adoptSt = none ∧ stLater (s.st 0) (st + 8) = true)
      | _ => false)].all id = true := by decide +kernel

theorem witness_SlotsCheckedAndSchedulesSwapped :
    [(let a : Nat := entryAddr 0 0
      let s : State := ws
      match schWinOf a with
      | some (_, _) =>
        decide (s.takes a = true)
      | _ => false),
      (let a : Nat := sch 0 SCH_MAP1
      let s : State := ws
      decide (schWinOf a = none ∧ schTableReg a = true ∧ s.takes a = true)),
      (let sl : Nat := 0
      let s : State := ws
      decide (s.slotMapped sl = true)),
      (let sl : Nat := 1
      let s : State := ws
      decide (s.slotMapped sl = false ∧ sl < 8)),
      (let s : State := ws |>.wrB (sch 0 SCH_CHK_STAT) 31 false
      decide (s.takes (sch 0 SCH_CHK) = true ∧ s.rdB (sch 0 SCH_CHK_STAT) 31 = false)),
      (let s : State := ws |>.wrB (sch 0 SCH_CHK_STAT) 31 true
      decide (s.takes (sch 0 SCH_CHK) = true ∧ s.rdB (sch 0 SCH_CHK_STAT) 31 = true)),
      (let s : State := ws |>.wrB (sch 0 SCH_CHK_STAT) 31 true
      decide (s.dieUp 0 = true ∧ s.rdB (sch 0 SCH_CHK_STAT) 31 = true ∧ s.sc.chkSlot < 8)),
      (let s : State := ws
      decide (s.takes (sch 0 SCH_SWAP) = true)),
      (let p : Nat := 1
      let s : State := ws |>.wrB (sch 0 SCH_STAT) 12 false
      decide (p < 8 ∧ (s.needle = false ∨ s.slotOf s.actBank p = none))),
      (let p : Nat := 0
      let s : State := ws |>.wrB (sch 0 SCH_STAT) 12 true |>.wr (sch 0 SCH_SWAP_ROW) 9
      decide (p < 8 ∧ s.needle = true ∧ s.slotOf s.actBank p ≠ none ∧ 1 ≤ (s.rd (sch 0 SCH_SWAP_ROW) - s.row).toInt)),
      (let p : Nat := 0
      let s : State := ws |>.wrB (sch 0 SCH_STAT) 12 true |>.wr (sch 0 SCH_ROW) 9
      decide (p < 8 ∧ s.needle = true ∧ s.slotOf s.actBank p ≠ none ∧ (s.rd (sch 0 SCH_SWAP_ROW) - s.row).toInt < 1))].all id = true := by decide +kernel

theorem witness_GuardsPoliceAndFencePorts :
    [(let rx : Rx := { rx0 5 with fcsOk := false }
      let e : Eth := eth0
      let s : State := ws
      match s.macRx rx e with
      | (_, false) =>
        decide (hasGuard s.part rx.port.val = true ∧ s.portOn rx.port.val = true)
      | _ => false),
      (let rx : Rx := rx0 5
      let e : Eth := { eth0 with etype := 0x8808 }
      let k : ConsistKind := .macControl
      let s : State := ws
      match s.macRx rx e with
      | (t, true) =>
        decide (hasGuard s.part rx.port.val = true ∧ s.portOn rx.port.val = true ∧ t.kindOf e k = .macControl)
      | _ => false),
      (let rx : Rx := rx0 5
      let e : Eth := eth0
      let k : ConsistKind := .other
      let s : State := ws |>.wrB (prt 5 PRT_GRD_STAT) 0 true
      match s.macRx rx e with
      | (t, true) =>
        decide (hasGuard s.part rx.port.val = true ∧ s.portOn rx.port.val = true ∧ t.kindOf e k ≠ .macControl ∧ t.ingressShut rx = true)
      | _ => false),
      (let rx : Rx := rx0 5
      let e : Eth := eth0
      let k : ConsistKind := .other
      let s : State := ws
      match s.macRx rx e with
      | (t, true) =>
        decide (hasGuard s.part rx.port.val = true ∧ s.portOn rx.port.val = true ∧ t.kindOf e k ≠ .macControl ∧ t.ingressShut rx = false)
      | _ => false),
      (let rx : Rx := rx0 5
      let s : State := ws
      decide (isBackbone s.part rx.port.val = false)),
      (let rx : Rx := rx0 0
      let e : Eth := eth0
      let s : State := ws
      let t : State := (s.takeRx rx (match portSa s.part rx.port.val with | some (d, m) => s.secExempt d m (.eth e) | none => true)).1
      let free := (match portSa s.part rx.port.val with | some (d, m) => s.secExempt d m (.eth e) | none => true)
      decide (isBackbone s.part rx.port.val = true ∧ e.etype ≠ 0x8808 ∧ s.takeRx rx free = (t, .good))),
      (let p : Nat := 5
      let n : Nat := 100
      let end0 : Nat := 1
      let start : Word := 1
      let cfg : Word := 1
      let s : State := ws |>.wr (prt 5 PRT_POL_RATE) 100 |>.wr (prt 5 PRT_POL_BURST) 2000 |>.wr (prt 5 PRT_POL_TOKENS) 300
      let rate := polRate cfg (s.effAt start (prt p PRT_POL_RATE))
      let burst := fld (s.effAt start (prt p PRT_POL_BURST)) 0 20
      let t := s.fill p rate burst end0
      decide (n ≤ t.rdF (prt p PRT_POL_TOKENS) 0 20 ∧ rate ≠ 0xFFFF)),
      (let p : Nat := 5
      let n : Nat := 100
      let end0 : Nat := 0
      let start : Word := 1
      let cfg : Word := 1
      let s : State := ws |>.wr (prt 5 PRT_POL_RATE) 100 |>.wr (prt 5 PRT_POL_BURST) 2000 |>.wr (prt 5 PRT_POL_TOKENS) 30
      let rate := polRate cfg (s.effAt start (prt p PRT_POL_RATE))
      let burst := fld (s.effAt start (prt p PRT_POL_BURST)) 0 20
      let t := s.fill p rate burst end0
      decide (t.rdF (prt p PRT_POL_TOKENS) 0 20 < n)),
      (let p : Nat := 5
      let n : Nat := 3000
      let start : Word := 1
      let s : State := ws |>.wr (prt 5 PRT_POL_RATE) 0xFFFF |>.wr (prt 5 PRT_POL_BURST) 2000 |>.wr (prt 5 PRT_POL_TOKENS) 30
      let burst := fld (s.effAt start (prt p PRT_POL_BURST)) 0 20
      decide (burst < n)),
      (let p : Port := 5
      let s : State := ws
      decide (s.takes (prt p.val PRT_GRD_CTRL) = true ∧ hasGuard s.part p.val = true)),
      (let p : Port := 5
      let s : State := ws |>.wrB (prt p.val PRT_GRD_STAT) 1 false |>.wrB (prt p.val PRT_GRD_STAT) 2 false |>.wrB (prt 5 PRT_GRD_STAT) 0 true
      decide (hasGuard s.part p.val = true ∧ s.dieUp (p.val / 32) = true ∧ s.rdF (prt p.val PRT_GRD_HOLDOFF) 0 24 ≠ 0 ∧ s.rdB (prt p.val PRT_GRD_STAT) 1 = false ∧ s.rdB (prt p.val PRT_GRD_STAT) 2 = false ∧ s.fenced p.val = true)),
      (let s : State := ws
      decide (s.takes (prt 5 PRT_GRD_CTRL) = true ∧ hasGuard s.part 5 = true ∧ s.fenced 5 = false)),
      (let s : State := ws |>.wrB (prt 5 PRT_GRD_STAT) 0 true
      decide (s.takes (prt 5 PRT_GRD_CTRL) = true ∧ hasGuard s.part 5 = true ∧ s.fenced 5 = true))].all id = true := by decide +kernel

theorem witness_PollsSentAndReplyWindowsClosed :
    [(let sid : Fin 4096 := 1
      let s : State := ws |>.wrB (sch 0 SCH_STAT) 9 true |>.wrB (sch 0 SCH_STAT) 8 false |>.setTws (entryAddr 0 1) [wordOf (1000 + 2 * 2^26), wordOf (500 + 5 * 2^20), 32, 0]
      match s.actSlot with
      | some _ =>
        match s.actEntry sid.val with
        | some e =>
          decide (s.dieUp 0 = true ∧ s.run = true ∧ s.serves = true ∧ e.kind = kPoll ∧ s.ownNum (s.ownerNow sid.val e) = true ∧ s.muted = false ∧ s.mayServe sid.val e = true ∧ (s.cn.polls.any fun q => q.row == s.row && q.sid == sid.val) = false)
        | _ => false
      | _ => false),
      (let p : Nat := 1
      let e : Stitch := stitchOf 0 0 0 0
      let s : State := ws
      decide (s.link p = false ∨ (s.tb (pollDev (p / 32) e.ident + 8)).getLsbD 0 = false)),
      (let sid : Fin 4096 := 2
      let s : State := ws |>.wrB (sch 0 SCH_STAT) 9 true |>.wr (sch 0 SCH_ROW) 4 |>.setTws (entryAddr 0 1) [wordOf (1000 + 2 * 2^26), wordOf (500 + 5 * 2^20), 32, 0, wordOf (2000 + 3 * 2^26), wordOf (500 + 5 * 2^20), 32, 0] |> (fun (s : State) => { s with cn := { s.cn with closed := [(3, 2)] } })
      match s.replyDue s.row s.thisRow sid.val with
      | some (_, _) =>
        decide (s.dieUp 0 = true ∧ s.run = true ∧ s.serves = true ∧ s.replyDue (s.row - 1) s.lastRow sid.val = none)
      | _ => false),
      (let sid : Fin 4096 := 2
      let s : State := ws |>.wrB (sch 0 SCH_STAT) 9 true |>.wr (sch 0 SCH_ROW) 4 |>.setTws (entryAddr 0 1) [wordOf (1000 + 2 * 2^26), wordOf (500 + 5 * 2^20), 32, 0, wordOf (2000 + 3 * 2^26), wordOf (500 + 5 * 2^20), 32, 0]
      match s.replyDue (s.row - 1) s.lastRow sid.val with
      | some (sl, e) =>
        decide (s.dieUp 0 = true ∧ s.run = true ∧ s.serves = true ∧ (stDiff (s.rd (sch 0 SCH_ROW_ST)) s.sc.prevRowSt).toNat < e.startNs + e.lenNs + s.selv sl)
      | _ => false),
      (let row : Word := 1
      let sid : Nat := 1
      let x : Strand := strand0
      let q : ReplyGot := { row := 1, sid := 1, port := 5, strand := some strand0 }
      let s : State := ws |> (fun (s : State) => { s with cn := { s.cn with replies := [{ row := 1, sid := 1, port := 5, strand := some strand0 }] } })
      decide (q.strand = some x ∧ (s.cn.replies.find? fun q => q.row == row && q.sid == sid && q.strand.isSome) = some q)),
      (let row : Word := 1
      let sid : Nat := 1
      let p : Nat := 5
      let ps : List Nat := []
      let s : State := ws |>.setTws (entryAddr 0 1) [wordOf (1000 + 3 * 2^26), wordOf (500 + 5 * 2^20), 32, 0]
      let e : Stitch := s.entry 0 1
      decide (s.maskPorts e = p :: ps ∧ (s.cn.replies.find? fun q => q.row == row && q.sid == sid && q.strand.isSome) = none)),
      (let sl : Nat := 1
      let e : Stitch := stitchOf 0 0 0 0
      let s : State := ws
      decide ((s.maskPorts e).all (fun p => s.wasFenced p (e.lenNs + s.selv sl)) = true)),
      (let row : Word := 1
      let sl : Nat := 0
      let sid : Nat := 2
      let s : State := ws |>.setTws (entryAddr 0 1) [wordOf (1000 + 2 * 2^26), wordOf (500 + 5 * 2^20), 0x20, 0] |>.setTws (entryAddr 0 2) [wordOf (2000 + 3 * 2^26), wordOf (500 + 5 * 2^20), 0x20, 0]
      let e : Stitch := s.entry 0 2
      let polled (i : Nat) : Bool := s.cn.polls.any fun q => q.row == row && q.sid == i
      let i := 1
      decide ((s.maskPorts e).all (fun p => s.wasFenced p (e.lenNs + s.selv sl)) = false ∧ s.pollOf sl sid = some i ∧ polled i = false)),
      (let row : Word := 0
      let sl : Nat := 0
      let sid : Nat := 2
      let s : State := ws |>.setTws (entryAddr 0 1) [wordOf (1000 + 2 * 2^26), wordOf (500 + 5 * 2^20), 0x20, 0] |>.setTws (entryAddr 0 2) [wordOf (2000 + 3 * 2^26), wordOf (500 + 5 * 2^20), 0x20, 0] |> (fun (s : State) => { s with cn := { s.cn with polls := [{ row := 0, port := 5, sid := 1, pseq := 1 }] } })
      let e : Stitch := s.entry 0 2
      let polled (i : Nat) : Bool := s.cn.polls.any fun q => q.row == row && q.sid == i
      let i := 1
      decide ((s.maskPorts e).all (fun p => s.wasFenced p (e.lenNs + s.selv sl)) = false ∧ s.pollOf sl sid = some i ∧ polled i = true)),
      (let sl : Nat := 1
      let sid : Nat := 1
      let s : State := ws |>.setTws (entryAddr 0 1) [wordOf (1000 + 3 * 2^26), wordOf (500 + 5 * 2^20), 32, 0]
      let e : Stitch := s.entry 0 1
      decide ((s.maskPorts e).all (fun p => s.wasFenced p (e.lenNs + s.selv sl)) = false ∧ s.pollOf sl sid = none))].all id = true := by decide +kernel

theorem witness_LinksGatesAndTransmission :
    [(let p : Port := 0
      let s : State := ws
      decide (s.portOn p.val = true ∧ s.link p.val = false)),
      (let p : Port := 5
      let s : State := ws |>.wr (prt 5 PRT_LINK_STAT) 1
      decide (s.dieUp (p.val / 32) = true ∧ s.link p.val = true ∧ isBackbone s.part p.val = false)),
      (let p : Port := 0
      let s : State := ws |>.wr (prt 0 PRT_LINK_STAT) 1
      decide (s.dieUp (p.val / 32) = true ∧ s.link p.val = true ∧ isBackbone s.part p.val = true)),
      (let p : Port := 5
      let s : State := ws |>.wr (prt 5 PRT_LINK_STAT) 1
      match (s.reap p.val).pick p.val with
      | (_, none) =>
        decide (s.egressOn p.val = true ∧ (isBackbone s.part p.val = false ∨ (s.reap p.val).turnAt p.val = .none) ∧ ((s.reap p.val).fw.sending.find? fun x => x.ent.port == p.val) = none ∧ (s.reap p.val).freeAt p.val (s.reap p.val).now = (s.reap p.val).now)
      | _ => false),
      (let p : Port := 5
      let s : State := ws |> (fun (s : State) => { s with fw := { s.fw with queue := [qent0] } }) |>.wr (prt 5 PRT_LINK_STAT) 1
      match (s.reap p.val).pick p.val with
      | (_, some _) =>
        decide (s.egressOn p.val = true ∧ (isBackbone s.part p.val = false ∨ (s.reap p.val).turnAt p.val = .none) ∧ ((s.reap p.val).fw.sending.find? fun x => x.ent.port == p.val) = none ∧ (s.reap p.val).freeAt p.val (s.reap p.val).now = (s.reap p.val).now)
      | _ => false),
      (let p : Port := 5
      let c : Fin 8 := 2
      let opens : Bool := true
      let s : State := ws
      match s.nextGate p.val c.val (s.gatePos (p.val / 32)) opens with
      | some _ =>
        decide (s.portOn p.val = true)
      | _ => false),
      (let p : Port := 0
      let s : State := ws |>.wrF (prt p.val PRT_PRE_STAT) 1 2 1
      decide (s.portOn p.val = true ∧ s.rdF (prt p.val PRT_PRE_STAT) 1 2 = 1)),
      (let p : Port := 2
      let s : State := ws |>.wr (prt 2 PRT_PFC_CFG) 0xFF
      decide (s.portOn p.val = true)),
      (let p : Port := 2
      let q : Fin 8 := 1
      let s : State := ws |>.wr (prt 2 PRT_PFC_STAT) 0xFF00
      decide (s.portOn p.val = true ∧ s.pausedCls p.val q.val = true)),
      (let s : State := ws |>.wr (prt 2 PRT_PFC_CFG) 0xFF
      decide (s.portOn 2 = true ∧ (s.macControl 2 64).pfcOn 2 6 = true)),
      (let s : State := ws |>.wr (prt 2 PRT_PFC_CFG) 0xFF
      decide (s.portOn 2 = true ∧ (s.macControl 2 64).pfcOn 2 7 = false)),
      (let s : State := ws |>.wrB (prt 0 PRT_PRE_CFG) 0 true |>.wrB (prt 0 PRT_PRE_CFG) 1 false
      decide (s.portOn 0 = true ∧ s.link 0 = false ∧ canPreempt s.part 0 = true ∧ s.rdB (prt 0 PRT_PRE_CFG) 0 = true ∧ s.rdB (prt 0 PRT_PRE_CFG) 1 = false)),
      (let s : State := ws |>.wr (prt 2 PRT_PFC_STAT) 0xFF00 |>.arm (pauseTmr 2 6) 5
      decide (s.portOn 2 = true ∧ s.pausedCls 2 6 = true ∧ (s.timer (pauseTmr 2 6)).isSome = true))].all id = true := by decide +kernel

theorem witness_FramesAdmittedByDynamicThreshold :
    [(let a : Nat := prt 5 PRT_SRSV
      let s : State := ws
      decide (isReserve a = true ∧ s.takes a = true)),
      (let a : Nat := prt 5 PRT_SRSV
      let v : Word := 0xFFF
      let s : State := ws |> (wrs ((List.range 30).map fun p => (prt p PRT_SRSV, 0xFFF)))
      let w := v &&& s.maskAt a
      decide (16384 < s.rsvSum (dieOf a) (fun x => if x = a then w else s.rd x))),
      (let a : Nat := 1
      let v : Word := 1
      let s : State := ws
      let w := v &&& s.maskAt a
      decide (s.rsvSum (dieOf a) (fun x => if x = a then w else s.rd x) ≤ 16384)),
      (let f : Nat := 900
      let e : QEnt := qent0
      let s : State := ws
      let t := s.askShared (e.port / 32)
      decide (e.pfc = none ∧ t.underThreshold e.port e.cls (cells e.len) f = true ∧ 0 < f)),
      (let f : Nat := 1
      let e : QEnt := qent0
      let s : State := ws
      let t := s.askShared (e.port / 32)
      decide (e.pfc = none ∧ t.underThreshold e.port e.cls (cells e.len) f = false)),
      (let p : Nat := 5
      let q : Nat := 1
      let c : Nat := 1
      let f : Nat := 900
      let s : State := ws
      decide (s.underThreshold p q c f = true))].all id = true := by decide +kernel

theorem witness_DatasetsCommitFlipAndAge :
    [(let d : Sys2Proof.Die := .d0
      let ds : BitVec 13 := 1
      let s : State := ws |> (half (dsMapAddr 0 0 1) 0x8003) |>.setTws (ctxWord 0 3 0) [0x3000000, 0, 0, 0]
      let t := s.access (dsk (dieNum d) DSK_COMMIT)
      match t.hostCtx (dieNum d) ds.toNat with
      | some _ =>
        decide (s.takes (dsk (dieNum d) DSK_COMMIT) = true ∧ t.rdB (dsk (dieNum d) DSK_COMMIT_STAT) 0 = false)
      | _ => false),
      (let d : Sys2Proof.Die := .d0
      let ds : BitVec 13 := 1
      let s : State := ws
      let t := s.access (dsk (dieNum d) DSK_COMMIT)
      decide (s.takes (dsk (dieNum d) DSK_COMMIT) = true ∧ (t.hostCtx (dieNum d) ds.toNat = none ∨ t.rdB (dsk (dieNum d) DSK_COMMIT_STAT) 0 = true))),
      (let d : Sys2Proof.Die := .d0
      let c : Fin 4096 := 1
      let f : Flip := { die := 0, ctx := 1, null := none, due := 0 }
      let s : State := ws |> (fun (s : State) => { s with dk := { s.dk with flips := [{ die := 0, ctx := 1, null := none, due := 0 }] } })
      decide ((s.dk.flips.find? fun f => f.die == dieNum d && f.ctx == c.val) = some f ∧ s.dieUp (dieNum d) = true)),
      (let d : Sys2Proof.Die := .d0
      let s : State := ws |>.wrB (sch 0 SCH_STAT) 9 false
      decide (s.dieUp (dieNum d) = true ∧ s.run = false)),
      (let d : Sys2Proof.Die := .d0
      let c : Fin 1024 := 1
      let b : Bool := true
      let s : State := ws |>.wrB (sch 0 SCH_STAT) 9 true |>.wrB (ina INA_CFG) 1 true |>.setTw (recWord 0 1 0) 0x8000 |> (fun (s : State) => { s with dk := { s.dk with recov := [(1, { RecInfo.init with quiet := 300, rogues := 20 })] } })
      decide (s.dieUp (dieNum d) = true ∧ s.run = true ∧ s.cmpMode = false ∧ bit (s.tw (recWord (dieNum d) c.val 0)) 15 = true ∧ s.frerDue (dieNum d) c.val b = true)),
      (let d : Sys2Proof.Die := .d0
      let x : Trdp := trdp0
      let s : State := ws |>.wr (dsk 0 DSK_CFG) 3
      decide (s.trdpOn (dieNum d) = true ∧ s.trdpMatch (dieNum d) x = none)),
      (let d : Sys2Proof.Die := .d0
      let x : Trdp := trdp0
      let s : State := ws |>.wr (dsk 0 DSK_CFG) 3 |>.setTws (trdpWord 0 2 0) [1, 0x4001, 0, 0, 0, 0, 0, 0] |> (half (dsMapAddr 0 0 1) 0x8003) |>.setTws (ctxWord 0 3 0) [0x1000000, 0, 0, 0]
      match s.trdpMatch (dieNum d) x with
      | some i =>
        match s.trdpCtx (dieNum d) i with
        | some _ =>
          decide (s.trdpOn (dieNum d) = true)
        | _ => false
      | _ => false),
      (let d : Sys2Proof.Die := .d0
      let i : Fin 4096 := 1
      let s : State := ws |>.wrB (sch 0 SCH_STAT) 9 false |>.wr (dsk 0 DSK_CFG) 3 |>.setTws (trdpWord 0 1 0) [1, 0x6001, 0, 0, 0, 0, 0, 0]
      decide (s.run = false ∧ s.mode ≠ .standby ∧ s.trdpTx (dieNum d) i.val = true)),
      (let d : Sys2Proof.Die := .d0
      let s : State := ws
      decide (s.reach (dsk (dieNum d) DSK_NTF_POP) = true))].all id = true := by decide +kernel

theorem witness_MvbInterfacesSendAndTakeFrames :
    [(let s : State := ws
      decide (s.takes (fldp FLD_CTRL) = true)),
      (let n : Fin 2 := 1
      let s : State := ws
      let u := (((s.setMvb n.val Mvb.init).wrB (fldp (FLD_MVB_STAT n.val)) 0 true).arm (quietTmr n.val) (3 * s.mvbBp n.val)).arm (periodTmr n.val) (s.mvbBp n.val)
      decide (s.fldOn = true ∧ u.mvbCheck n.val = none)),
      (let n : Fin 2 := 1
      let s : State := ws |>.wr (fldp (FLD_MVB_ANCHOR n.val)) 0x3FFFF
      let u := (((s.setMvb n.val Mvb.init).wrB (fldp (FLD_MVB_STAT n.val)) 0 true).arm (quietTmr n.val) (3 * s.mvbBp n.val)).arm (periodTmr n.val) (s.mvbBp n.val)
      decide (s.fldOn = true ∧ u.mvbCheck n.val ≠ none)),
      (let n : Fin 2 := 1
      let i : Fin 4096 := 1
      let at0 : Nat := 10000
      let s : State := ws |>.wrB (sch 0 SCH_STAT) 9 true |>.wrB (fldp (FLD_MVB_STAT n.val)) 0 true |>.wrB (fldp (FLD_MVB_CFG n.val)) 0 true |>.setTws (mvbWord n.val 1 0) [wordOf (2^31 + 10 * 2^16), 0]
      decide (s.mvbRun n.val = true ∧ s.mvbAdmin n.val = true ∧ s.mode ≠ .standby ∧ s.twF (mvbWord n.val i.val 0) 31 1 = 1 ∧ s.run = true ∧ s.mvbDue n.val i.val = some at0)),
      (let n : Nat := 1
      let s : State := ws
      decide ((s.mvbLineEn n 0 || s.mvbLineEn n 1) = true)),
      (let n : Fin 2 := 1
      let f : Fin 16 := 1
      let a : Fin 4096 := 7
      let s : State := ws |>.wrB (fldp (FLD_MVB_STAT n.val)) 0 true |>.wrB (fldp (FLD_MVB_CFG n.val)) 0 true |> (fun (s : State) => s.setMvb n.val { s.mvb n.val with awaited := some (1, 7) }) |>.setTw (mapWord n.val 7) 0x6000
      decide (s.mvbRun n.val = true ∧ s.mode ≠ .standby ∧ s.mvbOwn n.val f.val a.val = true ∧ s.mvbAdmin n.val = true ∧ (s.mvb n.val).awaited = some (f.val, a.val))),
      (let n : Fin 2 := 1
      let f : Fin 16 := 1
      let a : Fin 4096 := 7
      let s : State := ws |>.wrB (fldp (FLD_MVB_STAT n.val)) 0 true |>.setTw (mapWord n.val 7) 0x6000 |>.wrB (fldp (FLD_MVB_CFG n.val)) 0 false
      decide (s.mvbRun n.val = true ∧ s.mode ≠ .standby ∧ s.mvbOwn n.val f.val a.val = true ∧ s.mvbAdmin n.val = false)),
      (let n : Fin 2 := 1
      let f : Fin 16 := 1
      let a : Fin 4096 := 1
      let s : State := ws |>.wrB (fldp (FLD_MVB_STAT n.val)) 0 true
      decide (s.mvbRun n.val = true ∧ s.mvbAwaits n.val f.val a.val = true)),
      (let n : Fin 2 := 1
      let f : Nat := 1
      let a : Fin 4096 := 7
      let s : State := ws |>.wrB (fldp (FLD_MVB_STAT n.val)) 0 true |>.wrB (fldp (FLD_MVB_CFG n.val)) 0 true |> (fun (s : State) => s.setMvb n.val { s.mvb n.val with awaited := some (1, 7) })
      decide (s.mvbRun n.val = true ∧ s.mvbAdmin n.val = true ∧ s.mode ≠ .standby ∧ (s.mvb n.val).awaited = some (f, a.val) ∧ s.mvbOwn n.val f a.val = false)),
      (let n : Fin 2 := 1
      let s : State := ws |>.wrB (fldp (FLD_MVB_STAT n.val)) 0 true |> (fun (s : State) => s.setMvb n.val { s.mvb n.val with answering := true })
      decide (s.mvbRun n.val = true ∧ s.mvbAdmin n.val = false ∧ (s.mvb n.val).answering = true)),
      (let n : Fin 2 := 1
      let s : State := ws |>.wrB (sch 0 SCH_STAT) 9 false |>.wrB (fldp (FLD_MVB_STAT n.val)) 0 true
      decide (s.mvbRun n.val = true ∧ s.run = false))].all id = true := by decide +kernel

theorem witness_CanControllersSendAndReceive :
    [(let c : Fin 4 := 1
      let s : State := ws
      decide (s.takes (fldp FLD_CTRL) = true ∧ s.fldEn (2 + c.val) = false)),
      (let sid : Fin 4096 := 1
      let s : State := ws |>.wrB (sch 0 SCH_STAT) 9 true |> entryAt 0 1 1000 8 10 5
      match s.actEntry sid.val with
      | some e =>
        decide (s.run = true ∧ e.kind = kField ∧ s.ownNum (s.ownerNow sid.val e) = true ∧ s.wasActive s.row s.thisRow sid.val e = true)
      | _ => false),
      (let c : Fin 4 := 1
      let s : State := ws |>.wr (fldp FLD_CTRL) 0xFF
      decide (s.canSends c.val = true)),
      (let s : State := ws |>.wrB (sch 0 SCH_STAT) 9 true
      decide (s.run = true)),
      (let c : Fin 4 := 1
      let fdf : Bool := true
      let brs : Bool := true
      let s : State := ws |>.wr (fldp FLD_CTRL) 0xFF
      decide (s.canOn c.val = true ∧ s.canPermits c.val fdf brs = false)),
      (let c : Fin 4 := 1
      let ide : Bool := true
      let fdf : Bool := false
      let brs : Bool := false
      let cid : BitVec 29 := 1
      let s : State := ws |>.wr (fldp FLD_CTRL) 0xFF
      decide (s.canOn c.val = true ∧ s.canPermits c.val fdf brs = true ∧ s.canMatch c.val ide cid = none)),
      (let c : Fin 4 := 1
      let ide : Bool := true
      let fdf : Bool := false
      let brs : Bool := false
      let cid : BitVec 29 := 1
      let dlc : BitVec 4 := 2
      let l : List Byte := [5, 6]
      let s : State := ws |>.wr (fldp FLD_CTRL) 0xFF |>.setTws (boxWord c.val 1 0) [0x60000001, 0x1FFFFFFF, wordOf (2 * 2^13), 0]
      match s.canMatch c.val ide cid with
      | some m =>
        decide (s.canOn c.val = true ∧ s.canPermits c.val fdf brs = true ∧ canLen fdf dlc.toNat = s.boxLen c.val m ∧ l.length = canLen fdf dlc.toNat)
      | _ => false),
      (let c : Fin 4 := 1
      let ide : Bool := true
      let fdf : Bool := false
      let brs : Bool := false
      let cid : BitVec 29 := 1
      let dlc : BitVec 4 := 2
      let s : State := ws |>.wrB (sch 0 SCH_STAT) 9 true |>.wr (fldp FLD_CTRL) 0xFF |>.setTws (boxWord c.val 1 0) [0x60000001, 0x1FFFFFFF, wordOf (3 * 2^13), 0]
      match s.canMatch c.val ide cid with
      | some m =>
        decide (s.canOn c.val = true ∧ s.canPermits c.val fdf brs = true ∧ canLen fdf dlc.toNat ≠ s.boxLen c.val m ∧ s.run = true)
      | _ => false),
      (let c : Fin 4 := 1
      let s : State := ws |>.wr (fldp FLD_CTRL) 0xFF
      decide (s.canOn c.val = true ∧ s.rdF (fldp (FLD_CAN_STAT c.val)) 0 2 ≠ 1)),
      (let c : Fin 4 := 1
      let s : State := ws |>.wrF (fldp (FLD_CAN_STAT c.val)) 0 2 2 |>.wrB (fldp (FLD_CAN_CFG c.val)) 2 true |>.wr (fldp FLD_CTRL) 0xFF
      decide (s.fldOn = true ∧ s.fldEn (2 + c.val) = true ∧ s.rdF (fldp (FLD_CAN_STAT c.val)) 0 2 = 2 ∧ s.rdB (fldp (FLD_CAN_CFG c.val)) 2 = true)),
      (let a : Agent := .pcie
      let s : State := ws |> (fun (s : State) => { s with fb := { s.fb with queue := [] } })
      decide (s.dieUp 0 = true ∧ s.agentMay a (fldp FLD_MSG_W0) = true ∧ s.fb.queue = [])),
      (let a : Agent := .pcie
      let m := { kind := 1, src := 2, ds := 3, st := 4, row := 5, info := 6 }
      let l := []
      let s : State := ws |> (fun (s : State) => { s with fb := { s.fb with queue := m :: l } }) |> (fun (s : State) => { s with fb := { s.fb with queue := [{ kind := 1, src := 2, ds := 3, st := 4, row := 5, info := 6 }] } })
      decide (s.dieUp 0 = true ∧ s.agentMay a (fldp FLD_MSG_W0) = true ∧ s.fb.queue = m :: l))].all id = true := by decide +kernel

theorem witness_NeighboursLearnedAndCoupled :
    [(let p : Port := 0
      let s : State := ws
      decide (s.ttdpPort p.val = true)),
      (let p : Nat := 5
      let s : State := ws
      decide (s.ttdpPort p = false)),
      (let p : Nat := 1
      let s : State := ws
      decide (s.ttdpPort p = true)),
      (let p : Port := 5
      let s : State := ws
      decide (s.ttdpPort p.val = false)),
      (let rx : Rx := rx0 0
      let u : Uid := 9
      let s : State := ws
      match s.ttdpIn rx with
      | (t, true) =>
        decide (u ≠ 0 ∧ u ≠ t.uid)
      | _ => false),
      (let p : Port := 0
      let s : State := ws
      decide (s.inaOn = true ∧ isBackbone s.part p.val = true)),
      (let sd : Side := .one
      let s : State := ws |>.wrB (ina INA_CPL) (sideNum sd) true |>.wrB (ina INA_CFG) 0 true
      decide (s.inaOn = true ∧ s.rdB (ina INA_CPL) (sideNum sd) = true ∧ s.endSide (sideNum sd) = true ∧ s.rdB (ina INA_CFG) 0 = true)),
      (let sd : Side := .one
      let s : State := ws |> (fun (s : State) => { s with tp := { s.tp with couple := 3 } })
      decide (s.inaOn = true ∧ s.coupling (sideNum sd) = true ∧ s.endSide (sideNum sd) = true ∧ (sidePorts s.part (sideNum sd)).all (fun p => !s.link p) = true)),
      (let s : State := ws
      decide (s.inaOn = true)),
      (let rx : Rx := rx0 0
      let f : Topology := topo0
      let s : State := ws |> (fun (s : State) => { s with tp := { s.tp with relayed := [(9, 1)] } })
      match s.ttdpIn rx with
      | (t, true) =>
        decide (f.origin ≠ 0 ∧ f.origin ≠ t.uid ∧ t.tp.relayed.contains (f.origin, f.seq) = true)
      | _ => false),
      (let rx : Rx := rx0 0
      let f : Topology := { topo0 with nodes := 64 }
      let s : State := ws
      match s.ttdpIn rx with
      | (t, true) =>
        decide (f.origin ≠ 0 ∧ f.origin ≠ t.uid ∧ t.tp.relayed.contains (f.origin, f.seq) = false ∧ (63 < f.nodes ∨ 32 < f.consists))
      | _ => false),
      (let rx : Rx := rx0 0
      let f : Topology := topo0
      let s : State := ws
      match s.ttdpIn rx with
      | (t, true) =>
        decide (f.origin ≠ 0 ∧ f.origin ≠ t.uid ∧ t.tp.relayed.contains (f.origin, f.seq) = false ∧ f.nodes ≤ 63 ∧ f.consists ≤ 32)
      | _ => false),
      (let p : Port := 0
      let f : Topology := topo0
      let s : State := ws |> (fun (s : State) => { s with tp := { s.tp with toRelay := [(0, topo0)] } })
      decide (s.tp.toRelay.contains (p.val, f) = true)),
      (let s : State := (ws |>.wrB (ina INA_CPL) 1 true |>.wrB (ina INA_CFG) 0 true).arm (tmr (ina INA_CPL) 1) 5
      decide (s.inaOn = true ∧ s.rdB (ina INA_CPL) 1 = true ∧ s.endSide 1 = true ∧ s.rdB (ina INA_CFG) 0 = true ∧ (s.timer (tmr (ina INA_CPL) 1)).isSome = true)),
      (let s : State := (ws |> fun (s : State) => { s with tp := { s.tp with couple := 3 } }).arm (loneMark 1) 5
      decide (s.inaOn = true ∧ s.coupling 1 = true ∧ s.endSide 1 = true ∧ (sidePorts s.part 1).all (fun p => !s.link p) = true ∧ (s.timer (loneMark 1)).isSome = true))].all id = true := by decide +kernel

theorem witness_InaugurationStatesAndTransitions :
    [(let s : State := ws |>.wrF (ina INA_STAT) 0 3 inaDiscover
      let u := s.reachFrom stableMark s.stableNs
      decide (s.inaOn = true ∧ s.inaSt = inaDiscover ∧ (u.inhibitSeen = false ∨ u.num = 0))),
      (let s : State := ws |>.wrF (ina INA_STAT) 0 3 inaDiscover |>.wrB (ina INA_CTRL) 1 true
      let u := s.reachFrom stableMark s.stableNs
      decide (s.inaOn = true ∧ s.inaSt = inaDiscover ∧ u.inhibitSeen = true ∧ u.num ≠ 0)),
      (let s : State := ws |> (fun (s : State) => { s with tp := { s.tp with writing := true } }) |>.wrF (ina INA_STAT) 0 3 inaCommit
      decide (s.dieUp 0 = true ∧ s.tp.writing = true ∧ s.inaSt = inaCommit ∧ s.shadowWhole = true)),
      (let s : State := ws |>.wrF (ina INA_STAT) 0 3 inaCommit |> (fun (s : State) => { s with tp := { s.tp with announced := false } }) |>.wr (ina INA_BLK_CFG) 0x20000 |> (fun (s : State) => { s with tp := { s.tp with commitRows := 3 } })
      decide (s.inaOn = true ∧ s.inaSt = inaCommit ∧ s.tp.announced = false ∧ s.rdF (ina INA_BLK_CFG) 16 16 ≤ s.tp.commitRows)),
      (let s : State := ws
      decide (s.takes (ina INA_CTRL) = true ∧ s.inaOn = true)),
      (let s : State := ws |>.wrF (ina INA_STAT) 0 3 inaStable
      decide (s.inaSt = inaStable)),
      (let s : State := ws |>.wrF (ina INA_STAT) 0 3 inaAgree
      decide (s.inaSt = inaAgree)),
      (let s : State := ws |>.wrF (ina INA_STAT) 0 3 inaCommit |>.wrB (ina INA_STAT) 6 true
      decide (s.inaSt = inaCommit ∧ s.frozen = true)),
      (let s : State := ws |>.wrF (ina INA_STAT) 0 3 inaCommit |>.wrB (ina INA_STAT) 6 false |>.wrB (sch 0 SCH_STAT) 12 true
      decide (s.inaSt = inaCommit ∧ s.frozen = false ∧ s.needle = true)),
      (let s : State := ws |>.wrF (ina INA_STAT) 0 3 inaCommit |>.wrB (ina INA_STAT) 6 false |>.wrB (sch 0 SCH_STAT) 12 false |>.wrB (ina INA_CFG) 1 true |>.wrB (sch 0 SCH_STAT) 9 true
      decide (s.inaSt = inaCommit ∧ s.frozen = false ∧ s.needle = false ∧ s.cmpMode = false ∧ s.run = true)),
      (let s : State := ws |>.wrB (ina INA_CFG) 1 false |>.wrF (ina INA_STAT) 0 3 inaCommit |> (fun (s : State) => { s with tp := { s.tp with complete := true } })
      decide (s.inaOn = true ∧ s.cmpMode = true ∧ s.inaSt = inaCommit ∧ s.tp.complete = true)),
      (let s : State := ws |>.wrB (sch 0 SCH_STAT) 10 true |>.wr (ina INA_BLK_ROW) 1
      decide (s.blockPend = true ∧ s.row + 1 = s.rd (ina INA_BLK_ROW)))].all id = true := by decide +kernel

theorem witness_ClaimsGrantedAndBlockingsRequested :
    [(let sid : Fin 4096 := 1
      let s : State := ws |>.wrB (sch 0 SCH_STAT) 9 true |>.wrB (sch 0 SCH_STAT) 10 true |>.wr (ina INA_STAT) 0x00060503 |>.wr (ina INA_BLK_CFG) 0x1000 |> entryAt 0 1 1000 6 100 0 |> entryAt 0 2 2000 5 100 0 |>.wr (sch 0 SCH_YO_CFG) 3
      match s.spareToClaim with
      | some _ =>
        match s.actEntry sid.val with
        | some _ =>
          decide (s.inaOn = true ∧ s.run = true ∧ s.claimRow = true ∧ s.tp.claimed ≠ some s.row ∧ s.rdF (ina INA_STAT) 16 6 ≠ 0 ∧ s.shadowOwned < s.rdF (sch 0 SCH_YO_CFG) 0 4 ∧ s.claimStitch = some sid.val)
        | _ => false
      | _ => false),
      (let rx : Rx := rx0 0
      let h : Hdr := hd 6
      let b : Claim := { uid := 9, spare := 1, needed := 1 }
      let s : State := ws
      match s.takeStitch rx h 0x06 (fun t => b.uid == t.uid) none (.claim b) true with
      | (_, true) =>
        true
      | _ => false),
      (let s : State := ws
      decide (s.takes (sch 0 SCH_BLK_CTRL) = true)),
      (let s : State := ws |>.wrB (sch 0 SCH_STAT) 12 false
      decide (s.needle = false)),
      (let s : State := ws |>.wrB (sch 0 SCH_STAT) 12 true
      decide (s.needle = true ∧ (s.blockPend = true ∨ (s.rd (sch 0 SCH_BLK_ROW) - s.row).toInt < 2))),
      (let s : State := ws |>.wrB (sch 0 SCH_STAT) 12 true |>.wrB (sch 0 SCH_STAT) 10 false |>.wr (sch 0 SCH_BLK_ROW) 2
      decide (s.needle = true ∧ s.blockPend = false ∧ 2 ≤ (s.rd (sch 0 SCH_BLK_ROW) - s.row).toInt)),
      (let s : State := ws
      decide ((s.blockPend || s.shdOwned || !s.shadowSame) = true)),
      (let s : State := ws |>.wr (sch 0 SCH_MAP1) 8
      decide ((s.blockPend || s.shdOwned || !s.shadowSame) = false)),
      (let a : Nat := overlayAddr 1 0 0
      let s : State := ws
      decide (0x10000000 ≤ a ∧ a < 0x20000000 ∧ s.takes a = true)),
      (let d : Sys2Proof.Die := .d0
      let i : Fin 65536 := 1
      let s : State := ws |>.setTw (dirWord 0 1 2) 0x8000
      decide (s.dieUp (dieNum d) = true ∧ bit (s.tw (dirWord (dieNum d) i.val 2)) 15 = true)),
      (let s : State := ws
      decide (s.takes (fwd 0 FWD_DIR_FLUSH) = true))].all id = true := by decide +kernel

theorem witness_LineFailuresNoticedAndTurnsForced :
    [(let p : Port := 0
      let s : State := ws
      decide (isBackbone s.part p.val = true ∧ s.portOn p.val = true ∧ Assoc.get s.rg.failed p.val = none ∧ s.lineBad p.val = true)),
      (let p : Nat := 1
      let s : State := ws |>.wrB (rng (p / 32) RNG_CFG) 0 false
      decide (s.rdB (rng (p / 32) RNG_CFG) 0 = false)),
      (let p : Port := 0
      let s : State := ws
      decide (isBackbone s.part p.val = true ∧ s.portOn p.val = true)),
      (let s : State := ws
      decide (s.twinOn = true)),
      (let p : Port := 0
      let b : Bool := true
      let s : State := ws
      decide (isBackbone s.part p.val = true ∧ s.portOn p.val = true ∧ s.rateMay p.val b = true ∧ s.lock p.val = false)),
      (let s : State := ws
      decide (s.dieUp 0 = true)),
      (let rx : Rx := rx0 0
      let h : Hdr := hd 7
      let b : TurnNotice := { tn0 with uid := 0 }
      let s : State := ws
      let (t, a) := s.takeSl rx h 0x07
      decide (a ≠ .none ∧ b.uid = t.uid)),
      (let rx : Rx := rx0 0
      let h : Hdr := hd 7
      let b : TurnNotice := tn0
      let s : State := ws |> (fun (s : State) => { s with rg := { s.rg with seen := [(9, 1)] } })
      let (t, a) := s.takeSl rx h 0x07
      decide (a ≠ .none ∧ b.uid ≠ t.uid ∧ t.rg.seen.contains (b.uid, b.seq) = true)),
      (let rx : Rx := rx0 0
      let h : Hdr := hd 7
      let b : TurnNotice := tn0
      let s : State := ws
      let (t, a) := s.takeSl rx h 0x07
      decide (a ≠ .none ∧ b.uid ≠ t.uid ∧ t.rg.seen.contains (b.uid, b.seq) = false ∧ a = .good)),
      (let rx : Rx := { rx0 0 with fcsOk := false }
      let h : Hdr := hd 7
      let b : TurnNotice := tn0
      let s : State := ws
      let (t, a) := s.takeSl rx h 0x07
      decide (a ≠ .none ∧ b.uid ≠ t.uid ∧ t.rg.seen.contains (b.uid, b.seq) = false ∧ a = .bad)),
      (let s : State := ws
      decide (s.takes (rng 0 RNG_FORCE) = true))].all id = true := by decide +kernel

theorem witness_TwinTokenClaimedHeldAndDropped :
    [(let s : State := ws |>.wrB (twn 0 TWN_STAT) 6 true
      decide (s.twinOn = true ∧ s.hbOk = true)),
      (let s : State := ws |>.wrB (twn 0 TWN_STAT) 6 false |> (fun (s : State) => { s with pr := { s.pr with hbRun := 8 } })
      decide (s.twinOn = true ∧ s.hbOk = false ∧ 8 ≤ s.pr.hbRun)),
      (let s : State := ws
      decide (s.twinOn = true)),
      (let s : State := ws
      decide (s.mode ≠ .off)),
      (let s : State := ws |>.wrF (twn 0 TWN_STAT) 0 3 3 |> (fun (s : State) => { s with pr := { s.pr with drv0 := true } })
      decide ((s.pr.drv0 || s.pr.drv1) = true ∧ s.role = 3)),
      (let s : State := ws |> (fun (s : State) => { s with pr := { s.pr with tok0 := true } }) |> (fun (s : State) => { s with pr := { s.pr with tok1 := true } })
      decide (s.pr.tok0 = true ∧ s.pr.tok1 = true)),
      (let s : State := ws |> (fun (s : State) => { s with pr := { s.pr with tok0 := false } }) |> (fun (s : State) => { s with pr := { s.pr with tok1 := true } })
      decide (s.pr.tok0 = false ∧ s.pr.tok1 = true)),
      (let s : State := ws |> (fun (s : State) => { s with pr := { s.pr with tok0 := false } }) |> (fun (s : State) => { s with pr := { s.pr with tok1 := false } }) |> (fun (s : State) => { s with pr := { s.pr with drv0 := false } })
      decide (s.pr.tok0 = false ∧ s.pr.tok1 = false ∧ s.pr.drv0 = false)),
      (let s : State := ws |> (fun (s : State) => { s with pr := { s.pr with tok0 := false } }) |> (fun (s : State) => { s with pr := { s.pr with tok1 := false } }) |> (fun (s : State) => { s with pr := { s.pr with drv0 := true } })
      decide (s.pr.tok0 = false ∧ s.pr.tok1 = false ∧ s.pr.drv0 = true ∧ s.role ≠ 2)),
      (let s : State := ws |> inMode .standby
      decide (s.mode = .standby ∧ s.mayTake = false)),
      (let s : State := ws |> (fun (s : State) => { s with pr := { s.pr with tok0 := true } }) |> (fun (s : State) => { s with pr := { s.pr with tok1 := false } })
      decide (s.twinOn = true ∧ s.pr.tok0 ≠ s.pr.tok1)),
      (let s : State := ws |> inMode .castOn |>.wrF (twn 0 TWN_STAT) 0 3 1
      decide (s.twinOn = true ∧ s.mode = .castOn ∧ s.role = 1)),
      (let s : State := ws |> inMode .castOn |>.wrF (twn 0 TWN_STAT) 0 3 5 |>.wrF (twn 0 TWN_STAT) 10 2 0
      decide (s.canClaim = true)),
      (let s : State := ws |>.wr (twn 0 TWN_PEER) 3
      decide (s.distinct = true)),
      (let a : Nat := 1
      let s : State := ws |>.wrF (twn 0 TWN_STAT) 0 3 2 |> (fun (s : State) => { s with pr := { s.pr with drv0 := false } }) |> (fun (s : State) => { s with pr := { s.pr with claimAt := some a } }) |> (fun (s : State) => { s with pr := { s.pr with tok0 := false } })
      let u := s.reachAt (a + s.pr.claimD * 1000)
      decide (s.twinOn = true ∧ s.role = 2 ∧ s.pr.drv0 = false ∧ s.pr.claimAt = some a ∧ (u.pr.tok0 = false ∨ u.pr.tok1 = false))),
      (let a : Nat := 1
      let s : State := ws |>.wrF (twn 0 TWN_STAT) 0 3 2 |> (fun (s : State) => { s with pr := { s.pr with drv0 := false } }) |> (fun (s : State) => { s with pr := { s.pr with claimAt := some a } })
      let u := s.reachAt (a + s.pr.claimD * 1000)
      decide (s.twinOn = true ∧ s.role = 2 ∧ s.pr.drv0 = false ∧ s.pr.claimAt = some a ∧ u.pr.tok0 = true ∧ u.pr.tok1 = true)),
      (let s : State := ws
      decide ((s.mode = .running ∨ s.mode = .healing))),
      (let a : Nat := 1
      let s : State := ws |>.wrF (twn 0 TWN_STAT) 0 3 2 |> (fun (s : State) => { s with pr := { s.pr with drv0 := true } }) |> (fun (s : State) => { s with pr := { s.pr with claimAt := some a } })
      decide (s.twinOn = true ∧ s.role = 2 ∧ s.pr.drv0 = true ∧ s.pr.claimAt = some a)),
      (let s : State := ws |>.wrF (twn 0 TWN_STAT) 0 3 5
      let u := s.access (twn 0 TWN_CTRL)
      decide (s.takes (twn 0 TWN_CTRL) = true ∧ u.twinOn = true ∧ u.tok = 0 ∧ u.rdB (twn 0 TWN_STAT) 12 = false ∧ u.role ≠ 2 ∧ u.role ≠ 3)),
      (let s : State := ws |>.wrF (twn 0 TWN_STAT) 10 2 3
      let u := s.access (twn 0 TWN_CTRL)
      decide (s.takes (twn 0 TWN_CTRL) = true ∧ u.tok = 3)),
      (let s : State := ws |>.wr (twn 0 TWN_PEER) 7
      let u := s.access (twn 0 TWN_CTRL)
      decide (s.takes (twn 0 TWN_CTRL) = true ∧ (u.lead && u.rdB (twn 0 TWN_PEER) 2 && u.hbOk) = true)),
      (let s : State := ws
      let u := s.access (twn 0 TWN_CTRL)
      decide (s.takes (twn 0 TWN_CTRL) = true ∧ (u.lead && u.rdB (twn 0 TWN_PEER) 2 && u.hbOk) = false)),
      (let h : TwinHdr := twin0
      let s : State := ws |> inMode .standby
      let u : State := (s.verify (twinSa s.part h.lane.val).1 (twinSa s.part h.lane.val).2 h.sec false).1.laneSeq h
      decide ((s.twinOn && s.lanes.contains h.lane.val && s.dieUp h.lane.val && s.efilaner h && (s.verify (twinSa s.part h.lane.val).1 (twinSa s.part h.lane.val).2 h.sec false).2) = true ∧ (s.verify (twinSa s.part h.lane.val).1 (twinSa s.part h.lane.val).2 h.sec false).1.laneSeq h = u ∧ u.mode = .standby)),
      (let h : TwinHdr := twin0
      let s : State := ws |> (fun (s : State) => { s with pr := { s.pr with drillRow := some 4 } })
      let u : State := (s.verify (twinSa s.part h.lane.val).1 (twinSa s.part h.lane.val).2 h.sec false).1.laneSeq h
      decide ((s.twinOn && s.lanes.contains h.lane.val && s.dieUp h.lane.val && s.efilaner h && (s.verify (twinSa s.part h.lane.val).1 (twinSa s.part h.lane.val).2 h.sec false).2) = true ∧ (s.verify (twinSa s.part h.lane.val).1 (twinSa s.part h.lane.val).2 h.sec false).1.laneSeq h = u ∧ u.lead = true ∧ u.pr.drillRow.isSome = true)),
      (let s : State := ws |> (fun (s : State) => { s with pr := { s.pr with drillRow := some 4 } })
      decide (s.twinOn = true ∧ s.lead = true ∧ s.pr.drillRow.isSome = true)),
      (let s : State := ws |> (fun (s : State) => { s with pr := { s.pr with take := true } }) |> inMode .standby
      decide (s.twinOn = true ∧ s.pr.take = true ∧ s.mode = .standby)),
      (let s : State := ws |> (fun (s : State) => { s with pr := { s.pr with take := false } }) |> (fun (s : State) => { s with pr := { s.pr with give := true } })
      decide (s.twinOn = true ∧ s.pr.take = false ∧ s.pr.give = true ∧ (s.mode = .running ∨ s.mode = .healing))),
      (let s : State := ws |>.wrF (twn 0 TWN_STAT) 0 3 2 |> fun (s : State) => { s with pr := { s.pr with tok0 := true, tok1 := false, drv0 := true } }
      decide (s.twinOn = true ∧ s.pr.tok0 ≠ s.pr.tok1 ∧ s.role = 2 ∧ (s.pr.drv0 || s.pr.drv1) = true)),
      (let s : State := ws |> inMode .standby |>.wrF (twn 0 TWN_STAT) 0 3 2 |> fun (s : State) => { s with pr := { s.pr with drv0 := true, claimAt := some 0 } }
      let u := s.reachAt (s.pr.driveAt + (if s.distinct then 4000 else 68000))
      decide (s.twinOn = true ∧ s.role = 2 ∧ s.pr.drv0 = true ∧ s.pr.claimAt.isSome = true ∧ u.mode = .standby))].all id = true := by decide +kernel

theorem witness_LifelineDeltasSentAndResynced :
    [(let l : Nat := 1
      let s : State := ws
      decide (s.dieUp l = true ∧ s.secOn (twinSa s.part l).1 (twinSa s.part l).2 = false)),
      (let h : TwinHdr := { twin0 with etype := 0 }
      let s : State := ws
      decide (s.twinOn = true ∧ s.lanes.contains h.lane.val = true ∧ s.dieUp h.lane.val = true ∧ s.efilaner h = false)),
      (let h : TwinHdr := twin0
      let s : State := ws |>.wr (sa 0 2 SEC_PORT_CFG) 1
      let v := s.verify (twinSa s.part h.lane.val).1 (twinSa s.part h.lane.val).2 h.sec false
      decide (s.twinOn = true ∧ s.lanes.contains h.lane.val = true ∧ s.dieUp h.lane.val = true ∧ s.efilaner h = true ∧ v.2 = false)),
      (let h : TwinHdr := twin0
      let s : State := ws
      let u : State := (s.verify (twinSa s.part h.lane.val).1 (twinSa s.part h.lane.val).2 h.sec false).1.laneSeq h
      decide ((s.twinOn && s.lanes.contains h.lane.val && s.dieUp h.lane.val && s.efilaner h && (s.verify (twinSa s.part h.lane.val).1 (twinSa s.part h.lane.val).2 h.sec false).2) = true ∧ (s.verify (twinSa s.part h.lane.val).1 (twinSa s.part h.lane.val).2 h.sec false).1.laneSeq h = u)),
      (let l : Fin 2 := 1
      let s : State := ws |>.wrB (twn 0 TWN_STAT) (8 + l.val) true
      let u := s.reachFrom (laneMark l.val) 3000000
      decide (s.twinOn = true ∧ u.laneUp l.val = true)),
      (let s : State := ws |> (fun (s : State) => { s with pr := { s.pr with send := [(0, 0, [])] } })
      decide (s.twinOn = true ∧ s.lead = true ∧ s.pr.send ≠ [])),
      (let e : Nat × Word × List LlRecord := (0, 7, [])
      let s : State := ws |>.wr (sch 0 SCH_ROW) 9
      let b := bodies e.2.2
      decide (s.deltaLate e.2.1 (laneNs (b.map recsSize ++ [0])) = true)),
      (let e : Nat × Word × List LlRecord := (0, 0, [.seq 0 0 5])
      let s : State := ws
      let b := bodies e.2.2
      decide (s.deltaLate e.2.1 (laneNs (b.map recsSize ++ [0])) = false)),
      (let l : List LlRecord := [.seq 0 0 5, .seq 0 1 6]
      decide ((∀ r ∈ l, recSize r ≤ 9100))),
      (let h : TwinHdr := twin0
      let s : State := ws |> inMode .standby
      let u : State := (s.verify (twinSa s.part h.lane.val).1 (twinSa s.part h.lane.val).2 h.sec false).1.laneSeq h
      decide ((s.twinOn && s.lanes.contains h.lane.val && s.dieUp h.lane.val && s.efilaner h && (s.verify (twinSa s.part h.lane.val).1 (twinSa s.part h.lane.val).2 h.sec false).2) = true ∧ (s.verify (twinSa s.part h.lane.val).1 (twinSa s.part h.lane.val).2 h.sec false).1.laneSeq h = u ∧ u.mode = .standby)),
      (let r : Word := 5
      let s : State := ws |> inMode .standby |> (fun (s : State) => { s with pr := { s.pr with deltas := [{ lane := 0, row := 3, records := [], ended := true, ovf := false, skip := false }, { lane := 1, row := 3, records := [], ended := true, ovf := false, skip := false }] } })
      decide (s.mode = .standby ∧ s.deltaWhole (r - 2) = true)),
      (let r : Word := 5
      let s : State := ws |> inMode .standby |> (fun (s : State) => { s with pr := { s.pr with deltas := [{ lane := 0, row := 3, records := [], ended := true, ovf := false, skip := false }] } })
      decide (s.mode = .standby ∧ s.deltaWhole (r - 2) = false ∧ s.pr.deltas.any (·.row == r - 2) = true)),
      (let h : TwinHdr := twin0
      let s : State := ws
      decide (s.pr.skipped.contains h.lane.val = false)),
      (let s : State := ws |> inMode .standby |>.wrF (twn 0 TWN_STAT) 4 2 0 |>.wrF (twn 0 TWN_STAT) 8 2 3 |>.wrB (twn 0 TWN_CTRL) 1 true
      decide (s.twinOn = true ∧ s.mode = .standby ∧ s.sync = 0 ∧ s.lanes.all s.laneUp = true ∧ (s.rdB (twn 0 TWN_CFG) 16 = true ∨ s.rdB (twn 0 TWN_CTRL) 1 = true))),
      (let s : State := ws
      decide (s.takes (twn 0 TWN_CTRL) = true)),
      (let h : TwinHdr := twin0
      let s : State := ws
      let u : State := (s.verify (twinSa s.part h.lane.val).1 (twinSa s.part h.lane.val).2 h.sec false).1.laneSeq h
      decide ((s.twinOn && s.lanes.contains h.lane.val && s.dieUp h.lane.val && s.efilaner h && (s.verify (twinSa s.part h.lane.val).1 (twinSa s.part h.lane.val).2 h.sec false).2) = true ∧ (s.verify (twinSa s.part h.lane.val).1 (twinSa s.part h.lane.val).2 h.sec false).1.laneSeq h = u ∧ u.lead = true)),
      (let l : Fin 2 := 1
      let s : State := ws |> (fun (s : State) => { s with pr := { s.pr with sweep := [(1, 3)] } })
      match Assoc.get s.pr.sweep l.val with
      | some k =>
        match chunkIn (sweepAreas l.val) k with
        | some _ =>
          decide (s.twinOn = true ∧ s.lead = true)
        | _ => false
      | _ => false),
      (let l : Fin 2 := 1
      let s : State := ws |> (fun (s : State) => { s with pr := { s.pr with sweep := [(1, 5000)] } })
      match Assoc.get s.pr.sweep l.val with
      | some k =>
        decide (s.twinOn = true ∧ s.lead = true ∧ chunkIn (sweepAreas l.val) k = none)
      | _ => false),
      (let s : State := ws |>.wrF (twn 0 TWN_STAT) 4 2 1
      decide (s.sync = 1)),
      (let r : Word := 1
      let s : State := ws |> inMode .standby |>.wrF (twn 0 TWN_STAT) 4 2 1 |> (fun (s : State) => { s with pr := { s.pr with ends := [(0, 1), (1, 1)] } })
      decide (s.mode = .standby ∧ s.sync = 1 ∧ (∀ l ∈ s.lanes, Assoc.get s.pr.ends l = some r))),
      (let s : State := ws |> inMode .standby |>.wrF (twn 0 TWN_STAT) 4 2 1 |> (fun (s : State) => { s with pr := { s.pr with ends := [(0, 1)] } })
      decide (s.mode = .standby ∧ s.sync = 1 ∧ (∃ l ∈ s.lanes, Assoc.get s.pr.ends l = none))),
      (let s : State := ws |> inMode .standby |>.wrB (twn 0 TWN_PEER) 1 true
      let u := (s.verify (twinSa s.part 0).1 (twinSa s.part 0).2 none false).1.laneSeq twin0
      decide ((s.twinOn && s.lanes.contains 0 && s.dieUp 0 && s.efilaner twin0 && (s.verify (twinSa s.part 0).1 (twinSa s.part 0).2 none false).2) = true ∧ u.rdB (twn 0 TWN_PEER) 1 = true ∧ u.peerUid ≠ 9 ∧ u.mode = .standby))].all id = true := by decide +kernel

theorem witness_EventSourcesRaiseAndAreAssigned :
    [(let src : BitVec 11 := 1
      let s : State := ws |> (fun (s : State) => { s with ev := { s.ev with edges := [(1, 77)] } })
      match Assoc.get s.ev.edges src.toNat with
      | some _ =>
        decide (s.dieUp (src.toNat / 1024) = true ∧ s.sourceOk src.toNat = true ∧ s.srcB EVC_PEND src.toNat = false)
      | _ => false),
      (let src : BitVec 11 := 1
      let s : State := ws
      let u := s.access (evcc 0 EVC_SRC_CMD)
      decide (s.takes (evcc 0 EVC_SRC_CMD) = true ∧ u.sourceOk src.toNat = true ∧ (src.toNat < 1024 ∨ u.die1On = true))),
      (let src : BitVec 11 := 1
      let s : State := ws |>.setSrcB EVC_ACT 1 true
      let u := s.access (evcc 0 EVC_SRC_CMD)
      decide (s.takes (evcc 0 EVC_SRC_CMD) = true ∧ u.sourceOk src.toNat = true ∧ u.active src.toNat = true)),
      (let src : BitVec 11 := 2047
      let s : State := ws
      let u := s.access (evcc 0 EVC_SRC_CMD)
      decide (s.takes (evcc 0 EVC_SRC_CMD) = true ∧ u.sourceOk src.toNat = false)),
      (let src : BitVec 11 := 1
      let s : State := ws
      decide (s.srcB EVC_PEND src.toNat = false)),
      (let src : BitVec 11 := 1
      let s : State := ws |>.setSrcB EVC_PEND 1 true
      decide (s.srcB EVC_PEND src.toNat = true)),
      (let d : Sys2Proof.Die := .d0
      let w : Fin 32 := 1
      let s : State := ws
      decide (s.takes (evcm (dieNum d) (EVC_ENA w.val)) = true)),
      (let d : Sys2Proof.Die := .d0
      let w : Fin 32 := 1
      let s : State := ws
      decide (s.takes (evcm (dieNum d) (EVC_PEND w.val)) = true)),
      (let src : Nat := 5
      let s : State := ws |>.wr (routeAddr 5) 3 |>.wr (evcc 0 EVC_TGT_EN) 3
      match s.pickTarget src with
      | some _ =>
        true
      | _ => false),
      (let l : List Asg := [{ src := 3, tgt := 1, prio := 0 }, { src := 5, tgt := 1, prio := 2 }]
      match winnerOf l with
      | some _ =>
        true
      | _ => false)].all id = true := by decide +kernel

theorem witness_EventsClaimedRecordedAndMessaged :
    [(let s : State := ws
      decide (s.takes (evcc 0 EVC_TGT_EN) = true)),
      (let t : Fin 9 := 1
      let s : State := ws |> (fun (s : State) => { s with ev := { s.ev with asg := [{ src := 3, tgt := 1, prio := 0 }, { src := 5, tgt := 1, prio := 2 }] } })
      match winnerOf (s.assigned t.val) with
      | some _ =>
        decide (s.dieUp 0 = true ∧ (t.val = 8 ∨ s.part.twoDies = true))
      | _ => false),
      (let t : Fin 9 := 1
      let s : State := ws
      decide (s.dieUp 0 = true ∧ (t.val = 8 ∨ s.part.twoDies = true) ∧ winnerOf (s.assigned t.val) = none ∧ t.val < 8)),
      (let t : Fin 9 := 1
      let src : BitVec 11 := 1
      let s : State := ws |>.setSrcB EVC_ACT 1 true |> (fun (s : State) => { s with ev := { s.ev with claimed := [(1, 1)] } })
      let u := s.access (evcc 0 (EVC_DONE t.val))
      decide (s.takes (evcc 0 (EVC_DONE t.val)) = true ∧ (t.val = 8 ∨ s.part.twoDies = true) ∧ u.active src.toNat = true ∧ Assoc.get u.ev.claimed src.toNat = some t.val)),
      (let t : Fin 9 := 1
      let src : BitVec 11 := 1
      let s : State := ws
      let u := s.access (evcc 0 (EVC_DONE t.val))
      decide (s.takes (evcc 0 (EVC_DONE t.val)) = true ∧ (t.val = 8 ∨ s.part.twoDies = true) ∧ (u.active src.toNat = false ∨ Assoc.get u.ev.claimed src.toNat ≠ some t.val))),
      (let src : Nat := 1
      let s : State := ws
      decide ((src < 1024 ∨ s.die1On = true))),
      (let src : Nat := 1030
      let s : State := ws |>.wrB (klk 0 KLK_STAT) 0 false
      decide (1024 ≤ src ∧ s.die1On = false)),
      (let t : Fin 8 := 1
      let s : State := ws |> solo
      decide (s.part.twoDies = false ∧ s.takes (evcc 0 (EVC_RQ_CONS t.val)) = true)),
      (let t : Fin 8 := 1
      let v : Word := 0x80000003
      let s : State := ws |> solo
      decide (s.part.twoDies = false ∧ s.takes (evcc 0 (EVC_RQ_CFG t.val)) = true ∧ bit v 31 = true)),
      (let s : State := ws |> solo
      decide (s.part.twoDies = false ∧ s.dieUp 0 = true)),
      (let t : Fin 8 := 1
      let s : State := ws |>.wrB (evcc 0 EVC_STAT) (16 + t.val) false |> (fun (s : State) => { s with ev := { s.ev with asg := [{ src := 3, tgt := 1, prio := 0 }] } })
      decide ((s.assigned t.val).isEmpty = false ∧ s.rdB (evcc 0 EVC_STAT) (16 + t.val) = false)),
      (let s : State := ws
      decide (s.pcieCarries = true)),
      (let s : State := ws |>.wrB (hdm HDM_STAT) 1 false
      decide (s.pcieCarries = false)),
      (let t : Fin 8 := 1
      let s : State := ws |> (fun (s : State) => { s with ev := { s.ev with msixEn := true } }) |>.wrB (msix (MSIX_CTRL t.val)) 0 false
      decide (s.ev.msixEn = true ∧ s.rdB (msix (MSIX_CTRL t.val)) 0 = false)),
      (let t : Fin 8 := 1
      let s : State := ws
      decide ((s.ev.msixEn = false ∨ s.rdB (msix (MSIX_CTRL t.val)) 0 = true))),
      (let s : State := ws
      decide (s.hostOn = true)),
      (let l : LinkState := .l2
      let s : State := ws |>.wrB (hdm HDM_STAT) 1 true
      decide (s.hostOn = true ∧ s.pcieUp = true ∧ (l = .l1 ∨ l = .l11 ∨ l = .l12 ∨ l = .l2))),
      (let l : LinkState := .down
      let s : State := ws |>.wrB (hdm HDM_STAT) 1 true
      decide (s.hostOn = true ∧ s.pcieUp = true ∧ l = .down)),
      (let s : State := ws
      decide (s.hostOn = true ∧ (7 : Nat) < 8 ∧ s.pcieCarries = true))].all id = true := by decide +kernel

theorem witness_HostResetAndDmaRings :
    [(let s : State := ws |> (fun (s : State) => { s with hi := { s.hi with perstN := true } })
      decide (s.straps.getLsbD 3 = true ∧ s.dieUp 0 = true ∧ s.hi.perstN = true)),
      (let s : State := ws |> (fun (s : State) => { s with hi := { s.hi with perstN := false } })
      decide (s.straps.getLsbD 3 = true ∧ s.dieUp 0 = true ∧ s.hi.perstN = false)),
      (let s : State := ws
      decide (s.hostOn = true)),
      (let rx : Bool := true
      let n : Fin 32 := 1
      let s : State := ws |>.wrB (ringReg rx n.val rgCfg) 31 false
      decide (s.takes (ringReg rx n.val rgCfg) = true ∧ s.rdB (ringReg rx n.val rgCfg) 31 = false)),
      (let n : Fin 32 := 1
      let s : State := ws
      decide (s.takes (ringReg false n.val rgTail) = true)),
      (let n : Fin 32 := 1
      let s : State := ws
      decide (s.takes (ringReg true n.val rgTail) = true)),
      (let n : Fin 32 := 1
      let s : State := ws |>.wr (hdm HDM_CTRL) 3 |>.wr (ringReg false n.val rgCfg) 0x80000004 |>.wr (ringReg false n.val rgTail) 3 |>.wrB (hdm HDM_STAT) 1 true
      decide (s.ringHas false n.val = true)),
      (let r : RxReason := .forwarded
      let c : Fin 8 := 1
      let s : State := ws |>.wr (hdm HDM_CTRL) 3 |>.wr (ringReg true 0 rgCfg) 0x80000004 |>.wr (ringReg true 0 rgTail) 3
      let n := s.rxRing r c.val
      decide (s.dieUp 0 = true ∧ s.ringHas true n = true)),
      (let r : RxReason := .forwarded
      let c : Fin 8 := 1
      let s : State := ws
      let n := s.rxRing r c.val
      decide (s.dieUp 0 = true ∧ s.ringHas true n = false)),
      (let rx : Bool := true
      let n : Fin 32 := 1
      let b : Bool := false
      let s : State := ws |>.wr (hdm HDM_CTRL) 3 |>.wr (ringReg true n.val rgCfg) 0x80000004 |>.wr (ringReg true n.val rgTail) 3
      decide (s.ringHas rx n.val = true ∧ (rx && b) = false)),
      (let d : TxDesc := { txd0 with len := 13, direct := false }
      let s : State := ws |>.wr (hdm HDM_CTRL) 3 |>.wr (ringReg false 31 rgCfg) 0x80000004 |>.wr (ringReg false 31 rgTail) 3
      decide (s.ringHas false 31 = true ∧ d.len < 14)),
      (let d : TxDesc := { txd0 with len := 9213, direct := false }
      let s : State := ws |>.wr (hdm HDM_CTRL) 3 |>.wr (ringReg false 31 rgCfg) 0x80000004 |>.wr (ringReg false 31 rgTail) 3
      decide (s.ringHas false 31 = true ∧ 9212 < d.len)),
      (let d : TxDesc := { txd0 with len := 14, direct := true }
      let s : State := ws |>.wr (hdm HDM_CTRL) 3 |>.wr (ringReg false 31 rgCfg) 0x80000004 |>.wr (ringReg false 31 rgTail) 3
      decide (s.ringHas false 31 = true ∧ 14 ≤ d.len ∧ d.len ≤ 9212 ∧ d.direct = true ∧ s.directUp d.port.val = false)),
      (let d : TxDesc := { txd0 with len := 9212, direct := false }
      let s : State := ws |>.wr (hdm HDM_CTRL) 3 |>.wr (ringReg false 31 rgCfg) 0x80000004 |>.wr (ringReg false 31 rgTail) 3
      decide (s.ringHas false 31 = true ∧ 14 ≤ d.len ∧ d.len ≤ 9212 ∧ d.direct = false))].all id = true := by decide +kernel

theorem witness_HostAndSpiAccessesActOnRegisters :
    [(let r : BarReq := { offset := 0, write := true, dwords := [(15, 5)] }
      let s : State := ws |>.wrB (hdm HDM_STAT) 1 true
      decide (s.hostOn = true ∧ s.pcieUp = true ∧ s.hi.waits.any (·.agent == .pcie) = false ∧ r.write = true)),
      (let r : BarReq := { offset := 0x160040, write := false, dwords := [(15, 0), (15, 0)] }
      let s : State := ws |>.wrB (hdm HDM_STAT) 1 true
      decide (s.hostOn = true ∧ s.pcieUp = true ∧ s.hi.waits.any (·.agent == .pcie) = false ∧ r.write = false)),
      (let be : BitVec 4 := 0xF
      decide (be = 0xF)),
      (let be : BitVec 4 := 3
      let a : Nat := sch 0 SCH_CTRL
      let s : State := ws
      decide (be ≠ 0xF ∧ s.absent a = false ∧ inWindow a = false ∧ s.dieUp 0 = true)),
      (let a : Nat := 1
      let s : State := ws
      decide (s.mode ≠ .off ∧ s.mspiStatus a ≠ 0)),
      (let a : Nat := sch 0 0
      let s : State := ws
      decide (s.mode ≠ .off ∧ s.mspiStatus a = 0 ∧ a < 0x40000000)),
      (let a : Nat := 0x40000000
      let s : State := ws
      decide (s.mode ≠ .off ∧ s.mspiStatus a = 0 ∧ 0x40000000 ≤ a)),
      (let a : Nat := 1
      decide (a % 4 ≠ 0)),
      (let a : Nat := 0x20000000
      decide (0x20000000 ≤ a ∧ a < 0x40000000)),
      (let a : Nat := sch 0 0
      decide (a % 4 = 0 ∧ a < 0x20000000 ∧ dieOf a = 0)),
      (let a : Nat := kpr 0
      decide (a % 4 = 0 ∧ a < 0x20000000 ∧ dieOf a = 2)),
      (let a : Nat := sch 1 0
      let s : State := ws |>.wrB (klk 0 KLK_STAT) 0 false |>.wrB (die 0 DIE_BOOT_STAT) 6 false |>.wrB (klk 0 KLK_STAT) 0 false
      decide (a % 4 = 0 ∧ a < 0x20000000 ∧ dieOf a = 1 ∧ s.part.twoDies = true ∧ s.dieUp 0 = true ∧ s.dieUp 1 = true ∧ s.linkUp = false ∧ s.rdB (die 0 DIE_BOOT_STAT) 6 = false)),
      (let st : Nat := 1
      decide (st ≠ 0)),
      (let ag : Agent := .pcie
      let a : Nat := 1
      let s : State := ws
      decide (s.agentMay ag (a - a % 4) = true)),
      (let ag : Agent := .tap
      let a : Nat := sch 0 0
      let s : State := ws |> (fun (s : State) => { s with otp := [(20, 1)] })
      decide (s.agentMay ag (a - a % 4) = false)),
      (let ag : Agent := .pcie
      let a : Nat := tmu 0 (TMU_TD_NS 0)
      let s : State := ws
      decide (s.agentMay ag a = true ∧ s.highsOf a ≠ [] ∧ s.reach a = true ∧ s.absent a = false)),
      (let a : Nat := prt 5 PRT_GRD_CNT_OUTSIDE
      let s : State := ws
      decide (s.agentMay .pcie a = true ∧ s.clearsOnRead a = true ∧ s.absent a = false ∧ s.reach a = true)),
      (let a : Nat := sch 1 SCH_CTRL
      let s : State := ws |>.wrB (klk 0 KLK_STAT) 0 false
      decide (s.absent a = false ∧ s.reach a = false ∧ dieOf a = 1 ∧ s.dieUp 0 = true))].all id = true := by decide +kernel

theorem witness_BridgeCarriesRequestsAndResponses :
    [(let w : Fin 8 := 1
      let s : State := ws |> (fun (s : State) => { s with hi := { s.hi with reqs := [breqS] } }) |> (fun (s : State) => { s with hi := { s.hi with outq := [.req 1 0] } })
      match s.firstReq w.val with
      | some o =>
        decide (s.dieUp 0 = true ∧ s.pathAuto o = false)
      | _ => false),
      (let w : Fin 8 := 1
      let o : BrOut := .req 1 0
      let s : State := ws |> (fun (s : State) => { s with hi := { s.hi with reqs := [breqS] } }) |> (fun (s : State) => { s with hi := { s.hi with outq := [.req 1 0] } }) |> entryAt 0 1 1000 4 800 5
      let sid : Fin 4096 := 1
      match s.mgmtEntry sid.val with
      | some _ =>
        decide (s.firstReq w.val = some o)
      | _ => false),
      (let sid : Fin 4096 := 1
      let s : State := ws |> (fun (s : State) => { s with hi := { s.hi with reqs := [breqS] } }) |> (fun (s : State) => { s with hi := { s.hi with outq := [.req 1 0] } }) |> entryAt 0 1 1000 4 800 5
      match s.mgmtEntry sid.val with
      | some _ =>
        true
      | _ => false),
      (let w : Fin 8 := 1
      let q : BitVec 16 := 0
      let s : State := ws |> (fun (s : State) => { s with hi := { s.hi with reqs := [breqS] } })
      match s.findReq w.val q with
      | some r =>
        decide (r.sent = true ∧ s.hi.outq.any (fun o => o.isReq w.val q) = false)
      | _ => false),
      (let s : State := ws
      decide (s.hi.errs.length < 32)),
      (let s : State := ws
      decide (s.dieUp 0 = true)),
      (let w : Fin 8 := 1
      let b : Nat := 0
      let x : BrBlock := { w := w.val, block := 0, words := [], at0 := 0, left := 0 }
      let s : State := ws |>.wrB (sch 0 SCH_STAT) 9 false |> (fun (s : State) => { s with hi := { s.hi with blocks := [{ w := w.val, block := 0, words := [], at0 := 0, left := 0 }] } })
      decide (s.run = false ∧ (s.hi.blocks.find? fun x => x.w == w.val && x.block == b) = some x)),
      (let rx : Rx := rx0 0
      let h : Hdr := hdB 0x08
      let b : BridgeReq := breq0
      let s : State := ws
      match s.takeBridge rx h 0x08 (.bridgeReq b) with
      | (t, true) =>
        decide (t.rdB (brg BRG_CFG) 0 = false)
      | _ => false),
      (let rx : Rx := rx0 0
      let h : Hdr := hdB 8
      let b : BridgeReq := { breq0 with target := 3 }
      let s : State := ws |>.wrB (brg BRG_CFG) 0 true
      match s.takeBridge rx h 0x08 (.bridgeReq b) with
      | (t, true) =>
        decide (t.rdB (brg BRG_CFG) 0 = true ∧ b.target ≠ 0 ∧ b.target ≠ t.uid)
      | _ => false),
      (let rx : Rx := rx0 0
      let h : Hdr := { hdB 8 with topo := 5 }
      let b : BridgeReq := breq0
      let s : State := ws |>.wrB (brg BRG_CFG) 0 true
      match s.takeBridge rx h 0x08 (.bridgeReq b) with
      | (t, true) =>
        decide (t.rdB (brg BRG_CFG) 0 = true ∧ b.target = 0 ∧ h.topo ≠ t.topoCtr)
      | _ => false),
      (let b : BridgeReq := { breq0 with addr := sch 0 SCH_GPIO_DIR }
      let f : BrFar := { next := 0, held := [] }
      let s : State := ws |> (fun (s : State) => { s with hi := { s.hi with far := [((9, 1), { next := 0, held := [] })] } })
      let (_, _, _, _) := s.farExec b
      decide (Assoc.get s.hi.far (b.initiator, b.window.val) = some f ∧ b.seq = f.next ∧ b.newSeq = false)),
      (let b : BridgeReq := { breq0 with seq := 4 }
      let f : BrFar := { next := 5, held := [{ brsp0 with seq := 4 }] }
      let r : BridgeRsp := { brsp0 with seq := 4 }
      let s : State := ws |> (fun (s : State) => { s with hi := { s.hi with far := [((9, 1), { next := 5, held := [{ brsp0 with seq := 4 }] })] } })
      decide (Assoc.get s.hi.far (b.initiator, b.window.val) = some f ∧ 0x8000 < (b.seq - f.next).toNat ∧ b.newSeq = false ∧ (f.held.find? fun r => r.seq == b.seq) = some r)),
      (let rx : Rx := rx0 0
      let h : Hdr := hdB 9
      let b : BridgeRsp := { brsp0 with status := 1, initiator := 0 }
      let s : State := ws |> (fun (s : State) => { s with hi := { s.hi with reqs := [breqS] } })
      match s.takeBridge rx h 0x09 (.bridgeRsp b) with
      | (t, true) =>
        match t.findReq b.window.val b.seq with
        | some r =>
          decide (b.initiator = t.uid ∧ r.write = b.write ∧ b.status ≠ 0)
        | _ => false
      | _ => false),
      (let rx : Rx := rx0 0
      let h : Hdr := hdB 0x09
      let b : BridgeRsp := brsp0
      let s : State := ws
      match s.takeBridge rx h 0x09 (.bridgeRsp b) with
      | (t, true) =>
        decide (b.initiator = t.uid ∧ t.findReq b.window.val b.seq = none)
      | _ => false),
      (let s : State := ws |> (fun (s : State) => { s with hi := { s.hi with outq := [.req 1 0, .evt 3 evt0] } })
      match s.firstEvt with
      | some (.evt d m) =>
        decide (s.dieUp 0 = true ∧ s.pathAuto (.evt d m) = false)
      | _ => false),
      (let rx : Rx := rx0 0
      let h : Hdr := hdB 0x0A
      let b : EventMsg := evt0
      let s : State := ws
      match s.takeBridge rx h 0x0A (.eventMsg b) with
      | (_, true) =>
        true
      | _ => false),
      (let m : EventMsg := { evt0 with seq := 0xFFFF }
      let x : EvtSender := { next := 0, held := [] }
      let s : State := ws |> (fun (s : State) => { s with hi := { s.hi with senders := [(9, { next := 0, held := [] })] } })
      decide (Assoc.get s.hi.senders m.uid = some x ∧ (0x8000 ≤ (m.seq - x.next).toNat ∨ x.held.any (fun e => e.msg.seq == m.seq) = true))),
      (let m : EventMsg := { evt0 with seq := 3 }
      let x : EvtSender := { next := 0, held := [] }
      let s : State := ws |> (fun (s : State) => { s with hi := { s.hi with senders := [(9, { next := 0, held := [] })] } })
      decide (Assoc.get s.hi.senders m.uid = some x ∧ (m.seq - x.next).toNat < 0x8000 ∧ x.held.any (fun e => e.msg.seq == m.seq) = false)),
      (let u : Uid := 9
      let x : EvtSender := { next := 0, held := [{ num := 3, at0 := 0, msg := evt0 }] }
      let e : HeldEvt := { num := 3, at0 := 0, msg := evt0 }
      let s : State := ws |> (fun (s : State) => { s with hi := { s.hi with senders := [(9, { next := 0, held := [{ num := 3, at0 := 0, msg := evt0 }] })] } }) |>.wrB (sch 0 SCH_STAT) 9 false
      match s.evtRow e.msg with
      | some _ =>
        decide (Assoc.get s.hi.senders u = some x ∧ (x.held.find? fun e => e.msg.seq == x.next) = some e)
      | _ => false),
      (let s : State := ws |> (fun (s : State) => { s with hi := { s.hi with revs := List.replicate 64 [0, 0, 0] } })
      decide (64 ≤ s.hi.revs.length)),
      (let s : State := ws
      decide (s.hi.revs.length < 64)),
      (let u : Uid := 9
      let x : EvtSender := { next := 0, held := [{ num := 3, at0 := 0, msg := { evt0 with seq := 3 } }] }
      let q : HeldEvt := { num := 3, at0 := 0, msg := { evt0 with seq := 3 } }
      let s : State := ws |> (fun (s : State) => { s with hi := { s.hi with senders := [(9, { next := 0, held := [{ num := 3, at0 := 0, msg := { evt0 with seq := 3 } }] })] } })
      decide (Assoc.get s.hi.senders u = some x ∧ x.nearest = some q ∧ q.msg.seq ≠ x.next)),
      (let ag : Agent := .pcie
      let s : State := ws
      decide (s.dieUp 0 = true ∧ s.agentMay ag (brg BRG_ERR_W0) = true)),
      (let ag : Agent := .pcie
      let s : State := ws
      decide (s.dieUp 0 = true ∧ s.agentMay ag (brg (BRG_REV_W 0)) = true))].all id = true := by decide +kernel

theorem witness_MacsecSlotsFusesAndDebugUnlock :
    [(let d : Sys2Proof.Die := .d0
      let m : Fin 5 := 1
      let k : Fin 8 := 1
      let s : State := ws |>.wrB (slotReg 0 1 false 1 0) 0 true
      let u := s.access (sa (dieNum d) m.val SEC_PORT_TXSA)
      decide (hasSa s.part (dieNum d) m.val = true ∧ s.takes (sa (dieNum d) m.val SEC_PORT_TXSA) = true ∧ u.slotValid (dieNum d) m.val false k.val = true)),
      (let d : Sys2Proof.Die := .d0
      let m : Fin 5 := 1
      let k : Fin 8 := 1
      let s : State := ws
      let u := s.access (sa (dieNum d) m.val SEC_PORT_TXSA)
      decide (hasSa s.part (dieNum d) m.val = true ∧ s.takes (sa (dieNum d) m.val SEC_PORT_TXSA) = true ∧ u.slotValid (dieNum d) m.val false k.val = false)),
      (let d : Sys2Proof.Die := .d0
      let m : Fin 5 := 1
      let rx : Bool := true
      let k : Fin 8 := 1
      let v : Word := 1
      let s : State := ws
      let u := s.access (slotReg (dieNum d) m.val rx k.val 0)
      decide (hasSa s.part (dieNum d) m.val = true ∧ s.takes (slotReg (dieNum d) m.val rx k.val 0) = true ∧ (rx = false ∨ bit v 0 = false ∨ u.saConflict (dieNum d) m.val k.val (fld v 1 2) (u.rxSci (dieNum d) m.val k.val) = false))),
      (let d : Sys2Proof.Die := .d0
      let m : Fin 5 := 1
      let rx : Bool := true
      let k : Fin 8 := 1
      let v : Word := 1
      let s : State := ws |>.wr (slotReg 0 1 true 2 0) 1
      let u := s.access (slotReg (dieNum d) m.val rx k.val 0)
      decide (hasSa s.part (dieNum d) m.val = true ∧ s.takes (slotReg (dieNum d) m.val rx k.val 0) = true ∧ rx = true ∧ bit v 0 = true ∧ u.saConflict (dieNum d) m.val k.val (fld v 1 2) (u.rxSci (dieNum d) m.val k.val) = true)),
      (let d : Sys2Proof.Die := .d0
      let m : Fin 5 := 1
      let rx : Bool := true
      let salt : Bool := true
      let k : Fin 8 := 1
      let j : Fin 8 := 1
      let s : State := ws
      let a := slotReg (dieNum d) m.val rx k.val ((if salt then 0x40 else 0x20) + 4 * j.val)
      let u := s.access a
      decide (hasSa s.part (dieNum d) m.val = true ∧ (salt = true → j.val < 3) ∧ s.takes a = true ∧ u.slotValid (dieNum d) m.val rx k.val = false)),
      (let d : Sys2Proof.Die := .d0
      let m : Fin 5 := 1
      let rx : Bool := true
      let salt : Bool := true
      let k : Fin 8 := 1
      let j : Fin 8 := 1
      let s : State := ws |>.wrB (slotReg 0 1 true 1 0) 0 true
      let a := slotReg (dieNum d) m.val rx k.val ((if salt then 0x40 else 0x20) + 4 * j.val)
      let u := s.access a
      decide (hasSa s.part (dieNum d) m.val = true ∧ (salt = true → j.val < 3) ∧ s.takes a = true ∧ u.slotValid (dieNum d) m.val rx k.val = true)),
      (let b : Fin 4096 := 1
      let s : State := ws |> inMode .maintenance |> (fun (s : State) => { s with se := { s.se with otpBusy := none } })
      decide (s.takes (sec 0 SEC_OTP_PROG) = true ∧ s.mode = .maintenance ∧ otpReserved b.val = false ∧ s.se.otpBusy = none)),
      (let b : Fin 4096 := 1
      let s : State := ws
      decide (s.takes (sec 0 SEC_OTP_PROG) = true ∧ (s.mode ≠ .maintenance ∨ otpReserved b.val = true ∨ s.se.otpBusy ≠ none))),
      (let s : State := ws |>.wr (sec 0 PG_LOCK) 0
      decide (s.reach (sec 0 SEC_OTP_PROG) = true ∧ s.locked (sec 0 SEC_OTP_PROG) = true)),
      (let b : Nat := 1
      let s : State := ws |> (fun (s : State) => { s with se := { s.se with otpBusy := some b } })
      decide (s.se.otpBusy = some b ∧ b < 4096)),
      (let s : State := ws
      decide (s.dieUp 0 = true)),
      (let s : State := ws |> (fun (s : State) => { s with se := { s.se with jtagBlocked := false } })
      decide (s.takes (sec 0 SEC_JTAG_CTRL) = true ∧ s.se.jtagBlocked = false)),
      (let s : State := ws |> (fun (s : State) => { s with se := { s.se with jtagBlocked := true } })
      decide (s.takes (sec 0 SEC_JTAG_CTRL) = true ∧ s.se.jtagBlocked = true)),
      (let s : State := ws |> (fun (s : State) => { s with se := { s.se with jtagBlocked := true } })
      decide (s.se.jtagBlocked = true)),
      (let s : State := ws |>.wrB (slotReg 0 1 true 7 0) 0 true
      decide (hasSa s.part 0 1 = true ∧ s.takes (slotReg 0 1 true 7 0) = true ∧ s.slotValid 0 1 true 7 = true))].all id = true := by decide +kernel

theorem witness_StatisticsPeriodsAndSwatchTests :
    [(let d : Sys2Proof.Die := .d0
      let s : State := ws |>.wrB (sta (dieNum d) STA_CFG) 0 true |>.wrB (sch 0 SCH_STAT) 9 true |>.wrB (sta 0 STA_CTRL) 0 true
      decide (s.dieUp (dieNum d) = true ∧ s.rdB (sta (dieNum d) STA_CFG) 0 = true ∧ s.run = true ∧ (s.snapDue (dieNum d) = true ∨ s.periodNow (dieNum d) ≤ s.staCount (dieNum d)))),
      (let d : Sys2Proof.Die := .d0
      let s : State := ws |>.wrB (sta (dieNum d) STA_CFG) 0 true |>.wrB (sch 0 SCH_STAT) 9 false
      decide (s.dieUp (dieNum d) = true ∧ s.rdB (sta (dieNum d) STA_CFG) 0 = true ∧ s.run = false)),
      (let d : Sys2Proof.Die := .d0
      let s : State := ws
      decide (s.takes (sta (dieNum d) STA_CTRL) = true)),
      (let d : Sys2Proof.Die := .d0
      let s : State := ws
      decide (s.takes (sta (dieNum d) STA_CFG) = true)),
      (let r : SwReq := { die := 0, code := 1, target := 0, held := false, offline := false }
      let s : State := ws
      decide (s.swStatus r ≠ 0)),
      (let d : Sys2Proof.Die := .d0
      let n : BitVec 6 := 1
      let s : State := ws
      let u := s.access (swt (dieNum d) SWT_REQ)
      match u.bankFrom (dieNum d) 0 with
      | some _ =>
        decide (s.takes (swt (dieNum d) SWT_REQ) = true ∧ n.toNat < 16 ∧ u.swRuns { die := dieNum d, code := 1, target := n.toNat, held := true, offline := false } = false)
      | _ => false),
      (let d : Sys2Proof.Die := .d0
      let n : BitVec 6 := 1
      let s : State := ws
      let u := s.access (swt (dieNum d) SWT_REQ)
      decide (s.takes (swt (dieNum d) SWT_REQ) = true ∧ u.swStatus (u.laneReq (dieNum d) 2 n.toNat) = 0)),
      (let d : Sys2Proof.Die := .d0
      let n : BitVec 6 := 1
      let s : State := ws
      let u := s.access (swt (dieNum d) SWT_REQ)
      decide (s.takes (swt (dieNum d) SWT_REQ) = true ∧ u.swStatus (u.laneReq (dieNum d) 4 n.toNat) = 0)),
      (let d : Sys2Proof.Die := .d0
      let n : BitVec 6 := 1
      let s : State := ws
      let u := s.access (swt (dieNum d) SWT_REQ)
      decide (s.takes (swt (dieNum d) SWT_REQ) = true ∧ n.toNat < 4 ∧ lineDie u.part (n.toNat / 2) = dieNum d ∧ u.swRuns { die := dieNum d, code := 3, target := n.toNat, held := true, offline := false } = false)),
      (let d : Sys2Proof.Die := .d0
      let s : State := ws |> inMode .maintenance
      let u := s.access (swt (dieNum d) SWT_REQ)
      decide (s.takes (swt (dieNum d) SWT_REQ) = true ∧ u.mode = .maintenance ∧ u.swRuns { die := dieNum d, code := 8, target := 0, held := true, offline := true } = false)),
      (let d : Sys2Proof.Die := .d0
      let n : BitVec 6 := 5
      let s : State := ws |> inMode .maintenance
      let u := s.access (swt (dieNum d) SWT_REQ)
      decide (s.takes (swt (dieNum d) SWT_REQ) = true ∧ u.mode = .maintenance ∧ n.toNat < u.part.ports ∧ n.toNat / 32 = dieNum d ∧ u.swRuns { die := dieNum d, code := 9, target := n.toNat, held := true, offline := true } = false)),
      (let d : Sys2Proof.Die := .d0
      let s : State := ws |> (fun (s : State) => { s with sw := { s.sw with bist0 := .draining } })
      decide (s.dieUp (dieNum d) = true ∧ s.bist (dieNum d) = .draining)),
      (let d : Sys2Proof.Die := .d0
      let s : State := ws |> (fun (s : State) => { s with sw := { s.sw with bist0 := .march } })
      decide (s.dieUp (dieNum d) = true ∧ s.bist (dieNum d) = .march)),
      (let d : Sys2Proof.Die := .d0
      let s : State := ws |> (fun (s : State) => { s with sw := { s.sw with bist0 := .gap } })
      let x := s.expire (bistTmr (dieNum d))
      match x.bankFrom (dieNum d) ((x.bistBank (dieNum d) + 1) % 16) with
      | some _ =>
        decide (s.dieUp (dieNum d) = true ∧ s.bist (dieNum d) = .gap)
      | _ => false),
      (let d : Nat := 1
      let s : State := ws
      match s.bankFrom d (s.bistBank d + 1) with
      | some _ =>
        true
      | _ => false),
      (let d : Sys2Proof.Die := .d0
      let s : State := ws |> (fun (s : State) => { s with sw := { s.sw with tests := [{ die := 0, code := 2, target := 1, offline := true }] } })
      match s.swTarget (dieNum d) 2 with
      | some _ =>
        decide (s.dieUp (dieNum d) = true)
      | _ => false),
      (let d : Sys2Proof.Die := .d0
      let s : State := ws |> (fun (s : State) => { s with sw := { s.sw with tests := [{ die := 0, code := 4, target := 1, offline := true }] } })
      match s.swTarget (dieNum d) 4 with
      | some _ =>
        decide (s.dieUp (dieNum d) = true)
      | _ => false),
      (let d : Sys2Proof.Die := .d0
      let s : State := ws |> (fun (s : State) => { s with sw := { s.sw with tests := [{ die := 0, code := 8, target := 0, offline := true }] } })
      match s.swTarget (dieNum d) 8 with
      | some _ =>
        true
      | _ => false),
      (let d : Sys2Proof.Die := .d0
      let s : State := ws |> (fun (s : State) => { s with sw := { s.sw with tests := [{ die := 0, code := 9, target := 1, offline := true }] } })
      match s.swTarget (dieNum d) 9 with
      | some _ =>
        decide (s.dieUp (dieNum d) = true)
      | _ => false),
      (let s : State := ws |>.wrB (swt 0 SWT_TSCAL_CFG) 0 true |> fun (s : State) => { s with sw := { s.sw with tests := [{ die := 0, code := 4, target := 1, offline := true }] } }
      decide (s.dieUp 0 = true ∧ s.swTarget 0 4 = some 1 ∧ s.rdB (swt 0 SWT_TSCAL_CFG) 0 = true))].all id = true := by decide +kernel

theorem witness_BootTakesCopiesAndRunsInitList :
    [(let s : State := ws |> (fun (s : State) => { s with kp := { s.kp with bootDue := true } }) |> (fun (s : State) => { s with straps := 12 }) |>.wrF (die 0 DIE_BOOT_STAT) 0 4 0
      decide (s.dieUp 0 = true ∧ s.kp.bootDue = true ∧ s.mode ≠ .maintenance ∧ (s.bootState = 7 ∨ (s.straps.getLsbD 2 = true ∧ s.bootState ≠ 1 ∧ s.kp.tried = 0)))),
      (let s : State := ws |> (fun (s : State) => { s with kp := { s.kp with bootDue := true } })
      decide (s.dieUp 0 = true ∧ s.kp.bootDue = true ∧ s.mode ≠ .maintenance ∧ s.bootState ≠ 7 ∧ (s.straps.getLsbD 2 = false ∨ s.bootState = 1 ∨ s.kp.tried ≠ 0))),
      (let f : FlashMarks := { mark0 := false, ver0 := 1, mark1 := false, ver1 := 2 }
      decide (f.mark0 = false ∧ f.mark1 = false)),
      (let f : FlashMarks := { mark0 := true, ver0 := 1, mark1 := true, ver1 := 2 }
      let s : State := ws |> inMode .waking |> (fun (s : State) => { s with kp := { s.kp with tried := 0 } })
      decide (s.mode = .waking ∧ f.mark0 = true ∧ f.mark1 = true ∧ s.kp.tried = 0)),
      (let i : Image := { image0 with sigOk := false }
      let s : State := ws |> (fun (s : State) => { s with kp := { s.kp with staged := none } }) |> (fun (s : State) => { s with kp := { s.kp with bootDue := false } }) |>.wrF (die 0 DIE_BOOT_STAT) 0 4 1
      decide (s.dieUp 0 = true ∧ s.kp.staged = none ∧ s.kp.bootDue = false ∧ s.bootCopy = srcCode i.source ∧ s.bootState = (if i.source = .host then 2 else 1) ∧ s.headCode i ≠ 0)),
      (let i : Image := image0
      let s : State := ws |> (fun (s : State) => { s with kp := { s.kp with staged := none } }) |> (fun (s : State) => { s with kp := { s.kp with bootDue := false } }) |>.wrF (die 0 DIE_BOOT_STAT) 0 4 1
      decide (s.dieUp 0 = true ∧ s.kp.staged = none ∧ s.kp.bootDue = false ∧ s.bootCopy = srcCode i.source ∧ s.bootState = (if i.source = .host then 2 else 1) ∧ s.headCode i = 0 ∧ (s.part.twoDies = false ∨ s.linkUp = true ∨ s.rdB (die 0 DIE_BOOT_STAT) 6 = true))),
      (let i : Image := image0
      let s : State := ws |> (fun (s : State) => { s with kp := { s.kp with staged := none } }) |> (fun (s : State) => { s with kp := { s.kp with bootDue := false } }) |>.wrB (klk 0 KLK_STAT) 0 false |>.wrB (die 0 DIE_BOOT_STAT) 6 false |>.wrF (die 0 DIE_BOOT_STAT) 0 4 1
      decide (s.dieUp 0 = true ∧ s.kp.staged = none ∧ s.kp.bootDue = false ∧ s.bootCopy = srcCode i.source ∧ s.bootState = (if i.source = .host then 2 else 1) ∧ s.headCode i = 0 ∧ s.part.twoDies = true ∧ s.linkUp = false ∧ s.rdB (die 0 DIE_BOOT_STAT) 6 = false)),
      (let i : Image := { image0 with source := .host }
      let c : Nat := 1
      decide (c < 256 ∧ i.source = .host)),
      (let i : Image := image0
      let s : State := ws |> (fun (s : State) => { s with kp := { s.kp with linkWait := true } }) |>.wrB (klk 0 KLK_STAT) 0 false |> (fun (s : State) => { s with kp := { s.kp with staged := some i } })
      decide (s.kp.linkWait = true ∧ s.linkUp = false ∧ s.kp.staged = some i)),
      (let a : Nat := sch 0 SCH_CTRL
      let v : Word := 1
      let m : Word := 1
      let i : Image := image0
      let l : List InitRec := []
      let s : State := ws |> (fun (s : State) => { s with kp := { s.kp with staged := some i } }) |> (fun (s : State) => { s with kp := { s.kp with initLeft := .write a v m :: l } })
      decide (s.kp.staged = some i ∧ s.kp.initLeft = .write a v m :: l ∧ initAddrOk a = true)),
      (let a : Nat := 1
      let v : Word := 1
      let m : Word := 1
      let i : Image := image0
      let l : List InitRec := []
      let s : State := ws |> (fun (s : State) => { s with kp := { s.kp with staged := some i } }) |> (fun (s : State) => { s with kp := { s.kp with initLeft := .write a v m :: l } })
      decide (s.kp.staged = some i ∧ s.kp.initLeft = .write a v m :: l ∧ initAddrOk a = false)),
      (let us : BitVec 16 := 1
      let i : Image := image0
      let l : List InitRec := []
      let s : State := ws |> (fun (s : State) => { s with kp := { s.kp with staged := some i } }) |> (fun (s : State) => { s with kp := { s.kp with initLeft := .wait us.toNat :: l } })
      decide (s.kp.staged = some i ∧ s.kp.initLeft = .wait us.toNat :: l)),
      (let a : Nat := 1
      let v : Word := 1
      let m : Word := 1
      let i : Image := image0
      let l : List InitRec := []
      let s : State := ws |> (fun (s : State) => { s with kp := { s.kp with staged := some i } }) |> (fun (s : State) => { s with kp := { s.kp with initLeft := .poll a v m :: l } })
      decide (s.kp.staged = some i ∧ s.kp.initLeft = .poll a v m :: l ∧ initAddrOk a = false)),
      (let a : Nat := sch 0 SCH_CTRL
      let v : Word := 0
      let m : Word := 0
      let b : Bool := true
      let i : Image := image0
      let l : List InitRec := []
      let s : State := ws |> (fun (s : State) => { s with kp := { s.kp with staged := some i } }) |> (fun (s : State) => { s with kp := { s.kp with initLeft := .poll a v m :: l } })
      let x := if (s.timer pollTmr).isSome then s else s.arm pollTmr 10000000
      let y := if b then x.reachFrom pollTmr 0 else x
      decide (s.kp.staged = some i ∧ s.kp.initLeft = .poll a v m :: l ∧ initAddrOk a = true ∧ (y.leftOut a = true ∨ (if y.absent a then 0 else y.liveWord a) &&& m = v))),
      (let a : Nat := sch 0 SCH_CTRL
      let v : Word := 1
      let m : Word := 1
      let b : Bool := true
      let i : Image := image0
      let l : List InitRec := []
      let s : State := ws |> (fun (s : State) => { s with kp := { s.kp with staged := some i } }) |> (fun (s : State) => { s with kp := { s.kp with initLeft := .poll a v m :: l } })
      let x := if (s.timer pollTmr).isSome then s else s.arm pollTmr 10000000
      let y := if b then x.reachFrom pollTmr 0 else x
      decide (s.kp.staged = some i ∧ s.kp.initLeft = .poll a v m :: l ∧ initAddrOk a = true ∧ y.leftOut a = false ∧ (if y.absent a then 0 else y.liveWord a) &&& m ≠ v)),
      (let l : List InitRec := [.wait 3]
      decide (l ≠ [])),
      (let s : State := ws |> inMode .waking
      decide (s.mode = .waking)),
      (let s : State := ws |>.wrF (die 0 DIE_BOOT_STAT) 0 4 6
      decide (s.takes (die 0 DIE_BOOT_CTRL) = true ∧ s.bootWaits = true)),
      (let s : State := ws |>.wrF (die 0 DIE_BOOT_STAT) 0 4 7
      decide (s.takes (die 0 DIE_BOOT_CTRL) = true ∧ s.bootWaits = true)),
      (let s : State := ws |>.wrB (kps KPS_STAT) 9 true |>.wrB (die 0 DIE_BOOT_STAT) 6 false |>.wrF (die 0 DIE_BOOT_STAT) 0 4 5
      decide (s.part.twoDies = true ∧ s.dieUp 0 = true ∧ s.rdB (kps KPS_STAT) 9 = true ∧ s.rdB (die 0 DIE_BOOT_STAT) 6 = false ∧ s.sw.tests.any (fun t => t.code == 8 && t.die == 1) = false)),
      (let s : State := ws |> (fun (s : State) => { s with kp := { s.kp with linkWait := false } })
      decide (s.kp.linkWait = false)),
      (let i := image0
      let s : State := ws |> (fun (s : State) => { s with kp := { s.kp with linkWait := true } }) |> (fun (s : State) => { s with kp := { s.kp with staged := some i } })
      decide (s.kp.linkWait = true ∧ s.kp.staged = some i))].all id = true := by decide +kernel

theorem witness_KomidonLineRatesAndI2cMasters :
    [(let d : Sys2Proof.Die := .d0
      let s : State := ws
      decide (s.takes (klk (dieNum d) KLK_CTRL) = true ∧ s.part.twoDies = true)),
      (let s : State := ws |>.wrB (klk 0 KLK_STAT) 0 true
      decide (s.part.twoDies = true ∧ s.linkUp = true)),
      (let s : State := ws |>.wrB (klk 0 KLK_STAT) 0 false |>.wrB (die 0 DIE_BOOT_STAT) 6 false
      decide (s.dieUp 0 = true ∧ s.dieUp 1 = true ∧ s.linkUp = false ∧ s.rdB (die 0 DIE_BOOT_STAT) 6 = false)),
      (let d : Nat := 1
      decide (d ≤ 1)),
      (let p : Port := 0
      let s : State := ws |>.wrF (prt p.val PRT_LINE_CFG) 0 2 2 |>.wrB (prt p.val PRT_LINE_STAT) 0 false
      decide (isBackbone s.part p.val = true ∧ s.dieUp (p.val / 32) = true ∧ s.rdF (prt p.val PRT_LINE_CFG) 0 2 = 2 ∧ s.rdB (prt p.val PRT_LINE_STAT) 0 = false)),
      (let a : Nat := 0x140000 + CLU_STAGE_MAX
      let s : State := ws
      decide (isWatermark a = true ∧ s.reach a = true ∧ a % 0x1000 ≠ BUF_MIN_FREE)),
      (let a : Nat := buf 0 BUF_MIN_FREE
      let s : State := ws
      decide (isWatermark a = true ∧ s.reach a = true ∧ a % 0x1000 = BUF_MIN_FREE)),
      (let m : Fin 2 := 1
      let s : State := ws
      let u := s.access (s.i2c m.val RNG_I2C_CMD)
      decide (s.takes (s.i2c m.val RNG_I2C_CMD) = true ∧ u.rdB (s.i2c m.val RNG_I2C_STAT) 0 = false)),
      (let m : Fin 2 := 1
      let s : State := ws |> (fun (s : State) => s.wrB (s.i2c 1 RNG_I2C_STAT) 0 true)
      let u := s.access (s.i2c m.val RNG_I2C_CMD)
      decide (s.takes (s.i2c m.val RNG_I2C_CMD) = true ∧ u.rdB (s.i2c m.val RNG_I2C_STAT) 0 = true)),
      (let m : Fin 2 := 1
      let k : Fin 2 := 1
      let s : State := ws |> (fun (s : State) => s.wrB (s.i2c m.val (RNG_I2C_POLL k.val)) 31 true) |> (fun (s : State) => s.wrF (s.i2c 1 RNG_I2C_CFG) 8 8 3)
      let u := s.expire (tmr (s.i2c m.val (RNG_I2C_POLL k.val)) 0)
      decide (s.dieUp (dieOf (s.i2c m.val 0)) = true ∧ s.rdB (s.i2c m.val (RNG_I2C_POLL k.val)) 31 = true ∧ s.rdF (s.i2c m.val RNG_I2C_CFG) 8 8 ≠ 0 ∧ u.rdB (s.i2c m.val RNG_I2C_STAT) 0 = false)),
      (let m : Fin 2 := 1
      let k : Fin 2 := 1
      let s : State := ws |> (fun (s : State) => s.wrB (s.i2c m.val (RNG_I2C_POLL k.val)) 31 true) |> (fun (s : State) => s.wrF (s.i2c 1 RNG_I2C_CFG) 8 8 3) |> (fun (s : State) => s.wrB (s.i2c 1 RNG_I2C_STAT) 0 true)
      let u := s.expire (tmr (s.i2c m.val (RNG_I2C_POLL k.val)) 0)
      decide (s.dieUp (dieOf (s.i2c m.val 0)) = true ∧ s.rdB (s.i2c m.val (RNG_I2C_POLL k.val)) 31 = true ∧ s.rdF (s.i2c m.val RNG_I2C_CFG) 8 8 ≠ 0 ∧ u.rdB (s.i2c m.val RNG_I2C_STAT) 0 = true)),
      (let m : Fin 2 := 1
      let s : State := ws |> (fun (s : State) => s.wrB (s.i2c m.val RNG_I2C_STAT) 0 true)
      decide (s.dieUp (dieOf (s.i2c m.val 0)) = true ∧ s.rdB (s.i2c m.val RNG_I2C_STAT) 0 = true)),
      (let s : State := ws |> fun (s : State) => s.wrB (s.i2c 1 RNG_I2C_STAT) 0 true
      decide (s.dieUp (dieOf (s.i2c 1 0)) = true ∧ s.rdB (s.i2c 1 RNG_I2C_STAT) 0 = true ∧ bit (s.rd (s.i2c 1 RNG_I2C_CMD)) 18 = false))].all id = true := by decide +kernel

theorem witness_PageHeadersAndMdioMasters :
    [(let page : Nat := 1
      let s : State := ws
      match s.pageOf page with
      | some p =>
        decide (s.takes (pageBase page + PG_CTRL) = true ∧ noSoftReset p.kind = true)
      | _ => false),
      (let page : Nat := prt 5 0
      let s : State := ws
      match s.pageOf page with
      | some p =>
        let u := s.access (pageBase page + PG_CTRL)
        decide (s.takes (pageBase page + PG_CTRL) = true ∧ noSoftReset p.kind = false ∧ u.frozen = false)
      | _ => false),
      (let page : Nat := prt 5 0
      let s : State := ws
      match s.pageOf page with
      | some p =>
        decide (s.takes (pageBase page + PG_CTRL) = true ∧ noSoftReset p.kind = false ∧ p.kind ≠ .sch ∧ p.kind ≠ .ina ∧ p.kind ≠ .fwd)
      | _ => false),
      (let page : Nat := sch 0 0
      let s : State := ws |>.wrB (ina INA_STAT) 6 true
      match s.pageOf page with
      | some p =>
        let u := s.access (pageBase page + PG_CTRL)
        decide (s.takes (pageBase page + PG_CTRL) = true ∧ (p.kind = .sch ∨ p.kind = .ina ∨ p.kind = .fwd) ∧ u.frozen = true)
      | _ => false),
      (let page : Nat := sa 0 1 0
      let s : State := ws
      match s.pageOf page with
      | some p =>
        let a := sa 0 1 SEC_PORT_CFG
        decide (p.kind ∈ [PageKind.sa, .msix, .txRings, .rxRings, .krt, .kms] ∧ softReg (pageBase page) a = true)
      | _ => false),
      (let page : Nat := sa 0 1 0
      let s : State := ws
      match s.pageOf page with
      | some p =>
        let a := sa 0 2 SEC_PORT_CFG
        decide (p.kind ∈ [PageKind.sa, .msix, .txRings, .rxRings, .krt, .kms] ∧ pageBase a ≠ pageBase page)
      | _ => false),
      (let page : Nat := 1
      let s : State := ws
      decide ((s.pageOf page).isSome = true)),
      (let page : Nat := prt 5 0
      let s : State := ws
      match s.pageOf page with
      | some p =>
        decide (s.takes (pageBase page + PG_CTRL) = true ∧ p.kind = .prt)
      | _ => false),
      (let page : Nat := fldp 0
      let s : State := ws
      match s.pageOf page with
      | some p =>
        decide (s.takes (pageBase page + PG_CTRL) = true ∧ p.kind = .fld)
      | _ => false),
      (let page : Nat := 1
      let s : State := ws
      match s.pageOf page with
      | some p =>
        decide (s.takes (pageBase page + PG_CTRL) = true ∧ p.kind ≠ .prt ∧ p.kind ≠ .fld)
      | _ => false),
      (let p : Port := 0
      let v : BitVec 2 := 1
      let s : State := ws
      decide (p.val < s.part.ports ∧ s.takes (prt p.val PG_CTRL) = true ∧ v ≠ 2)),
      (let p : Port := 0
      let v : BitVec 2 := 2
      let s : State := ws
      decide (p.val < s.part.ports ∧ s.takes (prt p.val PG_CTRL) = true ∧ v = 2)),
      (let page : Nat := 1
      let s : State := ws
      decide ((s.pageOf page).isSome = true ∧ s.takes (pageBase page + PG_EVT) = true)),
      (let m : Fin 2 := 1
      let s : State := ws
      decide (s.takes (s.mdio m.val DIE_MDIO_CMD) = true)),
      (let m : Fin 2 := 1
      let s : State := ws |> (fun (s : State) => s.wrB (s.mdio m.val DIE_MDIO_STAT) 0 true)
      decide (s.rdB (s.mdio m.val DIE_MDIO_STAT) 0 = true)),
      (let m : Fin 2 := 1
      let s : State := ws |> (fun (s : State) => s.wrB (s.mdio m.val DIE_MDIO_STAT) 0 false)
      decide (s.rdB (s.mdio m.val DIE_MDIO_STAT) 0 = false)),
      (let m : Fin 2 := 1
      let s : State := ws |> (fun (s : State) => s.wrB (s.mdio m.val DIE_MDIO_STAT) 0 true) |>.wrB (kps KPS_STAT) 10 false
      decide (s.rdB (s.mdio m.val DIE_MDIO_STAT) 0 = true ∧ s.dieUp (dieOf (s.mdio m.val 0)) = true ∧ s.rdB (kps KPS_STAT) 10 = false)),
      (let s : State := ws |>.wrB (ws.mdio 1 DIE_MDIO_STAT) 0 true |>.wrF (ws.mdio 1 DIE_MDIO_CMD) 10 2 2
      decide (s.rdB (s.mdio 1 DIE_MDIO_STAT) 0 = true ∧ s.dieUp (dieOf (s.mdio 1 0)) = true ∧ s.rdB (kps KPS_STAT) 10 = false ∧ s.mdioReads 1 = true))].all id = true := by decide +kernel

theorem witness_EventSourcesRaiseAndAreAssigned_fields :
    (EVC_ACT = EVC_PEND ∨ EVC_ACT = EVC_ENA ∨ EVC_ACT = EVC_ACT) ∧ (33 : BitVec 11) ≠ 1 := ⟨.inr (.inr rfl), by decide⟩

/-! ## Well-formedness: a term that each check refuses, and one that they let pass -/

theorem smoke_image_command : Instr.wf (.imageReadDone image0) = true := by decide
theorem smoke_skein : Instr.wf (.skeinRx (rx0 0) (hd 4) 0 { skein := 1, need := false, strands := [strand0] }) = true := by decide
theorem smoke_strand_too_long :
    Instr.wf (.skeinRx (rx0 0) (hd 4) 0 { skein := 1, need := false, strands := [{ strand0 with data := List.replicate 2048 0 }] }) = false := by decide +kernel
theorem smoke_header_version : Instr.wf (.claimRx (rx0 0) { hd 6 with version := 2 } { uid := 9, spare := 1, needed := 1 }) = false := by decide
theorem smoke_header_flags : Instr.wf (.claimRx (rx0 0) { hd 6 with flags := 1 } { uid := 9, spare := 1, needed := 1 }) = false := by decide
theorem smoke_header_sender : Instr.wf (.nullRx (rx0 0) { hd 3 with sender := 64 } 0 null0) = false := by decide
theorem smoke_header_profile : Instr.wf (.keepaliveRx (rx0 0) { hd 5 with prf := 8 } loss0) = false := by decide
theorem smoke_header_stitch : Instr.wf (.turnNoticeRx (rx0 0) { hd 7 with sid := 4096 } tn0) = false := by decide
theorem smoke_grants : Instr.wf (.rowStartRx (rx0 0) (hd 1) { rs0 with grants := List.replicate 9 { sid := 1, node := 2 } }) = false := by decide +kernel
theorem smoke_poll_vector : Instr.wf (.rowStartRx (rx0 0) (hd 1) { rs0 with poll := List.replicate 129 0 }) = false := by decide +kernel
theorem smoke_frame_length : Instr.wf (.beFrameRx { rx0 5 with len := 0 } eth0) = false ∧ Instr.wf (.beFrameRx { rx0 5 with len := 16384 } eth0) = false := by decide
theorem smoke_coldstart_frame : Instr.wf (.coldstartRx { rx0 0 with len := 0 } (hd 2) cst0) = false := by decide
theorem smoke_reply_strand :
    Instr.wf (.consistFrameRx (rx0 5) eth0 (.reply (hd 11) { pseq := 0, strand := { strand0 with data := List.replicate 2048 0 }, lenAgrees := true })) = false := by
  decide +kernel
theorem smoke_bridge_address : Instr.wf (.bridgeReqRx (rx0 0) (hd 8) { breq0 with addr := 2 }) = false := by decide
theorem smoke_bar_offset : Instr.wf (.bar0Request { offset := 2, write := true, dwords := [(15, 5)] }) = false := by decide
theorem smoke_bar_empty : Instr.wf (.bar2Request { offset := 0, write := true, dwords := [] }) = false := by decide
theorem smoke_word_address : Instr.wf (.registerWrite .pcie 0x1002 15 0) = false ∧ Instr.wf (.clearOnRead 0x20000000) = false := by decide
theorem smoke_mspi_address : Instr.wf (.mspiRead 0x100000000) = false ∧ Instr.wf (.mspiRead 0x40000001) = true := by decide
theorem smoke_mvb_length : Instr.wf (.mvbFrameRx 0 1 7 .good .none [1, 2, 3]) = false := by decide
theorem smoke_can_length : Instr.wf (.canFrameRx 0 false true false 1 15 (List.replicate 65 0)) = false := by decide +kernel
theorem smoke_can_bit_rate : Instr.wf (.canFrameRx 0 false false true 1 2 [1, 2]) = false := by decide
theorem smoke_sync_ns : Instr.wf (.syncRx (rx0 5) { sync0 with origNs := 1000000000 } []) = false := by decide
theorem smoke_hello_length : Instr.wf (.helloRx { rx0 0 with len := 0 } 7 true) = false := by decide

/-! ## Single steps, with the numbers of the spec -/

/-- What holds in the next state that an outcome answers. -/
def after (o : Host.Outcome State Fault Refusal) (p : State → Bool) : Bool := match o with | .next t => p t | _ => false

/-- No row of the spec's table gives bits. -/
theorem test_no_command_words : decodeTableWord 32 0x12345678 = none := rfl

/-- R66: the limits of the tension are 0x01_FF7C_ED91 and 0x02_0083_126F. -/
theorem test_tension_at_lower_limit :
    after (exec (.tensionCommit 0 1) (ws |>.wr (tmu 0 (TMU_TD_TENS_LO 0)) 0xFF7CED91)) (fun t => (t.advance 1).tens 0 == 0x01FF7CED91 && !(t.advance 1).rdB (tmu 0 PG_EVT) 8) = true := by
  decide +kernel
theorem test_tension_above_upper_limit :
    after (exec (.tensionCommit 1 2) (ws |>.wr (tmu 0 (TMU_TD_TENS_LO 1)) 0x00831270)) (fun t => (t.advance 1).tens 1 == 0x020083126F && (t.advance 1).rdB (tmu 0 PG_EVT) 8) = true := by
  decide +kernel

/-- R434: 0xC0DE opens 256 accesses of a page; any other value closes it. -/
theorem test_unlock : after (exec (.pageUnlock (sch 0 0)) (ws |>.wr (sch 0 PG_LOCK) 0)) (fun t => t.lockCount (sch 0 0) == 256) = true := by decide +kernel
theorem test_lock : after (exec (.pageLock (sch 0 0) 0xC0DD) ws) (fun t => t.lockCount (sch 0 0) == 0) = true := by decide +kernel

/-- R46: after power-on KPR_MODE reads 0x0001_0001. -/
theorem test_reset_mode : State.reset.rd (kpr KPR_MODE) = 0x00010001 := by decide +kernel

/-- R46, R44: a WAKE request in PARKED leads to WAKING (code 2) with PREV PARKED and CAUSE host request (0x06). -/
theorem test_wake_request :
    (match exec .kprReqWake (State.reset.wr (kpr PG_LOCK) 256) with
      | .next t => after (exec .modeRequestTake t) fun u => u.rdF (kpr KPR_MODE) 0 4 == 2 && u.rdF (kpr KPR_MODE) 8 4 == 1 && u.rdF (kpr KPR_MODE) 16 8 == 6
      | _ => false) = true := by decide +kernel

/-- R21: the weights are 10 at 25 Gbit/s, 4 at 10 Gbit/s and 1 at 2.5 Gbit/s and below. -/
theorem test_weights : rateWeight 250 = 10 ∧ rateWeight 100 = 4 ∧ rateWeight 25 = 1 ∧ rateWeight 1 = 1 := by decide

/-- R106: TXOFS is a quarter of the selvedge, rounded down to an even number of ns. -/
theorem test_txofs : txofs 1600 = 400 ∧ txofs 70 = 16 ∧ txofs 64 = 16 := by decide

/-- R485: hardware wins over a clearing write, and PG_SEQ counts the bit that was set anew. -/
theorem test_event_clear :
    after (exec (.pgEvtClear (sch 0 0) 3 1) (ws |>.wr (sch 0 PG_EVT) 7)) (fun t => t.rd (sch 0 PG_EVT) == 5) = true := by decide +kernel

/-- R485: raising a bit that was 0 increments PG_SEQ, raising it again does not. -/
theorem test_event_sequence :
    let s := ws.raise (sch 0 0) 3
    s.rd (sch 0 PG_SEQ) = ws.rd (sch 0 PG_SEQ) + 1 ∧ (s.raise (sch 0 0) 3).rd (sch 0 PG_SEQ) = s.rd (sch 0 PG_SEQ) := by decide +kernel

end Sys2Proof.Tests
end

section
/-! SUPPORT. The mode, the supplies and the resets of the keeper, and the regions: lemmas about the model's operations, and the
settled statements of 02_modes_and_power.md. -/

namespace Sys2Proof.Machine

/-! ## Fields and bits beside the one written -/

/-- The low part of a field reads the low part of what was written. -/
theorem fld_setFld_low (w : Word) {lo n k : Nat} (v : Nat) (hk : k ≤ n) (h : lo + n ≤ 32) :
    fld (setFld w lo n v) lo k = v % 2 ^ k := by
  apply Nat.eq_of_testBit_eq
  intro j
  rw [fld_testBit, Nat.testBit_mod_two_pow]
  by_cases hj : j < k
  · rw [setFld_getLsbD _ _ _ _ _ (by omega), if_pos (by omega), Nat.add_sub_cancel_left]
  · simp [hj]

/-- A bit outside the field written stays. -/
theorem bit_setFld_ne (w : Word) {lo n i : Nat} (v : Nat) (hi : i < 32) (h : i < lo ∨ lo + n ≤ i) :
    bit (setFld w lo n v) i = bit w i := by
  rw [bit_getLsbD, bit_getLsbD, setFld_getLsbD _ _ _ _ _ hi, if_neg (by omega)]

theorem State.rdF_congr {s t : State} {a : Nat} (h : t.rd a = s.rd a) (lo n : Nat) : t.rdF a lo n = s.rdF a lo n :=
  congrArg (fld · lo n) h

theorem State.rdB_congr {s t : State} {a : Nat} (h : t.rd a = s.rd a) (i : Nat) : t.rdB a i = s.rdB a i :=
  congrArg (bit · i) h

theorem State.rdF_wrF_low (s : State) (a : Nat) {lo n k : Nat} (v : Nat) (hk : k ≤ n) (h : lo + n ≤ 32) :
    (s.wrF a lo n v).rdF a lo k = v % 2 ^ k := by
  unfold State.rdF; rw [State.rd_wrF_self, fld_setFld_low _ _ hk h]

theorem State.rdF_wrF_apart (s : State) (a : Nat) {lo n lo' n' : Nat} (v : Nat) (h' : lo' + n' ≤ 32) (h : lo' + n' ≤ lo ∨ lo + n ≤ lo') :
    (s.wrF a lo n v).rdF a lo' n' = s.rdF a lo' n' := by
  unfold State.rdF; rw [State.rd_wrF_self, fld_setFld_ne _ _ _ _ _ _ h' h]

theorem State.rdF_wrB_apart (s : State) (a : Nat) {i lo n : Nat} (b : Bool) (h' : lo + n ≤ 32) (h : lo + n ≤ i ∨ i + 1 ≤ lo) :
    (s.wrB a i b).rdF a lo n = s.rdF a lo n :=
  State.rdF_wrF_apart s a (b2n b) h' h

theorem State.rdB_wrF_apart (s : State) (a : Nat) {lo n i : Nat} (v : Nat) (hi : i < 32) (h : i < lo ∨ lo + n ≤ i) :
    (s.wrF a lo n v).rdB a i = s.rdB a i := by
  unfold State.rdB; rw [State.rd_wrF_self, bit_setFld_ne _ _ hi h]

theorem State.rdB_wrB_self (s : State) (a : Nat) {i : Nat} (b : Bool) (hi : i < 32) : (s.wrB a i b).rdB a i = b := by
  rw [State.rdB_wrB _ _ _ _ _ hi, if_pos rfl]

theorem State.rdB_wrB_ne (s : State) (a : Nat) {i j : Nat} (b : Bool) (hi : i < 32) (h : j ≠ i) : (s.wrB a i b).rdB a j = s.rdB a j := by
  rw [State.rdB_wrB _ _ _ _ _ hi, if_neg h]

/-- An effect whose condition holds takes place. -/
theorem State.when_pos (s : State) {c : Bool} (h : c = true) (f : State → State) : s.when c f = f s := by rw [h, State.when_true]

/-! ## Timers -/

theorem Assoc.get_append_single {κ α : Type} [DecidableEq κ] (es : List (κ × α)) (k j : κ) (v : α) :
    Assoc.get (es ++ [(k, v)]) j = (Assoc.get es j).or (if k = j then some v else none) := by
  induction es with
  | nil => rfl
  | cons e es ih => by_cases h : e.1 = j <;> simp [Assoc.get, h, ih]

theorem Assoc.get_del {κ α : Type} [DecidableEq κ] (es : List (κ × α)) (k j : κ) :
    Assoc.get (Assoc.del es k) j = if k = j then none else Assoc.get es j := by
  induction es with
  | nil => simp [Assoc.del, Assoc.get]
  | cons e es ih =>
    unfold Assoc.del at ih ⊢
    by_cases h : e.1 = k
    · rw [List.filter_cons_of_neg (by simp [h]), ih]
      by_cases hj : k = j
      · simp [hj]
      · rw [if_neg hj, if_neg hj]; simp [Assoc.get, h, hj]
    · rw [List.filter_cons_of_pos (by simp [h])]
      by_cases hj : e.1 = j
      · have hk : k ≠ j := fun x => h (hj.trans x.symm)
        simp [Assoc.get, hj, hk]
      · simpa [Assoc.get, hj] using ih

/-- A key of an association list reads what was put there, and every other key stays. -/
theorem Assoc.get_put {κ α : Type} [DecidableEq κ] (es : List (κ × α)) (k j : κ) (v : α) :
    Assoc.get (Assoc.put es k v) j = if k = j then some v else Assoc.get es j := by
  unfold Assoc.put
  rw [Assoc.get_append_single, Assoc.get_del]
  by_cases h : k = j <;> simp [h]

/-- A timer that starts ends after its time. -/
theorem State.timer_arm_self (s : State) (k ns : Nat) : (s.arm k ns).timer k = some (s.now + ns) := by
  unfold State.arm State.timer
  rw [Assoc.get_put, if_pos rfl]

/-- A start of a timer leaves the others. -/
theorem State.timer_arm_ne (s : State) {k j : Nat} (ns : Nat) (h : k ≠ j) : (s.arm k ns).timer j = s.timer j := by
  unfold State.arm State.timer
  rw [Assoc.get_put, if_neg h]

/-! ## Where the registers of the KPR and KPS pages lie -/

/-- A register of the KPR page or the KPS page: the mode and its requests, the supplies and the resets of the dies. -/
def modeReg (a : Nat) : Bool := a / 0x1000 == 0x8000 || a / 0x1000 == 0x8003

/-- A switch die's register lies below the keeper's pages. -/
theorem modeReg_low {a : Nat} (h : a < 0x08000000) : modeReg a = false := by
  simp only [modeReg, Bool.or_eq_false_iff, beq_eq_false_iff_ne]; omega

theorem dieBase_cases (d : Nat) : dieBase d = 0 ∨ dieBase d = 0x04000000 ∨ dieBase d = 0x08000000 := by
  match d with
  | 0 => exact .inl rfl
  | 1 => exact .inr (.inl rfl)
  | _ + 2 => exact .inr (.inr rfl)

/-- The pages from 0x10 on of whatever die are not the keeper's. -/
theorem modeReg_die (d : Nat) {o : Nat} (h : 0x10000 ≤ o) (h' : o < 0x04000000) : modeReg (dieBase d + o) = false := by
  have hd := dieBase_cases d
  simp only [modeReg, Bool.or_eq_false_iff, beq_eq_false_iff_ne]; omega

theorem modeReg_tmu (k : Nat) {o : Nat} (h : o < 0x1000) : modeReg (tmu k o) = false := by
  unfold tmu; rw [Nat.add_assoc]; exact modeReg_die k (by omega) (by omega)

theorem modeReg_rgn (g : Nat) {o : Nat} (h : o < 0x1000) : modeReg (rgn g o) = false := by
  unfold rgn; rw [Nat.add_assoc, Nat.add_assoc]; exact modeReg_die _ (by omega) (by omega)

theorem modeReg_prt (p : Nat) {o : Nat} (h : o < 0x1000) : modeReg (prt p o) = false := by
  unfold prt; rw [Nat.add_assoc, Nat.add_assoc]; exact modeReg_die _ (by omega) (by omega)

theorem modeReg_clu (c : Nat) {o : Nat} (h : o < 0x1000) : modeReg (clu c o) = false := by
  unfold clu; rw [Nat.add_assoc, Nat.add_assoc]; exact modeReg_die _ (by omega) (by omega)

theorem modeReg_swt (d : Nat) {o : Nat} (h : o < 0x1000) : modeReg (swt d o) = false := by
  unfold swt; rw [Nat.add_assoc]; exact modeReg_die d (by omega) (by omega)

theorem modeReg_buf (d : Nat) {o : Nat} (h : o < 0x1000) : modeReg (buf d o) = false := by
  unfold buf; rw [Nat.add_assoc]; exact modeReg_die d (by omega) (by omega)

theorem modeReg_sch (d : Nat) {o : Nat} (h : o < 0x1000) : modeReg (sch d o) = false := by
  unfold sch; rw [Nat.add_assoc]; exact modeReg_die d (by omega) (by omega)

theorem modeReg_sec (d : Nat) {o : Nat} (h : o < 0x1000) : modeReg (sec d o) = false := by
  unfold sec; rw [Nat.add_assoc]; exact modeReg_die d (by omega) (by omega)

theorem dieBase_le {d : Nat} (h : d < 2) : dieBase d ≤ 0x04000000 := by
  match d, h with
  | 0, _ => decide
  | 1, _ => decide

theorem modeReg_cpm {d o : Nat} (hd : d < 2) (h : o < 0x1000) : modeReg (cpm d o) = false :=
  modeReg_low (by have := dieBase_le hd; unfold cpm; omega)

/-! ## What keeps them -/

/-- From `s` to `t` no register of the KPR page or the KPS page has changed. -/
def KeepsModeRegs (s t : State) : Prop := ∀ a, modeReg a = true → t.rd a = s.rd a

namespace KeepsModeRegs

variable {s0 s t : State}

theorem refl (s : State) : KeepsModeRegs s s := fun _ _ => rfl

/-- What leaves all registers keeps these. -/
theorem of_regs (h : KeepsModeRegs s0 s) (e : t.regs = s.regs) : KeepsModeRegs s0 t := fun a ha => by
  rw [← h a ha]; unfold State.rd; rw [e]

theorem of_keeps {w : Nat} (h : KeepsModeRegs s0 s) (k : Keeps w s t) (hw : w.testBit 2 = false) : KeepsModeRegs s0 t :=
  h.of_regs (k.regs hw)

theorem wr (h : KeepsModeRegs s0 s) {a : Nat} (v : Word) (ha : modeReg a = false) : KeepsModeRegs s0 (s.wr a v) := fun b hb => by
  rw [State.rd_wr_ne _ _ (by rintro rfl; rw [ha] at hb; cases hb), h b hb]

theorem wrF (h : KeepsModeRegs s0 s) {a : Nat} (lo n v : Nat) (ha : modeReg a = false) : KeepsModeRegs s0 (s.wrF a lo n v) :=
  h.wr _ ha

theorem wrB (h : KeepsModeRegs s0 s) {a : Nat} (i : Nat) (b : Bool) (ha : modeReg a = false) : KeepsModeRegs s0 (s.wrB a i b) :=
  h.wr _ ha

theorem raise (h : KeepsModeRegs s0 s) {base : Nat} (i : Nat) (he : modeReg (base + PG_EVT) = false)
    (hs : modeReg (base + PG_SEQ) = false) : KeepsModeRegs s0 (s.raise base i) := fun b hb => by
  rw [State.rd_raise_ne _ _ (by rintro rfl; rw [he] at hb; cases hb) (by rintro rfl; rw [hs] at hb; cases hb), h b hb]

theorem ite (c : Prop) [Decidable c] {a b : State} (ha : KeepsModeRegs s0 a) (hb : KeepsModeRegs s0 b) :
    KeepsModeRegs s0 (if c then a else b) := by split <;> assumption

theorem when (h : KeepsModeRegs s0 s) (c : Bool) {f : State → State} (hf : ∀ t, KeepsModeRegs s0 t → KeepsModeRegs s0 (f t)) :
    KeepsModeRegs s0 (s.when c f) := ite _ (hf s h) h

theorem each {α : Type} (h : KeepsModeRegs s0 s) {f : α → State → State} (l : List α)
    (hf : ∀ x ∈ l, ∀ t, KeepsModeRegs s0 t → KeepsModeRegs s0 (f x t)) : KeepsModeRegs s0 (s.each f l) := by
  induction l generalizing s with
  | nil => exact h
  | cons x xs ih => exact ih (hf x (List.mem_cons_self ..) s h) fun y hy => hf y (List.mem_cons_of_mem _ hy)

/-! ## The passage of time -/

theorem setTm (h : KeepsModeRegs s0 s) (m : TimeUnit) : KeepsModeRegs s0 { s with tm := m } := h.of_regs rfl

theorem setDue (h : KeepsModeRegs s0 s) (d : Nat) (x : TimeDue) : KeepsModeRegs s0 (s.setDue d x) := h.of_regs rfl

theorem setView (h : KeepsModeRegs s0 s) (k n : Nat) {d : Nat} (hd : d < 2) : KeepsModeRegs s0 (s.setView k d n) :=
  (((h.wr _ (modeReg_tmu k (by simp only [TMU_TD_NS]; omega))).wr _ (modeReg_tmu k (by simp only [TMU_TD_SEC_LO]; omega))).wr _
    (modeReg_tmu k (by simp only [TMU_TD_SEC_HI]; omega))).wr _ (modeReg_tmu k (by simp only [TMU_TD_ST]; omega))

theorem advDomain (h : KeepsModeRegs s0 s) (k n : Nat) {d : Nat} (hd : d < 2) : KeepsModeRegs s0 (s.advDomain k d n) :=
  (h.setView k _ hd).wr _ (modeReg_tmu k (by simp only [TMU_TD_FRAC]; omega))

theorem raiseTmuOn (h : KeepsModeRegs s0 s) (k i : Nat) : KeepsModeRegs s0 (s.raise (tmu k 0) i) :=
  h.raise i (modeReg_tmu k (by decide)) (modeReg_tmu k (by decide))

theorem evalRck (h : KeepsModeRegs s0 s) (k : Nat) : KeepsModeRegs s0 (s.evalRck k) :=
  have ho := h.wr (s.rckOfs k (s.rckDomOn k)) (modeReg_tmu k (o := TMU_RCK_OFS) (by decide))
  ho.wrB 1 _ (modeReg_tmu k (o := TMU_STAT) (by decide))

theorem setRck (h : KeepsModeRegs s0 s) (k v : Nat) : KeepsModeRegs s0 (s.setRck k v) := by
  have hst : ∀ w, KeepsModeRegs s0 (s.setSt k w) := fun w => by
    have hw := h.wr w (modeReg_tmu k (o := TMU_ST) (by decide))
    unfold State.setSt
    exact ite _ hw (hw.raiseTmuOn k 0)
  unfold State.setRck
  exact ((hst _).wr _ (modeReg_tmu k (by decide))).setTm _

theorem advDie (h : KeepsModeRegs s0 s) (k n : Nat) : KeepsModeRegs s0 (s.advDie k n) :=
  (((h.advDomain k n (by decide)).advDomain k n (by decide)).setRck k _).evalRck k

theorem ppsFrom (h : KeepsModeRegs s0 s) (old : Nat) : KeepsModeRegs s0 (s.ppsFrom old) :=
  h.of_keeps (State.ppsFrom_keeps (Sub.refl _) (Keeps.refl _ _) old) rfl

theorem advDies (h : KeepsModeRegs s0 s) (n : Nat) : KeepsModeRegs s0 (s.advDies n) :=
  ((h.advDie 0 n).when _ fun _ ht => ht.advDie 1 n).ppsFrom _

theorem wrTmuStat (h : KeepsModeRegs s0 s) (i : Nat) (b : Bool) : KeepsModeRegs s0 (s.wrTmuStat i b) :=
  have h0 := h.wrB i b (modeReg_tmu 0 (o := TMU_STAT) (by decide))
  h0.when _ fun _ ht => ht.wrB i b (modeReg_tmu 1 (o := TMU_STAT) (by decide))

theorem holdStep (h : KeepsModeRegs s0 s) (m : Nat) {d : Nat} (hd : d < 2) : KeepsModeRegs s0 (s.holdStep d m) := by
  have hl : modeReg (tmu 0 (TMU_TD_HOLD_LEFT d)) = false := modeReg_tmu 0 (by simp only [TMU_TD_HOLD_LEFT]; omega)
  have hw := h.wr (wordOf ((s.rd (tmu 0 (TMU_TD_HOLD_LEFT d))).toNat - m)) hl
  have hend : ∀ u, KeepsModeRegs s0 u → KeepsModeRegs s0 (u.holdEnd d) := fun u hu =>
    ite _ ((((hu.wrTmuStat _ _).wr _ hl).wr _ (modeReg_tmu 0 (by simp only [TMU_TD_OFS]; omega))).raiseTmuOn 0 _) hu
  exact ite _ (ite _ (hend _ hw) hw) h

theorem rowlessTicks (h : KeepsModeRegs s0 s) (n : Nat) : KeepsModeRegs s0 (s.rowlessTicks n) := by
  have hh := ((h.holdStep ((s.tm.rowless + n) / 500000) (d := 0) (by decide)).holdStep ((s.tm.rowless + n) / 500000) (d := 1) (by decide))
  have hr := hh.of_keeps (State.holdoverStep_keeps (Sub.refl _) (Keeps.refl _ _) ((s.tm.rowless + n) / 500000)) rfl
  exact ite _ (h.of_regs rfl) (hr.of_regs rfl)

theorem takeTens (h : KeepsModeRegs s0 s) {d : Nat} (hd : d < 2) : KeepsModeRegs s0 (s.takeTens d) := by
  unfold State.takeTens
  split
  · exact h
  · rename_i v _
    have hc := ((h.of_regs (t := s.setTens d (clampTo tensMin tensMax v)) rfl).wr (wordOf (clampTo tensMin tensMax v))
      (modeReg_tmu 0 (o := TMU_TD_TENS_LO d) (by simp only [TMU_TD_TENS_LO]; omega))).wr (wordOf (clampTo tensMin tensMax v / 2 ^ 32))
      (modeReg_tmu 0 (o := TMU_TD_TENS_HI d) (by simp only [TMU_TD_TENS_HI]; omega))
    exact ite _ hc (hc.raiseTmuOn 0 8)

theorem takeSetStep (h : KeepsModeRegs s0 s) {d : Nat} (hd : d < 2) : KeepsModeRegs s0 (s.takeSetStep d) := by
  have hload : ∀ ns, KeepsModeRegs s0 (s.loadView d ns) := fun ns =>
    have hv := (h.setView 0 ns hd).wr 0 (modeReg_tmu 0 (o := TMU_TD_FRAC d) (by simp only [TMU_TD_FRAC]; omega))
    hv.evalRck 0
  have hstep : ∀ u x, KeepsModeRegs s0 u → KeepsModeRegs s0 (u.stepDomain d x) := fun u x hu =>
    have hv := ite ((u.view 0 d : Int) + x < 0) ((hu.setView 0 0 hd).raiseTmuOn 0 9) (hu.setView 0 ((u.view 0 d : Int) + x).toNat hd)
    hv.evalRck 0
  have htake : ∀ u, KeepsModeRegs s0 u → KeepsModeRegs s0 (if (s.due d).step = 0 then u else u.stepDomain d (s.due d).step) :=
    fun u hu => ite _ hu (hstep u _ hu)
  unfold State.takeSetStep
  dsimp only
  cases (s.due d).set with
  | none => exact (htake s h).setDue d _
  | some ns => exact (htake _ (hload ns)).setDue d _

theorem dueTick (h : KeepsModeRegs s0 s) : KeepsModeRegs s0 s.dueTick :=
  (((((h.takeTens (by decide)).takeTens (by decide)).advDies 1).takeSetStep (by decide)).takeSetStep (by decide)).ppsFrom _

theorem advance (h : KeepsModeRegs s0 s) (n : Nat) : KeepsModeRegs s0 (s.advance n) := by
  have ht := h.of_regs (t := { s with el := { s.el with clk := s.el.clk + 2 * n } }) rfl
  exact ite _ (ite _ ((ht.dueTick.advDies _).rowlessTicks n) ((ht.advDies n).rowlessTicks n)) ht

theorem expire (h : KeepsModeRegs s0 s) (k : Nat) : KeepsModeRegs s0 (s.expire k) := by
  unfold State.expire
  split
  · exact (h.advance _).of_regs rfl
  · exact h

end KeepsModeRegs

theorem State.regions_lt {s : State} {g : Nat} (h : g ∈ s.regions) : g < 4 := by
  unfold State.regions at h
  split at h
  · split at h <;> simp at h <;> omega
  · simp at h; omega
  · simp at h; omega

namespace KeepsModeRegs

variable {s0 s t : State}

/-! ## Regions, relays and the other parts of a change of the mode -/

theorem rgnWakeUp (h : KeepsModeRegs s0 s) {g : Nat} (hg : g < 4) (unknown : Bool) : KeepsModeRegs s0 (s.rgnWakeUp g unknown) :=
  have hc := h.of_keeps (State.rgnCount_keeps (Sub.refl _) (Keeps.refl _ s) g (s.rgnState g) 0) rfl
  have hp := modeReg_rgn g (o := RGN_PSTATE) (by decide)
  ((hc.wrB 2 true hp).wrB 3 unknown hp).wrB 0 _ (modeReg_cpm (o := CPM_SHARED) (by omega) (by decide))

theorem evalFloors (h : KeepsModeRegs s0 s) : KeepsModeRegs s0 s.evalFloors :=
  h.each _ fun g hg _ ht =>
    (ht.wrF 4 2 _ (modeReg_rgn g (o := RGN_FLOOR) (by decide))).when _ fun _ hu => hu.rgnWakeUp (State.regions_lt hg) false

theorem setWait (h : KeepsModeRegs s0 s) (l : Nat) (b : Bool) : KeepsModeRegs s0 (s.setWait l b) := by
  have hk : ∀ k : Keeper, KeepsModeRegs s0 { s with kp := k } := fun _ => h.of_regs rfl
  exact (hk _).wrB _ _ (by decide)

theorem releaseLine (h : KeepsModeRegs s0 s) (l : Nat) : KeepsModeRegs s0 (s.releaseLine l) := by
  have hdrop : ∀ u : State, KeepsModeRegs s0 u → KeepsModeRegs s0
      ((((((u.wrF (kby KBY_STAT) (2 * l) 2 0).wrF (kby KBY_STAT) (4 + 2 * l) 2 0).wrB (kby KBY_STAT) (12 + l) false).armRelease l).emit
        (.drive l 0 0)).raise (kby 0) 1) := fun u hu =>
    have hw := ((hu.wrF (a := kby KBY_STAT) (2 * l) 2 0 (by decide)).wrF (a := kby KBY_STAT) (4 + 2 * l) 2 0 (by decide)).wrB
      (a := kby KBY_STAT) (12 + l) false (by decide)
    have ha := hw.of_keeps (State.armRelease_keeps (Sub.refl _) (Keeps.refl _ _) l) rfl
    (ha.of_regs (State.emit_regs _ _)).raise 1 (by decide) (by decide)
  have hwait : KeepsModeRegs s0 (if s.waits l then s.setWait l false else s) := ite _ (h.setWait l false) h
  exact ite _ (hdrop _ hwait) hwait

theorem evalLine (h : KeepsModeRegs s0 s) (l : Nat) : KeepsModeRegs s0 (s.evalLine l) :=
  have hs := (h.wrB (a := kby KBY_STAT) (8 + l) (s.permit l) (by decide)).wrB (a := kby KBY_STAT) (10 + l) (s.insReq l) (by decide)
  ite _ hs (hs.releaseLine l)

theorem evalRelays (h : KeepsModeRegs s0 s) : KeepsModeRegs s0 s.evalRelays := (h.evalLine 0).evalLine 1

theorem abortOffline (h : KeepsModeRegs s0 s) : KeepsModeRegs s0 s.abortOffline := by
  have hgone : KeepsModeRegs s0 (s.each (fun t u =>
      let u1 := u.wrB (swt t.die SWT_RUN) t.code false
      let u2 := if t.code = 8 then u1.wrB (swt t.die SWT_LBIST) 2 true
        else if t.code = 9 then u1.wrB (swt t.die SWT_LOOP_ERR) 31 true else u1
      u2.raise (swt t.die 0) 0) (s.sw.tests.filter (·.offline))) :=
    h.each _ fun x _ u hu =>
      have hr := hu.wrB x.code false (modeReg_swt x.die (o := SWT_RUN) (by decide))
      (ite _ (hr.wrB _ _ (modeReg_swt x.die (by decide))) (ite _ (hr.wrB _ _ (modeReg_swt x.die (by decide))) hr)).raise 0
        (modeReg_swt x.die (by decide)) (modeReg_swt x.die (by decide))
  exact hgone.of_regs rfl

theorem dropToken (h : KeepsModeRegs s0 s) : KeepsModeRegs s0 s.dropToken := by
  have hp : ∀ x : Twin, KeepsModeRegs s0 (({ s with pr := x }.setRole 5).evalTok) := fun x =>
    have hx := h.of_regs (t := { s with pr := x }) rfl
    (hx.wrF (a := twn 0 TWN_STAT) 0 3 5 (by decide)).wrF (a := twn 0 TWN_STAT) 10 2 _ (by decide)
  exact ite _ ((hp _).when _ fun _ hu => hu.raise 5 (by decide) (by decide)) h

theorem kaStop (h : KeepsModeRegs s0 s) : KeepsModeRegs s0 s.kaStop :=
  (h.wrF (a := kwk KWK_KA_LEFT) 0 24 _ (by decide)).of_regs rfl

theorem kaRestart (h : KeepsModeRegs s0 s) : KeepsModeRegs s0 s.kaRestart := by
  have hb : KeepsModeRegs s0 { s with kp := { s.kp with boPend := false } } := h.of_regs rfl
  exact (hb.wrF (a := kwk KWK_KA_LEFT) 0 24 s.kaTimeout (by decide)).of_regs rfl

theorem countNeed (h : KeepsModeRegs s0 s) : KeepsModeRegs s0 s.countNeed :=
  h.of_keeps (State.countNeed_keeps (Sub.refl _) (Keeps.refl _ _)) rfl

end KeepsModeRegs

/-- A change of the mode writes the mode's registers only where it records the change and ends bind-off. -/
theorem State.setMode_keepsModeRegs (s : State) (m : Mode) (c : Cause) :
    KeepsModeRegs ((s.recordMode m c).when (!m.inRow) State.noBindoff) (s.setMode m c) := by
  have h5 := ((KeepsModeRegs.refl ((s.recordMode m c).when (!m.inRow) State.noBindoff)).when
    (s.mode == .maintenance && m != .maintenance) fun _ h => h.abortOffline).when (s.mode.inRow && !m.inRow) fun _ h => h.kaStop
  have h6 := h5.when (s.mode == .castOn && (m == .running || m == .standby)) fun _ h => h.kaRestart
  exact ((h6.when _ fun _ h => h.countNeed).when _ fun _ h => h.dropToken).evalRelays.evalFloors

/-! ## What a change of the mode shows -/

@[simp] theorem Mode.ofCode_code (m : Mode) : Mode.ofCode m.code = m := by cases m <;> rfl

theorem Mode.code_lt (m : Mode) : m.code < 8 := by cases m <;> decide

theorem Cause.code_lt (c : Cause) : c.code < 256 := by cases c <;> decide

theorem State.mode_of_rdF {s : State} {m : Mode} (h : s.rdF (kpr KPR_MODE) 0 3 = m.code) : s.mode = m := by
  unfold State.mode; rw [h, Mode.ofCode_code]

theorem State.mode_congr {s t : State} (h : t.rd (kpr KPR_MODE) = s.rd (kpr KPR_MODE)) : t.mode = s.mode :=
  congrArg Mode.ofCode (State.rdF_congr h 0 3)

/-- KPR_MODE after the record of a transition: the previous mode, the mode and the cause (R46). -/
theorem State.recordMode_rd_mode (s : State) (m : Mode) (c : Cause) : (s.recordMode m c).rd (kpr KPR_MODE) =
    (((s.wrF (kpr KPR_MODE) 8 4 s.mode.code).wrF (kpr KPR_MODE) 0 4 m.code).wrF (kpr KPR_MODE) 16 8 c.code).rd (kpr KPR_MODE) := by
  unfold State.recordMode
  rw [State.rd_raise_ne _ _ (by decide) (by decide), State.rd_wr_ne _ _ (by decide), State.rd_wr_ne _ _ (by decide)]

/-- The end of bind-off leaves the mode and its cause. -/
theorem State.noBindoff_rdF (s : State) {lo n : Nat} (h' : lo + n ≤ 32) (h : lo + n ≤ 4 ∨ 5 ≤ lo) (b : Bool) :
    (s.when b State.noBindoff).rdF (kpr KPR_MODE) lo n = s.rdF (kpr KPR_MODE) lo n := by
  cases b with
  | false => rfl
  | true => exact State.rdF_wrB_apart s (kpr KPR_MODE) false h' h

theorem State.setMode_mode (s : State) (m : Mode) (c : Cause) : (s.setMode m c).mode = m := by
  apply State.mode_of_rdF
  rw [State.rdF_congr (State.setMode_keepsModeRegs s m c _ (by decide)), State.noBindoff_rdF _ (by decide) (by decide),
    State.rdF_congr (State.recordMode_rd_mode s m c), State.rdF_wrF_apart _ _ _ (by decide) (by decide),
    State.rdF_wrF_low _ _ _ (by decide) (by decide)]
  exact Nat.mod_eq_of_lt m.code_lt

theorem State.setMode_cause (s : State) (m : Mode) (c : Cause) : (s.setMode m c).rdF (kpr KPR_MODE) 16 8 = c.code := by
  rw [State.rdF_congr (State.setMode_keepsModeRegs s m c _ (by decide)), State.noBindoff_rdF _ (by decide) (by decide),
    State.rdF_congr (State.recordMode_rd_mode s m c), State.rdF_wrF_self _ _ _ _ _ (by decide)]
  exact Nat.mod_eq_of_lt c.code_lt

/-! ## Resets of the dies -/

theorem inDie_modeReg {d a : Nat} (hd : d < 2) (ha : modeReg a = true) : inDie d a = false := by
  have hdie : dieOf a = 2 := by
    simp only [modeReg, Bool.or_eq_true, beq_iff_eq] at ha
    unfold dieOf; rw [if_neg (by omega), if_pos (by omega)]
  unfold inDie
  rw [hdie, Bool.and_eq_false_iff, beq_eq_false_iff_ne]
  exact .inl (by omega)

namespace KeepsModeRegs

variable {s0 s t : State}

/-- The same bit written on both sides, whatever register it lies in. -/
theorem wrB_both (h : KeepsModeRegs s t) {a : Nat} (i : Nat) (b : Bool) (ha : modeReg a = true) :
    KeepsModeRegs (s.wrB a i b) (t.wrB a i b) := fun x hx => by
  by_cases e : a = x
  · rw [← e, State.rd_wrB_self, State.rd_wrB_self, h a ha]
  · rw [State.rd_wrB_ne _ _ _ e, State.rd_wrB_ne _ _ _ e, h x hx]

/-- A die reset drops the registers of its die only. -/
theorem drop_inDie (s : State) {d : Nat} (hd : d < 2) (h : t.regs = Sparse.drop (inDie d) s.regs) : KeepsModeRegs s t := fun a ha => by
  unfold State.rd
  rw [h, Sparse.get_drop, inDie_modeReg hd ha, if_neg (by decide)]

end KeepsModeRegs

/-- A reset of die 0 shows its reset and RST_OUT_N low, and leaves the other bits of the keeper's pages (R462). -/
theorem State.resetDie0_keepsModeRegs (s : State) :
    KeepsModeRegs ((s.wrB (kps KPS_STAT) 8 true).wrB (kps KPS_STAT) 10 true) (s.resetDie 0) := by
  have h2 := KeepsModeRegs.drop_inDie s (d := 0) (by decide) (t := State.resetHidden0 { s with
    regs := Sparse.drop (inDie 0) s.regs, tbl := Sparse.drop (inDie 0) s.tbl, lat := s.lat.filter fun e => dieOf e.2.1 != 0
    kp := { s.kp with staged := none, initLeft := [], linkWait := false } }) rfl
  have h3 := (h2.wrB_both 8 true (a := kps KPS_STAT) (by decide)).of_keeps (State.setInsLine_keeps (Sub.refl _) (Keeps.refl _ _) 0 false) rfl
  have h4 := (h3.wrB_both 10 true (a := kps KPS_STAT) (by decide)).of_keeps
    (State.disarm_keeps (Sub.refl _) (Keeps.refl _ _) (tmr (kps KPS_STAT) 0)) rfl
  exact (h4.of_keeps (State.dropTimers_keeps (Sub.refl _) (Keeps.refl _ _) fun a => dieOf a == 0) rfl).evalRelays

/-- A reset of die 1 shows its reset, and leaves the other bits of the keeper's pages. -/
theorem State.resetDie1_keepsModeRegs (s : State) : KeepsModeRegs (s.wrB (kps KPS_STAT) 9 true) (s.resetDie 1) := by
  have h2 := KeepsModeRegs.drop_inDie s (d := 1) (by decide) (t := State.resetHidden1 { s with
    regs := Sparse.drop (inDie 1) s.regs, tbl := Sparse.drop (inDie 1) s.tbl, lat := s.lat.filter fun e => dieOf e.2.1 != 1 }) rfl
  have h3 := (h2.wrB_both 9 true (a := kps KPS_STAT) (by decide)).of_keeps (State.setInsLine_keeps (Sub.refl _) (Keeps.refl _ _) 1 false) rfl
  exact (h3.of_keeps (State.dropTimers_keeps (Sub.refl _) (Keeps.refl _ _) fun a => dieOf a == 1) rfl).evalRelays

theorem State.resetDie0_rd (s : State) {a : Nat} (ha : modeReg a = true) (hne : kps KPS_STAT ≠ a) : (s.resetDie 0).rd a = s.rd a := by
  rw [State.resetDie0_keepsModeRegs s a ha, State.rd_wrB_ne _ _ _ hne, State.rd_wrB_ne _ _ _ hne]

theorem State.resetDie1_rd (s : State) {a : Nat} (ha : modeReg a = true) (hne : kps KPS_STAT ≠ a) : (s.resetDie 1).rd a = s.rd a := by
  rw [State.resetDie1_keepsModeRegs s a ha, State.rd_wrB_ne _ _ _ hne]

/-- A reset of the dies leaves the keeper's pages but KPS_STAT. -/
theorem State.resetDies_rd (s : State) {a : Nat} (ha : modeReg a = true) (hne : kps KPS_STAT ≠ a) : s.resetDies.rd a = s.rd a := by
  unfold State.resetDies
  split
  · rw [State.resetDie1_rd _ ha hne, State.resetDie0_rd _ ha hne]
  · exact State.resetDie0_rd _ ha hne

theorem State.resetDie0_rdB_stat (s : State) : (s.resetDie 0).rdB (kps KPS_STAT) 8 = true := by
  rw [State.rdB_congr (State.resetDie0_keepsModeRegs s _ (by decide)), State.rdB_wrB_ne _ _ _ (by decide) (by decide),
    State.rdB_wrB_self _ _ _ (by decide)]

theorem State.resetDie1_rdB_stat (s : State) : (s.resetDie 1).rdB (kps KPS_STAT) 9 = true := by
  rw [State.rdB_congr (State.resetDie1_keepsModeRegs s _ (by decide)), State.rdB_wrB_self _ _ _ (by decide)]

theorem State.resetDie1_rdB_stat0 (s : State) : (s.resetDie 1).rdB (kps KPS_STAT) 8 = s.rdB (kps KPS_STAT) 8 := by
  rw [State.rdB_congr (State.resetDie1_keepsModeRegs s _ (by decide)), State.rdB_wrB_ne _ _ _ (by decide) (by decide)]

/-- A reset of the dies shows die 0 in reset. -/
theorem State.resetDies_die0 (s : State) : s.resetDies.rdB (kps KPS_STAT) 8 = true := by
  unfold State.resetDies
  split
  · rw [State.resetDie1_rdB_stat0, State.resetDie0_rdB_stat]
  · exact State.resetDie0_rdB_stat s

/-- In a two-die part it shows die 1 in reset as well (R538). -/
theorem State.resetDies_die1 (s : State) (h : s.part.twoDies = true) : s.resetDies.rdB (kps KPS_STAT) 9 = true := by
  unfold State.resetDies
  rw [if_pos h]
  exact State.resetDie1_rdB_stat _

/-! ## A transition to PARKED (R537) -/

/-- What follows the reset of the dies leaves KPR_MODE and KPS_STAT. -/
theorem State.park_rd (s : State) (c : Cause) {a : Nat} (hr : kpr KPR_MODE_REQ ≠ a) (he : kpr PG_EVT ≠ a) (hs : kpr PG_SEQ ≠ a) :
    (s.park c).rd a = ((s.setMode .parked c).resetDies).rd a := by
  have h2 : ∀ u : State, (if u.rdF (kpr KPR_MODE_REQ) 0 3 = 0 ∨ u.rdF (kpr KPR_MODE_REQ) 0 3 = 1 then u
      else (u.wrF (kpr KPR_MODE_REQ) 0 3 0).raise (kpr 0) 1).rd a = u.rd a := fun u => by
    split
    · rfl
    · rw [State.rd_raise_ne (base := kpr 0) _ _ he hs, State.rd_wrF_ne _ _ _ _ hr]
  exact h2 _

theorem State.park_mode (s : State) (c : Cause) : (s.park c).mode = .parked := by
  rw [State.mode_congr (State.park_rd s c (by decide) (by decide) (by decide)),
    State.mode_congr (State.resetDies_rd _ (by decide) (by decide)), State.setMode_mode]

theorem State.park_cause (s : State) (c : Cause) : (s.park c).rdF (kpr KPR_MODE) 16 8 = c.code := by
  rw [State.rdF_congr (State.park_rd s c (by decide) (by decide) (by decide)),
    State.rdF_congr (State.resetDies_rd _ (by decide) (by decide)), State.setMode_cause]

theorem State.park_die0 (s : State) (c : Cause) : (s.park c).rdB (kps KPS_STAT) 8 = true := by
  rw [State.rdB_congr (State.park_rd s c (by decide) (by decide) (by decide)), State.resetDies_die0]

theorem State.park_die1 (s : State) (c : Cause) (h : s.part.twoDies = true) : (s.park c).rdB (kps KPS_STAT) 9 = true := by
  have hp := (State.setMode_keeps (Sub.refl _) (Keeps.refl _ s) .parked c).part
  rw [State.rdB_congr (State.park_rd s c (by decide) (by decide) (by decide)), State.resetDies_die1 _ (by rw [hp]; exact h)]

/-! ## A die that comes out of reset -/

namespace KeepsModeRegs

variable {s0 s t : State}

theorem loadLat (h : KeepsModeRegs s0 s) (p : Nat) : KeepsModeRegs s0 (s.loadLat p) :=
  have hr := h.wr (wordOf (fld (s.laneLat (portLane p)) 0 16)) (modeReg_prt p (o := PRT_PTP_RXLAT) (by decide))
  hr.wr _ (modeReg_prt p (o := PRT_PTP_TXLAT) (by decide))

theorem loadWeights (h : KeepsModeRegs s0 s) (d : Nat) : KeepsModeRegs s0 (s.loadWeights d) := by
  have hw : ∀ p t v, KeepsModeRegs s0 t → KeepsModeRegs s0 (State.wr t (weightReg p) v) := fun p t v ht =>
    ht.wr v (modeReg_clu _ (by simp only [CLU_WGT]; omega))
  have h2 := (h.each (((List.range 32).map (· + 32 * d)).filter (· < s.part.ports)) fun p _ t ht =>
    hw p t (if isBackbone t.part p then 10 else if isUplink t.part p then 4 else 1) ht).wr 10
      (modeReg_clu (4 * d) (o := CLU_WGT 8) (by decide))
  exact ite _ (h2.wr 26 (modeReg_clu 1 (by decide))) h2

theorem loadOtp (h : KeepsModeRegs s0 s) : KeepsModeRegs s0 s.loadOtp :=
  (h.each (List.range 128) fun i hi t ht =>
    ht.wr (t.otpW i) (modeReg_sec 0 (o := SEC_OTP i) (by have := List.mem_range.1 hi; simp only [SEC_OTP]; omega))).wrB 0 _
      (modeReg_sec 0 (o := SEC_STAT) (by decide))

theorem loadHostRef (h : KeepsModeRegs s0 s) : KeepsModeRegs s0 s.loadHostRef :=
  h.when _ fun _ ht => (ht.wrB (a := cpm 0 CPM_CLK_STAT) 9 _ (by decide)).of_regs rfl

theorem loadDie (h : KeepsModeRegs s0 s) {d : Nat} (hd : d < 2) : KeepsModeRegs s0 (s.loadDie d) := by
  have h1 := h.each (((List.range 32).map (· + 32 * d)).filter (· < s.part.ports)) fun p _ _ ht => ht.loadLat p
  have h3 := fun u v => (((h1.wr u (modeReg_sch d (o := SCH_CS_UID_LO) (by decide))).wr v (modeReg_sch d (o := SCH_CS_UID_HI) (by decide))).wrB
    8 true (modeReg_cpm (o := CPM_CLK_STAT) hd (by decide))).loadWeights d
  have hsingle : ∀ u, KeepsModeRegs s0 u → KeepsModeRegs s0 (if u.part.twoDies then u else
      ((u.each (fun k t => (t.wr (tmu 0 (TMU_TD_CAND_LO k)) 0xF).wr (tmu 0 (TMU_TD_CAND_HI k)) 0) [0, 1]).wr (prt 2 PRT_SRSV) 0x48).wr
        (prt 3 PRT_SRSV) 0x48) := fun u hu => by
    refine ite _ hu (((hu.each [0, 1] fun k hk _ ht => ?_).wr _ (by decide)).wr _ (by decide))
    have hk2 : k < 2 := by simp at hk; omega
    exact (ht.wr _ (modeReg_tmu 0 (by simp only [TMU_TD_CAND_LO]; omega))).wr _ (modeReg_tmu 0 (by simp only [TMU_TD_CAND_HI]; omega))
  refine ite _ (hsingle _ (((KeepsModeRegs.loadOtp ?_).wr _ (by decide)).loadHostRef)) ((h3 _ _).wr _ (by decide))
  exact (((h3 _ _).wrB _ _ (by decide)).wrB _ _ (by decide)).wrF _ _ _ (by decide)

theorem evalBuf (h : KeepsModeRegs s0 s) (d : Nat) : KeepsModeRegs s0 (s.evalBuf d) :=
  have h1 := (((h.wr (wordOf (s.rsvSum d s.eff)) (modeReg_buf d (o := BUF_RSV_SUM) (by decide))).wr (wordOf (s.pool d))
    (modeReg_buf d (o := BUF_SHARED) (by decide))).wr (wordOf (s.freeCells d)) (modeReg_buf d (o := BUF_FREE) (by decide))).wr
    (wordOf (min (s.freeCells d) (s.rdF (buf d BUF_MIN_FREE) 0 16))) (modeReg_buf d (o := BUF_MIN_FREE) (by decide))
  ite _ (h1.raise 0 (modeReg_buf d (by decide)) (modeReg_buf d (by decide))) h1

theorem startDie (h : KeepsModeRegs s0 s) {d : Nat} (hd : d < 2) : KeepsModeRegs s0 (s.startDie d) := by
  have hl := ((h.loadDie hd).of_keeps (State.meterOn_keeps (Sub.refl _) (Keeps.refl _ _) (sta d STA_STAT)) rfl).evalBuf d
  have hm := hl.when (d == 0) (f := fun t => t.mark cfgTmr) fun _ ht => ht.of_regs rfl
  exact hm.each _ fun g _ _ ht => ht.of_keeps (State.meterOn_keeps (Sub.refl _) (Keeps.refl _ _) (regionCtr g 0)) rfl

theorem keeperEdges (h : KeepsModeRegs s0 s) : KeepsModeRegs s0 s.keeperEdges :=
  h.of_keeps (State.keeperEdges_keeps (Sub.refl _) (Keeps.refl _ _)) rfl

end KeepsModeRegs

/-- The releases of both die resets, before the dies start (R461). -/
def State.releaseBits (s : State) (straps : Byte) : State :=
  let s1 := { s with straps := straps, kp := { s.kp with rstWait := false, bootDue := true } }
  (s1.wrB (kps KPS_STAT) 8 false).when s1.part.twoDies fun t => t.wrB (kps KPS_STAT) 9 false

theorem State.releaseDies_keepsModeRegs (s : State) (p : Byte) : KeepsModeRegs (s.releaseBits p) (s.releaseDies p) :=
  (((((KeepsModeRegs.refl (s.releaseBits p)).startDie (d := 0) (by decide)).when _ fun _ h =>
    h.startDie (d := 1) (by decide)).evalFloors).keeperEdges).of_regs rfl

/-- The start of the dies leaves the straps and what the keeper holds. -/
theorem State.releaseDies_keeps_releaseBits (s : State) (p : Byte) : Keeps 0x5300104 (s.releaseBits p) (s.releaseDies p) :=
  State.arm_keeps (by decide) (State.keeperEdges_keeps (by decide) (State.evalFloors_keeps (by decide)
    (State.when_keeps (by decide) (State.startDie_keeps (by decide) (Keeps.refl _ _) 0) _ _ fun _ h =>
      State.startDie_keeps (by decide) h 1))) _ _

/-! ## The power sequencer (R460, R461, R537) -/

theorem State.rdF_arm (s : State) (k ns a lo n : Nat) : (s.arm k ns).rdF a lo n = s.rdF a lo n := rfl
theorem State.rdB_arm (s : State) (k ns a i : Nat) : (s.arm k ns).rdB a i = s.rdB a i := rfl
theorem State.rdF_disarm (s : State) (k a lo n : Nat) : (s.disarm k).rdF a lo n = s.rdF a lo n := rfl
theorem State.rdF_useFree (s : State) (a lo n : Nat) : s.useFree.rdF a lo n = s.rdF a lo n := rfl
theorem State.rdF_withKp (s : State) (k : Keeper) (a lo n : Nat) : State.rdF { s with kp := k } a lo n = s.rdF a lo n := rfl
theorem State.rdB_withKp (s : State) (k : Keeper) (a i : Nat) : State.rdB { s with kp := k } a i = s.rdB a i := rfl

theorem State.timer_withKp (s : State) (x : Keeper) (k : Nat) : State.timer { s with kp := x } k = s.timer k := rfl
theorem State.now_disarm (s : State) (k : Nat) : (s.disarm k).now = s.now := rfl
theorem State.now_useFree (s : State) : s.useFree.now = s.now := rfl
theorem State.now_wrF (s : State) (a lo n v : Nat) : (s.wrF a lo n v).now = s.now := rfl
theorem State.free_arm (s : State) (k ns : Nat) : (s.arm k ns).free = s.free := rfl
theorem State.free_disarm (s : State) (k : Nat) : (s.disarm k).free = s.free := rfl
theorem State.free_useFree (s : State) : s.useFree.free = s.free + 1 := rfl
theorem State.pwrEn_arm (s : State) (k ns : Nat) : (s.arm k ns).pwrEn = s.pwrEn := rfl
theorem State.now_arm (s : State) (k ns : Nat) : (s.arm k ns).now = s.now := rfl
theorem State.now_wrB (s : State) (a i : Nat) (b : Bool) : (s.wrB a i b).now = s.now := rfl
theorem State.timer_wrB (s : State) (a i : Nat) (b : Bool) (k : Nat) : (s.wrB a i b).timer k = s.timer k := rfl

theorem b2n_odd (n : Nat) : b2n (n % 2 == 1) = n % 2 := by
  rcases Nat.mod_two_eq_zero_or_one n with h | h <;> rw [h] <;> rfl

/-- A field of two bits, bit by bit. -/
theorem fld_two (w : Word) (lo : Nat) : fld w lo 2 = b2n (bit w lo) + 2 * b2n (bit w (lo + 1)) := by
  unfold fld bit
  rw [b2n_odd, b2n_odd, Nat.pow_succ 2 lo, ← Nat.div_div_eq_div_mul]
  omega

/-- The two PGOOD inputs. -/
theorem State.pgood_eq (s : State) : s.pgood = b2n (s.rdB (kps KPS_STAT) 4) + 2 * b2n (s.rdB (kps KPS_STAT) 5) := fld_two _ _

theorem State.pgood_mod_two (s : State) : s.pgood % 2 = b2n (s.rdB (kps KPS_STAT) 4) := by
  rw [State.pgood_eq, Nat.add_mul_mod_self_left]; cases s.rdB (kps KPS_STAT) 4 <;> rfl

theorem State.pwrEn_lt (s : State) : s.pwrEn < 16 := Nat.mod_lt _ (by decide)

/-- The time of a step of the sequencer. -/
abbrev State.stepNs (s : State) : Nat := atLeast1 (s.rdF (kps KPS_CFG) 0 4) * ms

/-- A step of the sequencer at its instant, to `e` outputs driven. -/
def State.pwrTo (s : State) (e : Nat) : State := ((s.expire stepTmr).wrF (kps KPS_STAT) 0 4 e).arm stepTmr s.stepNs

theorem State.pwrTo_pwrEn (s : State) (e : Nat) : (s.pwrTo e).pwrEn = e % 16 := by
  unfold State.pwrEn State.pwrTo
  rw [State.rdF_arm]
  exact State.rdF_wrF_self _ _ _ _ _ (by decide)

theorem State.pwrTo_timer (s : State) (e : Nat) : (s.pwrTo e).timer stepTmr = some ((s.pwrTo e).now + s.stepNs) := by
  unfold State.pwrTo; exact State.timer_arm_self _ _ _

/-- The instant of a timer leaves the registers of the keeper's mode and supplies. -/
theorem State.expire_rd (s : State) (k : Nat) {a : Nat} (ha : modeReg a = true) : (s.expire k).rd a = s.rd a :=
  (KeepsModeRegs.refl s).expire k a ha

theorem State.pwrTo_rdB (s : State) (e : Nat) {i : Nat} (h : 4 ≤ i) (hi : i < 32) :
    (s.pwrTo e).rdB (kps KPS_STAT) i = s.rdB (kps KPS_STAT) i := by
  unfold State.pwrTo
  rw [State.rdB_arm, State.rdB_wrF_apart _ _ _ hi (.inr h), State.rdB_congr (s.expire_rd stepTmr (by decide))]

/-- In WAKING one output more is driven. -/
theorem State.pwrStep_up (s : State) (hm : s.mode = .waking) (he : s.pwrEn < 15) : s.pwrStep =
    if s.pwrEn = 0 then (s.pwrTo (s.pwrEn * 2 + 1)).arm pgoodTmr (max 10 (s.rdF (kps KPS_CFG) 8 8) * ms) else s.pwrTo (s.pwrEn * 2 + 1) := by
  unfold State.pwrStep; exact if_pos ⟨hm, he⟩

/-- In a power-down the last output falls, and with it the PGOOD inputs of the rails that fall. -/
theorem State.pwrStep_down (s : State) (hm : s.mode = .parked) (hd : s.kp.powerDown = true) (he : 0 < s.pwrEn) : s.pwrStep =
    if s.pwrEn / 2 < 3 then ((s.pwrTo (s.pwrEn / 2)).wrB (kps KPS_STAT) 5 false).wrB (kps KPS_STAT) 4 false
    else (s.pwrTo (s.pwrEn / 2)).wrB (kps KPS_STAT) 5 false := by
  have h15 : s.pwrEn / 2 < 15 := by have := s.pwrEn_lt; omega
  unfold State.pwrStep
  rw [if_neg (by rw [hm]; simp), if_pos ⟨hd, he⟩]
  dsimp only
  rw [if_pos h15]
  rfl

theorem State.pwrStep_up_spec (s : State) (hm : s.mode = .waking) (he : s.pwrEn < 15) :
    s.pwrStep.pwrEn = (s.pwrEn * 2 + 1) % 16 ∧ s.pwrStep.timer stepTmr = some (s.pwrStep.now + s.stepNs) := by
  rw [State.pwrStep_up s hm he]
  split
  · rw [State.pwrEn_arm, State.now_arm, State.timer_arm_ne _ _ (by decide)]
    exact ⟨State.pwrTo_pwrEn s _, State.pwrTo_timer s _⟩
  · exact ⟨State.pwrTo_pwrEn s _, State.pwrTo_timer s _⟩

theorem State.pwrStep_down_spec (s : State) (hm : s.mode = .parked) (hd : s.kp.powerDown = true) (he : 0 < s.pwrEn) :
    s.pwrStep.pwrEn = s.pwrEn / 2 ∧ s.pwrStep.pgood = (if s.pwrEn / 2 < 3 then 0 else s.pgood % 2) ∧
      s.pwrStep.timer stepTmr = some (s.pwrStep.now + s.stepNs) := by
  have hen : (s.pwrTo (s.pwrEn / 2)).pwrEn = s.pwrEn / 2 := by
    rw [State.pwrTo_pwrEn]; have := s.pwrEn_lt; omega
  have hen5 : ((s.pwrTo (s.pwrEn / 2)).wrB (kps KPS_STAT) 5 false).pwrEn = s.pwrEn / 2 :=
    (State.rdF_wrB_apart _ _ _ (by decide) (by decide)).trans hen
  have h5 : ((s.pwrTo (s.pwrEn / 2)).wrB (kps KPS_STAT) 5 false).rdB (kps KPS_STAT) 5 = false := State.rdB_wrB_self _ _ _ (by decide)
  rw [State.pwrStep_down s hm hd he]
  split
  · rw [State.now_wrB, State.now_wrB, State.timer_wrB, State.timer_wrB]
    refine ⟨(State.rdF_wrB_apart _ _ _ (by decide) (by decide)).trans hen5, ?_, State.pwrTo_timer s _⟩
    rw [State.pgood_eq, State.rdB_wrB_self _ _ _ (by decide), State.rdB_wrB_ne _ _ _ (by decide) (by decide), h5]
    rfl
  · rw [State.now_wrB, State.timer_wrB]
    refine ⟨hen5, ?_, State.pwrTo_timer s _⟩
    rw [State.pgood_mod_two, State.pgood_eq, h5, State.rdB_wrB_ne _ _ _ (by decide) (by decide), State.pwrTo_rdB _ _ (by decide) (by decide)]
    rfl

/-- All supplies are good: the wait of RST_DLY starts, and KPS_T_PGOOD shows a measured time (R461). -/
theorem pgoodReached_spec (s : State) (hm : s.mode = .waking) (he : s.pwrEn = 15) : ∃ t, exec .pgoodReached s = .next t ∧ t.pgood = 3 ∧
    t.kp.rstWait = true ∧ t.rdF (kps KPS_T_PGOOD) 0 16 = s.fresh.toNat % 65536 ∧ t.free = s.free + 1 ∧
    t.timer rstDlyTmr = some (s.now + atLeast1 (s.rdF (kps KPS_CFG) 16 4) * ms) := by
  refine ⟨_, congrArg Host.Outcome.next (State.when_pos s (by rw [hm, he]; rfl) _), ?_, rfl, ?_, ?_, ?_⟩
  · unfold State.pgood
    rw [State.rdF_arm, State.rdF_withKp, State.rdF_arm, State.rdF_disarm, State.rdF_useFree, State.rdF_congr (State.rd_wrF_ne _ _ _ _ (by decide))]
    exact State.rdF_wrF_self s _ _ _ 3 (by decide)
  · rw [State.rdF_arm, State.rdF_withKp, State.rdF_arm, State.rdF_disarm, State.rdF_useFree]
    exact State.rdF_wrF_self _ _ _ _ _ (by decide)
  · rw [State.free_arm]
    dsimp only
    rw [State.free_arm, State.free_disarm, State.free_useFree, State.wrF_free, State.wrF_free]
  · rw [State.timer_arm_ne _ _ (by decide), State.timer_withKp, State.timer_arm_self, State.now_disarm, State.now_useFree, State.now_wrF,
      State.now_wrF]

theorem pgoodLoss_spec (s : State) (hm : s.mode.powered = true) (hp : s.pgood = 3) : ∃ u : State, exec .pgoodLoss s = .next (u.park .pgoodLoss) ∧
    u.pgood = 0 ∧ u.rdB (kps PG_EVT) 1 = true ∧ u.kp.rstWait = false ∧ u.mode = s.mode := by
  refine ⟨_, congrArg Host.Outcome.next (State.when_pos s (by rw [hm, hp]; rfl) _), ?_, ?_, rfl, ?_⟩
  · exact (State.rdF_congr (State.rd_raise_ne _ _ (by decide) (by decide)) 4 2).trans (State.rdF_wrF_self s _ _ _ 0 (by decide))
  · exact (State.rdB_raise _ (kps 0) 1 1 (by decide)).trans (if_pos rfl)
  · exact State.mode_congr ((State.rd_raise_ne _ _ (by decide) (by decide)).trans (State.rd_wrF_ne _ _ _ _ (by decide)))

/-- What a transition to PARKED shows, whatever its cause (R537). -/
theorem State.park_spec (s : State) (c : Cause) : (s.park c).mode = .parked ∧ (s.park c).rdF (kpr KPR_MODE) 16 8 = c.code ∧
    (s.park c).kp.powerDown = true ∧ (s.park c).kp.bootDue = false ∧ (s.park c).rdB (kps KPS_STAT) 8 = true ∧
    (s.part.twoDies = true → (s.park c).rdB (kps KPS_STAT) 9 = true) :=
  ⟨s.park_mode c, s.park_cause c, rfl, rfl, s.park_die0 c, s.park_die1 c⟩

/-- The release of the resets: both dies are out of reset, the straps are new, and a boot is due (R459, R461). -/
theorem State.releaseDies_spec (s : State) (p : Byte) : (s.releaseDies p).straps = p ∧ (s.releaseDies p).kp.bootDue = true ∧
    (s.releaseDies p).kp.rstWait = false ∧ (s.releaseDies p).rdB (kps KPS_STAT) 8 = false ∧
    (s.part.twoDies = true → (s.releaseDies p).rdB (kps KPS_STAT) 9 = false) := by
  have hk := s.releaseDies_keeps_releaseBits p
  have hr := fun i => State.rdB_congr (s.releaseDies_keepsModeRegs p (kps KPS_STAT) (by decide)) i
  have hkp : (s.releaseBits p).kp = { s.kp with rstWait := false, bootDue := true } := by
    unfold State.releaseBits State.when; dsimp only; split <;> rfl
  have hstraps : (s.releaseBits p).straps = p := by
    unfold State.releaseBits State.when; dsimp only; split <;> rfl
  refine ⟨(hk.straps rfl).trans hstraps, ?_, ?_, ?_, fun h => ?_⟩
  · rw [hk.kp rfl, hkp]
  · rw [hk.kp rfl, hkp]
  · rw [hr]
    unfold State.releaseBits State.when
    dsimp only
    split
    · rw [State.rdB_wrB_ne _ _ _ (by decide) (by decide), State.rdB_wrB_self _ _ _ (by decide)]
    · exact State.rdB_wrB_self _ _ _ (by decide)
  · rw [hr]
    unfold State.releaseBits
    rw [State.when_pos _ h, State.rdB_wrB_self _ _ _ (by decide)]

theorem dieResetRelease_spec (p : Byte) (s : State) (hm : s.mode = .waking) (hp : s.pgood = 3) (hr : s.rdB (kps KPS_STAT) 8 = true) :
    ∃ t, exec (.dieResetRelease p) s = .next t ∧ t.straps = p ∧ t.kp.bootDue = true ∧ t.kp.rstWait = false ∧
      t.rdB (kps KPS_STAT) 8 = false ∧ (s.part.twoDies = true → t.rdB (kps KPS_STAT) 9 = false) := by
  refine ⟨_, congrArg Host.Outcome.next (State.when_pos s (by rw [hm, hp, hr]; rfl) _), ?_⟩
  rw [← (State.expire_keeps (Sub.refl _) (Keeps.refl _ s) rstDlyTmr).part]
  exact (s.expire rstDlyTmr).releaseDies_spec p

theorem powerDownEnd_spec (s : State) (hd : s.kp.powerDown = true) (he : s.pwrEn = 0) : ∃ t, exec .powerDownEnd s = .next t ∧
    t.kp.powerDown = false ∧ t.rdB (kpr KPR_MODE) 5 = true ∧
    t.timer minOffTmr = some (s.now + max 10 (s.rdF (kwk KWK_MIN_OFF) 0 8) * ms) := by
  refine ⟨_, congrArg Host.Outcome.next (State.when_pos s (by rw [hd, he]; rfl) _), rfl, ?_, ?_⟩
  · rw [State.rdB_withKp, State.rdB_arm, State.rdB_wrB_self _ _ _ (by decide)]
  · rw [State.timer_withKp, State.timer_arm_self, State.now_wrB, State.now_disarm]

/-- RST_OUT_N rises with its flag, and the MDIO frames that follow write no register (R462). -/
theorem rstOutRelease_spec (s : State) (hu : s.dieUp 0 = true) (ho : s.rdB (kps KPS_STAT) 10 = true) :
    ∃ t, exec .rstOutRelease s = .next t ∧ t.rdB (kps KPS_STAT) 10 = false ∧ t.rdB (kps PG_EVT) 2 = true := by
  let u := ((s.expire rstOutTmr).wrB (kps KPS_STAT) 10 false).raise (kps 0) 2
  have hf : KeepsModeRegs u (u.each (fun m v => v.when (v.rdB (v.mdio m DIE_MDIO_STAT) 0) fun w => w.mdioSend m) [0, 1]) :=
    (KeepsModeRegs.refl u).each _ fun m _ _ h => h.when _ fun _ h' =>
      h'.of_keeps (State.mdioSend_keeps (Sub.refl _) (Keeps.refl _ _) m) rfl
  refine ⟨_, congrArg Host.Outcome.next (State.when_pos s (by rw [hu, ho]; rfl) _), ?_, ?_⟩
  · rw [State.rdB_congr (hf _ (by decide)), State.rdB_congr (State.rd_raise_ne _ _ (by decide) (by decide)),
      State.rdB_wrB_self _ _ _ (by decide)]
  · rw [State.rdB_congr (hf _ (by decide))]
    exact (State.rdB_raise _ (kps 0) 2 2 (by decide)).trans (if_pos rfl)

/-- Settles O17, command by command. -/
theorem powerSequencerRaisesAndDropsRails : Obligations.PowerSequencerRaisesAndDropsRails := by
  refine ⟨fun s hm he => ⟨_, rfl, s.pwrStep_up_spec hm he⟩, fun s hm hd he => ⟨_, rfl, s.pwrStep_down_spec hm hd he⟩, pgoodReached_spec,
    fun s hm hp he => ?_, pgoodLoss_spec, State.park_spec, dieResetRelease_spec, powerDownEnd_spec, rstOutRelease_spec⟩
  exact congrArg Host.Outcome.next (State.when_pos s (by simp [hm, hp, he]) _)

/-! ## The elapsed time after a passage of ticks -/

theorem State.now_congr {s t : State} (h : t.el = s.el) : t.now = s.now := by unfold State.now; rw [h]

theorem State.ppsFrom_now (s : State) (old : Nat) : (s.ppsFrom old).now = s.now := by
  unfold State.ppsFrom
  dsimp only
  rw [apply_ite State.now]
  exact ite_self s.now

theorem State.advDies_now (s : State) (n : Nat) : (s.advDies n).now = s.now := by
  have hel : ((s.advDie 0 n).when (s.dieUp 1) fun t => t.advDie 1 n).el = s.el :=
    (State.when_keeps (w := 0x184) (by decide) (State.advDie_keeps (by decide) (Keeps.refl _ s) 0 n) _ _ fun _ h =>
      State.advDie_keeps (by decide) h 1 n).el rfl
  exact (State.ppsFrom_now _ _).trans (State.now_congr hel)

theorem State.dueTick_now (s : State) : s.dueTick.now = s.now := by
  have htake : ∀ u : State, ((u.takeSetStep 0).takeSetStep 1).now = u.now := fun u =>
    State.now_congr ((State.takeSetStep_keeps (Sub.refl _) (State.takeSetStep_keeps (Sub.refl _) (Keeps.refl _ u) 0) 1).el rfl)
  have htens : ((s.takeTens 0).takeTens 1).now = s.now :=
    State.now_congr ((State.takeTens_keeps (Sub.refl _) (State.takeTens_keeps (Sub.refl _) (Keeps.refl _ s) 0) 1).el rfl)
  unfold State.dueTick
  rw [State.ppsFrom_now, htake, State.advDies_now, htens]

theorem State.rowlessTicks_now (s : State) (n : Nat) : (s.rowlessTicks n).now = s.now :=
  State.now_congr ((State.rowlessTicks_keeps (Sub.refl _) (Keeps.refl _ s) n).el rfl)

/-- `n` ticks are `2 * n` ns of elapsed time, whatever is due and whatever runs. -/
theorem State.advance_now (s : State) (n : Nat) : (s.advance n).now = s.now + 2 * n := by
  unfold State.advance
  dsimp only
  split
  · split
    · rw [State.rowlessTicks_now, State.advDies_now, State.dueTick_now]; rfl
    · rw [State.rowlessTicks_now, State.advDies_now]; rfl
  · rfl

/-- An instant that is reached does not lie ahead. -/
theorem State.le_reachAt_now (s : State) (n : Nat) : n ≤ (s.reachAt n).now := by
  unfold State.reachAt; rw [State.advance_now]; omega

/-! ## Registers of a region -/

theorem cpm_shared_ne_rgn (g : Nat) {o : Nat} : cpm (g / 2) CPM_SHARED ≠ rgn g o := by
  unfold cpm rgn; simp only [CPM_SHARED]; omega

theorem rgn_ne (g : Nat) {o o' : Nat} (h : o ≠ o') : rgn g o ≠ rgn g o' := by unfold rgn; omega

theorem rgn_zero_add (g o : Nat) : rgn g 0 + o = rgn g o := by unfold rgn; omega

theorem State.evalShared_rd (s : State) {d a : Nat} (h : cpm d CPM_SHARED ≠ a) : (s.evalShared d).rd a = s.rd a :=
  State.rd_wrB_ne _ _ _ h

theorem State.evalNextEvt_rd (s : State) {g a : Nat} (h : rgn g RGN_NEXT_EVT ≠ a) : (s.evalNextEvt g).rd a = s.rd a := by
  unfold State.evalNextEvt
  split <;> exact State.rd_wr_ne _ _ h

/-- The residence counters are no registers. -/
theorem State.rgnCount_rd (s : State) (g a b c : Nat) : (s.rgnCount g a b).rd c = s.rd c :=
  congrArg (Sparse.get regDefault · c) ((State.rgnCount_keeps (Sub.refl _) (Keeps.refl _ s) g a b).regs rfl)

/-! ## Entry into a state -/

/-- A region that enters a state shows it and no wake. -/
theorem State.rgnEnter_rd_pstate (s : State) (g v : Nat) : (s.rgnEnter g v).rd (rgn g RGN_PSTATE) =
    setBit (setFld (s.rd (rgn g RGN_PSTATE)) 0 2 v) 2 false := by
  unfold State.rgnEnter
  rw [State.evalShared_rd _ (cpm_shared_ne_rgn g), State.evalNextEvt_rd _ (rgn_ne g (by decide)), State.rd_wrB_self, State.rd_wrF_self,
    State.rgnCount_rd]

theorem State.rgnEnter_state (s : State) (g : Nat) {v : Nat} (hv : v < 4) : (s.rgnEnter g v).rgnState g = v := by
  unfold State.rgnState State.rdF
  rw [State.rgnEnter_rd_pstate]
  unfold setBit
  rw [fld_setFld_ne _ _ _ _ _ _ (by decide) (by decide), fld_setFld _ _ _ _ (by decide)]
  exact Nat.mod_eq_of_lt hv

theorem State.rgnEnter_waking (s : State) (g v : Nat) : (s.rgnEnter g v).rgnWaking g = false := by
  unfold State.rgnWaking State.rdB
  rw [State.rgnEnter_rd_pstate, bit_setBit _ _ _ _ (by decide), if_pos rfl]

theorem State.rgnEnter_now (s : State) (g v : Nat) : (s.rgnEnter g v).now = s.now :=
  State.now_congr ((State.rgnEnter_keeps (Sub.refl _) (Keeps.refl _ s) g v).el rfl)

/-! ## The choice of a state (R50) -/

theorem State.rgnChoice_lt (s : State) (g : Nat) : s.rgnChoice g < 4 := by
  unfold State.rgnChoice
  dsimp only
  split
  · decide
  · split
    · decide
    · split <;> decide

/-- The state chosen is one that the region may enter. -/
theorem State.rgnMay_rgnChoice (s : State) (g : Nat) (h : s.rgnChoice g ≠ 0) : s.rgnMay g (s.rgnChoice g) (s.rgnNext g) = true := by
  revert h
  unfold State.rgnChoice
  dsimp only
  split
  · rename_i h3
    exact fun _ => (Bool.and_eq_true_iff.1 h3).2
  · split
    · rename_i h2
      exact fun _ => h2
    · split
      · rename_i h1
        exact fun _ => h1
      · exact fun h => absurd rfl h

theorem State.rgnMay_some {s : State} {g v : Nat} {n : Int} (h : s.rgnMay g v (some n) = true) : v ≤ s.effFloor g ∧
    (rgnWake v + s.regMargin g : Nat) ≤ (BitVec.ofInt 32 n).toInt ∧ (rgnMin v : Int) ≤ (BitVec.ofInt 32 n).toInt := by
  unfold State.rgnMay at h
  obtain ⟨hfloor, hnext⟩ := Bool.and_eq_true_iff.1 h
  exact ⟨of_decide_eq_true hfloor, of_decide_eq_true hnext⟩

/-! ## Wakes -/

theorem State.rgnWakeUp_rd_pstate (s : State) (g : Nat) (b : Bool) : (s.rgnWakeUp g b).rd (rgn g RGN_PSTATE) =
    setBit (setBit (s.rd (rgn g RGN_PSTATE)) 2 true) 3 b := by
  unfold State.rgnWakeUp
  dsimp only
  rw [State.evalShared_rd _ (cpm_shared_ne_rgn g), State.rd_wrB_self, State.rd_wrB_self, State.rgnCount_rd]

/-- A wake touches only the state of its region and CPM_SHARED. -/
theorem State.rgnWakeUp_rd (s : State) (g : Nat) (b : Bool) {a : Nat} (hp : rgn g RGN_PSTATE ≠ a) (hc : cpm (g / 2) CPM_SHARED ≠ a) :
    (s.rgnWakeUp g b).rd a = s.rd a := by
  unfold State.rgnWakeUp
  dsimp only
  rw [State.evalShared_rd _ hc, State.rd_wrB_ne _ _ _ hp, State.rd_wrB_ne _ _ _ hp, State.rgnCount_rd]

/-- While a wake lasts WAKING is 1, and UNKNOWN shows whether it is one for an unknown event (R53). -/
theorem State.rgnWakeUp_spec (s : State) (g : Nat) (b : Bool) : (s.rgnWakeUp g b).rgnWaking g = true ∧
    (s.rgnWakeUp g b).rdB (rgn g RGN_PSTATE) 3 = b ∧ (s.rgnWakeUp g b).rgnState g = s.rgnState g := by
  unfold State.rgnWaking State.rgnState State.rdB State.rdF
  rw [State.rgnWakeUp_rd_pstate, bit_setBit _ _ _ _ (by decide), bit_setBit _ _ _ _ (by decide), bit_setBit _ _ _ _ (by decide)]
  refine ⟨rfl, if_pos rfl, ?_⟩
  unfold setBit
  rw [fld_setFld_ne _ _ _ _ _ _ (by decide) (by decide), fld_setFld_ne _ _ _ _ _ _ (by decide) (by decide)]

theorem State.rgnWakeUp_st (s : State) (g : Nat) (b : Bool) : (s.rgnWakeUp g b).st 0 = s.st 0 := by
  have hd := dieBase_cases (g / 2)
  have ht : tmu 0 TMU_ST = 0x10048 := by decide
  refine State.rgnWakeUp_rd s g b ?_ ?_
  · rw [ht]; unfold rgn; omega
  · rw [ht]; unfold cpm; simp only [CPM_SHARED]; omega

/-- The end of a wake before WAKE_LATE is judged. -/
def State.rgnActive (s : State) (g : Nat) : State :=
  ((s.wrF (rgn g RGN_PSTATE) 0 2 0).wrB (rgn g RGN_PSTATE) 2 false).evalShared (g / 2)

theorem State.rgnAwake_eq (s : State) (g : Nat) : s.rgnAwake g =
    (s.rgnActive g).when (stReached (s.rd (rgn g RGN_NEXT_EVT)) (s.st (g / 2))) fun v => v.raise (rgn g 0) 0 := rfl

/-- WAKE_LATE leaves the state of the region. -/
theorem State.rgnAwake_rd_pstate (s : State) (g : Nat) : (s.rgnAwake g).rd (rgn g RGN_PSTATE) =
    setBit (setFld (s.rd (rgn g RGN_PSTATE)) 0 2 0) 2 false := by
  have hactive : (s.rgnActive g).rd (rgn g RGN_PSTATE) = setBit (setFld (s.rd (rgn g RGN_PSTATE)) 0 2 0) 2 false := by
    unfold State.rgnActive
    rw [State.evalShared_rd _ (cpm_shared_ne_rgn g), State.rd_wrB_self, State.rd_wrF_self]
  rw [State.rgnAwake_eq, ← hactive]
  cases stReached (s.rd (rgn g RGN_NEXT_EVT)) (s.st (g / 2)) with
  | false => rfl
  | true =>
    rw [State.when_true, State.rd_raise_ne _ _ (by rw [rgn_zero_add]; exact rgn_ne g (by decide)) (by rw [rgn_zero_add]; exact rgn_ne g (by decide))]

theorem State.rgnAwake_active (s : State) (g : Nat) : (s.rgnAwake g).rgnState g = 0 ∧ (s.rgnAwake g).rgnWaking g = false := by
  unfold State.rgnState State.rgnWaking State.rdF State.rdB
  rw [State.rgnAwake_rd_pstate, bit_setBit _ _ _ _ (by decide)]
  unfold setBit
  rw [fld_setFld_ne _ _ _ _ _ _ (by decide) (by decide), fld_setFld _ _ _ _ (by decide)]
  exact ⟨rfl, rfl⟩

/-- WAKE_LATE is set where the known event came first (R63). -/
theorem State.rgnAwake_late (s : State) (g : Nat) : (s.rgnAwake g).rdB (rgn g PG_EVT) 0 =
    (s.rdB (rgn g PG_EVT) 0 || stReached (s.rd (rgn g RGN_NEXT_EVT)) (s.st (g / 2))) := by
  have hactive : (s.rgnActive g).rdB (rgn g PG_EVT) 0 = s.rdB (rgn g PG_EVT) 0 := by
    unfold State.rgnActive
    rw [State.rdB_congr (State.evalShared_rd _ (cpm_shared_ne_rgn g)), State.rdB_congr (State.rd_wrB_ne _ _ _ (rgn_ne g (by decide))),
      State.rdB_congr (State.rd_wrF_ne _ _ _ _ (rgn_ne g (by decide)))]
  rw [State.rgnAwake_eq, ← hactive]
  cases stReached (s.rd (rgn g RGN_NEXT_EVT)) (s.st (g / 2)) with
  | false => exact (Bool.or_false _).symm
  | true =>
    rw [State.when_true, ← rgn_zero_add g PG_EVT, State.rdB_raise _ _ _ _ (by decide), if_pos rfl, Bool.or_true]

/-- Settles O22, command by command. -/
theorem regionsSleepAndWake : Obligations.RegionsSleepAndWake := by
  refine ⟨fun g s hon hst hidle hch => ?_, fun g s n hch hn => ?_, fun g s hon hst hwk hfree hmay => ?_, fun g s hon hst hwk => ?_,
    fun g s hon hst hwk => ?_, fun g s hon hwk => ?_⟩
  · exact ⟨_, congrArg Host.Outcome.next (State.when_pos s (by simp [hon, hst, hidle, hch]) _),
      s.rgnEnter_state g.val (s.rgnChoice_lt g.val), s.rgnEnter_waking g.val _⟩
  · have hmay := s.rgnMay_rgnChoice g.val hch
    rw [hn] at hmay
    obtain ⟨hfloor, hwake, hmin⟩ := State.rgnMay_some hmay
    exact ⟨hwake, hmin, hfloor⟩
  · refine ⟨_, congrArg Host.Outcome.next (State.when_pos s (by simp [hon, hst, hwk, hfree, hmay]) _),
      State.rgnEnter_state _ g.val (by decide), State.rgnEnter_waking _ g.val 3, ?_⟩
    rw [State.rgnEnter_now]
    exact State.le_reachAt_now s _
  · refine ⟨_, congrArg Host.Outcome.next (State.when_pos s (by simp [hon, hst, hwk]) _), ?_⟩
    obtain ⟨hwaking, hunknown, -⟩ := State.rgnWakeUp_spec
      (s.reachSt (s.rd (rgn g.val RGN_NEXT_EVT) - wordOf (rgnWake (s.rgnState g.val) + s.regMargin g.val))) g.val false
    exact ⟨hwaking, hunknown, State.rgnWakeUp_st _ g.val false⟩
  · exact ⟨_, congrArg Host.Outcome.next (State.when_pos s (by simp [hon, hst, hwk]) _), s.rgnWakeUp_spec g.val true⟩
  · obtain ⟨hstate, hwaking⟩ := s.rgnAwake_active g.val
    exact ⟨_, congrArg Host.Outcome.next (State.when_pos s (by simp [hon, hwk]) _), hstate, hwaking, s.rgnAwake_late g.val⟩

/-! ## Power of the keeper (R42, R459) -/

/-- After power-up every register reads its reset value. -/
theorem State.keeperUp_rd (s : State) (p : Byte) (a : Nat) : (s.keeperUp p).rd a = regDefault a := by
  have hregs : (s.keeperUp p).regs = Sparse.drop (fun _ => true) s.regs := rfl
  unfold State.rd
  rw [hregs, Sparse.get_drop, if_pos rfl]

theorem State.keeperUp_mode (s : State) (p : Byte) : (s.keeperUp p).mode = .parked := by
  apply State.mode_of_rdF
  unfold State.rdF
  rw [State.keeperUp_rd]
  decide

theorem State.keeperUp_cause (s : State) (p : Byte) : (s.keeperUp p).rdF (kpr KPR_MODE) 16 8 = Cause.por.code := by
  unfold State.rdF
  rw [State.keeperUp_rd]
  decide

/-- What is left once the keeper has lost power: the mode OFF, the elapsed time and the fuses. -/
def State.keeperDown (s : State) : State :=
  { s with regs := Sparse.set regDefault [] (kpr KPR_MODE) 0, tbl := [], lat := [],
           kp := { Keeper.init with khf := false }, el := { clk := s.el.clk, timers := [] } }.resetHidden0.resetHidden1

theorem keeperPowerLoss_eq (s : State) (hm : s.mode ≠ .off) : exec .keeperPowerLoss s = .next s.keeperDown :=
  congrArg Host.Outcome.next (State.when_pos s (by simp [hm]) _)

theorem State.keeperDown_rd (s : State) (a : Nat) : s.keeperDown.rd a = if kpr KPR_MODE = a then 0 else regDefault a := by
  have hregs : s.keeperDown.regs = Sparse.set regDefault [] (kpr KPR_MODE) 0 := rfl
  unfold State.rd
  rw [hregs, Sparse.get_set]
  rfl

theorem fld_zero (lo n : Nat) : fld 0 lo n = 0 := by simp [fld]

theorem State.keeperDown_mode (s : State) : s.keeperDown.mode = .off := by
  apply State.mode_of_rdF
  unfold State.rdF
  rw [State.keeperDown_rd, if_pos rfl, fld_zero]
  rfl

/-- No relay is driven without power. -/
theorem State.keeperDown_driven (s : State) (l : Nat) : s.keeperDown.driven l = false := by
  unfold State.driven State.rdF
  rw [State.keeperDown_rd, if_neg (by decide), show regDefault (kby KBY_STAT) = 0 by decide, fld_zero]
  rfl

/-- Settles O13, command by command. -/
theorem keeperPowersUpParkedAndLosesPower : Obligations.KeeperPowersUpParkedAndLosesPower := by
  refine ⟨fun p s hm => ?_, fun p s hm => ?_, fun s hm => ?_⟩
  · exact ⟨_, congrArg Host.Outcome.next (State.when_pos s (by simp [hm]) _), s.keeperUp_mode p, s.keeperUp_cause p, s.keeperUp_rd p,
      fun _ => rfl, rfl, rfl⟩
  · exact congrArg Host.Outcome.next (show s.when (s.mode == .off) _ = s by simp [State.when, hm])
  · exact ⟨s.keeperDown, keeperPowerLoss_eq s hm, s.keeperDown_mode, fun _ => rfl, s.keeperDown_driven, rfl⟩

/-! ## PLL locks and the keeper's clocks (R56, R58, R62) -/

theorem pllBit_lt (p : Pll) : pllBit p < 9 := by cases p <;> decide

/-- A HOST lock shows that the reference clock is there, which leaves the bit of the PLL. -/
theorem pllLock_spec (d : Sys2Proof.Die) (p : Pll) (s : State) (hup : s.dieUp (dieNum d) = true) (hp : s.pllPresent (dieNum d) p = true) :
    ∃ t, exec (.pllLock d p) s = .next t ∧ t.rdB (cpm (dieNum d) CPM_CLK_STAT) (pllBit p) = true ∧
      (p = .host → t.rdB (cpm 0 CPM_CLK_STAT) 9 = true) ∧
      (∀ a, a ≠ cpm (dieNum d) CPM_CLK_STAT → a ≠ cpm 0 CPM_CLK_STAT → t.rd a = s.rd a) := by
  have hlt := pllBit_lt p
  have hlock : (s.wrB (cpm (dieNum d) CPM_CLK_STAT) (pllBit p) true).rdB (cpm (dieNum d) CPM_CLK_STAT) (pllBit p) = true :=
    State.rdB_wrB_self _ _ _ (by omega)
  refine ⟨_, congrArg Host.Outcome.next (State.when_pos s (by rw [hup, hp]; rfl) _), ?_⟩
  by_cases hh : p = .host
  · rw [State.when_pos _ (by simp [hh])]
    refine ⟨?_, fun _ => State.rdB_wrB_self _ _ _ (by decide), fun a ha ha0 => ?_⟩
    · by_cases hd : cpm 0 CPM_CLK_STAT = cpm (dieNum d) CPM_CLK_STAT
      · rw [hd, State.rdB_wrB_ne _ _ _ (by decide) (by omega), hlock]
      · rw [State.rdB_congr (State.rd_wrB_ne _ _ _ hd), hlock]
    · rw [State.rd_wrB_ne _ _ _ ha0.symm, State.rd_wrB_ne _ _ _ ha.symm]
  · rw [show (p == Pll.host) = false by simp [hh], State.when_false]
    exact ⟨hlock, fun h => absurd h hh, fun a ha _ => State.rd_wrB_ne _ _ _ ha.symm⟩

/-- Settles O19, command by command. -/
theorem pllLocksAndKeeperClocks : Obligations.PllLocksAndKeeperClocks := by
  refine ⟨pllLock_spec, fun b s hm => ?_, fun s hm hd hk => ?_, fun s hm => ?_⟩
  · exact congrArg Host.Outcome.next (State.when_pos s (by simp [hm]) _)
  · exact congrArg Host.Outcome.next (State.when_pos s (by rw [hm, hd, hk]; rfl) _)
  · exact congrArg Host.Outcome.next (State.when_pos s (by simp [hm]) _)

/-! ## A reset of die 1 can change the mode -/

/-- RUNNING with the outputs held, as after a HOLD that was taken in STANDBY (State.takeHold) and the token acquired since. The Komidon
link is up, and the only neighbour of side 1 is on line B, a port of die 1. -/
def runningHeld : State :=
  { State.reset with regs := [(klk 0 KLK_STAT, 1), (kpr KPR_MODE, 0x00010004)], tbl := [(nbrAddr 2 + 8, 1)]
                     sc := { Sched.init with hold := true } }

/-- The reset of die 1 takes the link and with it the neighbour: the side becomes an end side, and its end turn makes the node heal. -/
theorem runningHeld_dropDie1_mode : runningHeld.mode = .running ∧ runningHeld.dropDie1.mode = .healing := by decide +kernel

/-- Refutes O18: State.dropDie1 does not always leave the mode. The uncoupling of a side that loses its neighbour with the Komidon link
sets an end turn, and State.setTurn ends in State.toHealing. -/
theorem not_dieResetsClearWhatTheyReset : ¬ Obligations.DieResetsClearWhatTheyReset := by
  intro h
  obtain ⟨-, -, -, -, -, -, hdrop⟩ := h
  obtain ⟨hrun, hheal⟩ := runningHeld_dropDie1_mode
  have hmode := (hdrop runningHeld).1
  rw [hrun, hheal] at hmode
  cases hmode

end Sys2Proof.Machine
end

section
/-! SUPPORT. The pages that an access and the passage of time touch, the fences and the policer of a consist port, and the settled
statement of 06_consist_star.md on them. -/

namespace Sys2Proof.Machine

/-! ## The page that a register lies in -/

/-- The number of a register's page within its die (R475). -/
def pageNo (a : Nat) : Nat := a % 0x04000000 / 0x1000

theorem pageNo_dieBase (d : Nat) {x : Nat} (h : x < 0x04000000) : pageNo (dieBase d + x) = x / 0x1000 := by
  have hd := dieBase_cases d
  unfold pageNo; omega

theorem pageNo_tmu (k : Nat) {o : Nat} (h : o < 0x1000) : pageNo (tmu k o) = 0x010 := by
  unfold tmu; rw [Nat.add_assoc, pageNo_dieBase _ (by omega)]; omega

theorem pageNo_cpm (d : Nat) {o : Nat} (h : o < 0x1000) : pageNo (cpm d o) = 0x001 := by
  unfold cpm; rw [Nat.add_assoc, pageNo_dieBase _ (by omega)]; omega

theorem pageNo_rgn (g : Nat) {o : Nat} (h : o < 0x1000) : pageNo (rgn g o) = 0x150 + g % 2 := by
  unfold rgn; rw [Nat.add_assoc, Nat.add_assoc, pageNo_dieBase _ (by omega)]; omega

theorem pageNo_prt (p : Nat) {o : Nat} (h : o < 0x1000) : pageNo (prt p o) = 0x100 + p % 32 := by
  unfold prt; rw [Nat.add_assoc, Nat.add_assoc, pageNo_dieBase _ (by omega)]; omega

/-- From `s` to `t` registers have changed on the pages `l` only. -/
def ChangesOnly (l : List Nat) (s t : State) : Prop := ∀ a, pageNo a ∉ l → t.rd a = s.rd a

namespace ChangesOnly

variable {l : List Nat} {s0 s t : State}

theorem refl (l : List Nat) (s : State) : ChangesOnly l s s := fun _ _ => rfl

theorem of_regs (h : ChangesOnly l s0 s) (e : t.regs = s.regs) : ChangesOnly l s0 t := fun a ha => by
  rw [← h a ha]; unfold State.rd; rw [e]

theorem of_keeps {w : Nat} (h : ChangesOnly l s0 s) (k : Keeps w s t) (hw : w.testBit 2 = false) : ChangesOnly l s0 t :=
  h.of_regs (k.regs hw)

theorem wr (h : ChangesOnly l s0 s) {a : Nat} (v : Word) (ha : pageNo a ∈ l) : ChangesOnly l s0 (s.wr a v) := fun b hb => by
  rw [State.rd_wr_ne _ _ (by rintro rfl; exact hb ha), h b hb]

theorem raise (h : ChangesOnly l s0 s) {base : Nat} (i : Nat) (he : pageNo (base + PG_EVT) ∈ l) (hs : pageNo (base + PG_SEQ) ∈ l) :
    ChangesOnly l s0 (s.raise base i) := fun b hb => by
  rw [State.rd_raise_ne _ _ (by rintro rfl; exact hb he) (by rintro rfl; exact hb hs), h b hb]

theorem ite (c : Prop) [Decidable c] {a b : State} (ha : ChangesOnly l s0 a) (hb : ChangesOnly l s0 b) :
    ChangesOnly l s0 (if c then a else b) := by split <;> assumption

theorem when (h : ChangesOnly l s0 s) (c : Bool) {f : State → State} (hf : ∀ t, ChangesOnly l s0 t → ChangesOnly l s0 (f t)) :
    ChangesOnly l s0 (s.when c f) := ite _ (hf s h) h

end ChangesOnly

/-! ## The passage of time touches the TMU pages only -/

/-- The page of the TMU. -/
abbrev tmuPages : List Nat := [0x010]

/-- The registers of a domain lie on the TMU page. -/
theorem tdReg_lt {d c : Nat} (hd : d < 2) (hc : c < 0x180 := by decide) : c + 0x80 * d < 0x1000 := by omega

namespace ChangesOnly

variable {s0 s t : State}

theorem setTm (h : ChangesOnly tmuPages s0 s) (m : TimeUnit) : ChangesOnly tmuPages s0 { s with tm := m } := h.of_regs rfl

theorem wrTmu (h : ChangesOnly tmuPages s0 s) (k : Nat) (v : Word) {o : Nat} (ho : o < 0x1000) : ChangesOnly tmuPages s0 (s.wr (tmu k o) v) :=
  h.wr v (by rw [pageNo_tmu k ho]; decide)

theorem raiseTmuOn (h : ChangesOnly tmuPages s0 s) (k i : Nat) : ChangesOnly tmuPages s0 (s.raise (tmu k 0) i) :=
  h.raise i (by rw [show tmu k 0 + PG_EVT = tmu k PG_EVT from rfl, pageNo_tmu k (by decide)]; decide)
    (by rw [show tmu k 0 + PG_SEQ = tmu k PG_SEQ from rfl, pageNo_tmu k (by decide)]; decide)

theorem setView (h : ChangesOnly tmuPages s0 s) (k n : Nat) {d : Nat} (hd : d < 2) : ChangesOnly tmuPages s0 (s.setView k d n) :=
  have hns := h.wrTmu k (wordOf (n % nsPerSec)) (o := TMU_TD_NS d) (tdReg_lt hd)
  have hsec := (hns.wrTmu k _ (o := TMU_TD_SEC_LO d) (tdReg_lt hd)).wrTmu k _ (o := TMU_TD_SEC_HI d) (tdReg_lt hd)
  hsec.wrTmu k _ (o := TMU_TD_ST d) (tdReg_lt hd)

theorem evalRck (h : ChangesOnly tmuPages s0 s) (k : Nat) : ChangesOnly tmuPages s0 (s.evalRck k) :=
  (h.wrTmu k _ (o := TMU_RCK_OFS) (by decide)).wrTmu k _ (o := TMU_STAT) (by decide)

theorem setRck (h : ChangesOnly tmuPages s0 s) (k v : Nat) : ChangesOnly tmuPages s0 (s.setRck k v) := by
  have hst : ∀ w, ChangesOnly tmuPages s0 (s.setSt k w) := fun w =>
    have hw := h.wrTmu k w (o := TMU_ST) (by decide)
    ite _ hw (hw.raiseTmuOn k 0)
  unfold State.setRck
  have hwrap := (hst (wordOf (v / 2 ^ 32))).wrTmu k (s.rd (tmu k TMU_ST_WRAP) + wordOf (v / 2 ^ 64)) (o := TMU_ST_WRAP) (by decide)
  exact hwrap.setTm _

theorem advDomain (h : ChangesOnly tmuPages s0 s) (k n : Nat) {d : Nat} (hd : d < 2) : ChangesOnly tmuPages s0 (s.advDomain k d n) :=
  (h.setView k _ hd).wrTmu k _ (o := TMU_TD_FRAC d) (tdReg_lt hd)

theorem advDie (h : ChangesOnly tmuPages s0 s) (k n : Nat) : ChangesOnly tmuPages s0 (s.advDie k n) :=
  (((h.advDomain k n (by decide)).advDomain k n (by decide)).setRck k _).evalRck k

theorem ppsFrom (h : ChangesOnly tmuPages s0 s) (old : Nat) : ChangesOnly tmuPages s0 (s.ppsFrom old) :=
  h.of_keeps (State.ppsFrom_keeps (Sub.refl _) (Keeps.refl _ _) old) rfl

theorem advDies (h : ChangesOnly tmuPages s0 s) (n : Nat) : ChangesOnly tmuPages s0 (s.advDies n) :=
  ((h.advDie 0 n).when _ fun _ ht => ht.advDie 1 n).ppsFrom _

theorem holdEnd (h : ChangesOnly tmuPages s0 s) {d : Nat} (hd : d < 2) : ChangesOnly tmuPages s0 (s.holdEnd d) := by
  have hstat : ∀ i b, ChangesOnly tmuPages s0 (s.wrTmuStat i b) := fun i b =>
    (h.wrTmu 0 _ (o := TMU_STAT) (by decide)).when _ fun _ ht => ht.wrTmu 1 _ (o := TMU_STAT) (by decide)
  have hleft := (hstat (6 + d) false).wrTmu 0 0 (o := TMU_TD_HOLD_LEFT d) (tdReg_lt hd)
  exact ite _ ((hleft.wrTmu 0 _ (o := TMU_TD_OFS d) (tdReg_lt hd)).raiseTmuOn 0 _) h

theorem holdStep (h : ChangesOnly tmuPages s0 s) (m : Nat) {d : Nat} (hd : d < 2) : ChangesOnly tmuPages s0 (s.holdStep d m) :=
  have hw := h.wrTmu 0 (wordOf ((s.rd (tmu 0 (TMU_TD_HOLD_LEFT d))).toNat - m)) (o := TMU_TD_HOLD_LEFT d) (tdReg_lt hd)
  ite _ (ite _ (hw.holdEnd hd) hw) h

theorem rowlessTicks (h : ChangesOnly tmuPages s0 s) (n : Nat) : ChangesOnly tmuPages s0 (s.rowlessTicks n) := by
  have hh := (h.holdStep ((s.tm.rowless + n) / 500000) (d := 0) (by decide)).holdStep ((s.tm.rowless + n) / 500000) (d := 1) (by decide)
  have hr := hh.of_keeps (State.holdoverStep_keeps (Sub.refl _) (Keeps.refl _ _) ((s.tm.rowless + n) / 500000)) rfl
  exact ite _ (h.of_regs rfl) (hr.of_regs rfl)

theorem takeTens (h : ChangesOnly tmuPages s0 s) {d : Nat} (hd : d < 2) : ChangesOnly tmuPages s0 (s.takeTens d) := by
  unfold State.takeTens
  split
  · exact h
  · rename_i v _
    have hset := h.of_regs (t := s.setTens d (clampTo tensMin tensMax v)) rfl
    have hlow := hset.wrTmu 0 (wordOf (clampTo tensMin tensMax v)) (o := TMU_TD_TENS_LO d) (tdReg_lt hd)
    have hhigh := hlow.wrTmu 0 (wordOf (clampTo tensMin tensMax v / 2 ^ 32)) (o := TMU_TD_TENS_HI d) (tdReg_lt hd)
    exact ite _ hhigh (hhigh.raiseTmuOn 0 8)

theorem stepDomain (h : ChangesOnly tmuPages s0 s) (x : Int) {d : Nat} (hd : d < 2) : ChangesOnly tmuPages s0 (s.stepDomain d x) :=
  have hv := ite ((s.view 0 d : Int) + x < 0) ((h.setView 0 0 hd).raiseTmuOn 0 9) (h.setView 0 ((s.view 0 d : Int) + x).toNat hd)
  hv.evalRck 0

theorem takeSetStep (h : ChangesOnly tmuPages s0 s) {d : Nat} (hd : d < 2) : ChangesOnly tmuPages s0 (s.takeSetStep d) := by
  have hload : ∀ ns, ChangesOnly tmuPages s0 (s.loadView d ns) := fun ns =>
    ((h.setView 0 ns hd).wrTmu 0 0 (o := TMU_TD_FRAC d) (tdReg_lt hd)).evalRck 0
  have hstep : ∀ u, ChangesOnly tmuPages s0 u → ChangesOnly tmuPages s0 (if (s.due d).step = 0 then u else u.stepDomain d (s.due d).step) :=
    fun u hu => ite _ hu (hu.stepDomain _ hd)
  unfold State.takeSetStep
  dsimp only
  cases (s.due d).set with
  | none => exact (hstep s h).of_regs rfl
  | some ns => exact (hstep _ (hload ns)).of_regs rfl

theorem dueTick (h : ChangesOnly tmuPages s0 s) : ChangesOnly tmuPages s0 s.dueTick :=
  (((((h.takeTens (by decide)).takeTens (by decide)).advDies 1).takeSetStep (by decide)).takeSetStep (by decide)).ppsFrom _

theorem advance (h : ChangesOnly tmuPages s0 s) (n : Nat) : ChangesOnly tmuPages s0 (s.advance n) :=
  have ht : ChangesOnly tmuPages s0 { s with el := { s.el with clk := s.el.clk + 2 * n } } := h.of_regs rfl
  ite _ (ite _ ((ht.dueTick.advDies _).rowlessTicks n) ((ht.advDies n).rowlessTicks n)) ht

end ChangesOnly

/-- Time that passes leaves the registers of a port. -/
theorem State.reachAt_rd_prt (s : State) (n p : Nat) {o : Nat} (ho : o < 0x1000) : (s.reachAt n).rd (prt p o) = s.rd (prt p o) :=
  ChangesOnly.advance (ChangesOnly.refl _ s) _ _ (by rw [pageNo_prt p ho, List.mem_singleton]; omega)

/-! ## What an access touches -/

/-- The pages of the CPM and of the regions. -/
abbrev powerPages : List Nat := [0x001, 0x150, 0x151]

theorem pageNo_rgn_mem (g : Nat) {o : Nat} (ho : o < 0x1000) : pageNo (rgn g o) ∈ powerPages := by
  rw [pageNo_rgn g ho]
  rcases Nat.mod_two_eq_zero_or_one g with h | h <;> rw [h] <;> decide

namespace ChangesOnly

variable {s0 s : State}

theorem wrShared (h : ChangesOnly powerPages s0 s) (d : Nat) (b : Bool) : ChangesOnly powerPages s0 (s.wrB (cpm d CPM_SHARED) 0 b) :=
  h.wr _ (by rw [pageNo_cpm d (by decide)]; decide)

theorem wrRgn (h : ChangesOnly powerPages s0 s) (g : Nat) (v : Word) {o : Nat} (ho : o < 0x1000) : ChangesOnly powerPages s0 (s.wr (rgn g o) v) :=
  h.wr v (pageNo_rgn_mem g ho)

theorem rgnWakeUp (h : ChangesOnly powerPages s0 s) (g : Nat) (unknown : Bool) : ChangesOnly powerPages s0 (s.rgnWakeUp g unknown) :=
  have hc := h.of_keeps (State.rgnCount_keeps (Sub.refl _) (Keeps.refl _ s) g (s.rgnState g) 0) rfl
  ((hc.wrRgn g _ (o := RGN_PSTATE) (by decide)).wrRgn g _ (o := RGN_PSTATE) (by decide)).wrShared (g / 2) _

theorem rgnAwake (h : ChangesOnly powerPages s0 s) (g : Nat) : ChangesOnly powerPages s0 (s.rgnAwake g) :=
  have ha := ((h.wrRgn g _ (o := RGN_PSTATE) (by decide)).wrRgn g _ (o := RGN_PSTATE) (by decide)).wrShared (g / 2) _
  ha.when _ fun _ ht => ht.raise 0 (pageNo_rgn_mem g (o := PG_EVT) (by decide)) (pageNo_rgn_mem g (o := PG_SEQ) (by decide))

theorem wakeFor (h : ChangesOnly powerPages s0 s) (a : Nat) : ChangesOnly powerPages s0 (s.wakeFor a) := by
  have hask : ∀ c t, ChangesOnly powerPages s0 t → ChangesOnly powerPages s0 (t.when c fun u => u.askShared (dieOf a)) :=
    fun c _ ht => ht.when c fun _ hu => hu.when _ fun _ hv => hv.wrShared _ false
  unfold State.wakeFor
  cases pageRegion a with
  | none => exact hask _ s h
  | some g => exact hask _ _ (h.when _ fun _ ht => (ite _ ht (ht.rgnWakeUp g true)).rgnAwake g)

end ChangesOnly

/-- Port pages have no lock (R433). -/
theorem lockPage_prt {p o : Nat} (hp : p < 64) (ho : o < 0x1000) : lockPage (prt p o) = none := by
  have hlt : prt p o < 0x08000000 := by
    have := dieBase_le (d := p / 32) (by omega)
    unfold prt; omega
  have hpage : diePage (pageNo (prt p o)) = some (.prt, p % 32) := by
    have hall : ∀ i : Fin 32, diePage (0x100 + i.val) = some (.prt, i.val) := by decide
    rw [pageNo_prt p ho]; exact hall ⟨p % 32, Nat.mod_lt _ (by decide)⟩
  unfold pageNo at hpage
  unfold lockPage pageAt
  rw [if_pos (by omega), if_pos hlt, hpage]
  rfl

/-- An access to a port's page leaves the registers of the ports. -/
theorem State.access_rd_prt (s : State) {p o q o' : Nat} (hp : p < 64) (ho : o < 0x1000) (ho' : o' < 0x1000) :
    (s.access (prt p o)).rd (prt q o') = s.rd (prt q o') := by
  rw [State.access_none _ (lockPage_prt hp ho)]
  refine ChangesOnly.wakeFor (ChangesOnly.refl _ s) _ _ ?_
  rw [pageNo_prt q ho']
  simp only [List.mem_cons, List.not_mem_nil, or_false]
  omega

/-- An access to a port's page leaves the row clocks. -/
theorem State.access_st (s : State) {p o : Nat} (hp : p < 64) (ho : o < 0x1000) (d : Nat) : (s.access (prt p o)).st d = s.st d := by
  rw [State.access_none _ (lockPage_prt hp ho)]
  exact ChangesOnly.wakeFor (ChangesOnly.refl _ s) _ _ (by rw [pageNo_tmu d (by decide)]; decide)

/-- A write that is taken has its effect after the access. -/
theorem State.guarded_of_takes {s : State} {a : Nat} (h : s.takes a = true) (f : State → State) : s.guarded a f = f (s.access a) := by
  obtain ⟨hreach, hopen⟩ := Bool.and_eq_true_iff.1 h
  unfold State.guarded
  rw [if_pos hreach, if_neg (by simpa using hopen)]

/-! ## Registers of a port and its guard -/

theorem prt_ne (p : Nat) {o o' : Nat} (h : o ≠ o') : prt p o ≠ prt p o' := by unfold prt; omega

theorem State.guard_setGuard (s : State) (p : Nat) (g : PortGuard) : (s.setGuard p g).guard p = g := by
  unfold State.guard State.setGuard
  rw [Assoc.get_put, if_pos rfl]
  rfl

theorem State.rd_setGuard (s : State) (p : Nat) (g : PortGuard) (a : Nat) : (s.setGuard p g).rd a = s.rd a := rfl

theorem State.guard_congr {s t : State} (h : t.cn = s.cn) (p : Nat) : t.guard p = s.guard p := by unfold State.guard; rw [h]

theorem State.guard_raise (s : State) (base i p : Nat) : (s.raise base i).guard p = s.guard p :=
  State.guard_congr ((State.raise_keeps (Sub.refl _) (Keeps.refl _ s) base i).cn rfl) p

/-- An event of a port's page is raised. -/
theorem State.rdB_raise_prt (s : State) (p : Nat) {i : Nat} (hi : i < 32) : (s.raise (prt p 0) i).rdB (prt p PG_EVT) i = true := by
  have h := s.rdB_raise (prt p 0) i i hi
  rwa [if_pos rfl] at h

/-- An event of a port's page leaves the page's registers but the flags and their sequence. -/
theorem State.rd_raise_prt (s : State) (p i : Nat) {o : Nat} (he : PG_EVT ≠ o) (hs : PG_SEQ ≠ o) :
    (s.raise (prt p 0) i).rd (prt p o) = s.rd (prt p o) :=
  State.rd_raise_ne (base := prt p 0) s i (prt_ne p he) (prt_ne p hs)

/-- A counter field leaves the bits outside it. -/
theorem State.rdB_countF_apart (s : State) (a : Nat) {lo n i : Nat} (hi : i < 32) (h : i < lo ∨ lo + n ≤ i) :
    (s.countF a lo n).rdB a i = s.rdB a i := by
  unfold State.countF
  split
  · exact State.rdB_wrF_apart s a _ hi h
  · rfl

/-! ## The history of violations (R154) -/

theorem State.setHist_guard (s : State) (p : Nat) (l : List Nat) : (s.setHist p l).guard p = { s.guard p with hist := l } :=
  (State.guard_congr (State.wr_cn _ _ _) p).trans (State.guard_setGuard s p _)

theorem State.setHist_rdB (s : State) (p : Nat) (l : List Nat) {i : Nat} (hi : i < 16) :
    (s.setHist p l).rdB (prt p PRT_GRD_STAT) i = s.rdB (prt p PRT_GRD_STAT) i :=
  State.rdB_wrF_apart _ _ _ (by omega) (.inl hi)

theorem State.setHist_rdF (s : State) (p : Nat) (l : List Nat) {lo n : Nat} (h : lo + n ≤ 16) :
    (s.setHist p l).rdF (prt p PRT_GRD_STAT) lo n = s.rdF (prt p PRT_GRD_STAT) lo n := by
  unfold State.setHist
  rw [State.rdF_wrF_apart _ _ _ (by omega) (.inl h), State.rdF_congr (State.rd_setGuard _ _ _ _)]

/-- A history that is cleared shows 0 entries and holds none. -/
theorem State.setHist_nil (s : State) (p : Nat) :
    (s.setHist p []).rdF (prt p PRT_GRD_STAT) 16 7 = 0 ∧ ((s.setHist p []).guard p).hist = [] :=
  ⟨by unfold State.setHist; exact State.rdF_wrF_self _ _ _ _ _ (by decide), by rw [State.setHist_guard]⟩

/-! ## Lifting a fence (R157) -/

theorem State.fenced_congr {s t : State} {p : Nat} (h : t.rd (prt p PRT_GRD_STAT) = s.rd (prt p PRT_GRD_STAT)) : t.fenced p = s.fenced p :=
  State.rdB_congr h 0

/-- The fence and SW_FENCE fall and the history clears, before the lifting is recorded. -/
def State.liftBits (s : State) (p : Nat) : State :=
  ((s.wrB (prt p PRT_GRD_STAT) 0 false).wrB (prt p PRT_GRD_STAT) 2 false).setHist p []

theorem State.lift_eq {s : State} {p : Nat} (h : s.fenced p = true) : s.lift p =
    ((s.liftBits p).setGuard p { (s.liftBits p).guard p with lifted := some (s.liftBits p).now }).raise (prt p 0) 10 := by
  unfold State.lift; rw [if_pos h]; rfl

theorem State.lift_of_not_fenced {s : State} {p : Nat} (h : s.fenced p = false) : s.lift p = s := by
  unfold State.lift; rw [if_neg (by simp [h])]

theorem State.lift_rd_stat {s : State} {p : Nat} (h : s.fenced p = true) :
    (s.lift p).rd (prt p PRT_GRD_STAT) = (s.liftBits p).rd (prt p PRT_GRD_STAT) := by
  rw [State.lift_eq h, State.rd_raise_prt _ _ _ (by decide) (by decide), State.rd_setGuard]

theorem State.lift_fenced (s : State) (p : Nat) : (s.lift p).fenced p = false := by
  cases h : s.fenced p with
  | false => rw [State.lift_of_not_fenced h, h]
  | true =>
    rw [State.fenced_congr (State.lift_rd_stat h)]
    unfold State.fenced State.liftBits
    rw [State.setHist_rdB _ _ _ (by decide), State.rdB_wrB_ne _ _ _ (by decide) (by decide), State.rdB_wrB_self _ _ _ (by decide)]

/-- LATCHED stays. -/
theorem State.lift_latched (s : State) (p : Nat) : (s.lift p).rdB (prt p PRT_GRD_STAT) 1 = s.rdB (prt p PRT_GRD_STAT) 1 := by
  cases h : s.fenced p with
  | false => rw [State.lift_of_not_fenced h]
  | true =>
    rw [State.rdB_congr (State.lift_rd_stat h)]
    unfold State.liftBits
    rw [State.setHist_rdB _ _ _ (by decide), State.rdB_wrB_ne _ _ _ (by decide) (by decide), State.rdB_wrB_ne _ _ _ (by decide) (by decide)]

/-- FENCES stays. -/
theorem State.lift_fences (s : State) (p : Nat) : (s.lift p).rdF (prt p PRT_GRD_STAT) 8 8 = s.rdF (prt p PRT_GRD_STAT) 8 8 := by
  cases h : s.fenced p with
  | false => rw [State.lift_of_not_fenced h]
  | true =>
    rw [State.rdF_congr (State.lift_rd_stat h)]
    unfold State.liftBits
    rw [State.setHist_rdF _ _ _ (by decide), State.rdF_wrB_apart _ _ _ (by decide) (by decide),
      State.rdF_wrB_apart _ _ _ (by decide) (by decide)]

/-- A fence that is lifted sets its event and leaves no history. -/
theorem State.lift_spec {s : State} {p : Nat} (h : s.fenced p = true) : (s.lift p).rdB (prt p PG_EVT) 10 = true ∧
    (s.lift p).rdF (prt p PRT_GRD_STAT) 16 7 = 0 ∧ ((s.lift p).guard p).hist = [] := by
  obtain ⟨hfield, hhist⟩ := State.setHist_nil ((s.wrB (prt p PRT_GRD_STAT) 0 false).wrB (prt p PRT_GRD_STAT) 2 false) p
  refine ⟨?_, (State.rdF_congr (State.lift_rd_stat h) 16 7).trans hfield, ?_⟩
  · rw [State.lift_eq h]; exact State.rdB_raise_prt _ _ (by decide)
  · rw [State.lift_eq h, State.guard_raise, State.guard_setGuard]; exact hhist

theorem State.lift_now (s : State) (p : Nat) : (s.lift p).now = s.now :=
  State.now_congr ((State.lift_keeps (Sub.refl _) (Keeps.refl _ s) p).el rfl)

theorem State.unfence_spec (s : State) (p : Nat) : (s.unfence p).fenced p = false ∧ (s.unfence p).rdF (prt p PRT_GRD_STAT) 8 8 = 0 ∧
    (s.unfence p).rdB (prt p PRT_GRD_STAT) 1 = false ∧ (s.fenced p = true → (s.unfence p).rdB (prt p PG_EVT) 10 = true ∧
      (s.unfence p).rdF (prt p PRT_GRD_STAT) 16 7 = 0 ∧ ((s.unfence p).guard p).hist = []) := by
  have hkeep : ((s.wrF (prt p PRT_GRD_STAT) 8 8 0).wrB (prt p PRT_GRD_STAT) 1 false).fenced p = s.fenced p := by
    unfold State.fenced
    rw [State.rdB_wrB_ne _ _ _ (by decide) (by decide), State.rdB_wrF_apart _ _ _ (by decide) (by decide)]
  unfold State.unfence
  refine ⟨State.lift_fenced _ p, ?_, ?_, fun h => State.lift_spec (hkeep.trans h)⟩
  · rw [State.lift_fences, State.rdF_wrB_apart _ _ _ (by decide) (by decide)]
    exact State.rdF_wrF_self _ _ _ _ _ (by decide)
  · rw [State.lift_latched, State.rdB_wrB_self _ _ _ (by decide)]

/-! ## Fencing a port (R155) -/

/-- The port is fenced, its ST is kept and FENCES counts, before LATCHED is judged. -/
def State.fenceBits (s : State) (p : Nat) : State :=
  (((s.setGuard p { s.guard p with fencedAt := s.now }).wrB (prt p PRT_GRD_STAT) 0 true).wr (prt p PRT_GRD_FENCE_ST) (s.portSt p)).countF
    (prt p PRT_GRD_STAT) 8 8

/-- FENCES has reached FENCE_LIM. -/
def State.fenceLatches (s : State) (p : Nat) : Bool :=
  decide (atLeast1 (s.rdF (prt p PRT_GRD_FENCE_LIM) 0 8) ≤ s.rdF (prt p PRT_GRD_STAT) 8 8)

theorem State.fence_eq {s : State} {p : Nat} (h : s.fenced p = false) : s.fence p =
    ((s.fenceBits p).when ((s.fenceBits p).fenceLatches p) fun t => t.wrB (prt p PRT_GRD_STAT) 1 true).raise (prt p 0) 9 := by
  unfold State.fence; rw [if_neg (by simp [h])]; rfl

/-- LATCHED is a bit of its own. -/
theorem State.when_latch_rd_ne (s : State) (p a : Nat) (c : Bool) (h : prt p PRT_GRD_STAT ≠ a) :
    (s.when c fun t => t.wrB (prt p PRT_GRD_STAT) 1 true).rd a = s.rd a := by
  cases c with
  | false => rfl
  | true => exact State.rd_wrB_ne _ _ _ h

theorem State.when_latch_fenced (s : State) (p : Nat) (c : Bool) :
    (s.when c fun t => t.wrB (prt p PRT_GRD_STAT) 1 true).fenced p = s.fenced p := by
  cases c with
  | false => rfl
  | true => exact State.rdB_wrB_ne _ _ _ (by decide) (by decide)

theorem State.fence_fenced (s : State) (p : Nat) : (s.fence p).fenced p = true := by
  cases h : s.fenced p with
  | true => unfold State.fence; rw [if_pos h, h]
  | false =>
    rw [State.fence_eq h, State.fenced_congr (State.rd_raise_prt _ _ _ (by decide) (by decide)), State.when_latch_fenced]
    unfold State.fenced State.fenceBits
    rw [State.rdB_countF_apart _ _ (by decide) (by decide), State.rdB_congr (State.rd_wr_ne _ _ (prt_ne p (by decide))),
      State.rdB_wrB_self _ _ _ (by decide)]

/-- A port that was not fenced sets its event and keeps the ST at which it was fenced. -/
theorem State.fence_spec {s : State} {p : Nat} (h : s.fenced p = false) : (s.fence p).rdB (prt p PG_EVT) 9 = true ∧
    (s.fence p).rd (prt p PRT_GRD_FENCE_ST) = s.st (p / 32) := by
  rw [State.fence_eq h]
  refine ⟨State.rdB_raise_prt _ _ (by decide), ?_⟩
  rw [State.rd_raise_prt _ _ _ (by decide) (by decide), State.when_latch_rd_ne _ _ _ _ (prt_ne p (by decide))]
  unfold State.fenceBits
  rw [State.rd_countF_ne _ _ _ (prt_ne p (by decide)), State.rd_wr_self]
  rfl

theorem State.softFence_spec (s : State) (p : Nat) : (s.softFence p).fenced p = true ∧ (s.softFence p).rdB (prt p PRT_GRD_STAT) 2 = true ∧
    (s.fenced p = false → (s.softFence p).rdB (prt p PG_EVT) 9 = true ∧ (s.softFence p).rd (prt p PRT_GRD_FENCE_ST) = s.st (p / 32)) := by
  unfold State.softFence
  refine ⟨?_, State.rdB_wrB_self _ _ _ (by decide), fun h => ?_⟩
  · unfold State.fenced
    rw [State.rdB_wrB_ne _ _ _ (by decide) (by decide)]
    exact State.fence_fenced s p
  · rw [State.rdB_congr (State.rd_wrB_ne _ _ _ (prt_ne p (by decide))), State.rd_wrB_ne _ _ _ (prt_ne p (by decide))]
    exact State.fence_spec h

/-! ## PRT_GRD_CTRL (R164) -/

/-- Each bit of PRT_GRD_CTRL has its effect where the write is taken, on a port with a guard. -/
theorem State.guarded_grdCtrl {s : State} {p : Nat} (ht : s.takes (prt p PRT_GRD_CTRL) = true) (hg : hasGuard s.part p = true) :
    (s.guarded (prt p PRT_GRD_CTRL) fun t => t.grdCtrl p 1) = (s.access (prt p PRT_GRD_CTRL)).unfence p ∧
    (s.guarded (prt p PRT_GRD_CTRL) fun t => t.grdCtrl p 2) = (s.access (prt p PRT_GRD_CTRL)).softFence p ∧
    (s.guarded (prt p PRT_GRD_CTRL) fun t => t.grdCtrl p 4) = (s.access (prt p PRT_GRD_CTRL)).setHist p [] := by
  have hpart : (s.access (prt p PRT_GRD_CTRL)).part = s.part := (State.access_keeps (Sub.refl _) (Keeps.refl _ s) _).part
  refine ⟨?_, ?_, ?_⟩ <;> rw [State.guarded_of_takes ht] <;> simp [State.grdCtrl, State.when, hpart, hg, bit]

theorem State.access_fenced (s : State) {p : Nat} (hp : p < 64) : (s.access (prt p PRT_GRD_CTRL)).fenced p = s.fenced p :=
  State.fenced_congr (State.access_rd_prt s hp (by decide) (by decide))

theorem grdFence_spec (p : Port) (s : State) (ht : s.takes (prt p.val PRT_GRD_CTRL) = true) (hg : hasGuard s.part p.val = true) :
    ∃ t, exec (.grdFence p) s = .next t ∧ t.fenced p.val = true ∧ t.rdB (prt p.val PRT_GRD_STAT) 2 = true ∧
      (s.fenced p.val = false → t.rdB (prt p.val PG_EVT) 9 = true ∧ t.rd (prt p.val PRT_GRD_FENCE_ST) = s.st (p.val / 32)) := by
  obtain ⟨-, hfence, -⟩ := State.guarded_grdCtrl ht hg
  have hspec := State.softFence_spec (s.access (prt p.val PRT_GRD_CTRL)) p.val
  rw [State.access_fenced s p.isLt, State.access_st s p.isLt (by decide)] at hspec
  exact ⟨_, congrArg Host.Outcome.next hfence, hspec⟩

theorem grdUnfence_spec (p : Port) (s : State) (ht : s.takes (prt p.val PRT_GRD_CTRL) = true) (hg : hasGuard s.part p.val = true) :
    ∃ t, exec (.grdUnfence p) s = .next t ∧ t.fenced p.val = false ∧ t.rdF (prt p.val PRT_GRD_STAT) 8 8 = 0 ∧
      t.rdB (prt p.val PRT_GRD_STAT) 1 = false ∧ (s.fenced p.val = true → t.rdB (prt p.val PG_EVT) 10 = true ∧
        t.rdF (prt p.val PRT_GRD_STAT) 16 7 = 0 ∧ (t.guard p.val).hist = []) := by
  obtain ⟨hunfence, -, -⟩ := State.guarded_grdCtrl ht hg
  have hspec := State.unfence_spec (s.access (prt p.val PRT_GRD_CTRL)) p.val
  rw [State.access_fenced s p.isLt] at hspec
  exact ⟨_, congrArg Host.Outcome.next hunfence, hspec⟩

theorem grdClearHistory_spec (p : Port) (s : State) (ht : s.takes (prt p.val PRT_GRD_CTRL) = true) (hg : hasGuard s.part p.val = true) :
    ∃ t, exec (.grdClearHistory p) s = .next t ∧ t.rdF (prt p.val PRT_GRD_STAT) 16 7 = 0 ∧ (t.guard p.val).hist = [] ∧
      t.fenced p.val = s.fenced p.val := by
  obtain ⟨-, -, hclear⟩ := State.guarded_grdCtrl ht hg
  obtain ⟨hfield, hhist⟩ := State.setHist_nil (s.access (prt p.val PRT_GRD_CTRL)) p.val
  exact ⟨_, congrArg Host.Outcome.next hclear, hfield, hhist,
    (State.setHist_rdB _ _ _ (by decide)).trans (State.access_fenced s p.isLt)⟩

/-! ## The end of the holdoff (R157) -/

theorem fenceHoldoffExpiry_spec (p : Port) (s : State) (hg : hasGuard s.part p.val = true) (hu : s.dieUp (p.val / 32) = true)
    (hh : s.rdF (prt p.val PRT_GRD_HOLDOFF) 0 24 ≠ 0) (hl : s.rdB (prt p.val PRT_GRD_STAT) 1 = false)
    (hsw : s.rdB (prt p.val PRT_GRD_STAT) 2 = false) (hf : s.fenced p.val = true) :
    ∃ t, exec (.fenceHoldoffExpiry p) s = .next t ∧ t.fenced p.val = false ∧ (t.guard p.val).hist = [] ∧
      t.rdB (prt p.val PG_EVT) 10 = true ∧ (s.guard p.val).fencedAt + s.rdF (prt p.val PRT_GRD_HOLDOFF) 0 24 * 1000000 ≤ t.now := by
  have hruns : (s.dieUp (p.val / 32) && s.holdsOff p.val) = true := by
    unfold State.holdsOff; simp [hu, hg, hf, hh, hl, hsw]
  have hfenced : ∀ n, (s.reachAt n).fenced p.val = true := fun n =>
    (State.fenced_congr (State.reachAt_rd_prt s n p.val (by decide))).trans hf
  obtain ⟨hevt, -, hhist⟩ := State.lift_spec (hfenced ((s.guard p.val).fencedAt + s.rdF (prt p.val PRT_GRD_HOLDOFF) 0 24 * ms))
  refine ⟨_, congrArg Host.Outcome.next (State.when_pos s hruns _), State.lift_fenced _ _, hhist, hevt, ?_⟩
  rw [State.lift_now]
  exact State.le_reachAt_now s _

/-! ## The policer (R153) -/

theorem State.fill_tokens (s : State) (p rate burst at0 : Nat) :
    (s.fill p rate burst at0).rdF (prt p PRT_POL_TOKENS) 0 20 = s.tokensAt p rate burst at0 / 1000000 % 2 ^ 20 :=
  State.rdF_wrF_self _ _ _ _ _ (by decide)

theorem State.tokensAt_le (s : State) (p rate burst at0 : Nat) : s.tokensAt p rate burst at0 ≤ burst * 1000000 := by
  unfold State.tokensAt
  split
  · exact Nat.le_refl _
  · exact Nat.min_le_right _ _

/-- A bucket never holds more than BURST. -/
theorem State.fill_tokens_le (s : State) (p rate burst at0 : Nat) : (s.fill p rate burst at0).rdF (prt p PRT_POL_TOKENS) 0 20 ≤ burst := by
  have hle := s.tokensAt_le p rate burst at0
  rw [State.fill_tokens]
  exact Nat.le_trans (Nat.mod_le _ _) (by omega)

/-- The rate by which a frame is judged. -/
def State.policeRate (s : State) (p : Nat) (start cfg : Word) : Nat := polRate cfg (s.effAt start (prt p PRT_POL_RATE))

/-- The bucket as a frame finds it. -/
def State.policeFill (s : State) (p : Nat) (start : Word) (end0 : Nat) (cfg : Word) : State :=
  s.fill p (s.policeRate p start cfg) (fld (s.effAt start (prt p PRT_POL_BURST)) 0 20) end0

/-- The tokens that a frame finds. -/
def State.policeTokens (s : State) (p : Nat) (start : Word) (end0 : Nat) (cfg : Word) : Nat :=
  (s.policeFill p start end0 cfg).rdF (prt p PRT_POL_TOKENS) 0 20

section Police

variable {s : State} {p n : Nat} {start : Word} {end0 sid : Nat} {cfg : Word}

theorem State.police_pass (h : n ≤ s.policeTokens p start end0 cfg) : s.police p n start end0 sid cfg =
    ((s.policeFill p start end0 cfg).when (s.policeRate p start cfg != 0xFFFF) fun u =>
      u.wrF (prt p PRT_POL_TOKENS) 0 20 (s.policeTokens p start end0 cfg - n), true) := by
  unfold State.police; exact if_pos h

theorem State.police_drop (h : s.policeTokens p start end0 cfg < n) : (s.police p n start end0 sid cfg).2 = false := by
  unfold State.police; exact congrArg Prod.snd (if_neg (Nat.not_le.2 h))

/-- Where the rate is limited a frame that passes takes its length. -/
theorem State.police_takes (h : n ≤ s.policeTokens p start end0 cfg) (hr : s.policeRate p start cfg ≠ 0xFFFF) :
    (s.police p n start end0 sid cfg).1.rdF (prt p PRT_POL_TOKENS) 0 20 = s.policeTokens p start end0 cfg - n := by
  have hlt : s.policeTokens p start end0 cfg < 2 ^ 20 := Nat.mod_lt _ (by decide)
  rw [State.police_pass h, State.when_pos _ (by simpa using hr), State.rdF_wrF_self _ _ _ _ _ (by decide)]
  exact Nat.mod_eq_of_lt (by omega)

/-- A frame longer than BURST does not pass. -/
theorem State.police_long (h : fld (s.effAt start (prt p PRT_POL_BURST)) 0 20 < n) : (s.police p n start end0 sid cfg).2 = false :=
  State.police_drop (Nat.lt_of_le_of_lt (s.fill_tokens_le p _ _ end0) h)

end Police

/-! ## Frames at a port (R150, R287) -/

section Frames

variable {rx : Rx} {e : Eth} {k : ConsistKind} {s t : State}

/-- A frame that is no whole one ends at the MAC. -/
theorem State.consistRx_dropped (hg : hasGuard s.part rx.port.val = true) (hon : s.portOn rx.port.val = true)
    (hm : s.macRx rx e = (t, false)) : s.consistRx rx e k = t := by
  unfold State.consistRx State.consistIn
  simp [hg, hon, hm]

/-- What becomes of a whole frame at a consist port. -/
theorem State.consistRx_whole (hg : hasGuard s.part rx.port.val = true) (hon : s.portOn rx.port.val = true)
    (hm : s.macRx rx e = (t, true)) : s.consistRx rx e k =
      if t.kindOf e k = .macControl then t.pst rx.port.val 9
      else if t.ingressShut rx then (t.count (prt rx.port.val PRT_GRD_CNT_FENCED)).pst rx.port.val 18
      else if (t.judge rx e (t.kindOf e k)).2 then (t.judge rx e (t.kindOf e k)).1.beIngress rx e
      else (t.judge rx e (t.kindOf e k)).1 := by
  unfold State.consistRx State.consistIn
  dsimp only
  rw [hg, hon, hm]
  by_cases hk : t.kindOf e k = .macControl
  · simp [hk]
  · cases hs : t.ingressShut rx with
    | true => simp [hk, hs]
    | false => rcases hj : t.judge rx e (t.kindOf e k) with ⟨u, _ | _⟩ <;> simp [hk, hs, hj]

/-- A frame of which the port asks no MACsec (R425). -/
def State.secFree (s : State) (rx : Rx) (e : Eth) : Bool :=
  match portSa s.part rx.port.val with
  | some (d, m) => s.secExempt d m (.eth e)
  | none => true

/-- A frame that a backbone port takes is counted by its kind and enters forwarding, but a MAC control frame. -/
theorem State.backboneRx_good (h : s.takeRx rx (s.secFree rx e) = (t, .good)) (he : e.etype ≠ 0x8808) :
    s.backboneRx rx e = (t.pst rx.port.val (2 + (Frame.eth e).cast)).beIngress rx e := by
  have hcases : s.backboneRx rx e = match s.takeRx rx (s.secFree rx e) with
      | (u, .none) | (u, .bad) => u
      | (u, .good) =>
        let v := u.pst rx.port.val (2 + (Frame.eth e).cast)
        if e.etype = 0x8808 then v.pst rx.port.val 9 else v.beIngress rx e := rfl
  rw [hcases, h]
  exact if_neg he

end Frames

/-- Settles O38: the frames by the cases of State.consistRx and State.backboneRx, the policer by what its bucket holds, and the
commands on fences one by one. -/
theorem guardsPoliceAndFencePorts : Obligations.GuardsPoliceAndFencePorts := by
  refine ⟨fun rx e k s t hg hon => ⟨fun hm => ?_, fun hm => ⟨fun hk => ?_, fun hk hs => ?_, fun hk hs => ?_⟩⟩,
    fun rx e s t => ⟨fun hb => ?_, fun hb he ht => ?_⟩,
    fun p n end0 sid start cfg s =>
      ⟨fun h => ⟨congrArg Prod.snd (State.police_pass h), State.police_takes h⟩, State.police_drop, State.police_long⟩,
    fun p s ht hg => ⟨grdFence_spec p s ht hg, grdUnfence_spec p s ht hg, grdClearHistory_spec p s ht hg⟩, fenceHoldoffExpiry_spec⟩
  · exact congrArg Host.Outcome.next (State.consistRx_dropped hg hon hm)
  · exact congrArg Host.Outcome.next ((State.consistRx_whole hg hon hm).trans (if_pos hk))
  · exact congrArg Host.Outcome.next ((State.consistRx_whole hg hon hm).trans ((if_neg hk).trans (if_pos hs)))
  · exact congrArg Host.Outcome.next
      ((State.consistRx_whole hg hon hm).trans ((if_neg hk).trans (if_neg (Bool.eq_false_iff.1 hs))))
  · exact congrArg Host.Outcome.next (if_neg (Bool.eq_false_iff.1 hb))
  · exact congrArg Host.Outcome.next ((if_pos hb).trans (State.backboneRx_good ht he))

end Sys2Proof.Machine
end

section
/-! SUPPORT. What a message of the field buses leaves unchanged, how an MVB interface and a CAN controller start, what becomes of
their frames, and the settled statements of 07_field_buses.md. -/

namespace Sys2Proof.Machine

/-! ## Registers of the FLD page -/

theorem fldp_ne {o o' : Nat} (h : o ≠ o') : fldp o ≠ fldp o' := by unfold fldp; omega

/-- An access to FLD_CTRL leaves FLD_CTRL: it touches the pages of power, and the access count of its own page. -/
theorem State.access_rd_fldCtrl (s : State) : (s.access (fldp FLD_CTRL)).rd (fldp FLD_CTRL) = s.rd (fldp FLD_CTRL) := by
  have hlock : ∀ pg, lockPage (fldp FLD_CTRL) = some pg → pg + PG_LOCK ≠ fldp FLD_CTRL := by decide
  exact (State.rd_lockTick _ hlock).trans (ChangesOnly.wakeFor (ChangesOnly.refl _ s) _ _ (by decide))

/-! ## What a message leaves unchanged (R182) -/

section Messages

variable (s : State) (m : FldMsg) (kind src ds info : Nat) (waits : Bool)

/-- A message that enters the queue leaves every register but the page's header and those of the message queue. -/
theorem State.fldEnqueue_rd {a : Nat} (h : a < fldp 0 ∨ fldp FLD_MSG_CNT < a) : (s.fldEnqueue m).rd a = s.rd a := by
  unfold fldp FLD_MSG_CNT at h
  have hcnt : fldp FLD_MSG_CNT ≠ a := by unfold fldp FLD_MSG_CNT; omega
  have hraise : ∀ (t : State) (i : Nat), (t.raise (fldp 0) i).rd a = t.rd a := fun t i =>
    State.rd_raise_ne t i (by unfold fldp PG_EVT; omega) (by unfold fldp PG_SEQ; omega)
  have hfwd : ∀ (t : State) (st : Word) (l : List Word), (t.fwdEvent 0x340 true st l).rd a = t.rd a := fun t st l => by
    unfold State.rd; rw [(State.fwdEvent_keeps (Sub.refl _) (Keeps.refl _ t) 0x340 true st l).regs rfl]
  unfold State.fldEnqueue
  split
  · rw [hraise, State.rd_countF_ne _ _ _ hcnt]
  · dsimp only
    rw [hfwd]
    exact (State.rd_edge_ite _ _ _ _).trans ((hraise _ 0).trans (State.rd_wrF_ne _ _ _ _ hcnt))

/-- So does a message that an interface reports: one that waits writes no register. -/
theorem State.fldReport_rd {a : Nat} (h : a < fldp 0 ∨ fldp FLD_MSG_CNT < a) : (s.fldReport kind src ds info waits).rd a = s.rd a := by
  unfold State.fldReport
  split
  · rfl
  · exact State.fldEnqueue_rd s _ h

theorem State.fldReport_run : (s.fldReport kind src ds info waits).run = s.run :=
  State.rdB_congr (State.fldReport_rd s kind src ds info waits (.inl (by decide))) 9

theorem State.fldEnqueue_requests : (s.fldEnqueue m).fb.requests = s.fb.requests := by
  have hraise : ∀ (t : State) (i : Nat), (t.raise (fldp 0) i).fb = t.fb := fun t i =>
    (State.raise_keeps (Sub.refl _) (Keeps.refl _ t) (fldp 0) i).fb rfl
  have hfwd : ∀ (t : State) (st : Word) (l : List Word), (t.fwdEvent 0x340 true st l).fb = t.fb := fun t st l =>
    (State.fwdEvent_keeps (Sub.refl _) (Keeps.refl _ t) 0x340 true st l).fb rfl
  have hedge : ∀ (t : State) (c : Bool), (t.when c fun u => u.edge 0x340).fb = t.fb := fun t c =>
    (State.when_keeps (w := 0x100) rfl (Keeps.refl _ t) c _ fun _ hu => State.edge_keeps rfl hu _).fb rfl
  unfold State.fldEnqueue
  split
  · rw [hraise, (State.countF_keeps (Sub.refl _) (Keeps.refl _ s) _ _ _).fb rfl]
  · dsimp only
    rw [hfwd, hedge, hraise, State.wrF_fb]

/-- A message leaves the pending requests of the mailboxes. -/
theorem State.fldReport_requests : (s.fldReport kind src ds info waits).fb.requests = s.fb.requests := by
  unfold State.fldReport
  split
  · rfl
  · exact State.fldEnqueue_requests s _

end Messages

/-! ## An MVB interface starts (R170, R173) -/

theorem State.rd_setMvb (s : State) (n : Nat) (m : Mvb) (a : Nat) : (s.setMvb n m).rd a = s.rd a := by
  unfold State.setMvb
  split <;> rfl

theorem State.out_setMvb (s : State) (n : Nat) (m : Mvb) : (s.setMvb n m).out = s.out := by
  unfold State.setMvb
  split <;> rfl

/-- The registers of an MVB interface lie behind those of the message queue. -/
theorem State.fldReport_rd_mvbStat (s : State) (kind src ds info : Nat) (waits : Bool) (n : Nat) :
    (s.fldReport kind src ds info waits).rd (fldp (FLD_MVB_STAT n)) = s.rd (fldp (FLD_MVB_STAT n)) :=
  State.fldReport_rd s _ _ _ _ _ (.inr (by unfold fldp FLD_MSG_CNT FLD_MVB_STAT; omega))

theorem State.mvbVerdict_pass {s : State} {n : Nat} (h : s.mvbCheck n = none) :
    s.mvbVerdict n = s.wrB (fldp (FLD_MVB_STAT n)) 4 false := by
  have hpass : s.mvbJudge n = s.wrB (fldp (FLD_MVB_STAT n)) 4 false := by unfold State.mvbJudge; rw [h]
  unfold State.mvbVerdict State.mvbHalt
  rw [hpass, State.rdB_wrB_self _ _ _ (by decide)]
  rfl

theorem State.mvbVerdict_fail {s : State} {n i : Nat} (h : s.mvbCheck n = some i) :
    s.mvbVerdict n = ((s.wrB (fldp (FLD_MVB_STAT n)) 4 true).fldReport 0x06 n noDs i false).wrB (fldp (FLD_MVB_STAT n)) 0 false := by
  have hfail : s.mvbJudge n = (s.wrB (fldp (FLD_MVB_STAT n)) 4 true).fldReport 0x06 n noDs i false := by unfold State.mvbJudge; rw [h]
  unfold State.mvbVerdict State.mvbHalt
  rw [hfail, State.rdB_congr (State.fldReport_rd_mvbStat ..), State.rdB_wrB_self _ _ _ (by decide)]
  rfl

/-- An interface on trial, before the verdict on its configuration: it runs, and its timers start. -/
def State.mvbTrial (s : State) (n : Nat) : State :=
  (((s.setMvb n Mvb.init).wrB (fldp (FLD_MVB_STAT n)) 0 true).arm (quietTmr n) (3 * s.mvbBp n)).arm (periodTmr n) (s.mvbBp n)

theorem State.mvbStart_eq {s : State} (n : Nat) (h : s.fldOn = true) : s.mvbStart n = (s.mvbTrial n).mvbVerdict n := by
  unfold State.mvbStart
  rw [h]
  rfl

theorem State.mvbTrial_runs (s : State) (n : Nat) : (s.mvbTrial n).rdB (fldp (FLD_MVB_STAT n)) 0 = true :=
  State.rdB_wrB_self (s.setMvb n Mvb.init) _ true (by decide)

theorem State.mvbStart_pass {s : State} {n : Nat} (hon : s.fldOn = true) (h : (s.mvbTrial n).mvbCheck n = none) :
    (s.mvbStart n).rdB (fldp (FLD_MVB_STAT n)) 0 = true ∧ (s.mvbStart n).rdB (fldp (FLD_MVB_STAT n)) 4 = false := by
  rw [State.mvbStart_eq n hon, State.mvbVerdict_pass h]
  exact ⟨(State.rdB_wrB_ne _ _ _ (by decide) (by decide)).trans (s.mvbTrial_runs n), State.rdB_wrB_self _ _ _ (by decide)⟩

theorem State.mvbStart_fail {s : State} {n : Nat} (hon : s.fldOn = true) (h : (s.mvbTrial n).mvbCheck n ≠ none) :
    (s.mvbStart n).rdB (fldp (FLD_MVB_STAT n)) 0 = false ∧ (s.mvbStart n).rdB (fldp (FLD_MVB_STAT n)) 4 = true := by
  obtain ⟨i, hi⟩ := Option.ne_none_iff_exists'.1 h
  rw [State.mvbStart_eq n hon, State.mvbVerdict_fail hi]
  refine ⟨State.rdB_wrB_self _ _ _ (by decide), ?_⟩
  rw [State.rdB_wrB_ne _ _ _ (by decide) (by decide), State.rdB_congr (State.fldReport_rd_mvbStat ..), State.rdB_wrB_self _ _ _ (by decide)]

/-! ## Frames of an MVB interface (R171, R172, R174) -/

/-- A master frame leaves on the lines in use. -/
theorem State.mvbMaster_out {s : State} {n : Nat} (i : Nat) (h : (s.mvbLineEn n 0 || s.mvbLineEn n 1) = true) :
    (s.mvbMaster n i).out =
      .mvbMaster n (s.mvbLineEn n 0) (s.mvbLineEn n 1) (s.twF (mvbWord n i 0) 12 4) (s.twF (mvbWord n i 0) 0 12) :: s.out := by
  have hline : ∀ (m : Mvb) (k ns l : Nat), ((s.setMvb n m).arm k ns).mvbLineEn n l = s.mvbLineEn n l := fun m _ _ l =>
    State.rdB_congr (State.rd_setMvb s n m _) (8 + l)
  unfold State.mvbMaster State.mvbOut
  dsimp only
  rw [hline, hline, State.when_pos _ h]
  unfold State.emit
  rw [hline, hline]
  exact congrArg (_ :: ·) (State.out_setMvb s n _)

section MvbFrames

variable {s : State} {n : Fin 2}

theorem mvbMasterFrameSend_due {i : Fin 4096} {at0 : Nat} (hrun : s.mvbRun n.val = true) (hadm : s.mvbAdmin n.val = true)
    (hmode : s.mode ≠ .standby) (hvalid : s.twF (mvbWord n.val i.val 0) 31 1 = 1) (hrows : s.run = true)
    (hdue : s.mvbDue n.val i.val = some at0) :
    exec (.mvbMasterFrameSend n i) s = .next ((s.reachSt (s.rd (sch 0 SCH_ROW_ST) + wordOf at0)).mvbMaster n.val i.val) := by
  refine congrArg Host.Outcome.next ((State.when_pos s (by simp [hrun, hadm, hmode, hvalid]) _).trans ?_)
  rw [if_pos hrows, hdue]

/-- An administrator answers the master frame that it has sent itself. -/
theorem mvbSlaveFrameSend_admin {f : Fin 16} {a : Fin 4096} (hrun : s.mvbRun n.val = true) (hmode : s.mode ≠ .standby)
    (hown : s.mvbOwn n.val f.val a.val = true) (hadm : s.mvbAdmin n.val = true) (haw : (s.mvb n.val).awaited = some (f.val, a.val)) :
    exec (.mvbSlaveFrameSend n f a) s = .next ((s.setMvb n.val { s.mvb n.val with awaited := none }).mvbSlave n.val f.val a.val) :=
  congrArg Host.Outcome.next ((State.when_pos s (by simp [hrun, hmode]) _).trans ((if_pos hadm).trans (if_pos ⟨haw, hown⟩)))

/-- A device answers any master frame for itself, and has heard a master. -/
theorem mvbSlaveFrameSend_device {f : Fin 16} {a : Fin 4096} (hrun : s.mvbRun n.val = true) (hmode : s.mode ≠ .standby)
    (hown : s.mvbOwn n.val f.val a.val = true) (hadm : s.mvbAdmin n.val = false) : exec (.mvbSlaveFrameSend n f a) s =
      .next (((s.setMvb n.val { s.mvb n.val with answering := true }).arm (quietTmr n.val) (3 * s.mvbBp n.val)).mvbSlave n.val f.val a.val) :=
  congrArg Host.Outcome.next ((State.when_pos s (by simp [hrun, hmode]) _).trans
    ((if_neg (Bool.eq_false_iff.1 hadm)).trans (State.when_pos _ hown _)))

theorem mvbReplyTimeout_foreign {f : Nat} {a : Fin 4096} (ba bb : Bool) (hrun : s.mvbRun n.val = true) (hadm : s.mvbAdmin n.val = true)
    (hmode : s.mode ≠ .standby) (haw : (s.mvb n.val).awaited = some (f, a.val)) (hown : s.mvbOwn n.val f a.val = false) :
    exec (.mvbReplyTimeout n a ba bb) s =
      .next ((s.expire (rtoTmr n.val)).mvbFail n.val f a.val (ba && s.mvbLineEn n.val 0) (bb && s.mvbLineEn n.val 1)) := by
  show execMvbReplyTimeout n a ba bb s = _
  unfold execMvbReplyTimeout
  rw [haw]
  exact congrArg Host.Outcome.next (State.when_pos s (by simp [hrun, hadm, hmode, hown]) _)

end MvbFrames

/-- Settles O43, clause by clause: the start of an interface by the verdict on its configuration, the commands by the conditions
under which they act. -/
theorem mvbInterfacesSendAndTakeFrames : Obligations.MvbInterfacesSendAndTakeFrames := by
  refine ⟨fun n s ht => ?_, fun n s hon => ⟨State.mvbStart_pass hon, State.mvbStart_fail hon⟩,
    fun n i at0 s => mvbMasterFrameSend_due, fun n i s => State.mvbMaster_out i,
    fun n f a s hrun hmode hown => ⟨mvbSlaveFrameSend_admin hrun hmode hown, mvbSlaveFrameSend_device hrun hmode hown⟩,
    fun n f a x y l s hrun haw => ?_, fun n f a ba bb s => mvbReplyTimeout_foreign ba bb,
    fun n s hrun hadm hans => ?_, fun n s hrun hrows => ?_⟩
  · exact congrArg Host.Outcome.next (State.guarded_of_takes ht _)
  · exact congrArg Host.Outcome.next (State.when_pos s (by simp [hrun, haw]) _)
  · exact congrArg Host.Outcome.next (State.when_pos s (by simp [hrun, hadm, hans]) _)
  · exact congrArg Host.Outcome.next (State.when_pos s (by simp [hrun, hrows]) _)

/-! ## A CAN controller starts (R177) -/

/-- Where one element of a list alone has an effect, the list has that effect. -/
theorem State.each_only {α : Type} {f : α → State → State} {k : α} {l : List α} (hk : k ∈ l) (hl : l.Nodup)
    (h : ∀ x ∈ l, x ≠ k → ∀ t, f x t = t) (s : State) : s.each f l = f k s := by
  have hnone : ∀ (l : List α) (t : State), (∀ x ∈ l, ∀ t, f x t = t) → t.each f l = t := by
    intro l
    induction l with
    | nil => exact fun _ _ => rfl
    | cons x xs ih =>
      intro t hx
      rw [State.each_cons, hx x (List.mem_cons_self ..), ih t fun y hy => hx y (List.mem_cons_of_mem _ hy)]
  induction l with
  | nil => cases hk
  | cons x xs ih =>
    obtain ⟨hx, hxs⟩ := List.nodup_cons.1 hl
    rw [State.each_cons]
    by_cases e : x = k
    · subst e
      exact hnone xs _ fun y hy => h y (List.mem_cons_of_mem _ hy) (by rintro rfl; exact hx hy)
    · rw [h x (List.mem_cons_self ..) e]
      exact ih ((List.mem_cons.1 hk).resolve_left (Ne.symm e)) hxs fun y hy => h y (List.mem_cons_of_mem _ hy)

/-- Setting the bit of a disabled controller starts that controller, and no other interface starts or stops. -/
theorem State.fldCtrl_setBit_can {s : State} (c : Fin 4) (h : s.fldEn (2 + c.val) = false) :
    s.fldCtrl (setBit (s.rd (fldp FLD_CTRL)) (2 + c.val) true) =
      (s.wr (fldp FLD_CTRL) (setBit (s.rd (fldp FLD_CTRL)) (2 + c.val) true &&& 0x3F)).canStart c.val := by
  have hbit : ∀ i, bit (setBit (s.rd (fldp FLD_CTRL)) (2 + c.val) true) i = if i = 2 + c.val then true else s.fldEn i := fun i =>
    bit_setBit _ _ i true (by omega)
  refine (State.each_only (k := 2 + c.val) (List.mem_range.2 (by omega)) List.nodup_range (fun i _ hi t => ?_) _).trans ?_
  · rw [hbit, if_neg hi]
    cases s.fldEn i <;> rfl
  · rw [hbit, if_pos rfl, h, Bool.not_false, Bool.and_true, if_pos rfl, if_neg (by omega), Nat.add_sub_cancel_left]

theorem State.canStart_errorActive (s : State) (c : Nat) : (s.canStart c).rdF (fldp (FLD_CAN_STAT c)) 0 2 = 0 := by
  unfold State.canStart State.rdF
  rw [State.rd_wr_self, fld_zero]

theorem State.canStart_fldEn (s : State) (c i : Nat) : (s.canStart c).fldEn i = s.fldEn i :=
  State.rdB_congr (State.rd_wr_ne s 0 (fldp_ne (by unfold FLD_CAN_STAT FLD_CTRL; omega))) i

/-- FLD_CTRL has a bit of each controller. -/
theorem bit_and_ctrl (w : Word) (c : Fin 4) : bit (w &&& 0x3F) (2 + c.val) = bit w (2 + c.val) := by
  have hmask : ∀ c : Fin 4, (0x3F : Word).getLsbD (2 + c.val) = true := by decide
  rw [bit_getLsbD, bit_getLsbD, BitVec.getLsbD_and, hmask, Bool.and_true]

theorem canEnable_starts (c : Fin 4) (s : State) (ht : s.takes (fldp FLD_CTRL) = true) (hoff : s.fldEn (2 + c.val) = false) :
    ∃ t, exec (.canEnable c) s = .next t ∧ t.rdF (fldp (FLD_CAN_STAT c.val)) 0 2 = 0 ∧ t.fldEn (2 + c.val) = true := by
  have hoff' : (s.access (fldp FLD_CTRL)).fldEn (2 + c.val) = false := (State.rdB_congr s.access_rd_fldCtrl _).trans hoff
  refine ⟨_, congrArg Host.Outcome.next ((State.guarded_of_takes ht _).trans (State.fldCtrl_setBit_can c hoff')),
    State.canStart_errorActive _ _, ?_⟩
  rw [State.canStart_fldEn]
  unfold State.fldEn State.rdB
  rw [State.rd_wr_self, bit_and_ctrl, bit_setBit _ _ _ _ (by omega), if_pos rfl]

/-! ## Requests and transmission (R178, R179) -/

/-- A request is remembered, also of a mailbox that still waits. -/
theorem State.mem_canRequest (s : State) (c m : Nat) : (c, m) ∈ (s.canRequest c m).fb.requests := by
  unfold State.canRequest
  split
  · next hlate =>
    rw [State.fldReport_requests, (State.count_keeps (Sub.refl _) (Keeps.refl _ s) _).fb rfl]
    exact List.contains_iff_mem.1 hlate
  · exact List.mem_append_right _ (List.mem_singleton_self _)

theorem canFieldTrigger_requests {sid : Fin 4096} {e : Stitch} {s : State} (he : s.actEntry sid.val = some e) (hrows : s.run = true)
    (hkind : e.kind = kField) (hown : s.ownNum (s.ownerNow sid.val e) = true)
    (hact : s.wasActive s.row s.thisRow sid.val e = true) :
    exec (.canFieldTrigger sid) s = .next ((s.reachSt (s.stitchSt e)).each (fun c u => u.each (fun m v => v.canRequest c m)
      ((u.boxes c true).filter fun m => u.twF (boxWord c m 2) 20 2 == 1 && u.twF (boxWord c m 2) 0 13 == e.ident)) ((List.range 4).filter s.canAsks)) := by
  show execCanFieldTrigger sid s = _
  unfold execCanFieldTrigger
  rw [he]
  exact congrArg Host.Outcome.next (State.when_pos s (by simp [hrows, hkind, hown, hact]) _)

/-- While rows run a frame takes the data staged at the latch, and its request ends. -/
theorem State.canSend_rows (c m : Nat) (s : State) (hrows : s.run = true) :
    (s.canSend c (some m)).fb.requests = s.fb.requests.filter (· != (c, m)) ∧
    ∃ (fd brs ide : Bool) (id : Nat), (s.canSend c (some m)).out =
      .can c fd brs ide id (s.stagedData (s.twF (boxWord c m 2) 0 13) (s.boxLen c m)) :: s.out := by
  unfold State.canSend
  dsimp only
  rw [if_pos hrows]
  exact ⟨rfl, _, _, _, _, rfl⟩

/-! ## Reception (R180, R183) -/

section Reception

variable {s : State} {c m dlc : Nat} {fdf : Bool} {l : List Byte}

theorem State.canGot_fits (hlen : canLen fdf dlc = s.boxLen c m) (hl : l.length = canLen fdf dlc) :
    s.canGot c fdf dlc l (some m) = s.canTake c m l := if_pos ⟨hlen, hl⟩

/-- While rows run the report of a wrong length waits for the input sample. -/
theorem State.canGot_misfit (hlen : canLen fdf dlc ≠ s.boxLen c m) (hrows : s.run = true) :
    s.canGot c fdf dlc l (some m) = s.fldReport 0x12 (2 + c) (s.twF (boxWord c m 2) 0 13) dlc true :=
  (if_neg fun h => hlen h.1).trans (if_pos ((State.fldReport_run ..).trans hrows))

end Reception

theorem canFrameRx_permitted {c : Fin 4} {fdf brs : Bool} {s : State} (ide : Bool) (cid : BitVec 29) (dlc : BitVec 4) (l : List Byte)
    (hon : s.canOn c.val = true) (hp : s.canPermits c.val fdf brs = true) :
    exec (.canFrameRx c ide fdf brs cid dlc l) s = .next (s.canGot c.val fdf dlc.toNat l (s.canMatch c.val ide cid)) :=
  congrArg Host.Outcome.next (State.when_pos s (by simp [hon, hp]) _)

theorem canFrameRx_spec (c : Fin 4) (ide fdf brs : Bool) (cid : BitVec 29) (dlc : BitVec 4) (l : List Byte) (m : Nat) (s : State)
    (hon : s.canOn c.val = true) :
    (s.canPermits c.val fdf brs = false → exec (.canFrameRx c ide fdf brs cid dlc l) s = .next s) ∧
    (s.canPermits c.val fdf brs = true →
      (s.canMatch c.val ide cid = none → exec (.canFrameRx c ide fdf brs cid dlc l) s = .next (s.count (fldp (FLD_CAN_CNT_RX_DROP c.val)))) ∧
      (s.canMatch c.val ide cid = some m → canLen fdf dlc.toNat = s.boxLen c.val m → l.length = canLen fdf dlc.toNat →
        exec (.canFrameRx c ide fdf brs cid dlc l) s = .next (s.canTake c.val m l)) ∧
      (s.canMatch c.val ide cid = some m → canLen fdf dlc.toNat ≠ s.boxLen c.val m → s.run = true →
        exec (.canFrameRx c ide fdf brs cid dlc l) s = .next (s.fldReport 0x12 (2 + c.val) (s.twF (boxWord c.val m 2) 0 13) dlc.toNat true))) := by
  refine ⟨fun hp => congrArg Host.Outcome.next (if_neg (by simp [hp])), fun hp => ?_⟩
  rw [canFrameRx_permitted ide cid dlc l hon hp]
  refine ⟨fun hm => ?_, fun hm hlen hl => ?_, fun hm hlen hrows => ?_⟩ <;> rw [hm]
  · rfl
  · rw [State.canGot_fits hlen hl]
  · rw [State.canGot_misfit hlen hrows]

/-! ## Error states (R181) -/

/-- FLD_CANc_STAT of an error state and both counters (R184). -/
abbrev canStatWord (st : CanState) (tec rec : Byte) : Word := wordOf (Sys2Proof.Machine.CanState.code st + tec.toNat * 2 ^ 8 + rec.toNat * 2 ^ 16)

theorem fld_canStatWord (st : CanState) (tec rec : Byte) : fld (canStatWord st tec rec) 0 2 = Sys2Proof.Machine.CanState.code st ∧
    fld (canStatWord st tec rec) 8 8 = tec.toNat ∧ fld (canStatWord st tec rec) 16 8 = rec.toNat := by
  have hst : Sys2Proof.Machine.CanState.code st ≤ 2 := by cases st <;> decide
  have htec := tec.isLt
  have hrec := rec.isLt
  unfold fld canStatWord wordOf
  rw [BitVec.toNat_ofNat]
  omega

/-- The report of an error state leaves FLD_CANc_STAT as it was written. -/
theorem canErrorStateChange_stat (c : Fin 4) (st : CanState) (tec rec : Byte) (s : State) (hon : s.canOn c.val = true) :
    ∃ t, exec (.canErrorStateChange c st tec rec) s = .next t ∧ t.rd (fldp (FLD_CAN_STAT c.val)) = canStatWord st tec rec := by
  have hreport : ∀ (t : State) (kind info : Nat), (t.fldReport kind (2 + c.val) noDs info false).rd (fldp (FLD_CAN_STAT c.val)) =
      t.rd (fldp (FLD_CAN_STAT c.val)) := fun t _ _ => State.fldReport_rd t _ _ _ _ _ (.inr (by unfold fldp FLD_MSG_CNT FLD_CAN_STAT; omega))
  refine ⟨_, congrArg Host.Outcome.next (State.when_pos s hon _), ?_⟩
  cases st with
  | active => exact State.rd_wr_self ..
  | passive =>
    dsimp only [State.when]
    split
    · exact (hreport ..).trans (State.rd_wr_self ..)
    · exact State.rd_wr_self ..
  | busOff => exact (hreport ..).trans (State.rd_wr_self ..)

/-- A write of the error state leaves the bit rate. -/
theorem State.canBit_wr_stat (s : State) (c : Nat) (v : Word) : (s.wr (fldp (FLD_CAN_STAT c)) v).canBit c = s.canBit c := by
  have hnbt : (s.wr (fldp (FLD_CAN_STAT c)) v).rd (fldp (FLD_CAN_NBT c)) = s.rd (fldp (FLD_CAN_NBT c)) :=
    State.rd_wr_ne _ _ (fldp_ne (by unfold FLD_CAN_STAT FLD_CAN_NBT; omega))
  unfold State.canBit
  simp only [State.rdF_congr hnbt]

theorem canErrorStateChange_spec (c : Fin 4) (st : CanState) (tec rec : Byte) (s : State) (hon : s.canOn c.val = true) :
    (∃ t, exec (.canErrorStateChange c st tec rec) s = .next t ∧ t.rdF (fldp (FLD_CAN_STAT c.val)) 0 2 = Sys2Proof.Machine.CanState.code st ∧
      t.rdF (fldp (FLD_CAN_STAT c.val)) 8 8 = tec.toNat ∧ t.rdF (fldp (FLD_CAN_STAT c.val)) 16 8 = rec.toNat) ∧
    (s.rdF (fldp (FLD_CAN_STAT c.val)) 0 2 ≠ 1 → exec (.canErrorStateChange c .passive tec rec) s =
      .next ((s.wr (fldp (FLD_CAN_STAT c.val)) (canStatWord .passive tec rec)).fldReport 0x13 (2 + c.val) noDs
        (tec.toNat * 2 ^ 8 + rec.toNat) false)) ∧
    exec (.canErrorStateChange c .busOff tec rec) s =
      .next (((s.wr (fldp (FLD_CAN_STAT c.val)) (canStatWord .busOff tec rec)).arm (busTmr c.val)
        (128 * 11 * s.canBit c.val)).fldReport 0x14 (2 + c.val) noDs tec.toNat false) := by
  refine ⟨?_, fun hold => ?_, ?_⟩
  · obtain ⟨t, hexec, hstat⟩ := canErrorStateChange_stat c st tec rec s hon
    refine ⟨t, hexec, ?_⟩
    unfold State.rdF
    rw [hstat]
    exact fld_canStatWord st tec rec
  · exact congrArg Host.Outcome.next ((State.when_pos s hon _).trans (State.when_pos _ (by simpa using hold) _))
  · rw [← State.canBit_wr_stat s c.val (canStatWord .busOff tec rec)]
    exact congrArg Host.Outcome.next (State.when_pos s hon _)

/-! ## The message queue is read (R183) -/

theorem State.fldPop_nil {s : State} (h : s.fb.queue = []) : s.fldPop = s := by unfold State.fldPop; rw [h]

/-- A read of the queue removes the oldest message and shows its words 1 to 3. -/
theorem State.fldPop_cons {s : State} {m : FldMsg} {l : List FldMsg} (h : s.fb.queue = m :: l) : s.fldPop.fb.queue = l ∧
    s.fldPop.rd (fldp FLD_MSG_W1) = m.st ∧ s.fldPop.rd (fldp FLD_MSG_W2) = m.row ∧ s.fldPop.rd (fldp FLD_MSG_W3) = m.info ∧
    s.fldPop.out = s.out := by
  unfold State.fldPop
  rw [h]
  refine ⟨rfl, ?_, ?_, State.rd_wr_self .., rfl⟩
  · rw [State.rd_wr_ne _ _ (by decide), State.rd_wr_ne _ _ (by decide), State.rd_wr_self]
  · rw [State.rd_wr_ne _ _ (by decide), State.rd_wr_self]

theorem State.fldFront_nil {s : State} (h : s.fb.queue = []) : s.fldFront = 0 := by unfold State.fldFront; rw [h]

theorem State.fldFront_cons {s : State} {m : FldMsg} {l : List FldMsg} (h : s.fb.queue = m :: l) : s.fldFront = m.w0 := by
  unfold State.fldFront; rw [h]

theorem fldMsgPop_eq {a : Agent} {s : State} (hup : s.dieUp 0 = true) (hmay : s.agentMay a (fldp FLD_MSG_W0) = true) :
    exec (.fldMsgPop a) s = .next (s.emit (.read a (fldp FLD_MSG_W0) s.fldFront)).fldPop :=
  congrArg Host.Outcome.next (State.when_pos s (by simp [hup, hmay]) _)

theorem fldMsgPop_spec (a : Agent) (s : State) (hup : s.dieUp 0 = true) (hmay : s.agentMay a (fldp FLD_MSG_W0) = true) :
    (s.fb.queue = [] → exec (.fldMsgPop a) s = .next (s.emit (.read a (fldp FLD_MSG_W0) 0))) ∧
    (∀ m l, s.fb.queue = m :: l → ∃ t, exec (.fldMsgPop a) s = .next t ∧ t.fb.queue = l ∧ t.rd (fldp FLD_MSG_W1) = m.st ∧
      t.rd (fldp FLD_MSG_W2) = m.row ∧ t.rd (fldp FLD_MSG_W3) = m.info ∧ t.out = .read a (fldp FLD_MSG_W0) m.w0 :: s.out) := by
  rw [fldMsgPop_eq hup hmay]
  refine ⟨fun h => ?_, fun m l h => ⟨_, rfl, ?_⟩⟩
  · rw [State.fldFront_nil h]
    exact congrArg Host.Outcome.next (State.fldPop_nil h)
  · rw [State.fldFront_cons h]
    exact State.fldPop_cons h

/-- Settles O44, clause by clause: requests and messages by what a report leaves unchanged, frames by the mailbox that takes them. -/
theorem canControllersSendAndReceive : Obligations.CanControllersSendAndReceive := by
  refine ⟨fun c s ht => ?_, canEnable_starts, fun sid e s => canFieldTrigger_requests, fun c m s => s.mem_canRequest c m,
    fun c s hs => ?_, State.canSend_rows, canFrameRx_spec, canErrorStateChange_spec, fun c s hon hen hoff hauto => ?_, fldMsgPop_spec⟩
  · exact congrArg Host.Outcome.next (State.guarded_of_takes ht _)
  · exact congrArg Host.Outcome.next (State.when_pos s hs _)
  · exact congrArg Host.Outcome.next (State.when_pos s (by simp [hon, hen, hoff, hauto]) _)

end Sys2Proof.Machine
end

section
/-! SUPPORT. What an announcement, a span and a cleared directory entry read as, which requests for a blocking are granted, and the
settled statements of 09_address_translation_and_blocking.md. -/

namespace Sys2Proof.Machine

/-! ## Registers of the schedule engine and the start of a span -/

/-- Die 1's copy of a state register lies apart from die 0's. -/
theorem State.rd_wrSch_self (s : State) (o : Nat) (v : Word) : (s.wrSch o v).rd (sch 0 o) = v := by
  have hself : (s.wr (sch 0 o) v).rd (sch 0 o) = v := State.rd_wr_self ..
  have hne : sch 1 o ≠ sch 0 o := by unfold sch; simp [dieBase]
  unfold State.wrSch
  cases s.die1On with
  | false => exact hself
  | true => exact (State.rd_wr_ne _ v hne).trans hself

theorem State.rdB_wrSchB_self (s : State) (o : Nat) {i : Nat} (b : Bool) (hi : i < 32) : (s.wrSchB o i b).rdB (sch 0 o) i = b := by
  have hbit : (s.wrB (sch 0 o) i b).rdB (sch 0 o) i = b := State.rdB_wrB_self s _ b hi
  unfold State.rdB at hbit ⊢
  unfold State.wrSchB State.wrSchF
  rw [State.rd_wrSch_self, ← State.rd_wrF_self]
  exact hbit

/-- The start of a span shows in SCH_BLK_STAT only. -/
theorem State.rd_spanStart_ne (s : State) {a : Nat} (h : sch 0 SCH_BLK_STAT ≠ a) : s.spanStart.rd a = s.rd a := by
  unfold State.spanStart
  split
  · split
    · exact State.rd_wrB_ne s 1 true h
    · rfl
  · rfl

/-- Of SCH_BLK_STAT the start of a span sets bit 1. -/
theorem State.rdB_spanStart_ne (s : State) {i : Nat} (h : i ≠ 1) :
    s.spanStart.rdB (sch 0 SCH_BLK_STAT) i = s.rdB (sch 0 SCH_BLK_STAT) i := by
  unfold State.spanStart
  split
  · split
    · exact State.rdB_wrB_ne s _ true (by decide) h
    · rfl
  · rfl

/-! ## Claims (R229, R230) -/

/-- A node that may claim sends its CLAIM. -/
theorem claimSend_eq {sid : Fin 4096} {k : Nat} {e : Stitch} {s : State} (hon : s.inaOn = true) (hrun : s.run = true)
    (hrow : s.claimRow = true) (hnew : s.tp.claimed ≠ some s.row) (hnum : s.rdF (ina INA_STAT) 16 6 ≠ 0)
    (hneed : s.shadowOwned < s.rdF (sch 0 SCH_YO_CFG) 0 4) (hsid : s.claimStitch = some sid.val) (hspare : s.spareToClaim = some k)
    (he : s.actEntry sid.val = some e) : exec (.claimSend sid) s = .next (s.sendClaim sid.val k e) := by
  refine congrArg Host.Outcome.next ((if_pos ?_).trans ?_)
  · simp [hon, hrun, hrow, hnew, hnum, hneed, hsid]
  · rw [hspare, he]

/-- A CLAIM that is taken as a stitch frame goes to the needle's list. -/
theorem claimRx_eq {rx : Rx} {h : Hdr} {b : Claim} {s t : State}
    (ht : s.takeStitch rx h 0x06 (fun t => b.uid == t.uid) none (.claim b) true = (t, true)) :
    exec (.claimRx rx h b) s = .next (t.takeClaim h.sender.toNat b.uid b.spare.toNat) := by
  refine congrArg Host.Outcome.next ?_
  rw [ht]

/-! ## Train blockings (R233) -/

/-- An announcement shows in SCH_STAT, INA_BLK_ROW and its event (R206). -/
theorem State.announce_spec (s : State) (br : Word) : (s.announce br).blockPend = true ∧ (s.announce br).rd (ina INA_BLK_ROW) = br ∧
    (s.announce br).rdB (ina PG_EVT) 5 = true := by
  have hshown : ∀ a, sch 0 SCH_BLK_STAT ≠ a →
      (s.announce br).rd a = (((s.wrSchB SCH_STAT 10 true).wr (ina INA_BLK_ROW) br).raiseIna 5).rd a := fun _ ha =>
    State.rd_spanStart_ne _ ha
  have hevent : ∀ (t : State) a, ina PG_EVT ≠ a → ina PG_SEQ ≠ a → (t.raiseIna 5).rd a = t.rd a := fun t _ => State.rd_raise_ne t 5
  refine ⟨?_, ?_, ?_⟩
  · refine (State.rdB_congr ?_ 10).trans (State.rdB_wrSchB_self s SCH_STAT true (by decide))
    rw [hshown _ (by decide), hevent _ _ (by decide) (by decide), State.rd_wr_ne _ _ (by decide)]
  · rw [hshown _ (by decide), hevent _ _ (by decide) (by decide), State.rd_wr_self]
  · exact (State.rdB_congr (hshown _ (by decide)) 5).trans ((State.rdB_raise _ (ina 0) 5 5 (by decide)).trans (if_pos rfl))

theorem State.trainReq_elsewhere {s : State} (h : s.needle = false) : s.trainReq = s := by
  unfold State.trainReq
  simp [h]

theorem State.trainReq_refused {s : State} (h : s.needle = true)
    (hno : s.blockPend = true ∨ (s.rd (sch 0 SCH_BLK_ROW) - s.row).toInt < 2) : s.trainReq = s.raise (sch 0 0) 30 := by
  unfold State.trainReq
  rw [if_neg (by simp [h])]
  exact if_pos hno

theorem State.trainReq_announces {s : State} (h : s.needle = true) (hfree : s.blockPend = false)
    (hahead : 2 ≤ (s.rd (sch 0 SCH_BLK_ROW) - s.row).toInt) : s.trainReq = s.announce (s.rd (sch 0 SCH_BLK_ROW)) := by
  have hok : ¬(s.blockPend = true ∨ stDiff (s.rd (sch 0 SCH_BLK_ROW)) s.row < 2) := by
    rw [hfree]
    exact fun hno => hno.elim Bool.false_ne_true (Int.not_lt.2 hahead)
  unfold State.trainReq
  rw [if_neg (by simp [h]), if_neg hok]

/-! ## Local blockings (R234) -/

theorem State.localReq_refused {s : State} (h : (s.blockPend || s.shdOwned || !s.shadowSame) = true) :
    s.localReq = s.raise (sch 0 0) 30 := by
  unfold State.localReq
  exact if_pos h

/-- A request that comes late is reported on the FWD page, which leaves the request itself pending. -/
theorem State.localReq_pending {s : State} (h : (s.blockPend || s.shdOwned || !s.shadowSame) = false) :
    s.localReq.rdB (sch 0 SCH_BLK_STAT) 3 = true := by
  have hpend : (s.wrB (sch 0 SCH_BLK_STAT) 3 true).rdB (sch 0 SCH_BLK_STAT) 3 = true := State.rdB_wrB_self s _ true (by decide)
  have hlate : ∀ (t : State) (c : Bool), (t.when c fun u => u.raise (fwd 0 0) 17).rd (sch 0 SCH_BLK_STAT) = t.rd (sch 0 SCH_BLK_STAT) := by
    intro t c
    cases c with
    | false => rfl
    | true => exact State.rd_raise_ne t 17 (by decide) (by decide)
  unfold State.localReq
  rw [if_neg (by simp [h]), State.rdB_spanStart_ne _ (by decide)]
  exact (State.rdB_congr (hlate _ _) 3).trans hpend

/-! ## The tables (R218, R225, R237) -/

theorem bankedTableWrite_eq {a : Nat} (v : Word) {s : State} (hlo : 0x10000000 ≤ a) (hhi : a < 0x20000000) (ht : s.takes a = true) :
    exec (.bankedTableWrite a v) s = .next ((s.access a).winWrite (a - a % 4) v) :=
  congrArg Host.Outcome.next ((State.when_pos s (by simp [hlo, hhi]) _).trans (State.guarded_of_takes ht _))

/-- A cleared byte of a window reads 0, and every other stays. -/
theorem State.tb_clearWin (s : State) (a n b : Nat) : (s.clearWin a n).tb b = if a ≤ b ∧ b < a + n then 0 else s.tb b := by
  refine (Sparse.get_drop (fun k => decide (a ≤ k ∧ k < a + n)) b).trans ?_
  simp only [decide_eq_true_eq]
  rfl

/-- A word within a cleared range reads 0. -/
theorem State.tw_clearWin {s : State} {a n b : Nat} (hlo : a ≤ b) (hhi : b + 4 ≤ a + n) : (s.clearWin a n).tw b = 0 := by
  have hbyte : ∀ k < 4, (s.clearWin a n).tb (b + k) = 0 := fun k hk => by rw [State.tb_clearWin, if_pos (by omega)]
  have h0 : (s.clearWin a n).tb b = 0 := hbyte 0 (by decide)
  unfold State.tw
  rw [h0, hbyte 1 (by decide), hbyte 2 (by decide), hbyte 3 (by decide)]
  rfl

/-- The four words of a directory entry are cleared together. -/
theorem State.tw_clearEntry (s : State) (d i : Nat) {k : Nat} (hk : k < 4) : (s.clearWin (dirWord d i 0) 16).tw (dirWord d i k) = 0 :=
  State.tw_clearWin (by unfold dirWord win; omega) (by unfold dirWord win; omega)

theorem dirAgeExpiry_eq {d : Sys2Proof.Die} {i : Fin 65536} {s : State} (hup : s.dieUp (dieNum d) = true)
    (hlearned : bit (s.tw (dirWord (dieNum d) i.val 2)) 15 = true) : exec (.dirAgeExpiry d i) s =
      .next ((((s.reachAt (s.ageEnd (dieNum d) i.val)).clearWin (dirWord (dieNum d) i.val 0) 16).noteEnt (dieNum d) 1 i.val).evalTables
        (dieNum d)) :=
  congrArg Host.Outcome.next (State.when_pos s (by simp [hup, hlearned]) _)

/-- Settles O47: claims by the node that may send and the needle that lists them, blockings by whether the request is refused, the
tables by what a taken write and a cleared entry read as. -/
theorem claimsGrantedAndBlockingsRequested : Obligations.ClaimsGrantedAndBlockingsRequested := by
  refine ⟨fun _ _ _ _ => claimSend_eq, fun _ _ _ _ _ => claimRx_eq, fun s ht => ⟨_, rfl, ?_, ?_⟩,
    fun s => ⟨State.trainReq_elsewhere, State.trainReq_refused, fun hn hfree hahead => ?_⟩,
    fun s => ⟨State.localReq_refused, State.localReq_pending⟩, fun _ v _ => bankedTableWrite_eq v,
    fun d i s hup hlearned => ⟨dirAgeExpiry_eq hup hlearned, State.tw_clearEntry _ _ _ (by decide)⟩, fun s ht => ?_⟩
  · exact congrArg Host.Outcome.next (State.guarded_of_takes ht _)
  · exact congrArg Host.Outcome.next (State.guarded_of_takes ht _)
  · rw [State.trainReq_announces hn hfree hahead]
    exact s.announce_spec _
  · exact congrArg Host.Outcome.next (State.guarded_of_takes ht _)

end Sys2Proof.Machine
end

section
/-! SUPPORT. What a flip leaves unchanged of the contexts, a recovery context that takes any copy, the notifications a read leaves, and
the settled statement of 10_datasets_and_skeins.md. -/

namespace Sys2Proof.Machine

/-! ## Words of a table window beside the ones written -/

theorem State.tw_congr {s t : State} (h : t.tbl = s.tbl) (a : Nat) : t.tw a = s.tw a := by
  unfold State.tw State.tb; rw [h]

/-- A word of a window stays where its four bytes do. -/
theorem State.tw_of_tb {s t : State} {a : Nat} (h : ∀ k < 4, t.tb (a + k) = s.tb (a + k)) : t.tw a = s.tw a := by
  unfold State.tw
  rw [show t.tb a = s.tb a from h 0 (by decide), h 1 (by decide), h 2 (by decide), h 3 (by decide)]

theorem State.tw_setTw_ne (s : State) {a b : Nat} (w : Word) (h : b + 4 ≤ a ∨ a + 4 ≤ b) : (s.setTw a w).tw b = s.tw b :=
  State.tw_of_tb fun _ hk => State.tb_setTw_ne s w (by omega)

/-- Bytes written to a window leave every byte outside them. -/
theorem State.tb_setTbs_ne (s : State) {a b : Nat} (l : List Byte) (h : b < a ∨ a + l.length ≤ b) : (s.setTbs a l).tb b = s.tb b := by
  induction l generalizing s a with
  | nil => rfl
  | cons x xs ih =>
    rw [List.length_cons] at h
    exact (ih (s.setTb a x) (by omega)).trans ((State.tb_setTb ..).trans (if_neg (by omega)))

theorem State.length_tbs (s : State) (a n : Nat) : (s.tbs a n).length = n := by
  induction n generalizing a with
  | zero => rfl
  | succ n ih => exact congrArg Nat.succ (ih (a + 1))

/-! ## Where the contexts and their buffers lie (R241, R268) -/

/-- Word 3 of a context, which holds its state, lies apart from every context's word 0. -/
theorem ctxWord_state_apart (d c e x : Nat) : ctxWord e x 0 + 4 ≤ ctxWord d c 3 ∨ ctxWord d c 3 + 4 ≤ ctxWord e x 0 := by
  unfold ctxWord win winBase; omega

theorem State.ctxLen_lt (s : State) (d c : Nat) : s.ctxLen d c < 2048 := Nat.mod_lt _ (by decide)

/-- The two buffers of a context begin in the first 5 MiB of its die's window. -/
theorem State.bufAddr_range (s : State) (d c : Nat) {k : Nat} (hk : k ≤ 1) :
    winBase d ≤ s.bufAddr d c k ∧ s.bufAddr d c k < winBase d + 0x500000 := by
  have hunit : fld (s.cw d c 1) 0 16 < 2 ^ 16 := Nat.mod_lt _ (by decide)
  have hsize : k * bufUnits (s.ctxLen d c) ≤ 1 * bufUnits (s.ctxLen d c) := Nat.mul_le_mul_right _ hk
  have hlen := s.ctxLen_lt d c
  unfold State.bufAddr win
  unfold bufUnits at hsize ⊢
  omega

/-- Bytes in a buffer of the other die lie apart from word 0 of a die's contexts. -/
theorem State.bufAddr_apart (s : State) {e x : Nat} (he : e < 2) (hx : x < 4096) (m : Nat) {k n : Nat} (hk : k ≤ 1) (hn : n < 0x1000) :
    ctxWord e x 0 + 4 ≤ s.bufAddr (1 - e) m k ∨ s.bufAddr (1 - e) m k + n ≤ ctxWord e x 0 := by
  obtain ⟨hlo, hhi⟩ := s.bufAddr_range (1 - e) m hk
  unfold winBase at hlo hhi
  unfold ctxWord win winBase
  omega

/-! ## What a flip keeps -/

/-- From `s` to `t` no context of die `e` has changed its word 0: its dataset, length, role and source. -/
def KeepsHeads (e : Nat) (s t : State) : Prop := ∀ x < 4096, t.cw e x 0 = s.cw e x 0

namespace KeepsHeads

variable {e : Nat} {s0 s t : State}

theorem refl (e : Nat) (s : State) : KeepsHeads e s s := fun _ _ => rfl

/-- What leaves all table windows keeps these. -/
theorem of_tbl (h : KeepsHeads e s0 s) (ht : t.tbl = s.tbl) : KeepsHeads e s0 t := fun x hx =>
  (State.tw_congr ht _).trans (h x hx)

theorem of_keeps {w : Nat} (h : KeepsHeads e s0 s) (k : Keeps w s t) (hw : w.testBit 3 = false) : KeepsHeads e s0 t :=
  h.of_tbl (k.tbl hw)

theorem ite (c : Prop) [Decidable c] {a b : State} (ha : KeepsHeads e s0 a) (hb : KeepsHeads e s0 b) :
    KeepsHeads e s0 (if c then a else b) := by split <;> assumption

theorem setState (h : KeepsHeads e s0 s) (d c : Nat) (w : Word) : KeepsHeads e s0 (s.setTw (ctxWord d c 3) w) := fun x hx =>
  (State.tw_setTw_ne s w (ctxWord_state_apart d c e x)).trans (h x hx)

theorem setStateF (h : KeepsHeads e s0 s) (d c lo n v : Nat) : KeepsHeads e s0 (s.setTwF (ctxWord d c 3) lo n v) :=
  h.setState d c _

theorem setInfo (h : KeepsHeads e s0 s) (d c : Nat) (i : CtxInfo) : KeepsHeads e s0 (s.setInfo d c i) := h.of_tbl rfl

theorem notify (h : KeepsHeads e s0 s) (d c kind : Nat) : KeepsHeads e s0 (s.notify d c kind) :=
  h.of_keeps (State.notify_keeps (Sub.refl _) (Keeps.refl _ s) d c kind) rfl

theorem statBy (h : KeepsHeads e s0 s) (a n : Nat) : KeepsHeads e s0 (s.statBy a n) :=
  h.of_keeps (State.statBy_keeps (Sub.refl _) (Keeps.refl _ s) a n) rfl

theorem refresh (h : KeepsHeads e s0 s) (d c : Nat) : KeepsHeads e s0 (s.refresh d c) := by
  have hcount := ite ((s.ctxStale d c && !(s.info d c).stale) = true) (h.statBy (dataCtr d c 1) 1) h
  have hrun := ite (s.ctxStale d c = true) hcount (hcount.setStateF d c 28 4 0)
  have hstale : ∀ i, KeepsHeads e s0 (State.setInfo _ d c i) := fun i => hrun.setInfo d c i
  exact ite _ (hstale _) (((hstale _).setStateF d c 16 3 _).notify d c 1)

/-- The state of a context changes with a flip, never its word 0. -/
theorem flipOne (h : KeepsHeads e s0 s) (d c : Nat) (null : Option (BitVec 5)) : KeepsHeads e s0 (s.flipOne d c null) := by
  cases null with
  | none => exact (((h.setState d c _).setInfo d c _).refresh d c).notify d c 0
  | some r => exact (h.setInfo d c _).refresh d c

theorem setBuffer (h : KeepsHeads e s0 s) (he : e < 2) (m : Nat) {k : Nat} (hk : k ≤ 1) {l : List Byte} (hl : l.length < 0x1000) :
    KeepsHeads e s0 (s.setTbs (s.bufAddr (1 - e) m k) l) := fun x hx =>
  have hapart := s.bufAddr_apart he hx m hk hl
  (State.tw_of_tb fun _ _ => State.tb_setTbs_ne s l (by omega)).trans (h x hx)

/-- The mirror takes the data on the other die. -/
theorem flipMirror (h : KeepsHeads e s0 s) (he : e < 2) (c : Nat) (null : Option (BitVec 5)) :
    KeepsHeads e s0 (s.flipMirror e c null) := by
  unfold State.flipMirror
  cases s.mirrorOf e c with
  | none => exact h
  | some m =>
    have hlen : (s.tbs (s.bufAddr e c (s.ctxFront e c)) (8 + s.ctxLen e c)).length < 0x1000 := by
      have := s.ctxLen_lt e c
      rw [State.length_tbs]; omega
    have hdata := ite (null.isNone = true) (h.setBuffer he m (Nat.sub_le 1 (s.ctxFront (1 - e) m)) hlen) h
    have hlost := h.of_keeps (State.count_keeps (Sub.refl _) (Keeps.refl _ s) (dsk e DSK_CNT_XDIE)) rfl
    exact ite _ ((hdata.setStateF (1 - e) m 0 16 0).flipOne (1 - e) m null)
      (hlost.of_keeps (State.raise_keeps (Sub.refl _) (Keeps.refl _ _) (dsk e 0) 7) rfl)

theorem doFlip {f : Flip} (h : KeepsHeads f.die s0 s) (hf : f.die < 2) : KeepsHeads f.die s0 (s.doFlip f) := by
  have hgone : KeepsHeads f.die s0 { s with dk := { s.dk with flips := s.dk.flips.filter (· ≠ f) } } := h.of_tbl rfl
  exact (hgone.flipOne f.die f.ctx f.null).flipMirror hf f.ctx f.null

theorem reachOn (h : KeepsHeads e s0 s) (k : Nat) (target : Word) : KeepsHeads e s0 (s.reachOn k target) :=
  h.of_keeps (State.reachOn_keeps (Sub.refl _) (Keeps.refl _ s) k target) rfl

theorem ctxSrc (h : KeepsHeads e s t) {x : Nat} (hx : x < 4096) : t.ctxSrc e x = s.ctxSrc e x := congrArg (fld · 27 3) (h x hx)

end KeepsHeads

theorem dieNum_lt (d : Sys2Proof.Die) : dieNum d < 2 := by cases d <;> decide

/-! ## Host commits and flips (R244 to R246) -/

theorem State.hostCommit_commits {s : State} {d id c : Nat} (hc : s.hostCtx d id = some c) (hfree : s.rdB (dsk d DSK_COMMIT_STAT) 0 = false) :
    s.hostCommit d id = (s.wr (dsk d DSK_COMMIT_STAT) 1).commitBack d c := by
  unfold State.hostCommit
  rw [hc]
  exact if_neg (by simp [hfree])

theorem State.hostCommit_rejected {s : State} {d id : Nat} (h : s.hostCtx d id = none ∨ s.rdB (dsk d DSK_COMMIT_STAT) 0 = true) :
    s.hostCommit d id = (s.wrB (dsk d DSK_COMMIT_STAT) 1 true).raise (dsk d 0) 2 := by
  unfold State.hostCommit
  cases hc : s.hostCtx d id with
  | none => rfl
  | some c => exact if_pos (h.resolve_left (by simp [hc]))

theorem hostCommit_eq {d : Sys2Proof.Die} {ds : BitVec 13} {s : State} (ht : s.takes (dsk (dieNum d) DSK_COMMIT) = true) :
    exec (.hostCommit d ds) s = .next ((s.access (dsk (dieNum d) DSK_COMMIT)).hostCommit (dieNum d) ds.toNat) :=
  congrArg Host.Outcome.next (State.guarded_of_takes ht _)

theorem State.mem_commitBack_flips (s : State) (d c : Nat) : (⟨d, c, none, s.st d + 1000⟩ : Flip) ∈ (s.commitBack d c).dk.flips :=
  List.mem_append_right _ (List.mem_singleton_self _)

/-- Whether a flip ends a host's commit, which the command asks before the flip, can be asked after it. -/
theorem bufferFlip_eq {d : Sys2Proof.Die} {c : Fin 4096} {f : Flip} {s : State}
    (hf : (s.dk.flips.find? fun f => f.die == dieNum d && f.ctx == c.val) = some f) (hup : s.dieUp (dieNum d) = true) :
    exec (.bufferFlip d c) s = .next (((s.reachOn (dieNum d) f.due).doFlip f).when
      (((s.reachOn (dieNum d) f.due).doFlip f).ctxSrc f.die f.ctx == 0 && f.null.isNone) fun u => u.wrB (dsk f.die DSK_COMMIT_STAT) 0 false) := by
  obtain ⟨hdie, hctx⟩ : f.die = dieNum d ∧ f.ctx = c.val := by simpa using List.find?_some hf
  have hd : f.die < 2 := hdie ▸ dieNum_lt d
  have hc : f.ctx < 4096 := hctx ▸ c.isLt
  rw [(((KeepsHeads.refl f.die s).reachOn (dieNum d) f.due).doFlip hd).ctxSrc hc]
  show execBufferFlip d c s = _
  unfold execBufferFlip
  rw [hf]
  exact congrArg Host.Outcome.next (State.when_pos s hup _)

/-! ## Recovery contexts (R260) -/

section Recovery

variable (s : State) (d i : Nat)

theorem State.recInfo_setRecInfo (x : RecInfo) : (s.setRecInfo d i x).recInfo d i = x := by
  unfold State.recInfo State.setRecInfo
  rw [Assoc.get_put, if_pos rfl]
  rfl

/-- TAKE_ANY is set in word 1 of the context. -/
theorem State.takeAny_tw : (s.takeAny d i).tw (recWord d i 1) = setBit (s.tw (recWord d i 1)) 16 true := by
  have hraise := State.raise_keeps (Sub.refl _) (Keeps.refl _ (s.setTwF (recWord d i 1) 16 1 1)) (dsk d 0) 4
  exact (State.tw_congr (hraise.tbl rfl) _).trans (State.tw_setTw ..)

theorem State.takeAny_bit : bit ((s.takeAny d i).tw (recWord d i 1)) 16 = true := by
  rw [State.takeAny_tw, bit_setBit _ _ _ _ (by decide), if_pos rfl]

/-- The sequence in the low half of word 1 stays. -/
theorem State.takeAny_seq : (s.takeAny d i).twF (recWord d i 1) 0 16 = s.twF (recWord d i 1) 0 16 := by
  unfold State.twF
  rw [State.takeAny_tw]
  exact fld_setFld_ne _ _ _ _ _ _ (by decide) (by decide)

theorem State.takeAny_event : (s.takeAny d i).rdB (dsk d PG_EVT) 4 = true :=
  (State.rdB_raise _ (dsk d 0) 4 4 (by decide)).trans (if_pos rfl)

end Recovery

theorem frerTimeout_eq {d : Sys2Proof.Die} {c : Fin 1024} {b : Bool} {s : State} (hup : s.dieUp (dieNum d) = true) (hrun : s.run = true)
    (hcmp : s.cmpMode = false) (huse : bit (s.tw (recWord (dieNum d) c.val 0)) 15 = true) (hdue : s.frerDue (dieNum d) c.val b = true) :
    exec (.frerTimeout d c b) s = .next ((s.takeAny (dieNum d) c.val).setRecInfo (dieNum d) c.val
      { s.recInfo (dieNum d) c.val with quiet := 0, rogues := 0 }) :=
  congrArg Host.Outcome.next (State.when_pos s (by simp [hup, hrun, hcmp, huse, hdue]) _)

theorem frerTimeout_spec (d : Sys2Proof.Die) (c : Fin 1024) (b : Bool) (s : State) (hup : s.dieUp (dieNum d) = true) (hrun : s.run = true)
    (hcmp : s.cmpMode = false) (huse : bit (s.tw (recWord (dieNum d) c.val 0)) 15 = true) (hdue : s.frerDue (dieNum d) c.val b = true) :
    ∃ t, exec (.frerTimeout d c b) s = .next t ∧ s.twF (recWord (dieNum d) c.val 1) 0 16 = t.twF (recWord (dieNum d) c.val 1) 0 16 ∧
      bit (t.tw (recWord (dieNum d) c.val 1)) 16 = true ∧ t.rdB (dsk (dieNum d) PG_EVT) 4 = true ∧
      (t.recInfo (dieNum d) c.val).quiet = 0 ∧ (t.recInfo (dieNum d) c.val).rogues = 0 := by
  refine ⟨_, frerTimeout_eq hup hrun hcmp huse hdue, (State.takeAny_seq ..).symm, State.takeAny_bit .., State.takeAny_event .., ?_, ?_⟩ <;>
    rw [State.recInfo_setRecInfo]

/-! ## Telegrams (R261 to R263) -/

/-- An effect with a value that is there takes place. -/
theorem State.onSome_of_eq_some {α : Type} {s : State} {o : Option α} {x : α} (h : o = some x) (f : α → State → State) :
    s.onSome o f = f x s := by rw [h]; rfl

theorem trdpRx_unmatched {d : Sys2Proof.Die} {x : Trdp} {s : State} (hon : s.trdpOn (dieNum d) = true)
    (hm : s.trdpMatch (dieNum d) x = none) : exec (.trdpRx d x) s = .next s := by
  refine congrArg Host.Outcome.next ((State.when_pos s hon _).trans ?_)
  rw [hm]
  rfl

theorem trdpRx_matched {d : Sys2Proof.Die} {x : Trdp} {i c : Nat} {s : State} (hon : s.trdpOn (dieNum d) = true)
    (hm : s.trdpMatch (dieNum d) x = some i) (hc : s.trdpCtx (dieNum d) i = some c) :
    exec (.trdpRx d x) s = .next (s.trdpTake (dieNum d) c (bit (s.tw (trdpWord (dieNum d) i 1)) 15) x) :=
  congrArg Host.Outcome.next
    ((State.when_pos s hon _).trans ((State.onSome_of_eq_some hm _).trans (State.onSome_of_eq_some hc _)))

/-! ## Notifications (R267) -/

/-- Leaving out the first match leaves the matches after it. -/
theorem filter_eraseFirst {α : Type} (p : α → Bool) (l : List α) : (eraseFirst p l).filter p = (l.filter p).tail := by
  induction l with
  | nil => rfl
  | cons x xs ih =>
    unfold eraseFirst
    cases hx : p x with
    | true => simp [hx]
    | false => simpa [hx] using ih

theorem ntfPop_eq {d : Sys2Proof.Die} {s : State} (hr : s.reach (dsk (dieNum d) DSK_NTF_POP) = true) : exec (.ntfPop d) s =
    .next ((s.emit (.read .pcie (dsk (dieNum d) DSK_NTF_POP) (s.ntfFront (dieNum d)))).popNtf (dieNum d)) :=
  congrArg Host.Outcome.next (State.when_pos s hr _)

/-- Settles O42, clause by clause: flips by what they keep of a context, telegrams by the entry that they match, the recovery contexts
and the notifications by what the commands leave of them. -/
theorem datasetsCommitFlipAndAge : Obligations.DatasetsCommitFlipAndAge := by
  refine ⟨fun d ds s ht => ⟨fun c hc hfree => ?_, fun hrej => ?_⟩, fun d c s => s.mem_commitBack_flips d c,
    fun d c f s hf hup => bufferFlip_eq hf hup, fun d s hup hrun => ?_, frerTimeout_spec,
    fun d x i c s hon => ⟨trdpRx_unmatched hon, fun hm hc => trdpRx_matched hon hm hc⟩, fun d i s hrun hmode htx => ?_,
    fun d s hr => ⟨_, ntfPop_eq hr, rfl, filter_eraseFirst _ _⟩⟩
  · rw [hostCommit_eq ht, State.hostCommit_commits hc hfree]
  · rw [hostCommit_eq ht, State.hostCommit_rejected hrej]
  · exact congrArg Host.Outcome.next (State.when_pos s (by simp [hup, hrun]) _)
  · exact congrArg Host.Outcome.next (State.when_pos s (by simp [hrun, hmode, htx]) _)

end Sys2Proof.Machine
end

section
/-! SUPPORT. Timers that expire and frames in the first gap, a KEEPALIVE that leaves, the entry into bind-off and its end, and the settled
statement of 15_network_sleep_and_wake.md. -/

namespace Sys2Proof.Machine

/-! ## The instant of a timer, and rows -/

theorem ChangesOnly.expire {s0 s : State} (h : ChangesOnly tmuPages s0 s) (k : Nat) : ChangesOnly tmuPages s0 (s.expire k) := by
  unfold State.expire
  split
  · exact (h.advance _).of_regs rfl
  · exact h

/-- The instant of a timer neither starts nor stops the rows. -/
theorem State.expire_run (s : State) (k : Nat) : (s.expire k).run = s.run :=
  State.rdB_congr ((ChangesOnly.refl _ s).expire k _ (by decide)) 9

theorem State.run_wrF_ne (s : State) {a : Nat} (lo n v : Nat) (h : a ≠ sch 0 SCH_STAT) : (s.wrF a lo n v).run = s.run :=
  State.rdB_congr (State.rd_wrF_ne s lo n v h) 9

theorem State.rd_disarm (s : State) (k a : Nat) : (s.disarm k).rd a = s.rd a := rfl

theorem State.rd_withKp (s : State) (k : Keeper) (a : Nat) : State.rd { s with kp := k } a = s.rd a := rfl

theorem State.kp_disarm (s : State) (k : Nat) : (s.disarm k).kp = s.kp := rfl

theorem State.timer_disarm_self (s : State) (k : Nat) : (s.disarm k).timer k = none := by
  unfold State.disarm State.timer
  rw [Assoc.get_del, if_pos rfl]

/-- An event whose timer does not run takes place now. -/
theorem State.expire_disarm_self (s : State) (k : Nat) : (s.disarm k).expire k = s.disarm k := by
  unfold State.expire
  rw [State.timer_disarm_self]

theorem State.inFirstGap_rowless {s : State} (h : s.run = false) (n : Nat) (f : State → State) : s.inFirstGap n f = f s :=
  if_neg (by simp [h])

theorem State.inFirstGap_gap {s : State} {n k : Nat} (h : s.run = true) (hk : s.toGap n = some k) (f : State → State) :
    s.inFirstGap n f = f (s.reachSt (s.st 0 + wordOf k)) := by
  unfold State.inFirstGap
  rw [if_pos h, hk]

/-! ## A KEEPALIVE leaves (R357, R358) -/

/-- The time to the next KEEPALIVE in ns: KA_PER, in bind-off 100 ms. -/
def State.keepalivePeriod (s : State) : Nat :=
  (if s.rdB (kpr KPR_MODE) 4 then 100 else clampTo 100 1000 (s.rdF (kwk KWK_KA) 16 16)) * ms

/-- A KEEPALIVE that leaves at its instant, and the start of the next period. -/
def State.keepaliveOut (s : State) : State := (s.sendCtl 0x05 (.keepAlive s.keepAlive)).arm kaPerTmr s.keepalivePeriod

theorem State.sendKeepalive_eq (s : State) : s.sendKeepalive = (s.expire kaPerTmr).inFirstGap 64 State.keepaliveOut := rfl

theorem State.keepalivePeriod_bindoff {s : State} (h : s.rdB (kpr KPR_MODE) 4 = true) : s.keepalivePeriod = 100 * ms := by
  unfold State.keepalivePeriod
  rw [if_pos h]

theorem keepaliveSend_eq {s : State} (hup : s.dieUp 0 = true) (hcan : s.canKeepalive = true)
    (hneed : (s.need || s.rdB (kpr KPR_MODE) 4) = true) : exec .keepaliveSend s = .next s.sendKeepalive :=
  congrArg Host.Outcome.next (State.when_pos s (by rw [hup, hcan, hneed]; rfl) _)

/-! ## A KEEPALIVE arrives, and the node's own NEED (R356, R359 to R362) -/

/-- One that passes its checks is acted upon. -/
theorem keepaliveRx_eq {rx : Rx} {h : Hdr} {b : KeepAlive} {s t : State}
    (hrx : s.takeStitch rx h 0x05 (fun u => b.uid == u.uid) none (.keepAlive b) false = (t, true)) :
    exec (.keepaliveRx rx h b) s = .next (t.takeKeepalive b) := by
  show execKeepaliveRx rx h b s = _
  unfold execKeepaliveRx
  rw [hrx]

/-- The KWK page has no lock, and no region and no shared block lies behind it. -/
theorem State.access_kwkNeed (s : State) : s.access (kwk KWK_NEED) = s :=
  (State.access_none s (by decide)).trans (State.wakeFor_none s (by decide) (by decide))

theorem needHostWrite_eq (v : Bool) {s : State} (ht : s.takes (kwk KWK_NEED) = true) :
    exec (.needHostWrite v) s = .next (s.wrB (kwk KWK_NEED) 0 v).evalNeed := by
  refine congrArg Host.Outcome.next ((State.guarded_of_takes ht _).trans ?_)
  rw [State.access_kwkNeed]

/-! ## Bind-off is entered (R360) -/

/-- Bind-off has begun, and its first KEEPALIVE has not left yet. -/
def State.bindoffBegun (s : State) : State :=
  let t := (s.wrB (kpr KPR_MODE) 4 true).wr (kwk KWK_BO_END) (s.st 0 + wordOf (s.boTime * 1000000))
  (({ t with kp := { t.kp with boPend := false } }).raise (kwk 0) 0).disarm kaPerTmr

theorem State.enterBindoff_eq (s : State) :
    s.enterBindoff = s.bindoffBegun.when (s.bindoffBegun.canKeepalive && !s.bindoffBegun.run) State.sendKeepalive := rfl

/-- Of the registers it changes BINDOFF, BO_END and the flags of the KWK page. -/
theorem State.bindoffBegun_rd (s : State) {a : Nat} (he : kwk PG_EVT ≠ a) (hs : kwk PG_SEQ ≠ a) : s.bindoffBegun.rd a =
    ((s.wrB (kpr KPR_MODE) 4 true).wr (kwk KWK_BO_END) (s.st 0 + wordOf (s.boTime * 1000000))).rd a := by
  unfold State.bindoffBegun
  rw [State.rd_disarm, State.rd_raise_ne (base := kwk 0) _ _ he hs, State.rd_withKp]

theorem State.bindoffBegun_bindoff (s : State) : s.bindoffBegun.rdB (kpr KPR_MODE) 4 = true := by
  rw [State.rdB_congr (s.bindoffBegun_rd (by decide) (by decide)), State.rdB_congr (State.rd_wr_ne _ _ (by decide)),
    State.rdB_wrB_self _ _ _ (by decide)]

theorem State.bindoffBegun_end (s : State) : s.bindoffBegun.rd (kwk KWK_BO_END) = s.st 0 + wordOf (s.boTime * 1000000) := by
  rw [s.bindoffBegun_rd (by decide) (by decide), State.rd_wr_self]

/-- BO_START is set. -/
theorem State.bindoffBegun_event (s : State) : s.bindoffBegun.rdB (kwk PG_EVT) 0 = true := by
  unfold State.bindoffBegun
  rw [State.rdB_congr (State.rd_disarm _ _ _)]
  exact (State.rdB_raise _ (kwk 0) 0 0 (by decide)).trans (if_pos rfl)

theorem State.raise_kp (s : State) (base i : Nat) : (s.raise base i).kp = s.kp :=
  (State.raise_keeps (Sub.refl _) (Keeps.refl _ s) base i).kp rfl

theorem State.bindoffBegun_boPend (s : State) : s.bindoffBegun.kp.boPend = false := by
  unfold State.bindoffBegun
  rw [State.kp_disarm, State.raise_kp]

theorem State.bindoffBegun_run (s : State) : s.bindoffBegun.run = s.run := by
  unfold State.run
  rw [State.rdB_congr (s.bindoffBegun_rd (by decide) (by decide)), State.rdB_congr (State.rd_wr_ne _ _ (by decide)),
    State.rdB_congr (State.rd_wrB_ne _ _ _ (by decide))]

/-- Its first KEEPALIVE is due at once: no period runs. -/
theorem State.bindoffBegun_expire (s : State) : s.bindoffBegun.expire kaPerTmr = s.bindoffBegun := State.expire_disarm_self _ _

/-- Without rows the first KEEPALIVE leaves where the node may send it, and the next one is due 100 ms later. -/
theorem State.enterBindoff_rowless {s : State} (h : s.run = false) : s.enterBindoff = if s.bindoffBegun.canKeepalive
    then (s.bindoffBegun.sendCtl 0x05 (.keepAlive s.bindoffBegun.keepAlive)).arm kaPerTmr (100 * ms) else s.bindoffBegun := by
  have hrun : s.bindoffBegun.run = false := s.bindoffBegun_run.trans h
  have hsend : s.bindoffBegun.sendKeepalive = s.bindoffBegun.keepaliveOut := by
    rw [State.sendKeepalive_eq, State.bindoffBegun_expire, State.inFirstGap_rowless hrun]
  rw [State.enterBindoff_eq, hrun, Bool.not_false, Bool.and_true]
  unfold State.when
  rw [hsend]
  unfold State.keepaliveOut
  rw [State.keepalivePeriod_bindoff s.bindoffBegun_bindoff]

/-- The keep-alive timer has expired: no time remains. -/
def State.keepaliveExpired (s : State) : State := (s.expire kaTmr).wrF (kwk KWK_KA_LEFT) 0 24 0

theorem State.keepaliveExpired_run (s : State) : s.keepaliveExpired.run = s.run :=
  (State.run_wrF_ne _ _ _ _ (by decide)).trans (s.expire_run kaTmr)

theorem keepaliveTimeout_eq {s : State} (hrow : s.mode.inRow = true) (hneed : s.need = false) (hbo : s.rdB (kpr KPR_MODE) 4 = false) :
    exec .keepaliveTimeout s = .next (if s.run then { s.keepaliveExpired with kp := { s.keepaliveExpired.kp with boPend := true } }
      else s.keepaliveExpired.enterBindoff) := by
  rw [← s.keepaliveExpired_run]
  exact congrArg Host.Outcome.next (State.when_pos s (by rw [hrow, hneed, hbo]; rfl) _)

theorem keepaliveTimeout_spec (s : State) (hrow : s.mode.inRow = true) (hneed : s.need = false) (hbo : s.rdB (kpr KPR_MODE) 4 = false) :
    (s.run = true → exec .keepaliveTimeout s = .next { s.keepaliveExpired with kp := { s.keepaliveExpired.kp with boPend := true } }) ∧
    (s.run = false → ∃ v : State, exec .keepaliveTimeout s =
        .next (if v.canKeepalive then (v.sendCtl 0x05 (.keepAlive v.keepAlive)).arm kaPerTmr (100 * ms) else v) ∧
      v.rdB (kpr KPR_MODE) 4 = true ∧ v.rd (kwk KWK_BO_END) = s.keepaliveExpired.st 0 + wordOf (s.keepaliveExpired.boTime * 1000000) ∧
      v.rdB (kwk PG_EVT) 0 = true ∧ v.kp.boPend = false) := by
  rw [keepaliveTimeout_eq hrow hneed hbo]
  refine ⟨fun h => by rw [if_pos h], fun h => ⟨s.keepaliveExpired.bindoffBegun, ?_, State.bindoffBegun_bindoff _,
    State.bindoffBegun_end _, State.bindoffBegun_event _, State.bindoffBegun_boPend _⟩⟩
  rw [if_neg (by simp [h]), State.enterBindoff_rowless (s.keepaliveExpired_run.trans h)]

/-! ## Bind-off ends (R363) -/

theorem bindoffEnd_rowless {s : State} (hrow : s.mode.inRow = true) (hbo : s.rdB (kpr KPR_MODE) 4 = true) (hrun : s.run = false) :
    exec .bindoffEnd s = .next (s.reachSt (s.rd (kwk KWK_BO_END))).endBindoff :=
  congrArg Host.Outcome.next (State.when_pos s (by rw [hrow, hbo, hrun]; rfl) _)

theorem bindoffEnd_rows {s : State} (hrun : s.run = true) : exec .bindoffEnd s = .next s :=
  congrArg Host.Outcome.next (if_neg (by simp [hrun]))

/-- The boundary at or after END ends bind-off, where none waits to be entered. -/
theorem State.bindoffStep_ends {s : State} (hrow : s.mode.inRow = true) (hbo : s.rdB (kpr KPR_MODE) 4 = true) (hpend : s.kp.boPend = false)
    (hend : stReached (s.rd (kwk KWK_BO_END)) (s.st 0) = true) : s.bindoffStep = s.endBindoff := by
  unfold State.bindoffStep
  rw [if_neg (by simp [hpend]), if_pos (by rw [hbo, hrow, hend]; rfl)]

/-! ## A burst after a cancellation (R367) -/

theorem getLsbD_or_two_pow_self {w : Nat} (x : BitVec w) {n : Nat} (h : n < w) : (x ||| BitVec.ofNat w (2 ^ n)).getLsbD n = true := by
  rw [BitVec.getLsbD_or, BitVec.getLsbD_ofNat, Nat.testBit_two_pow_self, decide_eq_true h, Bool.and_self, Bool.or_true]

/-- The burst on a tap runs. -/
theorem State.burst_bursting_self (s : State) {n : Nat} (h : n < 4) : (s.burst n).kp.bursting.getLsbD n = true :=
  getLsbD_or_two_pow_self s.kp.bursting h

/-- The bursts on the other taps go on. -/
theorem State.burst_bursting_of (s : State) (n : Nat) {m : Nat} (h : s.kp.bursting.getLsbD m = true) :
    (s.burst n).kp.bursting.getLsbD m = true := by
  show (s.kp.bursting ||| BitVec.ofNat 4 (2 ^ n)).getLsbD m = true
  rw [BitVec.getLsbD_or, h, Bool.true_or]

theorem sideNum_lt (sd : Side) : sideNum sd < 2 := by cases sd <;> decide

theorem rewakeBurst_spec (sd : Side) (s : State) (h : s.mayRewake (sideNum sd) = true) : ∃ t, exec (.rewakeBurst sd) s = .next t ∧
    t.kp.rewakeDone.getLsbD (sideNum sd) = true ∧ t.kp.bursting.getLsbD (sideNum sd) = true ∧
    t.kp.bursting.getLsbD (2 + sideNum sd) = true ∧ t.rdB (kwk PG_EVT) 6 = true := by
  have hlt := sideNum_lt sd
  refine ⟨_, congrArg Host.Outcome.next (State.when_pos s h _), ?_⟩
  dsimp only
  rw [State.raise_kp]
  exact ⟨getLsbD_or_two_pow_self _ hlt, State.burst_bursting_of _ _ (State.burst_bursting_self _ (by omega)),
    State.burst_bursting_self _ (by omega), (State.rdB_raise _ (kwk 0) 6 6 (by decide)).trans (if_pos rfl)⟩

/-- Settles O20, command by command. -/
theorem needKeepAliveAndBindOff : Obligations.NeedKeepAliveAndBindOff := by
  refine ⟨fun s hup hcan hneed => ?_, fun rx h b s t hrx => ?_, fun v s ht => needHostWrite_eq v ht, fun s hm hw hc => ?_,
    keepaliveTimeout_spec, fun s hrow hbo => ⟨bindoffEnd_rowless hrow hbo, bindoffEnd_rows, State.bindoffStep_ends hrow hbo⟩,
    rewakeBurst_spec, fun s hm hoff => ?_⟩
  · rw [keepaliveSend_eq hup hcan hneed, State.sendKeepalive_eq]
    exact ⟨fun h => congrArg Host.Outcome.next (State.inFirstGap_rowless h _ _),
      fun k h hk => congrArg Host.Outcome.next (State.inFirstGap_gap h hk _)⟩
  · rw [keepaliveRx_eq hrx]
    simp only [State.takeKeepalive, Bool.and_eq_true, and_assoc]
  · exact congrArg Host.Outcome.next (State.when_pos s (by simp [hm, hw, hc]) _)
  · exact congrArg Host.Outcome.next (State.when_pos s (by simp [hm, hoff]) _)

end Sys2Proof.Machine
end

section
/-! SUPPORT. Registers beside the one written, the heartbeat, the token and its claims, frames of the pair, what a change of the mode and a flip touch,
and the settled statement of 13_twin_pairs.md on the token. -/

namespace Sys2Proof.Machine

/-! ## Fields and bits of registers other than the one written -/

theorem State.rdF_wr_ne (s : State) {a b : Nat} (v : Word) (lo n : Nat) (h : a ≠ b) : (s.wr a v).rdF b lo n = s.rdF b lo n :=
  State.rdF_congr (State.rd_wr_ne s v h) lo n

theorem State.rdB_wr_ne (s : State) {a b : Nat} (v : Word) (i : Nat) (h : a ≠ b) : (s.wr a v).rdB b i = s.rdB b i :=
  State.rdB_congr (State.rd_wr_ne s v h) i

theorem State.rdF_wrF_ne (s : State) {a b : Nat} (lo n v lo' n' : Nat) (h : a ≠ b) : (s.wrF a lo n v).rdF b lo' n' = s.rdF b lo' n' :=
  State.rdF_wr_ne s _ lo' n' h

theorem State.rdB_wrF_ne (s : State) {a b : Nat} (lo n v i : Nat) (h : a ≠ b) : (s.wrF a lo n v).rdB b i = s.rdB b i :=
  State.rdB_wr_ne s _ i h

theorem State.rdB_count_ne (s : State) {a b : Nat} (i : Nat) (h : a ≠ b) : (s.count a).rdB b i = s.rdB b i :=
  State.rdB_congr (State.rd_count_ne s h) i

/-! ## Events of the TWN page -/

theorem State.rd_raiseTwn_ne (s : State) (i : Nat) {a : Nat} (he : twn 0 PG_EVT ≠ a) (hs : twn 0 PG_SEQ ≠ a) : (s.raiseTwn i).rd a = s.rd a :=
  State.rd_raise_ne (base := twn 0 0) s i he hs

theorem State.rdF_raiseTwn_ne (s : State) (i : Nat) {a : Nat} (lo n : Nat) (he : twn 0 PG_EVT ≠ a) (hs : twn 0 PG_SEQ ≠ a) :
    (s.raiseTwn i).rdF a lo n = s.rdF a lo n := State.rdF_congr (s.rd_raiseTwn_ne i he hs) lo n

theorem State.rdB_raiseTwn_ne (s : State) (i : Nat) {a : Nat} (j : Nat) (he : twn 0 PG_EVT ≠ a) (hs : twn 0 PG_SEQ ≠ a) :
    (s.raiseTwn i).rdB a j = s.rdB a j := State.rdB_congr (s.rd_raiseTwn_ne i he hs) j

/-- An event that is raised is set, and no other one changes. -/
theorem State.rdB_raiseTwn (s : State) {i : Nat} (j : Nat) (hi : i < 32) :
    (s.raiseTwn i).rdB (twn 0 PG_EVT) j = (decide (j = i) || s.rdB (twn 0 PG_EVT) j) := by
  refine (State.rdB_raise s (twn 0 0) i j hi).trans ?_
  by_cases h : j = i
  · rw [if_pos h, decide_eq_true h, Bool.true_or]
  · rw [if_neg h, decide_eq_false h, Bool.false_or]; rfl

/-! ## What the pair's logic holds beside its registers -/

theorem State.rd_withPr (s : State) (x : Twin) (a : Nat) : State.rd { s with pr := x } a = s.rd a := rfl
theorem State.rdB_withPr (s : State) (x : Twin) (a i : Nat) : State.rdB { s with pr := x } a i = s.rdB a i := rfl

theorem State.pr_raiseTwn (s : State) (i : Nat) : (s.raiseTwn i).pr = s.pr :=
  (State.raiseTwn_keeps (Sub.refl _) (Keeps.refl _ s) i).pr rfl

theorem State.pr_count (s : State) (a : Nat) : (s.count a).pr = s.pr := (State.count_keeps (Sub.refl _) (Keeps.refl _ s) a).pr rfl

theorem State.now_raiseTwn (s : State) (i : Nat) : (s.raiseTwn i).now = s.now :=
  State.now_congr ((State.raiseTwn_keeps (Sub.refl _) (Keeps.refl _ s) i).el rfl)

theorem State.now_count (s : State) (a : Nat) : (s.count a).now = s.now :=
  State.now_congr ((State.count_keeps (Sub.refl _) (Keeps.refl _ s) a).el rfl)

/-! ## Time that passes -/

theorem ChangesOnly.reachFrom {s0 s : State} (h : ChangesOnly tmuPages s0 s) (k ns : Nat) : ChangesOnly tmuPages s0 (s.reachFrom k ns) := by
  unfold State.reachFrom
  split
  · exact h.advance _
  · exact h

theorem State.rd_reachFrom (s : State) (k ns : Nat) {a : Nat} (ha : pageNo a ∉ tmuPages) : (s.reachFrom k ns).rd a = s.rd a :=
  (ChangesOnly.refl _ s).reachFrom k ns a ha

theorem State.role_reachFrom (s : State) (k ns : Nat) : (s.reachFrom k ns).role = s.role :=
  State.rdF_congr (s.rd_reachFrom k ns (by decide)) 0 3

/-! ## The fields of TWN_STAT (R340) -/

theorem State.role_setRole (s : State) {v : Nat} (h : v < 8) : (s.setRole v).role = v :=
  (State.rdF_wrF_self s _ _ _ _ (by decide)).trans (Nat.mod_eq_of_lt h)

theorem State.tokCode_lt (s : State) : s.tokCode < 4 := by
  unfold State.tokCode
  split
  · decide
  · decide
  · split
    · split <;> decide
    · decide
  · exact Nat.mod_lt _ (by decide)

theorem State.tok_evalTok (s : State) : s.evalTok.tok = s.tokCode :=
  (State.rdF_wrF_self s _ _ _ _ (by decide)).trans (Nat.mod_eq_of_lt s.tokCode_lt)

theorem State.role_evalTok (s : State) : s.evalTok.role = s.role :=
  State.rdF_wrF_apart s _ _ (by decide) (by decide)

theorem State.role_raiseTwn (s : State) (i : Nat) : (s.raiseTwn i).role = s.role := s.rdF_raiseTwn_ne i 0 3 (by decide) (by decide)

theorem State.sync_raiseTwn (s : State) (i : Nat) : (s.raiseTwn i).sync = s.sync := s.rdF_raiseTwn_ne i 4 2 (by decide) (by decide)

theorem State.mode_wr_ne (s : State) {a : Nat} (v : Word) (h : a ≠ kpr KPR_MODE) : (s.wr a v).mode = s.mode :=
  State.mode_congr (State.rd_wr_ne s v h)

theorem State.mode_raiseTwn (s : State) (i : Nat) : (s.raiseTwn i).mode = s.mode :=
  State.mode_congr (s.rd_raiseTwn_ne i (by decide) (by decide))

theorem State.mode_count (s : State) {a : Nat} (h : a ≠ kpr KPR_MODE) : (s.count a).mode = s.mode :=
  State.mode_congr (State.rd_count_ne s h)

/-! ## SYNC (R329) -/

/-- A change of SYNC touches TWN_STAT and the page's events only. -/
theorem State.rd_setSync_ne (s : State) (v : Nat) {a : Nat} (ht : twn 0 TWN_STAT ≠ a) (he : twn 0 PG_EVT ≠ a) (hs : twn 0 PG_SEQ ≠ a) :
    (s.setSync v).rd a = s.rd a := by
  unfold State.setSync
  split
  · rfl
  · split
    · rw [State.rd_raiseTwn_ne _ _ he hs, State.rd_wrF_ne _ _ _ _ ht]
    · split
      · rw [State.rd_raiseTwn_ne _ _ he hs, State.rd_wrF_ne _ _ _ _ ht]
      · rw [State.rd_wrF_ne _ _ _ _ ht]

/-- TWN_STAT after a change of SYNC: no other field has changed. -/
theorem State.rd_setSync_stat (s : State) (v : Nat) : (s.setSync v).rd (twn 0 TWN_STAT) = s.rd (twn 0 TWN_STAT) ∨
    (s.setSync v).rd (twn 0 TWN_STAT) = setFld (s.rd (twn 0 TWN_STAT)) 4 2 v := by
  unfold State.setSync
  split
  · exact .inl rfl
  · refine .inr ?_
    split
    · rw [State.rd_raiseTwn_ne _ _ (by decide) (by decide), State.rd_wrF_self]
    · split
      · rw [State.rd_raiseTwn_ne _ _ (by decide) (by decide), State.rd_wrF_self]
      · rw [State.rd_wrF_self]

theorem State.rdB_setSync (s : State) (v : Nat) {i : Nat} (hi : i < 32) (h : i < 4 ∨ 6 ≤ i) :
    (s.setSync v).rdB (twn 0 TWN_STAT) i = s.rdB (twn 0 TWN_STAT) i := by
  unfold State.rdB
  rcases s.rd_setSync_stat v with hr | hr
  · rw [hr]
  · rw [hr, bit_setFld_ne _ _ hi h]

theorem State.sync_setSync (s : State) {v : Nat} (hv : v < 4) : (s.setSync v).sync = v := by
  have hw : (s.wrF (twn 0 TWN_STAT) 4 2 v).sync = v := (State.rdF_wrF_self s _ _ _ _ (by decide)).trans (Nat.mod_eq_of_lt hv)
  unfold State.setSync
  split
  · assumption
  · split
    · rw [State.sync_raiseTwn, hw]
    · split
      · rw [State.sync_raiseTwn, hw]
      · exact hw

/-- An event that has been set stays when SYNC changes. -/
theorem State.rdB_evt_setSync (s : State) (v : Nat) {i : Nat} (h : s.rdB (twn 0 PG_EVT) i = true) :
    (s.setSync v).rdB (twn 0 PG_EVT) i = true := by
  have hw : (s.wrF (twn 0 TWN_STAT) 4 2 v).rdB (twn 0 PG_EVT) i = true := (State.rdB_wrF_ne _ _ _ _ _ (by decide)).trans h
  unfold State.setSync
  split
  · exact h
  · split
    · rw [State.rdB_raiseTwn _ _ (by decide), hw, Bool.or_true]
    · split
      · rw [State.rdB_raiseTwn _ _ (by decide), hw, Bool.or_true]
      · exact hw

theorem State.mode_setSync (s : State) (v : Nat) : (s.setSync v).mode = s.mode :=
  State.mode_congr (s.rd_setSync_ne v (by decide) (by decide) (by decide))

theorem State.now_setSync (s : State) (v : Nat) : (s.setSync v).now = s.now :=
  State.now_congr ((State.setSync_keeps (Sub.refl _) (Keeps.refl _ s) v).el rfl)

/-! ## Heartbeat (R321) -/

/-- The loss of a standby's partner leaves what was set of the events, HB_OK and the counters. -/
theorem State.evalPartner_spec (s : State) : s.evalPartner.now = s.now ∧ s.evalPartner.hbOk = s.hbOk ∧
    s.evalPartner.rd (twn 0 TWN_CNT_HB_LOSS) = s.rd (twn 0 TWN_CNT_HB_LOSS) ∧
    (s.rdB (twn 0 PG_EVT) 0 = true → s.evalPartner.rdB (twn 0 PG_EVT) 0 = true) := by
  unfold State.evalPartner
  split
  · refine ⟨(State.now_raiseTwn _ _).trans (s.now_setSync 0), ?_, ?_, fun h => ?_⟩
    · exact (State.rdB_raiseTwn_ne _ _ _ (by decide) (by decide)).trans (s.rdB_setSync 0 (by decide) (by decide))
    · rw [State.rd_raiseTwn_ne _ _ (by decide) (by decide), s.rd_setSync_ne 0 (by decide) (by decide) (by decide)]
    · rw [State.rdB_raiseTwn _ _ (by decide), s.rdB_evt_setSync 0 h, Bool.or_true]
  · exact ⟨rfl, rfl, rfl, id⟩

/-- The node no longer hears its partner, before the partner is judged. -/
def State.heartbeatGone (s : State) : State :=
  let u := (((s.reachFrom hbMark 60000).wrB (twn 0 TWN_STAT) 6 false).raiseTwn 0).count (twn 0 TWN_CNT_HB_LOSS)
  { u with pr := { u.pr with hbRun := 0 } }

theorem heartbeatLost_eq {s : State} (hon : s.twinOn = true) (hhb : s.hbOk = true) :
    exec .heartbeatLost s = .next s.heartbeatGone.evalPartner :=
  congrArg Host.Outcome.next (State.when_pos s (by rw [hon, hhb]; rfl) _)

theorem State.heartbeatGone_spec (s : State) : s.heartbeatGone.now = (s.reachFrom hbMark 60000).now ∧ s.heartbeatGone.hbOk = false ∧
    s.heartbeatGone.rdB (twn 0 PG_EVT) 0 = true ∧ s.heartbeatGone.rd (twn 0 TWN_CNT_HB_LOSS) =
      ((s.reachFrom hbMark 60000).count (twn 0 TWN_CNT_HB_LOSS)).rd (twn 0 TWN_CNT_HB_LOSS) := by
  unfold State.heartbeatGone
  refine ⟨?_, ?_, ?_, ?_⟩
  · exact (State.now_count _ _).trans (State.now_raiseTwn _ _)
  · dsimp only [State.hbOk]
    rw [State.rdB_withPr, State.rdB_count_ne _ _ (by decide), State.rdB_raiseTwn_ne _ _ _ (by decide) (by decide),
      State.rdB_wrB_self _ _ _ (by decide)]
  · rw [State.rdB_withPr, State.rdB_count_ne _ _ (by decide), State.rdB_raiseTwn _ _ (by decide)]; rfl
  · rw [State.rd_withPr, State.rd_count_self, State.rd_count_self, State.rd_raiseTwn_ne _ _ (by decide) (by decide), State.rd_wrB_ne _ _ _ (by decide)]

theorem heartbeatLost_spec (s : State) (hon : s.twinOn = true) (hhb : s.hbOk = true) : let u := s.reachFrom hbMark 60000
    ∃ t, exec .heartbeatLost s = .next t ∧ t.now = u.now ∧ t.hbOk = false ∧ t.rdB (twn 0 PG_EVT) 0 = true ∧
    t.rd (twn 0 TWN_CNT_HB_LOSS) = (if u.rd (twn 0 TWN_CNT_HB_LOSS) = 0xFFFFFFFF then 0xFFFFFFFF else u.rd (twn 0 TWN_CNT_HB_LOSS) + 1) := by
  obtain ⟨hnow, hok, hevt, hcnt⟩ := s.heartbeatGone_spec
  obtain ⟨pnow, pok, pcnt, pevt⟩ := s.heartbeatGone.evalPartner_spec
  exact ⟨_, heartbeatLost_eq hon hhb, pnow.trans hnow, pok.trans hok, pevt hevt,
    (pcnt.trans hcnt).trans (State.rd_count_self _ _)⟩

theorem heartbeatRegained_spec (s : State) (hon : s.twinOn = true) (hhb : s.hbOk = false) (hrun : 8 ≤ s.pr.hbRun) :
    ∃ t, exec .heartbeatRegained s = .next t ∧ t.hbOk = true ∧ t.rdB (twn 0 PG_EVT) 1 = true := by
  refine ⟨_, congrArg Host.Outcome.next (State.when_pos s (by simp [hon, hhb, hrun]) _), ?_, ?_⟩
  · exact (State.rdB_raiseTwn_ne _ _ _ (by decide) (by decide)).trans (State.rdB_wrB_self _ _ _ (by decide))
  · rw [State.rdB_raiseTwn _ _ (by decide)]; rfl

/-! ## The token is released (R322, R331, R333) -/

/-- The lines as this node no longer drives them. -/
def State.linesFreed (s : State) : State :=
  { s with pr := { s.pr with tok0 := s.pr.tok0 || s.pr.drv0, tok1 := s.pr.tok1 || s.pr.drv1, drv0 := false, drv1 := false, claimAt := none } }

theorem State.dropToken_driving {s : State} (h : (s.pr.drv0 || s.pr.drv1) = true) :
    s.dropToken = ((s.linesFreed.setRole 5).evalTok).when (s.role == 3) fun u => u.raiseTwn 5 := if_pos h

theorem State.dropToken_idle {s : State} (h : (s.pr.drv0 || s.pr.drv1) = false) : s.dropToken = s := if_neg (by simp [h])

theorem State.pr_dropToken {s : State} (h : (s.pr.drv0 || s.pr.drv1) = true) : s.dropToken.pr = s.linesFreed.pr := by
  rw [State.dropToken_driving h]
  unfold State.when
  split
  · exact State.pr_raiseTwn _ _
  · rfl

/-- A node that releases the token drives no line, whether it drove one or not. -/
theorem State.dropToken_drives (s : State) : s.dropToken.pr.drv0 = false ∧ s.dropToken.pr.drv1 = false := by
  cases h : s.pr.drv0 || s.pr.drv1 with
  | true => rw [State.pr_dropToken h]; exact ⟨rfl, rfl⟩
  | false => rw [State.dropToken_idle h]; exact Bool.or_eq_false_iff.1 h

theorem State.role_dropToken {s : State} (h : (s.pr.drv0 || s.pr.drv1) = true) : s.dropToken.role = 5 := by
  have hidle : ((s.linesFreed.setRole 5).evalTok).role = 5 := (State.role_evalTok _).trans (State.role_setRole _ (by decide))
  rw [State.dropToken_driving h]
  unfold State.when
  split
  · exact (State.role_raiseTwn _ _).trans hidle
  · exact hidle

/-- A node that held the token reports the release. -/
theorem State.dropToken_event {s : State} (h : (s.pr.drv0 || s.pr.drv1) = true) (hlead : s.role = 3) :
    s.dropToken.rdB (twn 0 PG_EVT) 5 = true := by
  rw [State.dropToken_driving h, State.when_pos _ (by rw [hlead]; rfl), State.rdB_raiseTwn _ _ (by decide)]; rfl

theorem State.mode_dropToken (s : State) : s.dropToken.mode = s.mode :=
  State.mode_congr ((KeepsModeRegs.refl s).dropToken _ (by decide))

theorem State.now_dropToken (s : State) : s.dropToken.now = s.now :=
  State.now_congr ((State.dropToken_keeps (Sub.refl _) (Keeps.refl _ s)).el rfl)

theorem State.dropToken_spec (s : State) (h : (s.pr.drv0 || s.pr.drv1) = true) : s.dropToken.pr.drv0 = false ∧ s.dropToken.pr.drv1 = false ∧
    s.dropToken.role = 5 ∧ s.dropToken.pr.tok0 = (s.pr.tok0 || s.pr.drv0) ∧ s.dropToken.pr.tok1 = (s.pr.tok1 || s.pr.drv1) ∧
    (s.role = 3 → s.dropToken.rdB (twn 0 PG_EVT) 5 = true) := by
  obtain ⟨hd0, hd1⟩ := s.dropToken_drives
  refine ⟨hd0, hd1, State.role_dropToken h, ?_, ?_, State.dropToken_event h⟩
  · rw [State.pr_dropToken h]; rfl
  · rw [State.pr_dropToken h]; rfl

/-- Two high lines: the token is free. -/
theorem State.tok_free {s : State} (h0 : s.pr.tok0 = true) (h1 : s.pr.tok1 = true) : s.evalTok.tok = 0 := by
  rw [State.tok_evalTok, State.tokCode, h0, h1]

/-- TOK0 low alone: a claim. -/
theorem State.tok_claim {s : State} (h0 : s.pr.tok0 = false) (h1 : s.pr.tok1 = true) : s.evalTok.tok = 1 := by
  rw [State.tok_evalTok, State.tokCode, h0, h1]

/-- Two low lines that this node does not drive: the partner holds the token. -/
theorem State.tok_partner {s : State} (h0 : s.pr.tok0 = false) (h1 : s.pr.tok1 = false) (hd : s.pr.drv0 = false) : s.evalTok.tok = 3 := by
  rw [State.tok_evalTok, State.tokCode, h0, h1, hd]; rfl

/-- Two low lines that this node drives and no longer claims: it holds the token. -/
theorem State.tok_held {s : State} (h0 : s.pr.tok0 = false) (h1 : s.pr.tok1 = false) (hd : s.pr.drv0 = true) (hr : s.role ≠ 2) :
    s.evalTok.tok = 2 := by
  rw [State.tok_evalTok, State.tokCode, h0, h1, hd]; exact if_neg hr

/-- A standby that may not claim is IDLE once its partner has freed the token (R331). -/
theorem State.tokenFreed_spec (s : State) (hm : s.mode = .standby) (hmay : s.mayTake = false) :
    s.tokenFreed.role = 5 ∧ s.tokenFreed.rdB (twn 0 PG_EVT) 8 = true := by
  unfold State.tokenFreed
  rw [if_pos ⟨hm, by simp [hmay]⟩]
  refine ⟨(State.role_raiseTwn _ _).trans (State.role_setRole _ (by decide)), ?_⟩
  rw [State.rdB_raiseTwn _ _ (by decide)]; rfl

/-! ## An invalid pattern (R322) -/

/-- The instant at which an invalid pattern has lasted too long. -/
def State.faultAt (s : State) : State := s.reachFrom tokMark (if s.pr.tok0 then 4000 else 200000)

/-- A claim under way has ended for the fault, which shows. -/
def State.faultShown (s : State) : State :=
  ((s.when (s.role == 2) State.dropToken).wrB (twn 0 TWN_STAT) 12 true).raiseTwn 7

theorem tokenFault_eq {s : State} (hon : s.twinOn = true) (hne : s.pr.tok0 ≠ s.pr.tok1) : exec .tokenFault s =
    .next { s.faultAt.faultShown with pr := { s.faultAt.faultShown.pr with claimAt := none, forced := false } } :=
  congrArg Host.Outcome.next (State.when_pos s (by simp [hon, hne]) _)

theorem State.pr_faultShown (s : State) : s.faultShown.pr = (s.when (s.role == 2) State.dropToken).pr := State.pr_raiseTwn _ _

theorem State.now_faultShown (s : State) : s.faultShown.now = s.now := by
  refine (State.now_raiseTwn _ _).trans (?_ : (s.when (s.role == 2) State.dropToken).now = s.now)
  unfold State.when
  split
  · exact s.now_dropToken
  · rfl

theorem tokenFault_spec (s : State) (hon : s.twinOn = true) (hne : s.pr.tok0 ≠ s.pr.tok1) : ∃ t, exec .tokenFault s = .next t ∧
    t.now = (s.reachFrom tokMark (if s.pr.tok0 then 4000 else 200000)).now ∧ t.rdB (twn 0 TWN_STAT) 12 = true ∧
    t.rdB (twn 0 PG_EVT) 7 = true ∧ t.pr.claimAt = none ∧ (s.role = 2 → (s.pr.drv0 || s.pr.drv1) = true → t.pr.drv0 = false ∧ t.pr.drv1 = false) := by
  refine ⟨_, tokenFault_eq hon hne, State.now_faultShown _, ?_, ?_, rfl, fun hr _ => ?_⟩
  · exact (State.rdB_raiseTwn_ne _ _ _ (by decide) (by decide)).trans (State.rdB_wrB_self _ _ _ (by decide))
  · exact (State.rdB_raiseTwn _ _ (by decide)).trans rfl
  · have hclaim : s.faultAt.role = 2 := (s.role_reachFrom _ _).trans hr
    show s.faultAt.faultShown.pr.drv0 = false ∧ s.faultAt.faultShown.pr.drv1 = false
    rw [State.pr_faultShown, State.when_pos _ (by rw [hclaim]; rfl)]
    exact s.faultAt.dropToken_drives

/-! ## Claims (R323, R324) -/

theorem State.distinct_setRole (s : State) (v : Nat) : (s.setRole v).distinct = s.distinct := by
  unfold State.distinct State.setRole
  rw [State.rdB_wrF_ne _ _ _ _ _ (by decide), State.rdB_wrF_ne _ _ _ _ _ (by decide), State.rdB_wrF_ne _ _ _ _ _ (by decide)]

theorem State.startClaim_claimD (s : State) (b : Bool) : (s.startClaim b).pr.claimD = (s.setRole 2).claimWait := rfl

theorem State.claimWait_distinct {s : State} (h : s.distinct = true) : s.claimWait = 8 * b2n (s.rdB (twn 0 TWN_CFG) 1) := by
  unfold State.claimWait
  rw [if_pos h, Nat.mul_comm]

theorem State.claimWait_le (s : State) : s.claimWait ≤ 31 := by
  unfold State.claimWait
  split
  · cases s.rdB (twn 0 TWN_CFG) 1 <;> decide
  · have := Nat.mod_lt (Config.claimWait s.free) (y := 32) (by decide)
    omega

theorem State.startClaim_spec (b : Bool) (s : State) : (s.startClaim b).role = 2 ∧ (s.startClaim b).pr.claimAt = some s.now ∧
    (s.startClaim b).pr.forced = b ∧
    (s.distinct = true → (s.startClaim b).pr.claimD = 8 * b2n (s.rdB (twn 0 TWN_CFG) 1)) ∧ (s.startClaim b).pr.claimD ≤ 31 := by
  refine ⟨State.role_setRole s (by decide), rfl, rfl, fun h => ?_, State.claimWait_le _⟩
  rw [State.startClaim_claimD, State.claimWait_distinct ((s.distinct_setRole 2).trans h)]
  exact congrArg (8 * b2n ·) (State.rdB_wrF_ne _ _ _ _ _ (by decide))

/-- A lost claim is counted and reported, before the role shows it. -/
def State.claimCounted (s : State) : State := (s.dropToken.count (twn 0 TWN_CNT_ARB_LOST)).raiseTwn 6

theorem State.mode_claimCounted (s : State) : s.claimCounted.mode = s.mode :=
  ((State.mode_raiseTwn _ _).trans (State.mode_count _ (by decide))).trans s.mode_dropToken

/-- The registers after a lost claim. -/
theorem State.rd_claimLost (s : State) (a : Nat) :
    s.claimLost.rd a = (s.claimCounted.setRole (if s.mode = .standby then 4 else 5)).rd a := by
  rw [← s.mode_claimCounted]; rfl

/-- A node that serves when it loses a claim gives its role up at the next boundary. -/
theorem State.claimLost_give (s : State) (h : s.mode = .running ∨ s.mode = .healing) : s.claimLost.pr.give = true := by
  have hm : ∀ v, (s.claimCounted.setRole v).mode = s.mode := fun v => (State.mode_wr_ne _ _ (by decide)).trans s.mode_claimCounted
  show (_ || (s.claimCounted.setRole _).mode == .running || (s.claimCounted.setRole _).mode == .healing) = true
  rw [hm]
  rcases h with h | h <;> simp [h]

theorem State.claimLost_spec (s : State) : s.claimLost.rdB (twn 0 PG_EVT) 6 = true ∧ s.claimLost.pr.claimAt = none ∧
    s.claimLost.role = (if s.mode = .standby then 4 else 5) ∧ ((s.mode = .running ∨ s.mode = .healing) → s.claimLost.pr.give = true) := by
  refine ⟨?_, rfl, ?_, s.claimLost_give⟩
  · rw [State.rdB_congr (s.rd_claimLost _)]
    refine (State.rdB_wrF_ne _ _ _ _ _ (by decide)).trans ?_
    exact (State.rdB_raiseTwn _ _ (by decide)).trans rfl
  · refine (State.rdF_congr (s.rd_claimLost _) 0 3).trans (State.role_setRole _ ?_)
    split <;> decide

/-! ## The end of D, and the token held (R323, R332) -/

/-- A claim that finds both lines high drives TOK0. -/
def State.claimDriven (s : State) : State := { s with pr := { s.pr with tok0 := false, drv0 := true, driveAt := s.now } }

theorem tokenClaimWaitEnd_eq {s : State} {a : Nat} (hon : s.twinOn = true) (hr : s.role = 2) (hd : s.pr.drv0 = false) (ha : s.pr.claimAt = some a) :
    exec .tokenClaimWaitEnd s = .next (s.endWait a) := by
  show Host.Outcome.next _ = _
  rw [ha]
  exact congrArg Host.Outcome.next (State.when_pos s (by simp [hon, hr, hd]) _)

/-- The claim is lost where a line is low at the end of D. -/
theorem State.endWait_low {s : State} {a : Nat} (h : (s.reachAt (a + s.pr.claimD * 1000)).pr.tok0 = false ∨
    (s.reachAt (a + s.pr.claimD * 1000)).pr.tok1 = false) : s.endWait a = (s.reachAt (a + s.pr.claimD * 1000)).claimLost :=
  if_pos (by rcases h with h | h <;> simp [h])

theorem State.endWait_high {s : State} {a : Nat} (h0 : (s.reachAt (a + s.pr.claimD * 1000)).pr.tok0 = true)
    (h1 : (s.reachAt (a + s.pr.claimD * 1000)).pr.tok1 = true) : s.endWait a = (s.reachAt (a + s.pr.claimD * 1000)).claimDriven.evalTok :=
  if_neg (by simp [h0, h1])

theorem tokenClaimWaitEnd_spec (a : Nat) (s : State) (hon : s.twinOn = true) (hr : s.role = 2) (hd : s.pr.drv0 = false)
    (ha : s.pr.claimAt = some a) : let u := s.reachAt (a + s.pr.claimD * 1000)
    ((u.pr.tok0 = false ∨ u.pr.tok1 = false) → exec .tokenClaimWaitEnd s = .next u.claimLost) ∧
    (u.pr.tok0 = true → u.pr.tok1 = true → ∃ t, exec .tokenClaimWaitEnd s = .next t ∧ t.pr.drv0 = true ∧ t.pr.tok0 = false ∧
      t.pr.driveAt = u.now ∧ t.tok = 1) := by
  intro u
  rw [tokenClaimWaitEnd_eq hon hr hd ha]
  refine ⟨fun h => by rw [State.endWait_low h], fun h0 h1 => ?_⟩
  rw [State.endWait_high h0 h1]
  exact ⟨_, rfl, rfl, rfl, rfl, State.tok_claim rfl h1⟩

/-- The instant at which the arbitration of a claim ends. -/
def State.arbEnd (s : State) : State := s.reachAt (s.pr.driveAt + (if s.distinct then 4000 else 68000))

/-- Both lines are driven, and the node is LEAD. -/
def State.linesHeld (s : State) : State :=
  ({ s with pr := { s.pr with tok0 := false, tok1 := false, drv0 := true, drv1 := true, claimAt := none } } : State).setRole 3

/-- The acquisition is recorded, for a claim that began at `a`. -/
def State.tokenRecorded (s : State) (a : Nat) : State :=
  (((s.linesHeld.evalTok).wrF (twn 0 TWN_STAT) 4 2 2).wr (twn 0 TWN_SW_ST) (s.linesHeld.st 0)).wr (twn 0 TWN_SW_T)
    (wordOf ((s.now - a) / 1000 % 65536))

/-- The takeover of a standby is counted and reported. -/
def State.takeNoted (s : State) : State :=
  let w := (s.count (twn 0 TWN_CNT_TAKE)).raiseTwn 4
  { w with pr := { w.pr with take := true } }

theorem State.holdToken_standby {s : State} {a : Nat} (h : (s.arbEnd.tokenRecorded a).mode = .standby) :
    s.holdToken a = (s.arbEnd.tokenRecorded a).takeNoted := if_pos h

theorem State.holdToken_other {s : State} {a : Nat} (h : (s.arbEnd.tokenRecorded a).mode ≠ .standby) :
    s.holdToken a = s.arbEnd.tokenRecorded a := if_neg h

theorem tokenAcquired_eq {s : State} {a : Nat} (hon : s.twinOn = true) (hr : s.role = 2) (hd : s.pr.drv0 = true) (ha : s.pr.claimAt = some a) :
    exec .tokenAcquired s = .next (s.holdToken a) := by
  show Host.Outcome.next _ = _
  rw [ha]
  exact congrArg Host.Outcome.next (State.when_pos s (by simp [hon, hr, hd]) _)

theorem State.tok_linesHeld (s : State) : s.linesHeld.evalTok.tok = 2 :=
  State.tok_held rfl rfl rfl (by rw [show s.linesHeld.role = 3 from State.role_setRole _ (by decide)]; decide)

theorem State.role_linesHeld (s : State) : s.linesHeld.evalTok.role = 3 :=
  (State.role_evalTok _).trans (State.role_setRole _ (by decide))

/-- What TWN_STAT shows of a token that is held. -/
theorem State.tokenRecorded_stat (s : State) (a : Nat) : (s.tokenRecorded a).role = 3 ∧ (s.tokenRecorded a).tok = 2 ∧ (s.tokenRecorded a).sync = 2 := by
  have hstat : (s.tokenRecorded a).rd (twn 0 TWN_STAT) = (s.linesHeld.evalTok.wrF (twn 0 TWN_STAT) 4 2 2).rd (twn 0 TWN_STAT) := by
    unfold State.tokenRecorded
    rw [State.rd_wr_ne _ _ (by decide), State.rd_wr_ne _ _ (by decide)]
  refine ⟨?_, ?_, ?_⟩
  · exact ((State.rdF_congr hstat 0 3).trans (State.rdF_wrF_apart _ _ _ (by decide) (by decide))).trans s.role_linesHeld
  · exact ((State.rdF_congr hstat 10 2).trans (State.rdF_wrF_apart _ _ _ (by decide) (by decide))).trans s.tok_linesHeld
  · exact (State.rdF_congr hstat 4 2).trans (State.rdF_wrF_self _ _ _ _ _ (by decide))

/-- The record of the acquisition: its instant and the time of the claim (R332). -/
theorem State.tokenRecorded_switch (s : State) (a : Nat) : (s.tokenRecorded a).rd (twn 0 TWN_SW_ST) = s.st 0 ∧
    ((s.tokenRecorded a).rd (twn 0 TWN_SW_T)).toNat = (s.now - a) / 1000 % 65536 := by
  unfold State.tokenRecorded
  refine ⟨?_, ?_⟩
  · rw [State.rd_wr_ne _ _ (by decide), State.rd_wr_self]
    exact State.rd_wrF_ne _ _ _ _ (by decide)
  · rw [State.rd_wr_self, wordOf, BitVec.toNat_ofNat]
    omega

theorem State.mode_tokenRecorded (s : State) (a : Nat) : (s.tokenRecorded a).mode = s.mode := by
  refine State.mode_congr ?_
  unfold State.tokenRecorded State.evalTok State.linesHeld State.setRole
  rw [State.rd_wr_ne _ _ (by decide), State.rd_wr_ne _ _ (by decide), State.rd_wrF_ne _ _ _ _ (by decide), State.rd_wrF_ne _ _ _ _ (by decide),
    State.rd_wrF_ne _ _ _ _ (by decide)]
  rfl

theorem State.pr_tokenRecorded (s : State) (a : Nat) : (s.tokenRecorded a).pr =
    { s.pr with tok0 := false, tok1 := false, drv0 := true, drv1 := true, claimAt := none } := rfl

theorem State.now_tokenRecorded (s : State) (a : Nat) : (s.tokenRecorded a).now = s.now := rfl

/-- A takeover leaves the registers but its count and its event. -/
theorem State.rd_takeNoted (s : State) {a : Nat} (hc : twn 0 TWN_CNT_TAKE ≠ a) (he : twn 0 PG_EVT ≠ a) (hs : twn 0 PG_SEQ ≠ a) :
    s.takeNoted.rd a = s.rd a :=
  (State.rd_raiseTwn_ne _ _ he hs).trans (State.rd_count_ne _ hc)

theorem State.pr_takeNoted (s : State) : s.takeNoted.pr = { s.pr with take := true } := by
  show { (State.raiseTwn _ _).pr with take := true } = _
  rw [State.pr_raiseTwn, State.pr_count]

theorem State.now_takeNoted (s : State) : s.takeNoted.now = s.now := (State.now_raiseTwn _ _).trans (State.now_count _ _)

theorem State.takeNoted_event (s : State) : s.takeNoted.rdB (twn 0 PG_EVT) 4 = true := (State.rdB_raiseTwn _ _ (by decide)).trans rfl

/-- `t` shows the token acquired at the instant of `u`, by a claim that began at `a` (R332). -/
def TokenHeld (u : State) (a : Nat) (t : State) : Prop :=
  t.now = u.now ∧ t.role = 3 ∧ t.tok = 2 ∧ t.sync = 2 ∧ t.pr.tok0 = false ∧ t.pr.tok1 = false ∧ t.pr.drv0 = true ∧
    t.pr.drv1 = true ∧ t.rd (twn 0 TWN_SW_ST) = u.st 0 ∧ (t.rd (twn 0 TWN_SW_T)).toNat = (u.now - a) / 1000 % 65536 ∧
    (u.mode = .standby → t.pr.take = true ∧ t.rdB (twn 0 PG_EVT) 4 = true)

theorem State.tokenRecorded_held (u : State) (a : Nat) (h : u.mode ≠ .standby) : TokenHeld u a (u.tokenRecorded a) := by
  obtain ⟨hrole, htok, hsync⟩ := u.tokenRecorded_stat a
  obtain ⟨hst, ht⟩ := u.tokenRecorded_switch a
  unfold TokenHeld
  rw [State.pr_tokenRecorded, State.now_tokenRecorded]
  exact ⟨rfl, hrole, htok, hsync, rfl, rfl, rfl, rfl, hst, ht, fun hm => absurd hm h⟩

theorem State.takeNoted_held (u : State) (a : Nat) : TokenHeld u a (u.tokenRecorded a).takeNoted := by
  obtain ⟨hrole, htok, hsync⟩ := u.tokenRecorded_stat a
  obtain ⟨hst, ht⟩ := u.tokenRecorded_switch a
  have hstat : (u.tokenRecorded a).takeNoted.rd (twn 0 TWN_STAT) = (u.tokenRecorded a).rd (twn 0 TWN_STAT) :=
    State.rd_takeNoted _ (by decide) (by decide) (by decide)
  unfold TokenHeld
  rw [State.pr_takeNoted, State.pr_tokenRecorded, State.now_takeNoted, State.now_tokenRecorded,
    State.rd_takeNoted _ (by decide) (by decide) (by decide), State.rd_takeNoted _ (by decide) (by decide) (by decide)]
  exact ⟨rfl, (State.rdF_congr hstat 0 3).trans hrole, (State.rdF_congr hstat 10 2).trans htok, (State.rdF_congr hstat 4 2).trans hsync,
    rfl, rfl, rfl, rfl, hst, ht, fun _ => ⟨rfl, State.takeNoted_event _⟩⟩

theorem tokenAcquired_spec (a : Nat) (s : State) (hon : s.twinOn = true) (hr : s.role = 2) (hd : s.pr.drv0 = true) (ha : s.pr.claimAt = some a) :
    ∃ t, exec .tokenAcquired s = .next t ∧ TokenHeld s.arbEnd a t := by
  refine ⟨_, tokenAcquired_eq hon hr hd ha, ?_⟩
  by_cases hm : s.arbEnd.mode = .standby
  · rw [State.holdToken_standby ((State.mode_tokenRecorded _ a).trans hm)]
    exact State.takeNoted_held _ a
  · rw [State.holdToken_other fun h => hm ((State.mode_tokenRecorded _ a).symm.trans h)]
    exact State.tokenRecorded_held _ a hm

/-! ## FORCE_TAKE and DRILL (R338, R339) -/

/-- An effect whose condition fails does not take place. -/
theorem State.when_neg (s : State) {c : Bool} (h : c = false) (f : State → State) : s.when c f = s := by rw [h, State.when_false]

/-- A free token is claimed by force, whatever SYNC shows. -/
def State.forceClaim (s : State) : State :=
  s.when (s.twinOn && s.tok == 0 && !s.rdB (twn 0 TWN_STAT) 12 && s.role != 2 && s.role != 3) fun u => u.startClaim true

theorem forceTake_eq {s : State} (ht : s.takes (twn 0 TWN_CTRL) = true) : exec .forceTake s = .next (s.access (twn 0 TWN_CTRL)).forceClaim :=
  congrArg Host.Outcome.next (State.guarded_of_takes ht _)

theorem State.forceClaim_free {s : State} (hon : s.twinOn = true) (htok : s.tok = 0) (hfault : s.rdB (twn 0 TWN_STAT) 12 = false)
    (h2 : s.role ≠ 2) (h3 : s.role ≠ 3) : s.forceClaim = s.startClaim true :=
  State.when_pos s (by simp [hon, htok, hfault, h2, h3]) _

theorem State.forceClaim_held {s : State} (htok : s.tok = 3) : s.forceClaim = s := State.when_neg s (by simp [htok]) _

theorem State.askDrill_taken {s : State} (h : (s.lead && s.rdB (twn 0 TWN_PEER) 2 && s.hbOk) = true) :
    s.askDrill = s.wrB (twn 0 TWN_CTRL) 0 true := if_pos h

theorem State.askDrill_refused {s : State} (h : (s.lead && s.rdB (twn 0 TWN_PEER) 2 && s.hbOk) = false) :
    s.askDrill = s.raiseTwn 13 := if_neg (by rw [h]; decide)

theorem twinDrill_eq {s : State} (ht : s.takes (twn 0 TWN_CTRL) = true) : exec .twinDrill s = .next (s.access (twn 0 TWN_CTRL)).askDrill :=
  congrArg Host.Outcome.next (State.guarded_of_takes ht _)

/-! ## Frames of the pair (R325) -/

/-- A frame that is taken has its effect. -/
theorem State.laneRx_passes {s u : State} {h : TwinHdr} (hp : s.twinPasses h u) (f : State → State) : s.laneRx h f = f u := by
  obtain ⟨hall, rfl⟩ := hp
  obtain ⟨hframe, hsec⟩ := Bool.and_eq_true_iff.1 hall
  unfold State.laneRx
  dsimp only
  rw [State.when_pos _ hframe]
  split
  next v hv => rw [hv]
  next v hv => rw [hv] at hsec; cases hsec

/-- A frame with wrong addresses, EtherType or version is not taken. -/
theorem State.laneRx_foreign {s : State} {h : TwinHdr} (he : s.efilaner h = false) (f : State → State) : s.laneRx h f = s := by
  unfold State.laneRx
  dsimp only
  rw [State.when_neg _ (by rw [he, Bool.and_false])]

/-- A frame that fails MACsec is not taken. -/
theorem State.laneRx_unsafe {s : State} {h : TwinHdr} (hon : s.twinOn = true) (hl : s.lanes.contains h.lane.val = true)
    (hup : s.dieUp h.lane.val = true) (he : s.efilaner h = true)
    (hv : (s.verify (twinSa s.part h.lane.val).1 (twinSa s.part h.lane.val).2 h.sec false).2 = false) (f : State → State) :
    s.laneRx h f = (s.verify (twinSa s.part h.lane.val).1 (twinSa s.part h.lane.val).2 h.sec false).1 := by
  unfold State.laneRx
  dsimp only
  rw [State.when_pos _ (by rw [hon, hl, hup, he]; rfl)]
  split
  next v hv' => rw [hv'] at hv; cases hv
  next v hv' => rw [hv']

/-- Lines released, by an acknowledged drill. -/
theorem drillAckRx_spec (h : TwinHdr) (u s : State) (hp : s.twinPasses h u) (hlead : u.lead = true) (hdrill : u.pr.drillRow.isSome = true) :
    ∃ t, exec (.drillAckRx h) s = .next t ∧ t.pr.give = true ∧ t.pr.drillRow = none ∧ t.pr.drv0 = false ∧ t.pr.drv1 = false := by
  refine ⟨{ u.dropToken with pr := { u.dropToken.pr with drillRow := none, give := true } },
    congrArg Host.Outcome.next ((State.laneRx_passes hp _).trans (State.when_pos u (by rw [hlead, hdrill]; rfl) _)), rfl, rfl, ?_⟩
  exact u.dropToken_drives

theorem drillTimeout_spec (s : State) (hon : s.twinOn = true) (hlead : s.lead = true) (hdrill : s.pr.drillRow.isSome = true) :
    let u := s.reachFrom drillMark (2 * s.rowLen)
    ∃ t, exec .drillTimeout s = .next t ∧ t.now = u.now ∧ t.pr.drillRow = none ∧ t.pr.drv0 = u.pr.drv0 ∧ t.rdB (twn 0 PG_EVT) 13 = true := by
  refine ⟨_, congrArg Host.Outcome.next (State.when_pos s (by rw [hon, hlead, hdrill]; rfl) _), State.now_raiseTwn _ _, ?_, ?_, ?_⟩
  · rw [State.pr_raiseTwn]
  · rw [State.pr_raiseTwn]
  · exact (State.rdB_raiseTwn _ _ (by decide)).trans rfl

/-! ## What a change of the mode touches -/

/-- The pages on which a change of the mode writes: KPR and the die, KWK and the CPM, KBY, the regions, the TWN page and the tests. -/
abbrev modePages : List Nat := [0x000, 0x001, 0x002, 0x150, 0x151, 0x1C0, 0x1F0]

theorem pageNo_swt (d : Nat) {o : Nat} (h : o < 0x1000) : pageNo (swt d o) = 0x1F0 := by
  unfold swt; rw [Nat.add_assoc, pageNo_dieBase _ (by omega)]; omega

namespace ChangesOnly

variable {l : List Nat} {s0 s : State}

theorem each {α : Type} (h : ChangesOnly l s0 s) {f : α → State → State} (xs : List α)
    (hf : ∀ x t, ChangesOnly l s0 t → ChangesOnly l s0 (f x t)) : ChangesOnly l s0 (s.each f xs) := by
  induction xs generalizing s with
  | nil => exact h
  | cons x xs ih => exact ih (hf x s h)

theorem recordMode (h : ChangesOnly modePages s0 s) (m : Mode) (c : Cause) : ChangesOnly modePages s0 (s.recordMode m c) :=
  have hm := ((h.wr (a := kpr KPR_MODE) _ (by decide)).wr (a := kpr KPR_MODE) _ (by decide)).wr (a := kpr KPR_MODE) _ (by decide)
  ((hm.wr (a := kpr KPR_ENTRY_SEC) _ (by decide)).wr (a := kpr KPR_TRANS_CNT) _ (by decide)).raise 0 (by decide) (by decide)

theorem noBindoff (h : ChangesOnly modePages s0 s) : ChangesOnly modePages s0 s.noBindoff :=
  (h.wr (a := kpr KPR_MODE) _ (by decide)).of_regs rfl

theorem abortOffline (h : ChangesOnly modePages s0 s) : ChangesOnly modePages s0 s.abortOffline := by
  have hw : ∀ {t : State}, ChangesOnly modePages s0 t → ∀ d i b {o : Nat}, o < 0x1000 → ChangesOnly modePages s0 (t.wrB (swt d o) i b) :=
    fun ht d i b o ho => ht.wr _ (by rw [pageNo_swt d ho]; decide)
  refine (h.each (s.sw.tests.filter (·.offline)) fun x t ht => ?_).of_regs rfl
  have hrun := hw ht x.die x.code false (o := SWT_RUN) (by decide)
  refine (ChangesOnly.ite (x.code = 8) (hw hrun x.die 2 true (o := SWT_LBIST) (by decide))
    (ChangesOnly.ite (x.code = 9) (hw hrun x.die 31 true (o := SWT_LOOP_ERR) (by decide)) hrun)).raise 0 ?_ ?_
  · rw [show swt x.die 0 + PG_EVT = swt x.die PG_EVT from rfl, pageNo_swt _ (by decide)]; decide
  · rw [show swt x.die 0 + PG_SEQ = swt x.die PG_SEQ from rfl, pageNo_swt _ (by decide)]; decide

theorem kaStop (h : ChangesOnly modePages s0 s) : ChangesOnly modePages s0 s.kaStop :=
  (h.wr (a := kwk KWK_KA_LEFT) _ (by decide)).of_regs rfl

theorem kaRestart (h : ChangesOnly modePages s0 s) : ChangesOnly modePages s0 s.kaRestart :=
  have hb : ChangesOnly modePages s0 { s with kp := { s.kp with boPend := false } } := h.of_regs rfl
  (hb.wr (a := kwk KWK_KA_LEFT) _ (by decide)).of_regs rfl

theorem countNeed (h : ChangesOnly modePages s0 s) : ChangesOnly modePages s0 s.countNeed :=
  h.of_keeps (State.countNeed_keeps (Sub.refl _) (Keeps.refl _ _)) rfl

theorem dropToken (h : ChangesOnly modePages s0 s) : ChangesOnly modePages s0 s.dropToken := by
  have hfreed : ChangesOnly modePages s0 s.linesFreed := h.of_regs rfl
  have hstat := (hfreed.wr (a := twn 0 TWN_STAT) (setFld (s.linesFreed.rd (twn 0 TWN_STAT)) 0 3 5) (by decide)).wr (a := twn 0 TWN_STAT)
    (setFld ((s.linesFreed.setRole 5).rd (twn 0 TWN_STAT)) 10 2 (s.linesFreed.setRole 5).tokCode) (by decide)
  exact ite _ (hstat.when _ fun _ hu => hu.raise 5 (by decide) (by decide)) h

theorem releaseLine (h : ChangesOnly modePages s0 s) (n : Nat) : ChangesOnly modePages s0 (s.releaseLine n) := by
  have hw : ∀ {t : State}, ChangesOnly modePages s0 t → ∀ lo k v, ChangesOnly modePages s0 (t.wrF (kby KBY_STAT) lo k v) :=
    fun ht lo k v => ht.wr _ (by decide)
  have hdrop : ∀ u : State, ChangesOnly modePages s0 u → ChangesOnly modePages s0
      ((((((u.wrF (kby KBY_STAT) (2 * n) 2 0).wrF (kby KBY_STAT) (4 + 2 * n) 2 0).wrB (kby KBY_STAT) (12 + n) false).armRelease n).emit
        (.drive n 0 0)).raise (kby 0) 1) := fun u hu =>
    have ha := (hw (hw (hw hu _ _ _) _ _ _) _ _ _).of_keeps (State.armRelease_keeps (Sub.refl _) (Keeps.refl _ _) n) rfl
    (ha.of_regs (State.emit_regs _ _)).raise 1 (by decide) (by decide)
  have hkp : ∀ k : Keeper, ChangesOnly modePages s0 { s with kp := k } := fun _ => h.of_regs rfl
  have hwait : ChangesOnly modePages s0 (if s.waits n then s.setWait n false else s) := ite _ ((hkp _).wr (a := kby KBY_STAT) _ (by decide)) h
  exact ite _ (hdrop _ hwait) hwait

theorem evalLine (h : ChangesOnly modePages s0 s) (n : Nat) : ChangesOnly modePages s0 (s.evalLine n) :=
  have hs := (h.wr (a := kby KBY_STAT) (setFld (s.rd (kby KBY_STAT)) (8 + n) 1 (b2n (s.permit n))) (by decide)).wr (a := kby KBY_STAT)
    (setFld ((s.wrB (kby KBY_STAT) (8 + n) (s.permit n)).rd (kby KBY_STAT)) (10 + n) 1 (b2n (s.insReq n))) (by decide)
  ite _ hs (hs.releaseLine n)

theorem evalFloors (h : ChangesOnly modePages s0 s) : ChangesOnly modePages s0 s.evalFloors := by
  have hsub : ∀ {t u : State}, ChangesOnly powerPages t u → ChangesOnly modePages t u := fun ht a ha => ht a fun hm => ha (by
    simp only [List.mem_cons, List.not_mem_nil, or_false] at hm ⊢; omega)
  have htrans : ∀ {t u : State}, ChangesOnly modePages s0 t → ChangesOnly powerPages t u → ChangesOnly modePages s0 u :=
    fun ht hu a ha => (hsub hu a ha).trans (ht a ha)
  exact h.each _ fun g t ht =>
    (htrans ht ((ChangesOnly.refl _ t).wrRgn g _ (o := RGN_FLOOR) (by decide))).when _ fun u hu =>
      htrans hu ((ChangesOnly.refl _ u).rgnWakeUp g false)

theorem setMode (h : ChangesOnly modePages s0 s) (m : Mode) (c : Cause) : ChangesOnly modePages s0 (s.setMode m c) := by
  have h5 := (((h.recordMode m c).when (!m.inRow) fun _ ht => ht.noBindoff).when (s.mode == .maintenance && m != .maintenance)
    fun _ ht => ht.abortOffline).when (s.mode.inRow && !m.inRow) fun _ ht => ht.kaStop
  have h6 := h5.when (s.mode == .castOn && (m == .running || m == .standby)) fun _ ht => ht.kaRestart
  exact ((((h6.when _ fun _ ht => ht.countNeed).when _ fun _ ht => ht.dropToken).evalLine 0).evalLine 1).evalFloors

end ChangesOnly

/-- A change of the mode leaves the cold-start state. -/
theorem State.cs_setMode (s : State) (m : Mode) (c : Cause) : (s.setMode m c).cs = s.cs :=
  State.rdF_congr ((ChangesOnly.refl _ s).setMode m c _ (by decide)) 0 3

/-! ## What a flip touches -/

/-- The page of the dataset engine. -/
abbrev dataPages : List Nat := [0x180]

theorem pageNo_dsk (d : Nat) {o : Nat} (h : o < 0x1000) : pageNo (dsk d o) = 0x180 := by
  unfold dsk; rw [Nat.add_assoc, pageNo_dieBase _ (by omega)]; omega

namespace ChangesOnly

variable {s0 s : State}

theorem wrDsk (h : ChangesOnly dataPages s0 s) (d : Nat) (v : Word) {o : Nat} (ho : o < 0x1000) : ChangesOnly dataPages s0 (s.wr (dsk d o) v) :=
  h.wr v (by rw [pageNo_dsk d ho]; decide)

theorem raiseDsk (h : ChangesOnly dataPages s0 s) (d i : Nat) : ChangesOnly dataPages s0 (s.raise (dsk d 0) i) :=
  h.raise i (by rw [show dsk d 0 + PG_EVT = dsk d PG_EVT from rfl, pageNo_dsk d (by decide)]; decide)
    (by rw [show dsk d 0 + PG_SEQ = dsk d PG_SEQ from rfl, pageNo_dsk d (by decide)]; decide)

theorem notify (h : ChangesOnly dataPages s0 s) (d c kind : Nat) : ChangesOnly dataPages s0 (s.notify d c kind) := by
  have hqueued : ∀ x, ChangesOnly dataPages s0 { s with dk := x } := fun _ => h.of_regs rfl
  have hlost := (ite (s.rdF (dsk d DSK_NTF_CNT) 16 16 + 1 < 2 ^ 16) 
    (h.wrDsk d (setFld (s.rd (dsk d DSK_NTF_CNT)) 16 16 (s.rdF (dsk d DSK_NTF_CNT) 16 16 + 1)) (o := DSK_NTF_CNT) (by decide)) h).raiseDsk d 1
  have hkept := fun x v => ((((hqueued x).wrDsk d v (o := DSK_NTF_CNT) (by decide)).raiseDsk d 0).when
    ((s.dk.ntf.filter (·.1 == d)).length == 0) fun _ ht => ht.of_keeps (State.edge_keeps (Sub.refl _) (Keeps.refl _ _) (d * 1024 + 0x341)) rfl)
  exact ite _ (ite _ hlost (hkept _ _)) h

theorem refresh (h : ChangesOnly dataPages s0 s) (d c : Nat) : ChangesOnly dataPages s0 (s.refresh d c) := by
  have hcount := ite ((s.ctxStale d c && !(s.info d c).stale) = true)
    (h.of_keeps (State.statBy_keeps (Sub.refl _) (Keeps.refl _ s) (dataCtr d c 1) 1) rfl) h
  have hrun := ite (s.ctxStale d c = true) hcount (hcount.of_keeps (State.setTwF_keeps (Sub.refl _) (Keeps.refl _ _) (ctxWord d c 3) 28 4 0) rfl)
  have hstale : ∀ i, ChangesOnly dataPages s0 (State.setInfo _ d c i) := fun _ => hrun.of_regs rfl
  exact ite _ (hstale _) (((hstale _).of_keeps (State.setTwF_keeps (Sub.refl _) (Keeps.refl _ _) (ctxWord d c 3) 16 3 _) rfl).notify d c 1)

theorem emptyCtx (h : ChangesOnly dataPages s0 s) (d c : Nat) : ChangesOnly dataPages s0 (s.emptyCtx d c) :=
  (h.of_regs (t := s.setInfo d c CtxInfo.init) rfl).refresh d c

end ChangesOnly

/-! ## The row boundary (R332, R333, R338) -/

/-- The contexts that an incomplete resync has written are EMPTY. -/
def State.resyncDropped (s : State) : State :=
  let t := { s with pr := { s.pr with take := false, forced := false, deltas := [], ends := [] } }
  if t.pr.rsCtx.isEmpty then t
  else
    let v := t.each (fun e w => w.emptyCtx e.1 e.2) t.pr.rsCtx
    { v with dk := { v.dk with gens := [] }, pr := { v.pr with rsCtx := [] } }

theorem State.takeLead_eq (s : State) : s.takeLead = (s.resyncDropped.setMode .running .tokenAcquired).wrF (twn 0 TWN_STAT) 4 2 2 := rfl

theorem State.cs_resyncDropped (s : State) : s.resyncDropped.cs = s.cs := by
  have hstart : ChangesOnly dataPages s { s with pr := { s.pr with take := false, forced := false, deltas := [], ends := [] } } :=
    (ChangesOnly.refl _ s).of_regs rfl
  have hdrop : ChangesOnly dataPages s s.resyncDropped :=
    ChangesOnly.ite _ hstart ((hstart.each _ fun e _ ht => ht.emptyCtx e.1 e.2).of_regs rfl)
  exact State.rdF_congr (hdrop _ (by decide)) 0 3

theorem State.takeLead_mode (s : State) : s.takeLead.mode = .running :=
  (congrArg State.mode s.takeLead_eq).trans ((State.mode_wr_ne _ _ (by decide)).trans (State.setMode_mode _ _ _))

/-- The needle role does not pass with the token (R333). -/
theorem State.takeLead_cs (s : State) : s.takeLead.cs = s.cs :=
  (congrArg State.cs s.takeLead_eq).trans (((State.rdF_wrF_ne _ _ _ _ _ _ (by decide)).trans (State.cs_setMode _ _ _)).trans s.cs_resyncDropped)

theorem State.enterStandby_mode (s : State) (c : Cause) : (s.enterStandby c).mode = .standby :=
  (State.mode_wr_ne _ _ (by decide)).trans ((State.mode_setSync _ 0).trans ((State.mode_wr_ne _ _ (by decide)).trans (State.setMode_mode s _ c)))

theorem pairBoundary_takes (r : Word) (s : State) (hon : s.twinOn = true) (ht : s.pr.take = true) (hm : s.mode = .standby) :
    (s.pairBoundary r).mode = .running ∧ (s.pairBoundary r).cs = s.cs := by
  have hlead : s.pairBoundary r = s.takeLead := by
    unfold State.pairBoundary
    rw [if_neg (by simp [hon]), if_pos ⟨ht, hm⟩]
  rw [hlead]
  exact ⟨s.takeLead_mode, s.takeLead_cs⟩

theorem pairBoundary_gives (r : Word) (s : State) (hon : s.twinOn = true) (ht : s.pr.take = false) (hg : s.pr.give = true)
    (hm : s.mode = .running ∨ s.mode = .healing) : (s.pairBoundary r).mode = .standby := by
  unfold State.pairBoundary
  rw [if_neg (by simp [hon]), if_neg (by simp [ht]), if_pos ⟨hg, hm⟩]
  exact s.enterStandby_mode .tokenLost

/-- Settles O49, command by command. -/
theorem twinTokenClaimedHeldAndDropped : Obligations.TwinTokenClaimedHeldAndDropped := by
  refine ⟨heartbeatLost_spec, heartbeatRegained_spec, fun b s hon => ?_, fun s hm => ?_, State.dropToken_spec, fun a b s hon => ?_,
    fun s => ⟨State.tok_free, State.tok_claim, State.tok_partner, State.tok_held⟩, State.tokenFreed_spec, tokenFault_spec, fun s hon hm hr => ?_, fun s hc => ?_, State.startClaim_spec,
    tokenClaimWaitEnd_spec, State.claimLost_spec, tokenAcquired_spec, fun s ht => ?_, fun s ht => ?_, fun s ht => ?_, fun h u s hp hm => ?_,
    drillAckRx_spec, drillTimeout_spec, pairBoundary_takes, pairBoundary_gives⟩
  · exact congrArg Host.Outcome.next (State.when_pos s hon _)
  · exact congrArg Host.Outcome.next (State.when_pos s (by simp [hm]) _)
  · exact congrArg Host.Outcome.next (State.when_pos s hon _)
  · exact congrArg Host.Outcome.next (State.when_pos s (by simp [hon, hm, hr]) _)
  · exact congrArg Host.Outcome.next (State.when_pos s hc _)
  · rw [forceTake_eq ht]
    exact fun hon htok hfault h2 h3 => congrArg Host.Outcome.next (State.forceClaim_free hon htok hfault h2 h3)
  · rw [forceTake_eq ht]
    exact fun htok => congrArg Host.Outcome.next (State.forceClaim_held htok)
  · rw [twinDrill_eq ht]
    exact ⟨fun h => congrArg Host.Outcome.next (State.askDrill_taken h), fun h => congrArg Host.Outcome.next (State.askDrill_refused h)⟩
  · exact congrArg Host.Outcome.next ((State.laneRx_passes hp _).trans (State.when_pos u (by simp [hm]) _))

end Sys2Proof.Machine
end

section
/-! SUPPORT. What leaves a twin lane, HELLOs, the bodies of a delta, the records that a standby commits, the sweep of a resync, and the settled
statement of 13_twin_pairs.md on the lifeline. -/

namespace Sys2Proof.Machine

/-! ## A frame leaves a lane (R325, R424, R425) -/

/-- The pages of the twin lanes' MACsec (R424). -/
abbrev laneSecPages : List Nat := [0x1D3, 0x1D5]

theorem twinSa_eq_two_or_four (pt : Part) (l : Nat) : (twinSa pt l).2 = 2 ∨ (twinSa pt l).2 = 4 := by
  unfold twinSa
  split
  · exact .inl rfl
  · exact .inr rfl

theorem pageNo_sa {m : Nat} (hm : m = 2 ∨ m = 4) (d : Nat) {o : Nat} (ho : o < 0x1000) : pageNo (sa d m o) ∈ laneSecPages := by
  unfold sa
  rw [Nat.add_assoc, Nat.add_assoc, pageNo_dieBase _ (by omega), List.mem_cons, List.mem_singleton]
  omega

namespace ChangesOnly

variable {s0 s : State}

theorem wrSa (h : ChangesOnly laneSecPages s0 s) {m : Nat} (hm : m = 2 ∨ m = 4) (d : Nat) (v : Word) {o : Nat} (ho : o < 0x1000) :
    ChangesOnly laneSecPages s0 (s.wr (sa d m o) v) := h.wr v (pageNo_sa hm d ho)

theorem raiseSa (h : ChangesOnly laneSecPages s0 s) {m : Nat} (hm : m = 2 ∨ m = 4) (d i : Nat) :
    ChangesOnly laneSecPages s0 (s.raise (sa d m 0) i) :=
  h.raise i (pageNo_sa hm d (o := PG_EVT) (by decide)) (pageNo_sa hm d (o := PG_SEQ) (by decide))

theorem count (h : ChangesOnly laneSecPages s0 s) {a : Nat} (ha : pageNo a ∈ laneSecPages) : ChangesOnly laneSecPages s0 (s.count a) :=
  ite _ h (h.wr _ ha)

theorem wrSlot (h : ChangesOnly laneSecPages s0 s) {m k o : Nat} (hm : m = 2 ∨ m = 4) (hk : k < 8) (d : Nat) (v : Word) (ho : o < 0x80) :
    ChangesOnly laneSecPages s0 (s.wr (slotReg d m false k o) v) := h.wrSa hm d v (by rw [if_neg (by decide)]; omega)

theorem clearSlot (h : ChangesOnly laneSecPages s0 s) {m k : Nat} (hm : m = 2 ∨ m = 4) (hk : k < 8) (d : Nat) :
    ChangesOnly laneSecPages s0 (s.clearSlot d m false k) := by
  have hzero : ∀ l : List Nat, (∀ x ∈ l, x < 11) → ∀ t, ChangesOnly laneSecPages s0 t → ChangesOnly laneSecPages s0
      (t.each (fun j u => u.wr (slotReg d m false k (0x20 + 4 * j)) 0) l) := fun l => by
    induction l with
    | nil => exact fun _ _ ht => ht
    | cons x xs ih =>
      intro hl t ht
      have hx := hl x (List.mem_cons_self ..)
      exact ih (fun y hy => hl y (List.mem_cons_of_mem _ hy)) _ (ht.wrSlot hm hk d 0 (by omega))
  exact (hzero _ (fun _ => List.mem_range.1) s h).wrSlot hm hk d _ (by decide)

theorem pnAdvance (h : ChangesOnly laneSecPages s0 s) {m k : Nat} (hm : m = 2 ∨ m = 4) (hk : k < 8) (d : Nat) :
    ChangesOnly laneSecPages s0 (s.pnAdvance d m k) := by
  have hslot : ∀ {t : State} {o : Nat}, ChangesOnly laneSecPages s0 t → ∀ v, o < 0x80 →
      ChangesOnly laneSecPages s0 (t.wr (slotReg d m false k o) v) := fun ht v ho => ht.wrSlot hm hk d v ho
  have hpn := fun v v' v'' => hslot (hslot (hslot h v (o := 0x08) (by decide)) v' (o := 0x0C) (by decide)) v'' (o := 0x4C) (by decide)
  unfold State.pnAdvance
  have hthr := fun c [Decidable c] v v' v'' => ite c ((hpn v v' v'').raiseSa hm d 2) (hpn v v' v'')
  exact ite _ (((hthr _ _ _ _).clearSlot hm hk d).raiseSa hm d 3) (hthr _ _ _ _)

theorem protect (h : ChangesOnly laneSecPages s0 s) {m : Nat} (hm : m = 2 ∨ m = 4) (d : Nat) :
    ChangesOnly laneSecPages s0 (s.protect d m).1 := by
  have hslot : s.rdF (sa d m SEC_PORT_TXSA) 0 3 < 8 := Nat.mod_lt _ (by decide)
  unfold State.protect
  dsimp only
  split
  · exact h.pnAdvance hm hslot d
  · exact h.count (pageNo_sa hm d (by decide))

end ChangesOnly

/-- The next lifeline sequence of a lane is used up. -/
def State.seqUsed (s : State) (l : Nat) : State :=
  { s with pr := { s.pr with txSeq := Assoc.put s.pr.txSeq l ((Assoc.get s.pr.txSeq l).getD 0 + 1) } }

theorem State.llHdr_state (s : State) (l : Nat) (row : Word) (o d : Bool) : (s.llHdr l row o d).1 = s.seqUsed l := rfl

/-- What a frame that leaves a lane changes: the sequence, the MACsec pages of the twin lanes and the outputs. -/
theorem State.sendLane_cases (s : State) (l : Nat) (row : Word) (o d : Bool) (f : TwinFrame) :
    s.sendLane l row o d f = s ∨ (∃ out, s.sendLane l row o d f = (s.seqUsed l).emit out) ∨
      ∃ t, t = ((s.seqUsed l).protect (twinSa s.part l).1 (twinSa s.part l).2).1 ∧
        (s.sendLane l row o d f = t ∨ ∃ out, s.sendLane l row o d f = t.emit out) := by
  unfold State.sendLane
  dsimp only
  split
  · exact .inl rfl
  · rw [State.llHdr_state]
    split
    · exact .inr (.inl ⟨_, rfl⟩)
    · split
      next t an pn ht => exact .inr (.inr ⟨t, by rw [ht], .inr ⟨_, rfl⟩⟩)
      next t ht => exact .inr (.inr ⟨t, by rw [ht], .inl rfl⟩)

theorem State.sendLane_changes (s : State) (l : Nat) (row : Word) (o d : Bool) (f : TwinFrame) :
    ChangesOnly laneSecPages s (s.sendLane l row o d f) := by
  have hseq : ChangesOnly laneSecPages s (s.seqUsed l) := (ChangesOnly.refl _ s).of_regs rfl
  rcases s.sendLane_cases l row o d f with h | ⟨out, h⟩ | ⟨t, rfl, h | ⟨out, h⟩⟩
  · rw [h]; exact ChangesOnly.refl _ s
  · rw [h]; exact hseq.of_regs rfl
  · rw [h]; exact hseq.protect (twinSa_eq_two_or_four _ _) _
  · rw [h]; exact (hseq.protect (twinSa_eq_two_or_four _ _) _).of_regs rfl

/-- The sweep goes on beside the frames that leave. -/
theorem State.pr_sendLane (s : State) (l : Nat) (row : Word) (o d : Bool) (f : TwinFrame) :
    (s.sendLane l row o d f).pr.sweep = s.pr.sweep ∧ (s.sendLane l row o d f).pr.pace = s.pr.pace := by
  have hprot : ((s.seqUsed l).protect (twinSa s.part l).1 (twinSa s.part l).2).1.pr = (s.seqUsed l).pr :=
    (State.protect_keeps (Sub.refl _) (Keeps.refl _ _) _ _).pr rfl
  rcases s.sendLane_cases l row o d f with h | ⟨out, h⟩ | ⟨t, rfl, h | ⟨out, h⟩⟩
  · rw [h]; exact ⟨rfl, rfl⟩
  · rw [h]; exact ⟨rfl, rfl⟩
  · rw [h, hprot]; exact ⟨rfl, rfl⟩
  · rw [h, State.emit_pr, hprot]; exact ⟨rfl, rfl⟩

/-- The header of an unprotected frame (R325). -/
theorem State.sendLane_out (l : Nat) (row : Word) (o d : Bool) (f : TwinFrame) (s : State) (hup : s.dieUp l = true)
    (hsec : s.secOn (twinSa s.part l).1 (twinSa s.part l).2 = false) : (s.sendLane l row o d f).out = .twin l
      { da := efilanerDa, sa := s.mac, etype := s.twinEtype, version := 1, incomplete := !s.pr.sweep.isEmpty, ovf := o, lead := s.tok == 2,
        synced := s.sync == 2, drill := d, lane := if l = 0 then 0 else 1, row := row, seq := (Assoc.get s.pr.txSeq l).getD 0 + 1, sec := none } f :: s.out := by
  have hseq : (s.seqUsed l).secOn (twinSa s.part l).1 (twinSa s.part l).2 = false := hsec
  unfold State.sendLane
  rw [if_neg (by simp [hup])]
  dsimp only
  rw [State.llHdr_state, if_pos (by simp [hseq])]
  rfl

/-! ## HELLOs and lanes (R325) -/

/-- The partner's description is shown. -/
def State.peerShown (s : State) (h : TwinHdr) (b : TwinHello) : State :=
  (s.wr (twn 0 TWN_PEER) (wordOf (b2n b.pos + 2 + 4 * b2n (b.sync == 2) + 8 * b2n h.lead + 256 * b.num.toNat))).wr64
    (twn 0 TWN_PEER_UID_LO) (twn 0 TWN_PEER_UID_HI) b.uid.toNat

/-- A lane on which a HELLO was heard is up. -/
def State.laneHeard (s : State) (l : Nat) : State :=
  (if s.laneUp l then s else (s.wrB (twn 0 TWN_STAT) (8 + l) true).raiseTwn 11).mark (laneMark l)

/-- Another partner than the one before is noticed. -/
def State.peerChanged (s : State) : State :=
  let v := s.raiseTwn 12
  if v.mode = .standby then v.setSync 0 else v

theorem State.takeHello_eq (s : State) (l : Nat) (h : TwinHdr) (b : TwinHello) : s.takeHello l h b =
    if s.rdB (twn 0 TWN_PEER) 1 && s.peerUid != b.uid then ((s.peerShown h b).laneHeard l).peerChanged else (s.peerShown h b).laneHeard l := rfl

theorem b2n_le_one (b : Bool) : b2n b ≤ 1 := by cases b <;> decide

theorem bit_of_b2n {w : Word} {i : Nat} {b : Bool} (h : w.toNat / 2 ^ i % 2 = b2n b) : bit w i = b := by
  unfold bit
  rw [h]
  cases b <;> rfl

/-- The bits of the partner's description. -/
theorem peerWord_spec (pos synced lead : Bool) {n : Nat} (hn : n < 64) (w : Word)
    (hw : w = wordOf (b2n pos + 2 + 4 * b2n synced + 8 * b2n lead + 256 * n)) :
    bit w 0 = pos ∧ bit w 1 = true ∧ bit w 2 = synced ∧ bit w 3 = lead ∧ fld w 8 6 = n := by
  have hp := b2n_le_one pos
  have hs := b2n_le_one synced
  have hl := b2n_le_one lead
  have hval : w.toNat = b2n pos + 2 + 4 * b2n synced + 8 * b2n lead + 256 * n := by
    rw [hw, wordOf, BitVec.toNat_ofNat]
    omega
  refine ⟨bit_of_b2n ?_, bit_of_b2n (b := true) (?_ : _ = 1), bit_of_b2n ?_, bit_of_b2n ?_, (?_ : _ / 2 ^ 8 % 2 ^ 6 = n)⟩ <;> omega

theorem State.rd_peerShown_ne (s : State) (h : TwinHdr) (b : TwinHello) {a : Nat} (hp : twn 0 TWN_PEER ≠ a) (hl : twn 0 TWN_PEER_UID_LO ≠ a)
    (hh : twn 0 TWN_PEER_UID_HI ≠ a) : (s.peerShown h b).rd a = s.rd a := by
  unfold State.peerShown State.wr64
  rw [State.rd_wr_ne _ _ hh, State.rd_wr_ne _ _ hl, State.rd_wr_ne _ _ hp]

theorem State.peerUid_peerShown (s : State) (h : TwinHdr) (b : TwinHello) : (s.peerShown h b).peerUid = b.uid := by
  have hlt := b.uid.isLt
  unfold State.peerUid State.rd64 State.peerShown State.wr64
  rw [State.rd_wr_ne _ _ (by decide), State.rd_wr_self, State.rd_wr_self, wordOf, wordOf, BitVec.toNat_ofNat, BitVec.toNat_ofNat]
  apply BitVec.eq_of_toNat_eq
  rw [BitVec.toNat_ofNat]
  omega

theorem State.peerShown_spec (s : State) (h : TwinHdr) (b : TwinHello) : let w := (s.peerShown h b).rd (twn 0 TWN_PEER)
    bit w 0 = b.pos ∧ bit w 1 = true ∧ bit w 2 = (b.sync == 2) ∧ bit w 3 = h.lead ∧ fld w 8 6 = b.num.toNat := by
  refine peerWord_spec b.pos (b.sync == 2) h.lead b.num.isLt _ ?_
  unfold State.peerShown State.wr64
  rw [State.rd_wr_ne _ _ (by decide), State.rd_wr_ne _ _ (by decide), State.rd_wr_self]

theorem State.rd_laneHeard_ne (s : State) (l : Nat) {a : Nat} (ht : twn 0 TWN_STAT ≠ a) (he : twn 0 PG_EVT ≠ a) (hs : twn 0 PG_SEQ ≠ a) :
    (s.laneHeard l).rd a = s.rd a := by
  show (if s.laneUp l then s else (s.wrB (twn 0 TWN_STAT) (8 + l) true).raiseTwn 11).rd a = _
  split
  · rfl
  · rw [State.rd_raiseTwn_ne _ _ he hs, State.rd_wrB_ne _ _ _ ht]

/-- A lane that is heard is up, and its bit is the only one of TWN_STAT that changes. -/
theorem State.rdB_laneHeard (s : State) {l i : Nat} (hl : 8 + l < 32) :
    (s.laneHeard l).rdB (twn 0 TWN_STAT) i = if i = 8 + l then true else s.rdB (twn 0 TWN_STAT) i := by
  show (if s.laneUp l then s else (s.wrB (twn 0 TWN_STAT) (8 + l) true).raiseTwn 11).rdB (twn 0 TWN_STAT) i = _
  split
  next hup =>
    split
    next hi => rw [hi]; exact hup
    next => rfl
  next => rw [State.rdB_raiseTwn_ne _ _ _ (by decide) (by decide), State.rdB_wrB _ _ _ _ _ hl]

theorem State.mode_laneHeard (s : State) (l : Nat) : (s.laneHeard l).mode = s.mode :=
  State.mode_congr (s.rd_laneHeard_ne l (by decide) (by decide) (by decide))

theorem State.mode_peerShown (s : State) (h : TwinHdr) (b : TwinHello) : (s.peerShown h b).mode = s.mode :=
  State.mode_congr (s.rd_peerShown_ne h b (by decide) (by decide) (by decide))

theorem State.rd_peerChanged_ne (s : State) {a : Nat} (ht : twn 0 TWN_STAT ≠ a) (he : twn 0 PG_EVT ≠ a) (hs : twn 0 PG_SEQ ≠ a) :
    s.peerChanged.rd a = s.rd a := by
  unfold State.peerChanged
  dsimp only
  split
  · rw [State.rd_setSync_ne _ _ ht he hs, State.rd_raiseTwn_ne _ _ he hs]
  · rw [State.rd_raiseTwn_ne _ _ he hs]

theorem State.rdB_peerChanged (s : State) {i : Nat} (hi : i < 32) (h : i < 4 ∨ 6 ≤ i) :
    s.peerChanged.rdB (twn 0 TWN_STAT) i = s.rdB (twn 0 TWN_STAT) i := by
  unfold State.peerChanged
  dsimp only
  split
  · rw [State.rdB_setSync _ _ hi h, State.rdB_raiseTwn_ne _ _ _ (by decide) (by decide)]
  · rw [State.rdB_raiseTwn_ne _ _ _ (by decide) (by decide)]

/-- Another partner is reported, and a standby loses its synchronisation. -/
theorem State.peerChanged_spec (s : State) : s.peerChanged.rdB (twn 0 PG_EVT) 12 = true ∧ (s.mode = .standby → s.peerChanged.sync = 0) := by
  have hevt : (s.raiseTwn 12).rdB (twn 0 PG_EVT) 12 = true := (State.rdB_raiseTwn _ _ (by decide)).trans rfl
  unfold State.peerChanged
  dsimp only
  split
  next hm => exact ⟨State.rdB_evt_setSync _ _ hevt, fun _ => State.sync_setSync _ (by decide)⟩
  next hm => exact ⟨hevt, fun h => absurd ((s.mode_raiseTwn 12).trans h) hm⟩

/-- A HELLO leaves the partner's description as the page shows it. -/
theorem State.rd_takeHello (s : State) (l : Nat) (h : TwinHdr) (b : TwinHello) {a : Nat} (ht : twn 0 TWN_STAT ≠ a) (he : twn 0 PG_EVT ≠ a)
    (hs : twn 0 PG_SEQ ≠ a) : (s.takeHello l h b).rd a = (s.peerShown h b).rd a := by
  rw [State.takeHello_eq]
  split
  · rw [State.rd_peerChanged_ne _ ht he hs, State.rd_laneHeard_ne _ _ ht he hs]
  · rw [State.rd_laneHeard_ne _ _ ht he hs]

theorem State.rdB_takeHello (s : State) {l : Nat} (h : TwinHdr) (b : TwinHello) {i : Nat} (hl : 8 + l < 32) (hi : i < 32) (hs : i < 4 ∨ 6 ≤ i) :
    (s.takeHello l h b).rdB (twn 0 TWN_STAT) i = if i = 8 + l then true else s.rdB (twn 0 TWN_STAT) i := by
  have hheard : ((s.peerShown h b).laneHeard l).rdB (twn 0 TWN_STAT) i = if i = 8 + l then true else s.rdB (twn 0 TWN_STAT) i := by
    rw [State.rdB_laneHeard _ hl, State.rdB_congr (s.rd_peerShown_ne h b (by decide) (by decide) (by decide))]
  rw [State.takeHello_eq]
  split
  · rw [State.rdB_peerChanged _ hi hs, hheard]
  · exact hheard

theorem State.takeHello_changed {s : State} {l : Nat} {h : TwinHdr} {b : TwinHello} (hv : s.rdB (twn 0 TWN_PEER) 1 = true) (hne : s.peerUid ≠ b.uid) :
    s.takeHello l h b = ((s.peerShown h b).laneHeard l).peerChanged := by
  rw [State.takeHello_eq, if_pos (by simp [hv, hne])]

theorem State.laneSeq_incomplete (s : State) (h : TwinHdr) : (s.laneSeq h).rdB (twn 0 TWN_STAT) 13 = h.incomplete :=
  State.rdB_wrB_self s _ _ (by decide)

theorem twinHelloRx_spec (h : TwinHdr) (b : TwinHello) (u s : State) (hp : s.twinPasses h u) :
    ∃ t, exec (.twinHelloRx h b) s = .next t ∧ t.laneUp h.lane.val = true ∧ t.peerUid = b.uid ∧ t.rdB (twn 0 TWN_PEER) 0 = b.pos ∧
      t.rdB (twn 0 TWN_PEER) 1 = true ∧ t.rdB (twn 0 TWN_PEER) 2 = (b.sync == 2) ∧ t.rdB (twn 0 TWN_PEER) 3 = h.lead ∧
      t.rdF (twn 0 TWN_PEER) 8 6 = b.num.toNat ∧ t.rdB (twn 0 TWN_STAT) 13 = h.incomplete ∧
      (u.rdB (twn 0 TWN_PEER) 1 = true → u.peerUid ≠ b.uid → t.rdB (twn 0 PG_EVT) 12 = true ∧ (u.mode = .standby → t.sync = 0)) := by
  have hl := h.lane.isLt
  have hpeer := u.rd_takeHello h.lane.val h b (a := twn 0 TWN_PEER) (by decide) (by decide) (by decide)
  have hlo := u.rd_takeHello h.lane.val h b (a := twn 0 TWN_PEER_UID_LO) (by decide) (by decide) (by decide)
  have hhi := u.rd_takeHello h.lane.val h b (a := twn 0 TWN_PEER_UID_HI) (by decide) (by decide) (by decide)
  obtain ⟨hpos, hknown, hsync, hlead, hnum⟩ := u.peerShown_spec h b
  refine ⟨u.takeHello h.lane.val h b, congrArg Host.Outcome.next (State.laneRx_passes hp _), ?_, ?_, (State.rdB_congr hpeer 0).trans hpos,
    (State.rdB_congr hpeer 1).trans hknown, (State.rdB_congr hpeer 2).trans hsync, (State.rdB_congr hpeer 3).trans hlead,
    (State.rdF_congr hpeer 8 6).trans hnum, ?_, fun hv hne => ?_⟩
  · exact (u.rdB_takeHello h b (by omega) (by omega) (by omega)).trans (if_pos rfl)
  · refine (?_ : _ = (u.peerShown h b).peerUid).trans (u.peerUid_peerShown h b)
    unfold State.peerUid State.rd64
    rw [hlo, hhi]
  · rw [u.rdB_takeHello h b (by omega) (by decide) (by decide), if_neg (by omega), hp.2, State.laneSeq_incomplete]
  · rw [State.takeHello_changed hv hne]
    obtain ⟨hevt, hstandby⟩ := ((u.peerShown h b).laneHeard h.lane.val).peerChanged_spec
    exact ⟨hevt, fun hm => hstandby (((State.mode_laneHeard _ _).trans (State.mode_peerShown _ _ _)).trans hm)⟩

/-- A lane that was up goes down, alone. -/
theorem State.laneDown_spec (s : State) (l : Fin 2) (hup : s.laneUp l.val = true) : (s.laneDown l.val).now = s.now ∧
    (s.laneDown l.val).laneUp l.val = false ∧ (s.laneDown l.val).laneUp (1 - l.val) = s.laneUp (1 - l.val) ∧
    (s.laneDown l.val).rdB (twn 0 PG_EVT) 10 = true := by
  have hl := l.isLt
  have hdown : s.laneDown l.val = (s.wrB (twn 0 TWN_STAT) (8 + l.val) false).raiseTwn 10 := if_pos hup
  rw [hdown]
  unfold State.laneUp
  rw [State.rdB_raiseTwn_ne _ _ _ (by decide) (by decide), State.rdB_raiseTwn_ne _ _ _ (by decide) (by decide)]
  exact ⟨State.now_raiseTwn _ _, State.rdB_wrB_self _ _ _ (by omega), State.rdB_wrB_ne _ _ _ (by omega) (by omega),
    (State.rdB_raiseTwn _ _ (by decide)).trans rfl⟩

theorem twinLaneTimeout_spec (l : Fin 2) (s : State) (hon : s.twinOn = true) : let u := s.reachFrom (laneMark l.val) 3000000
    u.laneUp l.val = true → ∃ t, exec (.twinLaneTimeout l) s = .next t ∧ t.now = u.now ∧ t.laneUp l.val = false ∧
      t.laneUp (1 - l.val) = u.laneUp (1 - l.val) ∧ t.rdB (twn 0 PG_EVT) 10 = true :=
  fun hup => ⟨_, congrArg Host.Outcome.next (State.when_pos s hon _), State.laneDown_spec _ l hup⟩

/-! ## The lead's deltas (R326, R327) -/

theorem deltaSend_spec (s : State) (hon : s.twinOn = true) (hlead : s.lead = true) (hsend : s.pr.send ≠ []) :
    let u := if s.run then s.reachSt (s.rd (sch 0 SCH_ROW_ST) + 1000) else s
    ∃ t, exec .deltaSend s = .next t ∧ t.pr.send = [] ∧ t.out = (u.each (fun e v => v.sendDelta e) u.pr.send).out :=
  ⟨_, congrArg Host.Outcome.next (State.when_pos s (by simp [hon, hlead, hsend]) _), rfl, rfl⟩

theorem State.sendDelta_spec (e : Nat × Word × List LlRecord) (s : State) : let b := bodies e.2.2
    (s.deltaLate e.2.1 (laneNs (b.map recsSize ++ [0])) = true →
      s.sendDelta e = (s.sendLane e.1 e.2.1 true s.pr.sendDrill (.delta true [])).count (twn e.1 TWN_CNT_OVF)) ∧
    (s.deltaLate e.2.1 (laneNs (b.map recsSize ++ [0])) = false → s.sendDelta e =
      (s.each (fun c t => t.sendLane e.1 e.2.1 false s.pr.sendDrill (.delta false c)) b).sendLane e.1 e.2.1 false s.pr.sendDrill (.delta true [])) :=
  ⟨fun h => if_pos h, fun h => if_neg (by rw [h]; decide)⟩

/-- The first record of a list joins the first body or opens one. -/
theorem bodies_cons (r : LlRecord) (rs : List LlRecord) : (bodies rs = [] ∧ bodies (r :: rs) = [[r]]) ∨
    (∃ c cs, bodies rs = c :: cs ∧ recSize r + recsSize c ≤ 9100 ∧ bodies (r :: rs) = (r :: c) :: cs) ∨
    (∃ c cs, bodies rs = c :: cs ∧ bodies (r :: rs) = [r] :: c :: cs) := by
  rw [bodies]
  cases hb : bodies rs with
  | nil => exact .inl ⟨rfl, rfl⟩
  | cons c cs =>
    dsimp only
    split
    next h => exact .inr (.inl ⟨c, cs, rfl, h, rfl⟩)
    next => exact .inr (.inr ⟨c, cs, rfl, rfl⟩)

/-- The bodies hold the records in their order. -/
theorem bodies_flatten (l : List LlRecord) : (bodies l).flatten = l := by
  induction l with
  | nil => rfl
  | cons r rs ih =>
    rcases bodies_cons r rs with ⟨hb, h⟩ | ⟨c, cs, hb, -, h⟩ | ⟨c, cs, hb, h⟩
    · rw [h, ← ih, hb]; rfl
    · rw [h, ← ih, hb]; rfl
    · rw [h, ← ih, hb]; rfl

/-- No body is longer than a frame may be, where no record is. -/
theorem bodies_size (l : List LlRecord) (hl : ∀ r ∈ l, recSize r ≤ 9100) : ∀ b ∈ bodies l, recsSize b ≤ 9100 := by
  induction l with
  | nil => exact fun b hb => absurd hb (List.not_mem_nil)
  | cons r rs ih =>
    have hr : recsSize [r] ≤ 9100 := by simpa [recsSize] using hl r (List.mem_cons_self ..)
    have hrest := ih fun x hx => hl x (List.mem_cons_of_mem _ hx)
    rcases bodies_cons r rs with ⟨-, h⟩ | ⟨c, cs, hb, hfit, h⟩ | ⟨c, cs, hb, h⟩ <;> rw [h]
    · exact List.forall_mem_singleton.2 hr
    · rw [hb] at hrest
      exact List.forall_mem_cons.2 ⟨by simpa [recsSize] using hfit, (List.forall_mem_cons.1 hrest).2⟩
    · rw [hb] at hrest
      exact List.forall_mem_cons.2 ⟨hr, hrest⟩

/-! ## Records join their row's delta (R328) -/

/-- Whether a frame's sequence on its lane does not follow the one before. -/
def State.seqGap (s : State) (h : TwinHdr) : Bool :=
  match Assoc.get s.pr.rxSeq h.lane.val with
  | some q => decide (h.seq ≠ q + 1)
  | none => false

theorem State.laneSeq_skipped (h : TwinHdr) (s : State) (hs : s.pr.skipped.contains h.lane.val = false) :
    (s.laneSeq h).pr.skipped.contains h.lane.val = s.seqGap h := by
  have hpr : (s.laneSeq h).pr.skipped =
      if s.seqGap h && !s.pr.skipped.contains h.lane.val then h.lane.val :: s.pr.skipped else s.pr.skipped := rfl
  rw [hpr, hs]
  cases s.seqGap h with
  | true => exact List.contains_iff_mem.2 (List.mem_cons_self ..)
  | false => exact hs

/-! ## The boundary of a standby (R328, R329) -/

theorem State.discardDelta_sync (s : State) (r : Word) : (s.discardDelta r).sync = 0 := State.sync_setSync _ (by decide)

theorem State.deltaBoundary_spec (r : Word) (s : State) (hm : s.mode = .standby) :
    (s.deltaWhole (r - 2) = true → s.deltaBoundary r = s.commitDelta (r - 2)) ∧
    (s.deltaWhole (r - 2) = false → s.pr.deltas.any (·.row == r - 2) = true → (s.discardDelta (r - 2)).sync = 0 ∧
      s.deltaBoundary r = (s.discardDelta (r - 2)).ageLifeline) := by
  unfold State.deltaBoundary
  dsimp only
  rw [if_neg (by simp [hm])]
  refine ⟨fun h => if_pos h, fun h hany => ⟨s.discardDelta_sync _, ?_⟩⟩
  rw [if_neg (by rw [h]; decide), if_pos hany]

/-- The records of a row's delta are taken, and its lanes counted. -/
def State.recordsTaken (s : State) (row : Word) : State :=
  s.each (fun e u => (u.each (fun r v => v.takeRecord e.lane r) e.records).count (twn e.lane TWN_CNT_DELTA)) (s.pr.deltas.filter (·.row == row))

/-- The row of a delta shows, and the lifeline is not aged. -/
def State.rowShown (s : State) (row : Word) : State := (s.wr (twn 0 TWN_LL_ROW) row).wrB (twn 0 TWN_STAT) 7 true

/-- A row's delta has gone, before an end of the resync is judged. -/
def State.deltaGone (s : State) (row : Word) : State :=
  { s with pr := { s.pr with deltas := s.pr.deltas.filter (·.row != row), aged := 0 } }

/-- A row's delta is committed, but for the end of a resync. -/
def State.rowCommitted (s : State) (row : Word) : State := ((s.recordsTaken row).rowShown row).deltaGone row

/-- The resync has ended. -/
def State.resyncEnded (s : State) : State :=
  let w := s.setSync 2
  { w with pr := { w.pr with ends := [], rsCtx := [] } }

theorem State.commitDelta_eq (s : State) (row : Word) : s.commitDelta row =
    if (s.rowCommitted row).sync == 1 && (s.rowCommitted row).sweptBy row then (s.rowCommitted row).resyncEnded else s.rowCommitted row := rfl

theorem State.rd_deltaGone (s : State) (row : Word) (a : Nat) : (s.deltaGone row).rd a = s.rd a := rfl

theorem State.rowShown_spec (s : State) (row : Word) : (s.rowShown row).rd (twn 0 TWN_LL_ROW) = row ∧ (s.rowShown row).llOk = true :=
  ⟨(State.rd_wrB_ne _ _ _ (by decide)).trans (State.rd_wr_self _ _ _), State.rdB_wrB_self _ _ _ (by decide)⟩

theorem State.rowCommitted_spec (s : State) (row : Word) : (s.rowCommitted row).rd (twn 0 TWN_LL_ROW) = row ∧ (s.rowCommitted row).llOk = true := by
  obtain ⟨hrow, hok⟩ := (s.recordsTaken row).rowShown_spec row
  exact ⟨(State.rd_deltaGone _ _ _).trans hrow, (State.rdB_congr (State.rd_deltaGone _ _ _) 7).trans hok⟩

/-- The row committed shows in TWN_LL_ROW, and the lifeline is not aged. -/
theorem State.commitDelta_spec (r : Word) (s : State) : (s.commitDelta r).rd (twn 0 TWN_LL_ROW) = r ∧ (s.commitDelta r).llOk = true := by
  obtain ⟨hrow, hok⟩ := s.rowCommitted_spec r
  rw [State.commitDelta_eq]
  split
  · exact ⟨(State.rd_setSync_ne _ 2 (by decide) (by decide) (by decide)).trans hrow, (State.rdB_setSync _ 2 (by decide) (by decide)).trans hok⟩
  · exact ⟨hrow, hok⟩

/-! ## Records leave what a resync's end is judged by (R330) -/

/-- From `s` to `t` neither TWN_STAT nor the rows that lanes have named nor the part have changed. -/
structure KeepsResync (s t : State) : Prop where
  stat : t.rd (twn 0 TWN_STAT) = s.rd (twn 0 TWN_STAT)
  ends : t.pr.ends = s.pr.ends
  part : t.part = s.part

namespace ChangesOnly

variable {s0 s : State}

theorem setInfo (h : ChangesOnly dataPages s0 s) (d c : Nat) (i : CtxInfo) : ChangesOnly dataPages s0 (s.setInfo d c i) := h.of_regs rfl

theorem turnFront (h : ChangesOnly dataPages s0 s) (d c : Nat) : ChangesOnly dataPages s0 (s.turnFront d c) :=
  h.of_keeps (State.turnFront_keeps (Sub.refl _) (Keeps.refl _ s) d c) rfl

/-- A context that takes a flip shows it on the page of the dataset engine only. -/
theorem flipOne (h : ChangesOnly dataPages s0 s) (d c : Nat) (null : Option (BitVec 5)) : ChangesOnly dataPages s0 (s.flipOne d c null) := by
  cases null with
  | none => exact (((h.turnFront d c).setInfo d c _).refresh d c).notify d c 0
  | some r => exact (h.setInfo d c _).refresh d c

theorem flipMirror (h : ChangesOnly dataPages s0 s) (d c : Nat) (null : Option (BitVec 5)) : ChangesOnly dataPages s0 (s.flipMirror d c null) := by
  unfold State.flipMirror
  cases s.mirrorOf d c with
  | none => exact h
  | some m =>
    have hdata := ite (null.isNone = true) (h.of_keeps (State.setTbs_keeps (Sub.refl _) (Keeps.refl _ s) (s.bufAddr (1 - d) m (1 - s.ctxFront (1 - d) m))
      (s.tbs (s.bufAddr d c (s.ctxFront d c)) (8 + s.ctxLen d c))) rfl) h
    have hage := hdata.of_keeps (State.setTwF_keeps (Sub.refl _) (Keeps.refl _ _) (ctxWord (1 - d) m 3) 0 16 0) rfl
    have hlost : ChangesOnly dataPages s0 (s.count (dsk d DSK_CNT_XDIE)) := ite _ h (h.wrDsk d _ (by decide))
    exact ite _ (hage.flipOne (1 - d) m null) (hlost.raiseDsk d 7)

end ChangesOnly

namespace KeepsResync

variable {s0 s t : State}

theorem refl (s : State) : KeepsResync s s := ⟨rfl, rfl, rfl⟩

theorem trans {u : State} (h : KeepsResync s t) (k : KeepsResync t u) : KeepsResync s u :=
  ⟨k.stat.trans h.stat, k.ends.trans h.ends, k.part.trans h.part⟩

theorem of_pages {l : List Nat} {w : Nat} (h : ChangesOnly l s t) (k : Keeps w s t) (hl : 0x1C0 ∉ l) (hw : w.testBit 15 = false) : KeepsResync s t :=
  ⟨h _ hl, congrArg Twin.ends (k.pr hw), k.part⟩

theorem wr (s : State) {a : Nat} (v : Word) (h : a ≠ twn 0 TWN_STAT) : KeepsResync s (s.wr a v) := ⟨State.rd_wr_ne _ _ h, rfl, rfl⟩

theorem count (s : State) {a : Nat} (h : a ≠ twn 0 TWN_STAT) : KeepsResync s (s.count a) :=
  ⟨State.rd_count_ne s h, congrArg Twin.ends (s.pr_count a), (State.count_keeps (Sub.refl _) (Keeps.refl _ s) a).part⟩

theorem each {α : Type} (s : State) {f : α → State → State} (hf : ∀ x t, KeepsResync t (f x t)) (l : List α) : KeepsResync s (s.each f l) := by
  induction l generalizing s with
  | nil => exact refl s
  | cons x xs ih => exact (hf x s).trans (ih (f x s))

end KeepsResync

namespace KeepsResync

variable {s0 s t : State}

theorem of_keeps {w : Nat} (k : Keeps w s t) (hregs : w.testBit 2 = false) (hpr : w.testBit 15 = false) : KeepsResync s t :=
  of_pages (l := []) ((ChangesOnly.refl _ s).of_keeps k hregs) k (List.not_mem_nil) hpr

theorem flipOne (s : State) (d c : Nat) (null : Option (BitVec 5)) : KeepsResync s (s.flipOne d c null) :=
  of_pages ((ChangesOnly.refl _ s).flipOne d c null) (State.flipOne_keeps (Sub.refl _) (Keeps.refl _ s) d c null) (by decide) rfl

theorem flipMirror (s : State) (d c : Nat) (null : Option (BitVec 5)) : KeepsResync s (s.flipMirror d c null) :=
  of_pages ((ChangesOnly.refl _ s).flipMirror d c null) (State.flipMirror_keeps (Sub.refl _) (Keeps.refl _ s) d c null) (by decide) rfl

/-- An image is written to its context, and of the pair only the contexts of the sweep change. -/
theorem takeImage (s : State) (d : Nat) (x : Strand) : KeepsResync s (s.takeImage d x) := by
  unfold State.takeImage
  split
  · exact refl s
  next c _ =>
    split
    · exact refl s
    · have hclr : KeepsResync s { s with pr := { s.pr with rsCtx := s.pr.rsCtx.filter (· ≠ (d, c)) } } := ⟨rfl, rfl, rfl⟩
      generalize ({ s with pr := { s.pr with rsCtx := s.pr.rsCtx.filter (· ≠ (d, c)) } } : State) = clr at hclr ⊢
      have hdata : KeepsResync clr (if x.state = 1 then clr.setTbs (clr.bufAddr d c (1 - clr.ctxFront d c)) (strandBytes x) else clr) := by
        split
        · exact of_keeps (State.setTbs_keeps (Sub.refl _) (Keeps.refl _ clr) _ _) rfl rfl
        · exact refl clr
      have hage := hdata.trans (of_keeps (State.setTwF_keeps (Sub.refl _) (Keeps.refl _ _) (ctxWord d c 3) 0 16 (min (x.age.toNat + 2) 0xFFFF)) rfl rfl)
      exact ((hclr.trans hage).trans (flipOne _ d c _)).trans (flipMirror _ d c _)

theorem takeSeq (s : State) (d k i : Nat) (v : Word) : KeepsResync s (s.takeSeq d k i v) := by
  unfold State.takeSeq
  split
  · exact ⟨rfl, rfl, rfl⟩
  · split <;> exact ⟨rfl, rfl, rfl⟩

theorem fwd_ne_stat (d : Nat) {o : Nat} (h : o < 0x1000) : fwd d o ≠ twn 0 TWN_STAT := by
  have hd := dieBase_cases d
  have ht : twn 0 TWN_STAT = 0x1C0048 := by decide
  rw [ht]; unfold fwd; omega

theorem evalTables (s : State) (d : Nat) : KeepsResync s (s.evalTables d) := by
  have hw : ∀ t o v, o < 0x1000 → KeepsResync t (t.wr (fwd d o) v) := fun t o v ho => wr t v (fwd_ne_stat d ho)
  exact (((hw _ FWD_DIR_STAT _ (by decide)).trans (hw _ FWD_DIR_STAT _ (by decide))).trans (hw _ FWD_XLT_STAT _ (by decide))).trans
    (hw _ FWD_XLT_STAT _ (by decide))

theorem takeEnt (s : State) (d t i : Nat) (data : List Word) : KeepsResync s (s.takeEnt d t i data) := by
  unfold State.takeEnt
  split
  · exact refl s
  · exact (of_keeps (State.setTws_keeps (Sub.refl _) (Keeps.refl _ s) _ _) rfl rfl).trans (evalTables _ d)

/-- The lifeline's view of a domain lies on the TWN page, beside TWN_STAT. -/
theorem twnReg_ne_stat {d o : Nat} (h : o ≠ TWN_STAT) (ho : o < 0x1000) : twn d o ≠ twn 0 TWN_STAT := by
  have hd := dieBase_cases d
  have ht : twn 0 TWN_STAT = 0x1C0048 := by decide
  have hs : TWN_STAT = 0x48 := rfl
  rw [ht]; unfold twn; omega

theorem takeRecord (s : State) (d : Nat) (r : LlRecord) : KeepsResync s (s.takeRecord d r) := by
  cases r with
  | image x => exact takeImage s d x
  | seq k i v => exact takeSeq s d k.val i v
  | entry t i data => exact takeEnt s d t.toNat i data
  | pair num nums topo dir next stm d0 d1 =>
    exact ((((wr s dir (by decide)).trans (wr _ next (by decide))).trans (wr _ stm (by decide))).trans (wr _ d0 (by decide))).trans
      (wr _ d1 (by decide))
  | servo k lo hi rr sl =>
    have hk := k.isLt
    have hw : ∀ t o v, 0x80 ≤ o → o < 0xA0 → KeepsResync t (t.wr (twn 0 o) v) := fun t o v h1 h2 =>
      wr t v (twnReg_ne_stat (by show o ≠ 0x48; omega) (by omega))
    exact (((hw s (TWN_LL_TENS_LO k.val) lo (by show _ ≤ 0x80 + _; omega) (by show 0x80 + _ < _; omega)).trans
      (hw _ (TWN_LL_TENS_HI k.val) hi (by show _ ≤ 0x84 + _; omega) (by show 0x84 + _ < _; omega))).trans
      (hw _ (TWN_LL_RR k.val) rr (by show _ ≤ 0x88 + _; omega) (by show 0x88 + _ < _; omega))).trans
      (hw _ (TWN_LL_SLAVE k.val) sl (by show _ ≤ 0x8C + _; omega) (by show 0x8C + _ < _; omega))
  | bulk o data => exact refl s

theorem recordsTaken (s : State) (row : Word) : KeepsResync s (s.recordsTaken row) := by
  unfold State.recordsTaken
  refine each s (fun e t => ?_) _
  exact (each t (fun r u => takeRecord u e.lane r) e.records).trans (count _ (twnReg_ne_stat (o := TWN_CNT_DELTA) (by decide) (by decide)))

/-- Lanes and their rows, and so whether the resync ends, stay. -/
theorem sweptBy (h : KeepsResync s t) (row : Word) : t.sweptBy row = s.sweptBy row := by
  unfold State.sweptBy State.lanes
  rw [h.ends, h.part]

end KeepsResync

/-! ## The end of a resync (R330) -/

theorem State.rowCommitted_sync (s : State) (row : Word) : (s.rowCommitted row).sync = s.sync := by
  have hshown : ((s.recordsTaken row).rowShown row).sync = (s.recordsTaken row).sync :=
    (State.rdF_wrB_apart _ _ _ (by decide) (by decide)).trans (State.rdF_wr_ne _ _ _ _ (by decide))
  exact hshown.trans (State.rdF_congr (KeepsResync.recordsTaken s row).stat 4 2)

theorem State.rowCommitted_sweptBy (s : State) (row r : Word) : (s.rowCommitted row).sweptBy r = s.sweptBy r :=
  (KeepsResync.recordsTaken s row).sweptBy r

/-- Every lane has named the row: the resync ends with it. -/
theorem State.sweptBy_named {s : State} {r : Word} (h : ∀ l ∈ s.lanes, Assoc.get s.pr.ends l = some r) : s.sweptBy r = true := by
  unfold State.sweptBy
  refine List.all_eq_true.2 fun l hl => ?_
  rw [h l hl]
  simp

/-- Some lane has named no row: the resync goes on. -/
theorem State.sweptBy_open {s : State} {r : Word} (h : ∃ l ∈ s.lanes, Assoc.get s.pr.ends l = none) : s.sweptBy r = false := by
  obtain ⟨l, hl, hnone⟩ := h
  unfold State.sweptBy
  refine List.all_eq_false.2 ⟨l, hl, ?_⟩
  rw [hnone]
  exact Bool.false_ne_true

theorem State.commitDelta_sync (r : Word) (s : State) (hs : s.sync = 1) :
    ((∀ l ∈ s.lanes, Assoc.get s.pr.ends l = some r) → (s.commitDelta r).sync = 2) ∧
    ((∃ l ∈ s.lanes, Assoc.get s.pr.ends l = none) → (s.commitDelta r).sync = 1) := by
  have hsync : (s.rowCommitted r).sync = 1 := (s.rowCommitted_sync r).trans hs
  rw [State.commitDelta_eq, s.rowCommitted_sweptBy]
  refine ⟨fun h => ?_, fun h => ?_⟩
  · rw [if_pos (by rw [hsync, State.sweptBy_named h]; rfl)]
    exact State.sync_setSync _ (by decide)
  · rw [if_neg (by simp [State.sweptBy_open h])]
    exact hsync

/-! ## The sweep of a resync (R330) -/

theorem State.lanes_congr {s t : State} (h : t.part = s.part) : t.lanes = s.lanes := by unfold State.lanes; rw [h]

/-- The lead has told the standby that a sweep begins. -/
def State.sweepAnnounced (s : State) : State :=
  s.each (fun l u => u.sendLane l u.row false false (.resync (.start (wordOf (sweepTotal l))))) s.lanes

theorem State.part_sweepAnnounced (s : State) : s.sweepAnnounced.part = s.part :=
  (State.each_keeps (w := 0x2008104) rfl (Keeps.refl _ s) _ (fun l _ ht => State.sendLane_keeps (Sub.refl _) ht l _ false false _) _).part

/-- The KiB that the sweep covers. -/
def State.sweepKib (s : State) : Nat := s.lanes.foldl (fun n l => n + sweepTotal l) 0

theorem State.sweepKib_eq (s : State) : s.sweepKib = if s.part.twoDies then 12464 else 6288 := by
  unfold State.sweepKib State.lanes
  split <;> rfl

/-- The progress shows the KiB to come and none that has gone. -/
def State.progReset (s : State) : State := s.wr (twn 0 TWN_RS_PROG) (wordOf (s.sweepKib * 65536))

/-- Every lane's sweep is at its first chunk. -/
def State.sweepQueued (s : State) : State :=
  { s with pr := { s.pr with sweep := s.lanes.map fun l => (l, 0), pace := s.lanes.map fun l => (l, s.now) } }

theorem State.startSweep_eq (s : State) : s.startSweep = s.sweepAnnounced.progReset.sweepQueued := rfl

theorem State.sweepQueued_spec (s : State) : s.sweepQueued.pr.sweep = s.lanes.map (fun l => (l, 0)) ∧ ∀ a, s.sweepQueued.rd a = s.rd a :=
  ⟨rfl, fun _ => rfl⟩

theorem State.startSweep_spec (s : State) : s.startSweep.pr.sweep = s.lanes.map (fun l => (l, 0)) ∧
    s.startSweep.rdF (twn 0 TWN_RS_PROG) 0 16 = 0 ∧
    s.startSweep.rdF (twn 0 TWN_RS_PROG) 16 16 = (if s.part.twoDies then 12464 else 6288) := by
  obtain ⟨hsweep, hrd⟩ := s.sweepAnnounced.progReset.sweepQueued_spec
  have hlanes : s.sweepAnnounced.progReset.lanes = s.lanes := State.lanes_congr ((State.wr_part _ _ _).trans s.part_sweepAnnounced)
  have hprog : s.startSweep.rd (twn 0 TWN_RS_PROG) = wordOf ((if s.part.twoDies then 12464 else 6288) * 65536) := by
    rw [State.startSweep_eq, hrd, State.progReset, State.rd_wr_self, State.sweepKib_eq, s.part_sweepAnnounced]
  refine ⟨?_, ?_, ?_⟩
  · rw [State.startSweep_eq, hsweep, hlanes]
  · rw [State.rdF, hprog]
    split <;> decide
  · rw [State.rdF, hprog]
    split <;> decide

theorem resyncReqRx_spec (h : TwinHdr) (u s : State) (hp : s.twinPasses h u) (hlead : u.lead = true) :
    ∃ t, exec (.resyncReqRx h) s = .next t ∧ t.pr.sweep = u.lanes.map (fun l => (l, 0)) ∧
    t.rdF (twn 0 TWN_RS_PROG) 0 16 = 0 ∧ t.rdF (twn 0 TWN_RS_PROG) 16 16 = (if u.part.twoDies then 12464 else 6288) :=
  ⟨_, congrArg Host.Outcome.next ((State.laneRx_passes hp _).trans (State.when_pos u hlead _)), u.startSweep_spec⟩

theorem State.nextChunk_eq {s : State} {l k : Nat} (h : Assoc.get s.pr.sweep l = some k) : s.nextChunk l = chunkIn (sweepAreas l) k := by
  unfold State.nextChunk
  rw [h, Option.bind_some]

/-- A chunk of the sweep leaves its lane. -/
def State.chunkOut (s : State) (l o : Nat) : State :=
  s.sendLane l s.row false false (.resync (.data [.bulk o (s.tws (win l o) 2048)]))

/-- The next chunk of a lane may leave at the pace of `s`. -/
def State.chunkPaced (u s : State) (l : Nat) : State :=
  { u with pr := { u.pr with sweep := Assoc.put u.pr.sweep l (((Assoc.get u.pr.sweep l).getD 0) + 1)
                             pace := Assoc.put u.pr.pace l (s.now + s.paceNs) } }

/-- The sweep of a lane goes on behind a chunk of 8 KiB. -/
def State.chunkNoted (u s : State) (l : Nat) : State :=
  (u.chunkPaced s l).wrF (twn 0 TWN_RS_PROG) 0 16 (u.rdF (twn 0 TWN_RS_PROG) 0 16 + 8)

theorem State.chunkPaced_spec (u s : State) (l : Nat) : (u.chunkPaced s l).out = u.out ∧
    Assoc.get (u.chunkPaced s l).pr.sweep l = some (((Assoc.get u.pr.sweep l).getD 0) + 1) ∧
    Assoc.get (u.chunkPaced s l).pr.pace l = some (s.now + s.paceNs) :=
  ⟨rfl, (Assoc.get_put _ _ _ _).trans (if_pos rfl), (Assoc.get_put _ _ _ _).trans (if_pos rfl)⟩

theorem resyncDataSend_eq {l : Fin 2} {o k : Nat} {s : State} (hon : s.twinOn = true) (hlead : s.lead = true)
    (hk : Assoc.get s.pr.sweep l.val = some k) (ho : chunkIn (sweepAreas l.val) k = some o) :
    exec (.resyncDataSend l) s = .next (((s.reachPace l.val).chunkOut l.val o).chunkNoted (s.reachPace l.val) l.val) := by
  show Host.Outcome.next _ = _
  rw [(State.nextChunk_eq hk).trans ho]
  exact congrArg Host.Outcome.next (State.when_pos s (by rw [hon, hlead]; rfl) _)

/-- The frames that leave do not show in the progress. -/
theorem State.rdF_prog_sendLane (s : State) (l : Nat) (row : Word) (o d : Bool) (f : TwinFrame) :
    (s.sendLane l row o d f).rdF (twn 0 TWN_RS_PROG) 0 16 = s.rdF (twn 0 TWN_RS_PROG) 0 16 :=
  State.rdF_congr (s.sendLane_changes l row o d f _ (by decide)) 0 16

theorem State.chunkNoted_spec (s : State) (l o : Nat) : let t := (s.chunkOut l o).chunkNoted s l
    t.out = (s.chunkOut l o).out ∧ Assoc.get t.pr.sweep l = some (((Assoc.get s.pr.sweep l).getD 0) + 1) ∧
      Assoc.get t.pr.pace l = some (s.now + s.paceNs) ∧
      t.rdF (twn 0 TWN_RS_PROG) 0 16 = (s.rdF (twn 0 TWN_RS_PROG) 0 16 + 8) % 65536 := by
  have hsweep : (s.chunkOut l o).pr.sweep = s.pr.sweep := (s.pr_sendLane l _ false false _).1
  have hprog : (s.chunkOut l o).rdF (twn 0 TWN_RS_PROG) 0 16 = s.rdF (twn 0 TWN_RS_PROG) 0 16 := s.rdF_prog_sendLane l _ false false _
  obtain ⟨hout, hnext, hpace⟩ := (s.chunkOut l o).chunkPaced_spec s l
  unfold State.chunkNoted
  dsimp only
  rw [State.wrF_out, State.wrF_pr, hout, hnext, hpace, hsweep, State.rdF_wrF_self _ _ _ _ _ (by decide), hprog]
  exact ⟨rfl, rfl, rfl, rfl⟩

theorem resyncDataSend_spec (l : Fin 2) (o k : Nat) (s : State) (hon : s.twinOn = true) (hlead : s.lead = true)
    (hk : Assoc.get s.pr.sweep l.val = some k) (ho : chunkIn (sweepAreas l.val) k = some o) :
    let u := s.reachAt ((Assoc.get s.pr.pace l.val).getD 0)
    ∃ t, exec (.resyncDataSend l) s = .next t ∧ t.out = (u.sendLane l.val u.row false false (.resync (.data [.bulk o (u.tws (win l.val o) 2048)]))).out ∧
      Assoc.get t.pr.sweep l.val = some (((Assoc.get u.pr.sweep l.val).getD 0) + 1) ∧ Assoc.get t.pr.pace l.val = some (u.now + u.paceNs) ∧
      t.rdF (twn 0 TWN_RS_PROG) 0 16 = (u.rdF (twn 0 TWN_RS_PROG) 0 16 + 8) % 65536 :=
  ⟨_, resyncDataSend_eq hon hlead hk ho, (s.reachPace l.val).chunkNoted_spec l.val o⟩

/-- The lead names the row in which a lane's sweep ended. -/
def State.endOut (s : State) (l : Nat) : State := s.sendLane l s.row false false (.resync (.endRow s.row))

/-- A lane's sweep is over. -/
def State.sweepDone (s : State) (l : Nat) : State := { s with pr := { s.pr with sweep := Assoc.del s.pr.sweep l } }

theorem resyncEndSend_eq {l : Fin 2} {k : Nat} {s : State} (hon : s.twinOn = true) (hlead : s.lead = true)
    (hk : Assoc.get s.pr.sweep l.val = some k) (ho : chunkIn (sweepAreas l.val) k = none) :
    exec (.resyncEndSend l) s = .next (((s.reachPace l.val).endOut l.val).sweepDone l.val) := by
  have hdone : s.nextChunk l.val = none := (State.nextChunk_eq hk).trans ho
  exact congrArg Host.Outcome.next (State.when_pos s (by rw [hon, hlead, hk, hdone]; rfl) _)

theorem State.sweepDone_spec (s : State) (l : Nat) : (s.sweepDone l).out = s.out ∧ Assoc.get (s.sweepDone l).pr.sweep l = none := by
  refine ⟨rfl, ?_⟩
  show Assoc.get (Assoc.del _ _) _ = none
  rw [Assoc.get_del, if_pos rfl]

theorem resyncEndSend_spec (l : Fin 2) (k : Nat) (s : State) (hon : s.twinOn = true) (hlead : s.lead = true)
    (hk : Assoc.get s.pr.sweep l.val = some k) (ho : chunkIn (sweepAreas l.val) k = none) :
    let u := s.reachAt ((Assoc.get s.pr.pace l.val).getD 0)
    ∃ t, exec (.resyncEndSend l) s = .next t ∧ t.out = (u.sendLane l.val u.row false false (.resync (.endRow u.row))).out ∧
      Assoc.get t.pr.sweep l.val = none :=
  ⟨_, resyncEndSend_eq hon hlead hk ho, ((s.reachPace l.val).endOut l.val).sweepDone_spec l.val⟩

/-- A sweep that begins shows in SYNC and in the progress, and RESYNC no longer reads 1. -/
def State.sweepBegun (s : State) (k : Word) : State :=
  ((s.setSync 1).wr (twn 0 TWN_RS_PROG) ((if s.sync == 1 then s.rd (twn 0 TWN_RS_PROG) else 0) + k <<< 16)).wrB (twn 0 TWN_CTRL) 1 false

theorem State.rd_takeResync_start (s : State) (l : Nat) (k : Word) (a : Nat) : (s.takeResync l (.start k)).rd a = (s.sweepBegun k).rd a := by
  unfold State.takeResync State.sweepBegun
  dsimp only
  rw [State.rd_withPr]

/-- A standby that is told of a sweep is RESYNCING. -/
theorem State.takeResync_start (l : Nat) (k : Word) (s : State) : (s.takeResync l (.start k)).sync = 1 := by
  have hstat : (s.takeResync l (.start k)).rd (twn 0 TWN_STAT) = (s.setSync 1).rd (twn 0 TWN_STAT) := by
    rw [State.rd_takeResync_start]
    exact (State.rd_wrB_ne _ _ _ (by decide)).trans (State.rd_wr_ne _ _ (by decide))
  exact (State.rdF_congr hstat 4 2).trans (s.sync_setSync (by decide))

theorem State.takeResync_end (l : Nat) (r : Word) (s : State) (hs : s.sync = 1) : Assoc.get (s.takeResync l (.endRow r)).pr.ends l = some r := by
  unfold State.takeResync
  dsimp only
  rw [if_pos hs, Assoc.get_put, if_pos rfl]

/-- Settles O50, command by command. -/
theorem lifelineDeltasSentAndResynced : Obligations.LifelineDeltasSentAndResynced := by
  refine ⟨fun s hon => ?_, State.sendLane_out, fun h b s hon hl hup => ?_, twinHelloRx_spec, twinLaneTimeout_spec, deltaSend_spec,
    State.sendDelta_spec, fun l => ⟨bodies_flatten l, bodies_size l⟩, fun h b l u s hp hm => ?_, State.deltaBoundary_spec, State.commitDelta_spec,
    State.laneSeq_skipped, fun s hon hm hs hl hask => ?_, fun s ht => ?_, resyncReqRx_spec, resyncDataSend_spec, resyncEndSend_spec,
    fun h f u s hp hm => ?_, State.takeResync_start, State.takeResync_end, fun r s _ hs => State.commitDelta_sync r s hs⟩
  · exact congrArg Host.Outcome.next (State.when_pos s hon _)
  · exact ⟨fun he => congrArg Host.Outcome.next (State.laneRx_foreign he _),
      fun he hv => congrArg Host.Outcome.next (State.laneRx_unsafe hon hl hup he hv _)⟩
  · exact congrArg Host.Outcome.next ((State.laneRx_passes hp _).trans (State.when_pos u (by simp [hm]) _))
  · exact congrArg Host.Outcome.next (State.when_pos s (by rw [hon, hm, hs, hl]; rcases hask with h | h <;> simp [h]) _)
  · exact congrArg Host.Outcome.next (State.guarded_of_takes ht _)
  · exact congrArg Host.Outcome.next ((State.laneRx_passes hp _).trans (State.when_pos u (by simp [hm]) _))

end Sys2Proof.Machine
end
